-- ==== Sys2Proof/Word.lean ====
section
/-! DEFINITION. The word and byte types, and the sparse tables in which the state keeps numbered things. -/

namespace Sys2Proof

/-- A doubleword: an x register, a CSR, a virtual address (R3). -/
abbrev Word := BitVec 64

/-- A byte (R3). -/
abbrev Byte := BitVec 8

/-- A sparse table of numbered things: at most one entry per number once every write went through `Tab.set`. -/
abbrev Tab (α : Type) := List (Nat × α)

end Sys2Proof
end

