-- ==== Sys2Proof/Syntax.lean ====
section
/-! DEFINITION. The instructions and events of the VP940: one constructor of `Instr` per row of
spec/opcode_table.json, in the table's order. Hart instructions act on the hart that the state says is
executing; block instructions act on the firing that the sequencer selected; the remaining rows are the
steps of the other engines (spec/95) and act on the event that the state says is taking place. The rows with an
encoding come first, then the events, each in the table's order. -/

namespace Sys2Proof

/-- Form A of the A slot (R139): predicate mode, X bit, targets and MOD. -/
structure AForm where
  pm : BitVec 2
  x  : BitVec 1
  t0 : BitVec 9
  t1 : BitVec 9
  md : BitVec 3
  deriving DecidableEq, Repr, Inhabited

/-- Form AI of the A slot (R139). -/
structure IForm where
  pm  : BitVec 2
  t0  : BitVec 9
  imm : BitVec 13
  deriving DecidableEq, Repr, Inhabited

/-- Register form of the M slot (R140); `t1` is an instruction ID, to slot a (R138). -/
structure RForm where
  pm  : BitVec 2
  reg : BitVec 6
  t0  : BitVec 9
  t1  : BitVec 7
  deriving DecidableEq, Repr, Inhabited

/-- Memory form of the M slot (R140). -/
structure MForm where
  pm   : BitVec 2
  lsid : BitVec 5
  t0   : BitVec 9
  w    : BitVec 2
  off  : BitVec 6
  deriving DecidableEq, Repr, Inhabited

/-- Texture-ray form of the M slot (R140). -/
structure TForm where
  pm  : BitVec 2
  t0  : BitVec 9
  t1  : BitVec 9
  sub : BitVec 4
  deriving DecidableEq, Repr, Inhabited

/-- One constructor per row of spec/opcode_table.json. -/
inductive Instr where
  /-- VSETL (R102). -/
  | vsetl (rd rs1 : BitVec 5) (cfg : BitVec 12)
  /-- BX (R107). -/
  | bx (rs1 : BitVec 5)
  /-- BLOOP (R108). -/
  | bloop (rs1 rs2 : BitVec 5)
  /-- BWAIT (R109). -/
  | bwait
  /-- BRETRY (R110). -/
  | bretry
  /-- BKILL (R111). -/
  | bkill
  /-- SIGADD (R112). -/
  | sigadd (rd rs1 rs2 : BitVec 5)
  /-- SIGOR (R112). -/
  | sigor (rd rs1 rs2 : BitVec 5)
  /-- SIGWAIT (R112). -/
  | sigwait (rd rs1 rs2 : BitVec 5)
  /-- SIGWAITM (R112). -/
  | sigwaitm (rd rs1 rs2 : BitVec 5)
  /-- FENCE_S (R70). -/
  | fenceS (succ pred : BitVec 5) (scope : BitVec 3)
  /-- GBAR (R114). -/
  | gbar (g : BitVec 2)
  /-- CTXSAVE (R129). -/
  | ctxsave (rs1 : BitVec 5)
  /-- CTXLOAD (R130). -/
  | ctxload (rs1 : BitVec 5)
  /-- LGSET (R131). -/
  | lgset (rd rs1 rs2 : BitVec 5)
  /-- MENABLE (R309). -/
  | menable
  /-- MDISABLE (R310). -/
  | mdisable
  /-- MCLAIM (R307). -/
  | mclaim (rd : BitVec 5)
  /-- MREL (R308). -/
  | mrel
  /-- MZERO (R312). -/
  | mzero (t : BitVec 3)
  /-- MEDGE (R313). -/
  | medge (t : BitVec 3) (rs1 rs2 : BitVec 5)
  /-- MOP (R318). -/
  | mop (fmt : BitVec 3) (i32 : BitVec 1) (t : BitVec 3) (rs1 : BitVec 5)
  /-- MSTAT_STATUS (R319). -/
  | mstatStatus (rd rs1 : BitVec 5)
  /-- MSTAT_DRAIN (R319). -/
  | mstatDrain (rd rs1 : BitVec 5)
  /-- MSTAT_EDGE (R319). -/
  | mstatEdge (rd rs1 : BitVec 5)
  /-- CPY (R286). -/
  | cpy (rd rs1 rs2 rs3 : BitVec 5)
  /-- CPY2 (R286). -/
  | cpy2 (rd rs1 rs2 rs3 : BitVec 5)
  /-- CPYQ_STATE (R295). -/
  | cpyqState (rd rs1 rs2 : BitVec 5)
  /-- CPYQ_RETRY (R296). -/
  | cpyqRetry (rd rs1 rs2 : BitVec 5)
  /-- CPYQ_ABANDON (R297). -/
  | cpyqAbandon (rd rs1 rs2 : BitVec 5)
  /-- CPYQ_NEXT (R295). -/
  | cpyqNext (rd rs1 rs2 : BitVec 5)
  /-- CPYQ_FADDR (R295). -/
  | cpyqFaddr (rd rs1 rs2 : BitVec 5)
  /-- TQPUT (R367). -/
  | tqput (rd rs1 rs2 : BitVec 5)
  /-- TQPUT_LOOPBACK (R351). -/
  | tqputLoopback (rd rs1 rs2 : BitVec 5)
  /-- TQDEP (R369). -/
  | tqdep (rd rs1 rs2 : BitVec 5)
  /-- TQDEC (R370). -/
  | tqdec (rd rs1 : BitVec 5)
  /-- TQAT (R368). -/
  | tqat (rd rs1 rs2 rs3 : BitVec 5)
  /-- TKWAIT (R371). -/
  | tkwait (rd rs1 rs2 : BitVec 5)
  /-- TKDONE (R371). -/
  | tkdone (rd rs1 rs2 : BitVec 5)
  /-- TQDONE (R372). -/
  | tqdone
  /-- TQYIELD (R373). -/
  | tqyield (rs1 rs2 : BitVec 5)
  /-- TQSTAT_DEPTH (R374). -/
  | tqstatDepth (rd rs1 rs2 : BitVec 5)
  /-- TQSTAT_RUN (R374). -/
  | tqstatRun (rd rs1 rs2 : BitVec 5)
  /-- TQSTAT_STATE (R374). -/
  | tqstatState (rd rs1 rs2 : BitVec 5)
  /-- TQSTAT_PRIO (R374). -/
  | tqstatPrio (rd rs1 rs2 : BitVec 5)
  /-- TQSTAT_OVF (R374). -/
  | tqstatOvf (rd rs1 rs2 : BitVec 5)
  /-- TQSTAT_INST (R374). -/
  | tqstatInst (rd rs1 rs2 : BitVec 5)
  /-- TQSTAT_SLICE (R374). -/
  | tqstatSlice (rd rs1 rs2 : BitVec 5)
  /-- TQSTAT_GROUPS (R374). -/
  | tqstatGroups (rd rs1 rs2 : BitVec 5)
  /-- RPUB (R418). -/
  | rpub (rd rs1 : BitVec 5)
  /-- RACQ (R419). -/
  | racq (rd rs1 : BitVec 5) (k : BitVec 3)
  /-- RWIN_ABS (R420). -/
  | rwinAbs (rd rs1 rs2 : BitVec 5) (k : BitVec 3)
  /-- RWIN_LAG (R420). -/
  | rwinLag (rd rs1 rs2 : BitVec 5) (k : BitVec 3)
  /-- RVIEW_V (R421). -/
  | rviewV (rd rs1 rs2 : BitVec 5)
  /-- RVIEW_FLOOR (R421). -/
  | rviewFloor (rd rs1 rs2 : BitVec 5)
  /-- RVIEW_WORD0 (R421). -/
  | rviewWord0 (rd rs1 rs2 : BitVec 5)
  /-- RVIEW_WORD1 (R421). -/
  | rviewWord1 (rd rs1 rs2 : BitVec 5)
  /-- LDBW (R422). -/
  | ldbw (rd rs1 : BitVec 5) (k : BitVec 3)
  /-- NSEND (R453). -/
  | nsend (rd rs1 rs2 : BitVec 5)
  /-- NWRITE (R453). -/
  | nwrite (rd rs1 rs2 : BitVec 5)
  /-- NREAD (R453). -/
  | nread (rd rs1 rs2 : BitVec 5)
  /-- NFENCE (R454). -/
  | nfence (rd rs1 : BitVec 5)
  /-- NSTAT_STATE (R455). -/
  | nstatState (rd rs1 rs2 : BitVec 5)
  /-- NSTAT_NEXT (R455). -/
  | nstatNext (rd rs1 rs2 : BitVec 5)
  /-- NSTAT_PENDING (R455). -/
  | nstatPending (rd rs1 rs2 : BitVec 5)
  /-- NSTAT_CTVA (R455). -/
  | nstatCtva (rd rs1 rs2 : BitVec 5)
  /-- NSTAT_PTP (R455). -/
  | nstatPtp (rd rs1 rs2 : BitVec 5)
  /-- SFENCE_VMA (R434). -/
  | sfenceVma (rs1 rs2 : BitVec 5)
  /-- LR (R379). -/
  | lr (aq rl : Bool) (f3 : BitVec 3) (rd rs1 : BitVec 5)
  /-- SC (R379). -/
  | sc (aq rl : Bool) (f3 : BitVec 3) (rd rs1 rs2 : BitVec 5)
  /-- SCALAR_AMO (R475). -/
  | scalarAmo (f5 : BitVec 5) (aq rl : Bool) (f3 : BitVec 3) (rd rs1 rs2 : BitVec 5)
  /-- VCFG_WRITE (R88). -/
  | vcfgWrite (f3 : BitVec 3) (rd src : BitVec 5)
  /-- LANEMAP_WRITE (R93). -/
  | lanemapWrite (f3 : BitVec 3) (rd src : BitVec 5)
  /-- MCFG_WRITE (R302). -/
  | mcfgWrite (f3 : BitVec 3) (rd src : BitVec 5)
  /-- SATP_WRITE (R436). -/
  | satpWrite (f3 : BitVec 3) (rd src : BitVec 5)
  /-- CSR_WRITE (R5). -/
  | csrWrite (csr : BitVec 12) (f3 : BitVec 3) (rd src : BitVec 5)
  /-- ADD (R186). -/
  | add (a : AForm)
  /-- SUB (R186). -/
  | sub (a : AForm)
  /-- MUL (R186). -/
  | mul (a : AForm)
  /-- MULH (R187). -/
  | mulh (a : AForm)
  /-- DIV (R188). -/
  | div (a : AForm)
  /-- REM (R188). -/
  | rem (a : AForm)
  /-- AND (R189). -/
  | and (a : AForm)
  /-- OR (R189). -/
  | or (a : AForm)
  /-- XOR (R189). -/
  | xor (a : AForm)
  /-- ANDN (R189). -/
  | andn (a : AForm)
  /-- SLL (R190). -/
  | sll (a : AForm)
  /-- SRL (R190). -/
  | srl (a : AForm)
  /-- SRA (R190). -/
  | sra (a : AForm)
  /-- ROT (R190). -/
  | rot (a : AForm)
  /-- MIN (R191). -/
  | min (a : AForm)
  /-- MAX (R191). -/
  | max (a : AForm)
  /-- ABS (R191). -/
  | abs (a : AForm)
  /-- CLZ (R192). -/
  | clz (a : AForm)
  /-- CTZ (R192). -/
  | ctz (a : AForm)
  /-- POPC (R192). -/
  | popc (a : AForm)
  /-- CMP (R193). -/
  | cmp (a : AForm)
  /-- BFX (R194). -/
  | bfx (a : AForm)
  /-- BFI (R194). -/
  | bfi (a : AForm)
  /-- DOT4 (R195). -/
  | dot4 (a : AForm)
  /-- REDSUM (R199). -/
  | redsum (a : AForm)
  /-- REDMIN (R200). -/
  | redmin (a : AForm)
  /-- REDMAX (R200). -/
  | redmax (a : AForm)
  /-- REDAND (R200). -/
  | redand (a : AForm)
  /-- REDOR (R200). -/
  | redor (a : AForm)
  /-- PFX (R201). -/
  | pfx (a : AForm)
  /-- VCONF (R202). -/
  | vconf (a : AForm)
  /-- CMPR (R203). -/
  | cmpr (a : AForm)
  /-- PERM (R204). -/
  | perm (a : AForm)
  /-- SLIDE (R205). -/
  | slide (a : AForm)
  /-- BCAST (R206). -/
  | bcast (a : AForm)
  /-- FADD (R213). -/
  | fadd (a : AForm)
  /-- FSUB (R213). -/
  | fsub (a : AForm)
  /-- FMUL (R213). -/
  | fmul (a : AForm)
  /-- FMA (R214). -/
  | fma (a : AForm)
  /-- FDIV (R213). -/
  | fdiv (a : AForm)
  /-- FSQRT (R213). -/
  | fsqrt (a : AForm)
  /-- FMIN (R215). -/
  | fmin (a : AForm)
  /-- FMAX (R215). -/
  | fmax (a : AForm)
  /-- FSGNJ (R217). -/
  | fsgnj (a : AForm)
  /-- FCMP (R216). -/
  | fcmp (a : AForm)
  /-- FCLASS (R218). -/
  | fclass (a : AForm)
  /-- FRCP (R219). -/
  | frcp (a : AForm)
  /-- FRSQ (R219). -/
  | frsq (a : AForm)
  /-- FEX2 (R219). -/
  | fex2 (a : AForm)
  /-- FLG2 (R219). -/
  | flg2 (a : AForm)
  /-- FSIN (R219). -/
  | fsin (a : AForm)
  /-- FCOS (R219). -/
  | fcos (a : AForm)
  /-- FDOT2 (R220). -/
  | fdot2 (a : AForm)
  /-- FREDSUM (R221). -/
  | fredsum (a : AForm)
  /-- FREDMM (R222). -/
  | fredmm (a : AForm)
  /-- FWID (R223). -/
  | fwid (a : AForm)
  /-- FNAR (R223). -/
  | fnar (a : AForm)
  /-- FCVTD (R224). -/
  | fcvtd (a : AForm)
  /-- F2I (R225). -/
  | f2i (a : AForm)
  /-- I2F (R226). -/
  | i2f (a : AForm)
  /-- MXSCL (R228). -/
  | mxscl (a : AForm)
  /-- MXCVT (R229). -/
  | mxcvt (a : AForm)
  /-- MXEXP (R230). -/
  | mxexp (a : AForm)
  /-- PAND (R178). -/
  | pand (a : AForm)
  /-- POR (R178). -/
  | por (a : AForm)
  /-- PXOR (R178). -/
  | pxor (a : AForm)
  /-- PNOT (R178). -/
  | pnot (a : AForm)
  /-- PANDN (R178). -/
  | pandn (a : AForm)
  /-- PCNT (R179). -/
  | pcnt (a : AForm)
  /-- PFFS (R179). -/
  | pffs (a : AForm)
  /-- MOV (R175). -/
  | mov (a : AForm)
  /-- SEL (R176). -/
  | sel (a : AForm)
  /-- NUL (R177). -/
  | nul (a : AForm)
  /-- ADDI (R196). -/
  | addi (a : IForm)
  /-- ANDI (R196). -/
  | andi (a : IForm)
  /-- ORI (R196). -/
  | ori (a : IForm)
  /-- XORI (R196). -/
  | xori (a : IForm)
  /-- SLLI (R196). -/
  | slli (a : IForm)
  /-- SRLI (R196). -/
  | srli (a : IForm)
  /-- SRAI (R196). -/
  | srai (a : IForm)
  /-- MULI (R196). -/
  | muli (a : IForm)
  /-- CMPI (R197). -/
  | cmpi (a : IForm)
  /-- VGET (R171). -/
  | vget (r : RForm)
  /-- PGET (R171). -/
  | pget (r : RForm)
  /-- XGET (R171). -/
  | xget (r : RForm)
  /-- SGET (R171). -/
  | sget (r : RForm)
  /-- VPUT (R172). -/
  | vput (r : RForm)
  /-- PPUT (R172). -/
  | pput (r : RForm)
  /-- XPUT (R172). -/
  | xput (r : RForm)
  /-- CONST (R173). -/
  | const (r : RForm) (lit : BitVec 32)
  /-- IOTA (R174). -/
  | iota (r : RForm) (lit : BitVec 32)
  /-- LD (R239). -/
  | ld (m : MForm)
  /-- LD_LONE (R239). -/
  | ldLone (m : MForm) (lit : BitVec 32)
  /-- LDS (R239). -/
  | lds (m : MForm)
  /-- LDS_LONE (R239). -/
  | ldsLone (m : MForm) (lit : BitVec 32)
  /-- LDX (R239). -/
  | ldx (m : MForm)
  /-- LDX_LONE (R239). -/
  | ldxLone (m : MForm) (lit : BitVec 32)
  /-- LDB (R241). -/
  | ldb (m : MForm)
  /-- LDB_LONE (R241). -/
  | ldbLone (m : MForm) (lit : BitVec 32)
  /-- LDBX (R241). -/
  | ldbx (m : MForm)
  /-- LDBX_LONE (R241). -/
  | ldbxLone (m : MForm) (lit : BitVec 32)
  /-- ST (R240). -/
  | st (m : MForm)
  /-- ST_LONE (R240). -/
  | stLone (m : MForm) (lit : BitVec 32)
  /-- STS (R240). -/
  | sts (m : MForm)
  /-- STS_LONE (R240). -/
  | stsLone (m : MForm) (lit : BitVec 32)
  /-- STX (R240). -/
  | stx (m : MForm)
  /-- STX_LONE (R240). -/
  | stxLone (m : MForm) (lit : BitVec 32)
  /-- AMO (R242). -/
  | amo (m : MForm)
  /-- ACAS (R243). -/
  | acas (m : MForm)
  /-- TFL (R269). -/
  | tfl (t : TForm) (lit : BitVec 32)
  /-- TLD (R270). -/
  | tld (t : TForm) (lit : BitVec 32)
  /-- RBOX (R274). -/
  | rbox (t : TForm)
  /-- RTRI (R275). -/
  | rtri (t : TForm)
  /-- TSMV (R322). -/
  | tsmv (r : RForm)
  /-- TSLD (R323). -/
  | tsld (m : MForm)
  /-- TSST (R323). -/
  | tsst (m : MForm)
  /-- OST (R324). -/
  | ost (r : RForm)
  /-- SCALAR_LOAD (R81). -/
  | scalarLoad (fp : Bool) (f3 : BitVec 3) (rd rs1 : BitVec 5) (imm : BitVec 12)
  /-- SCALAR_STORE (R81). -/
  | scalarStore (fp : Bool) (f3 : BitVec 3) (rs1 rs2 : BitVec 5) (imm : BitVec 12)
  /-- FENCE (R63). -/
  | fence (fm pred succ : BitVec 4) (rd rs1 : BitVec 5)
  /-- FENCE_I (R376). -/
  | fenceI (imm : BitVec 12) (rd rs1 : BitVec 5)
  /-- WFI (R82). -/
  | wfi
  /-- CSR_READ (R5). -/
  | csrRead (csr : BitVec 12) (f3 : BitVec 3) (rd : BitVec 5)
  /-- ILLEGAL_INSTRUCTION (R85). -/
  | illegalInstruction (word : BitVec 32)
  /-- BLOCK_FETCH_DECODE (R143). -/
  | blockFetchDecode
  /-- LOAD_DATA_RETURN (R239). -/
  | loadDataReturn
  /-- BLOCK_COMMIT (R160). -/
  | blockCommit
  /-- BLOCK_FAULT (R162). -/
  | blockFault
  /-- BLOCK_TRAP_DELIVER (R118). -/
  | blockTrapDeliver
  /-- LANE_GRANT_REEVAL (R100). -/
  | laneGrantReeval
  /-- GRACE_EXPIRY (R122). -/
  | graceExpiry
  /-- COMMIT_WINDOW_EXPIRY (R122). -/
  | commitWindowExpiry
  /-- SAVE_COMPLETE (R124). -/
  | saveComplete
  /-- WATCHDOG_EXPIRY (R132). -/
  | watchdogExpiry
  /-- SAVETO_EXPIRY (R133). -/
  | savetoExpiry
  /-- RESUME (R128). -/
  | resume
  /-- WAIT_TIMEOUT (R112). -/
  | waitTimeout
  /-- SIGNAL_WAKE (R23). -/
  | signalWake
  /-- SIGNAL_POLL (R23). -/
  | signalPoll
  /-- GBAR_RELEASE (R114). -/
  | gbarRelease
  /-- MATRIX_CMD_RETIRE (R306). -/
  | matrixCmdRetire
  /-- COPY_CHUNK_EXECUTE (R281). -/
  | copyChunkExecute
  /-- CHUNK_LAND (R288). -/
  | chunkLand
  /-- TQE_DISPATCH (R342). -/
  | tqeDispatch
  /-- AGE_EXPIRY (R343). -/
  | ageExpiry
  /-- ALMANAC_TICK (R357). -/
  | almanacTick
  /-- DEP_DECREMENT (R360). -/
  | depDecrement
  /-- TICKET_ADVANCE (R361). -/
  | ticketAdvance
  /-- QUEUE_DESTROY_COMPLETE (R363). -/
  | queueDestroyComplete
  /-- GETS (R388). -/
  | gets
  /-- GETX (R388). -/
  | getx
  /-- UPG (R393). -/
  | upg
  /-- PUTS (R392). -/
  | puts
  /-- WBREQ (R391). -/
  | wbreq
  /-- WBDATA (R391). -/
  | wbdata
  /-- WRM (R388). -/
  | wrm
  /-- CLEAN (R388). -/
  | clean
  /-- AMO_REQUEST (R388). -/
  | amoRequest
  /-- RDU (R388). -/
  | rdu
  /-- IACK (R389). -/
  | iack
  /-- RDATA (R388). -/
  | rdata
  /-- DATA_S (R390). -/
  | dataS
  /-- DATA_E (R390). -/
  | dataE
  /-- GRANT_X (R390). -/
  | grantX
  /-- WRACK (R385). -/
  | wrack
  /-- AMOACK (R385). -/
  | amoack
  /-- INV (R390). -/
  | inv
  /-- RECALL (R390). -/
  | recall
  /-- DOWNGR (R390). -/
  | downgr
  /-- WBGO (R391). -/
  | wbgo
  /-- WBSTALE (R391). -/
  | wbstale
  /-- RESERVATION_TIMEOUT (R379). -/
  | reservationTimeout
  /-- LINK_ERROR (R396). -/
  | linkError
  /-- LINK_RETRAIN_FAIL (R396). -/
  | linkRetrainFail
  /-- SEVER (R397). -/
  | sever
  /-- REFETCH_REQUEST (R408). -/
  | refetchRequest
  /-- STALL_TIMEOUT (R408). -/
  | stallTimeout
  /-- REPLICA_UPDATE (R414). -/
  | replicaUpdate
  /-- REPLICA_ACK (R414). -/
  | replicaAck
  /-- ROUND_NOTICE (R415). -/
  | roundNotice
  /-- WALK_COMPLETE (R429). -/
  | walkComplete
  /-- ATS_INVALIDATE (R435). -/
  | atsInvalidate
  /-- PRG_RESPONSE (R437). -/
  | prgResponse
  /-- PRTO_EXPIRY (R437). -/
  | prtoExpiry
  /-- DRAIN_TIMEOUT (R438). -/
  | drainTimeout
  /-- NET_PACKET_RX (R457). -/
  | netPacketRx
  /-- NET_ACK (R461). -/
  | netAck
  /-- NET_NACK (R461). -/
  | netNack
  /-- NET_COMPLETION_ACK (R460). -/
  | netCompletionAck
  /-- NET_RETRANSMIT_TIMER (R461). -/
  | netRetransmitTimer
  /-- NET_TIMEOUT (R463). -/
  | netTimeout
  /-- NET_READ_REQUEST (R453). -/
  | netReadRequest
  /-- PTP_EVENT (R467). -/
  | ptpEvent
  /-- HOST_PUT (R477). -/
  | hostPut
  /-- PUT_RESULT_READ (R476). -/
  | putResultRead
  /-- HOST_BAR4_READ (R470). -/
  | hostBar4Read
  /-- HOST_BAR4_WRITE (R470). -/
  | hostBar4Write
  /-- HOST_ATOMICOP (R471). -/
  | hostAtomicop
  /-- SNPINV (R474). -/
  | snpinv
  /-- SNPDATA (R474). -/
  | snpdata
  /-- SNPCUR (R474). -/
  | snpcur
  /-- HOST_READ_COMPLETE (R474). -/
  | hostReadComplete
  /-- ATOMICOP_COMPLETION (R475). -/
  | atomicopCompletion
  /-- COMPLETION_TIMEOUT (R480). -/
  | completionTimeout
  /-- HOST_LINK_DOWN (R480). -/
  | hostLinkDown
  /-- GUEST_DONE (R488). -/
  | guestDone
  /-- GUEST_SAVED (R488). -/
  | guestSaved
  /-- GUEST_XREQ (R490). -/
  | guestXreq
  /-- GUEST_INVACK (R491). -/
  | guestInvack
  /-- GUEST_PSTOPACK (R496). -/
  | guestPstopack
  /-- GUEST_FIRE (R492). -/
  | guestFire
  /-- GUEST_SPDM (R484). -/
  | guestSpdm
  /-- GUEST_COH_REQUEST (R490). -/
  | guestCohRequest
  /-- GUEST_HOME_ANSWER (R494). -/
  | guestHomeAnswer
  /-- GUEST_DUTY_TIMEOUT (R495). -/
  | guestDutyTimeout
  /-- ATTEST_START (R484). -/
  | attestStart
  /-- ATTEST_TIMEOUT (R484). -/
  | attestTimeout
  /-- QCREATE (R332). -/
  | qcreate
  /-- QDESTROY (R363). -/
  | qdestroy
  /-- PBIND (R426). -/
  | pbind
  /-- PSTOP (R438). -/
  | pstop
  /-- INVAL (R435). -/
  | inval
  /-- WINEN (R12). -/
  | winen
  /-- WALLSET (R350). -/
  | wallset
  /-- RCREATE (R400). -/
  | rcreate
  /-- RDESTROY (R424). -/
  | rdestroy
  /-- EPCREATE (R445). -/
  | epcreate
  /-- EPDESTROY (R503). -/
  | epdestroy
  /-- PEERSET (R446). -/
  | peerset
  /-- NWINREG (R447). -/
  | nwinreg
  /-- HWINSET (R472). -/
  | hwinset
  /-- PTPSET (R467). -/
  | ptpset
  /-- GPOLICY (R485). -/
  | gpolicy
  /-- GGRANT (R484). -/
  | ggrant
  /-- SELFTEST (R514). -/
  | selftest
  /-- INFO (R503). -/
  | info
  /-- MEMINFO (R503). -/
  | meminfo
  /-- ECALL_SUBMIT (R504). -/
  | ecallSubmit
  /-- ECALL_POST (R504). -/
  | ecallPost
  /-- ECALL_REPORT (R504). -/
  | ecallReport
  /-- LANE_CHECK_FAIL (R512). -/
  | laneCheckFail
  /-- SELFTEST_DONE (R514). -/
  | selftestDone
  /-- PACKAGE_RESET (R508). -/
  | packageReset
  /-- DIERST (R517). -/
  | dierst
  /-- GSTRST (R517). -/
  | gstrst
  /-- PLIM_SET (R521). -/
  | plimSet
  /-- THERMAL_THROTTLE (R522). -/
  | thermalThrottle
  /-- THROTTLE_RECOVER (R522). -/
  | throttleRecover
  /-- THERMTRIP (R522). -/
  | thermtrip
  /-- INTERRUPT (R117). -/
  | interrupt
  /-- LLC_FILL (R388). -/
  | llcFill
  /-- DOORBELL (R501). -/
  | doorbell
  /-- PROTOCOL_ERROR (R497). -/
  | protocolError
  /-- SPDM_REQUEST (R520). -/
  | spdmRequest
  /-- HOST_PORT_RESET (R439). -/
  | hostPortReset
  /-- PROBE (R461). -/
  | probe
  deriving DecidableEq, Repr

end Sys2Proof
end

