-- ==== Sys2Proof/WellFormed.lean ====
section
/-! DEFINITION. Which terms of `Instr` an encoding of the spec admits: field values that an entry defines
(R84, R85, R139 to R142, R143's opcode row) and nothing else. Checks that need the whole block or its captured
state (targets, kinds, SEW) are made at block decode. -/

namespace Sys2Proof

/-- Form A: PM is not 0b11, X only where the entry takes it, MOD bits of `mdMask` zero (R139, R143, R183, R184, R211, R212); a
MOD code with fewer values is bounded beside it. -/
def AForm.legal (xOk : Bool) (mdMask : Nat) (a : AForm) : Bool :=
  a.pm != 3 && (xOk || a.x == 0) && a.md.toNat &&& mdMask == 0

/-- Form AI: PM is not 0b11 and the masked immediate bits are zero (R139, R196). -/
def IForm.legal (immMask : Nat) (a : IForm) : Bool :=
  a.pm != 3 && a.imm.toNat &&& immMask == 0

/-- Register form: PM is not 0b11 (R140, R143). -/
def RForm.legal (r : RForm) : Bool := r.pm != 3

/-- A put has no targets (R172, R324). -/
def RForm.noTargets (r : RForm) : Bool := r.t0 == 0 && r.t1 == 0

/-- Memory form: PM is not 0b11 (R140, R143). -/
def MForm.legal (m : MForm) : Bool := m.pm != 3

/-- `tsld` and `tsst`: bits [16:9] are zero and W is 0b10 (R323). -/
def MForm.tileLegal (m : MForm) : Bool := m.t0.extractLsb' 1 8 == 0 && m.w == 2

/-- Atomics are 32 or 64 bits wide (R233). -/
def MForm.atomLegal (m : MForm) : Bool := m.w == 2 || m.w == 3

/-- Texture-ray form: PM is not 0b11 (R140, R143). -/
def TForm.legal (t : TForm) : Bool := t.pm != 3

/-- The read-modify-write forms of the A and Zacas extensions that a hart implements (R79). -/
def amoLegal (f5 : BitVec 5) (f3 : BitVec 3) (rd rs2 : BitVec 5) : Bool :=
  if f5 == 0x05 then f3 == 2 || f3 == 3 || (f3 == 4 && rd &&& 1 == 0 && rs2 &&& 1 == 0)
  else (f5 == 0x00 || f5 == 0x01 || f5 == 0x04 || f5 == 0x08 || f5 == 0x0C || f5 == 0x10 || f5 == 0x14
    || f5 == 0x18 || f5 == 0x1C) && (f3 == 2 || f3 == 3)

/-- A CSR instruction that writes: CSRRW and CSRRWI always, the set and clear forms when their source is not 0. -/
def csrWriteLegal (f3 : BitVec 3) (src : BitVec 5) : Bool :=
  f3 == 1 || f3 == 5 || ((f3 == 2 || f3 == 3 || f3 == 6 || f3 == 7) && src != 0)

/-- Custom-opcode rows (R84, R85), part 1: must-match bits and their value. -/
def customRows0 : List (BitVec 32 × BitVec 32) :=
  [(0x0000707F, 0x0000000B),
   (0xFFF07FFF, 0x0000100B),
   (0xFE007FFF, 0x0200100B),
   (0xFFFFFFFF, 0x0400100B),
   (0xFFFFFFFF, 0x0600100B),
   (0xFFFFFFFF, 0x0800100B),
   (0xFE00707F, 0x0000200B),
   (0xFE00707F, 0x0200200B),
   (0xFE00707F, 0x0400200B),
   (0xFE00707F, 0x0600200B),
   (0xFE007C7F, 0x0000300B),
   (0xFFCFFFFF, 0x0000400B),
   (0xFFF07FFF, 0x0000500B),
   (0xFFF07FFF, 0x0200500B),
   (0xFE00707F, 0x0400500B),
   (0xFFFFFFFF, 0x0000002B)]

/-- Custom-opcode rows (R84, R85), part 2: must-match bits and their value. -/
def customRows1 : List (BitVec 32 × BitVec 32) :=
  [(0xFFFFFFFF, 0x0000102B),
   (0xFFFFF07F, 0x0000202B),
   (0xFFFFFFFF, 0x0000302B),
   (0xFFFFFC7F, 0x0000402B),
   (0xFE007C7F, 0x0000502B),
   (0x0FF07C7F, 0x0000602B),
   (0xFFF0707F, 0x0000702B),
   (0x0600707F, 0x0000005B),
   (0x0600707F, 0x0000105B),
   (0xFE00707F, 0x0000205B),
   (0xFE00707F, 0x0000305B),
   (0xFE00707F, 0x0000405B),
   (0xFFF0707F, 0x0200405B),
   (0x0600707F, 0x0000505B),
   (0xFE00707F, 0x0000605B),
   (0xFE00707F, 0x0200605B)]

/-- Custom-opcode rows (R84, R85), part 3: must-match bits and their value. -/
def customRows2 : List (BitVec 32 × BitVec 32) :=
  [(0xFFFFFFFF, 0x0000705B),
   (0xFE007FFF, 0x0200705B),
   (0xFE00707F, 0x0400705B),
   (0xFFF0707F, 0x0000007B),
   (0xFF80707F, 0x0000107B),
   (0xF000707F, 0x0000207B),
   (0xF000707F, 0x1000207B),
   (0xFE00707F, 0x0000307B),
   (0xF1F0707F, 0x0000407B),
   (0xFE00707F, 0x0000507B),
   (0xFE00707F, 0x0200507B),
   (0xFE00707F, 0x0400507B),
   (0xFFF0707F, 0x0000607B),
   (0xFE00707F, 0x0000707B)]

/-- The encodings that the four custom opcodes define (R84): every other word of them is illegal (R85). -/
def customRows : List (BitVec 32 × BitVec 32) :=
  customRows0 ++ customRows1 ++ customRows2

/-- One of the four custom major opcodes (R84). -/
def isCustom (w : BitVec 32) : Bool :=
  let o := w.extractLsb' 0 7
  o == 0x0B || o == 0x2B || o == 0x5B || o == 0x7B

/-- A custom-opcode word that no entry admits (R85); `fence.s` also bounds its scope (R69). -/
def illegalLegal (w : BitVec 32) : Bool :=
  isCustom w && !(customRows.any fun r =>
    w &&& r.1 == r.2 && (r.2 != 0x0000300B || decide ((w.extractLsb' 7 3).toNat ≤ 4)))

/-- The instructions an encoding admits; an event, which has no encoding, is always admitted. -/
def Instr.wf : Instr → Bool
  | .vsetl _ _ _ => true
  | .bx _ => true
  | .bloop _ _ => true
  | .bwait => true
  | .bretry => true
  | .bkill => true
  | .sigadd _ _ _ => true
  | .sigor _ _ _ => true
  | .sigwait _ _ _ => true
  | .sigwaitm _ _ _ => true
  | .fenceS _ _ scope => decide (scope.toNat ≤ 4)
  | .gbar _ => true
  | .ctxsave _ => true
  | .ctxload _ => true
  | .lgset _ _ _ => true
  | .menable => true
  | .mdisable => true
  | .mclaim _ => true
  | .mrel => true
  | .mzero _ => true
  | .medge _ _ _ => true
  | .mop _ _ _ _ => true
  | .mstatStatus _ _ => true
  | .mstatDrain _ _ => true
  | .mstatEdge _ _ => true
  | .cpy _ _ _ _ => true
  | .cpy2 _ _ _ _ => true
  | .cpyqState _ _ _ => true
  | .cpyqRetry _ _ _ => true
  | .cpyqAbandon _ _ _ => true
  | .cpyqNext _ _ _ => true
  | .cpyqFaddr _ _ _ => true
  | .tqput _ _ _ => true
  | .tqputLoopback _ _ _ => true
  | .tqdep _ _ _ => true
  | .tqdec _ _ => true
  | .tqat _ _ _ _ => true
  | .tkwait _ _ _ => true
  | .tkdone _ _ _ => true
  | .tqdone => true
  | .tqyield _ _ => true
  | .tqstatDepth _ _ _ => true
  | .tqstatRun _ _ _ => true
  | .tqstatState _ _ _ => true
  | .tqstatPrio _ _ _ => true
  | .tqstatOvf _ _ _ => true
  | .tqstatInst _ _ _ => true
  | .tqstatSlice _ _ _ => true
  | .tqstatGroups _ _ _ => true
  | .rpub _ _ => true
  | .racq _ _ _ => true
  | .rwinAbs _ _ _ _ => true
  | .rwinLag _ _ _ _ => true
  | .rviewV _ _ _ => true
  | .rviewFloor _ _ _ => true
  | .rviewWord0 _ _ _ => true
  | .rviewWord1 _ _ _ => true
  | .ldbw _ _ _ => true
  | .nsend _ _ _ => true
  | .nwrite _ _ _ => true
  | .nread _ _ _ => true
  | .nfence _ _ => true
  | .nstatState _ _ _ => true
  | .nstatNext _ _ _ => true
  | .nstatPending _ _ _ => true
  | .nstatCtva _ _ _ => true
  | .nstatPtp _ _ _ => true
  | .sfenceVma _ _ => true
  | .lr _ _ f3 _ _ => f3 == 2 || f3 == 3
  | .sc _ _ f3 _ _ _ => f3 == 2 || f3 == 3
  | .scalarAmo f5 _ _ f3 rd _ rs2 => amoLegal f5 f3 rd rs2
  | .vcfgWrite f3 _ src => csrWriteLegal f3 src
  | .lanemapWrite f3 _ src => csrWriteLegal f3 src
  | .mcfgWrite f3 _ src => csrWriteLegal f3 src
  | .satpWrite f3 _ src => csrWriteLegal f3 src
  | .csrWrite csr f3 _ src => csrWriteLegal f3 src && !(csr == 0x800 || csr == 0x5C5 || csr == 0x808 || csr == 0x180)
  | .add a => a.legal true 4
  | .sub a => a.legal true 4
  | .mul a => a.legal true 4
  | .mulh a => a.legal false 4 && a.md != 3
  | .div a => a.legal true 6
  | .rem a => a.legal true 6
  | .and a => a.legal false 7
  | .or a => a.legal false 7
  | .xor a => a.legal false 7
  | .andn a => a.legal false 7
  | .sll a => a.legal false 7
  | .srl a => a.legal false 7
  | .sra a => a.legal false 7
  | .rot a => a.legal false 6
  | .min a => a.legal false 6
  | .max a => a.legal false 6
  | .abs a => a.legal true 6
  | .clz a => a.legal false 7
  | .ctz a => a.legal false 7
  | .popc a => a.legal false 7
  | .cmp a => a.legal false 0 && decide (a.md.toNat ≤ 5)
  | .bfx a => a.legal false 6
  | .bfi a => a.legal false 7
  | .dot4 a => a.legal true 0 && a.md.extractLsb' 0 2 != 3
  | .redsum a => a.legal true 4
  | .redmin a => a.legal false 6
  | .redmax a => a.legal false 6
  | .redand a => a.legal false 7
  | .redor a => a.legal false 7
  | .pfx a => a.legal false 6
  | .vconf a => a.legal false 6
  | .cmpr a => a.legal false 7
  | .perm a => a.legal false 7
  | .slide a => a.legal false 6
  | .bcast a => a.legal false 6
  | .fadd a => a.legal true 3
  | .fsub a => a.legal true 3
  | .fmul a => a.legal true 3
  | .fma a => a.legal true 0
  | .fdiv a => a.legal true 3
  | .fsqrt a => a.legal true 3
  | .fmin a => a.legal true 3
  | .fmax a => a.legal true 3
  | .fsgnj a => a.legal false 4 && a.md != 3
  | .fcmp a => a.legal true 0 && decide (a.md.toNat ≤ 4)
  | .fclass a => a.legal false 3
  | .frcp a => a.legal true 3
  | .frsq a => a.legal true 3
  | .fex2 a => a.legal true 3
  | .flg2 a => a.legal true 3
  | .fsin a => a.legal true 3
  | .fcos a => a.legal true 3
  | .fdot2 a => a.legal true 3
  | .fredsum a => a.legal true 3
  | .fredmm a => a.legal true 2
  | .fwid a => a.legal true 3
  | .fnar a => a.legal true 3
  | .fcvtd a => a.legal true 6
  | .f2i a => a.legal true 2
  | .i2f a => a.legal true 2
  | .mxscl a => a.legal false 0 && decide (2 ≤ a.md.toNat)
  | .mxcvt a => a.legal true 0
  | .mxexp a => a.legal true 0 && decide (2 ≤ a.md.toNat)
  | .pand a => a.legal false 7
  | .por a => a.legal false 7
  | .pxor a => a.legal false 7
  | .pnot a => a.legal false 7
  | .pandn a => a.legal false 7
  | .pcnt a => a.legal false 7
  | .pffs a => a.legal false 7
  | .mov a => a.legal false 7
  | .sel a => a.legal false 7
  | .nul a => a.legal false 6
  | .addi a => a.legal 0
  | .andi a => a.legal 0
  | .ori a => a.legal 0
  | .xori a => a.legal 0
  | .slli a => a.legal 8128
  | .srli a => a.legal 8128
  | .srai a => a.legal 8128
  | .muli a => a.legal 0
  | .cmpi a => a.legal 0 && decide ((a.imm.extractLsb' 10 3).toNat ≤ 5)
  | .vget r => r.legal && decide (r.reg.toNat ≤ 31)
  | .pget r => r.legal
  | .xget r => r.legal && decide (r.reg.toNat ≤ 31)
  | .sget r => r.legal && decide (r.reg.toNat ≤ 2)
  | .vput r => r.legal && decide (r.reg.toNat ≤ 31) && r.noTargets
  | .pput r => r.legal && r.noTargets
  | .xput r => r.legal && decide (r.reg.toNat ≤ 31) && r.noTargets
  | .const r _ => r.legal && decide (r.reg.toNat ≤ 2)
  | .iota r _ => r.legal && decide (r.reg.toNat ≤ 1)
  | .ld m => m.legal
  | .ldLone m _ => m.legal && m.off == 0
  | .lds m => m.legal
  | .ldsLone m _ => m.legal && m.off == 0
  | .ldx m => m.legal
  | .ldxLone m _ => m.legal && m.off == 0
  | .ldb m => m.legal
  | .ldbLone m _ => m.legal && m.off == 0
  | .ldbx m => m.legal
  | .ldbxLone m _ => m.legal && m.off == 0
  | .st m => m.legal && m.t0 == 0
  | .stLone m _ => m.legal && m.t0 == 0 && m.off == 0
  | .sts m => m.legal && m.t0 == 0
  | .stsLone m _ => m.legal && m.t0 == 0 && m.off == 0
  | .stx m => m.legal && m.t0 == 0
  | .stxLone m _ => m.legal && m.t0 == 0 && m.off == 0
  | .amo m => m.legal && m.atomLegal && decide (m.off.toNat ≤ 9) && (m.off != 9 || m.w == 2)
  | .acas m => m.legal && m.atomLegal
  | .tfl t lit => t.legal && decide (t.sub.toNat < 6) && lit.extractLsb' 28 4 == 0
  | .tld t lit => t.legal && decide (t.sub.toNat < 6) && t.sub.extractLsb' 0 1 == 0 && lit.extractLsb' 4 28 == 0
  | .rbox t => t.legal && t.sub == 0
  | .rtri t => t.legal && t.sub.extractLsb' 0 2 != 3 && t.sub.extractLsb' 2 2 != 3
  | .tsmv r => r.legal && decide (r.reg.toNat ≤ 1)
  | .tsld m => m.legal && m.tileLegal
  | .tsst m => m.legal && m.tileLegal
  | .ost r => r.legal && decide (r.reg.toNat ≤ 31) && r.noTargets
  | .scalarLoad fp f3 _ _ _ => if fp then f3 == 2 || f3 == 3 else f3 != 7
  | .scalarStore fp f3 _ _ _ => if fp then f3 == 2 || f3 == 3 else decide (f3.toNat ≤ 3)
  | .fence _ _ _ _ _ => true
  | .fenceI _ _ _ => true
  | .wfi => true
  | .csrRead _ f3 _ => f3 == 2 || f3 == 3 || f3 == 6 || f3 == 7
  | .illegalInstruction word => illegalLegal word
  | .blockFetchDecode => true
  | .loadDataReturn => true
  | .blockCommit => true
  | .blockFault => true
  | .blockTrapDeliver => true
  | .laneGrantReeval => true
  | .graceExpiry => true
  | .commitWindowExpiry => true
  | .saveComplete => true
  | .watchdogExpiry => true
  | .savetoExpiry => true
  | .resume => true
  | .waitTimeout => true
  | .signalWake => true
  | .signalPoll => true
  | .gbarRelease => true
  | .matrixCmdRetire => true
  | .copyChunkExecute => true
  | .chunkLand => true
  | .tqeDispatch => true
  | .ageExpiry => true
  | .almanacTick => true
  | .depDecrement => true
  | .ticketAdvance => true
  | .queueDestroyComplete => true
  | .gets => true
  | .getx => true
  | .upg => true
  | .puts => true
  | .wbreq => true
  | .wbdata => true
  | .wrm => true
  | .clean => true
  | .amoRequest => true
  | .rdu => true
  | .iack => true
  | .rdata => true
  | .dataS => true
  | .dataE => true
  | .grantX => true
  | .wrack => true
  | .amoack => true
  | .inv => true
  | .recall => true
  | .downgr => true
  | .wbgo => true
  | .wbstale => true
  | .reservationTimeout => true
  | .linkError => true
  | .linkRetrainFail => true
  | .sever => true
  | .refetchRequest => true
  | .stallTimeout => true
  | .replicaUpdate => true
  | .replicaAck => true
  | .roundNotice => true
  | .walkComplete => true
  | .atsInvalidate => true
  | .prgResponse => true
  | .prtoExpiry => true
  | .drainTimeout => true
  | .netPacketRx => true
  | .netAck => true
  | .netNack => true
  | .netCompletionAck => true
  | .netRetransmitTimer => true
  | .netTimeout => true
  | .netReadRequest => true
  | .ptpEvent => true
  | .hostPut => true
  | .putResultRead => true
  | .hostBar4Read => true
  | .hostBar4Write => true
  | .hostAtomicop => true
  | .snpinv => true
  | .snpdata => true
  | .snpcur => true
  | .hostReadComplete => true
  | .atomicopCompletion => true
  | .completionTimeout => true
  | .hostLinkDown => true
  | .guestDone => true
  | .guestSaved => true
  | .guestXreq => true
  | .guestInvack => true
  | .guestPstopack => true
  | .guestFire => true
  | .guestSpdm => true
  | .guestCohRequest => true
  | .guestHomeAnswer => true
  | .guestDutyTimeout => true
  | .attestStart => true
  | .attestTimeout => true
  | .qcreate => true
  | .qdestroy => true
  | .pbind => true
  | .pstop => true
  | .inval => true
  | .winen => true
  | .wallset => true
  | .rcreate => true
  | .rdestroy => true
  | .epcreate => true
  | .epdestroy => true
  | .peerset => true
  | .nwinreg => true
  | .hwinset => true
  | .ptpset => true
  | .gpolicy => true
  | .ggrant => true
  | .selftest => true
  | .info => true
  | .meminfo => true
  | .ecallSubmit => true
  | .ecallPost => true
  | .ecallReport => true
  | .laneCheckFail => true
  | .selftestDone => true
  | .packageReset => true
  | .dierst => true
  | .gstrst => true
  | .plimSet => true
  | .thermalThrottle => true
  | .throttleRecover => true
  | .thermtrip => true
  | .interrupt => true
  | .llcFill => true
  | .doorbell => true
  | .protocolError => true
  | .spdmRequest => true
  | .hostPortReset => true
  | .probe => true

end Sys2Proof
end

