-- ==== Sys2Proof/Decode.lean ====
section
/-! DEFINITION. From words to instructions and back. A hart word is decoded by `decodeHart` (R84, R85 and the
standard RISC-V formats of R79), a block's slots by `decodeA` and `decodeM` (R139 to R142). `encode` is written
from the same encoding tables. -/

namespace Sys2Proof

/-! ### Hart words -/

/-- R-type word. -/
def rWord (f7 : BitVec 7) (rs2 rs1 : BitVec 5) (f3 : BitVec 3) (rd : BitVec 5) (opc : BitVec 7) : BitVec 32 :=
  f7 ++ rs2 ++ rs1 ++ f3 ++ rd ++ opc

/-- I-type word. -/
def iWord (imm : BitVec 12) (rs1 : BitVec 5) (f3 : BitVec 3) (rd : BitVec 5) (opc : BitVec 7) : BitVec 32 :=
  imm ++ rs1 ++ f3 ++ rd ++ opc

/-- Custom-0 (0x0B): the core-control instructions (R69, R84). -/
def decodeCustom0 (w : BitVec 32) : Option Instr :=
  let rd := w.extractLsb' 7 5
  let rs1 := w.extractLsb' 15 5
  let rs2 := w.extractLsb' 20 5
  let f7 := w.extractLsb' 25 7
  let f3 := w.extractLsb' 12 3
  if f3 == 0 then some (.vsetl rd rs1 (w.extractLsb' 20 12))
  else if f3 == 1 then
    if rd != 0 then none
    else if f7 == 0 && rs2 == 0 then some (.bx rs1)
    else if f7 == 1 then some (.bloop rs1 rs2)
    else if rs2 != 0 || rs1 != 0 then none
    else if f7 == 2 then some .bwait
    else if f7 == 3 then some .bretry
    else if f7 == 4 then some .bkill
    else none
  else if f3 == 2 then
    if f7 == 0 then some (.sigadd rd rs1 rs2)
    else if f7 == 1 then some (.sigor rd rs1 rs2)
    else if f7 == 2 then some (.sigwait rd rs1 rs2)
    else if f7 == 3 then some (.sigwaitm rd rs1 rs2)
    else none
  else if f3 == 3 then
    if f7 == 0 && w.extractLsb' 10 2 == 0 && decide ((w.extractLsb' 7 3).toNat ≤ 4) then
      some (.fenceS rs2 rs1 (w.extractLsb' 7 3))
    else none
  else if f3 == 4 then
    if w.extractLsb' 22 10 == 0 && rs1 == 0 && rd == 0 then some (.gbar (w.extractLsb' 20 2)) else none
  else if f3 == 5 then
    if f7 == 0 && rs2 == 0 && rd == 0 then some (.ctxsave rs1)
    else if f7 == 1 && rs2 == 0 && rd == 0 then some (.ctxload rs1)
    else if f7 == 2 then some (.lgset rd rs1 rs2)
    else none
  else none

/-- Custom-1 (0x2B): the matrix instructions (R304). `mstat` words give their first row, MSTAT_STATUS; the
row that runs is chosen by the operand (`Machine.selectRow`). -/
def decodeCustom1 (w : BitVec 32) : Option Instr :=
  let rd := w.extractLsb' 7 5
  let rs1 := w.extractLsb' 15 5
  let rs2 := w.extractLsb' 20 5
  let f7 := w.extractLsb' 25 7
  let f3 := w.extractLsb' 12 3
  let t := w.extractLsb' 7 3
  let tz := w.extractLsb' 10 2 == 0
  if f3 == 0 then if f7 == 0 && rs2 == 0 && rs1 == 0 && rd == 0 then some .menable else none
  else if f3 == 1 then if f7 == 0 && rs2 == 0 && rs1 == 0 && rd == 0 then some .mdisable else none
  else if f3 == 2 then if f7 == 0 && rs2 == 0 && rs1 == 0 then some (.mclaim rd) else none
  else if f3 == 3 then if f7 == 0 && rs2 == 0 && rs1 == 0 && rd == 0 then some .mrel else none
  else if f3 == 4 then if f7 == 0 && rs2 == 0 && rs1 == 0 && tz then some (.mzero t) else none
  else if f3 == 5 then if f7 == 0 && tz then some (.medge t rs1 rs2) else none
  else if f3 == 6 then
    if w.extractLsb' 20 8 == 0 && tz then some (.mop (w.extractLsb' 29 3) (w.extractLsb' 28 1) t rs1) else none
  else if f7 == 0 && rs2 == 0 then some (.mstatStatus rd rs1) else none

/-- Custom-2 (0x5B): copies and the task queue engine (R84). -/
def decodeCustom2 (w : BitVec 32) : Option Instr :=
  let rd := w.extractLsb' 7 5
  let rs1 := w.extractLsb' 15 5
  let rs2 := w.extractLsb' 20 5
  let rs3 := w.extractLsb' 27 5
  let f7 := w.extractLsb' 25 7
  let f3 := w.extractLsb' 12 3
  let q := w.extractLsb' 25 2 == 0
  if f3 == 0 then if q then some (.cpy rd rs1 rs2 rs3) else none
  else if f3 == 1 then if q then some (.cpy2 rd rs1 rs2 rs3) else none
  else if f3 == 2 then if f7 == 0 then some (.cpyqState rd rs1 rs2) else none
  else if f3 == 3 then if f7 == 0 then some (.tqput rd rs1 rs2) else none
  else if f3 == 4 then
    if f7 == 0 then some (.tqdep rd rs1 rs2)
    else if f7 == 1 && rs2 == 0 then some (.tqdec rd rs1) else none
  else if f3 == 5 then if q then some (.tqat rd rs1 rs2 rs3) else none
  else if f3 == 6 then
    if f7 == 0 then some (.tkwait rd rs1 rs2)
    else if f7 == 1 then some (.tkdone rd rs1 rs2) else none
  else if f7 == 0 then if rs2 == 0 && rs1 == 0 && rd == 0 then some .tqdone else none
  else if f7 == 1 then if rd == 0 then some (.tqyield rs1 rs2) else none
  else if f7 == 2 then some (.tqstatDepth rd rs1 rs2) else none

/-- Custom-3 (0x7B): rounds and the network (R84). -/
def decodeCustom3 (w : BitVec 32) : Option Instr :=
  let rd := w.extractLsb' 7 5
  let rs1 := w.extractLsb' 15 5
  let rs2 := w.extractLsb' 20 5
  let f7 := w.extractLsb' 25 7
  let f3 := w.extractLsb' 12 3
  let k := w.extractLsb' 25 3
  let top := w.extractLsb' 28 4
  if f3 == 0 then if f7 == 0 && rs2 == 0 then some (.rpub rd rs1) else none
  else if f3 == 1 then if w.extractLsb' 23 9 == 0 then some (.racq rd rs1 (w.extractLsb' 20 3)) else none
  else if f3 == 2 then
    if top == 0 then some (.rwinAbs rd rs1 rs2 k) else if top == 1 then some (.rwinLag rd rs1 rs2 k) else none
  else if f3 == 3 then if f7 == 0 then some (.rviewV rd rs1 rs2) else none
  else if f3 == 4 then if top == 0 && rs2 == 0 then some (.ldbw rd rs1 k) else none
  else if f3 == 5 then
    if f7 == 0 then some (.nsend rd rs1 rs2)
    else if f7 == 1 then some (.nwrite rd rs1 rs2)
    else if f7 == 2 then some (.nread rd rs1 rs2) else none
  else if f3 == 6 then if f7 == 0 && rs2 == 0 then some (.nfence rd rs1) else none
  else if f7 == 0 then some (.nstatState rd rs1 rs2) else none

/-- The standard RISC-V words that have a row: system, CSR, memory, atomic and fence words. Words of the base
integer, floating-point and privileged-return instructions have no row and give `none`. -/
def decodeStd (w : BitVec 32) : Option Instr :=
  let opc := w.extractLsb' 0 7
  let rd := w.extractLsb' 7 5
  let rs1 := w.extractLsb' 15 5
  let rs2 := w.extractLsb' 20 5
  let f7 := w.extractLsb' 25 7
  let f3 := w.extractLsb' 12 3
  let f5 := w.extractLsb' 27 5
  let imm := w.extractLsb' 20 12
  if opc == 0x73 then
    if f3 == 0 then
      if w == 0x00000073 then some .ecallSubmit
      else if w == 0x10500073 then some .wfi
      else if f7 == 0x09 && rd == 0 then some (.sfenceVma rs1 rs2)
      else none
    else if f3 == 4 then none
    else if csrWriteLegal f3 rs1 then
      if imm == 0x800 then some (.vcfgWrite f3 rd rs1)
      else if imm == 0x5C5 then some (.lanemapWrite f3 rd rs1)
      else if imm == 0x808 then some (.mcfgWrite f3 rd rs1)
      else if imm == 0x180 then some (.satpWrite f3 rd rs1)
      else some (.csrWrite imm f3 rd rs1)
    else some (.csrRead imm f3 rd)
  else if opc == 0x03 then if f3 != 7 then some (.scalarLoad false f3 rd rs1 imm) else none
  else if opc == 0x07 then if f3 == 2 || f3 == 3 then some (.scalarLoad true f3 rd rs1 imm) else none
  else if opc == 0x23 then
    if decide (f3.toNat ≤ 3) then some (.scalarStore false f3 rs1 rs2 (f7 ++ rd)) else none
  else if opc == 0x27 then
    if f3 == 2 || f3 == 3 then some (.scalarStore true f3 rs1 rs2 (f7 ++ rd)) else none
  else if opc == 0x0F then
    if f3 == 0 then some (.fence (w.extractLsb' 28 4) (w.extractLsb' 24 4) (w.extractLsb' 20 4) rd rs1)
    else if f3 == 1 then some (.fenceI imm rd rs1)
    else none
  else if opc == 0x2F then
    let aq := w.extractLsb' 26 1 == 1
    let rl := w.extractLsb' 25 1 == 1
    if f5 == 2 then if rs2 == 0 && (f3 == 2 || f3 == 3) then some (.lr aq rl f3 rd rs1) else none
    else if f5 == 3 then if f3 == 2 || f3 == 3 then some (.sc aq rl f3 rd rs1 rs2) else none
    else if amoLegal f5 f3 rd rs2 then some (.scalarAmo f5 aq rl f3 rd rs1 rs2) else none
  else none

/-- A 32-bit hart word; a word of the four custom opcodes that no entry admits is ILLEGAL_INSTRUCTION (R85), a
standard word without a row is `none`. -/
def decodeHart (w : BitVec 32) : Option Instr :=
  let opc := w.extractLsb' 0 7
  if opc == 0x0B then some ((decodeCustom0 w).getD (.illegalInstruction w))
  else if opc == 0x2B then some ((decodeCustom1 w).getD (.illegalInstruction w))
  else if opc == 0x5B then some ((decodeCustom2 w).getD (.illegalInstruction w))
  else if opc == 0x7B then some ((decodeCustom3 w).getD (.illegalInstruction w))
  else decodeStd w

/-! ### Block words -/

/-- Form A word (R139). -/
def AForm.word (a : AForm) (opc : BitVec 8) : BitVec 32 := opc ++ a.pm ++ a.x ++ a.t0 ++ a.t1 ++ a.md

/-- Form AI word (R139). -/
def IForm.word (a : IForm) (opc : BitVec 8) : BitVec 32 := opc ++ a.pm ++ a.t0 ++ a.imm

/-- Register-form word (R140). -/
def RForm.word (r : RForm) (l : BitVec 1) (opc : BitVec 7) : BitVec 32 := l ++ opc ++ r.pm ++ r.reg ++ r.t0 ++ r.t1

/-- Memory-form word (R140). -/
def MForm.word (m : MForm) (l : BitVec 1) (opc : BitVec 7) : BitVec 32 :=
  l ++ opc ++ m.pm ++ m.lsid ++ m.t0 ++ m.w ++ m.off

/-- Texture-ray-form word (R140). -/
def TForm.word (t : TForm) (l : BitVec 1) (opc : BitVec 7) : BitVec 32 := l ++ opc ++ t.pm ++ t.t0 ++ t.t1 ++ t.sub

/-- The fields of form A (R139). -/
def AForm.ofWord (w : BitVec 32) : AForm :=
  ⟨w.extractLsb' 22 2, w.extractLsb' 21 1, w.extractLsb' 12 9, w.extractLsb' 3 9, w.extractLsb' 0 3⟩

/-- The fields of form AI (R139). -/
def IForm.ofWord (w : BitVec 32) : IForm := ⟨w.extractLsb' 22 2, w.extractLsb' 13 9, w.extractLsb' 0 13⟩

/-- The fields of the register form (R140). -/
def RForm.ofWord (w : BitVec 32) : RForm :=
  ⟨w.extractLsb' 22 2, w.extractLsb' 16 6, w.extractLsb' 7 9, w.extractLsb' 0 7⟩

/-- The fields of the memory form (R140). -/
def MForm.ofWord (w : BitVec 32) : MForm :=
  ⟨w.extractLsb' 22 2, w.extractLsb' 17 5, w.extractLsb' 8 9, w.extractLsb' 6 2, w.extractLsb' 0 6⟩

/-- The fields of the texture-ray form (R140). -/
def TForm.ofWord (w : BitVec 32) : TForm :=
  ⟨w.extractLsb' 22 2, w.extractLsb' 13 9, w.extractLsb' 4 9, w.extractLsb' 0 4⟩

/-- A-slot opcodes of form A (R141), part 1. -/
def aRows0 : List (Nat × (AForm → Instr)) :=
  [(0x00, .add), (0x01, .sub), (0x02, .mul), (0x03, .mulh), (0x04, .div), (0x05, .rem), (0x06, .and), (0x07, .or), (0x08, .xor), (0x09, .andn), (0x0A, .sll), (0x0B, .srl), (0x0C, .sra), (0x0D, .rot), (0x0E, .min), (0x0F, .max), (0x10, .abs), (0x11, .clz), (0x12, .ctz), (0x13, .popc)]

/-- A-slot opcodes of form A (R141), part 2. -/
def aRows1 : List (Nat × (AForm → Instr)) :=
  [(0x14, .cmp), (0x15, .bfx), (0x16, .bfi), (0x17, .dot4), (0x20, .redsum), (0x21, .redmin), (0x22, .redmax), (0x23, .redand), (0x24, .redor), (0x25, .pfx), (0x26, .vconf), (0x27, .cmpr), (0x28, .perm), (0x29, .slide), (0x2A, .bcast), (0x40, .fadd), (0x41, .fsub), (0x42, .fmul), (0x43, .fma), (0x44, .fdiv)]

/-- A-slot opcodes of form A (R141), part 3. -/
def aRows2 : List (Nat × (AForm → Instr)) :=
  [(0x45, .fsqrt), (0x46, .fmin), (0x47, .fmax), (0x48, .fsgnj), (0x49, .fcmp), (0x4A, .fclass), (0x4B, .frcp), (0x4C, .frsq), (0x4D, .fex2), (0x4E, .flg2), (0x4F, .fsin), (0x50, .fcos), (0x51, .fdot2), (0x52, .fredsum), (0x53, .fredmm), (0x60, .fwid), (0x61, .fnar), (0x62, .fcvtd), (0x63, .f2i), (0x64, .i2f)]

/-- A-slot opcodes of form A (R141), part 4. -/
def aRows3 : List (Nat × (AForm → Instr)) :=
  [(0x65, .mxscl), (0x66, .mxcvt), (0x67, .mxexp), (0x70, .pand), (0x71, .por), (0x72, .pxor), (0x73, .pnot), (0x74, .pandn), (0x75, .pcnt), (0x76, .pffs), (0x80, .mov), (0x81, .sel), (0x82, .nul)]

/-- A-slot opcodes of form A (R141). -/
def aRows : List (Nat × (AForm → Instr)) :=
  aRows0 ++ aRows1 ++ aRows2 ++ aRows3

/-- A-slot opcodes of form AI (R141). -/
def aiRows : List (Nat × (IForm → Instr)) :=
  [(0xC0, .addi),
   (0xC1, .andi),
   (0xC2, .ori),
   (0xC3, .xori),
   (0xC4, .slli),
   (0xC5, .srli),
   (0xC6, .srai),
   (0xC7, .muli),
   (0xC8, .cmpi)]

/-- M-slot register-form opcodes that are never lone (R142). -/
def rRows : List (Nat × (RForm → Instr)) :=
  [(0x00, .vget),
   (0x01, .pget),
   (0x02, .xget),
   (0x03, .sget),
   (0x04, .vput),
   (0x05, .pput),
   (0x06, .xput),
   (0x38, .tsmv),
   (0x3B, .ost)]

/-- M-slot register-form opcodes that are always lone (R142). -/
def rLoneRows : List (Nat × (RForm → BitVec 32 → Instr)) :=
  [(0x07, .const),
   (0x08, .iota)]

/-- M-slot memory-form opcodes in their paired form (R142). -/
def mRows : List (Nat × (MForm → Instr)) :=
  [(0x10, .ld),
   (0x11, .lds),
   (0x12, .ldx),
   (0x13, .ldb),
   (0x14, .ldbx),
   (0x18, .st),
   (0x19, .sts),
   (0x1A, .stx),
   (0x20, .amo),
   (0x21, .acas),
   (0x39, .tsld),
   (0x3A, .tsst)]

/-- M-slot memory-form opcodes in their lone form (R142). -/
def mLoneRows : List (Nat × (MForm → BitVec 32 → Instr)) :=
  [(0x10, .ldLone),
   (0x11, .ldsLone),
   (0x12, .ldxLone),
   (0x13, .ldbLone),
   (0x14, .ldbxLone),
   (0x18, .stLone),
   (0x19, .stsLone),
   (0x1A, .stxLone)]

/-- M-slot ray opcodes (R142). -/
def tRows : List (Nat × (TForm → Instr)) :=
  [(0x32, .rbox),
   (0x33, .rtri)]

/-- M-slot texture opcodes (R142). -/
def tLoneRows : List (Nat × (TForm → BitVec 32 → Instr)) :=
  [(0x30, .tfl),
   (0x31, .tld)]

/-- Keep an instruction that an entry admits (R143, opcode row). -/
def Instr.ifLegal (i : Instr) : Option Instr := if i.wf then some i else none

/-- An A-slot word; `none` is a format fault (R141, R143). The empty word is not decoded (R137). -/
def decodeA (w : BitVec 32) : Option Instr :=
  let opc := (w.extractLsb' 24 8).toNat
  match aRows.lookup opc with
  | some c => (c (AForm.ofWord w)).ifLegal
  | none =>
    match aiRows.lookup opc with
    | some c => (c (IForm.ofWord w)).ifLegal
    | none => none

/-- An M-slot word in its paired form, L = 0. -/
def decodeMPaired (w : BitVec 32) : Option Instr :=
  let opc := (w.extractLsb' 24 7).toNat
  match rRows.lookup opc with
  | some c => (c (RForm.ofWord w)).ifLegal
  | none =>
    match mRows.lookup opc with
    | some c => (c (MForm.ofWord w)).ifLegal
    | none =>
      match tRows.lookup opc with
      | some c => (c (TForm.ofWord w)).ifLegal
      | none => none

/-- A lone M-slot word, L = 1, with its literal. -/
def decodeMLone (w lit : BitVec 32) : Option Instr :=
  let opc := (w.extractLsb' 24 7).toNat
  match rLoneRows.lookup opc with
  | some c => (c (RForm.ofWord w) lit).ifLegal
  | none =>
    match mLoneRows.lookup opc with
    | some c => (c (MForm.ofWord w) lit).ifLegal
    | none =>
      match tLoneRows.lookup opc with
      | some c => (c (TForm.ofWord w) lit).ifLegal
      | none => none

/-- An M-slot word with the A word of its pair, which a lone instruction takes as its literal (R137, R142). -/
def decodeM (w lit : BitVec 32) : Option Instr :=
  if w.extractLsb' 31 1 == 1 then decodeMLone w lit else decodeMPaired w

/-! ### The encoder -/

/-- The words of an instruction, the first word first; an event has none. -/
def encode : Instr → List (BitVec 32)
  | .vsetl rd rs1 cfg => [iWord cfg rs1 0 rd 0x0B]
  | .bx rs1 => [rWord 0 0 rs1 1 0 0x0B]
  | .bloop rs1 rs2 => [rWord 1 rs2 rs1 1 0 0x0B]
  | .bwait => [rWord 2 0 0 1 0 0x0B]
  | .bretry => [rWord 3 0 0 1 0 0x0B]
  | .bkill => [rWord 4 0 0 1 0 0x0B]
  | .sigadd rd rs1 rs2 => [rWord 0 rs2 rs1 2 rd 0x0B]
  | .sigor rd rs1 rs2 => [rWord 1 rs2 rs1 2 rd 0x0B]
  | .sigwait rd rs1 rs2 => [rWord 2 rs2 rs1 2 rd 0x0B]
  | .sigwaitm rd rs1 rs2 => [rWord 3 rs2 rs1 2 rd 0x0B]
  | .fenceS succ pred scope => [rWord 0 succ pred 3 ((0 : BitVec 2) ++ scope) 0x0B]
  | .gbar g => [iWord ((0 : BitVec 10) ++ g) 0 4 0 0x0B]
  | .ctxsave rs1 => [rWord 0 0 rs1 5 0 0x0B]
  | .ctxload rs1 => [rWord 1 0 rs1 5 0 0x0B]
  | .lgset rd rs1 rs2 => [rWord 2 rs2 rs1 5 rd 0x0B]
  | .menable => [rWord 0 0 0 0 0 0x2B]
  | .mdisable => [rWord 0 0 0 1 0 0x2B]
  | .mclaim rd => [rWord 0 0 0 2 rd 0x2B]
  | .mrel => [rWord 0 0 0 3 0 0x2B]
  | .mzero t => [rWord 0 0 0 4 ((0 : BitVec 2) ++ t) 0x2B]
  | .medge t rs1 rs2 => [rWord 0 rs2 rs1 5 ((0 : BitVec 2) ++ t) 0x2B]
  | .mop fmt i32 t rs1 => [iWord (fmt ++ i32 ++ (0 : BitVec 8)) rs1 6 ((0 : BitVec 2) ++ t) 0x2B]
  | .mstatStatus rd rs1 => [rWord 0 0 rs1 7 rd 0x2B]
  | .mstatDrain rd rs1 => [rWord 0 0 rs1 7 rd 0x2B]
  | .mstatEdge rd rs1 => [rWord 0 0 rs1 7 rd 0x2B]
  | .cpy rd rs1 rs2 rs3 => [rWord (rs3 ++ (0 : BitVec 2)) rs2 rs1 0 rd 0x5B]
  | .cpy2 rd rs1 rs2 rs3 => [rWord (rs3 ++ (0 : BitVec 2)) rs2 rs1 1 rd 0x5B]
  | .cpyqState rd rs1 rs2 => [rWord 0 rs2 rs1 2 rd 0x5B]
  | .cpyqRetry rd rs1 rs2 => [rWord 0 rs2 rs1 2 rd 0x5B]
  | .cpyqAbandon rd rs1 rs2 => [rWord 0 rs2 rs1 2 rd 0x5B]
  | .cpyqNext rd rs1 rs2 => [rWord 0 rs2 rs1 2 rd 0x5B]
  | .cpyqFaddr rd rs1 rs2 => [rWord 0 rs2 rs1 2 rd 0x5B]
  | .tqput rd rs1 rs2 => [rWord 0 rs2 rs1 3 rd 0x5B]
  | .tqputLoopback rd rs1 rs2 => [rWord 0 rs2 rs1 3 rd 0x5B]
  | .tqdep rd rs1 rs2 => [rWord 0 rs2 rs1 4 rd 0x5B]
  | .tqdec rd rs1 => [rWord 1 0 rs1 4 rd 0x5B]
  | .tqat rd rs1 rs2 rs3 => [rWord (rs3 ++ (0 : BitVec 2)) rs2 rs1 5 rd 0x5B]
  | .tkwait rd rs1 rs2 => [rWord 0 rs2 rs1 6 rd 0x5B]
  | .tkdone rd rs1 rs2 => [rWord 1 rs2 rs1 6 rd 0x5B]
  | .tqdone => [rWord 0 0 0 7 0 0x5B]
  | .tqyield rs1 rs2 => [rWord 1 rs2 rs1 7 0 0x5B]
  | .tqstatDepth rd rs1 rs2 => [rWord 2 rs2 rs1 7 rd 0x5B]
  | .tqstatRun rd rs1 rs2 => [rWord 2 rs2 rs1 7 rd 0x5B]
  | .tqstatState rd rs1 rs2 => [rWord 2 rs2 rs1 7 rd 0x5B]
  | .tqstatPrio rd rs1 rs2 => [rWord 2 rs2 rs1 7 rd 0x5B]
  | .tqstatOvf rd rs1 rs2 => [rWord 2 rs2 rs1 7 rd 0x5B]
  | .tqstatInst rd rs1 rs2 => [rWord 2 rs2 rs1 7 rd 0x5B]
  | .tqstatSlice rd rs1 rs2 => [rWord 2 rs2 rs1 7 rd 0x5B]
  | .tqstatGroups rd rs1 rs2 => [rWord 2 rs2 rs1 7 rd 0x5B]
  | .rpub rd rs1 => [rWord 0 0 rs1 0 rd 0x7B]
  | .racq rd rs1 k => [rWord 0 ((0 : BitVec 2) ++ k) rs1 1 rd 0x7B]
  | .rwinAbs rd rs1 rs2 k => [rWord ((0 : BitVec 4) ++ k) rs2 rs1 2 rd 0x7B]
  | .rwinLag rd rs1 rs2 k => [rWord ((1 : BitVec 4) ++ k) rs2 rs1 2 rd 0x7B]
  | .rviewV rd rs1 rs2 => [rWord 0 rs2 rs1 3 rd 0x7B]
  | .rviewFloor rd rs1 rs2 => [rWord 0 rs2 rs1 3 rd 0x7B]
  | .rviewWord0 rd rs1 rs2 => [rWord 0 rs2 rs1 3 rd 0x7B]
  | .rviewWord1 rd rs1 rs2 => [rWord 0 rs2 rs1 3 rd 0x7B]
  | .ldbw rd rs1 k => [rWord ((0 : BitVec 4) ++ k) 0 rs1 4 rd 0x7B]
  | .nsend rd rs1 rs2 => [rWord 0 rs2 rs1 5 rd 0x7B]
  | .nwrite rd rs1 rs2 => [rWord 1 rs2 rs1 5 rd 0x7B]
  | .nread rd rs1 rs2 => [rWord 2 rs2 rs1 5 rd 0x7B]
  | .nfence rd rs1 => [rWord 0 0 rs1 6 rd 0x7B]
  | .nstatState rd rs1 rs2 => [rWord 0 rs2 rs1 7 rd 0x7B]
  | .nstatNext rd rs1 rs2 => [rWord 0 rs2 rs1 7 rd 0x7B]
  | .nstatPending rd rs1 rs2 => [rWord 0 rs2 rs1 7 rd 0x7B]
  | .nstatCtva rd rs1 rs2 => [rWord 0 rs2 rs1 7 rd 0x7B]
  | .nstatPtp rd rs1 rs2 => [rWord 0 rs2 rs1 7 rd 0x7B]
  | .sfenceVma rs1 rs2 => [rWord 0x09 rs2 rs1 0 0 0x73]
  | .lr aq rl f3 rd rs1 => [rWord ((2 : BitVec 5) ++ BitVec.ofBool aq ++ BitVec.ofBool rl) 0 rs1 f3 rd 0x2F]
  | .sc aq rl f3 rd rs1 rs2 => [rWord ((3 : BitVec 5) ++ BitVec.ofBool aq ++ BitVec.ofBool rl) rs2 rs1 f3 rd 0x2F]
  | .scalarAmo f5 aq rl f3 rd rs1 rs2 => [rWord (f5 ++ BitVec.ofBool aq ++ BitVec.ofBool rl) rs2 rs1 f3 rd 0x2F]
  | .vcfgWrite f3 rd src => [iWord 0x800 src f3 rd 0x73]
  | .lanemapWrite f3 rd src => [iWord 0x5C5 src f3 rd 0x73]
  | .mcfgWrite f3 rd src => [iWord 0x808 src f3 rd 0x73]
  | .satpWrite f3 rd src => [iWord 0x180 src f3 rd 0x73]
  | .csrWrite csr f3 rd src => [iWord csr src f3 rd 0x73]
  | .csrRead csr f3 rd => [iWord csr 0 f3 rd 0x73]
  | .scalarLoad fp f3 rd rs1 imm => [iWord imm rs1 f3 rd (if fp then 0x07 else 0x03)]
  | .scalarStore fp f3 rs1 rs2 imm =>
    [rWord (imm.extractLsb' 5 7) rs2 rs1 f3 (imm.extractLsb' 0 5) (if fp then 0x27 else 0x23)]
  | .fence fm pred succ rd rs1 => [iWord (fm ++ pred ++ succ) rs1 0 rd 0x0F]
  | .fenceI imm rd rs1 => [iWord imm rs1 1 rd 0x0F]
  | .wfi => [0x10500073]
  | .ecallSubmit => [0x00000073]
  | .ecallPost => [0x00000073]
  | .ecallReport => [0x00000073]
  | .illegalInstruction w => [w]
  | .add a => [a.word 0x00]
  | .sub a => [a.word 0x01]
  | .mul a => [a.word 0x02]
  | .mulh a => [a.word 0x03]
  | .div a => [a.word 0x04]
  | .rem a => [a.word 0x05]
  | .and a => [a.word 0x06]
  | .or a => [a.word 0x07]
  | .xor a => [a.word 0x08]
  | .andn a => [a.word 0x09]
  | .sll a => [a.word 0x0A]
  | .srl a => [a.word 0x0B]
  | .sra a => [a.word 0x0C]
  | .rot a => [a.word 0x0D]
  | .min a => [a.word 0x0E]
  | .max a => [a.word 0x0F]
  | .abs a => [a.word 0x10]
  | .clz a => [a.word 0x11]
  | .ctz a => [a.word 0x12]
  | .popc a => [a.word 0x13]
  | .cmp a => [a.word 0x14]
  | .bfx a => [a.word 0x15]
  | .bfi a => [a.word 0x16]
  | .dot4 a => [a.word 0x17]
  | .redsum a => [a.word 0x20]
  | .redmin a => [a.word 0x21]
  | .redmax a => [a.word 0x22]
  | .redand a => [a.word 0x23]
  | .redor a => [a.word 0x24]
  | .pfx a => [a.word 0x25]
  | .vconf a => [a.word 0x26]
  | .cmpr a => [a.word 0x27]
  | .perm a => [a.word 0x28]
  | .slide a => [a.word 0x29]
  | .bcast a => [a.word 0x2A]
  | .fadd a => [a.word 0x40]
  | .fsub a => [a.word 0x41]
  | .fmul a => [a.word 0x42]
  | .fma a => [a.word 0x43]
  | .fdiv a => [a.word 0x44]
  | .fsqrt a => [a.word 0x45]
  | .fmin a => [a.word 0x46]
  | .fmax a => [a.word 0x47]
  | .fsgnj a => [a.word 0x48]
  | .fcmp a => [a.word 0x49]
  | .fclass a => [a.word 0x4A]
  | .frcp a => [a.word 0x4B]
  | .frsq a => [a.word 0x4C]
  | .fex2 a => [a.word 0x4D]
  | .flg2 a => [a.word 0x4E]
  | .fsin a => [a.word 0x4F]
  | .fcos a => [a.word 0x50]
  | .fdot2 a => [a.word 0x51]
  | .fredsum a => [a.word 0x52]
  | .fredmm a => [a.word 0x53]
  | .fwid a => [a.word 0x60]
  | .fnar a => [a.word 0x61]
  | .fcvtd a => [a.word 0x62]
  | .f2i a => [a.word 0x63]
  | .i2f a => [a.word 0x64]
  | .mxscl a => [a.word 0x65]
  | .mxcvt a => [a.word 0x66]
  | .mxexp a => [a.word 0x67]
  | .pand a => [a.word 0x70]
  | .por a => [a.word 0x71]
  | .pxor a => [a.word 0x72]
  | .pnot a => [a.word 0x73]
  | .pandn a => [a.word 0x74]
  | .pcnt a => [a.word 0x75]
  | .pffs a => [a.word 0x76]
  | .mov a => [a.word 0x80]
  | .sel a => [a.word 0x81]
  | .nul a => [a.word 0x82]
  | .addi a => [a.word 0xC0]
  | .andi a => [a.word 0xC1]
  | .ori a => [a.word 0xC2]
  | .xori a => [a.word 0xC3]
  | .slli a => [a.word 0xC4]
  | .srli a => [a.word 0xC5]
  | .srai a => [a.word 0xC6]
  | .muli a => [a.word 0xC7]
  | .cmpi a => [a.word 0xC8]
  | .vget r => [r.word 0 0x00]
  | .pget r => [r.word 0 0x01]
  | .xget r => [r.word 0 0x02]
  | .sget r => [r.word 0 0x03]
  | .vput r => [r.word 0 0x04]
  | .pput r => [r.word 0 0x05]
  | .xput r => [r.word 0 0x06]
  | .tsmv r => [r.word 0 0x38]
  | .ost r => [r.word 0 0x3B]
  | .const r lit => [r.word 1 0x07, lit]
  | .iota r lit => [r.word 1 0x08, lit]
  | .ld m => [m.word 0 0x10]
  | .lds m => [m.word 0 0x11]
  | .ldx m => [m.word 0 0x12]
  | .ldb m => [m.word 0 0x13]
  | .ldbx m => [m.word 0 0x14]
  | .st m => [m.word 0 0x18]
  | .sts m => [m.word 0 0x19]
  | .stx m => [m.word 0 0x1A]
  | .amo m => [m.word 0 0x20]
  | .acas m => [m.word 0 0x21]
  | .tsld m => [m.word 0 0x39]
  | .tsst m => [m.word 0 0x3A]
  | .ldLone m lit => [m.word 1 0x10, lit]
  | .ldsLone m lit => [m.word 1 0x11, lit]
  | .ldxLone m lit => [m.word 1 0x12, lit]
  | .ldbLone m lit => [m.word 1 0x13, lit]
  | .ldbxLone m lit => [m.word 1 0x14, lit]
  | .stLone m lit => [m.word 1 0x18, lit]
  | .stsLone m lit => [m.word 1 0x19, lit]
  | .stxLone m lit => [m.word 1 0x1A, lit]
  | .rbox t => [t.word 0 0x32]
  | .rtri t => [t.word 0 0x33]
  | .tfl t lit => [t.word 1 0x30, lit]
  | .tld t lit => [t.word 1 0x31, lit]
  | _ => []

/-! ### The host's view of the opcode table -/

/-- The instruction that the decoder reads from a table word: a hart word, else an A-slot word, else an M-slot
word; the A and M slots of a block number their opcodes alike, so a word that both admit is given as the A slot's.
A second word is the literal of a lone instruction. -/
def decodeTableWord (nbits w : Nat) : Option Instr :=
  let w0 := BitVec.ofNat 32 w
  let lit : BitVec 32 := if nbits ≤ 32 then 0 else BitVec.ofNat 32 (w >>> 32)
  match decodeHart w0 with
  | some i => some i
  | none =>
    if w0.extractLsb' 31 1 == 1 && nbits > 32 then decodeM w0 lit
    else match decodeA w0 with
      | some i => some i
      | none => decodeM w0 lit

end Sys2Proof
end

