-- ==== Sys2Proof/Machine/State.lean ====
section
/-! DEFINITION. The whole state of the VP940 as plain data, the reasons a step can stop, and the state after
reset. Numbered things that are mostly at rest (harts, cores, queues, lines) are kept in sparse tables whose
missing entries read as the entry's rest value. -/

namespace Sys2Proof.Machine

/-! ### Why a step stops -/

/-- Stops that the spec itself leaves without an effect. -/
inductive Fault where
  /-- A message reached a node state for which R390 says it does not occur. Raised by the directory messages.
  Safe: the spec gives no effect. -/
  | doesNotOccur
  /-- GRANT_X to a node in LOST_S: the protocol error of R390, which R393 says cannot occur. Raised by GRANT_X. Safe. -/
  | protocolError
  deriving DecidableEq, Repr

/-- Words to which this model gives no meaning. -/
inductive Refusal where
  /-- An instruction of the opcode table without a meaning yet. Raised by `exec` only. Safe. -/
  | notModelled (mnemonic : String)
  deriving DecidableEq, Repr

/-! ### Events -/

/-- A management command as the cluster runs it (R501): the mailbox slot it came from, or 0x100 for an
`ecall` (R504) with the PA of its image; its OPCODE, TAG, FLAGS and ARG0 upward. `hart` is the hart that waits in SUBMIT. -/
structure MCmd where
  op    : Nat
  slot  : Nat
  pa    : Nat
  hart  : Option Nat
  tag   : Nat
  flags : Nat
  args  : List Nat
  deriving DecidableEq, Repr, Inhabited

/-- A packet of a message on the wire (R453, R456 to R458). `kind` is 0 send, 1 write, 2 read (a request without payload, or
the data that answers it), 3 an initiator's probe (R461); `mid` names the message among those of its initiator, `mode` is its
delivery mode and `seq` the packet's place in its delivery context (R457); `initiator` and `target` are a fabric address *
4096 + an endpoint; `port` is the Ethernet port by which it leaves (R442). -/
structure NetPkt where
  lep       : Nat
  initiator : Nat
  target    : Nat
  port      : Nat
  tc        : Nat
  job       : Nat
  mid       : Nat
  kind      : Nat
  mode      : Nat
  seq       : Nat
  psn       : Nat
  npkt      : Nat
  tag       : Nat
  len       : Nat
  rkey      : Nat
  rva       : Nat
  rspec     : Nat
  payload   : List (BitVec 8)
  deriving DecidableEq, Repr, Inhabited

/-- An event: one constructor per row of the table that is no instruction word, with the agent, object or message
that it concerns. -/
inductive Ev where
  /-- No event. -/
  | idle
  /-- BLOCK_FETCH_DECODE (R143). -/
  | blockFetchDecode (h : Nat)
  /-- LOAD_DATA_RETURN (R239). -/
  | loadDataReturn (h : Nat)
  /-- BLOCK_COMMIT (R160). -/
  | blockCommit (h : Nat)
  /-- BLOCK_FAULT (R162). -/
  | blockFault (h : Nat)
  /-- BLOCK_TRAP_DELIVER (R118). -/
  | blockTrapDeliver (h : Nat)
  /-- LANE_GRANT_REEVAL (R100). -/
  | laneGrantReeval (h : Nat)
  /-- GRACE_EXPIRY (R122). -/
  | graceExpiry (h : Nat)
  /-- COMMIT_WINDOW_EXPIRY (R122). -/
  | commitWindowExpiry (h : Nat)
  /-- SAVE_COMPLETE (R124). -/
  | saveComplete (h : Nat)
  /-- WATCHDOG_EXPIRY (R132). -/
  | watchdogExpiry (h : Nat)
  /-- SAVETO_EXPIRY (R133). -/
  | savetoExpiry (h : Nat)
  /-- RESUME (R128). -/
  | resume (h : Nat)
  /-- WAIT_TIMEOUT (R112). -/
  | waitTimeout (h : Nat)
  /-- SIGNAL_WAKE (R23). -/
  | signalWake (pa : Nat)
  /-- SIGNAL_POLL (R23). -/
  | signalPoll (h : Nat)
  /-- GBAR_RELEASE (R114). -/
  | gbarRelease (pk g : Nat)
  /-- MATRIX_CMD_RETIRE (R306). -/
  | matrixCmdRetire (ci : Nat)
  /-- COPY_CHUNK_EXECUTE (R281). -/
  | copyChunkExecute (c k : Nat)
  /-- CHUNK_LAND (R288). -/
  | chunkLand (c k : Nat)
  /-- TQE_DISPATCH (R342). -/
  | tqeDispatch (d : Nat)
  /-- AGE_EXPIRY (R343). -/
  | ageExpiry (q d : Nat)
  /-- ALMANAC_TICK (R357). -/
  | almanacTick (d : Nat)
  /-- DEP_DECREMENT (R360). -/
  | depDecrement (pa : Nat)
  /-- TICKET_ADVANCE (R361). -/
  | ticketAdvance (pk : Nat)
  /-- QUEUE_DESTROY_COMPLETE (R363). -/
  | queueDestroyComplete (q : Nat)
  /-- GETS (R388). -/
  | gets (n l : Nat)
  /-- GETX (R388). -/
  | getx (n l : Nat)
  /-- UPG (R393). -/
  | upg (n l : Nat)
  /-- PUTS (R392). -/
  | puts (n l : Nat)
  /-- WBREQ (R391). -/
  | wbreq (n l : Nat)
  /-- WBDATA (R391). -/
  | wbdata (n l : Nat) (dirty : Bool)
  /-- WRM (R388). -/
  | wrm (n : Nat) (cells : List (Nat × BitVec 8))
  /-- CLEAN (R388). -/
  | clean (n l : Nat)
  /-- AMO_REQUEST (R388). -/
  | amoRequest (n pa op w x y : Nat)
  /-- RDU (R388). -/
  | rdu (l : Nat)
  /-- IACK (R389). -/
  | iack (n l : Nat)
  /-- RDATA (R388). -/
  | rdata (n l : Nat) (dirty gone : Bool)
  /-- DATA_S (R390). -/
  | dataS (n l : Nat)
  /-- DATA_E (R390). -/
  | dataE (n l : Nat)
  /-- GRANT_X (R390). -/
  | grantX (n l : Nat)
  /-- WRACK (R385). -/
  | wrack (n l : Nat)
  /-- AMOACK (R385). -/
  | amoack (n l old : Nat)
  /-- INV (R390). -/
  | inv (n l : Nat)
  /-- RECALL (R390). -/
  | recall (n l : Nat)
  /-- DOWNGR (R390). -/
  | downgr (n l : Nat)
  /-- WBGO (R391). -/
  | wbgo (n l : Nat)
  /-- WBSTALE (R391). -/
  | wbstale (n l : Nat)
  /-- RESERVATION_TIMEOUT (R379). -/
  | reservationTimeout (n l : Nat)
  /-- LINK_ERROR (R396). -/
  | linkError (a b : Nat)
  /-- LINK_RETRAIN_FAIL (R396). -/
  | linkRetrainFail (a b : Nat)
  /-- SEVER (R397). -/
  | sever (d : Nat)
  /-- REFETCH_REQUEST (R408): node, line, floor, hart, window, and the block's place in program order plus 1, 0 for `ldbw`. -/
  | refetchRequest (n l f h k b : Nat)
  /-- STALL_TIMEOUT (R408) of a parked request. -/
  | stallTimeout (n l f h k b : Nat)
  /-- REPLICA_UPDATE (R414). -/
  | replicaUpdate (rid slice : Nat)
  /-- REPLICA_ACK (R414). -/
  | replicaAck (rid slice : Nat)
  /-- ROUND_NOTICE (R415). -/
  | roundNotice (rid d r : Nat)
  /-- WALK_COMPLETE (R429). -/
  | walkComplete (u tag va acc : Nat)
  /-- ATS_INVALIDATE (R435). -/
  | atsInvalidate (pasid va pages : Nat)
  /-- PRG_RESPONSE (R437). -/
  | prgResponse (idx code : Nat)
  /-- PRTO_EXPIRY (R437). -/
  | prtoExpiry (idx : Nat)
  /-- DRAIN_TIMEOUT (R438). -/
  | drainTimeout (slot : Nat)
  /-- NET_PACKET_RX (R457). -/
  | netPacketRx (p : NetPkt)
  /-- NET_ACK (R461). -/
  | netAck (m psn : Nat)
  /-- NET_NACK (R461). -/
  | netNack (m psn : Nat) (full : Bool)
  /-- NET_COMPLETION_ACK (R460). -/
  | netCompletionAck (m code : Nat)
  /-- NET_RETRANSMIT_TIMER (R461). -/
  | netRetransmitTimer (m psn : Nat)
  /-- NET_TIMEOUT (R463). -/
  | netTimeout (m : Nat)
  /-- NET_READ_REQUEST (R453). -/
  | netReadRequest (p : NetPkt)
  /-- PTP_EVENT (R467). -/
  | ptpEvent (d off ppm : Nat)
  /-- HOST_PUT (R477). -/
  | hostPut (q d off : Nat) (who : Nat) (pasid : Option Nat) (image : List (BitVec 8))
  /-- PUT_RESULT_READ (R476). -/
  | putResultRead (q d who : Nat) (pasid : Option Nat)
  /-- HOST_BAR4_READ (R470). -/
  | hostBar4Read (off len : Nat)
  /-- HOST_BAR4_WRITE (R470). -/
  | hostBar4Write (off : Nat) (bytes : List (BitVec 8))
  /-- HOST_ATOMICOP (R471). -/
  | hostAtomicop (bar off op w x y : Nat)
  /-- SNPINV (R474). -/
  | snpinv (l : Nat)
  /-- SNPDATA (R474). -/
  | snpdata (l : Nat)
  /-- SNPCUR (R474). -/
  | snpcur (l : Nat)
  /-- HOST_READ_COMPLETE (R474). -/
  | hostReadComplete (l : Nat) (own : Bool) (data : List (BitVec 8))
  /-- ATOMICOP_COMPLETION (R475). -/
  | atomicopCompletion (h : Nat) (ok : Bool)
  /-- COMPLETION_TIMEOUT (R480). -/
  | completionTimeout (port h : Nat)
  /-- HOST_LINK_DOWN (R480). -/
  | hostLinkDown (port : Nat)
  /-- GUEST_DONE (R488). -/
  | guestDone (iid status detail : Nat)
  /-- GUEST_SAVED (R488). -/
  | guestSaved (iid resume : Nat)
  /-- GUEST_XREQ (R490). -/
  | guestXreq (pasid tag va rights : Nat)
  /-- GUEST_INVACK (R491). -/
  | guestInvack (pasid tag : Nat)
  /-- GUEST_PSTOPACK (R496). -/
  | guestPstopack (pasid tag : Nat)
  /-- GUEST_FIRE (R492). -/
  | guestFire (pasid tag cspec : Nat)
  /-- GUEST_SPDM (R484). -/
  | guestSpdm (verdict : Nat)
  /-- GUEST_COH_REQUEST (R490). -/
  | guestCohRequest (kind pasid pa op w x y : Nat) (cells : List (Nat × BitVec 8))
  /-- GUEST_HOME_ANSWER (R494). -/
  | guestHomeAnswer (l kind : Nat) (data : List (BitVec 8))
  /-- GUEST_DUTY_TIMEOUT (R495). -/
  | guestDutyTimeout (duty : Nat)
  /-- ATTEST_START (R484). -/
  | attestStart
  /-- ATTEST_TIMEOUT (R484). -/
  | attestTimeout
  /-- QCREATE (R332). -/
  | qcreate (c : MCmd)
  /-- QDESTROY (R363). -/
  | qdestroy (c : MCmd)
  /-- PBIND (R426). -/
  | pbind (c : MCmd)
  /-- PSTOP (R438). -/
  | pstop (c : MCmd)
  /-- INVAL (R435). -/
  | inval (c : MCmd)
  /-- WINEN (R12). -/
  | winen (c : MCmd)
  /-- WALLSET (R350). -/
  | wallset (c : MCmd)
  /-- RCREATE (R400). -/
  | rcreate (c : MCmd)
  /-- RDESTROY (R424). -/
  | rdestroy (c : MCmd)
  /-- EPCREATE (R445). -/
  | epcreate (c : MCmd)
  /-- EPDESTROY (R503). -/
  | epdestroy (c : MCmd)
  /-- PEERSET (R446). -/
  | peerset (c : MCmd)
  /-- NWINREG (R447). -/
  | nwinreg (c : MCmd)
  /-- HWINSET (R472). -/
  | hwinset (c : MCmd)
  /-- PTPSET (R467). -/
  | ptpset (c : MCmd)
  /-- GPOLICY (R485). -/
  | gpolicy (c : MCmd)
  /-- GGRANT (R484). -/
  | ggrant (c : MCmd)
  /-- SELFTEST (R514). -/
  | selftest (c : MCmd)
  /-- INFO (R503). -/
  | info (c : MCmd)
  /-- MEMINFO (R503). -/
  | meminfo (c : MCmd)
  /-- LANE_CHECK_FAIL (R512). -/
  | laneCheckFail (h lg lane elem : Nat)
  /-- SELFTEST_DONE (R514). -/
  | selftestDone (ci : Nat) (fails lanes : List Nat)
  /-- PACKAGE_RESET (R508). -/
  | packageReset
  /-- DIERST (R517). -/
  | dierst (d : Nat)
  /-- GSTRST (R517). -/
  | gstrst
  /-- PLIM_SET (R521). -/
  | plimSet (watts : Nat)
  /-- THERMAL_THROTTLE (R522). -/
  | thermalThrottle (d : Nat)
  /-- THROTTLE_RECOVER (R522). -/
  | throttleRecover (d : Nat)
  /-- THERMTRIP (R522). -/
  | thermtrip (d : Nat)
  /-- INTERRUPT (R117). -/
  | interrupt (h code : Nat)
  /-- LLC_FILL (R388). -/
  | llcFill (l : Nat) (poison : Bool)
  /-- DOORBELL (R500, R501): a host write to BAR2. -/
  | doorbell (off : Nat) (bytes : List (BitVec 8))
  /-- PROTOCOL_ERROR (R497). -/
  | protocolError (what : Nat)
  /-- SPDM_REQUEST (R520). -/
  | spdmRequest (kind : Nat)
  /-- HOST_PORT_RESET (R439). -/
  | hostPortReset
  /-- PROBE (R461). -/
  | probe (lep initiator mid : Nat)
  deriving DecidableEq, Repr, Inhabited

/-! ### Harts and blocks -/

/-- Privilege levels (R79). -/
inductive Priv where
  | u | s | m
  deriving DecidableEq, Repr, Inhabited

/-- Why a hart does not go on at its pc. A waiting hart re-executes the instruction when its reason may have passed. -/
inductive Wait where
  /-- on blocks of its own (R103, R105, R109 and every interlock on the BIQ) -/
  | blocks
  /-- on the commit of a block that `xput`s a register it reads: an ordering when it ends (R68, R105) -/
  | xreg
  /-- on a signal word or gate at the address of its PA, until a wake (R112, R371) -/
  | signal (pa : Nat)
  /-- on a lane grant (R100) -/
  | grant
  /-- on the other members of a group (R114) -/
  | group (pk g : Nat)
  /-- on the owner of the matrix engine (R307) -/
  | matrix
  /-- on the owner of the matrix engine, in `ctxload` (R331) -/
  | engine
  /-- on queued commands: matrix, copies, network (R70, R293, R306, R308, R372) -/
  | commands
  /-- on a parked scalar page fault (R119): the group's index, and the trap that its failure makes it take -/
  | page (idx cause : Nat) (va : Word)
  /-- on a publish (R418), whose round the register `rd` takes -/
  | publish (rid rd : Nat)
  /-- on a home stall (R408) -/
  | stall (line : Nat)
  /-- on a firmware command (R504) -/
  | submit
  /-- for a task instance: the hart is free (R346, R365) -/
  | task
  /-- in `wfi` (R82) -/
  | interrupt
  /-- on an answer from the host (R475) to a scalar atomic: its location, VA, operation, bytes, operands and `rd` -/
  | host (pa : Nat) (va : Word) (op n x y rd : Nat)
  deriving DecidableEq, Repr

/-- A token (R145): one entry per element below VL, `none` for Null, or one uniform value. -/
inductive Tok where
  | vec (v : List (Option Word))
  | pred (p : List (Option Bool))
  | uni (v : Option Word)
  | upred (p : Option Bool)
  deriving DecidableEq, Repr, Inhabited

/-- The kind of a token (R145). -/
inductive Kind where
  | vec | pred | uni | upred
  deriving DecidableEq, Repr

/-- A buffered block store (R66): LSID and element order it, `pa` is a location key, `bytes` its data. -/
structure BStore where
  id    : Nat
  lsid  : Nat
  elem  : Nat
  va    : Word
  pa    : Nat
  bytes : List Byte
  deriving DecidableEq, Repr, Inhabited

/-- A load already performed in the current attempt (R156): its locations, and what memory gave for them. -/
structure BLoad where
  id    : Nat
  lsid  : Nat
  elem  : Nat
  pa    : Nat
  len   : Nat
  raw   : List Byte
  deriving DecidableEq, Repr, Inhabited

/-- A load that fired and whose data has not returned (LOAD_DATA_RETURN): `grp` are the element groups that fired, `late` the lines
and floors whose home stall has timed out (R408). -/
structure BPend where
  id    : Nat
  lsid  : Nat
  grp   : List Nat
  elems : List (Option (Word × Nat))
  wbytes : Nat
  win   : Option Nat
  late  : List (Nat × Nat)
  deriving DecidableEq, Repr, Inhabited

/-- A fault found in an attempt (R97, R163). `key` orders a fetch fault before all others. -/
structure BFault where
  code : Nat
  va   : Word
  elem : Nat
  lsid : Nat
  id   : Nat
  lg   : Nat
  acc  : Nat
  deriving DecidableEq, Repr, Inhabited

/-- A staged write of a register, tile or slot (R160). -/
inductive Stage where
  /-- v register, lane group, position, value -/
  | v (reg lg pos : Nat) (x : Word)
  /-- p register, lane group, position, bit -/
  | p (reg lg pos : Nat) (b : Bool)
  /-- x register -/
  | x (reg : Nat) (x : Word)
  /-- tile cell (R323): tile, m, n -/
  | cell (lsid elem t m n : Nat) (x : BitVec 32)
  /-- slot bytes (R324) -/
  | slot (id n off : Nat) (bytes : List Byte)
  deriving DecidableEq, Repr

/-- A decoded block: its instructions by ID, and the header's flags (R135, R137). -/
structure Code where
  instrs : List (Nat × Instr)
  npair  : Nat
  deriving DecidableEq, Repr, Inhabited

/-- An entry of a hart's block issue queue: what its `bx` or `bloop` captured (R103 to R108) and the state of
its current attempt. `xdrop` lists the puts that a hart write has replaced, each with the hart's place in program order at that
write (R105); `born` orders the blocks of a core by their issue (R245); `fired` the IDs that have fired for every element group, `part` the groups that have fired of the others (R151);
`miss` the groups that have still to reach an operand slot; `sweep` what a faulted attempt still translates (R162); `early` says that the
image was read while an ordering held it back (R70, R134). -/
structure Biq where
  seq     : Nat
  va      : Word
  isLoop  : Bool
  vcfg    : Word
  vl      : Nat
  n       : Nat
  strip   : Nat
  base    : Nat
  grant   : List Nat
  priv    : Priv
  sum     : Bool
  mxr     : Bool
  pasid   : Nat
  satp    : Word
  capt    : Tab Word
  pend    : List Nat
  xdrop   : List (Nat × Nat)
  born    : Nat
  park    : Bool
  tries   : Nat
  ordered : Bool
  code    : Option Code
  early   : Bool
  fired   : List Nat
  part    : Tab (List Nat)
  toks    : Tab Tok
  miss    : Tab (List Nat)
  sweep   : List (Nat × Nat)
  loads   : List BLoad
  pends   : List BPend
  stores  : List BStore
  staged  : List Stage
  atom    : Bool
  held    : Bool
  faults  : List BFault
  deriving DecidableEq, Repr, Inhabited

/-- An ordering the hart has asked for and that still holds accesses back (R70, R72, R291): accesses of the
streams `succ` issued after `seq` wait for those of `pred` issued before it, or for one copy. -/
structure Hold where
  seq  : Nat
  pred : Nat
  succ : Nat
  copy : Option Nat
  deriving DecidableEq, Repr, Inhabited

/-- A round window (R406). -/
structure Window where
  w0 : Word
  w1 : Word
  deriving DecidableEq, Repr, Inhabited

/-- A pending pre-emption request (R121, R122): why it was raised, and how far it has come. -/
structure Preempt where
  /-- 0 higher priority, 1 ABORT-HARD, 2 PASID-stop, 3 watchdog, 4 quarantine -/
  cause : Nat
  /-- the grace timer runs -/
  timed : Bool
  /-- the hart is to stop at its next instruction boundary in U-mode (R122) -/
  hard  : Bool
  /-- the hart has stopped -/
  stopped : Bool
  /-- the 10 µs commit window has closed -/
  closed : Bool
  deriving DecidableEq, Repr, Inhabited

/-- A save under way (R124): the slot, the reason, and whether SAVETO runs. -/
structure Save where
  va      : Word
  reason  : Nat
  vsaved  : Bool
  pc      : Word
  deriving DecidableEq, Repr, Inhabited

/-- A resume under way (R128): the slot VA, and what has been read of the slot: the record, the vector area, the matrix area. -/
structure Resume where
  va  : Word
  got : Option (List Byte × List Byte × List Byte)
  deriving DecidableEq, Repr, Inhabited

/-- A hart (R83): registers, CSRs by number, `bstat` parts, lane request and grant (`gexcl`: the grant is exclusive), claims,
vector registers, BIQ, orderings, windows, wait, task instance, copy-tag counter, reservation, pre-emption, save and resume.
`ctag` and `ntag` are the next copy and network tags; `sbuf` is the scalar store buffer (R59), oldest first, by location; `sync`
says that a read of R68 has completed whose ordering the next instruction finds in place; `told` that the held fault has been
delivered and no trap return has followed (R118). -/
structure Hart where
  x        : Tab Word
  f        : Tab Word
  pc       : Word
  priv     : Priv
  csr      : Tab Word
  held     : Bool
  parked   : Bool
  vlost    : Bool
  garr     : Nat
  slip     : Nat
  lgreq    : Nat
  excl     : Bool
  gexcl    : Bool
  allow    : Nat
  grant    : List Nat
  claims   : List Nat
  resumed  : Bool
  vgen     : Nat
  v        : Tab Word
  p        : Tab Bool
  biq      : List Biq
  seq      : Nat
  holds    : List Hold
  win      : Tab Window
  wait     : Option Wait
  timedOut : Bool
  inst     : Option Nat
  ctag     : Nat
  ntag     : Nat
  resv     : Option (Nat × Nat)
  preempt  : Option Preempt
  save     : Option Save
  resume   : Option Resume
  sbuf     : List (Nat × List Byte)
  sync     : Bool
  told     : Bool
  deriving DecidableEq, Repr

/-- What a save keeps beside its record (R70, R72, R105, log entry 37): for the context of instance `iid` saved at `va`, its
place in program order, its orderings, and for each image the entry's place and replaced puts. -/
structure Order where
  iid    : Nat
  va     : Word
  seq    : Nat
  holds  : List Hold
  blocks : List (Nat × List (Nat × Nat))
  deriving DecidableEq, Repr, Inhabited

/-- The hart state after reset. x and f registers, the pc, the lane and window state and every CSR without a
stated reset value are 0 (log entries 1, 2 and 19), but for `mstatus`: SXL and UXL 2, FS Initial (log entry 19); `medeleg` and
`mcounteren`, as firmware sets them at boot (R80, R82, log entry 13); and the lane request: LGREQ 1, ALLOW all four lane groups (log
entry 24). -/
def Hart.init : Hart :=
  ⟨[], [], 0, .m, [(0x300, 0x0000000A00002000), (0x302, 0xFF00B1FF), (0x306, 7)], false, false, false, 0, 0, 1, false, false,
    15, [], [], false, 0, [], [],
    [], 0, [], [], none, false, none, 0, 0, none, none, none, none, [], false, false⟩

/-! ### Cores -/

/-- A matrix command in the engine's queue (R306). -/
inductive MatCmd where
  | zero (t : Nat)
  | edge (t r c : Nat)
  | op (fmt : Nat) (i32 : Bool) (t : Nat) (w : Word)
  deriving DecidableEq, Repr

/-- The matrix engine of a core (R301): cells by t*2048 + 32*m + n, slot bytes by s*16384 + offset, edges by
tile, owner and enable, the PASID of the last enabled instance, the command queue (hart, its sequence number,
command) and the harts that wait for ownership in arrival order. `resv` is the instance to whose resume the engine was given at its
placement (R331), `back` the cells that the running `mop` has computed and not yet written (R327). -/
structure Matrix where
  cells  : Tab (BitVec 32)
  slots  : Tab Byte
  erows  : Tab Nat
  ecols  : Tab Nat
  issuedEdge : Tab (Nat × Nat)
  owner  : Option Nat
  en     : Bool
  last   : Option Nat
  queue  : List (Nat × Nat × MatCmd)
  waiters : List Nat
  resv   : Option Nat
  back   : Option (List (Nat × BitVec 32))
  deriving DecidableEq, Repr, Inhabited

/-- A dispatchable entry of a part (R341): its packet, the sequence and the acceptance stamp that order it, and what it
stands for. `work` is 0 a GUEST packet, 1 a die's share of a packet, 2 a single slice with its ENTRY and ARG, 3 a
resume of `inst`, 4 a packet still to be launched. `asked` is the instance whose pre-emption it has requested. -/
structure Entry where
  pk    : Nat
  seq   : Nat
  stamp : Nat
  work  : Nat
  slice : Nat
  entry : Nat
  arg   : Nat
  inst  : Nat
  asked : Option Nat
  deriving DecidableEq, Repr, Inhabited

/-- What a core's inbox or spill ring holds (R346, R350): priority, placement order, queue, the die of the part it came from, and the
entry. -/
structure Inbox where
  prio  : Nat
  stamp : Nat
  q     : Nat
  home  : Nat
  ent   : Entry
  deriving DecidableEq, Repr, Inhabited

/-- A Ponil core: `lanedis` (R94), matrix engine, sharing mode (R347, `none` when it holds no instance), inbox,
quarantine (R133), the harts that wait for lanes, the instruction-cache lines, the lanes under test. -/
structure Core where
  lanedis : Word
  mat     : Matrix
  save    : Option Bool
  inbox   : List Inbox
  quar    : Bool
  wall    : Bool
  selftest : Bool
  spilled : List Inbox
  spillOff : Bool
  icache : Tab (List Byte)
  deriving DecidableEq, Repr, Inhabited

/-! ### Copies -/

/-- The state of a copy (R295). -/
inductive CopyState where
  | running | parked | suspended | done
  deriving DecidableEq, Repr, Inhabited

/-- A copy command (R283 to R298), with what it captured at issue: the core whose windows it means, the engine `eng` whose slots it writes
(R331), and the put sequence `put` of its task's packet (R362). Chunk numbers that started, landed. -/
structure Copy where
  hart   : Nat
  inst   : Option Nat
  core   : Nat
  eng    : Nat
  seq    : Nat
  tag    : Nat
  pasid  : Nat
  priv   : Priv
  sum    : Bool
  mxr    : Bool
  src    : Word
  dst    : Word
  len    : Nat
  rows   : Nat
  spitch : Int
  dpitch : Int
  slot   : Option Nat
  cspec  : Word
  acq    : Bool
  rel    : Bool
  park   : Bool
  state  : CopyState
  started : List Nat
  landed : List Nat
  fchunk : Nat
  code   : Nat
  faddr  : Word
  pflag  : Bool
  stamp  : Nat
  put    : Nat
  deriving DecidableEq, Repr, Inhabited

/-! ### Translation -/

/-- What a translation is tagged with: `satp` ASID or PASID (R427). -/
inductive Tag where
  | asid (n : Nat)
  | pasid (n : Nat)
  deriving DecidableEq, Repr

/-- A cached translation: unit, tag, page VA, log2 size, page PA, R, W, X, U, G, D bits. `used` and `held` name blocks by hart
and place: those whose running attempt has used it, and those that hold it (R166). -/
structure Tlb where
  unit  : Nat
  tag   : Tag
  va    : Nat
  lg    : Nat
  pa    : Nat
  r     : Bool
  w     : Bool
  x     : Bool
  u     : Bool
  g     : Bool
  d     : Bool
  used  : List (Nat × Nat)
  held  : List (Nat × Nat)
  deriving DecidableEq, Repr

/-- A slot of the PASID context table (R426). `state` 0 FREE, 1 LIVE, 2 STOPPING, 3 DRAINING. -/
structure Ctx where
  pasid   : Nat
  shared  : Bool
  state   : Nat
  gen     : Nat
  root    : Nat
  hdm     : Nat
  orphans : Nat
  prgn    : Nat
  deriving DecidableEq, Repr, Inhabited

/-- Who waits for a page-request group (R437). -/
inductive PrgFor where
  | block (h : Nat)
  | copy (c : Nat)
  | scalar (h : Nat)
  | guest (pasid tag : Nat)
  | nobody
  deriving DecidableEq, Repr

/-- A page-request group (R437, R439): index, slot and GEN of its context, requester, pages still wanted. -/
structure Prg where
  idx   : Nat
  slot  : Nat
  gen   : Nat
  who   : PrgFor
  pages : List (Nat × Nat)
  orphan : Bool
  deriving DecidableEq, Repr

/-- A device-wide invalidation under way that the guest has yet to acknowledge (R435, R491), by its message's TAG. -/
structure Inval where
  tag   : Nat
  pasid : Option Nat
  asid  : Option Nat
  va    : Nat
  len   : Nat
  cmd   : Option MCmd
  ats   : Bool
  deriving DecidableEq, Repr

/-- The translation engine. -/
structure Xlat where
  tlb   : List Tlb
  ctx   : Tab Ctx
  prgs  : List Prg
  parkq : List (PrgFor × Nat × List (Nat × Nat))
  invals : List Inval
  winEn : Tab Nat
  deriving DecidableEq, Repr

/-! ### Coherence -/

/-- A directory entry (R383). -/
structure Dir where
  st     : Nat
  coarse : Bool
  busy   : Bool
  dp     : Nat
  gp     : Bool
  ptrs   : List Nat
  cv     : Nat
  deriving DecidableEq, Repr, Inhabited

/-- Line states of a node (R390). -/
inductive NState where
  | i | s | e | m | is | im | sm | lostS | vb (dirty : Bool) | vbx
  deriving DecidableEq, Repr, Inhabited

/-- A request that a home serves (R388). Node number 512 is the guest port, 513 an agent that is no node. -/
inductive Req where
  | gets (n : Nat)
  | getx (n : Nat)
  | upg (n : Nat)
  | wrm (n : Nat) (cells : List Host.Cell)
  | amo (n pa op w x y : Nat)
  | rdu
  | wbreq (n : Nat)
  | evict
  deriving DecidableEq, Repr

/-- A home transaction in progress (R387, R389): the request, IACKs still owed, the owner whose RDATA is owed, and
what it waits for: 0 the nodes, 1 an LLC fill, 2 the host, 3 the guest. -/
structure Txn where
  req   : Req
  acks  : List Nat
  owner : Option Nat
  phase : Nat
  deriving DecidableEq, Repr

/-- The caches and the directory. `nodes` is keyed by node * 2^45 + line; `stale` is what the LLC copy of a line
held in M still reads, byte by byte; `llc` keyed by slice * 1024 + set, `l1d` by core * 64 + set, `l1v` by slice and
set and the block cache `bc` by core list lines, least recently used first; `pinned` lists the ranges of pinned lines, `delayed` the answers that a reservation delays; `links` are the links that retrain, as
pairs of dies, the hub 4 and the guest 5 (R396); `want` the cache for which a node has asked for a line (1 L1V, 2 block cache, else L1D);
`room` pairs a missed line with the line whose end frees a way for it (R377). -/
structure Coh where
  dir    : Tab Dir
  txn    : Tab Txn
  waitq  : Tab (List Req)
  nodes  : Tab NState
  stale  : List Host.Cell
  llc    : Tab (List Nat)
  l1d    : Tab (List Nat)
  l1v    : Tab (List Nat)
  bc     : Tab (List Nat)
  pinned : List (Nat × Nat)
  poison : List Nat
  delayed : List (Nat × Nat × Bool)
  links  : List (Nat × Nat)
  severed : List Nat
  want   : Tab Nat
  room   : List (Nat × Nat)
  deriving DecidableEq, Repr

/-! ### Round regions -/

/-- Who publishes (R414): a hart by `rpub`, or a completion fired at a VA. -/
inductive Publisher where
  | hart (h : Nat)
  | cspec (va : Nat)
  deriving DecidableEq, Repr, Inhabited

/-- A live round region (R399, R402, R403, R414). -/
structure Region where
  pbase  : Nat
  size   : Nat
  scope  : Nat
  stall  : Nat
  pasid  : Nat
  desc   : Nat
  round  : Nat
  rs     : Tab Nat
  rs0    : Nat
  view   : Tab Nat
  view0  : Nat
  acks   : List Nat
  busy   : Bool
  queue  : List Publisher
  dying  : Bool
  deriving DecidableEq, Repr, Inhabited

/-- A parked refetch (R408): node, line, floor, and who asks: hart, window, and the block's place in program order plus 1, 0 for
`ldbw`. -/
structure Refetch where
  node : Nat
  line : Nat
  rid  : Nat
  floor : Nat
  hart : Nat
  win  : Nat
  blk  : Nat
  deriving DecidableEq, Repr, Inhabited

/-- The round unit: live regions by RID, node copies by node * 2^45 + line, parked requests in order of arrival. -/
structure Rounds where
  regions : Tab Region
  copies  : Tab (Nat × List Byte)
  parked  : List Refetch
  deriving DecidableEq, Repr

/-! ### Task queues -/

/-- A queue (R333, R335): its descriptor, its state (0 ACTIVE, 1 DRAINING, 2 ABORTING, 3 STOPPED), the commands
that wait for its destruction, the save slots in use; `wrn` and `ovf` of its status queue (R362). -/
structure Queue where
  pasid   : Nat
  policy  : Nat
  prio    : Nat
  sw      : Bool
  mapped  : Bool
  dies    : Nat
  allow   : Nat
  pfpark  : Nat
  clust   : Nat
  maxinst : Nat
  age     : Nat
  grace   : Nat
  wdog    : Nat
  caplog  : Nat
  binlog  : Nat
  binw    : Nat
  spa     : Nat
  sva     : Nat
  gatebase : Nat
  statpa  : Nat
  statlog : Nat
  saven   : Nat
  saveva  : Nat
  savesz  : Nat
  state   : Nat
  wrn     : Nat
  ovf     : Nat
  enders  : List MCmd
  slotsUsed : List Nat
  dying   : Bool
  deriving DecidableEq, Repr, Inhabited

/-- A packet image (R336). -/
structure Image where
  kind   : Nat
  flags  : Nat
  slip   : Nat
  lgreq  : Nat
  bin    : Nat
  savekb : Nat
  entry  : Nat
  arg    : Nat
  base   : Nat
  count  : Nat
  grain  : Nat
  order  : Nat
  cspec  : Nat
  groups : Nat
  deriving DecidableEq, Repr, Inhabited

/-- The part of a queue on one die (R332, R334, R341, R343, R360): next put sequence, storage slots in use, its
entries, overflow list of record PAs, ageing. -/
structure Part where
  seq   : Nat
  slots : List Nat
  ents  : List Entry
  ovfl  : List Nat
  aged  : Bool
  deriving DecidableEq, Repr, Inhabited

/-- An accepted packet (R334, R340): where it is held and how far it has come. `shares` gives each die its interval of
undispatched slices, `slices` their number in all; `done` counts slices that have ended or were dropped, `good` those
that ended at `tqdone`; `begun` that one was dispatched; `groups` gives each slice its group numbers, `members` each
group its slices, `bar` the slices that have arrived at the group's current episode; `recd` a record code other than
COMPLETE and TRUNCATED with its DETAIL; `owed` the gate (VA, PASID) that waits for an advance after completion. -/
structure Pkt where
  q       : Nat
  die     : Nat
  slot    : Nat
  seq     : Nat
  img     : Image
  slices  : Nat
  shares  : Tab (Nat × Nat)
  done    : Nat
  good    : Nat
  lost    : Bool
  begun   : Bool
  late    : List Nat
  paid    : Bool
  owed    : Option (Nat × Nat)
  groups  : Tab (List Nat)
  members : Tab (List Nat)
  retired : List Nat
  bar     : Tab (List Nat)
  recd    : Nat
  detail  : Nat
  deriving DecidableEq, Repr, Inhabited

/-- A task instance (R339, R362): identifier, packet, slice, the die that runs it, the hart that runs it (`none`: guest,
or saved), its save slot, its SAVEKB, ENTRY and ARG, the guest's RESUME, its dispatch stamp, its copy and network tags;
whether a save waits to be resumed, holds the matrix state, was reported HUNG, and whether its end as discarded or its
pre-emption is under way; `home` is the die of the part it came from (R373). -/
structure Inst where
  iid     : Nat
  pk      : Nat
  slice   : Nat
  die     : Nat
  hart    : Option Nat
  guest   : Bool
  pre     : Bool
  slot    : Option Nat
  savekb  : Nat
  entry   : Nat
  arg     : Nat
  gresume : Nat
  stamp   : Nat
  ctag    : Nat
  ntag    : Nat
  saved   : Bool
  mown    : Bool
  hung    : Bool
  asked   : Bool
  home    : Nat
  deriving DecidableEq, Repr, Inhabited

/-- An entry of an Almanac wheel (R357, R368). -/
structure Wheel where
  die  : Nat
  time : Nat
  q    : Nat
  pasid : Nat
  img  : Image
  deriving DecidableEq, Repr, Inhabited

/-- The task queue engines: `parts` keyed by queue * 4 + die; per die `dtime` (R92), dispatch counts, spill areas
(R350); `stamp` orders acceptances and placements. -/
structure Tqe where
  queues : Tab Queue
  parts  : Tab Part
  pkts   : Tab Pkt
  insts  : Tab Inst
  wheel  : List Wheel
  dtime  : Tab Nat
  count  : Tab Nat
  spill  : Tab (Nat × Nat)
  stamp  : Nat
  deriving DecidableEq, Repr

/-! ### Network -/

/-- An endpoint (R443, R445); `wrn` and `ovf` of its event queue (R463). -/
structure Ep where
  pasid  : Nat
  job    : Nat
  fam    : Nat
  ports  : Nat
  evlog  : Nat
  npeer  : Nat
  fep    : Nat
  rxbase : Nat
  rxn    : Nat
  rxsz   : Nat
  rxspec : Nat
  evq    : Nat
  wrn    : Nat
  ovf    : Nat
  ctva   : Nat
  ctpas  : List Nat
  putn   : Nat
  jobdrops : Nat
  deriving DecidableEq, Repr, Inhabited

/-- A peer entry (R444, R446). -/
structure Peer where
  rfep : Nat
  rlep : Nat
  fam  : Nat
  mode : Nat
  cc   : Nat
  ent  : Nat
  tc   : Nat
  deriving DecidableEq, Repr, Inhabited

/-- A registered window (R447). -/
structure NWin where
  va  : Nat
  len : Nat
  r   : Bool
  w   : Bool
  deriving DecidableEq, Repr, Inhabited

/-- A network command of an instance that is neither complete nor failed (R452, R453, R463). `state` 1 local side in
progress, 2 completion awaited; `buf` is the retransmit buffer; `acked` the packets acknowledged or, for a read, placed; `pbase`
the place of its first packet in its delivery context; `fences` the commands it waits for (R454); `iid` its instance's identifier. -/
structure Msg where
  inst   : Option Nat
  iid    : Nat
  hart   : Nat
  seq    : Nat
  tag    : Nat
  kind   : Nat
  lep    : Nat
  peer   : Nat
  rkey   : Nat
  rva    : Nat
  va     : Word
  len    : Nat
  cspec  : Nat
  rspec  : Nat
  pasid  : Nat
  priv   : Priv
  sum    : Bool
  mxr    : Bool
  core   : Nat
  rel    : Bool
  acq    : Bool
  state  : Nat
  buf    : List Byte
  acked  : List Nat
  pbase  : Nat
  code   : Nat
  fences : List Nat
  deriving DecidableEq, Repr, Inhabited

/-- The target's state of an arriving message (R457 to R459): packets placed, its receive slot, whether its
completions have fired, and the code of a refused message. -/
structure Rx where
  lep    : Nat
  from_  : Nat
  mid    : Nat
  placed : List Nat
  slot   : Option Nat
  fired  : Bool
  code   : Nat
  deriving DecidableEq, Repr, Inhabited

/-- An `nfence` that holds later network commands (R454): the hart and the instance, its place, the messages waited for. One that waits
for none any more has its count of failures ready for an instance that no hart runs now. -/
structure NFence where
  hart : Nat
  inst : Option Nat
  seq  : Nat
  on   : List Nat
  fails : Nat
  rd   : Nat
  deriving DecidableEq, Repr, Inhabited

/-- The network transport engine. `peers` and `cong` are keyed by LEP * 65536 + peer, `wins` by LEP * 65536 + key;
`fails` holds each instance's unreported failures, oldest first; `ptp` the measured offset of each die; `peerq` the PEERSETs that
wait for messages in flight; `sent` and `acks` what went out on the wire; `retx` and `pseq` count by peer; `ctlast` the µs of each
entry's last update in the congestion table, from 1 (R466). -/
structure Net where
  eps    : Tab Ep
  peers  : Tab Peer
  peerq  : List (Nat × List Nat × Peer × MCmd)
  wins   : Tab NWin
  msgs   : Tab Msg
  rx     : List Rx
  rodseq : Tab Nat
  fences : List NFence
  fails  : List (Nat × Nat × Nat)
  ctseq  : Tab Nat
  ptp    : Tab Nat
  ppm    : Tab Nat
  ptpcfg : Nat × Nat
  sent   : List NetPkt
  acks   : List (List Nat)
  retx   : Tab Nat
  pseq   : Tab Nat
  ctlast : Tab Nat
  deriving DecidableEq, Repr

/-! ### Host, guest, cluster, management -/

/-- The host-attach engine: window table and overrides (R472), results of puts (R476) as (port * 65536 + requester, PASID,
value), newest first, host states of COH lines (R474: 1 S, 2 E, absent I), links down, the port of each peer, second-tier
capacities in bytes, and what was answered to the host: its kind (1 ATS completion, 3 BAR4 read, 4 RESULT, 5 AtomicOp, 6 snoop,
7 BAR2 read), then status and data; `posted` are the posted writes under way to non-coherent host memory and to peers, in order: root
port, location, bytes (R75). -/
structure HostSt where
  win    : Tab Nat
  ovr    : Tab (Nat × Nat × Nat)
  result : List (Nat × Nat × Nat)
  hs     : Tab Nat
  down   : List Nat
  peers  : Tab Nat
  stier  : Tab Nat
  answer : List (List Nat)
  atomics : List (Nat × Nat)
  posted : List (Nat × Nat × List Byte)
  deriving DecidableEq, Repr

/-- The guest socket bridge (R483): state 0 UNBOUND, 1 ATTESTING, 2 BOUND, 3 ISOLATED; policy and grants; the messages that
it has sent, as their TYPE, PASID, TAG and body words (R486); PSTOPs not yet acknowledged (PASID, TAG); instances told to end
(PREEMPT DISCARD); running instances; guest states GS of guest-homed lines (1 S, 2 E, absent I); instances whose
late DONE is discarded (R488). -/
structure GuestSt where
  state  : Nat
  policy : List Byte
  pol    : Bool
  gsize  : Nat
  grants : List Nat
  sent   : List (List Nat)
  pstops : List (Nat × Nat)
  preempts : List Nat
  runs   : List Nat
  gs     : Tab Nat
  discard : List Nat
  deriving DecidableEq, Repr

/-- The front end: mailbox (R500, R501), command queue (R505), host event queue writes. -/
structure Fe where
  state  : Nat
  evbase : Nat
  evcfg  : Nat
  drops  : Nat
  busy   : List Nat
  cmds   : List MCmd
  cmdb   : Tab (List Byte)
  resp   : Tab (List Byte)
  msix   : Nat
  deriving DecidableEq, Repr

/-- Management: error log position (R509), per die the densities in Gbit of its 24 GDDR7 devices, 0 for one
missing or not trained (R523), power limit and clocks in MHz (R521, R522), times
at which a lane was found transient, by core * 64 + lane (R514), half-array cores (R516) and offline cores (R513), SAVETO;
`coal` the corrected errors that are being coalesced (R511): what they share, their record and its time; `tripped` the dies
stopped by heat (R522). The board's own: the two images in SPI flash, the public keys that verify them, and the fuses: key hashes, revoked
keys, minimum security version (R518, R519). -/
structure Mgmt where
  logn   : Nat
  dram   : Tab (List Nat)
  plim   : Nat
  cclk   : Tab Nat
  trans  : Tab (List Nat)
  half   : List Nat
  offline : List Nat
  saveto : Nat
  coal   : List (List Nat × Nat × Nat)
  tripped : List Nat
  images : List (List Byte)
  keys   : Tab (List Byte)
  fuses  : Tab Nat
  revoked : List Nat
  minSvn : Nat
  deriving DecidableEq, Repr

/-- Which part this is (R8, R31). -/
inductive Part3 where
  | vp940 | vp920
  deriving DecidableEq, Repr, Inhabited

/-- Which agent moves next, as plain data: a hart fetches and executes (`lazy`: a store of it stays in the store buffer), the
oldest store leaves a hart's store buffer, the posted writes of a root port arrive, a die link has retrained (R396), a hart's blocks take a sequencer step, an instruction of its BIQ entry `i` fires for
the element groups `g`, the k-th due event happens, or an event comes from outside the model's own agents (a timer that expires,
the host, the network, the guest, an operator). The order among agents is the environment's (R30). -/
inductive Turn where
  | hart (h : Nat)
  | lazy (h : Nat)
  | drain (h : Nat)
  | block (h : Nat)
  | fire (h i id : Nat) (g : List Nat)
  | event (k : Nat)
  | posted (p : Nat)
  | retrained (a b : Nat)
  | input (e : Ev)
  deriving DecidableEq, Repr, Inhabited

/-! ### The whole device -/

/-- The state of the device. `mem` is device memory by PA, with local memory of core `ci` at 2^52 + ci * 2^20
and host memory at its host-window PA; `agenda` the events that are due, `turns` the moves that the environment
has chosen, `cur` the hart that executes, `lazy` whether its stores stay in the store buffer, `fire` the firing that the sequencer
has chosen (hart, BIQ index, ID) and `grp` its element groups, `ev` the event taking place, `ilen` the bytes of the current
instruction, `orders` what saves keep beside their records, `fresh` the counter of free values. -/
structure State where
  part   : Part3
  mem    : List Host.Cell
  harts  : Tab Hart
  cores  : Tab Core
  copies : Tab Copy
  xlat   : Xlat
  coh    : Coh
  rounds : Rounds
  tqe    : Tqe
  net    : Net
  host   : HostSt
  guest  : GuestSt
  fe     : Fe
  mgmt   : Mgmt
  agenda : List Ev
  turns  : List Turn
  cur    : Nat
  lazy   : Bool
  fire   : Nat × Nat × Nat
  grp    : List Nat
  ev     : Ev
  ilen   : Nat
  orders : List Order
  fresh  : Nat
  deriving DecidableEq, Repr

/-! ### Reset -/

/-- The translation engine after reset: no translation, no live PASID (R508). -/
def Xlat.init : Xlat := ⟨[], [], [], [], [], []⟩

/-- The caches and the directory after reset: no copy anywhere. -/
def Coh.init : Coh := ⟨[], [], [], [], [], [], [], [], [], [], [], [], [], [], [], []⟩

/-- The round unit after reset: no region exists (R508). -/
def Rounds.init : Rounds := ⟨[], [], []⟩

/-- The task queue engines after reset: no queue exists (R508), `dtime` 0 (R92). -/
def Tqe.init : Tqe := ⟨[], [], [], [], [], [], [], [], 0⟩

/-- The network engine after reset. -/
def Net.init : Net := ⟨[], [], [], [], [], [], [], [], [], [], [], [], (0, 0), [], [], [], [], []⟩

/-- The host-attach engine after reset. -/
def HostSt.init : HostSt := ⟨[], [], [], [], [], [], [], [], [], []⟩

/-- The bridge after reset: UNBOUND, no policy (R483). -/
def GuestSt.init : GuestSt := ⟨0, [], false, 0, [], [], [], [], [], [], []⟩

/-- The front end after reset: STATE RESET, nothing accepted (R500, R508). -/
def Fe.init : Fe := ⟨0, 0, 0, 0, [], [], [], [], 0⟩

/-- Management after reset; SAVETO is its default 500 µs. -/
def Mgmt.init : Mgmt := ⟨0, [], 1800, [], [], [], [], 500, [], [], [], [], [], [], 0⟩

/-- The machine right after package reset (R508 step 1, R517): a VP940, every hart at its rest state, nothing live. -/
def State.reset : State where
  part   := .vp940
  mem    := []
  harts  := []
  cores  := []
  copies := []
  xlat   := .init
  coh    := .init
  rounds := .init
  tqe    := .init
  net    := .init
  host   := .init
  guest  := .init
  fe     := .init
  mgmt   := .init
  agenda := []
  turns  := []
  cur    := 0
  lazy   := false
  fire   := (0, 0, 0)
  grp    := []
  ev     := .idle
  ilen   := 4
  orders := []
  fresh  := 0

/-- The table row that an event is. -/
def Ev.instr : Ev → Option Instr
  | .idle => none
  | .blockFetchDecode _ => some .blockFetchDecode
  | .loadDataReturn _ => some .loadDataReturn
  | .blockCommit _ => some .blockCommit
  | .blockFault _ => some .blockFault
  | .blockTrapDeliver _ => some .blockTrapDeliver
  | .laneGrantReeval _ => some .laneGrantReeval
  | .graceExpiry _ => some .graceExpiry
  | .commitWindowExpiry _ => some .commitWindowExpiry
  | .saveComplete _ => some .saveComplete
  | .watchdogExpiry _ => some .watchdogExpiry
  | .savetoExpiry _ => some .savetoExpiry
  | .resume _ => some .resume
  | .waitTimeout _ => some .waitTimeout
  | .signalWake _ => some .signalWake
  | .signalPoll _ => some .signalPoll
  | .gbarRelease _ _ => some .gbarRelease
  | .matrixCmdRetire _ => some .matrixCmdRetire
  | .copyChunkExecute _ _ => some .copyChunkExecute
  | .chunkLand _ _ => some .chunkLand
  | .tqeDispatch _ => some .tqeDispatch
  | .ageExpiry _ _ => some .ageExpiry
  | .almanacTick _ => some .almanacTick
  | .depDecrement _ => some .depDecrement
  | .ticketAdvance _ => some .ticketAdvance
  | .queueDestroyComplete _ => some .queueDestroyComplete
  | .gets _ _ => some .gets
  | .getx _ _ => some .getx
  | .upg _ _ => some .upg
  | .puts _ _ => some .puts
  | .wbreq _ _ => some .wbreq
  | .wbdata _ _ _ => some .wbdata
  | .wrm _ _ => some .wrm
  | .clean _ _ => some .clean
  | .amoRequest _ _ _ _ _ _ => some .amoRequest
  | .rdu _ => some .rdu
  | .iack _ _ => some .iack
  | .rdata _ _ _ _ => some .rdata
  | .dataS _ _ => some .dataS
  | .dataE _ _ => some .dataE
  | .grantX _ _ => some .grantX
  | .wrack _ _ => some .wrack
  | .amoack _ _ _ => some .amoack
  | .inv _ _ => some .inv
  | .recall _ _ => some .recall
  | .downgr _ _ => some .downgr
  | .wbgo _ _ => some .wbgo
  | .wbstale _ _ => some .wbstale
  | .reservationTimeout _ _ => some .reservationTimeout
  | .linkError _ _ => some .linkError
  | .linkRetrainFail _ _ => some .linkRetrainFail
  | .sever _ => some .sever
  | .refetchRequest _ _ _ _ _ _ => some .refetchRequest
  | .stallTimeout _ _ _ _ _ _ => some .stallTimeout
  | .replicaUpdate _ _ => some .replicaUpdate
  | .replicaAck _ _ => some .replicaAck
  | .roundNotice _ _ _ => some .roundNotice
  | .walkComplete _ _ _ _ => some .walkComplete
  | .atsInvalidate _ _ _ => some .atsInvalidate
  | .prgResponse _ _ => some .prgResponse
  | .prtoExpiry _ => some .prtoExpiry
  | .drainTimeout _ => some .drainTimeout
  | .netPacketRx _ => some .netPacketRx
  | .netAck _ _ => some .netAck
  | .netNack _ _ _ => some .netNack
  | .netCompletionAck _ _ => some .netCompletionAck
  | .netRetransmitTimer _ _ => some .netRetransmitTimer
  | .netTimeout _ => some .netTimeout
  | .netReadRequest _ => some .netReadRequest
  | .ptpEvent _ _ _ => some .ptpEvent
  | .hostPut _ _ _ _ _ _ => some .hostPut
  | .putResultRead _ _ _ _ => some .putResultRead
  | .hostBar4Read _ _ => some .hostBar4Read
  | .hostBar4Write _ _ => some .hostBar4Write
  | .hostAtomicop _ _ _ _ _ _ => some .hostAtomicop
  | .snpinv _ => some .snpinv
  | .snpdata _ => some .snpdata
  | .snpcur _ => some .snpcur
  | .hostReadComplete _ _ _ => some .hostReadComplete
  | .atomicopCompletion _ _ => some .atomicopCompletion
  | .completionTimeout _ _ => some .completionTimeout
  | .hostLinkDown _ => some .hostLinkDown
  | .guestDone _ _ _ => some .guestDone
  | .guestSaved _ _ => some .guestSaved
  | .guestXreq _ _ _ _ => some .guestXreq
  | .guestInvack _ _ => some .guestInvack
  | .guestPstopack _ _ => some .guestPstopack
  | .guestFire _ _ _ => some .guestFire
  | .guestSpdm _ => some .guestSpdm
  | .guestCohRequest _ _ _ _ _ _ _ _ => some .guestCohRequest
  | .guestHomeAnswer _ _ _ => some .guestHomeAnswer
  | .guestDutyTimeout _ => some .guestDutyTimeout
  | .attestStart => some .attestStart
  | .attestTimeout => some .attestTimeout
  | .qcreate _ => some .qcreate
  | .qdestroy _ => some .qdestroy
  | .pbind _ => some .pbind
  | .pstop _ => some .pstop
  | .inval _ => some .inval
  | .winen _ => some .winen
  | .wallset _ => some .wallset
  | .rcreate _ => some .rcreate
  | .rdestroy _ => some .rdestroy
  | .epcreate _ => some .epcreate
  | .epdestroy _ => some .epdestroy
  | .peerset _ => some .peerset
  | .nwinreg _ => some .nwinreg
  | .hwinset _ => some .hwinset
  | .ptpset _ => some .ptpset
  | .gpolicy _ => some .gpolicy
  | .ggrant _ => some .ggrant
  | .selftest _ => some .selftest
  | .info _ => some .info
  | .meminfo _ => some .meminfo
  | .laneCheckFail _ _ _ _ => some .laneCheckFail
  | .selftestDone _ _ _ => some .selftestDone
  | .packageReset => some .packageReset
  | .dierst _ => some .dierst
  | .gstrst => some .gstrst
  | .plimSet _ => some .plimSet
  | .thermalThrottle _ => some .thermalThrottle
  | .throttleRecover _ => some .throttleRecover
  | .thermtrip _ => some .thermtrip
  | .interrupt _ _ => some .interrupt
  | .llcFill _ _ => some .llcFill
  | .doorbell _ _ => some .doorbell
  | .protocolError _ => some .protocolError
  | .spdmRequest _ => some .spdmRequest
  | .hostPortReset => some .hostPortReset
  | .probe _ _ _ => some .probe

end Sys2Proof.Machine
end

