-- ==== Sys2Proof/Machine/Tab.lean ====
section
/-! DEFINITION. Sparse tables, device memory as canonical cells, and byte order (R3). -/

namespace Sys2Proof.Machine

/-- The entry of a table, or its rest value. -/
def tget {α : Type} (d : α) (t : Tab α) (k : Nat) : α := (t.lookup k).getD d

/-- Write an entry, keeping keys in ascending order. -/
def tset {α : Type} (k : Nat) (v : α) : Tab α → Tab α
  | [] => [(k, v)]
  | (k', v') :: r =>
    if k < k' then (k, v) :: (k', v') :: r
    else if k = k' then (k, v) :: r
    else (k', v') :: tset k v r

/-- Remove an entry. -/
def tdel {α : Type} (k : Nat) (t : Tab α) : Tab α := t.filter fun e => e.1 != k

/-- The keys of a table. -/
def tkeys {α : Type} (t : Tab α) : List Nat := t.map (·.1)

/-! ### Memory -/

/-- One byte of device memory; an unlisted address reads 0 (log entry 3). -/
def memGet (m : List Host.Cell) (a : Nat) : Byte := (m.lookup a).getD 0

/-- Write one byte, keeping the canonical form: ascending addresses, no zero listed. -/
def memSet (a : Nat) (b : Byte) : List Host.Cell → List Host.Cell
  | [] => if b = 0 then [] else [(a, b)]
  | (a', b') :: r =>
    if a < a' then (if b = 0 then (a', b') :: r else (a, b) :: (a', b') :: r)
    else if a = a' then (if b = 0 then r else (a, b) :: r)
    else (a', b') :: memSet a b r

/-- Every address of the list lies above `lo` and the addresses rise strictly, no listed byte is 0. -/
def Memory.wfFrom (lo : Nat) : List Host.Cell → Bool
  | [] => true
  | (a, b) :: r => decide (lo ≤ a) && b != 0 && Memory.wfFrom (a + 1) r

/-- The canonical form of memory. -/
def Memory.wf (m : List Host.Cell) : Bool := Memory.wfFrom 0 m

/-- Bytes from an address upward. -/
def memBytes (m : List Host.Cell) (a : Nat) : Nat → List Byte
  | 0 => []
  | n + 1 => memGet m a :: memBytes m (a + 1) n

/-- Write bytes from an address upward. -/
def memPut (a : Nat) : List Byte → List Host.Cell → List Host.Cell
  | [], m => m
  | b :: bs, m => memPut (a + 1) bs (memSet a b m)

/-- Write a list of cells in order. -/
def memCells : List Host.Cell → List Host.Cell → List Host.Cell
  | [], m => m
  | c :: cs, m => memCells cs (memSet c.1 c.2 m)

/-- The little-endian value of bytes (R3). -/
def leNat : List Byte → Nat
  | [] => 0
  | b :: bs => b.toNat + 256 * leNat bs

/-- The `n` little-endian bytes of a value (R3). -/
def leBytes : Nat → Nat → List Byte
  | 0, _ => []
  | n + 1, v => BitVec.ofNat 8 v :: leBytes n (v / 256)

/-- The little-endian value of `n` bytes at an address. -/
def memNat (m : List Host.Cell) (a n : Nat) : Nat := leNat (memBytes m a n)

/-- Write `n` little-endian bytes of a value. -/
def memPutNat (a n v : Nat) (m : List Host.Cell) : List Host.Cell := memPut a (leBytes n v) m

/-- Bits `lo` to `lo + len - 1` of a number (R3). -/
def bits (x lo len : Nat) : Nat := (x >>> lo) % 2 ^ len

/-- One bit of a number. -/
def bit (x i : Nat) : Bool := x.testBit i

/-- The numbers of the bits set among the lowest `n`. -/
def bitList (x n : Nat) : List Nat := (List.range n).filter fun i => x.testBit i

/-- The number whose set bits are listed. -/
def maskOf (l : List Nat) : Nat := l.foldl (fun a i => a ||| (1 <<< i)) 0

/-- `x` taken as an `n`-bit two's-complement number. -/
def signed (x n : Nat) : Int := if x.testBit (n - 1) then (x % 2 ^ n : Nat) - (2 ^ n : Nat) else ((x % 2 ^ n : Nat) : Int)

/-- An integer modulo 2^64. -/
def wrap64 (x : Int) : Word := BitVec.ofInt 64 x

/-- The least number below `n` with a property. -/
def leastBelow (n : Nat) (p : Nat → Bool) : Option Nat := (List.range n).find? p

end Sys2Proof.Machine
end

