-- ==== Sys2Proof/Machine/Flags.lean ====
section
/-! DEFINITION. Exception conditions of block instructions (R49, R50) and the integer reductions to W bits that raise
them (R185, R186). A condition set is a number whose bits stand as in `vcfg`.XSEL: 0 NX, 1 UF, 2 OF, 3 DZ, 4 NV. -/

namespace Sys2Proof.Machine

/-- Inexact. -/
def cNX : Nat := 1
/-- Underflow. -/
def cUF : Nat := 2
/-- Overflow or integer saturation. -/
def cOF : Nat := 4
/-- Division by zero. -/
def cDZ : Nat := 8
/-- Invalid operation. -/
def cNV : Nat := 16

/-- The conditions that `vcfg`.XSEL selects (R49). -/
def xselOf (vcfg : Word) : Nat := bits vcfg.toNat 11 5

/-- A raised set meets the selection (R50). -/
def raises (vcfg : Word) (c : Nat) : Bool := c &&& xselOf vcfg != 0

/-- An integer modulo 2^W. -/
def toW (w : Nat) (x : Int) : Nat := (x % (2 ^ w : Nat)).toNat

/-- Limit an integer to a range. -/
def clampInt (x lo hi : Int) : Int := if x < lo then lo else if hi < x then hi else x

/-- Reduce an exact integer result per SATM (R184, R186): the W-bit value and OF when clamped. -/
def satReduce (w satm : Nat) (x : Int) : Nat × Nat :=
  if satm % 2 = 0 then (toW w x, 0)
  else
    let lo : Int := if satm / 2 % 2 = 0 then -(2 ^ (w - 1) : Nat) else 0
    let hi : Int := if satm / 2 % 2 = 0 then (2 ^ (w - 1) : Nat) - 1 else (2 ^ w : Nat) - 1
    let y := clampInt x lo hi
    (toW w y, if y = x then 0 else cOF)

/-- An operand read signed or unsigned per SATM bit 1. -/
def satRead (w satm x : Nat) : Int := if satm / 2 % 2 = 0 then signed x w else (x : Int)

end Sys2Proof.Machine
end

