-- ==== Sys2Proof/Machine/Float.lean ====
section
/-! DEFINITION. Binary formats, rounding and exact arithmetic (R36 to R48): a finite value is a sign, a magnitude and
a power of two; a value that is no such number carries the mark that it lies strictly above it. -/

namespace Sys2Proof.Machine

/-- A format: width, fraction bits, bias, the largest finite magnitude `maxM * 2^maxE`, and how its top codes read:
0 IEEE, 1 MX-E4M3, 2 MX-E5M2, 3 no infinity and no NaN, 4 MX-INT8. -/
structure Fmt where
  width : Nat
  fbits : Nat
  bias  : Nat
  maxM  : Nat
  maxE  : Int
  kind  : Nat
  deriving DecidableEq, Repr

/-- FP64 (R36). -/
def fp64 : Fmt := ⟨64, 52, 1023, 2 ^ 53 - 1, 971, 0⟩
/-- FP32. -/
def fp32 : Fmt := ⟨32, 23, 127, 2 ^ 24 - 1, 104, 0⟩
/-- FP16. -/
def fp16 : Fmt := ⟨16, 10, 15, 2 ^ 11 - 1, 5, 0⟩
/-- BF16. -/
def bf16 : Fmt := ⟨16, 7, 127, 2 ^ 8 - 1, 120, 0⟩
/-- MX-E4M3 (R37). -/
def mxE4M3 : Fmt := ⟨8, 3, 7, 14, 5, 1⟩
/-- MX-E5M2. -/
def mxE5M2 : Fmt := ⟨8, 2, 15, 7, 13, 2⟩
/-- MX-E2M3. -/
def mxE2M3 : Fmt := ⟨6, 3, 1, 15, -1, 3⟩
/-- MX-E3M2. -/
def mxE3M2 : Fmt := ⟨6, 2, 3, 7, 2, 3⟩
/-- MX-E2M1. -/
def mxE2M1 : Fmt := ⟨4, 1, 1, 3, 1, 3⟩
/-- MX-INT8. -/
def mxInt8 : Fmt := ⟨8, 6, 0, 127, -6, 4⟩

/-- Exponent bits. -/
def Fmt.ebits (f : Fmt) : Nat := f.width - 1 - f.fbits
/-- The exponent of the smallest normal. -/
def Fmt.emin (f : Fmt) : Int := 1 - (f.bias : Int)
/-- The exponent of the subnormal grid; MX-INT8 has one grid, 2^-6 (R43). -/
def Fmt.gmin (f : Fmt) : Int := if f.kind = 4 then -6 else f.emin - f.fbits
/-- The canonical NaN (R36, R37); formats without one give code 0 (R43). -/
def Fmt.nan (f : Fmt) : Nat :=
  if f.kind = 0 then (2 ^ (f.ebits + 1) - 1) * 2 ^ (f.fbits - 1)
  else if f.kind = 1 ∨ f.kind = 2 then 0x7F else 0
/-- The sign bit of a code. -/
def Fmt.sign (f : Fmt) (neg : Bool) : Nat := if neg then 2 ^ (f.width - 1) else 0
/-- Infinity of a format that has one. -/
def Fmt.inf (f : Fmt) (neg : Bool) : Nat := f.sign neg + (2 ^ f.ebits - 1) * 2 ^ f.fbits

/-- A float value: a NaN (signalling or quiet), an infinity, or `(-1)^neg * m * 2^e`, with `sticky` for a real that
lies strictly between that magnitude and the next multiple of 2^e. -/
inductive FV where
  | nan (sig : Bool)
  | inf (neg : Bool)
  | fin (neg : Bool) (m : Nat) (e : Int) (sticky : Bool)
  deriving DecidableEq, Repr

/-- Rounding mode and flush control (R41, R45). -/
structure FEnv where
  rm   : Nat
  fzIn : Bool
  fzOut : Bool
  deriving DecidableEq, Repr

/-- The controls of a `vcfg` value. -/
def fenv (vcfg : Word) : FEnv := ⟨bits vcfg.toNat 2 3, bit vcfg.toNat 6, bit vcfg.toNat 5⟩
/-- RNE without flushing. -/
def rneEnv : FEnv := ⟨0, false, false⟩

/-- The value of a code; a subnormal IEEE input is zero of its sign under the FZ input rule (R45). -/
def Fmt.read (f : Fmt) (fz : Bool) (x : Nat) : FV :=
  if f.kind = 4 then
    let i := signed x 8
    .fin (decide (i < 0)) i.natAbs (-6) false
  else
    let neg := x.testBit (f.width - 1)
    let ex := bits x f.fbits f.ebits
    let fr := bits x 0 f.fbits
    let top := ex = 2 ^ f.ebits - 1
    if top ∧ (f.kind = 0 ∨ f.kind = 2) then
      if fr = 0 then .inf neg else .nan (f.kind = 0 && !fr.testBit (f.fbits - 1))
    else if top ∧ f.kind = 1 ∧ fr = 7 then .nan false
    else if ex = 0 then .fin neg (if fz && f.kind = 0 then 0 else fr) f.gmin false
    else .fin neg (fr + 2 ^ f.fbits) (f.gmin + (ex : Int) - 1) false

/-- Round up from the integer below, given the discarded part: 0 none, 1 below half, 2 half, 3 above (R41). -/
def roundUp (rm : Nat) (neg odd : Bool) (part : Nat) : Bool :=
  match rm with
  | 0 => part == 3 || (part == 2 && odd)
  | 1 => false
  | 2 => neg && part != 0
  | 3 => !neg && part != 0
  | _ => decide (2 ≤ part)

/-- Round a magnitude to a multiple of 2^g: the multiple, and whether it differs. -/
def roundGrid (rm : Nat) (neg : Bool) (m : Nat) (e : Int) (sticky : Bool) (g : Int) : Nat × Bool :=
  if g ≤ e then
    let k := m * 2 ^ (e - g).toNat
    (if sticky && roundUp rm neg (k % 2 = 1) 1 then k + 1 else k, sticky)
  else if m = 0 ∨ (Nat.log2 m : Int) + e + 1 < g then
    let any := m ≠ 0 || sticky
    (if any && roundUp rm neg false 1 then 1 else 0, any)
  else
    let sh := (g - e).toNat
    let q := m >>> sh
    let r := m % 2 ^ sh
    let half := 2 ^ (sh - 1)
    let part := if r = 0 then (if sticky then 1 else 0)
      else if r < half then 1
      else if r = half then (if sticky then 3 else 2) else 3
    (if roundUp rm neg (q % 2 = 1) part then q + 1 else q, part ≠ 0)

/-- The code of `k * 2^g`, which the format holds exactly. -/
def Fmt.code (f : Fmt) (neg : Bool) (k : Nat) (g : Int) : Nat :=
  if f.kind = 4 then (if k = 0 then 0 else if neg then 256 - k else k)
  else if k = 0 then f.sign neg
  else
    let ex := (Nat.log2 k : Int) + g
    if ex < f.emin then f.sign neg + (k * 2 ^ (g - f.gmin).toNat)
    else
      let up := (f.fbits : Int) - (Nat.log2 k : Int)
      let frac := if 0 ≤ up then k * 2 ^ up.toNat else k >>> (-up).toNat
      f.sign neg + (ex + f.bias).toNat * 2 ^ f.fbits + (frac - 2 ^ f.fbits)

/-- The largest finite value with a sign. -/
def Fmt.sat (f : Fmt) (neg : Bool) : Nat := f.code neg f.maxM f.maxE

/-- The result of an overflow (R44): `ovf` 0 saturates, 1 selects infinity by the rounding mode, 2 selects NaN. -/
def Fmt.overflow (f : Fmt) (ovf rm : Nat) (neg : Bool) : Nat :=
  if ovf = 2 then f.nan
  else if ovf = 0 then f.sat neg
  else if rm = 1 ∨ (rm = 2 ∧ neg = false) ∨ (rm = 3 ∧ neg = true) then f.sat neg
  else f.inf neg

/-- A magnitude `k * 2^g` exceeds the largest finite one. -/
def Fmt.above (f : Fmt) (k : Nat) (g : Int) : Bool :=
  if k = 0 then false
  else
    let ex := (Nat.log2 k : Int) + g
    let mx := (Nat.log2 f.maxM : Int) + f.maxE
    if ex ≠ mx then decide (mx < ex)
    else if g ≤ f.maxE then decide (f.maxM * 2 ^ (f.maxE - g).toNat < k)
    else decide (f.maxM < k * 2 ^ (g - f.maxE).toNat)

/-- RoundTo to precision `p` (R43; R219 for a reduced precision): the code and the conditions. -/
def Fmt.roundP (f : Fmt) (p ovf : Nat) (env : FEnv) (neg : Bool) (m : Nat) (e : Int) (sticky : Bool) : Nat × Nat :=
  if m = 0 ∧ sticky = false then (f.code neg 0 0, 0)
  else
    let ex := (Nat.log2 m : Int) + e
    let g := if f.kind = 4 then (-6 : Int) else ex - (p - 1 : Nat)
    let y := roundGrid env.rm neg m e sticky g
    if f.above y.1 g then (f.overflow ovf env.rm neg, cOF + cNX)
    else if f.kind ≠ 4 ∧ (Nat.log2 y.1 : Int) + g < f.emin then
      let gz := if g < f.gmin then f.gmin else g
      let z := roundGrid env.rm neg m e sticky gz
      if f.kind = 0 && env.fzOut then (f.sign neg, cUF + cNX)
      else (f.code neg z.1 gz, if z.2 then cUF + cNX else 0)
    else (f.code neg y.1 g, if y.2 then cNX else 0)

/-- How a format answers overflow by default: IEEE formats by the rounding mode. -/
def Fmt.ovf (f : Fmt) : Nat := if f.kind = 0 then 1 else 0

/-- RoundTo(fmt, rm, x) of R43. -/
def Fmt.roundTo (f : Fmt) (ovf : Nat) (env : FEnv) (x : FV) : Nat × Nat :=
  match x with
  | .nan sig => (f.nan, if f.kind = 3 ∨ f.kind = 4 then cNV else if sig then cNV else 0)
  | .inf neg =>
    if f.kind = 0 ∨ (f.kind = 2 ∧ ovf = 1) then (f.inf neg, 0)
    else if ovf = 2 then (f.nan, cNV) else (f.sat neg, cNV)
  | .fin neg m e st => f.roundP (f.fbits + 1) ovf env neg m e st

/-- RoundTo an IEEE format. -/
def Fmt.rnd (f : Fmt) (env : FEnv) (x : FV) : Nat × Nat := f.roundTo f.ovf env x

/-! ### Exact arithmetic -/

/-- The value is a signalling NaN. -/
def FV.isSig : FV → Bool
  | .nan s => s
  | _ => false

/-- The value is a NaN. -/
def FV.isNan : FV → Bool
  | .nan _ => true
  | _ => false

/-- NV when an operand is a signalling NaN (R46). -/
def sigNV (l : List FV) : Nat := if l.any FV.isSig then cNV else 0

/-- Negation. -/
def FV.neg : FV → FV
  | .nan s => .nan s
  | .inf n => .inf (!n)
  | .fin n m e st => .fin (!n) m e st

/-- The exact sum of two finite values; a zero from opposite signs is +0, or -0 under RDN (R43). -/
def addFin (rm : Nat) (n1 : Bool) (m1 : Nat) (e1 : Int) (n2 : Bool) (m2 : Nat) (e2 : Int) : FV :=
  let e := if e1 ≤ e2 then e1 else e2
  let a : Int := m1 * 2 ^ (e1 - e).toNat
  let b : Int := m2 * 2 ^ (e2 - e).toNat
  let t := (if n1 then -a else a) + (if n2 then -b else b)
  if t = 0 then .fin (if n1 = n2 then n1 else rm = 2) 0 0 false
  else .fin (decide (t < 0)) t.natAbs e false

/-- The exact sum; `none` is the invalid sum of opposite infinities. -/
def FV.add (rm : Nat) (x y : FV) : Option FV :=
  match x, y with
  | .nan s, _ => some (.nan s)
  | _, .nan s => some (.nan s)
  | .inf a, .inf b => if a = b then some (.inf a) else none
  | .inf a, .fin _ _ _ _ => some (.inf a)
  | .fin _ _ _ _, .inf b => some (.inf b)
  | .fin n1 m1 e1 _, .fin n2 m2 e2 _ => some (addFin rm n1 m1 e1 n2 m2 e2)

/-- The exact product; `none` is 0 × ∞. -/
def FV.mul (x y : FV) : Option FV :=
  match x, y with
  | .nan s, _ => some (.nan s)
  | _, .nan s => some (.nan s)
  | .inf a, .inf b => some (.inf (a != b))
  | .inf a, .fin n m _ _ => if m = 0 then none else some (.inf (a != n))
  | .fin n m _ _, .inf b => if m = 0 then none else some (.inf (n != b))
  | .fin n1 m1 e1 _, .fin n2 m2 e2 _ => some (.fin (n1 != n2) (m1 * m2) (e1 + e2) false)

/-- The sum of `amo.fadd32` (R242): FP32 to nearest even, no flushing, canonical NaN. -/
def fadd32 (x y : Nat) : Nat :=
  match FV.add 0 (fp32.read false x) (fp32.read false y) with
  | some v => (fp32.rnd rneEnv v).1
  | none => fp32.nan

/-- A quotient of finite nonzero magnitudes to at least 128 bits. -/
def divFin (neg : Bool) (m1 : Nat) (e1 : Int) (m2 : Nat) (e2 : Int) : FV :=
  let s := 130 + Nat.log2 m2
  let q := m1 * 2 ^ s / m2
  .fin neg q (e1 - e2 - s) (m1 * 2 ^ s % m2 ≠ 0)

/-- The quotient and DZ; `none` is 0 ÷ 0 or ∞ ÷ ∞ (R213). -/
def FV.div (x y : FV) : Option (FV × Nat) :=
  match x, y with
  | .nan s, _ => some (.nan s, 0)
  | _, .nan s => some (.nan s, 0)
  | .inf _, .inf _ => none
  | .inf a, .fin n _ _ _ => some (.inf (a != n), 0)
  | .fin n _ _ _, .inf b => some (.fin (n != b) 0 0 false, 0)
  | .fin n1 m1 e1 _, .fin n2 m2 e2 _ =>
    if m2 = 0 then (if m1 = 0 then none else some (.inf (n1 != n2), cDZ))
    else if m1 = 0 then some (.fin (n1 != n2) 0 0 false, 0)
    else some (divFin (n1 != n2) m1 e1 m2 e2, 0)

/-- One bit of a square root. -/
def sqrtStep (n r i : Nat) : Nat := if (r + 2 ^ i) * (r + 2 ^ i) ≤ n then r + 2 ^ i else r

/-- The integer square root of a number below 2^(2k). -/
def isqrt (k n : Nat) : Nat := (List.range k).foldl (fun r i => sqrtStep n r (k - 1 - i)) 0

/-- A magnitude scaled to an even exponent with 260 or more bits. -/
def evenScale (m : Nat) (e : Int) : Nat × Int :=
  let s : Nat := 260 - Nat.min 260 (Nat.log2 m)
  let s := if (e - s) % 2 = 0 then s else s + 1
  (m * 2 ^ s, e - s)

/-- The square root; `none` is the root of a negative value (R213). -/
def FV.sqrt (x : FV) : Option FV :=
  match x with
  | .nan s => some (.nan s)
  | .inf n => if n then none else some (.inf false)
  | .fin n m e _ =>
    if m = 0 then some (.fin n 0 0 false)
    else if n then none
    else
      let (a, ea) := evenScale m e
      let r := isqrt ((Nat.log2 a + 2) / 2) a
      some (.fin false r (ea / 2) (r * r ≠ a))

/-- 1 ÷ √x of a positive finite value. -/
def rsqrtFin (m : Nat) (e : Int) : FV :=
  let k : Nat := 520 + 2 * Nat.log2 m
  let k := if ((k : Int) + e) % 2 = 0 then k else k + 1
  let q := 2 ^ k / m
  let r := isqrt ((Nat.log2 q + 2) / 2) q
  .fin false r (-(((k : Int) + e) / 2)) (r * r * m ≠ 2 ^ k)

/-- Order of values that are no NaN: less, with -0 below +0 when `strict` zeros are told apart (R48). -/
def FV.lt (zeros : Bool) (x y : FV) : Bool :=
  match x, y with
  | .nan _, _ => false
  | _, .nan _ => false
  | .inf a, .inf b => a && !b
  | .inf a, .fin _ _ _ _ => a
  | .fin _ _ _ _, .inf b => !b
  | .fin n1 m1 e1 _, .fin n2 m2 e2 _ =>
    if m1 = 0 ∧ m2 = 0 then zeros && n1 && !n2
    else
      match addFin 0 n1 m1 e1 (!n2) m2 e2 with
      | .fin n m _ _ => n && m ≠ 0
      | _ => false

/-- Numeric equality. -/
def FV.eq (x y : FV) : Bool := !x.isNan && !y.isNan && !FV.lt false x y && !FV.lt false y x

/-! ### Functions of R219 in fixed point -/

/-- Fraction bits of the fixed-point numbers; far more than any correct rounding here needs (log entry 11). -/
def fxBits : Nat := 400
/-- One. -/
def fxOne : Nat := 2 ^ fxBits
/-- Product. -/
def fxMul (a b : Nat) : Nat := a * b / fxOne

/-- ln 2 as the sum of 1 / (k 2^k). -/
def fxLn2 : Nat := (List.range 420).foldl (fun a k => a + fxOne / ((k + 1) * 2 ^ (k + 1))) 0

/-- atan(1/n) by its alternating series. -/
def fxAtanInv (n : Nat) : Int :=
  ((List.range 190).foldl (fun (a : Int × Nat) (k : Nat) =>
    let t : Int := (a.2 / (2 * k + 1) : Nat)
    (if k % 2 = 0 then a.1 + t else a.1 - t, a.2 / (n * n))) ((0 : Int), fxOne / n)).1

/-- π by Machin's formula. -/
def fxPi : Nat := (16 * fxAtanInv 5 - 4 * fxAtanInv 239).toNat

/-- e^x for 0 ≤ x < 1. -/
def fxExp (x : Nat) : Nat :=
  ((List.range 110).foldl (fun (a : Nat × Nat) (k : Nat) => (a.1 + a.2, fxMul a.2 x / (k + 1))) (0, fxOne)).1

/-- ln y for 1 ≤ y < 2, from z = (y - 1) / (y + 1). -/
def fxLn (y : Nat) : Nat :=
  let z := (y - fxOne) * fxOne / (y + fxOne)
  let z2 := fxMul z z
  2 * ((List.range 135).foldl (fun (a : Nat × Nat) (k : Nat) => (a.1 + a.2 / (2 * k + 1), fxMul a.2 z2)) (0, z)).1

/-- sin x for 0 ≤ x ≤ π/2. -/
def fxSin (x : Nat) : Int :=
  let x2 := fxMul x x
  ((List.range 50).foldl (fun (a : Int × Nat) (k : Nat) =>
    (if k % 2 = 0 then a.1 + a.2 else a.1 - a.2, fxMul a.2 x2 / ((2 * k + 2) * (2 * k + 3)))) ((0 : Int), x)).1

/-- A magnitude `m * 2^e` below 2 in fixed point, and whether bits were lost. -/
def toFx (m : Nat) (e : Int) : Nat :=
  let sh := e + fxBits
  if 0 ≤ sh then m * 2 ^ sh.toNat else m >>> (-sh).toNat

/-- Floor and fraction of a finite value: the integer below it, and the fraction in fixed point. -/
def splitInt (neg : Bool) (m : Nat) (e : Int) : Int × Nat :=
  if 0 ≤ e then (if neg then -(m * 2 ^ e.toNat : Nat) else (m * 2 ^ e.toNat : Nat), 0)
  else
    let d := (-e).toNat
    let q := m >>> d
    let r := m % 2 ^ d
    if r = 0 then (if neg then -(q : Int) else q, 0)
    else if neg then (-(q : Int) - 1, toFx (2 ^ d - r) e)
    else (q, toFx r e)

/-- 2^x of a finite value (R219). A magnitude of 2^20 or more is far beyond every format's range. -/
def exp2Fin (neg : Bool) (m : Nat) (e : Int) : FV :=
  if m = 0 then .fin false 1 0 false
  else if 20 ≤ (Nat.log2 m : Int) + e then .fin false 1 (if neg then -1048576 else 1048576) true
  else
    let (n, f) := splitInt neg m e
    if f = 0 then .fin false 1 n false
    else .fin false (fxExp (fxMul f fxLn2)) (n - fxBits) true

/-- log2 of a positive finite value (R219). -/
def log2Fin (m : Nat) (e : Int) : FV :=
  let n := (Nat.log2 m : Int) + e
  if m = 2 ^ Nat.log2 m then .fin (decide (n < 0)) n.natAbs 0 false
  else
    let l := fxLn (toFx m (-(Nat.log2 m : Int))) * fxOne / fxLn2
    let t := n * fxOne + l
    .fin (decide (t < 0)) t.natAbs (-(fxBits : Int)) true

/-- sin(π x) for x = q/2 + f, f in [0, 1/2): by quadrant; `f` is in fixed point. -/
def sinQuadrant (q f : Nat) : FV :=
  let up := q % 2 = 1
  let neg := 2 ≤ q % 4
  let y := if up then fxOne / 2 - f else f
  if y = 0 then .fin neg 0 0 false
  else if y = fxOne / 2 then .fin neg 1 0 false
  else .fin neg (fxSin (fxMul fxPi y)).toNat (-(fxBits : Int)) true

/-- sin(π x) (R219); `shift` 1 adds a quarter turn and gives cos(π x). -/
def sinPiFin (shift : Nat) (neg : Bool) (m : Nat) (e : Int) : FV :=
  let (n, f) := splitInt (if shift = 1 then false else neg) m e
  let half := fxOne / 2
  let q := (n % 2).toNat * 2 + (if half ≤ f then 1 else 0) + shift
  let v := sinQuadrant q (if half ≤ f then f - half else f)
  match v with
  | .fin _ 0 _ _ => .fin (shift = 0 && neg) 0 0 false
  | v => v

/-- The functions of R219: 0 frcp, 1 frsq, 2 fex2, 3 flg2, 4 fsin, 5 fcos. The value and DZ; `none` is invalid. -/
def funcFV (fn : Nat) (x : FV) : Option (FV × Nat) :=
  match x with
  | .nan s => some (.nan s, 0)
  | .inf n =>
    match fn with
    | 0 => some (.fin n 0 0 false, 0)
    | 1 => if n then none else some (.fin false 0 0 false, 0)
    | 2 => some (if n then .fin false 0 0 false else .inf false, 0)
    | 3 => if n then none else some (.inf false, 0)
    | _ => none
  | .fin n m e _ =>
    match fn with
    | 0 => if m = 0 then some (.inf n, cDZ) else some (divFin n 1 0 m e, 0)
    | 1 => if m = 0 then some (.inf n, cDZ) else if n then none else some (rsqrtFin m e, 0)
    | 2 => some (exp2Fin n m e, 0)
    | 3 => if m = 0 then some (.inf true, cDZ) else if n then none else some (log2Fin m e, 0)
    | 4 => if m = 0 then some (.fin n 0 0 false, 0) else some (sinPiFin 0 n m e, 0)
    | _ => some (if m = 0 then .fin false 1 0 false else sinPiFin 1 n m e, 0)

/-- The reduced precision of a format (R219). -/
def reducedP (f : Fmt) : Nat := if f.fbits = 23 then 16 else f.fbits + 1

end Sys2Proof.Machine
end

