-- ==== Sys2Proof/Config.lean ====
section
/-! DEFINITION. What the spec leaves open, as constants without a body: nothing can be proved about their values
(log entry 4). -/

namespace Sys2Proof.Config

/-- The n-th value that the spec leaves open; the state counts them. -/
opaque openValue : Nat → Word

/-- An element of a v register that is unspecified (R102, R171): hart, generation of the grant, place. -/
opaque lostElem : Nat → Nat → Nat → Word

/-- A bit of a p register that is unspecified (R102, R171). -/
opaque lostBit : Nat → Nat → Nat → Bool

/-- Whether an SM2 signature over bytes verifies under a public key (R518, R519): key, bytes, signature. The spec names the algorithm and
gives neither its signer's identity nor a key's encoding (log entry 10). -/
opaque sm2 : List Byte → List Byte → List Byte → Bool

/-- A measurement whose input the spec does not give: the boot ROM (1) and the fuse configuration (5) (R520). -/
opaque measure : Nat → Nat

end Sys2Proof.Config
end

