-- ==== Sys2Proof/Machine/Ops.lean ====
section
/-! DEFINITION. Named operations over the state: harts, registers, CSRs, agenda, the part's size and capability
register, memory locations, and taking and returning from a trap. -/

namespace Sys2Proof.Machine

/-! ### The part -/

/-- Compute dies of the part (R8). -/
def State.dies (s : State) : Nat := match s.part with | .vp940 => 4 | .vp920 => 2

/-- A guest site is present (R31, R32). -/
def State.gsk (s : State) : Bool := match s.part with | .vp940 => true | .vp920 => false

/-- A guest is bound (R483). -/
def State.gbnd (s : State) : Bool := s.gsk && s.guest.state == 2

/-- `vpcap` (R31). -/
def State.vpcap (s : State) : Word :=
  match s.part with
  | .vp940 => if s.gbnd then 0x00000001FFFF04FF else 0x00000001FFFF047F
  | .vp920 => 0x00000001FFFF027E

/-- The core index of a hart: die * 128 + core, or 512 for the Quadrille cluster (R10, R498). -/
def coreOf (h : Nat) : Nat := h / 8

/-- The die of a core index; 4 is the hub. -/
def dieOf (ci : Nat) : Nat := ci / 128

/-- The die on which a hart stands. -/
def hartDie (h : Nat) : Nat := dieOf (coreOf h)

/-- A hart of the Quadrille cluster (R498). -/
def isQuadrille (h : Nat) : Bool := decide (4096 ≤ h)

/-- The density in Gbit that the 24 GDDR7 devices of a die share, 0 where one is missing, failed its training or differs (R523). -/
def densityOf (devs : List Nat) : Nat :=
  match devs with
  | g :: r => if decide (r.length = 23) && r.all (· == g) && (g == 16 || g == 24 || g == 32) then g else 0
  | [] => 0

/-- GDDR7 behind a die in bytes (R523): two devices at each of 12 controllers; a board carries 96 GiB behind every present die unless
its devices are listed. -/
def State.gddr (s : State) (d : Nat) : Nat :=
  if d < s.dies then (match s.mgmt.dram.lookup d with | some l => 3 * densityOf l | none => 96) * 2 ^ 30 else 0

/-! ### Harts and cores -/

/-- A hart of the device. -/
def State.hart (s : State) (h : Nat) : Hart := tget Hart.init s.harts h

/-- Put a hart back. -/
def State.setHart (s : State) (h : Nat) (x : Hart) : State := { s with harts := tset h x s.harts }

/-- Change a hart. -/
def State.modHart (s : State) (h : Nat) (f : Hart → Hart) : State := s.setHart h (f (s.hart h))

/-- The hart that executes. -/
def State.me (s : State) : Hart := s.hart s.cur

/-- Change the hart that executes. -/
def State.modMe (s : State) (f : Hart → Hart) : State := s.modHart s.cur f

/-- A core of the device. -/
def State.core (s : State) (c : Nat) : Core := tget default s.cores c

/-- Change a core. -/
def State.modCore (s : State) (c : Nat) (f : Core → Core) : State := { s with cores := tset c (f (s.core c)) s.cores }

/-- The core of the hart that executes. -/
def State.myCore (s : State) : Nat := coreOf s.cur

/-- The hart numbers of a core. -/
def coreHarts (c : Nat) : List Nat := (List.range (if c = 512 then 4 else 8)).map (c * 8 + ·)

/-- Every hart that has left its rest state. -/
def State.liveHarts (s : State) : List Nat := tkeys s.harts

/-! ### Events -/

/-- Add events to those that are due. -/
def State.due (s : State) (es : List Ev) : State := { s with agenda := s.agenda ++ es }

/-! ### Registers -/

/-- An x register; x0 reads 0. -/
def Hart.xr (h : Hart) (r : Nat) : Word := if r = 0 then 0 else tget 0 h.x r

/-- A put to the register that a hart write has replaced (R105). -/
def Biq.dropped (b : Biq) (r : Nat) : Bool := b.xdrop.any fun d => d.1 == r

/-- The blocks of a hart that will write x register `r` (R105). -/
def Biq.marks (b : Biq) (r : Nat) : Bool :=
  !b.dropped r &&
  match b.code with
  | none => false
  | some c => c.instrs.any fun i => match i.2 with | .xput f => f.reg.toNat == r | _ => false

/-- Rank of a privilege level, as CSR numbers encode it. -/
def privRank : Priv → Nat
  | .u => 0
  | .s => 1
  | .m => 3

/-- The scoreboard marks of a block bind what the hart executes now (R105). Held blocks wait for the handler of their fault, so they
do not bind it (log entry 50). -/
def Hart.binds (h : Hart) (b : Biq) : Bool := !(h.held && (decide (privRank b.priv < privRank h.priv) || h.told))

/-- Write an x register: x0 discards; a block whose later `xput` names the register loses that put (R105). -/
def Hart.setX (h : Hart) (r : Nat) (v : Word) : Hart :=
  if r = 0 then h
  else
    { h with
      x := tset r v h.x
      biq := h.biq.map fun b => if h.binds b && b.marks r then { b with xdrop := (r, h.seq) :: b.xdrop } else b }

/-- An f register. -/
def Hart.fr (h : Hart) (r : Nat) : Word := tget 0 h.f r

/-- Write an f register. -/
def Hart.setF (h : Hart) (r : Nat) (v : Word) : Hart := { h with f := tset r v h.f }

/-- Read an x register of the hart that executes. -/
def State.x (s : State) (r : BitVec 5) : Word := s.me.xr r.toNat

/-- Write an x register of the hart that executes. -/
def State.wx (s : State) (r : BitVec 5) (v : Word) : State := s.modMe fun h => h.setX r.toNat v

/-! ### CSR numbers -/

/-- A stored CSR by number; 0 where nothing was written. -/
def Hart.cs (h : Hart) (n : Nat) : Word := tget 0 h.csr n

/-- Store a CSR by number. -/
def Hart.setCs (h : Hart) (n : Nat) (v : Word) : Hart := { h with csr := tset n v h.csr }

/-- `vcfg` (R87). -/
def csrVcfg : Nat := 0x800
/-- `cpyspec` (R86). -/
def csrCpyspec : Nat := 0x801
/-- `cpyshape` (R284). -/
def csrCpyshape : Nat := 0x802
/-- `sigto` (R91). -/
def csrSigto : Nat := 0x803
/-- `nep` (R448). -/
def csrNep : Nat := 0x804
/-- `nrva` (R449). -/
def csrNrva : Nat := 0x805
/-- `ncspec` (R449). -/
def csrNcspec : Nat := 0x806
/-- `nrspec` (R449). -/
def csrNrspec : Nat := 0x807
/-- `mcfg` (R302). -/
def csrMcfg : Nat := 0x808
/-- `vl` (R89). -/
def csrVl : Nat := 0xCC0
/-- `vlmax` (R89). -/
def csrVlmax : Nat := 0xCC1
/-- `bfcause` (R97); `bfaddr`, `bfelem`, `bflsid`, `bfblk` follow. -/
def csrBfcause : Nat := 0x5C0
/-- `ctxbase` (R95). -/
def csrCtxbase : Nat := 0x5C7
/-- `pfpark` (R96). -/
def csrPfpark : Nat := 0x5C8
/-- `satp` (R79). -/
def csrSatp : Nat := 0x180
/-- `mstatus`. -/
def csrMstatus : Nat := 0x300
/-- `medeleg`. -/
def csrMedeleg : Nat := 0x302
/-- `mideleg`. -/
def csrMideleg : Nat := 0x303
/-- `mie`. -/
def csrMie : Nat := 0x304
/-- `mip`. -/
def csrMip : Nat := 0x344
/-- `stvec`. -/
def csrStvec : Nat := 0x105
/-- `sepc`. -/
def csrSepc : Nat := 0x141
/-- `scause`. -/
def csrScause : Nat := 0x142
/-- `stval`. -/
def csrStval : Nat := 0x143
/-- `mtvec`. -/
def csrMtvec : Nat := 0x305
/-- `mepc`. -/
def csrMepc : Nat := 0x341
/-- `mcause`. -/
def csrMcause : Nat := 0x342
/-- `mtval`. -/
def csrMtval : Nat := 0x343

/-- The SEW of a `vcfg` value in bits (R87). -/
def sewBits (vcfg : Word) : Nat := 8 <<< (vcfg.toNat % 4)

/-- SCOPE of a `vcfg` value. -/
def vcfgScope (vcfg : Word) : Nat := bits vcfg.toNat 7 3

/-- The PASID of a hart's running task instance (R19); 0 where none runs and on the Quadrille cluster. -/
def State.pasidOf (s : State) (h : Nat) : Nat :=
  match (s.hart h).inst with
  | none => 0
  | some i =>
    match s.tqe.insts.lookup i with
    | none => 0
    | some t =>
      match s.tqe.pkts.lookup t.pk with
      | none => 0
      | some p => ((s.tqe.queues.lookup p.q).map (·.pasid)).getD 0

/-- The queue of a hart's running instance. -/
def State.queueOf (s : State) (h : Nat) : Option Queue := do
  let i ← (s.hart h).inst
  let t ← s.tqe.insts.lookup i
  let p ← s.tqe.pkts.lookup t.pk
  s.tqe.queues.lookup p.q

/-- The running instance of a hart is PREEMPTIBLE (R121). -/
def State.preemptible (s : State) (h : Nat) : Bool :=
  match (s.hart h).inst with
  | none => false
  | some i => match s.tqe.insts.lookup i with | none => false | some t => t.pre

/-- The SCOPE, SUM and MXR that govern a hart's accesses now (R427). -/
def Hart.sumBit (h : Hart) : Bool := (h.cs csrMstatus).toNat.testBit 18
/-- MXR as it stands. -/
def Hart.mxrBit (h : Hart) : Bool := (h.cs csrMstatus).toNat.testBit 19

/-! ### Going on -/

/-- The instruction of the executing hart retires: the pc moves past it, `instret` counts it (R82), a wait ends. -/
def State.retire (s : State) : State :=
  s.modMe fun h =>
    { h with pc := h.pc + BitVec.ofNat 64 s.ilen, wait := none, timedOut := false
             csr := tset 0xB02 (h.cs 0xB02 + 1) h.csr }

/-- Retire with a result in rd. -/
def State.retireX (s : State) (rd : BitVec 5) (v : Word) : State := (s.wx rd v).retire

/-- The 32-bit instruction at which a hart waits ends by an event: `rd` takes its result and the hart stands behind it. -/
def State.finish (s : State) (h rd : Nat) (v : Word) : State :=
  s.modHart h fun x =>
    { x.setX rd v with pc := x.pc + 4, wait := none, timedOut := false, csr := tset 0xB02 (x.cs 0xB02 + 1) x.csr }

/-- The executing hart waits at its instruction and will execute it again. -/
def State.wait (s : State) (w : Wait) : State := s.modMe fun h => { h with wait := some w }

/-- Outcome: the next state. -/
abbrev Out := Host.Outcome State Fault Refusal

/-! ### Errors and host events -/

/-- A value that the spec leaves open: a new free value each time (log entry 4). -/
def State.free (s : State) : State × Word := ({ s with fresh := s.fresh + 1 }, Config.openValue s.fresh)

/-- `dtime` of a die (R92); the hub reads die 0's. -/
def State.dtimeOf (s : State) (d : Nat) : Nat := tget 0 s.tqe.dtime (if d < 4 then d else 0)

/-- The cluster writes a host event to the queue at EVBASE and may signal MSI-X (R507). A full queue counts the
record lost (R362). -/
def State.hostEvent (s : State) (code die seq detail : Nat) (flag : Bool) : State :=
  let base := 0x100000000000 + s.fe.evbase
  let n := 2 ^ (bits s.fe.evcfg 0 4)
  let wrn := memNat s.mem base 8
  let rdn := memNat s.mem (base + 8) 8
  let s :=
    if s.fe.evbase = 0 then s
    else if (wrn + 2 ^ 64 - rdn) % 2 ^ 64 = n then
      { s with mem := memPutNat (base + 16) 8 (memNat s.mem (base + 16) 8 + 1) s.mem }
    else
      let a := base + 64 + 32 * (wrn % n)
      let r := leBytes 1 code ++ leBytes 1 0 ++ leBytes 1 die ++ leBytes 1 0 ++ leBytes 4 0 ++ leBytes 8 seq ++
        leBytes 8 0 ++ leBytes 8 detail
      { s with mem := memPutNat base 8 (wrn + 1) (memPut a r s.mem) }
  if flag || decide (0x40 ≤ code) then { s with fe := { s.fe with msix := s.fe.msix + 1 } } else s

/-- A host event of no error record: the spec states no SEQ for it. -/
def State.hostNote (s : State) (code die detail : Nat) (flag : Bool) : State :=
  let (s, q) := s.free
  s.hostEvent code die q.toNat detail flag

/-- What an error record names (R510). -/
structure Err where
  code   : Nat
  sev    : Nat
  unit   : Nat
  die    : Nat := 4
  core   : Nat := 0xFF
  hart   : Nat := 0xFF
  lg     : Nat := 0xFF
  lane   : Nat := 0xFF
  elem   : Nat := 0xFFFFFFFF
  strip  : Nat := 0
  pasid  : Nat := 0
  pa     : Nat := 0
  va     : Nat := 0
  detail : Nat := 0
  deriving DecidableEq, Repr

/-- The host event that a record of SEV 1 or 2 raises (R511): its code and detail. -/
def Err.event (e : Err) : Option (Nat × Nat) :=
  if e.sev = 2 then some (0x40, e.detail)
  else if e.sev = 0 then none
  else if e.code = 0x15 then some (0x41, e.pasid)
  else if e.code = 0x16 then some (0x42, e.detail)
  else if e.code = 0x14 then some (0x43, e.detail)
  else if e.code = 0x19 then some (0x44, e.die * 128 + e.core)
  else some (0x49, e.code)

/-- The cluster writes an error record and its host event (R509 to R511). -/
def State.errorRecord (s : State) (e : Err) : State :=
  let n := s.mgmt.logn
  let a := s.gddr 0 - 0x200000 + 64 * (n % 32768)
  let r := leBytes 8 (n + 1) ++ leBytes 2 e.code ++ leBytes 1 e.sev ++ leBytes 1 e.unit ++ leBytes 1 e.die ++
    leBytes 1 e.core ++ leBytes 1 e.hart ++ leBytes 1 e.lg ++ leBytes 1 e.lane ++ leBytes 3 0 ++ leBytes 4 e.elem ++
    leBytes 4 e.strip ++ leBytes 4 e.pasid ++ leBytes 8 e.pa ++ leBytes 8 e.va ++ leBytes 8 (s.dtimeOf e.die) ++
    leBytes 8 e.detail
  let s := { s with mem := memPut a r s.mem, mgmt := { s.mgmt with logn := n + 1 } }
  match e.event with
  | some (c, d) => s.hostEvent c e.die (n + 1) d false
  | none => s

/-- Which of two hard pre-emption requests to one hart stands: the stop of the PASID, then ABORT-HARD, the watchdog, a quarantine (log
entry 57). -/
def hardRank : Nat → Nat
  | 2 => 4
  | 1 => 3
  | 3 => 2
  | 4 => 1
  | _ => 0

/-- A hart's request with a hard one besides it: how far it has come stays. -/
def Preempt.harder (p : Preempt) (cause : Nat) : Preempt :=
  if p.hard && decide (hardRank cause ≤ hardRank p.cause) then p
  else { p with cause := cause, timed := false, hard := true }

/-- A request to pre-empt a hart at once (R121, R122): quarantine 4, watchdog 3, PASID-stop 2, ABORT-HARD 1. -/
def State.askHard (s : State) (h cause : Nat) : State :=
  if (s.hart h).inst.isNone then s
  else s.modHart h fun x =>
    { x with preempt := some ((x.preempt.getD ⟨cause, false, false, false, false⟩).harder cause) }

/-- A core is quarantined (R133): every other hart of it is hard pre-empted; the record and its event follow. -/
def State.quarantine (s : State) (ci why : Nat) (but : Option Nat) : State :=
  let s := (s.modCore ci fun c => { c with quar := true }).due [.tqeDispatch (dieOf ci)]
  let s := ((coreHarts ci).filter fun h => some h != but).foldl (fun s h => s.askHard h 4) s
  s.errorRecord { code := 0x19, sev := 1, unit := 0, die := dieOf ci, core := ci % 128, detail := why }

/-! ### Traps -/

/-- The mode of a trap: M for M-mode itself and for causes not delegated, S otherwise (R80). `medeleg` holds
the delegation that firmware sets. -/
def Hart.trapsToS (h : Hart) (cause : Nat) : Bool :=
  match h.priv with
  | .m => false
  | _ => (h.cs csrMedeleg).toNat.testBit cause

/-- The bit position to which a privilege level is saved. -/
def privBits : Priv → Nat
  | .u => 0
  | .s => 1
  | .m => 3

/-- `mstatus` after a trap into S: SPIE := SIE, SIE := 0, SPP := the interrupted mode. -/
def statusTrapS (st : Word) (p : Priv) : Word :=
  let sie := st.extractLsb' 1 1
  let base := st &&& ~~~(0x122 : Word)
  base ||| (sie.setWidth 64 <<< 5) ||| ((if p = .s then 1 else 0 : Word) <<< 8)

/-- `mstatus` after a trap into M: MPIE := MIE, MIE := 0, MPP := the interrupted mode. -/
def statusTrapM (st : Word) (p : Priv) : Word :=
  let mie := st.extractLsb' 3 1
  let base := st &&& ~~~(0x1888 : Word)
  base ||| (mie.setWidth 64 <<< 7) ||| (BitVec.ofNat 64 (privBits p) <<< 11)

/-- Where a trap vector sends the pc: BASE, or BASE + 4 * cause for an interrupt in vectored mode. -/
def trapTarget (tvec : Word) (cause : Nat) (intr : Bool) : Word :=
  let base := tvec &&& ~~~(3 : Word)
  if intr && tvec.extractLsb' 0 2 == 1 then base + BitVec.ofNat 64 (4 * cause) else base

/-- Take a trap on a hart, into S or into M: the saved pc and cause, the trap value, the status and mode, the
handler's address; a wait in progress is abandoned with the saved pc at its instruction (R113, R117). -/
def Hart.trap (h : Hart) (toS : Bool) (cause : Nat) (intr : Bool) (tval : Word) : Hart :=
  let code : Word := BitVec.ofNat 64 cause ||| (if intr then 0x8000000000000000 else 0)
  let st := h.cs csrMstatus
  if toS then
    { h with
      csr := tset csrStval tval (tset csrScause code (tset csrSepc h.pc
        (tset csrMstatus (statusTrapS st h.priv) h.csr)))
      pc := trapTarget (h.cs csrStvec) cause intr, priv := .s, wait := none, timedOut := false }
  else
    { h with
      csr := tset csrMtval tval (tset csrMcause code (tset csrMepc h.pc
        (tset csrMstatus (statusTrapM st h.priv) h.csr)))
      pc := trapTarget (h.cs csrMtvec) cause intr, priv := .m, wait := none, timedOut := false }

/-- A hart takes an exception at its instruction. An exception of M-mode on a compute hart is routed to the host, and its core is
quarantined (R507). -/
def State.exceptAt (s : State) (h cause : Nat) (tval : Word) : State :=
  let t := s.modHart h fun x => x.trap (x.trapsToS cause) cause false tval
  if (s.hart h).priv = .m && !isQuadrille h then
    (t.hostNote 0x46 (hartDie h) h false).quarantine (coreOf h) 4 (some h)
  else t

/-- The executing hart takes an exception at its instruction. -/
def State.except (s : State) (cause : Nat) (tval : Word) : State := s.exceptAt s.cur cause tval

/-- Illegal instruction: cause 2, the 32 instruction bits in `stval` (R82). -/
def State.illegal (s : State) (w : BitVec 32) : State := s.except 2 (w.setWidth 64)

/-- Command fault: cause 25 (R29, R116). -/
def State.cmdFault (s : State) (tval : Word) : State := s.except 25 tval

/-- Matrix fault: cause 30 with its reason (R305). -/
def State.matFault (s : State) (why : Nat) : State := s.except 30 (BitVec.ofNat 64 why)

/-- `sret`: the mode from SPP, SIE from SPIE, SPIE := 1, SPP := U, pc from `sepc`. -/
def Hart.sret (h : Hart) : Hart :=
  let st := h.cs csrMstatus
  let spie := st.extractLsb' 5 1
  let st' := (st &&& ~~~(0x122 : Word)) ||| (spie.setWidth 64 <<< 1) ||| 0x20
  let p := if st.extractLsb' 8 1 == 1 then Priv.s else Priv.u
  { h with pc := h.cs csrSepc, priv := p, csr := tset csrMstatus (st' &&& ~~~(0x20000 : Word)) h.csr, wait := none
           told := false }

/-- `mret`: the mode from MPP, MIE from MPIE, MPIE := 1, MPP := U, pc from `mepc`; MPRV clears below M. -/
def Hart.mret (h : Hart) : Hart :=
  let st := h.cs csrMstatus
  let mpie := st.extractLsb' 7 1
  let mpp := (st.extractLsb' 11 2).toNat
  let p := if mpp = 3 then Priv.m else if mpp = 1 then Priv.s else Priv.u
  let st' := (st &&& ~~~(0x1888 : Word)) ||| (mpie.setWidth 64 <<< 3) ||| 0x80
  let st'' := if p = .m then st' else st' &&& ~~~(0x20000 : Word)
  { h with pc := h.cs csrMepc, priv := p, csr := tset csrMstatus st'' h.csr, wait := none, told := false }

/-! ### Locations -/

/-- Where the local memory of a core begins among location keys; device PAs lie below (R14, R58). -/
def locBase (ci : Nat) : Nat := 2 ^ 52 + ci * 2 ^ 20

/-- A location key names a byte of local memory. -/
def isLocal (a : Nat) : Bool := decide (2 ^ 52 ≤ a)

/-- The core whose local memory a key names. -/
def localCore (a : Nat) : Nat := (a - 2 ^ 52) / 2 ^ 20

/-- The offset in local memory. -/
def localOff (a : Nat) : Nat := a % 2 ^ 20

/-- What stands behind a device PA (R14). -/
inductive Backing where
  | gddr (d : Nat)
  | stier (p : Nat)
  | host (h : Nat)
  | peer (p off : Nat)
  | guest (off : Nat)
  | mmio
  | nothing
  deriving DecidableEq, Repr

/-- 96 GiB. -/
def gib96 : Nat := 0x1800000000

/-- The resource behind a PA, or nothing (R14, R15, R523). -/
def State.backing (s : State) (pa : Nat) : Backing :=
  if pa < 4 * gib96 then
    let d := pa / gib96
    if pa % gib96 < s.gddr d then .gddr d else .nothing
  else if 0x10000000000 ≤ pa ∧ pa < 0x50000000000 then
    let p := (pa - 0x10000000000) / 2 ^ 39
    if pa % 2 ^ 39 < tget 0 s.host.stier p then .stier p else .nothing
  else if 0x100000000000 ≤ pa ∧ pa < 0x200000000000 then .host (pa - 0x100000000000)
  else if 0x200000000000 ≤ pa ∧ pa < 0x300000000000 then
    let p := (pa - 0x200000000000) / 2 ^ 41
    let o := pa % 2 ^ 41
    if (s.host.peers.lookup p).isSome && decide (o < 4 * gib96) then .peer p o else .nothing
  else if 0x300000000000 ≤ pa ∧ pa < 0x310000000000 then
    if s.gbnd && decide (pa - 0x300000000000 < s.guest.gsize) then .guest (pa - 0x300000000000) else .nothing
  else if 0xFFFFF00000000 ≤ pa ∧ pa < 2 ^ 52 then .mmio
  else .nothing

/-- The host window entry for a host PA: the lowest override that matches, else the primary entry (R472). -/
def State.hostWin (s : State) (h : Nat) : Nat :=
  match s.host.ovr.find? fun e => decide (e.2.2.1 ≤ h) && decide (h < e.2.2.1 + e.2.2.2 * 4096) with
  | some e => e.2.1
  | none => tget 0 s.host.win (h / 2 ^ 32)

/-- A COH host mapping (R472). -/
def winCoh (e : Nat) : Bool := bits e 0 2 == 1
/-- An NC host mapping. -/
def winNc (e : Nat) : Bool := bits e 0 2 == 2
/-- The port that serves a window. -/
def winPort (e : Nat) : Nat := bits e 2 1
/-- A read-sensitive window (R255). -/
def winRs (e : Nat) : Bool := bit e 3

/-- A resource answers at the PA: host windows only where their entry maps and their port is up (R15, R472, R480). -/
def State.backed (s : State) (pa : Nat) : Bool :=
  match s.backing pa with
  | .nothing => false
  | .mmio => false
  | .host h => let e := s.hostWin h; (winCoh e || winNc e) && !s.host.down.contains (winPort e)
  | .peer p _ => !s.host.down.contains (tget 0 s.host.peers p)
  | _ => true

/-- A live round region that holds a PA (R403). -/
def State.regionAt (s : State) (pa : Nat) : Option Nat :=
  (s.rounds.regions.find? fun e => decide (e.2.pbase ≤ pa) && decide (pa < e.2.pbase + e.2.size * 65536)).map (·.1)

/-- The line of a PA (R380). -/
def lineOf (pa : Nat) : Nat := pa / 128

/-- Memory that the directory covers: GDDR7, second tier, COH host and guest-homed, outside round regions (R378). -/
def State.cached (s : State) (pa : Nat) : Bool :=
  !isLocal pa &&
  (match s.backing pa with
   | .gddr _ => true
   | .stier _ => true
   | .host h => winCoh (s.hostWin h)
   | .guest _ => true
   | _ => false) &&
  (s.regionAt pa).isNone

/-- The hash of R380. -/
def homeHash (line : Nat) : Nat :=
  (line % 2 ^ 13) ^^^ (bits line 13 13) ^^^ (bits line 26 13) ^^^ (bits line 39 6)

/-- The die that serves a PA (R380, R381). -/
def State.homeDie (s : State) (pa : Nat) : Nat :=
  match s.backing pa with
  | .gddr d => d
  | .stier p => p % s.dies
  | .host h => winPort (s.hostWin h)
  | .guest _ => 2
  | _ => 4

/-- The memory controller of a GDDR7 line on its die (R380). -/
def homeCtrl (line : Nat) : Nat := homeHash line % 12

/-- The home slice of a line, numbered over the device: die * 80 + slice (R380). -/
def State.homeSlice (s : State) (line : Nat) : Nat := s.homeDie (line * 128) * 80 + homeHash line % 80

end Sys2Proof.Machine
end

