-- ==== Sys2Proof/Machine/Coh.lean ====
section
/-! DEFINITION. The directory and the core caches (R376 to R398): entries, home transactions, node states, the
three-phase write-back, links between dies, and the atomic accesses built from them. `mem` always holds the coherent value of every
byte; what the LLC copy of a line held in M still reads is kept in `stale` (log entry 8). -/

namespace Sys2Proof.Machine

/-- The guest's coherent port as a sharer (R382). -/
def guestPort : Nat := 512
/-- An agent that is no node (R382). -/
def noNode : Nat := 513
/-- The node of a core; the Quadrille cluster is none. -/
def nodeOf (ci : Nat) : Nat := if ci < 512 then ci else noNode

/-! ### Writing memory -/

/-- The signal words whose monitors a write of `len` bytes at `a` touches (R20, R23). -/
def State.watchers (s : State) (a len : Nat) : List Nat :=
  (s.harts.filterMap fun e =>
    match e.2.wait with
    | some (.signal pa) => if pa / 32 * 32 < a + len ∧ a < pa / 32 * 32 + 32 then some pa else none
    | _ => none).eraseDups

/-- Write bytes at a location and wake the waiters of the granules touched (R23). -/
def State.poke (s : State) (a : Nat) (bs : List Byte) : State :=
  { s with mem := memPut a bs s.mem, agenda := s.agenda ++ (s.watchers a bs.length).map .signalWake }

/-- Bytes of memory as they coherently stand. -/
def State.peek (s : State) (a n : Nat) : List Byte := memBytes s.mem a n

/-- The little-endian value of `n` bytes. -/
def State.peekN (s : State) (a n : Nat) : Nat := memNat s.mem a n

/-- Write a little-endian value. -/
def State.pokeN (s : State) (a n v : Nat) : State := s.poke a (leBytes n v)

/-! ### Node states and entries -/

/-- The key of a node's line. -/
def nkey (n l : Nat) : Nat := n * 2 ^ 45 + l

/-- The state of a line in a node (R390). -/
def State.ns (s : State) (n l : Nat) : NState := tget .i s.coh.nodes (nkey n l)

/-- Set a node's line state. -/
def State.setNs (s : State) (n l : Nat) (x : NState) : State :=
  { s with coh := { s.coh with
      nodes := if x = .i then tdel (nkey n l) s.coh.nodes else tset (nkey n l) x s.coh.nodes } }

/-- An entry in UNC (R383). -/
def Dir.unc : Dir := ⟨0, false, false, 0, false, [], 0⟩

/-- A line's directory entry. -/
def State.dir (s : State) (l : Nat) : Dir := tget .unc s.coh.dir l

/-- Set a line's entry. -/
def State.setDir (s : State) (l : Nat) (d : Dir) : State := { s with coh := { s.coh with dir := tset l d s.coh.dir } }

/-- Set or clear BUSY. -/
def State.setBusy (s : State) (l : Nat) (b : Bool) : State := s.setDir l { s.dir l with busy := b }

/-- The bit of a node's die in DP. -/
def dpBit (n : Nat) : Nat := if n < 512 then 1 <<< (n / 128) else 0
/-- The bit of a node's cluster in CV. -/
def cvBit (n : Nat) : Nat := if n < 512 then 1 <<< (n % 128 / 8) else 0

/-- A node is added to an SH entry (R384). -/
def Dir.add (d : Dir) (n : Nat) : Dir :=
  if n = guestPort then { d with st := 1, gp := true }
  else if d.coarse then { d with st := 1, dp := d.dp ||| dpBit n, cv := d.cv ||| cvBit n }
  else if d.ptrs.contains n then { d with st := 1 }
  else if d.ptrs.length < 4 then { d with st := 1, dp := d.dp ||| dpBit n, ptrs := d.ptrs ++ [n] }
  else
    { d with st := 1, coarse := true, ptrs := []
             dp := (d.ptrs ++ [n]).foldl (fun a m => a ||| dpBit m) 0
             cv := (d.ptrs ++ [n]).foldl (fun a m => a ||| cvBit m) 0 }

/-- SH {n} in pointer form, idle. -/
def Dir.share (n : Nat) : Dir :=
  if n = guestPort then { Dir.unc with st := 1, gp := true }
  else { Dir.unc with st := 1, dp := dpBit n, ptrs := [n] }

/-- EX {n}, idle (R383). -/
def Dir.own (n : Nat) : Dir := { Dir.share n with st := 2 }

/-- The entry lists or covers node n (R384). -/
def Dir.covers (d : Dir) (n : Nat) : Bool :=
  if n = guestPort then d.gp
  else if n ≥ 512 then false
  else if d.coarse then d.dp &&& dpBit n != 0 && d.cv &&& cvBit n != 0
  else d.ptrs.contains n

/-- Every node that the entry lists, or its cover set in ascending die, cluster and core (R384, R389). -/
def Dir.members (d : Dir) : List Nat :=
  (if d.coarse then (List.range 512).filter d.covers else d.ptrs) ++ (if d.gp then [guestPort] else [])

/-- The owner of an EX entry. -/
def Dir.owner (d : Dir) : Nat := match d.ptrs with | n :: _ => n | [] => guestPort

/-- The 64-bit word of an entry (R383). -/
def Dir.word (d : Dir) : Nat :=
  let low := d.st ||| (if d.coarse then 4 else 0) ||| (if d.busy then 8 else 0) ||| (d.dp <<< 4) ||| (if d.gp then 256 else 0)
  if d.coarse then low ||| (d.cv <<< 16)
  else low ||| (d.ptrs.length <<< 9) ||| (d.ptrs.getD 0 0 <<< 16) ||| (d.ptrs.getD 1 0 <<< 25) |||
    (d.ptrs.getD 2 0 <<< 34) ||| (d.ptrs.getD 3 0 <<< 43)

/-- Remove node n from a pointer-form entry (R392). While the guest's port keeps its copy the entry stays SH: R383 calls UNC an
entry without any node copy, and R382 the port a sharer node (log entry 55). -/
def Dir.remove (d : Dir) (n : Nat) : Dir :=
  let ps := d.ptrs.filter (· != n)
  let gp := if n = guestPort then false else d.gp
  if ps.isEmpty && !gp then { Dir.unc with busy := d.busy }
  else { d with ptrs := ps, gp := gp, dp := ps.foldl (fun a m => a ||| dpBit m) 0 }

/-! ### Dirty data -/

/-- Forget what the LLC copy of a line read: it is now current. -/
def State.dropStale (s : State) (l : Nat) : State :=
  { s with coh := { s.coh with stale := s.coh.stale.filter fun c => c.1 / 128 != l } }

/-- The LLC copy replaces dirty data that is lost (R397, R497). -/
def State.loseDirty (s : State) (l : Nat) : State :=
  let old := s.coh.stale.filter fun c => c.1 / 128 == l
  { s with mem := memCells old s.mem }.dropStale l

/-- The L1V and block-cache copies of a line in a node are invalid: its L1D has write permission (R252). -/
def State.dropVector (s : State) (n l : Nat) : State :=
  { s with coh := { s.coh with
      l1v := tset ((n * 4 + l % 4) * 64 + l / 4 % 64) ((tget [] s.coh.l1v ((n * 4 + l % 4) * 64 + l / 4 % 64)).filter (· != l)) s.coh.l1v
      bc := tset n ((tget [] s.coh.bc n).filter (· != l)) s.coh.bc } }

/-- A node that owns a line writes bytes of it: the line becomes M, the LLC copy keeps the old bytes. -/
def State.ownWrite (s : State) (n a : Nat) (bs : List Byte) : State :=
  let l := lineOf a
  let fresh := (List.range bs.length).filter fun i => (s.coh.stale.lookup (a + i)).isNone
  let s := { s with coh := { s.coh with stale := s.coh.stale ++ fresh.map fun i => (a + i, memGet s.mem (a + i)) } }
  ((s.poke a bs).setNs n l .m).dropVector n l

/-! ### Caches of a node -/

/-- The L1D set of a line (R376). -/
def l1dKey (n l : Nat) : Nat := n * 64 + l % 64
/-- The L1V set of a line on its slice (R376): slice PA[8:7], set PA[14:9]. -/
def l1vKey (n l : Nat) : Nat := (n * 4 + l % 4) * 64 + l / 4 % 64

/-- A line leaves every cache of its node; reservations on it are lost (R379, R390). -/
def State.dropCopies (s : State) (n l : Nat) : State :=
  { s with
    coh := { s.coh with
      l1d := tset (l1dKey n l) ((tget [] s.coh.l1d (l1dKey n l)).filter (· != l)) s.coh.l1d
      l1v := tset (l1vKey n l) ((tget [] s.coh.l1v (l1vKey n l)).filter (· != l)) s.coh.l1v
      bc := tset n ((tget [] s.coh.bc n).filter (· != l)) s.coh.bc
      delayed := s.coh.delayed.filter fun e => !(e.1 == n && e.2.1 == l) }
    harts := s.harts.map fun e =>
      if coreOf e.1 = n then
        (e.1, { e.2 with resv := match e.2.resv with | some r => if r.1 = l then none else some r | none => none })
      else e }

/-- Some cache of the node still holds the line. -/
def State.nodeHolds (s : State) (n l : Nat) : Bool :=
  (tget [] s.coh.l1d (l1dKey n l)).contains l || (tget [] s.coh.l1v (l1vKey n l)).contains l ||
    (tget [] s.coh.bc n).contains l

/-- A node's copy of a round-region line is evicted, silently (R404). -/
def State.dropRound (s : State) (n l : Nat) : State :=
  { s with rounds := { s.rounds with copies := tdel (nkey n l) s.rounds.copies } }

/-- The L1D gives up a line (R391 phase 1, R392). -/
def State.l1dEvict (s : State) (n v : Nat) : State :=
  let s := { s with coh := { s.coh with
    l1d := tset (l1dKey n v) ((tget [] s.coh.l1d (l1dKey n v)).filter (· != v)) s.coh.l1d } }
  match s.ns n v with
  | .s => if s.nodeHolds n v then s else (s.setNs n v .i).due [.puts n v]
  | .e => ((s.dropCopies n v).setNs n v (.vb false)).due [.wbreq n v]
  | .m => ((s.dropCopies n v).setNs n v (.vb true)).due [.wbreq n v]
  | _ => s.dropRound n v

/-- The L1D uses a line: it becomes the most recent of its set; a full set gives up its least recent line (R376). The
guest's port has no L1D. -/
def State.l1dTouch (s : State) (n l : Nat) : State :=
  if 512 ≤ n then s else
  let key := l1dKey n l
  let set := (tget [] s.coh.l1d key).filter (· != l) ++ [l]
  let s := { s with coh := { s.coh with l1d := tset key set s.coh.l1d } }
  if set.length ≤ 8 then s else match set with | v :: _ => s.l1dEvict n v | [] => s

/-- The L1V slice of a line takes a clean copy (R252, R376). -/
def State.l1vTouch (s : State) (n l : Nat) : State :=
  let key := l1vKey n l
  let set := (tget [] s.coh.l1v key).filter (· != l) ++ [l]
  let s := { s with coh := { s.coh with l1v := tset key set s.coh.l1v } }
  if set.length ≤ 4 then s else
    match set with
    | v :: _ =>
      let s := { s with coh := { s.coh with l1v := tset key (set.filter (· != v)) s.coh.l1v } }
      if s.nodeHolds n v then s
      else match s.ns n v with | .s => (s.setNs n v .i).due [.puts n v] | _ => s.dropRound n v
    | [] => s

/-- The block cache of a core takes a line of a block image (R376); its 256 lines leave in order of use (log entry 9). -/
def State.bcTouch (s : State) (n l : Nat) : State :=
  let set := (tget [] s.coh.bc n).filter (· != l) ++ [l]
  let s := { s with coh := { s.coh with bc := tset n set s.coh.bc } }
  if set.length ≤ 256 then s else
    match set with
    | v :: _ =>
      let s := { s with coh := { s.coh with bc := tset n (set.filter (· != v)) s.coh.bc } }
      if s.nodeHolds n v then s
      else match s.ns n v with | .s => (s.setNs n v .i).due [.puts n v] | _ => s
    | [] => s

/-- A cache of a node takes a line: L1V (1), the block cache (2), else L1D (R376). -/
def State.intoCache (s : State) (c n l : Nat) : State :=
  if c = 1 then s.l1vTouch n l else if c = 2 then s.bcTouch n l else s.l1dTouch n l

/-! ### Links -/

/-- Two ends of a link, the lower first. -/
def linkEnds (a b : Nat) : Nat × Nat := (Nat.min a b, Nat.max a b)

/-- The links that traffic from die `a` to die `b` takes: column first between diagonal dies (R8, R9), through the remaining
neighbour once the first is severed (R397); the hub is 4, the guest site 5. -/
def State.route (s : State) (a b : Nat) : List (Nat × Nat) :=
  if a = b then []
  else if Nat.max a b = 5 then (if Nat.min a b = 4 then [(4, 5)] else [linkEnds (Nat.min a b) 4, (4, 5)])
  else if Nat.max a b = 4 || a ^^^ b != 3 then [linkEnds a b]
  else
    let m := if s.coh.severed.contains (a ^^^ 1) then a ^^^ 2 else a ^^^ 1
    [linkEnds a m, linkEnds m b]

/-- A link on the way retrains: what is sent waits (R396). -/
def State.linkWaits (s : State) (a b : Nat) : Bool := (s.route a b).any s.coh.links.contains

/-- The die of a node; the guest's port is on the guest site. -/
def nodeDie (n : Nat) : Nat := if n < 512 then n / 128 else 5

/-! ### The home -/

/-- The LLC set of a line: slice * 1024 + set (R376). -/
def State.llcKey (s : State) (l : Nat) : Nat :=
  s.homeSlice l * 1024 + ((l % 1024) ^^^ (bits l 13 10)) % 768

/-- The LLC holds the line (R377). -/
def State.inLlc (s : State) (l : Nat) : Bool := (tget [] s.coh.llc (s.llcKey l)).contains l

/-- The host or guest state of a line whose home agent is outside (R474, R494): 0 I, 1 S, 2 E; 2 for device memory. -/
def State.outer (s : State) (l : Nat) : Nat :=
  match s.backing (l * 128) with
  | .host _ => tget 0 s.host.hs l
  | .guest _ => tget 0 s.guest.gs l
  | _ => 2

/-- Set that state. -/
def State.setOuter (s : State) (l x : Nat) : State :=
  match s.backing (l * 128) with
  | .host _ => { s with host := { s.host with hs := tset l x s.host.hs } }
  | .guest _ => { s with guest := { s.guest with gs := tset l x s.guest.gs } }
  | _ => s

/-- The host or guest state that a request needs (R474, R494). -/
def Req.needs : Req → Nat
  | .gets _ => 1
  | .rdu => 1
  | .getx _ => 2
  | .upg _ => 2
  | .wrm _ _ => 2
  | .amo _ _ _ _ _ _ => 2
  | .wbreq _ => 0
  | .evict => 0

/-- The result of an atomic operation on a `w`-byte value (R21, R242, R243): 0 to 9 as `amo` subops, 10 compare and
swap, 11 signal ADD, 12 signal OR. -/
def amoOp (op w old x y : Nat) : Nat :=
  let m := 2 ^ (8 * w)
  let si (v : Nat) : Int := signed v (8 * w)
  match op with
  | 0 => (old + x) % m
  | 1 => if si old ≤ si x then old else x % m
  | 2 => if si x ≤ si old then old else x % m
  | 3 => if old ≤ x % m then old else x % m
  | 4 => if x % m ≤ old then old else x % m
  | 5 => old &&& (x % m)
  | 6 => old ||| (x % m)
  | 7 => old ^^^ (x % m)
  | 8 => x % m
  | 9 => fadd32 old (x % m)
  | 10 => if old = x % m then y % m else old
  | 11 => (old + x) % m
  | 12 => old ||| (x % m)
  | _ => old

/-- Begin a home transaction. -/
def State.begin (s : State) (l : Nat) (t : Txn) : State :=
  ({ s with coh := { s.coh with txn := tset l t s.coh.txn } }).setBusy l true

/-- The line leaves the LLC and has no entry any more (R377, R384). -/
def State.llcDrop (s : State) (l : Nat) : State :=
  let key := s.llcKey l
  let s := s.dropStale l
  let s := if s.outer l = 0 then s else match s.backing (l * 128) with
    | .host _ => s.setOuter l 0
    | .guest _ => s.setOuter l 0
    | _ => s
  { s with coh := { s.coh with
      dir := tdel l s.coh.dir
      llc := tset key ((tget [] s.coh.llc key).filter (· != l)) s.coh.llc } }

/-- The request is answered and takes effect, its copies being gone (R388): entry, grant, data. `gone` says that a
downgraded owner kept nothing. -/
def State.homeGrant (s : State) (l : Nat) (r : Req) (gone : Bool) : State :=
  let d := s.dir l
  let s := { s with coh := { s.coh with txn := tdel l s.coh.txn } }
  match r with
  | .gets n =>
    let d' := if d.st = 2 then (if gone then Dir.share n else (Dir.share d.owner).add n)
              else if d.st = 1 then { d with busy := false }.add n else Dir.share n
    (s.setDir l d').due [.dataS n l]
  | .getx n => (s.setDir l (.own n)).due [.dataE n l]
  | .upg n =>
    let dataless := d.st = 1 && !d.coarse && d.covers n
    (s.setDir l (.own n)).due [if dataless then .grantX n l else .dataE n l]
  | .wrm n cells =>
    let keep := d.st = 1 && d.covers n
    let s := (s.setDir l (if keep then Dir.share n else .unc)).dropStale l
    (cells.foldl (fun s c => s.poke c.1 [c.2]) s).due [.wrack n l]
  | .amo n pa op w x y =>
    let keep := d.st = 1 && d.covers n
    let s := (s.setDir l (if keep then Dir.share n else .unc)).dropStale l
    let old := s.peekN pa w
    (s.pokeN pa w (amoOp op w old x y)).due [.amoack n l old]
  | .rdu =>
    s.setDir l (if d.st = 2 then (if gone then .unc else Dir.share d.owner) else { d with busy := false })
  | .wbreq n => (s.setBusy l true).due [.wbgo n l]
  | .evict => s.llcDrop l

/-- The others that an INV must reach for a request (R388, R389). -/
def Dir.others (d : Dir) (r : Req) : List Nat :=
  match r with
  | .getx n => d.members.filter (· != n)
  | .upg n => d.members.filter (· != n)
  | .wrm n _ => d.members.filter (· != n)
  | .amo n _ _ _ _ _ => d.members.filter (· != n)
  | .evict => d.members
  | _ => []

/-- With BUSY = 0, the line in the LLC and the outer agent's consent: the table of R388. -/
def State.homeAct (s : State) (l : Nat) (r : Req) : State :=
  let d := s.dir l
  match r with
  | .wbreq n =>
    if d.st = 2 && d.owner = n then (s.begin l ⟨r, [], none, 0⟩).due [.wbgo n l] else s.due [.wbstale n l]
  | _ =>
    if d.st = 0 then s.homeGrant l r false
    else if d.st = 1 then
      let os := d.others r
      if os.isEmpty then s.homeGrant l r false
      else (s.begin l ⟨r, os, none, 0⟩).due (os.map (.inv · l))
    else
      let down := match r with | .gets _ => true | .rdu => true | _ => false
      (s.begin l ⟨r, [], some d.owner, 0⟩).due [if down then .downgr d.owner l else .recall d.owner l]

/-- A request finds its line in the LLC: the most recently used of its set (R377). -/
def State.llcTouch (s : State) (l : Nat) : State :=
  let key := s.llcKey l
  let set := tget [] s.coh.llc key
  if set.contains l then { s with coh := { s.coh with llc := tset key (set.filter (· != l) ++ [l]) s.coh.llc } } else s

/-- A request is taken with BUSY = 0 (R388): the fill and the outer agent come first (R474, R494). -/
def State.homeServe (s : State) (l : Nat) (r : Req) : State :=
  if r = .evict then s.homeAct l r
  else if !s.inLlc l && r.needs ≠ 0 then (s.begin l ⟨r, [], none, 1⟩).due [.llcFill l (s.coh.poison.contains l)]
  else if s.outer l < r.needs then
    match s.backing (l * 128) with
    | .guest _ => (s.begin l ⟨r, [], none, 3⟩).due [.guestHomeAnswer l r.needs []]
    | _ => (s.begin l ⟨r, [], none, 2⟩).due [.hostReadComplete l (r.needs == 2) []]
  else (s.llcTouch l).homeAct l r

/-- The home slice of a line runs 64 transactions on other lines (R387). -/
def State.sliceFull (s : State) (l : Nat) : Bool :=
  decide (64 ≤ (s.coh.txn.filter fun t => s.homeSlice t.1 == s.homeSlice l).length)

/-- Take waiting requests of a line while BUSY = 0 (R387). -/
def State.homeNext : Nat → Nat → State → State
  | 0, _, s => s
  | k + 1, l, s =>
    if (s.dir l).busy || s.sliceFull l then s
    else match tget [] s.coh.waitq l with
      | [] => s
      | r :: rs =>
        homeNext k l (({ s with coh := { s.coh with
          waitq := if rs.isEmpty then tdel l s.coh.waitq else tset l rs s.coh.waitq } }).homeServe l r)

/-- The requests that wait for a line are taken in turn once the line is idle. -/
def State.homeIdle (s : State) (l : Nat) : State := State.homeNext ((tget [] s.coh.waitq l).length) l s

/-- A missed line that waited for the way of a line is filled (R377). -/
def State.freeWay (s : State) (l : Nat) : State :=
  let rs := s.coh.room.filter fun r => r.2 == l
  if rs.isEmpty then s else { s with
    coh := { s.coh with room := s.coh.room.filter fun r => r.2 != l }, agenda := s.agenda ++ rs.map fun r => .llcFill r.1 false }

/-- A transaction on a line has ended: its waiting requests are taken, a missed line that waited for its way is filled, and where the
slice ran as many transactions as it can, the requests that waited for that (R377, R387). -/
def State.homeFree (s : State) (l : Nat) : State :=
  let s := s.freeWay l
  let was := (s.coh.txn.filter fun t => s.homeSlice t.1 == s.homeSlice l).length == 63
  let s := s.homeIdle l
  if was then ((tkeys s.coh.waitq).filter fun k => s.homeSlice k == s.homeSlice l).foldl (fun s k => s.homeIdle k) s else s

/-- A request arrives at its home (R387): it is served, or waits behind earlier ones and for a free transaction. -/
def State.homeArrive (s : State) (l : Nat) (r : Req) : State :=
  if (s.dir l).busy || !(tget [] s.coh.waitq l).isEmpty || s.sliceFull l then
    { s with coh := { s.coh with waitq := tset l (tget [] s.coh.waitq l ++ [r]) s.coh.waitq } }
  else (s.homeServe l r).homeIdle l

/-- A pinned line (R334, R377). -/
def State.isPinned (s : State) (l : Nat) : Bool := s.coh.pinned.any fun r => decide (r.1 ≤ l) && decide (l < r.2)

/-- The victim that a full LLC set gives up: unpinned, idle, UNC before any other, least recently used (R377). -/
def State.llcVictim (s : State) (set : List Nat) : Option Nat :=
  let ok := set.filter fun l => !s.isPinned l && !(s.dir l).busy
  match ok.find? fun l => (s.dir l).st = 0 with
  | some l => some l
  | none => ok.head?

/-- A way for a missed line: free, or given up by a victim once no node holds it; until then, or while every unpinned line of the set
is busy, the fill waits (R377). -/
def State.llcRoom (s : State) (l : Nat) : State × Bool :=
  let set := tget [] s.coh.llc (s.llcKey l)
  let await (s : State) (v : Nat) : State × Bool := ({ s with coh := { s.coh with room := s.coh.room ++ [(l, v)] } }, false)
  if set.contains l || decide (set.length < 16) then (s, true)
  else match s.llcVictim set with
    | some v => let s := s.homeServe v .evict; if s.inLlc v then await s v else (s, true)
    | none => match set.find? fun v => !s.isPinned v with
      | some v => await s v
      | none => (s, false)

/-- A line enters the LLC (R377). -/
def State.llcInstall (s : State) (l : Nat) : State :=
  let key := s.llcKey l
  { s with coh := { s.coh with llc := tset key ((tget [] s.coh.llc key).filter (· != l) ++ [l]) s.coh.llc } }

/-- A transaction of a line has ended (R387). -/
def State.endTxn (s : State) (l : Nat) : State := { s with coh := { s.coh with txn := tdel l s.coh.txn } }

/-- LLC_FILL: the data of a missed line arrives from memory (R388); poison fails the request (R479, R480) and marks
the line until a clean fill. -/
def State.llcFilled (s : State) (l : Nat) (poison : Bool) : State :=
  match s.coh.txn.lookup l with
  | some t =>
    if t.phase ≠ 1 then s
    else if poison then
      let s := { s with coh := { s.coh with txn := tdel l s.coh.txn, poison := l :: s.coh.poison.filter (· != l) } }
      let s := match t.req with
        | .gets n => s.setNs n l .i
        | .getx n => s.setNs n l .i
        | .upg n => s.setNs n l .i
        | _ => s
      (s.setBusy l false).homeFree l
    else
      match s.llcRoom l with
      | (s, true) => ((((s.llcInstall l).endTxn l).setBusy l false).homeServe l t.req).homeFree l
      | (s, false) => s
  | none =>
    { s with coh := { s.coh with
        poison := if poison then l :: s.coh.poison.filter (· != l) else s.coh.poison.filter (· != l) } }

/-- The data that comes from the outer agent of a line of which the device holds no copy; none given stands for what memory
holds. -/
def State.outerData (s : State) (l : Nat) (data : List Byte) : State :=
  if data.isEmpty || s.outer l ≠ 0 then s else { s with mem := memPut (l * 128) (data.take 128) s.mem }

/-- The outer agent of a line grants a copy (1) or ownership (2) (R474, R494). -/
def State.outerGrant (s : State) (l x : Nat) : State :=
  let s := if s.outer l < x then s.setOuter l x else s
  match s.coh.txn.lookup l with
  | some t =>
    if t.phase = 2 || t.phase = 3 then
      (((s.endTxn l).setBusy l false).homeServe l t.req).homeFree l
    else s
  | none => s

/-- An IACK is counted; at zero the transaction ends (R389). -/
def State.homeIack (s : State) (n l : Nat) : State :=
  match s.coh.txn.lookup l with
  | some t =>
    if t.acks.contains n then
      let rest := t.acks.erase n
      if rest.isEmpty then
        let s := s.setBusy l false
        (s.homeGrant l t.req false).homeFree l
      else { s with coh := { s.coh with txn := tset l { t with acks := rest } s.coh.txn } }
    else s
  | none => s

/-- An RDATA ends the transaction that recalled or downgraded its sender (R388, R390). -/
def State.homeRdata (s : State) (n l : Nat) (dirty gone : Bool) : State :=
  match s.coh.txn.lookup l with
  | some t =>
    if t.owner = some n then
      let s := if dirty then s.dropStale l else s
      let s := s.setBusy l false
      (s.homeGrant l t.req gone).homeFree l
    else s
  | none => s

/-- A PUTS (R392). -/
def State.homePuts (s : State) (n l : Nat) : State :=
  let d := s.dir l
  if d.busy || d.coarse || !d.covers n || d.st ≠ 1 then s else s.setDir l (d.remove n)

/-- The data of a write-back (R391, phase 3). -/
def State.homeWbdata (s : State) (n l : Nat) (dirty : Bool) : State :=
  match s.coh.txn.lookup l with
  | some t =>
    if t.req = .wbreq n then
      let s := if dirty then s.dropStale l else s
      ((s.endTxn l).setDir l .unc).homeFree l
    else s
  | none => s

/-- A clean (R388): the owner's dirty bytes reach the home while it keeps the line. -/
def State.homeClean (s : State) (n l : Nat) : State :=
  let d := s.dir l
  let s := if d.st = 2 && d.owner = n then s.dropStale l else s
  s.due [.wrack n l]

/-! ### The nodes -/

/-- An INV reaches a node (R390). `none` where R390 says it does not occur. -/
def State.nodeInv (s : State) (n l : Nat) : Option State :=
  match s.ns n l with
  | .i => some (s.due [.iack n l])
  | .s => some (((s.dropCopies n l).setNs n l .i).due [.iack n l])
  | .is => some (s.due [.iack n l])
  | .im => some (s.due [.iack n l])
  | .sm => some (((s.dropCopies n l).setNs n l .lostS).due [.iack n l])
  | .lostS => some (s.due [.iack n l])
  | _ => none

/-- A reservation of the node delays the answer to a RECALL or DOWNGR (R379). -/
def State.reserved (s : State) (n l : Nat) : Bool :=
  s.harts.any fun e => coreOf e.1 == n && (match e.2.resv with | some r => r.1 == l | none => false)

/-- The bytes of a line that the guest has owned: what it wrote there is its own, so each is left open (log entry 4). -/
def State.guestBytes (s : State) (l : Nat) : State :=
  (List.range 16).foldl (fun s i => let (s, v) := s.free; s.poke (l * 128 + 8 * i) (leBytes 8 v.toNat)) s

/-- A RECALL (`back` true) or DOWNGR reaches a node (R390); `late` when a reservation's delay is over. -/
def State.nodeTake (s : State) (n l : Nat) (back late : Bool) : Option State :=
  let s := if n = guestPort && (s.ns n l = .e || s.ns n l = .m) then s.guestBytes l else s
  match s.ns n l with
  | .e =>
    if s.reserved n l && !late then
      some ({ s with coh := { s.coh with delayed := s.coh.delayed ++ [(n, l, back)] } }.due [.reservationTimeout n l])
    else if back then some (((s.dropCopies n l).setNs n l .i).due [.rdata n l false false])
    else some ((s.setNs n l .s).due [.rdata n l false false])
  | .m =>
    if s.reserved n l && !late then
      some ({ s with coh := { s.coh with delayed := s.coh.delayed ++ [(n, l, back)] } }.due [.reservationTimeout n l])
    else if back then some (((s.dropCopies n l).setNs n l .i).due [.rdata n l true false])
    else some ((s.setNs n l .s).due [.rdata n l true false])
  | .vb d => some ((s.setNs n l .vbx).due [.rdata n l d true])
  | _ => none

/-- A reservation no longer delays the answers that wait on it (R379): they are given now. -/
def State.answerDelayed (s : State) (n l : Nat) : State :=
  let mine := s.coh.delayed.filter fun e => e.1 == n && e.2.1 == l
  let s := { s with
    coh := { s.coh with delayed := s.coh.delayed.filter fun e => !(e.1 == n && e.2.1 == l) }
    harts := s.harts.map fun e =>
      if coreOf e.1 = n then
        (e.1, { e.2 with resv := match e.2.resv with | some r => if r.1 = l then none else some r | none => none })
      else e }
  mine.foldl (fun s e => (s.nodeTake n l e.2.2 true).getD s) s

/-- DATA_S reaches a node (R390): the line enters the cache for which it was asked. -/
def State.nodeDataS (s : State) (n l : Nat) : Option State :=
  match s.ns n l with
  | .is =>
    let c := tget 0 s.coh.want (nkey n l)
    let s : State := if c = 0 then s else { s with coh := { s.coh with want := tdel (nkey n l) s.coh.want } }
    some ((s.setNs n l .s).intoCache c n l)
  | _ => none

/-- DATA_E reaches a node (R390). -/
def State.nodeDataE (s : State) (n l : Nat) : Option State :=
  match s.ns n l with
  | .im => some (((s.setNs n l .e).dropVector n l).l1dTouch n l)
  | .sm => some (((s.setNs n l .e).dropVector n l).l1dTouch n l)
  | .lostS => some (((s.setNs n l .e).dropVector n l).l1dTouch n l)
  | _ => none

/-- GRANT_X reaches a node (R390). -/
def State.nodeGrantX (s : State) (n l : Nat) : Option State :=
  match s.ns n l with
  | .sm => some (((s.setNs n l .e).dropVector n l).l1dTouch n l)
  | _ => none

/-- WBGO reaches a node (R390, R391). -/
def State.nodeWbgo (s : State) (n l : Nat) : Option State :=
  match s.ns n l with
  | .vb d => some ((s.setNs n l .i).due [.wbdata n l d])
  | _ => none

/-- WBSTALE reaches a node (R390, R391). -/
def State.nodeWbstale (s : State) (n l : Nat) : Option State :=
  match s.ns n l with
  | .vb _ => some (s.setNs n l .i)
  | .vbx => some (s.setNs n l .i)
  | _ => none

/-! ### Messages of one line -/

/-- The line that a coherence event concerns. -/
def evLine : Ev → Option Nat
  | .gets _ l => some l
  | .getx _ l => some l
  | .upg _ l => some l
  | .puts _ l => some l
  | .wbreq _ l => some l
  | .wbdata _ l _ => some l
  | .wrm _ cs => cs.head?.map fun c => lineOf c.1
  | .clean _ l => some l
  | .amoRequest _ pa _ _ _ _ => some (lineOf pa)
  | .rdu l => some l
  | .iack _ l => some l
  | .rdata _ l _ _ => some l
  | .dataS _ l => some l
  | .dataE _ l => some l
  | .grantX _ l => some l
  | .wrack _ l => some l
  | .inv _ l => some l
  | .recall _ l => some l
  | .downgr _ l => some l
  | .wbgo _ l => some l
  | .wbstale _ l => some l
  | .reservationTimeout _ l => some l
  | .llcFill l _ => some l
  | .hostReadComplete l _ _ => some l
  | .guestHomeAnswer l _ _ => some l
  | _ => none

/-- What a coherence event does (R385 to R393). -/
def State.cohStep (s : State) (e : Ev) : State :=
  match e with
  | .gets n l => s.homeArrive l (.gets n)
  | .getx n l => s.homeArrive l (.getx n)
  | .upg n l => s.homeArrive l (.upg n)
  | .puts n l => s.homePuts n l
  | .wbreq n l => s.homeArrive l (.wbreq n)
  | .wbdata n l d => s.homeWbdata n l d
  | .wrm n cs => match cs.head? with | some c => s.homeArrive (lineOf c.1) (.wrm n cs) | none => s
  | .clean n l => s.homeClean n l
  | .amoRequest n pa op w x y => s.homeArrive (lineOf pa) (.amo n pa op w x y)
  | .rdu l => s.homeArrive l .rdu
  | .iack n l => s.homeIack n l
  | .rdata n l d g => s.homeRdata n l d g
  | .dataS n l => (s.nodeDataS n l).getD s
  | .dataE n l => (s.nodeDataE n l).getD s
  | .grantX n l => (s.nodeGrantX n l).getD s
  | .inv n l => (s.nodeInv n l).getD s
  | .recall n l => (s.nodeTake n l true false).getD s
  | .downgr n l => (s.nodeTake n l false false).getD s
  | .wbgo n l => (s.nodeWbgo n l).getD s
  | .wbstale n l => (s.nodeWbstale n l).getD s
  | .reservationTimeout n l => s.answerDelayed n l
  | .llcFill l p => s.llcFilled l p
  | .hostReadComplete l o d => (s.outerData l d).outerGrant l (if o then 2 else 1)
  | .guestHomeAnswer l k d => (s.outerData l d).outerGrant l k
  | _ => s

/-- The node that a directory message comes from or goes to. -/
def evNode : Ev → Option Nat
  | .gets n _ => some n
  | .getx n _ => some n
  | .upg n _ => some n
  | .puts n _ => some n
  | .wbreq n _ => some n
  | .wbdata n _ _ => some n
  | .wrm n _ => some n
  | .clean n _ => some n
  | .amoRequest n _ _ _ _ _ => some n
  | .iack n _ => some n
  | .rdata n _ _ _ => some n
  | .dataS n _ => some n
  | .dataE n _ => some n
  | .grantX n _ => some n
  | .inv n _ => some n
  | .recall n _ => some n
  | .downgr n _ => some n
  | .wbgo n _ => some n
  | .wbstale n _ => some n
  | .wrack n _ => some n
  | _ => none

/-- A message from a node to a home. -/
def toHome : Ev → Bool
  | .dataS _ _ => false
  | .dataE _ _ => false
  | .grantX _ _ => false
  | .inv _ _ => false
  | .recall _ _ => false
  | .downgr _ _ => false
  | .wbgo _ _ => false
  | .wbstale _ _ => false
  | .wrack _ _ => false
  | _ => true

/-- The channel of a message between a node and a home slice (R386): its direction, the node, the slice. -/
def State.chan (s : State) (e : Ev) : Option (Bool × Nat × Nat) :=
  match evNode e, evLine e with
  | some n, some l => if n < 513 then some (toHome e, n, s.homeSlice l) else none
  | _, _ => none

/-- A message waits for a link that retrains (R396). -/
def State.held (s : State) (e : Ev) : Bool :=
  !s.coh.links.isEmpty &&
  match s.chan e, evLine e with
  | some (up, n, _), some l =>
    let d := s.homeDie (l * 128)
    if up then s.linkWaits (nodeDie n) d else s.linkWaits d (nodeDie n)
  | _, _ => false

/-- The message that a channel delivers before or as `e`: the first that was sent (R386). -/
def State.firstOn (s : State) (e : Ev) : Ev :=
  match s.chan e with
  | none => e
  | some c => (s.agenda.find? fun f => s.chan f == some c).getD e

/-- The message to deliver next for a line: its own, those of a line whose way it awaits, and those ahead of them on their channel;
and the agenda without it. -/
def State.takeNext (s : State) (l : Nat) : Option (Ev × List Ev) :=
  (s.agenda.find? fun e => (evLine e == some l || s.coh.room.any fun r => r.1 == l && evLine e == some r.2) && !s.held e).map fun e =>
    (s.firstOn e, s.agenda.erase (s.firstOn e))

/-- Deliver the due messages of a line, in order, until none is left that can go (R386, R387, R396). -/
def State.settle : Nat → Nat → State → State
  | 0, _, s => s
  | k + 1, l, s =>
    match s.takeNext l with
    | none => s
    | some (e, es) => settle k l ({ s with agenda := es }.cohStep e)

/-- Enough deliveries for any one line's transactions. -/
def settleFuel : Nat := 16384

/-! ### Accesses -/

/-- The lines of a node whose requests are outstanding, of one home slice or in the victim buffer. -/
def State.outstanding (s : State) (n l : Nat) : List Nat × List Nat :=
  let mine := (s.coh.nodes.filter fun e => e.1 / 2 ^ 45 == n && !(e.2 == .s || e.2 == .e || e.2 == .m)).map fun e => (e.1 % 2 ^ 45, e.2)
  ((mine.filter fun e => s.homeSlice e.1 == s.homeSlice l).map (·.1),
    (mine.filter fun e => match e.2 with | .vb _ => true | .vbx => true | _ => false).map (·.1))

/-- Before a node asks for a line: at most 16 requests of it are outstanding at one slice (R386), and its victim buffer has 8
entries (R391); one of those ends first. -/
def State.makeRoom (s : State) (n l : Nat) : State :=
  let (rs, vs) := s.outstanding n l
  if 8 ≤ vs.length then State.settle settleFuel (vs.headD 0) s
  else if 16 ≤ rs.length then State.settle settleFuel (rs.headD 0) s
  else s

/-- A node asks its home for a line to read, for one of its caches (R390, IS). -/
def State.askLine (s : State) (c n l : Nat) : State :=
  let s := (s.makeRoom n l).setNs n l .is
  let s : State := if c = 0 then s else { s with coh := { s.coh with want := tset (nkey n l) c s.coh.want } }
  State.settle settleFuel l (s.due [.gets n l])

/-- A cache of a node (0 L1D, 1 L1V, 2 block cache) obtains a line for reading. An access to a line in the victim buffer waits, then
misses. Agents that are no node read the home (RDU). -/
def State.cohReadIn (s : State) (c n l : Nat) : State :=
  if n ≥ 512 then State.settle settleFuel l (s.due [.rdu l])
  else match s.ns n l with
    | .s => s.intoCache c n l
    | .e => s.intoCache c n l
    | .m => s.intoCache c n l
    | .i => s.askLine c n l
    | _ =>
      let s := State.settle settleFuel l s
      if s.ns n l = .i then s.askLine c n l else s.intoCache c n l

/-- The L1D of a node obtains a line for reading. -/
def State.cohRead (s : State) (n l : Nat) : State := s.cohReadIn 0 n l

/-- A node asks its home for write permission: IM, or SM while it holds the line (R390). -/
def State.askOwn (s : State) (n l : Nat) (x : NState) (e : Ev) : State :=
  State.settle settleFuel l (((s.makeRoom n l).setNs n l x).due [e])

/-- A node obtains a line for writing (R390, IM and SM). -/
def State.cohOwn (s : State) (n l : Nat) : State :=
  match s.ns n l with
  | .e => s.l1dTouch n l
  | .m => s.l1dTouch n l
  | .s => s.askOwn n l .sm (.upg n l)
  | .i => s.askOwn n l .im (.getx n l)
  | _ =>
    let s := State.settle settleFuel l s
    match s.ns n l with
    | .i => s.askOwn n l .im (.getx n l)
    | .s => s.askOwn n l .sm (.upg n l)
    | _ => s

/-- The pieces of a byte range that lie in one line each: address and length. -/
def linePieces : Nat → Nat → Nat → List (Nat × Nat)
  | 0, _, _ => []
  | k + 1, a, len =>
    if len = 0 then []
    else
      let room := 128 - a % 128
      if len ≤ room then [(a, len)] else (a, room) :: linePieces k (a + room) (len - room)

/-- The lines of a byte range. -/
def piecesOf (a len : Nat) : List (Nat × Nat) := linePieces (len / 128 + 2) a len

/-- A masked write to a line at its home by any agent (WRM, R388); its answers WRACK need no further step. -/
def State.homeWrite (s : State) (n a : Nat) (bs : List Byte) : State :=
  let cells := (List.range bs.length).zipWith (fun i b => (a + i, b)) bs
  State.settle settleFuel (lineOf a) (s.due [.wrm n cells])

/-- A write into a round region: at the home, and in the writer's own copy (R412). -/
def State.regionWrite (s : State) (n a : Nat) (bs : List Byte) : State :=
  let l := lineOf a
  let s := s.poke a bs
  match s.rounds.copies.lookup (nkey n l) with
  | some (r, data) =>
    let data' := (List.range 128).map fun i =>
      if a ≤ l * 128 + i ∧ l * 128 + i < a + bs.length then bs.getD (l * 128 + i - a) 0 else data.getD i 0
    { s with rounds := { s.rounds with copies := tset (nkey n l) (r, data') s.rounds.copies } }
  | none => s

/-- The root port that carries an uncached access: to non-coherent host memory, or to a peer (R75, R77, R478). -/
def State.portOf (s : State) (a : Nat) : Option Nat :=
  if isLocal a then none
  else match s.backing a with
    | .host h => if winNc (s.hostWin h) then some (winPort (s.hostWin h)) else none
    | .peer p _ => some (tget 0 s.host.peers p)
    | _ => none

/-- Posted writes of the root ports that a test names arrive, in order (R75). -/
def State.pushPosted (s : State) (on : Nat → Bool) : State :=
  if s.host.posted.isEmpty then s
  else (s.host.posted.filter fun w => on w.1).foldl (fun s w => s.poke w.2.1 w.2.2)
    { s with host := { s.host with posted := s.host.posted.filter fun w => !on w.1 } }

/-- A read through a root port pushes the posted writes before it (R75). -/
def State.pushFor (s : State) (a : Nat) : State := match s.portOf a with | some p => s.pushPosted (· == p) | none => s

/-- An uncached write: at its arbiter, or posted to a root port (R75, R253). -/
def State.writeUncached (s : State) (a : Nat) (bs : List Byte) : State :=
  match s.portOf a with
  | some p => { s with host := { s.host with posted := s.host.posted ++ [(p, a, bs)] } }
  | none => s.poke a bs

/-- Write bytes of one line as the node's own store (R59): through L1D where the line is cached. -/
def State.storePiece (s : State) (n a : Nat) (bs : List Byte) : State :=
  if (s.regionAt a).isSome && !isLocal a then s.regionWrite n a bs
  else if !s.cached a then s.writeUncached a bs
  else if n ≥ 512 then s.homeWrite n a bs
  else
    let s := s.cohOwn n (lineOf a)
    match s.ns n (lineOf a) with
    | .e => s.ownWrite n a bs
    | .m => s.ownWrite n a bs
    | _ => s.poke a bs

/-- A store of a node, line by line. -/
def State.store (s : State) (n a : Nat) (bs : List Byte) : State :=
  (piecesOf a bs.length).foldl (fun s p => s.storePiece n p.1 ((bs.drop (p.1 - a)).take p.2)) s

/-- A write by an agent that is no node, at each location's arbiter (R30, R247, R292). -/
def State.agentWrite (s : State) (a : Nat) (bs : List Byte) : State := s.store noNode a bs

/-- A load of a node obtains its lines; the value is then what memory coherently holds (R58). -/
def State.loadLines (s : State) (n a len : Nat) : State :=
  if !s.cached a then s.pushFor a
  else (piecesOf a len).foldl (fun s p => s.cohRead n (lineOf p.1)) s

/-- The L1D gives a line up silently while its node keeps other copies. -/
def State.l1dForget (s : State) (n l : Nat) : State :=
  { s with coh := { s.coh with l1d := tset (l1dKey n l) ((tget [] s.coh.l1d (l1dKey n l)).filter (· != l)) s.coh.l1d } }

/-- The L1V or the block cache of a node obtains a line (R249, R252, R376): a dirty line of its L1D is first cleaned to the home and
stays in E. -/
def State.cleanRead (s : State) (c n l : Nat) : State :=
  if n < 512 && s.ns n l = .m then (State.settle settleFuel l ((s.setNs n l .e).due [.clean n l])).intoCache c n l
  else s.cohReadIn c n l

/-- A block access of a node obtains a line in L1V (R249). -/
def State.vectorRead (s : State) (n l : Nat) : State := s.cleanRead 1 n l

/-- The lines of a block read. -/
def State.vectorLines (s : State) (n a len : Nat) : State :=
  if !s.cached a then s.pushFor a
  else (piecesOf a len).foldl (fun s p => s.vectorRead n (lineOf p.1)) s

/-- A committed block store is written onward (R247, R252): the L1D gives the line up, with a PUTS where that was the node's last copy
(R392), then a WRM goes home. -/
def State.vectorPiece (s : State) (n a : Nat) (bs : List Byte) : State :=
  if (s.regionAt a).isSome && !isLocal a then s.regionWrite n a bs
  else if !s.cached a then s.writeUncached a bs
  else
    let l := lineOf a
    let s := match s.ns n l with
      | .e => State.settle settleFuel l ((s.makeRoom n l).l1dEvict n l)
      | .m => State.settle settleFuel l ((s.makeRoom n l).l1dEvict n l)
      | .s =>
        let s := s.l1dForget n l
        if s.nodeHolds n l then s else (s.setNs n l .i).due [.puts n l]
      | _ => s
    s.homeWrite n a bs

/-- A block store written onward, line by line. -/
def State.vectorWrite (s : State) (n a : Nat) (bs : List Byte) : State :=
  (piecesOf a bs.length).foldl (fun s p => s.vectorPiece n p.1 ((bs.drop (p.1 - a)).take p.2)) s

/-- A poisoned line lies in the range (R479, R480). -/
def State.poisoned (s : State) (a len : Nat) : Bool :=
  (piecesOf a len).any fun p => s.coh.poison.contains (lineOf p.1)

/-- The old value that the last AMOACK of a line brings an agent, and the agenda without it. -/
def takeAck (n l : Nat) : List Ev → Option (Nat × List Ev)
  | [] => none
  | e :: es =>
    match takeAck n l es with
    | some (v, r) => some (v, e :: r)
    | none => match e with
      | .amoack m k v => if m = n ∧ k = l then some (v, es) else none
      | _ => none

/-- An atomic operation at the arbiter of its location (R21, R388): the state after it and the old value, which the AMOACK brings. -/
def State.atomicAt (s : State) (n a op w x y : Nat) : State × Nat :=
  if !s.cached a then
    let s := s.pushFor a
    let old := s.peekN a w
    (s.pokeN a w (amoOp op w old x y), old)
  else
    let l := lineOf a
    let s := State.settle settleFuel l ((State.settle settleFuel l s).due [.amoRequest n a op w x y])
    match takeAck n l s.agenda with
    | some (v, es) => ({ s with agenda := es }, v)
    | none => (s, s.peekN a w)

/-! ### What a failing link holds back -/

/-- An access of an agent on die `d` waits while a link retrains on the way to the home, or from there to a node that the entry names,
or while the line's transaction is itself held up (R396). -/
def State.stuck (s : State) (d a len : Nat) : Bool :=
  !s.coh.links.isEmpty &&
  if isLocal a then s.linkWaits d (dieOf (localCore a))
  else (piecesOf a len).any fun p =>
    let l := lineOf p.1
    let hd := s.homeDie p.1
    s.linkWaits d hd || (s.dir l).busy || (s.dir l).members.any fun n => s.linkWaits hd (nodeDie n)

end Sys2Proof.Machine
end

