-- ==== Sys2Proof/Machine/Xlat.lean ====
section
/-! DEFINITION. The translation engine (R426 to R440): contexts, the Sv57 walk with A and D updates, cached
translations, the local-memory windows of R11, and the checks on the resulting PA. -/

namespace Sys2Proof.Machine

/-- The access being translated (R429). -/
inductive Acc where
  | load | store | fetch
  deriving DecidableEq, Repr

/-- Under which context, rights and place an address is translated (R427, R525): the unit that keeps the
translation, the core of the own window, the hart whose instance it is, the PASID (`none`: under `satp`), the PASID
of the window enables (R12), privilege, SUM, MXR, and the requester's die. -/
structure Cx where
  unit   : Nat
  core   : Option Nat
  hart   : Option Nat
  pasid  : Option Nat
  wpasid : Nat
  satp   : Word
  priv   : Priv
  sum    : Bool
  mxr    : Bool
  die    : Nat
  deriving DecidableEq, Repr

/-- What a translation gives: a location, or the fault that its requester reports. -/
inductive TR where
  | ok (loc : Nat)
  | pageFault
  | accessFault
  | contain (loc : Nat)
  | mmio (loc : Nat)
  deriving DecidableEq, Repr

/-- The context of a hart's own accesses and commands at this moment (R427, R525). The Quadrille harts share the own window of
core 512 (R11, log entry 48). -/
def State.hartCx (s : State) (h : Nat) : Cx :=
  let x := s.hart h
  { unit := coreOf h, core := some (coreOf h), hart := some h
    pasid := if x.priv = .u then some (s.pasidOf h) else none
    wpasid := s.pasidOf h, satp := x.cs csrSatp, priv := x.priv
    sum := x.sumBit, mxr := x.mxrBit, die := hartDie h }

/-- The context of a hart's scalar data accesses: M-mode with MPRV uses the rights of MPP. -/
def State.dataCx (s : State) (h : Nat) : Cx :=
  let x := s.hart h
  let cx := s.hartCx h
  let st := (x.cs csrMstatus).toNat
  if x.priv = .m && st.testBit 17 then
    let p := if bits st 11 2 = 0 then Priv.u else if bits st 11 2 = 1 then Priv.s else Priv.m
    { cx with priv := p, pasid := if p = .u then some (s.pasidOf h) else none }
  else cx

/-- The context of a command that no hart issues: U rights under a PASID, no own window (R427, R525). -/
def pasidCx (unit pasid die : Nat) : Cx :=
  { unit := unit, core := none, hart := none, pasid := some pasid, wpasid := pasid, satp := 0, priv := .u
    sum := false, mxr := false, die := die }

/-- The units that keep translations (R432): core c is c. -/
def unitStreamer (sid : Nat) : Nat := 1000 + sid
/-- The TLB of a TQE. -/
def unitTqe (d : Nat) : Nat := 2000 + d
/-- The hub ATC of the network engine. -/
def unitNet : Nat := 3000
/-- The hub ATC of the host-attach engine. -/
def unitHost : Nat := 3001
/-- The hub ATC of the guest socket bridge. -/
def unitGuest : Nat := 3002
/-- The page-walk cache of a die's walker, or of the hub's (R431). -/
def unitWalker (d : Nat) : Nat := 4000 + d
/-- The TLB slice of a core's lane group (R248). -/
def unitSlice (ci lg : Nat) : Nat := 5000 + ci * 4 + lg

/-- The translations that a unit keeps (R248, R280, R431, R432), in one order of use (log entry 9). -/
def tlbCap (u : Nat) : Nat :=
  if u < 1000 then 8192 else if u < 2000 then 32 else if u < 3000 then 64 else if u < 4000 then 1024 else if u < 5000 then 256
  else 64

/-- The die of a unit that keeps translations, whose walker refills it; 4 is the hub, as for the streamers of ports (R280, R432). -/
def unitDie (u : Nat) : Nat :=
  if u < 1000 then dieOf u else if u < 1320 then (u - 1000) / 80 else if 2000 ≤ u && u < 2004 then u - 2000
  else if 5000 ≤ u then dieOf ((u - 5000) / 4) else 4

/-- The unit belongs to a core: its L2 TLB, or the slice of a lane group. -/
def unitOn (ci u : Nat) : Bool := u == ci || (decide (5000 ≤ u) && (u - 5000) / 4 == ci)

/-! ### Local windows -/

/-- A core is out of service (R513). -/
def State.coreOut (s : State) (ci : Nat) : Bool := (s.core ci).quar || s.mgmt.offline.contains ci

/-- The local extent that an instance on some hart of a core holds: its hart and its size in bytes (R347). -/
def State.extent (s : State) (ci : Nat) : Option (Nat × Nat) :=
  (s.tqe.insts.findSome? fun e =>
    match e.2.hart with
    | some h => if coreOf h = ci && e.2.pre && e.2.savekb ≠ 0 then some (h, e.2.savekb * 1024) else none
    | none => none)

/-- A U-mode access to local memory is refused: the context-save area in SAVE mode (R13), another instance's extent
(R347). Fetches of U-mode and completions that target the area count among the accesses refused (log entry 48). -/
def State.localRefused (s : State) (cx : Cx) (ci off : Nat) : Bool :=
  cx.priv = .u && ((s.core ci).save = some true) &&
    (decide (0x54000 ≤ off) ||
      match s.extent ci, cx.hart with
      | some (h, n), some h' => coreOf h' == ci && h' != h && decide (off < n)
      | _, _ => false)

/-- The untranslated range of R11: `none` when the address lies outside it. -/
def State.window (s : State) (cx : Cx) (va : Nat) : Option TR :=
  if va < 0x00FFFD0000000000 ∨ 0x00FFFF0000000000 ≤ va then none
  else if 0x00FFFE0000000000 ≤ va then
    let off := va - 0x00FFFE0000000000
    match cx.core with
    | none => some .accessFault
    | some ci =>
      if 0x60000 ≤ off || s.localRefused cx ci off then some .accessFault else some (.ok (locBase ci + off))
  else
    let o := va - 0x00FFFD0000000000
    let d := o / 2 ^ 28
    let c := o / 2 ^ 20 % 256
    let off := o % 2 ^ 20
    let ci := d * 128 + c
    if s.dies ≤ d || 128 ≤ c || 0x60000 ≤ off then some .accessFault
    else if cx.core ≠ some ci && !(tget 0 s.xlat.winEn cx.wpasid).testBit d then some .accessFault
    else if s.coreOut ci && cx.core ≠ some ci then some .accessFault
    else if s.localRefused cx ci off then some .accessFault
    else some (.ok (locBase ci + off))

/-! ### Checks on a PA -/

/-- A requester that Benpol firmware is (R524): a Quadrille hart, or a compute hart in M-mode, by its own accesses and blocks. -/
def Cx.firmware (cx : Cx) : Bool :=
  (decide (cx.unit < 1000) || decide (5000 ≤ cx.unit)) && (cx.priv == .m || cx.core == some 512)

/-- The error log's range of device PAs (R509). -/
def State.inLog (s : State) (pa : Nat) : Bool := decide (s.gddr 0 - 0x200000 ≤ pa) && decide (pa < s.gddr 0)

/-- Two dies are cut off from one another: one of them is contained (R398). -/
def State.cutOff (s : State) (d hd : Nat) : Bool :=
  hd != 4 && hd != d && (s.coh.severed.contains d || s.coh.severed.contains hd)

/-- The home of a location is cut off from a die (R397, R398). -/
def State.unreached (s : State) (d loc : Nat) : Bool :=
  !s.coh.severed.isEmpty && s.cutOff d (if isLocal loc then dieOf (localCore loc) else s.homeDie loc)

/-- A PA that a translation may yield for this requester (R15, R397, R398, R509, R524). -/
def State.checkPa (s : State) (cx : Cx) (pa : Nat) : TR :=
  match s.backing pa with
  | .mmio => if cx.firmware then .mmio pa else .accessFault
  | _ =>
    if !s.backed pa then .accessFault
    else if s.inLog pa && cx.priv ≠ .m && cx.pasid ≠ some 0 then .accessFault
    else
      let hd := s.homeDie pa
      if hd = 4 ∨ hd = cx.die then .ok pa
      else if s.coh.severed.contains cx.die then .contain pa
      else if s.coh.severed.contains hd then .accessFault
      else .ok pa

/-! ### The walk -/

/-- A leaf found by the walk. -/
structure Leaf where
  lg  : Nat
  pa  : Nat
  pte : Nat
  at_ : Nat
  deriving DecidableEq, Repr

/-- How the walk ends. -/
inductive WalkEnd where
  | leaf (l : Leaf)
  | pageFault
  | accessFault
  deriving DecidableEq, Repr

/-- A PA that the walk of a context yields, as a device PA (R428): `hdm` is HDMBASE in a SHARED context. -/
def convPa (hdm : Option Nat) (pa : Nat) : Option Nat :=
  match hdm with
  | none => some pa
  | some b =>
    if b ≤ pa ∧ pa < b + 4 * gib96 then some (pa - b)
    else if pa < 2 ^ 44 then some (0x100000000000 + pa)
    else none

/-- Which tag a context's translations carry (R427). -/
def Cx.tag (cx : Cx) : Tag :=
  match cx.pasid with
  | some p => .pasid p
  | none => .asid (bits cx.satp.toNat 44 16)

/-- Two cached translations stand for the same page in one unit under one tag. -/
def Tlb.same (a b : Tlb) : Bool := a.unit == b.unit && a.tag == b.tag && a.va == b.va && a.lg == b.lg

/-- At most `n` translations of a unit stay, the most recently used first; a held one is not evicted (R166, R433). -/
def trimTlb (u : Nat) : Nat → List Tlb → List Tlb
  | _, [] => []
  | n, t :: r =>
    if t.unit ≠ u then t :: trimTlb u n r
    else if !t.held.isEmpty then t :: trimTlb u (n - 1) r
    else
      match n with
      | 0 => trimTlb u 0 r
      | m + 1 => t :: trimTlb u m r

/-- Keep a translation in its unit, which gives up the one that it used longest ago when it is full (R432). -/
def State.tlbInsert (s : State) (e : Tlb) : State :=
  let old := s.xlat.tlb.find? e.same
  let e := match old with | some o => { e with used := o.used, held := o.held } | none => e
  { s with xlat := { s.xlat with tlb := e :: trimTlb e.unit (tlbCap e.unit - 1) (s.xlat.tlb.filter fun t => !e.same t) } }

/-- A translation was used: it is the last that its unit would evict. -/
def State.tlbTouch (s : State) (e : Tlb) : State :=
  { s with xlat := { s.xlat with tlb := e :: s.xlat.tlb.filter fun t => !e.same t } }

/-- The walk from level `i` down (R429): non-leaf PTEs come from the walker's cache, else PTEs are read as unqualified loads (R431). -/
def State.walk (hdm : Option Nat) (unit : Nat) (tag : Tag) (va : Nat) : Nat → Nat → State → State × WalkEnd
  | 0, _, s => (s, .pageFault)
  | i + 1, table, s =>
    let lg := 12 + 9 * i
    match s.xlat.tlb.find? fun t => t.unit == unit && t.tag == tag && t.lg == lg && t.va == va / 2 ^ lg * 2 ^ lg with
    | some t => State.walk hdm unit tag va i t.pa s
    | none =>
      let a := table + bits va lg 9 * 8
      if !s.backed a || s.inLog a || s.cutOff (unit - 4000) (s.homeDie a) then (s, .accessFault)
      else
        let s := s.loadLines noNode a 8
        let pte := s.peekN a 8
        let ppn := bits pte 10 44
        if !bit pte 0 || (!bit pte 1 && bit pte 2) || bits pte 54 7 ≠ 0 || bits pte 61 2 ≠ 0 then (s, .pageFault)
        else if bit pte 1 || bit pte 3 then
          if i = 4 then (s, .pageFault)
          else if bit pte 63 then
            if i = 0 && bits ppn 0 4 = 8 then
              match convPa hdm (ppn / 16 * 65536) with
              | some pa => (s, .leaf ⟨16, pa, pte, a⟩)
              | none => (s, .accessFault)
            else (s, .pageFault)
          else if ppn % 2 ^ (9 * i) ≠ 0 then (s, .pageFault)
          else
            match convPa hdm (ppn * 4096) with
            | some pa => (s, .leaf ⟨lg, pa, pte, a⟩)
            | none => (s, .accessFault)
        else if bit pte 63 || bit pte 4 || bit pte 6 || bit pte 7 then (s, .pageFault)
        else
          match convPa hdm (ppn * 4096) with
          | none => (s, .accessFault)
          | some next =>
            State.walk hdm unit tag va i next
              (s.tlbInsert ⟨unit, tag, va / 2 ^ lg * 2 ^ lg, lg, next, false, false, false, false, false, false, [], []⟩)

/-- Rights of a page for an access (R427, R429, the privileged architecture's SUM and MXR). -/
def allowed (cx : Cx) (acc : Acc) (r w x u : Bool) : Bool :=
  (match acc with
   | .load => r || (cx.mxr && x)
   | .store => w
   | .fetch => x) &&
  (match cx.priv with
   | .u => u
   | _ => !u || (cx.sum && acc ≠ .fetch))

/-- The context slot of a PASID (R426): its number and entry. -/
def State.ctxOf (s : State) (p : Nat) : Option (Nat × Ctx) :=
  s.xlat.ctx.find? fun e => e.2.pasid == p && e.2.state != 0

/-- The root and conversion of a translation context: `none` where translation is refused (R427, R438), `some none`
where addresses are not translated: M-mode accesses and a Bare `satp`. A command goes by its PASID whatever the level that issued
it (R19). -/
def State.rootOf (s : State) (cx : Cx) : Option (Option (Nat × Option Nat)) :=
  match cx.pasid with
  | none =>
    if cx.priv = .m then some none
    else if bits cx.satp.toNat 60 4 = 10 then some (some (bits cx.satp.toNat 0 44 * 4096, none)) else some none
  | some p =>
    match s.ctxOf p with
    | some (_, c) =>
      if c.state ≠ 1 then none
      else some (some (if c.shared then ((convPa (some c.hdm) c.root).getD (2 ^ 52), some c.hdm) else (c.root, none)))
    | none => none

/-- A walk for one access: A and D are set by compare-and-swap at the PTE's arbiter (R430), the translation is
installed, or the fault is reported (R429). -/
def State.walkFor (s : State) (cx : Cx) (acc : Acc) (va : Nat) (root : Nat) (hdm : Option Nat) : State × TR :=
  let uw := unitWalker (unitDie cx.unit)
  match State.walk hdm uw cx.tag va 5 root s with
  | (s, .pageFault) => (s, .pageFault)
  | (s, .accessFault) => (s, .accessFault)
  | (s, .leaf l) =>
    let r := bit l.pte 1
    let w := bit l.pte 2
    let x := bit l.pte 3
    let u := bit l.pte 4
    if !allowed cx acc r w x u then (s, .pageFault)
    else
      let pa := l.pa + va % 2 ^ l.lg
      match s.checkPa cx pa with
      | .ok _ =>
        let want := l.pte ||| 0x40 ||| (if acc = .store then 0x80 else 0)
        let s := if want = l.pte then s else (s.atomicAt noNode l.at_ 10 8 l.pte want).1
        (s.tlbInsert ⟨cx.unit, cx.tag, va / 2 ^ l.lg * 2 ^ l.lg, l.lg, l.pa, r, w, x, u, bit l.pte 5, bit want 7, [], []⟩, .ok pa)
      | t => (s, t)

/-- A cached leaf serves a context's accesses at a VA (R427, R432). -/
def Tlb.covers (t : Tlb) (cx : Cx) (va : Nat) : Bool :=
  t.lg ≥ 12 && (t.r || t.w || t.x) && t.va == va / 2 ^ t.lg * 2 ^ t.lg &&
    (t.tag == cx.tag || (t.g && cx.pasid == none && match t.tag with | .asid _ => true | .pasid _ => false))

/-- The cached translation that serves an access (R427, R430, R432). -/
def State.tlbHit (s : State) (cx : Cx) (acc : Acc) (va : Nat) : Option Tlb :=
  s.xlat.tlb.find? fun t => t.unit == cx.unit && t.covers cx va && (acc ≠ .store || t.d)

/-- Translate a virtual address for an access: the local windows first (R11), then the cached translations, then a
walk; the PA must be one that this requester reaches (R15). -/
def State.xlate (s : State) (cx : Cx) (acc : Acc) (va : Word) : State × TR :=
  let a := va.toNat
  match s.window cx a with
  | some t => (s, t)
  | none =>
    match s.rootOf cx with
    | none => (s, .accessFault)
    | some none => (s, s.checkPa cx a)
    | some (some (root, hdm)) =>
      if (va.extractLsb' 56 8 ≠ 0 ∧ va.extractLsb' 56 8 ≠ 0xFF) then (s, .pageFault)
      else
        let v := a % 2 ^ 57
        match s.tlbHit cx acc v with
        | some t =>
          if !allowed cx acc t.r t.w t.x t.u then (s, .pageFault)
          else let s := s.tlbTouch t; (s, s.checkPa cx (t.pa + v % 2 ^ t.lg))
        | none => s.walkFor cx acc v root hdm

/-- Translate an access of `len` bytes inside one page: both ends must pass. -/
def State.xlateRange (s : State) (cx : Cx) (acc : Acc) (va : Word) (len : Nat) : State × TR :=
  match s.xlate cx acc va with
  | (s, .ok loc) =>
    if len ≤ 1 then (s, .ok loc)
    else match s.xlate cx acc (va + BitVec.ofNat 64 (len - 1)) with
      | (s, .ok _) => (s, .ok loc)
      | (s, t) => (s, t)
  | r => r

/-- Translate every page that a range touches, from its first byte: the location of each piece. -/
def State.xlatePages (cx : Cx) (acc : Acc) : Nat → Word → Nat → State → State × Except (TR × Word) (List (Nat × Nat))
  | 0, _, _, s => (s, .ok [])
  | k + 1, va, len, s =>
    if len = 0 then (s, .ok [])
    else
      let n := Nat.min len (4096 - va.toNat % 4096)
      match s.xlateRange cx acc va n with
      | (s, .ok loc) =>
        match State.xlatePages cx acc k (va + BitVec.ofNat 64 n) (len - n) s with
        | (s, .ok ps) => (s, .ok ((loc, n) :: ps))
        | r => r
      | (s, t) => (s, .error (t, va))

/-- The pieces of a range of `len` bytes. -/
def State.xlateAll (s : State) (cx : Cx) (acc : Acc) (va : Word) (len : Nat) :
    State × Except (TR × Word) (List (Nat × Nat)) :=
  State.xlatePages cx acc (len / 4096 + 2) va len s

/-- An error record for poisoned data that was read (R479, R511). The lines of host and peer memory among the poisoned ones are
those whose reads complete with UR, CA or poison, or not at all (R480); which they are is the environment's (log entry 18). -/
def State.poisonRecord (s : State) (pa : Nat) : State :=
  match s.backing pa with
  | .host h => s.errorRecord { code := 0x13, sev := 1, unit := 10, pa := pa, detail := winPort (s.hostWin h) }
  | .peer p _ => s.errorRecord { code := 0x13, sev := 1, unit := 10, pa := pa, detail := tget 0 s.host.peers p }
  | .stier p => s.errorRecord { code := 0x13, sev := 1, unit := 10, pa := pa, detail := p }
  | _ => s.errorRecord { code := 0x11, sev := 1, unit := 5, die := s.homeDie pa, pa := pa }

/-- Read a range under a context as an agent that is no node (R410, R453); poisoned data fails the read (R479). -/
def State.readVa (s : State) (cx : Cx) (va : Word) (len : Nat) : State × Except (TR × Word) (List Byte) :=
  match s.xlateAll cx .load va len with
  | (s, .ok ps) =>
    let s := ps.foldl (fun s p => s.loadLines noNode p.1 p.2) s
    match ps.find? fun p => s.poisoned p.1 p.2 with
    | some p => (s.poisonRecord p.1, .error (.accessFault, va))
    | none => (s, .ok ((ps.map fun p => s.peek p.1 p.2).flatten))
  | (s, .error e) => (s, .error e)

/-- Write a range under a context at each location's arbiter; nothing is written when a page fails. -/
def State.writeVa (s : State) (cx : Cx) (va : Word) (bs : List Byte) : State × Except (TR × Word) Unit :=
  match s.xlateAll cx .store va bs.length with
  | (s, .ok ps) =>
    ((ps.foldl (fun (a : State × List Byte) p => (a.1.agentWrite p.1 (a.2.take p.2), a.2.drop p.2)) (s, bs)).1, .ok ())
  | (s, .error e) => (s, .error e)

/-! ### Dropping translations -/

/-- A translation's page overlaps a VA range. -/
def Tlb.overlaps (t : Tlb) (va len : Nat) : Bool := decide (t.va < va + len) && decide (va < t.va + 2 ^ t.lg)

/-- Drop the translations that a test names; holds on them are gone with them (R433). -/
def State.tlbDrop (s : State) (p : Tlb → Bool) : State :=
  { s with xlat := { s.xlat with tlb := s.xlat.tlb.filter fun t => !p t } }

end Sys2Proof.Machine
end

