-- ==== Sys2Proof/Machine/Access.lean ====
section
/-! DEFINITION. Scalar accesses (R81): translation with its traps and parks, loads, stores, the scalar store buffer, and what an
ordering instruction holds back (R70, R72). -/

namespace Sys2Proof.Machine

/-! ### Page requests -/

/-- A page-request group is sent for a parked fault (R437): the state after it and the group index, 512 while it
waits for a free one. -/
def State.sendPrg (s : State) (who : PrgFor) (pasid : Nat) (pages : List (Nat × Nat)) : State × Nat :=
  match leastBelow 512 fun i => !(s.xlat.prgs.any fun g => g.idx == i) with
  | none => ({ s with xlat := { s.xlat with parkq := s.xlat.parkq ++ [(who, pasid, pages)] } }, 512)
  | some i =>
    match s.ctxOf pasid with
    | some (slot, c) =>
      ({ s with xlat := { s.xlat with
          prgs := s.xlat.prgs ++ [⟨i, slot, c.gen, who, pages, false⟩]
          ctx := tset slot { c with prgn := c.prgn + 1 } s.xlat.ctx } }, i)
    | none => ({ s with xlat := { s.xlat with prgs := s.xlat.prgs ++ [⟨i, 4096, 0, who, pages, false⟩] } }, i)

/-- The rights that a page request names: 1 read, 2 write, 4 execute, 8 U. -/
def accRights (acc : Acc) (user : Bool) : Nat :=
  (match acc with | .load => 1 | .store => 2 | .fetch => 4) + (if user then 8 else 0)

/-- The page-fault cause of an access. -/
def pageCause : Acc → Nat
  | .load => 13
  | .store => 15
  | .fetch => 12

/-- The access-fault cause of an access. -/
def accessCause : Acc → Nat
  | .load => 5
  | .store => 7
  | .fetch => 1

/-- A scalar page fault: parked in U-mode when `pfpark.SCL` is 1 (R119), with the trap that a failure of its request makes the
hart take; otherwise the standard trap. -/
def State.scalarPageFault (s : State) (acc : Acc) (va : Word) : State :=
  let h := s.me
  if h.priv = .u && (h.cs csrPfpark).toNat.testBit 1 then
    let (s, i) := s.sendPrg (.scalar s.cur) (s.pasidOf s.cur) [(va.toNat, accRights acc true)]
    s.wait (.page i (pageCause acc) va)
  else s.except (pageCause acc) va

/-- The trap of a translation that gave no location; the MMIO range is an access fault of all but plain loads and stores (R20, R244,
R524). -/
def State.xlateTrap (s : State) (acc : Acc) (va : Word) (t : TR) : Out :=
  match t with
  | .pageFault => .next (s.scalarPageFault acc va)
  | .accessFault => .next (s.except (accessCause acc) va)
  | .contain _ => .next (s.except 31 va)
  | .mmio _ => .next (s.except (accessCause acc) va)
  | .ok _ => .next s

/-- An access of the executing hart to a location waits while a link on the way retrains (R396). -/
def State.linked (s : State) (loc len : Nat) (k : State → Out) : Out :=
  if s.stuck (hartDie s.cur) loc len then .next (s.wait .blocks) else k s

/-- Translate a scalar access, or take its trap. -/
def State.toLoc (s : State) (acc : Acc) (va : Word) (len : Nat) (k : State → Nat → Out) : Out :=
  match s.xlateRange (s.dataCx s.cur) acc va len with
  | (s, .ok loc) => s.linked loc len fun s => k s loc
  | (s, t) => s.xlateTrap acc va t

/-! ### The scalar store buffer -/

/-- The oldest store of a hart's store buffer is performed (R59). It waits for a link that retrains (R396) and is lost where its home
is cut off (R397). -/
def State.drainOne (s : State) (h : Nat) : State :=
  match (s.hart h).sbuf with
  | [] => s
  | (loc, bs) :: r =>
    if s.stuck (hartDie h) loc bs.length then s
    else
      let s := s.modHart h fun x => { x with sbuf := r }
      if s.unreached (hartDie h) loc then s else s.store (nodeOf (coreOf h)) loc bs

/-- Every store of a hart's store buffer is performed, in order (R59, R63). -/
def State.drain (s : State) (h : Nat) : State := (s.hart h).sbuf.foldl (fun s _ => s.drainOne h) s

/-- The last byte that buffered scalar stores give a location. -/
def sbufByte (l : List (Nat × List Byte)) (a : Nat) : Option Byte :=
  l.foldl (fun r e => if e.1 ≤ a ∧ a < e.1 + e.2.length then e.2[a - e.1]? else r) none

/-- The bytes of a scalar load: the hart's own buffered stores over what memory gives (R58, R63). -/
def State.sbufOver (s : State) (loc : Nat) (bs : List Byte) : List Byte :=
  if s.me.sbuf.isEmpty then bs else (List.range bs.length).map fun k => (sbufByte s.me.sbuf (loc + k)).getD (bs.getD k 0)

/-- A scalar store leaves the hart: it stays in the store buffer where the turn says so, else it is performed after those before
it (R59, R62). -/
def State.scalarPut (s : State) (loc : Nat) (bs : List Byte) : State :=
  let s := if s.lazy then s else s.drain s.cur
  if s.lazy || !s.me.sbuf.isEmpty then s.modMe fun x => { x with sbuf := x.sbuf ++ [(loc, bs)] }
  else s.store (nodeOf s.myCore) loc bs

/-- A scalar load of `n` bytes (R58, R81, R410): misaligned across a page it traps with no byte accessed. What the MMIO range
answers to firmware is open (R524, log entry 18). -/
def State.scalarRead (s : State) (va : Word) (n : Nat) (k : State → List Byte → Out) : Out :=
  if va.toNat % n ≠ 0 ∧ 4096 < va.toNat % 4096 + n then .next (s.except 4 va)
  else match s.xlateRange (s.dataCx s.cur) .load va n with
    | (s, .ok loc) => s.linked loc n fun s =>
      let s := s.loadLines (nodeOf s.myCore) loc n
      if s.poisoned loc n then .next ((s.poisonRecord loc).except 5 va)
      else k s (s.sbufOver loc (s.peek loc n))
    | (s, .mmio _) => let (s, v) := s.free; k s (leBytes n v.toNat)
    | (s, t) => s.xlateTrap .load va t

/-- A scalar store (R59, R81, R412). What firmware's store to the MMIO range does in the device is no part of the interface (R524,
log entry 18). -/
def State.scalarWrite (s : State) (va : Word) (bs : List Byte) (k : State → Out) : Out :=
  let n := bs.length
  if va.toNat % n ≠ 0 ∧ 4096 < va.toNat % 4096 + n then .next (s.except 6 va)
  else match s.xlateRange (s.dataCx s.cur) .store va n with
    | (s, .ok loc) => s.linked loc n fun s => k (s.scalarPut loc bs)
    | (s, .mmio _) => k s
    | (s, t) => s.xlateTrap .store va t

/-! ### Streams -/

/-- Stream bits (R18). -/
def strS : Nat := 1
/-- Stream B. -/
def strB : Nat := 2
/-- Stream C. -/
def strC : Nat := 4
/-- Stream M. -/
def strM : Nat := 8
/-- Stream N. -/
def strN : Nat := 16

/-- A copy is complete, suspended or gone as R70 requires of C. -/
def CopyState.quiet : CopyState → Bool
  | .running => false
  | .parked => false
  | .suspended => true
  | .done => true

/-- A command issued on hart `h'` for `inst'` is of the agent that hart `h` is for `inst`: an instance keeps its commands from hart
to hart (R298, R464). -/
def sameAgent (h : Nat) (inst : Option Nat) (h' : Nat) (inst' : Option Nat) : Bool := inst' == inst && (inst.isSome || h' == h)

/-- The harts on which an agent runs now. -/
def State.agentHarts (s : State) (h : Nat) (inst : Option Nat) : List Nat :=
  if inst.isNone then [h] else (s.harts.filter fun e => e.2.inst == inst).map (·.1)

/-- What saves keep of an agent's order for a command at place `seq`: the contexts saved after it was issued. -/
def State.agentOrders (s : State) (inst : Option Nat) (seq : Nat) : List Order :=
  s.orders.filter fun o => inst == some o.iid && decide (seq ≤ o.seq)

/-- The conditions of the pred streams at a place in an agent's order (R70): its blocks in a BIQ or in a saved image, its copies, its
matrix commands, its network commands. Scalar stores leave the store buffer before an ordering is asked for. -/
def State.quiet (s : State) (h : Nat) (inst : Option Nat) (pred seq : Nat) : Bool :=
  let hs := s.agentHarts h inst
  (!pred.testBit 1 || (hs.all (fun a => !(s.hart a).biq.any fun b => decide (b.seq < seq)) &&
    (s.agentOrders inst seq).all fun o => !o.blocks.any fun b => decide (b.1 < seq))) &&
  (!pred.testBit 2 || s.copies.all fun c => !sameAgent h inst c.2.hart c.2.inst || decide (seq ≤ c.2.seq) || c.2.state.quiet) &&
  (!pred.testBit 3 || hs.all fun a => !(s.core (coreOf a)).mat.queue.any fun q => q.1 == a && decide (q.2.1 < seq)) &&
  (!pred.testBit 4 || s.net.msgs.all fun m => !sameAgent h inst m.2.hart m.2.inst || decide (seq ≤ m.2.seq) || m.2.state != 1)

/-- One ordering no longer holds anything back. -/
def State.holdMet (s : State) (h : Nat) (inst : Option Nat) (o : Hold) : Bool :=
  match o.copy with
  | some c =>
    if c % 2 = 0 then (match s.copies.lookup (c / 2) with | some x => x.state == .done | none => true)
    else (match s.net.msgs.lookup (c / 2) with | some m => decide (3 ≤ m.state) | none => true)
  | none => s.quiet h inst o.pred o.seq

/-- An ordering among `l` holds back the access of a stream at place `seq`. -/
def State.holdsBack (s : State) (h : Nat) (inst : Option Nat) (l : List Hold) (stream seq : Nat) : Bool :=
  l.any fun o => o.succ &&& stream != 0 && decide (o.seq ≤ seq) && !s.holdMet h inst o

/-- An ordering holds back the access of a stream that a hart makes at place `seq` (R70, R72). -/
def State.heldBack (s : State) (h stream seq : Nat) : Bool :=
  s.holdsBack h (s.hart h).inst (s.hart h).holds stream seq

/-- An ordering holds back an access of a command that an agent issued at place `seq`, on whichever hart it runs now, or saved (R70,
R72, R291). -/
def State.heldCommand (s : State) (h : Nat) (inst : Option Nat) (stream seq : Nat) : Bool :=
  s.holdsBack h inst ((s.agentHarts h inst).flatMap (fun a => (s.hart a).holds) ++ (s.agentOrders inst seq).flatMap (·.holds)) stream seq

/-- Orderings that hold nothing back any more are forgotten. -/
def State.pruneHolds (s : State) (h : Nat) : State :=
  if (s.hart h).holds.isEmpty then s
  else s.modHart h fun x => { x with holds := x.holds.filter fun o => !s.holdMet h x.inst o }

/-- The executing hart asks for an ordering. -/
def State.hold (s : State) (pred succ : Nat) (copy : Option Nat) : State :=
  s.modMe fun x => { x with holds := x.holds ++ [⟨x.seq, pred, succ, copy⟩] }

/-- Earlier S and B accesses of the executing hart are performed: the condition of a release (R72, R73). Its store buffer has
drained before it runs such an instruction. -/
def State.released (s : State) : Bool := s.me.biq.isEmpty

/-- A release at a scope: at system scope the zero-length reads to the root ports that carry posted writes come first (R75). -/
def State.releaseAt (s : State) (scope : Nat) : State := if scope = 4 then s.pushPosted fun _ => true else s

end Sys2Proof.Machine
end

