-- ==== Sys2Proof/Machine/Base.lean ====
section
/-! DEFINITION. The standard RISC-V instructions that have no row in the opcode table (R79: the base is cited, not
re-described, by 00_scope): RV64I and M, Zba, Zbb, Zbs, Zicond, the compressed words and the trap returns. Their
meanings are those of the RISC-V manual (log entry 15). -/

namespace Sys2Proof.Machine

/-- A 12-bit immediate, sign-extended. -/
def sext12 (i : BitVec 12) : Word := i.signExtend 64

/-- The low 32 bits, sign-extended: the result of a W form. -/
def sextW (x : Word) : Word := (x.setWidth 32).signExtend 64

/-- Signed and unsigned comparison as 0 or 1. -/
def boolW (b : Bool) : Word := if b then 1 else 0

/-- Signed division with the RISC-V corners: by zero all ones, overflow the dividend. -/
def divS (a b : Word) : Word :=
  if b = 0 then -1 else if a = BitVec.intMin 64 && b == -1 then a else a.sdiv b
/-- Unsigned division. -/
def divU (a b : Word) : Word := if b = 0 then -1 else a / b
/-- Signed remainder. -/
def remS (a b : Word) : Word := if b = 0 then a else if a = BitVec.intMin 64 && b == -1 then 0 else a.srem b
/-- Unsigned remainder. -/
def remU (a b : Word) : Word := if b = 0 then a else a % b

/-- Leading zeros of the low `n` bits. -/
def clzN (n x : Nat) : Nat := ((List.range n).find? fun i => x.testBit (n - 1 - i)).getD n
/-- Trailing zeros of the low `n` bits. -/
def ctzN (n x : Nat) : Nat := ((List.range n).find? fun i => x.testBit i).getD n
/-- Set bits among the low `n`. -/
def popN (n x : Nat) : Nat := ((List.range n).filter fun i => x.testBit i).length

/-- Bytes of a doubleword, each set to all ones where it is not zero. -/
def orcB (x : Word) : Word :=
  BitVec.ofNat 64 (leNat ((leBytes 8 x.toNat).map fun b => if b = 0 then 0 else 0xFF))
/-- Bytes of a doubleword in reverse order. -/
def rev8 (x : Word) : Word := BitVec.ofNat 64 (leNat (leBytes 8 x.toNat).reverse)

/-- OP (0x33): base, M, Zba, Zbb, Zbs, Zicond. -/
def opReg (f7 f3 : Nat) (a b : Word) : Option Word :=
  let sh := b.toNat % 64
  match f7, f3 with
  | 0x00, 0 => some (a + b)
  | 0x20, 0 => some (a - b)
  | 0x00, 1 => some (a <<< sh)
  | 0x00, 2 => some (boolW (a.slt b))
  | 0x00, 3 => some (boolW (a.ult b))
  | 0x00, 4 => some (a ^^^ b)
  | 0x00, 5 => some (a >>> sh)
  | 0x20, 5 => some (a.sshiftRight sh)
  | 0x00, 6 => some (a ||| b)
  | 0x00, 7 => some (a &&& b)
  | 0x01, 0 => some (a * b)
  | 0x01, 1 => some (BitVec.ofInt 64 (a.toInt * b.toInt / 2 ^ 64))
  | 0x01, 2 => some (BitVec.ofInt 64 (a.toInt * b.toNat / 2 ^ 64))
  | 0x01, 3 => some (BitVec.ofNat 64 (a.toNat * b.toNat / 2 ^ 64))
  | 0x01, 4 => some (divS a b)
  | 0x01, 5 => some (divU a b)
  | 0x01, 6 => some (remS a b)
  | 0x01, 7 => some (remU a b)
  | 0x10, 2 => some ((a <<< 1) + b)
  | 0x10, 4 => some ((a <<< 2) + b)
  | 0x10, 6 => some ((a <<< 3) + b)
  | 0x20, 4 => some (~~~(a ^^^ b))
  | 0x20, 6 => some (a ||| ~~~b)
  | 0x20, 7 => some (a &&& ~~~b)
  | 0x05, 4 => some (if a.slt b then a else b)
  | 0x05, 5 => some (if a.ult b then a else b)
  | 0x05, 6 => some (if a.slt b then b else a)
  | 0x05, 7 => some (if a.ult b then b else a)
  | 0x30, 1 => some (a.rotateLeft sh)
  | 0x30, 5 => some (a.rotateRight sh)
  | 0x24, 1 => some (a &&& ~~~((1 : Word) <<< sh))
  | 0x24, 5 => some ((a >>> sh) &&& 1)
  | 0x34, 1 => some (a ^^^ ((1 : Word) <<< sh))
  | 0x14, 1 => some (a ||| ((1 : Word) <<< sh))
  | 0x07, 5 => some (if b = 0 then 0 else a)
  | 0x07, 7 => some (if b = 0 then a else 0)
  | _, _ => none

/-- OP-32 (0x3B); `r2` is the rs2 field, which tells `zext.h` from reserved words. -/
def opReg32 (f7 f3 r2 : Nat) (a b : Word) : Option Word :=
  let a32 := a.setWidth 32
  let b32 := b.setWidth 32
  let sh := b.toNat % 32
  let sx (x : BitVec 32) : Word := x.signExtend 64
  match f7, f3 with
  | 0x00, 0 => some (sx (a32 + b32))
  | 0x20, 0 => some (sx (a32 - b32))
  | 0x00, 1 => some (sx (a32 <<< sh))
  | 0x00, 5 => some (sx (a32 >>> sh))
  | 0x20, 5 => some (sx (a32.sshiftRight sh))
  | 0x01, 0 => some (sx (a32 * b32))
  | 0x01, 4 => some (sx (if b32 = 0 then -1 else a32.sdiv b32))
  | 0x01, 5 => some (sx (if b32 = 0 then -1 else a32 / b32))
  | 0x01, 6 => some (sx (if b32 = 0 then a32 else a32.srem b32))
  | 0x01, 7 => some (sx (if b32 = 0 then a32 else a32 % b32))
  | 0x04, 0 => some (a32.setWidth 64 + b)
  | 0x04, 4 => if r2 = 0 then some (a.setWidth 16 |>.setWidth 64) else none
  | 0x10, 2 => some ((a32.setWidth 64 <<< 1) + b)
  | 0x10, 4 => some ((a32.setWidth 64 <<< 2) + b)
  | 0x10, 6 => some ((a32.setWidth 64 <<< 3) + b)
  | 0x30, 1 => some (sx (a32.rotateLeft sh))
  | 0x30, 5 => some (sx (a32.rotateRight sh))
  | _, _ => none

/-- OP-IMM (0x13). -/
def opImm (imm : BitVec 12) (f3 : Nat) (a : Word) : Option Word :=
  let i := sext12 imm
  let sh := imm.toNat % 64
  let f6 := imm.toNat / 64
  match f3 with
  | 0 => some (a + i)
  | 2 => some (boolW (a.slt i))
  | 3 => some (boolW (a.ult i))
  | 4 => some (a ^^^ i)
  | 6 => some (a ||| i)
  | 7 => some (a &&& i)
  | 1 =>
    if f6 = 0 then some (a <<< sh)
    else if f6 = 0x12 then some (a &&& ~~~((1 : Word) <<< sh))
    else if f6 = 0x1A then some (a ^^^ ((1 : Word) <<< sh))
    else if f6 = 0x0A then some (a ||| ((1 : Word) <<< sh))
    else if imm = 0x600 then some (BitVec.ofNat 64 (clzN 64 a.toNat))
    else if imm = 0x601 then some (BitVec.ofNat 64 (ctzN 64 a.toNat))
    else if imm = 0x602 then some (BitVec.ofNat 64 (popN 64 a.toNat))
    else if imm = 0x604 then some ((a.setWidth 8).signExtend 64)
    else if imm = 0x605 then some ((a.setWidth 16).signExtend 64)
    else none
  | 5 =>
    if f6 = 0 then some (a >>> sh)
    else if f6 = 0x10 then some (a.sshiftRight sh)
    else if f6 = 0x18 then some (a.rotateRight sh)
    else if f6 = 0x12 then some ((a >>> sh) &&& 1)
    else if imm = 0x287 then some (orcB a)
    else if imm = 0x6B8 then some (rev8 a)
    else none
  | _ => none

/-- OP-IMM-32 (0x1B). -/
def opImm32 (imm : BitVec 12) (f3 : Nat) (a : Word) : Option Word :=
  let a32 := a.setWidth 32
  let sh := imm.toNat % 32
  let f7 := imm.toNat / 32
  let sx (x : BitVec 32) : Word := x.signExtend 64
  match f3 with
  | 0 => some (sextW (a + sext12 imm))
  | 1 =>
    if f7 = 0 then some (sx (a32 <<< sh))
    else if imm.toNat / 64 = 2 then some (a32.setWidth 64 <<< (imm.toNat % 64))
    else if imm = 0x600 then some (BitVec.ofNat 64 (clzN 32 a32.toNat))
    else if imm = 0x601 then some (BitVec.ofNat 64 (ctzN 32 a32.toNat))
    else if imm = 0x602 then some (BitVec.ofNat 64 (popN 32 a32.toNat))
    else none
  | 5 =>
    if f7 = 0 then some (sx (a32 >>> sh))
    else if f7 = 0x20 then some (sx (a32.sshiftRight sh))
    else if f7 = 0x30 then some (sx (a32.rotateRight sh))
    else none
  | _ => none

/-- The branch condition. -/
def branchTaken (f3 : Nat) (a b : Word) : Option Bool :=
  match f3 with
  | 0 => some (a == b)
  | 1 => some (a != b)
  | 4 => some (a.slt b)
  | 5 => some (!a.slt b)
  | 6 => some (a.ult b)
  | 7 => some (!a.ult b)
  | _ => none

/-- The registers that a base word reads, for the scoreboard (R105). -/
def baseReads (w : BitVec 32) : List Nat :=
  let o := (w.extractLsb' 0 7).toNat
  let r1 := (w.extractLsb' 15 5).toNat
  let r2 := (w.extractLsb' 20 5).toNat
  if o = 0x33 ∨ o = 0x3B ∨ o = 0x63 then [r1, r2]
  else if o = 0x13 ∨ o = 0x1B ∨ o = 0x67 then [r1]
  else []

/-- Jump: rd takes the address of the next instruction, the pc the target. -/
def State.jump (s : State) (rd : BitVec 5) (target : Word) : State :=
  let next := s.me.pc + BitVec.ofNat 64 s.ilen
  (s.wx rd next).retire.modMe fun h => { h with pc := target }

/-- A base instruction without a row. `none`: the word is not one of them. -/
def baseStep (w : BitVec 32) (s : State) : Option State :=
  let o := (w.extractLsb' 0 7).toNat
  let rd := w.extractLsb' 7 5
  let f3 := (w.extractLsb' 12 3).toNat
  let a := s.x (w.extractLsb' 15 5)
  let b := s.x (w.extractLsb' 20 5)
  let f7 := (w.extractLsb' 25 7).toNat
  let imm := w.extractLsb' 20 12
  let u : Word := ((w.extractLsb' 12 20) ++ (0 : BitVec 12)).signExtend 64
  let pc := s.me.pc
  if o = 0x37 then some (s.retireX rd u)
  else if o = 0x17 then some (s.retireX rd (pc + u))
  else if o = 0x33 then (opReg f7 f3 a b).map (s.retireX rd)
  else if o = 0x3B then (opReg32 f7 f3 (w.extractLsb' 20 5).toNat a b).map (s.retireX rd)
  else if o = 0x13 then (opImm imm f3 a).map (s.retireX rd)
  else if o = 0x1B then (opImm32 imm f3 a).map (s.retireX rd)
  else if o = 0x6F then
    let off := (w.extractLsb' 31 1 ++ w.extractLsb' 12 8 ++ w.extractLsb' 20 1 ++ w.extractLsb' 21 10 ++ (0 : BitVec 1))
    some (s.jump rd (pc + off.signExtend 64))
  else if o = 0x67 then
    if f3 = 0 then some (s.jump rd ((a + sext12 imm) &&& ~~~(1 : Word))) else none
  else if o = 0x63 then
    let off := (w.extractLsb' 31 1 ++ w.extractLsb' 7 1 ++ w.extractLsb' 25 6 ++ w.extractLsb' 8 4 ++ (0 : BitVec 1))
    (branchTaken f3 a b).map fun t => if t then s.retire.modMe fun h => { h with pc := pc + off.signExtend 64 } else s.retire
  else if w = 0x00100073 then some (s.except 3 pc)
  else if w = 0x10200073 then
    match s.me.priv with
    | .u => some (s.illegal w)
    | .s => if (s.me.cs csrMstatus).toNat.testBit 22 then some (s.illegal w) else some (s.retire.modMe Hart.sret)
    | .m => some (s.retire.modMe Hart.sret)
  else if w = 0x30200073 then if s.me.priv = .m then some (s.retire.modMe Hart.mret) else some (s.illegal w)
  else none

/-! ### Compressed words -/

/-- A register field of three bits: x8 to x15. -/
def cReg (b : BitVec 3) : BitVec 5 := (1 : BitVec 2) ++ b

/-- The 32-bit instruction of a compressed word (the C extension for RV64 with D). -/
def expandC (c : BitVec 16) : Option (BitVec 32) :=
  let f3 := (c.extractLsb' 13 3).toNat
  let q := (c.extractLsb' 0 2).toNat
  let rd := c.extractLsb' 7 5
  let rs2 := c.extractLsb' 2 5
  let r1' := cReg (c.extractLsb' 7 3)
  let r2' := cReg (c.extractLsb' 2 3)
  let b12 := c.extractLsb' 12 1
  let imm6 : BitVec 12 := (b12 ++ rs2).signExtend 12
  let sh6 := b12 ++ rs2
  match q, f3 with
  | 0, 0 =>
    let i : BitVec 12 := (c.extractLsb' 7 4 ++ c.extractLsb' 11 2 ++ c.extractLsb' 5 1 ++ c.extractLsb' 6 1 ++ (0 : BitVec 2)).setWidth 12
    if i = 0 then none else some (iWord i 2 0 r2' 0x13)
  | 0, 1 =>
    let i : BitVec 12 := (c.extractLsb' 5 2 ++ c.extractLsb' 10 3 ++ (0 : BitVec 3)).setWidth 12
    some (iWord i r1' 3 r2' 0x07)
  | 0, 2 =>
    let i : BitVec 12 := (c.extractLsb' 5 1 ++ c.extractLsb' 10 3 ++ c.extractLsb' 6 1 ++ (0 : BitVec 2)).setWidth 12
    some (iWord i r1' 2 r2' 0x03)
  | 0, 3 =>
    let i : BitVec 12 := (c.extractLsb' 5 2 ++ c.extractLsb' 10 3 ++ (0 : BitVec 3)).setWidth 12
    some (iWord i r1' 3 r2' 0x03)
  | 0, 5 =>
    let i : BitVec 12 := (c.extractLsb' 5 2 ++ c.extractLsb' 10 3 ++ (0 : BitVec 3)).setWidth 12
    some (rWord (i.extractLsb' 5 7) r2' r1' 3 (i.extractLsb' 0 5) 0x27)
  | 0, 6 =>
    let i : BitVec 12 := (c.extractLsb' 5 1 ++ c.extractLsb' 10 3 ++ c.extractLsb' 6 1 ++ (0 : BitVec 2)).setWidth 12
    some (rWord (i.extractLsb' 5 7) r2' r1' 2 (i.extractLsb' 0 5) 0x23)
  | 0, 7 =>
    let i : BitVec 12 := (c.extractLsb' 5 2 ++ c.extractLsb' 10 3 ++ (0 : BitVec 3)).setWidth 12
    some (rWord (i.extractLsb' 5 7) r2' r1' 3 (i.extractLsb' 0 5) 0x23)
  | 1, 0 => some (iWord imm6 rd 0 rd 0x13)
  | 1, 1 => if rd = 0 then none else some (iWord imm6 rd 0 rd 0x1B)
  | 1, 2 => some (iWord imm6 0 0 rd 0x13)
  | 1, 3 =>
    if rd = 2 then
      let i : BitVec 12 := (b12 ++ c.extractLsb' 3 2 ++ c.extractLsb' 5 1 ++ c.extractLsb' 2 1 ++ c.extractLsb' 6 1 ++ (0 : BitVec 4)).signExtend 12
      if i = 0 then none else some (iWord i 2 0 2 0x13)
    else
      let i : BitVec 20 := (b12 ++ rs2).signExtend 20
      if i = 0 then none else some (i ++ rd ++ (0x37 : BitVec 7))
  | 1, 4 =>
    match (c.extractLsb' 10 2).toNat with
    | 0 => some (iWord ((0 : BitVec 6) ++ sh6) r1' 5 r1' 0x13)
    | 1 => some (iWord ((0x10 : BitVec 6) ++ sh6) r1' 5 r1' 0x13)
    | 2 => some (iWord imm6 r1' 7 r1' 0x13)
    | _ =>
      match b12.toNat, (c.extractLsb' 5 2).toNat with
      | 0, 0 => some (rWord 0x20 r2' r1' 0 r1' 0x33)
      | 0, 1 => some (rWord 0 r2' r1' 4 r1' 0x33)
      | 0, 2 => some (rWord 0 r2' r1' 6 r1' 0x33)
      | 0, _ => some (rWord 0 r2' r1' 7 r1' 0x33)
      | _, 0 => some (rWord 0x20 r2' r1' 0 r1' 0x3B)
      | _, 1 => some (rWord 0 r2' r1' 0 r1' 0x3B)
      | _, _ => none
  | 1, 5 =>
    let i : BitVec 12 := b12 ++ c.extractLsb' 8 1 ++ c.extractLsb' 9 2 ++ c.extractLsb' 6 1 ++ c.extractLsb' 7 1 ++
      c.extractLsb' 2 1 ++ c.extractLsb' 11 1 ++ c.extractLsb' 3 3 ++ (0 : BitVec 1)
    let j : BitVec 21 := i.signExtend 21
    some (j.extractLsb' 20 1 ++ j.extractLsb' 1 10 ++ j.extractLsb' 11 1 ++ j.extractLsb' 12 8 ++ (0 : BitVec 5) ++ (0x6F : BitVec 7))
  | 1, 6 =>
    let i : BitVec 13 := (b12 ++ c.extractLsb' 5 2 ++ c.extractLsb' 2 1 ++ c.extractLsb' 10 2 ++ c.extractLsb' 3 2 ++ (0 : BitVec 1)).signExtend 13
    some (i.extractLsb' 12 1 ++ i.extractLsb' 5 6 ++ (0 : BitVec 5) ++ r1' ++ (0 : BitVec 3) ++ i.extractLsb' 1 4 ++ i.extractLsb' 11 1 ++ (0x63 : BitVec 7))
  | 1, 7 =>
    let i : BitVec 13 := (b12 ++ c.extractLsb' 5 2 ++ c.extractLsb' 2 1 ++ c.extractLsb' 10 2 ++ c.extractLsb' 3 2 ++ (0 : BitVec 1)).signExtend 13
    some (i.extractLsb' 12 1 ++ i.extractLsb' 5 6 ++ (0 : BitVec 5) ++ r1' ++ (1 : BitVec 3) ++ i.extractLsb' 1 4 ++ i.extractLsb' 11 1 ++ (0x63 : BitVec 7))
  | 2, 0 => some (iWord ((0 : BitVec 6) ++ sh6) rd 1 rd 0x13)
  | 2, 1 =>
    let i : BitVec 12 := (c.extractLsb' 2 3 ++ b12 ++ c.extractLsb' 5 2 ++ (0 : BitVec 3)).setWidth 12
    some (iWord i 2 3 rd 0x07)
  | 2, 2 =>
    let i : BitVec 12 := (c.extractLsb' 2 2 ++ b12 ++ c.extractLsb' 4 3 ++ (0 : BitVec 2)).setWidth 12
    if rd = 0 then none else some (iWord i 2 2 rd 0x03)
  | 2, 3 =>
    let i : BitVec 12 := (c.extractLsb' 2 3 ++ b12 ++ c.extractLsb' 5 2 ++ (0 : BitVec 3)).setWidth 12
    if rd = 0 then none else some (iWord i 2 3 rd 0x03)
  | 2, 4 =>
    if b12 = 0 then
      if rs2 = 0 then (if rd = 0 then none else some (iWord 0 rd 0 0 0x67)) else some (rWord 0 rs2 0 0 rd 0x33)
    else if rs2 = 0 then (if rd = 0 then some 0x00100073 else some (iWord 0 rd 0 1 0x67))
    else some (rWord 0 rs2 rd 0 rd 0x33)
  | 2, 5 =>
    let i : BitVec 12 := (c.extractLsb' 7 3 ++ c.extractLsb' 10 3 ++ (0 : BitVec 3)).setWidth 12
    some (rWord (i.extractLsb' 5 7) rs2 2 3 (i.extractLsb' 0 5) 0x27)
  | 2, 6 =>
    let i : BitVec 12 := (c.extractLsb' 7 2 ++ c.extractLsb' 9 4 ++ (0 : BitVec 2)).setWidth 12
    some (rWord (i.extractLsb' 5 7) rs2 2 2 (i.extractLsb' 0 5) 0x23)
  | 2, 7 =>
    let i : BitVec 12 := (c.extractLsb' 7 3 ++ c.extractLsb' 10 3 ++ (0 : BitVec 3)).setWidth 12
    some (rWord (i.extractLsb' 5 7) rs2 2 3 (i.extractLsb' 0 5) 0x23)
  | _, _ => none

end Sys2Proof.Machine
end

