-- ==== Sys2Proof/Machine/Lanes.lean ====
section
/-! DEFINITION. Lane groups (R99 to R101): weights, VLMAX, and the grant that the core's lane arbiter forms. -/

namespace Sys2Proof.Machine

/-- The weight of a lane group from its 16 disable bits (R99). -/
def laneWeight (dis : Nat) : Nat :=
  if dis % 65536 = 0 then 2
  else if bits dis 0 8 = 0 ∨ bits dis 8 8 = 0 then 1
  else 0

/-- wgt(g) on a core; the Quadrille cluster's harts have one lane group of weight 2 (R498). -/
def State.wgt (s : State) (ci g : Nat) : Nat :=
  if ci = 512 then (if g = 0 then 2 else 0)
  else laneWeight (bits (s.core ci).lanedis.toNat (16 * g) 16)

/-- The sum of the weights of a grant. -/
def State.weight (s : State) (ci : Nat) (g : List Nat) : Nat := (g.map (s.wgt ci)).sum

/-- VLMAX of a grant at an element width in bits (R99). -/
def State.vlmaxOf (s : State) (ci : Nat) (g : List Nat) (sew : Nat) : Nat := s.weight ci g * 1024 / sew

/-- The priority of a hart: that of its instance's queue (R100). A hart without an instance has priority 0. -/
def State.prioOf (s : State) (h : Nat) : Nat := match s.queueOf h with | some q => q.prio | none => 0

/-- The other harts of a hart's core. -/
def otherHarts (h : Nat) : List Nat := (coreHarts (coreOf h)).filter (· != h)

/-- How many other harts hold a lane group. -/
def State.holders (s : State) (h g : Nat) : Nat := ((otherHarts h).filter fun o => (s.hart o).grant.contains g).length

/-- The lane groups of a mask, ascending. -/
def laneList (mask : Nat) : List Nat := bitList mask 4

/-- A lane group may be granted to a hart now (R100). -/
def State.laneFree (s : State) (h g : Nat) : Bool :=
  decide (0 < s.wgt (coreOf h) g) &&
  !((otherHarts h).any fun o => (s.hart o).grant.contains g && (s.hart o).gexcl) &&
  !((s.hart h).excl && decide (0 < s.holders h g)) &&
  !((otherHarts h).any fun o => (s.hart o).claims.contains g && decide (s.prioOf h < s.prioOf o))

/-- The candidates of a hart's request in the arbiter's order (R100). -/
def State.candidates (s : State) (h : Nat) : List Nat :=
  let x := s.hart h
  let c := (laneList x.allow).filter (s.laneFree h)
  let rest := c.filter fun g => !x.grant.contains g
  c.filter (x.grant.contains ·) ++
    ((List.range 9).map fun n => rest.filter fun g => s.holders h g == n).flatten

/-- Sort a list of lane groups. -/
def laneSort (l : List Nat) : List Nat := (List.range 4).filter l.contains

/-- The new grant of a hart, ascending (R100). -/
def State.newGrant (s : State) (h : Nat) : List Nat := laneSort ((s.candidates h).take (s.hart h).lgreq)

/-- What a hart claims when its grant falls short (R100). -/
def State.newClaims (s : State) (h : Nat) (new : List Nat) : List Nat :=
  let x := s.hart h
  if x.lgreq ≤ new.length then []
  else
    (laneList x.allow).filter fun g =>
      !new.contains g && decide (0 < s.wgt (coreOf h) g) &&
        (x.claims.contains g ||
          (decide (0 < s.holders h g) &&
            (otherHarts h).all (fun o => !(s.hart o).grant.contains g || decide (s.prioOf o < s.prioOf h)) &&
            !(otherHarts h).any (fun o => (s.hart o).claims.contains g && decide (s.prioOf h ≤ s.prioOf o))))

/-- Harts of a core that wait for a grant look again when a grant, a claim or `lanedis` changes (R100). -/
def State.lanesChanged (s : State) (ci : Nat) : State :=
  s.due (((coreHarts ci).filter fun h => (s.hart h).wait == some .grant || (s.hart h).resume.isSome).map .laneGrantReeval)

/-- Set a hart's claims, telling the waiting harts when they change. -/
def State.setClaims (s : State) (h : Nat) (cl : List Nat) : State :=
  if (s.hart h).claims = cl then s else (s.modHart h fun x => { x with claims := cl }).lanesChanged (coreOf h)

/-- Set a hart's grant, telling the waiting harts when it changes. -/
def State.setGrant (s : State) (h : Nat) (g : List Nat) : State :=
  let x := s.hart h
  if x.grant = g ∧ x.gexcl = x.excl then s
  else (s.modHart h fun x => { x with grant := g, gexcl := x.excl }).lanesChanged (coreOf h)

/-- The grant and the claims of a hart are given up: `vcfg`.LG, `vl` and `vlmax` read 0 (R89). -/
def State.dropGrant (s : State) (h : Nat) : State :=
  let s := (s.setClaims h []).setGrant h []
  s.modHart h fun x =>
    ((x.setCs csrVl 0).setCs csrVlmax 0).setCs csrVcfg (x.cs csrVcfg &&& ~~~(0x70000 : Word))

/-- `lanemap` as it reads (R93). -/
def State.lanemap (s : State) (h : Nat) : Word :=
  let x := s.hart h
  let claimed := (laneList x.allow).filter fun g =>
    (otherHarts h).any fun o => (s.hart o).claims.contains g && decide (s.prioOf h < s.prioOf o)
  BitVec.ofNat 64 (x.lgreq + (if x.excl then 8 else 0) + x.allow * 16 + maskOf x.grant * 256 + maskOf claimed * 4096)

/-- A lane request that R93 and R131 admit. -/
def laneRequestLegal (v : Nat) : Bool := decide (1 ≤ bits v 0 3) && decide (bits v 0 3 ≤ 4) && bits v 4 4 != 0

/-- Take a lane request: LGREQ, EXCL and ALLOW. -/
def Hart.setRequest (x : Hart) (v : Nat) : Hart := { x with lgreq := bits v 0 3, excl := bit v 3, allow := bits v 4 4 }

/-- The dealing pattern P of a grant (R149). -/
def State.pattern (s : State) (ci : Nat) (g : List Nat) : List Nat :=
  (g.filter fun l => decide (0 < s.wgt ci l)) ++ (g.filter fun l => decide (1 < s.wgt ci l))

end Sys2Proof.Machine
end

