-- ==== Sys2Proof/Machine/Csr.lean ====
section
/-! DEFINITION. Control and status registers: what each reads, who may reach it, and what a write does (R5, R82,
R86 to R97, R284, R302, R448, R449 and the RISC-V privileged architecture). -/

namespace Sys2Proof.Machine

/-- The level below which a CSR number traps (R5). -/
def csrLevel (n : Nat) : Nat := if bits n 8 2 = 2 then 3 else bits n 8 2

/-- The fields of `mstatus` that `sstatus` shows. -/
def sstatusMask : Word := 0x00000003000DE762
/-- The fields of `mstatus` that a write changes. -/
def mstatusWr : Word := 0x00000000007E79AA
/-- The fields of `sstatus` that a write changes. -/
def sstatusWr : Word := 0x00000000000C6122

/-- `mstatus` with SD, which says that FS is Dirty. -/
def withSd (v : Word) : Word := if bits v.toNat 13 2 = 3 then v ||| 0x8000000000000000 else v

/-- A floating-point instruction or CSR is off (FS = 0). -/
def Hart.fpOff (h : Hart) : Bool := bits (h.cs csrMstatus).toNat 13 2 == 0

/-- FS becomes Dirty. -/
def Hart.fpDirty (h : Hart) : Hart := h.setCs csrMstatus (h.cs csrMstatus ||| 0x6000)

/-- `bstat` (R90). -/
def Hart.bstat (h : Hart) : Word :=
  BitVec.ofNat 64 (h.biq.length + h.slip * 32 + (if h.held then 1024 else 0) + (if h.parked then 2048 else 0) +
    (if h.vlost then 4096 else 0) + h.garr * 8192 + (match h.biq with | b :: _ => b.tries | [] => 0) * 131072)

/-- `mcfg` (R302): the masks, and EN and OWN as the engine has them. -/
def State.mcfg (s : State) (h : Nat) : Word :=
  let m := (s.core (coreOf h)).mat
  ((s.hart h).cs csrMcfg &&& 0xFFFFFFFFFF) |||
    (if m.owner = some h then (if m.en then 0x30000000000 else 0x20000000000) else 0)

/-- The counter bit of 0xC00 to 0xC02 is open to the level (R82). -/
def Hart.counterOpen (h : Hart) (n : Nat) : Bool :=
  match h.priv with
  | .m => true
  | .s => (h.cs 0x306).toNat.testBit n
  | .u => (h.cs 0x306).toNat.testBit n && (h.cs 0x106).toNat.testBit n

/-- What a hart reads from a CSR that exists and is open to it; `none` is the illegal-instruction trap. The number of
core-clock cycles is an open value. -/
def State.csrGet (s : State) (n : Nat) : State × Option Word :=
  let h := s.me
  let st := h.cs csrMstatus
  if privRank h.priv < csrLevel n then (s, none)
  else match n with
  | 0x001 => (s, if h.fpOff then none else some (h.cs 3 &&& 0x1F))
  | 0x002 => (s, if h.fpOff then none else some ((h.cs 3 >>> 5) &&& 7))
  | 0x003 => (s, if h.fpOff then none else some (h.cs 3))
  | 0xC00 => if h.counterOpen 0 then let (s, v) := s.free; (s, some v) else (s, none)
  | 0xC01 => (s, if h.counterOpen 1 then some (BitVec.ofNat 64 (s.dtimeOf (hartDie s.cur))) else none)
  | 0xC02 => (s, if h.counterOpen 2 then some (h.cs 0xB02) else none)
  | 0xCC2 => (s, some h.bstat)
  | 0xCC3 => (s, some s.vpcap)
  | 0xCC4 => (s, some (BitVec.ofNat 64 (s.dtimeOf (hartDie s.cur))))
  | 0x808 => (s, some (s.mcfg s.cur))
  | 0x5C5 => (s, some (s.lanemap s.cur))
  | 0x5C6 => (s, some (s.core s.myCore).lanedis)
  | 0x100 => (s, some (withSd (st &&& sstatusMask)))
  | 0x104 => (s, some (h.cs csrMie &&& h.cs csrMideleg))
  | 0x144 => (s, some (h.cs csrMip &&& h.cs csrMideleg))
  | 0x180 => (s, if h.priv = .s && st.toNat.testBit 20 then none else some (h.cs csrSatp))
  | 0x300 => (s, some (withSd st))
  | 0x301 => (s, some 0x800000000014112D)
  | 0xB00 => let (s, v) := s.free; (s, some v)
  | 0xF14 => (s, some (BitVec.ofNat 64 s.cur))
  | _ =>
    if (0x800 ≤ n ∧ n ≤ 0x807) ∨ n = 0xCC0 ∨ n = 0xCC1 ∨ (0x5C0 ≤ n ∧ n ≤ 0x5C4) ∨ n = 0x5C7 ∨ n = 0x5C8 ∨
        [0x105, 0x106, 0x10A, 0x140, 0x141, 0x142, 0x143, 0x302, 0x303, 0x304, 0x305, 0x306, 0x30A, 0x340,
          0x341, 0x342, 0x343, 0x344, 0xB02].contains n then (s, some (h.cs n))
    else if (0x3A0 ≤ n ∧ n ≤ 0x3EF) ∨ n = 0x320 ∨ (0x323 ≤ n ∧ n ≤ 0x33F) ∨ (0xB03 ≤ n ∧ n ≤ 0xB1F) ∨ (0xF11 ≤ n ∧ n ≤ 0xF13) ∨
        n = 0xF15 ∨ ((0xC03 ≤ n ∧ n ≤ 0xC1F) ∧ h.priv = .m) then (s, some 0)
    else (s, none)

/-- Replace the masked bits. -/
def mergeBits (old new mask : Word) : Word := (old &&& ~~~mask) ||| (new &&& mask)

/-- Legal MPP values are kept; others leave it (WARL). -/
def mstatusNew (old v : Word) : Word :=
  let w := mergeBits old v mstatusWr
  if bits v.toNat 11 2 = 2 then mergeBits w old 0x1800 else w

/-- A write of a new value to a CSR: the hart after it, or `none` where the write is refused by a trap. The instruction that writes
`minstret` does not count itself: what it writes is what the next one reads. -/
def Hart.csrSet (h : Hart) (n : Nat) (v : Word) : Option Hart :=
  if bits n 10 2 = 3 then none
  else match n with
  | 0x001 => some (h.setCs 3 (mergeBits (h.cs 3) v 0x1F)).fpDirty
  | 0x002 => some (h.setCs 3 (mergeBits (h.cs 3) (v <<< 5) 0xE0)).fpDirty
  | 0x003 => some (h.setCs 3 (v &&& 0xFF)).fpDirty
  | 0x803 => some (h.setCs n (v &&& 0xFFFFFFFF))
  | 0x804 => if v &&& 0xFFFF00000000F000 = 0 then some (h.setCs n v) else none
  | 0x5C0 => some (h.setCs n (v &&& 0x3F80FF))
  | 0x5C3 => some (h.setCs n (v &&& 0x7F3F))
  | 0x5C6 => none
  | 0x5C7 => some (h.setCs n (v &&& ~~~(0xFFF : Word)))
  | 0x5C8 => some (h.setCs n (v &&& 3))
  | 0x100 => some (h.setCs csrMstatus (mergeBits (h.cs csrMstatus) v sstatusWr))
  | 0x104 => some (h.setCs csrMie (mergeBits (h.cs csrMie) v (h.cs csrMideleg)))
  | 0x144 => some (h.setCs csrMip (mergeBits (h.cs csrMip) v (h.cs csrMideleg &&& 2)))
  | 0x300 => some (h.setCs csrMstatus (mstatusNew (h.cs csrMstatus) v))
  | 0x301 => some h
  | 0x303 => some (h.setCs n (v &&& 0x222))
  | 0x304 => some (h.setCs n (v &&& 0xAAA))
  | 0x344 => some (h.setCs n (mergeBits (h.cs n) v 0x222))
  | 0x105 => some (h.setCs n (v &&& ~~~(2 : Word)))
  | 0x305 => some (h.setCs n (v &&& ~~~(2 : Word)))
  | 0x141 => some (h.setCs n (v &&& ~~~(1 : Word)))
  | 0x341 => some (h.setCs n (v &&& ~~~(1 : Word)))
  | 0x106 => some (h.setCs n (v &&& 7))
  | 0x306 => some (h.setCs n (v &&& 7))
  | 0xB00 => some h
  | 0xB02 => some (h.setCs n (v - 1))
  | _ =>
    if n = 0x801 ∨ n = 0x802 ∨ (0x805 ≤ n ∧ n ≤ 0x807) ∨ (0x5C1 ≤ n ∧ n ≤ 0x5C4) ∨
        [0x10A, 0x140, 0x142, 0x143, 0x302, 0x30A, 0x340, 0x342, 0x343].contains n then
      some (h.setCs n (if n = 0x5C4 then v &&& ~~~(0x3F : Word) else v))
    else if (0x3A0 ≤ n ∧ n ≤ 0x3EF) ∨ n = 0x320 ∨ (0x323 ≤ n ∧ n ≤ 0x33F) ∨ (0xB03 ≤ n ∧ n ≤ 0xB1F) then some h
    else none

/-- The operand of a CSR instruction: a register, or the 5-bit immediate. -/
def State.csrOperand (s : State) (f3 : BitVec 3) (src : BitVec 5) : Word :=
  if f3.toNat < 4 then s.x src else src.setWidth 64

/-- The new value of a CSR: write, set or clear. -/
def csrNew (f3 : BitVec 3) (old v : Word) : Word :=
  match f3.toNat % 4 with
  | 1 => v
  | 2 => old ||| v
  | _ => old &&& ~~~v

/-- A CSR write: the level and the number are checked, `write` gives the state after the write or refuses it, and rd
takes the old value. The illegal-instruction trap leaves everything unchanged (R5). -/
def State.csrWrite (s : State) (word : BitVec 32) (n : Nat) (f3 : BitVec 3) (rd src : BitVec 5)
    (write : State → Word → Option State) : Out :=
  match s.csrGet n with
  | (_, none) => .next (s.illegal word)
  | (s', some old) =>
    match write s' (csrNew f3 old (s.csrOperand f3 src)) with
    | none => .next (s.illegal word)
    | some t => .next (t.retireX rd old)

/-- The word of a CSR instruction, for `stval`. -/
def csrWord (n : BitVec 12) (f3 : BitVec 3) (rd src : BitVec 5) : BitVec 32 := iWord n src f3 rd 0x73

end Sys2Proof.Machine
end

