-- ==== Sys2Proof/Machine/Scalar.lean ====
section
/-! DEFINITION. The standard RISC-V rows: scalar loads and stores, atomics, fences, CSR accesses, `sfence.vma`, `wfi`,
the illegal-instruction trap and interrupts. -/

namespace Sys2Proof.Machine

/-- The 32-bit word of a hart instruction, for `stval` (R82). -/
def wordOf (i : Instr) : BitVec 32 := (encode i).headD 0

/-! ### Loads and stores -/

/-- The value of a load from its bytes: sign- or zero-extended. -/
def loadValue (f3 : Nat) (bs : List Byte) : Word :=
  let n := leNat bs
  match f3 with
  | 0 => (BitVec.ofNat 8 n).signExtend 64
  | 1 => (BitVec.ofNat 16 n).signExtend 64
  | 2 => (BitVec.ofNat 32 n).signExtend 64
  | _ => BitVec.ofNat 64 n

/-- Bytes of an access by the low bits of funct3. -/
def accessBytes (f3 : Nat) : Nat := 2 ^ (f3 % 4)

/-- SCALAR_LOAD (R81, with R11, R13, R15, R119, R398, R410). A float load needs FS on; a word is NaN-boxed. -/
def execScalarLoad (fp : Bool) (f3 : BitVec 3) (rd rs1 : BitVec 5) (imm : BitVec 12) (s : State) : Out :=
  let va := s.x rs1 + sext12 imm
  if fp && s.me.fpOff then .next (s.illegal (wordOf (.scalarLoad fp f3 rd rs1 imm)))
  else s.scalarRead va (accessBytes f3.toNat) fun s bs =>
    if fp then
      let v : Word := BitVec.ofNat 64 (leNat bs) ||| (if f3 = 2 then 0xFFFFFFFF00000000 else 0)
      .next (s.modMe fun h => (h.setF rd.toNat v).fpDirty).retire
    else .next (s.retireX rd (loadValue f3.toNat bs))

/-- SCALAR_STORE (R81). -/
def execScalarStore (fp : Bool) (f3 : BitVec 3) (rs1 rs2 : BitVec 5) (imm : BitVec 12) (s : State) : Out :=
  let va := s.x rs1 + sext12 imm
  if fp && s.me.fpOff then .next (s.illegal (wordOf (.scalarStore fp f3 rs1 rs2 imm)))
  else
    let v := if fp then s.me.fr rs2.toNat else s.x rs2
    s.scalarWrite va (leBytes (accessBytes f3.toNat) v.toNat) fun s => .next s.retire

/-! ### Reservations and atomics -/

/-- Memory on which no scalar atomic or reservation acts: local memory for LR and SC (R379), round regions (R413), and
what R475 refuses on non-coherent host and peer memory. -/
def State.noReserve (s : State) (loc : Nat) : Bool := !s.cached loc

/-- LR (R379, R413, R475): the line is obtained in E and reserved. -/
def execLr (aq rl : Bool) (f3 : BitVec 3) (rd rs1 : BitVec 5) (s : State) : Out :=
  let va := s.x rs1
  let n := accessBytes f3.toNat
  let _ := aq
  let s := s.releaseAt (if rl then 4 else 0)
  if va.toNat % n ≠ 0 then .next (s.except 4 va)
  else s.toLoc .load va n fun s loc =>
    if s.noReserve loc then .next (s.except 5 va)
    else
      let node := nodeOf s.myCore
      let s := if node ≥ 512 then s.loadLines node loc n else s.cohOwn node (lineOf loc)
      if s.poisoned loc n then .next ((s.poisonRecord loc).except 5 va)
      else
        let v := loadValue f3.toNat (s.peek loc n)
        .next ((s.retireX rd v).modMe fun h => { h with resv := some (lineOf loc, v.toNat) })

/-- SC (R379): it succeeds when the line has stayed in E or M since the LR. Success or not, the reservation is gone
and an answer that it delayed is given. A hart of the Quadrille cluster, which is no node, compares at the home
(log entry 21). -/
def execSc (aq rl : Bool) (f3 : BitVec 3) (rd rs1 rs2 : BitVec 5) (s : State) : Out :=
  let va := s.x rs1
  let n := accessBytes f3.toNat
  let _ := aq
  let s := s.releaseAt (if rl then 4 else 0)
  if va.toNat % n ≠ 0 then .next (s.except 6 va)
  else s.toLoc .store va n fun s loc =>
    if s.noReserve loc then .next (s.except 7 va)
    else
      let node := nodeOf s.myCore
      let l := lineOf loc
      let ok : Bool :=
        match s.me.resv with
        | none => false
        | some (l', old) =>
          l' == l &&
            (if node ≥ 512 then (loadValue f3.toNat (s.peek loc n)).toNat == old
             else s.ns node l == .e || s.ns node l == .m)
      let v := s.x rs2
      let s := if ok then s.store node loc (leBytes n v.toNat) else s
      let s := (s.modMe fun h => { h with resv := none }).answerDelayed node l
      .next (s.retireX rd (if ok then 0 else 1))

/-- The operation of a scalar AMO as a code of `amoOp`. -/
def amoCode (f5 : Nat) : Nat :=
  match f5 with
  | 0x00 => 0
  | 0x01 => 8
  | 0x04 => 7
  | 0x05 => 10
  | 0x08 => 6
  | 0x0C => 5
  | 0x10 => 1
  | 0x14 => 2
  | 0x18 => 3
  | _ => 4

/-- A register pair of `amocas.q`: x0 reads 0 in both halves. -/
def State.xPair (s : State) (r : BitVec 5) : Nat :=
  if r = 0 then 0 else (s.x r).toNat + 2 ^ 64 * (s.x (r + 1)).toNat

/-- Write the result of a scalar AMO of `n` bytes. -/
def State.amoResult (s : State) (rd : BitVec 5) (n old : Nat) : State :=
  if n = 4 then s.retireX rd ((BitVec.ofNat 32 old).signExtend 64)
  else if n = 8 then s.retireX rd (BitVec.ofNat 64 old)
  else if rd = 0 then s.retire
  else ((s.wx rd (BitVec.ofNat 64 old)).wx (rd + 1) (BitVec.ofNat 64 (old / 2 ^ 64))).retire

/-- SCALAR_AMO (R379, R413, R475): at the home slice, at the local-memory controller, or as a PCIe AtomicOp, whose completion the
hart waits for and which ends the instruction. -/
def execScalarAmo (f5 : BitVec 5) (aq rl : Bool) (f3 : BitVec 3) (rd rs1 rs2 : BitVec 5) (s : State) : Out :=
  let va := s.x rs1
  let n := 2 ^ f3.toNat
  let _ := aq
  let s := s.releaseAt (if rl then 4 else 0)
  let op := amoCode f5.toNat
  let x := if op = 10 then (if n = 16 then s.xPair rd else (s.x rd).toNat) else (s.x rs2).toNat
  let y := if op = 10 then (if n = 16 then s.xPair rs2 else (s.x rs2).toNat) else 0
  let m := 2 ^ (8 * n)
  if va.toNat % n ≠ 0 then .next (s.except 6 va)
  else s.toLoc .store va n fun s loc =>
    let node := nodeOf s.myCore
    if !isLocal loc && (s.regionAt loc).isSome then .next (s.except 7 va)
    else if isLocal loc || s.cached loc then
      if s.poisoned loc n then .next ((s.poisonRecord loc).except 7 va)
      else
        let (s, old) := s.atomicAt node loc op n (x % m) (y % m)
        .next (s.amoResult rd n old)
    else if op ≠ 0 ∧ op ≠ 8 ∧ op ≠ 10 then .next (s.except 7 va)
    else
      .next (({ s with host := { s.host with atomics := s.host.atomics ++ [(s.cur, loc)] } }.due
        [.atomicopCompletion s.cur true]).wait (.host loc va op n (x % m) (y % m) rd.toNat))

/-! ### Fences, CSRs -/

/-- A posted write is among those that a `fence` with this pred set orders (R63): to host memory by its bit O, to a peer by W. -/
def State.fencedPost (s : State) (pred : BitVec 4) (a : Nat) : Bool :=
  match s.backing a with
  | .host _ => pred.toNat.testBit 2
  | _ => pred.toNat.testBit 0

/-- FENCE (R63): the store buffer has drained, scalar loads are performed in program order; acting at system scope it awaits the posted
writes that it orders (R75). -/
def execFence (fm pred succ : BitVec 4) (rd rs1 : BitVec 5) (s : State) : Out :=
  let _ := (fm, succ, rd, rs1)
  .next (s.pushPosted fun p => s.host.posted.any fun w => w.1 == p && s.fencedPost pred w.2.1).retire

/-- FENCE_I (R63, R376): the whole instruction cache of the core is invalidated. -/
def execFenceI (imm : BitVec 12) (rd rs1 : BitVec 5) (s : State) : Out :=
  let _ := (imm, rd, rs1)
  .next (s.modCore s.myCore fun c => { c with icache := [] }).retire

/-- WFI (R82): it ends at once above U-mode. -/
def execWfi (s : State) : Out :=
  if s.me.priv = .u then .next (s.illegal (wordOf .wfi)) else .next s.retire

/-- CSR_READ (R5, R82). -/
def execCsrRead (csr : BitVec 12) (f3 : BitVec 3) (rd : BitVec 5) (s : State) : Out :=
  match s.csrGet csr.toNat with
  | (s', some v) => .next (s'.retireX rd v)
  | (_, none) => .next (s.illegal (csrWord csr f3 rd 0))

/-- CSR_WRITE (R5): any CSR without a row of its own. -/
def execCsrWrite (csr : BitVec 12) (f3 : BitVec 3) (rd src : BitVec 5) (s : State) : Out :=
  s.csrWrite (csrWord csr f3 rd src) csr.toNat f3 rd src fun t v =>
    (t.me.csrSet csr.toNat v).map fun h => t.setHart t.cur h

/-- A value that R88 lets a write give `vcfg`. -/
def vcfgLegal (old v : Word) : Bool :=
  v.toNat % 4 == old.toNat % 4 && decide (bits v.toNat 2 3 ≤ 4) && decide (bits v.toNat 7 3 ≤ 4) && v.toNat >>> 19 == 0

/-- VCFG_WRITE (R88): LG is kept. -/
def execVcfgWrite (f3 : BitVec 3) (rd src : BitVec 5) (s : State) : Out :=
  s.csrWrite (csrWord 0x800 f3 rd src) 0x800 f3 rd src fun t v =>
    let old := t.me.cs csrVcfg
    if vcfgLegal old v then some (t.modMe fun h => h.setCs csrVcfg (mergeBits v old 0x70000)) else none

/-- LANEMAP_WRITE (R93): GRANT and CLAIM are kept. -/
def execLanemapWrite (f3 : BitVec 3) (rd src : BitVec 5) (s : State) : Out :=
  s.csrWrite (csrWord 0x5C5 f3 rd src) 0x5C5 f3 rd src fun t v =>
    if laneRequestLegal v.toNat && v.toNat >>> 16 == 0 then some (t.modMe fun h => h.setRequest v.toNat) else none

/-- MCFG_WRITE (R302): EN and OWN are ignored. -/
def execMcfgWrite (f3 : BitVec 3) (rd src : BitVec 5) (s : State) : Out :=
  s.csrWrite (csrWord 0x808 f3 rd src) 0x808 f3 rd src fun t v =>
    if v.toNat >>> 42 = 0 then some (t.modMe fun h => h.setCs csrMcfg (v &&& 0xFFFFFFFFFF)) else none

/-- SATP_WRITE (R79, R436): it waits until the BIQ is empty; a mode other than Bare and Sv57 leaves `satp`. -/
def execSatpWrite (f3 : BitVec 3) (rd src : BitVec 5) (s : State) : Out :=
  match s.csrGet csrSatp with
  | (_, none) => .next (s.illegal (csrWord 0x180 f3 rd src))
  | (_, some _) =>
    if !s.me.biq.isEmpty then .next (s.wait .blocks)
    else s.csrWrite (csrWord 0x180 f3 rd src) csrSatp f3 rd src fun t v =>
      let mode := bits v.toNat 60 4
      some (if mode = 0 ∨ mode = 10 then t.modMe fun h => h.setCs csrSatp v else t)

/-! ### Translations -/

/-- A translation that `sfence.vma` names (R434). -/
def sfenceHits (va : Option Nat) (sel : Option Word) (t : Tlb) : Bool :=
  (match va with
   | none => true
   | some a => decide (t.va = a % 2 ^ 57 / 2 ^ t.lg * 2 ^ t.lg)) &&
  (match sel with
   | none => true
   | some w => if w.toNat.testBit 20 then t.tag == .pasid (w.toNat % 2 ^ 20) else t.tag == .asid (w.toNat % 65536))

/-- An attempt begins again from the first element (R168); what was captured at issue stays. -/
def Biq.again (b : Biq) : Biq :=
  { b with fired := [], part := [], toks := [], miss := [], sweep := [], loads := [], pends := [], stores := [], staged := []
           faults := [] }

/-- A disambiguation replay (R156, R157, R168): the entry at an index and every younger one begin again, that entry in ordered
mode. -/
def replayFrom (j : Nat) (q : List Biq) : List Biq :=
  q.take j ++ (q.drop j).mapIdx fun k b => if k = 0 then { b.again with ordered := true } else b.again

/-- The uncommitted blocks of a core that the list names replay, unless the atomic group has fired (R434). -/
def State.replayUsers (s : State) (ci : Nat) (us : List (Nat × Nat)) : State :=
  if us.isEmpty then s
  else (coreHarts ci).foldl (fun s h =>
    let q := (s.hart h).biq
    match (List.range q.length).find? fun j => q[j]?.any fun b => us.contains (h, b.seq) && !b.atom && !b.held with
    | some j => s.modHart h fun x => { x with biq := replayFrom j x.biq }
    | none => s) s

/-- Drop translations of a core as R434 states: the blocks that have used one in their current attempt replay. -/
def State.coreDrop (s : State) (ci : Nat) (p : Tlb → Bool) : State :=
  let hit (t : Tlb) : Bool := unitOn ci t.unit && p t
  (s.tlbDrop hit).replayUsers ci ((s.xlat.tlb.filter hit).flatMap (·.used))

/-- A block of the core has fired its atomic group and has not committed. -/
def State.atomInFlight (s : State) (ci : Nat) : Bool := (coreHarts ci).any fun h => (s.hart h).biq.any (·.atom)

/-- SFENCE_VMA (R434). -/
def execSfenceVma (rs1 rs2 : BitVec 5) (s : State) : Out :=
  let h := s.me
  if h.priv = .u || (h.priv = .s && (h.cs csrMstatus).toNat.testBit 20) then
    .next (s.illegal (wordOf (.sfenceVma rs1 rs2)))
  else if s.atomInFlight s.myCore then .next (s.wait .blocks)
  else
    let va := if rs1 = 0 then none else some (s.x rs1).toNat
    let sel := if rs2 = 0 then none else some (s.x rs2)
    .next (s.coreDrop s.myCore (sfenceHits va sel)).retire

/-! ### Illegal instruction, interrupts -/

/-- ILLEGAL_INSTRUCTION (R85): nothing changes but the trap. -/
def execIllegalInstruction (word : BitVec 32) (s : State) : Out := .next (s.illegal word)

/-- The interrupt that a hart takes at this boundary, if any, and whether into S. -/
def Hart.pendingInt (h : Hart) : Option (Nat × Bool) :=
  let p := (h.cs csrMip &&& h.cs csrMie).toNat
  let st := (h.cs csrMstatus).toNat
  let deleg := (h.cs csrMideleg).toNat
  let mOn := match h.priv with | .m => st.testBit 3 | _ => true
  let sOn := match h.priv with | .m => false | .s => st.testBit 1 | .u => true
  match [11, 3, 7, 9, 1, 5].find? fun c => p.testBit c && !deleg.testBit c && mOn with
  | some c => some (c, false)
  | none => ([11, 3, 7, 9, 1, 5].find? fun c => p.testBit c && deleg.testBit c && sOn).map fun c => (c, true)

/-- A wait that an interrupt does not abandon: a publish (R418), SUBMIT (R504), an AtomicOp in flight, no task. -/
def Wait.firm : Wait → Bool
  | .publish _ _ => true
  | .submit => true
  | .host _ _ _ _ _ _ _ => true
  | .task => true
  | _ => false

/-- A hart gives up its wait; a waiting `mclaim` leaves the engine's line (R113, R115, R307). -/
def State.abandon (s : State) (h : Nat) : State :=
  match (s.hart h).wait with
  | none => s
  | some w =>
    if w.firm then s
    else
      let s := s.modHart h fun x => { x with wait := none, timedOut := false }
      match w with
      | .matrix => s.modCore (coreOf h) fun c => { c with mat := { c.mat with waiters := c.mat.waiters.filter (· != h) } }
      | .engine => s.modCore (coreOf h) fun c => { c with mat := { c.mat with waiters := c.mat.waiters.filter (· != h) } }
      | .page _ _ _ =>
        { s with xlat := { s.xlat with
            prgs := s.xlat.prgs.map fun g => if g.who = .scalar h then { g with who := .nobody } else g
            parkq := s.xlat.parkq.filter fun p => p.1 != .scalar h } }
      | _ => s

/-- INTERRUPT (R117): it becomes pending; a wait in progress is abandoned when it can be taken. -/
def execInterrupt (s : State) : Out :=
  match s.ev with
  | .interrupt h code =>
    let s := s.modHart h fun x => x.setCs csrMip (x.cs csrMip ||| ((1 : Word) <<< code))
    .next (if (s.hart h).pendingInt.isSome then s.abandon h else s)
  | _ => .next s

end Sys2Proof.Machine
end

