-- ==== Sys2Proof/Machine/Biq.lean ====
section
/-! DEFINITION. The block issue queue of a hart (R103 to R111, R118): issue, abort, hold, release, delivery of a
held fault. -/

namespace Sys2Proof.Machine

/-- An entry with nothing captured. -/
def Biq.new : Biq :=
  { seq := 0, va := 0, isLoop := false, vcfg := 0, vl := 0, n := 0, strip := 0, base := 0, grant := [], priv := .u
    sum := false, mxr := false, pasid := 0, satp := 0, capt := [], pend := [], xdrop := [], born := 0, park := false
    tries := 0, ordered := false, code := none, early := false, fired := [], part := [], toks := [], miss := [], sweep := [], loads := [], pends := [], stores := [], staged := []
    atom := false, held := false, faults := [] }

/-- An entry may still write x register `r` for the blocks behind it: its code says so, or is not known yet, and no write of the hart
before place `q` has replaced the put (R104, R105). -/
def Biq.mayPut (b : Biq) (r q : Nat) : Bool :=
  !(b.xdrop.any fun d => d.1 == r && decide (d.2 ≤ q)) &&
  match b.code with
  | none => true
  | some c => c.instrs.any fun i => match i.2 with | .xput f => f.reg.toNat == r | _ => false

/-- The entry that `bx` or `bloop` makes: the configuration and the x operands as they stand (R88, R104, R107, R108). -/
def State.newEntry (s : State) (va : Word) (isLoop : Bool) (n : Nat) : Biq :=
  let h := s.me
  { Biq.new with
    seq := h.seq, born := s.tqe.stamp, va := va, isLoop := isLoop, vcfg := h.cs csrVcfg
    vl := if isLoop then 0 else (h.cs csrVl).toNat
    n := n, grant := h.grant, priv := h.priv, sum := h.sumBit, mxr := h.mxrBit
    pasid := s.pasidOf s.cur, satp := h.cs csrSatp, capt := ((List.range 32).drop 1).map fun r => (r, h.xr r)
    pend := (List.range 32).filter fun r => decide (0 < r) && h.biq.any fun b => b.mayPut r h.seq }

/-- Add an entry to the BIQ. -/
def State.pushEntry (s : State) (b : Biq) : State :=
  { s with tqe := { s.tqe with stamp := s.tqe.stamp + 1 } }.modMe fun h => { h with biq := h.biq ++ [b], seq := h.seq + 1 }

/-- BIQ entries that a hart may hold (R103): `bstat.SLIP`, or the queue's 16 where no dispatch has set it (log entry 22). -/
def Hart.slots (h : Hart) : Nat := if h.slip = 0 then 16 else h.slip

/-- The lane group and the element count of a strip (R108). -/
def State.stripLg (b : Biq) : Nat := b.grant.getD (b.strip % b.grant.length) 0

/-- VL of the block or of the strip that runs (R107, R108). -/
def State.entryVl (s : State) (h : Nat) (b : Biq) : Nat :=
  if b.isLoop then
    Nat.min (s.wgt (coreOf h) (State.stripLg b) * 1024 / sewBits b.vcfg) (b.n - b.base)
  else b.vl

/-- Every entry from index `i` on is aborted (R118): its attempt leaves no trace (R66). -/
def abortFrom (i : Nat) (held : Bool) (q : List Biq) : List Biq :=
  q.take i ++ (q.drop i).map fun b => { b.again with held := held }

/-- Release the held entries: the faulting block and every younger one run again (R110, R119). `clear` also clears
the count of a progress fault. -/
def State.releaseHeld (s : State) (h : Nat) (clear : Bool) : State :=
  s.modHart h fun x =>
    { x with
      held := false, parked := false, told := false
      biq := match x.biq with
        | [] => []
        | b :: q =>
          { b.again with held := false, park := false, tries := if clear then 0 else b.tries } ::
            q.map fun c => { c.again with held := false } }

/-- Blocks of a hart give up what they hold of translations, and what says that they have used them, but for those that the list
names (R166). -/
def State.freeHolds (s : State) (h : Nat) (keep : List Nat) : State :=
  let p (e : Nat × Nat) : Bool := e.1 != h || keep.contains e.2
  { s with xlat := { s.xlat with tlb := s.xlat.tlb.map fun t => { t with used := t.used.filter p, held := t.held.filter p } } }

/-- A fault code that a third fault turns into a progress fault (R120). -/
def codeProgress (c : Nat) : Bool := decide (2 ≤ c) && decide (c ≤ 7)

/-- The held fault of a hart: the oldest entry's recorded fault. -/
def Hart.heldFault (h : Hart) : Option (Biq × BFault) :=
  if h.held then match h.biq with | b :: _ => b.faults.head?.map fun f => (b, f) | [] => none else none

/-- The cause of a held fault's trap: 26 for a progress fault, else 24 (R116, R165). -/
def heldCause (b : Biq) (f : BFault) : Nat := if b.tries = 3 && codeProgress f.code then 26 else 24

/-- A held fault may be delivered to the hart now (R118): at a boundary in the block's privilege level, or while the hart stalls at
or below it; again only after a trap return (log entry 50). -/
def Hart.faultDue (h : Hart) : Bool :=
  match h.heldFault with
  | some (b, _) => !h.told && (h.priv == b.priv || (h.wait.isSome && decide (privRank h.priv ≤ privRank b.priv)))
  | none => false

/-- Deliver a held fault (R117, R118): the trap's `sepc` is the next instruction, `stval` the block, as `bfblk` took it. -/
def State.deliverFault (s : State) (h : Nat) : State :=
  match (s.hart h).heldFault with
  | some (b, f) =>
    let s := s.abandon h
    s.modHart h fun x =>
      { x.trap (x.trapsToS (heldCause b f)) (heldCause b f) false (b.va &&& ~~~(0x3F : Word)) with told := true }
  | none => s

end Sys2Proof.Machine
end

