-- ==== Sys2Proof/Machine/Operands.lean ====
section
/-! DEFINITION. Tokens and firing (R145 to R154): operand slots, predication, Null, kinds, delivery to targets. An instruction of
vector kind fires for one or more element groups at a time, as their tokens arrive (R151). -/

namespace Sys2Proof.Machine

/-! ### Tokens -/

/-- A vector kind (R145). -/
def Tok.isVec : Tok → Bool
  | .vec _ => true
  | .pred _ => true
  | _ => false

/-- A predicate kind (R145). -/
def Tok.isPred : Tok → Bool
  | .pred _ => true
  | .upred _ => true
  | _ => false

/-- A bit as a number. -/
def b2n (b : Bool) : Nat := if b then 1 else 0

/-- Element `e` of a token at `w` bits, `none` for Null; a uniform token serves every element (R145). -/
def Tok.get (t : Tok) (w e : Nat) : Option Nat :=
  match t with
  | .vec v => (v.getD e none).map fun x => x.toNat % 2 ^ w
  | .uni v => v.map fun x => x.toNat % 2 ^ w
  | .pred p => (p.getD e none).map b2n
  | .upred p => p.map b2n

/-- A token made of element results: value or predicate class, vector or uniform. -/
def mkTok (prd vector : Bool) (l : List (Option Nat)) : Tok :=
  match prd, vector with
  | false, true => .vec (l.map (·.map (BitVec.ofNat 64)))
  | false, false => .uni ((l.headD none).map (BitVec.ofNat 64))
  | true, true => .pred (l.map (·.map (· == 1)))
  | true, false => .upred ((l.headD none).map (· == 1))

/-- A token with the elements that another firing of its producer has added. -/
def Tok.merge (o t : Tok) : Tok :=
  match o, t with
  | .vec a, .vec b => .vec (List.zipWith (fun x y => y.orElse fun _ => x) a b)
  | .pred a, .pred b => .pred (List.zipWith (fun x y => y.orElse fun _ => x) a b)
  | _, t => t

/-- The token in an operand slot: 0 a, 1 b, 2 c, 3 p. -/
def Biq.tok (b : Biq) (id slot : Nat) : Option Tok := b.toks.lookup (id * 4 + slot)

/-- The element groups that an operand slot still lacks. -/
def Biq.missing (b : Biq) (id slot : Nat) : List Nat := tget [] b.miss (id * 4 + slot)

/-- The element groups of `vl` elements. -/
def groupsOf (vl : Nat) : List Nat := List.range ((vl + 15) / 16)

/-- Element group `j` of a list made element by element over the groups `g`; every other element is Null. -/
def overGroups {α : Type} (vl : Nat) (g : List Nat) (f : Nat → Option α) : List (Option α) :=
  (List.range vl).map fun e => if g.contains (e / 16) then f e else none

/-- Deliver the groups `g` (of `all`) of a token to a target; ID 0 is no target (R138). -/
def Biq.give (b : Biq) (all g : List Nat) (target : Nat) (t : Tok) : Biq :=
  if target < 8 then b
  else
    match b.toks.lookup target with
    | none => { b with toks := tset target t b.toks, miss := tset target (all.filter fun j => !g.contains j) b.miss }
    | some o =>
      { b with toks := tset target (o.merge t) b.toks
               miss := tset target ((tget [] b.miss target).filter fun j => !g.contains j) b.miss }

/-- The groups for which an instruction has fired before its last. -/
def Biq.partOf (b : Biq) (id : Nat) : List Nat := tget [] b.part id

/-- The instruction has fired for the groups `g` of `all`. -/
def Biq.done (b : Biq) (all g : List Nat) (id : Nat) : Biq :=
  if all.all fun j => g.contains j || (b.partOf id).contains j then { b with fired := id :: b.fired }
  else { b with part := tset id (g ++ b.partOf id) b.part }

/-! ### The firing -/

/-- An entry of a hart's BIQ. -/
def State.entry (s : State) (h i : Nat) : Option Biq := (s.hart h).biq[i]?

/-- Put an entry back. -/
def State.setEntry (s : State) (h i : Nat) (b : Biq) : State := s.modHart h fun x => { x with biq := x.biq.set i b }

/-- The element groups of an entry. -/
def State.groups (s : State) (h : Nat) (b : Biq) : List Nat := groupsOf (s.entryVl h b)

/-- The groups of an instruction that have still to fire and for which every slot of `need` holds a token (R151). -/
def Biq.readyGroups (b : Biq) (all : List Nat) (id : Nat) (need : List Nat) : List Nat :=
  all.filter fun j => !(b.partOf id).contains j && need.all fun n => !(b.missing id n).contains j

/-- The instruction may fire for the groups `g` of `all` (R151): the entry is not held, every slot holds the token, and the attempt has
met no fault, unless the firing belongs to the sweep (R162). -/
def Biq.canFire (b : Biq) (all g : List Nat) (id : Nat) (need : List Nat) : Bool :=
  !b.held && !b.fired.contains id && (!g.isEmpty || all.isEmpty) && (need.all fun n => (b.tok id n).isSome) &&
    g.all (b.readyGroups all id need).contains &&
    (b.faults.isEmpty || (!g.isEmpty && g.all fun j => b.sweep.contains (id, j)))

/-- Run the firing that the sequencer chose, for its groups, or for all at once where `whole` says so. -/
def State.fireWith (s : State) (whole : Biq → Nat → Bool) (pm : BitVec 2) (need : List Nat)
    (k : Nat → Nat → Nat → Biq → List Nat → Out) : Out :=
  match s.fire with
  | (h, i, id) =>
    match s.entry h i with
    | none => .next s
    | some b =>
      let all := s.groups h b
      let g := if whole b id then all else s.grp
      if b.canFire all g id (if pm = 0 then need else 3 :: need) then k h i id b g else .next s

/-- Element `e` of a firing executes (R152): a Null predicate does not. -/
def Biq.enabled (b : Biq) (id : Nat) (pm : BitVec 2) (e : Nat) : Bool :=
  if pm = 0 then true
  else
    match (b.tok id 3).bind fun t => t.get 1 e with
    | some v => if pm = 1 then v == 1 else v == 0
    | none => false

/-- Some used operand, or p, is of vector kind (R145). -/
def Biq.vector (b : Biq) (id : Nat) (pm : BitVec 2) (need : List Nat) : Bool :=
  (if pm = 0 then need else 3 :: need).any fun n => match b.tok id n with | some t => t.isVec | none => false

/-- Operand `slot` at element `e`. -/
def Biq.operand (b : Biq) (id w slot e : Nat) : Option Nat := (b.tok id slot).bind fun t => t.get w e

/-- Results with their conditions as a result token. -/
def resTok (prd vector : Bool) (l : List (Option (Nat × Nat))) : Tok := mkTok prd vector (l.map (·.map (·.1)))

/-- The X-mask of results (R50). -/
def xTok (vcfg : Word) (vector : Bool) (l : List (Option (Nat × Nat))) : Tok :=
  mkTok true vector (l.map (·.map fun r => b2n (raises vcfg r.2)))

/-- Fire an element-wise instruction: `body` gives one element's result and conditions from the operand reader at
width W, Null where it gives `none`. With X, T1 takes the X-mask; otherwise both targets take the result. -/
def State.fireElem (s : State) (pm : BitVec 2) (t0 t1 : Nat) (x : Bool) (need : List Nat) (prd : Bool)
    (body : Nat → (Nat → Nat → Option Nat) → Nat → Option (Nat × Nat)) : Out :=
  s.fireWith (fun b id => !b.vector id pm need) pm need fun h i id b g =>
    let vector := b.vector id pm need
    let w := if vector then sewBits b.vcfg else 64
    let run e := if b.enabled id pm e then body w (b.operand id w) e else none
    let res := if vector then overGroups (s.entryVl h b) g run else [run 0]
    let tok := resTok prd vector res
    let all := s.groups h b
    .next (s.setEntry h i (((b.give all g t0 tok).give all g t1 (if x then xTok b.vcfg vector res else tok)).done all g id))

/-- A form-A element-wise instruction. -/
def State.fireA (s : State) (a : AForm) (need : List Nat) (prd : Bool)
    (body : Nat → (Nat → Nat → Option Nat) → Nat → Option (Nat × Nat)) : Out :=
  s.fireElem a.pm a.t0.toNat a.t1.toNat (a.x == 1) need prd body

/-- One operand; Null gives Null (R147). -/
def lift1 (f : Nat → Nat → Nat × Nat) (w : Nat) (get : Nat → Nat → Option Nat) (e : Nat) : Option (Nat × Nat) :=
  (get 0 e).map (f w)

/-- Two operands in slots a and b (R147). -/
def lift2 (f : Nat → Nat → Nat → Nat × Nat) (w : Nat) (get : Nat → Nat → Option Nat) (e : Nat) : Option (Nat × Nat) :=
  match get 0 e, get 1 e with
  | some x, some y => some (f w x y)
  | _, _ => none

/-- Three operands in slots a, b and c (R147). -/
def lift3 (f : Nat → Nat → Nat → Nat → Nat × Nat) (w : Nat) (get : Nat → Nat → Option Nat) (e : Nat) :
    Option (Nat × Nat) :=
  match get 0 e, get 1 e, get 2 e with
  | some x, some y, some z => some (f w x y z)
  | _, _, _ => none

/-! ### Collectives -/

/-- The elements of a slot as a collective reads them (R152, R198): W = SEW, masked elements Null. -/
def Biq.elems (b : Biq) (id : Nat) (pm : BitVec 2) (vl slot : Nat) : List (Option Nat) :=
  (List.range vl).map fun e => if b.enabled id pm e then b.operand id (sewBits b.vcfg) slot e else none

/-- Fire a collective (R154): `body` takes W, VL and the masked slots and gives the result token and the conditions of
all its steps. -/
def State.fireColl (s : State) (a : AForm) (need : List Nat)
    (body : Nat → Nat → Biq → Nat → Tok × Nat) : Out :=
  s.fireWith (fun _ _ => true) a.pm need fun h i id b g =>
    let (tok, c) := body (sewBits b.vcfg) (s.entryVl h b) b id
    .next (s.setEntry h i (((b.give g g a.t0.toNat tok).give g g a.t1.toNat
      (if a.x = 1 then .upred (some (raises b.vcfg c)) else tok)).done g g id))

/-- The class of slot a decides the class of a result (R203 to R206). -/
def Biq.classA (b : Biq) (id : Nat) : Bool := match b.tok id 0 with | some t => t.isPred | none => false

end Sys2Proof.Machine
end

