-- ==== Sys2Proof/Machine/Int.lean ====
section
/-! DEFINITION. The integer datapath (R181 to R206). -/

namespace Sys2Proof.Machine

/-! ### Element operations on W-bit patterns -/

/-- `add`, `sub`, `mul` (R186). -/
def intArith (op : Int → Int → Int) (satm w x y : Nat) : Nat × Nat :=
  satReduce w satm (op (satRead w satm x) (satRead w satm y))

/-- `mulh` (R187): .ss, .uu, .su. -/
def intMulh (sign w x y : Nat) : Nat × Nat :=
  let a : Int := if sign = 1 then x else signed x w
  let b : Int := if sign = 0 then signed y w else y
  (toW w (a * b / (2 ^ w : Nat)), 0)

/-- `div` (R188). -/
def intDiv (unsigned_ : Bool) (w x y : Nat) : Nat × Nat :=
  if y = 0 then (2 ^ w - 1, cDZ)
  else if unsigned_ then (x / y, 0)
  else (toW w ((signed x w).tdiv (signed y w)), 0)

/-- `rem` (R188). -/
def intRem (unsigned_ : Bool) (w x y : Nat) : Nat × Nat :=
  if y = 0 then (x, cDZ)
  else if unsigned_ then (x % y, 0)
  else (toW w ((signed x w).tmod (signed y w)), 0)

/-- `sll` (R190). -/
def intSll (w x y : Nat) : Nat × Nat := ((x <<< (y % w)) % 2 ^ w, 0)
/-- `srl` (R190). -/
def intSrl (w x y : Nat) : Nat × Nat := (x >>> (y % w), 0)
/-- `sra` (R190). -/
def intSra (w x y : Nat) : Nat × Nat := (toW w (signed x w / (2 ^ (y % w) : Nat)), 0)

/-- `rot` (R190): left, or right. -/
def intRot (right : Bool) (w x y : Nat) : Nat × Nat :=
  let n := y % w
  let k := if right then (w - n) % w else n
  (((x <<< k) ||| (x >>> (w - k))) % 2 ^ w, 0)

/-- `min`, `max` (R191). -/
def intMinMax (wantMax unsigned_ : Bool) (w x y : Nat) : Nat × Nat :=
  let less : Bool := if unsigned_ then decide (x < y) else decide (signed x w < signed y w)
  (if less != wantMax then x else y, 0)

/-- `abs` (R191). -/
def intAbs (sat : Bool) (w x : Nat) : Nat × Nat :=
  if sat && x == 2 ^ (w - 1) then (2 ^ (w - 1) - 1, cOF) else ((signed x w).natAbs % 2 ^ w, 0)

/-- `cmp` conditions (R184, R193). -/
def intCond (cond w x y : Nat) : Bool :=
  match cond with
  | 0 => x == y
  | 1 => x != y
  | 2 => decide (signed x w < signed y w)
  | 3 => decide (signed y w ≤ signed x w)
  | 4 => decide (x < y)
  | _ => decide (y ≤ x)

/-- `bfx` (R194). -/
def intBfx (sx : Bool) (w x c : Nat) : Nat × Nat :=
  let pos := bits c 0 7
  let wid := bits c 8 7
  if w ≤ pos ∨ wid = 0 then (0, 0)
  else
    let n := Nat.min wid (w - pos)
    let f := (x >>> pos) % 2 ^ n
    (if sx then toW w (signed f n) else f, 0)

/-- `bfi` (R194). -/
def intBfi (w x y c : Nat) : Nat × Nat :=
  let pos := bits c 0 7
  let wid := bits c 8 7
  if w ≤ pos ∨ wid = 0 then (x, 0)
  else
    let n := Nat.min wid (w - pos)
    let f := y % 2 ^ n
    (x - ((x >>> pos) % 2 ^ n) * 2 ^ pos + f * 2 ^ pos, 0)

/-- `dot4` (R54, R195). -/
def intDot4 (dotm w x y c : Nat) : Nat × Nat :=
  let ea (k : Nat) : Int := if dotm % 4 = 1 then bits x (8 * k) 8 else signed (bits x (8 * k) 8) 8
  let eb (k : Nat) : Int := if dotm % 4 = 0 then signed (bits y (8 * k) 8) 8 else bits y (8 * k) 8
  let t := signed c 32 + (ea 0 * eb 0 + ea 1 * eb 1 + ea 2 * eb 2 + ea 3 * eb 3)
  let q := if dotm / 4 % 2 = 1 then clampInt t (-2147483648) 2147483647 else t
  (toW w (signed (toW 32 q) 32), if q = t then 0 else cOF)

/-! ### Element-wise instructions -/

/-- ADD (R186). -/
def execAdd (a : AForm) (s : State) : Out := s.fireA a [0, 1] false (lift2 (intArith (· + ·) a.md.toNat))
/-- SUB (R186). -/
def execSub (a : AForm) (s : State) : Out := s.fireA a [0, 1] false (lift2 (intArith (· - ·) a.md.toNat))
/-- MUL (R186). -/
def execMul (a : AForm) (s : State) : Out := s.fireA a [0, 1] false (lift2 (intArith (· * ·) a.md.toNat))
/-- MULH (R187). -/
def execMulh (a : AForm) (s : State) : Out := s.fireA a [0, 1] false (lift2 (intMulh a.md.toNat))
/-- DIV (R188). -/
def execDiv (a : AForm) (s : State) : Out := s.fireA a [0, 1] false (lift2 (intDiv (a.md == 1)))
/-- REM (R188). -/
def execRem (a : AForm) (s : State) : Out := s.fireA a [0, 1] false (lift2 (intRem (a.md == 1)))
/-- AND (R189). -/
def execAnd (a : AForm) (s : State) : Out := s.fireA a [0, 1] false (lift2 fun _ x y => (x &&& y, 0))
/-- OR (R189). -/
def execOr (a : AForm) (s : State) : Out := s.fireA a [0, 1] false (lift2 fun _ x y => (x ||| y, 0))
/-- XOR (R189). -/
def execXor (a : AForm) (s : State) : Out := s.fireA a [0, 1] false (lift2 fun _ x y => (x ^^^ y, 0))
/-- ANDN (R189). -/
def execAndn (a : AForm) (s : State) : Out := s.fireA a [0, 1] false (lift2 fun w x y => (x &&& (2 ^ w - 1 - y), 0))
/-- SLL (R190). -/
def execSll (a : AForm) (s : State) : Out := s.fireA a [0, 1] false (lift2 intSll)
/-- SRL (R190). -/
def execSrl (a : AForm) (s : State) : Out := s.fireA a [0, 1] false (lift2 intSrl)
/-- SRA (R190). -/
def execSra (a : AForm) (s : State) : Out := s.fireA a [0, 1] false (lift2 intSra)
/-- ROT (R190). -/
def execRot (a : AForm) (s : State) : Out := s.fireA a [0, 1] false (lift2 (intRot (a.md == 1)))
/-- MIN (R191). -/
def execMin (a : AForm) (s : State) : Out := s.fireA a [0, 1] false (lift2 (intMinMax false (a.md == 1)))
/-- MAX (R191). -/
def execMax (a : AForm) (s : State) : Out := s.fireA a [0, 1] false (lift2 (intMinMax true (a.md == 1)))
/-- ABS (R191). -/
def execAbs (a : AForm) (s : State) : Out := s.fireA a [0] false (lift1 (intAbs (a.md == 1)))
/-- CLZ (R192). -/
def execClz (a : AForm) (s : State) : Out := s.fireA a [0] false (lift1 fun w x => (clzN w x, 0))
/-- CTZ (R192). -/
def execCtz (a : AForm) (s : State) : Out := s.fireA a [0] false (lift1 fun w x => (ctzN w x, 0))
/-- POPC (R192). -/
def execPopc (a : AForm) (s : State) : Out := s.fireA a [0] false (lift1 fun w x => (popN w x, 0))
/-- CMP (R193). -/
def execCmp (a : AForm) (s : State) : Out := s.fireA a [0, 1] true (lift2 fun w x y => (b2n (intCond a.md.toNat w x y), 0))
/-- The control of a firing `bfx` or `bfi` (R194): bits 14 to 0 of the uniform value in slot c, at every SEW (log entry 25). -/
def State.control (s : State) : Option Nat :=
  match s.fire with
  | (h, i, id) => (s.entry h i).bind fun b => (b.tok id 2).bind fun t => t.get 64 0

/-- BFX (R194): slots a and c. -/
def execBfx (a : AForm) (s : State) : Out :=
  s.fireA a [0, 2] false fun w get e =>
    match get 0 e, s.control with
    | some x, some c => some (intBfx (a.md == 1) w x c)
    | _, _ => none
/-- BFI (R194). -/
def execBfi (a : AForm) (s : State) : Out :=
  s.fireA a [0, 1, 2] false fun w get e =>
    match get 0 e, get 1 e, s.control with
    | some x, some y, some c => some (intBfi w x y c)
    | _, _, _ => none
/-- DOT4 (R195). -/
def execDot4 (a : AForm) (s : State) : Out := s.fireA a [0, 1, 2] false (lift3 (intDot4 a.md.toNat))

/-! ### Immediate forms -/

/-- An immediate instruction: one operand, one target. -/
def State.fireI (s : State) (a : IForm) (prd : Bool) (f : Nat → Nat → Nat × Nat) : Out :=
  s.fireElem a.pm a.t0.toNat 0 false [0] prd (lift1 f)

/-- The immediate at W bits (R196). -/
def immW (a : IForm) (w : Nat) : Nat := toW w (signed a.imm.toNat 13)

/-- The shift amount of an immediate shift (R196). -/
def immSh (a : IForm) : Nat := a.imm.toNat % 64

/-- ADDI (R196). -/
def execAddi (a : IForm) (s : State) : Out := s.fireI a false fun w x => ((x + immW a w) % 2 ^ w, 0)
/-- ANDI (R196). -/
def execAndi (a : IForm) (s : State) : Out := s.fireI a false fun w x => (x &&& immW a w, 0)
/-- ORI (R196). -/
def execOri (a : IForm) (s : State) : Out := s.fireI a false fun w x => (x ||| immW a w, 0)
/-- XORI (R196). -/
def execXori (a : IForm) (s : State) : Out := s.fireI a false fun w x => (x ^^^ immW a w, 0)
/-- SLLI (R196). -/
def execSlli (a : IForm) (s : State) : Out := s.fireI a false fun w x => intSll w x (immSh a)
/-- SRLI (R196). -/
def execSrli (a : IForm) (s : State) : Out := s.fireI a false fun w x => intSrl w x (immSh a)
/-- SRAI (R196). -/
def execSrai (a : IForm) (s : State) : Out := s.fireI a false fun w x => intSra w x (immSh a)
/-- MULI (R196). -/
def execMuli (a : IForm) (s : State) : Out := s.fireI a false fun w x => (x * immW a w % 2 ^ w, 0)
/-- CMPI (R197). -/
def execCmpi (a : IForm) (s : State) : Out :=
  s.fireI a true fun w x => (b2n (intCond (bits a.imm.toNat 10 3) w x (toW w (signed (bits a.imm.toNat 0 10) 10))), 0)

/-! ### Collectives -/

/-- The contributing elements of slot a (R198). -/
def Biq.contrib (b : Biq) (id : Nat) (pm : BitVec 2) (vl : Nat) : List Nat := (b.elems id pm vl 0).filterMap (fun x => x)

/-- A W-bit result extended to 64 bits (R199, R200). -/
def extendU (signed_ : Bool) (w x : Nat) : Tok := .uni (some (if signed_ then BitVec.ofInt 64 (signed x w) else BitVec.ofNat 64 x))

/-- REDSUM (R199). -/
def execRedsum (a : AForm) (s : State) : Out :=
  s.fireColl a [0] fun w vl b id =>
    let m := a.md.toNat
    let t := (b.contrib id a.pm vl).foldl (fun acc x => acc + satRead w m x) (0 : Int)
    let r := satReduce w m t
    (extendU (m / 2 % 2 == 0) w r.1, r.2)

/-- The extremum of a list, or the empty result (R52, R200). -/
def extremum (wantMax unsigned_ : Bool) (w : Nat) (l : List Nat) : Nat :=
  let empty :=
    if unsigned_ then (if wantMax then 0 else 2 ^ w - 1) else (if wantMax then 2 ^ (w - 1) else 2 ^ (w - 1) - 1)
  l.foldl (fun m x => (intMinMax wantMax unsigned_ w m x).1) empty

/-- REDMIN (R200). -/
def execRedmin (a : AForm) (s : State) : Out :=
  s.fireColl a [0] fun w vl b id => (extendU (a.md == 0) w (extremum false (a.md == 1) w (b.contrib id a.pm vl)), 0)

/-- REDMAX (R200). -/
def execRedmax (a : AForm) (s : State) : Out :=
  s.fireColl a [0] fun w vl b id => (extendU (a.md == 0) w (extremum true (a.md == 1) w (b.contrib id a.pm vl)), 0)

/-- REDAND (R200). -/
def execRedand (a : AForm) (s : State) : Out :=
  s.fireColl a [0] fun w vl b id => (extendU false w ((b.contrib id a.pm vl).foldl (· &&& ·) (2 ^ w - 1)), 0)

/-- REDOR (R200). -/
def execRedor (a : AForm) (s : State) : Out :=
  s.fireColl a [0] fun w vl b id => (extendU false w ((b.contrib id a.pm vl).foldl (· ||| ·) 0), 0)

/-- Running sums (R201). -/
def prefixSums (exclusive : Bool) (w : Nat) : Nat → List (Option Nat) → List (Option Nat)
  | _, [] => []
  | acc, none :: r => none :: prefixSums exclusive w acc r
  | acc, some x :: r =>
    let next := (acc + x) % 2 ^ w
    some (if exclusive then acc else next) :: prefixSums exclusive w next r

/-- PFX (R201). -/
def execPfx (a : AForm) (s : State) : Out :=
  s.fireColl a [0] fun w vl b id => (mkTok false true (prefixSums (a.md == 1) w 0 (b.elems id a.pm vl 0)), 0)

/-- First occurrences among the elements not seen before (R202). -/
def firstSeen : List Nat → List (Option Nat) → List (Option Nat)
  | _, [] => []
  | seen, none :: r => none :: firstSeen seen r
  | seen, some x :: r => some (b2n (!seen.contains x)) :: firstSeen (x :: seen) r

/-- VCONF (R202). -/
def execVconf (a : AForm) (s : State) : Out :=
  s.fireColl a [0] fun _ vl b id =>
    let l := b.elems id a.pm vl 0
    (mkTok true true (if a.md = 1 then (firstSeen [] l.reverse).reverse else firstSeen [] l), 0)

/-- Slot a with masked elements Null, or, unmasked, as it stands. -/
def padTo (vl : Nat) (l : List (Option Nat)) : List (Option Nat) := l ++ List.replicate (vl - l.length) none

/-- CMPR (R203): a masked element is not selected. -/
def execCmpr (a : AForm) (s : State) : Out :=
  s.fireColl a [0, 1] fun _ vl b id =>
    let l := ((b.elems id a.pm vl 0).zip (b.elems id a.pm vl 1)).filterMap fun e => if e.2 = some 1 then some e.1 else none
    (mkTok (b.classA id) true (padTo vl l), 0)

/-- PERM (R204). -/
def execPerm (a : AForm) (s : State) : Out :=
  s.fireColl a [0, 1] fun _ vl b id =>
    let src := b.elems id a.pm vl 0
    (mkTok (b.classA id) true ((b.elems id a.pm vl 1).map fun i =>
      match i with | some k => if k < vl then src.getD k none else none | none => none), 0)

/-- A uniform operand of a collective at 64 bits. -/
def Biq.uniform (b : Biq) (id slot : Nat) : Option Nat := b.operand id 64 slot 0

/-- SLIDE (R205). -/
def execSlide (a : AForm) (s : State) : Out :=
  s.fireColl a [0, 1] fun _ vl b id =>
    let src := b.elems id a.pm vl 0
    (mkTok (b.classA id) true ((List.range vl).map fun e =>
      match b.uniform id 1 with
      | some k =>
        if a.md = 1 then (if e + k < vl then src.getD (e + k) none else none)
        else (if k ≤ e then src.getD (e - k) none else none)
      | none => none), 0)

/-- BCAST (R206): the index is z(b), at W = SEW. -/
def execBcast (a : AForm) (s : State) : Out :=
  s.fireColl a [0, 1] fun w vl b id =>
    let v : Option Nat :=
      match b.operand id w 1 0 with
      | some k => if k < vl then (b.elems id a.pm vl 0).getD k none else none
      | none => none
    (if b.classA id then .upred (v.map (· == 1))
     else match v with
       | some x => extendU (a.md == 1) w x
       | none => .uni none, 0)

end Sys2Proof.Machine
end

