-- ==== Sys2Proof/Machine/Move.lean ====
section
/-! DEFINITION. Block registers and the instructions that the sequencer executes itself (R149, R150, R155, R171 to R179):
register reads and puts, constants, moves and predicates. -/

namespace Sys2Proof.Machine

/-! ### Where elements live -/

/-- The lane group and the place in it of element `e` (R149, R150). -/
def State.place (s : State) (h : Nat) (b : Biq) (e : Nat) : Nat × Nat :=
  if b.isLoop then (State.stripLg b, e)
  else
    let p := s.pattern (coreOf h) b.grant
    let j := e / 16
    let lg := p.getD (j % p.length) 0
    let before := j / p.length * (p.filter (· == lg)).length + ((p.take (j % p.length)).filter (· == lg)).length
    (lg, before * 16 + e % 16)

/-- The key of a register element: register, lane group, place. -/
def regKey (reg lg pos : Nat) : Nat := reg * 65536 + lg * 4096 + pos

/-- The last v value that a staging copy gives a place. -/
def stagedV (l : List Stage) (reg lg pos : Nat) : Option Word :=
  l.foldl (fun r x => match x with
    | .v a g p w => if a = reg ∧ g = lg ∧ p = pos then some w else r
    | _ => r) none

/-- The last p bit that a staging copy gives a place. -/
def stagedP (l : List Stage) (reg lg pos : Nat) : Option Bool :=
  l.foldl (fun r x => match x with
    | .p a g p b => if a = reg ∧ g = lg ∧ p = pos then some b else r
    | _ => r) none

/-- The newest value that entries give, oldest entry first. -/
def newest {α : Type} (f : Biq → Option α) (q : List Biq) : Option α :=
  q.foldl (fun r b => match f b with | some x => some x | none => r) none

/-- A v element as entry `i` of a hart reads it: the puts of earlier entries, then the register, else unspecified
(R155, R171). -/
def State.readV (s : State) (h i reg lg pos : Nat) : Word :=
  let x := s.hart h
  match newest (fun b => stagedV b.staged reg lg pos) (x.biq.take i) with
  | some w => w
  | none =>
    match x.v.lookup (regKey reg lg pos) with
    | some w => w
    | none => Config.lostElem h x.vgen (regKey reg lg pos)

/-- A p bit as entry `i` reads it; p0 is all ones. -/
def State.readP (s : State) (h i reg lg pos : Nat) : Bool :=
  if reg = 0 then true
  else
    let x := s.hart h
    match newest (fun b => stagedP b.staged reg lg pos) (x.biq.take i) with
    | some w => w
    | none =>
      match x.p.lookup (regKey reg lg pos) with
      | some w => w
      | none => Config.lostBit h x.vgen (regKey reg lg pos)

/-- Element `e` of a v register for the block at index `i`, at SEW. -/
def State.elemV (s : State) (h i : Nat) (b : Biq) (reg e : Nat) : Nat :=
  let p := s.place h b e
  (s.readV h i reg p.1 p.2).toNat % 2 ^ sewBits b.vcfg

/-- Where element group `j` of an entry lies: the lane group, and which sixteen places of it. -/
def State.placeGroup (s : State) (h : Nat) (b : Biq) (j : Nat) : Nat × Nat :=
  let p := s.place h b (16 * j)
  (p.1, p.2 / 16)

/-- The lane group and VL of the next `k` strips of a `bloop` from a strip and its base on (R108). -/
def State.stripsFrom (s : State) (h : Nat) (b : Biq) : Nat → Nat → Nat → List (Nat × Nat)
  | 0, _, _ => []
  | k + 1, strip, base =>
    let lg := b.grant.getD (strip % b.grant.length) 0
    let vl := Nat.min (s.wgt (coreOf h) lg * 1024 / sewBits b.vcfg) (b.n - base)
    if vl = 0 then [] else (lg, vl) :: s.stripsFrom h b k (strip + 1) (base + vl)

/-- The strips of a `bloop` that are still to run, the first on each lane group: no later one there is longer. -/
def State.stripsLater (s : State) (h : Nat) (b : Biq) : List (Nat × Nat) :=
  if b.isLoop then s.stripsFrom h b b.grant.length (b.strip + 1) (b.base + s.entryVl h b) else []

/-- An entry will still put a v or p register in sixteen places of a lane group (R155): it is not decoded, its put has not fired for
the element group there, or a strip that holds them is to follow. -/
def State.putsLater (s : State) (h : Nat) (b : Biq) (isPut : Instr → Bool) (p : Nat × Nat) : Bool :=
  match b.code with
  | none => true
  | some c =>
    c.instrs.any fun i => isPut i.2 &&
      (((s.groups h b).any fun j => !b.fired.contains i.1 && !(b.partOf i.1).contains j && s.placeGroup h b j == p) ||
        (s.stripsLater h b).any fun l => l.1 == p.1 && decide (16 * p.2 < l.2))

/-- `vput` of a register. -/
def isVput (reg : Nat) : Instr → Bool
  | .vput r => r.reg.toNat == reg
  | _ => false

/-- `pput` of a register. -/
def isPput (reg : Nat) : Instr → Bool
  | .pput r => r.reg.toNat == reg
  | _ => false

/-- No earlier entry will still put the register's elements of group `j` of the entry at index `i`. -/
def State.regSettled (s : State) (h i : Nat) (b : Biq) (isPut : Instr → Bool) (j : Nat) : Bool :=
  !((s.hart h).biq.take i).any fun o => s.putsLater h o isPut (s.placeGroup h b j)

/-- The configuration of the entry that fires. -/
def State.fireVcfg (s : State) : Word :=
  match s.entry s.fire.1 s.fire.2.1 with
  | some b => b.vcfg
  | none => 0

/-! ### Register reads -/

/-- A register-form instruction, of uniform or vector kind, gives a token to T0 and to slot a of T1 (R138, R140). -/
def State.fireR (s : State) (r : RForm) (uni : Bool) (ready : Nat → Nat → Biq → List Nat → Bool)
    (tok : Nat → Nat → Nat → Biq → List Nat → Tok) : Out :=
  s.fireWith (fun _ _ => uni) r.pm [] fun h i id b g =>
    if ready h i b g then
      let t := tok h i id b g
      let all := s.groups h b
      .next (s.setEntry h i (((b.give all g r.t0.toNat t).give all g (r.t1.toNat * 4) t).done all g id))
    else .next s

/-- VGET (R155, R171). -/
def execVget (r : RForm) (s : State) : Out :=
  s.fireR r false (fun h i b g => g.all (s.regSettled h i b (isVput r.reg.toNat))) fun h i id b g =>
    mkTok false true (overGroups (s.entryVl h b) g fun e =>
      if b.enabled id r.pm e then some (s.elemV h i b r.reg.toNat e) else none)

/-- PGET (R155, R171). -/
def execPget (r : RForm) (s : State) : Out :=
  s.fireR r false (fun h i b g => g.all (s.regSettled h i b (isPput r.reg.toNat))) fun h i id b g =>
    mkTok true true (overGroups (s.entryVl h b) g fun e =>
      let p := s.place h b e
      if b.enabled id r.pm e then some (b2n (s.readP h i r.reg.toNat p.1 p.2)) else none)

/-- XGET (R104, R171): the captured value, once every forwarded value has come. -/
def execXget (r : RForm) (s : State) : Out :=
  s.fireR r true (fun _ _ b _ => !b.pend.contains r.reg.toNat) fun _ _ id b _ =>
    .uni (if b.enabled id r.pm 0 then some (if r.reg = 0 then 0 else tget 0 b.capt r.reg.toNat) else none)

/-- SGET (R107, R108, R171). -/
def execSget (r : RForm) (s : State) : Out :=
  s.fireR r true (fun _ _ _ _ => true) fun h _ id b _ =>
    let v : Nat := match r.reg.toNat with
      | 0 => if b.isLoop then b.base else 0
      | 1 => s.entryVl h b
      | _ => if b.isLoop then b.strip else 0
    .uni (if b.enabled id r.pm 0 then some (BitVec.ofNat 64 v) else none)

/-! ### Puts -/

/-- A put stages its writes (R151, R155, R172). -/
def State.firePut (s : State) (r : RForm) (uni : Bool) (stage : Nat → Nat → Biq → List Nat → List Stage) : Out :=
  s.fireWith (fun _ _ => uni) r.pm [0] fun h i id b g =>
    .next (s.setEntry h i ({ b with staged := b.staged ++ stage h id b g }.done (s.groups h b) g id))

/-- The elements of the groups `g` among `vl`. -/
def groupElems (vl : Nat) (g : List Nat) : List Nat := (List.range vl).filter fun e => g.contains (e / 16)

/-- VPUT (R172). -/
def execVput (r : RForm) (s : State) : Out :=
  s.firePut r false fun h id b g =>
    (groupElems (s.entryVl h b) g).filterMap fun e =>
      let p := s.place h b e
      if b.enabled id r.pm e then (b.operand id (sewBits b.vcfg) 0 e).map fun v => .v r.reg.toNat p.1 p.2 (BitVec.ofNat 64 v)
      else none

/-- PPUT (R172): p0 takes no write. -/
def execPput (r : RForm) (s : State) : Out :=
  s.firePut r false fun h id b g =>
    if r.reg = 0 then []
    else (groupElems (s.entryVl h b) g).filterMap fun e =>
      let p := s.place h b e
      if b.enabled id r.pm e then (b.operand id 1 0 e).map fun v => .p r.reg.toNat p.1 p.2 (v == 1) else none

/-- XPUT (R105, R172): x0 and a Null token take no write. -/
def execXput (r : RForm) (s : State) : Out :=
  s.firePut r true fun _ id b _ =>
    if r.reg = 0 ∨ b.enabled id r.pm 0 = false then []
    else match b.operand id 64 0 0 with
      | some v => [.x r.reg.toNat (BitVec.ofNat 64 v)]
      | none => []

/-! ### Constants -/

/-- CONST (R173). -/
def execConst (r : RForm) (lit : BitVec 32) (s : State) : Out :=
  s.fireR r true (fun _ _ _ _ => true) fun _ _ id b _ =>
    let v : Word := match r.reg.toNat with
      | 0 => lit.signExtend 64
      | 1 => lit.setWidth 64
      | _ => lit.setWidth 64 <<< 32
    .uni (if b.enabled id r.pm 0 then some v else none)

/-- IOTA (R174). -/
def execIota (r : RForm) (lit : BitVec 32) (s : State) : Out :=
  s.fireR r false (fun _ _ _ _ => true) fun h _ id b g =>
    let start := signed (lit.extractLsb' 0 16).toNat 16
    let step := signed (lit.extractLsb' 16 16).toNat 16
    let base : Int := if r.reg.toNat % 2 = 1 && b.isLoop then b.base else 0
    mkTok false true (overGroups (s.entryVl h b) g fun e =>
      if b.enabled id r.pm e then some (toW (sewBits b.vcfg) (start + e * step + base)) else none)

/-! ### Moves -/

/-- Slot a of the firing holds a predicate. -/
def State.fireClass (s : State) : Bool :=
  match s.entry s.fire.1 s.fire.2.1 with
  | some b => b.classA s.fire.2.2
  | none => false

/-- MOV (R175). -/
def execMov (a : AForm) (s : State) : Out :=
  s.fireA a [0] s.fireClass fun _ get e => (get 0 e).map fun x => (x, 0)

/-- SEL (R176): the unchosen operand may be Null. -/
def execSel (a : AForm) (s : State) : Out :=
  s.fireA a [0, 1, 2] s.fireClass fun _ get e =>
    match get 2 e with
    | some c => (get (if c = 1 then 0 else 1) e).map fun x => (x, 0)
    | none => none

/-- NUL (R177): fill, or test. -/
def execNul (a : AForm) (s : State) : Out :=
  if a.md = 0 then
    s.fireA a [0, 1] s.fireClass fun _ get e =>
      match get 0 e with
      | some x => some (x, 0)
      | none => (get 1 e).map fun x => (x, 0)
  else s.fireA a [0] true fun _ get e => some (b2n (get 0 e).isSome, 0)

/-! ### Predicates -/

/-- PAND (R178). -/
def execPand (a : AForm) (s : State) : Out := s.fireA a [0, 1] true (lift2 fun _ x y => (x &&& y, 0))
/-- POR (R178). -/
def execPor (a : AForm) (s : State) : Out := s.fireA a [0, 1] true (lift2 fun _ x y => (x ||| y, 0))
/-- PXOR (R178). -/
def execPxor (a : AForm) (s : State) : Out := s.fireA a [0, 1] true (lift2 fun _ x y => (x ^^^ y, 0))
/-- PNOT (R178). -/
def execPnot (a : AForm) (s : State) : Out := s.fireA a [0] true (lift1 fun _ x => (1 - x, 0))
/-- PANDN (R178). -/
def execPandn (a : AForm) (s : State) : Out := s.fireA a [0, 1] true (lift2 fun _ x y => (x &&& (1 - y), 0))

/-- PCNT (R179). -/
def execPcnt (a : AForm) (s : State) : Out :=
  s.fireColl a [0] fun _ vl b id =>
    (.uni (some (BitVec.ofNat 64 ((b.elems id a.pm vl 0).filter (· == some 1)).length)), 0)

/-- PFFS (R179). -/
def execPffs (a : AForm) (s : State) : Out :=
  s.fireColl a [0] fun _ vl b id =>
    (.uni (some (BitVec.ofNat 64 (((b.elems id a.pm vl 0).findIdx? (· == some 1)).getD vl))), 0)

end Sys2Proof.Machine
end

