-- ==== Sys2Proof/Machine/FloatOps.lean ====
section
/-! DEFINITION. The floating-point datapath (R209 to R230): arithmetic, comparison, functions, reductions, conversions
and microscaling. -/

namespace Sys2Proof.Machine

/-- The format that SEW and B16 select (R209). -/
def fmtOf (sew : Nat) (b16 : Bool) : Fmt :=
  if sew = 16 then (if b16 then bf16 else fp16) else if sew = 32 then fp32 else fp64

/-- The B16 bit of a form. -/
def b16Of (a : AForm) : Bool := a.md.toNat.testBit 2

/-- The format of the firing. -/
def State.fireFmt (s : State) (b16 : Bool) : Fmt := fmtOf (sewBits s.fireVcfg) b16

/-- The canonical NaN with the conditions of its operands (R46). -/
def nanResult (f : Fmt) (l : List FV) : Nat × Nat := (f.nan, sigNV l)

/-- A rounded operation on values that are no NaN; `none` is invalid. -/
def finish (f : Fmt) (env : FEnv) (r : Option FV) : Nat × Nat :=
  match r with
  | some v => f.rnd env v
  | none => (f.nan, cNV)

/-- A float operation of two operands (R213). -/
def fBin (f : Fmt) (env : FEnv) (op : FV → FV → Option FV) (_w x y : Nat) : Nat × Nat :=
  let a := f.read env.fzIn x
  let b := f.read env.fzIn y
  if a.isNan || b.isNan then nanResult f [a, b] else finish f env (op a b)

/-- FADD (R213). -/
def execFadd (a : AForm) (s : State) : Out :=
  let env := fenv s.fireVcfg
  s.fireA a [0, 1] false (lift2 (fBin (s.fireFmt (b16Of a)) env (FV.add env.rm)))
/-- FSUB (R213). -/
def execFsub (a : AForm) (s : State) : Out :=
  let env := fenv s.fireVcfg
  s.fireA a [0, 1] false (lift2 (fBin (s.fireFmt (b16Of a)) env fun x y => FV.add env.rm x y.neg))
/-- FMUL (R213). -/
def execFmul (a : AForm) (s : State) : Out :=
  s.fireA a [0, 1] false (lift2 (fBin (s.fireFmt (b16Of a)) (fenv s.fireVcfg) FV.mul))

/-- `fdiv` (R213). -/
def fDiv (f : Fmt) (env : FEnv) (_w x y : Nat) : Nat × Nat :=
  let a := f.read env.fzIn x
  let b := f.read env.fzIn y
  if a.isNan || b.isNan then nanResult f [a, b]
  else match FV.div a b with
    | some (v, c) => let r := f.rnd env v; (r.1, r.2 ||| c)
    | none => (f.nan, cNV)

/-- FDIV (R213). -/
def execFdiv (a : AForm) (s : State) : Out :=
  s.fireA a [0, 1] false (lift2 (fDiv (s.fireFmt (b16Of a)) (fenv s.fireVcfg)))

/-- `fsqrt` (R213). -/
def fSqrt (f : Fmt) (env : FEnv) (_w x : Nat) : Nat × Nat :=
  let a := f.read env.fzIn x
  if a.isNan then nanResult f [a] else finish f env a.sqrt

/-- FSQRT (R213). -/
def execFsqrt (a : AForm) (s : State) : Out := s.fireA a [0] false (lift1 (fSqrt (s.fireFmt (b16Of a)) (fenv s.fireVcfg)))

/-- `fma` on values (R214): VAR negates the product, the addend, or both. -/
def fmaFV (rm var : Nat) (a b c : FV) : Option FV :=
  match FV.mul a b with
  | none => none
  | some p => FV.add rm (if 2 ≤ var then p.neg else p) (if var = 1 ∨ var = 3 then c.neg else c)

/-- `fma` (R214): 0 × ∞ is invalid even beside a quiet NaN addend. -/
def fFma (f : Fmt) (env : FEnv) (var : Nat) (_w x y z : Nat) : Nat × Nat :=
  let a := f.read env.fzIn x
  let b := f.read env.fzIn y
  let c := f.read env.fzIn z
  if a.isNan || b.isNan then nanResult f [a, b, c]
  else if (FV.mul a b).isNone then (f.nan, cNV)
  else if c.isNan then nanResult f [c]
  else finish f env (fmaFV env.rm var a b c)

/-- FMA (R214). -/
def execFma (a : AForm) (s : State) : Out :=
  s.fireA a [0, 1, 2] false (lift3 (fFma (s.fireFmt (b16Of a)) (fenv s.fireVcfg) (a.md.toNat % 4)))

/-! ### Extremum, sign, comparison, class -/

/-- The bits of an operand after the FZ input rule. -/
def Fmt.flushed (f : Fmt) (fz : Bool) (x : Nat) : Nat :=
  match f.read fz x with
  | .fin n 0 _ _ => f.sign n
  | _ => x % 2 ^ f.width

/-- `fmin` and `fmax` (R48, R215). -/
def fMinMax (f : Fmt) (fz wantMax : Bool) (x y : Nat) : Nat × Nat :=
  let a := f.read fz x
  let b := f.read fz y
  let nv := sigNV [a, b]
  if a.isNan && b.isNan then (f.nan, nv)
  else if a.isNan then (f.flushed fz y, nv)
  else if b.isNan then (f.flushed fz x, nv)
  else
    let first := if wantMax then FV.lt true b a else FV.lt true a b
    (if first then f.flushed fz x else f.flushed fz y, 0)

/-- FMIN (R215). -/
def execFmin (a : AForm) (s : State) : Out :=
  s.fireA a [0, 1] false (lift2 fun _ => fMinMax (s.fireFmt (b16Of a)) (fenv s.fireVcfg).fzIn false)
/-- FMAX (R215). -/
def execFmax (a : AForm) (s : State) : Out :=
  s.fireA a [0, 1] false (lift2 fun _ => fMinMax (s.fireFmt (b16Of a)) (fenv s.fireVcfg).fzIn true)

/-- `fsgnj` (R217) on SEW-bit patterns. -/
def fSgnj (sew md x y : Nat) : Nat :=
  let sx := bit x (sew - 1)
  let sy := bit y (sew - 1)
  let sg := match md with | 0 => sy | 1 => !sy | _ => sx != sy
  x % 2 ^ (sew - 1) + (if sg then 2 ^ (sew - 1) else 0)

/-- FSGNJ (R217). -/
def execFsgnj (a : AForm) (s : State) : Out :=
  s.fireA a [0, 1] false (lift2 fun _ x y => (fSgnj (sewBits s.fireVcfg) a.md.toNat x y, 0))

/-- `fcmp` (R216): the bit and its conditions. -/
def fCmp (f : Fmt) (fz : Bool) (cond x y : Nat) : Nat × Nat :=
  let a := f.read fz x
  let b := f.read fz y
  let nan := a.isNan || b.isNan
  let r := match cond with
    | 0 => FV.eq a b
    | 1 => FV.lt false a b
    | 2 => FV.lt false a b || FV.eq a b
    | 3 => nan
    | _ => !FV.eq a b
  let nv := if cond = 1 ∨ cond = 2 then (if nan then cNV else 0) else sigNV [a, b]
  (b2n r, nv)

/-- FCMP (R216): FP16 at SEW 16. -/
def execFcmp (a : AForm) (s : State) : Out :=
  s.fireA a [0, 1] true (lift2 fun _ => fCmp (s.fireFmt false) (fenv s.fireVcfg).fzIn a.md.toNat)

/-- The class bit of a code (R218). -/
def fClass (f : Fmt) (x : Nat) : Nat :=
  match f.read false x with
  | .nan s => if s then 0x100 else 0x200
  | .inf n => if n then 1 else 0x80
  | .fin n m _ _ =>
    if m = 0 then (if n then 8 else 0x10)
    else if m < 2 ^ f.fbits then (if n then 4 else 0x20)
    else (if n then 2 else 0x40)

/-- FCLASS (R218). -/
def execFclass (a : AForm) (s : State) : Out :=
  s.fireA a [0] false (lift1 fun _ x => (fClass (s.fireFmt (b16Of a)) x, 0))

/-! ### Functions of reduced precision -/

/-- An FP32 value of magnitude 2^23 or more, for which R219 states `fcos` = 1. -/
def cosOne (f : Fmt) (a : FV) : Bool :=
  f.width == 32 && match a with | .fin _ m e _ => decide (23 ≤ (Nat.log2 m : Int) + e) && m != 0 | _ => false

/-- A function of R219. Its last sentence gives `fcos` of every large FP32 input, the odd integers below 2^24 among them, for which
cos (π a) is -1 (log entry 52). -/
def fFunc (f : Fmt) (env : FEnv) (fn : Nat) (_w x : Nat) : Nat × Nat :=
  let a := f.read env.fzIn x
  if a.isNan then nanResult f [a]
  else if fn = 5 && cosOne f a then ((f.rnd env (.fin false 1 0 false)).1, 0)
  else match funcFV fn a with
    | none => (f.nan, cNV)
    | some (.fin n m e st, c) => let r := f.roundP (reducedP f) 1 env n m e st; (r.1, r.2 ||| c)
    | some (v, c) => ((f.rnd env v).1, c)

/-- FRCP (R219). -/
def execFrcp (a : AForm) (s : State) : Out := s.fireA a [0] false (lift1 (fFunc (s.fireFmt (b16Of a)) (fenv s.fireVcfg) 0))
/-- FRSQ (R219). -/
def execFrsq (a : AForm) (s : State) : Out := s.fireA a [0] false (lift1 (fFunc (s.fireFmt (b16Of a)) (fenv s.fireVcfg) 1))
/-- FEX2 (R219). -/
def execFex2 (a : AForm) (s : State) : Out := s.fireA a [0] false (lift1 (fFunc (s.fireFmt (b16Of a)) (fenv s.fireVcfg) 2))
/-- FLG2 (R219). -/
def execFlg2 (a : AForm) (s : State) : Out := s.fireA a [0] false (lift1 (fFunc (s.fireFmt (b16Of a)) (fenv s.fireVcfg) 3))
/-- FSIN (R219). -/
def execFsin (a : AForm) (s : State) : Out := s.fireA a [0] false (lift1 (fFunc (s.fireFmt (b16Of a)) (fenv s.fireVcfg) 4))
/-- FCOS (R219). -/
def execFcos (a : AForm) (s : State) : Out := s.fireA a [0] false (lift1 (fFunc (s.fireFmt (b16Of a)) (fenv s.fireVcfg) 5))

/-! ### Sums of products, reductions -/

/-- `fdot2` (R53, R220). Products that are opposite infinities beside a quiet NaN addend give the NaN without NV: the spec does not
say which of its two special cases goes first (log entry 52). -/
def fDot2 (g : Fmt) (env : FEnv) (_w x y z : Nat) : Nat × Nat :=
  let a0 := g.read env.fzIn (bits x 0 16)
  let a1 := g.read env.fzIn (bits x 16 16)
  let b0 := g.read env.fzIn (bits y 0 16)
  let b1 := g.read env.fzIn (bits y 16 16)
  let c := fp32.read env.fzIn z
  let sig := sigNV [a0, a1, b0, b1, c]
  match FV.mul a0 b0, FV.mul a1 b1 with
  | some p, some q =>
    if p.isNan || q.isNan || c.isNan then (fp32.nan, sig)
    else match FV.add env.rm p q with
      | some t => finish fp32 env (FV.add env.rm t c)
      | none => (fp32.nan, cNV)
  | _, _ => (fp32.nan, cNV)

/-- FDOT2 (R220). -/
def execFdot2 (a : AForm) (s : State) : Out :=
  s.fireA a [0, 1, 2] false (lift3 (fDot2 (if b16Of a then bf16 else fp16) (fenv s.fireVcfg)))

/-- One node of the tree of R51: `none` is EMPTY. -/
def comb (f : Fmt) (env : FEnv) (x y : Option (Nat × Nat)) : Option (Nat × Nat) :=
  match x, y with
  | none, r => r
  | r, none => r
  | some a, some b => let r := fBin f { env with fzIn := false } (FV.add env.rm) 0 a.1 b.1; some (r.1, r.2 ||| a.2 ||| b.2)

/-- One level of the tree: neighbours are combined. -/
def combLevel (f : Fmt) (env : FEnv) : List (Option (Nat × Nat)) → List (Option (Nat × Nat))
  | a :: b :: r => comb f env a b :: combLevel f env r
  | l => l

/-- The tree, `k` levels up. -/
def combTree (f : Fmt) (env : FEnv) : Nat → List (Option (Nat × Nat)) → Option (Nat × Nat)
  | 0, l => l.headD none
  | k + 1, l => combTree f env k (combLevel f env l)

/-- FREDSUM (R46, R51, R221): a NaN that reaches the top without a Comb is made canonical too. -/
def execFredsum (a : AForm) (s : State) : Out :=
  s.fireColl a [0] fun w vl b id =>
    let f := fmtOf w (b16Of a)
    let env := fenv b.vcfg
    let leaf (x : Nat) : Nat × Nat := (f.flushed env.fzIn x, sigNV [f.read env.fzIn x])
    let l := (b.elems id a.pm vl 0).map (·.map leaf)
    match combTree f env (Nat.log2 vl + 1) l with
    | some (x, c) => (.uni (some (BitVec.ofNat 64 (if (f.read false x).isNan then f.nan else x))), c)
    | none => (.uni (some 0), 0)

/-- FREDMM (R222). -/
def execFredmm (a : AForm) (s : State) : Out :=
  s.fireColl a [0] fun w vl b id =>
    let f := fmtOf w (b16Of a)
    let fz := (fenv b.vcfg).fzIn
    let l := b.contrib id a.pm vl
    let nums := l.filter fun x => !(f.read fz x).isNan
    let nv := sigNV (l.map (f.read fz))
    match nums with
    | [] => (.uni (some (BitVec.ofNat 64 f.nan)), nv)
    | x :: r => (.uni (some (BitVec.ofNat 64 (r.foldl (fun m y => (fMinMax f fz (a.md.toNat % 2 = 1) m y).1) (f.flushed fz x)))), nv)

/-! ### Conversions -/

/-- A conversion from one format to another (R223, R224). -/
def fConv (src dst : Fmt) (env : FEnv) (_w x : Nat) : Nat × Nat :=
  let a := src.read env.fzIn x
  if a.isNan then nanResult dst [a] else dst.rnd env a

/-- FWID (R223). -/
def execFwid (a : AForm) (s : State) : Out :=
  let env := fenv s.fireVcfg
  s.fireA a [0] false (lift1 (if sewBits s.fireVcfg = 32 then fConv (if b16Of a then bf16 else fp16) fp32 env else fConv fp32 fp64 env))

/-- FNAR (R223). -/
def execFnar (a : AForm) (s : State) : Out :=
  let env := fenv s.fireVcfg
  s.fireA a [0] false (lift1 (if sewBits s.fireVcfg = 32 then fConv fp32 (if b16Of a then bf16 else fp16) env else fConv fp64 fp32 env))

/-- FCVTD (R224). -/
def execFcvtd (a : AForm) (s : State) : Out :=
  s.fireA a [0] false (lift1 (if a.md = 0 then fConv fp16 bf16 (fenv s.fireVcfg) else fConv bf16 fp16 (fenv s.fireVcfg)))

/-- A value rounded to an integer, and whether it differs. -/
def roundInt (rm : Nat) (neg : Bool) (m : Nat) (e : Int) (st : Bool) : Int × Bool :=
  let r := roundGrid rm neg m e st 0
  (if neg then -(r.1 : Int) else r.1, r.2)

/-- `f2i` (R225). -/
def fToI (f : Fmt) (env : FEnv) (sew : Nat) (unsigned_ : Bool) (x : Nat) : Nat × Nat :=
  let lo : Int := if unsigned_ then 0 else -(2 ^ (sew - 1) : Nat)
  let hi : Int := if unsigned_ then (2 ^ sew : Nat) - 1 else (2 ^ (sew - 1) : Nat) - 1
  match f.read env.fzIn x with
  | .nan _ => (0, cNV)
  | .inf n => (toW sew (if n then lo else hi), cOF)
  | .fin n m e st =>
    let r := roundInt env.rm n m e st
    if r.1 < lo ∨ hi < r.1 then (toW sew (clampInt r.1 lo hi), cOF)
    else (toW sew r.1, if r.2 then cNX else 0)

/-- F2I (R225). -/
def execF2i (a : AForm) (s : State) : Out :=
  s.fireA a [0] false (lift1 fun _ x =>
    fToI (s.fireFmt (b16Of a)) (fenv s.fireVcfg) (sewBits s.fireVcfg) (a.md.toNat % 2 = 1) x)

/-- An integer as a float value. -/
def intFV (i : Int) : FV := .fin (decide (i < 0)) i.natAbs 0 false

/-- I2F (R226). -/
def execI2f (a : AForm) (s : State) : Out :=
  let sew := sewBits s.fireVcfg
  s.fireA a [0] false (lift1 fun _ x =>
    (s.fireFmt (b16Of a)).rnd (fenv s.fireVcfg) (intFV (if a.md.toNat % 2 = 1 then (x % 2 ^ sew : Nat) else signed x sew)))

/-! ### Microscaling -/

/-- The element format of MXF (R212). -/
def mxFmt (mxf : Nat) : Fmt :=
  match mxf with
  | 0 => mxE4M3
  | 1 => mxE5M2
  | 2 => mxE4M3
  | 3 => mxE5M2
  | 4 => mxE2M3
  | 5 => mxE3M2
  | 6 => mxE2M1
  | _ => mxInt8

/-- Emax of a format (R228). -/
def mxEmax (f : Fmt) : Int := (Nat.log2 f.maxM : Int) + f.maxE

/-- Elements per scale block (R39). -/
def scaleBlock (vcfg : Word) : Nat := if bit vcfg.toNat 10 then 32 else 128

/-- The greater of two magnitudes. -/
def magMax (x y : Nat × Int) : Nat × Int :=
  match addFin 0 false x.1 x.2 true y.1 y.2 with
  | .fin n m _ _ => if n && m ≠ 0 then y else x
  | _ => x

/-- The scale code of a block of elements (R228). -/
def mxScale (f g : Fmt) (fz : Bool) (l : List Nat) : Nat :=
  let mags := l.filterMap fun x => match f.read fz x with | .fin _ m e _ => some (m, e) | _ => none
  let top := mags.foldl magMax (0, 0)
  if top.1 = 0 then 0
  else (clampInt ((Nat.log2 top.1 : Int) + top.2 - mxEmax g + 127) 0 254).toNat

/-- MXSCL (R228). -/
def execMxscl (a : AForm) (s : State) : Out :=
  s.fireColl a [0] fun w vl b id =>
    let f := fmtOf w false
    let g := mxFmt a.md.toNat
    let n := scaleBlock b.vcfg
    let l := b.elems id a.pm vl 0
    let blocks := (vl + n - 1) / n
    (mkTok false true ((List.range vl).map fun j =>
      if j < blocks then some (mxScale f g (fenv b.vcfg).fzIn (((l.drop (j * n)).take n).filterMap (fun x => x))) else none), 0)

/-- The scale of element `e` for the block that fires: bits [7:0] of element e ÷ B of v31, Null beyond VL (R39, R227). -/
def State.scaleOf (s : State) (e : Nat) : Option Nat :=
  match s.fire with
  | (h, i, _) =>
    match s.entry h i with
    | some b =>
      let k := e / scaleBlock b.vcfg
      if k < s.entryVl h b then some (s.elemV h i b 31 k % 256) else none
    | none => none

/-- The elements of v31 that give group `j` its scales are settled for an entry (R155, R227). -/
def State.scaleSettled (s : State) (h i : Nat) (b : Biq) (j : Nat) : Bool :=
  s.regSettled h i b (isVput 31) (16 * j / scaleBlock b.vcfg / 16)

/-- v31 is settled for group `j` of an `mxcvt` or `mxexp`; one of uniform kind takes element 0's scale. -/
def State.scaleReady (s : State) (h i : Nat) (b : Biq) (id : Nat) (pm : BitVec 2) (j : Nat) : Bool :=
  s.scaleSettled h i b (if b.vector id pm [0] then j else 0)

/-- v31 is settled for the groups that fire. -/
def State.scalesReady (s : State) (pm : BitVec 2) : Bool :=
  match s.fire with
  | (h, i, id) => match s.entry h i with | some b => s.grp.all (s.scaleReady h i b id pm) | none => false

/-- `mxcvt` (R229). -/
def fMxcvt (f : Fmt) (env : FEnv) (mxf scale x : Nat) : Nat × Nat :=
  let g := mxFmt mxf
  let a := f.read env.fzIn x
  if scale = 0xFF ∨ a.isNan = true then
    if mxf ≤ 3 then (0x7F, sigNV [a]) else (0, cNV)
  else
    let ovf := if mxf = 0 then 2 else if mxf = 1 then 1 else 0
    match a with
    | .fin n m e st => g.roundTo ovf env (.fin n m (e - ((scale : Int) - 127)) st)
    | v => g.roundTo ovf env v

/-- MXCVT (R229). -/
def execMxcvt (a : AForm) (s : State) : Out :=
  if !s.scalesReady a.pm then .next s
  else
    let f := fmtOf (sewBits s.fireVcfg) false
    s.fireA a [0] false fun _ get e =>
      match get 0 e, s.scaleOf e with
      | some x, some k => some (fMxcvt f (fenv s.fireVcfg) a.md.toNat k x)
      | _, _ => none

/-- `mxexp` (R230). -/
def fMxexp (f : Fmt) (env : FEnv) (mxf scale x : Nat) : Nat × Nat :=
  let g := mxFmt mxf
  match g.read false (x % 2 ^ g.width) with
  | .nan _ => (f.nan, 0)
  | .inf n => (if scale = 0xFF then f.nan else f.inf n, 0)
  | .fin n m e st => if scale = 0xFF then (f.nan, 0) else f.rnd env (.fin n m (e + ((scale : Int) - 127)) st)

/-- MXEXP (R230). -/
def execMxexp (a : AForm) (s : State) : Out :=
  if !s.scalesReady a.pm then .next s
  else
    let f := fmtOf (sewBits s.fireVcfg) false
    s.fireA a [0] false fun _ get e =>
      match get 0 e, s.scaleOf e with
      | some x, some k => some (fMxexp f (fenv s.fireVcfg) a.md.toNat k x)
      | _, _ => none

end Sys2Proof.Machine
end

