-- ==== Sys2Proof/Machine/Format.lean ====
section
/-! DEFINITION. The format of a block image (R135 to R144): its slots, what each slot's instruction uses and gives, and the static
checks of a whole block. -/

namespace Sys2Proof.Machine

/-- One slot of a block image (R137): its ID, whether it is an A slot, its opcode, its word, and the instruction when
its own fields are legal (R141 to R143). -/
structure BSlot where
  id    : Nat
  isA   : Bool
  opc   : Nat
  word  : Nat
  instr : Option Instr
  deriving DecidableEq, Repr

/-- The slots of pair `k` (R137): an empty word is no instruction, a lone M word takes the A word as its literal. -/
def pairSlots (k m a : Nat) : List BSlot :=
  let mw := BitVec.ofNat 32 m
  let aw := BitVec.ofNat 32 a
  (if m = 0 then [] else [⟨2 * k, false, bits m 24 7, m, decodeM mw aw⟩]) ++
    (if a = 0 || m.testBit 31 then [] else [⟨2 * k + 1, true, bits a 24 8, a, decodeA aw⟩])

/-- Kinds as bits: 1 vector, 2 uniform, 4 vector predicate, 8 uniform predicate. Values accept 3, predicates 12. -/
def kVal : Nat := 3
/-- Predicate kinds. -/
def kPrd : Nat := 12

/-- The operand slots of an A-slot opcode with the kinds that each accepts (R182, R198, R203 to R206, R210, R175 to
R179); `none` for a code without an entry. -/
def aUses (opc md : Nat) : Option (List (Nat × Nat)) :=
  let a := [(0, kVal)]
  let ab := [(0, kVal), (1, kVal)]
  let abc := [(0, kVal), (1, kVal), (2, kVal)]
  if opc ≤ 0x0F ∨ opc = 0x14 then some ab
  else if opc ≤ 0x13 then some a
  else if opc = 0x15 then some [(0, kVal), (2, 2)]
  else if opc = 0x16 then some [(0, kVal), (1, kVal), (2, 2)]
  else if opc = 0x17 then some abc
  else if 0x20 ≤ opc ∧ opc ≤ 0x26 then some a
  else if opc = 0x27 then some [(0, 15), (1, kPrd)]
  else if opc = 0x28 then some [(0, 15), (1, kVal)]
  else if opc = 0x29 ∨ opc = 0x2A then some [(0, 15), (1, 2)]
  else if opc = 0x43 ∨ opc = 0x51 then some abc
  else if opc = 0x45 ∨ (0x4A ≤ opc ∧ opc ≤ 0x53) then some a
  else if 0x40 ≤ opc ∧ opc ≤ 0x49 then some ab
  else if 0x60 ≤ opc ∧ opc ≤ 0x67 then some a
  else if opc = 0x73 ∨ opc = 0x75 ∨ opc = 0x76 then some [(0, kPrd)]
  else if 0x70 ≤ opc ∧ opc ≤ 0x74 then some [(0, kPrd), (1, kPrd)]
  else if opc = 0x80 then some [(0, 15)]
  else if opc = 0x81 then some [(0, 15), (1, 15), (2, kPrd)]
  else if opc = 0x82 then some (if md % 2 = 1 then [(0, 15)] else [(0, 15), (1, 15)])
  else if 0xC0 ≤ opc ∧ opc ≤ 0xC8 then some a
  else none

/-- The operand slots of an M-slot opcode (R171 to R174, R233, R258, R322 to R324). -/
def mUseRows : List (Nat × List (Nat × Nat)) :=
  [(0x00, []),
   (0x01, []),
   (0x02, []),
   (0x03, []),
   (0x04, [(0, kVal)]),
   (0x05, [(0, kPrd)]),
   (0x06, [(0, 10)]),
   (0x07, []),
   (0x08, []),
   (0x10, [(0, 2)]),
   (0x11, [(0, 2), (2, 2)]),
   (0x12, [(0, 2), (2, kVal)]),
   (0x13, [(0, 2), (1, 2)]),
   (0x14, [(0, 2), (1, 2), (2, kVal)]),
   (0x18, [(0, 2), (1, kVal)]),
   (0x19, [(0, 2), (1, kVal), (2, 2)]),
   (0x1A, [(0, 2), (1, kVal), (2, kVal)]),
   (0x20, [(0, 2), (1, kVal), (2, kVal)]),
   (0x21, [(0, 2), (1, kVal), (2, kVal)]),
   (0x30, [(0, 2), (1, kVal), (2, kVal)]),
   (0x31, [(0, 2), (1, kVal), (2, kVal)]),
   (0x32, [(0, 2), (1, kVal)]),
   (0x33, [(0, 2), (1, kVal)]),
   (0x38, [(0, 2)]),
   (0x39, [(0, 2), (1, 2), (2, 2)]),
   (0x3A, [(0, 2), (1, 2), (2, 2)]),
   (0x3B, [(0, kVal), (1, 2)])]

/-- The operand slots of an M-slot opcode, if it has an entry. -/
def mUses (opc : Nat) : Option (List (Nat × Nat)) := mUseRows.lookup opc

/-- PM of a slot word (R139, R140). -/
def BSlot.pm (b : BSlot) : Nat := bits b.word 22 2

/-- X of a form-A word (R50, R139). -/
def BSlot.x (b : BSlot) : Bool := b.isA && decide (b.opc < 0xC0) && b.word.testBit 21

/-- A uniform-kind instruction of the M slot: `xget`, `sget`, `xput`, `const` (R152, R153). -/
def BSlot.uniKind (b : BSlot) : Bool := !b.isA && (b.opc == 2 || b.opc == 3 || b.opc == 6 || b.opc == 7)

/-- The slots that an instruction waits for, p included when PM is not 0 (R151, R152). -/
def BSlot.uses (b : BSlot) : Option (List (Nat × Nat)) :=
  (if b.isA then aUses b.opc (b.word % 8) else mUses b.opc).map fun l =>
    if b.pm = 0 then l else l ++ [(3, if b.uniKind then 8 else kPrd)]

/-- A collective (R154). -/
def isColl (opc : Nat) : Bool :=
  (decide (0x20 ≤ opc) && decide (opc ≤ 0x2A)) || [0x52, 0x53, 0x65, 0x75, 0x76].contains opc

/-- A memory-form opcode (R142). -/
def isMemOpc (opc : Nat) : Bool :=
  (decide (0x10 ≤ opc) && decide (opc ≤ 0x14)) || [0x18, 0x19, 0x1A, 0x20, 0x21, 0x39, 0x3A].contains opc

/-- An instruction that carries an LSID. -/
def BSlot.isMem (b : BSlot) : Bool := !b.isA && isMemOpc b.opc

/-- LSID of a memory-form word. -/
def BSlot.lsid (b : BSlot) : Nat := bits b.word 17 5

/-- A put, with the class and number of its register (R135, R172). -/
def BSlot.put (b : BSlot) : Option (Nat × Nat) :=
  if !b.isA && decide (4 ≤ b.opc) && decide (b.opc ≤ 6) then some (b.opc, bits b.word 16 6) else none

/-- The targets of an instruction, each with whether it takes the X-mask (R138 to R140, R50). -/
def BSlot.targets (b : BSlot) : List (Nat × Bool) :=
  let l : List (Nat × Bool) :=
    if b.uses.isNone then []
    else if b.isA then
      if 0xC0 ≤ b.opc then [(bits b.word 13 9, false)] else [(bits b.word 12 9, false), (bits b.word 3 9, b.x)]
    else if isMemOpc b.opc then
      if b.opc < 0x18 ∨ b.opc = 0x20 ∨ b.opc = 0x21 then [(bits b.word 8 9, false)] else []
    else if 0x30 ≤ b.opc ∧ b.opc ≤ 0x33 then [(bits b.word 13 9, false), (bits b.word 4 9, false)]
    else [(bits b.word 7 9, false), (bits b.word 0 7 * 4, false)]
  l.filter fun t => t.1 != 0

/-- The SEW that an entry admits (R195, R209, R211, R233, R258, R322). -/
def BSlot.sewOk (b : BSlot) (sew : Nat) : Bool :=
  if b.isA then
    let o := b.opc
    let bf := b.word.testBit 2
    let noBf := o == 0x48 || o == 0x49 || decide (0x62 = o) || (decide (0x65 ≤ o) && decide (o ≤ 0x67))
    if (0x40 ≤ o ∧ o ≤ 0x53) ∨ (0x60 ≤ o ∧ o ≤ 0x67) then
      (if o = 0x51 then sew == 32
       else if o = 0x60 ∨ o = 0x61 then sew == 32 || sew == 64
       else if o = 0x62 then sew == 16
       else if (0x4B ≤ o ∧ o ≤ 0x50) ∨ o = 0x65 ∨ o = 0x66 then sew == 16 || sew == 32
       else sew != 8) &&
      (!bf || noBf || sew == 16 || (sew == 32 && (o == 0x51 || o == 0x60 || o == 0x61)))
    else true
  else if b.opc = 0x39 ∨ b.opc = 0x3A then true
  else if isMemOpc b.opc then decide (8 * 2 ^ bits b.word 6 2 ≤ sew)
  else if (0x30 ≤ b.opc ∧ b.opc ≤ 0x33) ∨ b.opc = 0x38 then sew == 32
  else true

/-- The kind of an instruction's result from the kinds of its operands (R145, R171, R183, R211): 0 for no result, `none`
for a fault of classes. -/
def BSlot.result (b : BSlot) (sew : Nat) (ks : List (Nat × Nat)) : Option Nat :=
  let ka := (ks.lookup 0).getD 0
  let kb := (ks.lookup 1).getD 0
  let vec := ks.any fun k => k.2 == 1 || k.2 == 4
  let isV := fun k => k == 1 || k == 2
  let ew (value : Bool) := if value then (if vec then 1 else 2) else (if vec then 4 else 8)
  let o := b.opc
  if !b.isA then
    some (if o = 0 ∨ o = 8 ∨ (0x10 ≤ o ∧ o ≤ 0x14) ∨ o = 0x20 ∨ o = 0x21 ∨ (0x30 ≤ o ∧ o ≤ 0x33) ∨ o = 0x38 then 1
      else if o = 1 then 4 else if o = 2 ∨ o = 3 ∨ o = 7 then 2 else 0)
  else if (0x20 ≤ o ∧ o ≤ 0x24) ∨ o = 0x52 ∨ o = 0x53 ∨ o = 0x75 ∨ o = 0x76 then some 2
  else if o = 0x25 ∨ o = 0x65 then some 1
  else if o = 0x26 then some 4
  else if 0x27 ≤ o ∧ o ≤ 0x29 then some (if isV ka then 1 else 4)
  else if o = 0x2A then some (if isV ka then 2 else 8)
  else if o = 0x81 ∨ (o = 0x82 ∧ b.word % 2 = 0) then (if isV ka == isV kb then some (ew (isV ka)) else none)
  else if o = 0x80 then some (ew (isV ka))
  else if o = 0x14 ∨ o = 0xC8 ∨ o = 0x49 ∨ (0x70 ≤ o ∧ o ≤ 0x74) ∨ o = 0x82 then some (ew false)
  else if o = 0x17 ∧ vec ∧ sew ≠ 32 then none
  else some (ew true)

/-- The slot of an ID. -/
def slotAt (l : List BSlot) (id : Nat) : Option BSlot := l.find? fun b => b.id == id

/-- A target breaks R143's targets row or X row. ID 0 with a nonzero slot number is no greater than the producer's
own ID (log entry 23). -/
def BSlot.badTarget (b : BSlot) (l : List BSlot) (npair : Nat) (t : Nat × Bool) : Bool :=
  let c := t.1 / 4
  decide (c ≤ b.id) || decide (2 * npair + 1 < c) ||
    match slotAt l c with
    | none => true
    | some d =>
      match d.uses with
      | none => false
      | some us =>
        match us.lookup (t.1 % 4) with
        | none => true
        | some acc => t.2 && acc &&& kPrd == 0

/-- The producers of a slot: the producer's ID and whether its X-mask arrives. -/
def producers (l : List BSlot) (id slot : Nat) : List (Nat × Bool) :=
  l.flatMap fun b => (b.targets.filter fun t => t.1 == id * 4 + slot).map fun t => (b.id, t.2)

/-- The kinds of all results, in ascending ID order; an instruction whose kind cannot be derived is absent, and so is
one at fault, whose ID is in the second list (R143 producers and kinds rows). -/
def deriveKinds (l : List BSlot) (sew : Nat) (bad : List Nat) : List BSlot → Tab Nat → List Nat → Tab Nat × List Nat
  | [], ks, fs => (ks, fs)
  | b :: r, ks, fs =>
    match b.uses with
    | none => deriveKinds l sew bad r ks fs
    | some us =>
      let ps := us.map fun u => (u, producers l b.id u.1)
      if ps.any fun p => p.2.length != 1 then deriveKinds l sew bad r ks (b.id :: fs)
      else
        let kinds := ps.filterMap fun p =>
          p.2.head?.bind fun q =>
            (ks.lookup q.1).map fun k =>
              let coll := match slotAt l q.1 with | some d => d.isA && isColl d.opc | none => false
              (p.1.1, p.1.2, if q.2 then (if coll || k == 2 || k == 8 then 8 else 4) else k)
        if kinds.length ≠ us.length || bad.contains b.id then deriveKinds l sew bad r ks fs
        else if kinds.any fun k => k.2.1 &&& k.2.2 == 0 then deriveKinds l sew bad r ks (b.id :: fs)
        else
          match b.result sew (kinds.map fun k => (k.1, k.2.2)) with
          | none => deriveKinds l sew bad r ks (b.id :: fs)
          | some k => deriveKinds l sew bad r ((b.id, k) :: ks) fs

/-- IDs whose value repeats that of an earlier member. -/
def repeats {α : Type} [BEq α] : List (Nat × α) → List α → List Nat
  | [], _ => []
  | (i, a) :: r, seen => if seen.contains a then i :: repeats r seen else repeats r (a :: seen)

/-- The header faults of R144: the header row of R143, the flags of R136 and R32, and the two counts. -/
def headerBad (vpcap : Nat) (w0 w1 : Nat) (l : List BSlot) : Bool :=
  let has (a : Bool) (p : Nat → Bool) := l.any fun b => b.isA == a && p b.opc
  let mems := (l.filter (·.isMem)).length
  let puts := (l.filter fun b => b.put.isSome).length
  let mat := has false fun o => decide (0x38 ≤ o) && decide (o ≤ 0x3B)
  bits w0 26 6 != 0x35 || bits w0 20 6 == 0 || decide (32 < bits w0 14 6) || w0 % 8 != 0 || w1 != 0 ||
    bit w0 8 != has false (fun o => o == 0x20 || o == 0x21) || bit w0 3 != has true isColl ||
    (!bit w0 7 && has true fun o => o == 0x66 || o == 0x67) || (!bit w0 6 && has false fun o => o == 0x32 || o == 0x33) ||
    (!bit w0 5 && mat) || (!bit w0 4 && has false fun o => o == 0x30 || o == 0x31) ||
    (bit w0 5 && !bit vpcap 1) || ((bit w0 4 || bit w0 6) && !bit vpcap 2) ||
    mems != bits w0 14 6 || puts != bits w0 9 5

/-- Every ID at which a block breaks R143 below the header, for a header that is sound. -/
def bodyBad (npair nmem sew : Nat) (l : List BSlot) : List Nat :=
  let own := (l.filter fun b => b.instr.isNone || !b.sewOk sew).map (·.id)
  let tgt := (l.filter fun b => b.targets.any (b.badTarget l npair)).map (·.id)
  let mems := l.filter (·.isMem)
  let ls := (mems.filter fun b => decide (nmem ≤ b.lsid)).map (·.id) ++ repeats (mems.map fun b => (b.id, b.lsid)) []
  let atoms := l.filter fun b => b.isMem && (b.opc == 0x20 || b.opc == 0x21)
  let atom := (atoms.drop 1).map (·.id) ++ (atoms.filter fun b => b.lsid + 1 != nmem).map (·.id)
  let puts := repeats (l.filterMap fun b => b.put.map fun p => (b.id, p)) []
  let colls := ((l.filter fun b => b.isA && isColl b.opc).drop 16).map (·.id)
  let bad := own ++ tgt ++ ls ++ atom ++ puts ++ colls
  bad ++ (deriveKinds l sew bad l [] []).2

/-- The slots of a whole image: one number of 64 bits for each pair after the header. -/
def imageSlots (pairs : List Nat) : List BSlot :=
  ((List.range pairs.length).map fun k => pairSlots (k + 1) (pairs.getD k 0 % 2 ^ 32) (pairs.getD k 0 / 2 ^ 32)).flatten

/-- The static checks of a whole block (R143, R144): its code, or the lowest ID at fault. -/
def checkBlock (vpcap sew : Nat) (hdr : Nat) (pairs : List Nat) : Code ⊕ Nat :=
  let l := imageSlots pairs
  let w0 := hdr % 2 ^ 32
  if headerBad vpcap w0 (hdr / 2 ^ 32) l then .inr 0
  else
    match (bodyBad (bits w0 20 6) (bits w0 14 6) sew l).min? with
    | some id => .inr id
    | none => .inl ⟨l.filterMap fun b => b.instr.map fun i => (b.id, i), bits w0 20 6⟩

/-- The operand slots that an instruction of a block waits for, p included (R151). -/
def slotsOf (id : Nat) (i : Instr) : List Nat :=
  let w := ((encode i).headD 0).toNat
  let b : BSlot := ⟨id, id % 2 == 1, if id % 2 = 1 then bits w 24 8 else bits w 24 7, w, none⟩
  (b.uses.getD []).map (·.1)

end Sys2Proof.Machine
end

