-- ==== Sys2Proof/Machine/Round.lean ====
section
/-! DEFINITION. The round unit (R399 to R425): copies with fetch rounds, windows, bounded loads, publishing and the
instructions of custom-3. -/

namespace Sys2Proof.Machine

/-! ### Rounds and windows -/

/-- Reached(x, f) of R408. -/
def reached (x f : Nat) : Bool := decide ((x + 2 ^ 32 - f % 2 ^ 32) % 2 ^ 32 < 2 ^ 31)

/-- A round window of a hart; an unset one is zero. -/
def Hart.window (h : Hart) (k : Nat) : Window := tget ⟨0, 0⟩ h.win k

/-- The window is set (R406). -/
def Window.valid (w : Window) : Bool := w.w0.toNat.testBit 12
/-- The region of a window. -/
def Window.rid (w : Window) : Nat := bits w.w0.toNat 0 10
/-- The floor of a window (R407). -/
def Window.floor (w : Window) : Nat :=
  let arg := bits w.w0.toNat 32 32
  if w.w0.toNat.testBit 10 then (bits w.w1.toNat 0 32 + 2 ^ 32 - arg) % 2 ^ 32 else arg
/-- LATE is set. -/
def Window.late (w : Window) : Window := { w with w0 := w.w0 ||| 0x800 }

/-- A region by RID. -/
def State.region (s : State) (rid : Nat) : Option Region := s.rounds.regions.lookup rid

/-- Change a region. -/
def State.modRegion (s : State) (rid : Nat) (f : Region → Region) : State :=
  match s.region rid with
  | some g => { s with rounds := { s.rounds with regions := tset rid (f g) s.rounds.regions } }
  | none => s

/-- RS of a slice (R402). -/
def Region.rsOf (g : Region) (slice : Nat) : Nat := tget g.rs0 g.rs slice

/-- V of a die (R403). -/
def Region.viewOf (g : Region) (d : Nat) : Nat := tget g.view0 g.view d

/-! ### Copies -/

/-- A node takes a copy of a line: a snapshot of the home's data with the slice's replica round (R404). -/
def State.takeCopy (s : State) (n l rs : Nat) : State :=
  { s with rounds := { s.rounds with copies := tset (nkey n l) (rs, s.peek (l * 128) 128) s.rounds.copies } }.l1vTouch n l

/-- Copies of a region's lines in the nodes of a die are void (R415, R424). -/
def State.voidCopies (s : State) (g : Region) (d : Nat) : State :=
  { s with rounds := { s.rounds with copies := s.rounds.copies.filter fun e =>
      let n := e.1 / 2 ^ 45
      let l := e.1 % 2 ^ 45
      !(n / 128 == d && decide (g.pbase ≤ l * 128) && decide (l * 128 < g.pbase + g.size * 65536)) } }

/-- A hart that waits for a stalled line of its node looks again. -/
def State.wakeStall (s : State) (n l : Nat) : State :=
  { s with harts := s.harts.map fun e =>
      if coreOf e.1 = n ∧ e.2.wait = some (.stall l) then (e.1, { e.2 with wait := none }) else e }

/-- The load that asked learns that its answer is LATE (R408): `ldbw` at its stall, or the block's pending loads through the
window. -/
def State.tellLate (s : State) (r : Refetch) : State :=
  s.modHart r.hart fun x =>
    if r.blk = 0 then (if x.wait = some (.stall r.line) then { x with timedOut := true } else x)
    else
      { x with biq := x.biq.map fun b =>
          if b.seq + 1 = r.blk then
            { b with pends := b.pends.map fun p => if p.win = some r.win then { p with late := (r.line, r.floor) :: p.late } else p }
          else b }

/-- Answer a parked or arriving refetch with the slice's round; `late` after a stall time-out (R408). -/
def State.answerRefetch (s : State) (r : Refetch) (late : Bool) : State :=
  match s.region r.rid with
  | some g =>
    let s := s.takeCopy r.node r.line (g.rsOf (s.homeSlice r.line))
    (if late then s.tellLate r else s).wakeStall r.node r.line
  | none => s.wakeStall r.node r.line

/-- A refetch arrives at the line's home slice (R408): answered, or parked. -/
def State.refetchArrives (s : State) (r : Refetch) : State :=
  match s.region r.rid with
  | some g =>
    if reached (g.rsOf (s.homeSlice r.line)) r.floor then s.answerRefetch r false
    else if s.rounds.parked.any fun p => p == r then s
    else { s with rounds := { s.rounds with parked := s.rounds.parked ++ [r] } }
  | none => s

/-- The requests that a slice has parked: the first 256 of those that wait there; the rest stand in its input queue (R408). -/
def State.parkedAt (s : State) (slice : Nat) : List Refetch := (s.rounds.parked.filter fun r => s.homeSlice r.line == slice).take 256

/-- A request leaves the wait at its slice. -/
def State.unpark (s : State) (r : Refetch) : State :=
  { s with rounds := { s.rounds with parked := s.rounds.parked.filter (· != r) } }

/-- Parked requests of a slice that their region's round reaches are answered, oldest first; the input queue follows up (R408, R414
step 3). -/
def State.answerParked (slice : Nat) : Nat → State → State
  | 0, s => s
  | k + 1, s =>
    match (s.parkedAt slice).find? fun r => match s.region r.rid with | some g => reached (g.rsOf slice) r.floor | none => true with
    | some r => State.answerParked slice k ((s.unpark r).answerRefetch r false)
    | none => s

/-- Every request that waits at a slice and can be answered is answered. -/
def State.answerSlice (s : State) (slice : Nat) : State := State.answerParked slice s.rounds.parked.length s

/-! ### Bounded loads -/

/-- The region and floor that bound an element at a PA through window `k` of a hart; `none` is an unqualified load
(R408, first line). The Quadrille cluster is no node and holds no copies. -/
def State.bound (s : State) (h k pa : Nat) : Option (Nat × Nat) :=
  match s.regionAt pa with
  | some rid =>
    let w := (s.hart h).window k
    if isLocal pa || decide (512 ≤ coreOf h) || !w.valid || w.rid != rid then none else some (rid, w.floor)
  | none => none

/-- The node's copy of a line, if it reaches a floor. -/
def State.boundCopy (s : State) (h l f : Nat) : Bool :=
  match s.rounds.copies.lookup (nkey (coreOf h) l) with
  | some (r, _) => reached r f
  | none => false

/-- A bounded load of a line can be served now: from a copy that reaches the floor, or, `late`, from the copy that its late answer
brought. -/
def State.boundReady (s : State) (h l f : Nat) (late : Bool) : Bool :=
  s.boundCopy h l f || (late && (s.rounds.copies.lookup (nkey (coreOf h) l)).isSome)

/-- Stores of a node's harts to a line leave their store buffers before a bounded load of it is served (R409). -/
def State.drainLine (s : State) (ci l : Nat) : State :=
  (coreHarts ci).foldl (fun s h => if (s.hart h).sbuf.any fun e => (piecesOf e.1 e.2.length).any fun p => lineOf p.1 == l then s.drain h else s) s

/-- Ask for the copy that a bounded load of hart `h` (in the block that `blk` names) lacks (R408). -/
def State.boundAsk (s : State) (h k pa blk : Nat) (late : List (Nat × Nat)) : State :=
  match s.bound h k pa with
  | some (rid, f) =>
    let s := s.drainLine (coreOf h) (lineOf pa)
    if s.boundReady h (lineOf pa) f (late.contains (lineOf pa, f)) then s
    else s.refetchArrives ⟨coreOf h, lineOf pa, rid, f, h, k, blk⟩
  | none => s

/-- The bounded load stalls at the home (R408). -/
def State.boundStalls (s : State) (h k pa : Nat) (late : List (Nat × Nat)) : Bool :=
  match s.bound h k pa with
  | some (_, f) => !s.boundReady h (lineOf pa) f (late.contains (lineOf pa, f))
  | none => false

/-- Serve a bounded load of `n` bytes: from the node's copy, which becomes the most recent of its set, LATE when it does not reach the
floor (R404, R408); an unqualified load reads the home (R410). -/
def State.boundServe (s : State) (h k pa n : Nat) : State × List Byte :=
  match s.bound h k pa with
  | some (_, f) =>
    let l := lineOf pa
    match s.rounds.copies.lookup (nkey (coreOf h) l) with
    | some (_, data) =>
      let s := if s.boundCopy h l f then s else s.modHart h fun x => { x with win := tset k (x.window k).late x.win }
      (s.l1vTouch (coreOf h) l, (data.drop (pa % 128)).take n)
    | none => (s, s.peek pa n)
  | none => (s, s.peek pa n)

/-- A read-sensitive host window (R255). -/
def State.readSensitive (s : State) (loc : Nat) : Bool :=
  !isLocal loc && match s.backing loc with | .host h => winRs (s.hostWin h) | .mmio => true | _ => false

/-! ### Publishing -/

/-- The live region of a PASID whose descriptor lies at a PA (R414). -/
def State.regionDesc (s : State) (pa pasid : Nat) : Option (Nat × Region) :=
  s.rounds.regions.find? fun e => e.2.desc == pa && e.2.pasid == pasid && !e.2.dying

/-- The slices that home a region's lines: all 80 of its die, since a region covers whole runs of 512 lines (R380). -/
def State.regionSlices (s : State) (g : Region) : List Nat := (List.range 80).map (s.homeDie g.pbase * 80 + ·)

/-- A publish starts: the round advances and every slice is told (R414 steps 2 and 3). -/
def State.publishStart (s : State) (rid : Nat) : State :=
  match s.region rid with
  | some g =>
    let sl := s.regionSlices g
    (s.modRegion rid fun g => { g with round := (g.round + 1) % 2 ^ 32, busy := true, acks := sl }).due
      (sl.map (.replicaUpdate rid))
  | none => s

/-- A publish of a region for a hart, or for a completion (R414): publishes of one region follow one another. -/
def State.publish (s : State) (rid : Nat) (who : Publisher) : State :=
  match s.region rid with
  | some g =>
    let s := s.modRegion rid fun g => { g with queue := g.queue ++ [who] }
    if g.busy then s else s.publishStart rid
  | none => s

/-- The publish completes (R414 steps 4 and 5): ROUND in the descriptor, the notices, the answer that ends the `rpub` (R418), the next
publish. -/
def State.publishEnd (s : State) (rid : Nat) : State :=
  match s.region rid with
  | some g =>
    let s := s.agentWrite (g.desc + 0x10) (leBytes 4 g.round)
    let s := s.due ((List.range s.dies).map fun d => .roundNotice rid d g.round)
    let s := match g.queue with
      | .hart h :: _ => (match (s.hart h).wait with
        | some (.publish _ rd) => s.finish h rd (BitVec.ofNat 64 g.round)
        | _ => s)
      | _ => s
    let s := s.modRegion rid fun g => { g with busy := false, queue := g.queue.drop 1 }
    if g.queue.length ≤ 1 then s else s.publishStart rid
  | none => s

/-- REPLICA_UPDATE (R414 step 3). -/
def execReplicaUpdate (s : State) : Out :=
  match s.ev with
  | .replicaUpdate rid slice =>
    let s := s.modRegion rid fun g => { g with rs := tset slice g.round g.rs }
    .next ((s.answerSlice slice).due [.replicaAck rid slice])
  | _ => .next s

/-- REPLICA_ACK (R414 steps 3 and 4). -/
def execReplicaAck (s : State) : Out :=
  match s.ev with
  | .replicaAck rid slice =>
    match s.region rid with
    | some g =>
      if g.busy && g.acks.contains slice then
        let s := s.modRegion rid fun g => { g with acks := g.acks.erase slice }
        .next (if (g.acks.erase slice).isEmpty then s.publishEnd rid else s)
      else .next s
    | none => .next s
  | _ => .next s

/-- ROUND_NOTICE (R415). -/
def execRoundNotice (s : State) : Out :=
  match s.ev with
  | .roundNotice rid d r =>
    match s.region rid with
    | some g =>
      if reached r (g.viewOf d) then
        let s := s.modRegion rid fun g => { g with view := tset d r g.view }
        .next (if r % 2 ^ 24 = 0 then s.voidCopies g d else s)
      else .next s
    | none => .next s
  | _ => .next s

/-- REFETCH_REQUEST (R408). -/
def execRefetchRequest (s : State) : Out :=
  match s.ev with
  | .refetchRequest n l f h k b =>
    match s.regionAt (l * 128) with
    | some rid => .next (s.refetchArrives ⟨n, l, rid, f, h, k, b⟩)
    | none => .next s
  | _ => .next s

/-- STALL_TIMEOUT (R408): a request that waits at its slice is answered with LATE; the input queue follows up. -/
def execStallTimeout (s : State) : Out :=
  match s.ev with
  | .stallTimeout n l f h k b =>
    match s.rounds.parked.find? fun r => r.node == n && r.line == l && r.floor == f && r.hart == h && r.win == k && r.blk == b with
    | some r => .next (((s.unpark r).answerRefetch r true).answerSlice (s.homeSlice l))
    | none => .next s
  | _ => .next s

/-! ### Instructions -/

/-- The descriptor of `rpub` and `racq`: translated as a load, 32-byte aligned, naming a live region of the PASID. -/
def State.descriptor (s : State) (va : Word) (k : State → Nat → Region → Out) : Out :=
  s.toLoc .load va 1 fun s loc =>
    if va.toNat % 32 ≠ 0 then .next (s.cmdFault va)
    else match s.regionDesc loc (s.pasidOf s.cur) with
      | some (rid, g) => k s rid g
      | none => .next (s.cmdFault va)

/-- RPUB (R418): the hart stalls until its publish completes, which ends the instruction with the new round in rd. -/
def execRpub (rd rs1 : BitVec 5) (s : State) : Out :=
  match s.me.wait with
  | some (.publish rid r) => .next (s.wait (.publish rid r))
  | _ =>
    s.descriptor (s.x rs1) fun s rid g =>
      if !s.released then .next (s.wait .blocks)
      else .next (((s.releaseAt (Nat.max (vcfgScope (s.me.cs csrVcfg)) g.scope)).wait (.publish rid rd.toNat)).publish rid (.hart s.cur))

/-- RACQ (R419). -/
def execRacq (rd rs1 : BitVec 5) (k : BitVec 3) (s : State) : Out :=
  s.descriptor (s.x rs1) fun s rid g =>
    let w := s.me.window k.toNat
    let w' : Window := ⟨(w.w0 &&& ~~~(0x3FF : Word)) ||| BitVec.ofNat 64 rid ||| 0x1000, BitVec.ofNat 64 g.round⟩
    .next ((s.modMe fun h => { h with win := tset k.toNat w' h.win }).retireX rd (BitVec.ofNat 64 g.round))

/-- `rwin` (R420). -/
def State.rwin (s : State) (lag : Bool) (word : BitVec 32) (rd rs1 rs2 : BitVec 5) (k : BitVec 3) : Out :=
  let w := s.me.window k.toNat
  let a := (s.x rs1).toNat
  if rs1 = 0 then
    .next ((s.modMe fun h => { h with win := tset k.toNat { w with w0 := w.w0 &&& ~~~(0x1000 : Word) } h.win }).retireX rd w.w0)
  else if bits a 10 22 ≠ 0 then .next (s.illegal word)
  else
    let w' : Window :=
      ⟨BitVec.ofNat 64 (bits a 0 10 + (if lag then 1024 else 0) + 4096 + bits (s.x rs2).toNat 0 32 * 2 ^ 32),
       BitVec.ofNat 64 (bits a 32 32)⟩
    .next ((s.modMe fun h => { h with win := tset k.toNat w' h.win }).retireX rd w.w0)

/-- RWIN_ABS (R420). -/
def execRwinAbs (rd rs1 rs2 : BitVec 5) (k : BitVec 3) (s : State) : Out :=
  s.rwin false (wordOf (.rwinAbs rd rs1 rs2 k)) rd rs1 rs2 k

/-- RWIN_LAG (R420). -/
def execRwinLag (rd rs1 rs2 : BitVec 5) (k : BitVec 3) (s : State) : Out :=
  s.rwin true (wordOf (.rwinLag rd rs1 rs2 k)) rd rs1 rs2 k

/-- `rview` with selector `n` (R421); another selector value than the row's is a command fault. -/
def State.rview (s : State) (n : Nat) (rd rs1 rs2 : BitVec 5) (v : Nat → Word) : Out :=
  if (s.x rs2).toNat = n then .next (s.retireX rd (v (s.x rs1).toNat)) else .next (s.cmdFault 0)

/-- RVIEW_V (R421). The hub's harts read die 0's table. -/
def execRviewV (rd rs1 rs2 : BitVec 5) (s : State) : Out :=
  s.rview 0 rd rs1 rs2 fun a =>
    match s.region (a % 1024) with
    | some g => BitVec.ofNat 64 (g.viewOf (if hartDie s.cur < 4 then hartDie s.cur else 0))
    | none => 0

/-- RVIEW_FLOOR (R421). -/
def execRviewFloor (rd rs1 rs2 : BitVec 5) (s : State) : Out :=
  s.rview 1 rd rs1 rs2 fun a =>
    let w := s.me.window (a % 8)
    if w.valid then BitVec.ofNat 64 w.floor else 0

/-- RVIEW_WORD0 (R421). -/
def execRviewWord0 (rd rs1 rs2 : BitVec 5) (s : State) : Out := s.rview 2 rd rs1 rs2 fun a => (s.me.window (a % 8)).w0

/-- RVIEW_WORD1 (R421). -/
def execRviewWord1 (rd rs1 rs2 : BitVec 5) (s : State) : Out := s.rview 3 rd rs1 rs2 fun a => (s.me.window (a % 8)).w1

/-- LDBW (R422): a stalled load waits for the home's answer. -/
def execLdbw (rd rs1 : BitVec 5) (k : BitVec 3) (s : State) : Out :=
  let va := s.x rs1
  if va.toNat % 8 ≠ 0 then .next (s.except 4 va)
  else match s.xlateRange (s.dataCx s.cur) .load va 8 with
    | (s, .mmio _) => .next (s.except 5 va)
    | (s, .ok loc) =>
      if s.readSensitive loc then .next (s.except 5 va)
      else
        let late := match s.bound s.cur k.toNat loc with | some (_, f) => if s.me.timedOut then [(lineOf loc, f)] else [] | none => []
        let s := (s.loadLines (nodeOf s.myCore) loc 8).boundAsk s.cur k.toNat loc 0 late
        if s.poisoned loc 8 then .next ((s.poisonRecord loc).except 5 va)
        else if s.boundStalls s.cur k.toNat loc late then .next (s.wait (.stall (lineOf loc)))
        else
          let (s, bs) := s.boundServe s.cur k.toNat loc 8
          .next (s.retireX rd (BitVec.ofNat 64 (leNat bs)))
    | (s, t) => s.xlateTrap .load va t

end Sys2Proof.Machine
end

