-- ==== Sys2Proof/Machine/Mem.lean ====
section
/-! DEFINITION. The load-store unit (R233 to R256): element addresses and checks, loads with store forwarding, buffered
stores, disambiguation, and the block atomics. -/

namespace Sys2Proof.Machine

/-! ### Translation of block accesses -/

/-- The context of a block's accesses: as captured at its issue (R254, R427, R525). -/
def entryCx (h : Nat) (b : Biq) : Cx :=
  { unit := coreOf h, core := some (coreOf h), hart := some h, pasid := if b.priv = .u then some b.pasid else none
    wpasid := b.pasid, satp := b.satp, priv := b.priv, sum := b.sum, mxr := b.mxr, die := hartDie h }

/-- How many translations a core holds (R166). -/
def State.holdsUsed (s : State) (ci : Nat) : Nat := (s.xlat.tlb.filter fun t => t.unit == ci && !t.held.isEmpty).length

/-- A name joins a list once. -/
def joinName (e : Nat × Nat) (l : List (Nat × Nat)) : List (Nat × Nat) := if l.contains e then l else e :: l

/-- A block has used the core's translations of a VA; one that has faulted holds what the L2 TLB has, while a hold is free (R166,
R434). -/
def State.markUsed (s : State) (h : Nat) (b : Biq) (va : Nat) : State :=
  let ci := coreOf h
  let room := decide (s.holdsUsed ci < 2048)
  { s with xlat := { s.xlat with tlb := s.xlat.tlb.map fun t =>
      if (unitOn ci t.unit && t.covers (entryCx h b) va) = true then
        { t with
          used := joinName (h, b.seq) t.used
          held := if t.unit = ci ∧ b.tries ≠ 0 ∧ (room || !t.held.isEmpty) = true then joinName (h, b.seq) t.held else t.held }
      else t } }

/-- Hold what a block's attempt has used, now that its first fault is recorded, while holds are free (R120, R166). -/
def State.holdUsed (s : State) (h seq : Nat) : State :=
  let ci := coreOf h
  let go := s.xlat.tlb.foldl (fun (a : Nat × List Tlb) t =>
    if t.unit = ci ∧ t.used.contains (h, seq) = true ∧ (!t.held.isEmpty || decide (a.1 < 2048)) = true then
      (if t.held.isEmpty then a.1 + 1 else a.1, { t with held := joinName (h, seq) t.held } :: a.2)
    else (a.1, t :: a.2)) (s.holdsUsed ci, [])
  { s with xlat := { s.xlat with tlb := go.2.reverse } }

/-- The L2 TLB of a core keeps what a slice of it has. -/
def State.keepL2 (s : State) (h : Nat) (b : Biq) (acc : Acc) (va : Nat) (e : Tlb) : State :=
  if (s.tlbHit (entryCx h b) acc va).isNone then s.tlbInsert { e with unit := coreOf h, used := [], held := [] } else s

/-- Translate a block access: an element's in the TLB slice of its lane group, which the L2 TLB refills, a fetch in the L2 TLB
(R248, R432). -/
def State.blockXlate (s : State) (h : Nat) (b : Biq) (lg : Option Nat) (acc : Acc) (va : Word) (len : Nat) : State × TR :=
  let cx := entryCx h b
  let v := va.toNat % 2 ^ 57
  let (s, t) := match lg with
    | none => s.xlateRange cx acc va len
    | some g =>
      let sl := { cx with unit := unitSlice (coreOf h) g }
      match s.tlbHit sl acc v with
      | some e => (if b.tries = 0 then s else s.keepL2 h b acc v e).xlateRange sl acc va len
      | none =>
        let (s, t) := s.xlateRange cx acc va len
        (match s.tlbHit cx acc v with | some e => s.tlbInsert { e with unit := sl.unit, used := [], held := [] } | none => s, t)
  (s.markUsed h b v, t)

/-! ### Elements -/

/-- Bytes that a memory form's W accesses (R234). -/
def memBytesOf (m : MForm) : Nat := 2 ^ m.w.toNat

/-- The static offset of a memory form: OFF6 in units of W, or the literal of the lone form (R234). -/
def staticOff (m : MForm) (lit : Option (BitVec 32)) : Int :=
  match lit with
  | some l => signed l.toNat 32
  | none => signed m.off.toNat 6 * memBytesOf m

/-- How an instruction addresses its elements (R235): unit stride, a stride in slot c, an index in slot c. -/
inductive Walk where
  | unit | stride | index
  deriving DecidableEq, Repr

/-- The address of an element; `none` when it does not execute or a used operand is Null (R235, R237). `data` lists
the operand slots beside base and index. -/
def Biq.addr (b : Biq) (id : Nat) (pm : BitVec 2) (m : MForm) (off : Int) (wk : Walk) (data : List Nat) (e : Nat) :
    Option Word :=
  if !b.enabled id pm e || data.any (fun n => (b.operand id 64 n e).isNone) then none
  else
    match b.operand id 64 0 e with
    | none => none
    | some base =>
      match wk with
      | .unit => some (wrap64 ((base : Int) + off + e * memBytesOf m))
      | .stride => (b.operand id 64 2 e).map fun c => wrap64 ((base : Int) + off + e * (c : Int))
      | .index => (b.operand id (sewBits b.vcfg) 2 e).map fun c => wrap64 ((base : Int) + off + c * memBytesOf m)

/-- What an element's checks give (R254). -/
inductive Check where
  | ok (loc : Nat)
  | bad (code : Nat)
  deriving DecidableEq, Repr

/-- The atomic operation may act at a location (R244). -/
def State.atomicPlace (s : State) (loc op : Nat) : Bool :=
  if isLocal loc then true
  else if (s.regionAt loc).isSome then false
  else if s.cached loc then true
  else match s.backing loc with
    | .host _ => op == 0 || op == 8 || op == 10
    | .peer _ _ => op == 0 || op == 8 || op == 10
    | _ => false

/-- The checks of an access of lane group `lg`, in the order of R254: `sens` for gathers and bounded loads, `atom` the operation of
an atomic. -/
def State.checkElem (s : State) (h : Nat) (b : Biq) (lg : Nat) (store sens : Bool) (atom : Option Nat) (va : Word) (n : Nat) :
    State × Check :=
  if va.toNat % n ≠ 0 then (s, .bad 8)
  else
    let (s, t) := s.blockXlate h b (some lg) (if store then .store else .load) va n
    let refuse (loc : Nat) (k : Check) : Check :=
      if (match atom with | some op => !s.atomicPlace loc op | none => false) then .bad 7
      else if sens && s.readSensitive loc then .bad 9
      else k
    match t with
    | .ok loc => (s, refuse loc (.ok loc))
    | .pageFault => (s, .bad (if store then 5 else 4))
    | .accessFault => (s, .bad (if store then 7 else 6))
    | .contain loc => (s, refuse loc (.bad 10))
    | .mmio loc => (s, refuse loc (.ok loc))

/-- The checks of elements from number `e` on, ascending. -/
def State.checkElems (h : Nat) (b : Biq) (store sens : Bool) (atom : Option Nat) (n : Nat) :
    Nat → List (Option Word) → State → State × List (Option (Word × Check))
  | _, [], s => (s, [])
  | e, none :: r, s =>
    let (s, l) := State.checkElems h b store sens atom n (e + 1) r s
    (s, none :: l)
  | e, some va :: r, s =>
    let (s, c) := s.checkElem h b (s.place h b e).1 store sens atom va n
    let (s, l) := State.checkElems h b store sens atom n (e + 1) r s
    (s, some (va, c) :: l)

/-- The rights that a fault's page request names (R437). -/
def faultRights (code : Nat) (p : Priv) : Nat := (if code = 5 ∨ code = 7 then 2 else 1) + (if p = .u then 8 else 0)

/-- The faults among checked elements: element, VA, code, in the lane group that runs each (R97). -/
def State.elemFaults (s : State) (h : Nat) (b : Biq) (id lsid : Nat) (l : List (Option (Word × Check))) : List BFault :=
  (List.range l.length).filterMap fun e =>
    match l.getD e none with
    | some (va, .bad code) =>
      some { code := code, va := va, elem := e, lsid := lsid, id := id, lg := (s.place h b e).1, acc := faultRights code b.priv }
    | _ => none

/-- A location in the MMIO range, which firmware alone reaches (R524). -/
def State.isMmio (s : State) (loc : Nat) : Bool := !isLocal loc && s.backing loc == .mmio

/-- The location of a checked element. -/
def checkedLoc : Option (Word × Check) → Option (Word × Nat)
  | some (va, .ok loc) => some (va, loc)
  | _ => none

/-! ### When a memory instruction may fire -/

/-- The memory form of an instruction that carries an LSID (R142). -/
def memForm : Instr → Option MForm
  | .ld m => some m
  | .ldLone m _ => some m
  | .lds m => some m
  | .ldsLone m _ => some m
  | .ldx m => some m
  | .ldxLone m _ => some m
  | .ldb m => some m
  | .ldbLone m _ => some m
  | .ldbx m => some m
  | .ldbxLone m _ => some m
  | .st m => some m
  | .stLone m _ => some m
  | .sts m => some m
  | .stsLone m _ => some m
  | .stx m => some m
  | .stxLone m _ => some m
  | .amo m => some m
  | .acas m => some m
  | .tsld m => some m
  | .tsst m => some m
  | _ => none

/-- A buffered store. -/
def isStore : Instr → Bool
  | .st _ => true
  | .stLone _ _ => true
  | .sts _ => true
  | .stsLone _ _ => true
  | .stx _ => true
  | .stxLone _ _ => true
  | .tsst _ => true
  | _ => false

/-- A block atomic. -/
def isAtomic : Instr → Bool
  | .amo _ => true
  | .acas _ => true
  | _ => false

/-- A texture, ray or matrix instruction: it accesses memory, tiles or slots without the LSU's LSIDs (R158, R159). -/
def isUnitAccess : Instr → Bool
  | .tfl _ _ => true
  | .tld _ _ => true
  | .rbox _ => true
  | .rtri _ => true
  | .tsmv _ => true
  | .ost _ => true
  | _ => false

/-- A write of a block: a store, or its atomic (R64, R67). -/
def isWrite (i : Instr) : Bool := isStore i || isAtomic i

/-- Every store of an entry has its addresses known: it is decoded, its stores fired and no strip is to follow (R157). -/
def State.storesKnown (s : State) (h : Nat) (b : Biq) : Bool :=
  match b.code with
  | none => false
  | some c =>
    c.instrs.all (fun i => !isWrite i.2 || b.fired.contains i.1) &&
      (!b.isLoop || decide (b.n ≤ b.base + s.entryVl h b) || c.instrs.all fun i => !isWrite i.2)

/-- An ordering holds the accesses of an entry back, the reads of its image among them (R70, R134). -/
def State.entryHeld (s : State) (h : Nat) (b : Biq) : Bool := b.early || s.heldBack h strB b.seq

/-- A memory access of the entry may start: no ordering holds it back (R70), and in ordered mode every lower-LSID store
of its block and every store of older blocks is known (R157). What a faulted attempt still translates waits for nothing (R162). -/
def State.memReady (s : State) (h i : Nat) (b : Biq) (lsid : Nat) : Bool :=
  !b.faults.isEmpty ||
  (!s.entryHeld h b &&
  (!b.ordered ||
    (((s.hart h).biq.take i).all (s.storesKnown h) &&
      match b.code with
      | none => false
      | some c => c.instrs.all fun x =>
          match memForm x.2 with
          | some m => !(isWrite x.2 && decide (m.lsid.toNat < lsid)) || b.fired.contains x.1
          | none => true)))

/-- What a faulted attempt still translates (R162): the accesses whose operands are present for a group, and an atomic's when they are
present for all. -/
def State.sweepOf (s : State) (h : Nat) (b : Biq) : List (Nat × Nat) :=
  let all := s.groups h b
  match b.code with
  | none => []
  | some c => c.instrs.flatMap fun x =>
      let need := slotsOf x.1 x.2
      if ((memForm x.2).isSome || isUnitAccess x.2) && !b.fired.contains x.1 && need.all fun n => (b.tok x.1 n).isSome then
        let g := b.readyGroups all x.1 need
        if isAtomic x.2 && g.length != all.length then [] else g.map fun j => (x.1, j)
      else []

/-- Faults are found in an attempt (R162): from the first on, only its sweep goes on. -/
def State.faulted (s : State) (h : Nat) (b : Biq) (bad : List BFault) : Biq :=
  { b with faults := b.faults ++ bad, sweep := if b.faults.isEmpty && !bad.isEmpty then s.sweepOf h b else b.sweep }

/-- The atomic may fire (R159): it is the oldest block's, every lower LSID has translated, every texture, ray and matrix instruction
has passed its checks, and no fault is known. It waits for the block's loads too, so that no poisoned answer can reach a block whose
atomic has fired (log entry 53). After a fault its addresses are only translated (R162). -/
def State.atomReady (i : Nat) (b : Biq) (id : Nat) : Bool :=
  !b.faults.isEmpty ||
  decide (i = 0) && b.pends.isEmpty &&
    match b.code with
    | none => false
    | some c => c.instrs.all fun x =>
        x.1 == id || b.fired.contains x.1 || !((memForm x.2).isSome || isUnitAccess x.2)

/-! ### Loads -/

/-- A load that passed its checks awaits its data; an attempt with a fault starts no access (R162, R239). -/
def State.loadIssued (s : State) (h : Nat) (b : Biq) (bad : List BFault) (p : BPend) : Biq :=
  if bad.isEmpty && b.faults.isEmpty then { b with pends := b.pends ++ [p] } else s.faulted h b bad

/-- A load fires: its elements are checked; they return later with their data (R239), or the block faults. -/
def State.fireLoad (s : State) (m : MForm) (lit : Option (BitVec 32)) (need : List Nat) (wk : Walk)
    (bounded : Bool) : Out :=
  s.fireWith (fun _ _ => false) m.pm need fun h i id b g =>
    if !s.memReady h i b m.lsid.toNat then .next s
    else
      let data := if bounded then [1] else []
      let vas := overGroups (s.entryVl h b) g (b.addr id m.pm m (staticOff m lit) wk data)
      let (s, l) := State.checkElems h b false (bounded || wk = .index) none (memBytesOf m) 0 vas s
      let bad := s.elemFaults h b id m.lsid.toNat l
      let win := if bounded then (b.operand id 64 1 0).map (· % 8) else none
      .next (s.setEntry h i ((s.loadIssued h b bad ⟨id, m.lsid.toNat, g, l.map checkedLoc, memBytesOf m, win, []⟩).done (s.groups h b) g id))

/-- LD (R239). -/
def execLd (m : MForm) (s : State) : Out := s.fireLoad m none [0] .unit false
/-- LD_LONE (R239). -/
def execLdLone (m : MForm) (lit : BitVec 32) (s : State) : Out := s.fireLoad m (some lit) [0] .unit false
/-- LDS (R239). -/
def execLds (m : MForm) (s : State) : Out := s.fireLoad m none [0, 2] .stride false
/-- LDS_LONE (R239). -/
def execLdsLone (m : MForm) (lit : BitVec 32) (s : State) : Out := s.fireLoad m (some lit) [0, 2] .stride false
/-- LDX (R239). -/
def execLdx (m : MForm) (s : State) : Out := s.fireLoad m none [0, 2] .index false
/-- LDX_LONE (R239). -/
def execLdxLone (m : MForm) (lit : BitVec 32) (s : State) : Out := s.fireLoad m (some lit) [0, 2] .index false
/-- LDB (R241). -/
def execLdb (m : MForm) (s : State) : Out := s.fireLoad m none [0, 1] .unit true
/-- LDB_LONE (R241). -/
def execLdbLone (m : MForm) (lit : BitVec 32) (s : State) : Out := s.fireLoad m (some lit) [0, 1] .unit true
/-- LDBX (R241). -/
def execLdbx (m : MForm) (s : State) : Out := s.fireLoad m none [0, 1, 2] .index true
/-- LDBX_LONE (R241). -/
def execLdbxLone (m : MForm) (lit : BitVec 32) (s : State) : Out := s.fireLoad m (some lit) [0, 1, 2] .index true

/-- The byte that buffered stores give a location: the last that covers it (R246). -/
def storedByte (l : List BStore) (a : Nat) : Option Byte :=
  l.foldl (fun r st => if st.pa ≤ a ∧ a < st.pa + st.bytes.length then st.bytes[a - st.pa]? else r) none

/-- The stores that an entry's access with an LSID takes bytes from, in order: older blocks', then its own lower ones. -/
def State.visibleStores (s : State) (h i lsid : Nat) : List BStore :=
  (((s.hart h).biq.take i).flatMap (·.stores)) ++
    (match s.entry h i with | some b => b.stores.filter fun st => decide (st.lsid < lsid) | none => [])

/-- The bytes of a load element: buffered stores over what memory gives (R239, R246). -/
def forwarded (l : List BStore) (a : Nat) (bs : List Byte) : List Byte :=
  if l.isEmpty then bs else (List.range bs.length).map fun k => (storedByte l (a + k)).getD (bs.getD k 0)

/-- A pending load waits on the home of a bounded element (R408), or for a link that retrains (R396). -/
def State.pendStalls (s : State) (h : Nat) (p : BPend) : Bool :=
  (!s.coh.links.isEmpty && p.elems.any fun e => match e with | some (_, loc) => s.stuck (hartDie h) loc p.wbytes | none => false) ||
  match p.win with
  | none => false
  | some k => p.elems.any fun e => match e with | some (_, loc) => s.boundStalls h k loc p.late | none => false

/-- Ask the homes for what a pending load of the block at place `seq` lacks. -/
def State.pendAsk (s : State) (h seq : Nat) (p : BPend) : State :=
  match p.win with
  | none => s
  | some k => p.elems.foldl (fun s e => match e with | some (_, loc) => s.boundAsk h k loc (seq + 1) p.late | none => s) s

/-- What the MMIO range answers to firmware: open bytes (R524, log entry 18). -/
def State.mmioBytes (s : State) (n : Nat) : State × List Byte :=
  ({ s with fresh := s.fresh + n }, (List.range n).map fun k => (Config.openValue (s.fresh + k)).setWidth 8)

/-- What memory gives an element of a pending load. -/
def State.pendBytes (s : State) (h : Nat) (p : BPend) (loc : Nat) : State × List Byte :=
  if s.isMmio loc then s.mmioBytes p.wbytes
  else
    let s := s.vectorLines (nodeOf (coreOf h)) loc p.wbytes
    match p.win with
    | some k => s.boundServe h k loc p.wbytes
    | none => (s, s.peek loc p.wbytes)

/-- Read the elements of a pending load: what memory gives each. -/
def State.pendRead (h : Nat) (p : BPend) : List (Option (Word × Nat)) → State → State × List (Option (List Byte))
  | [], s => (s, [])
  | none :: r, s =>
    let (s, l) := State.pendRead h p r s
    (s, none :: l)
  | some (_, loc) :: r, s =>
    let (s, bs) := s.pendBytes h p loc
    let (s, l) := State.pendRead h p r s
    (s, some bs :: l)

/-- Elements of a pending load that memory answers with poison (R479), or whose homes have been cut off since they were translated
(R397, R398). -/
def State.pendPoison (s : State) (h : Nat) (b : Biq) (p : BPend) : List BFault :=
  (List.range p.elems.length).filterMap fun e =>
    match p.elems.getD e none with
    | some (va, loc) =>
      if s.isMmio loc then none
      else if s.unreached (hartDie h) loc then
        some { code := if s.coh.severed.contains (hartDie h) then 10 else 6, va := va, elem := e, lsid := p.lsid, id := p.id
               lg := (s.place h b e).1, acc := faultRights 6 b.priv }
      else if s.poisoned loc p.wbytes then
        some { code := 6, va := va, elem := e, lsid := p.lsid, id := p.id, lg := (s.place h b e).1, acc := faultRights 6 b.priv }
      else none
    | none => none

/-- The target of a load. -/
def loadTarget (b : Biq) (id : Nat) : Nat :=
  match b.code with
  | none => 0
  | some c => match (c.instrs.lookup id).bind memForm with | some m => m.t0.toNat | none => 0

/-- The cell that element `e` of a tile instruction names (R320): tile, row, column; `col` is DIR = 1. -/
def cellOf (sel : Nat) (col : Bool) (e : Nat) : Option (Nat × Nat × Nat) :=
  let c := bits sel 0 11 + e
  if 2048 ≤ c then none
  else if col then some (bits sel 11 3, c % 64, c / 64) else some (bits sel 11 3, c / 32, c % 32)

/-- What the returned values of a load become: its groups of the token of its target, or the staged cells of a `tsld` (R323). -/
def Biq.loaded (b : Biq) (all g : List Nat) (id lsid : Nat) (vals : List (Option Nat)) : Biq :=
  match b.code.bind fun c => c.instrs.lookup id with
  | some (.tsld m) =>
    let sel := (b.operand id 64 1 0).getD 0
    { b with staged := b.staged ++ (List.range vals.length).filterMap fun e =>
        match vals.getD e none, cellOf sel (m.t0.toNat.testBit 0) e with
        | some v, some (t, r, c) => some (.cell lsid e t r c (BitVec.ofNat 32 v))
        | _, _ => none }
  | _ => b.give all g (loadTarget b id) (mkTok false true vals)

/-- Two byte ranges meet. -/
def meets (a n b m : Nat) : Bool := decide (a < b + m) && decide (b < a + n)

/-- Two loads read a common byte of memory as different values. -/
def BLoad.differs (x y : BLoad) : Bool :=
  (List.range x.len).any fun k =>
    decide (y.pa ≤ x.pa + k) && decide (x.pa + k < y.pa + y.len) && x.raw.getD k 0 != y.raw.getD (x.pa + k - y.pa) 0

/-- A load later in program order has read a byte that an earlier load, returning now, finds changed: the location's coherence order
would run backwards (R58, R65). -/
def Biq.ranAhead (b : Biq) (own : Bool) (lsid : Nat) (l : List BLoad) : Bool :=
  b.loads.any fun x => (!own || decide (lsid < x.lsid)) && l.any x.differs

/-- The first entry from index `i` on that a test finds at fault replays with every younger one (R156, R157). -/
def replayWhere (i : Nat) (bad : Bool → Biq → Bool) (q : List Biq) : List Biq :=
  match (List.range q.length).find? fun j => decide (i ≤ j) && q[j]?.any (bad (j == i)) with
  | none => q
  | some j => replayFrom j q

/-- A pending load returns (R239): its values become a token, its locations are noted for disambiguation, and later loads that have
read older values replay. -/
def State.pendReturn (s : State) (h i : Nat) (b : Biq) (p : BPend) : State :=
  let node := nodeOf (coreOf h)
  let s := p.elems.foldl (fun s e => match e with
    | some (_, loc) => if s.isMmio loc || s.unreached (hartDie h) loc then s else s.vectorLines node loc p.wbytes
    | none => s) s
  let bad := s.pendPoison h b p
  let rest := b.pends.filter (· != p)
  match bad with
  | f :: _ =>
    let loc := ((p.elems.getD f.elem none).map (·.2)).getD 0
    (if s.unreached (hartDie h) loc then s else s.poisonRecord loc).setEntry h i (s.faulted h { b with pends := rest } bad)
  | [] =>
    let sts := s.visibleStores h i p.lsid
    let (s, raws) := State.pendRead h p p.elems s
    let at_ (e : Nat) : Option (Nat × List Byte) :=
      match p.elems.getD e none, raws.getD e none with | some x, some bs => some (x.2, bs) | _, _ => none
    let es := List.range p.elems.length
    let noted := es.filterMap fun e => (at_ e).map fun x => (⟨p.id, p.lsid, e, x.1, p.wbytes, x.2⟩ : BLoad)
    let vals := es.map fun e => (at_ e).map fun x => leNat (forwarded sts x.1 x.2)
    let s := s.setEntry h i ({ b with pends := rest, loads := b.loads ++ noted }.loaded (s.groups h b) p.grp p.id p.lsid vals)
    s.modHart h fun x => { x with biq := replayWhere i (fun own o => o.ranAhead own p.lsid noted) x.biq }

/-- Two pending loads read a common location. -/
def BPend.overlaps (p q : BPend) : Bool :=
  p.elems.any fun x => q.elems.any fun y =>
    match x, y with | some a, some b => meets a.2 p.wbytes b.2 q.wbytes | _, _ => false

/-- A pending load waits for one of a common location that comes before it in program order (R58, R65, log entry 49). -/
def State.pendBehind (s : State) (h i : Nat) (b : Biq) (p : BPend) : Bool :=
  (((s.hart h).biq.take i).any fun o => o.pends.any p.overlaps) || b.pends.any fun q => decide (q.lsid < p.lsid) && p.overlaps q

/-- The first pending load of a hart's blocks that can return, by entry index. -/
def State.nextPend (s : State) (h : Nat) : Option (Nat × Biq × BPend) :=
  (List.range (s.hart h).biq.length).findSome? fun i =>
    match s.entry h i with
    | some b =>
      if b.held then none else (b.pends.find? fun p => !s.pendStalls h p && !s.pendBehind h i b p).map fun p => (i, b, p)
    | none => none

/-- LOAD_DATA_RETURN (R239, R246): the next pending load of the hart's blocks returns; bounded loads that lack a copy
ask for it first. -/
def execLoadDataReturn (s : State) : Out :=
  match s.ev with
  | .loadDataReturn h =>
    let s := (s.hart h).biq.foldl (fun s b => b.pends.foldl (fun s p => s.pendAsk h b.seq p) s) s
    match s.nextPend h with
    | some (i, b, p) => .next (s.pendReturn h i b p)
    | none => .next s
  | _ => .next s

/-! ### Stores -/

/-- A store takes its place in the buffer, which stays in LSID and element order (R65, R240). -/
def addStore (x : BStore) : List BStore → List BStore
  | [] => [x]
  | y :: r => if y.lsid < x.lsid ∨ (y.lsid = x.lsid ∧ y.elem ≤ x.elem) then y :: addStore x r else x :: y :: r

/-- Put elements of one store instruction into the buffer. -/
def Biq.addStores (b : Biq) (l : List BStore) : Biq := { b with stores := l.foldl (fun a x => addStore x a) b.stores }

/-- A load has read bytes that newly known stores should have given it (R156). -/
def Biq.violated (b : Biq) (own : Bool) (lsid : Nat) (l : List BStore) : Bool :=
  b.loads.any fun x => (!own || decide (lsid < x.lsid)) && l.any fun st => meets x.pa x.len st.pa st.bytes.length

/-- A disambiguation replay where loads read too early (R156, R157). -/
def disambiguate (i lsid : Nat) (l : List BStore) (q : List Biq) : List Biq :=
  replayWhere i (fun own b => b.violated own lsid l) q

/-- The lane groups on which element groups of an entry run. -/
def State.laneGroups (s : State) (h : Nat) (b : Biq) (g : List Nat) : List Nat := g.map fun j => (s.placeGroup h b j).1

/-- Store-buffer bytes that an entry holds on a lane group (R245): 16 elements' worth for each element group of each store that has
fired. -/
def State.storeSpace (s : State) (h : Nat) (b : Biq) (lg : Nat) : Nat :=
  match b.code with
  | none => 0
  | some c => (c.instrs.map fun x =>
      match memForm x.2 with
      | some m =>
        if isStore x.2 then
          let g := if b.fired.contains x.1 then s.groups h b else b.partOf x.1
          ((s.laneGroups h b g).filter (· == lg)).length * (16 * memBytesOf m)
        else 0
      | none => 0).sum

/-- The uncommitted blocks of a core: hart, BIQ index, entry. -/
def State.coreBlocks (s : State) (ci : Nat) : List (Nat × Nat × Biq) :=
  (coreHarts ci).flatMap fun h => (s.hart h).biq.mapIdx fun i b => (h, i, b)

/-- A lane group's store buffer has room for `n` more bytes (R245). -/
def State.storeRoom (s : State) (ci lg n : Nat) : Bool :=
  decide ((s.coreBlocks ci).foldl (fun a e => a + s.storeSpace e.1 e.2.2 lg) n ≤ 16384)

/-- The block was issued before every other uncommitted block on a lane group (R245). -/
def State.oldestOn (s : State) (h : Nat) (b : Biq) (lg : Nat) : Bool :=
  (s.coreBlocks (coreOf h)).all fun e => !e.2.2.grant.contains lg || decide (b.born ≤ e.2.2.born)

/-- The bytes that a store's groups reserve on a lane group (R245). -/
def State.storeNeed (s : State) (h : Nat) (b : Biq) (n : Nat) (g : List Nat) (lg : Nat) : Nat :=
  ((s.laneGroups h b g).filter (· == lg)).length * (16 * n)

/-- A store of an entry may fire for the groups: each lane group has room, or the block is its oldest (R245). -/
def State.storeMay (s : State) (h : Nat) (b : Biq) (n : Nat) (g : List Nat) : Bool :=
  (s.laneGroups h b g).all fun lg => s.oldestOn h b lg || s.storeRoom (coreOf h) lg (s.storeNeed h b n g lg)

/-- Room is made for the oldest block: the youngest blocks that hold space on the lane group replay, one after the other (R245). -/
def State.storeEvict (s : State) (h : Nat) (b : Biq) (lg n : Nat) : Nat → State
  | 0 => s
  | k + 1 =>
    if s.storeRoom (coreOf h) lg n then s
    else
      let l := (s.coreBlocks (coreOf h)).filter fun e => decide (b.born < e.2.2.born) && !e.2.2.atom && decide (0 < s.storeSpace e.1 e.2.2 lg)
      match l.foldl (fun (a : Option (Nat × Nat × Biq)) e =>
        match a with | some x => if x.2.2.born < e.2.2.born then some e else a | none => some e) none with
      | some e => (s.modHart e.1 fun x => { x with biq := replayFrom e.2.1 x.biq }).storeEvict h b lg n k
      | none => s

/-- The reservations that a store's groups make (R245). -/
def State.storeReserve (s : State) (h : Nat) (b : Biq) (n : Nat) (g : List Nat) : State :=
  (s.laneGroups h b g).eraseDups.foldl (fun s lg => s.storeEvict h b lg (s.storeNeed h b n g lg) 128) s

/-- Checked elements of a store enter the buffer (R240): loads that read too early replay. -/
def State.storesIn (s : State) (h i id lsid : Nat) (b : Biq) (g : List Nat) (sts : List BStore) : State :=
  let s := s.setEntry h i ((b.addStores sts).done (s.groups h b) g id)
  s.modHart h fun x => { x with biq := disambiguate i lsid sts x.biq }

/-- A store fires: its elements are checked and their bytes buffered (R240, R245). -/
def State.fireStore (s : State) (m : MForm) (lit : Option (BitVec 32)) (need : List Nat) (wk : Walk) : Out :=
  s.fireWith (fun _ _ => false) m.pm need fun h i id b g =>
    let n := memBytesOf m
    if !s.memReady h i b m.lsid.toNat || !s.storeMay h b n g then .next s
    else
      let s := s.storeReserve h b n g
      let vas := overGroups (s.entryVl h b) g (b.addr id m.pm m (staticOff m lit) wk [1])
      let (s, l) := State.checkElems h b true false none n 0 vas s
      let bad := s.elemFaults h b id m.lsid.toNat l
      if bad.isEmpty && b.faults.isEmpty then
        .next (s.storesIn h i id m.lsid.toNat b g ((List.range l.length).filterMap fun e =>
          match checkedLoc (l.getD e none), b.operand id (8 * n) 1 e with
          | some (va, loc), some v => some (⟨id, m.lsid.toNat, e, va, loc, leBytes n v⟩ : BStore)
          | _, _ => none))
      else .next (s.setEntry h i ((s.faulted h b bad).done (s.groups h b) g id))

/-- ST (R240). -/
def execSt (m : MForm) (s : State) : Out := s.fireStore m none [0, 1] .unit
/-- ST_LONE (R240). -/
def execStLone (m : MForm) (lit : BitVec 32) (s : State) : Out := s.fireStore m (some lit) [0, 1] .unit
/-- STS (R240). -/
def execSts (m : MForm) (s : State) : Out := s.fireStore m none [0, 1, 2] .stride
/-- STS_LONE (R240). -/
def execStsLone (m : MForm) (lit : BitVec 32) (s : State) : Out := s.fireStore m (some lit) [0, 1, 2] .stride
/-- STX (R240). -/
def execStx (m : MForm) (s : State) : Out := s.fireStore m none [0, 1, 2] .index
/-- STX_LONE (R240). -/
def execStxLone (m : MForm) (lit : BitVec 32) (s : State) : Out := s.fireStore m (some lit) [0, 1, 2] .index

/-! ### Atomics -/

/-- Perform the elements of an atomic, ascending, each alone at its arbiter (R242, R243). -/
def State.atomicElems (node op n : Nat) : List (Option (Nat × Nat × Nat)) → State → State × List (Option Nat)
  | [], s => (s, [])
  | none :: r, s =>
    let (s, l) := State.atomicElems node op n r s
    (s, none :: l)
  | some (loc, x, y) :: r, s =>
    let (s, old) := s.atomicAt node loc op n x y
    let (s, l) := State.atomicElems node op n r s
    (s, some old :: l)

/-- The answers to an atomic's elements, where all pass their checks: a line that answers with poison, or an AtomicOp that completes with an
error, faults its elements, is logged, and nothing acts (R475, R479, R480; the code of an AtomicOp is log entry 40). -/
def State.atomicAnswers (s : State) (n : Nat) (l : List (Option (Word × Check))) : State × List (Option (Word × Check)) :=
  let places := l.filterMap checkedLoc
  if places.length = (l.filterMap fun y => y).length then
    match places.find? fun x => s.poisoned x.2 n with
    | none => (s, l)
    | some x => (s.poisonRecord x.2, l.map fun y => y.map fun c => match c.2 with
        | .ok loc => (c.1, if s.poisoned loc n then .bad (if s.cached loc then 6 else 7) else c.2)
        | .bad _ => c)
  else (s, l)

/-- The block's atomic fires once R159 allows (R242 to R244): every element is checked before any is performed, and younger blocks
that have read its locations replay (R58, R156). -/
def State.fireAtomic (s : State) (m : MForm) (op : Nat) (off : Int) (wk : Walk) (data : List Nat) : Out :=
  s.fireWith (fun _ _ => true) m.pm [0, 1, 2] fun h i id b g =>
    if !s.memReady h i b m.lsid.toNat || !State.atomReady i b id then .next s
    else
      let n := memBytesOf m
      let vas := (List.range (s.entryVl h b)).map (b.addr id m.pm m off wk data)
      let (s, l) := State.checkElems h b true false (some op) n 0 vas s
      let (s, l) := s.atomicAnswers n l
      let bad := s.elemFaults h b id m.lsid.toNat l
      if bad.isEmpty && b.faults.isEmpty then
        let todo := (List.range l.length).map fun e =>
          (checkedLoc (l.getD e none)).map fun x =>
            (x.2, (b.operand id (8 * n) 1 e).getD 0, if op = 10 then (b.operand id (8 * n) 2 e).getD 0 else 0)
        if todo.any (fun x => x.any fun y => s.stuck (hartDie h) y.1 n) then .next s
        else
        let (s, olds) := State.atomicElems (nodeOf (coreOf h)) op n todo s
        let s := s.setEntry h i (({ b with atom := true }.give g g m.t0.toNat (mkTok false true olds)).done g g id)
        let wrote := todo.filterMap fun x => x.map fun y => (⟨id, m.lsid.toNat, 0, 0, y.1, leBytes n 0⟩ : BStore)
        .next (s.modHart h fun x => { x with biq := disambiguate i m.lsid.toNat wrote x.biq })
      else .next (s.setEntry h i ((s.faulted h b bad).done g g id))

/-- AMO (R242): the subop stands in OFF6. -/
def execAmo (m : MForm) (s : State) : Out := s.fireAtomic m m.off.toNat 0 .index [1]

/-- ACAS (R243). -/
def execAcas (m : MForm) (s : State) : Out := s.fireAtomic m 10 (staticOff m none) .unit [1, 2]

end Sys2Proof.Machine
end

