-- ==== Sys2Proof/Machine/Matrix.lean ====
section
/-! DEFINITION. The matrix engine (R301 to R331): ownership, the command queue, `mop`, status, and the block instructions
on tiles and slots. -/

namespace Sys2Proof.Machine

/-! ### The engine's state -/

/-- The engine of a core. -/
def State.mat (s : State) (ci : Nat) : Matrix := (s.core ci).mat

/-- Change an engine. -/
def State.modMat (s : State) (ci : Nat) (f : Matrix → Matrix) : State := s.modCore ci fun c => { c with mat := f c.mat }

/-- The hart owns its core's engine (R301). -/
def State.matOwn (s : State) (h : Nat) : Bool := (s.mat (coreOf h)).owner == some h
/-- The hart's matrix state is live. -/
def State.matEn (s : State) (h : Nat) : Bool := s.matOwn h && (s.mat (coreOf h)).en

/-- A tile cell. -/
def Matrix.cell (m : Matrix) (t r c : Nat) : BitVec 32 := tget 0 m.cells (t * 2048 + 32 * r + c)
/-- A slot byte. -/
def Matrix.byte (m : Matrix) (s o : Nat) : Nat := (tget 0 m.slots (s * 16384 + o)).toNat
/-- EROWS of a tile as the engine has it; 64 where nothing set it. -/
def Matrix.rows (m : Matrix) (t : Nat) : Nat := tget 64 m.erows t
/-- ECOLS of a tile. -/
def Matrix.cols (m : Matrix) (t : Nat) : Nat := tget 32 m.ecols t

/-- Write a cell; a zero cell is not listed. -/
def Matrix.setCell (m : Matrix) (t r c : Nat) (v : BitVec 32) : Matrix :=
  let k := t * 2048 + 32 * r + c
  { m with cells := if v = 0 then tdel k m.cells else tset k v m.cells }

/-- Write slot bytes. -/
def Matrix.setSlot (m : Matrix) (s o : Nat) : List Byte → Matrix
  | [] => m
  | b :: r =>
    let k := s * 16384 + o
    ({ m with slots := if b = 0 then tdel k m.slots else tset k b m.slots }).setSlot s (o + 1) r

/-- Copies into slots of the instance of a hart that are not complete or abandoned (R287, R308, R310). -/
def State.slotCopies (s : State) (h : Nat) : Bool :=
  s.copies.any fun c => c.2.slot.isSome && sameAgent h (s.hart h).inst c.2.hart c.2.inst && c.2.state != .done

/-- A copy of an instance that has ended still writes the engine's slots: the end of the instance gives the engine up only then, as
`mdisable` and `mrel` would (R310, R311). -/
def State.slotsBusy (s : State) (ci : Nat) : Bool :=
  s.copies.any fun c => c.2.slot.isSome && c.2.eng == ci && c.2.state == .running &&
    match c.2.inst with | some i => (s.tqe.insts.lookup i).isNone | none => false

/-- The engine has no owner, nor has a placement given it to a resume (R307, R331). -/
def State.matFree (s : State) (ci : Nat) : Bool := (s.mat ci).owner.isNone && (s.mat ci).resv.isNone && !s.slotsBusy ci

/-- Harts that wait for the engine, in the order of their requests: a wait that was abandoned counts no more (R307). -/
def State.matWaiters (s : State) (ci : Nat) : List Nat :=
  (s.mat ci).waiters.filter fun h => (s.hart h).wait == some .matrix || (s.hart h).wait == some .engine

/-- A hart may take the engine now: it is free, and no other hart waits for it ahead (R307). -/
def State.matTurn (s : State) (h : Nat) : Bool :=
  s.matFree (coreOf h) && match s.matWaiters (coreOf h) with | [] => true | w :: _ => w == h

/-- A hart takes the engine. -/
def State.matTake (s : State) (h : Nat) (en : Bool) : State :=
  s.modMat (coreOf h) fun m => { m with owner := some h, en := en, waiters := m.waiters.filter (· != h) }

/-- A hart joins those that wait for the engine, and waits. -/
def State.matWait (s : State) (w : Wait) : State :=
  let l := s.matWaiters s.myCore
  (s.modMat s.myCore fun m => { m with waiters := if l.contains s.cur then l else l ++ [s.cur] }).wait w

/-- The checks of R305, in order: ownership, live state, state, operands. -/
def State.matCheck (s : State) (own en : Bool) (bad : Option Nat) (k : Out) : Out :=
  if own && !s.matOwn s.cur then .next (s.matFault 1)
  else if en && !s.matEn s.cur then .next (s.matFault 2)
  else match bad with
    | some r => .next (s.matFault r)
    | none => k

/-- The engine has no owner any more (R308). -/
def State.matRelease (s : State) (ci : Nat) : State := s.modMat ci fun m => { m with owner := none, en := false }

/-! ### Ownership -/

/-- MCLAIM (R307). -/
def execMclaim (rd : BitVec 5) (s : State) : Out :=
  if s.matOwn s.cur then .next (s.retireX rd 1)
  else if s.matTurn s.cur then .next ((s.matTake s.cur false).retireX rd 1)
  else if s.me.timedOut then .next (s.retireX rd 0)
  else .next (s.matWait .matrix)

/-- MREL (R308). -/
def execMrel (s : State) : Out :=
  if s.matEn s.cur then .next (s.matFault 3)
  else if !s.matOwn s.cur then .next s.retire
  else if s.slotCopies s.cur || !s.me.biq.isEmpty then .next (s.wait .commands)
  else .next (s.matRelease s.myCore).retire

/-- The state is made live (R303, R309): zeroed when the last enabled instance had another PASID. -/
def Matrix.enable (m : Matrix) (pasid : Nat) : Matrix :=
  let m := if m.last = some pasid then m else { m with cells := [], slots := [] }
  { m with en := true, last := some pasid, erows := [], ecols := [], issuedEdge := [] }

/-- MENABLE (R309). -/
def execMenable (s : State) : Out :=
  s.matCheck true false none
    (if s.matEn s.cur then .next s.retire
     else
       let s := s.modMat s.myCore fun m => m.enable (s.pasidOf s.cur)
       .next (s.modMe fun h => h.setCs csrMcfg 0xFFFFFFFFFF).retire)

/-- Commands of a hart that the engine still holds (R319). -/
def State.matPending (s : State) (h : Nat) : Nat := ((s.mat (coreOf h)).queue.filter fun q => q.1 == h).length

/-- MDISABLE (R310). -/
def execMdisable (s : State) : Out :=
  if !s.matEn s.cur then .next s.retire
  else if s.matPending s.cur ≠ 0 || s.slotCopies s.cur || !s.me.biq.isEmpty then .next (s.wait .commands)
  else .next (s.modMat s.myCore fun m => { m with en := false }).retire

/-! ### Commands -/

/-- A command enters the queue of 16, or the hart stalls (R306). -/
def State.matIssue (s : State) (c : MatCmd) : Out :=
  let ci := s.myCore
  if 16 ≤ (s.mat ci).queue.length then .next (s.wait .commands)
  else
    let s := s.modMat ci fun m => { m with queue := m.queue ++ [(s.cur, s.me.seq, c)] }
    .next ((s.modMe fun h => { h with seq := h.seq + 1 }).due [.matrixCmdRetire ci]).retire

/-- MZERO (R312). -/
def execMzero (t : BitVec 3) (s : State) : Out := s.matCheck true true none (s.matIssue (.zero t.toNat))

/-- MEDGE (R313). -/
def execMedge (t : BitVec 3) (rs1 rs2 : BitVec 5) (s : State) : Out :=
  let r := (s.x rs1).toNat
  let c := (s.x rs2).toNat
  let bad := if r = 0 ∨ 64 < r ∨ c = 0 ∨ 32 < c then some 4 else none
  s.matCheck true true bad
    (match s.matIssue (.edge t.toNat r c) with
     | .next s' =>
       if s'.me.wait.isSome then .next s'
       else .next (s'.modMat s.myCore fun m => { m with issuedEdge := tset t.toNat (r, c) m.issuedEdge })
     | o => o)

/-- Bits of an element (R315). -/
def opBits (fmt : Nat) : Nat := match fmt with | 0 => 16 | 1 => 16 | 4 => 6 | 5 => 6 | 6 => 4 | _ => 8
/-- Bytes of an A-panel row; a B-panel row has half. -/
def opRow (fmt : Nat) : Nat := opBits fmt * 8
/-- KmaxA. -/
def kmaxA (fmt : Nat) : Nat := match fmt with | 0 => 128 | 1 => 128 | 4 => 320 | 5 => 320 | 6 => 512 | _ => 256
/-- KmaxB. -/
def kmaxB (fmt : Nat) : Nat := match fmt with | 0 => 256 | 1 => 256 | 4 => 672 | 5 => 672 | 6 => 1024 | _ => 512
/-- Products of a K-group (R55). -/
def opGroup (fmt : Nat) : Nat := match fmt with | 0 => 1 | 1 => 1 | 6 => 4 | _ => 2
/-- The element format. -/
def opFmt (fmt : Nat) : Fmt :=
  match fmt with
  | 0 => bf16
  | 1 => fp16
  | 2 => mxE4M3
  | 3 => mxE5M2
  | 4 => mxE2M3
  | 5 => mxE3M2
  | 6 => mxE2M1
  | _ => mxInt8

/-- Fields of the operand word (R314). -/
structure OpWord where
  as  : Nat
  bs  : Nat
  ss  : Nat
  k   : Nat
  ak0 : Nat
  bk0 : Nat
  deriving DecidableEq, Repr

/-- Split an operand word. -/
def opWord (w : Nat) : OpWord := ⟨bits w 0 5, bits w 5 5, bits w 10 5, bits w 16 10, bits w 26 10, bits w 36 10⟩

/-- The operand word breaks R317. -/
def opBad (fmt : Nat) (i32 : Bool) (w : Nat) : Bool :=
  let o := opWord w
  w.testBit 15 || w >>> 46 != 0 || o.k == 0 || o.k % opGroup fmt != 0 || decide (kmaxA fmt < o.ak0 + o.k) ||
    decide (kmaxB fmt < o.bk0 + o.k) || (o.ss != 0 && decide (fmt < 2)) ||
    (decide (2 ≤ fmt) && (o.ak0 % 32 != 0 || o.bk0 % 32 != 0)) || (i32 && fmt != 7)

/-- MOP (R314, R317). -/
def execMop (fmt : BitVec 3) (i32 : BitVec 1) (t : BitVec 3) (rs1 : BitVec 5) (s : State) : Out :=
  s.matCheck true true (if opBad fmt.toNat (i32 == 1) (s.x rs1).toNat then some 4 else none)
    (s.matIssue (.op fmt.toNat (i32 == 1) t.toNat (s.x rs1)))

/-- An element code of a panel: row `r` of `rb` bytes, element `i` (R315). -/
def Matrix.elem (m : Matrix) (fmt slot rb r i : Nat) : Nat :=
  let b := opBits fmt
  let o := r * rb + b * i / 8
  (m.byte slot o + 256 * m.byte slot (o + 1)) / 2 ^ (b * i % 8) % 2 ^ b

/-- A value times the scale code of R38; NaN when the scale is. -/
def scaled (x : FV) (scale : Nat) : FV :=
  if scale = 255 then .nan false
  else match x with
    | .fin n v e st => .fin n v (e + scale - 127) st
    | v => v

/-- One product of R318 with its scales; `none` is ∞ × 0. -/
def Matrix.product (m : Matrix) (fmt : Nat) (o : OpWord) (r c k : Nat) : Option FV :=
  let ka := o.ak0 + k
  let kb := o.bk0 + k
  let a := (opFmt fmt).read false (m.elem fmt o.as (opRow fmt) ka r)
  let b := (opFmt fmt).read false (m.elem fmt o.bs (opRow fmt / 2) kb c)
  if fmt < 2 then FV.mul a b
  else FV.mul (scaled a (m.byte o.ss (64 * (ka / 32) + r))) (scaled b (m.byte o.ss (8192 + 32 * (kb / 32) + c)))

/-- One K-group onto an accumulator (R55). -/
def Matrix.group (m : Matrix) (fmt : Nat) (o : OpWord) (r c k0 : Nat) (acc : Nat) : Nat :=
  let g := opGroup fmt
  let sum := (List.range (g - 1)).foldl (fun (a : Option FV) j =>
    a.bind fun x => (m.product fmt o r c (k0 + j + 1)).bind fun y => FV.add 0 x y) (m.product fmt o r c k0)
  match sum.bind fun x => FV.add 0 (fp32.read false acc) x with
  | some v => (fp32.rnd rneEnv v).1
  | none => fp32.nan

/-- One integer K-group (R318): raw codes, modulo 2^32. -/
def Matrix.groupI (m : Matrix) (o : OpWord) (r c k0 : Nat) (acc : Nat) : Nat :=
  let sum : Int := ((List.range 2).map fun j =>
    signed (m.elem 7 o.as 64 (o.ak0 + k0 + j) r) 8 * signed (m.elem 7 o.bs 32 (o.bk0 + k0 + j) c) 8).sum
  toW 32 (acc + sum)

/-- The new value of a cell (R318). -/
def Matrix.mopCell (m : Matrix) (fmt : Nat) (i32 : Bool) (t : Nat) (w : Word) (r c : Nat) : BitVec 32 :=
  let o := opWord w.toNat
  let g := opGroup fmt
  BitVec.ofNat 32 ((List.range (o.k / g)).foldl (fun acc j =>
    if i32 then m.groupI o r c (j * g) acc else m.group fmt o r c (j * g) acc) (m.cell t r c).toNat)

/-- The cells that a `mop` writes, by place (R318). -/
def Matrix.mopCells (m : Matrix) (fmt : Nat) (i32 : Bool) (t : Nat) (w : Word) : List (Nat × BitVec 32) :=
  (List.range (m.rows t)).flatMap fun r => (List.range (m.cols t)).map fun c => (32 * r + c, m.mopCell fmt i32 t w r c)

/-- Write cells of a tile back. -/
def Matrix.writeBack (m : Matrix) (t : Nat) (l : List (Nat × BitVec 32)) : Matrix :=
  l.foldl (fun m e => m.setCell t (e.1 / 32) (e.1 % 32) e.2) m

/-- What the end of a command does (R312, R313, R318): a `mop` writes what it has computed. -/
def Matrix.run (m : Matrix) (c : MatCmd) : Matrix :=
  match c with
  | .zero t => { m with cells := m.cells.filter fun e => e.1 / 2048 != t }
  | .edge t r c => { m with erows := tset t r m.erows, ecols := tset t c m.ecols }
  | .op _ _ t _ => { m.writeBack t (m.back.getD []) with back := none }

/-- A `mop` begins (R318, R327): it reads its tile and its slots. -/
def Matrix.start (m : Matrix) (c : MatCmd) : Matrix :=
  match c with
  | .op fmt i32 t w => { m with back := some (m.mopCells fmt i32 t w) }
  | _ => m

/-- The command has still to read: a `mop` that has not begun. -/
def Matrix.reads (m : Matrix) (c : MatCmd) : Bool :=
  match c with
  | .op _ _ _ _ => m.back.isNone
  | _ => false

/-- The engine's oldest command may run: no ordering holds it back (R70). -/
def State.matReady (s : State) (ci : Nat) : Bool :=
  match (s.mat ci).queue with
  | (h, seq, _) :: _ => !s.heldBack h strM seq
  | [] => false

/-- MATRIX_CMD_RETIRE (R306, R325, R327): the oldest command runs and retires; a `mop` reads first, and writes and retires when its
event comes again, so that other writes may come between. -/
def execMatrixCmdRetire (s : State) : Out :=
  match s.ev with
  | .matrixCmdRetire ci =>
    match (s.mat ci).queue with
    | (_, _, c) :: rest =>
      if !s.matReady ci then .next (s.due [.matrixCmdRetire ci])
      else if (s.mat ci).reads c then .next ((s.modMat ci fun m => m.start c).due [.matrixCmdRetire ci])
      else .next (s.modMat ci fun m => { m.run c with queue := rest })
    | [] => .next s
  | _ => .next s

/-! ### Status -/

/-- STATUS (R319). -/
def State.matStatus (s : State) : Word :=
  BitVec.ofNat 64 ((if s.matEn s.cur then 1 else 0) + (if s.matOwn s.cur then 2 else 0) + 4 * s.matPending s.cur)

/-- MSTAT_STATUS (R319). -/
def execMstatStatus (rd rs1 : BitVec 5) (s : State) : Out :=
  if (s.x rs1).toNat = 0 then .next (s.retireX rd s.matStatus) else .next (s.matFault 4)

/-- MSTAT_DRAIN (R319). -/
def execMstatDrain (rd rs1 : BitVec 5) (s : State) : Out :=
  if (s.x rs1).toNat ≠ 1 then .next (s.matFault 4)
  else if s.matPending s.cur ≠ 0 then .next (s.wait .commands)
  else .next (s.retireX rd s.matStatus)

/-- MSTAT_EDGE (R319): the edge as the issued commands leave it. -/
def execMstatEdge (rd rs1 : BitVec 5) (s : State) : Out :=
  let t := (s.x rs1).toNat
  if !s.matEn s.cur then .next (s.matFault 2)
  else if t < 2 ∨ 9 < t then .next (s.matFault 4)
  else
    let e := tget (64, 32) (s.mat s.myCore).issuedEdge (t - 2)
    .next (s.retireX rd (BitVec.ofNat 64 (e.1 + 256 * e.2)))

/-! ### Block instructions -/

/-- The faults of a matrix block instruction in its groups (R321, R324): the element is the first of its group. -/
def State.matState (s : State) (h : Nat) (b : Biq) (g : List Nat) (id lsid : Nat) (va : Word) : List BFault :=
  g.map fun j => { code := 12, va := va, elem := 16 * j, lsid := lsid, id := id, lg := (s.placeGroup h b j).1, acc := 0 }

/-- A matrix block instruction of the groups has faulted, or belongs to the sweep of a fault (R162). -/
def State.matEnds (s : State) (h i id : Nat) (b : Biq) (g : List Nat) (bad : List BFault) : Out :=
  .next (s.setEntry h i ((s.faulted h b bad).done (s.groups h b) g id))

/-- The firing hart's engine is not owned and live (R321); with VL = 0 no element group fires. -/
def State.matMissing (s : State) (h : Nat) (b : Biq) : Bool := !s.matEn h && decide (0 < s.entryVl h b)

/-- The cell of an element that takes part (R320). -/
def State.tileElem (s : State) (h : Nat) (b : Biq) (id : Nat) (pm : BitVec 2) (slot : Nat) (col : Bool) (e : Nat) :
    Option (Nat × Nat × Nat) :=
  if !b.enabled id pm e then none
  else (b.operand id 64 slot 0).bind fun sel => (cellOf sel col e).bind fun c =>
    let m := s.mat (coreOf h)
    if c.2.1 < m.rows c.1 ∧ c.2.2 < m.cols c.1 then some c else none

/-- TSMV (R322). -/
def execTsmv (r : RForm) (s : State) : Out :=
  s.fireWith (fun _ _ => false) r.pm [0] fun h i id b g =>
    if b.faults.isEmpty && s.entryHeld h b then .next s
    else if s.matMissing h b then s.matEnds h i id b g (s.matState h b g id 0 0)
    else if !b.faults.isEmpty then s.matEnds h i id b g []
    else
      let m := s.mat (coreOf h)
      let all := s.groups h b
      let vals := overGroups (s.entryVl h b) g fun e =>
        (s.tileElem h b id r.pm 0 (r.reg.toNat.testBit 0) e).map fun c => (m.cell c.1 c.2.1 c.2.2).toNat
      let t := mkTok false true vals
      .next (s.setEntry h i (((b.give all g r.t0.toNat t).give all g (r.t1.toNat * 4) t).done all g id))

/-- The address of an element of `tsld` and `tsst` (R323). -/
def State.tileAddr (s : State) (h : Nat) (b : Biq) (id : Nat) (m : MForm) (e : Nat) : Option Word :=
  match s.tileElem h b id m.pm 1 (m.t0.toNat.testBit 0) e, b.operand id 64 0 0, b.operand id 64 2 0 with
  | some (t, r, c), some base, some pitch =>
    some (wrap64 ((base : Int) + signed m.off.toNat 6 * 4 + ((64 * t + r) * pitch : Nat) + c * 4))
  | _, _, _ => none

/-- `tsld` and `tsst` fire (R323): the checks of R321 and R254, then `k` with the checked elements. -/
def State.fireTile (s : State) (m : MForm) (store : Bool)
    (k : State → Nat → Nat → Nat → Biq → List Nat → List (Option (Word × Check)) → Out) : Out :=
  s.fireWith (fun _ _ => false) m.pm [0, 1, 2] fun h i id b g =>
    if !s.memReady h i b m.lsid.toNat || (store && !s.storeMay h b 4 g) then .next s
    else if s.matMissing h b then s.matEnds h i id b g (s.matState h b g id m.lsid.toNat 0)
    else
      let s := if store then s.storeReserve h b 4 g else s
      let vas := overGroups (s.entryVl h b) g (s.tileAddr h b id m)
      let (s, l) := State.checkElems h b store false none 4 0 vas s
      let bad := s.elemFaults h b id m.lsid.toNat l
      if bad.isEmpty && b.faults.isEmpty then k s h i id b g l else s.matEnds h i id b g bad

/-- TSLD (R323): the cells are written at commit. -/
def execTsld (m : MForm) (s : State) : Out :=
  s.fireTile m false fun s h i id b g l =>
    .next (s.setEntry h i ((s.loadIssued h b [] ⟨id, m.lsid.toNat, g, l.map checkedLoc, 4, none, []⟩).done (s.groups h b) g id))

/-- TSST (R323): the tile is read at fire. -/
def execTsst (m : MForm) (s : State) : Out :=
  s.fireTile m true fun s h i id b g l =>
    let mat := s.mat (coreOf h)
    .next (s.storesIn h i id m.lsid.toNat b g ((List.range l.length).filterMap fun e =>
      match checkedLoc (l.getD e none), s.tileElem h b id m.pm 1 (m.t0.toNat.testBit 0) e with
      | some (va, loc), some c =>
        some (⟨id, m.lsid.toNat, e, va, loc, leBytes 4 (mat.cell c.1 c.2.1 c.2.2).toNat⟩ : BStore)
      | _, _ => none))

/-- OST (R324): the bytes are written at commit. -/
def execOst (r : RForm) (s : State) : Out :=
  s.fireWith (fun _ _ => false) r.pm [0, 1] fun h i id b g =>
    if b.faults.isEmpty && s.entryHeld h b then .next s
    else
      let vl := s.entryVl h b
      let n := sewBits b.vcfg / 8
      if s.matMissing h b then s.matEnds h i id b g (s.matState h b g id 0 0)
      else match b.operand id 64 1 0 with
        | none => s.matEnds h i id b g []
        | some o =>
          if decide (0 < vl) && (o % n != 0 || decide (16384 < o + vl * n)) then
            s.matEnds h i id b g (s.matState h b g id 0 (BitVec.ofNat 64 o))
          else
            let st := (groupElems vl g).filterMap fun e =>
              if b.enabled id r.pm e then
                (b.operand id (8 * n) 0 e).map fun v => Stage.slot id (r.reg.toNat % 32) (o + e * n) (leBytes n v)
              else none
            .next (s.setEntry h i ({ b with staged := b.staged ++ st }.done (s.groups h b) g id))

end Sys2Proof.Machine
end

