-- ==== Sys2Proof/Machine/Texel.lean ====
section
/-! DEFINITION. Texels of block-compressed formats (R261): ETC2, EAC and ASTC in the LDR profile. R261 takes their decoding from the
Khronos Data Format Specification, which stands outside the spec (log entry 10, PRESUMED); the names of fields and modes are that
document's. -/

namespace Sys2Proof.Machine

/-! ### ETC2 and EAC -/

/-- A value held between 0 and `hi`. -/
def clampTo (hi : Int) (x : Int) : Nat := (max 0 (min hi x)).toNat

/-- Two's complement in 3 bits. -/
def signed3 (x : Nat) : Int := if x < 4 then x else (x : Int) - 8

/-- A 4-, 5-, 6- or 7-bit component widened to 8 bits by repeating its top bits. -/
def widen8 (n x : Nat) : Nat := x <<< (8 - n) ||| x >>> (2 * n - 8)

/-- The eight bytes of an ETC or EAC block as one number, the first byte on top. -/
def etcWord (bs : List Byte) : Nat := leNat (bs.take 8).reverse

/-- The modifiers of the individual and differential modes, by code word: the smaller and the larger. -/
def etcModifiers : List (Int × Int) := [(2, 8), (5, 17), (9, 29), (13, 42), (18, 60), (24, 80), (33, 106), (47, 183)]

/-- The distances of the T and H modes. -/
def etcDistances : List Int := [3, 6, 11, 16, 23, 32, 41, 64]

/-- The two-bit index of a pixel; pixels are numbered down the columns. -/
def etcIndex (w x y : Nat) : Nat := bits w (16 + 4 * x + y) 1 * 2 + bits w (4 * x + y) 1

/-- One component `c` of ETC2 RGB. -/
def etcRgb (w x y c : Nat) : Nat :=
  let idx := etcIndex w x y
  let byte (v : Int) : Nat := clampTo 255 v
  -- a pixel of the individual or differential mode, from its sub-block's colour and code word
  let plain (second : Bool) (base : Nat) : Nat :=
    let m := etcModifiers.getD (bits w (if second then 34 else 37) 3) (0, 0)
    let d := if idx % 2 = 0 then m.1 else m.2
    byte ((base : Int) + if idx < 2 then d else -d)
  let second : Bool := if bits w 32 1 = 0 then decide (2 ≤ x) else decide (2 ≤ y)
  let top (k : Nat) : Nat := 56 - 8 * k
  if bits w 33 1 = 0 then
    plain second (bits w (top c + if second then 0 else 4) 4 * 17)
  else
    let other (k : Nat) : Int := (bits w (top k + 3) 5 : Int) + signed3 (bits w (top k) 3)
    let beyond (k : Nat) : Bool := decide (other k < 0 ∨ 31 < other k)
    if beyond 0 then
      -- T mode
      let c1 := ([bits w 59 2 * 4 + bits w 56 2, bits w 52 4, bits w 48 4].getD c 0) * 17
      let c2 := ([bits w 44 4, bits w 40 4, bits w 36 4].getD c 0) * 17
      let d := etcDistances.getD (bits w 34 2 * 2 + bits w 32 1) 0
      match idx with
      | 0 => c1
      | 1 => byte ((c2 : Int) + d)
      | 2 => c2
      | _ => byte ((c2 : Int) - d)
    else if beyond 1 then
      -- H mode
      let r1 := bits w 59 4
      let g1 := bits w 56 3 * 2 + bits w 52 1
      let b1 := bits w 51 1 * 8 + bits w 47 3
      let r2 := bits w 43 4
      let g2 := bits w 39 4
      let b2 := bits w 35 4
      let high := if r2 * 256 + g2 * 16 + b2 ≤ r1 * 256 + g1 * 16 + b1 then 1 else 0
      let d := etcDistances.getD (bits w 34 1 * 4 + bits w 32 1 * 2 + high) 0
      let base := (if idx < 2 then [r1, g1, b1] else [r2, g2, b2]).getD c 0 * 17
      byte ((base : Int) + if idx % 2 = 0 then d else -d)
    else if beyond 2 then
      -- planar mode
      let o : Int := [widen8 6 (bits w 57 6), widen8 7 (bits w 56 1 * 64 + bits w 49 6),
        widen8 6 (bits w 48 1 * 32 + bits w 43 2 * 8 + bits w 39 3)].getD c 0
      let h : Int := [widen8 6 (bits w 34 5 * 2 + bits w 32 1), widen8 7 (bits w 25 7), widen8 6 (bits w 19 6)].getD c 0
      let v : Int := [widen8 6 (bits w 13 6), widen8 7 (bits w 6 7), widen8 6 (bits w 0 6)].getD c 0
      byte (((x : Int) * (h - o) + (y : Int) * (v - o) + 4 * o + 2).fdiv 4)
    else plain second (widen8 5 (if second then (other c).toNat else bits w (top c + 3) 5))

/-- The modifiers of EAC, by table: those of indexes 0 to 3; index k + 4 has the value one below the negation of index k's. -/
def eacModifiers : List (List Int) :=
  [[-3, -6, -9, -15], [-3, -7, -10, -13], [-2, -5, -8, -13], [-2, -4, -6, -13],
   [-3, -6, -8, -12], [-3, -7, -9, -11], [-4, -7, -8, -11], [-3, -5, -8, -11],
   [-2, -6, -8, -10], [-2, -5, -8, -10], [-2, -4, -8, -10], [-2, -5, -7, -10],
   [-3, -4, -7, -10], [-1, -2, -3, -10], [-4, -6, -8, -9], [-3, -5, -7, -9]]

/-- The modifier of a pixel of an EAC block. -/
def eacModifier (w x y : Nat) : Int :=
  let k := bits w (45 - 3 * (4 * x + y)) 3
  let m := (eacModifiers.getD (bits w 48 4) []).getD (k % 4) 0
  if k < 4 then m else -m - 1

/-- A pixel of an 8-bit EAC block: the alpha of ETC2 RGBA8. -/
def eac8 (w x y : Nat) : Nat := clampTo 255 ((bits w 56 8 : Int) + eacModifier w x y * bits w 52 4)

/-- A pixel of an unsigned 11-bit EAC block. -/
def eac11 (w x y : Nat) : Nat :=
  let step : Int := if bits w 52 4 = 0 then 1 else bits w 52 4 * 8
  clampTo 2047 ((bits w 56 8 : Int) * 8 + 4 + eacModifier w x y * step)

/-! ### ASTC: integer sequences -/

/-- A range of an integer sequence: its levels are `radix` (1, 3 or 5) times 2^`low`. -/
structure IseRange where
  radix : Nat
  low : Nat
  deriving DecidableEq, Repr

/-- The ranges in rising order, from 2 to 256 levels. -/
def iseRanges : List IseRange :=
  [⟨1, 1⟩, ⟨3, 0⟩, ⟨1, 2⟩, ⟨5, 0⟩, ⟨3, 1⟩, ⟨1, 3⟩, ⟨5, 1⟩, ⟨3, 2⟩, ⟨1, 4⟩, ⟨5, 2⟩, ⟨3, 3⟩, ⟨1, 5⟩, ⟨5, 3⟩, ⟨3, 4⟩, ⟨1, 6⟩,
   ⟨5, 4⟩, ⟨3, 5⟩, ⟨1, 7⟩, ⟨5, 5⟩, ⟨3, 6⟩, ⟨1, 8⟩]

/-- The bits that `n` values of a range take. -/
def IseRange.length (r : IseRange) (n : Nat) : Nat :=
  n * r.low + (if r.radix = 3 then (8 * n + 4) / 5 else if r.radix = 5 then (7 * n + 2) / 3 else 0)

/-- The five trits of the eight bits `t`. -/
def trits (t : Nat) : List Nat :=
  let full := bits t 2 3 = 7
  let c := if full then bits t 5 3 * 4 + bits t 0 2 else bits t 0 5
  let hi := if full then (2, 2) else if bits t 5 2 = 3 then (bits t 7 1, 2) else (bits t 5 2, bits t 7 1)
  let lo :=
    if bits c 0 2 = 3 then [bits c 3 1 * 2 + bits c 2 1 * (1 - bits c 3 1), bits c 4 1, 2]
    else if bits c 2 2 = 3 then [bits c 0 2, 2, 2]
    else [bits c 1 1 * 2 + bits c 0 1 * (1 - bits c 1 1), bits c 2 2, bits c 4 1]
  lo ++ [hi.1, hi.2]

/-- The three quints of the seven bits `q`. -/
def quints (q : Nat) : List Nat :=
  if bits q 1 2 = 3 ∧ bits q 5 2 = 0 then
    [4, 4, bits q 0 1 * 4 + bits q 4 1 * (1 - bits q 0 1) * 2 + bits q 3 1 * (1 - bits q 0 1)]
  else
    let all := bits q 1 2 = 3
    let c := if all then bits q 3 2 * 8 + (3 - bits q 5 2) * 2 + bits q 0 1 else bits q 0 5
    let q2 := if all then 4 else bits q 5 2
    if bits c 0 3 = 5 then [bits c 3 2, 4, q2] else [bits c 0 3, bits c 3 2, q2]

/-- One value of a sequence: its trit or quint and its low bits. -/
abbrev IseValue := Nat × Nat

/-- Value `k` of the sequence `stream`, whose bits above its length are 0. -/
def IseRange.value (r : IseRange) (stream k : Nat) : IseValue :=
  let n := r.low
  if r.radix = 3 then
    let b := stream >>> (k / 5 * (5 * n + 8))
    let t := bits b n 2 + bits b (2 * n + 2) 2 * 4 + bits b (3 * n + 4) 1 * 16 + bits b (4 * n + 5) 2 * 32 + bits b (5 * n + 7) 1 * 128
    ((trits t).getD (k % 5) 0, bits b ([0, n + 2, 2 * n + 4, 3 * n + 5, 4 * n + 7].getD (k % 5) 0) n)
  else if r.radix = 5 then
    let b := stream >>> (k / 3 * (3 * n + 7))
    let q := bits b n 3 + bits b (2 * n + 3) 2 * 8 + bits b (3 * n + 5) 2 * 32
    ((quints q).getD (k % 3) 0, bits b ([0, n + 3, 2 * n + 5].getD (k % 3) 0) n)
  else (0, bits stream (k * n) n)

/-- The `count` values of a sequence. -/
def IseRange.values (r : IseRange) (stream count : Nat) : List IseValue :=
  (List.range count).map (r.value (stream % 2 ^ r.length count))

/-- A number of `n` bits repeated from the top down to fill `w` bits. -/
def repeatBits (n w x : Nat) : Nat := bits (x * (2 ^ n + 1) * (2 ^ (2 * n) + 1) * (2 ^ (4 * n) + 1)) (8 * n - w) w

/-- A number with the bits of `x` that the list names, the highest place first; `none` is a 0. -/
def spread (x : Nat) (l : List (Option Nat)) : Nat := l.foldl (fun a p => 2 * a + (p.elim 0 fun k => bits x k 1)) 0

/-- The factor C and the places of B of an endpoint range with trits or quints. -/
def endpointScale (r : IseRange) : Nat × List (Option Nat) :=
  let o : Option Nat := none
  match r.radix, r.low with
  | 3, 1 => (204, [])
  | 5, 1 => (113, [])
  | 3, 2 => (93, [some 1, o, o, o, some 1, o, some 1, some 1, o])
  | 5, 2 => (54, [some 1, o, o, o, o, some 1, some 1, o, o])
  | 3, 3 => (44, [some 2, some 1, o, o, o, some 2, some 1, some 2, some 1])
  | 5, 3 => (26, [some 2, some 1, o, o, o, o, some 2, some 1, some 2])
  | 3, 4 => (22, [some 3, some 2, some 1, o, o, o, some 3, some 2, some 1])
  | 5, 4 => (13, [some 3, some 2, some 1, o, o, o, o, some 3, some 2])
  | 3, 5 => (11, [some 4, some 3, some 2, some 1, o, o, o, some 4, some 3])
  | 5, 5 => (6, [some 4, some 3, some 2, some 1, o, o, o, o, some 4])
  | _, _ => (5, [some 5, some 4, some 3, some 2, some 1, o, o, o, some 5])

/-- An endpoint value as a number from 0 to 255. -/
def IseRange.endpoint (r : IseRange) (v : IseValue) : Nat :=
  if r.radix = 1 then repeatBits r.low 8 v.2
  else
    let s := endpointScale r
    let a := if bits v.2 0 1 = 1 then 511 else 0
    let t := (v.1 * s.1 + spread v.2 s.2) ^^^ a
    (a &&& 0x80) ||| (t >>> 2)

/-- The factor C and the places of B of a weight range with trits or quints and bits. -/
def weightScale (r : IseRange) : Nat × List (Option Nat) :=
  let o : Option Nat := none
  match r.radix, r.low with
  | 3, 1 => (50, [])
  | 5, 1 => (28, [])
  | 3, 2 => (23, [some 1, o, o, o, some 1, o, some 1])
  | 5, 2 => (13, [some 1, o, o, o, o, some 1, o])
  | _, _ => (11, [some 2, some 1, o, o, o, some 2, some 1])

/-- A weight as a number from 0 to 64. -/
def IseRange.weight (r : IseRange) (v : IseValue) : Nat :=
  let w :=
    if r.radix = 1 then repeatBits r.low 6 v.2
    else if r.low = 0 then (if r.radix = 3 then [0, 32, 63] else [0, 16, 32, 47, 63]).getD v.1 0
    else
      let s := weightScale r
      let a := if bits v.2 0 1 = 1 then 127 else 0
      let t := (v.1 * s.1 + spread v.2 s.2) ^^^ a
      (a &&& 0x20) ||| (t >>> 2)
  if 32 < w then w + 1 else w

/-! ### ASTC: a block's parts -/

/-- The weight grid of a block: columns, rows, two planes, and the range of a weight. -/
structure AstcGrid where
  cols  : Nat
  rows  : Nat
  dual  : Bool
  range : IseRange
  deriving DecidableEq, Repr

/-- The grid that a block mode names; none for a reserved mode. -/
def astcGrid (m : Nat) : Option AstcGrid :=
  let a := bits m 5 2
  let b := bits m 7 2
  let shape : Option (Nat × Nat × Nat × Bool) :=
    if bits m 0 2 ≠ 0 then
      let r := bits m 0 2 * 2 + bits m 4 1
      match bits m 2 2 with
      | 0 => some (b + 4, a + 2, r, true)
      | 1 => some (b + 8, a + 2, r, true)
      | 2 => some (a + 2, b + 8, r, true)
      | _ => if b < 2 then some (a + 2, b + 6, r, true) else some (b, a + 2, r, true)
    else if bits m 2 2 = 0 then none
    else
      let r := bits m 2 2 * 2 + bits m 4 1
      match b with
      | 0 => some (12, a + 2, r, true)
      | 1 => some (a + 2, 12, r, true)
      | 2 => some (a + 6, bits m 9 2 + 6, r, false)
      | _ => if a = 0 then some (6, 10, r, true) else if a = 1 then some (10, 6, r, true) else none
  shape.map fun x =>
    let high := x.2.2.2 && bits m 9 1 == 1
    ⟨x.1, x.2.1, x.2.2.2 && bits m 10 1 == 1, iseRanges.getD (x.2.2.1 - 2 + if high then 6 else 0) ⟨1, 1⟩⟩

/-- How many weights the grid holds. -/
def AstcGrid.count (g : AstcGrid) : Nat := g.cols * g.rows * if g.dual then 2 else 1

/-- What a block holds beside its weights: the partitions' endpoint modes, the partition index, the endpoint values, and the component
of the second plane. -/
structure AstcColours where
  modes  : List Nat
  seed   : Nat
  ends   : List Nat
  second : Nat
  deriving DecidableEq, Repr

/-- How many values the endpoints of a mode take. -/
def modeValues (m : Nat) : Nat := 2 * (m / 4) + 2

/-- The colours of the block `b`; none where the block is an error. -/
def astcColours (b : Nat) (g : AstcGrid) : Option AstcColours :=
  let parts := bits b 11 2 + 1
  let top := 128 - g.range.length g.count
  let same := parts = 1 ∨ bits b 23 2 = 0
  let extra := if same then 0 else 3 * parts - 4
  let modes :=
    if parts = 1 then [bits b 13 4]
    else if same then List.replicate parts (bits b 25 4)
    else
      let e := bits b 23 6 + bits b (top - extra) extra * 64
      (List.range parts).map fun i => (bits e (2 + i) 1 + bits e 0 2 - 1) * 4 + bits e (2 + parts + 2 * i) 2
  let start := if parts = 1 then 17 else 29
  let n := (modes.map modeValues).sum
  let room := top - extra - (if g.dual then 2 else 0) - start
  if g.dual ∧ parts = 4 ∨ 18 < n then none
  else match (iseRanges.drop 4).reverse.find? fun r => r.length n ≤ room with
    | none => none
    | some r =>
      some ⟨modes, if parts = 1 then 0 else bits b 13 10, (r.values (b >>> start) n).map r.endpoint, bits b (top - extra - 2) 2⟩

/-- The transfer of a bit from an offset to its base: the offset, signed, and the base. -/
def bitTransfer (offset base : Nat) : Int × Int :=
  let o : Int := offset / 2 % 64
  (if 32 ≤ o then o - 64 else o, ((base / 2 + offset / 128 * 128 : Nat) : Int))

/-- Blue contraction of a colour. -/
def contract (r g b a : Int) : List Int := [(r + b).fdiv 2, (g + b).fdiv 2, b, a]

/-- The two endpoints of an LDR mode from its values; none for an HDR mode. -/
def astcEndpoints (mode : Nat) (v : List Nat) : Option (List Nat × List Nat) :=
  let n (k : Nat) : Nat := v.getD k 0
  let i (k : Nat) : Int := n k
  let clamped (x y : List Int) : Option (List Nat × List Nat) := some (x.map (clampTo 255), y.map (clampTo 255))
  let direct (a0 a1 : Int) :=
    if i 0 + i 2 + i 4 ≤ i 1 + i 3 + i 5 then clamped [i 0, i 2, i 4, a0] [i 1, i 3, i 5, a1]
    else clamped (contract (i 1) (i 3) (i 5) a1) (contract (i 0) (i 2) (i 4) a0)
  let offset (a d : Int) :=
    let r := bitTransfer (n 1) (n 0)
    let g := bitTransfer (n 3) (n 2)
    let b := bitTransfer (n 5) (n 4)
    if 0 ≤ r.1 + g.1 + b.1 then clamped [r.2, g.2, b.2, a] [r.2 + r.1, g.2 + g.1, b.2 + b.1, a + d]
    else clamped (contract (r.2 + r.1) (g.2 + g.1) (b.2 + b.1) (a + d)) (contract r.2 g.2 b.2 a)
  let scale (a0 a1 : Int) :=
    clamped [(n 0 * n 3 / 256 : Nat), (n 1 * n 3 / 256 : Nat), (n 2 * n 3 / 256 : Nat), a0] [i 0, i 1, i 2, a1]
  match mode with
  | 0 => clamped [i 0, i 0, i 0, 255] [i 1, i 1, i 1, 255]
  | 1 =>
    let l : Int := (n 0 / 4 + n 1 / 64 * 64 : Nat)
    let m : Int := l + (n 1 % 64 : Nat)
    clamped [l, l, l, 255] [m, m, m, 255]
  | 4 => clamped [i 0, i 0, i 0, i 2] [i 1, i 1, i 1, i 3]
  | 5 =>
    let l := bitTransfer (n 1) (n 0)
    let a := bitTransfer (n 3) (n 2)
    clamped [l.2, l.2, l.2, a.2] [l.2 + l.1, l.2 + l.1, l.2 + l.1, a.2 + a.1]
  | 6 => scale 255 255
  | 8 => direct 255 255
  | 9 => offset 255 0
  | 10 => scale (i 4) (i 5)
  | 12 => direct (i 6) (i 7)
  | 13 =>
    let a := bitTransfer (n 7) (n 6)
    offset a.2 a.1
  | _ => none

/-- The hash behind the partition patterns, in 32 bits. -/
def hash52 (x : BitVec 32) : BitVec 32 :=
  let x := x ^^^ (x >>> 15)
  let x := x - (x <<< 17)
  let x := x + (x <<< 7)
  let x := x + (x <<< 4)
  let x := x ^^^ (x >>> 5)
  let x := x + (x <<< 16)
  let x := x ^^^ (x >>> 7)
  let x := x ^^^ (x >>> 3)
  let x := x ^^^ (x <<< 6)
  x ^^^ (x >>> 17)

/-- The partition of the texel (x, y) of a block of `small` (fewer than 31 texels) or larger footprint. -/
def astcPartition (seed parts : Nat) (small : Bool) (x y : Nat) : Nat :=
  if parts = 1 then 0
  else
    let x := if small then 2 * x else x
    let y := if small then 2 * y else y
    let r := (hash52 (BitVec.ofNat 32 (seed + (parts - 1) * 1024))).toNat
    let one := if bits seed 1 1 = 1 then 4 else 5
    let two := if parts = 3 then 6 else 5
    let sh1 := if bits seed 0 1 = 1 then one else two
    let sh2 := if bits seed 0 1 = 1 then two else one
    let s (k sh : Nat) : Nat := (bits r (4 * k) 4 ^ 2) >>> sh
    let a := (s 0 sh1 * x + s 1 sh2 * y + r >>> 14) % 64
    let b := (s 2 sh1 * x + s 3 sh2 * y + r >>> 10) % 64
    let c := if parts < 3 then 0 else (s 4 sh1 * x + s 5 sh2 * y + r >>> 6) % 64
    let d := if parts < 4 then 0 else (s 6 sh1 * x + s 7 sh2 * y + r >>> 2) % 64
    if b ≤ a ∧ c ≤ a ∧ d ≤ a then 0 else if c ≤ b ∧ d ≤ b then 1 else if d ≤ c then 2 else 3

/-- The weight of the texel (x, y) in plane `p`: the grid's weights interpolated over a footprint of bw × bh. -/
def astcWeight (g : AstcGrid) (weights : List Nat) (bw bh x y p : Nat) : Nat :=
  let gs := ((1024 + bw / 2) / (bw - 1) * x * (g.cols - 1) + 32) / 64
  let gt := ((1024 + bh / 2) / (bh - 1) * y * (g.rows - 1) + 32) / 64
  let fs := gs % 16
  let ft := gt % 16
  let at_ (k : Nat) : Nat := weights.getD (if g.dual then 2 * k + p else k) 0
  let k := gs / 16 + gt / 16 * g.cols
  let w11 := (fs * ft + 8) / 16
  (at_ k * (16 + w11 - fs - ft) + at_ (k + 1) * (fs - w11) + at_ (k + g.cols) * (ft - w11) + at_ (k + g.cols + 1) * w11 + 8) / 16

/-- The 128 bits of `b` in the opposite order. -/
def mirror128 (b : Nat) : Nat := (List.range 128).foldl (fun a k => 2 * a + bits b k 1) 0

/-- A block of one colour: its 16-bit component, or none where the LDR profile calls the block an error: an HDR one, one whose reserved
bits are not ones (a 3-D one reads so), one whose extent is empty. -/
def astcVoid (b c : Nat) : Option Nat :=
  let e (k : Nat) : Nat := bits b (12 + 13 * k) 13
  let whole := (List.range 4).all fun k => e k == 8191
  if bits b 9 1 = 1 ∨ bits b 10 2 ≠ 3 ∨ (whole = false ∧ (e 1 ≤ e 0 ∨ e 3 ≤ e 2)) then none else some (bits b (64 + 16 * c) 16)

/-- The 16-bit component `c` of the texel (x, y) of an ASTC block with footprint bw × bh; none where the error colour stands. -/
def astcTexel (b bw bh : Nat) (srgb : Bool) (x y c : Nat) : Option Nat :=
  if bits b 0 9 = 0x1FC then astcVoid b c
  else match astcGrid (bits b 0 11) with
    | none => none
    | some g =>
      let n := g.range.length g.count
      if 64 < g.count ∨ n < 24 ∨ 96 < n ∨ bw < g.cols ∨ bh < g.rows then none
      else match astcColours b g with
        | none => none
        | some k =>
          let p := astcPartition k.seed k.modes.length (bw * bh < 31) x y
          let first := ((k.modes.take p).map modeValues).sum
          match astcEndpoints (k.modes.getD p 0) (k.ends.drop first) with
          | none => none
          | some (lo, hi) =>
            let weights := (g.range.values (mirror128 b) g.count).map g.range.weight
            let w := astcWeight g weights bw bh x y (if g.dual && c == k.second then 1 else 0)
            let wide (v : Nat) : Nat := v * 256 + if srgb && c != 3 then 128 else v
            some ((wide (lo.getD c 0) * (64 - w) + wide (hi.getD c 0) * w + 32) / 64)

/-- The raw component `c` of a texel of a compressed format of R261, from the bytes of its block and its place in it. -/
def compressedTexel (code bw bh : Nat) (srgb : Bool) (bs : List Byte) (pos c : Nat) : Nat :=
  let x := pos % bw
  let y := pos / bw
  match code with
  | 0x20 => etcRgb (etcWord bs) x y c
  | 0x21 => if c = 3 then eac8 (etcWord bs) x y else etcRgb (etcWord (bs.drop 8)) x y c
  | 0x22 => eac11 (etcWord bs) x y
  | 0x23 => eac11 (etcWord (bs.drop (8 * c))) x y
  | _ => (astcTexel (leNat bs) bw bh srgb x y c).getD (if c = 1 then 0 else 65535)

end Sys2Proof.Machine
end

