-- ==== Sys2Proof/Machine/Texture.lean ====
section
/-! DEFINITION. The texture-and-ray unit (R258 to R278): descriptors, formats, level of detail, filtering, and the box
and triangle tests. An instruction performs an element group's reads when it fires for it (log entry 6). -/

namespace Sys2Proof.Machine

/-! ### Reads of the unit -/

/-- A fault of a unit's read: its code and VA. -/
abbrev UFault := Nat × Word

/-- What a unit's reads give: a value, or every fault among them (R162). -/
abbrev UnitGot (α : Type) := Except (List UFault) α

/-- Two readings of a unit together: the faults of both. -/
def bothGot {α β : Type} (x : UnitGot α) (y : UnitGot β) : UnitGot (α × β) :=
  match x, y with
  | .ok a, .ok b => .ok (a, b)
  | .error f, .ok _ => .error f
  | .ok _, .error g => .error g
  | .error f, .error g => .error (f ++ g)

/-- One read of a unit for a lane group, checked as a load (R277); `sens` for the reads that count as gathers. -/
def State.unitRead (s : State) (h : Nat) (b : Biq) (lg : Nat) (sens : Bool) (va : Word) (n : Nat) : State × UnitGot (List Byte) :=
  match s.checkElem h b lg false sens none va 1 with
  | (s, .ok loc) =>
    if s.isMmio loc then let (s, bs) := s.mmioBytes n; (s, .ok bs)
    else
      let s := s.vectorLines (nodeOf (coreOf h)) loc n
      if s.poisoned loc n then (s.poisonRecord loc, .error [(6, va)]) else (s, .ok (s.peek loc n))
  | (s, .bad c) => (s, .error [(c, va)])

/-! ### Formats -/

/-- A format of R261: bytes per block, footprint, channels, conversion (0 UNORM8, 1 UNORM16, 2 FP16, 3 FP32, 4 the 11-bit
value of EAC, 5 ASTC), compressed, and whether it allows SRGB. -/
structure TexFmt where
  bytes : Nat
  bw    : Nat
  bh    : Nat
  chans : Nat
  conv  : Nat
  comp  : Bool
  srgb  : Bool
  deriving DecidableEq, Repr

/-- The format of a code (R261). -/
def texFmt (c : Nat) : Option TexFmt :=
  match c with
  | 0x01 => some ⟨1, 1, 1, 1, 0, false, false⟩
  | 0x02 => some ⟨2, 1, 1, 2, 0, false, false⟩
  | 0x03 => some ⟨4, 1, 1, 4, 0, false, true⟩
  | 0x04 => some ⟨2, 1, 1, 1, 1, false, false⟩
  | 0x05 => some ⟨4, 1, 1, 2, 1, false, false⟩
  | 0x06 => some ⟨8, 1, 1, 4, 1, false, false⟩
  | 0x08 => some ⟨2, 1, 1, 1, 2, false, false⟩
  | 0x09 => some ⟨4, 1, 1, 2, 2, false, false⟩
  | 0x0A => some ⟨8, 1, 1, 4, 2, false, false⟩
  | 0x0C => some ⟨4, 1, 1, 1, 3, false, false⟩
  | 0x0D => some ⟨8, 1, 1, 2, 3, false, false⟩
  | 0x0E => some ⟨16, 1, 1, 4, 3, false, false⟩
  | 0x20 => some ⟨8, 4, 4, 3, 0, true, true⟩
  | 0x21 => some ⟨16, 4, 4, 4, 0, true, true⟩
  | 0x22 => some ⟨8, 4, 4, 1, 4, true, false⟩
  | 0x23 => some ⟨16, 4, 4, 2, 4, true, false⟩
  | 0x30 => some ⟨16, 4, 4, 4, 5, true, true⟩
  | 0x31 => some ⟨16, 5, 4, 4, 5, true, true⟩
  | 0x32 => some ⟨16, 5, 5, 4, 5, true, true⟩
  | 0x33 => some ⟨16, 6, 5, 4, 5, true, true⟩
  | 0x34 => some ⟨16, 6, 6, 4, 5, true, true⟩
  | 0x35 => some ⟨16, 8, 5, 4, 5, true, true⟩
  | 0x36 => some ⟨16, 8, 6, 4, 5, true, true⟩
  | 0x37 => some ⟨16, 8, 8, 4, 5, true, true⟩
  | _ => none

/-- FP32 one. -/
def f32one : Nat := 0x3F800000

/-- n ÷ d as FP32 (R34). -/
def ratio32 (n d : Nat) : Nat := if n = 0 then 0 else (fp32.rnd rneEnv (divFin false n 0 d 0)).1

/-- The fifth root of a number below 2^(5k), rounded down. -/
def root5 (k n : Nat) : Nat := (List.range k).foldl (fun r i =>
  let t := r + 2 ^ (k - 1 - i)
  if t ^ 5 ≤ n then t else r) 0

/-- The sRGB decoding of an 8-bit code (R35): linear below, else ((200 n + 2805) ÷ 53805)^(12/5). -/
def srgb32 (n : Nat) : Nat :=
  if n * 100000 ≤ 4045 * 255 then ratio32 (n * 100) (1292 * 255)
  else
    let q := (200 * n + 2805) ^ 12 * 2 ^ 400 / 53805 ^ 12
    if n = 255 then f32one else (fp32.rnd rneEnv (.fin false (root5 81 q) (-80) true)).1

/-- A raw value of a channel as FP32 (R261). -/
def convert32 (conv : Nat) (srgb alpha : Bool) (v : Nat) : Nat :=
  match conv with
  | 0 => if srgb && !alpha then srgb32 v else ratio32 v 255
  | 1 => ratio32 v 65535
  | 2 => (fp32.rnd rneEnv (fp16.read false v)).1
  | 3 => if (fp32.read false v).isNan then fp32.nan else v
  | 4 => ratio32 v 2047
  | _ => if srgb then (if alpha then ratio32 (v / 256) 255 else srgb32 (v / 256)) else ratio32 v 65535

/-- Bytes of a channel of an uncompressed format. -/
def chanBytes (conv : Nat) : Nat := match conv with | 0 => 1 | 1 => 2 | 2 => 2 | _ => 4

/-- The four channels of a texel from its bytes; compressed blocks decode as R261's outside standard gives (log entry 10). -/
def texelOf (code : Nat) (f : TexFmt) (srgb : Bool) (bs : List Byte) (pos : Nat) : List Nat :=
  (List.range 4).map fun c =>
    if f.chans ≤ c then (if c = 3 then f32one else 0)
    else
      let raw := if f.comp then
          compressedTexel code f.bw f.bh srgb bs pos c
        else leNat ((bs.drop (c * chanBytes f.conv)).take (chanBytes f.conv))
      convert32 f.conv srgb (c = 3) raw

/-! ### Descriptors -/

/-- A texture descriptor (R260). -/
structure Tex where
  base : Nat
  code : Nat
  fmt  : TexFmt
  lev  : Nat
  srgb : Bool
  w    : Nat
  h    : Nat
  swz  : Nat
  deriving DecidableEq, Repr

/-- A descriptor from its bytes; `none` when it is invalid (R264). -/
def texOf (bs : List Byte) : Option Tex :=
  let at_ (o n : Nat) := leNat ((bs.drop o).take n)
  let w := at_ 12 2
  let h := at_ 14 2
  let flags := at_ 10 1
  let swz := at_ 16 2
  match texFmt (at_ 8 1) with
  | none => none
  | some f =>
    if (flags % 2 = 1 && !f.srgb) || flags / 2 ≠ 0 || at_ 11 1 ≠ 0 || at_ 18 14 ≠ 0 || swz / 4096 ≠ 0 ||
        w = 0 || 16384 < w || h = 0 || 16384 < h || at_ 9 1 = 0 || Nat.log2 (Nat.max w h) + 1 < at_ 9 1 ||
        ((List.range 4).any fun c => decide (6 ≤ bits swz (3 * c) 3)) then none
    else some ⟨at_ 0 8, at_ 8 1, f, at_ 9 1, flags % 2 = 1, w, h, swz⟩

/-- Width of a level. -/
def Tex.wl (t : Tex) (l : Nat) : Nat := Nat.max 1 (t.w >>> l)
/-- Height of a level. -/
def Tex.hl (t : Tex) (l : Nat) : Nat := Nat.max 1 (t.h >>> l)

/-- Round up to a multiple. -/
def roundupTo (n k : Nat) : Nat := (n + k - 1) / k * k

/-- The row pitch of a level (R262). -/
def Tex.pitch (t : Tex) (l : Nat) : Nat := roundupTo ((t.wl l + t.fmt.bw - 1) / t.fmt.bw * t.fmt.bytes) 64

/-- Where a level begins (R262). -/
def Tex.levelAt (t : Tex) (l : Nat) : Nat :=
  t.base + ((List.range l).map fun k => roundupTo (t.pitch k * ((t.hl k + t.fmt.bh - 1) / t.fmt.bh)) 256).sum

/-- The address of the block that holds a texel, and its place in the block. -/
def Tex.texelAt (t : Tex) (l x y : Nat) : Word × Nat :=
  (wrap64 ((t.levelAt l + y / t.fmt.bh * t.pitch l + x / t.fmt.bw * t.fmt.bytes : Nat) : Int),
   y % t.fmt.bh * t.fmt.bw + x % t.fmt.bw)

/-- The swizzle of R260. -/
def Tex.swizzle (t : Tex) (c : List Nat) : List Nat :=
  (List.range 4).map fun i =>
    match bits t.swz (3 * i) 3 with
    | 4 => 0
    | 5 => f32one
    | k => c.getD k 0

/-- A sampler descriptor's word 0 is valid for a texture (R263, R264). -/
def samplerOk (w : Nat) (rest : Nat) (t : Tex) : Bool :=
  w >>> 20 == 0 && rest == 0 && bits w 2 2 != 3 && decide (bits w 4 3 ≤ 3) && decide (bits w 7 3 ≤ 3) &&
    bits w 10 2 != 3 && decide (bits w 12 4 ≤ Nat.min (bits w 16 4) (t.lev - 1))

/-! ### Level of detail and taps -/

/-- An FP32 coordinate in units of 2^-149: NaN reads 0, the value is clamped to ±32768 (R265). -/
def coordOf (x : Nat) : Int :=
  let top : Int := 32768 * (2 ^ 149 : Nat)
  match fp32.read false x with
  | .nan _ => 0
  | .inf n => if n then -top else top
  | .fin n m e _ =>
    let v : Int := (m * 2 ^ (e + 149).toNat : Nat)
    clampInt (if n then -v else v) (-top) top

/-- floor(128 log2 r) of a positive integer. -/
def log128 (r : Nat) : Int := Nat.log2 (r ^ 128)

/-- λ of a quad (R265), in 1/256: `none` is -∞. -/
def quadLod (w h : Nat) (m : List (Int × Int)) : Option Int :=
  let d (i j : Nat) : Nat :=
    let a := m.getD i (0, 0)
    let b := m.getD j (0, 0)
    (((b.1 - a.1) * w) ^ 2 + ((b.2 - a.2) * h) ^ 2).toNat
  let r2 := Nat.max (Nat.max (d 0 1) (d 2 3)) (Nat.max (d 0 2) (d 1 3))
  if r2 = 0 then none else some (log128 r2 - 128 * 298)

/-- The members of an element's quad, a missing one taking the lowest member that has coordinates (R265). -/
def quadOf (coord : Nat → Option (Int × Int)) (e : Nat) : List (Int × Int) :=
  let l := (List.range 4).map fun k => coord (e / 4 * 4 + k)
  let first := (l.findSome? fun x => x).getD (0, 0)
  l.map fun x => x.getD first

/-- The levels of a sample with their weights and the filter: linear or nearest (R265). -/
def levelsOf (smp lev : Nat) (lam : Option Int) : List (Nat × Nat) × Bool :=
  let lmin := bits smp 12 4
  let lmax := Nat.min (bits smp 16 4) (lev - 1)
  match lam with
  | none => ([(lmin, 256)], smp.testBit 0)
  | some x =>
    if x ≤ 0 then ([(lmin, 256)], smp.testBit 0)
    else
      let c := (clampInt x (256 * lmin) (256 * lmax)).toNat
      let ls := match bits smp 2 2 with
        | 0 => [(lmin, 256)]
        | 1 => [((c + 128) / 256, 256)]
        | _ =>
          let d := c / 256
          let f := c % 256
          if f = 0 ∨ d = lmax then [(d, 256)] else [(d, 256 - f), (d + 1, f)]
      (ls, smp.testBit 1)

/-- The taps of one dimension (R266): index and weight. -/
def tapsOf (linear : Bool) (n : Nat) (c : Int) : List (Int × Nat) :=
  let one : Int := (2 ^ 149 : Nat)
  if linear then
    let t := 256 * c * n / one - 128
    let i := t / 256
    let a := (t % 256).toNat
    [(i, 256 - a), (i + 1, a)]
  else [(c * n / one, 256)]

/-- The texel index of a tap under an address mode; `none` is the border (R266). -/
def resolveTap (mode n : Nat) (i : Int) : Option Nat :=
  match mode with
  | 0 => some (i % n).toNat
  | 1 =>
    let m := (i % (2 * n : Nat)).toNat
    some (if m < n then m else 2 * n - 1 - m)
  | 2 => some (clampInt i 0 (n - 1 : Nat)).toNat
  | _ => if 0 ≤ i ∧ i < n then some i.toNat else none

/-- The taps of a sample with nonzero weight: the weight, and the texel, or `none` for the border colour (R266, R267). -/
def sampleTaps (t : Tex) (smp : Nat) (lam : Option Int) (u v : Int) : List (Nat × Option (Nat × Nat × Nat)) :=
  let (ls, linear) := levelsOf smp t.lev lam
  (ls.flatMap fun l =>
    (tapsOf linear (t.hl l.1) v).flatMap fun y =>
      (tapsOf linear (t.wl l.1) u).map fun x =>
        (l.2 * y.2 * x.2,
          match resolveTap (bits smp 4 3) (t.wl l.1) x.1, resolveTap (bits smp 7 3) (t.hl l.1) y.1 with
          | some i, some j => some (l.1, i, j)
          | _, _ => none)).filter fun p => p.1 != 0

/-- The border colour (R263). -/
def borderOf (smp : Nat) : List Nat :=
  match bits smp 10 2 with
  | 0 => [0, 0, 0, 0]
  | 1 => [0, 0, 0, f32one]
  | _ => [f32one, f32one, f32one, f32one]

/-- The filtered value of one channel (R267). -/
def filterChan (l : List (Nat × Nat)) : Nat :=
  let vals := l.map fun p => (p.1, fp32.read false p.2)
  let scaled := vals.map fun p =>
    match p.2 with
    | .fin n m e st => FV.fin n (m * p.1) (e - 24) st
    | v => v
  if scaled.any FV.isNan then fp32.nan
  else
    match scaled with
    | [] => 0
    | x :: r =>
      match r.foldl (fun (a : Option FV) y => a.bind fun z => FV.add 0 z y) (some x) with
      | some v => (fp32.rnd rneEnv v).1
      | none => fp32.nan

/-- FP32 to FP16, to nearest even (R268). -/
def toHalf (x : Nat) : Nat := (fp16.rnd rneEnv (fp32.read false x)).1

/-- The two results of a texel (R268). -/
def placeTexel (osel : Nat) (c : List Nat) : Nat × Nat :=
  match osel with
  | 0 => (toHalf (c.getD 0 0) + 65536 * toHalf (c.getD 1 0), toHalf (c.getD 2 0) + 65536 * toHalf (c.getD 3 0))
  | 1 => (c.getD 0 0, c.getD 1 0)
  | _ => (c.getD 2 0, c.getD 3 0)

/-! ### Firing -/

/-- One element's work in its lane group: a state and its two results, or its faults. -/
abbrev UnitStep := State → State × UnitGot (Nat × Nat)

/-- Run the elements in ascending order, keeping every fault. -/
def unitElems : List (Option UnitStep) → Nat → State → State × List (Option (Nat × Nat)) × List (Nat × UFault)
  | [], _, s => (s, [], [])
  | none :: r, e, s =>
    let (s, l, f) := unitElems r (e + 1) s
    (s, none :: l, f)
  | some k :: r, e, s =>
    match k s with
    | (s, .ok v) =>
      let (s, l, f) := unitElems r (e + 1) s
      (s, some v :: l, f)
    | (s, .error x) =>
      let (s, l, f) := unitElems r (e + 1) s
      (s, none :: l, x.map (fun y => (e, y)) ++ f)

/-- The faults of a unit instruction go to its block; else its two tokens go to their targets. -/
def State.unitDone (s : State) (h i id : Nat) (b : Biq) (g : List Nat) (t : TForm) (l : List (Option (Nat × Nat)))
    (bad : List BFault) : Out :=
  let all := s.groups h b
  if bad.isEmpty && b.faults.isEmpty then
    let t0 := mkTok false true (l.map (·.map (·.1)))
    let t1 := mkTok false true (l.map (·.map (·.2)))
    .next (s.setEntry h i (((b.give all g t.t0.toNat t0).give all g t.t1.toNat t1).done all g id))
  else .next (s.setEntry h i ((s.faulted h b bad).done all g id))

/-- A fault of a uniform read (R264): element 0, no lane group. -/
def uniformFault (b : Biq) (id : Nat) (x : UFault) : BFault :=
  { code := x.1, va := x.2, elem := 0, lsid := 0, id := id, lg := 15, acc := faultRights x.1 b.priv }

/-- A fault of an element's read (R277). -/
def State.unitFault (s : State) (h : Nat) (b : Biq) (id : Nat) (x : Nat × UFault) : BFault :=
  { code := x.2.1, va := x.2.2, elem := x.1, lsid := 0, id := id, lg := (s.place h b x.1).1, acc := faultRights x.2.1 b.priv }

/-- A unit instruction fires for its groups (R259): `setup` makes the uniform reads, `elem` gives an executing element's work in its
lane group. -/
def State.fireUnit (s : State) (t : TForm) (need : List Nat) (setup : Nat → Biq → Nat → Nat → Word → State →
    State × UnitGot (Nat → Nat → UnitStep)) : Out :=
  s.fireWith (fun _ _ => false) t.pm need fun h i id b g =>
    if b.faults.isEmpty && s.entryHeld h b then .next s
    else
      let vl := s.entryVl h b
      let live e := g.contains (e / 16) && b.enabled id t.pm e && need.all fun n => (b.operand id 64 n e).isSome
      if !(List.range vl).any live then s.unitDone h i id b g t ((List.range vl).map fun _ => none) []
      else
        let base := BitVec.ofNat 64 ((b.operand id 64 0 0).getD 0)
        match setup h b id (s.placeGroup h b (g.headD 0)).1 base s with
        | (s, .error x) => s.unitDone h i id b g t [] (x.map (uniformFault b id))
        | (s, .ok elem) =>
          let (s, l, f) := unitElems ((List.range vl).map fun e => if live e then some (elem e (s.place h b e).1) else none) 0 s
          s.unitDone h i id b g t l (f.map (s.unitFault h b id))

/-- Read and check a texture descriptor (R260, R264). -/
def State.readTex (s : State) (h : Nat) (b : Biq) (lg : Nat) (va : Word) : State × UnitGot Tex :=
  if va.toNat % 32 ≠ 0 then (s, .error [(8, va)])
  else match s.unitRead h b lg false va 32 with
    | (s, .error x) => (s, .error x)
    | (s, .ok bs) =>
      match texOf bs with
      | none => (s, .error [(11, va)])
      | some t => if t.base % 256 ≠ 0 then (s, .error [(8, BitVec.ofNat 64 t.base)]) else (s, .ok t)

/-- Read one texel (R261, R262). -/
def State.readTexel (s : State) (h : Nat) (b : Biq) (lg : Nat) (t : Tex) (l x y : Nat) : State × UnitGot (List Nat) :=
  let a := t.texelAt l x y
  match s.unitRead h b lg true a.1 t.fmt.bytes with
  | (s, .error e) => (s, .error e)
  | (s, .ok bs) => (s, .ok (t.swizzle (texelOf t.code t.fmt t.srgb bs a.2)))

/-- Read the taps of a sample. -/
def readTaps (h : Nat) (b : Biq) (lg : Nat) (t : Tex) (smp : Nat) :
    List (Nat × Option (Nat × Nat × Nat)) → State → State × UnitGot (List (Nat × List Nat))
  | [], s => (s, .ok [])
  | (w, tap) :: r, s =>
    let (s, got) := match tap with
      | none => (s, Except.ok (borderOf smp))
      | some (l, x, y) => s.readTexel h b lg t l x y
    let (s, rest) := readTaps h b lg t smp r s
    (s, (bothGot got rest).map fun p => (w, p.1) :: p.2)

/-- TFL (R265 to R269). -/
def execTfl (t : TForm) (lit : BitVec 32) (s : State) : Out :=
  let soff := signed (lit.toNat % 65536) 16
  let lod := signed (bits lit.toNat 16 12) 12
  let quad := t.sub.toNat.testBit 0
  let osel := bits t.sub.toNat 1 2
  s.fireUnit t [0, 1, 2] fun h b id lg base s =>
    let sva := wrap64 ((base.toNat : Int) + soff * 32)
    let (s, tex) := s.readTex h b lg base
    let (s, smp) := s.unitRead h b lg false sva 32
    match bothGot tex smp with
    | .error x => (s, .error x)
    | .ok (tex, bs) =>
      let smp := leNat (bs.take 4)
      if !samplerOk smp (leNat (bs.drop 4)) tex then (s, .error [(11, sva)])
      else
        let vl := s.entryVl h b
        let coord (e : Nat) : Option (Int × Int) :=
          if vl ≤ e then none
          else match b.operand id 32 1 e, b.operand id 32 2 e with
            | some u, some v => some (coordOf u, coordOf v)
            | _, _ => none
        (s, .ok fun e lg s =>
          let c := (coord e).getD (0, 0)
          let lam := if quad then (quadLod tex.w tex.h (quadOf coord e)).map (· + lod) else some lod
          match readTaps h b lg tex smp (sampleTaps tex smp lam c.1 c.2) s with
          | (s, .error x) => (s, .error x)
          | (s, .ok l) =>
            (s, .ok (placeTexel osel ((List.range 4).map fun k => filterChan (l.map fun p => (p.1, p.2.getD k 0))))))

/-- TLD (R270). -/
def execTld (t : TForm) (lit : BitVec 32) (s : State) : Out :=
  let level := lit.toNat % 16
  let osel := bits t.sub.toNat 1 2
  s.fireUnit t [0, 1, 2] fun h b id lg base s =>
    match s.readTex h b lg base with
    | (s, .error x) => (s, .error x)
    | (s, .ok tex) =>
      (s, .ok fun e lg s =>
        let x := signed ((b.operand id 32 1 e).getD 0) 32
        let y := signed ((b.operand id 32 2 e).getD 0) 32
        if level < tex.lev ∧ 0 ≤ x ∧ x < tex.wl level ∧ 0 ≤ y ∧ y < tex.hl level then
          match s.readTexel h b lg tex level x.toNat y.toNat with
          | (s, .error e) => (s, .error e)
          | (s, .ok c) => (s, .ok (placeTexel osel c))
        else (s, .ok (placeTexel osel (tex.swizzle [0, 0, 0, 0]))))

/-! ### Rays -/

/-- The ray of an element (R271): v20 to v27 as FP32 codes. -/
def State.rayOf (s : State) (h i : Nat) (b : Biq) (e : Nat) : List Nat := (List.range 8).map fun k => s.elemV h i b (20 + k) e % 2 ^ 32

/-- No earlier entry will still put a ray register's elements of a group (R155, R271). -/
def State.rayReady (s : State) (h i : Nat) (b : Biq) (j : Nat) : Bool := (List.range 8).all fun k => s.regSettled h i b (isVput (20 + k)) j

/-- An FP32 code as a value. -/
def fv32 (x : Nat) : FV := fp32.read false x

/-- The greater of two values that are no NaN. -/
def FV.max (a b : FV) : FV := if FV.lt false a b then b else a
/-- The lesser. -/
def FV.min (a b : FV) : FV := if FV.lt false b a then b else a

/-- Round to FP32 in a mode. -/
def round32 (rm : Nat) (x : FV) : FV := fv32 (fp32.rnd ⟨rm, false, false⟩ x).1

/-- One axis of a box test (R274): `none` skips the child, else the narrowed interval. -/
def boxAxis (o d mn mx lo hi : FV) : Option (FV × FV) :=
  match d with
  | .fin _ 0 _ _ => if FV.lt false o mn || FV.lt false mx o then none else some (lo, hi)
  | _ =>
    match (FV.add 0 mn o.neg).bind (FV.div · d), (FV.add 0 mx o.neg).bind (FV.div · d) with
    | some (t1, _), some (t2, _) =>
      some (FV.max lo (round32 2 (FV.min t1 t2)), FV.min hi (round32 3 (FV.max t1 t2)))
    | _, _ => some (lo, hi)

/-- The test of one child (R274): its near value when hit. -/
def boxChild (ray : List Nat) (node : List Byte) (k : Nat) : Option FV :=
  let w (o : Nat) := leNat ((node.drop o).take 4)
  let bounds := (List.range 6).map fun j => fv32 (w (0x10 + 0x10 * j + 4 * k))
  let r := ray.map fv32
  let g (l : List FV) (j : Nat) := l.getD j (.nan false)
  if w (4 * k) = 0x7FFFFFFF || bounds.any FV.isNan || r.any FV.isNan then none
  else if (List.range 3).any fun j => FV.lt false (g bounds (3 + j)) (g bounds j) then none
  else
    let res := (List.range 3).foldl (fun (a : Option (FV × FV)) j =>
      a.bind fun x => boxAxis (g r j) (g r (3 + j)) (g bounds j) (g bounds (3 + j)) x.1 x.2) (some (g r 6, g r 7))
    match res with
    | some (lo, hi) => if FV.lt false hi lo then none else some lo
    | none => none

/-- The hit children in order of their near values, ties to the lower (R274). -/
def hitOrder (l : List (Nat × FV)) : List Nat :=
  (l.foldl (fun (a : List (Nat × FV)) x =>
    a.takeWhile (fun y => !FV.lt false x.2 y.2) ++ [x] ++ a.dropWhile (fun y => !FV.lt false x.2 y.2)) []).map (·.1)

/-- The results of `rbox` on a node. -/
def boxResult (ray : List Nat) (node : List Byte) : Nat × Nat :=
  let hits := (List.range 4).filterMap fun k => (boxChild ray node k).map fun t => (k, t)
  let ord := hitOrder hits
  let fields := ((List.range 4).map fun j => ord.getD j 0 * 2 ^ (4 + 2 * j)).sum
  (maskOf ord + fields + ord.length * 4096,
   match ord with | k :: _ => leNat ((node.drop (4 * k)).take 4) | [] => 0xFFFFFFFF)

/-- Read a record of the ray unit. -/
def State.rayRecord (s : State) (h : Nat) (b : Biq) (lg : Nat) (va : Word) (n : Nat) (f : List Byte → Nat × Nat) :
    State × UnitGot (Nat × Nat) :=
  match s.unitRead h b lg true va n with
  | (s, .error x) => (s, .error x)
  | (s, .ok bs) => (s, .ok (f bs))

/-- A ray instruction: records of `size` bytes at base + index * size. -/
def State.fireRay (s : State) (t : TForm) (size : Nat) (f : List Nat → List Byte → Nat × Nat) : Out :=
  let (h, i, _) := s.fire
  if !(match s.entry h i with | some b => s.grp.all (s.rayReady h i b) | none => true) then .next s
  else
    s.fireUnit t [0, 1] fun h b id _ base s =>
      if base.toNat % size ≠ 0 then (s, .error [(8, base)])
      else
        let i := s.fire.2.1
        (s, .ok fun e lg s =>
          let idx := (b.operand id 32 1 e).getD 0
          s.rayRecord h b lg (wrap64 ((base.toNat : Int) + idx * size)) size (f (s.rayOf h i b e)))

/-- RBOX (R274). -/
def execRbox (t : TForm) (s : State) : Out := s.fireRay t 128 boxResult

/-- F32 of an exact value (R275); an exact zero is +0; `none` when the step overflows. -/
def f32step (x : Option FV) : Option FV :=
  match x with
  | some (.fin _ 0 _ false) => some (.fin false 0 0 false)
  | some v => match round32 0 v with | .inf _ => none | .nan _ => none | r => some r
  | none => none

/-- Exact product minus product. -/
def cross2 (a b c d : FV) : Option FV :=
  match FV.mul a b, FV.mul c d with
  | some x, some y => FV.add 0 x y.neg
  | _, _ => none

/-- The sign of a value: -1, 0, 1. -/
def FV.sgn : FV → Int
  | .fin _ 0 _ false => 0
  | .fin n _ _ _ => if n then -1 else 1
  | .inf n => if n then -1 else 1
  | .nan _ => 0

/-- The magnitude. -/
def FV.abs : FV → FV
  | .fin _ m e st => .fin false m e st
  | .inf _ => .inf false
  | v => v

/-- The value is finite. -/
def FV.isFin : FV → Bool
  | .fin _ _ _ _ => true
  | _ => false

/-- A vertex sheared into ray space (R275). -/
def shear (o p : List FV) (kx ky kz : Nat) (sx sy sz : FV) : Option (FV × FV × FV) :=
  let z : FV := .fin false 0 0 false
  let q (k : Nat) := f32step (FV.add 0 (p.getD k z) (o.getD k z).neg)
  match q kx, q ky, q kz with
  | some qx, some qy, some qz =>
    let sub (a s : FV) := f32step ((FV.mul s qz).bind fun y => FV.add 0 a y.neg)
    match sub qx sx, sub qy sy, f32step (FV.mul sz qz) with
    | some x, some y, some w => some (x, y, w)
    | _, _, _ => none
  | _, _, _ => none

/-- The three vertices of a triangle record. -/
def vertices (tri : List Byte) : List (List FV) :=
  (List.range 3).map fun v => (List.range 3).map fun c => fv32 (leNat ((tri.drop (12 * v + 4 * c)).take 4))

/-- The test of R275: t, V, Wd and det of a hit. -/
def triHit (cull : Nat) (ray : List Nat) (tri : List Byte) : Option (FV × FV × FV × FV) :=
  let z : FV := .fin false 0 0 false
  let r := ray.map fv32
  let vs := vertices tri
  let g (j : Nat) := r.getD j z
  if !((r.take 6 ++ vs.flatten).all FV.isFin) || (g 6).isNan || (g 7).isNan then none
  else
    let ad (k : Nat) := (g (3 + k)).abs
    let kz := if !FV.lt false (ad 0) (ad 1) && !FV.lt false (ad 0) (ad 2) then 0
      else if !FV.lt false (ad 1) (ad 2) then 1 else 2
    let d (k : Nat) := g (3 + k)
    if (d kz).sgn = 0 then none
    else
      let k1 := (kz + 1) % 3
      let k2 := (kz + 2) % 3
      let kx := if (d kz).sgn < 0 then k2 else k1
      let ky := if (d kz).sgn < 0 then k1 else k2
      let quot (x : FV) := f32step ((FV.div x (d kz)).map (·.1))
      match quot (d kx), quot (d ky), quot (.fin false 1 0 false) with
      | some sx, some sy, some sz =>
        match vs.map fun p => shear (r.take 3) p kx ky kz sx sy sz with
        | [some (ax, ay, az), some (bx, by_, bz), some (cx, cy, cz)] =>
          match cross2 cx by_ cy bx, cross2 ax cy ay cx, cross2 bx ay by_ ax with
          | some u, some v, some w =>
            let neg := u.sgn < 0 || v.sgn < 0 || w.sgn < 0
            let pos := 0 < u.sgn || 0 < v.sgn || 0 < w.sgn
            match (FV.add 0 u v).bind fun x => FV.add 0 x w with
            | some det =>
              if (neg && pos) || det.sgn = 0 || (cull = 1 && det.sgn < 0) || (cull = 2 && 0 < det.sgn) then none
              else
                let num := (FV.mul u az).bind fun x => (FV.mul v bz).bind fun y => (FV.mul w cz).bind fun q =>
                  (FV.add 0 x y).bind fun t => FV.add 0 t q
                match f32step (num.bind fun n => if n.sgn = 0 then some z else (FV.div n det).map (·.1)) with
                | some t => if FV.lt false t (g 6) || FV.lt false (g 7) t then none else some (t, v, w, det)
                | none => none
            | none => none
          | _, _, _ => none
        | _ => none
      | _, _, _ => none

/-- A barycentric weight in a format; an exact zero is +0. -/
def weightOf (f : Fmt) (v det : FV) : Nat :=
  if v.sgn = 0 then 0 else match FV.div v det with | some (q, _) => (f.rnd rneEnv q).1 | none => 0

/-- The results of `rtri` (R276). -/
def triResult (cull bsel : Nat) (ray : List Nat) (tri : List Byte) : Nat × Nat :=
  match triHit cull ray tri with
  | none => (fp32.inf false, 0)
  | some (t, v, w, det) =>
    ((fp32.rnd rneEnv t).1,
     match bsel with
     | 0 => weightOf fp16 v det + 65536 * weightOf fp16 w det
     | 1 => weightOf fp32 v det
     | _ => weightOf fp32 w det)

/-- RTRI (R275, R276). -/
def execRtri (t : TForm) (s : State) : Out :=
  s.fireRay t 64 (triResult (bits t.sub.toNat 0 2) (bits t.sub.toNat 2 2))

end Sys2Proof.Machine
end

