-- ==== Sys2Proof/Machine/Block.lean ====
section
/-! DEFINITION. Whole blocks (R134 to R168): fetch, the static checks of the format, commit, the record of a fault,
and delivery of a held one. -/

namespace Sys2Proof.Machine

/-! ### Fetch and decode -/

/-- A line of a block image enters the core's block cache (R134, R376). -/
def State.imageLine (s : State) (n l : Nat) : State :=
  s.cleanRead 2 n l

/-- The lines of a block image. -/
def State.imageLines (s : State) (n a len : Nat) : State :=
  if !s.cached a then s.pushFor a else (piecesOf a len).foldl (fun s p => s.imageLine n (lineOf p.1)) s

/-- A fault of the fetch (R97, R163): it records no element, LSID or lane group. -/
def fetchFault (p : Priv) (va : Word) (t : TR) : BFault :=
  let code := match t with | .pageFault => 2 | .contain _ => 10 | _ => 3
  { code := code, va := va, elem := 0, lsid := 0, id := 0, lg := 15, acc := 4 + if p = .u then 8 else 0 }

/-- Fetch bytes of one page of a block image. -/
def State.imageBytes (s : State) (h : Nat) (b : Biq) (va : Word) (len : Nat) : State × (List Byte ⊕ BFault) :=
  match s.blockXlate h b none .fetch va len with
  | (s, .ok loc) =>
    let s := s.imageLines (nodeOf (coreOf h)) loc len
    if s.poisoned loc len then (s.poisonRecord loc, .inr (fetchFault b.priv va .accessFault))
    else (s, .inl (s.peek loc len))
  | (s, t) => (s, .inr (fetchFault b.priv va t))

/-- Fetch a block image (R134): the header pair, then the pairs that NPAIR counts, page by page. -/
def State.blockImage (s : State) (h : Nat) (b : Biq) : State × (List Byte ⊕ BFault) :=
  match s.imageBytes h b b.va 8 with
  | (s, .inr f) => (s, .inr f)
  | (s, .inl hd) =>
    let len := 8 * (bits (leNat hd) 20 6 + 1)
    let room := 4096 - b.va.toNat % 4096
    if len ≤ room then s.imageBytes h b b.va len
    else
      match s.imageBytes h b b.va room with
      | (s, .inr f) => (s, .inr f)
      | (s, .inl x) =>
        match s.imageBytes h b (b.va + BitVec.ofNat 64 room) (len - room) with
        | (s, .inr f) => (s, .inr f)
        | (s, .inl y) => (s, .inl (x ++ y))

/-- The doublewords of an image. -/
def doublewords : Nat → List Byte → List Nat
  | 0, _ => []
  | k + 1, l => leNat (l.take 8) :: doublewords k (l.drop 8)

/-- A format fault (R97, R144): the VA of the pair, no element, LSID or lane group. -/
def formatFault (va : Word) (id : Nat) : BFault :=
  { code := 1, va := va + BitVec.ofNat 64 (8 * (id / 2)), elem := 0, lsid := 0, id := id, lg := 15, acc := 0 }

/-- Decoded blocks in flight on a core (R161). -/
def State.decodedOn (s : State) (ci : Nat) : Nat := ((s.coreBlocks ci).filter fun e => e.2.2.code.isSome && !e.2.2.held).length

/-- An entry has still to read its image (R134): it is not decoded and has not read ahead, or it has read ahead of an ordering that no
longer holds. -/
def State.toFetch (s : State) (h : Nat) (b : Biq) : Bool := if b.early then !s.heldBack h strB b.seq else b.code.isNone

/-- The entry whose image is read next: the oldest that has still to read it, every older one being decoded, while the core has room
for one more decoded block (R161). -/
def State.undecoded (s : State) (h : Nat) : Option (Nat × Biq) :=
  (List.range (s.hart h).biq.length).findSome? fun i =>
    (s.entry h i).bind fun b =>
      if s.toFetch h b && b.faults.isEmpty && !b.held && ((s.hart h).biq.take i).all (·.code.isSome) &&
          (b.code.isSome || decide (s.decodedOn (coreOf h) < 32)) then some (i, b) else none

/-- Captured operands no longer wait for a register that no older entry will write (R104). -/
def settlePend (q : List Biq) : List Biq :=
  q.mapIdx fun j b => { b with pend := b.pend.filter fun r => (q.take j).any fun o => o.mayPut r b.seq }

/-- An image is read and checked whole (R134 to R144): the decoded block, or the fault. -/
def State.decodeEntry (s : State) (h : Nat) (b : Biq) : State × (Code ⊕ BFault) :=
  match s.blockImage h b with
  | (s, .inr f) => (s, .inr f)
  | (s, .inl img) =>
    let ws := doublewords (img.length / 8) img
    match checkBlock s.vpcap.toNat (sewBits b.vcfg) (ws.headD 0) (ws.drop 1) with
    | .inr id => (s, .inr (formatFault b.va id))
    | .inl c => (s, .inl c)

/-- BLOCK_FETCH_DECODE (R134 to R144): the next entry is fetched and checked whole. Where an ordering holds its reads back, what is
read ahead only lets instructions fire that access no memory (R70): the image is read again when the ordering is met, and a fault or
another image then counts (log entry 54). -/
def execBlockFetchDecode (s : State) : Out :=
  match s.ev with
  | .blockFetchDecode h =>
    match s.undecoded h with
    | none => .next s
    | some (i, b) =>
      let ahead := s.heldBack h strB b.seq
      match s.decodeEntry h b with
      | (s, .inr f) =>
        .next (s.setEntry h i (if ahead then { b with early := true } else { b.again with code := none, early := false, faults := [f] }))
      | (s, .inl c) =>
        let s := s.setEntry h i (if b.code = some c then { b with early := ahead } else { b.again with code := some c, early := ahead })
        .next (s.modHart h fun x => { x with biq := settlePend x.biq })
  | _ => .next s

/-! ### Commit -/

/-- The oldest block of a hart may commit (R160): everything has fired and returned, no fault is pending. -/
def Biq.complete (b : Biq) : Bool :=
  !b.held && !b.early && b.faults.isEmpty && b.pends.isEmpty &&
    match b.code with
    | none => false
    | some c => c.instrs.all fun i => b.fired.contains i.1

/-- A staged register becomes the register; an x register that the hart has written since keeps the hart's value
(R105, R160). -/
def Hart.applyStage (x : Hart) (b : Biq) (st : Stage) : Hart :=
  match st with
  | .v r lg pos w => { x with v := tset (regKey r lg pos) w x.v }
  | .p r lg pos w => { x with p := tset (regKey r lg pos) w x.p }
  | .x r w => if b.dropped r then x else { x with x := tset r w x.x }
  | .cell _ _ _ _ _ _ => x
  | .slot _ _ _ _ => x

/-- The matrix effects of a commit in order: cells by LSID, then element (R65, R323); slot bytes by ID (R324). -/
def matStages (l : List Stage) : List Stage :=
  ((List.range 33).map fun n => l.filter fun st => match st with | .cell ls _ _ _ _ _ => ls == n | _ => false).flatten ++
  ((List.range 128).map fun n => l.filter fun st => match st with | .slot id _ _ _ => id == n | _ => false).flatten

/-- One matrix effect. -/
def Matrix.applyStage (m : Matrix) (st : Stage) : Matrix :=
  match st with
  | .cell _ _ t r c v => m.setCell t r c v
  | .slot _ n off bs => m.setSlot n off bs
  | _ => m

/-- The values that a block's puts give x registers, last put last. -/
def xPuts (l : List Stage) : List (Nat × Word) := l.filterMap fun st => match st with | .x r w => some (r, w) | _ => none

/-- A younger block's captured operand takes the value that a block commits, unless the hart had replaced that put when the younger
one was issued (R104, R105). -/
def Biq.capture (b : Biq) (o : Biq) : Biq :=
  { b with capt := (xPuts o.staged).foldl (fun t p =>
      if b.pend.contains p.1 && !(o.xdrop.any fun d => d.1 == p.1 && decide (d.2 ≤ b.seq)) then tset p.1 p.2 t else t) b.capt }

/-- The next strip of a `bloop` (R108), or nothing after the last. -/
def State.nextStrip (s : State) (h : Nat) (b : Biq) : Option Biq :=
  let vl := s.entryVl h b
  if b.isLoop && decide (0 < vl) && decide (b.base + vl < b.n) then
    some { b.again with base := b.base + vl, strip := b.strip + 1, atom := false, ordered := false }
  else none

/-- Stores of a complete block whose homes are cut off from its core: it faults, unless its atomic has fired (R159, R397, R398). -/
def State.lostStores (s : State) (h : Nat) (b : Biq) : List BFault :=
  if b.atom || s.coh.severed.isEmpty then []
  else b.stores.filterMap fun st =>
    if s.unreached (hartDie h) st.pa then
      some { code := if s.coh.severed.contains (hartDie h) then 10 else 7, va := st.va, elem := st.elem, lsid := st.lsid, id := st.id
             lg := (s.place h b st.elem).1, acc := faultRights 7 b.priv }
    else none

/-- A commit waits while a store of the block would cross a link that retrains (R396). -/
def State.commitStuck (s : State) (h : Nat) (b : Biq) : Bool :=
  b.stores.any fun st => s.stuck (hartDie h) st.pa st.bytes.length

/-- The effects of a commit (R160): stores in LSID and element order go onward, registers and matrix state are written,
younger captures are filled, the entry's holds end with its last strip. A store to the MMIO range acts on firmware's registers, which
are no part of the interface (R524, log entry 18). -/
def State.commit (s : State) (h : Nat) (b : Biq) (rest : List Biq) : State :=
  let s := b.stores.foldl (fun s st =>
    if s.isMmio st.pa || s.unreached (hartDie h) st.pa then s else s.vectorWrite (nodeOf (coreOf h)) st.pa st.bytes) s
  let ms := matStages b.staged
  let s := if ms.isEmpty then s else s.modMat (coreOf h) fun m => ms.foldl (·.applyStage ·) m
  let rest := rest.map (·.capture b)
  let next := s.nextStrip h b
  let q := match next with | some b' => b' :: rest | none => rest
  let s := if next.isSome then s else s.freeHolds h (rest.map (·.seq))
  s.modHart h fun x => { b.staged.foldl (fun x st => x.applyStage b st) x with biq := settlePend q }

/-- The oldest block, or strip, of a hart commits, unless its stores fault or wait (R160, R396, R397). -/
def State.commitHead (s : State) (h : Nat) (b : Biq) (rest : List Biq) : State :=
  if !b.complete || s.commitStuck h b then s
  else match s.lostStores h b with
    | [] => s.commit h b rest
    | bad => s.setEntry h 0 (s.faulted h b bad)

/-- BLOCK_COMMIT (R160): the oldest block, or strip, of the hart. -/
def execBlockCommit (s : State) : Out :=
  match s.ev with
  | .blockCommit h =>
    match (s.hart h).biq with
    | b :: rest => .next (s.commitHead h b rest)
    | [] => .next s
  | _ => .next s

/-! ### Faults -/

/-- Fault `a` is recorded before fault `b` (R163): a fetch fault first, then the lower element, LSID, ID. -/
def BFault.before (a b : BFault) : Bool :=
  let f (x : BFault) := x.lg == 15 && x.id == 0 && x.code != 1
  if f a then true
  else if f b then false
  else if a.elem ≠ b.elem then decide (a.elem < b.elem)
  else if a.lsid ≠ b.lsid then decide (a.lsid < b.lsid)
  else decide (a.id ≤ b.id)

/-- The fault that R163 chooses. -/
def chooseFault : List BFault → Option BFault
  | [] => none
  | f :: r => some (r.foldl (fun a b => if a.before b then a else b) f)

/-- The fault CSRs as a recorded fault leaves them (R97). -/
def Hart.recordFault (x : Hart) (b : Biq) (f : BFault) (tries : Nat) : Hart :=
  ((((x.setCs 0x5C0 (BitVec.ofNat 64 (f.code + tries * 65536 + f.lg * 262144))).setCs 0x5C1 f.va).setCs 0x5C2
    (BitVec.ofNat 64 (f.elem + (if b.isLoop then b.strip % 2 ^ 32 else 0) * 2 ^ 32))).setCs 0x5C3
      (BitVec.ofNat 64 (f.lsid + f.id * 256))).setCs 0x5C4 (b.va &&& ~~~(0x3F : Word))

/-- The pages that a parked block asks for: one request per page that faulted, at most 64 (R167, R437). -/
def parkPages (l : List BFault) : List (Nat × Nat) :=
  (((l.filter fun f => f.code == 2 || f.code == 4 || f.code == 5).map fun f => (f.va.toNat / 4096 * 4096, f.acc)).eraseDups).take 64

/-- A fault of the oldest block is recorded (R118, R119, R163 to R165): every block of the hart aborts and is held; a page
fault may be parked. The translations of the faulted attempt are held from here on (R120, R166). No fault aborts a block whose atomic
has fired (R159). -/
def State.blockFaults (s : State) (h : Nat) (b : Biq) (rest : List Biq) : State :=
  match if b.atom then none else chooseFault b.faults with
  | none => s
  | some f =>
    let s := s.holdUsed h b.seq
    let tries := Nat.min 3 (b.tries + 1)
    let park := ((s.hart h).cs csrPfpark).toNat.testBit 0 && (f.code == 2 || f.code == 4 || f.code == 5) && tries != 3
    let b' := { b.again with tries := tries, faults := [f], held := true, park := park }
    let s := s.modHart h fun x =>
      { x.recordFault b f tries with
        held := !park, parked := park, biq := b' :: rest.map fun c => { c.again with held := true } }
    if park then (s.sendPrg (.block h) b.pasid (parkPages b.faults)).1 else s

/-- BLOCK_FAULT (R162 to R166): the sweep of the oldest block has ended. -/
def execBlockFault (s : State) : Out :=
  match s.ev with
  | .blockFault h =>
    match (s.hart h).biq with
    | b :: rest => .next (if b.held then s else s.blockFaults h b rest)
    | [] => .next s
  | _ => .next s

/-- BLOCK_TRAP_DELIVER (R117, R118): a held fault is delivered where it may be. -/
def execBlockTrapDeliver (s : State) : Out :=
  match s.ev with
  | .blockTrapDeliver h => .next (if (s.hart h).faultDue then s.deliverFault h else s)
  | _ => .next s

end Sys2Proof.Machine
end

