-- ==== Sys2Proof/Machine/Cmd.lean ====
section
/-! DEFINITION. Answers of management commands (R501, R502, R504, R505). -/

namespace Sys2Proof.Machine

/-- STATUS OK (R502). -/
def stOk : Nat := 0
/-- STATUS INVALID. -/
def stInvalid : Nat := 1
/-- STATUS NOSPACE. -/
def stNoSpace : Nat := 2
/-- STATUS NOTFOUND. -/
def stNotFound : Nat := 3
/-- STATUS ABSENT. -/
def stAbsent : Nat := 4
/-- STATUS STATE. -/
def stState : Nat := 5
/-- STATUS DRAINTO. -/
def stDrainTo : Nat := 6

/-- ARG `n` of a command. -/
def MCmd.arg (c : MCmd) (n : Nat) : Nat := c.args.getD n 0

/-- The 32 bytes of a response (R501). -/
def responseBytes (status tag r0 r1 : Nat) : List Byte :=
  leBytes 2 status ++ leBytes 2 0 ++ leBytes 4 tag ++ leBytes 8 r0 ++ leBytes 8 r1 ++ leBytes 8 0

/-- A command is done (R501, R504, R507): its response, its place in the queue, the MSI-X event it asked for, and the
answer of a hart that waits in SUBMIT. -/
def State.answer (s : State) (c : MCmd) (status : Nat) (r0 r1 : Nat := 0) : State :=
  let bs := responseBytes status c.tag r0 r1
  let s := { s with fe := { s.fe with cmds := s.fe.cmds.erase c } }
  let s :=
    if c.slot < 256 then
      { s with fe := { s.fe with resp := tset c.slot bs s.fe.resp, busy := s.fe.busy.filter (· != c.slot) } }
    else s.agentWrite (c.pa + 0x80) bs
  let s := match c.hart with
    | some h => (s.modHart h fun x => x.setX 11 (BitVec.ofNat 64 r0)).finish h 10 (BitVec.ofNat 64 status)
    | none => s
  if c.flags % 2 = 1 then s.hostNote 0x47 4 (c.slot * 2 ^ 32 + c.tag) true else s

end Sys2Proof.Machine
end

