-- ==== Sys2Proof/Machine/Hart.lean ====
section
/-! DEFINITION. Core-control instructions of custom-0 that need no other engine: issuing blocks, `bwait`, `bretry`,
`bkill`, the signal instructions, `fence.s` and `lgset`. -/

namespace Sys2Proof.Machine

/-! ### Blocks -/

/-- BX (R106, R107). -/
def execBx (rs1 : BitVec 5) (s : State) : Out :=
  let va := s.x rs1
  if bits (s.me.cs csrVcfg).toNat 16 3 = 0 then .next (s.illegal (wordOf (.bx rs1)))
  else if va.toNat % 64 ≠ 0 then .next (s.cmdFault va)
  else if s.me.slots ≤ s.me.biq.length then .next (s.wait .blocks)
  else .next (s.pushEntry (s.newEntry va false 0)).retire

/-- BLOOP (R106, R108): n = 0 issues nothing. -/
def execBloop (rs1 rs2 : BitVec 5) (s : State) : Out :=
  let va := s.x rs1
  if bits (s.me.cs csrVcfg).toNat 16 3 = 0 then .next (s.illegal (wordOf (.bloop rs1 rs2)))
  else if va.toNat % 64 ≠ 0 then .next (s.cmdFault va)
  else if s.x rs2 = 0 then .next s.retire
  else if s.me.slots ≤ s.me.biq.length then .next (s.wait .blocks)
  else .next (s.pushEntry (s.newEntry va true (s.x rs2).toNat)).retire

/-- BWAIT (R68, R109): the store buffer has drained and every block has committed when it completes, so nothing is left to hold
back. -/
def execBwait (s : State) : Out :=
  if s.me.biq.isEmpty then .next s.retire else .next (s.wait .blocks)

/-- BRETRY (R110). -/
def execBretry (s : State) : Out :=
  if s.me.priv = .u then .next (s.illegal (wordOf .bretry))
  else
    match s.me.heldFault with
    | some (b, f) => .next (s.releaseHeld s.cur (heldCause b f == 26)).retire
    | none => .next s.retire

/-- Parked groups of a hart's blocks no longer concern anyone. -/
def State.forgetParked (s : State) (h : Nat) : State :=
  { s with xlat := { s.xlat with
      prgs := s.xlat.prgs.map fun g => if g.who = .block h then { g with who := .nobody } else g
      parkq := s.xlat.parkq.filter fun p => p.1 != .block h } }

/-- Every uncommitted block is discarded and any held or parked fault cleared (R111); a block or strip whose atomic group has fired
stays to commit, with nothing after it. -/
def State.killBlocks (s : State) (h : Nat) : State :=
  let stay := ((s.hart h).biq.take 1).filter (·.atom)
  ((s.forgetParked h).freeHolds h (stay.map (·.seq))).modHart h fun x =>
    { x with biq := stay.map fun b => { b with n := b.base + s.entryVl h b }, held := false, parked := false, told := false }

/-- BKILL (R111): it completes when the BIQ is empty. -/
def execBkill (s : State) : Out :=
  if s.me.priv = .u then .next (s.illegal (wordOf .bkill))
  else
    let s := s.killBlocks s.cur
    if s.me.biq.isEmpty then .next s.retire else .next (s.wait .blocks)

/-! ### Signal words -/

/-- Memory in which a signal word may lie (R20). -/
def State.signalPlace (s : State) (loc : Nat) : Bool :=
  isLocal loc || ((s.regionAt loc).isNone && match s.backing loc with | .guest _ => false | _ => true)

/-- The word of a signal instruction, or its trap (R20, R113). -/
def State.signalLoc (s : State) (acc : Acc) (va : Word) (k : State → Nat → Out) : Out :=
  if va.toNat % 32 ≠ 0 then .next (s.cmdFault va)
  else s.toLoc acc va 8 fun s loc => if s.signalPlace loc then k s loc else .next (s.cmdFault va)

/-- An update of a signal word: released first, atomic at its arbiter (R21, R112). -/
def State.signalUpdate (s : State) (op : Nat) (rd rs1 rs2 : BitVec 5) : Out :=
  s.signalLoc .store (s.x rs1) fun s loc =>
    if !s.released then .next (s.wait .blocks)
    else
      let (s', old) := (s.releaseAt (vcfgScope (s.me.cs csrVcfg))).atomicAt noNode loc op 8 (s.x rs2).toNat 0
      .next (s'.retireX rd (BitVec.ofNat 64 old))

/-- SIGADD (R112). -/
def execSigadd (rd rs1 rs2 : BitVec 5) (s : State) : Out := s.signalUpdate 11 rd rs1 rs2

/-- SIGOR (R112). -/
def execSigor (rd rs1 rs2 : BitVec 5) (s : State) : Out := s.signalUpdate 12 rd rs1 rs2

/-- A wait on a signal word (R22, R112): it completes when the test holds or the time-out has come, and otherwise
waits for a wake. -/
def State.signalWait (s : State) (test : Word → Word → Bool) (rd rs1 rs2 : BitVec 5) : Out :=
  let op := s.x rs2
  s.signalLoc .load (s.x rs1) fun s loc =>
    let s := s.loadLines noNode loc 8
    if s.poisoned loc 8 then .next ((s.poisonRecord loc).except 5 (s.x rs1))
    else
      let v := BitVec.ofNat 64 (s.peekN loc 8)
      if test v op || s.me.timedOut then .next (s.retireX rd v) else .next (s.wait (.signal loc))

/-- SIGWAIT (R112). -/
def execSigwait (rd rs1 rs2 : BitVec 5) (s : State) : Out := s.signalWait (fun v x => decide (x.toNat ≤ v.toNat)) rd rs1 rs2

/-- SIGWAITM (R112). -/
def execSigwaitm (rd rs1 rs2 : BitVec 5) (s : State) : Out := s.signalWait (fun v x => v &&& x == x) rd rs1 rs2

/-! ### Orderings and lanes -/

/-- FENCE_S (R69, R70): later accesses of `succ` are held back; an empty set orders nothing. What a scope narrower than the observer
leaves open (R17, R72) is ordered here too: every scope holds alike (log entry 51). At system scope posted writes arrive first (R75). -/
def execFenceS (succ pred : BitVec 5) (scope : BitVec 3) (s : State) : Out :=
  if succ = 0 ∨ pred = 0 then .next s.retire
  else .next ((s.releaseAt scope.toNat).hold pred.toNat succ.toNat none).retire

/-- LGSET (R131). -/
def execLgset (rd rs1 rs2 : BitVec 5) (s : State) : Out :=
  let v := (s.x rs2).toNat
  let t := (s.x rs1).toNat
  if s.me.priv = .u ∨ 7 < t ∨ laneRequestLegal v = false ∨ 256 ≤ v then .next (s.illegal (wordOf (.lgset rd rs1 rs2)))
  else
    let h := s.myCore * 8 + t
    let x := s.hart h
    let old := x.lgreq + (if x.excl then 8 else 0) + x.allow * 16
    .next ((s.modHart h fun x => x.setRequest v).retireX rd (BitVec.ofNat 64 old))

end Sys2Proof.Machine
end

