-- ==== Sys2Proof/Machine/Cspec.lean ====
section
/-! DEFINITION. Completion specifiers (R24 to R29, R525, R526): the checks at issue and the firing. -/

namespace Sys2Proof.Machine

/-- KIND of a CSPEC (R24). -/
def cspecKind (c : Nat) : Nat := bits c 0 3
/-- SCOPE of a CSPEC. -/
def cspecScope (c : Nat) : Nat := bits c 3 3
/-- ARG6 of a CSPEC. -/
def cspecArg (c : Nat) : Nat := bits c 6 6
/-- The target VA (R25). -/
def cspecVa (c : Nat) : Word := (BitVec.ofNat 57 (bits c 12 52 * 32)).signExtend 64

/-- A command with this CSPEC faults at issue (R24, R25). -/
def cspecBad (c : Nat) : Bool :=
  let k := cspecKind c
  if k = 0 then false
  else decide (4 < k) || decide (4 < cspecScope c) || (decide (3 ≤ k) && cspecArg c != 0) || (k == 4 && bits c 12 2 != 0)

/-- A firing failed (R526, R511): the record CSPECFAIL with the check that failed. -/
def State.cspecFail (s : State) (cx : Cx) (c check : Nat) : State :=
  s.errorRecord { code := 0x1B, sev := 1, unit := 5, die := cx.die, pasid := cx.wpasid, va := (cspecVa c).toNat
                  detail := cspecKind c + check * 256 }

/-- Memory in which a dependence record may lie (R359). -/
def State.recordPlace (s : State) (loc : Nat) : Bool :=
  !isLocal loc && match s.backing loc with | .gddr _ => true | .stier _ => true | _ => false

/-- A location lies in a round region. -/
def State.inRegion (s : State) (loc : Nat) : Bool := !isLocal loc && (s.regionAt loc).isSome

/-- The scope of a firing: a hub engine's narrowest is device (R17). -/
def Cx.scope (cx : Cx) (c : Nat) : Nat := if cx.die = 4 then Nat.max 3 (cspecScope c) else cspecScope c

/-- Fire a completion under the context of its command (R26, R73, R526): `sel` is the bit of an OR. The second result says
whether the firing passed its checks. -/
def State.fireCspec (s : State) (cx : Cx) (c sel : Nat) : State × Bool :=
  let k := cspecKind c
  if k = 0 then (s, true)
  else
    let s := s.releaseAt (cspecScope c)
    match s.xlateRange cx (if k = 3 then .load else .store) (cspecVa c) (if k = 4 then 128 else 8) with
    | (s, .pageFault) => (s.cspecFail cx c 1, false)
    | (s, .ok loc) =>
      if k = 3 then
        match s.regionDesc loc cx.wpasid with
        | some (rid, g) => if cx.scope c < g.scope then (s.cspecFail cx c 6, false) else (s.publish rid (.cspec (cspecVa c).toNat), true)
        | none =>
          (s.errorRecord { code := 0x14, sev := 1, unit := 5, die := s.homeDie loc, pasid := cx.wpasid
                           va := (cspecVa c).toNat, detail := (cspecVa c).toNat }, false)
      else if s.inRegion loc then (s.cspecFail cx c 3, false)
      else if k = 4 then
        if s.recordPlace loc then (s.due [.depDecrement loc], true)
        else (s.cspecFail cx c (if s.signalPlace loc then 5 else 4), false)
      else if !s.signalPlace loc then (s.cspecFail cx c 4, false)
      else if k = 1 then ((s.atomicAt noNode loc 11 8 (cspecArg c + 1) 0).1, true)
      else ((s.atomicAt noNode loc 12 8 (1 <<< sel) 0).1, true)
    | (s, _) => (s.cspecFail cx c 2, false)

/-- Fire the completion of a command that is no copy: an OR sets bit ARG6. -/
def State.fireOnce (s : State) (cx : Cx) (c : Nat) : State × Bool := s.fireCspec cx c (cspecArg c)

end Sys2Proof.Machine
end

