-- ==== Sys2Proof/Machine/Copy.lean ====
section
/-! DEFINITION. The copy streamers (R280 to R298): issue, chunks, landing, faults, retry and abandonment. -/

namespace Sys2Proof.Machine

/-! ### Extents -/

/-- A copy belongs to the instance of a hart, or to the hart itself where no instance runs (R298). -/
def Copy.mine (c : Copy) (h : Nat) (inst : Option Nat) : Bool := c.inst == inst && (inst.isSome || c.hart == h)

/-- Bytes moved in all (R286). -/
def Copy.total (c : Copy) : Nat := c.rows * c.len

/-- The number of chunks N (R286). -/
def chunksOf (t : Nat) : Nat := (t + 511) / 512

/-- Chunks of a copy. -/
def Copy.chunks (c : Copy) : Nat := chunksOf c.total

/-- The extent of rows: lowest byte and the length up to the highest (R289). -/
def extentOf (base : Word) (rows len : Nat) (pitch : Int) : Int × Int :=
  let last := (rows - 1 : Nat) * pitch
  (base.toNat + min 0 last, len + (if last < 0 then -last else last))

/-- Two extents meet, as addresses modulo 2^64. -/
def extentsMeet (a b : Int × Int) : Bool :=
  [-(2 ^ 64 : Int), 0, 2 ^ 64].any fun k => decide (a.1 + k < b.1 + b.2) && decide (b.1 < a.1 + k + a.2)

/-- The pieces of one row or more between copy-order bytes `k` and `k + n`: source, destination, length (R286). -/
def copyPieces (c : Copy) : Nat → Nat → Nat → List (Word × Word × Nat)
  | 0, _, _ => []
  | f + 1, k, n =>
    if n = 0 then []
    else
      let r := k / c.len
      let o := k % c.len
      let m := Nat.min n (c.len - o)
      (c.src + wrap64 (r * c.spitch) + BitVec.ofNat 64 o,
        (if c.slot.isSome then c.dst + BitVec.ofNat 64 k else c.dst + wrap64 (r * c.dpitch) + BitVec.ofNat 64 o), m) ::
        copyPieces c f (k + m) (n - m)

/-- The pieces of a chunk. -/
def Copy.pieces (c : Copy) (k : Nat) : List (Word × Word × Nat) :=
  copyPieces c 513 (k * 512) (Nat.min 512 (c.total - k * 512))

/-- A range of addresses meets an extent. -/
def pieceMeets (va : Word) (n : Nat) (e : Int × Int) : Bool := extentsMeet (va.toNat, n) e

/-- The destination extent of a chunk in memory, from its lowest to its highest byte: the rows that it touches (R289, R290). -/
def Copy.dstExt (c : Copy) (k : Nat) : Int × Int :=
  let n := Nat.min 512 (c.total - k * 512)
  let first := k * 512 / c.len
  let last := (k * 512 + n - 1) / c.len
  if first = last then (c.dst.toNat + (first : Int) * c.dpitch + (k * 512 % c.len : Nat), n)
  else
    let ends := (c.pieces k).zipIdx.map fun p =>
      let row := (first + p.2 : Nat)
      let lo : Int := (row : Int) * c.dpitch + (if p.2 = 0 then (k * 512 % c.len : Nat) else 0 : Nat)
      (lo, lo + p.1.2.2)
    let lo := ends.foldl (fun m e => min m e.1) ((ends.map (·.1)).headD 0)
    let hi := ends.foldl (fun m e => max m e.2) ((ends.map (·.2)).headD 0)
    (c.dst.toNat + lo, hi - lo)

/-- The source extent of a whole copy. -/
def Copy.srcExt (c : Copy) : Int × Int := extentOf c.src c.rows c.len c.spitch

/-- The destination of chunk `k` of a new copy meets that of an earlier one: both in memory, or both in one slot. -/
def dstMeets (c o : Copy) (k : Nat) : Bool :=
  match c.slot, o.slot with
  | none, none => extentsMeet (c.dstExt k) (extentOf o.dst o.rows o.len o.dpitch)
  | some a, some b => a == b && extentsMeet (c.dst.toNat + k * 512, Nat.min 512 (c.total - k * 512)) (o.dst.toNat, o.total)
  | _, _ => false

/-- A chunk waits for an earlier overlapping copy of the hart's C stream (R290). -/
def Copy.waitsFor (c o : Copy) (k : Nat) : Bool :=
  c.mine o.hart o.inst && decide (o.stamp < c.stamp) && o.state != .done &&
    (dstMeets c o k || (c.slot.isNone && extentsMeet (c.dstExt k) o.srcExt) ||
      (o.slot.isNone && (c.pieces k).any fun p => pieceMeets p.1 p.2.2 (extentOf o.dst o.rows o.len o.dpitch)))

/-- A chunk may start now (R70, R290, R291): its copy runs without a fault, nothing holds it back. -/
def State.chunkReady (s : State) (id k : Nat) : Bool :=
  match s.copies.lookup id with
  | some c =>
    c.state == .running && c.code == 0 && !s.heldCommand c.hart c.inst strC c.seq &&
      (!c.rel || s.quiet c.hart c.inst (strS + strB) c.seq) && !(s.copies.any fun o => c.waitsFor o.2 k)
  | none => true

/-! ### Issue -/

/-- The streamer that owns a location (R281): slices count from 0, host ports from 400, second-tier ports from 410. -/
def State.streamerOf (s : State) (loc : Nat) : Nat :=
  if isLocal loc then dieOf (localCore loc) * 80 + localCore loc % 128 % 80
  else match s.backing loc with
    | .gddr _ => s.homeSlice (lineOf loc)
    | .guest _ => s.homeSlice (lineOf loc)
    | .stier p => 410 + p
    | .host h => 400 + winPort (s.hostWin h)
    | .peer p _ => 400 + tget 0 s.host.peers p
    | _ => 400

/-- The context of a copy's accesses, as captured at issue, at a streamer (R280, R525): the command's PASID, with the rights of
the level that issued it (R427). -/
def Copy.cx (c : Copy) (unit : Nat) : Cx :=
  { unit := unit, core := some c.core, hart := some c.hart, pasid := some c.pasid
    wpasid := c.pasid, satp := 0, priv := c.priv, sum := c.sum, mxr := c.mxr, die := dieOf c.core }

/-- The command that the operands of `cpy` or `cpy2` make, with nothing moved yet (R283 to R286). -/
def State.newCopy (s : State) (two : Bool) (dst src ctl : Word) : Copy :=
  let h := s.me
  let shape := (h.cs csrCpyshape).toNat
  let slot := bits ctl.toNat 34 2 == 1
  { hart := s.cur, inst := h.inst, core := s.myCore, eng := s.myCore, seq := h.seq, tag := h.ctag, pasid := s.pasidOf s.cur
    priv := h.priv, sum := h.sumBit, mxr := h.mxrBit, src := src, dst := dst
    len := bits ctl.toNat 0 32, rows := if two then bits shape 0 20 else 1
    spitch := if two then signed (bits shape 20 22) 22 else 0, dpitch := if two then signed (bits shape 42 22) 22 else 0
    slot := if slot then some (bits ctl.toNat 36 5) else none, cspec := h.cs csrCpyspec
    acq := bit ctl.toNat 32, rel := bit ctl.toNat 33, park := (h.cs csrPfpark).toNat.testBit 0
    state := .running, started := [], landed := [], fchunk := 0, code := 0, faddr := 0, pflag := false
    stamp := s.tqe.stamp
    put := (((h.inst.bind fun i => s.tqe.insts.lookup i).bind fun t => s.tqe.pkts.lookup t.pk).map (·.seq)).getD 0 }

/-- The checks of R285 and R287 at issue. -/
def State.copyBad (s : State) (two : Bool) (ctl : Word) (c : Copy) : Bool :=
  let dkind := bits ctl.toNat 34 2
  c.len == 0 || decide (1 < dkind) || bits ctl.toNat 41 23 != 0 || (dkind == 0 && bits ctl.toNat 36 5 != 0) ||
    (two && (c.rows == 0 || decide (2 ^ 32 ≤ c.total))) ||
    cspecBad c.cspec.toNat || (cspecKind c.cspec.toNat == 2 && decide (64 < cspecArg c.cspec.toNat + c.chunks)) ||
    (if c.slot.isSome then
      decide (16384 ≤ c.dst.toNat) || c.dst.toNat % 64 != 0 || decide (16384 < c.dst.toNat + c.total) || c.dpitch != 0 ||
        !s.matEn c.hart
     else extentsMeet c.srcExt (extentOf c.dst c.rows c.len c.dpitch))

/-- Copies of an instance that are not completed or abandoned (R293). -/
def State.openCopies (s : State) (h : Nat) : Nat := (s.copies.filter fun c => c.2.mine h (s.hart h).inst).length

/-- Issue a copy (R285, R286, R291, R293). -/
def State.issueCopy (s : State) (two : Bool) (rd rs1 rs2 rs3 : BitVec 5) : Out :=
  let ctl := s.x rs3
  let c := s.newCopy two (s.x rs1) (s.x rs2) ctl
  if s.copyBad two ctl c then .next (s.cmdFault 0)
  else if 16 ≤ s.openCopies s.cur then .next (s.wait .commands)
  else
    let s := { s with copies := tset c.stamp c s.copies, tqe := { s.tqe with stamp := s.tqe.stamp + 1 } }
    let s := s.due ((List.range c.chunks).map (.copyChunkExecute c.stamp))
    let s := s.modMe fun h => { h with seq := h.seq + 1, ctag := (h.ctag + 1) % 65536 }
    let s := if c.acq then s.hold 0 31 (some (2 * c.stamp)) else s
    .next (s.retireX rd (BitVec.ofNat 64 c.tag))

/-- CPY (R282 to R293). -/
def execCpy (rd rs1 rs2 rs3 : BitVec 5) (s : State) : Out := s.issueCopy false rd rs1 rs2 rs3

/-- CPY2 (R282 to R293). -/
def execCpy2 (rd rs1 rs2 rs3 : BitVec 5) (s : State) : Out := s.issueCopy true rd rs1 rs2 rs3

/-! ### Suspension -/

/-- Change a copy. -/
def State.modCopy (s : State) (id : Nat) (f : Copy → Copy) : State :=
  match s.copies.lookup id with
  | some c => { s with copies := tset id (f c) s.copies }
  | none => s

/-- Copies in the device-wide table (R293). -/
def State.suspended (s : State) : Nat := (s.copies.filter fun c => c.2.state == .suspended).length

/-- A page-request group or a place in the queue for one concerns the copy. -/
def State.copyAsked (s : State) (id : Nat) : Bool :=
  s.xlat.prgs.any (fun g => g.who == .copy id) || s.xlat.parkq.any fun p => p.1 == .copy id

/-- The instance of a copy has ended: the TQE abandons the copy once it stands still (R297). -/
def State.orphan (s : State) (c : Copy) : Bool := match c.inst with | some i => (s.tqe.insts.lookup i).isNone | none => false

/-- The copy is suspended with its record, or stays parked in its streamer while the table is full (R293, R294). -/
def State.suspend (s : State) (id : Nat) (pflag : Bool) : State :=
  let full := decide (4096 ≤ s.suspended)
  let s := s.modCopy id fun c => { c with state := if full then .parked else .suspended, pflag := pflag }
  match s.copies.lookup id with
  | some c => if s.orphan c then s.due [.tqeDispatch (dieOf c.core)] else s
  | none => s

/-- A table entry has freed: the oldest copy that waits for one takes it (R293). -/
def State.tableFreed (s : State) : State :=
  if 4096 ≤ s.suspended then s
  else match s.copies.find? fun c => c.2.state == .parked && c.2.code != 0 && !s.copyAsked c.1 with
    | some c => s.modCopy c.1 fun c => { c with state := .suspended }
    | none => s

/-- A faulted copy all of whose started chunks have landed is parked or suspended (R294). -/
def State.copyStops (s : State) (id : Nat) : State :=
  match s.copies.lookup id with
  | some c =>
    if c.code = 0 || c.state != .running || !(c.started.all c.landed.contains) then s
    else if c.park && !c.pflag && (c.code == 4 || c.code == 5) then
      let rights := (if c.code = 5 then 2 else 1) + (if c.priv = .u then 8 else 0)
      let s := s.modCopy id fun c => { c with state := .parked }
      (s.sendPrg (.copy id) c.pasid [(c.faddr.toNat / 4096 * 4096, rights)]).1
    else s.suspend id c.pflag
  | none => s

/-- The chunks that have neither landed nor are on their way are sent again (R294, R296); a slot is then one of the core on which the
instance runs (R331). -/
def State.resendCopy (s : State) (id : Nat) : State :=
  match s.copies.lookup id with
  | some c =>
    let eng := match c.inst with | some _ => (match s.agentHarts c.hart c.inst with | h :: _ => coreOf h | [] => c.eng) | none => c.eng
    let s := s.modCopy id fun c => { c with state := .running, code := 0, faddr := 0, pflag := false, started := c.landed, eng := eng }
    s.due (((List.range c.chunks).filter fun k => !c.landed.contains k).map (.copyChunkExecute id))
  | none => s

/-- The copy is gone: its chunks that have not landed never land (R297). -/
def State.dropCopy (s : State) (id : Nat) : State :=
  let s : State := { s with
    copies := tdel id s.copies
    agenda := s.agenda.filter fun e => match e with
      | .copyChunkExecute c _ => c != id
      | .chunkLand c _ => c != id
      | _ => true
    xlat := { s.xlat with
      prgs := s.xlat.prgs.map fun g => if g.who = .copy id then { g with who := .nobody } else g
      parkq := s.xlat.parkq.filter fun p => p.1 != .copy id } }
  s.tableFreed

/-! ### Chunks -/

/-- The code of a chunk's fault (R294): `sup` says that a U access met a supervisor page, which is an access fault of a source. -/
def copyCode (store sup : Bool) (t : TR) : Nat :=
  match t with
  | .pageFault => if store then 5 else if sup then 6 else 4
  | .contain _ => 10
  | _ => if store then 7 else 6

/-- A page that refuses a U access for its U bit alone: a supervisor could read it (R294). -/
def State.superPage (s : State) (cx : Cx) (va : Word) : Bool :=
  cx.priv == .u && (s.xlate { cx with mxr := true } .load va).2 == .pageFault &&
    (s.xlate { cx with priv := .s, sum := true, mxr := true } .load va).2 != .pageFault

/-- A chunk faults: the copy starts no further chunk and stops when those on their way have landed (R294). -/
def State.chunkFault (s : State) (id k code : Nat) (va : Word) : State :=
  (s.modCopy id fun c => { c with fchunk := k, code := code, faddr := va }).copyStops id

/-- Translate pieces, in copy order: `none` for a slot destination. -/
def State.pieceLocs (cx : Cx) (acc : Acc) : List (Word × Nat) → State → State × Except (TR × Word) (List (Nat × Nat))
  | [], s => (s, .ok [])
  | p :: r, s =>
    match s.xlateAll cx acc p.1 p.2 with
    | (s, .ok l) =>
      match State.pieceLocs cx acc r s with
      | (s, .ok m) => (s, .ok (l ++ m))
      | e => e
    | e => e

/-- Write bytes over pieces in order. -/
def State.writeLocs (s : State) (l : List (Nat × Nat)) (bs : List Byte) : State :=
  (l.foldl (fun (a : State × List Byte) p => (a.1.agentWrite p.1 (a.2.take p.2), a.2.drop p.2)) (s, bs)).1

/-- The unit of the streamer that owns a chunk; beside the core's own slice where its source has no owner (R281). -/
def State.chunkUnit (s : State) (c : Copy) (k : Nat) : State × Nat :=
  match c.pieces k with
  | p :: _ =>
    match s.xlate (c.cx c.core) .load p.1 with
    | (s, .ok loc) => (s, unitStreamer (s.streamerOf loc))
    | (s, _) => (s, unitStreamer (dieOf c.core * 80 + c.core % 128 % 80))
  | [] => (s, unitStreamer 0)

/-- The first byte of a line that poisons a chunk, as its place in copy order from the chunk's first byte on, with its location. -/
def State.poisonAt (s : State) (l : List (Nat × Nat)) : Option (Nat × Nat) :=
  (l.foldl (fun (a : Nat × Option (Nat × Nat)) p =>
    (a.1 + p.2, a.2.orElse fun _ =>
      ((piecesOf p.1 p.2).find? fun q => s.poisoned q.1 q.2).map fun q => (a.1 + (q.1 - p.1), q.1))) (0, none)).2

/-- The source VA of a byte of a chunk. -/
def pieceVa : List (Word × Word × Nat) → Nat → Word
  | [], _ => 0
  | p :: r, k => if k < p.2.2 then p.1 + BitVec.ofNat 64 k else pieceVa r (k - p.2.2)

/-- A chunk is moved by its streamer (R286, R287, R292, R294): sources and destinations are translated, then the bytes go
over; a chunk whose way takes a link that retrains stays due (R396). -/
def State.moveChunk (s : State) (id k : Nat) (c : Copy) : State :=
  let (s, u) := (s.releaseAt (if c.rel then 4 else 0)).chunkUnit c k
  let cx := c.cx u
  let ps := c.pieces k
  match State.pieceLocs cx .load (ps.map fun p => (p.1, p.2.2)) s with
  | (s, .error (t, va)) => s.chunkFault id k (copyCode false (s.superPage cx va) t) va
  | (s, .ok src) =>
    let s := src.foldl (fun s p => s.loadLines noNode p.1 p.2) s
    match s.poisonAt src with
    | some p => (s.poisonRecord p.2).chunkFault id k 6 (pieceVa ps p.1)
    | none =>
      let bs := (src.map fun p => s.peek p.1 p.2).flatten
      let started (s : State) := (s.modCopy id fun c => { c with started := k :: c.started }).due [.chunkLand id k]
      let late (s : State) (l : List (Nat × Nat)) := l.any fun p => s.stuck cx.die p.1 p.2
      if late s src then s.due [.copyChunkExecute id k]
      else
      match c.slot with
      | some n => started (s.modMat c.eng fun m => m.setSlot n (c.dst.toNat + k * 512) bs)
      | none =>
        match State.pieceLocs cx .store (ps.map fun p => (p.2.1, p.2.2)) s with
        | (s, .error (t, va)) => s.chunkFault id k (copyCode true false t) va
        | (s, .ok dst) => if late s dst then s.due [.copyChunkExecute id k] else started (s.writeLocs dst bs)

/-- COPY_CHUNK_EXECUTE (R281, R286, R290): a chunk that has to wait stays due. -/
def execCopyChunkExecute (s : State) : Out :=
  match s.ev with
  | .copyChunkExecute id k =>
    match s.copies.lookup id with
    | none => .next s
    | some c =>
      if c.state != .running || c.code != 0 || c.started.contains k then .next s
      else if s.chunkReady id k then .next (s.moveChunk id k c)
      else .next (s.due [.copyChunkExecute id k])
  | _ => .next s

/-- A chunk has landed (R288, R294, R296): OR fires for it; with the last one the copy is complete and fires the rest. -/
def State.landChunk (s : State) (id k : Nat) (c : Copy) : State :=
  let cs := c.cspec.toNat
  let u := unitStreamer (dieOf c.core * 80 + c.core % 128 % 80)
  let s := s.modCopy id fun c => { c with landed := k :: c.landed }
  let s := if cspecKind cs = 2 then (s.fireCspec (c.cx u) cs (cspecArg cs + k)).1 else s
  if c.landed.length + 1 = c.chunks then
    (if cspecKind cs = 2 then s else (s.fireOnce (c.cx u) cs).1).dropCopy id
  else s.copyStops id

/-- CHUNK_LAND (R288). -/
def execChunkLand (s : State) : Out :=
  match s.ev with
  | .chunkLand id k =>
    match s.copies.lookup id with
    | some c => .next (if c.started.contains k && !c.landed.contains k then s.landChunk id k c else s)
    | none => .next s
  | _ => .next s

/-! ### cpyq -/

/-- A copy of the issuing instance by its tag (R295). -/
def State.copyOf (s : State) (tag : Nat) : Option (Nat × Copy) :=
  s.copies.find? fun c => c.2.mine s.cur s.me.inst && c.2.tag == tag % 65536

/-- A suspended copy of the issuing instance by its tag. -/
def State.suspendedOf (s : State) (tag : Nat) : Option (Nat × Copy) :=
  match s.copyOf tag with
  | some c => if c.2.state == .suspended then some c else none
  | none => none

/-- `cpyq` with selector `n` (R295); another selector value than the row's is a command fault. -/
def State.cpyq (s : State) (n : Nat) (rs2 : BitVec 5) (k : Out) : Out :=
  if (s.x rs2).toNat = n then k else .next (s.cmdFault 0)

/-- CPYQ_STATE (R295). -/
def execCpyqState (rd rs1 rs2 : BitVec 5) (s : State) : Out :=
  s.cpyq 0 rs2 (.next (s.retireX rd (match s.copyOf (s.x rs1).toNat with
    | none => 0
    | some c => match c.2.state with | .running => 1 | .parked => 2 | .suspended => 3 | .done => 0)))

/-- CPYQ_RETRY (R296). -/
def execCpyqRetry (rd rs1 rs2 : BitVec 5) (s : State) : Out :=
  s.cpyq 1 rs2 (match s.suspendedOf (s.x rs1).toNat with
    | some c => .next (((s.resendCopy c.1).tableFreed).retireX rd 1)
    | none => .next (s.retireX rd 0))

/-- CPYQ_ABANDON (R297). -/
def execCpyqAbandon (rd rs1 rs2 : BitVec 5) (s : State) : Out :=
  s.cpyq 2 rs2 (match s.suspendedOf (s.x rs1).toNat with
    | some c => .next ((s.dropCopy c.1).retireX rd 1)
    | none => .next (s.retireX rd 0))

/-- CPYQ_NEXT (R295). -/
def execCpyqNext (rd rs1 rs2 : BitVec 5) (s : State) : Out :=
  let _ := rs1
  s.cpyq 3 rs2 (.next (s.retireX rd
    (match s.copies.find? fun c => c.2.mine s.cur s.me.inst && c.2.state == .suspended with
    | none => 0
    | some (_, c) =>
      BitVec.ofNat 64 (c.tag + c.code * 2 ^ 16 + (c.chunks - c.landed.length) % 2 ^ 32 * 2 ^ 24 +
        (if c.pflag then 2 ^ 62 else 0) + 2 ^ 63))))

/-- CPYQ_FADDR (R295). -/
def execCpyqFaddr (rd rs1 rs2 : BitVec 5) (s : State) : Out :=
  s.cpyq 4 rs2 (.next (s.retireX rd (match s.suspendedOf (s.x rs1).toNat with | some c => c.2.faddr | none => 0)))

end Sys2Proof.Machine
end

