-- ==== Sys2Proof/Machine/Queue.lean ====
section
/-! DEFINITION. Task queues at rest (R332 to R341, R354, R359 to R364): packet images, the checks of an offered packet, parts
and their storage, status records, completion, owed tickets, overflow lists and the dropping of work. -/

namespace Sys2Proof.Machine

/-! ### Images -/

/-- The `n`-byte little-endian field at an offset of an image. -/
def field (b : List Byte) (o n : Nat) : Nat := leNat ((b.drop o).take n)

/-- A packet image from its 64 bytes (R336). -/
def imageOf (b : List Byte) : Image :=
  { kind := field b 0 1, flags := field b 1 1, slip := field b 2 1, lgreq := field b 3 1, bin := field b 4 2
    savekb := field b 6 2, entry := field b 8 8, arg := field b 0x10 8, base := field b 0x18 8, count := field b 0x20 4
    grain := field b 0x24 4, order := field b 0x28 8, cspec := field b 0x30 8, groups := field b 0x38 8 }

/-- The 64 bytes of a packet image (R336). -/
def Image.bytes (m : Image) : List Byte :=
  leBytes 1 m.kind ++ leBytes 1 m.flags ++ leBytes 1 m.slip ++ leBytes 1 m.lgreq ++ leBytes 2 m.bin ++ leBytes 2 m.savekb ++
    leBytes 8 m.entry ++ leBytes 8 m.arg ++ leBytes 8 m.base ++ leBytes 4 m.count ++ leBytes 4 m.grain ++
    leBytes 8 m.order ++ leBytes 8 m.cspec ++ leBytes 8 m.groups

/-- FLAGS.PREEMPTIBLE. -/
def Image.pre (m : Image) : Bool := bit m.flags 0
/-- FLAGS.STATUS. -/
def Image.status (m : Image) : Bool := bit m.flags 2
/-- FLAGS.TICKETED. -/
def Image.ticketed (m : Image) : Bool := bit m.flags 3
/-- The ticket of a TICKETED packet (R361). -/
def Image.ticket (m : Image) : Nat := m.order % 2 ^ 32

/-- Slices of a packet (R338): a MARKER has none. -/
def Image.slices (m : Image) : Nat :=
  if m.kind = 1 then (m.count + m.grain - 1) / m.grain else if m.kind = 3 then 0 else 1

/-- An address of the own window, which no packet may name (R11, R525). -/
def ownWindowVa (va : Nat) : Bool := decide (0x00FFFE0000000000 ≤ va) && decide (va < 0x00FFFE0000060000)

/-- A packet that breaks a field rule of R337. -/
def imageBad (q : Queue) (m : Image) : Bool :=
  decide (3 < m.kind) || decide (16 ≤ m.flags) ||
  (m.ticketed && (q.gatebase == 0 || q.policy == 2 || decide (2 ≤ m.kind))) ||
  m.slip == 0 || decide (16 < m.slip) || m.lgreq == 0 || decide (4 < m.lgreq) ||
  decide ((bitList q.allow 4).length < m.lgreq) || decide (336 < m.savekb) ||
  (decide (m.kind < 2) && bit m.entry 0) ||
  (if m.kind = 1 then m.count == 0 || m.grain == 0 else m.count != 0 || m.grain != 0) ||
  (q.policy == 1 && decide (2 ^ 32 ≤ m.order)) || (q.policy == 2 && decide (2 ^ 48 ≤ m.order)) ||
  cspecBad m.cspec || (cspecKind m.cspec != 0 && ownWindowVa (cspecVa m.cspec).toNat) ||
  m.groups % 64 != 0 || (m.groups != 0 && decide (2 ≤ m.kind)) || ownWindowVa m.groups

/-- The DETAIL with which an offered packet is refused (R337, R362): 6 GUEST with no guest, 1 a field. -/
def State.packetRefused (s : State) (q : Queue) (m : Image) : Option Nat :=
  if m.kind = 2 && !s.gbnd then some 6 else if imageBad q m then some 1 else none

/-! ### Queues, parts, packets -/

/-- A live queue. -/
def State.queue (s : State) (q : Nat) : Option Queue := s.tqe.queues.lookup q

/-- Change a queue. -/
def State.modQueue (s : State) (q : Nat) (f : Queue → Queue) : State :=
  match s.queue q with
  | some x => { s with tqe := { s.tqe with queues := tset q (f x) s.tqe.queues } }
  | none => s

/-- The part of a queue on a die. -/
def State.qpart (s : State) (q d : Nat) : Part := tget default s.tqe.parts (q * 4 + d)

/-- Change a part. -/
def State.modPart (s : State) (q d : Nat) (f : Part → Part) : State :=
  { s with tqe := { s.tqe with parts := tset (q * 4 + d) (f (s.qpart q d)) s.tqe.parts } }

/-- Change a packet. -/
def State.modPkt (s : State) (pk : Nat) (f : Pkt → Pkt) : State :=
  match s.tqe.pkts.lookup pk with
  | some p => { s with tqe := { s.tqe with pkts := tset pk (f p) s.tqe.pkts } }
  | none => s

/-- Change an instance. -/
def State.modInst (s : State) (i : Nat) (f : Inst → Inst) : State :=
  match s.tqe.insts.lookup i with
  | some t => { s with tqe := { s.tqe with insts := tset i (f t) s.tqe.insts } }
  | none => s

/-- The dies of a mask. -/
def dieList (mask : Nat) : List Nat := bitList mask 4

/-- The lowest die of a queue. -/
def Queue.lowDie (q : Queue) : Nat := (dieList q.dies).headD 0

/-- A die's TQE looks at its parts and cores again. -/
def State.kick (s : State) (d : Nat) : State := if s.agenda.contains (.tqeDispatch d) then s else s.due [.tqeDispatch d]

/-- Every die of a queue looks again. -/
def State.kickAll (s : State) (q : Queue) : State := (dieList q.dies).foldl State.kick s

/-- A packet that has not completed. -/
def Pkt.live (p : Pkt) : Bool := p.owed.isNone

/-- Storage slots of a part (R334). -/
def Queue.cap (q : Queue) : Nat := 2 ^ q.caplog

/-! ### Status records -/

/-- A record of a queue's status queue (R362). -/
def recordBytes (code reason die q seq inst detail : Nat) : List Byte :=
  leBytes 1 code ++ leBytes 1 reason ++ leBytes 1 die ++ leBytes 1 0 ++ leBytes 4 q ++ leBytes 8 seq ++ leBytes 8 inst ++
    leBytes 8 detail

/-- Write a record, or count it lost when the queue is full (R362). -/
def State.status (s : State) (q code reason die seq inst detail : Nat) : State :=
  match s.queue q with
  | none => s
  | some x =>
    if x.statpa = 0 then s
    else
      let s := s.loadLines noNode (x.statpa + 8) 8
      let n := 2 ^ x.statlog
      if (x.wrn + 2 ^ 64 - s.peekN (x.statpa + 8) 8) % 2 ^ 64 = n then
        (s.modQueue q fun x => { x with ovf := x.ovf + 1 }).agentWrite (x.statpa + 16) (leBytes 8 (x.ovf + 1))
      else
        let s := s.agentWrite (x.statpa + 64 + 32 * (x.wrn % n)) (recordBytes code reason die q seq inst detail)
        (s.modQueue q fun x => { x with wrn := x.wrn + 1 }).agentWrite x.statpa (leBytes 8 (x.wrn + 1))

/-- A record of an instance. -/
def State.instStatus (s : State) (i : Nat) (code reason detail : Nat) : State :=
  match s.tqe.insts.lookup i with
  | some t =>
    match s.tqe.pkts.lookup t.pk with
    | some p => s.status p.q code reason t.die p.seq t.iid detail
    | none => s
  | none => s

/-! ### Order within a part -/

/-- Put an element before the first that a test names. -/
def insertBefore {α : Type} (before : α → Bool) (e : α) : List α → List α
  | [] => [e]
  | x :: r => if before x then e :: x :: r else x :: insertBefore before e r

/-- Sort by repeated insertion; equal elements keep their order. -/
def sortBy {α : Type} (lt : α → α → Bool) (l : List α) : List α :=
  l.foldl (fun a e => insertBefore (lt e) e a) []

/-- What orders a packet's entries before its put sequence (R341). -/
def orderKey (q : Queue) (m : Image) : Nat :=
  if q.policy = 1 then m.order % 2 ^ 32 else if q.policy = 2 then m.order % 2 ^ 48 else 0

/-- The key of an entry. -/
def State.entryKey (s : State) (q : Queue) (e : Entry) : Nat :=
  match s.tqe.pkts.lookup e.pk with | some p => orderKey q p.img | none => 0

/-- Add an entry to a part at its place (R341), or directly ahead of its packet's share (R373). -/
def State.addEntry (s : State) (qid d : Nat) (e : Entry) (ahead : Bool) : State :=
  match s.queue qid with
  | none => s
  | some q =>
    let k := s.entryKey q e
    let share (x : Entry) := x.pk == e.pk && x.work == 1
    let later (x : Entry) := decide (k < s.entryKey q x) || (s.entryKey q x == k && decide (e.seq < x.seq))
    (s.modPart qid d fun p =>
      { p with ents := insertBefore (if ahead && p.ents.any share then share else later) e p.ents }).kick d

/-! ### Offering a packet -/

/-- The core of a bin (R349, R513). -/
def State.binCore (s : State) (q : Queue) (b : Nat) : Option Nat :=
  let l := (((List.range 128).filter fun c => q.clust.testBit (c / 8)).flatMap fun c =>
    (dieList q.dies).map fun d => d * 128 + c).filter fun ci => !s.coreOut ci
  l[(b % q.binw + 7 * (b / q.binw)) % l.length]?

/-- The die whose part takes a packet put from a die (R349, R367). -/
def State.partDie (s : State) (q : Queue) (die : Nat) (m : Image) : Nat :=
  if q.mapped then match s.binCore q m.bin with | some c => dieOf c | none => q.lowDie
  else if decide (die < 4) && q.dies.testBit die then die else q.lowDie

/-- A part's lowest free slot. -/
def Part.freeSlot (p : Part) (q : Queue) : Option Nat := leastBelow q.cap fun i => !p.slots.contains i

/-- The PA of a storage slot (R333, R334). -/
def Queue.slotPa (q : Queue) (d slot : Nat) : Nat := q.spa + d * (64 * q.cap) + 64 * slot

/-- A part takes a packet into a slot (R336, R341): the image is stored, the put sequence given, the entry made. -/
def State.accept (s : State) (qid : Nat) (q : Queue) (d slot : Nat) (m : Image) : State :=
  let p := s.qpart qid d
  let pk := s.tqe.stamp
  let pkt : Pkt :=
    { q := qid, die := d, slot := slot, seq := p.seq, img := m, slices := m.slices, shares := [], done := 0, good := 0
      lost := false, begun := false, late := [], paid := false, owed := none, groups := [], members := [], retired := []
      bar := [], recd := 0, detail := 0 }
  let s : State := { s with tqe := { s.tqe with stamp := pk + 1, pkts := tset pk pkt s.tqe.pkts } }
  let s := s.modPart qid d fun p => { p with seq := p.seq + 1, slots := slot :: p.slots.filter (· != slot) }
  let s := s.agentWrite (q.slotPa d slot) m.bytes
  if m.kind = 3 then s.kick d
  else s.addEntry qid d ⟨pk, p.seq, pk, if m.kind = 2 then 0 else 4, 0, m.entry, m.arg, 0, none⟩ false

/-- What becomes of an offered packet. -/
inductive Offer where
  | taken (seq : Nat)
  | full (d : Nat)
  | closed
  | refused (why : Nat)
  deriving DecidableEq, Repr

/-- Offer a packet to a live queue as a put from a die (R335, R337, R360, R367); `late` for the Almanac and dependence
records, which a draining queue still accepts. -/
def State.offer (s : State) (qid : Nat) (q : Queue) (die : Nat) (m : Image) (late : Bool) : State × Offer :=
  match s.packetRefused q m with
  | some w => (s, .refused w)
  | none =>
    if !(q.state == 0 || (late && q.state == 1)) then (s, .closed)
    else
      let d := s.partDie q die m
      let p := s.qpart qid d
      match p.freeSlot q with
      | some i => if p.ovfl.isEmpty then (s.accept qid q d i m, .taken p.seq) else (s, .full d)
      | none => (s, .full d)

/-! ### Completion -/

/-- STATUS of a dependence record (R359). -/
def setRecord (s : State) (pa st link : Nat) : State := s.agentWrite (pa + 0x0C) (leBytes 4 st ++ leBytes 8 link)

/-- The first record of an overflow list takes a free slot (R360); one whose packet cannot be read ends FAULTED, with its FAULT record
(R362), and the next takes it. -/
def State.takeParked (qid : Nat) (q : Queue) (d slot : Nat) : List Nat → State → State
  | [], s => s.modPart qid d fun p => { p with ovfl := [] }
  | pa :: rest, s =>
    if s.poisoned (pa + 0x40) 64 then
      let (s, v) := s.free
      State.takeParked qid q d slot rest (setRecord (s.status qid 8 0 d v.toNat 0 2) pa 4 0)
    else
      let s := s.modPart qid d fun p => { p with ovfl := rest }
      setRecord (s.accept qid q d slot (imageOf (s.peek (pa + 0x40) 64))) pa 2 0

/-- A storage slot frees: the head of the overflow list takes it before any put (R360). -/
def State.slotFrees (s : State) (qid d slot : Nat) : State :=
  match s.queue qid with
  | none => s
  | some q =>
    let s := s.modPart qid d fun p => { p with slots := p.slots.filter (· != slot) }
    (State.takeParked qid q d slot (s.qpart qid d).ovfl s).kick d

/-- A copy of the queue's instances is under way: the record that it may still end with is not written (R297, R363). -/
def State.queueCopies (s : State) (qid : Nat) : Bool := s.copies.any fun c => (c.2.inst.map (· / 2 ^ 52)) == some qid

/-- No packet of a queue is left to complete and no record waits in an overflow list (R363). -/
def State.queueEmpty (s : State) (qid : Nat) : Bool :=
  !(s.tqe.pkts.any fun e => e.2.q == qid && e.2.live) && (List.range 4).all fun d => (s.qpart qid d).ovfl.isEmpty

/-- A queue under destruction that has become empty may be freed (R363). -/
def State.checkEmpty (s : State) (qid : Nat) : State :=
  match s.queue qid with
  | some q =>
    if q.dying && s.queueEmpty qid && !s.agenda.contains (.queueDestroyComplete qid) then s.due [.queueDestroyComplete qid] else s
  | none => s

/-- The record that a packet ends with, and its DETAIL (R340, R354, R362). -/
def Pkt.verdict (p : Pkt) : Option (Nat × Nat) :=
  if p.recd ≠ 0 then some (p.recd, p.detail)
  else if p.lost || decide (p.good < p.slices) then some (2, p.good)
  else if p.img.status then some (1, p.good)
  else none

/-- A packet completes (R340): its CSPEC fires unless its PASID is stopped (R364), its record is written, a ticket still
owed is advanced (R361), and its slot frees. -/
def State.endPacket (s : State) (pk : Nat) : State :=
  match s.tqe.pkts.lookup pk with
  | none => s
  | some p =>
    match s.queue p.q with
    | none => s
    | some q =>
      if !p.live then s
      else
        let (s, ok) := if p.recd = 6 then (s, true) else s.fireOnce (pasidCx (unitTqe p.die) q.pasid p.die) p.img.cspec
        let s := if ok then s else s.status p.q 8 0 p.die p.seq 0 8
        let s := match p.verdict with
          | some (c, d) => s.status p.q c 0 p.die p.seq 0 d
          | none => s
        let s :=
          if p.img.ticketed && !p.paid then
            (s.modPkt pk fun p => { p with owed := some (q.gatebase + 32 * p.img.bin, q.pasid) }).due [.ticketAdvance pk]
          else { s with tqe := { s.tqe with pkts := tdel pk s.tqe.pkts } }
        let s := if p.slot < q.cap then s.slotFrees p.q p.die p.slot else s
        (s.kickAll q).checkEmpty p.q

/-- A packet all of whose slices have ended or were dropped completes. -/
def State.checkDone (s : State) (pk : Nat) : State :=
  match s.tqe.pkts.lookup pk with
  | some p => if p.live && p.img.kind != 3 && decide (p.slices ≤ p.done) then s.endPacket pk else s
  | none => s

/-- The packet ends at launch or for its queue's sake with a record of its own (R340, R355, R364). -/
def State.failPacket (s : State) (pk code detail : Nat) : State :=
  (s.modPkt pk fun p => { p with recd := code, detail := detail }).endPacket pk

/-- Slices of a packet are dropped (R363). -/
def State.dropSlices (s : State) (pk n : Nat) : State :=
  if n = 0 then s else (s.modPkt pk fun p => { p with done := p.done + n, lost := true }).checkDone pk

/-- The first MARKER of a part before which no packet is left (R338): packets are numbered as they are accepted. -/
def State.readyMarker (s : State) (qid d : Nat) : Option Nat :=
  (s.tqe.pkts.find? fun e =>
    e.2.q == qid && e.2.die == d && e.2.live && e.2.img.kind == 3 &&
      !(s.tqe.pkts.any fun f => f.2.q == qid && f.2.die == d && f.2.live && decide (f.1 < e.1))).map (·.1)

/-- A packet that a live queue does not take ends there (R340, log entry 36): its CSPEC fires, unless that is itself at fault or
the PASID is stopped, and its FAULT record follows. -/
def State.refusePacket (s : State) (qid : Nat) (q : Queue) (d : Nat) (m : Image) (why : Nat) : State :=
  let bad := cspecBad m.cspec || (cspecKind m.cspec != 0 && ownWindowVa (cspecVa m.cspec).toNat)
  let (s, ok) := if q.state = 3 || bad then (s, true) else s.fireOnce (pasidCx (unitTqe d) q.pasid d) m.cspec
  let (s, v) := s.free
  let s := if ok then s else s.status qid 8 0 d v.toNat 0 8
  s.status qid 8 0 d v.toNat 0 why

/-- A packet that leaves the Almanac without a put (R363, R364, R368): it holds no slot and no put sequence. -/
def State.endWheel (s : State) (w : Wheel) (code : Nat) : State :=
  let (s, v) := s.free
  let pk := s.tqe.stamp
  let pkt : Pkt :=
    { q := w.q, die := w.die, slot := 2 ^ 32, seq := v.toNat, img := w.img, slices := w.img.slices, shares := [], done := 0, good := 0
      lost := true, begun := false, late := [], paid := false, owed := none, groups := [], members := [], retired := []
      bar := [], recd := if code = 6 then 6 else 0, detail := 0 }
  State.endPacket { s with tqe := { s.tqe with stamp := pk + 1, pkts := tset pk pkt s.tqe.pkts } } pk

/-! ### Endings of instances -/

/-- The record with which a copy is abandoned, in the status queue of its instance (R297, R362). -/
def State.copyRecord (s : State) (c : Copy) (code : Nat) : State :=
  match c.inst with
  | some i => s.status (i / 2 ^ 52) code 0 (i / 2 ^ 50 % 4) c.put i (if code = 6 then 0 else c.tag)
  | none => s

/-- The copies that a test names are abandoned with a record each (R297). -/
def State.abandonCopies (s : State) (code : Nat) (hit : Copy → Bool) : State :=
  (s.copies.filter fun c => hit c.2).foldl (fun s c => (s.copyRecord c.2 code).dropCopy c.1) s

/-- The copies of an instance that stand still are abandoned (R297). -/
def State.endCopies (s : State) (i code : Nat) : State :=
  s.abandonCopies code fun c => c.inst == some i && (c.state != .running || code == 6)

/-- Harts of a core that hold an instance. -/
def State.busyHarts (s : State) (ci : Nat) : List Nat := (coreHarts ci).filter fun h => (s.hart h).inst.isSome

/-- A core that holds no instance and awaits none has no sharing mode (R347). -/
def State.clearMode (s : State) (ci : Nat) : State :=
  if (s.busyHarts ci).isEmpty && (s.core ci).inbox.isEmpty then s.modCore ci fun c => { c with save := none } else s

/-- The hart is free (R365): its blocks, orderings, lanes and matrix engine are given up and it waits for a dispatch. -/
def State.freeHart (s : State) (h : Nat) : State :=
  let ci := coreOf h
  let s := (s.killBlocks h).dropGrant h
  let s := if (s.core ci).mat.owner = some h then s.matRelease ci else s
  let s := (s.drain h).modHart h fun x =>
    { x with inst := none, preempt := none, save := none, resume := none, holds := [], wait := some .task, timedOut := false
             sync := false, told := false }
  let s : State := { s with net := { s.net with fences := s.net.fences.filter fun f => f.hart != h || f.inst.isSome } }
  (s.clearMode ci).kick (dieOf ci)

/-- The save slot of an instance frees (R345, R365). -/
def State.freeSave (s : State) (i : Nat) : State :=
  match s.tqe.insts.lookup i with
  | some t =>
    match t.slot, s.tqe.pkts.lookup t.pk with
    | some n, some p => s.modQueue p.q fun q => { q with slotsUsed := q.slotsUsed.filter (· != n) }
    | _, _ => s
  | none => s

/-- Every member of a group has arrived at its barrier or retired (R114). -/
def Pkt.barMet (p : Pkt) (g : Nat) : Bool :=
  (tget [] p.members g).all fun m => (tget [] p.bar g).contains m || p.retired.contains m

/-- Barriers of a packet that have become complete are released (R114, R356). -/
def State.checkBars (s : State) (pk : Nat) : State :=
  match s.tqe.pkts.lookup pk with
  | some p => s.due ((p.bar.filter fun e => !e.2.isEmpty && p.barMet e.1).map fun e => .gbarRelease pk e.1)
  | none => s

/-- A matrix engine that a placement gave to a resume of the instance is free again (R331). -/
def State.unreserve (s : State) (i : Nat) : State :=
  match s.cores.find? fun e => e.2.mat.resv == some i with
  | some e => s.modMat e.1 fun m => { m with resv := none }
  | none => s

/-- What every ending of an instance does (R365): `code` is that of its copies' records. -/
def State.closeInst (s : State) (i code : Nat) : State :=
  let s := ((s.endCopies i code).freeSave i).unreserve i
  let hart := (s.tqe.insts.lookup i).bind (·.hart)
  let s := { s with tqe := { s.tqe with insts := tdel i s.tqe.insts }
                    orders := s.orders.filter fun o => o.iid != i
                    net := { s.net with fails := s.net.fails.filter fun f => f.1 != i
                                        fences := s.net.fences.filter fun f => f.inst != some i } }
  match hart with
  | some h => s.freeHart h
  | none => s

/-- An instance ends and its slice with it (R340, R354, R365): `good` when it ended at `tqdone`. -/
def State.endInst (s : State) (i : Nat) (good : Bool) (code : Nat) : State :=
  match s.tqe.insts.lookup i with
  | none => s
  | some t =>
    let s := s.closeInst i code
    let s := s.modPkt t.pk fun p =>
      { p with done := p.done + 1, good := if good then p.good + 1 else p.good, lost := p.lost || !good
               retired := t.slice :: p.retired.filter (· != t.slice) }
    (((s.checkBars t.pk).checkDone t.pk).kick t.die).kick t.home

/-- An instance is reported HUNG or LOST (R132, R133) and ends. -/
def State.loseInst (s : State) (i code reason detail : Nat) : State := (s.instStatus i code reason detail).endInst i false 7

/-! ### Destruction -/

/-- An entry leaves its part without running (R363). -/
def State.dropEntry (s : State) (d : Nat) (e : Entry) (code : Nat) : State :=
  match s.tqe.pkts.lookup e.pk with
  | none => s
  | some p =>
    if e.work = 4 then s.dropSlices e.pk p.slices
    else if e.work = 1 then
      let sh := tget (0, 0) p.shares d
      (s.modPkt e.pk fun p => { p with shares := tdel d p.shares }).dropSlices e.pk (sh.2 - sh.1)
    else if e.work = 3 then s.endInst e.inst false code
    else s.dropSlices e.pk 1

/-- Overflow-list records of a part become FAULTED (R363). -/
def State.dropOverflow (s : State) (qid d : Nat) : State :=
  let l := (s.qpart qid d).ovfl
  l.foldl (fun s pa => setRecord s pa 4 0) (s.modPart qid d fun p => { p with ovfl := [] })

/-- Work of a queue that is not running is dropped (R363, R364): the overflow records of all its parts first, so that no slot that
frees takes one; then wheel entries, entries of its parts, its MARKERs and spilled entries; what lies in inboxes too where the PASID
is stopped. `code` is 7, or 6 at a PASID-stop. -/
def State.dropWork (s : State) (qid code : Nat) : State :=
  let s := (List.range 4).foldl (fun s d => s.dropOverflow qid d) s
  let ws := s.tqe.wheel.filter fun w => w.q == qid
  let s : State := { s with tqe := { s.tqe with wheel := s.tqe.wheel.filter fun w => w.q != qid } }
  let s := ws.foldl (fun s w => s.endWheel w code) s
  let s := (List.range 4).foldl (fun s d =>
    let l := (s.qpart qid d).ents
    l.foldl (fun s e => s.dropEntry d e code) (s.modPart qid d fun p => { p with ents := [] })) s
  let s := (s.tqe.pkts.filter fun e => e.2.q == qid && e.2.live && e.2.img.kind == 3).foldl (fun s e =>
    (s.modPkt e.1 fun p => { p with lost := true }).endPacket e.1) s
  (tkeys s.cores).foldl (fun s ci =>
    let c := s.core ci
    let l := c.spilled.filter (·.q == qid) ++ (if code = 6 then c.inbox.filter (·.q == qid) else [])
    let s := s.modCore ci fun c =>
      { c with spilled := c.spilled.filter (·.q != qid), inbox := if code = 6 then c.inbox.filter (·.q != qid) else c.inbox }
    (l.foldl (fun s i => s.dropEntry i.home i.ent code) s).clearMode ci) s

/-- The instances of a queue that hold a hart. -/
def State.running (s : State) (qid : Nat) : List Inst :=
  (s.tqe.insts.filter fun e => e.2.hart.isSome && match s.tqe.pkts.lookup e.2.pk with | some p => p.q == qid | none => false).map (·.2)

/-- Messages from the bridge to the guest (R486): TYPE, PASID, TAG, body words. -/
def State.toGuest (s : State) (m : List Nat) : State := { s with guest := { s.guest with sent := s.guest.sent ++ [m] } }

/-- The running guest instances of a queue are told to end at once: PREEMPT with MODE DISCARD (R489). -/
def State.guestDrop (s : State) (qid : Nat) : State :=
  let mine := s.tqe.insts.filter fun e => e.2.guest && !e.2.saved && !s.guest.preempts.contains e.1 &&
    match s.tqe.pkts.lookup e.2.pk with | some p => p.q == qid | none => false
  mine.foldl (fun s e =>
    let s := s.toGuest [3, ((s.queue qid).map (·.pasid)).getD 0, e.2.stamp % 2 ^ 32, e.1, 1]
    { s with guest := { s.guest with preempts := e.1 :: s.guest.preempts } }) s

/-- A queue is aborted (R363); `hard` pre-empts its running instances with GRACE 0. -/
def State.abortQueue (s : State) (qid : Nat) (hard : Bool) : State :=
  let s := s.modQueue qid fun q => { q with state := 2, dying := true }
  let s := s.dropWork qid 7
  let s := if hard then
      ((s.running qid).foldl (fun s t => match t.hart with | some h => s.askHard h 1 | none => s) s).guestDrop qid
    else s
  s.checkEmpty qid

/-- A queue of a stopped PASID (R364): every packet ends PASID_GONE, running instances are pre-empted and discarded. -/
def State.stopQueue (s : State) (qid : Nat) : State :=
  let s := s.modQueue qid fun q => { q with state := 3 }
  let pkts := s.tqe.pkts.map fun e => if e.2.q == qid && e.2.live then (e.1, { e.2 with recd := 6, detail := 0 }) else e
  let s : State := { s with tqe := { s.tqe with pkts := pkts } }
  let ov := ((List.range 4).map fun d => ((s.qpart qid d).ovfl.map fun _ => d)).flatten
  let s := ov.foldl (fun s d => let (s, v) := s.free; s.status qid 6 0 d v.toNat 0 0) s
  let s := s.dropWork qid 6
  ((s.running qid).foldl (fun s t => match t.hart with | some h => s.askHard h 2 | none => s) s).guestDrop qid

/-! ### Dependence records -/

/-- A dependence record offers its packet (R360): the STATUS that it then has. -/
def State.offerRecord (s : State) (pa qid pasid : Nat) : State × Nat :=
  let d := s.homeDie pa
  match s.queue qid with
  | none => (s, 4)
  | some q =>
    if q.pasid ≠ pasid then (s, 4)
    else
      if s.poisoned (pa + 0x40) 64 then
        let (s, v) := s.free
        ((s.poisonRecord pa).status qid 8 0 d v.toNat 0 2, 4)
      else
        let m := imageOf (s.peek (pa + 0x40) 64)
        match s.offer qid q d m true with
        | (s, .taken _) => (s, 2)
        | (s, .full p) =>
          let s := match (s.qpart qid p).ovfl.getLast? with
            | some t => s.agentWrite (t + 0x10) (leBytes 8 pa)
            | none => s
          (s.modPart qid p fun x => { x with ovfl := x.ovfl ++ [pa] }, 3)
        | (s, .closed) => (s.refusePacket qid q d m 7, 4)
        | (s, .refused w) => (s.refusePacket qid q d m w, 4)

/-- A dependence step reaches the record's home as an AMO (R360, R385), which leaves the line with the home: the step's reads and writes
are made there. -/
def State.recordStep (s : State) (pa : Nat) : State := (s.atomicAt noNode pa 11 4 0 0).1

/-- What a decrement does at the home slice (R360). -/
def State.decrementHere (s : State) (pa : Nat) : State :=
  let st := s.peekN (pa + 0x0C) 4
  if st ≠ 1 then s.pokeN (pa + 4) 4 (Nat.min (s.peekN (pa + 4) 4 + 1) (2 ^ 32 - 1))
  else
    let n := (s.peekN pa 4 + 2 ^ 32 - 1) % 2 ^ 32
    let s := s.pokeN pa 4 n
    if n ≠ 0 then s
    else
      let (s, st) := s.offerRecord pa (s.peekN (pa + 8) 4) (s.peekN (pa + 0x18) 4 % 2 ^ 20)
      s.pokeN (pa + 0x0C) 4 st

/-- One decrement (R360). -/
def State.decrement (s : State) (pa : Nat) : State := (s.recordStep pa).decrementHere pa

/-- What arming a record does at its home slice (R369). -/
def State.armRecord (s : State) (pa count qid pasid : Nat) : State :=
  let st := s.peekN (pa + 0x0C) 4
  if st = 1 ∨ st = 3 then s
  else
    let n := if count = 0 then 1 else count
    let s := s.poke pa (leBytes 4 n ++ leBytes 4 0 ++ leBytes 4 qid ++ leBytes 4 1 ++ leBytes 8 0 ++ leBytes 4 pasid)
    if count = 0 then s.decrementHere pa else s

/-! ### The Almanac -/

/-- Entries of a die's wheel whose time has come are offered; a full part keeps its entry (R357). -/
def State.releaseWheel (s : State) (d : Nat) : State :=
  let now := s.dtimeOf d
  let ws := s.tqe.wheel.filter fun w => w.die == d && decide (w.time ≤ now)
  ws.foldl (fun s w =>
    let out (s : State) : State := { s with tqe := { s.tqe with wheel := s.tqe.wheel.erase w } }
    match s.queue w.q with
    | none => out s
    | some q =>
      match s.offer w.q q d w.img true with
      | (s, .taken _) => out s
      | (s, .full _) => s
      | (s, .closed) => out (s.refusePacket w.q q d w.img 7)
      | (s, .refused x) => out (s.refusePacket w.q q d w.img x)) s

end Sys2Proof.Machine
end

