-- ==== Sys2Proof/Machine/CohEv.lean ====
section
/-! DEFINITION. The rows of the cache and directory engine (R385 to R398): each message delivered, the end of a
reservation's delay, the data of a fill, and the failure of a link. -/

namespace Sys2Proof.Machine

/-- A message delivered to a node. Where R390's table says 'does not occur' for the node's state, the guest has broken the protocol
(R493, R497); at any other node the machine has no such event. -/
def State.orStop (s : State) (n : Nat) (r : Option State) : Out :=
  match r with
  | some s => .next s
  | none => if n = guestPort then .next (s.due [.protocolError 7]) else .fault .doesNotOccur

/-- GETS (R388). -/
def execGets (s : State) : Out :=
  match s.ev with
  | .gets n l => .next (s.homeArrive l (.gets n))
  | _ => .next s

/-- GETX (R388). -/
def execGetx (s : State) : Out :=
  match s.ev with
  | .getx n l => .next (s.homeArrive l (.getx n))
  | _ => .next s

/-- UPG (R388, R393). -/
def execUpg (s : State) : Out :=
  match s.ev with
  | .upg n l => .next (s.homeArrive l (.upg n))
  | _ => .next s

/-- PUTS (R392). -/
def execPuts (s : State) : Out :=
  match s.ev with
  | .puts n l => .next (s.homePuts n l)
  | _ => .next s

/-- WBREQ (R391). -/
def execWbreq (s : State) : Out :=
  match s.ev with
  | .wbreq n l => .next (s.homeArrive l (.wbreq n))
  | _ => .next s

/-- WBDATA (R391). -/
def execWbdata (s : State) : Out :=
  match s.ev with
  | .wbdata n l d => .next (s.homeWbdata n l d)
  | _ => .next s

/-- WRM (R388). -/
def execWrm (s : State) : Out :=
  match s.ev with
  | .wrm n cs => .next (match cs.head? with | some c => s.homeArrive (lineOf c.1) (.wrm n cs) | none => s)
  | _ => .next s

/-- CLEAN (R388): taken at once, even while BUSY. -/
def execClean (s : State) : Out :=
  match s.ev with
  | .clean n l => .next (s.homeClean n l)
  | _ => .next s

/-- AMO_REQUEST (R388). -/
def execAmoRequest (s : State) : Out :=
  match s.ev with
  | .amoRequest n pa op w x y => .next (s.homeArrive (lineOf pa) (.amo n pa op w x y))
  | _ => .next s

/-- RDU (R388). -/
def execRdu (s : State) : Out :=
  match s.ev with
  | .rdu l => .next (s.homeArrive l .rdu)
  | _ => .next s

/-- IACK (R389). -/
def execIack (s : State) : Out :=
  match s.ev with
  | .iack n l => .next (s.homeIack n l)
  | _ => .next s

/-- RDATA (R388, R390). -/
def execRdata (s : State) : Out :=
  match s.ev with
  | .rdata n l d g => .next (s.homeRdata n l d g)
  | _ => .next s

/-- DATA_S (R390). -/
def execDataS (s : State) : Out :=
  match s.ev with
  | .dataS n l => s.orStop n (s.nodeDataS n l)
  | _ => .next s

/-- DATA_E (R390). -/
def execDataE (s : State) : Out :=
  match s.ev with
  | .dataE n l => s.orStop n (s.nodeDataE n l)
  | _ => .next s

/-- GRANT_X (R390, R393): in LOST_S a protocol error, which R393 says cannot occur. -/
def execGrantX (s : State) : Out :=
  match s.ev with
  | .grantX n l => if s.ns n l = .lostS ∧ n ≠ guestPort then .fault .protocolError else s.orStop n (s.nodeGrantX n l)
  | _ => .next s

/-- WRACK (R385): the writer learns that its write is performed at the home; the state holds that since the write. -/
def execWrack (s : State) : Out :=
  match s.ev with
  | .wrack _ _ => .next s
  | _ => .next s

/-- AMOACK (R385): it brings its agent the old value (`State.atomicAt`); nothing further changes. -/
def execAmoack (s : State) : Out :=
  match s.ev with
  | .amoack _ _ _ => .next s
  | _ => .next s

/-- INV (R389, R390). -/
def execInv (s : State) : Out :=
  match s.ev with
  | .inv n l => s.orStop n (s.nodeInv n l)
  | _ => .next s

/-- RECALL (R379, R390). -/
def execRecall (s : State) : Out :=
  match s.ev with
  | .recall n l => s.orStop n (s.nodeTake n l true false)
  | _ => .next s

/-- DOWNGR (R379, R390). -/
def execDowngr (s : State) : Out :=
  match s.ev with
  | .downgr n l => s.orStop n (s.nodeTake n l false false)
  | _ => .next s

/-- WBGO (R390, R391). -/
def execWbgo (s : State) : Out :=
  match s.ev with
  | .wbgo n l => s.orStop n (s.nodeWbgo n l)
  | _ => .next s

/-- WBSTALE (R390, R391). -/
def execWbstale (s : State) : Out :=
  match s.ev with
  | .wbstale n l => s.orStop n (s.nodeWbstale n l)
  | _ => .next s

/-- RESERVATION_TIMEOUT (R379): the answers that the reservation has delayed are given. -/
def execReservationTimeout (s : State) : Out :=
  match s.ev with
  | .reservationTimeout n l => .next (if s.coh.delayed.any fun e => e.1 == n && e.2.1 == l then s.answerDelayed n l else s)
  | _ => .next s

/-- LLC_FILL (R388). -/
def execLlcFill (s : State) : Out :=
  match s.ev with
  | .llcFill l p => .next (s.llcFilled l p)
  | _ => .next s

/-! ### Corrected errors -/

/-- A record of SEV 0: those of one code at one place within 1 ms are one record, whose DETAIL goes on (R511). -/
def State.corrected (s : State) (e : Err) : State :=
  let key := [e.code, e.unit, e.die, e.core, e.lg, e.lane]
  let now := s.dtimeOf e.die
  match s.mgmt.coal.find? fun c => c.1 == key && decide (now < c.2.2 + 1000000) with
  | some c =>
    let a := s.gddr 0 - 0x200000 + 64 * (c.2.1 % 32768) + 0x38
    { s with mem := memPutNat a 8 ((memNat s.mem a 8 + e.detail) % 2 ^ 64) s.mem }
  | none =>
    let n := s.mgmt.logn
    let s := s.errorRecord e
    { s with mgmt := { s.mgmt with coal := (key, n, now) :: s.mgmt.coal.filter fun c => c.1 != key } }

/-! ### Links -/

/-- A link of the part (R8, R31): between neighbouring compute dies, from a compute die to the hub (4), from the hub to the guest
site (5). -/
def State.isLink (s : State) (a b : Nat) : Bool :=
  let (x, y) := linkEnds a b
  if y = 5 then x == 4 && s.gsk
  else if y = 4 then decide (x < s.dies)
  else decide (y < s.dies) && (x ^^^ y == 1 || x ^^^ y == 2)

/-- LINK_ERROR (R396): the flits are replayed and the link retrains; messages on it wait in their order. The number of
flits replayed is left open (log entry 4). -/
def execLinkError (s : State) : Out :=
  match s.ev with
  | .linkError a b =>
    if !s.isLink a b then .next s
    else
      let (s, n) := s.free
      let s := { s with coh := { s.coh with links := linkEnds a b :: s.coh.links.filter (· != linkEnds a b) } }
      .next (s.corrected { code := 0x03, sev := 0, unit := 7, die := Nat.min a b, detail := n.toNat })
  | _ => .next s

/-- LINK_RETRAIN_FAIL (R396, R482): between two compute dies the higher-numbered is severed, on a hub link the die; the guest's link
isolates the guest. -/
def execLinkRetrainFail (s : State) : Out :=
  match s.ev with
  | .linkRetrainFail a b =>
    if !s.isLink a b then .next s
    else
      let d := if Nat.max a b = 4 then Nat.min a b else Nat.max a b
      let s : State := { s with coh := { s.coh with links := s.coh.links.filter (· != linkEnds a b) } }
      .next (s.due [if Nat.max a b = 5 then .protocolError 0 else .sever d])
  | _ => .next s

/-- A node stands on a die. -/
def onDie (d n : Nat) : Bool := decide (n < 512) && n / 128 == d

/-- A request of a node that is cut off is dropped; writes and atomics that had arrived are performed (R397, R497). -/
def Req.dropped (gone : Nat → Bool) : Req → Bool
  | .gets n => gone n
  | .getx n => gone n
  | .upg n => gone n
  | .wbreq n => gone n
  | _ => false

/-- What is left of a transaction's request: without its requester it ends without a grant. -/
def severReq (gone : Nat → Bool) (t : Txn) : Req :=
  if !t.req.dropped gone then t.req
  else match t.req with
    | .gets _ => .rdu
    | r => if t.phase = 0 then (match r with | .wbreq n => .wbreq n | _ => .wrm noNode []) else .rdu

/-- Dirty data of a line is lost (R397): the LLC copy stands, and the record names the line. -/
def State.lostDirty (s : State) (l : Nat) : State :=
  (s.loseDirty l).errorRecord { code := 0x12, sev := 1, unit := 5, die := s.homeDie (l * 128), pa := l * 128 }

/-- A node's copy is void without write-back. -/
def State.voidCopy (s : State) (n l : Nat) : State :=
  let dirty := match s.ns n l with | .m => true | .vb d => d | _ => false
  let s := (s.dropCopies n l).setNs n l .i
  if dirty then s.lostDirty l else s

/-- A home treats its transaction on a line (R397 step 2). -/
def State.severTxn (s : State) (gone : Nat → Bool) (l : Nat) : State :=
  match s.coh.txn.lookup l with
  | none => s
  | some t =>
    let put (t : Txn) : State := { s with coh := { s.coh with txn := tset l t s.coh.txn } }
    let t' := { t with req := severReq gone t, acks := t.acks.filter fun n => !gone n }
    match t.req, t.owner, t.acks.find? gone with
    | .wbreq n, _, _ => if gone n then ((s.endTxn l).setDir l .unc).homeFree l else put t'
    | _, some o, _ => if gone o then (put t').homeRdata o l false true else put t'
    | _, none, some n => if t'.acks.isEmpty then (put { t' with acks := [n] }).homeIack n l else put t'
    | _, _, _ => put t'

/-- Nodes that are gone are removed from an entry (R397, R497): `dp` and `gp` say what is left of DP and GP. A coarse entry stays
coarse (R384). -/
def severDir (gone : Nat → Bool) (dp : Nat) (gp : Bool) (e : Dir) : Dir :=
  if e.coarse then { e with dp := dp, gp := gp }
  else
    let ps := e.ptrs.filter fun n => !gone n
    if ps.isEmpty && !gp then { Dir.unc with busy := e.busy } else { e with ptrs := ps, dp := dp, gp := gp }

/-- A node and a line's home lie on two sides of the boundary of die d. -/
def State.across (s : State) (d n l : Nat) : Bool := decide (n < 512) && onDie d n != (s.homeDie (l * 128) == d)

/-- A directory message crosses the boundary of the severed die. -/
def State.crosses (s : State) (d : Nat) (e : Ev) : Bool :=
  match evNode e, evLine e with
  | some n, some l => s.across d n l
  | _, _ => false

/-- The line whose only current bytes a message carries (R385, R388). -/
def carriesDirty : Ev → Option Nat
  | .rdata _ l true _ => some l
  | .wbdata _ l true => some l
  | .clean _ l => some l
  | _ => none

/-- Copies that severing voids: those of nodes of die d of lines homed elsewhere, and those of other nodes of its lines
(R397 step 3, R398), as node keys. -/
def State.voided (s : State) (d : Nat) (keys : List Nat) : List Nat :=
  keys.filter fun k => s.across d (k / 2 ^ 45) (k % 2 ^ 45)

/-- The nodes that are cut off from the home of a line when die d is severed. -/
def State.cutFrom (s : State) (d l n : Nat) : Bool :=
  if s.homeDie (l * 128) = d then !onDie d n && decide (n < 513) else onDie d n

/-- An entry without the nodes that severing die d takes from it. -/
def State.severEntry (s : State) (d l : Nat) (e : Dir) : Dir :=
  if s.homeDie (l * 128) = d then severDir (s.cutFrom d l) (e.dp &&& (1 <<< d)) false e
  else severDir (s.cutFrom d l) (e.dp &&& (15 - (1 <<< d) % 16)) e.gp e

/-- Die d is severed (R397, R398): the homes of every die take SEVER in one step (log entry 56). -/
def State.sever (s : State) (d : Nat) : State :=
  let lost := (s.agenda.filter (s.crosses d)).filterMap carriesDirty
  let s : State := { s with
    agenda := s.agenda.filter fun e => !s.crosses d e
    coh := { s.coh with
      severed := d :: s.coh.severed.filter (· != d)
      links := s.coh.links.filter fun k => k.1 != d && k.2 != d
      waitq := (s.coh.waitq.map fun w => (w.1, w.2.filter fun r => !r.dropped (s.cutFrom d w.1))).filter fun w => !w.2.isEmpty } }
  let s := lost.foldl (fun s l => s.lostDirty l) s
  let s := (s.voided d (tkeys s.coh.nodes)).foldl (fun s k => s.voidCopy (k / 2 ^ 45) (k % 2 ^ 45)) s
  let s := (tkeys s.coh.txn).foldl (fun s l => s.severTxn (s.cutFrom d l) l) s
  let dir := s.coh.dir.map fun e => (e.1, s.severEntry d e.1 e.2)
  let rc := s.voided d (tkeys s.rounds.copies)
  let s : State := { s with
    coh := { s.coh with dir := dir }
    rounds := { s.rounds with copies := s.rounds.copies.filter fun e => !rc.contains e.1 } }
  s.errorRecord { code := 0x20, sev := 2, unit := 7, die := d, detail := d }

/-- SEVER (R397). -/
def execSever (s : State) : Out :=
  match s.ev with
  | .sever d => .next (if d < s.dies && !s.coh.severed.contains d then s.sever d else s)
  | _ => .next s

end Sys2Proof.Machine
end

