-- ==== Sys2Proof/Machine/Net.lean ====
section
/-! DEFINITION. The network transport engine (R441 to R467): the instructions of the N stream, sending, receiving,
completion, failures, the congestion table and the PTP offset. -/

namespace Sys2Proof.Machine

/-! ### Commands of an instance -/

/-- A command belongs to the instance of a hart, or to the hart itself where no instance runs. -/
def Msg.mine (m : Msg) (h : Nat) (inst : Option Nat) : Bool := m.inst == inst && (inst.isSome || m.hart == h)

/-- The key of an unreported failure: the instance, or the hart where no instance runs. -/
def failKey (h : Nat) (inst : Option Nat) : Nat := match inst with | some i => i | none => 2 ^ 64 + h

/-- The context of a command's local accesses and of its local completion: at the hub, as captured at issue (R453, R525). -/
def Msg.cx (m : Msg) : Cx :=
  { unit := unitNet, core := some m.core, hart := some m.hart, pasid := some m.pasid
    wpasid := m.pasid, satp := 0, priv := m.priv, sum := m.sum, mxr := m.mxr, die := 4 }

/-- Change a command. -/
def State.modMsg (s : State) (id : Nat) (f : Msg → Msg) : State :=
  match s.net.msgs.lookup id with
  | some m => { s with net := { s.net with msgs := tset id (f m) s.net.msgs } }
  | none => s

/-- The key of a peer entry and of a window: endpoint * 65536 + index. -/
def pkey (lep i : Nat) : Nat := lep * 65536 + i

/-- Packets of a message (R456). -/
def packetsOf (len : Nat) : Nat := (len + 4095) / 4096

/-- Packets that a command puts into its delivery context: a read sends one request (R453). -/
def Msg.npkt (m : Msg) : Nat := if m.kind = 2 then 1 else packetsOf m.len

/-- Commands of the executing instance that are neither complete nor failed (R452). -/
def State.openMsgs (s : State) : List (Nat × Msg) := s.net.msgs.filter fun m => m.2.mine s.cur s.me.inst

/-- Earlier commands of the agent that its pending `nfence`s still wait for (R454). -/
def State.fencedBy (s : State) (h : Nat) : List Nat :=
  ((s.net.fences.filter fun f => sameAgent h (s.hart h).inst f.hart f.inst).map (·.on)).flatten

/-! ### Event queue -/

/-- Change an endpoint. -/
def State.modEp (s : State) (lep : Nat) (f : Ep → Ep) : State :=
  match s.net.eps.lookup lep with
  | some e => { s with net := { s.net with eps := tset lep (f e) s.net.eps } }
  | none => s

/-- A record of the endpoint's event queue (R463), in the discipline of the status queue (R362). The engine stands on the hub. REASON is
left open (log entry 4). -/
def State.epRecord (s : State) (lep code tag iid detail : Nat) : State :=
  match s.net.eps.lookup lep with
  | none => s
  | some e =>
    let (s, v) := s.free
    let s := s.loadLines noNode (e.evq + 8) 8
    let n := 2 ^ e.evlog
    if (e.wrn + 2 ^ 64 - s.peekN (e.evq + 8) 8) % 2 ^ 64 = n then
      (s.modEp lep fun e => { e with ovf := e.ovf + 1 }).agentWrite (e.evq + 16) (leBytes 8 (e.ovf + 1))
    else
      let s := s.agentWrite (e.evq + 64 + 32 * (e.wrn % n)) (recordBytes code (v.toNat % 256) 4 lep tag iid detail)
      (s.modEp lep fun e => { e with wrn := e.wrn + 1 }).agentWrite e.evq (leBytes 8 (e.wrn + 1))

/-! ### Ends of commands -/

/-- The hart in which the register of an `nfence` stands now: none while its instance is saved, or its context is on its way. -/
def State.fenceHart (s : State) (f : NFence) : Option Nat :=
  (s.agentHarts f.hart f.inst).find? fun h => (s.hart h).save.isNone && (s.hart h).resume.isNone

/-- `nfence`s that wait for nothing any more give their registers the counts (R454); one whose instance is saved keeps its own until the
resume. -/
def State.fencesDone (s : State) : State :=
  let over_ := s.net.fences.filter fun f => f.on.isEmpty && (s.fenceHart f).isSome
  let s' : State := { s with net := { s.net with fences := s.net.fences.filter fun f => !(f.on.isEmpty && (s.fenceHart f).isSome) } }
  over_.foldl (fun t f => match s.fenceHart f with
    | some h => t.modHart h fun x => x.setX f.rd (BitVec.ofNat 64 f.fails)
    | none => t) s'

/-- A command has ended: the `nfence`s that waited for it, and the PEERSETs (R446, R454). -/
def State.msgEnded (s : State) (id : Nat) (failed : Bool) : State :=
  let step (f : NFence) : NFence :=
    if f.on.contains id then { f with on := f.on.filter (· != id), fails := f.fails + if failed then 1 else 0 } else f
  let fs := s.net.fences.map step
  let ps := s.net.peerq.map fun p => (p.1, p.2.1.filter (· != id), p.2.2.1, p.2.2.2)
  let set := ps.filter fun p => p.2.1.isEmpty
  let s := { s with net := { s.net with
    msgs := tdel id s.net.msgs
    fences := fs
    peerq := ps.filter fun p => !p.2.1.isEmpty
    peers := set.foldl (fun t p => tset p.1 p.2.2.1 t) s.net.peers } }
  let s : State := set.foldl (fun s p => s.answer p.2.2.2 stOk) s
  s.fencesDone

/-- A command fails (R463): it joins its instance's list while that runs, and a record is written, whose DETAIL is stated for a local
fault alone (log entry 4). -/
def State.failMsg (s : State) (id code detail : Nat) : State :=
  match s.net.msgs.lookup id with
  | none => s
  | some m =>
    let (s, v) := s.free
    let detail := if code = 19 then detail else v.toNat
    let alive := match m.inst with | some i => (s.tqe.insts.lookup i).isSome | none => true
    let s := if alive then
        { s with net := { s.net with fails := s.net.fails ++ [(failKey m.hart m.inst, m.tag, code)] } } else s
    (s.epRecord m.lep code m.tag m.iid detail).msgEnded id true

/-- A command is complete: `ncspec` fires once (R460). -/
def State.completeMsg (s : State) (id : Nat) : State :=
  match s.net.msgs.lookup id with
  | none => s
  | some m => (s.fireOnce m.cx m.cspec).1.msgEnded id false

/-- Every command of a PASID in flight fails at PASID-stop (R464). -/
def State.stopNet (s : State) (pasid : Nat) : State :=
  (s.net.msgs.filter fun m => m.2.pasid == pasid).foldl (fun s m => s.failMsg m.1 25 0) s

/-! ### Sending -/

/-- Two commands read bytes in common on their local sides. -/
def Msg.meets (m o : Msg) : Bool :=
  m.kind != 2 && o.kind != 2 && (decide ((o.va - m.va).toNat < m.len) || decide ((m.va - o.va).toNat < o.len))

/-- An earlier command of the agent has still to read bytes that this one reads too: they are read in issue order (R61). -/
def State.readsBehind (s : State) (m : Msg) : Bool :=
  s.net.msgs.any fun o => sameAgent m.hart m.inst o.2.hart o.2.inst && decide (o.2.seq < m.seq) && o.2.state == 1 && m.meets o.2

/-- A command may start (R61, R70, R446, R452, R454). -/
def State.msgReady (s : State) (id : Nat) : Bool :=
  match s.net.msgs.lookup id with
  | some m =>
    !s.heldCommand m.hart m.inst strN m.seq && (!m.rel || s.quiet m.hart m.inst (strS + strB) m.seq) && !s.readsBehind m &&
      m.fences.all (fun f => (s.net.msgs.lookup f).isNone) &&
      !(s.net.peerq.any fun p => p.1 == pkey m.lep m.peer && !p.2.1.contains id)
  | none => true

/-- A packet's port: PORTS[e mod n] of the endpoint's ports in ascending order (R442); the entropy value e, one of the peer's
ENT, is left open (log entry 4). -/
def sprayPort (e : Ep) (p : Peer) (free : Word) : Nat :=
  let ps := bitList e.ports 8
  ps.getD (free.toNat % p.ent % ps.length) 0

/-- One packet of a command as it goes out (R453, R456). -/
def State.packetOf (s : State) (id psn : Nat) (m : Msg) (free : Word) : Option NetPkt :=
  match s.net.eps.lookup m.lep, s.net.peers.lookup (pkey m.lep m.peer) with
  | some e, some p =>
    some { lep := p.rlep, initiator := e.fep * 4096 + m.lep, target := p.rfep * 4096 + p.rlep, port := sprayPort e p free, tc := p.tc
           job := e.job, mid := id, kind := m.kind, mode := p.mode
           seq := m.pbase + psn, psn := psn, npkt := packetsOf m.len, tag := m.tag, len := m.len, rkey := m.rkey
           rva := m.rva, rspec := m.rspec
           payload := if m.kind = 2 then [] else (m.buf.drop (psn * 4096)).take 4096 }
  | _, _ => none

/-- A packet goes out on the wire. -/
def State.sendPkt (s : State) (id psn : Nat) : State :=
  let (s, e) := s.free
  match (s.net.msgs.lookup id).bind fun m => s.packetOf id psn m e with
  | some p => { s with net := { s.net with sent := s.net.sent ++ [p] } }
  | none => s

/-- A probe goes out: every packet of the message is acknowledged, its completion is not (R461). -/
def State.sendProbe (s : State) (id : Nat) : State :=
  let (s, e) := s.free
  match (s.net.msgs.lookup id).bind fun m => s.packetOf id 0 m e with
  | some p => { s with net := { s.net with sent := s.net.sent ++ [{ p with kind := 3, payload := [] }] } }
  | none => s

/-- The code with which a command fails before it reads anything: the endpoint, the peer, the mode (R452, R453). -/
def State.msgRefused (s : State) (m : Msg) : Option Nat :=
  match s.net.eps.lookup m.lep with
  | none => some 16
  | some e =>
    if e.pasid ≠ m.pasid then some 16
    else
      match if m.peer < e.npeer then s.net.peers.lookup (pkey m.lep m.peer) else none with
      | none => some 17
      | some p =>
        if p.mode = 2 && (m.kind != 1 || cspecKind m.rspec != 0) then some 18 else none

/-- The command is accepted by its peer's delivery context: its packets go out (R453, R456). -/
def State.acceptMsg (s : State) (id : Nat) (m : Msg) (buf : List Byte) : State :=
  let k := pkey m.lep m.peer
  let base := tget 0 s.net.pseq k
  let s := s.modMsg id fun m => { m with state := 2, buf := buf, pbase := base }
  let s := { s with net := { s.net with pseq := tset k (base + m.npkt) s.net.pseq } }
  (List.range m.npkt).foldl (fun s i => s.sendPkt id i) s

/-- A command starts: the checks, its release (at whatever scope: log entry 51), the read of its source, acceptance (R452, R453, R456). -/
def State.startMsg (s : State) (id : Nat) : State :=
  match s.net.msgs.lookup id with
  | none => s
  | some m =>
    match s.msgRefused m with
    | some c => s.failMsg id c 0
    | none =>
      let s := s.releaseAt (if m.rel then 4 else 0)
      if m.kind = 2 then s.acceptMsg id m []
      else
        match s.readVa m.cx m.va m.len with
        | (s, .ok bs) => s.acceptMsg id m bs
        | (s, .error (_, va)) => s.failMsg id 19 va.toNat

/-- Start a command now, or when nothing holds it back any more. -/
def State.tryMsg (s : State) (id : Nat) : State := if s.msgReady id then s.startMsg id else s.due [.netRetransmitTimer id 0]

/-! ### Instructions -/

/-- The command that the operands of `nsend`, `nwrite` or `nread` make (R448, R449, R451, R452). -/
def State.newMsg (s : State) (kind : Nat) (va ctl : Word) : Msg :=
  let h := s.me
  let nep := (h.cs csrNep).toNat
  { inst := h.inst, iid := ((h.inst.bind fun i => s.tqe.insts.lookup i).map (·.iid)).getD 0, hart := s.cur, seq := h.seq, tag := h.ntag
    kind := kind, lep := bits nep 0 12, peer := bits nep 16 16, rkey := bits nep 32 16, rva := (h.cs csrNrva).toNat
    va := va, len := bits ctl.toNat 0 32, cspec := (h.cs csrNcspec).toNat, rspec := (h.cs csrNrspec).toNat
    pasid := s.pasidOf s.cur, priv := h.priv, sum := h.sumBit, mxr := h.mxrBit, core := s.myCore
    rel := bit ctl.toNat 33, acq := bit ctl.toNat 32, state := 1, buf := [], acked := [], pbase := 0, code := 0
    fences := s.fencedBy s.cur }

/-- The checks of R452 at issue. -/
def msgBad (ctl : Word) (m : Msg) : Bool :=
  m.len == 0 || decide (2 ^ 30 < m.len) || bits ctl.toNat 34 30 != 0 || cspecBad m.cspec || cspecBad m.rspec ||
    (m.kind == 2 && cspecKind m.rspec != 0)

/-- Issue a message (R452). -/
def State.issueMsg (s : State) (kind : Nat) (rd rs1 rs2 : BitVec 5) : Out :=
  let ctl := s.x rs2
  let m := s.newMsg kind (s.x rs1) ctl
  if msgBad ctl m then .next (s.cmdFault 0)
  else if 64 ≤ s.openMsgs.length then .next (s.wait .commands)
  else
    let id := s.tqe.stamp
    let s := { s with net := { s.net with msgs := tset id m s.net.msgs }, tqe := { s.tqe with stamp := id + 1 } }
    let s := s.modMe fun h => { h with seq := h.seq + 1, ntag := (h.ntag + 1) % 65536 }
    let s := if m.acq then s.hold 0 31 (some (2 * id + 1)) else s
    .next (((s.retireX rd (BitVec.ofNat 64 m.tag))).tryMsg id)

/-- NSEND (R452, R453). -/
def execNsend (rd rs1 rs2 : BitVec 5) (s : State) : Out := s.issueMsg 0 rd rs1 rs2

/-- NWRITE (R452, R453). -/
def execNwrite (rd rs1 rs2 : BitVec 5) (s : State) : Out := s.issueMsg 1 rd rs1 rs2

/-- NREAD (R452, R453). -/
def execNread (rd rs1 rs2 : BitVec 5) (s : State) : Out := s.issueMsg 2 rd rs1 rs2

/-- NFENCE (R454): the count is 0 at once when nothing is waited for. -/
def execNfence (rd rs1 : BitVec 5) (s : State) : Out :=
  let sel := (s.x rs1).toNat
  if sel ≠ 0 ∧ sel / 4096 ≠ 1 then .next (s.cmdFault 0)
  else
    let w := (s.openMsgs.filter fun m => sel == 0 || m.2.lep == sel % 4096).map (·.1)
    if w.isEmpty then .next (s.retireX rd 0)
    else
      let f : NFence := ⟨s.cur, s.me.inst, s.me.seq, w, 0, rd.toNat⟩
      .next { s with net := { s.net with fences := s.net.fences ++ [f] } }.retire

/-- `nstat` with selector `n` (R455); another selector value than the row's is a command fault. -/
def State.nstat (s : State) (n : Nat) (rs2 : BitVec 5) (k : Out) : Out :=
  if (s.x rs2).toNat = n then k else .next (s.cmdFault 0)

/-- NSTAT_STATE (R455). -/
def execNstatState (rd rs1 rs2 : BitVec 5) (s : State) : Out :=
  s.nstat 0 rs2 (.next (s.retireX rd (match s.openMsgs.find? fun m => m.2.tag == (s.x rs1).toNat % 65536 with
    | some m => BitVec.ofNat 64 m.2.state
    | none => 0)))

/-- NSTAT_NEXT (R455). -/
def execNstatNext (rd rs1 rs2 : BitVec 5) (s : State) : Out :=
  let _ := rs1
  s.nstat 1 rs2 (match s.net.fails.find? fun f => f.1 == failKey s.cur s.me.inst with
    | some f =>
      .next ({ s with net := { s.net with fails := s.net.fails.erase f } }.retireX rd
        (BitVec.ofNat 64 (2 ^ 63 + f.2.2 * 2 ^ 16 + f.2.1)))
    | none => .next (s.retireX rd 0))

/-- NSTAT_PENDING (R455). -/
def execNstatPending (rd rs1 rs2 : BitVec 5) (s : State) : Out :=
  let _ := rs1
  s.nstat 2 rs2 (.next (s.retireX rd (BitVec.ofNat 64 s.openMsgs.length)))

/-- NSTAT_CTVA (R455). -/
def execNstatCtva (rd rs1 rs2 : BitVec 5) (s : State) : Out :=
  s.nstat 3 rs2 (.next (s.retireX rd (match s.net.eps.lookup ((s.x rs1).toNat % 4096) with
    | some e => if e.pasid = s.pasidOf s.cur then BitVec.ofNat 64 e.ctva else 0
    | none => 0)))

/-- NSTAT_PTP (R455, R467). -/
def execNstatPtp (rd rs1 rs2 : BitVec 5) (s : State) : Out :=
  let _ := rs1
  s.nstat 4 rs2 (.next (s.retireX rd (BitVec.ofNat 64 (tget 0 s.net.ptp (hartDie s.cur)))))

/-! ### Congestion table -/

/-- Bytes that a peer's commands have sent and not yet seen acknowledged (R465). -/
def State.inflight (s : State) (lep peer : Nat) : Nat :=
  (s.net.msgs.filter fun m => m.2.lep == lep && m.2.peer == peer && m.2.state == 2 && m.2.kind != 2).foldl
    (fun a m => ((List.range m.2.npkt).filter fun i => !m.2.acked.contains i).foldl
      (fun a i => a + Nat.min 4096 (m.2.len - i * 4096)) a) 0

/-- Where an endpoint's congestion entry lies: the pages were translated at EPCREATE (R466). -/
def Ep.ctpa (e : Ep) (peer : Nat) : Nat := e.ctpas.getD (peer / 128) 0 + peer % 128 * 32

/-- The engine updates an entry (R465, R466), at most once per µs of die 0's time: SEQ odd, the fields, SEQ even. What it measures is
left open (log entry 4). -/
def State.congestion (s : State) (lep peer : Nat) : State :=
  let now := s.dtimeOf 0 / 1000 + 1
  if tget 0 s.net.ctlast (pkey lep peer) = now then s
  else
  match s.net.eps.lookup lep, s.net.peers.lookup (pkey lep peer) with
  | some e, some p =>
    let k := pkey lep peer
    let s : State := { s with net := { s.net with ctlast := tset k now s.net.ctlast } }
    let n := tget 0 s.net.ctseq k
    let a := e.ctpa peer
    let (s, cwnd) := s.free
    let (s, rtt) := s.free
    let (s, rate) := s.free
    let s := s.agentWrite a (leBytes 4 (n + 1))
    let s := s.agentWrite (a + 4) (leBytes 1 p.cc ++ leBytes 3 0 ++ leBytes 4 cwnd.toNat ++ leBytes 4 (s.inflight lep peer) ++
      leBytes 8 rtt.toNat ++ leBytes 4 (tget 0 s.net.retx k) ++ leBytes 4 rate.toNat)
    let s := s.agentWrite a (leBytes 4 (n + 2))
    { s with net := { s.net with ctseq := tset k (n + 2) s.net.ctseq } }
  | _, _ => s

/-! ### The target -/

/-- An acknowledgement to an initiator: what it says (0 packet placed, 1 refused until later, 3 completion or its failure
code), the endpoint, the initiator, the message and a value. -/
def State.ackTo (s : State) (what : Nat) (p : NetPkt) (v : Nat) : State :=
  { s with net := { s.net with acks := s.net.acks ++ [[what, p.lep, p.initiator, p.mid, v]] } }

/-- The target's state of a message. -/
def State.rxOf (s : State) (p : NetPkt) : Option Rx :=
  s.net.rx.find? fun r => r.lep == p.lep && r.from_ == p.initiator && r.mid == p.mid

/-- Put the target's state of a message back. -/
def State.setRx (s : State) (x : Rx) : State :=
  { s with net := { s.net with
      rx := x :: s.net.rx.filter fun r => !(r.lep == x.lep && r.from_ == x.from_ && r.mid == x.mid) } }

/-- The state of a message of which nothing has arrived. -/
def NetPkt.rx0 (p : NetPkt) : Rx := ⟨p.lep, p.initiator, p.mid, [], none, false, 0⟩

/-- A message is refused with a code (R447, R458, R463). -/
def State.refuse (s : State) (p : NetPkt) (code : Nat) : State :=
  let x := (s.rxOf p).getD p.rx0
  (s.setRx { x with code := code }).ackTo 3 p code

/-- The context of an endpoint's accesses and completions at the target (R443, R525). -/
def Ep.cx (e : Ep) : Cx := pasidCx unitNet e.pasid 4

/-- Packets of a peer take their turn (R457): the place of a delivery context under ROD. -/
def rodKey (p : NetPkt) : Nat := p.initiator * 4096 + p.lep

/-- The next place of the packet's delivery context. -/
def State.rodNext (s : State) (p : NetPkt) : Nat := tget 0 s.net.rodseq (rodKey p)

/-- The context goes on past this packet. -/
def State.rodPass (s : State) (p : NetPkt) : State :=
  if p.mode = 1 && s.rodNext p = p.seq then
    { s with net := { s.net with rodseq := tset (rodKey p) (p.seq + 1) s.net.rodseq } }
  else s

/-- A window of an endpoint allows the whole range of a message (R447). -/
def State.windowOk (s : State) (p : NetPkt) (write : Bool) : Bool :=
  match s.net.wins.lookup (pkey p.lep p.rkey) with
  | some w => (if write then w.w else w.r) && decide (w.va ≤ p.rva) && decide (p.rva + p.len ≤ w.va + w.len)
  | none => false

/-- The index of the initiator in the target's peer table, or 0xFFFF (R458). -/
def State.peerIndex (s : State) (p : NetPkt) : Nat :=
  match s.net.peers.find? fun e => e.1 / 65536 == p.lep && e.2.rfep * 4096 + e.2.rlep == p.initiator with
  | some e => e.1 % 65536
  | none => 0xFFFF

/-- A send takes its receive slot with the first of its packets (R458): `none` when that packet has been answered. -/
def State.takeSlot (s : State) (e : Ep) (p : NetPkt) : State × Option Rx :=
  match s.rxOf p with
  | some x => (s, some x)
  | none =>
    if e.rxsz - 32 < p.len then (s.refuse p 22, none)
    else
      match s.readVa e.cx (BitVec.ofNat 64 (e.rxbase + (2 ^ 64 - 0x20))) 8 with
      | (s, .error _) => (s.refuse p 21, none)
      | (s, .ok bs) =>
        if (e.putn + 2 ^ 64 - leNat bs) % 2 ^ 64 = e.rxn then (s.ackTo 1 p p.psn, none)
        else
          let n := e.putn % e.rxn
          let head := leBytes 4 p.len ++ leBytes 2 (s.peerIndex p) ++ leBytes 2 p.tag ++ leBytes 24 0
          match s.writeVa e.cx (BitVec.ofNat 64 (e.rxbase + n * e.rxsz)) head with
          | (s, .error _) => (s.refuse p 21, none)
          | (s, .ok _) =>
            let x := { p.rx0 with slot := some n }
            ((s.modEp p.lep fun e => { e with putn := e.putn + 1 }).setRx x, some x)

/-- Every byte of a message is placed (R459): RXSPEC for a send, then `nrspec`, then the completion acknowledgement. -/
def State.rxDone (s : State) (e : Ep) (p : NetPkt) : State :=
  let s := if p.kind = 0 then (s.fireOnce e.cx e.rxspec).1 else s
  (s.fireOnce e.cx p.rspec).1.ackTo 3 p 0

/-- A packet is placed at an address (R457): recorded, acknowledged, and with the last one the message is done. -/
def State.placePkt (s : State) (e : Ep) (p : NetPkt) (x : Rx) (va : Nat) : State :=
  match s.writeVa e.cx (BitVec.ofNat 64 (va + p.psn * 4096)) p.payload with
  | (s, .error _) => s.refuse p 21
  | (s, .ok _) =>
    let s := (s.rodPass p).ackTo 0 p p.psn
    if p.mode = 2 then s
    else
      let placed := p.psn :: x.placed
      let last := placed.length == p.npkt
      let s := s.setRx { x with placed := placed, fired := last }
      if last then s.rxDone e p else s

/-- A data packet at a live endpoint (R447, R457, R458). -/
def State.rxData (s : State) (e : Ep) (p : NetPkt) : State :=
  let x := (s.rxOf p).getD p.rx0
  if x.code ≠ 0 then (s.rodPass p).ackTo 3 p x.code
  else if p.mode ≠ 2 ∧ x.placed.contains p.psn then (s.ackTo 0 p p.psn)
  else if p.mode = 1 ∧ s.rodNext p < p.seq then s.ackTo 1 p p.psn
  else if p.kind = 0 then
    match s.takeSlot e p with
    | (s, none) => if (s.rxOf p).isSome then s.rodPass p else s
    | (s, some x) => s.placePkt e p x (e.rxbase + x.slot.getD 0 * e.rxsz + 0x20)
  else if !s.windowOk p true then (s.rodPass p).refuse p 20
  else s.placePkt e p x p.rva

/-- A packet of the answer to a read of ours is placed (R453): with the last byte the command is complete. -/
def State.rxRead (s : State) (p : NetPkt) : State :=
  match s.net.msgs.lookup p.mid with
  | none => s
  | some m =>
    if m.kind ≠ 2 ∨ m.state ≠ 2 ∨ m.acked.contains p.psn ∨ packetsOf m.len ≤ p.psn then s
    else
      match s.writeVa m.cx (m.va + BitVec.ofNat 64 (p.psn * 4096)) p.payload with
      | (s, .error (_, va)) => s.failMsg p.mid 19 va.toNat
      | (s, .ok _) =>
        let s := s.modMsg p.mid fun m => { m with acked := p.psn :: m.acked }
        if m.acked.length + 1 = packetsOf m.len then s.completeMsg p.mid else s

/-- The endpoint that a packet reaches (R443, R464): another job identifier is dropped and counted, a PASID that has stopped
refuses. -/
def State.atEndpoint (s : State) (p : NetPkt) (k : Ep → State) : State :=
  match s.net.eps.lookup p.lep with
  | none => s
  | some e =>
    if e.job ≠ p.job then s.modEp p.lep fun e => { e with jobdrops := e.jobdrops + 1 }
    else if (match s.ctxOf e.pasid with | some (_, c) => c.state == 1 | none => false) then k e
    else s.refuse p 21

/-- NET_PACKET_RX (R457 to R459). -/
def execNetPacketRx (s : State) : Out :=
  match s.ev with
  | .netPacketRx p => .next (if p.kind = 2 then s.rxRead p else s.atEndpoint p fun e => s.rxData e p)
  | _ => .next s

/-- The packets that answer a read go out. -/
def State.answerRead (s : State) (e : Ep) (p : NetPkt) (bs : List Byte) : State :=
  let one (s : State) (i : Nat) : State :=
    let (s, f) := s.free
    let q := { p with target := p.initiator, port := sprayPort e default f, psn := i, npkt := packetsOf p.len
                      payload := (bs.drop (i * 4096)).take 4096 }
    { s with net := { s.net with sent := s.net.sent ++ [q] } }
  (List.range (packetsOf p.len)).foldl one s

/-- A read of a window (R447, R453): unqualified loads at the target's homes, refused on a fault or a read-sensitive page. -/
def State.serveRead (s : State) (e : Ep) (p : NetPkt) : State :=
  if !s.windowOk p false then s.refuse p 20
  else
    match s.xlateAll e.cx .load (BitVec.ofNat 64 p.rva) p.len with
    | (s, .error _) => s.refuse p 21
    | (s, .ok ps) =>
      if ps.any (fun q => s.readSensitive q.1) then s.refuse p 21
      else
        match s.readVa e.cx (BitVec.ofNat 64 p.rva) p.len with
        | (s, .error _) => s.refuse p 21
        | (s, .ok bs) => s.answerRead e p bs

/-- NET_READ_REQUEST (R453): under ROD in its turn. -/
def execNetReadRequest (s : State) : Out :=
  match s.ev with
  | .netReadRequest p =>
    .next (s.atEndpoint p fun e =>
      if p.mode = 1 ∧ s.rodNext p < p.seq then s.ackTo 1 p p.psn
      else match s.rxOf p with
        | some x => (s.rodPass p).ackTo 3 p x.code
        | none => (s.rodPass p).serveRead e p)
  | _ => .next s

/-! ### Answers at the initiator -/

/-- NET_ACK (R460, R461): a packet is acknowledged; a RUDI message is complete with its last acknowledgement. -/
def execNetAck (s : State) : Out :=
  match s.ev with
  | .netAck id psn =>
    match s.net.msgs.lookup id with
    | none => .next s
    | some m =>
      if m.state ≠ 2 ∨ m.kind = 2 ∨ m.acked.contains psn ∨ m.npkt ≤ psn then .next s
      else
        let s := s.modMsg id fun m => { m with acked := psn :: m.acked, code := 0 }
        let s := s.congestion m.lep m.peer
        let rudi := match s.net.peers.lookup (pkey m.lep m.peer) with | some p => p.mode == 2 | none => false
        .next (if rudi && m.acked.length + 1 == m.npkt then s.completeMsg id else s)
  | _ => .next s

/-- A packet is sent again from the retransmit buffer (R456, R461). -/
def State.resendPkt (s : State) (id psn : Nat) (m : Msg) : State :=
  let k := pkey m.lep m.peer
  let s := { s with net := { s.net with retx := tset k (tget 0 s.net.retx k + 1) s.net.retx } }
  (s.sendPkt id psn).congestion m.lep m.peer

/-- NET_NACK (R441, R458, R461): a trimmed or refused packet is sent again; `full` says that the receive ring was full. -/
def execNetNack (s : State) : Out :=
  match s.ev with
  | .netNack id psn full =>
    match s.net.msgs.lookup id with
    | none => .next s
    | some m =>
      if m.state ≠ 2 ∨ m.npkt ≤ psn ∨ (m.kind ≠ 2 ∧ m.acked.contains psn) then .next s
      else .next ((s.modMsg id fun m => { m with code := if full then 23 else m.code }).resendPkt id psn m)
  | _ => .next s

/-- NET_RETRANSMIT_TIMER (R461): an unacknowledged packet is sent again; a message of which only the completion is missing is
probed. A command that something holds back stays due until it may start (R452). -/
def execNetRetransmitTimer (s : State) : Out :=
  match s.ev with
  | .netRetransmitTimer id psn =>
    match s.net.msgs.lookup id with
    | none => .next s
    | some m =>
      if m.state = 1 then .next (s.tryMsg id)
      else if m.kind ≠ 2 ∧ m.acked.length = m.npkt then .next (s.sendProbe id)
      else if m.npkt ≤ psn ∨ (m.kind ≠ 2 ∧ m.acked.contains psn) then .next s
      else .next (s.resendPkt id psn m)
  | _ => .next s

/-- NET_COMPLETION_ACK (R460, R463): `code` 0 completes a send or write, another fails the message. -/
def execNetCompletionAck (s : State) : Out :=
  match s.ev with
  | .netCompletionAck id code =>
    match s.net.msgs.lookup id with
    | none => .next s
    | some m =>
      if m.state ≠ 2 then .next s
      else if code ≠ 0 then .next (s.failMsg id code 0)
      else if m.kind = 2 then .next s
      else .next ((s.congestion m.lep m.peer).completeMsg id)
  | _ => .next s

/-- NET_TIMEOUT (R463): NOSPACE when the peer's receive ring stayed full, else TIMEOUT. -/
def execNetTimeout (s : State) : Out :=
  match s.ev with
  | .netTimeout id =>
    match s.net.msgs.lookup id with
    | none => .next s
    | some m => .next (s.failMsg id (if m.code = 23 then 23 else 24) 0)
  | _ => .next s

/-- PROBE (R461): the target answers from its message state; nothing fires again. -/
def execProbe (s : State) : Out :=
  match s.ev with
  | .probe lep from_ mid =>
    match s.net.rx.find? fun r => r.lep == lep && r.from_ == from_ && r.mid == mid with
    | none => .next s
    | some x =>
      let what := if x.fired || x.code != 0 then [[3, lep, from_, mid, x.code]]
        else x.placed.map fun p => [0, lep, from_, mid, p]
      .next { s with net := { s.net with acks := s.net.acks ++ what } }
  | _ => .next s

/-! ### Time -/

/-- A rate within 500 ppm of nominal (R467). -/
def clampPpm (x : Int) : Int := if 500 < x then 500 else if x < -500 then -500 else x

/-- PTP_EVENT (R467): the die's measured offset and its rate, both signed; `dtime` itself is not stepped. -/
def execPtpEvent (s : State) : Out :=
  match s.ev with
  | .ptpEvent d off ppm =>
    .next { s with net := { s.net with
      ptp := tset d off s.net.ptp, ppm := tset d (wrap64 (clampPpm (signed ppm 64))).toNat s.net.ppm } }
  | _ => .next s

end Sys2Proof.Machine
end

