-- ==== Sys2Proof/Machine/Order.lean ====
section
/-! DEFINITION. The order in which management commands run (R505, R506). -/

namespace Sys2Proof.Machine

/-- The objects that a command names (R499, R505): queue 1, PASID 2, RID 3, LEP 4, host window entry 5; as allocations a new queue,
PASID slot, RID, LEP or guest grant, 6 to 10. -/
def State.objects (s : State) (c : MCmd) : List (Nat × Nat) :=
  match c.op with
  | 0x01 => let q := s.peekN (c.arg 0) 4; if q = 0 then [(6, 0)] else [(1, q)]
  | 0x02 => [(1, c.arg 0)]
  | 0x03 => [(2, c.arg 0), (7, 0)]
  | 0x04 => [(2, c.arg 0)]
  | 0x05 => if (c.arg 0).testBit 20 then [(2, c.arg 0 % 2 ^ 20)] else []
  | 0x06 => [(2, c.arg 0)]
  | 0x08 => [(8, 0)]
  | 0x09 => [(3, c.arg 0)]
  | 0x0A => [(9, 0)]
  | 0x0B => [(4, c.arg 0)]
  | 0x0C => [(4, c.arg 0)]
  | 0x0D => [(4, c.arg 0)]
  | 0x0E => [(5, c.arg 0)]
  | 0x11 => [(2, c.arg 0), (10, 0)]
  | _ => []

/-- The PASID to which a command's object belongs. -/
def State.owner (s : State) (c : MCmd) : Option Nat :=
  match c.op with
  | 0x01 => some (s.peekN (c.arg 0 + 4) 4)
  | 0x02 => (s.queue (c.arg 0)).map (·.pasid)
  | 0x03 => some (c.arg 0)
  | 0x05 => if (c.arg 0).testBit 20 then some (c.arg 0 % 2 ^ 20) else none
  | 0x06 => some (c.arg 0)
  | 0x08 => some (c.arg 1)
  | 0x09 => (s.region (c.arg 0)).map (·.pasid)
  | 0x0A => some (s.peekN (c.arg 0) 4)
  | 0x0B => (s.net.eps.lookup (c.arg 0)).map (·.pasid)
  | 0x0C => (s.net.eps.lookup (c.arg 0)).map (·.pasid)
  | 0x0D => (s.net.eps.lookup (c.arg 0)).map (·.pasid)
  | 0x11 => some (c.arg 0)
  | _ => none

/-- A command waits for an earlier one (R505, R506): on the same object, a PSTOP on any object of its PASID; not a QDESTROY of a queue
whose destruction runs, nor a second PSTOP. -/
def State.waitsOn (s : State) (c e : MCmd) : Bool :=
  if c.op = 2 && e.op = 2 then c.arg 0 == e.arg 0 && !((s.queue (c.arg 0)).any fun q => q.enders.contains e)
  else if c.op = 4 && e.op = 4 then false
  else (s.objects c).any (s.objects e).contains || (c.op == 4 && s.owner e == some (c.arg 0))

/-- Nothing accepted before a command holds it up (R505, R506). -/
def State.inTurn (s : State) (c : MCmd) : Bool := (s.fe.cmds.takeWhile (· != c)).all fun e => !s.waitsOn c e

/-- Run a command in its turn; until then it stays due. -/
def State.command (s : State) (c : MCmd) (k : State) : Out := if s.inTurn c then .next k else .next (s.due [s.ev])

end Sys2Proof.Machine
end

