-- ==== Sys2Proof/Machine/XlatEv.lean ====
section
/-! DEFINITION. Rows of the translation engine: walks, device-wide invalidation, page responses and their timeout, the stop of
a PASID and its drain (R429 to R439). -/

namespace Sys2Proof.Machine

/-! ### Walks -/

/-- WALK_COMPLETE (R429 to R432): the walk of a unit for a PASID ends; one of a PASID that is not LIVE is discarded (R438). -/
def execWalkComplete (s : State) : Out :=
  match s.ev with
  | .walkComplete u p va acc =>
    let cx := pasidCx u p (unitDie u)
    match s.rootOf cx with
    | some (some (root, hdm)) =>
      .next (s.walkFor cx (if acc = 0 then .load else if acc = 1 then .store else .fetch) (va % 2 ^ 57) root hdm).1
    | _ => .next s
  | _ => .next s

/-! ### Invalidation -/

/-- A cached translation or table entry that a device-wide invalidation names (R435): `len` 0 stands for every address. -/
def invHits (pasid asid : Option Nat) (va len : Nat) (t : Tlb) : Bool :=
  (match pasid, asid with
   | some p, _ => t.tag == .pasid p
   | none, some a => t.tag == .asid a
   | none, none => false) &&
  (len == 0 || t.overlaps (va % 2 ^ 57) len)

/-- The cores that have harts. -/
def State.usedCores (s : State) : List Nat := ((tkeys s.harts).map coreOf).eraseDups

/-- A block of some core has fired its atomic group and has still to commit (R434). -/
def State.anyAtom (s : State) : Bool := s.usedCores.any s.atomInFlight

/-- Drop translations in every core, streamer, TQE, ATC and walker, the guest's set aside (R434, R435). -/
def State.dropAll (s : State) (hit : Tlb → Bool) : State :=
  let p (t : Tlb) : Bool := t.unit != unitGuest && hit t
  (s.usedCores.foldl (fun s ci => s.coreDrop ci p) s).tlbDrop p

/-- An invalidation is complete (R435). -/
def State.finishInval (s : State) (i : Inval) : State :=
  let s := s.tlbDrop fun t => t.unit == unitGuest && invHits i.pasid i.asid i.va i.len t
  let s := match i.cmd with | some c => s.answer c stOk | none => s
  if i.ats then { s with host := { s.host with answer := s.host.answer ++ [[1, i.pasid.getD 0, i.va, i.len]] } } else s

/-- A device-wide invalidation (R435): every party but the guest has acknowledged; the guest is asked where the bridge has
handed it a translation in the range (R491). -/
def State.invalidate (s : State) (i : Inval) : State :=
  let s := s.dropAll (invHits i.pasid i.asid i.va i.len)
  if s.gbnd && s.xlat.tlb.any fun t => t.unit == unitGuest && invHits i.pasid i.asid i.va i.len t then
    let s := s.toGuest [7, i.pasid.getD 0, i.tag, i.va, i.len / 4096]
    { s with xlat := { s.xlat with invals := s.xlat.invals ++ [i] } }
  else s.finishInval i

/-- The next TAG of a message from the bridge. -/
def State.nextTag (s : State) : State × Nat :=
  ({ s with tqe := { s.tqe with stamp := s.tqe.stamp + 1 } }, s.tqe.stamp % 2 ^ 32)

/-- INVAL (R435, R503): it waits for blocks whose atomic group has fired (R434). -/
def execInval (s : State) : Out :=
  match s.ev with
  | .inval c =>
    let a := c.arg 0
    let pas := a.testBit 20
    if !s.inTurn c then .next (s.due [.inval c])
    else if a / 2 ^ 21 ≠ 0 ∨ 2 ^ 52 ≤ c.arg 2 ∨ ownWindowVa (c.arg 1) then .next (s.answer c stInvalid)
    else if pas ∧ !(match s.ctxOf (a % 2 ^ 20) with | some (_, x) => x.state == 1 | none => false) then
      .next (s.answer c stNotFound)
    else if s.anyAtom then .next (s.due [.inval c])
    else
      let (s, tag) := s.nextTag
      .next (s.invalidate ⟨tag, if pas then some (a % 2 ^ 20) else none, if pas then none else some (a % 2 ^ 20), c.arg 1,
        c.arg 2 * 4096, some c, false⟩)
  | _ => .next s

/-- ATS_INVALIDATE (R435): the host's invalidation of a SHARED context, answered when every party has acknowledged. -/
def execAtsInvalidate (s : State) : Out :=
  match s.ev with
  | .atsInvalidate p va pages =>
    if s.anyAtom then .next (s.due [.atsInvalidate p va pages])
    else
      let (s, tag) := s.nextTag
      .next (s.invalidate ⟨tag, some p, none, va, pages * 4096, none, true⟩)
  | _ => .next s

/-! ### The guest's translations -/

/-- The answer to an XREQ (R490): PA, code, log2 of the page size, rights. -/
def State.xrsp (s : State) (pasid tag pa code lg rights : Nat) : State :=
  s.toGuest [6, pasid, tag, pa, code + lg * 256 + rights * 65536]

/-- The hub ATC's translation of a page of a PASID. -/
def State.guestTlb (s : State) (pasid va : Nat) : Option Tlb :=
  s.xlat.tlb.find? fun t => t.unit == unitGuest && t.tag == .pasid pasid && t.lg ≥ 12 && t.va == va / 2 ^ t.lg * 2 ^ t.lg

/-- The accesses that the rights of an XREQ stand for: R, W, X. -/
def rightsAccs (r : Nat) : List Acc :=
  (if r.testBit 0 then [Acc.load] else []) ++ (if r.testBit 1 then [.store] else []) ++ (if r.testBit 2 then [.fetch] else [])

/-- Translate for each right: the first that fails gives its code (R98, R254). A VA of the windows of R11 has no PA to give, and is
answered as an access fault (log entry 42). -/
def State.xreqTry (s : State) (cx : Cx) (va : Word) : List Acc → State × Option (Nat × Bool)
  | [] => (s, none)
  | a :: r =>
    let codes : Nat × Nat := match a with | .load => (4, 6) | .store => (5, 7) | .fetch => (2, 3)
    match s.window cx va.toNat with
    | some _ => (s, some (codes.2, false))
    | none =>
      match s.xlate cx a va with
      | (s, .ok _) => s.xreqTry cx va r
      | (s, .pageFault) => (s, some (codes.1, true))
      | (s, _) => (s, some (codes.2, false))

/-- The bridge answers an XREQ (R490): a page fault with PARK is first sent as a page request (R437). -/
def State.answerXreq (s : State) (pasid tag va rights : Nat) : State :=
  let cx := pasidCx unitGuest pasid 4
  match s.xreqTry cx (BitVec.ofNat 64 va) (rightsAccs rights) with
  | (s, some (code, pf)) =>
    if pf && rights.testBit 3 then (s.sendPrg (.guest pasid tag) pasid [(va / 4096 * 4096, rights % 8 + 8)]).1
    else s.xrsp pasid tag 0 code 0 0
  | (s, none) =>
    match s.guestTlb pasid (va % 2 ^ 57) with
    | some t =>
      s.xrsp pasid tag t.pa 0 t.lg ((if t.r then 1 else 0) + (if t.w && t.d then 2 else 0) + (if t.x then 4 else 0))
    | none => s.xrsp pasid tag 0 6 0 0

/-! ### Freeing a slot -/

/-- The PSTOP command that runs for a PASID: the first accepted. -/
def State.pstopOf (s : State) (pasid : Nat) : Option MCmd := s.fe.cmds.find? fun c => c.op == 4 && c.arg 0 == pasid

/-- A slot is freed and its PSTOP answered (R438 steps 6 and 7). -/
def State.freeSlot (s : State) (slot status : Nat) : State :=
  match s.xlat.ctx.lookup slot with
  | none => s
  | some x =>
    let s : State := { s with xlat := { s.xlat with
      ctx := tset slot { x with state := 0, gen := (x.gen + 1) % 16, orphans := 0, prgn := 0 } s.xlat.ctx } }
    match s.pstopOf x.pasid with
    | some c => s.answer c status
    | none => s

/-- An orphaned response has arrived (R438 steps 3 and 6). -/
def State.orphanBack (s : State) (slot gen : Nat) : State :=
  match s.xlat.ctx.lookup slot with
  | none => s
  | some x =>
    if x.gen ≠ gen ∨ x.orphans = 0 then s
    else
      let s : State := { s with xlat := { s.xlat with
        ctx := tset slot { x with orphans := x.orphans - 1, prgn := x.prgn - 1 } s.xlat.ctx } }
      if x.orphans = 1 && x.state == 3 then s.freeSlot slot stOk else s

/-! ### Page responses -/

/-- A group index is free again: the fault that has waited longest for one takes it (R437). -/
def State.prgFreed (s : State) : State :=
  match s.xlat.parkq with
  | [] => s
  | (who, p, pages) :: r =>
    let (s, i) := ({ s with xlat := { s.xlat with parkq := r } }).sendPrg who p pages
    match who with
    | .scalar h => s.modHart h fun x => match x.wait with | some (.page _ c va) => { x with wait := some (.page i c va) } | _ => x
    | _ => s

/-- The requester of a parked fault translates again (R119, R294, R437). -/
def State.parkOk (s : State) (who : PrgFor) (pages : List (Nat × Nat)) : State :=
  match who with
  | .block h => s.releaseHeld h false
  | .copy c => s.resendCopy c
  | .scalar h => s.modHart h fun x => match x.wait with | some (.page _ _ _) => { x with wait := none } | _ => x
  | .guest p t => match pages with | (va, r) :: _ => s.answerXreq p t va (r % 8 + 8) | [] => s
  | .nobody => s

/-- The requester of a parked fault gets it after all (R97, R119, R294, R437). -/
def State.parkBad (s : State) (who : PrgFor) (pages : List (Nat × Nat)) : State :=
  match who with
  | .block h => s.modHart h fun x => { x.setCs csrBfcause (x.cs csrBfcause ||| 0x8000) with held := true, parked := false }
  | .copy c => s.suspend c true
  | .scalar h =>
    match (s.hart h).wait with
    | some (.page _ c va) => (s.modHart h fun x => { x with wait := none }).exceptAt h c va
    | _ => s
  | .guest p t =>
    match pages with
    | (_, r) :: _ => s.xrsp p t 0 (if r.testBit 0 then 4 else if r.testBit 1 then 5 else 2) 0 0
    | [] => s
  | .nobody => s

/-- PRG_RESPONSE (R437 to R439): `code` 0 is Success. An orphaned or out-of-date response is discarded; the index frees. -/
def execPrgResponse (s : State) : Out :=
  match s.ev with
  | .prgResponse idx code =>
    match s.xlat.prgs.find? fun g => g.idx == idx with
    | none => .next s
    | some g =>
      let s : State := { s with xlat := { s.xlat with prgs := s.xlat.prgs.filter fun g => g.idx != idx } }
      let current := match s.xlat.ctx.lookup g.slot with | some x => x.gen == g.gen && x.state == 1 | none => g.slot == 4096
      let s :=
        if g.orphan || !current then s.orphanBack g.slot g.gen
        else
          let s := match s.xlat.ctx.lookup g.slot with
            | some x => { s with xlat := { s.xlat with ctx := tset g.slot { x with prgn := x.prgn - 1 } s.xlat.ctx } }
            | none => s
          if code = 0 then s.parkOk g.who g.pages else s.parkBad g.who g.pages
      .next s.prgFreed
  | _ => .next s

/-- PRTO_EXPIRY (R437, R439): as Invalid Request for the requester; the group index stays reserved. From 512 on the number
names a fault that still waits for an index. -/
def execPrtoExpiry (s : State) : Out :=
  match s.ev with
  | .prtoExpiry idx =>
    if 512 ≤ idx then
      match s.xlat.parkq[idx - 512]? with
      | some (who, p, pages) =>
        .next (({ s with xlat := { s.xlat with parkq := s.xlat.parkq.erase (who, p, pages) } }).parkBad who pages)
      | none => .next s
    else
      match s.xlat.prgs.find? fun g => g.idx == idx with
      | none => .next s
      | some g =>
        let s : State := { s with xlat := { s.xlat with
          prgs := s.xlat.prgs.map fun x => if x.idx = idx then { x with who := .nobody } else x } }
        .next (s.parkBad g.who g.pages)
  | _ => .next s

/-- HOST_PORT_RESET (R439): indices that stayed reserved for a response are free. -/
def execHostPortReset (s : State) : Out :=
  match s.ev with
  | .hostPortReset =>
    let n := s.xlat.prgs.length
    let s : State := { s with xlat := { s.xlat with prgs := s.xlat.prgs.filter fun g => !(g.orphan || g.who == .nobody) } }
    .next ((List.range (n - s.xlat.prgs.length)).foldl (fun s _ => s.prgFreed) s)
  | _ => .next s

/-! ### Stopping a PASID -/

/-- An instance of the PASID is left. -/
def State.instancesOf (s : State) (pasid : Nat) : Bool :=
  s.tqe.insts.any fun e => match s.tqe.pkts.lookup e.2.pk with
    | some p => ((s.queue p.q).map (·.pasid)) == some pasid
    | none => false

/-- Steps 1 to 3 of R438, with what R297, R364, R464 and R496 add: dispatch, copies and messages stop, requests are orphaned,
the guest is told. -/
def State.beginStop (s : State) (pasid slot : Nat) (x : Ctx) : State :=
  let mine (g : Prg) : Bool := g.slot == slot && g.gen == x.gen
  let n := (s.xlat.prgs.filter mine).length
  let s : State := { s with xlat := { s.xlat with
    ctx := tset slot { x with state := 2, orphans := n } s.xlat.ctx
    prgs := s.xlat.prgs.map fun g => if mine g then { g with orphan := true, who := .nobody } else g
    parkq := s.xlat.parkq.filter fun p => p.2.1 != pasid } }
  let qs := (s.tqe.queues.filter fun q => q.2.pasid == pasid).map (·.1)
  let s := qs.foldl (fun s q => s.stopQueue q) s
  let s := (s.abandonCopies 6 fun c => c.pasid == pasid).stopNet pasid
  if s.gbnd then
    let (s, tag) := s.nextTag
    let s := s.toGuest [9, pasid, tag]
    { s with guest := { s.guest with pstops := s.guest.pstops ++ [(pasid, tag)] } }
  else s

/-- Every party has dropped the PASID and acknowledged (R438 step 4, R496). -/
def State.stopAcked (s : State) (pasid : Nat) : Bool :=
  !s.anyAtom && !s.instancesOf pasid && !s.guest.pstops.any fun p => p.1 == pasid

/-- Steps 4 to 6 of R438. -/
def State.endStop (s : State) (pasid slot : Nat) : State :=
  let s := (s.dropAll (invHits (some pasid) none 0 0)).tlbDrop (invHits (some pasid) none 0 0)
  match s.xlat.ctx.lookup slot with
  | none => s
  | some x =>
    let s : State := { s with xlat := { s.xlat with ctx := tset slot { x with state := 3 } s.xlat.ctx } }
    if x.orphans = 0 then s.freeSlot slot stOk else s

/-- PSTOP (R438, R506): a second stop of the PASID is refused; the one that runs goes on when step 4 is complete. -/
def execPstop (s : State) : Out :=
  match s.ev with
  | .pstop c =>
    let p := c.arg 0
    match if p < 2 ^ 20 then s.ctxOf p else none with
    | none => .next (s.answer c stNotFound)
    | some (slot, x) =>
      if (s.pstopOf p).any (· != c) then .next (s.answer c stState)
      else if x.state = 1 then .next ((if s.inTurn c then s.beginStop p slot x else s).due [.pstop c])
      else if x.state ≠ 2 then .next s
      else if s.stopAcked p then .next (s.endStop p slot) else .next (s.due [.pstop c])
  | _ => .next s

/-- DRAIN_TIMEOUT (R438 step 7): the slot is freed all the same, and DRAINTO is recorded. -/
def execDrainTimeout (s : State) : Out :=
  match s.ev with
  | .drainTimeout slot =>
    match s.xlat.ctx.lookup slot with
    | some x =>
      if x.state = 3 then
        .next ((s.errorRecord { code := 0x15, sev := 1, unit := 10, pasid := x.pasid, detail := x.orphans }).freeSlot slot stDrainTo)
      else .next s
    | none => .next s
  | _ => .next s

end Sys2Proof.Machine
end

