-- ==== Sys2Proof/Machine/HostEv.lean ====
section
/-! DEFINITION. Rows of the host-attach engine (R470 to R480): put windows, BAR4, AtomicOps, snoops of COH lines, answers and
failures of the host ports. -/

namespace Sys2Proof.Machine

/-- An answer to the host: its kind, then status and data. -/
def State.toHost (s : State) (a : List Nat) : State := { s with host := { s.host with answer := s.host.answer ++ [a] } }

/-- Unsupported Request. -/
def hostUr : Nat := 1
/-- Completer Abort. -/
def hostCa : Nat := 2

/-! ### Put windows -/

/-- RESULT of a requester's last put (R476): the last 256 pairs of a port are held. -/
def State.setResult (s : State) (who pasid v : Nat) : State :=
  let others := s.host.result.filter fun r => !(r.1 == who && r.2.1 == pasid)
  let port := (who, pasid, v) :: others.filter fun r => r.1 / 65536 == who / 65536
  { s with host := { s.host with result := port.take 256 ++ others.filter fun r => r.1 / 65536 != who / 65536 } }

/-- A put that is discarded (R476, R477): a FAULT record with DETAIL 1, RESULT 2 where the write carried a PASID. It has no put
sequence: SEQ is open (log entry 4). -/
def State.badPut (s : State) (q d who : Nat) (pasid : Option Nat) : State :=
  let (s, v) := s.free
  let s := s.status q 8 0 d v.toNat 0 1
  match pasid with
  | some p => s.setResult who p 2
  | none => s

/-- The checks and the acceptance of a host put (R477). -/
def State.hostPuts (s : State) (qid d who : Nat) (q : Queue) (pasid : Option Nat) (image : List Byte) : State :=
  match pasid with
  | none => s.badPut qid d who none
  | some p =>
    if p ≠ q.pasid then s.badPut qid d who pasid
    else
      let m := imageOf image
      match s.offer qid q d m false with
      | (s, .taken n) => s.setResult who p (n % 2 ^ 62 * 4)
      | (s, .full _) => s.setResult who p 1
      | (s, .closed) => (s.refusePacket qid q d m 7).setResult who p 2
      | (s, .refused w) => (s.refusePacket qid q d m w).setResult who p 2

/-- HOST_PUT (R476, R477): a write at an offset of a die's sub-window. -/
def execHostPut (s : State) : Out :=
  match s.ev with
  | .hostPut qid d off who pasid image =>
    match s.queue qid with
    | none => .next s
    | some q =>
      if qid = 0 ∨ 4 ≤ d ∨ 0x40 ≤ off then .next s
      else if off ≠ 0 ∨ image.length ≠ 64 then .next (s.badPut qid d who pasid)
      else .next (s.hostPuts qid d who q pasid image)
  | _ => .next s

/-- PUT_RESULT_READ (R476): 3 where no result is held or the read carries no PASID; the page of queue 0 reads 0 (R470). -/
def execPutResultRead (s : State) : Out :=
  match s.ev with
  | .putResultRead q d who pasid =>
    let v := if q = 0 then 0 else match pasid with
      | none => 3
      | some p => ((s.host.result.find? fun r => r.1 == who && r.2.1 == p).map (·.2.2)).getD 3
    .next (s.toHost [4, q, d, who, v])
  | _ => .next s

/-! ### BAR4 -/

/-- Installed GDDR7 behind every byte of a BAR4 range (R470). -/
def State.bar4Ok (s : State) (off len : Nat) : Bool :=
  decide (0 < len) && (match s.backing off with | .gddr _ => true | _ => false) &&
    (match s.backing (off + len - 1) with | .gddr _ => true | _ => false) && decide (off / gib96 = (off + len - 1) / gib96)

/-- HOST_BAR4_READ (R470): an RDU at each line's home; poisoned data is answered as such. -/
def execHostBar4Read (s : State) : Out :=
  match s.ev with
  | .hostBar4Read off len =>
    if !s.bar4Ok off len then .next (s.toHost [3, hostUr, 0])
    else
      let s := s.loadLines noNode off len
      if s.poisoned off len then .next ((s.poisonRecord off).toHost [3, hostCa, 0])
      else .next (s.toHost [3, 0, s.peekN off len])
  | _ => .next s

/-- HOST_BAR4_WRITE (R470): a WRM at each line's home. -/
def execHostBar4Write (s : State) : Out :=
  match s.ev with
  | .hostBar4Write off bs => .next (if s.bar4Ok off bs.length then s.agentWrite off bs else s.toHost [3, hostUr, 0])
  | _ => .next s

/-- HOST_ATOMICOP (R469, R471): FetchAdd 0, Swap 8, CAS 10, of the widths that the port supports. -/
def execHostAtomicop (s : State) : Out :=
  match s.ev with
  | .hostAtomicop bar off op w x y =>
    let kind := (decide (op = 0 ∨ op = 8) && decide (w = 4 ∨ w = 8)) || (decide (op = 10) && decide (w = 4 ∨ w = 8 ∨ w = 16))
    if bar ≠ 4 ∨ !kind ∨ off % w ≠ 0 ∨ !s.bar4Ok off w then .next (s.toHost [5, hostUr, 0])
    else if s.inRegion off then .next (s.toHost [5, hostCa, 0])
    else
      let (s, old) := s.atomicAt noNode off op w (x % 2 ^ (8 * w)) (y % 2 ^ (8 * w))
      .next (s.toHost [5, 0, old])
  | _ => .next s

/-! ### Snoops -/

/-- The node copies of a line whose transaction waits for the host go without it (R474): the line was at most S. -/
def State.snoopVoid (s : State) (l : Nat) : State :=
  let s := (s.dir l).members.foldl (fun s n =>
    match s.ns n l with
    | .s => (s.dropCopies n l).setNs n l .i
    | .sm => (s.dropCopies n l).setNs n l .lostS
    | _ => s) s
  (s.setDir l (severDir (fun _ => true) 0 false (s.dir l))).setOuter l 0

/-- How a snoop of a line is taken (R474): `wait` while its transaction awaits nodes, from HS while it awaits the host. -/
def State.snooped (s : State) (l : Nat) (again : Ev) (stalled served : State) : State :=
  match s.coh.txn.lookup l with
  | some t => if t.phase = 0 then s.due [again] else stalled
  | none => served

/-- The data of a line as a snoop returns it. -/
def State.lineData (s : State) (l : Nat) : Nat := s.peekN (l * 128) 128

/-- SNPINV (R474). -/
def execSnpinv (s : State) : Out :=
  match s.ev with
  | .snpinv l =>
    if s.outer l = 0 then .next (s.snooped l (.snpinv l) (s.toHost [6, l, 0]) (s.toHost [6, l, 0]))
    else
      let served := (State.settle settleFuel l (s.homeServe l .evict)).setOuter l 0
      .next (s.snooped l (.snpinv l) ((s.snoopVoid l).toHost [6, l, 0])
        (served.toHost [6, l, 1, served.lineData l]))
  | _ => .next s

/-- SNPDATA (R474): an owner keeps a read copy. -/
def execSnpdata (s : State) : Out :=
  match s.ev with
  | .snpdata l =>
    if s.outer l = 0 then .next (s.snooped l (.snpdata l) (s.toHost [6, l, 0]) (s.toHost [6, l, 0]))
    else
      let served := (s.cohRead noNode l).setOuter l 1
      .next (s.snooped l (.snpdata l) ((s.setOuter l 1).toHost [6, l, 1, s.lineData l]) (served.toHost [6, l, 1, served.lineData l]))
  | _ => .next s

/-- SNPCUR (R474): HS stays. -/
def execSnpcur (s : State) : Out :=
  match s.ev with
  | .snpcur l =>
    if s.outer l = 0 then .next (s.snooped l (.snpcur l) (s.toHost [6, l, 0]) (s.toHost [6, l, 0]))
    else
      let served := s.cohRead noNode l
      .next (s.snooped l (.snpcur l) (s.toHost [6, l, 1, s.lineData l]) (served.toHost [6, l, 1, served.lineData l]))
  | _ => .next s

/-- HOST_READ_COMPLETE (R474): the host grants a copy, or ownership. -/
def execHostReadComplete (s : State) : Out :=
  match s.ev with
  | .hostReadComplete l own data =>
    .next (match s.backing (l * 128) with
      | .host _ => (s.outerData l data).outerGrant l (if own then 2 else 1)
      | _ => s)
  | _ => .next s

/-! ### Completions and failures -/

/-- The AtomicOp of a hart is answered (R475): performed, its instruction ends; failed, it takes the access fault. -/
def State.atomicAnswer (s : State) (h : Nat) (ok : Bool) : State :=
  match (s.hart h).wait with
  | some (.host loc va op n x y rd) =>
    let s : State := { s with host := { s.host with atomics := s.host.atomics.filter fun a => a.1 != h } }
    if ok then
      let (s, old) := s.atomicAt noNode loc op n x y
      let s := if n = 16 && rd != 0 then s.modHart h fun z => z.setX (rd + 1) (BitVec.ofNat 64 (old / 2 ^ 64)) else s
      s.finish h rd (if n = 4 then (BitVec.ofNat 32 old).signExtend 64 else BitVec.ofNat 64 old)
    else (s.modHart h fun z => { z with wait := none }).exceptAt h 7 va
  | _ => s

/-- ATOMICOP_COMPLETION (R475): any status but Successful is the access fault of the instruction. -/
def execAtomicopCompletion (s : State) : Out :=
  match s.ev with
  | .atomicopCompletion h ok => .next (s.atomicAnswer h ok)
  | _ => .next s

/-- The record of a host, peer or second-tier failure (R480, R511). -/
def State.portError (s : State) (port : Nat) : State :=
  s.errorRecord { code := 0x13, sev := 1, unit := 10, detail := port }

/-- The request that waits for the host fails with its node (R480). -/
def State.failTxn (s : State) (l : Nat) : State :=
  match s.coh.txn.lookup l with
  | none => s
  | some t =>
    let s : State := { s with coh := { s.coh with txn := tdel l s.coh.txn } }
    let back (s : State) (n : Nat) : State := if s.ns n l = .is ∨ s.ns n l = .im ∨ s.ns n l = .lostS then s.setNs n l .i else
      if s.ns n l = .sm then s.setNs n l .s else s
    let s := match t.req with
      | .gets n => back s n
      | .getx n => back s n
      | .upg n => back s n
      | _ => s
    (s.setBusy l false).homeFree l

/-- The host port that a PA is reached by, whatever its mapping (R472, R478). -/
def State.hostPortOf (s : State) (pa : Nat) : Option Nat :=
  match s.backing pa with
  | .host h => some (winPort (s.hostWin h))
  | .peer p _ => some (tget 0 s.host.peers p)
  | _ => none

/-- A line's transaction waits for the host through a port. -/
def State.awaitsPort (s : State) (port : Nat) (t : Nat × Txn) : Bool := t.2.phase == 2 && s.hostPortOf (t.1 * 128) == some port

/-- COMPLETION_TIMEOUT (R480): the AtomicOp of a hart that waits for the port fails, or the requests of the lines that do; the record
names the port. -/
def execCompletionTimeout (s : State) : Out :=
  match s.ev with
  | .completionTimeout port h =>
    let s := if s.host.atomics.any fun a => a.1 == h && s.hostPortOf a.2 == some port then s.atomicAnswer h false
      else match s.coh.txn.find? (s.awaitsPort port) with
        | some t => s.failTxn t.1
        | none => s
    .next (s.portError port)
  | _ => .next s

/-- HOST_LINK_DOWN (R480): what waits on the port fails as on timeout, on port 0 parked page requests too; posted writes on the link
are dropped. -/
def execHostLinkDown (s : State) : Out :=
  match s.ev with
  | .hostLinkDown port =>
    let hs := (s.host.atomics.filter fun a => s.hostPortOf a.2 == some port).map (·.1)
    let ls := (s.coh.txn.filter (s.awaitsPort port)).map (·.1)
    let s : State := { s with
      host := { s.host with
        down := port :: s.host.down.filter (· != port)
        posted := s.host.posted.filter fun w => w.1 != port }
      agenda := s.agenda.filter fun e => match e with
        | .hostReadComplete l _ _ => !ls.contains l
        | .atomicopCompletion h _ => !hs.contains h
        | _ => true }
    let s := hs.foldl (fun s h => s.atomicAnswer h false) s
    let s := ls.foldl (fun s l => s.failTxn l) s
    let ids := if port = 0 then (s.xlat.prgs.filter fun g => !g.orphan && g.who != .nobody).map (·.idx) else []
    let s := s.due (ids.map .prtoExpiry)
    let s := if port = 0 then s.due (s.xlat.parkq.map fun _ => .prtoExpiry 512) else s
    .next (s.portError port)
  | _ => .next s

end Sys2Proof.Machine
end

