-- ==== Sys2Proof/Machine/Guest.lean ====
section
/-! DEFINITION. Rows of the guest socket bridge (R482 to R497): attestation, the guest's messages, its coherent port, its memory, and
its isolation. -/

namespace Sys2Proof.Machine

/-! ### Isolation -/

/-- The guest's nodes: its coherent port. -/
def isGuest (n : Nat) : Bool := n == guestPort

/-- Every home treats the guest as a severed die (R497 step 2). -/
def State.cutGuest (s : State) : State :=
  let owned := (s.coh.dir.filter fun e => e.2.st == 2 && e.2.gp).map (·.1)
  let s := owned.foldl (fun s l =>
    s.errorRecord { code := 0x12, sev := 1, unit := 5, die := s.homeDie (l * 128), pa := l * 128 }) s
  let s : State := { s with
    agenda := s.agenda.filter fun e => evNode e != some guestPort
    coh := { s.coh with
      waitq := (s.coh.waitq.map fun w => (w.1, w.2.filter fun r => !r.dropped isGuest)).filter fun w => !w.2.isEmpty
      nodes := s.coh.nodes.filter fun e => !isGuest (e.1 / 2 ^ 45) } }
  let s := (tkeys s.coh.txn).foldl (fun s l => s.severTxn isGuest l) s
  { s with coh := { s.coh with dir := s.coh.dir.map fun e => (e.1, severDir isGuest e.2.dp false e.2) } }

/-- A line that the guest homes is dropped with every copy; one held modified is named (R497 step 3). -/
def State.dropGuestLine (s : State) (l : Nat) : State :=
  let s := if s.outer l = 2 then
      s.errorRecord { code := 0x12, sev := 1, unit := 5, die := s.homeDie (l * 128), pa := l * 128 } else s
  let s : State := { s with
    agenda := s.agenda.filter fun e => evLine e != some l
    coh := { s.coh with waitq := tdel l s.coh.waitq, room := s.coh.room.filter fun r => r.1 != l } }
  let s := (s.failTxn l).dropStale l
  let s := (List.range 512).foldl (fun s n => if s.ns n l = .i then s else (s.dropCopies n l).setNs n l .i) s
  let s := s.llcDrop l
  { s with guest := { s.guest with gs := tdel l s.guest.gs } }

/-- Lines of guest-homed memory that the device holds or asks for. -/
def State.guestLines (s : State) : List Nat :=
  ((tkeys s.guest.gs ++ tkeys s.coh.dir ++ tkeys s.coh.txn).filter fun l =>
    match s.backing (l * 128) with | .guest _ => true | _ => false).eraseDups

/-- Queued GUEST packets, those saved by the guest among them, complete with a FAULT record, DETAIL 6 (R497 step 5). -/
def State.failGuestPkts (s : State) : State :=
  let saved := (s.tqe.insts.filter fun e => e.2.guest && e.2.saved).map (·.1)
  let s := saved.foldl (fun s i => s.closeInst i 7) s
  let ids := (s.tqe.pkts.filter fun e => e.2.img.kind == 2 && e.2.live).map (·.1)
  let parts := s.tqe.parts.map fun e => (e.1, { e.2 with ents := e.2.ents.filter fun x => !ids.contains x.pk })
  let s : State := { s with tqe := { s.tqe with parts := parts } }
  ids.foldl (fun s pk => s.failPacket pk 8 6) s

/-- GUEST packets that wait in overflow lists are refused as their parts would refuse them (R360, R483). -/
def State.failGuestRecords (s : State) : State :=
  (s.tqe.parts.map fun e => (e.1, e.2.ovfl)).foldl (fun s e =>
    let img (s : State) (pa : Nat) : Image := imageOf (s.peek (pa + 0x40) 64)
    let bad := e.2.filter fun pa => (img s pa).kind == 2
    let s := s.modPart (e.1 / 4) (e.1 % 4) fun p => { p with ovfl := p.ovfl.filter fun pa => !bad.contains pa }
    bad.foldl (fun s pa =>
      match s.queue (e.1 / 4) with
      | some q => (setRecord s pa 4 0).refusePacket (e.1 / 4) q (e.1 % 4) (img s pa) 6
      | none => s) s) s

/-- Revokes that wait for the guest's acknowledgement complete without it (R496, R497 step 4). -/
def State.endRevokes (s : State) : State :=
  let cs := s.fe.cmds.filter fun c => c.op == 0x11 && c.arg 1 == 0 && s.guest.pstops.any fun x => x.1 == c.arg 0
  cs.foldl (fun s c => s.answer c stOk) { s with agenda := s.agenda.filter fun e => match e with | .ggrant c => !cs.contains c | _ => true }

/-- What the guest held is given up (R497 steps 2 to 5): copies, lines, invalidations and PSTOPs, instances, packets. -/
def State.loseGuest (s : State) (state : Nat) : State :=
  let s := s.endRevokes
  let s := s.cutGuest
  let s := s.guestLines.foldl (fun s l => s.dropGuestLine l) s
  let s : State := { s with guest := { s.guest with state := state } }
  let invs := s.xlat.invals
  let s := invs.foldl (fun s i => s.finishInval i) { s with xlat := { s.xlat with invals := [] } }
  let s := s.tlbDrop fun t => t.unit == unitGuest
  let runs := s.guest.runs
  let s : State := { s with guest := { s.guest with pstops := [], preempts := [], runs := [], discard := [], grants := [], gsize := 0 } }
  let s := runs.foldl (fun s i => let (s, v) := s.free; s.loseInst i 5 5 v.toNat) s
  s.failGuestRecords.failGuestPkts

/-- The guest is isolated (R497): `duty` is the row of R495 that failed. -/
def State.isolate (s : State) (duty : Nat) : State :=
  if s.gbnd then (s.loseGuest 3).errorRecord { code := 0x16, sev := 1, unit := 11, detail := duty } else s

/-- PROTOCOL_ERROR (R482, R497): a message that breaks R486, row 7 of R495, or a second answer, row 6; 0 is a failed retrain of the
guest's link, for which the spec names no row. -/
def execProtocolError (s : State) : Out :=
  match s.ev with
  | .protocolError w =>
    if w = 0 then
      let (s, v) := s.free
      .next (s.isolate v.toNat)
    else .next (s.isolate (if w = 6 then 6 else 7))
  | _ => .next s

/-- The duty whose limit has passed is still owed (R495). -/
def State.dutyOwed (s : State) (duty : Nat) : Bool :=
  match duty with
  | 1 => !s.xlat.invals.isEmpty
  | 2 => !s.guest.pstops.isEmpty
  | 3 => s.guest.runs.any fun i => s.guest.preempts.contains i || (s.tqe.insts.lookup i).any (·.asked)
  | 4 => s.coh.txn.any fun t => t.2.acks.contains guestPort || t.2.owner == some guestPort
  | 5 => s.coh.txn.any fun t => t.2.phase == 3
  | _ => false

/-- GUEST_DUTY_TIMEOUT (R495, R497). -/
def execGuestDutyTimeout (s : State) : Out :=
  match s.ev with
  | .guestDutyTimeout duty => .next (if s.dutyOwed duty then s.isolate duty else s)
  | _ => .next s

/-! ### Attestation -/

/-- ATTEST_START (R483, R484): the cluster starts it while the bridge is UNBOUND. -/
def execAttestStart (s : State) : Out :=
  match s.ev with
  | .attestStart =>
    if s.gsk && s.guest.state == 0 then
      let (s, tag) := s.nextTag
      .next ({ s with guest := { s.guest with state := 1 } }.toGuest [0x10, 0, tag])
    else .next s
  | _ => .next s

/-- Attestation has failed (R484): UNBOUND, with a record of the SPDM error code. -/
def State.attestFail (s : State) (code : Nat) : State :=
  { s with guest := { s.guest with state := 0 } }.errorRecord { code := 0x18, sev := 1, unit := 11, detail := code }

/-- The PASIDs that a policy grants (R485). -/
def policyPasids (p : List Byte) : List Nat := (List.range (field p 0xA 2)).map fun i => field p (0x390 + 4 * i) 4

/-- GUEST_SPDM (R484): the cluster's verdict on the guest's answers, 0 when chain, signature and measurements pass the policy, else the SPDM
error code. -/
def execGuestSpdm (s : State) : Out :=
  match s.ev with
  | .guestSpdm v =>
    if s.guest.state ≠ 1 then .next s
    else if v = 0 && s.guest.pol then
      .next { s with guest := { s.guest with
        state := 2, gsize := field s.guest.policy 0 8, grants := policyPasids s.guest.policy } }
    else .next (s.attestFail v)
  | _ => .next s

/-- ATTEST_TIMEOUT (R484): 1 s without an answer; no SPDM error code is named for it. -/
def execAttestTimeout (s : State) : Out :=
  match s.ev with
  | .attestTimeout =>
    if s.guest.state = 1 then
      let (s, v) := s.free
      .next (s.attestFail v.toNat)
    else .next s
  | _ => .next s

/-! ### Messages of the guest -/

/-- A message is accepted only from a bound guest (R483). -/
def State.ifBound (s : State) (k : State) : State := if s.gbnd then k else s

/-- The record of a refused message (R486, R490): its header word. -/
def State.guestRefused (s : State) (pasid header : Nat) : State :=
  s.errorRecord { code := 0x17, sev := 1, unit := 11, pasid := pasid, detail := header }

/-- The header word of a message (R486). -/
def headerWord (type pasid tag : Nat) : Nat := type + pasid * 256 + tag * 2 ^ 32

/-- A write or an atomic that the guest sent on its coherent port is still to be performed at its home (R492). -/
def State.guestWrites (s : State) : Bool :=
  let mine : Req → Bool := fun r => match r with
    | .wrm n _ => n == guestPort
    | .amo n _ _ _ _ _ => n == guestPort
    | .wbreq n => n == guestPort
    | _ => false
  s.coh.txn.any (fun t => mine t.2.req) || s.coh.waitq.any (fun w => w.2.any mine) || s.agenda.any fun e => match e with
    | .wrm n _ => n == guestPort
    | .amoRequest n _ _ _ _ _ => n == guestPort
    | .wbreq n _ => n == guestPort
    | .wbdata n _ _ => n == guestPort
    | _ => false

/-- A message of the packet channel that waits for the guest's earlier writes (R492). -/
def State.afterWrites (s : State) (k : State) : State := if s.gbnd && s.guestWrites then s.due [s.ev] else s.ifBound k

/-- A running guest instance has answered: it leaves the bridge's list. -/
def State.answered (s : State) (iid : Nat) : State :=
  { s with guest := { s.guest with
    runs := s.guest.runs.filter (· != iid), preempts := s.guest.preempts.filter (· != iid) } }

/-- A guest instance ends as one ended by ABORT-HARD, or by the stop of its PASID (R363, R364, R488). -/
def State.abortGuest (s : State) (t : Inst) : State :=
  match (s.tqe.pkts.lookup t.pk).bind fun p => s.queue p.q with
  | some q => if q.state = 3 then (s.instStatus t.iid 6 0 0).endInst t.iid false 6 else s.endInst t.iid false 7
  | none => s.endInst t.iid false 7

/-- The outcome of a DONE (R488, R489). -/
def State.guestEnds (s : State) (iid status detail : Nat) : State :=
  match s.tqe.insts.lookup iid with
  | none => s
  | some t =>
    let told := s.guest.preempts.contains iid
    let s := s.answered iid
    if told || status = 2 then s.abortGuest t
    else if status = 1 then
      (s.modPkt t.pk fun p => if p.recd = 0 then { p with recd := 8, detail := detail } else p).endInst iid true 7
    else s.endInst iid true 7

/-- GUEST_DONE (R488, R492), held back until the guest's writes are performed: a late DONE of an instance reported HUNG is discarded; an answer of no running instance isolates. -/
def execGuestDone (s : State) : Out :=
  match s.ev with
  | .guestDone iid status detail =>
    .next (s.afterWrites (
      if s.guest.discard.contains iid then
        { s with guest := { s.guest with discard := s.guest.discard.erase iid } }
      else if !s.guest.runs.contains iid then s.isolate 6
      else if 2 < status then s.isolate 7
      else s.guestEnds iid status detail))
  | _ => .next s

/-- GUEST_SAVED (R488, R489): the packet re-enters its part as a resume entry. -/
def execGuestSaved (s : State) : Out :=
  match s.ev with
  | .guestSaved iid resume =>
    .next (s.afterWrites (
      match s.tqe.insts.lookup iid with
      | none => s.isolate 6
      | some t =>
        if !s.guest.runs.contains iid then s.isolate 6
        else if !t.asked || s.guest.preempts.contains iid || resume = 0 then s.isolate 7
        else
          let s := (s.answered iid).modInst iid fun t => { t with saved := true, gresume := resume }
          match s.tqe.pkts.lookup t.pk with
          | none => s
          | some p =>
            match s.queue p.q with
            | none => s
            | some q =>
              if 2 ≤ q.state then s.endInst iid false (if q.state = 3 then 6 else 7)
              else s.addEntry p.q t.home ⟨t.pk, p.seq, t.pk, 3, t.slice, t.entry, t.arg, iid, none⟩ false))
  | _ => .next s

/-- GUEST_XREQ (R486, R490). -/
def execGuestXreq (s : State) : Out :=
  match s.ev with
  | .guestXreq pasid tag va rights =>
    .next (s.ifBound (
      if s.guest.grants.contains pasid then s.answerXreq pasid tag va rights
      else (s.xrsp pasid tag 0 6 0 0).guestRefused pasid (headerWord 5 pasid tag)))
  | _ => .next s

/-- GUEST_INVACK (R435, R491): the entries are dropped and the invalidation completes. -/
def execGuestInvack (s : State) : Out :=
  match s.ev with
  | .guestInvack pasid tag =>
    .next (s.ifBound (
      match s.xlat.invals.find? fun i => i.tag == tag && i.pasid.getD 0 == pasid with
      | some i => { s with xlat := { s.xlat with invals := s.xlat.invals.filter (· != i) } }.finishInval i
      | none => s.isolate 7))
  | _ => .next s

/-- A guest instance of the PASID runs. -/
def State.guestRunsOf (s : State) (pasid : Nat) : Bool :=
  s.guest.runs.any fun i =>
    ((s.tqe.insts.lookup i).bind fun t => (s.tqe.pkts.lookup t.pk).bind fun p => (s.queue p.q).map (·.pasid)) == some pasid

/-- GUEST_PSTOPACK (R496): the guest has ended every instance of the PASID and dropped its translations; a grant that is being
revoked goes with it (R484). -/
def execGuestPstopack (s : State) : Out :=
  match s.ev with
  | .guestPstopack pasid tag =>
    .next (s.ifBound (
      if !s.guest.pstops.contains (pasid, tag) then s.isolate 7
      else if s.guestRunsOf pasid then s.isolate 2
      else
        let revoked := s.fe.cmds.any fun c => c.op == 0x11 && c.arg 0 == pasid && c.arg 1 == 0
        { s with guest := { s.guest with
            pstops := s.guest.pstops.filter (· != (pasid, tag))
            grants := if revoked then s.guest.grants.filter (· != pasid) else s.guest.grants } }.tlbDrop
          fun t => t.unit == unitGuest && t.tag == Tag.pasid pasid))
  | _ => .next s

/-- GUEST_FIRE (R492): FIREACK 0 when the completion was performed, else 1. -/
def execGuestFire (s : State) : Out :=
  match s.ev with
  | .guestFire pasid tag c =>
    .next (s.afterWrites (
      if !s.guest.grants.contains pasid then (s.toGuest [0xC, pasid, tag, 1]).guestRefused pasid (headerWord 0xB pasid tag)
      else if cspecBad c then s.toGuest [0xC, pasid, tag, 1]
      else
        let (s, ok) := s.fireOnce (pasidCx unitGuest pasid 4) c
        s.toGuest [0xC, pasid, tag, if ok then 0 else 1]))
  | _ => .next s

/-! ### The coherent port -/

/-- What the guest sends on its coherent port, as the event numbers it: 0 GETS, 1 GETX, 2 UPG, 3 PUTS, 4 WBREQ (with the
data that its WBDATA will carry), 5 WBDATA, 6 WRM, 7 AMO, 8 RDU. The rights that each needs (R490): R, W. A WBREQ is refused at once
where its WBDATA would be. -/
def cohRights (kind : Nat) : Bool × Bool :=
  match kind with
  | 0 => (true, false)
  | 1 => (false, true)
  | 2 => (true, false)
  | 4 => (false, true)
  | 5 => (false, true)
  | 6 => (false, true)
  | 7 => (true, true)
  | 8 => (true, false)
  | _ => (false, false)

/-- The hub ATC holds a translation of the PASID that covers the PA with the rights (R490). -/
def State.hubCovers (s : State) (pasid pa : Nat) (need : Bool × Bool) : Bool :=
  s.xlat.tlb.any fun t => t.unit == unitGuest && t.tag == .pasid pasid && t.lg ≥ 12 && decide (t.pa ≤ pa) &&
    decide (pa < t.pa + 2 ^ t.lg) && (!need.1 || t.r) && (!need.2 || (t.w && t.d))

/-- The guest's port asks the home for a line (R390, R492); a request that its state for the line does not allow is a protocol error
(R495). -/
def State.guestAsks (s : State) (kind l : Nat) : State :=
  match kind, s.ns guestPort l with
  | 0, .i => (s.setNs guestPort l .is).due [.gets guestPort l]
  | 1, .i => (s.setNs guestPort l .im).due [.getx guestPort l]
  | 1, .s => (s.setNs guestPort l .im).due [.getx guestPort l]
  | 2, .s => (s.setNs guestPort l .sm).due [.upg guestPort l]
  | 2, .i => (s.setNs guestPort l .im).due [.getx guestPort l]
  | 3, .s => (s.setNs guestPort l .i).due [.puts guestPort l]
  | _, _ => s.isolate 7

/-- The guest gives a line up (R391): the data go with it when it is the owner. -/
def State.guestWriteBack (s : State) (l : Nat) (cells : List Host.Cell) : State :=
  match s.ns guestPort l with
  | .e =>
    let s := cells.foldl (fun s c => s.poke c.1 [c.2]) s
    State.settle settleFuel l ((s.setNs guestPort l (.vb true)).due [.wbreq guestPort l])
  | _ => s.isolate 7

/-- GUEST_COH_REQUEST (R486, R490, R492, R493): refused without a translation; on a round region only a masked write has a
place. -/
def execGuestCohRequest (s : State) : Out :=
  match s.ev with
  | .guestCohRequest kind pasid pa op w x y cells =>
    let l := lineOf pa
    let inLine := cells.all fun c => lineOf c.1 == l
    let ok := s.guest.grants.contains pasid && s.hubCovers pasid pa (cohRights kind)
    .next (s.ifBound (
      if 8 < kind ∨ !inLine then s.isolate 7
      else if !ok || (!s.cached pa && kind ≠ 6) then
        let (s, v) := s.free
        s.guestRefused pasid v.toNat
      else if kind = 4 then s.guestWriteBack l cells
      else if kind = 5 then s
      else if kind = 6 then cells.foldl (fun s c => s.storePiece guestPort c.1 [c.2]) s
      else if kind = 7 then (s.atomicAt guestPort pa op w x y).1
      else if kind = 8 then s.cohRead noNode l
      else State.settle settleFuel l (s.guestAsks kind l)))
  | _ => .next s

/-- GUEST_HOME_ANSWER (R494): the guest grants a copy (1) or ownership (2) of a line that it homes. -/
def execGuestHomeAnswer (s : State) : Out :=
  match s.ev with
  | .guestHomeAnswer l kind data =>
    .next (s.ifBound (
      match s.backing (l * 128) with
      | .guest _ => if kind = 1 ∨ kind = 2 then (s.outerData l data).outerGrant l kind else s
      | _ => s))
  | _ => .next s

end Sys2Proof.Machine
end

