-- ==== Sys2Proof/Machine/Place.lean ====
section
/-! DEFINITION. What a die's TQE does by itself (R338, R339, R342 to R358): launch, stealing, the choice of the next entry,
placement into inboxes, spilling, pre-emption requests, dispatch with the state of R83, hand-over of GUEST packets. -/

namespace Sys2Proof.Machine

/-! ### Launch and stealing -/

/-- The bitmaps of a group table (R355). -/
def groupBitmaps (b : List Byte) : List Nat := (List.range 256).map fun g => field b (64 * g) 64

/-- The members of each group below slice `n`; groups without members are unused. -/
def groupMembers (maps : List Nat) (n : Nat) : Tab (List Nat) :=
  (List.range maps.length).filterMap fun g =>
    let l := bitList (maps.getD g 0) (Nat.min n 512)
    if l.isEmpty then none else some (g, l)

/-- The groups of each slice, ascending (R356). -/
def groupSlots (mem : Tab (List Nat)) : Tab (List Nat) :=
  let slices := ((mem.map (·.2)).flatten).eraseDups
  slices.foldl (fun t k => tset k ((mem.filter fun e => e.2.contains k).map (·.1)) t) []

/-- The die's static share of `n` slices (R352). -/
def staticShare (dies : List Nat) (j n : Nat) : Nat × Nat := (j * n / dies.length, (j + 1) * n / dies.length)

/-- Read a packet's group table: the groups, or the DETAIL with which the launch fails (R355). -/
def State.readGroups (s : State) (p : Pkt) (pasid : Nat) : State × (Tab (List Nat) ⊕ Nat) :=
  if p.img.groups = 0 then (s, .inl [])
  else
    match s.readVa (pasidCx (unitTqe p.die) pasid p.die) (BitVec.ofNat 64 p.img.groups) 16384 with
    | (s, .error _) => (s, .inr 3)
    | (s, .ok b) =>
      let maps := groupBitmaps b
      if decide (512 < p.slices) && maps.any (· != 0) then (s, .inr 4)
      else
        let mem := groupMembers maps p.slices
        if (groupSlots mem).any fun e => decide (4 < e.2.length) then (s, .inr 5) else (s, .inl mem)

/-- Remove an entry from its part. -/
def State.removeEntry (s : State) (qid d : Nat) (e : Entry) : State :=
  s.modPart qid d fun p => { p with ents := p.ents.filter (· != e) }

/-- A packet reaches dispatch for the first time (R352, R355). -/
def State.launch (s : State) (qid d : Nat) (q : Queue) (e : Entry) (p : Pkt) : State :=
  let s := s.removeEntry qid d e
  match s.readGroups p q.pasid with
  | (s, .inr why) => s.failPacket e.pk 8 why
  | (s, .inl mem) =>
    let s := s.modPkt e.pk fun p => { p with members := mem, groups := groupSlots mem }
    if p.img.kind = 1 then
      let dies := dieList q.dies
      let s := s.modPkt e.pk fun p =>
        { p with shares := (List.range dies.length).map fun j => (dies.getD j 0, staticShare dies j p.slices) }
      dies.foldl (fun s d => s.addEntry qid d { e with work := 1 } false) s
    else s.addEntry qid d { e with work := 2 } false

/-- Slices left in a die's share. -/
def Pkt.left (p : Pkt) (d : Nat) : Nat := let s := tget (0, 0) p.shares d; s.2 - s.1

/-- A die whose share is empty steals, or its entry leaves its part (R353). -/
def State.steal (s : State) (qid d : Nat) (q : Queue) (e : Entry) (p : Pkt) : State :=
  let v := (dieList q.dies).foldl (fun b x => if p.left b < p.left x then x else b) q.lowDie
  let k := p.left v / 2
  if k = 0 then s.removeEntry qid d e
  else
    let sh := tget (0, 0) p.shares v
    s.modPkt e.pk fun p => { p with shares := tset d (sh.2 - k, sh.2) (tset v (sh.1, sh.2 - k) p.shares) }

/-! ### Cores -/

/-- A hart that no instance holds and that may be dispatched (R346, R350, R513). -/
def State.hartFree (s : State) (h : Nat) : Bool :=
  let c := s.core (coreOf h)
  (s.hart h).inst.isNone && !(c.wall && h % 8 == 7) && !s.coreOut (coreOf h) && !c.selftest

/-- The image of an entry's packet. -/
def State.entryImage (s : State) (e : Entry) : Image := match s.tqe.pkts.lookup e.pk with | some p => p.img | none => default

/-- A resume whose save owned the matrix engine (R331). -/
def State.entryMown (s : State) (e : Entry) : Bool :=
  e.work == 3 && match s.tqe.insts.lookup e.inst with | some t => t.mown | none => false

/-- A core admits an entry under R331 and R347. -/
def State.admits (s : State) (ci : Nat) (m : Image) (mown : Bool) : Bool :=
  let c := s.core ci
  !s.coreOut ci && !c.selftest && (c.save.isNone || c.save == some m.pre) &&
    !(m.pre && m.savekb != 0 && ((s.extent ci).isSome || c.inbox.any fun i => (s.entryImage i.ent).savekb != 0)) &&
    (!mown || s.matFree ci)

/-- Free harts of a core less its inbox entries. -/
def State.room (s : State) (ci : Nat) : Nat := ((coreHarts ci).filter s.hartFree).length - (s.core ci).inbox.length

/-- Running instances and inbox entries of a core. -/
def State.load (s : State) (ci : Nat) : Nat := (s.busyHarts ci).length + (s.core ci).inbox.length

/-- The cores of a die that a queue allows. -/
def Queue.cores (q : Queue) (d : Nat) : List Nat := ((List.range 128).filter fun c => q.clust.testBit (c / 8)).map (d * 128 + ·)

/-- The core that a spread entry goes to (R348). -/
def State.spreadCore (s : State) (q : Queue) (d : Nat) (m : Image) (mown : Bool) : Option Nat :=
  (q.cores d).foldl (fun b ci =>
    if s.room ci = 0 || !s.admits ci m mown then b
    else match b with
      | none => some ci
      | some o => if s.room o < s.room ci || (s.room o == s.room ci && decide (s.load ci < s.load o)) then some ci else b) none

/-- Inbox entries of the device. -/
def State.inboxes (s : State) : List Inbox := (s.cores.map fun e => e.2.inbox).flatten

/-- Spilled entries of the device. -/
def State.spilledAll (s : State) : List Inbox := (s.cores.map fun e => e.2.spilled).flatten

/-- An entry needs a save slot of its queue for its dispatch (R345): a resume has one, a GUEST packet takes none. -/
def State.needsSlot (s : State) (e : Entry) : Bool := let m := s.entryImage e; m.pre && e.work != 3 && m.kind != 2

/-- A save slot of the queue is free for one more entry, besides those in inboxes and spill rings (R345). -/
def State.saveRoom (s : State) (qid : Nat) (q : Queue) : Bool :=
  let waiting := (s.inboxes ++ s.spilledAll).filter fun i => i.q == qid && s.needsSlot i.ent
  decide (q.slotsUsed.length + waiting.length < q.saven)

/-- Instances of a part that run (R342). -/
def State.runCount (s : State) (qid d : Nat) : Nat :=
  (s.tqe.insts.filter fun e => e.2.home == d && !e.2.saved &&
    match s.tqe.pkts.lookup e.2.pk with | some p => p.q == qid | none => false).length

/-- The part may run one more instance (R333, R342). -/
def State.belowMax (s : State) (qid d : Nat) (q : Queue) : Bool := q.maxinst == 0 || decide (s.runCount qid d < q.maxinst)

/-- An entry can be spilled for a core (R350); a resume that is to have the core's engine waits in its part (R331). -/
def State.maySpill (s : State) (ci : Nat) (e : Entry) : Bool :=
  let c := s.core ci
  decide (16 ≤ c.inbox.length) && c.wall && !c.spillOff && (s.tqe.spill.lookup (dieOf ci)).isSome && !s.entryMown e

/-- There is a place for an entry: a free hart, or for a mapped one inbox room or its core's spill ring, or the guest (R342, R347). -/
def State.hasPlace (s : State) (d : Nat) (q : Queue) (e : Entry) : Bool :=
  let m := s.entryImage e
  if m.kind = 2 then s.gbnd
  else if q.mapped then
    match s.binCore q m.bin with
    | some ci => (decide ((s.core ci).inbox.length < 16) && s.admits ci m (s.entryMown e)) || s.maySpill ci e
    | none => false
  else (s.spreadCore q d m (s.entryMown e)).isSome

/-- The entry of a spread part that is next: a resume that waits for a matrix engine holds up no other (R331). -/
def State.headEntry (s : State) (qid d : Nat) (q : Queue) : Option Entry :=
  (s.qpart qid d).ents.find? fun e => !(s.entryMown e && !s.hasPlace d q e)

/-- A part whose queue dispatches and that has entries and is below MAXINST (R342). -/
def State.partOpen (s : State) (qid d : Nat) (q : Queue) : Bool :=
  q.dies.testBit d && decide (q.state ≤ 1) && !(s.qpart qid d).ents.isEmpty && s.belowMax qid d q

/-- A part is eligible (R342). -/
def State.eligible (s : State) (qid d : Nat) (q : Queue) : Bool :=
  s.partOpen qid d q &&
    if q.mapped then (s.qpart qid d).ents.any (s.hasPlace d q) else (s.headEntry qid d q).any (s.hasPlace d q)

/-! ### Placement -/

/-- An entry goes into a core's inbox (R346, R347): a share gives its lowest slice. A core without a mode takes that of the entry, and
a resume that owned the matrix engine is given the core's (R331). -/
def State.toInbox (s : State) (qid d ci eff : Nat) (e : Entry) : State :=
  let m := s.entryImage e
  let p := (s.tqe.pkts.lookup e.pk).getD default
  let sh := tget (0, 0) p.shares d
  let s :=
    if e.work = 1 then
      (s.modPkt e.pk fun p => { p with shares := tset d (sh.1 + 1, sh.2) p.shares }).modPart qid d fun p =>
        { p with ents := p.ents.map fun x => if x == e then { x with asked := none } else x }
    else s.removeEntry qid d e
  let ent := { e with work := if e.work = 1 then 2 else e.work, slice := if e.work = 1 then sh.1 else e.slice, asked := none }
  let it : Inbox := ⟨eff, s.tqe.stamp, qid, d, ent⟩
  let s := s.modCore ci fun c => { c with inbox := c.inbox ++ [it], save := some (c.save.getD m.pre) }
  let s := if s.entryMown e then s.modMat ci fun x => { x with resv := some e.inst } else s
  State.kick { s with tqe := { s.tqe with stamp := s.tqe.stamp + 1 } } (dieOf ci)

/-- A packet's first slice on a die comes after its deadline (R358). -/
def State.lateRecord (s : State) (p : Pkt) (q : Queue) (d iid pk : Nat) : State :=
  if q.policy ≠ 2 || p.late.contains d then s
  else
    let s := s.modPkt pk fun p => { p with late := d :: p.late }
    let dl := p.img.order % 2 ^ 48
    if dl < s.dtimeOf d then s.status p.q 3 0 d p.seq iid (s.dtimeOf d - dl) else s

/-- A mapped entry whose core's inbox is full is spilled to the Wallflower's ring (R350); the second result says so. -/
def State.spillEntry (s : State) (qid d ci eff : Nat) (e : Entry) : State × Bool :=
  let sd := dieOf ci
  match s.tqe.spill.lookup sd, s.tqe.pkts.lookup e.pk with
  | some (va, pasid), some p =>
    if !s.maySpill ci e then (s, false)
    else
      let cx := pasidCx (unitTqe sd) pasid sd
      let ring := BitVec.ofNat 64 (va + ci % 128 * 0x2000)
      let off (s : State) :=
        let (s, v) := s.free
        (s.modCore ci fun c => { c with spillOff := true }).errorRecord
          { code := v.toNat % 2 ^ 16, sev := v.toNat / 2 ^ 16 % 3, unit := v.toNat / 2 ^ 24 % 256, die := sd, core := ci % 128, pasid := pasid
            va := ring.toNat }
      match s.xlateRange cx .store ring 8 with
      | (s, .ok a) =>
        match s.xlateRange cx .load (ring + 0x20) 8 with
        | (s, .ok b) =>
          let s := (s.loadLines noNode a 8).loadLines noNode b 8
          let n := s.peekN a 8
          if 256 ≤ (n + 2 ^ 64 - s.peekN b 8) % 2 ^ 64 then (s, false)
          else
            match s.xlateRange cx .store (ring + BitVec.ofNat 64 (0x40 + 16 * (n % 256))) 16 with
            | (s, .ok w) =>
              let handle := qid * 2 ^ 52 + p.die * 2 ^ 50 + eff * 2 ^ 47 + p.slot
              let s := (s.agentWrite w (leBytes 8 handle ++ leBytes 8 p.img.order)).atomicAt noNode a 11 8 1 0
              let ent := { e with work := if e.work = 1 then 2 else e.work
                                  slice := if e.work = 1 then (tget (0, 0) p.shares d).1 else e.slice, asked := none }
              let s := if e.work = 1 then
                  let sh := tget (0, 0) p.shares d
                  s.1.modPkt e.pk fun p => { p with shares := tset d (sh.1 + 1, sh.2) p.shares }
                else s.1.removeEntry qid d e
              (s.modCore ci fun c => { c with spilled := c.spilled ++ [⟨eff, s.tqe.stamp, qid, d, ent⟩] }, true)
            | (s, _) => (off s, false)
        | (s, _) => (off s, false)
      | (s, _) => (off s, false)
  | _, _ => (s, false)

/-- A GUEST packet is handed to the bridge (R487): a new or a resumed instance, and the DISPATCH message (R486). -/
def State.guestRun (s : State) (qid d : Nat) (q : Queue) (e : Entry) : State :=
  let s := (s.removeEntry qid d e).modPart qid d fun p => { p with aged := false }
  let n := tget 0 s.tqe.count d + 1
  let s : State := { s with tqe := { s.tqe with count := tset d n s.tqe.count, stamp := s.tqe.stamp + 1 } }
  let m := s.entryImage e
  let old := if e.work = 3 then s.tqe.insts.lookup e.inst else none
  let t : Inst := match old with
    | some t => { t with saved := false, asked := false, stamp := s.tqe.stamp }
    | none =>
      { iid := qid * 2 ^ 52 + d * 2 ^ 50 + n % 2 ^ 50, pk := e.pk, slice := 0, die := d, hart := none, guest := true, pre := m.pre
        slot := none, savekb := 0, entry := e.entry, arg := e.arg, gresume := 0, stamp := s.tqe.stamp, ctag := 0, ntag := 0
        saved := false, mown := false, hung := false, asked := false, home := d }
  let msg := [1, q.pasid, t.stamp % 2 ^ 32, t.iid, t.gresume, leNat m.bytes]
  let s := (s.modPkt e.pk fun p => { p with begun := true }).lateRecord ((s.tqe.pkts.lookup e.pk).getD default) q d t.iid e.pk
  { s with tqe := { s.tqe with insts := tset t.iid t s.tqe.insts }
           guest := { s.guest with runs := s.guest.runs ++ [t.iid], sent := s.guest.sent ++ [msg] } }

/-- Try to place an entry; the second result says whether the TQE acted (R342, R345, R347 to R353). -/
def State.placeEntry (s : State) (qid d eff : Nat) (q : Queue) (e : Entry) : State × Bool :=
  match s.tqe.pkts.lookup e.pk with
  | none => (s.removeEntry qid d e, true)
  | some p =>
    if !p.live then (s.removeEntry qid d e, true)
    else if s.needsSlot e && !s.saveRoom qid q then (s, false)
    else if e.work = 4 then (s.launch qid d q e p, true)
    else if e.work = 1 && p.left d == 0 then (s.steal qid d q e p, true)
    else if p.img.kind = 2 then (if s.gbnd then (s.guestRun qid d q e, true) else (s, false))
    else
      let mown := s.entryMown e
      if q.mapped then
        match s.binCore q p.img.bin with
        | none => (s, false)
        | some ci =>
          if (s.core ci).inbox.length < 16 then
            (if s.admits ci p.img mown then (s.toInbox qid d ci eff e, true) else (s, false))
          else s.spillEntry qid d ci eff e
      else
        match s.spreadCore q d p.img mown with
        | some ci => (s.toInbox qid d ci eff e, true)
        | none => (s, false)

/-! ### Pre-emption requests -/

/-- The instances that an entry may displace on its die (R344, R347): priority, dispatch stamp, hart, identifier. -/
def State.victims (s : State) (q : Queue) (d eff : Nat) (m : Image) : List (Nat × Nat × Nat × Nat) :=
  s.tqe.insts.filterMap fun e =>
    match e.2.hart with
    | none => none
    | some h =>
      let ci := coreOf h
      let rest := (s.busyHarts ci).filter (· != h)
      let alike := rest.all fun o => s.preemptible o == m.pre
      let ext := match s.extent ci with | some (o, _) => m.pre && m.savekb != 0 && o != h | none => false
      if dieOf ci = d && q.clust.testBit (ci % 128 / 8) && !s.coreOut ci && e.2.pre && decide (s.prioOf h < eff) && alike && !ext
      then some (s.prioOf h, e.2.stamp, h, e.1) else none

/-- The victim of lowest priority, then latest dispatch, then highest core and hart number (R344). -/
def pickVictim (l : List (Nat × Nat × Nat × Nat)) : Option (Nat × Nat × Nat × Nat) :=
  l.foldl (fun b x =>
    match b with
    | none => some x
    | some y =>
      if decide (x.1 < y.1) || (x.1 == y.1 && (decide (y.2.1 < x.2.1) || (x.2.1 == y.2.1 && decide (y.2.2.1 < x.2.2.1))))
      then some x else b) none

/-- A spread entry that finds no free hart asks for one, at most once at a time (R121, R344). -/
def State.requestHart (s : State) (qid d eff : Nat) (q : Queue) (e : Entry) : State :=
  let pending := match e.asked with
    | some i => match s.tqe.insts.lookup i with | some t => t.hart.isSome | none => false
    | none => false
  if pending || s.entryMown e then s
  else
    match pickVictim (s.victims q d eff (s.entryImage e)) with
    | none => s
    | some (_, _, h, i) =>
      let s := s.modHart h fun x => if x.preempt.isNone then { x with preempt := some ⟨0, true, false, false, false⟩ } else x
      s.modPart qid d fun p => { p with ents := p.ents.map fun x => if x == e then { x with asked := some i } else x }

/-! ### Choice -/

/-- A part's effective priority (R343). -/
def State.effPrio (s : State) (qid d : Nat) (q : Queue) : Nat :=
  if q.age ≠ 0 && (s.qpart qid d).aged then Nat.min (q.prio + 1) 7 else q.prio

/-- Take a part's entries in order until the TQE acts. A blocked entry holds up those behind it, but for mapped entries
(R349) and resumes that wait for a matrix engine (R331). -/
def State.tryEntries (qid d eff : Nat) (q : Queue) : List Entry → State → State × Bool
  | [], s => (s, false)
  | e :: r, s =>
    match s.placeEntry qid d eff q e with
    | (s, true) => (s, true)
    | (s, false) => if q.mapped || s.entryMown e then State.tryEntries qid d eff q r s else (s, false)

/-- The parts of a die that a test names, in the order of choice (R342). -/
def State.partsBy (s : State) (d : Nat) (ok : Nat → Queue → Bool) : List (Nat × Queue) :=
  let ok := s.tqe.queues.filter fun e => ok e.1 e.2
  let head (e : Nat × Queue) := ((s.qpart e.1 d).ents.headD default).stamp
  sortBy (fun a b =>
    let pa := s.effPrio a.1 d a.2
    let pb := s.effPrio b.1 d b.2
    decide (pb < pa) || (pa == pb && (decide (head a < head b) || (head a == head b && decide (a.1 < b.1))))) ok

/-- The eligible parts of a die, in the order of choice (R342). -/
def State.candidates' (s : State) (d : Nat) : List (Nat × Queue) := s.partsBy d fun qid q => s.eligible qid d q

/-- The heads of spread parts that wait only for a free hart ask for one each (R344). -/
def State.requestAll (s : State) (d : Nat) : State :=
  (s.partsBy d fun qid q => s.partOpen qid d q && !q.mapped).foldl (fun s e =>
    match s.headEntry e.1 d e.2 with
    | some x =>
      if (s.entryImage x).kind = 2 || s.hasPlace d e.2 x || (s.needsSlot x && !s.saveRoom e.1 e.2) then s
      else s.requestHart e.1 d (s.effPrio e.1 d e.2) e.2 x
    | none => s) s

/-- The TQE tries the parts in order. -/
def State.trySchedule (d : Nat) : List (Nat × Queue) → State → State × Bool
  | [], s => (s, false)
  | (qid, q) :: r, s =>
    match State.tryEntries qid d (s.effPrio qid d q) q (s.qpart qid d).ents s with
    | (s, true) => (s, true)
    | (s, false) => State.trySchedule d r s

/-! ### Dispatch -/

/-- The hart state of R83 for a new instance. -/
def Hart.dispatched (x : Hart) (t : Inst) (q : Queue) (m : Image) (a1 a2 a3 : Nat) : Hart :=
  let zero := [3, csrVcfg, csrVl, csrVlmax, csrSigto, csrCpyspec, csrCpyshape, csrNep, csrNrva, csrNcspec, csrNrspec, csrMcfg,
    csrBfcause, csrBfcause + 1, csrBfcause + 2, csrBfcause + 3, csrBfcause + 4]
  let ctx := match t.slot with | some n => q.saveva + n * (q.savesz * 4096) | none => 0
  let csr := zero.foldl (fun c n => tset n 0 c) x.csr
  let w (n : Nat) : Word := BitVec.ofNat 64 n
  let x := { x with
    pc := w t.entry, x := [(10, w t.arg), (11, w a1), (12, w a2), (13, w a3)], f := [], priv := .u
    csr := tset csrPfpark (w q.pfpark) (tset csrCtxbase (w ctx) csr)
    biq := [], held := false, parked := false, vlost := false, garr := 0, slip := m.slip, grant := []
    claims := [], gexcl := false, holds := [], wait := none, timedOut := false, inst := some t.iid, ctag := t.ctag, ntag := t.ntag
    preempt := none, save := none, resume := none, resumed := false, sbuf := [], sync := false, told := false }
  x.setRequest (m.lgreq + (if bit m.flags 1 then 8 else 0) + q.allow * 16)

/-- A free hart takes an inbox entry (R83, R128, R339, R345, R346). -/
def State.dispatch (s : State) (h : Nat) (it : Inbox) : State :=
  let ci := coreOf h
  let d := dieOf ci
  let e := it.ent
  let s := s.modCore ci fun c => { c with inbox := c.inbox.filter (· != it) }
  match s.tqe.pkts.lookup e.pk, s.queue it.q with
  | some p, some q =>
    let n := tget 0 s.tqe.count d + 1
    let s : State := { s with tqe := { s.tqe with count := tset d n s.tqe.count, stamp := s.tqe.stamp + 1 } }
    let m := p.img
    let s := (s.modCore ci fun c => { c with save := some m.pre }).modPart it.q it.home fun p => { p with aged := false }
    if e.work = 3 then
      match s.tqe.insts.lookup e.inst with
      | none => s
      | some t =>
        let va := q.saveva + t.slot.getD 0 * (q.savesz * 4096)
        let s := s.modInst e.inst fun t => { t with hart := some h, saved := false, die := d, stamp := s.tqe.stamp, home := it.home }
        let s := if t.mown then (s.matTake h false).modMat ci fun x => { x with resv := none } else s
        (s.modHart h fun x => { x with inst := some e.inst, resume := some ⟨BitVec.ofNat 64 va, none⟩, wait := some .task, preempt := none }).due
          [.resume h]
    else
      let slot := if m.pre then leastBelow q.saven fun i => !q.slotsUsed.contains i else none
      let s := match slot with | some i => s.modQueue it.q fun q => { q with slotsUsed := i :: q.slotsUsed } | none => s
      let t : Inst :=
        { iid := it.q * 2 ^ 52 + d * 2 ^ 50 + n % 2 ^ 50, pk := e.pk, slice := e.slice, die := d, hart := some h, guest := false
          pre := m.pre, slot := slot, savekb := m.savekb, entry := e.entry, arg := e.arg, gresume := 0, stamp := s.tqe.stamp
          ctag := 0, ntag := 0, saved := false, mown := false, hung := false, asked := false, home := it.home }
      let s : State := { s with tqe := { s.tqe with insts := tset t.iid t s.tqe.insts } }
      let s := (s.modPkt e.pk fun p => { p with begun := true }).lateRecord p q d t.iid e.pk
      let a1 := if m.kind = 1 then m.base + e.slice * m.grain else m.base
      let a2 := if m.kind = 1 then Nat.min m.grain (m.count - e.slice * m.grain) else 1
      let a3 := q.sva + p.die * (64 * q.cap) + 64 * p.slot
      s.modHart h fun x => x.dispatched t q m a1 a2 a3
  | _, _ => s

/-- An inbox entry that the core's harts can take now (R345 to R347), its part below MAXINST. -/
def State.takeable (s : State) (ci : Nat) (it : Inbox) : Bool :=
  let m := s.entryImage it.ent
  ((s.busyHarts ci).all fun h => s.preemptible h == m.pre) && !(m.pre && m.savekb != 0 && (s.extent ci).isSome) &&
    match s.queue it.q with
    | some q => s.belowMax it.q it.home q && (!s.needsSlot it.ent || decide (q.slotsUsed.length < q.saven))
    | none => true

/-- A core's next dispatch: its lowest free hart and the inbox entry of highest priority, then earliest placement. -/
def State.nextDispatch (s : State) (ci : Nat) : Option (Nat × Inbox) :=
  match (coreHarts ci).find? s.hartFree with
  | none => none
  | some h =>
    (sortBy (fun (a b : Inbox) => decide (b.prio < a.prio) || (a.prio == b.prio && decide (a.stamp < b.stamp)))
      ((s.core ci).inbox.filter (s.takeable ci))).head?.map fun i => (h, i)

/-! ### One step of a TQE -/

/-- The entries of a core out of service return to their parts at their former places (R513); those of a queue that drops its work
are dropped (R363). -/
def State.returnInbox (s : State) (ci : Nat) : State :=
  let l := (s.core ci).inbox
  let s := (s.modCore ci fun c => { c with inbox := [] }).modMat ci fun m => { m with resv := none }
  (l.foldl (fun s i =>
    match s.queue i.q with
    | some q => if 2 ≤ q.state then s.dropEntry i.home i.ent (if q.state = 3 then 6 else 7) else s.addEntry i.q i.home i.ent true
    | none => s) s).clearMode ci

/-- A copy that stands still and whose instance has ended is abandoned (R297). -/
def State.dropOrphan (s : State) (d : Nat) : Option State :=
  (s.copies.find? fun c => dieOf c.2.core == d && s.orphan c.2 && c.2.state != .running).map fun c =>
    (s.copyRecord c.2 7).dropCopy c.1

/-- What a die's TQE does next, if anything: a MARKER completes, a stray copy ends, an inbox is given back, a hart takes an
entry, or a part's entry is launched, stolen for, or placed. -/
def State.tqeStep (s : State) (d : Nat) : State × Bool :=
  match s.tqe.queues.findSome? fun e => s.readyMarker e.1 d with
  | some pk => (s.endPacket pk, true)
  | none =>
    match s.dropOrphan d with
    | some t => (t, true)
    | none =>
      let cores := (tkeys s.cores).filter fun ci => dieOf ci == d && !(s.core ci).inbox.isEmpty
      match cores.find? fun ci => s.coreOut ci || (s.core ci).selftest with
      | some ci => (s.returnInbox ci, true)
      | none =>
        match cores.findSome? s.nextDispatch with
        | some (h, it) => (s.dispatch h it, true)
        | none => match State.trySchedule d (s.candidates' d) s with
          | (s, true) => (s, true)
          | (s, false) => (s.requestAll d, false)

/-- TQE_DISPATCH (R342): one decision of a die's TQE, which looks again after each. -/
def execTqeDispatch (s : State) : Out :=
  match s.ev with
  | .tqeDispatch d => match s.tqeStep d with | (s, true) => .next (s.kick d) | (s, false) => .next s
  | _ => .next s

end Sys2Proof.Machine
end

