-- ==== Sys2Proof/Machine/Tqe.lean ====
section
/-! DEFINITION. The queue instructions of custom-2 (R351, R366 to R374), `gbar` (R114), and the remaining events of the task
queue engines (R114, R343, R357, R360, R361, R363). -/

namespace Sys2Proof.Machine

/-! ### Puts -/

/-- The live queue of the hart's PASID that an operand names; anything else is a command fault (R366). -/
def State.ownQueue (s : State) (n : Nat) (k : Queue → Out) : Out :=
  match (if 1 ≤ n ∧ n ≤ 4095 then s.queue n else none) with
  | some q => if q.pasid = s.pasidOf s.cur then k q else .next (s.cmdFault 0)
  | none => .next (s.cmdFault 0)

/-- The release of a queue instruction, at max(device, `vcfg`.SCOPE) (R73, R367, R369, R370). -/
def State.releaseDevice (s : State) : State := s.releaseAt (Nat.max 3 (vcfgScope (s.me.cs csrVcfg)))

/-- The packet at an operand's address, read as a scalar load and checked (R336, R337, R367). -/
def State.readPacket (s : State) (q : Queue) (va : Word) (k : State → Image → Out) : Out :=
  if va.toNat % 64 ≠ 0 then .next (s.cmdFault 0)
  else if !s.released then .next (s.wait .blocks)
  else s.releaseDevice.scalarRead va 64 fun s b =>
    let m := imageOf b
    if (s.packetRefused q m).isSome then .next (s.cmdFault 0) else k s m

/-- The result of an accepted put (R367). -/
def putResult (seq : Nat) : Word := BitVec.ofNat 64 (seq % 2 ^ 62 * 4)

/-- TQPUT (R367). -/
def execTqput (rd rs1 rs2 : BitVec 5) (s : State) : Out :=
  let n := (s.x rs2).toNat
  s.ownQueue n fun q =>
    s.readPacket q (s.x rs1) fun s m =>
      match s.offer n q (hartDie s.cur) m false with
      | (s, .taken seq) => .next (s.retireX rd (putResult seq))
      | (s, .full _) => .next (s.retireX rd 1)
      | (s, .closed) => .next (s.retireX rd 2)
      | (s, .refused _) => .next (s.cmdFault 0)

/-- The first spilled entry of a core that a handle names (R350, R351). -/
def State.spilledBy (s : State) (ci handle : Nat) : Option Inbox :=
  if bits handle 32 15 ≠ 0 then none
  else (s.core ci).spilled.find? fun i =>
    i.q == bits handle 52 12 && i.prio == bits handle 47 3 &&
      match s.tqe.pkts.lookup i.ent.pk with
      | some p => p.die == bits handle 50 2 && p.slot == handle % 2 ^ 32
      | none => false

/-- TQPUT_LOOPBACK (R351). -/
def execTqputLoopback (rd rs1 rs2 : BitVec 5) (s : State) : Out :=
  let ci := s.myCore
  let c := s.core ci
  if (s.x rs2).toNat ≠ 0xFFFFFFFF || s.me.priv != .s || !(c.wall && s.cur % 8 == 7) then .next (s.cmdFault 0)
  else
    match s.spilledBy ci (s.x rs1).toNat with
    | none => .next (s.cmdFault 0)
    | some i =>
      if !s.released then .next (s.wait .blocks)
      else if 16 ≤ c.inbox.length then .next (s.retireX rd 1)
      else
        let seq := match s.tqe.pkts.lookup i.ent.pk with | some p => p.seq | none => 0
        let m := s.entryImage i.ent
        let stamp := s.tqe.stamp
        let s := s.modCore ci fun c =>
          { c with spilled := c.spilled.erase i, inbox := c.inbox ++ [{ i with stamp := stamp }], save := some (c.save.getD m.pre) }
        let s : State := { s with tqe := { s.tqe with stamp := stamp + 1 } }
        .next ((s.kick (dieOf ci)).retireX rd (putResult seq))

/-- TQAT (R357, R368): FULL also while records wait in the overflow list of the part that the packet would go to now (R360). -/
def execTqat (rd rs1 rs2 rs3 : BitVec 5) (s : State) : Out :=
  let n := (s.x rs2).toNat
  let t := (s.x rs3).toNat
  s.ownQueue n fun q =>
    s.readPacket q (s.x rs1) fun s m =>
      let d := hartDie s.cur
      if q.state ≠ 0 then .next (s.retireX rd 2)
      else if 8192 ≤ (s.tqe.wheel.filter (·.die == d)).length || !(s.qpart n (s.partDie q d m)).ovfl.isEmpty then .next (s.retireX rd 1)
      else
        let s : State := { s with tqe := { s.tqe with wheel := s.tqe.wheel ++ [⟨d, t, n, q.pasid, m⟩] } }
        let s := if t ≤ s.dtimeOf d then s.releaseWheel d else s
        .next (s.retireX rd 0)

/-! ### Dependence records -/

/-- The record at an operand's address, at its home slice (R359, R369). -/
def State.recordLoc (s : State) (va : Word) (k : State → Nat → Out) : Out :=
  if va.toNat % 128 ≠ 0 then .next (s.cmdFault va)
  else s.toLoc .store va 128 fun s loc =>
    if !s.recordPlace loc || s.inRegion loc then .next (s.cmdFault va)
    else if !s.released then .next (s.wait .blocks)
    else k (s.releaseDevice.recordStep loc) loc

/-- TQDEP (R369). -/
def execTqdep (rd rs1 rs2 : BitVec 5) (s : State) : Out :=
  let v := (s.x rs2).toNat
  s.ownQueue (v / 2 ^ 32) fun q =>
    s.recordLoc (s.x rs1) fun s loc =>
      let st := s.peekN (loc + 0x0C) 4
      .next ((s.armRecord loc (v % 2 ^ 32) (v / 2 ^ 32) q.pasid).retireX rd (BitVec.ofNat 64 st))

/-- TQDEC (R370). -/
def execTqdec (rd rs1 : BitVec 5) (s : State) : Out :=
  s.recordLoc (s.x rs1) fun s loc =>
    let old := s.peekN loc 4 + s.peekN (loc + 0x0C) 4 % 8 * 2 ^ 32
    .next ((s.decrementHere loc).retireX rd (BitVec.ofNat 64 old))

/-- DEP_DECREMENT (R360): a decrement from a completion. -/
def execDepDecrement (s : State) : Out :=
  match s.ev with
  | .depDecrement pa => .next (s.decrement pa)
  | _ => .next s

/-! ### Tickets -/

/-- A ticket fault (cause 27, R371). -/
def State.ticketFault (s : State) (va : Word) : State := s.except 27 va

/-- TKWAIT (R371). -/
def execTkwait (rd rs1 rs2 : BitVec 5) (s : State) : Out :=
  let t := (s.x rs2).toNat % 2 ^ 32
  let va := s.x rs1
  s.signalLoc .load va fun s loc =>
    let s := s.loadLines noNode loc 8
    if s.poisoned loc 8 then .next ((s.poisonRecord loc).except 5 va)
    else
      let v := s.peekN loc 8
      let d := (v % 2 ^ 32 + 2 ^ 32 - t) % 2 ^ 32
      if d = 0 then .next (s.retireX rd (BitVec.ofNat 64 v))
      else if d < 2 ^ 31 then .next (s.ticketFault va)
      else if s.me.timedOut then .next (s.retireX rd (BitVec.ofNat 64 v))
      else .next (s.wait (.signal loc))

/-- A gate whose serving number is served advances by one (R361, R371). -/
def State.advanceGate (s : State) (loc v : Nat) : State :=
  (s.atomicAt noNode loc 10 8 v (v / 2 ^ 32 * 2 ^ 32 + (v % 2 ^ 32 + 1) % 2 ^ 32)).1

/-- The advance that a packet owes is paid when the gate and the ticket are its own (R361). -/
def State.payTicket (s : State) (va : Word) (t : Nat) : State :=
  match s.me.inst.bind fun i => s.tqe.insts.lookup i with
  | none => s
  | some x =>
    match s.tqe.pkts.lookup x.pk with
    | none => s
    | some p =>
      match s.queue p.q with
      | none => s
      | some q =>
        if p.img.ticketed && p.img.ticket == t && va.toNat == q.gatebase + 32 * p.img.bin then
          s.modPkt x.pk fun p => { p with paid := true }
        else s

/-- TKDONE (R371). -/
def execTkdone (rd rs1 rs2 : BitVec 5) (s : State) : Out :=
  let t := (s.x rs2).toNat % 2 ^ 32
  let va := s.x rs1
  s.signalLoc .store va fun s loc =>
    if !s.released then .next (s.wait .blocks)
    else
      let s := (s.releaseAt (vcfgScope (s.me.cs csrVcfg))).loadLines noNode loc 8
      let v := s.peekN loc 8
      if v % 2 ^ 32 ≠ t then .next (s.ticketFault va)
      else .next (((s.advanceGate loc v).payTicket va t).retireX rd (BitVec.ofNat 64 v))

/-- Where an owed gate stands, if it can be reached (R361). -/
def State.owedGate (s : State) (p : Pkt) : State × Option Nat :=
  match p.owed with
  | none => (s, none)
  | some (va, pasid) =>
    match s.xlateRange (pasidCx (unitTqe p.die) pasid p.die) .store (BitVec.ofNat 64 va) 8 with
    | (s, .ok loc) => if s.signalPlace loc then (s.loadLines noNode loc 8, some loc) else (s, none)
    | (s, _) => (s, none)

/-- The advance that a completed packet owes can be made now. -/
def State.ticketReady (s : State) (pk : Nat) : Bool :=
  match s.tqe.pkts.lookup pk with
  | some p => match s.owedGate p with
    | (s, some loc) => s.peekN loc 4 == p.img.ticket
    | (_, none) => true
  | none => true

/-- TICKET_ADVANCE (R361): it waits until the gate serves the ticket; a gate that cannot be reached is given up. -/
def execTicketAdvance (s : State) : Out :=
  match s.ev with
  | .ticketAdvance pk =>
    match s.tqe.pkts.lookup pk with
    | none => .next s
    | some p =>
      if p.live then .next s
      else
        let out (s : State) : State := { s with tqe := { s.tqe with pkts := tdel pk s.tqe.pkts } }
        match s.owedGate p with
        | (s, none) => .next (out s)
        | (s, some loc) =>
          let v := s.peekN loc 8
          if v % 2 ^ 32 = p.img.ticket then .next (out (s.advanceGate loc v)) else .next (s.due [.ticketAdvance pk])
  | _ => .next s

/-! ### Ends -/

/-- Commands of the executing hart's instance, issued on whichever hart, that `tqdone` waits for (R297, R372). -/
def State.commandsRun (s : State) : Bool :=
  ((s.core s.myCore).mat.queue.any fun q => q.1 == s.cur) ||
  (s.copies.any fun c => sameAgent s.cur s.me.inst c.2.hart c.2.inst && c.2.state == .running) ||
  s.net.msgs.any fun m => sameAgent s.cur s.me.inst m.2.hart m.2.inst && m.2.state == 1

/-- What `tqdone` and `tqyield` wait for (R372, R373). -/
def State.whenQuiet (s : State) (k : Out) : Out :=
  if !s.released then .next (s.wait .blocks) else if s.commandsRun then .next (s.wait .commands) else k

/-- The release of an ending, at max(device, CSPEC.SCOPE) (R372, R373). -/
def State.releaseDone (s : State) : State :=
  match (s.me.inst.bind fun i => s.tqe.insts.lookup i).bind fun t => s.tqe.pkts.lookup t.pk with
  | some p => s.releaseAt (Nat.max 3 (cspecScope p.img.cspec))
  | none => s

/-- TQDONE (R372): a hart without an instance has none to end and is free. -/
def execTqdone (s : State) : Out :=
  s.whenQuiet (match s.me.inst with
    | some i => .next (s.releaseDone.retire.endInst i true 7)
    | none => .next (s.retire.freeHart s.cur))

/-- A yielded slice goes back into the part it came from with a new put sequence, a task's packet with it (R341, R373); a queue that
drops its work drops it too (R363). -/
def State.requeue (s : State) (t : Inst) (entry arg : Nat) : State :=
  match s.tqe.pkts.lookup t.pk with
  | none => s
  | some p =>
    match s.queue p.q with
    | none => s
    | some q =>
      if 2 ≤ q.state then
        let s := s.modPkt t.pk fun p => { p with retired := t.slice :: p.retired }
        (s.checkBars t.pk).dropSlices t.pk 1
      else
        let seq := (s.qpart p.q t.home).seq
        let s := s.modPart p.q t.home fun p => { p with seq := seq + 1 }
        let s := if p.img.kind = 0 then s.modPkt t.pk fun p => { p with seq := seq } else s
        s.addEntry p.q t.home ⟨t.pk, seq, t.pk, 2, t.slice, entry, arg, 0, none⟩ (p.img.kind == 1)

/-- TQYIELD (R373). -/
def execTqyield (rs1 rs2 : BitVec 5) (s : State) : Out :=
  if rs1 ≠ 0 ∧ (s.x rs1).toNat % 2 = 1 then .next (s.cmdFault 0)
  else
    s.whenQuiet (match s.me.inst.bind fun i => s.tqe.insts.lookup i with
      | none => .next (s.retire.freeHart s.cur)
      | some t =>
        let entry := if rs1 = 0 then t.entry else (s.x rs1).toNat
        let arg := if rs2 = 0 then t.arg else (s.x rs2).toNat
        .next ((s.releaseDone.retire.closeInst t.iid 7).requeue t entry arg))

/-! ### tqstat -/

/-- `tqstat` with selector `n`; another selector than the row's is a command fault (R374). -/
def State.tqstat (s : State) (n : Nat) (rs2 : BitVec 5) (k : Out) : Out :=
  if (s.x rs2).toNat = n then k else .next (s.cmdFault 0)

/-- The queue that `tqstat` reads: that of the operand, or the hart's own. -/
def State.statQueue (s : State) (rs1 : BitVec 5) (k : Nat → Queue → Out) : Out :=
  let own := (s.me.inst.bind fun i => s.tqe.insts.lookup i).bind fun t => (s.tqe.pkts.lookup t.pk).map (·.q)
  let n := if s.x rs1 = 0 then own.getD 0 else (s.x rs1).toNat
  s.ownQueue n (k n)

/-- TQSTAT_DEPTH (R374). -/
def execTqstatDepth (rd rs1 rs2 : BitVec 5) (s : State) : Out :=
  s.tqstat 0 rs2 (s.statQueue rs1 fun n _ =>
    let waiting := (s.tqe.pkts.filter fun e => e.2.q == n && e.2.live && !e.2.begun).length
    let parked := ((List.range 4).map fun d => (s.qpart n d).ovfl.length).sum
    .next (s.retireX rd (BitVec.ofNat 64 (waiting + parked))))

/-- TQSTAT_RUN (R374). -/
def execTqstatRun (rd rs1 rs2 : BitVec 5) (s : State) : Out :=
  s.tqstat 1 rs2 (s.statQueue rs1 fun n _ =>
    .next (s.retireX rd (BitVec.ofNat 64 (s.tqe.insts.filter fun e => !e.2.saved &&
      match s.tqe.pkts.lookup e.2.pk with | some p => p.q == n | none => false).length)))

/-- TQSTAT_STATE (R374). -/
def execTqstatState (rd rs1 rs2 : BitVec 5) (s : State) : Out :=
  s.tqstat 2 rs2 (s.statQueue rs1 fun _ q => .next (s.retireX rd (BitVec.ofNat 64 q.state)))

/-- TQSTAT_PRIO (R343, R374). -/
def execTqstatPrio (rd rs1 rs2 : BitVec 5) (s : State) : Out :=
  s.tqstat 3 rs2 (s.statQueue rs1 fun n q =>
    let d := hartDie s.cur
    .next (s.retireX rd (if q.dies.testBit d then BitVec.ofNat 64 (s.effPrio n d q) else BitVec.ofNat 64 (q.prio + 2 ^ 63))))

/-- TQSTAT_OVF (R374). -/
def execTqstatOvf (rd rs1 rs2 : BitVec 5) (s : State) : Out :=
  s.tqstat 4 rs2 (s.statQueue rs1 fun _ q => .next (s.retireX rd (BitVec.ofNat 64 q.ovf)))

/-- The running instance of the executing hart and its packet; without one a command fault. -/
def State.ownInst (s : State) (k : Inst → Pkt → Out) : Out :=
  match s.me.inst.bind fun i => s.tqe.insts.lookup i with
  | some t => match s.tqe.pkts.lookup t.pk with | some p => k t p | none => .next (s.cmdFault 0)
  | none => .next (s.cmdFault 0)

/-- TQSTAT_INST (R374). -/
def execTqstatInst (rd rs1 rs2 : BitVec 5) (s : State) : Out :=
  let _ := rs1
  s.tqstat 5 rs2 (s.ownInst fun t _ => .next (s.retireX rd (BitVec.ofNat 64 t.iid)))

/-- TQSTAT_SLICE (R374). -/
def execTqstatSlice (rd rs1 rs2 : BitVec 5) (s : State) : Out :=
  let _ := rs1
  s.tqstat 6 rs2 (s.ownInst fun t _ => .next (s.retireX rd (BitVec.ofNat 64 t.slice)))

/-- The groups of a slice, by slot (R356). -/
def Pkt.groupsOf (p : Pkt) (slice : Nat) : List Nat := tget [] p.groups slice

/-- TQSTAT_GROUPS (R374). -/
def execTqstatGroups (rd rs1 rs2 : BitVec 5) (s : State) : Out :=
  let _ := rs1
  s.tqstat 7 rs2 (s.ownInst fun t p =>
    let l := p.groupsOf t.slice
    .next (s.retireX rd (BitVec.ofNat 64 (((List.range 4).map fun g => l.getD g 0xFFFF * 2 ^ (16 * g)).sum))))

/-! ### gbar -/

/-- GARR of a slot (R90). -/
def Hart.setGarr (x : Hart) (g : Nat) (b : Bool) : Hart :=
  { x with garr := if b then x.garr ||| (1 <<< g) else x.garr &&& (15 ^^^ (1 <<< g)) }

/-- A group fault (cause 28, R114). -/
def State.groupFault (s : State) (g : Nat) : State := s.except 28 (BitVec.ofNat 64 g)

/-- GBAR (R114, R115). -/
def execGbar (g : BitVec 2) (s : State) : Out :=
  let n := g.toNat
  match s.me.inst.bind fun i => s.tqe.insts.lookup i with
  | none => .next (s.groupFault n)
  | some t =>
    match s.tqe.pkts.lookup t.pk with
    | none => .next (s.groupFault n)
    | some p =>
      match (p.groupsOf t.slice)[n]? with
      | none => .next (s.groupFault n)
      | some gn =>
        if !s.me.garr.testBit n then
          if !s.released then .next (s.wait .blocks)
          else
            let s := s.modPkt t.pk fun p => { p with bar := tset gn (t.slice :: (tget [] p.bar gn).filter (· != t.slice)) p.bar }
            .next (((s.modMe fun x => x.setGarr n true).checkBars t.pk).wait (.group t.pk gn))
        else if !(tget [] p.bar gn).contains t.slice then .next (s.modMe fun x => x.setGarr n false).retire
        else if s.me.timedOut then
          let s := s.modPkt t.pk fun p => { p with bar := tset gn ((tget [] p.bar gn).filter (· != t.slice)) p.bar }
          .next ((s.modMe fun x => x.setGarr n false).groupFault n)
        else .next (s.wait (.group t.pk gn))

/-- GBAR_RELEASE (R114): a complete episode ends, and its members go on. -/
def execGbarRelease (s : State) : Out :=
  match s.ev with
  | .gbarRelease pk g =>
    match s.tqe.pkts.lookup pk with
    | none => .next s
    | some p =>
      if (tget [] p.bar g).isEmpty || !p.barMet g then .next s
      else
        let s := s.modPkt pk fun p => { p with bar := tset g [] p.bar }
        .next (s.liveHarts.foldl (fun s h =>
          if (s.hart h).wait = some (.group pk g) then s.modHart h fun x => { x with wait := none } else s) s)
  | _ => .next s

/-! ### Time and destruction -/

/-- AGE_EXPIRY (R343): a part that has stayed eligible for AGE gains a step of priority. -/
def execAgeExpiry (s : State) : Out :=
  match s.ev with
  | .ageExpiry qid d =>
    match s.queue qid with
    | some q =>
      if q.age ≠ 0 && s.eligible qid d q then
        .next ((s.modPart qid d fun p => { p with aged := true }).kick d)
      else .next s
    | none => .next s
  | _ => .next s

/-- ALMANAC_TICK (R357): a microsecond of the die's time passes, and entries whose time has come are offered. -/
def execAlmanacTick (s : State) : Out :=
  match s.ev with
  | .almanacTick d =>
    let s : State := { s with tqe := { s.tqe with dtime := tset d (s.dtimeOf d + 1000) s.tqe.dtime } }
    .next (s.releaseWheel d)
  | _ => .next s

/-- The lines of a queue's storage, one range per part (R334). -/
def Queue.pins (q : Queue) : List (Nat × Nat) := (dieList q.dies).map fun d => (lineOf (q.slotPa d 0), lineOf (q.slotPa d q.cap))

/-- A queue's storage no longer stays in its LLC (R334). -/
def State.unpin (s : State) (q : Queue) : State :=
  { s with coh := { s.coh with pinned := s.coh.pinned.filter fun r => !q.pins.contains r } }

/-- QUEUE_DESTROY_COMPLETE (R363), once no copy may still leave a record: wheel entries of an empty queue are dropped, the queue and its storage are freed, and the
commands that wait for it are answered. -/
def execQueueDestroyComplete (s : State) : Out :=
  match s.ev with
  | .queueDestroyComplete qid =>
    match s.queue qid with
    | none => .next s
    | some q =>
      if !q.dying || !s.queueEmpty qid then .next s
      else if s.queueCopies qid then .next (s.due [.queueDestroyComplete qid])
      else
        let ws := s.tqe.wheel.filter fun w => w.q == qid
        let s : State := { s with tqe := { s.tqe with wheel := s.tqe.wheel.filter fun w => w.q != qid } }
        let s := (ws.foldl (fun s w => s.endWheel w 7) s).unpin q
        let s : State := { s with tqe := { s.tqe with
          queues := tdel qid s.tqe.queues
          parts := s.tqe.parts.filter fun e => e.1 / 4 != qid } }
        .next (q.enders.foldl (fun s c => s.answer c stOk) s)
  | _ => .next s

end Sys2Proof.Machine
end

