-- ==== Sys2Proof/Machine/Fe.lean ====
section
/-! DEFINITION. The front end (R498 to R507): the mailbox, the command queue and its order, every management command, and the
supervisor's `ecall`. -/

namespace Sys2Proof.Machine

/-! ### Arguments -/

/-- A range of device PAs that populated resources back (R503). -/
def State.readablePa (s : State) (pa len : Nat) : Bool :=
  s.backed pa && s.backed (pa + len - 1) && decide (pa + len ≤ 2 ^ 52)

/-- The image at a PA argument: none where it cannot be read (R503). -/
def State.imageAt (s : State) (pa len : Nat) : State × Option (List Byte) :=
  if !s.readablePa pa len then (s, none)
  else
    let s := s.loadLines noNode pa len
    if s.poisoned pa len then (s.poisonRecord pa, none) else (s, some (s.peek pa len))

/-- Whether a PASID may be named (R503, R506): NOTFOUND when it is not live, STATE while it stops. -/
def State.pasidStatus (s : State) (p : Nat) : Nat :=
  match if p < 2 ^ 20 then s.ctxOf p else none with
  | some (_, x) => if x.state = 1 then stOk else stState
  | none => stNotFound

/-- An object of a PASID exists for a command only while the PASID is live (R503). -/
def State.pasidLive (s : State) (p : Nat) : Bool := s.pasidStatus p == stOk

/-- Bytes `a` to `b - 1` of an image are 0. -/
def zeroed (b : List Byte) (x y : Nat) : Bool := ((b.drop x).take (y - x)).all (· == 0)

/-- A power of two between two bounds. -/
def pow2In (x lo hi : Nat) : Bool := decide (lo ≤ x) && decide (x ≤ hi) && x &&& (x - 1) == 0

/-! ### The queue -/

/-- The event that executes a command (R503). -/
def cmdEv (c : MCmd) : Option Ev :=
  match c.op with
  | 0x01 => some (.qcreate c)
  | 0x02 => some (.qdestroy c)
  | 0x03 => some (.pbind c)
  | 0x04 => some (.pstop c)
  | 0x05 => some (.inval c)
  | 0x06 => some (.winen c)
  | 0x07 => some (.wallset c)
  | 0x08 => some (.rcreate c)
  | 0x09 => some (.rdestroy c)
  | 0x0A => some (.epcreate c)
  | 0x0B => some (.epdestroy c)
  | 0x0C => some (.peerset c)
  | 0x0D => some (.nwinreg c)
  | 0x0E => some (.hwinset c)
  | 0x0F => some (.ptpset c)
  | 0x10 => some (.gpolicy c)
  | 0x11 => some (.ggrant c)
  | 0x12 => some (.selftest c)
  | 0x13 => some (.info c)
  | 0x14 => some (.meminfo c)
  | _ => none

/-- A command enters the queue (R505); one that no row of R503 names is INVALID. -/
def State.enqueue (s : State) (c : MCmd) : State :=
  let s : State := { s with fe := { s.fe with cmds := s.fe.cmds ++ [c] } }
  match cmdEv c with
  | some e => s.due [e]
  | none => s.answer c stInvalid

/-- The command in 128 bytes (R501). -/
def parseCmd (b : List Byte) (slot pa : Nat) (hart : Option Nat) : MCmd :=
  { op := field b 0 2, flags := field b 2 2, tag := field b 4 4, slot := slot, pa := pa, hart := hart
    args := (List.range 15).map fun i => field b (8 + 8 * i) 8 }

/-! ### The mailbox -/

/-- Overlay bytes on a list from an offset. -/
def overlay (old : List Byte) (off : Nat) (new : List Byte) : List Byte :=
  (List.range old.length).map fun i => if off ≤ i ∧ i < off + new.length then new.getD (i - off) 0 else old.getD i 0

/-- A doorbell (R501): discarded and counted, or its slot's command enters the queue. -/
def State.ring (s : State) (v : Nat) : State :=
  let slot := v % 256
  if v / 256 ≠ 0 || s.fe.busy.contains slot || s.fe.state ≠ 2 || decide (320 ≤ s.fe.cmds.length) then
    { s with fe := { s.fe with drops := (s.fe.drops + 1) % 2 ^ 32 } }
  else
    let c := parseCmd (tget (List.replicate 128 0) s.fe.cmdb slot) slot 0 none
    { s with fe := { s.fe with busy := slot :: s.fe.busy } }.enqueue c

/-- DOORBELL (R500, R501): a host write to BAR2. -/
def execDoorbell (s : State) : Out :=
  match s.ev with
  | .doorbell off bs =>
    if off = 8 ∧ bs.length = 8 then .next (s.ring (leNat bs))
    else if 0x10 ≤ off ∧ off + bs.length ≤ 0x18 then
      .next { s with fe := { s.fe with evbase := leNat (overlay (leBytes 8 s.fe.evbase) (off - 0x10) bs) } }
    else if 0x18 ≤ off ∧ off + bs.length ≤ 0x1C then
      .next { s with fe := { s.fe with evcfg := leNat (overlay (leBytes 4 s.fe.evcfg) (off - 0x18) bs) % 2 ^ 16 } }
    else
      let slot := (off - 0x1000) / 256
      let o := off % 256
      if 0x1000 ≤ off ∧ slot < 256 ∧ o + bs.length ≤ 128 then
        .next { s with fe := { s.fe with
          cmdb := tset slot (overlay (tget (List.replicate 128 0) s.fe.cmdb slot) o bs) s.fe.cmdb } }
      else .next s
  | _ => .next s

/-- A byte of BAR2 as the host reads it (R500). A read changes nothing. -/
def State.bar2 (s : State) (off : Nat) : Byte :=
  if off < 4 then (leBytes 4 s.fe.state).getD off 0
  else if 0x10 ≤ off ∧ off < 0x18 then (leBytes 8 s.fe.evbase).getD (off - 0x10) 0
  else if 0x18 ≤ off ∧ off < 0x1C then (leBytes 4 s.fe.evcfg).getD (off - 0x18) 0
  else if 0x1C ≤ off ∧ off < 0x20 then (leBytes 4 s.fe.drops).getD (off - 0x1C) 0
  else if 0x1000 ≤ off ∧ off < 0x11000 ∧ 128 ≤ off % 256 ∧ off % 256 < 160 then
    (tget [] s.fe.resp ((off - 0x1000) / 256)).getD (off % 256 - 128) 0
  else 0

/-! ### Queues -/

/-- A queue as its descriptor describes it (R333); what stands in a res0 field is ignored (R4). -/
def queueImage (b : List Byte) : Queue :=
  let mode := field b 9 1
  let lanes := field b 0xB 1
  { pasid := field b 4 4 % 2 ^ 20, policy := field b 8 1, prio := mode % 8, sw := bit mode 3, mapped := bit mode 4, dies := field b 0xA 1 % 16
    allow := lanes % 16, pfpark := bits lanes 4 2, clust := field b 0xC 2, maxinst := field b 0xE 2, age := field b 0x10 4
    grace := field b 0x14 4, wdog := field b 0x18 4, caplog := field b 0x1C 1, binlog := field b 0x1D 1, binw := field b 0x1E 2
    spa := field b 0x20 8, sva := field b 0x28 8, gatebase := field b 0x30 8, statpa := field b 0x38 8
    statlog := field b 0x40 1, saven := field b 0x44 4, saveva := field b 0x48 8, savesz := field b 0x50 4, state := 0
    wrn := 0, ovf := 0, enders := [], slotsUsed := [], dying := false }

/-- Every part lies in installed GDDR7 and outside the error log (R333, R334, R509). Which die's GDDR7 it is does not count: R333
lays the parts side by side from SPA, so that "the GDDR7 of its die" of R334 could hold for one die's part alone (log entry 33). -/
def State.storageOk (s : State) (q : Queue) : Bool :=
  let gddr (a : Nat) : Bool := match s.backing a with | .gddr _ => true | _ => false
  (dieList q.dies).all fun d =>
    let a := q.slotPa d 0
    let e := a + 64 * q.cap - 1
    gddr a && gddr e && !s.inLog a && !s.inLog e

/-- A descriptor that breaks R333 (INVALID). -/
def State.queueBad (s : State) (b : List Byte) : Bool :=
  let q := queueImage b
  decide (4095 < field b 0 4) || decide (2 < q.policy) || q.dies == 0 || decide (2 ^ s.dies ≤ q.dies) ||
    q.allow == 0 || q.clust == 0 || q.grace == 0 || decide (1000000 < q.grace) ||
    decide (q.caplog < 6) || decide (16 < q.caplog) || decide (q.binlog < 3) || decide (6 < q.binlog) || q.binw == 0 ||
    decide (2048 < q.binw) || q.gatebase % 32 != 0 ||
    (q.statpa != 0 && (decide (q.statlog < 4) || decide (16 < q.statlog) || !s.readablePa q.statpa (64 + 32 * 2 ^ q.statlog))) ||
    decide (65535 < q.saven) || q.saveva % 4096 != 0 || !s.storageOk q ||
    ownWindowVa q.sva || ownWindowVa q.gatebase || ownWindowVa q.saveva

/-- More than 8 of the 16 ways of some LLC set would be pinned (R334). -/
def State.pinsFull (s : State) (new : List (Nat × Nat)) : Bool :=
  let lines := ((s.coh.pinned ++ new).map fun r => (List.range (r.2 - r.1)).map (r.1 + ·)).flatten
  (new.map fun r => (List.range (r.2 - r.1)).map (r.1 + ·)).flatten.any fun l =>
    decide (8 < (lines.filter fun m => s.llcKey m == s.llcKey l).length)

/-- QCREATE of a descriptor image (R332 to R334, R499, R503, R506). -/
def State.createQueue (s : State) (c : MCmd) (b : List Byte) : State :=
  let q := queueImage b
  let st := s.pasidStatus q.pasid
  let qid := field b 0 4
  if st ≠ stOk then s.answer c st
  else if s.queueBad b then s.answer c stInvalid
  else if qid ≠ 0 && (s.queue qid).isSome then s.answer c stState
  else
    match if qid = 0 then (leastBelow 4095 fun i => (s.queue (i + 1)).isNone).map (· + 1) else some qid with
    | none => s.answer c stNoSpace
    | some n =>
      if s.pinsFull q.pins then s.answer c stNoSpace
      else
        let s : State := { s with
          tqe := { s.tqe with queues := tset n q s.tqe.queues }
          coh := { s.coh with pinned := s.coh.pinned ++ q.pins } }
        s.answer c stOk n

/-- QCREATE (R332 to R334). -/
def execQcreate (s : State) : Out :=
  match s.ev with
  | .qcreate c =>
    s.command c (match s.imageAt (c.arg 0) 128 with
      | (s, some b) => s.createQueue c b
      | (s, none) => s.answer c stInvalid)
  | _ => .next s

/-- How hard the running destruction of a queue is (R506). -/
def Queue.hardness (q : Queue) : Nat := q.enders.foldl (fun a c => Nat.max a (c.arg 1)) 0

/-- A queue starts to be destroyed, or its destruction is escalated (R363, R506). -/
def State.destroyQueue (s : State) (c : MCmd) (qid : Nat) (q : Queue) : State :=
  let mode := c.arg 1
  if q.dying && decide (mode ≤ q.hardness) then s.answer c stState
  else
    let s := s.modQueue qid fun q => { q with enders := q.enders ++ [c], dying := true }
    if mode = 0 then
      (s.modQueue qid fun q => { q with state := if q.state = 0 then 1 else q.state }).checkEmpty qid
    else if q.state = 3 then s.checkEmpty qid
    else s.abortQueue qid (mode == 2)

/-- QDESTROY (R363, R503, R506): answered when the queue is freed. -/
def execQdestroy (s : State) : Out :=
  match s.ev with
  | .qdestroy c =>
    s.command c (match s.queue (c.arg 0) with
      | none => s.answer c stNotFound
      | some q =>
        if !s.pasidLive q.pasid then s.answer c stNotFound
        else if 2 < c.arg 1 then s.answer c stInvalid
        else s.destroyQueue c (c.arg 0) q)
  | _ => .next s

/-! ### PASIDs, windows, the Wallflower -/

/-- PBIND (R19, R426, R428, R503, R509): the lowest free slot takes the context. -/
def execPbind (s : State) : Out :=
  match s.ev with
  | .pbind c =>
    let p := c.arg 0
    let root := c.arg 2
    let dev := if c.arg 1 = 0 then some root else convPa (some (c.arg 3)) root
    s.command c (
      if p = 0 || decide (2 ^ 20 ≤ p) || decide (1 < c.arg 1) || root % 4096 != 0 ||
          !(match dev with | some a => s.readablePa a 4096 && !(c.arg 1 == 0 && s.inLog a) | none => false) then s.answer c stInvalid
      else if (s.ctxOf p).isSome then s.answer c stState
      else
        match leastBelow 4096 fun i => (tget default s.xlat.ctx i).state == 0 with
        | none => s.answer c stNoSpace
        | some i =>
          let x : Ctx := ⟨p, c.arg 1 == 1, 1, (tget default s.xlat.ctx i).gen, root, if c.arg 1 = 1 then c.arg 3 else 0, 0, 0⟩
          { s with xlat := { s.xlat with ctx := tset i x s.xlat.ctx } }.answer c stOk i)
  | _ => .next s

/-- WINEN (R12). -/
def execWinen (s : State) : Out :=
  match s.ev with
  | .winen c =>
    s.command c (
      if !s.pasidLive (c.arg 0) then s.answer c stNotFound
      else if 16 ≤ c.arg 1 then s.answer c stInvalid
      else { s with xlat := { s.xlat with winEn := tset (c.arg 0) (c.arg 1) s.xlat.winEn } }.answer c stOk)
  | _ => .next s

/-- Reserve the Wallflower on the cores of a mask (R350). -/
def State.setWall (s : State) (d mask : Nat) : State :=
  (List.range 128).foldl (fun s i =>
    let w := mask.testBit i
    if w || (s.core (d * 128 + i)).wall then s.modCore (d * 128 + i) fun c => { c with wall := w, spillOff := false } else s) s

/-- WALLSET (R350, R503): ABSENT without the Wallflower; an empty mask releases every reservation of the die. -/
def execWallset (s : State) : Out :=
  match s.ev with
  | .wallset c =>
    let d := c.arg 0
    let mask := c.arg 1 + c.arg 2 * 2 ^ 64
    s.command c (
      if !s.vpcap.toNat.testBit 6 then s.answer c stAbsent
      else if s.dies ≤ d then s.answer c stInvalid
      else if mask = 0 then ((s.setWall d 0).kick d).answer c stOk
      else if c.arg 3 % 8192 ≠ 0 || ownWindowVa (c.arg 3) || decide (2 ^ 20 ≤ c.arg 4) then s.answer c stInvalid
      else if !s.pasidLive (c.arg 4) then s.answer c stNotFound
      else
        let s := s.setWall d mask
        (({ s with tqe := { s.tqe with spill := tset d (c.arg 3, c.arg 4) s.tqe.spill } }).kick d).answer c stOk)
  | _ => .next s

/-! ### Round regions -/

/-- The range lies wholly in the GDDR7 of one die, or behind one second-tier port, outside the error log (R400, R509). -/
def State.regionPlace (s : State) (base len : Nat) : Bool :=
  match s.backing base, s.backing (base + len - 1) with
  | .gddr a, .gddr b => a == b && !s.inLog base && !s.inLog (base + len - 1)
  | .stier a, .stier b => a == b
  | _, _ => false

/-- Two ranges meet. -/
def rangesMeet (a n b m : Nat) : Bool := decide (a < b + m) && decide (b < a + n)

/-- A descriptor that breaks R399 or a range that R400 refuses; what stands in a res0 field is ignored (R4). -/
def State.regionBad (s : State) (pa pasid : Nat) (b : List Byte) : Bool :=
  let base := field b 0 8
  let len := field b 8 4 * 65536
  let scope := field b 0xE 2 % 8
  base % 65536 != 0 || field b 8 4 == 0 || decide (16384 < field b 8 4) || decide (scope < 2) || decide (4 < scope) ||
    decide (1000000 < field b 0x14 4) || field b 0x18 4 % 2 ^ 20 != pasid || !s.regionPlace base len ||
    !(match s.backing pa with | .gddr _ => true | .stier _ => true | _ => false) ||
    rangesMeet base len pa 32 || s.homeDie pa != s.homeDie base || (s.regionAt pa).isSome ||
    (s.rounds.regions.any fun g => rangesMeet base len g.2.pbase (g.2.size * 65536)) ||
    s.coh.pinned.any fun r => rangesMeet base len (r.1 * 128) ((r.2 - r.1) * 128)

/-- The directory recalls every copy of a range and retires its entries (R400). -/
def State.recallRange (s : State) (base len : Nat) : State :=
  let ls := ((tkeys s.coh.dir ++ (tkeys s.coh.nodes).map (· % 2 ^ 45)).filter fun l =>
    decide (base ≤ l * 128) && decide (l * 128 < base + len)).eraseDups
  ls.foldl (fun s l =>
    let s := State.settle settleFuel l s
    State.settle settleFuel l (s.homeServe l .evict)) s

/-- RCREATE of a descriptor (R399, R400). -/
def State.createRegion (s : State) (c : MCmd) (pa : Nat) (b : List Byte) : State :=
  if s.regionBad pa (c.arg 1) b then s.answer c stInvalid
  else
    match leastBelow 1024 fun i => (s.region i).isNone with
    | none => s.answer c stNoSpace
    | some rid =>
      let base := field b 0 8
      let size := field b 8 4
      let stall := field b 0x14 4
      let r := field b 0x10 4
      let s := s.recallRange base (size * 65536)
      let g : Region := ⟨base, size, field b 0xE 2 % 8, if stall = 0 then 1000 else stall, c.arg 1, pa, r, [], r, [], r, [], false, [], false⟩
      let s := s.agentWrite (pa + 0xC) (leBytes 2 rid)
      { s with rounds := { s.rounds with regions := tset rid g s.rounds.regions } }.answer c stOk rid

/-- RCREATE (R399, R400, R503). -/
def execRcreate (s : State) : Out :=
  match s.ev with
  | .rcreate c =>
    let va := BitVec.ofNat 64 (c.arg 0)
    let st := s.pasidStatus (c.arg 1)
    s.command c (
      if st ≠ stOk then s.answer c st
      else if va.toNat % 32 ≠ 0 then s.answer c stInvalid
      else
        match s.xlateRange (pasidCx unitHost (c.arg 1) 4) .load va 32 with
        | (s, .ok pa) =>
          if isLocal pa then s.answer c stInvalid
          else match s.imageAt pa 32 with
            | (s, some b) => s.createRegion c pa b
            | (s, none) => s.answer c stInvalid
        | (s, _) => s.answer c stInvalid)
  | _ => .next s

/-- Publishes that wait when a region's destruction begins are refused (R414, R418, R424 step 1). -/
def State.refusePublishes (s : State) (rid : Nat) (g : Region) : State :=
  let late := if g.busy then g.queue.drop 1 else g.queue
  let s := s.modRegion rid fun g => { g with dying := true, queue := if g.busy then g.queue.take 1 else [] }
  late.foldl (fun s w => match w with
    | .hart h => s.modHart h fun x => { x with wait := none }
    | .cspec va =>
      s.errorRecord { code := 0x14, sev := 1, unit := 5, die := s.homeDie g.desc, pasid := g.pasid, pa := g.desc, va := va, detail := va }) s

/-- Steps 2 to 4 of R424. -/
def State.dropRegion (s : State) (rid : Nat) (g : Region) : State :=
  let mine := s.rounds.parked.filter fun r => r.rid == rid
  let s : State := { s with rounds := { s.rounds with parked := s.rounds.parked.filter fun r => r.rid != rid } }
  let s := mine.foldl (fun s r => s.answerRefetch r true) s
  let s := (List.range 4).foldl (fun s d => s.voidCopies g d) s
  { s with rounds := { s.rounds with regions := tdel rid s.rounds.regions } }

/-- RDESTROY (R424, R506): a running publish completes first. -/
def execRdestroy (s : State) : Out :=
  match s.ev with
  | .rdestroy c =>
    let rid := c.arg 0
    if !s.inTurn c then .next (s.due [.rdestroy c])
    else
      match s.region rid with
      | none => .next (s.answer c stNotFound)
      | some g =>
        if !s.pasidLive g.pasid then .next (s.answer c stNotFound)
        else
          let s := s.refusePublishes rid g
          if g.busy then .next (s.due [.rdestroy c])
          else .next ((s.dropRegion rid g).answer c stOk)
  | _ => .next s

/-! ### Network -/

/-- The live endpoint that a command names (R503). -/
def State.endpoint (s : State) (c : MCmd) (k : Ep → State) : State :=
  match s.net.eps.lookup (c.arg 0) with
  | some e => if s.pasidLive e.pasid then k e else s.answer c stNotFound
  | none => s.answer c stNotFound

/-- A fabric address as R445 encodes it. -/
def fepBad (b : List Byte) (off fam : Nat) : Bool := (fam != 4 && fam != 6) || (fam == 4 && !zeroed b (off + 4) (off + 16))

/-- An endpoint as its image describes it (R445); `ctpas` are the pages of its congestion table. -/
def epOf (b : List Byte) (ctpas : List Nat) : Ep :=
  { pasid := field b 0 4, job := field b 4 4, fam := field b 8 1, ports := field b 9 1, evlog := field b 0xA 1
    npeer := field b 0xC 4, fep := field b 0x10 16, rxbase := field b 0x20 8, rxn := field b 0x28 4, rxsz := field b 0x2C 4
    rxspec := field b 0x30 8, evq := field b 0x38 8, wrn := 0, ovf := 0, ctva := field b 0x40 8, ctpas := ctpas, putn := 0
    jobdrops := 0 }

/-- An image that breaks R445. -/
def State.epBad (s : State) (b : List Byte) (e : Ep) : Bool :=
  e.ports == 0 || decide (e.evlog < 4) || decide (16 < e.evlog) || field b 0xB 1 != 0 || e.npeer == 0 || decide (65536 < e.npeer) ||
    fepBad b 0x10 e.fam || !pow2In e.rxn 16 65536 || !pow2In e.rxsz 256 (2 ^ 20) || e.rxbase % Nat.min e.rxsz 4096 != 0 ||
    cspecBad e.rxspec || e.evq % 64 != 0 || !s.readablePa e.evq (64 + 32 * 2 ^ e.evlog) || e.ctva % 4096 != 0 ||
    !zeroed b 0x48 0x80 || ownWindowVa e.rxbase || ownWindowVa e.ctva ||
    (cspecKind e.rxspec != 0 && ownWindowVa (cspecVa e.rxspec).toNat)

/-- The PAs of consecutive pages from a VA, each of which must be readable under a PASID (R466). -/
def State.pagePas (cx : Cx) : Nat → Word → State → State × Option (List Nat)
  | 0, _, s => (s, some [])
  | n + 1, va, s =>
    match s.xlate cx .load va with
    | (s, .ok pa) =>
      match State.pagePas cx n (va + 4096) s with
      | (s, some l) => (s, some (pa :: l))
      | r => r
    | (s, _) => (s, none)

/-- EPCREATE of an image (R443, R445, R466). -/
def State.createEp (s : State) (c : MCmd) (b : List Byte) : State :=
  let e := epOf b []
  let st := if 2 ^ 20 ≤ e.pasid then stInvalid else s.pasidStatus e.pasid
  if st ≠ stOk then s.answer c st
  else if e.ports &&& (255 - bits s.vpcap.toNat 16 8) ≠ 0 then s.answer c stAbsent
  else if s.epBad b e then s.answer c stInvalid
  else
    match leastBelow 4096 fun i => (s.net.eps.lookup i).isNone with
    | none => s.answer c stNoSpace
    | some lep =>
      match State.pagePas (pasidCx unitNet e.pasid 4) ((e.npeer * 32 + 4095) / 4096) (BitVec.ofNat 64 e.ctva) s with
      | (s, none) => s.answer c stInvalid
      | (s, some pas) => { s with net := { s.net with eps := tset lep (epOf b pas) s.net.eps } }.answer c stOk lep

/-- EPCREATE (R443, R445, R503). -/
def execEpcreate (s : State) : Out :=
  match s.ev with
  | .epcreate c =>
    s.command c (
      if c.arg 0 % 128 ≠ 0 then s.answer c stInvalid
      else match s.imageAt (c.arg 0) 128 with
        | (s, some b) => s.createEp c b
        | (s, none) => s.answer c stInvalid)
  | _ => .next s

/-- EPDESTROY (R503): messages in flight fail with code 25. -/
def execEpdestroy (s : State) : Out :=
  match s.ev with
  | .epdestroy c =>
    s.command c (s.endpoint c fun e =>
      let lep := c.arg 0
      let ms := s.net.msgs.filter fun m => m.2.lep == lep && m.2.pasid == e.pasid
      let s := ms.foldl (fun s m => s.failMsg m.1 25 0) s
      let keep {α : Type} (t : Tab α) : Tab α := t.filter fun e => e.1 / 65536 != lep
      let s : State := { s with net := { s.net with
        eps := tdel lep s.net.eps, peers := keep s.net.peers, wins := keep s.net.wins
        rx := s.net.rx.filter fun r => r.lep != lep
        ctseq := keep s.net.ctseq, retx := keep s.net.retx, pseq := keep s.net.pseq
        rodseq := s.net.rodseq.filter fun e => e.1 % 4096 != lep } }
      s.answer c stOk)
  | _ => .next s

/-- A peer entry as its image describes it (R446). -/
def peerOf (b : List Byte) : Peer :=
  { rfep := field b 0 16, fam := field b 0x10 1, mode := field b 0x11 1, cc := field b 0x12 1, tc := field b 0x13 1
    ent := field b 0x14 2, rlep := field b 0x16 2 }

/-- An image that breaks R446. -/
def peerBad (b : List Byte) (p : Peer) : Bool :=
  fepBad b 0 p.fam || decide (2 < p.mode) || decide (1 < p.cc) || decide (7 < p.tc) || p.ent == 0 || decide (256 < p.ent) ||
    (p.mode == 1 && p.ent != 1) || decide (4095 < p.rlep) || !zeroed b 0x18 0x20

/-- PEERSET (R444, R446): it takes effect, and is answered, when no message to the peer is in flight. -/
def execPeerset (s : State) : Out :=
  match s.ev with
  | .peerset c =>
    s.command c (s.endpoint c fun e =>
      let k := pkey (c.arg 0) (c.arg 1)
      if e.npeer ≤ c.arg 1 ∨ c.arg 2 % 32 ≠ 0 then s.answer c stInvalid
      else
        match s.imageAt (c.arg 2) 32 with
        | (s, none) => s.answer c stInvalid
        | (s, some b) =>
          let p := peerOf b
          let on := (s.net.msgs.filter fun m => m.2.lep == c.arg 0 && m.2.peer == c.arg 1).map (·.1)
          if peerBad b p then s.answer c stInvalid
          else if on.isEmpty then { s with net := { s.net with peers := tset k p s.net.peers } }.answer c stOk
          else { s with net := { s.net with peerq := s.net.peerq ++ [(k, on, p, c)] } })
  | _ => .next s

/-- NWINREG (R447, R499): the lowest free key from 1. -/
def execNwinreg (s : State) : Out :=
  match s.ev with
  | .nwinreg c =>
    s.command c (s.endpoint c fun _ =>
      if ownWindowVa (c.arg 1) ∨ 3 < c.arg 3 then s.answer c stInvalid
      else
        match leastBelow 65535 fun i => (s.net.wins.lookup (pkey (c.arg 0) (i + 1))).isNone with
        | none => s.answer c stNoSpace
        | some i =>
          let w : NWin := ⟨c.arg 1, c.arg 2, (c.arg 3).testBit 0, (c.arg 3).testBit 1⟩
          { s with net := { s.net with wins := tset (pkey (c.arg 0) (i + 1)) w s.net.wins } }.answer c stOk (i + 1))
  | _ => .next s

/-- PTPSET (R467): the port and domain of the PTP client. -/
def execPtpset (s : State) : Out :=
  match s.ev with
  | .ptpset c =>
    s.command c (
      if 7 < c.arg 0 ∨ !s.vpcap.toNat.testBit (16 + c.arg 0) then s.answer c stAbsent
      else { s with net := { s.net with ptpcfg := (c.arg 0, c.arg 1) } }.answer c stOk)
  | _ => .next s

/-! ### Host windows -/

/-- HWINSET (R472): KIND 3 is refused, and COH while `vpcap`.HCOH is 0; the res0 bits of an entry are ignored (R4). -/
def execHwinset (s : State) : Out :=
  match s.ev with
  | .hwinset c =>
    let e := c.arg 1 % 16
    s.command c (
      if decide (4160 ≤ c.arg 0) || e % 4 == 3 || (e % 4 == 1 && !s.vpcap.toNat.testBit 32) then s.answer c stInvalid
      else if c.arg 0 < 4096 then
        { s with host := { s.host with win := tset (c.arg 0) e s.host.win } }.answer c stOk
      else if c.arg 2 % 4096 ≠ 0 ∨ 2 ^ 44 < c.arg 2 + c.arg 3 * 4096 then s.answer c stInvalid
      else
        { s with host := { s.host with ovr := tset (c.arg 0 - 4096) (e, c.arg 2, c.arg 3) s.host.ovr } }.answer c stOk)
  | _ => .next s

/-! ### Guest -/

/-- No two entries of a list are equal. -/
def distinct : List Nat → Bool
  | [] => true
  | x :: r => !r.contains x && distinct r

/-- A policy that breaks R485. -/
def policyBad (b : List Byte) : Bool :=
  let size := field b 0 8
  let nkey := field b 8 1
  let nmeas := field b 9 1
  let npas := field b 0xA 2
  let idx := (List.range nmeas).map fun i => field b (0x90 + 48 * i) 1
  let pas := (List.range npas).map fun i => field b (0x390 + 4 * i) 4
  size % 2 ^ 30 != 0 || decide (2 ^ 40 < size) || nkey == 0 || decide (4 < nkey) || nmeas == 0 || decide (16 < nmeas) ||
    decide (256 < npas) || !zeroed b 0xC 0x10 || !zeroed b (0x10 + 32 * nkey) 0x90 || !zeroed b (0x90 + 48 * nmeas) 0x390 ||
    !zeroed b (0x390 + 4 * npas) 0x800 || (idx.any fun i => i == 0 || i == 255) || !distinct idx ||
    ((List.range nmeas).any fun i => !zeroed b (0x91 + 48 * i) (0xA0 + 48 * i)) ||
    (pas.any fun p => p == 0 || decide (2 ^ 20 ≤ p)) || !distinct pas

/-- GPOLICY (R484, R485): it takes effect at the next attestation. -/
def execGpolicy (s : State) : Out :=
  match s.ev with
  | .gpolicy c =>
    s.command c (
      if !s.gsk then s.answer c stAbsent
      else if c.arg 0 % 64 ≠ 0 then s.answer c stInvalid
      else match s.imageAt (c.arg 0) 2048 with
        | (s, none) => s.answer c stInvalid
        | (s, some b) =>
          if policyBad b then s.answer c stInvalid
          else { s with guest := { s.guest with policy := b, pol := true } }.answer c stOk)
  | _ => .next s

/-- A revoke tells the guest to end what it has of the PASID (R484, R496). -/
def State.revoke (s : State) (p : Nat) : State :=
  let qs := (s.tqe.queues.filter fun q => q.2.pasid == p).map (·.1)
  let s := qs.foldl (fun s q => s.guestDrop q) s
  let (s, tag) := s.nextTag
  let s := s.toGuest [9, p, tag]
  { s with guest := { s.guest with pstops := s.guest.pstops ++ [(p, tag)] } }

/-- GGRANT (R484, R496): while the bridge is BOUND; a revoke is answered when the guest has acknowledged. -/
def execGgrant (s : State) : Out :=
  match s.ev with
  | .ggrant c =>
    let p := c.arg 0
    if !s.inTurn c then .next (s.due [.ggrant c])
    else if !s.gsk then .next (s.answer c stAbsent)
    else if 1 < c.arg 1 ∨ p = 0 then .next (s.answer c stInvalid)
    else if !s.pasidLive p then .next (s.answer c stNotFound)
    else if c.arg 1 = 0 ∧ !s.guest.grants.contains p then .next (s.answer c (if s.gbnd then stOk else stState))
    else if !s.gbnd then .next (s.answer c stState)
    else if c.arg 1 = 1 then
      if s.guest.grants.contains p then .next (s.answer c stOk)
      else if 256 ≤ s.guest.grants.length then .next (s.answer c stNoSpace)
      else .next ({ s with guest := { s.guest with grants := s.guest.grants ++ [p] } }.answer c stOk)
    else if s.guest.pstops.any fun x => x.1 == p then .next (s.due [.ggrant c])
    else .next ((s.revoke p).due [.ggrant c])
  | _ => .next s

/-! ### Self-test and information -/

/-- SELFTEST (R503, R514): the core is quarantined with REASON 4; the answer comes with the results. -/
def execSelftest (s : State) : Out :=
  match s.ev with
  | .selftest c =>
    let ci := c.arg 0 * 128 + c.arg 1
    s.command c (
      if 4 ≤ c.arg 0 ∨ 128 ≤ c.arg 1 then s.answer c stInvalid
      else if s.dies ≤ c.arg 0 then s.answer c stAbsent
      else
        let s := if (s.core ci).quar then s else s.quarantine ci 4 none
        s.modCore ci fun x => { x with selftest := true })
  | _ => .next s

/-- The bits of the peers present (R478). -/
def State.peerMask (s : State) : Nat := maskOf (tkeys s.host.peers)

/-- INFO (R503). -/
def execInfo (s : State) : Out :=
  match s.ev with
  | .info c => s.command c (s.answer c stOk s.vpcap.toNat s.peerMask)
  | _ => .next s

/-- MEMINFO (R503, R523). -/
def execMeminfo (s : State) : Out :=
  match s.ev with
  | .meminfo c =>
    s.command c (s.answer c stOk (((List.range s.dies).map fun d => s.gddr d / 2 ^ 30 % 256 * 2 ^ (8 * d)).sum))
  | _ => .next s

/-! ### ecall -/

/-- An `ecall` outside R504: the environment-call exception of its mode; a function that R504 does not name answers INVALID. -/
def State.ecallOther (s : State) : State :=
  match s.me.priv with
  | .u => s.except 8 0
  | .m => s.except 11 0
  | .s => if (s.x 17).toNat = 0x0B500000 then s.retireX 10 1 else s.except 9 0

/-- The call asks for function `n` of R504. -/
def State.ecallIs (s : State) (n : Nat) : Bool :=
  s.me.priv == .s && (s.x 17).toNat == 0x0B500000 && (s.x 16).toNat == n

/-- The command that a0 names enters the queue (R504, R505): a PA that is misaligned or leaves no room in GDDR7 for command and response
answers INVALID, a full queue makes the hart wait. -/
def State.ecallSend (s : State) (wait : Bool) : Out :=
  let pa := (s.x 10).toNat
  let gddr (a : Nat) : Bool := match s.backing a with | .gddr _ => true | _ => false
  if pa % 128 ≠ 0 || !(gddr pa && gddr (pa + 0x80)) then .next (s.retireX 10 1)
  else if 320 ≤ s.fe.cmds.length then .next (s.wait .commands)
  else
    let s := s.loadLines noNode pa 128
    if s.poisoned pa 128 then .next ((s.poisonRecord pa).retireX 10 1)
    else
    let c := parseCmd (s.peek pa 128) 256 pa (if wait then some s.cur else none)
    if wait then .next ((s.wait .submit).enqueue c) else .next ((s.retireX 10 0).enqueue c)

/-- ECALL_SUBMIT (R504): the hart waits for its response, which ends the `ecall` with STATUS in a0 and RES0 in a1. -/
def execEcallSubmit (s : State) : Out :=
  if !s.ecallIs 0 then .next s.ecallOther
  else if s.me.wait = some .submit then .next s
  else s.ecallSend true

/-- ECALL_POST (R504). -/
def execEcallPost (s : State) : Out := if !s.ecallIs 1 then .next s.ecallOther else s.ecallSend false

/-- ECALL_REPORT (R504, R507). -/
def execEcallReport (s : State) : Out :=
  if !s.ecallIs 2 then .next s.ecallOther
  else
    let d := (s.x 10).toNat
    .next ((s.hostNote 0x48 (hartDie s.cur) d false).retireX 10 0)

end Sys2Proof.Machine
end

