-- ==== Sys2Proof/Machine/Fpu.lean ====
section
/-! DEFINITION. The scalar F and D instructions of R79, as the RISC-V standard gives them (log entry 15); their arithmetic is
that of the block datapath's exact values without flushing. -/

namespace Sys2Proof.Machine

/-- The format of a scalar float instruction: fmt 0 single, 1 double. -/
def fpuFmt (d : Bool) : Fmt := if d then fp64 else fp32

/-- An operand at its format: a single that is not NaN-boxed reads as the canonical NaN. -/
def fpuRead (d : Bool) (v : Word) : Nat :=
  if d then v.toNat else if v.toNat / 2 ^ 32 = 0xFFFFFFFF then v.toNat % 2 ^ 32 else 0x7FC00000

/-- A result as an f register holds it. -/
def fpuBox (d : Bool) (x : Nat) : Word := BitVec.ofNat 64 (if d then x else 0xFFFFFFFF00000000 + x % 2 ^ 32)

/-- Write an f register and raise flags of `fcsr`; the instruction retires. -/
def State.fpuRetire (s : State) (d : Bool) (rd : Nat) (r : Nat × Nat) : State :=
  (s.modMe fun h => ((h.setF rd (fpuBox d r.1)).setCs 3 (h.cs 3 ||| BitVec.ofNat 64 (r.2 % 32))).fpDirty).retire

/-- An integer result of a float instruction, with its flags. -/
def State.fpuRetireX (s : State) (rd : BitVec 5) (v : Word) (flags : Nat) : State :=
  ((s.wx rd v).modMe fun h => if flags = 0 then h else (h.setCs 3 (h.cs 3 ||| BitVec.ofNat 64 (flags % 32))).fpDirty).retire

/-- The rounding mode of an instruction, dynamic 7 taken from `frm`; `none` when it is reserved. -/
def State.fpuRm (s : State) (rm : Nat) : Option FEnv :=
  let m := if rm = 7 then bits (s.me.cs 3).toNat 5 3 else rm
  if m ≤ 4 then some ⟨m, false, false⟩ else none

/-- An integer from a float value: the range [lo, hi], saturated with NV; NaN gives hi. -/
def fpuToInt (env : FEnv) (lo hi : Int) (x : FV) : Int × Nat :=
  match x with
  | .nan _ => (hi, cNV)
  | .inf n => (if n then lo else hi, cNV)
  | .fin n m e st =>
    let k := roundGrid env.rm n m e st 0
    let v : Int := if n then -(k.1 : Int) else k.1
    if v < lo then (lo, cNV) else if hi < v then (hi, cNV) else (v, if k.2 then cNX else 0)

/-- The bounds of an integer conversion: `k` 0 W, 1 WU, 2 L, 3 LU. -/
def fpuBounds (k : Nat) : Int × Int :=
  match k with
  | 0 => (-(2 ^ 31 : Nat), (2 ^ 31 : Nat) - 1)
  | 1 => (0, (2 ^ 32 : Nat) - 1)
  | 2 => (-(2 ^ 63 : Nat), (2 ^ 63 : Nat) - 1)
  | _ => (0, (2 ^ 64 : Nat) - 1)

/-- An integer result as an x register holds it: 32-bit results are sign-extended. -/
def fpuIntWord (k : Nat) (v : Int) : Word := if k < 2 then sextW (wrap64 v) else wrap64 v

/-- An x register as the integer that a conversion reads. -/
def fpuIntRead (k : Nat) (v : Word) : Int :=
  match k with
  | 0 => signed v.toNat 32
  | 1 => (v.toNat % 2 ^ 32 : Nat)
  | 2 => v.toInt
  | _ => v.toNat

/-- A float from an integer. -/
def fpuOfInt (d : Bool) (env : FEnv) (i : Int) : Nat × Nat := (fpuFmt d).rnd env (.fin (decide (i < 0)) i.natAbs 0 false)

/-- A rounded operation of OP-FP by its upper funct7 bits: add, subtract, multiply, divide. -/
def fpuArith (f5 : Nat) (d : Bool) (env : FEnv) (x y : Nat) : Nat × Nat :=
  match f5 with
  | 0 => fBin (fpuFmt d) env (FV.add env.rm) 64 x y
  | 1 => fBin (fpuFmt d) env (fun a b => FV.add env.rm a b.neg) 64 x y
  | 2 => fBin (fpuFmt d) env FV.mul 64 x y
  | _ => fDiv (fpuFmt d) env 64 x y

/-- OP-FP (opcode 0x53). -/
def fpuOp (w : BitVec 32) (s : State) : Option State :=
  let f5 := (w.extractLsb' 27 5).toNat
  let fmt := (w.extractLsb' 25 2).toNat
  let d := fmt == 1
  let rd := w.extractLsb' 7 5
  let r1 := (w.extractLsb' 15 5).toNat
  let r2 := (w.extractLsb' 20 5).toNat
  let rm := (w.extractLsb' 12 3).toNat
  let f := fpuFmt d
  let a := fpuRead d (s.me.fr r1)
  let b := fpuRead d (s.me.fr r2)
  let put (r : Nat × Nat) : Option State := some (s.fpuRetire d rd.toNat r)
  if 2 ≤ fmt then none
  else if f5 ≤ 3 then (s.fpuRm rm).bind fun env => put (fpuArith f5 d env a b)
  else if f5 = 11 then if r2 = 0 then (s.fpuRm rm).bind fun env => put (fSqrt f env 64 a) else none
  else if f5 = 4 then if rm ≤ 2 then put (fSgnj f.width rm a b, 0) else none
  else if f5 = 5 then if rm ≤ 1 then put (fMinMax f false (rm == 1) a b) else none
  else if f5 = 8 then
    if r2 = (if d then 0 else 1) then (s.fpuRm rm).bind fun env => put (fConv (fpuFmt !d) f env 64 (fpuRead (!d) (s.me.fr r1))) else none
  else if f5 = 20 then
    if rm ≤ 2 then
      let c := fCmp f false (if rm = 2 then 0 else if rm = 1 then 1 else 2) a b
      some (s.fpuRetireX rd (BitVec.ofNat 64 c.1) c.2)
    else none
  else if f5 = 24 then
    if r2 ≤ 3 then (s.fpuRm rm).map fun env =>
      let i := fpuToInt env (fpuBounds r2).1 (fpuBounds r2).2 (f.read false a)
      s.fpuRetireX rd (fpuIntWord r2 i.1) i.2
    else none
  else if f5 = 26 then
    if r2 ≤ 3 then (s.fpuRm rm).bind fun env => put (fpuOfInt d env (fpuIntRead r2 (s.x (w.extractLsb' 15 5)))) else none
  else if f5 = 28 ∧ r2 = 0 then
    if rm = 0 then
      some (s.fpuRetireX rd (if d then s.me.fr r1 else sextW (s.me.fr r1)) 0)
    else if rm = 1 then some (s.fpuRetireX rd (BitVec.ofNat 64 (fClass f a)) 0)
    else none
  else if f5 = 30 ∧ r2 = 0 ∧ rm = 0 then put ((s.x (w.extractLsb' 15 5)).toNat, 0)
  else none

/-- FMADD, FMSUB, FNMSUB, FNMADD (opcodes 0x43, 0x47, 0x4B, 0x4F). -/
def fpuFma (w : BitVec 32) (s : State) : Option State :=
  let o := (w.extractLsb' 0 7).toNat
  let fmt := (w.extractLsb' 25 2).toNat
  let d := fmt == 1
  let reg (lo : Nat) : Nat := fpuRead d (s.me.fr (bits w.toNat lo 5))
  let var := if o = 0x43 then 0 else if o = 0x47 then 1 else if o = 0x4B then 2 else 3
  if 2 ≤ fmt then none
  else (s.fpuRm (w.extractLsb' 12 3).toNat).map fun env =>
    s.fpuRetire d (w.extractLsb' 7 5).toNat (fFma (fpuFmt d) env var 64 (reg 15) (reg 20) (reg 27))

/-- A scalar float instruction without a row; `none` when the word is not one, or FS is off. -/
def fpuStep (w : BitVec 32) (s : State) : Option State :=
  let o := (w.extractLsb' 0 7).toNat
  if s.me.fpOff then none
  else if o = 0x53 then fpuOp w s
  else if o = 0x43 ∨ o = 0x47 ∨ o = 0x4B ∨ o = 0x4F then fpuFma w s
  else none

/-- The x registers that a scalar float word reads. -/
def fpuReads (w : BitVec 32) : List Nat :=
  let f5 := (w.extractLsb' 27 5).toNat
  if (w.extractLsb' 0 7).toNat = 0x53 ∧ (f5 = 26 ∨ f5 = 30) then [(w.extractLsb' 15 5).toNat] else []

/-- The x registers that a word outside the table writes. -/
def baseWrites (w : BitVec 32) : List Nat :=
  let o := (w.extractLsb' 0 7).toNat
  let f5 := (w.extractLsb' 27 5).toNat
  let rd := (w.extractLsb' 7 5).toNat
  if o = 0x63 ∨ o = 0x43 ∨ o = 0x47 ∨ o = 0x4B ∨ o = 0x4F ∨ o = 0x73 then []
  else if o = 0x53 then (if f5 = 20 ∨ f5 = 24 ∨ f5 = 28 then [rd] else [])
  else [rd]

end Sys2Proof.Machine
end

