-- ==== Sys2Proof/Machine/Digest.lean ====
section
/-! DEFINITION. The hash SM3 (R484, R518, R520), which the spec names and whose definition, GB/T 32905, stands outside it (log entry 10,
PRESUMED). -/

namespace Sys2Proof.Machine

/-- A big-endian number of bytes. -/
def beNat (bs : List Byte) : Nat := leNat bs.reverse

/-- The 32-bit words of a message, padded with a 1 bit, zeros and its length in bits to whole blocks of sixteen. -/
def sm3Words (bs : List Byte) : List (BitVec 32) :=
  let n := bs.length
  let blocks := (n + 9 + 63) / 64
  let padded := bs ++ [0x80] ++ List.replicate (64 * blocks - n - 9) 0 ++ (leBytes 8 (8 * n)).reverse
  (List.range (16 * blocks)).map fun k => BitVec.ofNat 32 (beNat ((padded.drop (4 * k)).take 4))

/-- The permutation P1 of the expansion. -/
def sm3P1 (x : BitVec 32) : BitVec 32 := x ^^^ x.rotateLeft 15 ^^^ x.rotateLeft 23

/-- The 68 expanded words of a block, the last first, after `k` more than the sixteen of the block. -/
def sm3Expand (w : List (BitVec 32)) : Nat → List (BitVec 32)
  | 0 => w.reverse
  | k + 1 =>
    let r := sm3Expand w k
    let at_ (j : Nat) : BitVec 32 := r.getD (j - 1) 0
    (sm3P1 (at_ 16 ^^^ at_ 9 ^^^ (at_ 3).rotateLeft 15) ^^^ (at_ 13).rotateLeft 7 ^^^ at_ 6) :: r

/-- One round on the eight working words. -/
def sm3Round (v : List (BitVec 32)) (j : Nat) (w w' : BitVec 32) : List (BitVec 32) :=
  match v with
  | [a, b, c, d, e, f, g, h] =>
    let t : BitVec 32 := if j < 16 then 0x79cc4519 else 0x7a879d8a
    let s1 := (a.rotateLeft 12 + e + t.rotateLeft (j % 32)).rotateLeft 7
    let s2 := s1 ^^^ a.rotateLeft 12
    let ff := if j < 16 then a ^^^ b ^^^ c else (a &&& b) ||| (a &&& c) ||| (b &&& c)
    let gg := if j < 16 then e ^^^ f ^^^ g else (e &&& f) ||| (~~~e &&& g)
    let t1 := ff + d + s2 + w'
    let t2 := gg + h + s1 + w
    [t1, a, b.rotateLeft 9, c, t2 ^^^ t2.rotateLeft 9 ^^^ t2.rotateLeft 17, e, f.rotateLeft 19, g]
  | _ => v

/-- The compression of one block into the chaining words. -/
def sm3Block (v : List (BitVec 32)) (block : List (BitVec 32)) : List (BitVec 32) :=
  let w := (sm3Expand block 52).reverse
  let r := (List.range 64).foldl (fun x j => sm3Round x j (w.getD j 0) (w.getD j 0 ^^^ w.getD (j + 4) 0)) v
  (r.zip v).map fun p => p.1 ^^^ p.2

/-- The SM3 digest of bytes, as a number whose low byte is the digest's first: as a little-endian field reads it. -/
def sm3 (bs : List Byte) : Nat :=
  let w := sm3Words bs
  let iv : List (BitVec 32) :=
    [0x7380166f, 0x4914b2b9, 0x172442d7, 0xda8a0600, 0xa96f30bc, 0x163138aa, 0xe38dee4d, 0xb0fb0e4e]
  let v := (List.range (w.length / 16)).foldl (fun v k => sm3Block v ((w.drop (16 * k)).take 16)) iv
  leNat (v.flatMap fun x => (leBytes 4 x.toNat).reverse)

end Sys2Proof.Machine
end

