-- ==== Sys2Proof/Machine/Save.lean ====
section
/-! DEFINITION. Vector set-up, pre-emption, saves and resumes (R89, R100 to R102, R121 to R133, R330, R331), and the hart's
timers and wakes (R23, R112, R132). -/

namespace Sys2Proof.Machine

/-! ### The hart record -/

/-- Where a hart stages its record in its core's local memory (R13, R124). -/
def stagingLoc (h : Nat) : Nat := locBase (coreOf h) + 0x54000 + h % 8 * 0x1800

/-- The x registers that an entry captured (R104, R126): those its `xget`s name; before it is decoded, those that it has captured. -/
def Biq.capMask (b : Biq) : List Nat :=
  match b.code with
  | none => (List.range 32).filter fun r => decide (0 < r) && (tkeys b.capt).contains r
  | some c => (List.range 32).filter fun r => decide (0 < r) && c.instrs.any fun i => match i.2 with | .xget f => f.reg.toNat == r | _ => false

/-- The 0x130 bytes of a BIQ image (R126). -/
def Biq.image (b : Biq) : List Byte :=
  let cap := b.capMask
  let pend := cap.filter b.pend.contains
  leBytes 8 b.va.toNat ++ leBytes 1 (b2n b.isLoop) ++ leBytes 1 0 ++ leBytes 2 b.vcfg.toNat ++
    leBytes 4 (if b.isLoop then 0 else b.vl) ++ leBytes 8 (if b.isLoop then b.n else 0) ++
    leBytes 8 (if b.isLoop then b.strip else 0) ++ leBytes 8 (if b.isLoop then b.base else 0) ++
    leBytes 4 (maskOf cap) ++ leBytes 4 (maskOf pend) ++
    (((List.range 32).drop 1).map fun r =>
      leBytes 8 (if cap.contains r && !pend.contains r then (tget 0 b.capt r).toNat else 0)).flatten ++ leBytes 8 0

/-- CSRs of the record from 0x240 on (R125), but for `mcfg` and `lanemap`. -/
def recordCsrs : List Nat :=
  [3, csrVcfg, csrSigto, csrCpyspec, csrCpyshape, csrNep, csrNrva, csrNcspec, csrNrspec]

/-- SAVEKB of the packet that a hart runs (R124). -/
def State.lockb (s : State) (h : Nat) : Nat :=
  match (s.hart h).inst.bind fun i => s.tqe.insts.lookup i with | some t => t.savekb | none => 0

/-- The 0x1800 bytes of a hart's record (R125); VALID is still 0. -/
def State.hartRecord (s : State) (h reason : Nat) (vsaved : Bool) (pc : Word) : List Byte :=
  let x := s.hart h
  let ci := coreOf h
  let flags := (if vsaved then 2 else 0) + (if s.matEn h then 4 else 0) + (if x.held then 8 else 0) + (if x.parked then 16 else 0)
  let tries := match x.biq with | b :: _ => b.tries | [] => 0
  leBytes 2 0xC7B1 ++ leBytes 2 1 ++ leBytes 1 reason ++ leBytes 1 flags ++ leBytes 1 x.biq.length ++ leBytes 1 x.slip ++
    leBytes 8 pc.toNat ++ leBytes 4 (s.lockb h) ++ leBytes 1 (s.weight ci x.grant) ++ leBytes 1 (x.garr % 16 + tries % 4 * 16) ++
    leBytes 2 0 ++ leBytes 8 (x.inst.getD 0) ++ leBytes 8 (x.cs csrVl).toNat ++ leBytes 24 0 ++
    ((List.range 32).map fun r => leBytes 8 (x.xr r).toNat).flatten ++
    ((List.range 32).map fun r => leBytes 8 (x.fr r).toNat).flatten ++
    (recordCsrs.map fun n => leBytes 8 (x.cs n).toNat).flatten ++ leBytes 8 (s.mcfg h).toNat ++
    leBytes 8 (s.lanemap h).toNat ++ leBytes 8 (x.cs csrPfpark).toNat ++ leBytes 32 0 ++
    ((List.range 8).map fun k => leBytes 8 (x.window k).w0.toNat ++ leBytes 8 (x.window k).w1.toNat).flatten ++
    (x.biq.map Biq.image).flatten ++ leBytes ((16 - x.biq.length) * 0x130) 0 ++ leBytes 0x1C0 0

/-! ### The vector and matrix areas -/

/-- An entry that stands for a whole register at the hart's grant and SEW (R149). -/
def Hart.wholeEntry (x : Hart) : Biq := { Biq.new with vcfg := x.cs csrVcfg, grant := x.grant }

/-- Bytes from bits, least significant first. -/
def bitBytes : Nat → List Bool → List Byte
  | 0, _ => []
  | n + 1, l => BitVec.ofNat 8 (maskOf ((List.range 8).filter fun i => l.getD i false)) :: bitBytes n (l.drop 8)

/-- The vector area (R127): v0 to v31, then p1 to p63, each padded to its size at the weight. -/
def State.vectorArea (s : State) (h : Nat) : List Byte :=
  let x := s.hart h
  let b := x.wholeEntry
  let w := s.weight (coreOf h) x.grant
  let n := sewBits b.vcfg / 8
  let vlmax := w * 1024 / (8 * n)
  ((List.range 32).map fun r =>
    let bs := ((List.range vlmax).map fun e => leBytes n (s.elemV h 0 b r e)).flatten
    bs ++ leBytes (w * 128 - bs.length) 0).flatten ++
  (((List.range 64).drop 1).map fun r =>
    bitBytes (w * 16) ((List.range vlmax).map fun e => let p := s.place h b e; s.readP h 0 r p.1 p.2)).flatten

/-- The matrix area (R330). -/
def State.matrixArea (s : State) (h : Nat) : List Byte :=
  let m := s.mat (coreOf h)
  let mc := (s.mcfg h).toNat
  leBytes 8 mc ++ ((List.range 8).map fun t => leBytes 2 (m.rows t + m.cols t * 256)).flatten ++ leBytes 40 0 ++
    ((bitList mc 8).map fun t => ((List.range 2048).map fun i => leBytes 4 (tget 0 m.cells (t * 2048 + i)).toNat).flatten).flatten ++
    ((bitList (mc / 256) 32).map fun n => (List.range 16384).map fun i => tget 0 m.slots (n * 16384 + i)).flatten

/-! ### Saving -/

/-- The identifier under which the order of a hart's context is kept: that of its instance, or 0. -/
def Hart.orderId (x : Hart) : Nat := x.inst.getD 0

/-- What a save keeps beside its record (log entry 37): the context's place in program order, its orderings, its entries' places and
replaced puts. -/
def State.keepOrder (s : State) (h : Nat) (va : Word) : State :=
  let x := s.hart h
  let o : Order := ⟨x.orderId, va, x.seq, x.holds, x.biq.map fun b => (b.seq, b.xdrop)⟩
  { s with orders := o :: s.orders.filter fun e => e.iid != o.iid || e.va != va }

/-- What was kept for a context, and the state without it. -/
def State.takeOrder (s : State) (iid : Nat) (va : Word) : State × Option Order :=
  ({ s with orders := s.orders.filter fun e => e.iid != iid || e.va != va }, s.orders.find? fun e => e.iid == iid && e.va == va)

/-- A save begins (R124 phase 1): the hart's stores have left it, the record goes to the staging area and the streamer takes over. -/
def State.startSave (s : State) (h reason : Nat) (va : Word) (pc : Word) (vsaved : Bool) : State :=
  let s := (s.drain h).poke (stagingLoc h) (s.hartRecord h reason vsaved pc)
  ((s.keepOrder h va).modHart h fun x => { x with save := some ⟨va, reason, vsaved, pc⟩ }).due [.saveComplete h]

/-- Matrix commands of the hart, or copies into slots that have neither landed nor been suspended or abandoned, are still under way
(R298, R330). -/
def State.saveBusy (s : State) (h : Nat) : Bool :=
  decide (s.matPending h ≠ 0) ||
    s.copies.any fun c => c.2.slot.isSome && c.2.mine h (s.hart h).inst && (c.2.state == .running || c.2.state == .parked)

/-- The context in which a slot is reached (R124): the instance's PASID, by the core's streamer. -/
def State.slotCx (s : State) (h : Nat) : Cx := pasidCx (unitStreamer (hartDie h * 80 + coreOf h % 128 % 80)) (s.pasidOf h) (hartDie h)

/-- Write areas of a slot in order; `false` when a page of one of them faults (R124). -/
def State.writeAreas (cx : Cx) : List (Word × List Byte) → State → State × Bool
  | [], s => (s, true)
  | a :: r, s =>
    match s.writeVa cx a.1 a.2 with
    | (s, .ok _) => State.writeAreas cx r s
    | (s, .error _) => (s, false)

/-- Bytes of a slot that a save needs (R124, R345). -/
def slotNeed (lockb : Nat) (vsaved : Bool) (mat : Nat) : Nat :=
  if lockb = 0 ∧ mat = 0 then (if vsaved then 0xB800 else 0x1800) else 0xB800 + lockb * 1024 + mat

/-- Phase 2 (R124): record, vector area, local extent, matrix area, and VALID last. Of the 0xA000 bytes that R124 gives the vector area
only those of the padded registers (R127) are written (log entry 37). -/
def State.writeSlot (s : State) (h : Nat) (v : Save) : State × Bool :=
  let cx := s.slotCx h
  let rec_ := s.peek (stagingLoc h) 0x1800
  let lockb := s.lockb h
  let mat := if s.matEn h then s.matrixArea h else []
  let size := match (s.hart h).inst.bind fun i => s.tqe.insts.lookup i, s.queueOf h with
    | some t, some q => if t.slot.isSome && v.reason != 3 then q.savesz * 4096 else 2 ^ 64
    | _, _ => 2 ^ 64
  if size < slotNeed lockb v.vsaved mat.length then (s, false)
  else
    State.writeAreas cx
      ([(v.va, rec_)] ++ (if v.vsaved then [(v.va + 0x1800, s.vectorArea h)] else []) ++
        (if lockb = 0 then [] else [(v.va + 0xB800, s.peek (locBase (coreOf h)) (lockb * 1024))]) ++
        (if mat.isEmpty then [] else [(v.va + 0xB800 + BitVec.ofNat 64 (lockb * 1024), mat)]) ++
        [(v.va + 5, [rec_.getD 5 0 ||| 1])]) s

/-- The hart's matrix engine is given up (R311, R330). -/
def State.dropMatrix (s : State) (h : Nat) : State :=
  if (s.core (coreOf h)).mat.owner = some h then s.matRelease (coreOf h) else s

/-- A saved instance waits in the part it came from to be resumed (R341), with the tags `ctag` and `ntag` (R298), unless its queue drops
its work (R363, R364). -/
def State.requeueSaved (s : State) (h i : Nat) (mown : Bool) (ctag ntag : Nat) : State :=
  match s.tqe.insts.lookup i with
  | none => s.freeHart h
  | some t =>
    let s := s.modInst i fun t => { t with hart := none, saved := true, mown := mown, ctag := ctag, ntag := ntag }
    let s := s.freeHart h
    match s.tqe.pkts.lookup t.pk with
    | none => s
    | some p =>
      match s.queue p.q with
      | none => s
      | some q =>
        if q.state = 3 then (s.instStatus i 6 0 0).endInst i false 6
        else if 2 ≤ q.state then s.endInst i false 7
        else s.addEntry p.q t.home ⟨t.pk, p.seq, t.pk, 3, t.slice, t.entry, t.arg, i, none⟩ false

/-- A hart's running instance is reported and ends; a hart without one is freed. -/
def State.loseHart (s : State) (h code reason : Nat) (pc : Word) : State :=
  match (s.hart h).inst with
  | some i => s.loseInst i code reason pc.toNat
  | none => s.freeHart h

/-- SAVE_COMPLETE (R124): VALID is written, or the save ends as a SLOTFAULT loss. -/
def execSaveComplete (s : State) : Out :=
  match s.ev with
  | .saveComplete h =>
    match (s.hart h).save with
    | none => .next s
    | some v =>
      if s.saveBusy h then .next (s.due [.saveComplete h])
      else
        match s.writeSlot h v with
        | (s, false) => .next (s.loseHart h 5 2 v.pc)
        | (s, true) =>
          let mown := s.matOwn h
          if v.reason = 3 then
            let s := ((s.killBlocks h).dropGrant h).dropMatrix h
            .next (s.modHart h fun x =>
              { x with save := none, wait := none, holds := [], pc := x.pc + 4, csr := tset 0xB02 (x.cs 0xB02 + 1) x.csr })
          else if v.reason = 2 then .next (s.loseHart h 4 0 v.pc)
          else
            match (s.hart h).inst with
            | some i => .next (s.requeueSaved h i mown (s.hart h).ctag (s.hart h).ntag)
            | none => .next (s.freeHart h)
  | _ => .next s

/-- CTXSAVE (R129, R347): it reads every register, that of a pending `nfence` too (R454). -/
def execCtxsave (rs1 : BitVec 5) (s : State) : Out :=
  let va := if rs1 = 0 then s.me.cs csrCtxbase else s.x rs1
  if s.me.priv = .u then .next (s.illegal (wordOf (.ctxsave rs1)))
  else if va.toNat % 4096 ≠ 0 then .next (s.cmdFault va)
  else if (s.core s.myCore).save = some false then .next (s.cmdFault 0)
  else if !s.me.held && !s.me.parked && !s.me.biq.isEmpty then .next (s.wait .blocks)
  else if s.net.fences.any fun f => sameAgent s.cur s.me.inst f.hart f.inst then .next (s.wait .commands)
  else
    let lg := bits (s.me.cs csrVcfg).toNat 16 3
    .next ((s.startSave s.cur 3 va (s.me.cs csrSepc) (lg != 0)).wait .commands)

/-! ### Restoring -/

/-- The slot's header as the record gives it (R125). -/
structure Slot where
  reason : Nat
  flags  : Nat
  biqn   : Nat
  slip   : Nat
  pc     : Nat
  lockb  : Nat
  weight : Nat
  garr   : Nat
  tries  : Nat
  vl     : Nat
  mcfg   : Nat
  lanemap : Nat
  bytes  : List Byte
  deriving DecidableEq, Repr

/-- Read the header fields of a record. -/
def slotOf (b : List Byte) : Slot :=
  { reason := field b 4 1, flags := field b 5 1, biqn := field b 6 1, slip := field b 7 1, pc := field b 8 8, lockb := field b 0x10 4
    weight := field b 0x14 1, garr := field b 0x15 1 % 16, tries := field b 0x15 1 / 16 % 4, vl := field b 0x20 8
    mcfg := field b 0x288 8, lanemap := field b 0x290 8, bytes := b }

/-- A record that may be restored: VALID, MAGIC and VERSION as R125 states them, and a BIQN within its 0 to 16 (log entry 37). -/
def Slot.valid (v : Slot) : Bool := bit v.flags 0 && field v.bytes 0 2 == 0xC7B1 && field v.bytes 2 2 == 1 && decide (v.biqn ≤ 16)

/-- VSAVED. -/
def Slot.vsaved (v : Slot) : Bool := bit v.flags 1
/-- MSAVED. -/
def Slot.msaved (v : Slot) : Bool := bit v.flags 2
/-- OWN of the saved `mcfg`. -/
def Slot.own (v : Slot) : Bool := bit v.mcfg 41

/-- An image of the record. -/
def Slot.image (v : Slot) (i : Nat) : List Byte := (v.bytes.drop (0x340 + i * 0x130)).take 0x130

/-- The bits of register that an image needs at its SEW (R128). -/
def Slot.imageBits (v : Slot) (i : Nat) : Nat := field (v.image i) 0x0C 4 * sewBits (BitVec.ofNat 64 (field (v.image i) 0x0A 2))

/-- Sublists, shorter choices of earlier members first. -/
def sublists {α : Type} : List α → List (List α)
  | [] => [[]]
  | x :: r => let t := sublists r; t.map (x :: ·) ++ t

/-- A grant that a restore may take from candidate lane groups (R128): exactly WEIGHT when VSAVED, and room for each image. -/
def State.fits (s : State) (ci : Nat) (v : Slot) (cand : List Nat) : Option (List Nat) :=
  let n := bits v.lanemap 0 3
  (sublists cand).find? fun g =>
    decide (g.length ≤ n) && !g.isEmpty && (!v.vsaved || s.weight ci g == v.weight) &&
      (List.range v.biqn).all fun i => decide (v.imageBits i ≤ s.weight ci g * 1024)

/-- The restore needs a grant (R128 step 2). -/
def Slot.needsGrant (v : Slot) : Bool := v.vsaved || decide (v.biqn ≠ 0)

/-- No grant that `lanedis` and ALLOW permit would do (R128, R130). -/
def State.neverFits (s : State) (ci : Nat) (v : Slot) : Bool :=
  v.needsGrant && (s.fits ci v ((laneList (bits v.lanemap 4 4)).filter fun g => decide (0 < s.wgt ci g))).isNone

/-- Bytes of the vector area at the saved weight. -/
def Slot.vectorLen (v : Slot) : Nat := 32 * (v.weight * 128) + 63 * (v.weight * 16)

/-- Bytes of the matrix area (R330). -/
def Slot.matrixLen (v : Slot) : Nat := 64 + (bitList v.mcfg 8).length * 8192 + (bitList (v.mcfg / 256) 32).length * 16384

/-- The parts of a slot that a restore takes besides the record: vector area, local extent, matrix area. -/
structure Areas where
  vec : List Byte
  loc : List Byte
  mat : List Byte
  deriving DecidableEq, Repr

/-- Read those parts. -/
def State.readAreas (s : State) (cx : Cx) (va : Word) (v : Slot) : State × Except (TR × Word) Areas :=
  match s.readVa cx (va + 0x1800) (if v.vsaved then v.vectorLen else 0) with
  | (s, .error e) => (s, .error e)
  | (s, .ok vec) =>
    match s.readVa cx (va + 0xB800) (v.lockb * 1024) with
    | (s, .error e) => (s, .error e)
    | (s, .ok loc) =>
      match s.readVa cx (va + 0xB800 + BitVec.ofNat 64 (v.lockb * 1024)) (if v.msaved then v.matrixLen else 0) with
      | (s, .error e) => (s, .error e)
      | (s, .ok mat) => (s, .ok ⟨vec, loc, mat⟩)

/-- The bits of a saved CSR that it holds; the others are res0 (R4, R88). A reserved rounding mode in a record's `vcfg` comes back as
it stands (R41, log entry 37). -/
def csrHolds (n : Nat) : Word :=
  if n = 3 then 0xFF else if n = csrVcfg then 0x7FF else if n = csrSigto then 0xFFFFFFFF
  else if n = csrNep then ~~~(0xFFFF00000000F000 : Word) else if n = csrPfpark then 3 else ~~~(0 : Word)

/-- A BIQ entry from an image (R123, R126); a pending operand takes what the older images put, or keeps the restored register where
they put nothing (R172). Its place in program order and its replaced puts are those of the save (R105, log entry 37). -/
def State.imageEntry (s : State) (h : Nat) (v : Slot) (grant : List Nat) (o : Option Order) (i : Nat) : Biq :=
  let b := v.image i
  let x := s.hart h
  let isLoop := field b 8 1 == 1
  let kept := o.bind fun o => o.blocks[i]?
  let pend := (bitList (field b 0x2C 4) 32).filter (0 < ·)
  { Biq.new with
    seq := (kept.map (·.1)).getD (x.seq + i), xdrop := (kept.map (·.2)).getD [], born := s.tqe.stamp + i, va := BitVec.ofNat 64 (field b 0 8), isLoop := isLoop
    vcfg := BitVec.ofNat 64 (field b 0x0A 2 + grant.length * 65536), vl := field b 0x0C 4, n := field b 0x10 8
    strip := field b 0x18 8, base := field b 0x20 8, grant := grant, priv := .u, sum := x.sumBit, mxr := x.mxrBit
    pasid := s.pasidOf h, satp := x.cs csrSatp
    capt := (((List.range 32).drop 1).filter fun r => (field b 0x28 4).testBit r || pend.contains r).map fun r =>
      (r, if pend.contains r then x.xr r else BitVec.ofNat 64 (field b (0x30 + (r - 1) * 8) 8))
    pend := pend, tries := if i = 0 then v.tries else 0 }

/-- The restored vector registers (R127), by element order of the restored grant. -/
def State.restoreVector (s : State) (h : Nat) (v : Slot) (vec : List Byte) : State :=
  let x := s.hart h
  let b := x.wholeEntry
  let n := sewBits b.vcfg / 8
  let vlmax := v.weight * 1024 / (8 * n)
  let places := (List.range vlmax).map fun e => (e, s.place h b e)
  let vs := ((List.range 32).map fun r => places.map fun p =>
    (regKey r p.2.1 p.2.2, (BitVec.ofNat 64 (field vec (r * (v.weight * 128) + p.1 * n) n) : Word))).flatten
  let p0 := 32 * (v.weight * 128)
  let ps := (((List.range 64).drop 1).map fun r => places.map fun p =>
    (regKey r p.2.1 p.2.2, bit (field vec (p0 + (r - 1) * (v.weight * 16) + p.1 / 8) 1) (p.1 % 8))).flatten
  s.modHart h fun x =>
    { x with v := vs.foldl (fun t e => tset e.1 e.2 t) [], p := ps.foldl (fun t e => tset e.1 e.2 t) [] }

/-- The restored matrix state (R330, R331). -/
def Matrix.restore (m : Matrix) (v : Slot) (pasid : Nat) (a : List Byte) : Matrix :=
  let m := m.enable pasid
  let tiles := bitList v.mcfg 8
  let slots := bitList (v.mcfg / 256) 32
  let m := (List.range 8).foldl (fun m t =>
    let e := field a (8 + 2 * t) 2
    { m with erows := tset t (e % 128) m.erows, ecols := tset t (e / 256 % 64) m.ecols
             issuedEdge := tset t (e % 128, e / 256 % 64) m.issuedEdge }) m
  let m := (List.range tiles.length).foldl (fun m k =>
    (List.range 2048).foldl (fun m i =>
      { m with cells := tset (tiles.getD k 0 * 2048 + i) (BitVec.ofNat 32 (field a (64 + k * 8192 + i * 4) 4)) m.cells }) m) m
  (List.range slots.length).foldl (fun m k =>
    m.setSlot (slots.getD k 0) 0 ((a.drop (64 + tiles.length * 8192 + k * 16384)).take 16384)) m

/-- The context saved at `va` is put back into a hart (R128): all but its local extent, its pc, its privilege and its wait. The hart's
`bstat.VLOST` stays until the next `vsetl` sets it (R128, log entry 37). -/
def State.restore (s : State) (h : Nat) (va : Word) (v : Slot) (vec mat : List Byte) (grant : List Nat) : State :=
  let ci := coreOf h
  let w (o : Nat) : Word := BitVec.ofNat 64 (field v.bytes o 8)
  let (s, o) := s.takeOrder (s.hart h).orderId va
  let s := s.modHart h fun x =>
    { x.setRequest (v.lanemap % 256) with
      x := ((List.range 32).drop 1).map fun r => (r, w (0x40 + 8 * r)), f := (List.range 32).map fun r => (r, w (0x140 + 8 * r))
      slip := v.slip, garr := v.garr, held := false, parked := false, told := false, sync := false
      holds := (o.map (·.holds)).getD [], seq := (o.map (·.seq)).getD x.seq
      win := (List.range 8).map fun k =>
        (k, (⟨w (0x2C0 + 16 * k) &&& 0xFFFFFFFF00001FFF, w (0x2C8 + 16 * k) &&& 0xFFFFFFFF⟩ : Window))
      resumed := true, biq := [] }
  let s := (s.setClaims h []).setGrant h grant
  let s := s.modHart h fun x =>
    let csr := (List.range recordCsrs.length).foldl (fun c k =>
      let n := recordCsrs.getD k 0
      tset n (w (0x240 + 8 * k) &&& csrHolds n) c) x.csr
    let vcfg := (w 0x248 &&& csrHolds csrVcfg) ||| BitVec.ofNat 64 (grant.length * 65536)
    let vlmax := s.vlmaxOf ci grant (sewBits vcfg)
    { x with csr := tset csrPfpark (w 0x298 &&& csrHolds csrPfpark) (tset csrMcfg (w 0x288 &&& 0xFFFFFFFFFF) (tset csrVcfg vcfg
        (tset csrVlmax (BitVec.ofNat 64 (if grant.isEmpty then 0 else vlmax))
          (tset csrVl (BitVec.ofNat 64 (if grant.isEmpty then 0 else v.vl)) csr)))) }
  let s := if v.vsaved then s.restoreVector h v vec else s.modHart h fun x => { x with vgen := x.vgen + 1, v := [], p := [] }
  let s := if v.msaved then s.modMat ci fun m => m.restore v (s.pasidOf h) mat else s
  let q := (List.range v.biqn).map (s.imageEntry h v grant o)
  let s := s.modHart h fun x => { x with biq := q, seq := if o.isSome then x.seq else x.seq + v.biqn }
  { s with tqe := { s.tqe with stamp := s.tqe.stamp + v.biqn } }

/-- The grant that a restore takes now: `none` while it has to wait, which makes its claims (R100, R128). -/
def State.restoreGrant (s : State) (h : Nat) (v : Slot) : State × Option (List Nat) :=
  if !v.needsGrant then (s, some [])
  else
    let s := s.modHart h fun x => x.setRequest (v.lanemap % 256)
    match s.fits (coreOf h) v (s.candidates h) with
    | some g => (s, some (laneSort g))
    | none => (s.setClaims h (s.newClaims h (s.newGrant h)), none)

/-- A resume whose slot has been read goes on (R128): a grant is waited for, then the context restored. -/
def State.resumeRest (s : State) (h i : Nat) (va : Word) (v : Slot) (vec mat : List Byte) : State :=
  if s.neverFits (coreOf h) v then s.loseHart h 5 3 (BitVec.ofNat 64 v.pc)
  else
    match s.restoreGrant h v with
    | (s, none) => s
    | (s, some g) =>
      let t := (s.tqe.insts.lookup i).getD default
      ((s.restore h va v vec mat g).modHart h fun x =>
        { x with resume := none, pc := BitVec.ofNat 64 v.pc, priv := .u, wait := none, timedOut := false
                 ctag := t.ctag, ntag := t.ntag, csr := tset csrCtxbase va x.csr }).fencesDone

/-- RESUME (R128): the slot is read once and VALID cleared, the local extent restored, and the rest follows when a grant is free. -/
def execResume (s : State) : Out :=
  match s.ev with
  | .resume h =>
    match (s.hart h).resume, (s.hart h).inst with
    | some r, some i =>
      match r.got with
      | some (b, vec, mat) => .next (s.resumeRest h i r.va (slotOf b) vec mat)
      | none =>
        let cx := s.slotCx h
        match s.readVa cx r.va 0x1800 with
        | (s, .error _) => let (s, v) := s.free; .next (s.loseHart h 5 2 v)
        | (s, .ok b) =>
          let v := slotOf b
          if !v.valid then .next (s.loseHart h 5 2 (BitVec.ofNat 64 v.pc))
          else
            match s.readAreas cx r.va v with
            | (s, .error _) => .next (s.loseHart h 5 2 (BitVec.ofNat 64 v.pc))
            | (s, .ok a) =>
              let s := (s.writeVa cx (r.va + 5) [BitVec.ofNat 8 (v.flags / 2 * 2)]).1
              let s := (s.poke (locBase (coreOf h)) a.loc).modHart h fun x => { x with resume := some ⟨r.va, some (b, a.vec, a.mat)⟩ }
              .next (s.resumeRest h i r.va v a.vec a.mat)
    | _, _ => .next s
  | _ => .next s

/-- The standard trap of a read that failed (R130). -/
def State.loadTrap (s : State) (e : TR × Word) : Out := .next (s.except (if e.1 = .pageFault then 13 else 5) e.2)

/-- CTXLOAD (R130): checks, then the whole read, then the waits, then the restore. VALID stays in the slot, and the grant is taken when
both waits are over (log entry 37). -/
def execCtxload (rs1 : BitVec 5) (s : State) : Out :=
  let va := if rs1 = 0 then s.me.cs csrCtxbase else s.x rs1
  let h := s.cur
  let ci := s.myCore
  if s.me.priv = .u then .next (s.illegal (wordOf (.ctxload rs1)))
  else if va.toNat % 4096 ≠ 0 then .next (s.cmdFault va)
  else
    let cx := s.slotCx h
    match s.readVa cx va 0x1800 with
    | (s, .error e) => s.loadTrap e
    | (s, .ok b) =>
      let v := slotOf b
      if !v.valid || !s.me.biq.isEmpty || s.neverFits ci v then .next (s.cmdFault 0)
      else
        match s.readAreas cx va v with
        | (s, .error e) => s.loadTrap e
        | (s, .ok a) =>
          match s.restoreGrant h v with
          | (s, none) => .next (s.wait .grant)
          | (s, some g) =>
            if v.own && !s.matOwn h && !s.matTurn h then .next (s.matWait .engine)
            else
              let s := if v.own && !s.matOwn h then s.matTake h false else s
              let s := (s.poke (locBase ci) a.loc).restore h va v a.vec a.mat g
              .next (s.modMe fun x =>
                { x with csr := tset csrSepc (BitVec.ofNat 64 v.pc) (tset csrMstatus (x.cs csrMstatus &&& ~~~(0x100 : Word)) x.csr) }).retire

/-! ### vsetl -/

/-- The registers are unspecified from here on (R102). -/
def Hart.loseVectors (x : Hart) : Hart := { x with vgen := x.vgen + 1, v := [], p := [] }

/-- The grant is in place: VLMAX, VL, `vcfg` and the result (R102). -/
def State.vsetlEnd (s : State) (rd rs1 : BitVec 5) (cfg : BitVec 12) (new : List Nat) (lost : Bool) : Out :=
  let s := s.setGrant s.cur new
  let s := if (s.me.lgreq ≤ new.length) then s.setClaims s.cur [] else s
  let vlmax := s.vlmaxOf s.myCore new (sewBits (cfg.setWidth 64))
  let vl := if rs1 = 0 then vlmax else Nat.min (s.x rs1).toNat vlmax
  let s := s.modMe fun x =>
    let x := if lost then x.loseVectors else x
    let vcfg := (x.cs csrVcfg &&& ~~~(0x707FF : Word)) ||| (cfg.setWidth 64 &&& 0x7FF) ||| BitVec.ofNat 64 (new.length * 65536)
    { (((x.setCs csrVcfg vcfg).setCs csrVlmax (BitVec.ofNat 64 vlmax)).setCs csrVl (BitVec.ofNat 64 vl)) with
      vlost := lost, resumed := false }
  .next (s.retireX rd (BitVec.ofNat 64 vl))

/-- A request of the TQE for a task of higher priority that a `vsetl` answers (R102, R121): the instance is PREEMPTIBLE and the grace
timer runs. -/
def State.atVsetl (s : State) (h : Nat) : Bool :=
  (s.hart h).preempt.any (fun p => p.cause == 0 && !p.hard) && s.preemptible h

/-- VSETL (R99 to R102, R121). -/
def execVsetl (rd rs1 : BitVec 5) (cfg : BitVec 12) (s : State) : Out :=
  let c := cfg.toNat
  let h := s.cur
  if bit c 11 || decide (4 < bits c 2 3) || decide (4 < bits c 7 3) then .next (s.illegal (wordOf (.vsetl rd rs1 cfg)))
  else if s.atVsetl h then
    if !s.me.biq.isEmpty then .next (s.wait .blocks)
    else if (s.queueOf h).any (·.sw) then
      .next ((s.modMe fun x => { x with preempt := none }).except 29 0)
    else .next ((s.abandon h).startSave h 0 (s.me.cs csrCtxbase) s.me.pc false)
  else
    let new := s.newGrant h
    let s := s.setClaims h (s.newClaims h new)
    if new.isEmpty then .next (s.wait .grant)
    else
      let lost := new != s.me.grant || bits c 0 2 != (s.me.cs csrVcfg).toNat % 4 || s.me.resumed
      if lost && !s.me.biq.isEmpty then .next (s.wait .blocks) else s.vsetlEnd rd rs1 cfg new lost

/-- LANE_GRANT_REEVAL (R100): a hart that waits for lanes looks again. -/
def execLaneGrantReeval (s : State) : Out :=
  match s.ev with
  | .laneGrantReeval h =>
    if (s.hart h).resume.isSome then .next (s.due [.resume h])
    else if (s.hart h).wait = some .grant then .next (s.modHart h fun x => { x with wait := none })
    else .next s
  | _ => .next s

/-! ### Hard pre-emption -/

/-- GRACE_EXPIRY (R122). -/
def execGraceExpiry (s : State) : Out :=
  match s.ev with
  | .graceExpiry h =>
    .next (s.modHart h fun x => { x with preempt := x.preempt.map fun p => if p.timed then { p with hard := true } else p })
  | _ => .next s

/-- COMMIT_WINDOW_EXPIRY (R122): every block whose atomic group has not fired is aborted and runs no more. -/
def execCommitWindowExpiry (s : State) : Out :=
  match s.ev with
  | .commitWindowExpiry h =>
    .next (if (s.hart h).preempt.any (·.stopped) then
        s.modHart h fun x =>
          { x with preempt := x.preempt.map fun p => { p with closed := true }
                   biq := x.biq.map fun b => if b.atom || b.held then b else { b.again with held := true } }
      else s)
  | _ => .next s

/-- A hart stops here under a hard pre-emption (R122): at a boundary in U-mode, any wait abandoned, no save begun. A publish that an
`rpub` has begun (R418) and an atomic that the host performs (R475) are no such wait: the instruction completes first (log entry 38). -/
def State.stopsHere (s : State) (h : Nat) : Bool :=
  let x := s.hart h
  match x.preempt with
  | some p => p.hard && !p.stopped && x.save.isNone && (x.resume.isSome || (x.priv == .u && !(x.wait.any Wait.firm)))
  | none => false

/-- The instance of a stopped hart is discarded and reported by its cause (R122, R363, R364). -/
def State.discard (s : State) (h cause : Nat) : State :=
  let s := s.killBlocks h
  let pc := (s.hart h).pc
  match (s.hart h).inst with
  | none => s.freeHart h
  | some i =>
    if cause = 3 then s.loseInst i 4 0 pc.toNat
    else if cause = 4 then s.loseInst i 5 4 pc.toNat
    else if cause = 2 then (s.instStatus i 6 0 0).endInst i false 6
    else s.endInst i false 7

/-- The REASON of a save by the cause of its pre-emption (R125). -/
def saveReason (cause : Nat) : Nat := if cause = 3 then 2 else if cause = 4 then 4 else 1

/-- What a hart under hard pre-emption does at its turn (R122): it stops, lets its blocks commit within the window and its
matrix commands retire, and is then saved or discarded. A resume that has not ended goes back, its slot valid again with the REASON
of this save, or is discarded (log entry 37). -/
def State.stopStep (s : State) (h : Nat) : State :=
  let x := s.hart h
  match x.preempt with
  | none => s
  | some p =>
    if !p.stopped then (s.abandon h).modHart h fun x => { x with preempt := some { p with stopped := true } }
    else
      let drop := p.cause == 1 || p.cause == 2 || !s.preemptible h
      if x.resume.isSome then
        match x.inst with
        | some i =>
          if drop || p.cause == 3 then s.discard h p.cause
          else
            let t := (s.tqe.insts.lookup i).getD default
            let s := match x.resume with
              | some ⟨va, some (b, _, _)⟩ =>
                (s.writeVa (s.slotCx h) (va + 4) [BitVec.ofNat 8 (saveReason p.cause), b.getD 5 0]).1
              | _ => s
            s.requeueSaved h i t.mown t.ctag t.ntag
        | none => s.freeHart h
      else if !(x.biq.isEmpty || x.held || x.parked || (p.closed && !x.biq.any (·.atom))) || s.matPending h ≠ 0 then s
      else if drop then s.discard h p.cause
      else s.startSave h (saveReason p.cause) (x.cs csrCtxbase) x.pc (bits (x.cs csrVcfg).toNat 16 3 != 0)

/-- A save of the hart has begun (R132, R133): at a `vsetl` or `ctxsave`, or at the expiry that made its pre-emption hard. -/
def State.saveBegun (s : State) (h : Nat) : Bool := (s.hart h).save.isSome || (s.hart h).preempt.any (·.hard)

/-- WATCHDOG_EXPIRY (R132, R488), while no save has begun: of a hart, or of the guest instance with that identifier. -/
def execWatchdogExpiry (s : State) : Out :=
  match s.ev with
  | .watchdogExpiry h =>
    match s.tqe.insts.lookup h with
    | some t =>
      if t.guest && !t.saved then
        let q := ((s.tqe.pkts.lookup t.pk).bind fun p => s.queue p.q).getD default
        if q.wdog = 0 then .next s
        else
          let (s, v) := s.free
          let s := s.loseInst h 4 0 v.toNat
          .next { s with guest := { s.guest with sent := s.guest.sent ++ [[3, q.pasid, t.stamp % 2 ^ 32, h, 1]]
                                                 discard := h :: s.guest.discard, runs := s.guest.runs.filter (· != h) } }
      else .next s
    | none =>
      if (s.queueOf h).any (fun q => q.wdog != 0) && !s.saveBegun h then .next (s.askHard h 3) else .next s
  | _ => .next s

/-- SAVETO_EXPIRY (R133): the instance is LOST and its core quarantined. -/
def execSavetoExpiry (s : State) : Out :=
  match s.ev with
  | .savetoExpiry h =>
    let x := s.hart h
    let pc := match x.save with | some v => v.pc | none => x.pc
    if s.saveBegun h then .next ((s.loseHart h 5 1 pc).quarantine (coreOf h) 1 (some h)) else .next s
  | _ => .next s

/-! ### Waits -/

/-- WAIT_TIMEOUT (R91, R112): `sigto` runs out; the waiting instruction re-executes and ends. -/
def execWaitTimeout (s : State) : Out :=
  match s.ev with
  | .waitTimeout h =>
    let x := s.hart h
    let timed := match x.wait with
      | some (.signal _) => true
      | some (.group _ _) => true
      | some .matrix => true
      | _ => false
    if timed && (x.cs csrSigto).toNat % 2 ^ 32 != 0 then .next (s.modHart h fun x => { x with wait := none, timedOut := true }) else .next s
  | _ => .next s

/-- SIGNAL_WAKE (R23): harts that wait on the granule look again. -/
def execSignalWake (s : State) : Out :=
  match s.ev with
  | .signalWake pa =>
    .next (s.liveHarts.foldl (fun s h =>
      match (s.hart h).wait with
      | some (.signal a) => if a / 32 = pa / 32 then s.modHart h fun x => { x with wait := none } else s
      | _ => s) s)
  | _ => .next s

/-- SIGNAL_POLL (R23): a hart that waits on a word in host or peer memory reads it again. -/
def execSignalPoll (s : State) : Out :=
  match s.ev with
  | .signalPoll h =>
    match (s.hart h).wait with
    | some (.signal _) => .next (s.modHart h fun x => { x with wait := none })
    | _ => .next s
  | _ => .next s

end Sys2Proof.Machine
end

