-- ==== Sys2Proof/Machine/Mgmt.lean ====
section
/-! DEFINITION. Management (R508 to R523): lane errors and quarantine, targeted self-test, resets and bring-up, secure
boot, attestation, power and temperature. -/

namespace Sys2Proof.Machine

/-! ### Lane errors -/

/-- The block of a hart that runs: its oldest one that is not held. -/
def Hart.running (x : Hart) : Option Biq := x.biq.find? fun b => !b.held

/-- The LANEERR record of a block (R510, R511, R512); the check word is open. -/
def State.laneError (s : State) (h lg lane elem : Nat) (b : Biq) : State :=
  let (s, v) := s.free
  s.errorRecord
    { code := 0x10, sev := 1, unit := 1, die := hartDie h, core := coreOf h % 128, hart := h % 8, lg := lg, lane := lane
      elem := elem, strip := if b.isLoop then b.strip else 0, pasid := b.pasid
      detail := v.toNat % 2 ^ 63 + (if b.atom then 2 ^ 63 else 0) }

/-- A hart stops because its block failed a lane check (R512): with no effect of an atomic group to keep, every uncommitted
block becomes an image and the hart saves with REASON 4; otherwise the instance is LOST, reason QUARANTINE. -/
def State.laneStop (s : State) (h : Nat) (b : Biq) : State :=
  if b.atom then s.loseHart h 5 4 (s.hart h).pc
  else
    s.modHart h fun x =>
      { x with biq := x.biq.map fun c => if c.atom then c else c.again
               preempt := some ⟨4, false, true, x.inst.isSome, true⟩ }

/-- LANE_CHECK_FAIL (R512, R133): the block in which the check fails does not commit, and its core is quarantined. -/
def execLaneCheckFail (s : State) : Out :=
  match s.ev with
  | .laneCheckFail h lg lane elem =>
    match (s.hart h).running with
    | none => .next s
    | some b => .next (((s.laneError h lg lane elem b).laneStop h b).quarantine (coreOf h) 4 (some h))
  | _ => .next s

/-! ### Targeted self-test -/

/-- A core's reset (R517): dirty L1D lines are written back, then harts, caches, block cache, matrix state, local memory,
and TLBs are as after reset. -/
def State.resetCore (s : State) (ci : Nat) : State :=
  let ls := ((tkeys s.coh.nodes).filter fun k => k / 2 ^ 45 == ci).map (· % 2 ^ 45)
  let s := ls.foldl (fun s l =>
    let s := State.settle settleFuel l s
    State.settle settleFuel l ((s.dropVector ci l).l1dEvict ci l)) s
  let lo := locBase ci
  let s : State := { s with
    mem := s.mem.filter fun c => decide (c.1 < lo) || decide (lo + 2 ^ 20 ≤ c.1)
    harts := s.harts.filter fun e => coreOf e.1 != ci
    rounds := { s.rounds with copies := s.rounds.copies.filter fun e => e.1 / 2 ^ 45 != ci } }
  let s := s.modCore ci fun c => { c with mat := default, save := none, icache := [] }
  s.tlbDrop fun t => unitOn ci t.unit

/-- Nanoseconds of 24 hours. -/
def dayNs : Nat := 86400000000000

/-- The lanes with a lasting fault: those that failed in two or three runs, or were found transient for the third time
within 24 hours (R514). -/
def State.lastingLanes (s : State) (ci : Nat) (lanes : List Nat) : List Nat :=
  (List.range 64).filter fun i =>
    let now := s.dtimeOf (dieOf ci)
    let n := lanes.getD i 0
    decide (2 ≤ n) || (n == 1 && decide (2 ≤ ((tget [] s.mgmt.trans (ci * 64 + i)).filter fun t => decide (now < t + dayNs)).length))

/-- The times at which lanes were found transient, with those of a test's results. -/
def State.noteTransient (s : State) (ci : Nat) (lanes : List Nat) : State :=
  let now := s.dtimeOf (dieOf ci)
  let ts := ((List.range 64).filter fun i => lanes.getD i 0 == 1).foldl (fun (t : Tab (List Nat)) i =>
    tset (ci * 64 + i) (now :: (tget [] t (ci * 64 + i)).filter fun u => decide (now < u + dayNs)) t) s.mgmt.trans
  { s with mgmt := { s.mgmt with trans := ts } }

/-- The pass mask of R514: `fails` counts the failed runs of each unit, `last` names the lasting lanes. -/
def passMask (fails last : List Nat) : Nat :=
  maskOf ((List.range 13).filter fun u =>
    if 4 ≤ u ∧ u ≤ 7 then !last.any fun i => i / 16 == u - 4 else decide (fails.getD u 0 < 2))

/-- The core is offline after a test with that mask (R514): a unit that it cannot do without, both halves of the matrix array, or
no lane group of any weight. -/
def State.testOffline (s : State) (ci mask : Nat) : Bool :=
  [0, 1, 2, 3, 10, 11, 12].any (fun u => !bit mask u) || (!bit mask 8 && !bit mask 9) || s.weight ci [0, 1, 2, 3] == 0

/-- The core returns to service or goes offline (R513, R514, R516). -/
def State.finishTest (s : State) (ci mask : Nat) (last : List Nat) : State :=
  let s := s.modCore ci fun c => { c with lanedis := c.lanedis ||| BitVec.ofNat 64 (maskOf last), selftest := false }
  let half := s.mgmt.half.filter (· != ci)
  let s : State := { s with mgmt := { s.mgmt with half := if bit mask 8 && bit mask 9 then half else ci :: half } }
  if s.testOffline ci mask then
    { s with mgmt := { s.mgmt with offline := ci :: s.mgmt.offline.filter (· != ci) } }
  else s.modCore ci fun c => { c with quar := false }

/-- The SELFTEST record and its host event (R507, R511, R514). -/
def State.testRecord (s : State) (ci mask : Nat) : State :=
  let n := s.mgmt.logn
  let s := s.errorRecord { code := 0x1A, sev := 0, unit := 0, die := dieOf ci, core := ci % 128, detail := mask }
  s.hostEvent 0x45 (dieOf ci) (n + 1) mask false

/-- The SELFTEST commands that wait for a core's results (R503). -/
def State.testers (s : State) (ci : Nat) : List MCmd :=
  s.fe.cmds.filter fun c => c.op == 0x12 && c.arg 0 * 128 + c.arg 1 == ci

/-- SELFTEST_DONE (R514): the results of the three runs of each pattern set on a quarantined core whose instances have gone. -/
def execSelftestDone (s : State) : Out :=
  match s.ev with
  | .selftestDone ci fails lanes =>
    if 512 ≤ ci || !(s.core ci).quar then .next s
    else if !(s.busyHarts ci).isEmpty then .next (s.due [.selftestDone ci fails lanes])
    else
      let s := s.resetCore ci
      let last := s.lastingLanes ci lanes
      let mask := passMask fails last
      let s := ((s.noteTransient ci lanes).finishTest ci mask last).testRecord ci mask
      let s := (s.testers ci).foldl (fun s c => s.answer c stOk mask) s
      .next (s.kick (dieOf ci))
  | _ => .next s

/-! ### Secure boot and package reset -/

/-- An image in flash passes (R518, R519). -/
def State.imageOk (s : State) (b : List Byte) : Bool :=
  let kid := field b 0x0C 4
  let key := tget [] s.mgmt.keys kid
  decide (256 ≤ b.length) && field b 0 4 == 0x51504D42 && field b 8 4 == b.length - 256 &&
    field b 0x10 32 == sm3 (b.drop 256) && decide (kid < 4) &&
    Config.sm2 key (b.take 0x30) ((b.drop 0x30).take 64) && s.mgmt.fuses.lookup kid == some (sm3 key) &&
    !s.mgmt.revoked.contains kid && decide (s.mgmt.minSvn ≤ field b 4 4)

/-- PASID 0 as bring-up creates it (R508 step 4): its slot is LIVE. -/
def pasidZero : Ctx := ⟨0, false, 1, 0, 0, 0, 0, 0⟩

/-- Memory behind no device part: the host's and the peers' keeps its contents through a package reset. -/
def outsideMem (m : List Host.Cell) : List Host.Cell :=
  m.filter fun c => decide (0x100000000000 ≤ c.1) && decide (c.1 < 0x300000000000)

/-- The device right after package reset (R517): what belongs to the board, to the host and to the order of events stays. -/
def State.power (s : State) : State :=
  { State.reset with
    part := s.part, mem := outsideMem s.mem, turns := s.turns
    host := { HostSt.init with peers := s.host.peers, stier := s.host.stier }
    mgmt := { Mgmt.init with
      dram := s.mgmt.dram, images := s.mgmt.images, keys := s.mgmt.keys, fuses := s.mgmt.fuses
      revoked := s.mgmt.revoked, minSvn := s.mgmt.minSvn } }

/-- The GDDR7 of every present die has been trained (R508 step 2, R523). -/
def State.trained (s : State) : Bool := (List.range s.dies).all fun d => s.gddr d != 0

/-- Bring-up (R508): READY with PASID 0 when both images in flash pass and the memory is trained, else FAILED. -/
def State.bringUp (s : State) : State :=
  if s.mgmt.images.length = 2 && s.mgmt.images.all s.imageOk && s.trained then
    { s with fe := { s.fe with state := 2 }, xlat := { s.xlat with ctx := tset 0 pasidZero s.xlat.ctx } }
  else { s with fe := { s.fe with state := 3 } }

/-- PACKAGE_RESET (R508, R517). -/
def execPackageReset (s : State) : Out :=
  match s.ev with
  | .packageReset => .next s.power.bringUp
  | _ => .next s

/-! ### Die and guest reset -/

/-- A device address or local memory that lies on die d. -/
def State.onDieMem (s : State) (d a : Nat) : Bool :=
  if isLocal a then dieOf (localCore a) == d else s.backing a == .gddr d

/-- A translation unit that stands on die d (R431, R432). -/
def unitOnDie (d u : Nat) : Bool :=
  (decide (u < 512) && u / 128 == d) || (decide (5000 ≤ u) && (u - 5000) / 512 == d) ||
    (decide (unitStreamer (80 * d) ≤ u) && decide (u < unitStreamer (80 * (d + 1)))) || u == unitTqe d || u == unitWalker d

/-- The queue parts of die d end (R517): every packet that lies there, every share of another packet, every instance that runs there. -/
def State.loseDieTasks (s : State) (d : Nat) : State :=
  let runs := (s.tqe.insts.filter fun e => e.2.die == d || e.2.hart.any fun h => hartDie h == d).map (·.1)
  let s := runs.foldl (fun s i => let (s, v) := s.free; s.loseInst i 5 v.toNat 0) s
  let ents := (s.tqe.parts.filter fun e => e.1 % 4 == d).flatMap fun e => e.2.ents
  let s := ents.foldl (fun s e => s.dropEntry d e 7) s
  { s with tqe := { s.tqe with
      parts := s.tqe.parts.filter fun e => e.1 % 4 != d
      pkts := s.tqe.pkts.filter fun e => e.2.die != d || e.2.live
      wheel := s.tqe.wheel.filter fun w => w.die != d
      dtime := tdel d s.tqe.dtime, count := tdel d s.tqe.count, spill := tdel d s.tqe.spill } }

/-- The caches, the directory and the round unit of die d are as after reset. -/
def State.resetDieCaches (s : State) (d : Nat) : State :=
  let far (l : Nat) : Bool := s.homeDie (l * 128) != d
  let alive (n : Nat) : Bool := !onDie d n
  { s with
    agenda := s.agenda.filter fun e => (match evLine e with | some l => far l | none => true) && !(evNode e).any (onDie d)
    coh := { s.coh with
      dir := s.coh.dir.filter fun e => far e.1
      txn := s.coh.txn.filter fun e => far e.1
      waitq := s.coh.waitq.filter fun e => far e.1
      nodes := s.coh.nodes.filter fun e => alive (e.1 / 2 ^ 45) && far (e.1 % 2 ^ 45)
      stale := s.coh.stale.filter fun c => far (lineOf c.1)
      llc := s.coh.llc.map fun e => (e.1, e.2.filter far)
      l1d := s.coh.l1d.filter fun e => alive (e.1 / 64)
      l1v := s.coh.l1v.filter fun e => alive (e.1 / 256)
      bc := s.coh.bc.filter fun e => alive e.1
      pinned := s.coh.pinned.filter fun r => far r.1
      poison := s.coh.poison.filter far
      delayed := s.coh.delayed.filter fun e => alive e.1 && far e.2.1
      severed := s.coh.severed.filter fun x => x != d || s.gddr d == 0
      links := s.coh.links.filter fun p => p.1 != d && p.2 != d
      want := s.coh.want.filter fun e => alive (e.1 / 2 ^ 45) && far (e.1 % 2 ^ 45)
      room := s.coh.room.filter fun r => far r.1 }
    rounds := { s.rounds with
      regions := s.rounds.regions.filter fun r => far (lineOf r.2.pbase)
      copies := s.rounds.copies.filter fun e => alive (e.1 / 2 ^ 45) && far (e.1 % 2 ^ 45)
      parked := s.rounds.parked.filter fun r => alive r.node && far r.line } }

/-- A severed die is reset and rejoins (R398, R517), except where its GDDR7 fails bring-up step 2 again (R523). -/
def State.resetDie (s : State) (d : Nat) : State :=
  let s := (s.loseDieTasks d).resetDieCaches d
  let s : State := { s with
    mem := s.mem.filter fun c => !s.onDieMem d c.1
    harts := s.harts.filter fun e => hartDie e.1 != d
    cores := s.cores.filter fun e => dieOf e.1 != d
    copies := s.copies.filter fun e => dieOf e.2.core != d
    mgmt := { s.mgmt with
      tripped := s.mgmt.tripped.filter (· != d), half := s.mgmt.half.filter fun c => dieOf c != d
      offline := s.mgmt.offline.filter fun c => dieOf c != d, cclk := tdel d s.mgmt.cclk } }
  s.tlbDrop fun t => unitOnDie d t.unit

/-- DIERST (R517): accepted only for a severed die. -/
def execDierst (s : State) : Out :=
  match s.ev with
  | .dierst d => .next (if s.coh.severed.contains d then s.resetDie d else s)
  | _ => .next s

/-- GSTRST (R483, R517): the bridge goes to UNBOUND. -/
def execGstrst (s : State) : Out :=
  match s.ev with
  | .gstrst => .next (if s.gbnd then s.loseGuest 0 else { s with guest := { s.guest with state := 0 } })
  | _ => .next s

/-! ### Power and temperature -/

/-- PLIM_SET (R521): 600 W to 1,800 W; another value is not taken. -/
def execPlimSet (s : State) : Out :=
  match s.ev with
  | .plimSet w => .next (if 600 ≤ w ∧ w ≤ 1800 then { s with mgmt := { s.mgmt with plim := w } } else s)
  | _ => .next s

/-- The cclk of a die in MHz; 2,000 where nothing throttles it (R2). -/
def State.cclk (s : State) (d : Nat) : Nat := tget 2000 s.mgmt.cclk d

/-- Set it. -/
def State.setCclk (s : State) (d mhz : Nat) : State := { s with mgmt := { s.mgmt with cclk := tset d mhz s.mgmt.cclk } }

/-- THERMAL_THROTTLE (R522): one step of 100 MHz down, to 1,000 MHz at least. -/
def execThermalThrottle (s : State) : Out :=
  match s.ev with
  | .thermalThrottle d => .next (s.setCclk d (Nat.max 1000 (s.cclk d - 100)))
  | _ => .next s

/-- THROTTLE_RECOVER (R522): one step up. -/
def execThrottleRecover (s : State) : Out :=
  match s.ev with
  | .throttleRecover d => .next (s.setCclk d (Nat.min 2000 (s.cclk d + 100)))
  | _ => .next s

/-- THERMTRIP (R511, R522): the die's cores stop and it is severed. -/
def execThermtrip (s : State) : Out :=
  match s.ev with
  | .thermtrip d =>
    if d < s.dies && !s.mgmt.tripped.contains d then
      let s := s.errorRecord { code := 0x21, sev := 2, unit := 12, die := d, detail := d }
      let s : State := { s with mgmt := { s.mgmt with tripped := d :: s.mgmt.tripped } }
      .next (if s.coh.severed.contains d then s else s.sever d)
    else .next s
  | _ => .next s

/-! ### Attestation -/

/-- Measurement `n` of R520: Quadrille firmware, M-mode firmware and guest policy are digests of bytes that the state holds. -/
def State.measurement (s : State) (n : Nat) : Nat :=
  match n with
  | 2 => sm3 (s.mgmt.images.getD 0 [])
  | 3 => sm3 (s.mgmt.images.getD 1 [])
  | 4 => sm3 s.guest.policy
  | n => Config.measure n

/-- SPDM_REQUEST (R520): a request for measurement `kind` is answered with its digest. The device signs and encrypts as SPDM 1.3
says, which the spec does not repeat; another request changes nothing that the spec describes. -/
def execSpdmRequest (s : State) : Out :=
  match s.ev with
  | .spdmRequest n => .next (if 1 ≤ n ∧ n ≤ 5 then s.toHost [8, n, s.measurement n] else s)
  | _ => .next s

end Sys2Proof.Machine
end

