-- ==== Sys2Proof/Machine/Dispatch.lean ====
section
/-! DEFINITION. One arm per row of the table, each one direct call of the row's meaning. -/

namespace Sys2Proof.Machine

/-- What an instruction of the table does in a state, or an event of it. -/
def exec (i : Instr) (s : State) : Host.Outcome State Fault Refusal :=
  match i with
  | .vsetl rd rs1 cfg => Sys2Proof.Machine.execVsetl rd rs1 cfg s
  | .bx rs1 => Sys2Proof.Machine.execBx rs1 s
  | .bloop rs1 rs2 => Sys2Proof.Machine.execBloop rs1 rs2 s
  | .bwait => Sys2Proof.Machine.execBwait s
  | .bretry => Sys2Proof.Machine.execBretry s
  | .bkill => Sys2Proof.Machine.execBkill s
  | .sigadd rd rs1 rs2 => Sys2Proof.Machine.execSigadd rd rs1 rs2 s
  | .sigor rd rs1 rs2 => Sys2Proof.Machine.execSigor rd rs1 rs2 s
  | .sigwait rd rs1 rs2 => Sys2Proof.Machine.execSigwait rd rs1 rs2 s
  | .sigwaitm rd rs1 rs2 => Sys2Proof.Machine.execSigwaitm rd rs1 rs2 s
  | .fenceS succ pred scope => Sys2Proof.Machine.execFenceS succ pred scope s
  | .gbar g => Sys2Proof.Machine.execGbar g s
  | .ctxsave rs1 => Sys2Proof.Machine.execCtxsave rs1 s
  | .ctxload rs1 => Sys2Proof.Machine.execCtxload rs1 s
  | .lgset rd rs1 rs2 => Sys2Proof.Machine.execLgset rd rs1 rs2 s
  | .menable => Sys2Proof.Machine.execMenable s
  | .mdisable => Sys2Proof.Machine.execMdisable s
  | .mclaim rd => Sys2Proof.Machine.execMclaim rd s
  | .mrel => Sys2Proof.Machine.execMrel s
  | .mzero t => Sys2Proof.Machine.execMzero t s
  | .medge t rs1 rs2 => Sys2Proof.Machine.execMedge t rs1 rs2 s
  | .mop fmt i32 t rs1 => Sys2Proof.Machine.execMop fmt i32 t rs1 s
  | .mstatStatus rd rs1 => Sys2Proof.Machine.execMstatStatus rd rs1 s
  | .mstatDrain rd rs1 => Sys2Proof.Machine.execMstatDrain rd rs1 s
  | .mstatEdge rd rs1 => Sys2Proof.Machine.execMstatEdge rd rs1 s
  | .cpy rd rs1 rs2 rs3 => Sys2Proof.Machine.execCpy rd rs1 rs2 rs3 s
  | .cpy2 rd rs1 rs2 rs3 => Sys2Proof.Machine.execCpy2 rd rs1 rs2 rs3 s
  | .cpyqState rd rs1 rs2 => Sys2Proof.Machine.execCpyqState rd rs1 rs2 s
  | .cpyqRetry rd rs1 rs2 => Sys2Proof.Machine.execCpyqRetry rd rs1 rs2 s
  | .cpyqAbandon rd rs1 rs2 => Sys2Proof.Machine.execCpyqAbandon rd rs1 rs2 s
  | .cpyqNext rd rs1 rs2 => Sys2Proof.Machine.execCpyqNext rd rs1 rs2 s
  | .cpyqFaddr rd rs1 rs2 => Sys2Proof.Machine.execCpyqFaddr rd rs1 rs2 s
  | .tqput rd rs1 rs2 => Sys2Proof.Machine.execTqput rd rs1 rs2 s
  | .tqputLoopback rd rs1 rs2 => Sys2Proof.Machine.execTqputLoopback rd rs1 rs2 s
  | .tqdep rd rs1 rs2 => Sys2Proof.Machine.execTqdep rd rs1 rs2 s
  | .tqdec rd rs1 => Sys2Proof.Machine.execTqdec rd rs1 s
  | .tqat rd rs1 rs2 rs3 => Sys2Proof.Machine.execTqat rd rs1 rs2 rs3 s
  | .tkwait rd rs1 rs2 => Sys2Proof.Machine.execTkwait rd rs1 rs2 s
  | .tkdone rd rs1 rs2 => Sys2Proof.Machine.execTkdone rd rs1 rs2 s
  | .tqdone => Sys2Proof.Machine.execTqdone s
  | .tqyield rs1 rs2 => Sys2Proof.Machine.execTqyield rs1 rs2 s
  | .tqstatDepth rd rs1 rs2 => Sys2Proof.Machine.execTqstatDepth rd rs1 rs2 s
  | .tqstatRun rd rs1 rs2 => Sys2Proof.Machine.execTqstatRun rd rs1 rs2 s
  | .tqstatState rd rs1 rs2 => Sys2Proof.Machine.execTqstatState rd rs1 rs2 s
  | .tqstatPrio rd rs1 rs2 => Sys2Proof.Machine.execTqstatPrio rd rs1 rs2 s
  | .tqstatOvf rd rs1 rs2 => Sys2Proof.Machine.execTqstatOvf rd rs1 rs2 s
  | .tqstatInst rd rs1 rs2 => Sys2Proof.Machine.execTqstatInst rd rs1 rs2 s
  | .tqstatSlice rd rs1 rs2 => Sys2Proof.Machine.execTqstatSlice rd rs1 rs2 s
  | .tqstatGroups rd rs1 rs2 => Sys2Proof.Machine.execTqstatGroups rd rs1 rs2 s
  | .rpub rd rs1 => Sys2Proof.Machine.execRpub rd rs1 s
  | .racq rd rs1 k => Sys2Proof.Machine.execRacq rd rs1 k s
  | .rwinAbs rd rs1 rs2 k => Sys2Proof.Machine.execRwinAbs rd rs1 rs2 k s
  | .rwinLag rd rs1 rs2 k => Sys2Proof.Machine.execRwinLag rd rs1 rs2 k s
  | .rviewV rd rs1 rs2 => Sys2Proof.Machine.execRviewV rd rs1 rs2 s
  | .rviewFloor rd rs1 rs2 => Sys2Proof.Machine.execRviewFloor rd rs1 rs2 s
  | .rviewWord0 rd rs1 rs2 => Sys2Proof.Machine.execRviewWord0 rd rs1 rs2 s
  | .rviewWord1 rd rs1 rs2 => Sys2Proof.Machine.execRviewWord1 rd rs1 rs2 s
  | .ldbw rd rs1 k => Sys2Proof.Machine.execLdbw rd rs1 k s
  | .nsend rd rs1 rs2 => Sys2Proof.Machine.execNsend rd rs1 rs2 s
  | .nwrite rd rs1 rs2 => Sys2Proof.Machine.execNwrite rd rs1 rs2 s
  | .nread rd rs1 rs2 => Sys2Proof.Machine.execNread rd rs1 rs2 s
  | .nfence rd rs1 => Sys2Proof.Machine.execNfence rd rs1 s
  | .nstatState rd rs1 rs2 => Sys2Proof.Machine.execNstatState rd rs1 rs2 s
  | .nstatNext rd rs1 rs2 => Sys2Proof.Machine.execNstatNext rd rs1 rs2 s
  | .nstatPending rd rs1 rs2 => Sys2Proof.Machine.execNstatPending rd rs1 rs2 s
  | .nstatCtva rd rs1 rs2 => Sys2Proof.Machine.execNstatCtva rd rs1 rs2 s
  | .nstatPtp rd rs1 rs2 => Sys2Proof.Machine.execNstatPtp rd rs1 rs2 s
  | .sfenceVma rs1 rs2 => Sys2Proof.Machine.execSfenceVma rs1 rs2 s
  | .lr aq rl f3 rd rs1 => Sys2Proof.Machine.execLr aq rl f3 rd rs1 s
  | .sc aq rl f3 rd rs1 rs2 => Sys2Proof.Machine.execSc aq rl f3 rd rs1 rs2 s
  | .scalarAmo f5 aq rl f3 rd rs1 rs2 => Sys2Proof.Machine.execScalarAmo f5 aq rl f3 rd rs1 rs2 s
  | .vcfgWrite f3 rd src => Sys2Proof.Machine.execVcfgWrite f3 rd src s
  | .lanemapWrite f3 rd src => Sys2Proof.Machine.execLanemapWrite f3 rd src s
  | .mcfgWrite f3 rd src => Sys2Proof.Machine.execMcfgWrite f3 rd src s
  | .satpWrite f3 rd src => Sys2Proof.Machine.execSatpWrite f3 rd src s
  | .csrWrite csr f3 rd src => Sys2Proof.Machine.execCsrWrite csr f3 rd src s
  | .add a => Sys2Proof.Machine.execAdd a s
  | .sub a => Sys2Proof.Machine.execSub a s
  | .mul a => Sys2Proof.Machine.execMul a s
  | .mulh a => Sys2Proof.Machine.execMulh a s
  | .div a => Sys2Proof.Machine.execDiv a s
  | .rem a => Sys2Proof.Machine.execRem a s
  | .and a => Sys2Proof.Machine.execAnd a s
  | .or a => Sys2Proof.Machine.execOr a s
  | .xor a => Sys2Proof.Machine.execXor a s
  | .andn a => Sys2Proof.Machine.execAndn a s
  | .sll a => Sys2Proof.Machine.execSll a s
  | .srl a => Sys2Proof.Machine.execSrl a s
  | .sra a => Sys2Proof.Machine.execSra a s
  | .rot a => Sys2Proof.Machine.execRot a s
  | .min a => Sys2Proof.Machine.execMin a s
  | .max a => Sys2Proof.Machine.execMax a s
  | .abs a => Sys2Proof.Machine.execAbs a s
  | .clz a => Sys2Proof.Machine.execClz a s
  | .ctz a => Sys2Proof.Machine.execCtz a s
  | .popc a => Sys2Proof.Machine.execPopc a s
  | .cmp a => Sys2Proof.Machine.execCmp a s
  | .bfx a => Sys2Proof.Machine.execBfx a s
  | .bfi a => Sys2Proof.Machine.execBfi a s
  | .dot4 a => Sys2Proof.Machine.execDot4 a s
  | .redsum a => Sys2Proof.Machine.execRedsum a s
  | .redmin a => Sys2Proof.Machine.execRedmin a s
  | .redmax a => Sys2Proof.Machine.execRedmax a s
  | .redand a => Sys2Proof.Machine.execRedand a s
  | .redor a => Sys2Proof.Machine.execRedor a s
  | .pfx a => Sys2Proof.Machine.execPfx a s
  | .vconf a => Sys2Proof.Machine.execVconf a s
  | .cmpr a => Sys2Proof.Machine.execCmpr a s
  | .perm a => Sys2Proof.Machine.execPerm a s
  | .slide a => Sys2Proof.Machine.execSlide a s
  | .bcast a => Sys2Proof.Machine.execBcast a s
  | .fadd a => Sys2Proof.Machine.execFadd a s
  | .fsub a => Sys2Proof.Machine.execFsub a s
  | .fmul a => Sys2Proof.Machine.execFmul a s
  | .fma a => Sys2Proof.Machine.execFma a s
  | .fdiv a => Sys2Proof.Machine.execFdiv a s
  | .fsqrt a => Sys2Proof.Machine.execFsqrt a s
  | .fmin a => Sys2Proof.Machine.execFmin a s
  | .fmax a => Sys2Proof.Machine.execFmax a s
  | .fsgnj a => Sys2Proof.Machine.execFsgnj a s
  | .fcmp a => Sys2Proof.Machine.execFcmp a s
  | .fclass a => Sys2Proof.Machine.execFclass a s
  | .frcp a => Sys2Proof.Machine.execFrcp a s
  | .frsq a => Sys2Proof.Machine.execFrsq a s
  | .fex2 a => Sys2Proof.Machine.execFex2 a s
  | .flg2 a => Sys2Proof.Machine.execFlg2 a s
  | .fsin a => Sys2Proof.Machine.execFsin a s
  | .fcos a => Sys2Proof.Machine.execFcos a s
  | .fdot2 a => Sys2Proof.Machine.execFdot2 a s
  | .fredsum a => Sys2Proof.Machine.execFredsum a s
  | .fredmm a => Sys2Proof.Machine.execFredmm a s
  | .fwid a => Sys2Proof.Machine.execFwid a s
  | .fnar a => Sys2Proof.Machine.execFnar a s
  | .fcvtd a => Sys2Proof.Machine.execFcvtd a s
  | .f2i a => Sys2Proof.Machine.execF2i a s
  | .i2f a => Sys2Proof.Machine.execI2f a s
  | .mxscl a => Sys2Proof.Machine.execMxscl a s
  | .mxcvt a => Sys2Proof.Machine.execMxcvt a s
  | .mxexp a => Sys2Proof.Machine.execMxexp a s
  | .pand a => Sys2Proof.Machine.execPand a s
  | .por a => Sys2Proof.Machine.execPor a s
  | .pxor a => Sys2Proof.Machine.execPxor a s
  | .pnot a => Sys2Proof.Machine.execPnot a s
  | .pandn a => Sys2Proof.Machine.execPandn a s
  | .pcnt a => Sys2Proof.Machine.execPcnt a s
  | .pffs a => Sys2Proof.Machine.execPffs a s
  | .mov a => Sys2Proof.Machine.execMov a s
  | .sel a => Sys2Proof.Machine.execSel a s
  | .nul a => Sys2Proof.Machine.execNul a s
  | .addi a => Sys2Proof.Machine.execAddi a s
  | .andi a => Sys2Proof.Machine.execAndi a s
  | .ori a => Sys2Proof.Machine.execOri a s
  | .xori a => Sys2Proof.Machine.execXori a s
  | .slli a => Sys2Proof.Machine.execSlli a s
  | .srli a => Sys2Proof.Machine.execSrli a s
  | .srai a => Sys2Proof.Machine.execSrai a s
  | .muli a => Sys2Proof.Machine.execMuli a s
  | .cmpi a => Sys2Proof.Machine.execCmpi a s
  | .vget r => Sys2Proof.Machine.execVget r s
  | .pget r => Sys2Proof.Machine.execPget r s
  | .xget r => Sys2Proof.Machine.execXget r s
  | .sget r => Sys2Proof.Machine.execSget r s
  | .vput r => Sys2Proof.Machine.execVput r s
  | .pput r => Sys2Proof.Machine.execPput r s
  | .xput r => Sys2Proof.Machine.execXput r s
  | .const r lit => Sys2Proof.Machine.execConst r lit s
  | .iota r lit => Sys2Proof.Machine.execIota r lit s
  | .ld m => Sys2Proof.Machine.execLd m s
  | .ldLone m lit => Sys2Proof.Machine.execLdLone m lit s
  | .lds m => Sys2Proof.Machine.execLds m s
  | .ldsLone m lit => Sys2Proof.Machine.execLdsLone m lit s
  | .ldx m => Sys2Proof.Machine.execLdx m s
  | .ldxLone m lit => Sys2Proof.Machine.execLdxLone m lit s
  | .ldb m => Sys2Proof.Machine.execLdb m s
  | .ldbLone m lit => Sys2Proof.Machine.execLdbLone m lit s
  | .ldbx m => Sys2Proof.Machine.execLdbx m s
  | .ldbxLone m lit => Sys2Proof.Machine.execLdbxLone m lit s
  | .st m => Sys2Proof.Machine.execSt m s
  | .stLone m lit => Sys2Proof.Machine.execStLone m lit s
  | .sts m => Sys2Proof.Machine.execSts m s
  | .stsLone m lit => Sys2Proof.Machine.execStsLone m lit s
  | .stx m => Sys2Proof.Machine.execStx m s
  | .stxLone m lit => Sys2Proof.Machine.execStxLone m lit s
  | .amo m => Sys2Proof.Machine.execAmo m s
  | .acas m => Sys2Proof.Machine.execAcas m s
  | .tfl t lit => Sys2Proof.Machine.execTfl t lit s
  | .tld t lit => Sys2Proof.Machine.execTld t lit s
  | .rbox t => Sys2Proof.Machine.execRbox t s
  | .rtri t => Sys2Proof.Machine.execRtri t s
  | .tsmv r => Sys2Proof.Machine.execTsmv r s
  | .tsld m => Sys2Proof.Machine.execTsld m s
  | .tsst m => Sys2Proof.Machine.execTsst m s
  | .ost r => Sys2Proof.Machine.execOst r s
  | .scalarLoad fp f3 rd rs1 imm => Sys2Proof.Machine.execScalarLoad fp f3 rd rs1 imm s
  | .scalarStore fp f3 rs1 rs2 imm => Sys2Proof.Machine.execScalarStore fp f3 rs1 rs2 imm s
  | .fence fm pred succ rd rs1 => Sys2Proof.Machine.execFence fm pred succ rd rs1 s
  | .fenceI imm rd rs1 => Sys2Proof.Machine.execFenceI imm rd rs1 s
  | .wfi => Sys2Proof.Machine.execWfi s
  | .csrRead csr f3 rd => Sys2Proof.Machine.execCsrRead csr f3 rd s
  | .illegalInstruction word => Sys2Proof.Machine.execIllegalInstruction word s
  | .blockFetchDecode => Sys2Proof.Machine.execBlockFetchDecode s
  | .loadDataReturn => Sys2Proof.Machine.execLoadDataReturn s
  | .blockCommit => Sys2Proof.Machine.execBlockCommit s
  | .blockFault => Sys2Proof.Machine.execBlockFault s
  | .blockTrapDeliver => Sys2Proof.Machine.execBlockTrapDeliver s
  | .laneGrantReeval => Sys2Proof.Machine.execLaneGrantReeval s
  | .graceExpiry => Sys2Proof.Machine.execGraceExpiry s
  | .commitWindowExpiry => Sys2Proof.Machine.execCommitWindowExpiry s
  | .saveComplete => Sys2Proof.Machine.execSaveComplete s
  | .watchdogExpiry => Sys2Proof.Machine.execWatchdogExpiry s
  | .savetoExpiry => Sys2Proof.Machine.execSavetoExpiry s
  | .resume => Sys2Proof.Machine.execResume s
  | .waitTimeout => Sys2Proof.Machine.execWaitTimeout s
  | .signalWake => Sys2Proof.Machine.execSignalWake s
  | .signalPoll => Sys2Proof.Machine.execSignalPoll s
  | .gbarRelease => Sys2Proof.Machine.execGbarRelease s
  | .matrixCmdRetire => Sys2Proof.Machine.execMatrixCmdRetire s
  | .copyChunkExecute => Sys2Proof.Machine.execCopyChunkExecute s
  | .chunkLand => Sys2Proof.Machine.execChunkLand s
  | .tqeDispatch => Sys2Proof.Machine.execTqeDispatch s
  | .ageExpiry => Sys2Proof.Machine.execAgeExpiry s
  | .almanacTick => Sys2Proof.Machine.execAlmanacTick s
  | .depDecrement => Sys2Proof.Machine.execDepDecrement s
  | .ticketAdvance => Sys2Proof.Machine.execTicketAdvance s
  | .queueDestroyComplete => Sys2Proof.Machine.execQueueDestroyComplete s
  | .gets => Sys2Proof.Machine.execGets s
  | .getx => Sys2Proof.Machine.execGetx s
  | .upg => Sys2Proof.Machine.execUpg s
  | .puts => Sys2Proof.Machine.execPuts s
  | .wbreq => Sys2Proof.Machine.execWbreq s
  | .wbdata => Sys2Proof.Machine.execWbdata s
  | .wrm => Sys2Proof.Machine.execWrm s
  | .clean => Sys2Proof.Machine.execClean s
  | .amoRequest => Sys2Proof.Machine.execAmoRequest s
  | .rdu => Sys2Proof.Machine.execRdu s
  | .iack => Sys2Proof.Machine.execIack s
  | .rdata => Sys2Proof.Machine.execRdata s
  | .dataS => Sys2Proof.Machine.execDataS s
  | .dataE => Sys2Proof.Machine.execDataE s
  | .grantX => Sys2Proof.Machine.execGrantX s
  | .wrack => Sys2Proof.Machine.execWrack s
  | .amoack => Sys2Proof.Machine.execAmoack s
  | .inv => Sys2Proof.Machine.execInv s
  | .recall => Sys2Proof.Machine.execRecall s
  | .downgr => Sys2Proof.Machine.execDowngr s
  | .wbgo => Sys2Proof.Machine.execWbgo s
  | .wbstale => Sys2Proof.Machine.execWbstale s
  | .reservationTimeout => Sys2Proof.Machine.execReservationTimeout s
  | .linkError => Sys2Proof.Machine.execLinkError s
  | .linkRetrainFail => Sys2Proof.Machine.execLinkRetrainFail s
  | .sever => Sys2Proof.Machine.execSever s
  | .refetchRequest => Sys2Proof.Machine.execRefetchRequest s
  | .stallTimeout => Sys2Proof.Machine.execStallTimeout s
  | .replicaUpdate => Sys2Proof.Machine.execReplicaUpdate s
  | .replicaAck => Sys2Proof.Machine.execReplicaAck s
  | .roundNotice => Sys2Proof.Machine.execRoundNotice s
  | .walkComplete => Sys2Proof.Machine.execWalkComplete s
  | .atsInvalidate => Sys2Proof.Machine.execAtsInvalidate s
  | .prgResponse => Sys2Proof.Machine.execPrgResponse s
  | .prtoExpiry => Sys2Proof.Machine.execPrtoExpiry s
  | .drainTimeout => Sys2Proof.Machine.execDrainTimeout s
  | .netPacketRx => Sys2Proof.Machine.execNetPacketRx s
  | .netAck => Sys2Proof.Machine.execNetAck s
  | .netNack => Sys2Proof.Machine.execNetNack s
  | .netCompletionAck => Sys2Proof.Machine.execNetCompletionAck s
  | .netRetransmitTimer => Sys2Proof.Machine.execNetRetransmitTimer s
  | .netTimeout => Sys2Proof.Machine.execNetTimeout s
  | .netReadRequest => Sys2Proof.Machine.execNetReadRequest s
  | .ptpEvent => Sys2Proof.Machine.execPtpEvent s
  | .hostPut => Sys2Proof.Machine.execHostPut s
  | .putResultRead => Sys2Proof.Machine.execPutResultRead s
  | .hostBar4Read => Sys2Proof.Machine.execHostBar4Read s
  | .hostBar4Write => Sys2Proof.Machine.execHostBar4Write s
  | .hostAtomicop => Sys2Proof.Machine.execHostAtomicop s
  | .snpinv => Sys2Proof.Machine.execSnpinv s
  | .snpdata => Sys2Proof.Machine.execSnpdata s
  | .snpcur => Sys2Proof.Machine.execSnpcur s
  | .hostReadComplete => Sys2Proof.Machine.execHostReadComplete s
  | .atomicopCompletion => Sys2Proof.Machine.execAtomicopCompletion s
  | .completionTimeout => Sys2Proof.Machine.execCompletionTimeout s
  | .hostLinkDown => Sys2Proof.Machine.execHostLinkDown s
  | .guestDone => Sys2Proof.Machine.execGuestDone s
  | .guestSaved => Sys2Proof.Machine.execGuestSaved s
  | .guestXreq => Sys2Proof.Machine.execGuestXreq s
  | .guestInvack => Sys2Proof.Machine.execGuestInvack s
  | .guestPstopack => Sys2Proof.Machine.execGuestPstopack s
  | .guestFire => Sys2Proof.Machine.execGuestFire s
  | .guestSpdm => Sys2Proof.Machine.execGuestSpdm s
  | .guestCohRequest => Sys2Proof.Machine.execGuestCohRequest s
  | .guestHomeAnswer => Sys2Proof.Machine.execGuestHomeAnswer s
  | .guestDutyTimeout => Sys2Proof.Machine.execGuestDutyTimeout s
  | .attestStart => Sys2Proof.Machine.execAttestStart s
  | .attestTimeout => Sys2Proof.Machine.execAttestTimeout s
  | .qcreate => Sys2Proof.Machine.execQcreate s
  | .qdestroy => Sys2Proof.Machine.execQdestroy s
  | .pbind => Sys2Proof.Machine.execPbind s
  | .pstop => Sys2Proof.Machine.execPstop s
  | .inval => Sys2Proof.Machine.execInval s
  | .winen => Sys2Proof.Machine.execWinen s
  | .wallset => Sys2Proof.Machine.execWallset s
  | .rcreate => Sys2Proof.Machine.execRcreate s
  | .rdestroy => Sys2Proof.Machine.execRdestroy s
  | .epcreate => Sys2Proof.Machine.execEpcreate s
  | .epdestroy => Sys2Proof.Machine.execEpdestroy s
  | .peerset => Sys2Proof.Machine.execPeerset s
  | .nwinreg => Sys2Proof.Machine.execNwinreg s
  | .hwinset => Sys2Proof.Machine.execHwinset s
  | .ptpset => Sys2Proof.Machine.execPtpset s
  | .gpolicy => Sys2Proof.Machine.execGpolicy s
  | .ggrant => Sys2Proof.Machine.execGgrant s
  | .selftest => Sys2Proof.Machine.execSelftest s
  | .info => Sys2Proof.Machine.execInfo s
  | .meminfo => Sys2Proof.Machine.execMeminfo s
  | .ecallSubmit => Sys2Proof.Machine.execEcallSubmit s
  | .ecallPost => Sys2Proof.Machine.execEcallPost s
  | .ecallReport => Sys2Proof.Machine.execEcallReport s
  | .laneCheckFail => Sys2Proof.Machine.execLaneCheckFail s
  | .selftestDone => Sys2Proof.Machine.execSelftestDone s
  | .packageReset => Sys2Proof.Machine.execPackageReset s
  | .dierst => Sys2Proof.Machine.execDierst s
  | .gstrst => Sys2Proof.Machine.execGstrst s
  | .plimSet => Sys2Proof.Machine.execPlimSet s
  | .thermalThrottle => Sys2Proof.Machine.execThermalThrottle s
  | .throttleRecover => Sys2Proof.Machine.execThrottleRecover s
  | .thermtrip => Sys2Proof.Machine.execThermtrip s
  | .interrupt => Sys2Proof.Machine.execInterrupt s
  | .llcFill => Sys2Proof.Machine.execLlcFill s
  | .doorbell => Sys2Proof.Machine.execDoorbell s
  | .protocolError => Sys2Proof.Machine.execProtocolError s
  | .spdmRequest => Sys2Proof.Machine.execSpdmRequest s
  | .hostPortReset => Sys2Proof.Machine.execHostPortReset s
  | .probe => Sys2Proof.Machine.execProbe s

end Sys2Proof.Machine
end

