-- ==== Sys2Proof/Machine/Select.lean ====
section
/-! DEFINITION. Which row of the table a decoded hart word is when an operand register chooses it (R295, R319, R351, R374,
R421, R455, R504), and which x registers a hart instruction reads and writes (R105). -/

namespace Sys2Proof.Machine

/-! ### Rows that an operand chooses -/

/-- The row of an `mstat` word (R319); a value without a report stays with STATUS, which refuses it. -/
def mstatRow (rd rs1 : BitVec 5) (n : Nat) : Instr :=
  if n = 1 then .mstatDrain rd rs1 else if 2 ≤ n ∧ n ≤ 9 then .mstatEdge rd rs1 else .mstatStatus rd rs1

/-- The row of a `cpyq` word (R295). -/
def cpyqRow (rd rs1 rs2 : BitVec 5) (n : Nat) : Instr :=
  if n = 1 then .cpyqRetry rd rs1 rs2
  else if n = 2 then .cpyqAbandon rd rs1 rs2
  else if n = 3 then .cpyqNext rd rs1 rs2
  else if n = 4 then .cpyqFaddr rd rs1 rs2
  else .cpyqState rd rs1 rs2

/-- The row of a `tqstat` word (R374). -/
def tqstatRow (rd rs1 rs2 : BitVec 5) (n : Nat) : Instr :=
  if n = 1 then .tqstatRun rd rs1 rs2
  else if n = 2 then .tqstatState rd rs1 rs2
  else if n = 3 then .tqstatPrio rd rs1 rs2
  else if n = 4 then .tqstatOvf rd rs1 rs2
  else if n = 5 then .tqstatInst rd rs1 rs2
  else if n = 6 then .tqstatSlice rd rs1 rs2
  else if n = 7 then .tqstatGroups rd rs1 rs2
  else .tqstatDepth rd rs1 rs2

/-- The row of an `rview` word (R421). -/
def rviewRow (rd rs1 rs2 : BitVec 5) (n : Nat) : Instr :=
  if n = 1 then .rviewFloor rd rs1 rs2
  else if n = 2 then .rviewWord0 rd rs1 rs2
  else if n = 3 then .rviewWord1 rd rs1 rs2
  else .rviewV rd rs1 rs2

/-- The row of an `nstat` word (R455). -/
def nstatRow (rd rs1 rs2 : BitVec 5) (n : Nat) : Instr :=
  if n = 1 then .nstatNext rd rs1 rs2
  else if n = 2 then .nstatPending rd rs1 rs2
  else if n = 3 then .nstatCtva rd rs1 rs2
  else if n = 4 then .nstatPtp rd rs1 rs2
  else .nstatState rd rs1 rs2

/-- The row that runs for a decoded instruction of the executing hart (log entry 17). -/
def State.selectRow (s : State) (i : Instr) : Instr :=
  match i with
  | .mstatStatus rd rs1 => mstatRow rd rs1 (s.x rs1).toNat
  | .cpyqState rd rs1 rs2 => cpyqRow rd rs1 rs2 (s.x rs2).toNat
  | .tqput rd rs1 rs2 => if (s.x rs2).toNat = 0xFFFFFFFF then .tqputLoopback rd rs1 rs2 else .tqput rd rs1 rs2
  | .tqstatDepth rd rs1 rs2 => tqstatRow rd rs1 rs2 (s.x rs2).toNat
  | .rviewV rd rs1 rs2 => rviewRow rd rs1 rs2 (s.x rs2).toNat
  | .nstatState rd rs1 rs2 => nstatRow rd rs1 rs2 (s.x rs2).toNat
  | .ecallSubmit => if s.ecallIs 1 then .ecallPost else if s.ecallIs 2 then .ecallReport else .ecallSubmit
  | i => i

/-! ### Operand registers -/

/-- The x registers that a hart instruction of the table reads. -/
def hartReads (i : Instr) : List (BitVec 5) :=
  match i with
  | .vsetl _ rs1 _ => [rs1]
  | .bx rs1 => [rs1]
  | .bloop rs1 rs2 => [rs1, rs2]
  | .sigadd _ rs1 rs2 => [rs1, rs2]
  | .sigor _ rs1 rs2 => [rs1, rs2]
  | .sigwait _ rs1 rs2 => [rs1, rs2]
  | .sigwaitm _ rs1 rs2 => [rs1, rs2]
  | .ctxsave rs1 => [rs1]
  | .ctxload rs1 => [rs1]
  | .lgset _ rs1 rs2 => [rs1, rs2]
  | .medge _ rs1 rs2 => [rs1, rs2]
  | .mop _ _ _ rs1 => [rs1]
  | .mstatStatus _ rs1 => [rs1]
  | .cpy _ rs1 rs2 rs3 => [rs1, rs2, rs3]
  | .cpy2 _ rs1 rs2 rs3 => [rs1, rs2, rs3]
  | .cpyqState _ rs1 rs2 => [rs1, rs2]
  | .tqput _ rs1 rs2 => [rs1, rs2]
  | .tqdep _ rs1 rs2 => [rs1, rs2]
  | .tqdec _ rs1 => [rs1]
  | .tqat _ rs1 rs2 rs3 => [rs1, rs2, rs3]
  | .tkwait _ rs1 rs2 => [rs1, rs2]
  | .tkdone _ rs1 rs2 => [rs1, rs2]
  | .tqyield rs1 rs2 => [rs1, rs2]
  | .tqstatDepth _ rs1 rs2 => [rs1, rs2]
  | .rpub _ rs1 => [rs1]
  | .racq _ rs1 _ => [rs1]
  | .rwinAbs _ rs1 rs2 _ => [rs1, rs2]
  | .rwinLag _ rs1 rs2 _ => [rs1, rs2]
  | .rviewV _ rs1 rs2 => [rs1, rs2]
  | .ldbw _ rs1 _ => [rs1]
  | .nsend _ rs1 rs2 => [rs1, rs2]
  | .nwrite _ rs1 rs2 => [rs1, rs2]
  | .nread _ rs1 rs2 => [rs1, rs2]
  | .nfence _ rs1 => [rs1]
  | .nstatState _ rs1 rs2 => [rs1, rs2]
  | .sfenceVma rs1 rs2 => [rs1, rs2]
  | .lr _ _ _ _ rs1 => [rs1]
  | .sc _ _ _ _ rs1 rs2 => [rs1, rs2]
  | .scalarAmo f5 _ _ f3 rd rs1 rs2 =>
    if f5 = 5 then (if f3 = 4 then [rs1, rs2, rs2 + 1, rd, rd + 1] else [rs1, rs2, rd]) else [rs1, rs2]
  | .vcfgWrite f3 _ src => if 4 ≤ f3.toNat then [] else [src]
  | .lanemapWrite f3 _ src => if 4 ≤ f3.toNat then [] else [src]
  | .mcfgWrite f3 _ src => if 4 ≤ f3.toNat then [] else [src]
  | .satpWrite f3 _ src => if 4 ≤ f3.toNat then [] else [src]
  | .csrWrite _ f3 _ src => if 4 ≤ f3.toNat then [] else [src]
  | .scalarLoad _ _ _ rs1 _ => [rs1]
  | .scalarStore fp _ rs1 rs2 _ => if fp then [rs1] else [rs1, rs2]
  | .ecallSubmit => [10, 16, 17]
  | _ => []

/-- The x registers that a hart instruction of the table writes. -/
def hartWrites (i : Instr) : List (BitVec 5) :=
  match i with
  | .vsetl rd _ _ => [rd]
  | .sigadd rd _ _ => [rd]
  | .sigor rd _ _ => [rd]
  | .sigwait rd _ _ => [rd]
  | .sigwaitm rd _ _ => [rd]
  | .lgset rd _ _ => [rd]
  | .mclaim rd => [rd]
  | .mstatStatus rd _ => [rd]
  | .cpy rd _ _ _ => [rd]
  | .cpy2 rd _ _ _ => [rd]
  | .cpyqState rd _ _ => [rd]
  | .tqput rd _ _ => [rd]
  | .tqdep rd _ _ => [rd]
  | .tqdec rd _ => [rd]
  | .tqat rd _ _ _ => [rd]
  | .tkwait rd _ _ => [rd]
  | .tkdone rd _ _ => [rd]
  | .tqstatDepth rd _ _ => [rd]
  | .rpub rd _ => [rd]
  | .racq rd _ _ => [rd]
  | .rwinAbs rd _ _ _ => [rd]
  | .rwinLag rd _ _ _ => [rd]
  | .rviewV rd _ _ => [rd]
  | .ldbw rd _ _ => [rd]
  | .nsend rd _ _ => [rd]
  | .nwrite rd _ _ => [rd]
  | .nread rd _ _ => [rd]
  | .nfence rd _ => [rd]
  | .nstatState rd _ _ => [rd]
  | .lr _ _ _ rd _ => [rd]
  | .sc _ _ _ rd _ _ => [rd]
  | .scalarAmo f5 _ _ f3 rd _ _ => if f5 = 5 ∧ f3 = 4 then [rd, rd + 1] else [rd]
  | .vcfgWrite _ rd _ => [rd]
  | .lanemapWrite _ rd _ => [rd]
  | .mcfgWrite _ rd _ => [rd]
  | .satpWrite _ rd _ => [rd]
  | .csrWrite _ _ rd _ => [rd]
  | .csrRead _ _ rd => [rd]
  | .scalarLoad fp _ rd _ _ => if fp then [] else [rd]
  | .ecallSubmit => [10, 11]
  | _ => []

/-- A hart instruction that makes accesses of stream S when it executes (R18, R70); a publish and its acquire count among them
(log entry 26). -/
def scalarStream (i : Instr) : Bool :=
  match i with
  | .scalarLoad _ _ _ _ _ => true
  | .scalarStore _ _ _ _ _ => true
  | .lr _ _ _ _ _ => true
  | .sc _ _ _ _ _ _ => true
  | .scalarAmo _ _ _ _ _ _ _ => true
  | .sigadd _ _ _ => true
  | .sigor _ _ _ => true
  | .sigwait _ _ _ => true
  | .sigwaitm _ _ _ => true
  | .tkwait _ _ _ => true
  | .tkdone _ _ _ => true
  | .tqput _ _ _ => true
  | .tqdep _ _ _ => true
  | .tqdec _ _ => true
  | .tqat _ _ _ _ => true
  | .ldbw _ _ _ => true
  | .rpub _ _ => true
  | .racq _ _ _ => true
  | _ => false

end Sys2Proof.Machine
end

