-- ==== Sys2Proof/Machine/Sequence.lean ====
section
/-! DEFINITION. What happens next: whose turn it is, the instruction that a hart fetches, what holds it back, what a block
sequencer does, which due event is ready (R17, R30, R70, R105, R117, R118, R145 to R160). -/

namespace Sys2Proof.Machine

/-- What a step does: run an instruction in a state; run it but take the other state unless it traps (R117); or end with an
outcome of its own. -/
inductive Move where
  | run (s : State) (i : Instr)
  | guard (s : State) (i : Instr) (alt : State)
  | stop (out : Out)

/-- An instruction has trapped: it neither retired, nor waits, nor ended or suspended its instance. One that wrote `minstret` with the
value that it then shows has gone on to the next pc and left every other CSR as it was. -/
def State.trapped (s t : State) : Bool :=
  t.me.cs 0xB02 == s.me.cs 0xB02 && t.me.wait.isNone && t.me.save.isNone && t.me.resume.isNone && t.me.inst == s.me.inst &&
    !(t.me.pc == s.me.pc + BitVec.ofNat 64 s.ilen && t.me.priv == s.me.priv &&
      [csrMstatus, csrSepc, csrScause, csrStval, csrMepc, csrMcause, csrMtval].all fun n => t.me.cs n == s.me.cs n)

/-! ### Fetch -/

/-- Two bytes of an instruction at a VA of the executing hart (R63, R376, R378): its instruction cache keeps the lines that it has read
from their homes; what no cache of the device holds is read where it lies. -/
def State.fetchPiece (s : State) (va : Word) : State × Except (TR × Word) (List Byte) :=
  match s.xlateRange (s.hartCx s.cur) .fetch va 2 with
  | (s, .ok loc) =>
    let l := lineOf loc
    match if s.cached loc then (s.core s.myCore).icache.lookup l else none with
    | some bs => (s, .ok ((bs.drop (loc % 128)).take 2))
    | none =>
      let s := s.loadLines noNode loc 2
      if s.poisoned loc 2 then (s.poisonRecord loc, .error (.accessFault, va))
      else if !s.cached loc then (s, .ok (s.peek loc 2))
      else
        let bs := s.peek (l * 128) 128
        (s.modCore s.myCore fun c => { c with icache := tset l bs c.icache }, .ok ((bs.drop (loc % 128)).take 2))
  | (s, t) => (s, .error (t, va))

/-- The word at the pc with its length, or the VA of a compressed word that has no meaning; a translation that fails gives its
trap. -/
def State.fetchWord (s : State) : State × Except (TR × Word) (BitVec 32 × Nat) :=
  match s.fetchPiece s.me.pc with
  | (s, .error e) => (s, .error e)
  | (s, .ok lo) =>
    let a := leNat lo
    if a % 4 ≠ 3 then (s, .ok (BitVec.ofNat 32 a, 2))
    else
      match s.fetchPiece (s.me.pc + 2) with
      | (s, .error e) => (s, .error e)
      | (s, .ok hi) => (s, .ok (BitVec.ofNat 32 (a + 65536 * leNat hi), 4))

/-! ### What holds a hart instruction back -/

/-- A block of the hart still waits for its decode (R105). -/
def Hart.undecided (x : Hart) : Bool := x.biq.any fun b => x.binds b && b.code.isNone

/-- An uncommitted block will write the register (R105). -/
def Hart.awaits (x : Hart) (r : Nat) : Bool := x.biq.any fun b => x.binds b && b.marks r

/-- A pending `nfence` of the agent will write the register (R454). -/
def State.fenceWrites (s : State) (r : Nat) : Bool :=
  s.net.fences.any fun f => sameAgent s.cur s.me.inst f.hart f.inst && f.rd == r && decide (0 < r)

/-- Why the executing hart cannot run an instruction with these operand registers yet. -/
def State.interlock (s : State) (reads writes : List Nat) : Option Wait :=
  let regs := (reads ++ writes).filter (0 < ·)
  if !regs.isEmpty && s.me.undecided then some .blocks
  else if reads.any fun r => decide (0 < r) && s.me.awaits r then some .xreg
  else if regs.any s.fenceWrites then some .commands
  else none

/-- An instruction that captures x registers for a block (R104). -/
def issuesBlock (i : Instr) : Bool :=
  match i with
  | .bx _ => true
  | .bloop _ _ => true
  | _ => false

/-- Why the executing hart cannot run a table instruction yet (R70, R105, R454): one that issues a block reads every register. -/
def State.heldUp (s : State) (i : Instr) : Option Wait :=
  match s.interlock ((hartReads i).map (·.toNat)) ((hartWrites i).map (·.toNat)) with
  | some w => some w
  | none =>
    if issuesBlock i && ((List.range 32).any s.fenceWrites) then some .commands
    else if scalarStream i && s.heldBack s.cur strS s.me.seq then some .commands else none

/-! ### A hart's turn -/

/-- A wait that only its event ends: the hart does not look again before. -/
def Wait.asleep : Wait → Bool
  | .signal _ => true
  | .page _ _ _ => true
  | .submit => true
  | .host _ _ _ _ _ _ _ => true
  | .task => true
  | .publish _ _ => true
  | _ => false

/-- A hart instruction that stores in the hart's store buffer may stay behind (R59, R62): scalar loads and stores, which RVWMO lets
pass, and those that only hand work to the sequencer. Before any other the buffer drains. -/
def passesStores (i : Instr) : Bool :=
  match i with
  | .scalarLoad _ _ _ _ _ => true
  | .scalarStore _ _ _ _ _ => true
  | .bx _ => true
  | .bloop _ _ => true
  | .vsetl _ _ _ => true
  | _ => false

/-- The ordering `fence.s SB, SB, hart` of a read of R68 that has completed is in place. -/
def State.readOrder (s : State) : State :=
  if s.me.sync then ((s.drain s.cur).hold (strS + strB) (strS + strB) none).modMe fun x => { x with sync := false } else s

/-- The read that had to wait for a block completes with what runs now (R68). -/
def State.readDone (s : State) : State := if s.me.wait = some .xreg then s.modMe fun x => { x with sync := true } else s

/-- The hart exists and executes: its die is present and not stopped by heat (R522), its core is in service (R513). -/
def State.runs (s : State) (h : Nat) : Bool :=
  if isQuadrille h then decide (h < 4100)
  else decide (hartDie h < s.dies) && !s.mgmt.tripped.contains (hartDie h) && !s.mgmt.offline.contains (coreOf h)

/-- The trap that an instruction boundary owes (R117): a held fault, else a pending interrupt; a firm wait defers both. -/
def State.boundaryTrap (s : State) : Option State :=
  let x := s.me
  if x.wait.any Wait.firm then none
  else if x.faultDue then some (s.deliverFault s.cur)
  else
    x.pendingInt.map fun c => (s.abandon s.cur).modMe fun y => y.trap c.2 c.1 true 0

/-- Run an instruction, giving way to a trap that the boundary owes unless the instruction itself traps (R117). -/
def State.runOr (s : State) (i : Instr) (alt : Option State) : Move :=
  match alt with
  | some a => .guard s i a
  | none => .run s i

/-- A fixed outcome, giving way to the boundary's trap. -/
def stopOr (out : Out) (alt : Option State) : Move :=
  match alt with
  | some a => .stop (.next a)
  | none => .stop out

/-- The hart waits at its instruction. -/
def State.waitOr (s : State) (w : Wait) (alt : Option State) : Move := stopOr (.next (s.wait w)) alt

/-- A standard word outside the table (R79): a base or a scalar float instruction, else illegal. -/
def State.baseMove (s : State) (w : BitVec 32) (alt : Option State) : Move :=
  match s.interlock (baseReads w ++ fpuReads w) (baseWrites w) with
  | some r => s.waitOr r alt
  | none =>
    match let s := s.readDone; (baseStep w s).orElse fun _ => fpuStep w s with
    | some t => if s.trapped t then .stop (.next t) else stopOr (.next t) alt
    | none => .run s (.illegalInstruction w)

/-- A word that was fetched: decode, row, interlocks. -/
def State.wordMove (s : State) (w : BitVec 32) (alt : Option State) : Move :=
  match decodeHart w with
  | none => s.baseMove w alt
  | some i =>
    match s.heldUp i with
    | some r => s.waitOr r alt
    | none =>
      let s := if passesStores i then s.readDone else s.readDone.drain s.cur
      if !passesStores i && !s.me.sbuf.isEmpty then s.waitOr .blocks alt else s.runOr (s.selectRow i) alt

/-- A compressed load or store of a floating-point register. -/
def compressedFp (c : Nat) : Bool := c % 4 != 1 && c % 4 != 3 && (bits c 13 3 == 1 || bits c 13 3 == 5)

/-- The executing hart fetches and goes on; an illegal compressed word is its own 16 bits in the trap (R82), one of a floating-point load
or store with FS off among them. -/
def State.fetchMove (s : State) (alt : Option State) : Move :=
  match s.fetchWord with
  | (s, .error (t, va)) => .stop (s.xlateTrap .fetch va t)
  | (s, .ok (w, 4)) => { s with ilen := 4 }.wordMove w alt
  | (s, .ok (w, _)) =>
    match if compressedFp w.toNat && bits (s.me.cs csrMstatus).toNat 13 2 == 0 then none else expandC (w.setWidth 16) with
    | some w' => { s with ilen := 2 }.wordMove w' alt
    | none => .run { s with ilen := 2 } (.illegalInstruction w)

/-- The turn of the executing hart. -/
def State.hartMove (s : State) : Move :=
  let x := s.me
  if !s.runs s.cur then .stop (.next s)
  else if s.stopsHere s.cur || (x.preempt.any (·.stopped) && x.save.isNone) then .stop (.next (s.stopStep s.cur))
  else if x.save.isSome || x.resume.isSome then .stop (.next s)
  else
    let s := ((if s.lazy then s else s.drain s.cur).pruneHolds s.cur).readOrder
    let alt := s.boundaryTrap
    if x.wait.any Wait.asleep then stopOr (.next s) alt else s.fetchMove alt

/-! ### A block sequencer's turn -/

/-- What an instruction awaits beside its tokens, whatever the group: forwarded operands (R104), orderings (R70), known stores (R157),
its place as an atomic (R159). -/
def State.mayFire (s : State) (h i : Nat) (b : Biq) (id : Nat) (ins : Instr) : Bool :=
  match ins with
  | .xget r => !b.pend.contains r.reg.toNat
  | ins =>
    match memForm ins with
    | some m => s.memReady h i b m.lsid.toNat && (!isAtomic ins || State.atomReady i b id)
    | none => !isUnitAccess ins || !b.faults.isEmpty || !s.entryHeld h b

/-- What it awaits in element group `j`: registers of older blocks (R155, R227, R271), space in the store buffer (R245). -/
def State.groupMay (s : State) (h i : Nat) (b : Biq) (id : Nat) (ins : Instr) (j : Nat) : Bool :=
  match ins with
  | .vget r => s.regSettled h i b (isVput r.reg.toNat) j
  | .pget r => s.regSettled h i b (isPput r.reg.toNat) j
  | .mxcvt a => s.scaleReady h i b id a.pm j
  | .mxexp a => s.scaleReady h i b id a.pm j
  | .rbox _ => s.rayReady h i b j
  | .rtri _ => s.rayReady h i b j
  | ins => !isStore ins || match memForm ins with | some m => s.storeMay h b (memBytesOf m) [j] | none => true

/-- An instruction that fires once, for every element group together: a collective (R154), an atomic (R159). -/
def firesWhole : Instr → Bool
  | .amo _ => true
  | .acas _ => true
  | i => match (encode i).headD 0 with | w => (decodeA w).isSome && isColl (bits w.toNat 24 8)

/-- The groups for which an instruction of an entry fires next (R151, R162): all that can, or none. -/
def State.fireGroups (s : State) (h i : Nat) (b : Biq) (id : Nat) (ins : Instr) : Option (List Nat) :=
  let all := s.groups h b
  let need := slotsOf id ins
  if b.fired.contains id || !(need.all fun n => (b.tok id n).isSome) || !s.mayFire h i b id ins then none
  else
    let g := (b.readyGroups all id need).filter fun j =>
      s.groupMay h i b id ins j && (b.faults.isEmpty || b.sweep.contains (id, j))
    if all.isEmpty then (if b.faults.isEmpty then some [] else none)
    else if g.isEmpty || (firesWhole ins && g.length != all.length) then none
    else if isStore ins && !(match memForm ins with | some m => s.storeMay h b (memBytesOf m) g | none => true) then some (g.take 1)
    else some g

/-- The first instruction of a hart's blocks that can fire, older blocks and lower IDs first: entry, ID, groups, instruction. -/
def State.nextFire (s : State) (h n : Nat) : Option (Nat × Nat × List Nat × Instr) :=
  (List.range n).findSome? fun i =>
    match s.entry h i with
    | none => none
    | some b =>
      if b.held then none
      else
        match b.code with
        | none => none
        | some c => c.instrs.findSome? fun x => (s.fireGroups h i b x.1 x.2).map fun g => (i, x.1, g, x.2)

/-- A pending load can return, or has to ask its home first (R239, R408). -/
def State.loadsDue (s : State) (h : Nat) : Bool :=
  (List.range (s.hart h).biq.length).any fun i =>
    match s.entry h i with
    | none => false
    | some b => !b.held && b.pends.any fun p =>
        let t := s.pendAsk h b.seq p
        (!t.pendStalls h p && !t.pendBehind h i b p) || t.rounds.parked.length != s.rounds.parked.length

/-- What a hart's sequencer does next: an event of it, or the firing of an instruction. -/
inductive SeqStep where
  | event (e : Ev)
  | fire (i id : Nat) (g : List Nat) (ins : Instr)
  deriving DecidableEq, Repr

/-- The oldest block's own end: its fault is recorded, or it commits. -/
def State.seqEnd (s : State) (h : Nat) : Option SeqStep :=
  match (s.hart h).biq with
  | [] => none
  | b :: _ =>
    if b.held then none
    else if !b.faults.isEmpty then some (.event (.blockFault h))
    else if b.complete && !s.commitStuck h b then some (.event (.blockCommit h))
    else none

/-- The blocks of a hart that its sequencer may run: a closed commit window lets only a block whose atomic group has fired go on
(R122); a save takes the blocks as they stand. -/
def State.liveBlocks (s : State) (h : Nat) : Nat :=
  let x := s.hart h
  if x.save.isSome || !s.runs h then 0
  else if x.preempt.any fun p => p.stopped && p.closed then (if x.biq.head?.any (·.atom) then 1 else 0)
  else x.biq.length

/-- The next step of a hart's sequencer. -/
def State.seqNext (s : State) (h : Nat) : Option SeqStep :=
  let n := s.liveBlocks h
  if n = 0 then none
  else if n = (s.hart h).biq.length && (s.undecoded h).isSome then some (.event (.blockFetchDecode h))
  else if s.loadsDue h then some (.event (.loadDataReturn h))
  else
    match s.nextFire h n with
    | some (i, id, g, ins) => some (.fire i id g ins)
    | none => s.seqEnd h

/-! ### Events -/

/-- The row of an event takes place. -/
def State.eventMove (s : State) (e : Ev) : Move :=
  match e.instr with
  | some i => .run { s with ev := e } i
  | none => .stop (.next s)

/-- A hart's sequencer takes a step. -/
def State.blockMove (s : State) (h : Nat) : Move :=
  match s.seqNext h with
  | some (.event e) => s.eventMove e
  | some (.fire i id g ins) => .run { s with fire := (h, i, id), grp := g } ins
  | none => .stop (.next s)

/-- An instruction of a hart's entry `i` fires for the groups that the environment has chosen, where it may (R151). -/
def State.fireMove (s : State) (h i id : Nat) (g : List Nat) : Move :=
  match if i < s.liveBlocks h then (s.entry h i).bind fun b => b.code.bind fun c => c.instrs.lookup id else none with
  | some ins => .run { s with fire := (h, i, id), grp := g } ins
  | none => .stop (.next s)

/-- A stop of a PASID can go on (R438, R506). -/
def State.stopReady (s : State) (c : MCmd) : Bool :=
  match if c.arg 0 < 2 ^ 20 then s.ctxOf (c.arg 0) else none with
  | none => true
  | some (_, x) =>
    if (s.pstopOf (c.arg 0)).any (· != c) then true
    else if x.state = 1 then s.inTurn c
    else if x.state = 2 then s.stopAcked (c.arg 0)
    else true

/-- The command of a due event, if it is one. -/
def evCommand : Ev → Option MCmd
  | .qcreate c => some c
  | .qdestroy c => some c
  | .pbind c => some c
  | .inval c => some c
  | .winen c => some c
  | .wallset c => some c
  | .rcreate c => some c
  | .rdestroy c => some c
  | .epcreate c => some c
  | .epdestroy c => some c
  | .peerset c => some c
  | .nwinreg c => some c
  | .hwinset c => some c
  | .ptpset c => some c
  | .gpolicy c => some c
  | .ggrant c => some c
  | .selftest c => some c
  | .info c => some c
  | .meminfo c => some c
  | _ => none

/-- A due snoop need not wait for nodes (R474). -/
def State.snoopReady (s : State) (l : Nat) : Bool :=
  match s.coh.txn.lookup l with
  | some t => t.phase != 0
  | none => true

/-- A due event would not merely stay due. -/
def State.eventReady (s : State) (e : Ev) : Bool :=
  !s.held e &&
  match e with
  | .matrixCmdRetire ci => (s.mat ci).queue.isEmpty || s.matReady ci
  | .copyChunkExecute c k => s.chunkReady c k
  | .saveComplete h => !s.saveBusy h
  | .ticketAdvance pk => s.ticketReady pk
  | .netRetransmitTimer m _ => s.msgReady m || !(s.net.msgs.lookup m).any fun x => x.state == 1
  | .selftestDone ci _ _ => (s.busyHarts ci).isEmpty
  | .atsInvalidate _ _ _ => !s.anyAtom
  | .snpinv l => s.snoopReady l
  | .snpdata l => s.snoopReady l
  | .snpcur l => s.snoopReady l
  | .guestDone _ _ _ => !s.guestWrites
  | .guestSaved _ _ => !s.guestWrites
  | .guestFire _ _ _ => !s.guestWrites
  | .queueDestroyComplete q => !s.queueCopies q
  | .pstop c => s.stopReady c
  | .inval c => s.inTurn c && !s.anyAtom
  | .rdestroy c => s.inTurn c && !(s.region (c.arg 0)).any (·.busy)
  | .ggrant c => s.inTurn c && !s.guest.pstops.any fun x => x.1 == c.arg 0
  | e => match evCommand e with | some c => s.inTurn c | none => true

/-- An event that the world outside the model's engines causes: timers, the host, the network, the guest, the board, faults of
the hardware. -/
def Ev.outside : Ev → Bool
  | .graceExpiry _ => true
  | .commitWindowExpiry _ => true
  | .watchdogExpiry _ => true
  | .savetoExpiry _ => true
  | .waitTimeout _ => true
  | .signalPoll _ => true
  | .laneGrantReeval _ => true
  | .blockTrapDeliver _ => true
  | .ageExpiry _ _ => true
  | .almanacTick _ => true
  | .linkError _ _ => true
  | .linkRetrainFail _ _ => true
  | .sever _ => true
  | .reservationTimeout _ _ => true
  | .stallTimeout _ _ _ _ _ _ => true
  | .atsInvalidate _ _ _ => true
  | .prgResponse _ _ => true
  | .prtoExpiry _ => true
  | .drainTimeout _ => true
  | .netPacketRx _ => true
  | .netAck _ _ => true
  | .netNack _ _ _ => true
  | .netCompletionAck _ _ => true
  | .netRetransmitTimer _ _ => true
  | .netTimeout _ => true
  | .netReadRequest _ => true
  | .ptpEvent _ _ _ => true
  | .hostPut _ _ _ _ _ _ => true
  | .putResultRead _ _ _ _ => true
  | .hostBar4Read _ _ => true
  | .hostBar4Write _ _ => true
  | .hostAtomicop _ _ _ _ _ _ => true
  | .snpinv _ => true
  | .snpdata _ => true
  | .snpcur _ => true
  | .hostReadComplete _ _ _ => true
  | .atomicopCompletion _ _ => true
  | .completionTimeout _ _ => true
  | .hostLinkDown _ => true
  | .guestDone _ _ _ => true
  | .guestSaved _ _ => true
  | .guestXreq _ _ _ _ => true
  | .guestInvack _ _ => true
  | .guestPstopack _ _ => true
  | .guestFire _ _ _ => true
  | .guestSpdm _ => true
  | .guestCohRequest _ _ _ _ _ _ _ _ => true
  | .guestHomeAnswer _ _ _ => true
  | .guestDutyTimeout _ => true
  | .attestStart => true
  | .attestTimeout => true
  | .laneCheckFail _ _ _ _ => true
  | .selftestDone _ _ _ => true
  | .packageReset => true
  | .dierst _ => true
  | .gstrst => true
  | .plimSet _ => true
  | .thermalThrottle _ => true
  | .throttleRecover _ => true
  | .thermtrip _ => true
  | .interrupt _ _ => true
  | .llcFill _ _ => true
  | .doorbell _ _ => true
  | .protocolError _ => true
  | .spdmRequest _ => true
  | .hostPortReset => true
  | .probe _ _ _ => true
  | _ => false

/-! ### Turns -/

/-- The turn that the state names. A due message of the directory gives way to those before it on its channel (R386) and waits for a
link that retrains (R396). -/
def State.turnMove (s : State) (t : Turn) : Move :=
  match t with
  | .hart h => { s with cur := h, lazy := false }.hartMove
  | .lazy h => { s with cur := h, lazy := true }.hartMove
  | .drain h => .stop (.next (s.drainOne h))
  | .block h => s.blockMove h
  | .fire h i id g => s.fireMove h i id g
  | .event k =>
    match s.agenda[k]? with
    | some e =>
      let f := s.firstOn e
      if s.held f then .stop (.next s) else { s with agenda := s.agenda.erase f }.eventMove f
    | none => .stop (.next s)
  | .posted p => .stop (.next (s.pushPosted (· == p)))
  | .retrained a b =>
    .stop (.next { s with coh := { s.coh with links := s.coh.links.filter (· != linkEnds a b) } })
  | .input e => if e.outside then s.eventMove e else .stop (.next s)

/-- What happens next where the state names no turn: the first due event that is ready, else posted writes arrive, else the executing hart's blocks while it
waits for them, else the hart (log entry 7). -/
def State.defaultTurn (s : State) : Turn :=
  match (List.range s.agenda.length).find? fun k => (s.agenda[k]?).any s.eventReady with
  | some k => .event k
  | none =>
    match s.host.posted with
    | w :: _ => .posted w.1
    | [] => if s.me.wait.isSome && (s.seqNext s.cur).isSome then .block s.cur else .hart s.cur

/-- What happens next. -/
def State.nextMove (s : State) : Move :=
  match s.turns with
  | t :: r => { s with turns := r }.turnMove t
  | [] => s.turnMove s.defaultTurn

end Sys2Proof.Machine
end

