-- ==== Sys2Proof/Machine/PlaceWord.lean ====
section
/-! DEFINITION. A table word placed where the next step runs it (log entry 14). -/

namespace Sys2Proof.Machine

/-- The bytes of a hart word at the pc of the executing hart, which then has the turn; a line that its core's instruction cache
holds is read again. -/
def State.placeHart (s : State) (w : BitVec 32) : State :=
  match (s.xlateRange (s.hartCx s.cur) .fetch s.me.pc 4).2 with
  | .ok loc =>
    let s := s.modCore s.myCore fun c => { c with icache := (tdel (lineOf loc) (tdel (lineOf (loc + 2)) c.icache)) }
    { s with mem := memPut loc (leBytes 4 w.toNat) s.mem, turns := [.hart s.cur] }
  | _ => { s with turns := [.hart s.cur] }

/-- A token of a kind that a slot accepts (R145): a uniform value, or a predicate that is true. -/
def slotToken (kinds : Nat) : Tok := if kinds.testBit 1 then .uni (some 0) else .upred (some true)

/-- A block of one instruction whose operands have come, as the oldest of the executing hart: 16 elements of 32 bits on LG0. -/
def State.placeBlock (s : State) (id : Nat) (i : Instr) : State :=
  let w := ((encode i).headD 0).toNat
  let b : BSlot := ⟨id, id % 2 == 1, if id % 2 = 1 then bits w 24 8 else bits w 24 7, w, none⟩
  let e : Biq := { s.newEntry 0 false 0 with
    vcfg := 2, vl := 16, grant := [0], pend := [], code := some ⟨[(id, i)], 1⟩
    toks := (b.uses.getD []).map fun u => (id * 4 + u.1, slotToken u.2) }
  { s.modMe fun h => { h with biq := [e], holds := [], preempt := none, save := none } with turns := [.block s.cur] }

/-- Place a table word: a hart word, else an A-slot word, else an M-slot word, as `decodeTableWord` reads it. -/
def State.placeWord (s : State) (nbits w : Nat) : State :=
  let w0 := BitVec.ofNat 32 w
  match decodeHart w0 with
  | some _ => s.placeHart w0
  | none =>
    match decodeTableWord nbits w with
    | some i => s.placeBlock (if (decodeA w0).isSome then 3 else 2) i
    | none => s.placeHart w0

end Sys2Proof.Machine
end

