-- ==== Sys2Proof/Machine/Step.lean ====
section
/-! DEFINITION. One step of the machine. -/

namespace Sys2Proof.Machine

/-- One step: the move that the state names (`State.nextMove`), with the meaning of the instruction that it runs. -/
def step (s : State) : Host.Outcome State Fault Refusal :=
  match s.nextMove with
  | .run t i => exec i t
  | .guard t i alt =>
    match exec i t with
    | .next u => .next (if t.trapped u then u else alt)
    | _ => .next alt
  | .stop out => out

/-- The state in which the next step runs a table word: a hart word at the pc of the executing hart, a block word as the one
instruction of a block that is ready to fire (log entry 14). -/
def State.withFetchWord (s : State) (nbits w : Nat) : State := s.placeWord nbits w

end Sys2Proof.Machine
end

