-- ==== Sys2Proof/Certificates/Slice0/Obligations.lean ====
section
/-! DEFINITION. The statements about the model, and the words in which they are made. A statement's docstring may name rules of
spec/ that it rests on, in part or whole; OBLIGATIONS.json says which it states whole and names the sections of the others. -/

namespace Sys2Proof.Claims

open Sys2Proof.Machine

/-- The executing hart may take its turn: it runs, nothing stops or saves it, it does not sleep. -/
def AtWork (s : State) : Prop :=
  s.runs s.cur = true ∧ s.stopsHere s.cur = false ∧ (s.me.preempt.any fun p => p.stopped) = false ∧
    s.me.save = none ∧ s.me.resume = none ∧ s.me.wait.any Wait.asleep = false

/-- The state in which a hart's turn fetches: its store buffer has drained unless the turn leaves that for later (R59), orderings that
are met are forgotten, that of a completed interlocked read stands (R68). -/
def turnStart (s : State) : State := ((if s.lazy then s else s.drain s.cur).pruneHolds s.cur).readOrder

/-- A step of `s` runs the instruction that the word `w` is, fetched in `t`: the store buffer has drained before one that may not pass
buffered stores. -/
def RunsWord (s t : State) (ilen : Nat) (w : BitVec 32) : Prop :=
  ∀ i, decodeHart w = some i →
    let u : State := { t with ilen := ilen }
    u.heldUp i = none →
      let v := if passesStores i then u.readDone else u.readDone.drain u.readDone.cur
      (passesStores i = true ∨ v.me.sbuf = []) → step s = exec (v.selectRow i) v

/-- Rows that share their words decode to the first of them; every other row decodes to itself. -/
def firstRow : Instr → Instr
  | .mstatDrain rd rs1 => .mstatStatus rd rs1
  | .mstatEdge rd rs1 => .mstatStatus rd rs1
  | .cpyqRetry rd rs1 rs2 => .cpyqState rd rs1 rs2
  | .cpyqAbandon rd rs1 rs2 => .cpyqState rd rs1 rs2
  | .cpyqNext rd rs1 rs2 => .cpyqState rd rs1 rs2
  | .cpyqFaddr rd rs1 rs2 => .cpyqState rd rs1 rs2
  | .tqputLoopback rd rs1 rs2 => .tqput rd rs1 rs2
  | .tqstatRun rd rs1 rs2 => .tqstatDepth rd rs1 rs2
  | .tqstatState rd rs1 rs2 => .tqstatDepth rd rs1 rs2
  | .tqstatPrio rd rs1 rs2 => .tqstatDepth rd rs1 rs2
  | .tqstatOvf rd rs1 rs2 => .tqstatDepth rd rs1 rs2
  | .tqstatInst rd rs1 rs2 => .tqstatDepth rd rs1 rs2
  | .tqstatSlice rd rs1 rs2 => .tqstatDepth rd rs1 rs2
  | .tqstatGroups rd rs1 rs2 => .tqstatDepth rd rs1 rs2
  | .rviewFloor rd rs1 rs2 => .rviewV rd rs1 rs2
  | .rviewWord0 rd rs1 rs2 => .rviewV rd rs1 rs2
  | .rviewWord1 rd rs1 rs2 => .rviewV rd rs1 rs2
  | .nstatNext rd rs1 rs2 => .nstatState rd rs1 rs2
  | .nstatPending rd rs1 rs2 => .nstatState rd rs1 rs2
  | .nstatCtva rd rs1 rs2 => .nstatState rd rs1 rs2
  | .nstatPtp rd rs1 rs2 => .nstatState rd rs1 rs2
  | .ecallPost => .ecallSubmit
  | .ecallReport => .ecallSubmit
  | i => i

end Sys2Proof.Claims

section

open Sys2Proof Sys2Proof.Machine Sys2Proof.Claims

/-- The machine right after reset: CSRs of the spec at their reset values, nothing live, memory canonical (R87, R89, R91, R92, R448, R449, R483, R500, R508). -/
def Obligations.ResetState : Prop :=
  (∀ h n, n ∈ [csrVcfg, csrCpyspec, csrCpyshape, csrSigto, csrNep, csrNrva, csrNcspec, csrNrspec, csrMcfg, csrVl, csrVlmax, csrBfcause,
      0x5C1, 0x5C2, 0x5C3, 0x5C4] → (State.reset.hart h).cs n = 0) ∧
  (∀ h, (State.reset.hart h).biq = [] ∧ (State.reset.hart h).grant = [] ∧ (State.reset.hart h).inst = none ∧
    (State.reset.hart h).held = false ∧ (State.reset.hart h).garr = 0 ∧ ∀ k, (tget ⟨0, 0⟩ (State.reset.hart h).win k).w1 = 0) ∧
  (∀ d, State.reset.dtimeOf d = 0) ∧
  State.reset.tqe.queues = [] ∧ State.reset.rounds.regions = [] ∧ State.reset.net.eps = [] ∧ State.reset.xlat.ctx = [] ∧
  State.reset.fe.state = 0 ∧ State.reset.guest.state = 0 ∧ Safety.memOk State.reset = true

/-- A hart turn runs the instruction decoded at the pc, of 32 or 16 bits; a block or event turn runs the firing chosen or the row of the event (R30, R59, R68, R70, R84, R105, R117, R145, R151, R160). -/
def Obligations.StepRunsTheDecodedInstruction : Prop :=
  (∀ (s t : State) (h : Nat) (lazy : Bool) (rest : List Turn) (w : BitVec 32),
    s.turns = (if lazy then .lazy h else .hart h) :: rest →
    let s0 : State := { s with turns := rest, cur := h, lazy := lazy }
    AtWork s0 → (turnStart s0).boundaryTrap = none → (turnStart s0).fetchWord = (t, .ok (w, 4)) → RunsWord s t 4 w) ∧
  (∀ (s t : State) (h n : Nat) (lazy : Bool) (rest : List Turn) (w w' : BitVec 32),
    s.turns = (if lazy then .lazy h else .hart h) :: rest →
    let s0 : State := { s with turns := rest, cur := h, lazy := lazy }
    AtWork s0 → (turnStart s0).boundaryTrap = none → (turnStart s0).fetchWord = (t, .ok (w, n)) → n ≠ 4 →
    (compressedFp w.toNat && bits (t.me.cs csrMstatus).toNat 13 2 == 0) = false → expandC (w.setWidth 16) = some w' →
    RunsWord s t 2 w') ∧
  (∀ (s : State) (h n id : Nat) (g : List Nat) (rest : List Turn) (i : Instr), s.turns = .block h :: rest →
    ({ s with turns := rest } : State).seqNext h = some (.fire n id g i) →
    step s = exec i { s with turns := rest, fire := (h, n, id), grp := g }) ∧
  (∀ (s : State) (h n id : Nat) (g : List Nat) (rest : List Turn) (b : Biq) (c : Code) (i : Instr),
    s.turns = .fire h n id g :: rest → n < ({ s with turns := rest } : State).liveBlocks h → s.entry h n = some b →
    b.code = some c → c.instrs.lookup id = some i →
    step s = exec i { s with turns := rest, fire := (h, n, id), grp := g }) ∧
  (∀ (s : State) (h : Nat) (rest : List Turn) (e : Ev) (i : Instr), s.turns = .block h :: rest →
    ({ s with turns := rest } : State).seqNext h = some (.event e) → e.instr = some i →
    step s = exec i { s with turns := rest, ev := e }) ∧
  (∀ (s : State) (k : Nat) (rest : List Turn) (e f : Ev) (i : Instr), s.turns = .event k :: rest → s.agenda[k]? = some e →
    ({ s with turns := rest } : State).firstOn e = f → ({ s with turns := rest } : State).held f = false → f.instr = some i →
    step s = exec i { s with turns := rest, agenda := s.agenda.erase f, ev := f }) ∧
  (∀ (s : State) (rest : List Turn) (e : Ev) (i : Instr), s.turns = .input e :: rest → e.outside = true → e.instr = some i →
    step s = exec i { s with turns := rest, ev := e })

/-- Words printed or laid out by the spec decode to the instructions they stand for (R84, R85, R139, R140, R141, R142). -/
def Obligations.DecodeWords : Prop :=
  decodeHart 0x182F000B = some (.vsetl 0 30 0x182) ∧ decodeHart 0x0004900B = some (.bx 9) ∧ decodeHart 0x0400100B = some .bwait ∧
  decodeHart 0x0028318B = some (.fenceS 2 16 3) ∧ decodeHart 0x1342A07B = some (.rwinLag 0 5 20 1) ∧
  decodeHart 0x0325DFFB = some (.nwrite 31 11 18) ∧ decodeHart 0x0000705B = some .tqdone ∧
  decodeHart 0x0000002B = some .menable ∧ decodeHart 0xE000602B = some (.mop 7 0 0 0) ∧ decodeHart 0x0000505B = some (.tqat 0 0 0 0) ∧
  decodeHart 0x00000073 = some .ecallSubmit ∧ decodeHart 0x80001073 = some (.vcfgWrite 1 0 0) ∧
  decodeHart 0x1000202F = some (.lr false false 2 0 0) ∧ decodeHart 0x0000600B = some (.illegalInstruction 0x0000600B) ∧
  decodeA 0x00000000 = some (.add ⟨0, 0, 0, 0, 0⟩) ∧ decodeA 0x40A84003 = none ∧ decodeA 0xC0002001 = some (.addi ⟨0, 1, 1⟩) ∧
  decodeM 0x10000000 0 = some (.ld ⟨0, 0, 0, 0, 0⟩) ∧ decodeM 0x87000000 5 = some (.const ⟨0, 0, 0, 0⟩ 5) ∧ decodeM 0x09000000 0 = none

/-- Decoding the encoding of a well-formed hart instruction gives it back, with every operand at every value (R84, R85, R79). -/
def Obligations.HartWordsRoundTrip : Prop :=
  ∀ (i : Instr) (w : BitVec 32), i.wf = true → encode i = [w] → decodeA w ≠ some i → decodeM w 0 ≠ some i →
    decodeHart w = some (firstRow i)

/-- A hart word that decodes is the encoding of what it decodes to, which is well-formed; custom words always decode (R84, R85). -/
def Obligations.HartWordsFaithful : Prop :=
  (∀ (w : BitVec 32) (i : Instr), decodeHart w = some i → i.wf = true ∧ encode i = [w]) ∧
  (∀ w : BitVec 32, isCustom w = true → (decodeHart w).isSome = true)

/-- Decoding the encoding of a well-formed block instruction gives it back, in the A slot and in the M slot, paired and lone (R139, R140, R141, R142, R143). -/
def Obligations.SlotWordsRoundTrip : Prop :=
  (∀ o c, (o, c) ∈ aRows → ∀ a : AForm, (c a).wf = true →
    encode (c a) = [a.word (BitVec.ofNat 8 o)] ∧ decodeA (a.word (BitVec.ofNat 8 o)) = some (c a)) ∧
  (∀ o c, (o, c) ∈ aiRows → ∀ a : IForm, (c a).wf = true →
    encode (c a) = [a.word (BitVec.ofNat 8 o)] ∧ decodeA (a.word (BitVec.ofNat 8 o)) = some (c a)) ∧
  (∀ o c, (o, c) ∈ rRows → ∀ r : RForm, (c r).wf = true →
    encode (c r) = [r.word 0 (BitVec.ofNat 7 o)] ∧ ∀ lit, decodeM (r.word 0 (BitVec.ofNat 7 o)) lit = some (c r)) ∧
  (∀ o c, (o, c) ∈ mRows → ∀ m : MForm, (c m).wf = true →
    encode (c m) = [m.word 0 (BitVec.ofNat 7 o)] ∧ ∀ lit, decodeM (m.word 0 (BitVec.ofNat 7 o)) lit = some (c m)) ∧
  (∀ o c, (o, c) ∈ tRows → ∀ t : TForm, (c t).wf = true →
    encode (c t) = [t.word 0 (BitVec.ofNat 7 o)] ∧ ∀ lit, decodeM (t.word 0 (BitVec.ofNat 7 o)) lit = some (c t)) ∧
  (∀ o c, (o, c) ∈ rLoneRows → ∀ (r : RForm) (lit : BitVec 32), (c r lit).wf = true →
    encode (c r lit) = [r.word 1 (BitVec.ofNat 7 o), lit] ∧ decodeM (r.word 1 (BitVec.ofNat 7 o)) lit = some (c r lit)) ∧
  (∀ o c, (o, c) ∈ mLoneRows → ∀ (m : MForm) (lit : BitVec 32), (c m lit).wf = true →
    encode (c m lit) = [m.word 1 (BitVec.ofNat 7 o), lit] ∧ decodeM (m.word 1 (BitVec.ofNat 7 o)) lit = some (c m lit)) ∧
  (∀ o c, (o, c) ∈ tLoneRows → ∀ (t : TForm) (lit : BitVec 32), (c t lit).wf = true →
    encode (c t lit) = [t.word 1 (BitVec.ofNat 7 o), lit] ∧ decodeM (t.word 1 (BitVec.ofNat 7 o)) lit = some (c t lit))

/-- Writing bytes changes the bytes of the range and no other byte, and keeps the canonical form (R3, R58). -/
def Obligations.MemoryReadsWhatWasWritten : Prop :=
  (∀ (m : List Host.Cell) (a : Nat) (bs : List Byte) (x : Nat),
    memGet (memPut a bs m) x = if a ≤ x ∧ x < a + bs.length then bs.getD (x - a) 0 else memGet m x) ∧
  (∀ (m : List Host.Cell) (a : Nat) (bs : List Byte), Memory.wf m = true → Memory.wf (memPut a bs m) = true) ∧
  (∀ m m' : List Host.Cell, Memory.wf m = true → Memory.wf m' = true → (∀ x, memGet m x = memGet m' x) → m = m')

/-- Retiring with a result writes rd and moves the pc past the instruction, and changes nothing else a program can read (R82, 04_hart.md). -/
def Obligations.RetiringWritesOnlyRdAndThePc : Prop :=
  ∀ (s : State) (rd : BitVec 5) (v : Word),
    let t := s.retireX rd v
    t.me.xr rd.toNat = (if rd = 0 then 0 else v) ∧ (∀ r, r ≠ rd.toNat → t.me.xr r = s.me.xr r) ∧
      t.me.pc = s.me.pc + BitVec.ofNat 64 s.ilen ∧ t.me.wait = none ∧
      (∀ n, t.me.cs n = if n = 0xB02 then s.me.cs n + 1 else s.me.cs n) ∧
      t.me.f = s.me.f ∧ t.me.v = s.me.v ∧ t.me.p = s.me.p ∧ t.me.priv = s.me.priv ∧ t.me.win = s.me.win ∧ t.me.grant = s.me.grant ∧
      (∀ h, h ≠ s.cur → t.hart h = s.hart h) ∧ t = { s with harts := t.harts }

end

namespace Sys2Proof.Claims

open Sys2Proof.Machine

/-- The chosen instruction can fire for the element groups `g` (R151): it stands in a BIQ entry, which is not held, has not fired for
them yet, every operand slot that it uses, p included, holds a token that has come in those groups, and the attempt has met no fault
unless its sweep takes them in (R162). -/
def FireReady (s : State) (h i id : Nat) (b : Biq) (pm : BitVec 2) (need : List Nat) (g : List Nat) : Prop :=
  s.fire = (h, i, id) ∧ s.entry h i = some b ∧ b.held = false ∧ b.fired.contains id = false ∧ (g ≠ [] ∨ s.groups h b = []) ∧
    (∀ j ∈ g, j ∈ s.groups h b ∧ j ∉ b.partOf id) ∧
    (∀ n, (n ∈ need ∨ pm ≠ 0 ∧ n = 3) → (b.tok id n).isSome = true ∧ ∀ j ∈ g, j ∉ b.missing id n) ∧
    (b.faults = [] ∨ g ≠ [] ∧ ∀ j ∈ g, (id, j) ∈ b.sweep)

/-- The state in which the instruction has fired for the groups `g`: its targets hold the two tokens in them; nothing else differs. -/
def gives (s : State) (h i id : Nat) (b : Biq) (g : List Nat) (t0 : Nat) (r0 : Tok) (t1 : Nat) (r1 : Tok) : State :=
  s.setEntry h i ((((b.give (s.groups h b) g t0 r0).give (s.groups h b) g t1 r1)).done (s.groups h b) g id)

/-- The groups of a firing: those that were chosen, or all of them where the instruction fires once (R145, R151, R154). -/
def firing (s : State) (h : Nat) (b : Biq) (whole : Bool) : List Nat := if whole then s.groups h b else s.grp

/-- An operand's value at element `e` and width `w`, 0 in place of Null. -/
def opnd (b : Biq) (id w e : Nat) (n : Nat) : Nat := (b.operand id w n e).getD 0

/-- The elements of an element-wise result (R145, R147, R152): for each element of the groups `g` that executes and has no Null
operand, the value and the conditions that `f` gives from the width and the operands; Null for every other. A uniform instruction has
one element. -/
def elements (s : State) (h id : Nat) (b : Biq) (pm : BitVec 2) (need : List Nat) (g : List Nat)
    (f : Nat → (Nat → Nat) → Nat × Nat) : List (Option (Nat × Nat)) :=
  let vec := b.vector id pm need
  let w := if vec then sewBits b.vcfg else 64
  (if vec then List.range (s.entryVl h b) else [0]).map fun e =>
    if (!vec || g.contains (e / 16)) && b.enabled id pm e && need.all fun n => (b.operand id w n e).isSome
    then some (f w (opnd b id w e)) else none

/-- What an element-wise form-A instruction does in every form (R145 to R154) that its slots admit (`ok`): T0 and T1 take the
results, or T1 the X-mask. -/
def ElementwiseOn (ok : Biq → Nat → Prop) (ctor : AForm → Instr) (need : List Nat) (prd : Bool)
    (f : AForm → Biq → Nat → Nat → (Nat → Nat) → Nat × Nat) : Prop :=
  ∀ (s : State) (h i id : Nat) (b : Biq) (a : AForm), (ctor a).wf = true →
    let vec := b.vector id a.pm need
    let g := firing s h b !vec
    FireReady s h i id b a.pm need g → ok b id →
    let r := elements s h id b a.pm need g (f a b id)
    let value := mkTok prd vec (r.map fun x => x.map fun y => y.1)
    let mask := mkTok true vec (r.map fun x => x.map fun y => b2n (raises b.vcfg y.2))
    exec (ctor a) s = .next (gives s h i id b g a.t0.toNat value a.t1.toNat (if a.x = 1 then mask else value))

/-- The same for an instruction whose slots accept every kind. -/
def Elementwise (ctor : AForm → Instr) (need : List Nat) (prd : Bool) (f : AForm → Nat → (Nat → Nat) → Nat × Nat) : Prop :=
  ElementwiseOn (fun _ _ => True) ctor need prd fun a _ _ => f a

/-- Slot c holds a uniform value (R194): a vector token there is a format fault at decode. -/
def UniformC (b : Biq) (id : Nat) : Prop := ∃ v, b.tok id 2 = some (.uni v)

/-- The control word in slot c, at 64 bits. -/
def controlC (b : Biq) (id : Nat) : Nat := ((b.tok id 2).bind fun t => t.get 64 0).getD 0

/-- A two's-complement reading. -/
def sint (w x : Nat) : Int := if x < 2 ^ (w - 1) then (x : Int) else (x : Int) - (2 ^ w : Nat)

/-- Reduction of an exact integer to `w` bits (R184 to R186): modulo 2^w, or clamped to the signed or unsigned range with OF. -/
def reduce (md w : Nat) (x : Int) : Nat × Nat :=
  if md % 2 = 0 then ((x % (2 ^ w : Nat)).toNat, 0)
  else if md / 2 % 2 = 0 then
    if x < -(2 ^ (w - 1) : Nat) then (2 ^ (w - 1), 4)
    else if (2 ^ (w - 1) : Nat) ≤ x then (2 ^ (w - 1) - 1, 4) else ((x % (2 ^ w : Nat)).toNat, 0)
  else if x < 0 then (0, 4) else if (2 ^ w : Nat) ≤ x then (2 ^ w - 1, 4) else (x.toNat, 0)

/-- An operand of `add`, `sub`, `mul`, signed or unsigned as MOD says (R184). -/
def operandInt (md w x : Nat) : Int := if md / 2 % 2 = 0 then sint w x else (x : Int)

end Sys2Proof.Claims

section

open Sys2Proof Sys2Proof.Machine Sys2Proof.Claims

/-- add, sub, mul, mulh, div and rem fire with the exact integer result reduced as their modifier says (R145, R147, R152, R184, R185, R186, R187, R188). -/
def Obligations.IntegerArithmetic : Prop :=
  Elementwise .add [0, 1] false (fun a w o => reduce a.md.toNat w (operandInt a.md.toNat w (o 0) + operandInt a.md.toNat w (o 1))) ∧
  Elementwise .sub [0, 1] false (fun a w o => reduce a.md.toNat w (operandInt a.md.toNat w (o 0) - operandInt a.md.toNat w (o 1))) ∧
  Elementwise .mul [0, 1] false (fun a w o => reduce a.md.toNat w (operandInt a.md.toNat w (o 0) * operandInt a.md.toNat w (o 1))) ∧
  Elementwise .mulh [0, 1] false (fun a w o =>
    let x : Int := if a.md = 1 then (o 0 : Int) else sint w (o 0)
    let y : Int := if a.md = 0 then sint w (o 1) else (o 1 : Int)
    (((x * y).fdiv (2 ^ w : Nat) % (2 ^ w : Nat)).toNat, 0)) ∧
  Elementwise .div [0, 1] false (fun a w o =>
    if o 1 = 0 then (2 ^ w - 1, 8)
    else if a.md = 1 then (o 0 / o 1, 0) else (((sint w (o 0)).tdiv (sint w (o 1)) % (2 ^ w : Nat)).toNat, 0)) ∧
  Elementwise .rem [0, 1] false (fun a w o =>
    if o 1 = 0 then (o 0, 8)
    else if a.md = 1 then (o 0 % o 1, 0) else (((sint w (o 0)).tmod (sint w (o 1)) % (2 ^ w : Nat)).toNat, 0))

/-- and, or, xor, andn, sll, srl, sra, rot, min, max and abs fire with the results of the bit operation (R185, R189, R190, R191). -/
def Obligations.IntegerLogicAndShifts : Prop :=
  Elementwise .and [0, 1] false (fun _ _ o => (o 0 &&& o 1, 0)) ∧
  Elementwise .or [0, 1] false (fun _ _ o => (o 0 ||| o 1, 0)) ∧
  Elementwise .xor [0, 1] false (fun _ _ o => (o 0 ^^^ o 1, 0)) ∧
  Elementwise .andn [0, 1] false (fun _ w o => (o 0 &&& (o 1 ^^^ (2 ^ w - 1)), 0)) ∧
  Elementwise .sll [0, 1] false (fun _ w o => (o 0 * 2 ^ (o 1 % w) % 2 ^ w, 0)) ∧
  Elementwise .srl [0, 1] false (fun _ w o => (o 0 / 2 ^ (o 1 % w), 0)) ∧
  Elementwise .sra [0, 1] false (fun _ w o => (((sint w (o 0)).fdiv (2 ^ (o 1 % w) : Nat) % (2 ^ w : Nat)).toNat, 0)) ∧
  Elementwise .rot [0, 1] false (fun a w o =>
    let k := if a.md = 1 then (w - o 1 % w) % w else o 1 % w
    (o 0 * 2 ^ k % 2 ^ w + o 0 / 2 ^ (w - k), 0)) ∧
  Elementwise .min [0, 1] false (fun a w o =>
    (if a.md = 1 then Nat.min (o 0) (o 1) else if sint w (o 1) < sint w (o 0) then o 1 else o 0, 0)) ∧
  Elementwise .max [0, 1] false (fun a w o =>
    (if a.md = 1 then Nat.max (o 0) (o 1) else if sint w (o 0) < sint w (o 1) then o 1 else o 0, 0)) ∧
  Elementwise .abs [0] false (fun a w o =>
    if a.md = 1 ∧ o 0 = 2 ^ (w - 1) then (2 ^ (w - 1) - 1, 4) else ((sint w (o 0)).natAbs, 0))

/-- clz, ctz, popc, cmp, bfx, bfi and dot4 fire with the counts, bits and fields the spec gives (R54, R184, R192, R193, R194, R195). -/
def Obligations.IntegerCountsFieldsAndComparisons : Prop :=
  Elementwise .clz [0] false (fun _ w o => (if o 0 = 0 then w else w - 1 - Nat.log2 (o 0), 0)) ∧
  Elementwise .ctz [0] false (fun _ w o => (((List.range w).find? fun k => (o 0).testBit k).getD w, 0)) ∧
  Elementwise .popc [0] false (fun _ w o => (((List.range w).map fun k => o 0 / 2 ^ k % 2).sum, 0)) ∧
  Elementwise .cmp [0, 1] true (fun a w o =>
    let x := o 0
    let y := o 1
    (b2n (match a.md.toNat with
      | 0 => decide (x = y)
      | 1 => decide (x ≠ y)
      | 2 => decide (sint w x < sint w y)
      | 3 => decide (sint w y ≤ sint w x)
      | 4 => decide (x < y)
      | _ => decide (y ≤ x)), 0)) ∧
  ElementwiseOn UniformC .bfx [0, 2] false (fun a b id w o =>
    let pos := controlC b id % 128
    let wid := controlC b id / 256 % 128
    if w ≤ pos ∨ wid = 0 then (0, 0)
    else
      let n := Nat.min wid (w - pos)
      let f := o 0 / 2 ^ pos % 2 ^ n
      (if a.md = 1 ∧ 2 ^ (n - 1) ≤ f then f + 2 ^ w - 2 ^ n else f, 0)) ∧
  ElementwiseOn UniformC .bfi [0, 1, 2] false (fun _ b id w o =>
    let pos := controlC b id % 128
    let wid := controlC b id / 256 % 128
    if w ≤ pos ∨ wid = 0 then (o 0, 0)
    else
      let n := Nat.min wid (w - pos)
      (o 0 % 2 ^ pos + o 1 % 2 ^ n * 2 ^ pos + o 0 / 2 ^ (pos + n) * 2 ^ (pos + n), 0)) ∧
  Elementwise .dot4 [0, 1, 2] false (fun a w o =>
    let ea (k : Nat) : Int := if a.md.toNat % 4 = 1 then (o 0 / 2 ^ (8 * k) % 256 : Nat) else sint 8 (o 0 / 2 ^ (8 * k) % 256)
    let eb (k : Nat) : Int := if a.md.toNat % 4 = 0 then sint 8 (o 1 / 2 ^ (8 * k) % 256) else (o 1 / 2 ^ (8 * k) % 256 : Nat)
    let t := sint 32 (o 2 % 2 ^ 32) + ea 0 * eb 0 + ea 1 * eb 1 + ea 2 * eb 2 + ea 3 * eb 3
    let q : Int := if a.md.toNat / 4 % 2 = 0 then sint 32 (t % 4294967296).toNat
      else if t < -2147483648 then -2147483648 else if 2147483647 < t then 2147483647 else t
    ((q % (2 ^ w : Nat)).toNat, if a.md.toNat / 4 % 2 = 1 ∧ q ≠ t then 4 else 0))

end

namespace Sys2Proof.Claims

open Sys2Proof.Machine

/-- What an immediate instruction does in every form (R145 to R154, R196, R197): one operand, one target. -/
def ImmediateForm (ctor : IForm → Instr) (prd : Bool) (f : IForm → Nat → Nat → Nat) : Prop :=
  ∀ (s : State) (h i id : Nat) (b : Biq) (a : IForm), (ctor a).wf = true →
    let g := firing s h b !(b.vector id a.pm [0])
    FireReady s h i id b a.pm [0] g →
    let r := elements s h id b a.pm [0] g fun w o => (f a w (o 0), 0)
    let value := mkTok prd (b.vector id a.pm [0]) (r.map fun x => x.map fun y => y.1)
    exec (ctor a) s = .next (gives s h i id b g a.t0.toNat value 0 value)

/-- The 13-bit immediate, sign-extended, at `w` bits (R196). -/
def immAt (a : IForm) (w : Nat) : Nat := (sint 13 a.imm.toNat % (2 ^ w : Nat)).toNat

/-- The elements of a slot that a collective works on (R152, R154, R198): Null where the element does not execute. -/
def members (b : Biq) (id : Nat) (pm : BitVec 2) (vl slot : Nat) : List (Option Nat) :=
  (List.range vl).map fun e => if b.enabled id pm e then b.operand id (sewBits b.vcfg) slot e else none

/-- What a collective does in every form (R154, R198), for every element group at once: `f` gives the result token and the conditions of all its steps from the
width, VL, the elements of slots a and b, and the uniform value in slot b. -/
def Collective (ctor : AForm → Instr) (need : List Nat)
    (f : AForm → Biq → Nat → Nat → Nat → List (Option Nat) → List (Option Nat) → Option Nat → Tok × Nat) : Prop :=
  ∀ (s : State) (h i id : Nat) (b : Biq) (a : AForm), (ctor a).wf = true → FireReady s h i id b a.pm need (s.groups h b) →
    let vl := s.entryVl h b
    let r := f a b id (sewBits b.vcfg) vl (members b id a.pm vl 0) (members b id a.pm vl 1) (b.operand id 64 1 0)
    exec (ctor a) s =
      .next (gives s h i id b (s.groups h b) a.t0.toNat r.1 a.t1.toNat
        (if a.x = 1 then .upred (some (raises b.vcfg r.2)) else r.1))

/-- A uniform value token of a number (R199, R200). -/
def uniform64 (x : Int) : Tok := .uni (some (BitVec.ofInt 64 x))

/-- The element that stands at `e`, Null outside the list. -/
def at_ (l : List (Option Nat)) (e : Nat) : Option Nat := l.getD e none

end Sys2Proof.Claims

section

open Sys2Proof Sys2Proof.Machine Sys2Proof.Claims

/-- addi, andi, ori, xori, slli, srli, srai, muli and cmpi fire with the operation on the immediate at W bits (R139, R147, R190, R196, R197). -/
def Obligations.ImmediateForms : Prop :=
  ImmediateForm .addi false (fun a w x => (x + immAt a w) % 2 ^ w) ∧
  ImmediateForm .andi false (fun a w x => x &&& immAt a w) ∧
  ImmediateForm .ori false (fun a w x => x ||| immAt a w) ∧
  ImmediateForm .xori false (fun a w x => x ^^^ immAt a w) ∧
  ImmediateForm .slli false (fun a w x => x * 2 ^ (a.imm.toNat % 64 % w) % 2 ^ w) ∧
  ImmediateForm .srli false (fun a w x => x / 2 ^ (a.imm.toNat % 64 % w)) ∧
  ImmediateForm .srai false (fun a w x => ((sint w x).fdiv (2 ^ (a.imm.toNat % 64 % w) : Nat) % (2 ^ w : Nat)).toNat) ∧
  ImmediateForm .muli false (fun a w x => x * immAt a w % 2 ^ w) ∧
  ImmediateForm .cmpi true (fun a w x =>
    let c := (sint 10 (a.imm.toNat % 1024) % (2 ^ w : Nat)).toNat
    b2n (match a.imm.toNat / 1024 with
      | 0 => decide (x = c)
      | 1 => decide (x ≠ c)
      | 2 => decide (sint w x < sint w c)
      | 3 => decide (sint w c ≤ sint w x)
      | 4 => decide (x < c)
      | _ => decide (c ≤ x)))

/-- redsum, redmin, redmax, redand and redor fire with the reduction of the contributing elements (R52, R154, R198, R199, R200). -/
def Obligations.Reductions : Prop :=
  Collective .redsum [0] (fun a _ _ w _ l _ _ =>
    let m := a.md.toNat
    let r := reduce m w ((l.filterMap id).map (operandInt m w)).sum
    (uniform64 (if m / 2 % 2 = 0 then sint w r.1 else (r.1 : Int)), r.2)) ∧
  Collective .redmin [0] (fun a _ _ w _ l _ _ =>
    (uniform64 (if a.md = 1 then (((l.filterMap id).foldl Nat.min (2 ^ w - 1) : Nat) : Int)
      else ((l.filterMap id).map (sint w)).foldl (fun m x => if x < m then x else m) ((2 ^ (w - 1) : Nat) - 1 : Int)), 0)) ∧
  Collective .redmax [0] (fun a _ _ w _ l _ _ =>
    (uniform64 (if a.md = 1 then (((l.filterMap id).foldl Nat.max 0 : Nat) : Int)
      else ((l.filterMap id).map (sint w)).foldl (fun m x => if m < x then x else m) (-(2 ^ (w - 1) : Nat) : Int)), 0)) ∧
  Collective .redand [0] (fun _ _ _ w _ l _ _ => (uniform64 ((l.filterMap id).foldl (· &&& ·) (2 ^ w - 1) : Nat), 0)) ∧
  Collective .redor [0] (fun _ _ _ _ _ l _ _ => (uniform64 ((l.filterMap id).foldl (· ||| ·) 0 : Nat), 0))

/-- pfx, vconf, cmpr, perm, slide and bcast fire with the elements that the spec places (R154, R198, R201, R202, R203, R204, R205, R206). -/
def Obligations.PrefixesAndPermutations : Prop :=
  Collective .pfx [0] (fun a _ _ w vl l _ _ =>
    (mkTok false true ((List.range vl).map fun e =>
      (at_ l e).map fun _ => ((l.take (if a.md = 1 then e else e + 1)).filterMap id).sum % 2 ^ w), 0)) ∧
  Collective .vconf [0] (fun a _ _ _ vl l _ _ =>
    (mkTok true true ((List.range vl).map fun e =>
      (at_ l e).map fun x => b2n !(if a.md = 1 then l.drop (e + 1) else l.take e).contains (some x)), 0)) ∧
  Collective .cmpr [0, 1] (fun _ b id _ vl l m _ =>
    let chosen := ((List.range vl).filter fun e => at_ m e == some 1).map (at_ l)
    (mkTok (b.classA id) true (chosen ++ List.replicate (vl - chosen.length) none), 0)) ∧
  Collective .perm [0, 1] (fun _ b id _ vl l m _ =>
    (mkTok (b.classA id) true ((List.range vl).map fun e => (at_ m e).bind fun k => if k < vl then at_ l k else none), 0)) ∧
  Collective .slide [0, 1] (fun a b id _ vl l _ u =>
    (mkTok (b.classA id) true ((List.range vl).map fun e => u.bind fun k =>
      if a.md = 1 then (if e + k < vl then at_ l (e + k) else none) else if k ≤ e then at_ l (e - k) else none), 0)) ∧
  Collective .bcast [0, 1] (fun a b id w vl l _ _ =>
    let v := (b.operand id w 1 0).bind fun k => if k < vl then at_ l k else none
    (if b.classA id then .upred (v.map (· == 1))
     else .uni (v.map fun x => BitVec.ofInt 64 (if a.md = 1 then sint w x else (x : Int))), 0))

end

namespace Sys2Proof.Claims

open Sys2Proof.Machine

/-- The format that an instruction's B16 bit and the block's SEW select (R209). -/
def formatOf (a : AForm) (b : Biq) : Fmt :=
  if sewBits b.vcfg = 16 then (if a.md.toNat.testBit 2 then bf16 else fp16) else if sewBits b.vcfg = 32 then fp32 else fp64

/-- A float operation with NaN handled as R46 says: a NaN operand gives the canonical NaN, with NV when one is signalling; an invalid
operation gives it with NV; any other result is rounded as R43 says. -/
def floatResult (f : Fmt) (env : FEnv) (operands : List FV) (r : Option FV) : Nat × Nat :=
  if operands.any FV.isNan then (f.nan, if operands.any FV.isSig then 16 else 0)
  else match r with
    | some v => f.rnd env v
    | none => (f.nan, 16)

/-- The operands of a float instruction as values, under the flush of subnormal inputs (R45). -/
def inputs (f : Fmt) (b : Biq) (o : Nat → Nat) (slots : List Nat) : List FV := slots.map fun n => f.read (fenv b.vcfg).fzIn (o n)

/-- The value in slot `n`. -/
def input (f : Fmt) (b : Biq) (o : Nat → Nat) (n : Nat) : FV := f.read (fenv b.vcfg).fzIn (o n)

/-- A float element-wise instruction: `f` takes the format, the controls and the raw operands. -/
def FloatForm (ctor : AForm → Instr) (need : List Nat) (prd : Bool) (f : AForm → Biq → Fmt → (Nat → Nat) → Nat × Nat) : Prop :=
  ElementwiseOn (fun _ _ => True) ctor need prd fun a b _ _ o => f a b (formatOf a b) o

/-- The code of an operand after the flush of subnormal inputs: a zero of its sign in place of a subnormal (R45). -/
def flushedCode (f : Fmt) (b : Biq) (x : Nat) : Nat :=
  match f.read (fenv b.vcfg).fzIn x with
  | .fin n 0 _ _ => if n then 2 ^ (f.width - 1) else 0
  | _ => x % 2 ^ f.width

/-- `fmin` and `fmax` (R48, R215): a NaN loses to a number; -0 lies below +0. -/
def extremumOf (max : Bool) (f : Fmt) (b : Biq) (x y : Nat) : Nat × Nat :=
  let u := f.read (fenv b.vcfg).fzIn x
  let v := f.read (fenv b.vcfg).fzIn y
  let nv := if u.isSig || v.isSig then 16 else 0
  if u.isNan && v.isNan then (f.nan, nv)
  else if u.isNan then (flushedCode f b y, nv)
  else if v.isNan then (flushedCode f b x, nv)
  else (flushedCode f b (if (if max then FV.lt true v u else FV.lt true u v) then x else y), 0)

/-- A finite value of magnitude 2^23 or more, for which R219 states that `fcos` is 1 (log entry 52). -/
def fcosLarge : FV → Bool
  | .fin _ m e _ => m != 0 && decide (23 ≤ (Nat.log2 m : Int) + e)
  | _ => false

end Sys2Proof.Claims

section

open Sys2Proof Sys2Proof.Machine Sys2Proof.Claims

/-- Sums, products and comparison of float values are those of the exact numbers (R43, R46, R48, R213). -/
def Obligations.ExactFloatSumsProductsAndOrder : Prop :=
  (∀ (rm : Nat) (n1 n2 s1 s2 : Bool) (m1 m2 : Nat) (e1 e2 : Int), ∃ n m e,
    FV.add rm (.fin n1 m1 e1 s1) (.fin n2 m2 e2 s2) = some (.fin n m e false) ∧
    (m ≠ 0 → e ≤ e1 ∧ e ≤ e2) ∧
    (let k := if e1 ≤ e2 then e1 else e2
     let t : Int := (if n1 then -1 else 1) * (m1 * 2 ^ (e1 - k).toNat : Nat) + (if n2 then -1 else 1) * (m2 * 2 ^ (e2 - k).toNat : Nat)
     (if n then -1 else 1) * (m : Int) = t ∧ (t = 0 → n = if n1 = n2 then n1 else decide (rm = 2)))) ∧
  (∀ (n1 n2 s1 s2 : Bool) (m1 m2 : Nat) (e1 e2 : Int),
    FV.mul (.fin n1 m1 e1 s1) (.fin n2 m2 e2 s2) = some (.fin (n1 != n2) (m1 * m2) (e1 + e2) false)) ∧
  (∀ (z n1 n2 s1 s2 : Bool) (m1 m2 : Nat) (e1 e2 : Int),
    FV.lt z (.fin n1 m1 e1 s1) (.fin n2 m2 e2 s2) =
      if m1 = 0 ∧ m2 = 0 then z && n1 && !n2
      else decide ((if n1 then -1 else 1) * (m1 * 2 ^ (e1 - (if e1 ≤ e2 then e1 else e2)).toNat : Nat) <
        (if n2 then -1 else 1) * ((m2 * 2 ^ (e2 - (if e1 ≤ e2 then e1 else e2)).toNat : Nat) : Int))) ∧
  (∀ rm n, FV.add rm (.inf n) (.inf !n) = none ∧ FV.add rm (.inf n) (.inf n) = some (.inf n)) ∧
  (∀ n n' e st, FV.mul (.inf n) (.fin n' 0 e st) = none ∧ FV.mul (.fin n' 0 e st) (.inf n) = none)

/-- Rounding takes the multiple of the grid that the mode names and reports inexactness; a format holds its own values (R36, R41, R43). -/
def Obligations.RoundingToTheGrid : Prop :=
  (∀ (rm : Nat) (neg : Bool) (m : Nat) (e g : Int), e ≤ g →
    let d := 2 ^ (g - e).toNat
    let r := roundGrid rm neg m e false g
    (r.2 = true ↔ r.1 * d ≠ m) ∧
    (rm = 0 → 2 * m ≤ 2 * (r.1 * d) + d ∧ 2 * (r.1 * d) ≤ 2 * m + d ∧
      (2 * m = 2 * (r.1 * d) + d ∨ 2 * (r.1 * d) = 2 * m + d → r.1 % 2 = 0)) ∧
    (rm = 1 → r.1 = m / d) ∧
    (rm = 2 → r.1 = if neg then (m + d - 1) / d else m / d) ∧
    (rm = 3 → r.1 = if neg then m / d else (m + d - 1) / d) ∧
    (rm = 4 → r.1 = (2 * m + d) / (2 * d))) ∧
  (∀ f ∈ [fp16, bf16, fp32, fp64], ∀ (env : FEnv) (x : Nat), env.fzOut = false → x < 2 ^ f.width →
    (f.read false x).isNan = false → f.rnd env (f.read false x) = (x, 0))

/-- fadd, fsub, fmul, fma, fdiv and fsqrt fire with the exact result of their operands rounded once (R43, R45, R46, R209, R213, R214). -/
def Obligations.FloatArithmetic : Prop :=
  FloatForm .fadd [0, 1] false (fun _ b f o =>
    floatResult f (fenv b.vcfg) (inputs f b o [0, 1]) (FV.add (fenv b.vcfg).rm (input f b o 0) (input f b o 1))) ∧
  FloatForm .fsub [0, 1] false (fun _ b f o =>
    floatResult f (fenv b.vcfg) (inputs f b o [0, 1]) (FV.add (fenv b.vcfg).rm (input f b o 0) (input f b o 1).neg)) ∧
  FloatForm .fmul [0, 1] false (fun _ b f o =>
    floatResult f (fenv b.vcfg) (inputs f b o [0, 1]) (FV.mul (input f b o 0) (input f b o 1))) ∧
  FloatForm .fma [0, 1, 2] false (fun a b f o =>
    let v := a.md.toNat % 4
    match input f b o 0, input f b o 1 with
    | .inf _, .fin _ 0 _ _ => (f.nan, 16)
    | .fin _ 0 _ _, .inf _ => (f.nan, 16)
    | x, y =>
      floatResult f (fenv b.vcfg) (inputs f b o [0, 1, 2]) ((FV.mul x y).bind fun p =>
        FV.add (fenv b.vcfg).rm (if v = 2 ∨ v = 3 then p.neg else p)
          (if v = 1 ∨ v = 3 then (input f b o 2).neg else input f b o 2))) ∧
  FloatForm .fdiv [0, 1] false (fun _ b f o =>
    match input f b o 0, input f b o 1 with
    | .fin n m _ _, .fin n' 0 _ _ => if m = 0 then (f.nan, 16) else (f.inf (n != n'), 8)
    | x, y => floatResult f (fenv b.vcfg) [x, y] ((FV.div x y).map (·.1))) ∧
  FloatForm .fsqrt [0] false (fun _ b f o => floatResult f (fenv b.vcfg) (inputs f b o [0]) (input f b o 0).sqrt)

/-- fmin, fmax, fsgnj, fcmp and fclass fire with the selected code, sign, comparison bit or class (R45, R46, R48, R209, R215, R216, R217, R218). -/
def Obligations.FloatComparisonSignAndClass : Prop :=
  FloatForm .fmin [0, 1] false (fun _ b f o => extremumOf false f b (o 0) (o 1)) ∧
  FloatForm .fmax [0, 1] false (fun _ b f o => extremumOf true f b (o 0) (o 1)) ∧
  FloatForm .fsgnj [0, 1] false (fun a b _ o =>
    let w := sewBits b.vcfg
    let sa := o 0 / 2 ^ (w - 1) % 2
    let sb := o 1 / 2 ^ (w - 1) % 2
    (o 0 % 2 ^ (w - 1) + 2 ^ (w - 1) * (if a.md = 0 then sb else if a.md = 1 then 1 - sb else (sa + sb) % 2), 0)) ∧
  ElementwiseOn (fun _ _ => True) .fcmp [0, 1] true (fun a b _ _ o =>
    let f := if sewBits b.vcfg = 16 then fp16 else if sewBits b.vcfg = 32 then fp32 else fp64
    let x := input f b o 0
    let y := input f b o 1
    let nan := x.isNan || y.isNan
    let less := FV.lt false x y
    let equal := !nan && !less && !FV.lt false y x
    let sig := if x.isSig || y.isSig then 16 else 0
    let any := if nan then 16 else 0
    if a.md = 0 then (b2n equal, sig) else if a.md = 1 then (b2n (!nan && less), any)
    else if a.md = 2 then (b2n (!nan && (less || equal)), any) else if a.md = 3 then (b2n nan, sig) else (b2n !equal, sig)) ∧
  FloatForm .fclass [0] false (fun _ _ f o =>
    (match f.read false (o 0) with
      | .inf true => 0x001
      | .fin true m _ _ => if m = 0 then 0x008 else if m < 2 ^ f.fbits then 0x004 else 0x002
      | .fin false m _ _ => if m = 0 then 0x010 else if m < 2 ^ f.fbits then 0x020 else 0x040
      | .inf false => 0x080
      | .nan true => 0x100
      | .nan false => 0x200, 0))

/-- frcp, frsq, fex2, flg2, fsin, fcos, fdot2, fredsum and fredmm fire with their special values and one rounding (R51, R53, R209, R219, R220, R221, R222). -/
def Obligations.FloatFunctionsAndSums : Prop :=
  (∀ p ∈ [(Instr.frcp, 0), (Instr.frsq, 1), (Instr.fex2, 2), (Instr.flg2, 3), (Instr.fsin, 4), (Instr.fcos, 5)],
    FloatForm p.1 [0] false (fun _ b f o =>
      let x := input f b o 0
      if x.isNan then (f.nan, if x.isSig then 16 else 0)
      else if p.2 = 5 ∧ f.width = 32 ∧ fcosLarge x = true then ((f.rnd (fenv b.vcfg) (.fin false 1 0 false)).1, 0)
      else match funcFV p.2 x with
        | none => (f.nan, 16)
        | some (.fin n m e st, c) =>
          let r := f.roundP (if f.width = 32 then 16 else f.fbits + 1) 1 (fenv b.vcfg) n m e st
          (r.1, r.2 ||| c)
        | some (v, c) => ((f.rnd (fenv b.vcfg) v).1, c))) ∧
  ElementwiseOn (fun _ _ => True) .fdot2 [0, 1, 2] false (fun a b _ _ o =>
    let g := if a.md.toNat.testBit 2 then bf16 else fp16
    let rd (x : Nat) : FV := g.read (fenv b.vcfg).fzIn (x % 65536)
    let c := fp32.read (fenv b.vcfg).fzIn (o 2)
    let ops := [rd (o 0), rd (o 0 / 65536), rd (o 1), rd (o 1 / 65536), c]
    match FV.mul (rd (o 0)) (rd (o 1)), FV.mul (rd (o 0 / 65536)) (rd (o 1 / 65536)) with
    | some p, some q =>
      floatResult fp32 (fenv b.vcfg) ops ((FV.add (fenv b.vcfg).rm p q).bind fun t => FV.add (fenv b.vcfg).rm t c)
    | _, _ => (fp32.nan, 16)) ∧
  Collective .fredsum [0] (fun a b _ _ vl l _ _ =>
    let f := formatOf a b
    let env := fenv b.vcfg
    let leaves := l.map fun x => x.map fun c => (flushedCode f b c, if (f.read env.fzIn c).isSig then 16 else 0)
    let r := (combTree f env (Nat.log2 vl + 1) leaves).getD (0, 0)
    (.uni (some (BitVec.ofNat 64 (if (f.read false r.1).isNan then f.nan else r.1))), r.2)) ∧
  Collective .fredmm [0] (fun a b _ _ _ l _ _ =>
    let f := formatOf a b
    let vals := l.filterMap id
    let nv := if vals.any fun x => (f.read (fenv b.vcfg).fzIn x).isSig then 16 else 0
    (.uni (some (BitVec.ofNat 64 (match vals.filter fun x => !(f.read (fenv b.vcfg).fzIn x).isNan with
      | [] => f.nan
      | x :: r => r.foldl (fun m y => (extremumOf (a.md.toNat.testBit 0) f b m y).1) (flushedCode f b x)))), nv))

/-- fwid, fnar, fcvtd, f2i, i2f, mxscl, mxcvt and mxexp fire with the converted values (R39, R209, R212, R223, R224, R225, R226, R227, R228, R229, R230). -/
def Obligations.FloatConversionsAndMicroscaling : Prop :=
  ElementwiseOn (fun _ _ => True) .fwid [0] false (fun a b _ _ o =>
    let src := if sewBits b.vcfg = 32 then (if a.md.toNat.testBit 2 then bf16 else fp16) else fp32
    let dst := if sewBits b.vcfg = 32 then fp32 else fp64
    floatResult dst (fenv b.vcfg) (inputs src b o [0]) (some (input src b o 0))) ∧
  ElementwiseOn (fun _ _ => True) .fnar [0] false (fun a b _ _ o =>
    let dst := if sewBits b.vcfg = 32 then (if a.md.toNat.testBit 2 then bf16 else fp16) else fp32
    let src := if sewBits b.vcfg = 32 then fp32 else fp64
    floatResult dst (fenv b.vcfg) (inputs src b o [0]) (some (input src b o 0))) ∧
  ElementwiseOn (fun _ _ => True) .fcvtd [0] false (fun a b _ _ o =>
    let src := if a.md = 0 then fp16 else bf16
    floatResult (if a.md = 0 then bf16 else fp16) (fenv b.vcfg) (inputs src b o [0]) (some (input src b o 0))) ∧
  FloatForm .f2i [0] false (fun a b f o =>
    let w := sewBits b.vcfg
    let lo : Int := if a.md.toNat.testBit 0 then 0 else -(2 ^ (w - 1) : Nat)
    let hi : Int := if a.md.toNat.testBit 0 then (2 ^ w : Nat) - 1 else (2 ^ (w - 1) : Nat) - 1
    let code (x : Int) : Nat := (x % (2 ^ w : Nat)).toNat
    match input f b o 0 with
    | .nan _ => (0, 16)
    | .inf n => (code (if n then lo else hi), 4)
    | .fin n m e st =>
      let r := roundGrid (fenv b.vcfg).rm n m e st 0
      let x : Int := if n then -(r.1 : Int) else r.1
      if x < lo then (code lo, 4) else if hi < x then (code hi, 4) else (code x, if r.2 then 1 else 0)) ∧
  FloatForm .i2f [0] false (fun a b f o =>
    let x := o 0 % 2 ^ sewBits b.vcfg
    let v : Int := if a.md.toNat.testBit 0 then x else sint (sewBits b.vcfg) x
    f.rnd (fenv b.vcfg) (.fin (decide (v < 0)) v.natAbs 0 false)) ∧
  Collective .mxscl [0] (fun a b _ w vl l _ _ =>
    let f := if w = 16 then fp16 else if w = 32 then fp32 else fp64
    let n := if b.vcfg.toNat.testBit 10 then 32 else 128
    (mkTok false true ((List.range vl).map fun j =>
      if j * n < vl then some (mxScale f (mxFmt a.md.toNat) (fenv b.vcfg).fzIn (((l.drop (j * n)).take n).filterMap id)) else none), 0)) ∧
  (∀ (s : State) (h i id : Nat) (b : Biq) (a : AForm),
    let f := if sewBits b.vcfg = 16 then fp16 else if sewBits b.vcfg = 32 then fp32 else fp64
    let n := if b.vcfg.toNat.testBit 10 then 32 else 128
    let vec := b.vector id a.pm [0]
    let gs := firing s h b !vec
    FireReady s h i id b a.pm [0] gs →
    (∀ j ∈ s.grp, ∀ o ∈ (s.hart h).biq.take i,
      s.putsLater h o (isVput 31) (s.placeGroup h b (16 * (if vec then j else 0) / n / 16)) = false) →
    let w := if vec then sewBits b.vcfg else 64
    let run (g : Fmt → FEnv → Nat → Nat → Nat → Nat × Nat) := (if vec then List.range (s.entryVl h b) else [0]).map fun e =>
      if (!vec || gs.contains (e / 16)) && b.enabled id a.pm e && decide (e / n < s.entryVl h b) then
        (b.operand id w 0 e).map fun x => g f (fenv b.vcfg) a.md.toNat (s.elemV h i b 31 (e / n) % 256) x
      else none
    let done (r : List (Option (Nat × Nat))) :=
      let value := mkTok false vec (r.map fun x => x.map fun y => y.1)
      let mask := mkTok true vec (r.map fun x => x.map fun y => b2n (raises b.vcfg y.2))
      gives s h i id b gs a.t0.toNat value a.t1.toNat (if a.x = 1 then mask else value)
    ((Instr.mxcvt a).wf = true → exec (.mxcvt a) s = .next (done (run fMxcvt))) ∧
    ((Instr.mxexp a).wf = true → exec (.mxexp a) s = .next (done (run fMxexp))))

end

namespace Sys2Proof.Claims

open Sys2Proof.Machine

/-- What an instruction does that chooses among operands which may be Null (R175 to R177): `f` gives one element from the operand
reader; it raises no condition. -/
def ChoosingForm (ctor : AForm → Instr) (applies : AForm → Prop) (need : List Nat) (prd : Biq → Nat → Bool)
    (f : (Nat → Option Nat) → Option Nat) : Prop :=
  ∀ (s : State) (h i id : Nat) (b : Biq) (a : AForm), (ctor a).wf = true → applies a →
    let vec := b.vector id a.pm need
    let g := firing s h b !vec
    FireReady s h i id b a.pm need g →
    let w := if vec then sewBits b.vcfg else 64
    let r := (if vec then List.range (s.entryVl h b) else [0]).map fun e =>
      if (!vec || g.contains (e / 16)) && b.enabled id a.pm e then f fun n => b.operand id w n e else none
    let value := mkTok (prd b id) vec r
    let mask := mkTok true vec (r.map fun x => x.map fun _ => 0)
    exec (ctor a) s = .next (gives s h i id b g a.t0.toNat value a.t1.toNat (if a.x = 1 then mask else value))

/-- What a register-form producer of uniform (`uni`) or vector kind does (R138, R140, R151): its token of the groups that fire goes to
T0 and to slot a of the instruction T1 names. -/
def ProducerForm (i : Instr) (r : RForm) (uni : Bool) (ready : State → Nat → Nat → Biq → List Nat → Prop)
    (tok : State → Nat → Nat → Nat → Biq → List Nat → Tok) : Prop :=
  ∀ (s : State) (h k id : Nat) (b : Biq), i.wf = true →
    let g := firing s h b uni
    FireReady s h k id b r.pm [] g → ready s h k b g →
    exec i s = .next (gives s h k id b g r.t0.toNat (tok s h k id b g) (r.t1.toNat * 4) (tok s h k id b g))

/-- No older entry of the hart's queue will still put the register's elements of the groups `g` (R155). -/
def Settled (s : State) (h i : Nat) (b : Biq) (isPut : Instr → Bool) (g : List Nat) : Prop :=
  ∀ o ∈ (s.hart h).biq.take i, ∀ j ∈ g, s.putsLater h o isPut (s.placeGroup h b j) = false

/-- The matrix-state fault of an instruction that addresses the slots, in each of the groups `g` (R156, R321, R324). -/
def matStates (s : State) (h : Nat) (b : Biq) (g : List Nat) (id lsid : Nat) (va : Word) : List BFault :=
  g.map fun j => { code := 12, va := va, elem := 16 * j, lsid := lsid, id := id, lg := (s.placeGroup h b j).1, acc := 0 }

/-- What a put of uniform (`uni`) or vector kind does (R151, R155, R172): its writes in the groups that fire are staged in the entry
and nothing else changes. -/
def PutForm (i : Instr) (r : RForm) (uni : Bool) (stage : State → Nat → Nat → Biq → List Nat → List Stage) : Prop :=
  ∀ (s : State) (h k id : Nat) (b : Biq), i.wf = true →
    let g := firing s h b uni
    FireReady s h k id b r.pm [0] g →
    exec i s = .next (s.setEntry h k ({ b with staged := b.staged ++ stage s h id b g }.done (s.groups h b) g id))

end Sys2Proof.Claims

section

open Sys2Proof Sys2Proof.Machine Sys2Proof.Claims

/-- mov, sel, nul, pand, por, pxor, pnot, pandn, pcnt and pffs fire with the chosen operands and bits (R145, R147, R175, R176, R177, R178, R179). -/
def Obligations.MovesAndPredicates : Prop :=
  ChoosingForm .mov (fun _ => True) [0] Biq.classA (fun g => g 0) ∧
  ChoosingForm .sel (fun _ => True) [0, 1, 2] Biq.classA (fun g => (g 2).bind fun c => if c = 1 then g 0 else g 1) ∧
  ChoosingForm .nul (fun a => a.md = 0) [0, 1] Biq.classA (fun g => (g 0).or (g 1)) ∧
  ChoosingForm .nul (fun a => a.md ≠ 0) [0] (fun _ _ => true) (fun g => some (b2n (g 0).isSome)) ∧
  Elementwise .pand [0, 1] true (fun _ _ o => (o 0 &&& o 1, 0)) ∧
  Elementwise .por [0, 1] true (fun _ _ o => (o 0 ||| o 1, 0)) ∧
  Elementwise .pxor [0, 1] true (fun _ _ o => (o 0 ^^^ o 1, 0)) ∧
  Elementwise .pnot [0] true (fun _ _ o => (1 - o 0, 0)) ∧
  Elementwise .pandn [0, 1] true (fun _ _ o => (o 0 &&& (1 - o 1), 0)) ∧
  Collective .pcnt [0] (fun _ _ _ _ _ l _ _ => (uniform64 ((l.filter fun x => x == some 1).length : Nat), 0)) ∧
  Collective .pffs [0] (fun _ _ _ _ vl l _ _ =>
    (uniform64 ((((List.range vl).find? fun e => at_ l e == some 1).getD vl : Nat) : Int), 0))

/-- vget, pget, xget, sget, const and iota fire with the register elements and constants the spec gives (R104, R107, R108, R138, R155, R171, R173, R174). -/
def Obligations.RegisterReadsAndConstants : Prop :=
  (∀ r : RForm, ProducerForm (.vget r) r false (fun s h k b g => Settled s h k b (isVput r.reg.toNat) g) fun s h k id b g =>
    mkTok false true ((List.range (s.entryVl h b)).map fun e =>
      let p := s.place h b e
      if g.contains (e / 16) && b.enabled id r.pm e then some ((s.readV h k r.reg.toNat p.1 p.2).toNat % 2 ^ sewBits b.vcfg) else none)) ∧
  (∀ r : RForm, ProducerForm (.pget r) r false (fun s h k b g => Settled s h k b (isPput r.reg.toNat) g) fun s h k id b g =>
    mkTok true true ((List.range (s.entryVl h b)).map fun e =>
      let p := s.place h b e
      if g.contains (e / 16) && b.enabled id r.pm e then some (b2n (s.readP h k r.reg.toNat p.1 p.2)) else none)) ∧
  (∀ r : RForm, ProducerForm (.xget r) r true (fun _ _ _ b _ => r.reg.toNat ∉ b.pend) fun _ _ _ id b _ =>
    .uni (if b.enabled id r.pm 0 then some (if r.reg = 0 then 0 else tget 0 b.capt r.reg.toNat) else none)) ∧
  (∀ r : RForm, ProducerForm (.sget r) r true (fun _ _ _ _ _ => True) fun s h _ id b _ =>
    .uni (if b.enabled id r.pm 0 then some (BitVec.ofNat 64 (
      if r.reg = 0 then (if b.isLoop then b.base else 0) else if r.reg = 1 then s.entryVl h b
      else if b.isLoop then b.strip else 0)) else none)) ∧
  (∀ (r : RForm) (lit : BitVec 32), ProducerForm (.const r lit) r true (fun _ _ _ _ _ => True) fun _ _ _ id b _ =>
    .uni (if b.enabled id r.pm 0 then some (
      if r.reg = 0 then BitVec.ofInt 64 (sint 32 lit.toNat) else if r.reg = 1 then BitVec.ofNat 64 lit.toNat
      else BitVec.ofNat 64 (lit.toNat * 2 ^ 32)) else none)) ∧
  (∀ (r : RForm) (lit : BitVec 32), ProducerForm (.iota r lit) r false (fun _ _ _ _ _ => True) fun s h _ id b g =>
    mkTok false true ((List.range (s.entryVl h b)).map fun e =>
      if g.contains (e / 16) && b.enabled id r.pm e then
        some (((sint 16 (lit.toNat % 65536) + e * sint 16 (lit.toNat / 65536) +
          (if r.reg.toNat % 2 = 1 ∧ b.isLoop = true then (b.base : Int) else 0)) % (2 ^ sewBits b.vcfg : Nat)).toNat)
      else none))

/-- vput, pput, xput stage their register writes; tsmv reads and ost stages matrix state (R105, R151, R155, R172, R320, R321, R322, R324). -/
def Obligations.PutsAndTileInstructions : Prop :=
  (∀ r : RForm, PutForm (.vput r) r false fun s h id b g =>
    (List.range (s.entryVl h b)).filterMap fun e =>
      if g.contains (e / 16) && b.enabled id r.pm e then
        (b.operand id (sewBits b.vcfg) 0 e).map fun v => .v r.reg.toNat (s.place h b e).1 (s.place h b e).2 (BitVec.ofNat 64 v)
      else none) ∧
  (∀ r : RForm, PutForm (.pput r) r false fun s h id b g =>
    (List.range (s.entryVl h b)).filterMap fun e =>
      if r.reg ≠ 0 ∧ g.contains (e / 16) = true ∧ b.enabled id r.pm e = true then
        (b.operand id 1 0 e).map fun v => .p r.reg.toNat (s.place h b e).1 (s.place h b e).2 (v == 1)
      else none) ∧
  (∀ r : RForm, PutForm (.xput r) r true fun _ _ id b _ =>
    if r.reg = 0 ∨ b.enabled id r.pm 0 = false then []
    else ((b.operand id 64 0 0).map fun v => Stage.x r.reg.toNat (BitVec.ofNat 64 v)).toList) ∧
  (∀ (r : RForm) (s : State) (h k id : Nat) (b : Biq), (Instr.tsmv r).wf = true → FireReady s h k id b r.pm [0] s.grp →
    b.faults = [] → s.entryHeld h b = false → s.matEn h = true →
    let m := s.mat (coreOf h)
    let cells := (List.range (s.entryVl h b)).map fun e =>
      if s.grp.contains (e / 16) && b.enabled id r.pm e then
        (b.operand id 64 0 0).bind fun sel => (cellOf sel (r.reg.toNat.testBit 0) e).bind fun c =>
          if c.2.1 < m.rows c.1 ∧ c.2.2 < m.cols c.1 then some (m.cell c.1 c.2.1 c.2.2).toNat else none
      else none
    exec (.tsmv r) s = .next (gives s h k id b s.grp r.t0.toNat (mkTok false true cells) (r.t1.toNat * 4) (mkTok false true cells))) ∧
  (∀ (r : RForm) (s : State) (h k id o : Nat) (b : Biq), (Instr.ost r).wf = true → FireReady s h k id b r.pm [0, 1] s.grp →
    (b.faults = [] → s.entryHeld h b = false) → s.matEn h = true → b.operand id 64 1 0 = some o →
    let vl := s.entryVl h b
    let n := sewBits b.vcfg / 8
    let bytes := (List.range vl).filterMap fun e =>
      if s.grp.contains (e / 16) && b.enabled id r.pm e then
        (b.operand id (8 * n) 0 e).map fun v => Stage.slot id (r.reg.toNat % 32) (o + e * n) (leBytes n v)
      else none
    exec (.ost r) s = .next (s.setEntry h k (
      (if 0 < vl ∧ (o % n ≠ 0 ∨ 16384 < o + vl * n) then s.faulted h b (matStates s h b s.grp id 0 (BitVec.ofNat 64 o))
      else { b with staged := b.staged ++ bytes }).done (s.groups h b) s.grp id))) ∧
  (∀ (r : RForm) (s : State) (h k id : Nat) (b : Biq), (Instr.ost r).wf = true → FireReady s h k id b r.pm [0, 1] s.grp →
    (b.faults = [] → s.entryHeld h b = false) → s.matEn h = true → b.operand id 64 1 0 = none →
    exec (.ost r) s = .next (s.setEntry h k ((s.faulted h b []).done (s.groups h b) s.grp id))) ∧
  (∀ (r : RForm) (s : State) (h k id : Nat) (b : Biq), (b.faults = [] → s.entryHeld h b = false) → s.matEn h = false →
    0 < s.entryVl h b →
    (FireReady s h k id b r.pm [0] s.grp → exec (.tsmv r) s =
      .next (s.setEntry h k ((s.faulted h b (matStates s h b s.grp id 0 0)).done (s.groups h b) s.grp id))) ∧
    (FireReady s h k id b r.pm [0, 1] s.grp → exec (.ost r) s =
      .next (s.setEntry h k ((s.faulted h b (matStates s h b s.grp id 0 0)).done (s.groups h b) s.grp id)))) ∧
  (∀ (s : State) (h : Nat) (b : Biq) (bad : List BFault), (s.faulted h b bad).faults = b.faults ++ bad ∧
    (b.faults ≠ [] ∨ bad = [] → (s.faulted h b bad).sweep = b.sweep) ∧
    (s.faulted h b bad) = { b with faults := (s.faulted h b bad).faults, sweep := (s.faulted h b bad).sweep })

end

namespace Sys2Proof.Claims

open Sys2Proof.Machine

/-- How the elements of the groups `g` are addressed (R235): unit stride, a byte stride in slot c, an index in slot c. -/
def elementVA (walk : Nat) (b : Biq) (id : Nat) (m : MForm) (off : Int) (data : List Nat) (g : List Nat) (e : Nat) : Option Word :=
  if g.contains (e / 16) && b.enabled id m.pm e && data.all fun n => (b.operand id 64 n e).isSome then
    (b.operand id 64 0 e).bind fun base =>
      if walk = 0 then some (BitVec.ofInt 64 (base + off + e * (2 ^ m.w.toNat : Nat)))
      else if walk = 1 then (b.operand id 64 2 e).map fun c => BitVec.ofInt 64 (base + off + e * (c : Int))
      else (b.operand id (sewBits b.vcfg) 2 e).map fun c => BitVec.ofInt 64 (base + off + c * (2 ^ m.w.toNat : Nat))
  else none

/-- The static offset: OFF6 in units of the access width, or the literal of a lone form (R234). -/
def offsetOf (m : MForm) (lit : Option (BitVec 32)) : Int :=
  match lit with
  | some l => sint 32 l.toNat
  | none => sint 6 m.off.toNat * (2 ^ m.w.toNat : Nat)

/-- What a load does when it fires for its groups (R151, R162, R235 to R241): its elements are checked in ascending order; without a
fault it waits for its data, with the places it will read; a fault is recorded in its block, which starts no access after one. -/
def LoadFires (i : Instr) (m : MForm) (lit : Option (BitVec 32)) (walk : Nat) (need : List Nat) (bounded : Bool) : Prop :=
  ∀ (s : State) (h k id : Nat) (b : Biq), i.wf = true → FireReady s h k id b m.pm need s.grp → s.memReady h k b m.lsid.toNat = true →
    let vas := (List.range (s.entryVl h b)).map (elementVA walk b id m (offsetOf m lit) (if bounded then [1] else []) s.grp)
    let c := State.checkElems h b false (bounded || walk == 2) none (2 ^ m.w.toNat) 0 vas s
    let bad := c.1.elemFaults h b id m.lsid.toNat c.2
    let pend : BPend := ⟨id, m.lsid.toNat, s.grp, c.2.map checkedLoc, 2 ^ m.w.toNat,
      if bounded then (b.operand id 64 1 0).map (· % 8) else none, []⟩
    exec i s = .next (c.1.setEntry h k
      ((if bad = [] ∧ b.faults = [] then { b with pends := b.pends ++ [pend] } else c.1.faulted h b bad).done
        (c.1.groups h b) s.grp id))

/-- What a store does when it fires for its groups (R151, R156, R162, R235, R240, R245): where its lane groups' buffers have room, or are
made to have it, checked elements go into the block's buffer in LSID order, memory unchanged; a load that has read such bytes too early
begins again with the younger blocks; a fault is recorded. -/
def StoreFires (i : Instr) (m : MForm) (lit : Option (BitVec 32)) (walk : Nat) (need : List Nat) : Prop :=
  ∀ (s : State) (h k id : Nat) (b : Biq), i.wf = true → FireReady s h k id b m.pm need s.grp → s.memReady h k b m.lsid.toNat = true →
    let n := 2 ^ m.w.toNat
    s.storeMay h b n s.grp = true →
    let r := s.storeReserve h b n s.grp
    let vas := (List.range (r.entryVl h b)).map (elementVA walk b id m (offsetOf m lit) [1] s.grp)
    let c := State.checkElems h b true false none n 0 vas r
    let bad := c.1.elemFaults h b id m.lsid.toNat c.2
    let sts := (List.range c.2.length).filterMap fun e =>
      (checkedLoc (c.2.getD e none)).bind fun x =>
        (b.operand id (8 * n) 1 e).map fun v => (⟨id, m.lsid.toNat, e, x.1, x.2, leBytes n v⟩ : BStore)
    exec i s = .next (
      if bad = [] ∧ b.faults = [] then
        let t := c.1.setEntry h k ((b.addStores sts).done (c.1.groups h b) s.grp id)
        t.modHart h fun x => { x with biq := disambiguate k m.lsid.toNat sts x.biq }
      else c.1.setEntry h k ((c.1.faulted h b bad).done (c.1.groups h b) s.grp id))

/-- What an atomic does when it fires, for every group at once (R58, R156, R159, R242 to R244): all elements are checked, then each acts
alone, ascending, the old values become its result, and younger loads that have read its locations begin again; a fault is recorded and
nothing acts. Where all elements pass and a line of some answers with poison (R479, R480), those elements fault, the first is logged, and
nothing acts; that an AtomicOp's error is the code 7 is the model's choice (log entry 40). -/
def AtomicFires (i : Instr) (m : MForm) (op : Nat) (off : Int) (walk : Nat) (data : List Nat) : Prop :=
  ∀ (s : State) (h k id : Nat) (b : Biq), i.wf = true →
    let g := s.groups h b
    FireReady s h k id b m.pm [0, 1, 2] g → s.memReady h k b m.lsid.toNat = true → State.atomReady k b id = true →
    let n := 2 ^ m.w.toNat
    let vas := (List.range (s.entryVl h b)).map (elementVA walk b id m off data g)
    let c := State.checkElems h b true false (some op) n 0 vas s
    let bad := c.1.elemFaults h b id m.lsid.toNat c.2
    let todo := (List.range c.2.length).map fun e =>
      (checkedLoc (c.2.getD e none)).map fun x =>
        (x.2, opnd b id (8 * n) e 1, if op = 10 then opnd b id (8 * n) e 2 else 0)
    let wrote := todo.filterMap fun x => x.map fun y => (⟨id, m.lsid.toNat, 0, 0, y.1, leBytes n 0⟩ : BStore)
    let r := State.atomicElems (nodeOf (coreOf h)) op n todo c.1
    let places := c.2.filterMap checkedLoc
    let poison := places.find? fun x => c.1.poisoned x.2 n
    (∀ x, places.length = (c.2.filterMap fun y => y).length → poison = some x → exec i s = .next (
      let t := c.1.poisonRecord x.2
      let lost := t.elemFaults h b id m.lsid.toNat (c.2.map fun y => y.map fun e => match e.2 with
        | .ok loc => (e.1, if c.1.poisoned loc n then .bad (if c.1.cached loc then 6 else 7) else .ok loc)
        | .bad code => (e.1, .bad code))
      t.setEntry h k ((t.faulted h b lost).done g g id))) ∧
    (poison = none ∨ bad ≠ [] → (∀ x ∈ todo, ∀ y, x = some y → c.1.stuck (hartDie h) y.1 n = false) → exec i s = .next (
      if bad = [] ∧ b.faults = [] then
        let t := r.1.setEntry h k (({ b with atom := true }.give g g m.t0.toNat (mkTok false true r.2)).done g g id)
        t.modHart h fun x => { x with biq := disambiguate k m.lsid.toNat wrote x.biq }
      else c.1.setEntry h k ((c.1.faulted h b bad).done g g id)))

end Sys2Proof.Claims

section

open Sys2Proof Sys2Proof.Machine Sys2Proof.Claims

/-- The ten block loads fire: elements addressed as R235 says are checked, then wait for data or fault (R234, R235, R237, R239, R241, R254). -/
def Obligations.BlockLoadsFire : Prop :=
  ∀ (m : MForm) (lit : BitVec 32),
    LoadFires (.ld m) m none 0 [0] false ∧ LoadFires (.ldLone m lit) m (some lit) 0 [0] false ∧
    LoadFires (.lds m) m none 1 [0, 2] false ∧ LoadFires (.ldsLone m lit) m (some lit) 1 [0, 2] false ∧
    LoadFires (.ldx m) m none 2 [0, 2] false ∧ LoadFires (.ldxLone m lit) m (some lit) 2 [0, 2] false ∧
    LoadFires (.ldb m) m none 0 [0, 1] true ∧ LoadFires (.ldbLone m lit) m (some lit) 0 [0, 1] true ∧
    LoadFires (.ldbx m) m none 2 [0, 1, 2] true ∧ LoadFires (.ldbxLone m lit) m (some lit) 2 [0, 1, 2] true

/-- The six block stores, amo, acas, tsld and tsst fire: checked, then buffered, performed or pending (R65, R156, R159, R234, R235, R240, R242, R243, R244, R320, R323). -/
def Obligations.BlockStoresAndAtomicsFire : Prop :=
  (∀ (m : MForm) (lit : BitVec 32),
    StoreFires (.st m) m none 0 [0, 1] ∧ StoreFires (.stLone m lit) m (some lit) 0 [0, 1] ∧
    StoreFires (.sts m) m none 1 [0, 1, 2] ∧ StoreFires (.stsLone m lit) m (some lit) 1 [0, 1, 2] ∧
    StoreFires (.stx m) m none 2 [0, 1, 2] ∧ StoreFires (.stxLone m lit) m (some lit) 2 [0, 1, 2] ∧
    AtomicFires (.amo m) m m.off.toNat 0 2 [1] ∧ AtomicFires (.acas m) m 10 (offsetOf m none) 0 [1, 2]) ∧
  (∀ (m : MForm) (s r : State) (h k id : Nat) (b : Biq), FireReady s h k id b m.pm [0, 1, 2] s.grp →
    s.memReady h k b m.lsid.toNat = true → s.matEn h = true → (r = s ∨ r = s.storeReserve h b 4 s.grp) →
    let mat := r.mat (coreOf h)
    let cell (e : Nat) : Option (Nat × Nat × Nat) :=
      if s.grp.contains (e / 16) && b.enabled id m.pm e then
        (b.operand id 64 1 0).bind fun sel => (cellOf sel (m.t0.toNat.testBit 0) e).bind fun c =>
          if c.2.1 < mat.rows c.1 ∧ c.2.2 < mat.cols c.1 then some c else none
      else none
    let va (e : Nat) : Option Word := (cell e).bind fun c => (b.operand id 64 0 0).bind fun base =>
      (b.operand id 64 2 0).map fun pitch =>
        BitVec.ofInt 64 (base + sint 6 m.off.toNat * 4 + ((64 * c.1 + c.2.1) * pitch : Nat) + c.2.2 * 4)
    let vas := (List.range (r.entryVl h b)).map va
    ((Instr.tsld m).wf = true → r = s →
      let c := State.checkElems h b false false none 4 0 vas s
      let bad := c.1.elemFaults h b id m.lsid.toNat c.2
      exec (.tsld m) s = .next (c.1.setEntry h k (
        (if bad = [] ∧ b.faults = [] then
          { b with pends := b.pends ++ [(⟨id, m.lsid.toNat, s.grp, c.2.map checkedLoc, 4, none, []⟩ : BPend)] }
        else c.1.faulted h b bad).done (c.1.groups h b) s.grp id))) ∧
    ((Instr.tsst m).wf = true → r = s.storeReserve h b 4 s.grp → s.storeMay h b 4 s.grp = true →
      let c := State.checkElems h b true false none 4 0 vas r
      b.faults = [] → c.1.elemFaults h b id m.lsid.toNat c.2 = [] → c.1.mat (coreOf h) = mat →
      let sts := (List.range c.2.length).filterMap fun e =>
        (checkedLoc (c.2.getD e none)).bind fun x => (cell e).map fun y =>
          (⟨id, m.lsid.toNat, e, x.1, x.2, leBytes 4 (mat.cell y.1 y.2.1 y.2.2).toNat⟩ : BStore)
      let t := c.1.setEntry h k ((b.addStores sts).done (c.1.groups h b) s.grp id)
      exec (.tsst m) s = .next (t.modHart h fun x => { x with biq := disambiguate k m.lsid.toNat sts x.biq }))) ∧
  (∀ (m : MForm) (s : State) (h k id : Nat) (b : Biq), FireReady s h k id b m.pm [0, 1, 2] s.grp →
    s.memReady h k b m.lsid.toNat = true → s.matEn h = false → 0 < s.entryVl h b →
    exec (.tsld m) s = .next (s.setEntry h k
      ((s.faulted h b (matStates s h b s.grp id m.lsid.toNat 0)).done (s.groups h b) s.grp id)) ∧
    (s.storeMay h b 4 s.grp = true → exec (.tsst m) s = .next (s.setEntry h k
      ((s.faulted h b (matStates s h b s.grp id m.lsid.toNat 0)).done (s.groups h b) s.grp id))))

end

namespace Sys2Proof.Claims

open Sys2Proof.Machine

/-- Where a texture or ray instruction ends in the groups that fire: without a fault its two results go to T0 and T1; else the faults are
recorded in the block and no result is given (R162, R259, R277). -/
def unitEnd (u : State) (h k id : Nat) (b : Biq) (t : TForm) (g : List Nat) (l : List (Option (Nat × Nat))) (bad : List BFault) : State :=
  if bad = [] ∧ b.faults = [] then
    gives u h k id b g t.t0.toNat (mkTok false true (l.map fun x => x.map fun y => y.1)) t.t1.toNat
      (mkTok false true (l.map fun x => x.map fun y => y.2))
  else u.setEntry h k ((u.faulted h b bad).done (u.groups h b) g id)

/-- The fault of a read for the whole instruction: element 0, no lane group (R264). -/
def wholeFault (b : Biq) (id : Nat) (f : UFault) : BFault :=
  { code := f.1, va := f.2, elem := 0, lsid := 0, id := id, lg := 15, acc := faultRights f.1 b.priv }

/-- What a texture or ray instruction does in the groups that fire (R151, R162, R259, R264, R277): with no executing element both results
are all Null; when the uniform reads answer (`setup` gives the work of an element in its lane group), the elements run in ascending
order; without a fault their two results go to T0 and T1, else every fault is recorded in the block. -/
def UnitFires (i : Instr) (t : TForm) (need : List Nat) (ready : State → Nat → Nat → Biq → Prop)
    (setup : State → Nat → Nat → Nat → Biq → Nat → Word → State → (Nat → Nat → UnitStep) → Prop) : Prop :=
  ∀ (s : State) (h k id : Nat) (b : Biq), i.wf = true → FireReady s h k id b t.pm need s.grp →
    (b.faults = [] → s.entryHeld h b = false) → ready s h k b →
    let live (e : Nat) := s.grp.contains (e / 16) && b.enabled id t.pm e && need.all fun n => (b.operand id 64 n e).isSome
    let base := BitVec.ofNat 64 (opnd b id 64 0 0)
    ((∀ e, e < s.entryVl h b → live e = false) →
      exec i s = .next (unitEnd s h k id b t s.grp ((List.range (s.entryVl h b)).map fun _ => none) [])) ∧
    (∀ u elem, (∃ e, e < s.entryVl h b ∧ live e = true) →
      setup s h k id b (s.placeGroup h b (s.grp.headD 0)).1 base u elem →
      let r := unitElems ((List.range (s.entryVl h b)).map fun e =>
        if live e then some (elem e (u.place h b e).1) else none) 0 u
      exec i s = .next (unitEnd r.1 h k id b t s.grp r.2.1 (r.2.2.map fun (x : Nat × UFault) =>
        { code := x.2.1, va := x.2.2, elem := x.1, lsid := 0, id := id, lg := (r.1.place h b x.1).1, acc := faultRights x.2.1 b.priv })))

end Sys2Proof.Claims

section

open Sys2Proof Sys2Proof.Machine Sys2Proof.Claims

/-- tfl and tld fire with the filtered, or the fetched, texels placed as OSEL says (R259, R260, R262, R264, R265, R266, R267, R268, R269, R270, R277). -/
def Obligations.TextureInstructionsFire : Prop :=
  (∀ (t : TForm) (lit : BitVec 32), UnitFires (.tld t lit) t [0, 1, 2] (fun _ _ _ _ => True) fun s h _ id b lg base u elem =>
    ∃ tex, s.readTex h b lg base = (u, .ok tex) ∧ elem = fun e lg v =>
      let l := lit.toNat % 16
      let osel := t.sub.toNat / 2 % 4
      let x := sint 32 (opnd b id 32 e 1)
      let y := sint 32 (opnd b id 32 e 2)
      if l < tex.lev ∧ 0 ≤ x ∧ x < (Nat.max 1 (tex.w / 2 ^ l) : Nat) ∧ 0 ≤ y ∧ y < (Nat.max 1 (tex.h / 2 ^ l) : Nat) then
        match v.readTexel h b lg tex l x.toNat y.toNat with
        | (v, .ok c) => (v, .ok (placeTexel osel c))
        | (v, .error f) => (v, .error f)
      else (v, .ok (placeTexel osel (tex.swizzle [0, 0, 0, 0])))) ∧
  (∀ (t : TForm) (lit : BitVec 32), UnitFires (.tfl t lit) t [0, 1, 2] (fun _ _ _ _ => True) fun s h _ id b lg base u elem =>
    ∃ tex u1 bs, s.readTex h b lg base = (u1, .ok tex) ∧
      u1.unitRead h b lg false (BitVec.ofInt 64 (base.toNat + sint 16 (lit.toNat % 65536) * 32)) 32 = (u, .ok bs) ∧
      samplerOk (leNat (bs.take 4)) (leNat (bs.drop 4)) tex = true ∧ elem = fun e lg v =>
        let coord (j : Nat) : Option (Int × Int) :=
          if j < u.entryVl h b then
            (b.operand id 32 1 j).bind fun x => (b.operand id 32 2 j).map fun y => (coordOf x, coordOf y)
          else none
        let lod := sint 12 (lit.toNat / 65536 % 4096)
        let lam := if t.sub.toNat % 2 = 1 then (quadLod tex.w tex.h (quadOf coord e)).map (· + lod) else some lod
        let c := (coord e).getD (0, 0)
        match readTaps h b lg tex (leNat (bs.take 4)) (sampleTaps tex (leNat (bs.take 4)) lam c.1 c.2) v with
        | (v, .ok l) =>
          (v, .ok (placeTexel (t.sub.toNat / 2 % 4) ((List.range 4).map fun k => filterChan (l.map fun p => (p.1, p.2.getD k 0)))))
        | (v, .error f) => (v, .error f)) ∧
  (∀ (t : TForm) (lit : BitVec 32) (s u v : State) (h k id : Nat) (b : Biq) (got : UnitGot Tex) (smp : UnitGot (List Byte))
    (l : List UFault), FireReady s h k id b t.pm [0, 1, 2] s.grp → (b.faults = [] → s.entryHeld h b = false) →
    (∃ e, e < s.entryVl h b ∧ e / 16 ∈ s.grp ∧ b.enabled id t.pm e = true ∧ ∀ n ∈ [0, 1, 2], (b.operand id 64 n e).isSome = true) →
    let lg := (s.placeGroup h b (s.grp.headD 0)).1
    let base := BitVec.ofNat 64 (opnd b id 64 0 0)
    let sva : Word := BitVec.ofInt 64 (base.toNat + sint 16 (lit.toNat % 65536) * 32)
    s.readTex h b lg base = (u, got) → u.unitRead h b lg false sva 32 = (v, smp) →
    (got = .error l → l ≠ [] → exec (.tld t lit) s = .next (unitEnd u h k id b t s.grp [] (l.map (wholeFault b id)))) ∧
    (bothGot got smp = .error l → l ≠ [] →
      exec (.tfl t lit) s = .next (unitEnd v h k id b t s.grp [] (l.map (wholeFault b id)))) ∧
    (∀ tex bs, got = .ok tex → smp = .ok bs → samplerOk (leNat (bs.take 4)) (leNat (bs.drop 4)) tex = false →
      exec (.tfl t lit) s = .next (unitEnd v h k id b t s.grp [] [wholeFault b id (11, sva)])))

/-- rbox and rtri fire with the results of the box and triangle tests on the element record (R259, R271, R272, R274, R275, R276, R277). -/
def Obligations.RayInstructionsFire : Prop :=
  let rec_ (f : List Nat → List Byte → Nat × Nat) (size : Nat) (s : State) (h k id : Nat) (b : Biq) (_ : Nat) (base : Word) (u : State)
      (elem : Nat → Nat → UnitStep) : Prop :=
    base.toNat % size = 0 ∧ u = s ∧ elem = fun e lg v =>
      match v.unitRead h b lg true (BitVec.ofInt 64 (base.toNat + (opnd b id 32 e 1 * size : Nat))) size with
      | (v', .ok bs) => (v', .ok (f ((List.range 8).map fun j => v.elemV h k b (20 + j) e % 2 ^ 32) bs))
      | (v', .error x) => (v', .error x)
  let settled (s : State) (h k : Nat) (b : Biq) : Prop := ∀ j, j < 8 → Settled s h k b (isVput (20 + j)) s.grp
  (∀ t : TForm, UnitFires (.rbox t) t [0, 1] settled (rec_ boxResult 128)) ∧
  (∀ t : TForm, UnitFires (.rtri t) t [0, 1] settled (rec_ (triResult (t.sub.toNat % 4) (t.sub.toNat / 4 % 4)) 64)) ∧
  (∀ (t : TForm) (s : State) (h k id : Nat) (b : Biq), FireReady s h k id b t.pm [0, 1] s.grp →
    (b.faults = [] → s.entryHeld h b = false) → settled s h k b →
    (∃ e, e < s.entryVl h b ∧ e / 16 ∈ s.grp ∧ b.enabled id t.pm e = true ∧ ∀ n ∈ [0, 1], (b.operand id 64 n e).isSome = true) →
    let base := BitVec.ofNat 64 (opnd b id 64 0 0)
    (base.toNat % 128 ≠ 0 → exec (.rbox t) s = .next (unitEnd s h k id b t s.grp [] [wholeFault b id (8, base)])) ∧
    (base.toNat % 64 ≠ 0 → exec (.rtri t) s = .next (unitEnd s h k id b t s.grp [] [wholeFault b id (8, base)])))

end

namespace Sys2Proof.Claims

open Sys2Proof.Machine

/-- The instruction retires: the machine goes on in a state whose executing hart is past it, with the properties `P`. -/
def Completes (i : Instr) (s : State) (P : State → Prop) : Prop :=
  ∃ t, exec i s = .next t ∧ t.me.pc = s.me.pc + BitVec.ofNat 64 s.ilen ∧ t.me.wait = none ∧ P t

/-- A scalar access of the executing hart to `n` bytes at a VA is translated, to a location (R11, R15, R427, R429), and no link on the
way retrains (R396). -/
def Reaches (s : State) (acc : Acc) (va : Word) (n : Nat) (u : State) (loc : Nat) : Prop :=
  s.xlateRange (s.dataCx s.cur) acc va n = (u, .ok loc) ∧ u.stuck (hartDie u.cur) loc n = false

/-- A hart before and after it takes a trap with a cause and a value (R80, R117): the saved pc, the cause and the value are those of the
mode to which the cause is delegated. -/
def TakesTrap (x y : Hart) (c : Nat) (va : Word) : Prop :=
  y.x = x.x ∧ y.wait = none ∧
    if x.trapsToS c then y.priv = .s ∧ y.cs csrScause = BitVec.ofNat 64 c ∧ y.cs csrSepc = x.pc ∧ y.cs csrStval = va
    else y.priv = .m ∧ y.cs csrMcause = BitVec.ofNat 64 c ∧ y.cs csrMepc = x.pc ∧ y.cs csrMtval = va

/-- Bits `lo` to `lo + n - 1` of a register value. -/
def fieldOf (w : Word) (lo n : Nat) : Nat := w.toNat / 2 ^ lo % 2 ^ n

/-- A new entry captures x1 to x31, and waits for those that an older block may still write (R104, R105). -/
def Captures (s : State) (b : Biq) : Prop :=
  ∀ r, 1 ≤ r → r < 32 → tget 0 b.capt r = s.me.xr r ∧ (r ∈ b.pend ↔ ∃ o ∈ s.me.biq, o.mayPut r s.me.seq = true)

/-- LG of `vcfg` (R87). -/
def lgOf (s : State) : Nat := (s.me.cs csrVcfg).toNat / 65536 % 8

end Sys2Proof.Claims

section

open Sys2Proof Sys2Proof.Machine Sys2Proof.Claims

/-- bx and bloop trap without a lane grant, and fault on an address that is not 64-byte aligned (R106). -/
def Obligations.BlockIssueIsRefused : Prop :=
  ∀ (s : State) (rs1 rs2 : BitVec 5),
    (lgOf s = 0 → exec (.bx rs1) s = .next (s.illegal (wordOf (.bx rs1))) ∧
      exec (.bloop rs1 rs2) s = .next (s.illegal (wordOf (.bloop rs1 rs2)))) ∧
    (lgOf s ≠ 0 → (s.x rs1).toNat % 64 ≠ 0 → ∀ i ∈ [Instr.bx rs1, Instr.bloop rs1 rs2], ∃ t, exec i s = .next t ∧
      (if s.me.trapsToS 25 then t.me.cs csrScause = 25 ∧ t.me.cs csrStval = s.x rs1
       else t.me.cs csrMcause = 25 ∧ t.me.cs csrMtval = s.x rs1)) ∧
    (lgOf s = 0 ∨ (s.x rs1).toNat % 64 ≠ 0 → ∀ i ∈ [Instr.bx rs1, Instr.bloop rs1 rs2], ∃ t, exec i s = .next t ∧ t.me.biq = s.me.biq)

/-- bx, bloop, bwait, bretry and bkill complete: a block is captured, drained, run again or discarded (R68, R103, R104, R107, R108, R109, R110, R111). -/
def Obligations.BlocksIssueDrainAndEnd : Prop :=
  (∀ (s : State) (rs1 rs2 : BitVec 5), lgOf s ≠ 0 → (s.x rs1).toNat % 64 = 0 →
    (s.me.biq.length < s.me.slots →
      (∃ b, exec (.bx rs1) s = .next (s.pushEntry b).retire ∧ b.va = s.x rs1 ∧ b.isLoop = false ∧ b.vcfg = s.me.cs csrVcfg ∧
        b.vl = (s.me.cs csrVl).toNat ∧ b.grant = s.me.grant ∧ Captures s b ∧ b.seq = s.me.seq ∧ b.code = none ∧ b.fired = [] ∧
        b.stores = [] ∧ b.faults = [] ∧ b.held = false) ∧
      (s.x rs2 ≠ 0 → ∃ b, exec (.bloop rs1 rs2) s = .next (s.pushEntry b).retire ∧ b.va = s.x rs1 ∧ b.isLoop = true ∧
        b.n = (s.x rs2).toNat ∧ b.strip = 0 ∧ b.base = 0 ∧ b.vcfg = s.me.cs csrVcfg ∧ b.grant = s.me.grant ∧ Captures s b ∧
        b.code = none ∧ b.fired = [] ∧ b.held = false)) ∧
    (s.x rs2 = 0 → exec (.bloop rs1 rs2) s = .next s.retire) ∧
    (s.me.slots ≤ s.me.biq.length → exec (.bx rs1) s = .next (s.wait .blocks) ∧
      (s.x rs2 ≠ 0 → exec (.bloop rs1 rs2) s = .next (s.wait .blocks)))) ∧
  (∀ s : State, exec .bwait s = .next (if s.me.biq = [] then s.retire else s.wait .blocks)) ∧
  (∀ s : State, s.me.priv ≠ .u →
    (s.me.heldFault = none → exec .bretry s = .next s.retire) ∧
    (∀ b f, s.me.heldFault = some (b, f) → Completes .bretry s fun t => t.me.held = false ∧ t.me.parked = false ∧ t.me.told = false ∧
      (∀ c ∈ t.me.biq, c.held = false ∧ c.fired = []) ∧ t.me.biq.map (·.va) = s.me.biq.map (·.va) ∧ t.me.x = s.me.x ∧ t.mem = s.mem) ∧
    ((∀ b r, s.me.biq = b :: r → b.atom = false) → Completes .bkill s fun t =>
      t.me.biq = [] ∧ t.me.held = false ∧ t.me.parked = false ∧ t.me.x = s.me.x ∧ t.me.f = s.me.f ∧ t.mem = s.mem) ∧
    (∀ b r, s.me.biq = b :: r → b.atom = true → ∃ t, exec .bkill s = .next t ∧ t.me.wait = some .blocks ∧ t.me.pc = s.me.pc ∧
      t.me.biq = [{ b with n := b.base + s.entryVl s.cur b }] ∧ t.me.held = false ∧ t.me.x = s.me.x ∧ t.mem = s.mem)) ∧
  (∀ s : State, s.me.priv = .u → exec .bretry s = .next (s.illegal 0x0600100B) ∧ exec .bkill s = .next (s.illegal 0x0800100B))

/-- sigadd, sigor, sigwait, sigwaitm, fence.s, fence, fence.i, wfi and lgset complete with their effects (R20, R21, R22, R63, R69, R70, R82, R112, R113, R131). -/
def Obligations.SignalsFencesAndLanes : Prop :=
  (∀ (s u : State) (rd rs1 rs2 : BitVec 5) (loc : Nat), (s.x rs1).toNat % 32 = 0 → Reaches s .store (s.x rs1) 8 u loc →
    u.signalPlace loc = true → u.released = true →
    ∀ p ∈ [(Instr.sigadd rd rs1 rs2, 11), (Instr.sigor rd rs1 rs2, 12)],
      let v := u.releaseAt (fieldOf (u.me.cs csrVcfg) 7 3)
      let r := v.atomicAt noNode loc p.2 8 (u.x rs2).toNat 0
      exec p.1 s = .next (r.1.retireX rd (BitVec.ofNat 64 r.2)) ∧
      (isLocal loc = true → r.2 = memNat v.mem loc 8 ∧ r.1.mem = memPutNat loc 8
        (if p.2 = 11 then (memNat v.mem loc 8 + (u.x rs2).toNat) % 2 ^ 64 else memNat v.mem loc 8 ||| (u.x rs2).toNat) v.mem)) ∧
  (∀ (s : State) (rd rs1 rs2 : BitVec 5), (s.x rs1).toNat % 32 ≠ 0 →
    ∀ i ∈ [Instr.sigadd rd rs1 rs2, .sigor rd rs1 rs2, .sigwait rd rs1 rs2, .sigwaitm rd rs1 rs2],
      exec i s = .next (s.cmdFault (s.x rs1))) ∧
  (∀ (s u : State) (rd rs1 rs2 : BitVec 5) (loc : Nat), (s.x rs1).toNat % 32 = 0 → Reaches s .store (s.x rs1) 8 u loc →
    u.signalPlace loc = true → u.released = false →
    ∀ i ∈ [Instr.sigadd rd rs1 rs2, .sigor rd rs1 rs2], exec i s = .next (u.wait .blocks)) ∧
  (∀ (s u : State) (rd rs1 rs2 : BitVec 5) (loc : Nat), (s.x rs1).toNat % 32 = 0 → Reaches s .load (s.x rs1) 8 u loc →
    u.signalPlace loc = true → let v := u.loadLines noNode loc 8
    v.poisoned loc 8 = false → let w : Word := BitVec.ofNat 64 (memNat v.mem loc 8)
    exec (.sigwait rd rs1 rs2) s =
      .next (if s.x rs2 ≤ w ∨ v.me.timedOut = true then v.retireX rd w else v.wait (.signal loc)) ∧
    exec (.sigwaitm rd rs1 rs2) s =
      .next (if w &&& s.x rs2 = s.x rs2 ∨ v.me.timedOut = true then v.retireX rd w else v.wait (.signal loc))) ∧
  (∀ (s : State) (succ pred : BitVec 5) (scope : BitVec 3), Completes (.fenceS succ pred scope) s fun t =>
    t.me.holds = s.me.holds ++ (if succ = 0 ∨ pred = 0 then [] else [⟨s.me.seq, pred.toNat, succ.toNat, none⟩]) ∧
      (scope ≠ 4 ∨ s.host.posted = [] → t.mem = s.mem) ∧ (scope = 4 → succ ≠ 0 → pred ≠ 0 → t.host.posted = []) ∧
      t.me.x = s.me.x ∧ t.me.biq = s.me.biq) ∧
  (∀ (s : State) (fm pred succ : BitVec 4) (rd rs1 : BitVec 5), Completes (.fence fm pred succ rd rs1) s fun t =>
    (s.host.posted = [] → t.mem = s.mem) ∧ (pred.toNat.testBit 0 = true → pred.toNat.testBit 2 = true → t.host.posted = []) ∧
      t.me.x = s.me.x ∧ t.me.biq = s.me.biq ∧ t.me.holds = s.me.holds) ∧
  (∀ (s : State) (imm : BitVec 12) (rd rs1 : BitVec 5), Completes (.fenceI imm rd rs1) s fun t =>
    (t.core s.myCore).icache = [] ∧ t.mem = s.mem ∧ t.me.x = s.me.x) ∧
  (∀ s : State, exec .wfi s = .next (if s.me.priv = .u then s.illegal 0x10500073 else s.retire)) ∧
  (∀ (s : State) (rd rs1 rs2 : BitVec 5), s.me.priv ≠ .u → (s.x rs1).toNat < 8 → (s.x rs2).toNat < 256 →
    1 ≤ (s.x rs2).toNat % 8 → (s.x rs2).toNat % 8 ≤ 4 → 16 ≤ (s.x rs2).toNat →
    let h := s.myCore * 8 + (s.x rs1).toNat
    let old := (s.hart h).lgreq + (if (s.hart h).excl then 8 else 0) + (s.hart h).allow * 16
    Completes (.lgset rd rs1 rs2) s fun t => t.me.xr rd.toNat = (if rd = 0 then 0 else BitVec.ofNat 64 old) ∧
      (t.hart h).lgreq = (s.x rs2).toNat % 8 ∧ (t.hart h).excl = (s.x rs2).toNat.testBit 3 ∧
      (t.hart h).allow = (s.x rs2).toNat / 16 % 16 ∧ (t.hart h).grant = (s.hart h).grant)

/-- vsetl forms the grant, sets vl, vlmax and vcfg, and returns VL; a reserved configuration traps (R99, R100, R102). -/
def Obligations.VectorSetup : Prop :=
  ∀ (s : State) (rd rs1 : BitVec 5) (cfg : BitVec 12),
    let c := cfg.toNat
    let new := s.newGrant s.cur
    let lost := decide (new ≠ s.me.grant) || decide (c % 4 ≠ (s.me.cs csrVcfg).toNat % 4) || s.me.resumed
    let vlmax := s.vlmaxOf s.myCore new (8 * 2 ^ (c % 4))
    let vl := if rs1 = 0 then vlmax else Nat.min (s.x rs1).toNat vlmax
    (c < 2048 → c / 4 % 8 ≤ 4 → c / 128 % 8 ≤ 4 → s.atVsetl s.cur = false → new ≠ [] → (lost = false ∨ s.me.biq = []) →
      Completes (.vsetl rd rs1 cfg) s fun t =>
        t.me.xr rd.toNat = (if rd = 0 then 0 else BitVec.ofNat 64 vl) ∧ t.me.cs csrVl = BitVec.ofNat 64 vl ∧
        t.me.cs csrVlmax = BitVec.ofNat 64 vlmax ∧ t.me.grant = new ∧ t.me.vlost = lost ∧
        (t.me.cs csrVcfg).toNat % 2048 = c ∧ lgOf t = new.length ∧
        (t.me.cs csrVcfg).toNat / 2048 % 32 = (s.me.cs csrVcfg).toNat / 2048 % 32 ∧
        (lost = false → t.me.v = s.me.v ∧ t.me.p = s.me.p) ∧ t.mem = s.mem) ∧
    (c < 2048 → c / 4 % 8 ≤ 4 → c / 128 % 8 ≤ 4 → s.atVsetl s.cur = false → new = [] → ∃ t, exec (.vsetl rd rs1 cfg) s = .next t ∧
      t.me.wait = some .grant ∧ t.me.pc = s.me.pc ∧ t.me.x = s.me.x) ∧
    (c < 2048 → c / 4 % 8 ≤ 4 → c / 128 % 8 ≤ 4 → s.atVsetl s.cur = true →
      (s.me.biq ≠ [] → exec (.vsetl rd rs1 cfg) s = .next (s.wait .blocks)) ∧
      (s.me.biq = [] → ((s.queueOf s.cur).any fun q => q.sw) = true →
        exec (.vsetl rd rs1 cfg) s = .next ((s.modMe fun x => { x with preempt := none }).except 29 0)) ∧
      (s.me.biq = [] → ((s.queueOf s.cur).any fun q => q.sw) = false → ∃ t, exec (.vsetl rd rs1 cfg) s = .next t ∧
        t.me.save = some ⟨s.me.cs csrCtxbase, 0, false, s.me.pc⟩ ∧ .saveComplete s.cur ∈ t.agenda)) ∧
    (2048 ≤ c ∨ 4 < c / 4 % 8 ∨ 4 < c / 128 % 8 →
      exec (.vsetl rd rs1 cfg) s = .next (s.illegal (wordOf (.vsetl rd rs1 cfg))))

end

namespace Sys2Proof.Claims

open Sys2Proof.Machine

/-- The value that a CSR instruction writes (RISC-V Zicsr): write, set or clear with a register or a 5-bit immediate. -/
def csrValue (s : State) (f3 : BitVec 3) (src : BitVec 5) (old : Word) : Word :=
  let v := if f3.toNat < 4 then s.x src else src.setWidth 64
  if f3.toNat % 4 = 1 then v else if f3.toNat % 4 = 2 then old ||| v else old &&& ~~~v

end Sys2Proof.Claims

section

open Sys2Proof Sys2Proof.Machine Sys2Proof.Claims

/-- A write to vcfg takes RM, FZ, SCOPE, SGR and XSEL, ignores LG, and traps on what R88 forbids (R88). -/
def Obligations.VcfgWrites : Prop :=
  ∀ (s : State) (f3 : BitVec 3) (rd src : BitVec 5), (Instr.vcfgWrite f3 rd src).wf = true →
    let old := s.me.cs csrVcfg
    let v := csrValue s f3 src old
    let legal := fieldOf v 0 2 = fieldOf old 0 2 ∧ fieldOf v 2 3 ≤ 4 ∧ fieldOf v 7 3 ≤ 4 ∧ v.toNat < 2 ^ 19
    (legal → Completes (.vcfgWrite f3 rd src) s fun t =>
      t.me.xr rd.toNat = (if rd = 0 then 0 else old) ∧ t.me.cs csrVcfg = (v &&& ~~~(0x70000 : Word)) ||| (old &&& 0x70000) ∧
      (∀ n, n ≠ csrVcfg → n ≠ 0xB02 → t.me.cs n = s.me.cs n) ∧ t.me.biq.map (·.vcfg) = s.me.biq.map (·.vcfg) ∧ t.mem = s.mem ∧
      t.copies = s.copies ∧ t.net = s.net ∧ t.cores = s.cores) ∧
    (¬legal → exec (.vcfgWrite f3 rd src) s = .next (s.illegal (csrWord 0x800 f3 rd src)) ∧
      (s.illegal (csrWord 0x800 f3 rd src)).me.cs csrVcfg = old)

/-- CSR reads and writes return the register, take the legal values, and trap below the level or on a read-only number (R5, R79, R82, R93, R302, R436). -/
def Obligations.ControlRegistersReadAndWrite : Prop :=
  (∀ (s u : State) (csr : BitVec 12) (f3 : BitVec 3) (rd : BitVec 5) (v : Word), s.csrGet csr.toNat = (u, some v) →
    exec (.csrRead csr f3 rd) s = .next (u.retireX rd v)) ∧
  (∀ (s : State) (csr : BitVec 12) (f3 : BitVec 3) (rd src : BitVec 5), (s.csrGet csr.toNat).2 = none →
    exec (.csrRead csr f3 rd) s = .next (s.illegal (csrWord csr f3 rd 0)) ∧
    exec (.csrWrite csr f3 rd src) s = .next (s.illegal (csrWord csr f3 rd src))) ∧
  (∀ (s : State) (n : Nat), privRank s.me.priv < (if n / 256 % 4 = 2 then 3 else n / 256 % 4) → (s.csrGet n).2 = none) ∧
  (∀ (s u : State) (csr : BitVec 12) (f3 : BitVec 3) (rd src : BitVec 5) (old : Word), s.csrGet csr.toNat = (u, some old) →
    let h := u.me.csrSet csr.toNat (csrValue s f3 src old)
    exec (.csrWrite csr f3 rd src) s = .next (match h with
      | some x => (u.setHart u.cur x).retireX rd old
      | none => s.illegal (csrWord csr f3 rd src)) ∧
    (csr.toNat / 1024 = 3 → h = none)) ∧
  (∀ (s : State) (f3 : BitVec 3) (rd src : BitVec 5), s.me.priv ≠ .u →
    let old := s.lanemap s.cur
    let v := csrValue s f3 src old
    let legal := 1 ≤ fieldOf v 0 3 ∧ fieldOf v 0 3 ≤ 4 ∧ fieldOf v 4 4 ≠ 0 ∧ v.toNat < 65536
    (legal → Completes (.lanemapWrite f3 rd src) s fun t => t.me.xr rd.toNat = (if rd = 0 then 0 else old) ∧
      t.me.lgreq = fieldOf v 0 3 ∧ t.me.excl = v.toNat.testBit 3 ∧ t.me.allow = fieldOf v 4 4 ∧ t.me.grant = s.me.grant) ∧
    (¬legal → exec (.lanemapWrite f3 rd src) s = .next (s.illegal (csrWord 0x5C5 f3 rd src)))) ∧
  (∀ (s : State) (f3 : BitVec 3) (rd src : BitVec 5),
    let old := s.mcfg s.cur
    let v := csrValue s f3 src old
    (v.toNat < 2 ^ 42 → Completes (.mcfgWrite f3 rd src) s fun t => t.me.xr rd.toNat = (if rd = 0 then 0 else old) ∧
      t.mcfg t.cur = (v &&& 0xFFFFFFFFFF) ||| (old &&& 0x30000000000)) ∧
    (2 ^ 42 ≤ v.toNat → exec (.mcfgWrite f3 rd src) s = .next (s.illegal (csrWord 0x808 f3 rd src)))) ∧
  (∀ (s : State) (f3 : BitVec 3) (rd src : BitVec 5), s.me.priv = .m ∨ (s.me.priv = .s ∧ (s.me.cs csrMstatus).toNat.testBit 20 = false) →
    let old := s.me.cs csrSatp
    let v := csrValue s f3 src old
    (s.me.biq ≠ [] → exec (.satpWrite f3 rd src) s = .next (s.wait .blocks)) ∧
    (s.me.biq = [] → Completes (.satpWrite f3 rd src) s fun t => t.me.xr rd.toNat = (if rd = 0 then 0 else old) ∧
      t.me.cs csrSatp = if fieldOf v 60 4 = 0 ∨ fieldOf v 60 4 = 10 then v else old))

/-- Scalar loads and stores move little-endian bytes between memory and x or f registers (R3, R58, R59, R81, R119). -/
def Obligations.ScalarLoadsAndStores : Prop :=
  (∀ (s u : State) (fp : Bool) (f3 : BitVec 3) (rd rs1 : BitVec 5) (imm : BitVec 12) (loc : Nat),
    (Instr.scalarLoad fp f3 rd rs1 imm).wf = true →
    let va := s.x rs1 + sext12 imm
    let n := 2 ^ (f3.toNat % 4)
    ((fp = true → fieldOf (s.me.cs csrMstatus) 13 2 ≠ 0) → (va.toNat % n = 0 ∨ va.toNat % 4096 + n ≤ 4096) → Reaches s .load va n u loc →
      let v := u.loadLines (nodeOf u.myCore) loc n
      let x := leNat (v.sbufOver loc (memBytes v.mem loc n))
      v.poisoned loc n = false → exec (.scalarLoad fp f3 rd rs1 imm) s = .next (
        if fp then (v.modMe fun h => (h.setF rd.toNat (BitVec.ofNat 64 (if n = 4 then x + 0xFFFFFFFF00000000 else x))).fpDirty).retire
        else v.retireX rd (if f3.toNat < 4 then BitVec.ofInt 64 (sint (8 * n) x) else BitVec.ofNat 64 x))) ∧
    (fp = false → va.toNat % n ≠ 0 → 4096 < va.toNat % 4096 + n →
      exec (.scalarLoad fp f3 rd rs1 imm) s = .next (s.except 4 va)) ∧
    (fp = true → fieldOf (s.me.cs csrMstatus) 13 2 = 0 →
      exec (.scalarLoad fp f3 rd rs1 imm) s = .next (s.illegal (wordOf (.scalarLoad fp f3 rd rs1 imm))))) ∧
  (∀ (s u : State) (fp : Bool) (f3 : BitVec 3) (rs1 rs2 : BitVec 5) (imm : BitVec 12) (loc : Nat),
    (Instr.scalarStore fp f3 rs1 rs2 imm).wf = true →
    let va := s.x rs1 + sext12 imm
    let n := 2 ^ (f3.toNat % 4)
    let bytes := leBytes n (if fp then s.me.fr rs2.toNat else s.x rs2).toNat
    ((fp = true → fieldOf (s.me.cs csrMstatus) 13 2 ≠ 0) → (va.toNat % n = 0 ∨ va.toNat % 4096 + n ≤ 4096) →
      (Reaches s .store va n u loc → exec (.scalarStore fp f3 rs1 rs2 imm) s = .next (u.scalarPut loc bytes).retire) ∧
      (s.xlateRange (s.dataCx s.cur) .store va n = (u, .mmio loc) → exec (.scalarStore fp f3 rs1 rs2 imm) s = .next u.retire)) ∧
    (fp = false → va.toNat % n ≠ 0 → 4096 < va.toNat % 4096 + n →
      exec (.scalarStore fp f3 rs1 rs2 imm) s = .next (s.except 6 va)) ∧
    (fp = true → fieldOf (s.me.cs csrMstatus) 13 2 = 0 →
      exec (.scalarStore fp f3 rs1 rs2 imm) s = .next (s.illegal (wordOf (.scalarStore fp f3 rs1 rs2 imm))))) ∧
  (∀ (s : State) (loc : Nat) (bs : List Byte),
    (s.lazy = true → s.scalarPut loc bs = s.modMe fun x => { x with sbuf := x.sbuf ++ [(loc, bs)] }) ∧
    (s.me.sbuf = [] → s.lazy = false → s.scalarPut loc bs = s.store (nodeOf s.myCore) loc bs) ∧
    (s.me.sbuf = [] → s.sbufOver loc bs = bs) ∧
    (∀ l a d k, s.me.sbuf = l ++ [(a, d)] → k < bs.length → a ≤ loc + k → loc + k < a + d.length →
      (s.sbufOver loc bs).getD k 0 = d.getD (loc + k - a) 0)) ∧
  (∀ (s : State) (node loc : Nat) (bs : List Byte), isLocal loc = true → (s.store node loc bs).mem = memPut loc bs s.mem)

/-- lr, sc, the scalar AMOs and sfence.vma complete with the reservation, the memory operation or the dropped translations (R379, R413, R434, R475). -/
def Obligations.ScalarAtomicsAndReservations : Prop :=
  (∀ (s0 u : State) (aq rl : Bool) (f3 : BitVec 3) (rd rs1 rs2 : BitVec 5) (loc : Nat), f3 = 2 ∨ f3 = 3 →
    (s0.x rs1).toNat % 2 ^ f3.toNat = 0 →
    let s := s0.releaseAt (if rl then 4 else 0)
    (Reaches s .load (s.x rs1) (2 ^ f3.toNat) u loc → u.cached loc = true → nodeOf u.myCore < 512 →
      let v := u.cohOwn (nodeOf u.myCore) (lineOf loc)
      v.poisoned loc (2 ^ f3.toNat) = false →
      let w : Word := BitVec.ofInt 64 (sint (8 * 2 ^ f3.toNat) (memNat v.mem loc (2 ^ f3.toNat)))
      exec (.lr aq rl f3 rd rs1) s0 = .next ((v.retireX rd w).modMe fun h => { h with resv := some (lineOf loc, w.toNat) })) ∧
    (Reaches s .store (s.x rs1) (2 ^ f3.toNat) u loc → u.cached loc = true → nodeOf u.myCore < 512 →
      let l := lineOf loc
      let held := (u.me.resv.any fun r => r.1 == l) && (u.ns (nodeOf u.myCore) l == .e || u.ns (nodeOf u.myCore) l == .m)
      let v := if held then u.store (nodeOf u.myCore) loc (leBytes (2 ^ f3.toNat) (u.x rs2).toNat) else u
      exec (.sc aq rl f3 rd rs1 rs2) s0 =
        .next (((v.modMe fun h => { h with resv := none }).answerDelayed (nodeOf u.myCore) l).retireX rd (if held then 0 else 1))) ∧
    (Reaches s .load (s.x rs1) (2 ^ f3.toNat) u loc → u.cached loc = false → exec (.lr aq rl f3 rd rs1) s0 = .next (u.except 5 (s.x rs1))) ∧
    (Reaches s .store (s.x rs1) (2 ^ f3.toNat) u loc → u.cached loc = false → exec (.sc aq rl f3 rd rs1 rs2) s0 = .next (u.except 7 (s.x rs1)))) ∧
  (∀ (s0 : State) (aq rl : Bool) (f3 : BitVec 3) (rd rs1 rs2 : BitVec 5), (f3 = 2 ∨ f3 = 3) → (s0.x rs1).toNat % 2 ^ f3.toNat ≠ 0 →
    let s := s0.releaseAt (if rl then 4 else 0)
    exec (.lr aq rl f3 rd rs1) s0 = .next (s.except 4 (s.x rs1)) ∧ exec (.sc aq rl f3 rd rs1 rs2) s0 = .next (s.except 6 (s.x rs1))) ∧
  (∀ s : State, s.releaseAt 0 = s ∧ (s.host.posted = [] → s.releaseAt 4 = s) ∧ (s.releaseAt 4).host.posted = []) ∧
  (∀ (s0 u : State) (f5 : BitVec 5) (aq rl : Bool) (f3 : BitVec 3) (rd rs1 rs2 : BitVec 5) (loc : Nat),
    (Instr.scalarAmo f5 aq rl f3 rd rs1 rs2).wf = true → (s0.x rs1).toNat % 2 ^ f3.toNat = 0 →
    let s := s0.releaseAt (if rl then 4 else 0)
    let n := 2 ^ f3.toNat
    let w := 8 * n
    let reg (r : BitVec 5) : Nat :=
      if f3 = 4 then (if r = 0 then 0 else (s.x r).toNat + 2 ^ 64 * (s.x (r + 1)).toNat) else (s.x r).toNat % 2 ^ w
    Reaches s .store (s.x rs1) (2 ^ f3.toNat) u loc →
    let mine := isLocal loc || ((u.regionAt loc).isNone && u.cached loc)
    (mine = true → u.poisoned loc n = false →
      let r := u.atomicAt (nodeOf u.myCore) loc (amoCode f5.toNat) n
        (if f5 = 5 then reg rd else (s.x rs2).toNat % 2 ^ w) (if f5 = 5 then reg rs2 else 0)
      exec (.scalarAmo f5 aq rl f3 rd rs1 rs2) s0 = .next (r.1.amoResult rd n r.2)) ∧
    (mine = false → (u.regionAt loc).isSome = true ∨ f5 ≠ 0 ∧ f5 ≠ 1 ∧ f5 ≠ 5 →
      exec (.scalarAmo f5 aq rl f3 rd rs1 rs2) s0 = .next (u.except 7 (s.x rs1))) ∧
    (mine = false → u.regionAt loc = none → f5 = 0 ∨ f5 = 1 ∨ f5 = 5 → ∃ t x y, exec (.scalarAmo f5 aq rl f3 rd rs1 rs2) s0 = .next t ∧
      t.me.wait = some (.host loc (s.x rs1) (amoCode f5.toNat) n x y rd.toNat) ∧ .atomicopCompletion u.cur true ∈ t.agenda ∧
      t.me.pc = s.me.pc ∧ t.mem = u.mem) ∧
    (isLocal loc = true → u.poisoned loc n = false →
    let old := memNat u.mem loc n
    let b := (s.x rs2).toNat % 2 ^ w
    let new := match f5.toNat with
      | 0x00 => (old + b) % 2 ^ w
      | 0x01 => b
      | 0x04 => old ^^^ b
      | 0x05 => if old = reg rd then reg rs2 else old
      | 0x08 => old ||| b
      | 0x0C => old &&& b
      | 0x10 => if sint w old ≤ sint w b then old else b
      | 0x14 => if sint w b ≤ sint w old then old else b
      | 0x18 => Nat.min old b
      | _ => Nat.max old b
    Completes (.scalarAmo f5 aq rl f3 rd rs1 rs2) s0 fun t => t.mem = memPutNat loc n new u.mem ∧
      (f3 = 4 → rd ≠ 0 → t.me.xr rd.toNat = BitVec.ofNat 64 old ∧ t.me.xr (rd.toNat + 1) = BitVec.ofNat 64 (old / 2 ^ 64)) ∧
      (f3 ≠ 4 → t.me.xr rd.toNat = (if rd = 0 then 0 else BitVec.ofInt 64 (sint w old))))) ∧
  (∀ (s : State) (rs1 rs2 : BitVec 5), s.me.priv = .m ∨ (s.me.priv = .s ∧ (s.me.cs csrMstatus).toNat.testBit 20 = false) →
    s.atomInFlight s.myCore = false → Completes (.sfenceVma rs1 rs2) s fun t =>
      t.xlat.tlb = s.xlat.tlb.filter (fun e => !(unitOn s.myCore e.unit &&
        (rs1 = 0 || e.va == (s.x rs1).toNat % 2 ^ 57 / 2 ^ e.lg * 2 ^ e.lg) &&
        (rs2 = 0 || (if (s.x rs2).toNat.testBit 20 then e.tag == .pasid ((s.x rs2).toNat % 2 ^ 20)
          else e.tag == .asid ((s.x rs2).toNat % 65536))))) ∧ t.mem = s.mem ∧ t.me.x = s.me.x)

/-- Traps save the pc, the cause, the value and the status and go to the vector; sret and mret restore them (R80, R82, R85, R117). -/
def Obligations.TrapsAndReturns : Prop :=
  (∀ (s : State) (cause : Nat) (v : Word), s.me.priv ≠ .m ∨ isQuadrille s.cur = true →
    let t := (s.except cause v).me
    let st := s.me.cs csrMstatus
    let st' := t.cs csrMstatus
    if s.me.priv ≠ .m ∧ (s.me.cs csrMedeleg).toNat.testBit cause = true then
      t.cs csrSepc = s.me.pc ∧ t.cs csrScause = BitVec.ofNat 64 cause ∧ t.cs csrStval = v ∧ t.priv = .s ∧
      t.pc = s.me.cs csrStvec &&& ~~~(3 : Word) ∧ st'.toNat.testBit 1 = false ∧ st'.toNat.testBit 5 = st.toNat.testBit 1 ∧
      st'.toNat.testBit 8 = decide (s.me.priv = .s) ∧ t.x = s.me.x ∧ t.biq = s.me.biq
    else
      t.cs csrMepc = s.me.pc ∧ t.cs csrMcause = BitVec.ofNat 64 cause ∧ t.cs csrMtval = v ∧ t.priv = .m ∧
      t.pc = s.me.cs csrMtvec &&& ~~~(3 : Word) ∧ st'.toNat.testBit 3 = false ∧ st'.toNat.testBit 7 = st.toNat.testBit 3 ∧
      fieldOf st' 11 2 = privRank s.me.priv ∧ t.x = s.me.x ∧ t.biq = s.me.biq) ∧
  (∀ (s : State) (w : BitVec 32), exec (.illegalInstruction w) s = .next (s.except 2 (w.setWidth 64))) ∧
  (∀ (s : State) (h code : Nat), s.ev = .interrupt h code → ∃ t, exec .interrupt s = .next t ∧
    (t.hart h).cs csrMip = (s.hart h).cs csrMip ||| ((1 : Word) <<< code) ∧ t.mem = s.mem ∧ (t.hart h).x = (s.hart h).x ∧
    (t.hart h).pc = (s.hart h).pc) ∧
  (∀ s : State, s.me.priv = .m ∨ (s.me.priv = .s ∧ (s.me.cs csrMstatus).toNat.testBit 22 = false) →
    ∃ t, baseStep 0x10200073 s = some t ∧ t.me.pc = s.me.cs csrSepc ∧
      t.me.priv = (if (s.me.cs csrMstatus).toNat.testBit 8 then .s else .u) ∧
      (t.me.cs csrMstatus).toNat.testBit 1 = (s.me.cs csrMstatus).toNat.testBit 5 ∧ (t.me.cs csrMstatus).toNat.testBit 5 = true ∧
      (t.me.cs csrMstatus).toNat.testBit 8 = false ∧ t.me.x = s.me.x) ∧
  (∀ s : State, s.me.priv = .m → ∃ t, baseStep 0x30200073 s = some t ∧ t.me.pc = s.me.cs csrMepc ∧
    t.me.priv = (if fieldOf (s.me.cs csrMstatus) 11 2 = 3 then .m else if fieldOf (s.me.cs csrMstatus) 11 2 = 1 then .s else .u) ∧
    (t.me.cs csrMstatus).toNat.testBit 3 = (s.me.cs csrMstatus).toNat.testBit 7 ∧ (t.me.cs csrMstatus).toNat.testBit 7 = true ∧
    fieldOf (t.me.cs csrMstatus) 11 2 = 0 ∧ t.me.x = s.me.x)

end

namespace Sys2Proof.Claims

open Sys2Proof.Machine

/-- A matrix command enters the queue of the core, in issue order (R306). -/
def Queued (s : State) (c : MatCmd) (t : State) : Prop :=
  (t.mat s.myCore).queue = (s.mat s.myCore).queue ++ [(s.cur, s.me.seq, c)] ∧ (t.mat s.myCore).cells = (s.mat s.myCore).cells ∧
    (t.mat s.myCore).slots = (s.mat s.myCore).slots ∧ t.agenda = s.agenda ++ [.matrixCmdRetire s.myCore] ∧ t.mem = s.mem ∧ t.me.x = s.me.x

/-- The hart owns its core's engine and its matrix state is live (R301). -/
def Live (s : State) : Prop := (s.mat s.myCore).owner = some s.cur ∧ (s.mat s.myCore).en = true

/-- The operand word of a `mop` breaks one of the limits of R317. -/
def MopRefused (fmt : Nat) (i32 : Bool) (w : Nat) : Prop :=
  let k := w / 2 ^ 16 % 1024
  let ak0 := w / 2 ^ 26 % 1024
  let bk0 := w / 2 ^ 36 % 1024
  let ss := w / 2 ^ 10 % 32
  w / 2 ^ 15 % 2 ≠ 0 ∨ 2 ^ 46 ≤ w ∨ k = 0 ∨ k % (if fmt = 0 ∨ fmt = 1 then 1 else if fmt = 6 then 4 else 2) ≠ 0 ∨
    (if fmt ≤ 1 then 128 else if fmt = 4 ∨ fmt = 5 then 320 else if fmt = 6 then 512 else 256) < ak0 + k ∨
    (if fmt ≤ 1 then 256 else if fmt = 4 ∨ fmt = 5 then 672 else if fmt = 6 then 1024 else 512) < bk0 + k ∨
    (ss ≠ 0 ∧ fmt ≤ 1) ∨ (2 ≤ fmt ∧ (ak0 % 32 ≠ 0 ∨ bk0 % 32 ≠ 0)) ∨ (i32 = true ∧ fmt ≠ 7)

end Sys2Proof.Claims

section

open Sys2Proof Sys2Proof.Machine Sys2Proof.Claims

/-- mzero needs OWN and EN, queues a command, and the command sets every cell of the tile to 0 (R312). -/
def Obligations.MzeroClearsItsTile : Prop :=
  (∀ (s : State) (t : BitVec 3),
    (Live s → (s.mat s.myCore).queue.length < 16 → Completes (.mzero t) s (Queued s (.zero t.toNat))) ∧
    (Live s → 16 ≤ (s.mat s.myCore).queue.length → exec (.mzero t) s = .next (s.wait .commands)) ∧
    ((s.mat s.myCore).owner ≠ some s.cur → exec (.mzero t) s = .next (s.except 30 1)) ∧
    ((s.mat s.myCore).owner = some s.cur → (s.mat s.myCore).en = false → exec (.mzero t) s = .next (s.except 30 2))) ∧
  (∀ (m : Matrix) (t : Nat), (∀ r c, r < 64 → c < 32 → (m.run (.zero t)).cell t r c = 0) ∧
    (∀ u r c, u ≠ t → r < 64 → c < 32 → (m.run (.zero t)).cell u r c = m.cell u r c) ∧ (m.run (.zero t)).slots = m.slots ∧
    (m.run (.zero t)).erows = m.erows ∧ (m.run (.zero t)).ecols = m.ecols) ∧
  (∀ (s : State) (ci h q : Nat) (c : MatCmd) (rest : List (Nat × Nat × MatCmd)), s.ev = .matrixCmdRetire ci →
    (s.mat ci).queue = (h, q, c) :: rest → s.heldBack h strM q = false → (s.mat ci).reads c = false →
    ∃ t, exec .matrixCmdRetire s = .next t ∧
      t.mat ci = { (s.mat ci).run c with queue := rest } ∧ t.mem = s.mem ∧ t.harts = s.harts)

/-- mclaim, mrel, menable, mdisable and mstat complete with ownership, live state and the status they report (R302, R303, R305, R307, R308, R309, R310, R319). -/
def Obligations.MatrixOwnershipAndStatus : Prop :=
  (∀ (s : State) (rd : BitVec 5), let m := s.mat s.myCore
    (m.owner = some s.cur → exec (.mclaim rd) s = .next (s.retireX rd 1)) ∧
    let turn := m.owner = none ∧ m.resv = none ∧ s.slotsBusy s.myCore = false ∧
      ∀ w, (s.matWaiters s.myCore).head? = some w → w = s.cur
    (turn → Completes (.mclaim rd) s fun t => (t.mat s.myCore).owner = some s.cur ∧
      (t.mat s.myCore).en = false ∧ (t.mat s.myCore).cells = m.cells ∧ t.me.xr rd.toNat = if rd = 0 then 0 else 1) ∧
    (¬turn → m.owner ≠ some s.cur → s.me.timedOut = false → ∃ t, exec (.mclaim rd) s = .next t ∧
      t.me.wait = some .matrix ∧ s.cur ∈ (t.mat s.myCore).waiters ∧ (t.mat s.myCore).owner = m.owner ∧ t.me.pc = s.me.pc) ∧
    (¬turn → m.owner ≠ some s.cur → s.me.timedOut = true → exec (.mclaim rd) s = .next (s.retireX rd 0))) ∧
  (∀ s : State, let m := s.mat s.myCore
    (m.owner ≠ some s.cur → exec .mrel s = .next s.retire ∧ exec .mdisable s = .next s.retire ∧ exec .menable s = .next (s.except 30 1)) ∧
    (m.owner = some s.cur → m.en = true → exec .mrel s = .next (s.except 30 3) ∧ exec .menable s = .next s.retire) ∧
    (m.owner = some s.cur → m.en = false → s.slotCopies s.cur = false → s.me.biq = [] →
      Completes .mrel s fun t => (t.mat s.myCore).owner = none ∧ (t.mat s.myCore).en = false ∧ t.mem = s.mem) ∧
    (m.owner = some s.cur → m.en = false → s.slotCopies s.cur = true ∨ s.me.biq ≠ [] → exec .mrel s = .next (s.wait .commands)) ∧
    (Live s → s.matPending s.cur ≠ 0 ∨ s.slotCopies s.cur = true ∨ s.me.biq ≠ [] → exec .mdisable s = .next (s.wait .commands)) ∧
    (m.owner = some s.cur → m.en = false → exec .mdisable s = .next s.retire) ∧
    (m.owner = some s.cur → m.en = false → Completes .menable s fun t => let m' := t.mat s.myCore
      m'.en = true ∧ m'.owner = some s.cur ∧ (∀ k, k < 8 → m'.rows k = 64 ∧ m'.cols k = 32) ∧
      t.mcfg t.cur = 0x3FFFFFFFFFF ∧ m'.last = some (s.pasidOf s.cur) ∧
      (if m.last = some (s.pasidOf s.cur) then m'.cells = m.cells ∧ m'.slots = m.slots else m'.cells = [] ∧ m'.slots = [])) ∧
    (Live s → s.matPending s.cur = 0 → s.slotCopies s.cur = false → s.me.biq = [] → Completes .mdisable s fun t =>
      (t.mat s.myCore).en = false ∧ (t.mat s.myCore).owner = some s.cur ∧ (t.mat s.myCore).cells = m.cells ∧ (t.mat s.myCore).slots = m.slots)) ∧
  (∀ (s : State) (rd rs1 : BitVec 5), let a := (s.x rs1).toNat
    let status : Word := BitVec.ofNat 64 ((if s.matEn s.cur then 1 else 0) + (if s.matOwn s.cur then 2 else 0) + 4 * s.matPending s.cur)
    (a = 0 → exec (.mstatStatus rd rs1) s = .next (s.retireX rd status)) ∧
    (a = 1 → exec (.mstatDrain rd rs1) s = .next (if s.matPending s.cur = 0 then s.retireX rd status else s.wait .commands)) ∧
    (2 ≤ a → a ≤ 9 → exec (.mstatEdge rd rs1) s = .next (if s.matEn s.cur then
      (let e := tget (64, 32) (s.mat s.myCore).issuedEdge (a - 2)
       s.retireX rd (BitVec.ofNat 64 (e.1 + 256 * e.2))) else s.except 30 2)) ∧
    (9 < a → exec (s.selectRow (.mstatStatus rd rs1)) s = .next (s.except 30 4)))

/-- medge and mop check their operands, queue their command, and the engine runs it on the tile as R313 and R318 say (R305, R306, R313, R314, R317, R318). -/
def Obligations.MatrixCommands : Prop :=
  (∀ (s : State) (t : BitVec 3) (rs1 rs2 : BitVec 5), let r := (s.x rs1).toNat
    let c := (s.x rs2).toNat
    (Live s → 1 ≤ r → r ≤ 64 → 1 ≤ c → c ≤ 32 → (s.mat s.myCore).queue.length < 16 →
      Completes (.medge t rs1 rs2) s fun u => Queued s (.edge t.toNat r c) u ∧ tget (64, 32) (u.mat s.myCore).issuedEdge t.toNat = (r, c)) ∧
    (Live s → 1 ≤ r → r ≤ 64 → 1 ≤ c → c ≤ 32 → 16 ≤ (s.mat s.myCore).queue.length →
      exec (.medge t rs1 rs2) s = .next (s.wait .commands)) ∧
    (Live s → (r = 0 ∨ 64 < r ∨ c = 0 ∨ 32 < c) → exec (.medge t rs1 rs2) s = .next (s.except 30 4)) ∧
    ((s.mat s.myCore).owner ≠ some s.cur → exec (.medge t rs1 rs2) s = .next (s.except 30 1)) ∧
    ((s.mat s.myCore).owner = some s.cur → (s.mat s.myCore).en = false → exec (.medge t rs1 rs2) s = .next (s.except 30 2))) ∧
  (∀ (s : State) (fmt : BitVec 3) (i32 : BitVec 1) (t : BitVec 3) (rs1 : BitVec 5),
    (Live s → ¬MopRefused fmt.toNat (i32 == 1) (s.x rs1).toNat → (s.mat s.myCore).queue.length < 16 →
      Completes (.mop fmt i32 t rs1) s (Queued s (.op fmt.toNat (i32 == 1) t.toNat (s.x rs1)))) ∧
    (Live s → ¬MopRefused fmt.toNat (i32 == 1) (s.x rs1).toNat → 16 ≤ (s.mat s.myCore).queue.length →
      exec (.mop fmt i32 t rs1) s = .next (s.wait .commands)) ∧
    (Live s → MopRefused fmt.toNat (i32 == 1) (s.x rs1).toNat → exec (.mop fmt i32 t rs1) s = .next (s.except 30 4)) ∧
    ((s.mat s.myCore).owner ≠ some s.cur → exec (.mop fmt i32 t rs1) s = .next (s.except 30 1)) ∧
    ((s.mat s.myCore).owner = some s.cur → (s.mat s.myCore).en = false → exec (.mop fmt i32 t rs1) s = .next (s.except 30 2))) ∧
  (∀ (m : Matrix) (t r c : Nat), (m.run (.edge t r c)).rows t = r ∧ (m.run (.edge t r c)).cols t = c ∧ (m.run (.edge t r c)).cells = m.cells ∧
    ∀ u, u ≠ t → (m.run (.edge t r c)).rows u = m.rows u ∧ (m.run (.edge t r c)).cols u = m.cols u) ∧
  (∀ (s : State) (ci h q : Nat) (c : MatCmd) (rest : List (Nat × Nat × MatCmd)), s.ev = .matrixCmdRetire ci →
    (s.mat ci).queue = (h, q, c) :: rest →
    (s.heldBack h strM q = true → exec .matrixCmdRetire s = .next (s.due [.matrixCmdRetire ci])) ∧
    (s.heldBack h strM q = false → (s.mat ci).reads c = true → ∃ t, exec .matrixCmdRetire s = .next t ∧
      t.mat ci = (s.mat ci).start c ∧ t.agenda = s.agenda ++ [.matrixCmdRetire ci] ∧ t.mem = s.mem ∧ t.harts = s.harts)) ∧
  (∀ (m : Matrix) (fmt : Nat) (i32 : Bool) (t : Nat) (w : Word) (u r c : Nat), m.rows t ≤ 64 → m.cols t ≤ 32 → r < 64 → c < 32 → u < 8 → t < 8 →
    ((m.start (.op fmt i32 t w)).run (.op fmt i32 t w)).cell u r c =
      if u = t ∧ r < m.rows t ∧ c < m.cols t then m.mopCell fmt i32 t w r c else m.cell u r c) ∧
  (∀ (m : Matrix) (t : Nat) (w : Word) (r c : Nat), w.toNat / 2 ^ 16 % 1024 = 2 →
    let o := opWord w.toNat
    let p (j : Nat) : Int := sint 8 (m.elem 7 o.as 64 (o.ak0 + j) r) * sint 8 (m.elem 7 o.bs 32 (o.bk0 + j) c)
    (m.mopCell 7 true t w r c).toNat = (((m.cell t r c).toNat + (p 0 + p 1)) % (2 ^ 32 : Nat)).toNat) ∧
  (∀ (m : Matrix) (fmt t : Nat) (w : Word) (r c : Nat), fmt < 2 → w.toNat / 2 ^ 16 % 1024 = 1 →
    let o := opWord w.toNat
    let f := if fmt = 0 then bf16 else fp16
    let x := f.read false (m.elem fmt o.as 128 o.ak0 r)
    let y := f.read false (m.elem fmt o.bs 64 o.bk0 c)
    (m.mopCell fmt false t w r c).toNat =
      match (FV.mul x y).bind fun p => FV.add 0 (fp32.read false (m.cell t r c).toNat) p with
      | some v => (fp32.rnd rneEnv v).1 % 2 ^ 32
      | none => fp32.nan)

end

namespace Sys2Proof.Claims

open Sys2Proof.Machine

/-- The trap value of a refused command is 0 (R29). -/
def Refused (s : State) : State := s.except 25 0

end Sys2Proof.Claims

section

open Sys2Proof Sys2Proof.Machine Sys2Proof.Claims

/-- cpy and cpy2 issue a copy, its chunks move their bytes, and the landing of the last one completes it (R281, R282, R285, R286, R288, R290, R293). -/
def Obligations.CopiesIssueMoveAndLand : Prop :=
  (∀ (s : State) (rd rs1 rs2 rs3 : BitVec 5) (two : Bool),
    let i := if two then Instr.cpy2 rd rs1 rs2 rs3 else .cpy rd rs1 rs2 rs3
    let c := s.newCopy two (s.x rs1) (s.x rs2) (s.x rs3)
    (s.copyBad two (s.x rs3) c = true → exec i s = .next (Refused s)) ∧
    (s.copyBad two (s.x rs3) c = false → 16 ≤ s.openCopies s.cur → exec i s = .next (s.wait .commands)) ∧
    (s.copyBad two (s.x rs3) c = false → s.openCopies s.cur < 16 → Completes i s fun t =>
      t.me.xr rd.toNat = (if rd = 0 then 0 else BitVec.ofNat 64 s.me.ctag) ∧ t.me.ctag = (s.me.ctag + 1) % 65536 ∧
      t.copies.lookup s.tqe.stamp = some c ∧ c.dst = s.x rs1 ∧ c.src = s.x rs2 ∧ c.len = (s.x rs3).toNat % 2 ^ 32 ∧
      c.rows = (if two then (s.me.cs csrCpyshape).toNat % 2 ^ 20 else 1) ∧ c.landed = [] ∧ c.started = [] ∧ c.state = .running ∧
      t.agenda = s.agenda ++ (List.range ((c.rows * c.len + 511) / 512)).map (.copyChunkExecute s.tqe.stamp) ∧ t.mem = s.mem)) ∧
  (∀ (s : State) (id k : Nat) (c : Copy), s.ev = .copyChunkExecute id k → s.copies.lookup id = some c → c.state = .running → c.code = 0 →
    k ∉ c.started →
    (s.chunkReady id k = false → exec .copyChunkExecute s = .next (s.due [.copyChunkExecute id k])) ∧
    (s.chunkReady id k = true → ∀ src dst s2 s4,
      let u := (s.releaseAt (if c.rel then 4 else 0)).chunkUnit c k
      let ps := c.pieces k
      State.pieceLocs (c.cx u.2) .load (ps.map fun p => (p.1, p.2.2)) u.1 = (s2, .ok src) →
      let s3 := src.foldl (fun s p => s.loadLines noNode p.1 p.2) s2
      let bytes := (src.map fun p => memBytes s3.mem p.1 p.2).flatten
      s3.poisonAt src = none → (∀ p ∈ src, s3.stuck (dieOf c.core) p.1 p.2 = false) →
      let moved (t : State) := (t.modCopy id fun c => { c with started := k :: c.started }).due [.chunkLand id k]
      (∀ n, c.slot = some n →
        exec .copyChunkExecute s = .next (moved (s3.modMat c.eng fun m => m.setSlot n (c.dst.toNat + k * 512) bytes))) ∧
      (c.slot = none → State.pieceLocs (c.cx u.2) .store (ps.map fun p => (p.2.1, p.2.2)) s3 = (s4, .ok dst) →
        (∀ p ∈ dst, s4.stuck (dieOf c.core) p.1 p.2 = false) → exec .copyChunkExecute s = .next (moved (s4.writeLocs dst bytes))))) ∧
  (∀ (m : Matrix) (n o : Nat) (bs : List Byte) (n' o' : Nat), n' < 32 → o' < 16384 → o + bs.length ≤ 16384 → (m.setSlot n o bs).byte n' o' =
    if n' = n ∧ o ≤ o' ∧ o' < o + bs.length then (bs.getD (o' - o) 0).toNat else m.byte n' o') ∧
  (∀ (s : State) (id k : Nat) (c : Copy), s.ev = .chunkLand id k → s.copies.lookup id = some c → k ∈ c.started → k ∉ c.landed → c.code = 0 →
    cspecKind c.cspec.toNat = 0 → ∃ t, exec .chunkLand s = .next t ∧ t.mem = s.mem ∧ t.harts = s.harts ∧
      t.copies.lookup id = if c.landed.length + 1 = c.chunks then none else some { c with landed := k :: c.landed }) ∧
  (∀ (s : State) (id k : Nat) (c : Copy), s.ev = .chunkLand id k → s.copies.lookup id = some c → k ∈ c.started → k ∉ c.landed →
    cspecKind c.cspec.toNat ≠ 0 → cspecKind c.cspec.toNat ≠ 2 → c.landed.length + 1 = c.chunks →
    exec .chunkLand s = .next (((s.modCopy id fun c => { c with landed := k :: c.landed }).fireOnce
      (c.cx (unitStreamer (dieOf c.core * 80 + c.core % 128 % 80))) c.cspec.toNat).1.dropCopy id))

/-- The five cpyq rows answer the state, retry, abandon, list and locate suspended copies by tag (R293, R294, R295, R296, R297). -/
def Obligations.CopiesAreQueriedRetriedAndAbandoned : Prop :=
  ∀ (s : State) (rd rs1 rs2 : BitVec 5),
    let n := (s.x rs2).toNat
    let tag := (s.x rs1).toNat % 65536
    let found := s.copies.find? fun c => c.2.mine s.cur s.me.inst && c.2.tag == tag
    let stopped := found.bind fun c => if c.2.state = .suspended then some c else none
    (n = 0 → exec (.cpyqState rd rs1 rs2) s = .next (s.retireX rd (match (found.map fun c : Nat × Copy => c.2.state : Option CopyState) with
      | some .running => 1
      | some .parked => 2
      | some .suspended => 3
      | _ => 0))) ∧
    (n = 1 → exec (.cpyqRetry rd rs1 rs2) s = .next (match stopped with
      | some c => ((s.resendCopy c.1).tableFreed).retireX rd 1
      | none => s.retireX rd 0)) ∧
    (∀ c, n = 1 → stopped = some c → ∃ t, exec (.cpyqRetry rd rs1 rs2) s = .next t ∧
      ∃ e, t.copies.lookup c.1 = (s.copies.lookup c.1).map fun x =>
        { x with state := .running, code := 0, faddr := 0, pflag := false, started := x.landed, eng := e }) ∧
    (n = 2 → exec (.cpyqAbandon rd rs1 rs2) s = .next (match stopped with
      | some c => (s.dropCopy c.1).retireX rd 1
      | none => s.retireX rd 0)) ∧
    (∀ c, n = 2 → stopped = some c → ∃ t, exec (.cpyqAbandon rd rs1 rs2) s = .next t ∧ t.copies.lookup c.1 = none) ∧
    (n = 3 → exec (.cpyqNext rd rs1 rs2) s = .next (s.retireX rd
      (match s.copies.find? fun c => c.2.mine s.cur s.me.inst && c.2.state == .suspended with
      | none => 0
      | some (_, c) => BitVec.ofNat 64 (c.tag + c.code * 2 ^ 16 + (c.chunks - c.landed.length) % 2 ^ 32 * 2 ^ 24 +
          (if c.pflag then 2 ^ 62 else 0) + 2 ^ 63)))) ∧
    (n = 4 → exec (.cpyqFaddr rd rs1 rs2) s = .next (s.retireX rd ((stopped.map fun c => c.2.faddr).getD 0))) ∧
    (4 < n → exec (s.selectRow (.cpyqState rd rs1 rs2)) s = .next (Refused s))

/-- rpub, racq, rwin, rview and ldbw complete with the round, the window, the floor and the bounded doubleword (R406, R407, R408, R413, R414, R418, R419, R420, R421, R422). -/
def Obligations.RoundInstructions : Prop :=
  (∀ (s u : State) (rd rs1 : BitVec 5) (k : BitVec 3) (loc rid : Nat) (g : Region), (s.x rs1).toNat % 32 = 0 →
    Reaches s .load (s.x rs1) 1 u loc → u.regionDesc loc (u.pasidOf u.cur) = some (rid, g) →
    ((∀ r d, s.me.wait ≠ some (.publish r d)) →
      (u.me.biq = [] → let v := u.releaseAt (Nat.max (fieldOf (u.me.cs csrVcfg) 7 3) g.scope)
        exec (.rpub rd rs1) s = .next ((v.wait (.publish rid rd.toNat)).publish rid (.hart u.cur)) ∧
        (((v.wait (.publish rid rd.toNat)).publish rid (.hart u.cur)).me.wait = some (.publish rid rd.toNat))) ∧
      (u.me.biq ≠ [] → exec (.rpub rd rs1) s = .next (u.wait .blocks))) ∧
    (Completes (.racq rd rs1 k) s fun t => t.me.xr rd.toNat = (if rd = 0 then 0 else BitVec.ofNat 64 g.round) ∧
      (t.me.window k.toNat).w1 = BitVec.ofNat 64 g.round ∧ (t.me.window k.toNat).valid = true ∧
      (rid < 1024 → (t.me.window k.toNat).rid = rid) ∧ ∀ j, j ≠ k.toNat → t.me.window j = u.me.window j)) ∧
  (∀ (s : State) (rd rs1 : BitVec 5) (rid r : Nat), s.me.wait = some (.publish rid r) →
    exec (.rpub rd rs1) s = .next (s.wait (.publish rid r))) ∧
  (∀ (s u : State) (rd rs1 : BitVec 5) (k : BitVec 3) (loc : Nat), Reaches s .load (s.x rs1) 1 u loc →
    (s.x rs1).toNat % 32 ≠ 0 ∨ u.regionDesc loc (u.pasidOf u.cur) = none →
    exec (.racq rd rs1 k) s = .next (u.cmdFault (s.x rs1)) ∧
    ((∀ r d, s.me.wait ≠ some (.publish r d)) → exec (.rpub rd rs1) s = .next (u.cmdFault (s.x rs1)))) ∧
  (∀ (s : State) (rd rs1 rs2 : BitVec 5) (k : BitVec 3) (lag : Bool),
    let i := if lag then Instr.rwinLag rd rs1 rs2 k else .rwinAbs rd rs1 rs2 k
    let old := s.me.window k.toNat
    let a := (s.x rs1).toNat
    (rs1 = 0 → Completes i s fun t => t.me.xr rd.toNat = (if rd = 0 then 0 else old.w0) ∧ (t.me.window k.toNat).valid = false ∧
      (t.me.window k.toNat).w1 = old.w1) ∧
    (rs1 ≠ 0 → a / 1024 % 2 ^ 22 = 0 → Completes i s fun t => t.me.xr rd.toNat = (if rd = 0 then 0 else old.w0) ∧
      let w := t.me.window k.toNat
      w.valid = true ∧ w.rid = a % 1024 ∧ fieldOf w.w0 10 1 = (if lag then 1 else 0) ∧ fieldOf w.w0 11 1 = 0 ∧
      fieldOf w.w0 32 32 = (s.x rs2).toNat % 2 ^ 32 ∧ w.w1.toNat = a / 2 ^ 32 ∧
      w.floor = if lag then (a / 2 ^ 32 + 2 ^ 32 - (s.x rs2).toNat % 2 ^ 32) % 2 ^ 32 else (s.x rs2).toNat % 2 ^ 32) ∧
    (rs1 ≠ 0 → a / 1024 % 2 ^ 22 ≠ 0 → exec i s = .next (s.illegal (wordOf i)))) ∧
  (∀ (s : State) (rd rs1 rs2 : BitVec 5), let n := (s.x rs2).toNat
    let w := s.me.window ((s.x rs1).toNat % 8)
    (n = 0 → exec (.rviewV rd rs1 rs2) s = .next (s.retireX rd (match s.region ((s.x rs1).toNat % 1024) with
      | some g => BitVec.ofNat 64 (g.viewOf (if hartDie s.cur < 4 then hartDie s.cur else 0))
      | none => 0))) ∧
    (n = 1 → exec (.rviewFloor rd rs1 rs2) s = .next (s.retireX rd (if w.valid then BitVec.ofNat 64 w.floor else 0))) ∧
    (n = 2 → exec (.rviewWord0 rd rs1 rs2) s = .next (s.retireX rd w.w0)) ∧
    (n = 3 → exec (.rviewWord1 rd rs1 rs2) s = .next (s.retireX rd w.w1)) ∧
    (3 < n → exec (s.selectRow (.rviewV rd rs1 rs2)) s = .next (Refused s))) ∧
  (∀ (s u : State) (rd rs1 : BitVec 5) (k : BitVec 3) (loc : Nat),
    ((s.x rs1).toNat % 8 ≠ 0 → exec (.ldbw rd rs1 k) s = .next (s.except 4 (s.x rs1))) ∧
    ((s.x rs1).toNat % 8 = 0 → s.xlateRange (s.dataCx s.cur) .load (s.x rs1) 8 = (u, .ok loc) →
      (u.readSensitive loc = true → exec (.ldbw rd rs1 k) s = .next (u.except 5 (s.x rs1))) ∧
      (u.readSensitive loc = false →
        let late := match u.bound u.cur k.toNat loc with | some (_, f) => if u.me.timedOut then [(lineOf loc, f)] else [] | none => []
        let v := (u.loadLines (nodeOf u.myCore) loc 8).boundAsk u.cur k.toNat loc 0 late
        let r := v.boundServe v.cur k.toNat loc 8
        v.poisoned loc 8 = false →
        (v.boundStalls v.cur k.toNat loc late = true → exec (.ldbw rd rs1 k) s = .next (v.wait (.stall (lineOf loc)))) ∧
        (v.boundStalls v.cur k.toNat loc late = false →
          exec (.ldbw rd rs1 k) s = .next (r.1.retireX rd (BitVec.ofNat 64 (leNat r.2)))) ∧
        (v.bound v.cur k.toNat loc = none → v.boundStalls v.cur k.toNat loc late = false ∧
          r = (v, memBytes v.mem loc 8))))) ∧
  (∀ (s : State) (h k pa n rid f rnd : Nat) (data : List Byte), s.bound h k pa = some (rid, f) →
    s.rounds.copies.lookup (nkey (coreOf h) (lineOf pa)) = some (rnd, data) →
    let r := s.boundServe h k pa n
    r.2 = (data.drop (pa % 128)).take n ∧ r.1.mem = s.mem ∧
    ((rnd + 2 ^ 32 - f % 2 ^ 32) % 2 ^ 32 < 2 ^ 31 → s.boundStalls h k pa [] = false ∧ (r.1.hart h).window k = (s.hart h).window k) ∧
    (¬(rnd + 2 ^ 32 - f % 2 ^ 32) % 2 ^ 32 < 2 ^ 31 → s.boundStalls h k pa [] = true ∧
      ((r.1.hart h).window k).w0 = ((s.hart h).window k).w0 ||| 0x800 ∧ ((r.1.hart h).window k).w1 = ((s.hart h).window k).w1))

/-- nsend, nwrite, nread, nfence and nstat complete with the tag, the fence count and the reports (R448, R449, R452, R453, R454, R455). -/
def Obligations.NetworkInstructions : Prop :=
  (∀ (s : State) (rd rs1 rs2 : BitVec 5), ∀ p ∈ [(Instr.nsend rd rs1 rs2, 0), (Instr.nwrite rd rs1 rs2, 1), (Instr.nread rd rs1 rs2, 2)],
    let m := s.newMsg p.2 (s.x rs1) (s.x rs2)
    let nep := s.me.cs csrNep
    (msgBad (s.x rs2) m = true → exec p.1 s = .next (Refused s)) ∧
    (msgBad (s.x rs2) m = false → 64 ≤ s.openMsgs.length → exec p.1 s = .next (s.wait .commands)) ∧
    (msgBad (s.x rs2) m = false → s.openMsgs.length < 64 → m.kind = p.2 ∧ m.lep = fieldOf nep 0 12 ∧ m.peer = fieldOf nep 16 16 ∧
      m.rkey = fieldOf nep 32 16 ∧ m.rva = (s.me.cs csrNrva).toNat ∧ m.va = s.x rs1 ∧ m.len = (s.x rs2).toNat % 2 ^ 32 ∧ m.tag = s.me.ntag ∧
      ∃ t : State, t.net.msgs.lookup s.tqe.stamp = some m ∧ t.me.xr rd.toNat = (if rd = 0 then 0 else BitVec.ofNat 64 s.me.ntag) ∧
        t.me.ntag = (s.me.ntag + 1) % 65536 ∧ t.me.pc = s.me.pc + BitVec.ofNat 64 s.ilen ∧ t.mem = s.mem ∧
        exec p.1 s = .next (t.tryMsg s.tqe.stamp))) ∧
  (∀ (s : State) (rd rs1 : BitVec 5), let sel := (s.x rs1).toNat
    let w := (s.openMsgs.filter fun m => sel == 0 || m.2.lep == sel % 4096).map (·.1)
    (sel ≠ 0 → sel / 4096 ≠ 1 → exec (.nfence rd rs1) s = .next (Refused s)) ∧
    (sel = 0 ∨ sel / 4096 = 1 → exec (.nfence rd rs1) s = .next (if w = [] then s.retireX rd 0
      else { s with net := { s.net with fences := s.net.fences ++ [(⟨s.cur, s.me.inst, s.me.seq, w, 0, rd.toNat⟩ : NFence)] } }.retire))) ∧
  (∀ (s : State) (rd rs1 rs2 : BitVec 5), let n := (s.x rs2).toNat
    let key := match s.me.inst with | some i => i | none => 2 ^ 64 + s.cur
    (n = 0 → exec (.nstatState rd rs1 rs2) s = .next (s.retireX rd
      (((s.openMsgs.find? fun m => m.2.tag == (s.x rs1).toNat % 65536).map fun m => BitVec.ofNat 64 m.2.state).getD 0))) ∧
    (n = 1 → exec (.nstatNext rd rs1 rs2) s = .next (match s.net.fails.find? fun f => f.1 == key with
      | some f => { s with net := { s.net with fails := s.net.fails.erase f } }.retireX rd (BitVec.ofNat 64 (2 ^ 63 + f.2.2 * 2 ^ 16 + f.2.1))
      | none => s.retireX rd 0)) ∧
    (n = 2 → exec (.nstatPending rd rs1 rs2) s = .next (s.retireX rd (BitVec.ofNat 64 s.openMsgs.length))) ∧
    (n = 3 → exec (.nstatCtva rd rs1 rs2) s = .next (s.retireX rd (match s.net.eps.lookup ((s.x rs1).toNat % 4096) with
      | some e => if e.pasid = s.pasidOf s.cur then BitVec.ofNat 64 e.ctva else 0
      | none => 0))) ∧
    (n = 4 → exec (.nstatPtp rd rs1 rs2) s = .next (s.retireX rd (BitVec.ofNat 64 (tget 0 s.net.ptp (hartDie s.cur))))) ∧
    (4 < n → exec (s.selectRow (.nstatState rd rs1 rs2)) s = .next (Refused s)))

end

namespace Sys2Proof.Claims

open Sys2Proof.Machine

/-- A live queue of the executing hart's PASID (R366). -/
def OwnQueue (s : State) (n : Nat) (q : Queue) : Prop := 1 ≤ n ∧ n ≤ 4095 ∧ s.queue n = some q ∧ q.pasid = s.pasidOf s.cur

/-- The release that a queue instruction makes first, at its SCOPE or at device scope, the wider of the two (R73, R367). -/
def queueRelease (s : State) : State := s.releaseAt (max 3 (fieldOf (s.me.cs csrVcfg) 7 3))

/-- The packet image that a put reads (R336, R367): 64 aligned bytes, with nothing uncommitted and after the release, the hart's own
buffered stores over what memory holds; and the state after the read. -/
def PacketRead (s : State) (rs1 : BitVec 5) (u : State) (m : Image) : Prop :=
  (s.x rs1).toNat % 64 = 0 ∧ s.me.biq = [] ∧ ∃ loc v, Reaches (queueRelease s) .load (s.x rs1) 64 v loc ∧
    u = v.loadLines (nodeOf v.myCore) loc 64 ∧ u.poisoned loc 64 = false ∧ m = imageOf (u.sbufOver loc (memBytes u.mem loc 64))

/-- The instance of the executing hart and its packet. -/
def RunsFor (s : State) (t : Inst) (p : Pkt) : Prop :=
  s.me.inst.bind (fun i => s.tqe.insts.lookup i) = some t ∧ s.tqe.pkts.lookup t.pk = some p

end Sys2Proof.Claims

section

open Sys2Proof Sys2Proof.Machine Sys2Proof.Claims

/-- tqput and tqat complete with the put sequence or with full, closed and refused; tqput answers the loop-back too (R334, R335, R336, R337, R341, R349, R351, R357, R366, R367, R368). -/
def Obligations.PacketsArePutAndTimed : Prop :=
  (∀ (s : State) (rd rs1 rs2 rs3 : BitVec 5), (∀ q, ¬ OwnQueue s (s.x rs2).toNat q) →
    exec (.tqput rd rs1 rs2) s = .next (Refused s) ∧ exec (.tqat rd rs1 rs2 rs3) s = .next (Refused s)) ∧
  (∀ (s u : State) (rd rs1 rs2 rs3 : BitVec 5) (q : Queue) (m : Image), OwnQueue s (s.x rs2).toNat q → PacketRead s rs1 u m →
    let n := (s.x rs2).toNat
    let d := u.partDie q (hartDie u.cur) m
    let p := u.qpart n d
    let put := Instr.tqput rd rs1 rs2
    let at_ := Instr.tqat rd rs1 rs2 rs3
    let now := u.dtimeOf (hartDie u.cur)
    let wheel := u.tqe.wheel.filter fun w => w.die == hartDie u.cur
    (u.packetRefused q m ≠ none → exec put s = .next (Refused u) ∧ exec at_ s = .next (Refused u)) ∧
    (u.packetRefused q m = none → q.state ≠ 0 → exec put s = .next (u.retireX rd 2) ∧ exec at_ s = .next (u.retireX rd 2)) ∧
    (u.packetRefused q m = none → q.state = 0 → p.freeSlot q = none ∨ p.ovfl ≠ [] → exec put s = .next (u.retireX rd 1)) ∧
    (∀ i, u.packetRefused q m = none → q.state = 0 → p.freeSlot q = some i → p.ovfl = [] →
      i < 2 ^ q.caplog ∧ i ∉ p.slots ∧ (∀ j, j < i → j ∈ p.slots) ∧
      ∃ t : State, exec put s = .next (t.retireX rd (BitVec.ofNat 64 (p.seq % 2 ^ 62 * 4))) ∧ (t.qpart n d).seq = p.seq + 1 ∧
        i ∈ (t.qpart n d).slots ∧ ∃ k, t.tqe.pkts.lookup u.tqe.stamp = some k ∧ k.q = n ∧ k.die = d ∧ k.slot = i ∧ k.seq = p.seq ∧ k.img = m) ∧
    (u.packetRefused q m = none → q.state = 0 → 8192 ≤ wheel.length ∨ p.ovfl ≠ [] → exec at_ s = .next (u.retireX rd 1)) ∧
    (u.packetRefused q m = none → q.state = 0 → wheel.length < 8192 → p.ovfl = [] → now < (s.x rs3).toNat →
      ∃ t : State, exec at_ s = .next (t.retireX rd 0) ∧
      t.harts = u.harts ∧ t.mem = u.mem ∧ t.tqe.parts = u.tqe.parts ∧
      t.tqe.wheel = u.tqe.wheel ++ [⟨hartDie u.cur, (s.x rs3).toNat, n, q.pasid, m⟩]) ∧
    (u.packetRefused q m = none → q.state = 0 → wheel.length < 8192 → p.ovfl = [] → (s.x rs3).toNat ≤ now →
      ∃ t : State, exec at_ s = .next (t.retireX rd 0))) ∧
  (∀ (s : State) (rd rs1 rs2 : BitVec 5), (s.x rs2).toNat = 0xFFFFFFFF →
    (s.me.priv ≠ .s ∨ (s.core s.myCore).wall = false ∨ s.cur % 8 ≠ 7 ∨ s.spilledBy s.myCore (s.x rs1).toNat = none →
      exec (.tqputLoopback rd rs1 rs2) s = .next (Refused s)) ∧
    (∀ i, s.me.priv = .s → (s.core s.myCore).wall = true → s.cur % 8 = 7 → s.spilledBy s.myCore (s.x rs1).toNat = some i → s.me.biq = [] →
      (16 ≤ (s.core s.myCore).inbox.length → exec (.tqputLoopback rd rs1 rs2) s = .next (s.retireX rd 1)) ∧
      ((s.core s.myCore).inbox.length < 16 → Completes (.tqputLoopback rd rs1 rs2) s fun t =>
        (t.core s.myCore).spilled = (s.core s.myCore).spilled.erase i ∧
        (t.core s.myCore).inbox = (s.core s.myCore).inbox ++ [{ i with stamp := s.tqe.stamp }] ∧
        (t.core s.myCore).save ≠ none ∧ t.mem = s.mem)))

/-- tqdep, tqdec, tkwait, tkdone and gbar complete with their results, fault where a ticket or group is wrong, and wait otherwise (R114, R115, R356, R359, R360, R361, R369, R370, R371). -/
def Obligations.RecordsTicketsAndGroups : Prop :=
  (∀ (s u : State) (rd rs1 rs2 : BitVec 5) (loc : Nat), (s.x rs1).toNat % 128 = 0 → Reaches s .store (s.x rs1) 128 u loc →
    u.recordPlace loc = true → u.inRegion loc = false → u.me.biq = [] →
    let v := (queueRelease u).recordStep loc
    let count := memNat v.mem loc 4
    let st := memNat v.mem (loc + 12) 4
    (∀ q, OwnQueue s ((s.x rs2).toNat / 2 ^ 32) q → exec (.tqdep rd rs1 rs2) s =
      .next ((v.armRecord loc ((s.x rs2).toNat % 2 ^ 32) ((s.x rs2).toNat / 2 ^ 32) q.pasid).retireX rd (BitVec.ofNat 64 st))) ∧
    exec (.tqdec rd rs1) s = .next ((v.decrementHere loc).retireX rd (BitVec.ofNat 64 (count + st % 8 * 2 ^ 32)))) ∧
  (∀ (s : State) (rd rs1 rs2 : BitVec 5), (s.x rs1).toNat % 128 ≠ 0 → exec (.tqdec rd rs1) s = .next (s.except 25 (s.x rs1)) ∧
    ∀ q, OwnQueue s ((s.x rs2).toNat / 2 ^ 32) q → exec (.tqdep rd rs1 rs2) s = .next (s.except 25 (s.x rs1))) ∧
  (∀ (s : State) (loc count qid pasid : Nat), let st := memNat s.mem (loc + 12) 4
    (st = 1 ∨ st = 3 → s.armRecord loc count qid pasid = s) ∧
    (st ≠ 1 → st ≠ 3 → count ≠ 0 → (s.armRecord loc count qid pasid).mem = memPut loc (leBytes 4 count ++ leBytes 4 0 ++ leBytes 4 qid ++
      leBytes 4 1 ++ leBytes 8 0 ++ leBytes 4 pasid) s.mem) ∧
    (st ≠ 1 → (s.decrementHere loc).mem = memPutNat (loc + 4) 4 (min (memNat s.mem (loc + 4) 4 + 1) (2 ^ 32 - 1)) s.mem) ∧
    (st = 1 → 1 < memNat s.mem loc 4 → (s.decrementHere loc).mem = memPutNat loc 4 (memNat s.mem loc 4 - 1) s.mem)) ∧
  (∀ (s : State) (pa : Nat), s.ev = .depDecrement pa → exec .depDecrement s = .next ((s.recordStep pa).decrementHere pa)) ∧
  (∀ (s u : State) (rd rs1 rs2 : BitVec 5) (loc : Nat), (s.x rs1).toNat % 32 = 0 → Reaches s .load (s.x rs1) 8 u loc → u.signalPlace loc = true →
    let v := u.loadLines noNode loc 8
    v.poisoned loc 8 = false →
    let w := memNat v.mem loc 8
    let ahead := (w % 2 ^ 32 + 2 ^ 32 - (s.x rs2).toNat % 2 ^ 32) % 2 ^ 32
    exec (.tkwait rd rs1 rs2) s = .next (
      if ahead = 0 then v.retireX rd (BitVec.ofNat 64 w)
      else if ahead < 2 ^ 31 then v.except 27 (s.x rs1)
      else if v.me.timedOut then v.retireX rd (BitVec.ofNat 64 w)
      else v.wait (.signal loc))) ∧
  (∀ (s u : State) (rd rs1 rs2 : BitVec 5) (loc : Nat), (s.x rs1).toNat % 32 = 0 → Reaches s .store (s.x rs1) 8 u loc → u.signalPlace loc = true →
    u.me.biq = [] →
    let v := (u.releaseAt (fieldOf (u.me.cs csrVcfg) 7 3)).loadLines noNode loc 8
    let w := memNat v.mem loc 8
    let t := (s.x rs2).toNat % 2 ^ 32
    exec (.tkdone rd rs1 rs2) s = .next (if w % 2 ^ 32 ≠ t then v.except 27 (s.x rs1)
      else ((v.advanceGate loc w).payTicket (s.x rs1) t).retireX rd (BitVec.ofNat 64 w)) ∧
    (isLocal loc = true → (v.advanceGate loc w).mem = memPutNat loc 8 (w / 2 ^ 32 * 2 ^ 32 + (w % 2 ^ 32 + 1) % 2 ^ 32) v.mem)) ∧
  (∀ (s : State) (g : BitVec 2),
    ((∀ t p gn, RunsFor s t p → (p.groupsOf t.slice)[g.toNat]? ≠ some gn) → exec (.gbar g) s = .next (s.except 28 (BitVec.ofNat 64 g.toNat))) ∧
    (∀ t p gn, RunsFor s t p → (p.groupsOf t.slice)[g.toNat]? = some gn →
      (s.me.garr.testBit g.toNat = false → s.me.biq ≠ [] → exec (.gbar g) s = .next (s.wait .blocks)) ∧
      (s.me.garr.testBit g.toNat = false → s.me.biq = [] → ∃ u, exec (.gbar g) s = .next u ∧ u.me.wait = some (.group t.pk gn) ∧
        u.me.pc = s.me.pc ∧ u.me.garr.testBit g.toNat = true ∧
        ∃ p', u.tqe.pkts.lookup t.pk = some p' ∧ t.slice ∈ tget [] p'.bar gn ∧ (p'.barMet gn = true → .gbarRelease t.pk gn ∈ u.agenda)) ∧
      (s.me.garr.testBit g.toNat = true → t.slice ∉ tget [] p.bar gn → Completes (.gbar g) s fun u =>
        u.me.garr.testBit g.toNat = false ∧ u.me.x = s.me.x ∧ u.mem = s.mem) ∧
      (s.me.garr.testBit g.toNat = true → t.slice ∈ tget [] p.bar gn → s.me.timedOut = false →
        exec (.gbar g) s = .next (s.wait (.group t.pk gn))) ∧
      (s.me.garr.testBit g.toNat = true → t.slice ∈ tget [] p.bar gn → s.me.timedOut = true → s.me.priv ≠ .m → ∃ u, exec (.gbar g) s = .next u ∧
        u.me.garr.testBit g.toNat = false ∧ u.mem = s.mem ∧ TakesTrap s.me u.me 28 (BitVec.ofNat 64 g.toNat)))) ∧
  (∀ (s : State) (pk g : Nat) (p : Pkt), s.ev = .gbarRelease pk g → s.tqe.pkts.lookup pk = some p → tget [] p.bar g ≠ [] → p.barMet g = true →
    ∃ t, exec .gbarRelease s = .next t ∧ t.mem = s.mem ∧
      (∀ h ∈ s.liveHarts, (s.hart h).wait = some (.group pk g) → t.hart h = { s.hart h with wait := none }) ∧
      ∃ p', t.tqe.pkts.lookup pk = some p' ∧ tget [] p'.bar g = []) ∧
  (∀ (s u : State) (pk loc : Nat) (p : Pkt), s.ev = .ticketAdvance pk → s.tqe.pkts.lookup pk = some p → p.owed ≠ none →
    s.owedGate p = (u, some loc) →
    (memNat u.mem loc 8 % 2 ^ 32 = p.img.ticket → exec .ticketAdvance s =
      .next { u.advanceGate loc (memNat u.mem loc 8) with
        tqe := { (u.advanceGate loc (memNat u.mem loc 8)).tqe with
          pkts := tdel pk (u.advanceGate loc (memNat u.mem loc 8)).tqe.pkts } }) ∧
    (memNat u.mem loc 8 % 2 ^ 32 ≠ p.img.ticket → exec .ticketAdvance s = .next (u.due [.ticketAdvance pk])))

/-- the eight tqstat rows complete with depth, running instances, state, priority, lost records and the instance (R343, R356, R362, R374). -/
def Obligations.QueueStatusIsRead : Prop :=
  (∀ (s : State) (rd rs1 rs2 : BitVec 5) (n : Nat),
    n = (if s.x rs1 = 0 then (((s.me.inst.bind fun i => s.tqe.insts.lookup i).bind fun t => (s.tqe.pkts.lookup t.pk).map (·.q)).getD 0)
      else (s.x rs1).toNat) →
    let ask := [Instr.tqstatDepth rd rs1 rs2, .tqstatRun rd rs1 rs2, .tqstatState rd rs1 rs2, .tqstatPrio rd rs1 rs2, .tqstatOvf rd rs1 rs2]
    ((∀ q, ¬ OwnQueue s n q) → ∀ i ∈ ask, exec i s = .next (Refused s)) ∧
    (∀ q, OwnQueue s n q →
      let k := (s.x rs2).toNat
      (k = 0 → exec (.tqstatDepth rd rs1 rs2) s = .next (s.retireX rd (BitVec.ofNat 64
        ((s.tqe.pkts.filter fun e => e.2.q == n && e.2.owed.isNone && !e.2.begun).length +
          ((s.qpart n 0).ovfl.length + (s.qpart n 1).ovfl.length + (s.qpart n 2).ovfl.length + (s.qpart n 3).ovfl.length))))) ∧
      (k = 1 → exec (.tqstatRun rd rs1 rs2) s = .next (s.retireX rd (BitVec.ofNat 64
        (s.tqe.insts.filter fun e => !e.2.saved && ((s.tqe.pkts.lookup e.2.pk).map (·.q)) == some n).length))) ∧
      (k = 2 → exec (.tqstatState rd rs1 rs2) s = .next (s.retireX rd (BitVec.ofNat 64 q.state))) ∧
      (k = 3 → exec (.tqstatPrio rd rs1 rs2) s = .next (s.retireX rd (BitVec.ofNat 64
        (if q.dies.testBit (hartDie s.cur) then (if q.age ≠ 0 ∧ (s.qpart n (hartDie s.cur)).aged = true then min (q.prio + 1) 7 else q.prio)
         else q.prio + 2 ^ 63)))) ∧
      (k = 4 → exec (.tqstatOvf rd rs1 rs2) s = .next (s.retireX rd (BitVec.ofNat 64 q.ovf))))) ∧
  (∀ (s : State) (rd rs1 rs2 : BitVec 5), let k := (s.x rs2).toNat
    (∀ t p, RunsFor s t p →
      (k = 5 → exec (.tqstatInst rd rs1 rs2) s = .next (s.retireX rd (BitVec.ofNat 64 t.iid))) ∧
      (k = 6 → exec (.tqstatSlice rd rs1 rs2) s = .next (s.retireX rd (BitVec.ofNat 64 t.slice))) ∧
      (k = 7 → let g := p.groupsOf t.slice
        exec (.tqstatGroups rd rs1 rs2) s = .next (s.retireX rd (BitVec.ofNat 64 (g.getD 0 0xFFFF + g.getD 1 0xFFFF * 2 ^ 16 +
          g.getD 2 0xFFFF * 2 ^ 32 + g.getD 3 0xFFFF * 2 ^ 48))))) ∧
    ((∀ t p, ¬ RunsFor s t p) → ∀ i ∈ [Instr.tqstatInst rd rs1 rs2, .tqstatSlice rd rs1 rs2, .tqstatGroups rd rs1 rs2], exec i s = .next (Refused s)))

end

section

open Sys2Proof Sys2Proof.Machine Sys2Proof.Claims

/-- tqdone and tqyield end the instance and free its hart; ctxsave, ctxload, SAVE_COMPLETE and RESUME keep and restore a context. -/
def Obligations.TasksEndAndContextsAreKept : Prop :=
  (∀ s : State, (s.me.biq ≠ [] → exec .tqdone s = .next (s.wait .blocks)) ∧
    (s.me.biq = [] → s.commandsRun = true → exec .tqdone s = .next (s.wait .commands)) ∧
    (s.me.biq = [] → s.commandsRun = false → s.me.inst = none → ∃ t, exec .tqdone s = .next t ∧ t.me.inst = none ∧
      t.me.wait = some .task ∧ t.me.grant = [] ∧ t.me.x = s.me.x ∧ (s.me.sbuf = [] → t.mem = s.mem)) ∧
    (∀ i, s.me.biq = [] → s.commandsRun = false → s.me.inst = some i → exec .tqdone s = .next (s.releaseDone.retire.endInst i true 7))) ∧
  (∀ (s : State) (i code h : Nat) (t : Inst), s.tqe.insts.lookup i = some t → t.hart = some h → s.copies = [] →
    let u := s.closeInst i code
    u.tqe.insts.lookup i = none ∧ (u.hart h).inst = none ∧ (u.hart h).wait = some .task ∧ (u.hart h).grant = [] ∧
      (u.hart h).claims = [] ∧ (u.hart h).holds = [] ∧ (u.hart h).save = none ∧ (u.hart h).preempt = none ∧
      ((s.hart h).biq = [] → (u.hart h).biq = []) ∧ ¬ ((u.core (coreOf h)).mat.owner = some h)) ∧
  (∀ (s : State) (i code : Nat) (t : Inst) (p : Pkt), s.tqe.insts.lookup i = some t → t.hart = none → s.copies = [] →
    s.tqe.pkts.lookup t.pk = some p → t.slot = none → p.done + 1 < p.slices →
    let u := s.endInst i true code
    u.tqe.insts.lookup i = none ∧ ∃ p', u.tqe.pkts.lookup t.pk = some p' ∧ p'.done = p.done + 1 ∧ p'.good = p.good + 1 ∧ t.slice ∈ p'.retired) ∧
  (∀ (s : State) (rs1 rs2 : BitVec 5), (rs1 ≠ 0 → (s.x rs1).toNat % 2 = 1 → exec (.tqyield rs1 rs2) s = .next (Refused s)) ∧
    (rs1 = 0 ∨ (s.x rs1).toNat % 2 = 0 →
      (s.me.biq ≠ [] → exec (.tqyield rs1 rs2) s = .next (s.wait .blocks)) ∧
      (s.me.biq = [] → s.commandsRun = true → exec (.tqyield rs1 rs2) s = .next (s.wait .commands)) ∧
      (s.me.biq = [] → s.commandsRun = false → s.me.inst = none → ∃ t, exec (.tqyield rs1 rs2) s = .next t ∧ t.me.inst = none ∧
        t.me.wait = some .task ∧ t.me.grant = [] ∧ t.me.x = s.me.x ∧ (s.me.sbuf = [] → t.mem = s.mem)) ∧
      (s.me.biq = [] → s.commandsRun = false → ∀ t, s.me.inst.bind (fun i => s.tqe.insts.lookup i) = some t →
        exec (.tqyield rs1 rs2) s = .next ((s.releaseDone.retire.closeInst t.iid 7).requeue t
          (if rs1 = 0 then t.entry else (s.x rs1).toNat) (if rs2 = 0 then t.arg else (s.x rs2).toNat))))) ∧
  (∀ (s : State) (t : Inst) (p : Pkt) (q : Queue) (entry arg : Nat), s.tqe.pkts.lookup t.pk = some p → s.queue p.q = some q → q.state < 2 →
    let u := s.requeue t entry arg
    (∃ e ∈ (u.qpart p.q t.home).ents, e.pk = t.pk ∧ e.work = 2 ∧ e.slice = t.slice ∧ e.entry = entry ∧ e.arg = arg ∧
      e.seq = (s.qpart p.q t.home).seq) ∧ (u.qpart p.q t.home).seq = (s.qpart p.q t.home).seq + 1 ∧ u.mem = s.mem) ∧
  (∀ (s : State) (rs1 : BitVec 5), let va := if rs1 = 0 then s.me.cs csrCtxbase else s.x rs1
    let idle := s.me.biq = [] ∨ s.me.held = true ∨ s.me.parked = true
    let fenced := ∃ f ∈ s.net.fences, sameAgent s.cur s.me.inst f.hart f.inst = true
    (s.me.priv = .u → exec (.ctxsave rs1) s = .next (s.illegal (wordOf (.ctxsave rs1))) ∧
      exec (.ctxload rs1) s = .next (s.illegal (wordOf (.ctxload rs1)))) ∧
    (s.me.priv ≠ .u → va.toNat % 4096 ≠ 0 → exec (.ctxsave rs1) s = .next (s.except 25 va) ∧ exec (.ctxload rs1) s = .next (s.except 25 va)) ∧
    (s.me.priv ≠ .u → va.toNat % 4096 = 0 → (s.core s.myCore).save = some false → exec (.ctxsave rs1) s = .next (Refused s)) ∧
    (s.me.priv ≠ .u → va.toNat % 4096 = 0 → (s.core s.myCore).save ≠ some false →
      (¬ idle → exec (.ctxsave rs1) s = .next (s.wait .blocks)) ∧
      (idle → fenced → exec (.ctxsave rs1) s = .next (s.wait .commands)) ∧
      (idle → ¬ fenced → ∃ t, exec (.ctxsave rs1) s = .next t ∧ t.me.pc = s.me.pc ∧ t.me.wait = some .commands ∧ .saveComplete s.cur ∈ t.agenda ∧
        t.me.save = some ⟨va, 3, lgOf s != 0, s.me.cs csrSepc⟩ ∧ (s.me.sbuf = [] →
        t.mem = memPut (2 ^ 52 + s.cur / 8 * 2 ^ 20 + 0x54000 + s.cur % 8 * 0x1800) (s.hartRecord s.cur 3 (lgOf s != 0) (s.me.cs csrSepc)) s.mem)))) ∧
  (∀ (s u : State) (h : Nat) (v : Save), s.ev = .saveComplete h → (s.hart h).save = some v →
    (s.saveBusy h = true → exec .saveComplete s = .next (s.due [.saveComplete h])) ∧
    (s.saveBusy h = false → s.writeSlot h v = (u, true) → v.reason = 3 → ∃ t, exec .saveComplete s = .next t ∧ (t.hart h).save = none ∧
      (t.hart h).wait = none ∧ (t.hart h).grant = [] ∧ (t.hart h).pc = (u.hart h).pc + 4 ∧ (t.hart h).x = (u.hart h).x ∧ t.mem = u.mem) ∧
    (s.saveBusy h = false → s.writeSlot h v = (u, false) → exec .saveComplete s = .next (u.loseHart h 5 2 v.pc))) ∧
  (∀ (s u w z : State) (rs1 : BitVec 5) (b : List Byte) (a : Areas) (g : List Nat),
    let va := if rs1 = 0 then s.me.cs csrCtxbase else s.x rs1
    let v := slotOf b
    s.me.priv ≠ .u → va.toNat % 4096 = 0 → s.readVa (s.slotCx s.cur) va 0x1800 = (u, .ok b) → u.cur = s.cur → w.cur = s.cur → z.cur = s.cur →
    (v.valid = false ∨ u.me.biq ≠ [] ∨ u.neverFits s.myCore v = true → exec (.ctxload rs1) s = .next (Refused u)) ∧
    (v.valid = true → u.me.biq = [] → u.neverFits s.myCore v = false → u.readAreas (s.slotCx s.cur) va v = (w, .ok a) →
      (w.restoreGrant s.cur v = (z, none) → exec (.ctxload rs1) s = .next (z.wait .grant)) ∧
      (w.restoreGrant s.cur v = (z, some g) →
        let mine := (z.core s.myCore).mat.owner = some s.cur
        (v.own = true → ¬ mine → z.matTurn s.cur = false → exec (.ctxload rs1) s = .next (z.matWait .engine)) ∧
        (v.own = false ∨ mine ∨ z.matTurn s.cur = true →
          ∃ t, exec (.ctxload rs1) s = .next t ∧ t.me.pc = z.me.pc + BitVec.ofNat 64 z.ilen ∧ t.me.wait = none ∧
            t.me.cs csrSepc = BitVec.ofNat 64 (field b 8 8) ∧ t.me.grant = g ∧ t.me.biq.length = field b 6 1 ∧
            ∀ r : Nat, 0 < r → r < 32 → t.me.xr r = BitVec.ofNat 64 (field b (0x40 + 8 * r) 8) ∧
              t.me.fr r = BitVec.ofNat 64 (field b (0x140 + 8 * r) 8))))) ∧
  (∀ (s u : State) (h i : Nat) (va : Word) (b : List Byte), s.ev = .resume h → (s.hart h).resume = some ⟨va, none⟩ →
    (s.hart h).inst = some i → s.readVa (s.slotCx h) va 0x1800 = (u, .ok b) → let v := slotOf b
    (v.valid = false → exec .resume s = .next (u.loseHart h 5 2 (BitVec.ofNat 64 (field b 8 8)))) ∧
    (∀ (w : State) (a : Areas), v.valid = true → u.readAreas (s.slotCx h) va v = (w, .ok a) →
      let cleared := (w.writeVa (s.slotCx h) (va + 5) [BitVec.ofNat 8 (field b 5 1 / 2 * 2)]).1
      exec .resume s = .next (((cleared.poke (2 ^ 52 + h / 8 * 2 ^ 20) a.loc).modHart h fun x =>
        { x with resume := some ⟨va, some (b, a.vec, a.mat)⟩ }).resumeRest h i va v a.vec a.mat))) ∧
  (∀ (s z : State) (h i : Nat) (va : Word) (b vec mat : List Byte) (g : List Nat), s.ev = .resume h →
    (s.hart h).resume = some ⟨va, some (b, vec, mat)⟩ → (s.hart h).inst = some i → let v := slotOf b
    (s.neverFits (coreOf h) v = true → exec .resume s = .next (s.loseHart h 5 3 (BitVec.ofNat 64 (field b 8 8)))) ∧
    (s.neverFits (coreOf h) v = false → s.restoreGrant h v = (z, none) → exec .resume s = .next z) ∧
    (s.neverFits (coreOf h) v = false → s.restoreGrant h v = (z, some g) → z.net.fences = [] →
      ∃ t, exec .resume s = .next t ∧ (t.hart h).pc = BitVec.ofNat 64 (field b 8 8) ∧ (t.hart h).priv = .u ∧ (t.hart h).wait = none ∧
        (t.hart h).resume = none ∧ (t.hart h).grant = g ∧ (t.hart h).cs csrCtxbase = va ∧
        ∀ r : Nat, 0 < r → r < 32 → (t.hart h).xr r = BitVec.ofNat 64 (field b (0x40 + 8 * r) 8)))

/-- The lane, grace, window, watchdog, save and wait timers and the wakes of signal words complete, with the wait ended, the pre-emption
advanced or the core quarantined. -/
def Obligations.WaitsEndAndPreemptionAdvances : Prop :=
  (∀ (s : State) (h : Nat), s.ev = .laneGrantReeval h →
    ((s.hart h).resume ≠ none → exec .laneGrantReeval s = .next (s.due [.resume h])) ∧
    ((s.hart h).resume = none → (s.hart h).wait = some .grant → ∃ t, exec .laneGrantReeval s = .next t ∧
      t.hart h = { s.hart h with wait := none } ∧ t.mem = s.mem)) ∧
  (∀ (s : State) (h : Nat) (p : Preempt), (s.hart h).preempt = some p →
    (s.ev = .graceExpiry h → ∃ t, exec .graceExpiry s = .next t ∧ t.mem = s.mem ∧ (∀ j, j ≠ h → t.hart j = s.hart j) ∧
      t.hart h = { s.hart h with preempt := some { p with hard := p.hard || p.timed } }) ∧
    (s.ev = .commitWindowExpiry h → p.stopped = true → ∃ t, exec .commitWindowExpiry s = .next t ∧ t.mem = s.mem ∧
      (∀ j, j ≠ h → t.hart j = s.hart j) ∧ (t.hart h).preempt = some { p with closed := true } ∧ (t.hart h).x = (s.hart h).x ∧
      (t.hart h).biq.map (·.va) = (s.hart h).biq.map (·.va) ∧ ∀ c ∈ (t.hart h).biq, c.atom = false → c.held = true) ∧
    (s.ev = .commitWindowExpiry h → p.stopped = false → exec .commitWindowExpiry s = .next s)) ∧
  (∀ (s : State) (h : Nat) (q : Queue), s.ev = .watchdogExpiry h → s.tqe.insts.lookup h = none → s.queueOf h = some q → s.saveBegun h = false →
    (q.wdog = 0 → exec .watchdogExpiry s = .next s) ∧
    (q.wdog ≠ 0 → (s.hart h).inst ≠ none → ∃ t, exec .watchdogExpiry s = .next t ∧ t.mem = s.mem ∧
      ∃ p, t.hart h = { s.hart h with preempt := some p } ∧ p.cause = 3 ∧ p.hard = true ∧ p.timed = false)) ∧
  (∀ (s : State) (h : Nat), s.ev = .savetoExpiry h →
    ((s.hart h).save ≠ none ∨ (∃ p, (s.hart h).preempt = some p ∧ p.hard = true) → ∃ t, exec .savetoExpiry s = .next t ∧
      (t.core (coreOf h)).quar = true) ∧
    ((s.hart h).save = none → (∀ p, (s.hart h).preempt = some p → p.hard = false) → exec .savetoExpiry s = .next s)) ∧
  (∀ (s : State) (h : Nat), s.ev = .waitTimeout h →
    ((∃ a, (s.hart h).wait = some (.signal a)) ∨ (∃ p g, (s.hart h).wait = some (.group p g)) ∨ (s.hart h).wait = some .matrix →
      (s.hart h).cs csrSigto % 2 ^ 32 ≠ 0 → ∃ t, exec .waitTimeout s = .next t ∧ t.mem = s.mem ∧
        t.hart h = { s.hart h with wait := none, timedOut := true }) ∧
    ((s.hart h).cs csrSigto % 2 ^ 32 = 0 → exec .waitTimeout s = .next s)) ∧
  (∀ (s : State) (pa : Nat), s.ev = .signalWake pa → ∃ t, exec .signalWake s = .next t ∧ t.mem = s.mem ∧ t.agenda = s.agenda ∧ ∀ h,
    t.hart h = (match (s.hart h).wait with
      | some (.signal a) => if a / 32 = pa / 32 ∧ h ∈ tkeys s.harts then { s.hart h with wait := none } else s.hart h
      | _ => s.hart h)) ∧
  (∀ (s : State) (h a : Nat), s.ev = .signalPoll h → (s.hart h).wait = some (.signal a) → ∃ t, exec .signalPoll s = .next t ∧ t.mem = s.mem ∧
    t.hart h = { s.hart h with wait := none })

/-- BLOCK_FETCH_DECODE checks a block whole, LOAD_DATA_RETURN gives a load what memory and earlier stores hold, BLOCK_COMMIT makes a
block's stores and puts visible at once, BLOCK_FAULT records and holds, and BLOCK_TRAP_DELIVER takes the trap of a held fault. -/
def Obligations.BlocksDecodeReturnCommitAndFault : Prop :=
  (∀ (s u : State) (h i : Nat) (b : Biq), s.ev = .blockFetchDecode h → s.undecoded h = some (i, b) → s.heldBack h strB b.seq = false →
    (∀ f, s.blockImage h b = (u, .inr f) →
      exec .blockFetchDecode s = .next (u.setEntry h i { b.again with code := none, early := false, faults := [f] })) ∧
    (∀ img, s.blockImage h b = (u, .inl img) → let ws := doublewords (img.length / 8) img
      (∀ id, checkBlock u.vpcap.toNat (sewBits b.vcfg) (ws.headD 0) (ws.drop 1) = .inr id → exec .blockFetchDecode s =
        .next (u.setEntry h i { b.again with code := none, early := false, faults := [formatFault b.va id] })) ∧
      (∀ c, checkBlock u.vpcap.toNat (sewBits b.vcfg) (ws.headD 0) (ws.drop 1) = .inl c → i < (u.hart h).biq.length →
        ∃ t, exec .blockFetchDecode s = .next t ∧ t.mem = u.mem ∧ ∃ b', t.entry h i = some b' ∧ b'.code = some c ∧ b'.early = false ∧
          b'.faults = [] ∧ b'.capt = b.capt ∧ b'.vcfg = b.vcfg ∧ b'.va = b.va))) ∧
  (∀ (s : State) (h : Nat), s.ev = .blockFetchDecode h → s.undecoded h = none → exec .blockFetchDecode s = .next s) ∧
  (∀ (vpcap sew hdr : Nat) (pairs : List Nat) (c : Code), checkBlock vpcap sew hdr pairs = .inl c → ∀ x ∈ c.instrs, x.2.wf = true) ∧
  (∀ (s : State) (h i : Nat) (b : Biq) (p : BPend), s.ev = .loadDataReturn h → s.coh.severed = [] →
    (∀ c ∈ (s.hart h).biq, ∀ q ∈ c.pends, q.win = none) → s.nextPend h = some (i, b, p) →
    (∀ va loc, some (va, loc) ∈ p.elems → isLocal loc = true ∧ s.poisoned loc p.wbytes = false ∧
      ∀ c ∈ (s.hart h).biq, ∀ x ∈ c.loads, x.pa + x.len ≤ loc ∨ loc + p.wbytes ≤ x.pa) →
    ∃ t, exec .loadDataReturn s = .next t ∧ t.mem = s.mem ∧ ∃ loads, t.entry h i = some (
      ({ b with pends := b.pends.filter (· != p), loads := loads } : Biq).loaded (s.groups h b) p.grp p.id p.lsid
        (p.elems.map fun e => e.map fun x => leNat (forwarded (s.visibleStores h i p.lsid) x.2 (memBytes s.mem x.2 p.wbytes))))) ∧
  (∀ (s : State) (h : Nat) (b : Biq) (rest : List Biq), s.ev = .blockCommit h → (s.hart h).biq = b :: rest →
    (b.complete = false ∨ s.commitStuck h b = true → exec .blockCommit s = .next s) ∧
    (b.complete = true → s.commitStuck h b = false → s.coh.severed = [] → b.isLoop = false → (∀ st ∈ b.stores, isLocal st.pa = true) →
      ∃ t, exec .blockCommit s = .next t ∧
      t.mem = b.stores.foldl (fun m st => memPut st.pa st.bytes m) s.mem ∧ (t.hart h).biq.map (·.va) = rest.map (·.va) ∧
      (t.hart h).x = (b.staged.filterMap fun st => match st with
        | .x r w => if b.dropped r then none else some (r, w)
        | _ => none).foldl (fun x e => tset e.1 e.2 x) (s.hart h).x ∧ (t.hart h).pc = (s.hart h).pc)) ∧
  (∀ (s : State) (h : Nat) (b : Biq) (rest : List Biq) (f : BFault), s.ev = .blockFault h → (s.hart h).biq = b :: rest →
    b.held = false → b.atom = false → chooseFault b.faults = some f →
    let tries := min 3 (b.tries + 1)
    let park := (s.hart h).cs csrPfpark % 2 = 1 ∧ (f.code = 2 ∨ f.code = 4 ∨ f.code = 5) ∧ tries ≠ 3
    ∃ t, exec .blockFault s = .next t ∧ t.mem = s.mem ∧ (t.hart h).x = (s.hart h).x ∧ (t.hart h).pc = (s.hart h).pc ∧
      ((t.hart h).parked = true ↔ park) ∧ ((t.hart h).held = true ↔ ¬ park) ∧ (t.hart h).biq.map (·.va) = (b :: rest).map (·.va) ∧
      (∀ c ∈ (t.hart h).biq, c.held = true ∧ c.fired = [] ∧ c.stores = [] ∧ c.staged = []) ∧
      (t.hart h).cs 0x5C0 = BitVec.ofNat 64 (f.code + tries * 2 ^ 16 + f.lg * 2 ^ 18) ∧ (t.hart h).cs 0x5C1 = f.va ∧
      (t.hart h).cs 0x5C3 = BitVec.ofNat 64 (f.lsid + f.id * 2 ^ 8) ∧ (t.hart h).cs 0x5C4 = b.va &&& ~~~(0x3F : Word)) ∧
  (∀ (s : State) (h : Nat) (b : Biq) (f : BFault), s.ev = .blockTrapDeliver h →
    ((s.hart h).faultDue = false → exec .blockTrapDeliver s = .next s) ∧
    ((s.hart h).faultDue = true → (s.hart h).heldFault = some (b, f) →
      let c := if b.tries = 3 ∧ 2 ≤ f.code ∧ f.code ≤ 7 then 26 else 24
      ∃ t, exec .blockTrapDeliver s = .next t ∧ t.mem = s.mem ∧ (t.hart h).biq = (s.hart h).biq ∧ (t.hart h).wait = none ∧
        (if (s.hart h).trapsToS c then (t.hart h).priv = .s ∧ (t.hart h).cs csrScause = BitVec.ofNat 64 c ∧
          (t.hart h).cs csrSepc = (s.hart h).pc ∧ (t.hart h).cs csrStval = b.va &&& ~~~(0x3F : Word)
         else (t.hart h).priv = .m ∧ (t.hart h).cs csrMcause = BitVec.ofNat 64 c ∧
          (t.hart h).cs csrMepc = (s.hart h).pc ∧ (t.hart h).cs csrMtval = b.va &&& ~~~(0x3F : Word))))

/-- TQE_DISPATCH gives a free hart its inbox entry with the state of a new instance, AGE_EXPIRY ages an eligible part, ALMANAC_TICK
counts dtime, and QUEUE_DESTROY_COMPLETE frees an empty queue. -/
def Obligations.TaskQueueEngineDispatchesAndEnds : Prop :=
  (∀ (s u : State) (d : Nat), s.ev = .tqeDispatch d →
    (s.tqeStep d = (u, true) → exec .tqeDispatch s = .next (u.kick d)) ∧
    (s.tqeStep d = (u, false) → exec .tqeDispatch s = .next u) ∧
    (∀ ci h it, s.tqe.queues.findSome? (fun e => s.readyMarker e.1 d) = none → s.dropOrphan d = none → dieOf ci = d →
      (tkeys s.cores).filter (fun c => dieOf c == d && !(s.core c).inbox.isEmpty) = [ci] → s.coreOut ci = false →
      (s.core ci).selftest = false → s.nextDispatch ci = some (h, it) → exec .tqeDispatch s = .next ((s.dispatch h it).kick d))) ∧
  (∀ (s : State) (h : Nat) (it : Inbox) (p : Pkt) (q : Queue), s.tqe.pkts.lookup it.ent.pk = some p → s.queue it.q = some q → it.ent.work ≠ 3 →
    let x := (s.dispatch h it).hart h
    let bulk := p.img.kind = 1
    x.pc = BitVec.ofNat 64 it.ent.entry ∧ x.priv = .u ∧ x.wait = none ∧ x.biq = [] ∧ x.grant = [] ∧ x.f = [] ∧ x.inst ≠ none ∧
    x.slip = p.img.slip ∧ x.cs csrVcfg = 0 ∧ x.cs csrVl = 0 ∧ x.cs csrMcfg = 0 ∧ x.cs csrPfpark = BitVec.ofNat 64 q.pfpark ∧
    x.xr 10 = BitVec.ofNat 64 it.ent.arg ∧
    x.xr 11 = BitVec.ofNat 64 (if bulk then p.img.base + it.ent.slice * p.img.grain else p.img.base) ∧
    x.xr 12 = BitVec.ofNat 64 (if bulk then min p.img.grain (p.img.count - it.ent.slice * p.img.grain) else 1) ∧
    x.xr 13 = BitVec.ofNat 64 (q.sva + p.die * (64 * 2 ^ q.caplog) + 64 * p.slot) ∧ ∀ r, r < 10 ∨ 13 < r → x.xr r = 0) ∧
  (∀ (s : State) (qid d : Nat) (q : Queue), s.ev = .ageExpiry qid d → s.queue qid = some q →
    (q.age ≠ 0 → s.eligible qid d q = true →
      ∃ t, exec .ageExpiry s = .next t ∧ t.qpart qid d = { s.qpart qid d with aged := true } ∧ t.mem = s.mem) ∧
    (q.age = 0 ∨ s.eligible qid d q = false → exec .ageExpiry s = .next s)) ∧
  (∀ (s : State) (d : Nat), s.ev = .almanacTick d → d < 4 → (∀ w ∈ s.tqe.wheel, w.die = d → s.dtimeOf d + 1000 < w.time) →
    ∃ t, exec .almanacTick s = .next t ∧ t.dtimeOf d = s.dtimeOf d + 1000 ∧ t.tqe.wheel = s.tqe.wheel ∧ t.mem = s.mem ∧
      ∀ e, e < 4 → e ≠ d → t.dtimeOf e = s.dtimeOf e) ∧
  (∀ (s : State) (qid : Nat) (q : Queue), s.ev = .queueDestroyComplete qid → s.queue qid = some q →
    (q.dying = false ∨ s.queueEmpty qid = false → exec .queueDestroyComplete s = .next s) ∧
    (q.dying = true → s.queueEmpty qid = true → s.queueCopies qid = true →
      exec .queueDestroyComplete s = .next (s.due [.queueDestroyComplete qid])) ∧
    (q.dying = true → s.queueEmpty qid = true → s.queueCopies qid = false → (∀ w ∈ s.tqe.wheel, w.q ≠ qid) → q.enders = [] →
      ∃ t, exec .queueDestroyComplete s = .next t ∧ t.queue qid = none ∧ (∀ n, n ≠ qid → t.queue n = s.queue n) ∧ t.mem = s.mem))

end

namespace Sys2Proof.Claims

open Sys2Proof.Machine

/-- A line that its home can serve at once: in the LLC, with the outer agent's consent, no transaction and no waiting request, and the
slice free to begin one more. -/
def Idle (s : State) (l : Nat) : Prop :=
  (s.dir l).busy = false ∧ tget [] s.coh.waitq l = [] ∧ s.sliceFull l = false ∧ s.inLlc l = true ∧ s.outer l = 2

/-- Nothing waits for the end of a transaction on the line: no request, and no fill that is to have its way. -/
def NoneWaits (s : State) (l : Nat) : Prop := s.coh.waitq = [] ∧ ∀ r ∈ s.coh.room, r.2 ≠ l

/-- The outcome of a message: the line's entry, and the messages that are due after it. -/
def Answers (i : Instr) (s : State) (l : Nat) (d : Dir) (es : List Ev) : Prop :=
  ∃ t, exec i s = .next t ∧ t.dir l = d ∧ t.agenda = s.agenda ++ es ∧ t.harts = s.harts

/-- A message that reaches a node: the node's state of the line after it, and the messages that are due. -/
def Turns (i : Instr) (s : State) (n l : Nat) (x : NState) (es : List Ev) : Prop :=
  ∃ t, exec i s = .next t ∧ t.ns n l = x ∧ t.mem = s.mem ∧ t.dir l = s.dir l ∧ ∀ e ∈ es, e ∈ t.agenda

end Sys2Proof.Claims

section

open Sys2Proof Sys2Proof.Machine Sys2Proof.Claims

/-- The requests GETS, GETX, UPG, RDU, WBREQ, WRM and AMO_REQUEST complete: at an idle line with the answer, the invalidations, the recall
or the downgrade; at a busy line or slice by waiting; at a missed line with a fill. -/
def Obligations.HomesServeRequests : Prop :=
  (∀ (s : State) (n l pa op w x y : Nat) (cs : List Host.Cell) (p : Instr × Ev × Req),
    p ∈ [(Instr.gets, Ev.gets n l, Req.gets n), (.getx, .getx n l, .getx n), (.upg, .upg n l, .upg n), (.rdu, .rdu l, .rdu),
      (.wbreq, .wbreq n l, .wbreq n), (.wrm, .wrm n cs, .wrm n cs), (.amoRequest, .amoRequest n pa op w x y, .amo n pa op w x y)] →
    s.ev = p.2.1 → evLine p.2.1 = some l →
    ((s.dir l).busy = true ∨ tget [] s.coh.waitq l ≠ [] ∨ s.sliceFull l = true → Answers p.1 s l (s.dir l) [] ∧
      ∃ t, exec p.1 s = .next t ∧ t.mem = s.mem ∧ tget [] t.coh.waitq l = tget [] s.coh.waitq l ++ [p.2.2]) ∧
    ((s.dir l).busy = false → tget [] s.coh.waitq l = [] → s.sliceFull l = false → s.inLlc l = false → p.2.2 ≠ .wbreq n →
      Answers p.1 s l { s.dir l with busy := true } [.llcFill l (s.coh.poison.contains l)])) ∧
  (∀ (s : State) (n l : Nat), Idle s l → let d := s.dir l
    (s.ev = .gets n l →
      (d.st = 0 → Answers .gets s l (.share n) [.dataS n l]) ∧ (d.st = 1 → Answers .gets s l (d.add n) [.dataS n l]) ∧
      (1 < d.st → Answers .gets s l { d with busy := true } [.downgr d.owner l])) ∧
    (s.ev = .getx n l →
      (d.st = 0 ∨ (d.st = 1 ∧ ∀ m ∈ d.members, m = n) → Answers .getx s l (.own n) [.dataE n l]) ∧
      (d.st = 1 → (∃ m ∈ d.members, m ≠ n) →
        Answers .getx s l { d with busy := true } ((d.members.filter (· != n)).map fun m => .inv m l)) ∧
      (1 < d.st → Answers .getx s l { d with busy := true } [.recall d.owner l])) ∧
    (s.ev = .upg n l →
      (d.st = 0 → Answers .upg s l (.own n) [.dataE n l]) ∧
      (d.st = 1 → (∀ m ∈ d.members, m = n) →
        Answers .upg s l (.own n) [if d.coarse = false ∧ d.covers n = true then .grantX n l else .dataE n l]) ∧
      (1 < d.st → Answers .upg s l { d with busy := true } [.recall d.owner l])) ∧
    (s.ev = .rdu l → (d.st ≤ 1 → Answers .rdu s l d []) ∧ (1 < d.st → Answers .rdu s l { d with busy := true } [.downgr d.owner l])) ∧
    (s.ev = .wbreq n l →
      (d.st = 2 ∧ d.owner = n → Answers .wbreq s l { d with busy := true } [.wbgo n l]) ∧
      (d.st ≠ 2 ∨ d.owner ≠ n → Answers .wbreq s l d [.wbstale n l]))) ∧
  (∀ (s : State) (n pa op w x y : Nat), let l := lineOf pa
    s.ev = .amoRequest n pa op w x y → Idle s l → (s.dir l).st = 0 →
    ∃ t, exec .amoRequest s = .next t ∧ t.mem = memPutNat pa w (amoOp op w (memNat s.mem pa w) x y) s.mem ∧ t.dir l = .unc ∧
      .amoack n l (memNat s.mem pa w) ∈ t.agenda) ∧
  (∀ (s : State) (n : Nat) (c : Host.Cell) (cs : List Host.Cell), let l := lineOf c.1
    s.ev = .wrm n (c :: cs) → Idle s l → (s.dir l).st = 0 →
    ∃ t, exec .wrm s = .next t ∧ t.mem = memCells (c :: cs) s.mem ∧ t.dir l = .unc ∧ .wrack n l ∈ t.agenda)

/-- The messages PUTS, CLEAN, IACK, RDATA, WBDATA and LLC_FILL complete at the home, and INV, RECALL, DOWNGR, WBGO, WBSTALE, DATA_S, DATA_E,
GRANT_X and the end of a reservation at the node; where the table of R390 says that a message does not occur, a node has no step. -/
def Obligations.HomesAndNodesTakeAnswers : Prop :=
  (∀ (s : State) (n l : Nat), let d := s.dir l
    (s.ev = .puts n l → (d.busy = false ∧ d.coarse = false ∧ d.covers n = true ∧ d.st = 1 → Answers .puts s l (d.remove n) []) ∧
      (d.busy = true ∨ d.coarse = true ∨ d.covers n = false ∨ d.st ≠ 1 → exec .puts s = .next s)) ∧
    (s.ev = .clean n l → Answers .clean s l d [.wrack n l]) ∧
    (s.ev = .wrack n l → exec .wrack s = .next s) ∧ (∀ v, s.ev = .amoack n l v → exec .amoack s = .next s)) ∧
  (∀ (s : State) (n l m : Nat) (t : Txn), s.coh.txn.lookup l = some t → NoneWaits s l →
    (s.ev = .iack n l → n ∈ t.acks → t.acks.erase n ≠ [] → Answers .iack s l (s.dir l) [] ∧
      ∃ u, exec .iack s = .next u ∧ u.coh.txn.lookup l = some { t with acks := t.acks.erase n }) ∧
    (s.ev = .iack n l → t.acks = [n] → t.req = .getx m → Answers .iack s l (.own m) [.dataE m l]) ∧
    (∀ dirty, s.ev = .rdata n l dirty false → t.owner = some n → t.req = .getx m → Answers .rdata s l (.own m) [.dataE m l]) ∧
    (∀ dirty, s.ev = .rdata n l dirty false → t.owner = some n → t.req = .gets m → (s.dir l).st = 2 →
      Answers .rdata s l ((Dir.share (s.dir l).owner).add m) [.dataS m l]) ∧
    (∀ dirty, s.ev = .wbdata n l dirty → t.req = .wbreq n → Answers .wbdata s l .unc []) ∧
    (s.ev = .llcFill l true → t.phase = 1 → Answers .llcFill s l { s.dir l with busy := false } [] ∧
      ∃ u, exec .llcFill s = .next u ∧ l ∈ u.coh.poison) ∧
    (s.ev = .llcFill l false → t.phase = 1 → t.req = .gets m → (s.dir l).st = 0 → s.outer l = 2 → (tget [] s.coh.llc (s.llcKey l)).length < 16 →
      Answers .llcFill s l (.share m) [.dataS m l])) ∧
  (∀ (s : State) (l : Nat) (p : Bool), s.ev = .llcFill l p → s.coh.txn.lookup l = none →
    ∃ u, exec .llcFill s = .next u ∧ (l ∈ u.coh.poison ↔ p = true) ∧ u.mem = s.mem ∧ ∀ k, k ≠ l → (k ∈ u.coh.poison ↔ k ∈ s.coh.poison)) ∧
  (∀ (s : State) (n l : Nat), let x := s.ns n l
    (s.ev = .inv n l → (x = .i ∨ x = .is ∨ x = .im ∨ x = .lostS → Turns .inv s n l x [.iack n l]) ∧
      (x = .s → Turns .inv s n l .i [.iack n l]) ∧ (x = .sm → Turns .inv s n l .lostS [.iack n l]) ∧
      (x = .e ∨ x = .m → exec .inv s = (if n = guestPort then .next (s.due [.protocolError 7]) else .fault .doesNotOccur))) ∧
    (n ≠ guestPort → s.reserved n l = false →
      (s.ev = .recall n l → (x = .e → Turns .recall s n l .i [.rdata n l false false]) ∧ (x = .m → Turns .recall s n l .i [.rdata n l true false])) ∧
      (s.ev = .downgr n l → (x = .e → Turns .downgr s n l .s [.rdata n l false false]) ∧ (x = .m → Turns .downgr s n l .s [.rdata n l true false]))) ∧
    (n ≠ guestPort → s.reserved n l = true → x = .e ∨ x = .m →
      (s.ev = .recall n l → Turns .recall s n l x [.reservationTimeout n l]) ∧ (s.ev = .downgr n l → Turns .downgr s n l x [.reservationTimeout n l])) ∧
    (∀ d, x = .vb d → (s.ev = .recall n l → Turns .recall s n l .vbx [.rdata n l d true]) ∧
      (s.ev = .downgr n l → Turns .downgr s n l .vbx [.rdata n l d true]) ∧ (s.ev = .wbgo n l → Turns .wbgo s n l .i [.wbdata n l d])) ∧
    (n ≠ guestPort → x = .i ∨ x = .s → (s.ev = .recall n l → exec .recall s = .fault .doesNotOccur) ∧
      (s.ev = .wbgo n l → exec .wbgo s = .fault .doesNotOccur)) ∧
    ((∃ d, x = .vb d) ∨ x = .vbx → s.ev = .wbstale n l → Turns .wbstale s n l .i []) ∧
    (x = .is → s.ev = .dataS n l → Turns .dataS s n l .s []) ∧
    (x = .im ∨ x = .sm ∨ x = .lostS → s.ev = .dataE n l → Turns .dataE s n l .e []) ∧
    (x = .sm → s.ev = .grantX n l → Turns .grantX s n l .e [])) ∧
  (∀ (s : State) (n l : Nat) (back : Bool), s.ev = .reservationTimeout n l →
    ((∀ e ∈ s.coh.delayed, e.1 ≠ n ∨ e.2.1 ≠ l) → exec .reservationTimeout s = .next s) ∧
    (s.coh.delayed = [(n, l, back)] → n ≠ guestPort → s.ns n l = .e →
      Turns .reservationTimeout s n l (if back then .i else .s) [.rdata n l false false] ∧
      ∃ t, exec .reservationTimeout s = .next t ∧ t.reserved n l = false))

/-- LINK_ERROR, LINK_RETRAIN_FAIL and SEVER complete for links and dies of the part, and REFETCH_REQUEST, STALL_TIMEOUT, REPLICA_UPDATE,
REPLICA_ACK and ROUND_NOTICE for a region: a copy is brought or its request parked, the replicas and the views advance, a publish ends. -/
def Obligations.LinksFailAndRoundsPropagate : Prop :=
  (∀ (s : State) (a b : Nat),
    (s.ev = .linkError a b → s.isLink a b = true →
      ∃ t, exec .linkError s = .next t ∧ linkEnds a b ∈ t.coh.links ∧ t.agenda = s.agenda ∧ t.harts = s.harts) ∧
    (s.ev = .linkError a b → s.isLink a b = false → exec .linkError s = .next s) ∧
    (s.ev = .linkRetrainFail a b → s.isLink a b = true → ∃ t, exec .linkRetrainFail s = .next t ∧ linkEnds a b ∉ t.coh.links ∧ t.mem = s.mem ∧
      t.agenda = s.agenda ++ [if max a b = 5 then .protocolError 0 else if max a b = 4 then .sever (min a b) else .sever (max a b)]) ∧
    (s.ev = .linkRetrainFail a b → s.isLink a b = false → exec .linkRetrainFail s = .next s)) ∧
  (∀ (s : State) (d : Nat), s.ev = .sever d → (s.dies ≤ d ∨ d ∈ s.coh.severed → exec .sever s = .next s) ∧
    (d < s.dies → d ∉ s.coh.severed → ∃ t, exec .sever s = .next t ∧ d ∈ t.coh.severed ∧ s.mgmt.logn < t.mgmt.logn)) ∧
  (∀ (s : State) (n l f h k b rid : Nat) (g : Region), s.ev = .refetchRequest n l f h k b → s.regionAt (l * 128) = some rid → s.region rid = some g →
    let rs := g.rsOf (s.homeSlice l)
    ((rs + 2 ^ 32 - f % 2 ^ 32) % 2 ^ 32 < 2 ^ 31 → ∃ t, exec .refetchRequest s = .next t ∧ t.mem = s.mem ∧
      t.rounds.copies.lookup (nkey n l) = some (rs, memBytes s.mem (l * 128) 128) ∧ t.rounds.parked = s.rounds.parked) ∧
    (2 ^ 31 ≤ (rs + 2 ^ 32 - f % 2 ^ 32) % 2 ^ 32 → ∃ t, exec .refetchRequest s = .next t ∧ t.mem = s.mem ∧ t.rounds.copies = s.rounds.copies ∧
      ⟨n, l, rid, f, h, k, b⟩ ∈ t.rounds.parked)) ∧
  (∀ (s : State) (n l f h k b rid : Nat) (g : Region), s.ev = .stallTimeout n l f h k b → s.rounds.parked = [⟨n, l, rid, f, h, k, b⟩] →
    s.region rid = some g → ∃ t, exec .stallTimeout s = .next t ∧ t.mem = s.mem ∧ t.rounds.parked = [] ∧
      t.rounds.copies.lookup (nkey n l) = some (g.rsOf (s.homeSlice l), memBytes s.mem (l * 128) 128) ∧
      (b = 0 → coreOf h = n → (s.hart h).wait = some (.stall l) → (t.hart h).wait = none ∧ (t.hart h).timedOut = true)) ∧
  (∀ (s : State) (rid slice : Nat) (g : Region), s.region rid = some g →
    (s.ev = .replicaUpdate rid slice → ∃ t, exec .replicaUpdate s = .next t ∧ t.mem = s.mem ∧ .replicaAck rid slice ∈ t.agenda ∧
      t.region rid = some { g with rs := tset slice g.round g.rs }) ∧
    (s.ev = .replicaAck rid slice → g.busy = true → slice ∈ g.acks →
      (g.acks.erase slice ≠ [] → ∃ t, exec .replicaAck s = .next t ∧ t.mem = s.mem ∧ t.region rid = some { g with acks := g.acks.erase slice }) ∧
      (g.acks.erase slice = [] → ∃ t, exec .replicaAck s = .next t ∧ (∀ d, d < s.dies → .roundNotice rid d g.round ∈ t.agenda) ∧
        ∀ h rd, g.queue = [.hart h] → (s.hart h).wait = some (.publish rid rd) → 0 < rd →
          (t.hart h).wait = none ∧ (t.hart h).xr rd = BitVec.ofNat 64 g.round)) ∧
    (s.ev = .replicaAck rid slice → g.busy = false ∨ slice ∉ g.acks → exec .replicaAck s = .next s) ∧
    (∀ d r, s.ev = .roundNotice rid d r → r % 2 ^ 24 ≠ 0 → ∃ t, exec .roundNotice s = .next t ∧ t.mem = s.mem ∧ t.rounds.copies = s.rounds.copies ∧
      t.region rid = some (if (r + 2 ^ 32 - g.viewOf d % 2 ^ 32) % 2 ^ 32 < 2 ^ 31 then { g with view := tset d r g.view } else g)))

end

section

open Sys2Proof Sys2Proof.Machine Sys2Proof.Claims

/-- WALK_COMPLETE, INVAL, ATS_INVALIDATE, PRG_RESPONSE, PRTO_EXPIRY, HOST_PORT_RESET, PSTOP and DRAIN_TIMEOUT complete: a walk is made, the
translations named are gone, a parked access goes on or takes its trap, a slot is freed. -/
def Obligations.TranslationsAreWalkedAndDropped : Prop :=
  (∀ (s : State) (u p va acc root : Nat) (hdm : Option Nat), s.ev = .walkComplete u p va acc →
    (s.rootOf (pasidCx u p (unitDie u)) = none ∨ s.rootOf (pasidCx u p (unitDie u)) = some none → exec .walkComplete s = .next s) ∧
    (s.rootOf (pasidCx u p (unitDie u)) = some (some (root, hdm)) → exec .walkComplete s = .next
      (s.walkFor (pasidCx u p (unitDie u)) (if acc = 0 then .load else if acc = 1 then .store else .fetch) (va % 2 ^ 57) root hdm).1)) ∧
  (∀ (s : State) (c : MCmd), s.ev = .inval c → let a := c.arg 0
    let pasid := if a.testBit 20 then some (a % 2 ^ 20) else none
    let asid := if a.testBit 20 then none else some (a % 2 ^ 20)
    (s.inTurn c = false → exec .inval s = .next (s.due [.inval c])) ∧
    (s.inTurn c = true → 2 ^ 21 ≤ a ∨ 2 ^ 52 ≤ c.arg 2 → exec .inval s = .next (s.answer c 1)) ∧
    (s.inTurn c = true → a < 2 ^ 21 → c.arg 2 < 2 ^ 52 → ownWindowVa (c.arg 1) = false →
      (a.testBit 20 = false ∨ ∃ x, s.ctxOf (a % 2 ^ 20) = some x ∧ x.2.state = 1) →
      (s.anyAtom = true → exec .inval s = .next (s.due [.inval c])) ∧
      (s.anyAtom = false → s.gbnd = false → ∃ t : State, exec .inval s = .next (t.answer c 0) ∧
        ∀ e ∈ t.xlat.tlb, invHits pasid asid (c.arg 1) (c.arg 2 * 4096) e = false))) ∧
  (∀ (s : State) (p va pages : Nat), s.ev = .atsInvalidate p va pages →
    (s.anyAtom = true → exec .atsInvalidate s = .next (s.due [.atsInvalidate p va pages])) ∧
    (s.anyAtom = false → s.gbnd = false → ∃ t : State, exec .atsInvalidate s = .next t ∧ t.mem = s.mem ∧
      t.host.answer = s.host.answer ++ [[1, p, va, pages * 4096]] ∧ ∀ e ∈ t.xlat.tlb, invHits (some p) none va (pages * 4096) e = false)) ∧
  (∀ (s : State) (idx code h k cause : Nat) (va : Word) (g : Prg) (x : Ctx), (s.xlat.prgs.find? fun g => g.idx == idx) = some g →
    g.who = .scalar h → (s.hart h).wait = some (.page k cause va) → (s.hart h).priv ≠ .m →
    (s.ev = .prgResponse idx code → g.orphan = false → s.xlat.ctx.lookup g.slot = some x → x.gen = g.gen → x.state = 1 → s.xlat.parkq = [] →
      ∃ t : State, exec .prgResponse s = .next t ∧ t.mem = s.mem ∧ (∀ e ∈ t.xlat.prgs, e.idx ≠ idx) ∧
        (code = 0 → t.hart h = { s.hart h with wait := none }) ∧ (code ≠ 0 → TakesTrap (s.hart h) (t.hart h) cause va) ∧
        t.xlat.ctx.lookup g.slot = some { x with prgn := x.prgn - 1 }) ∧
    (s.ev = .prtoExpiry idx → idx < 512 → ∃ t : State, exec .prtoExpiry s = .next t ∧ t.mem = s.mem ∧
      TakesTrap (s.hart h) (t.hart h) cause va ∧ (t.xlat.prgs.find? fun g => g.idx == idx) = some { g with who := .nobody })) ∧
  (∀ (s : State), s.ev = .hostPortReset → s.xlat.parkq = [] → ∃ t : State, exec .hostPortReset s = .next t ∧ t.mem = s.mem ∧ t.harts = s.harts ∧
    ∀ g, g ∈ t.xlat.prgs ↔ g ∈ s.xlat.prgs ∧ g.orphan = false ∧ g.who ≠ .nobody) ∧
  (∀ (s : State) (c : MCmd) (slot : Nat) (x : Ctx), s.ev = .pstop c →
    (s.ctxOf (c.arg 0) = none → exec .pstop s = .next (s.answer c 3)) ∧
    (c.arg 0 < 2 ^ 20 → s.ctxOf (c.arg 0) = some (slot, x) → s.pstopOf (c.arg 0) = some c →
      (x.state = 1 → s.inTurn c = true → exec .pstop s = .next ((s.beginStop (c.arg 0) slot x).due [.pstop c])) ∧
      (x.state = 2 → s.stopAcked (c.arg 0) = false → exec .pstop s = .next (s.due [.pstop c])) ∧
      (x.state = 2 → s.stopAcked (c.arg 0) = true → x.orphans = 0 → s.xlat.ctx.lookup slot = some x → ∃ t : State, exec .pstop s = .next t ∧
        t.xlat.ctx.lookup slot = some { x with state := 0, gen := (x.gen + 1) % 16, orphans := 0, prgn := 0 } ∧
        ∀ e ∈ t.xlat.tlb, e.tag ≠ .pasid (c.arg 0)))) ∧
  (∀ (s : State) (slot : Nat) (x : Ctx), s.ev = .drainTimeout slot → s.xlat.ctx.lookup slot = some x →
    (x.state ≠ 3 → exec .drainTimeout s = .next s) ∧
    (x.state = 3 → ∃ t : State, exec .drainTimeout s = .next t ∧
      t.xlat.ctx.lookup slot = some { x with state := 0, gen := (x.gen + 1) % 16, orphans := 0, prgn := 0 }))

/-- Each management command waits for its turn, answers the refusals named here, and completes on the arguments named here with its object
made or ended and an answer of OK. -/
def Obligations.ManagementCommandsAreExecuted : Prop :=
  (∀ (s : State) (c : MCmd), s.inTurn c = false →
    ∀ p ∈ [(Instr.qcreate, Ev.qcreate c), (.qdestroy, .qdestroy c), (.pbind, .pbind c), (.winen, .winen c), (.wallset, .wallset c), (.rcreate, .rcreate c),
      (.rdestroy, .rdestroy c), (.epcreate, .epcreate c), (.epdestroy, .epdestroy c), (.peerset, .peerset c), (.nwinreg, .nwinreg c),
      (.hwinset, .hwinset c), (.ptpset, .ptpset c), (.gpolicy, .gpolicy c), (.ggrant, .ggrant c), (.selftest, .selftest c), (.info, .info c),
      (.meminfo, .meminfo c)], s.ev = p.2 → exec p.1 s = .next (s.due [p.2])) ∧
  (∀ (s : State) (c : MCmd), s.inTurn c = true → let p := c.arg 0
    (∀ u b, s.ev = .qcreate c → s.imageAt p 128 = (u, some b) → u.pasidStatus (field b 4 4) = 0 → field b 4 4 < 2 ^ 20 → u.queueBad b = false →
      ∀ n, field b 0 4 = n → n ≠ 0 → u.queue n = none → u.pinsFull (queueImage b).pins = false → ∃ t : State, exec .qcreate s = .next (t.answer c 0 n) ∧
        t.queue n = some (queueImage b) ∧ ∀ m, m ≠ n → t.queue m = u.queue m) ∧
    (∀ u, s.ev = .qcreate c → s.imageAt p 128 = (u, none) → exec .qcreate s = .next (u.answer c 1)) ∧
    (s.ev = .qdestroy c → s.queue p = none → exec .qdestroy s = .next (s.answer c 3)) ∧
    (∀ q, s.ev = .qdestroy c → s.queue p = some q → s.pasidLive q.pasid = true → c.arg 1 = 0 → q.dying = false → ∃ t : State, exec .qdestroy s = .next t ∧
      t.queue p = some { q with enders := q.enders ++ [c], dying := true, state := if q.state = 0 then 1 else q.state }) ∧
    (s.ev = .pbind c → 0 < p → p < 2 ^ 20 → c.arg 1 = 0 → c.arg 2 % 4096 = 0 → s.readablePa (c.arg 2) 4096 = true → s.inLog (c.arg 2) = false →
      (s.ctxOf p ≠ none → exec .pbind s = .next (s.answer c 5)) ∧
      (∀ i, s.ctxOf p = none → leastBelow 4096 (fun i => (tget default s.xlat.ctx i).state == 0) = some i → ∃ t : State, exec .pbind s = .next (t.answer c 0 i) ∧
        t.xlat.ctx.lookup i = some ⟨p, false, 1, (tget default s.xlat.ctx i).gen, c.arg 2, 0, 0, 0⟩)) ∧
    (s.ev = .pbind c → p = 0 ∨ 2 ^ 20 ≤ p → exec .pbind s = .next (s.answer c 1)) ∧
    (s.ev = .winen c → s.pasidLive p = true → c.arg 1 < 16 → ∃ t : State, exec .winen s = .next (t.answer c 0) ∧ tget 0 t.xlat.winEn p = c.arg 1) ∧
    (s.ev = .wallset c → s.vpcap.toNat.testBit 6 = true → p < s.dies → c.arg 1 ≠ 0 → c.arg 1 < 2 ^ 64 → c.arg 3 % 8192 = 0 → ownWindowVa (c.arg 3) = false → c.arg 4 < 2 ^ 20 →
      s.pasidLive (c.arg 4) = true → ∃ t : State, exec .wallset s = .next (t.answer c 0) ∧ t.tqe.spill.lookup p = some (c.arg 3, c.arg 4) ∧
        ∀ i, i < 64 → ((t.core (p * 128 + i)).wall = (c.arg 1).testBit i)) ∧
    (∀ u v pa b rid, s.ev = .rcreate c → s.pasidStatus (c.arg 1) = 0 → (BitVec.ofNat 64 p : Word).toNat % 32 = 0 →
      s.xlateRange (pasidCx unitHost (c.arg 1) 4) .load (BitVec.ofNat 64 p) 32 = (u, .ok pa) → isLocal pa = false → u.imageAt pa 32 = (v, some b) →
      v.regionBad pa (c.arg 1) b = false → leastBelow 1024 (fun i => (v.region i).isNone) = some rid → ∃ t : State, exec .rcreate s = .next (t.answer c 0 rid) ∧
        ∃ g, t.region rid = some g ∧ g.pbase = field b 0 8 ∧ g.size = field b 8 4 ∧ g.pasid = c.arg 1 ∧ g.desc = pa ∧ g.round = field b 0x10 4 ∧
          g.rs0 = field b 0x10 4 ∧ g.view0 = field b 0x10 4 ∧ g.busy = false) ∧
    (∀ g, s.ev = .rdestroy c → s.region p = some g → s.pasidLive g.pasid = true → g.busy = false → g.queue = [] → ∃ t : State,
      exec .rdestroy s = .next (t.answer c 0) ∧ t.region p = none) ∧
    (∀ u v b pas lep, s.ev = .epcreate c → p % 128 = 0 → s.imageAt p 128 = (u, some b) → field b 0 4 < 2 ^ 20 → u.pasidStatus (field b 0 4) = 0 →
      (field b 9 1) &&& (255 - u.vpcap.toNat / 2 ^ 16 % 2 ^ 8) = 0 → u.epBad b (epOf b []) = false →
      leastBelow 4096 (fun i => (u.net.eps.lookup i).isNone) = some lep →
      State.pagePas (pasidCx unitNet (field b 0 4) 4) ((field b 0xC 4 * 32 + 4095) / 4096) (BitVec.ofNat 64 (field b 0x40 8)) u = (v, some pas) →
      ∃ t : State, exec .epcreate s = .next (t.answer c 0 lep) ∧ t.net.eps.lookup lep = some (epOf b pas)) ∧
    (∀ e, s.ev = .epdestroy c → s.net.eps.lookup p = some e → s.pasidLive e.pasid = true → ∃ t : State, exec .epdestroy s = .next (t.answer c 0) ∧
      t.net.eps.lookup p = none) ∧
    (∀ e u b, s.ev = .peerset c → s.net.eps.lookup p = some e → s.pasidLive e.pasid = true → c.arg 1 < e.npeer → c.arg 2 % 32 = 0 →
      s.imageAt (c.arg 2) 32 = (u, some b) → peerBad b (peerOf b) = false → (u.net.msgs.filter fun m => m.2.lep == p && m.2.peer == c.arg 1) = [] →
      ∃ t : State, exec .peerset s = .next (t.answer c 0) ∧ t.net.peers.lookup (p * 65536 + c.arg 1) = some (peerOf b)) ∧
    (∀ e i, s.ev = .nwinreg c → s.net.eps.lookup p = some e → s.pasidLive e.pasid = true → ownWindowVa (c.arg 1) = false → c.arg 3 ≤ 3 →
      leastBelow 65535 (fun i => (s.net.wins.lookup (p * 65536 + (i + 1))).isNone) = some i → ∃ t : State, exec .nwinreg s = .next (t.answer c 0 (i + 1)) ∧
        t.net.wins.lookup (p * 65536 + (i + 1)) = some ⟨c.arg 1, c.arg 2, (c.arg 3).testBit 0, (c.arg 3).testBit 1⟩) ∧
    (∀ i ∈ [(Instr.epdestroy, Ev.epdestroy c), (.peerset, .peerset c), (.nwinreg, .nwinreg c)], s.ev = i.2 → s.net.eps.lookup p = none →
      exec i.1 s = .next (s.answer c 3)) ∧
    (s.ev = .hwinset c → p < 4096 → c.arg 1 % 4 ≠ 3 → c.arg 1 % 4 ≠ 1 ∨ s.vpcap.toNat.testBit 32 = true → ∃ t : State,
      exec .hwinset s = .next (t.answer c 0) ∧ t.host.win.lookup p = some (c.arg 1 % 16)) ∧
    (s.ev = .hwinset c → c.arg 1 % 4 = 3 → exec .hwinset s = .next (s.answer c 1)) ∧
    (s.ev = .ptpset c → (7 < p ∨ s.vpcap.toNat.testBit (16 + p) = false → exec .ptpset s = .next (s.answer c 4)) ∧
      (p ≤ 7 → s.vpcap.toNat.testBit (16 + p) = true → ∃ t : State, exec .ptpset s = .next (t.answer c 0) ∧ t.net.ptpcfg = (p, c.arg 1))) ∧
    (∀ u b, s.ev = .gpolicy c → s.gsk = true → p % 64 = 0 → s.imageAt p 2048 = (u, some b) → policyBad b = false → ∃ t : State,
      exec .gpolicy s = .next (t.answer c 0) ∧ t.guest.policy = b ∧ t.guest.pol = true ∧ t.guest.state = u.guest.state) ∧
    (s.ev = .gpolicy c → s.gsk = false → exec .gpolicy s = .next (s.answer c 4)) ∧
    (s.ev = .ggrant c → s.gbnd = true → p ≠ 0 → s.pasidLive p = true → c.arg 1 = 1 → p ∉ s.guest.grants → s.guest.grants.length < 256 → ∃ t : State,
      exec .ggrant s = .next (t.answer c 0) ∧ t.guest.grants = s.guest.grants ++ [p]) ∧
    (s.ev = .selftest c → p < s.dies → c.arg 1 < 128 → ∃ t : State, exec .selftest s = .next t ∧ (t.core (p * 128 + c.arg 1)).selftest = true ∧
      (t.core (p * 128 + c.arg 1)).quar = true) ∧
    (s.ev = .selftest c → s.dies ≤ p → p < 4 → c.arg 1 < 128 → exec .selftest s = .next (s.answer c 4)) ∧
    (s.ev = .selftest c → 4 ≤ p ∨ 128 ≤ c.arg 1 → exec .selftest s = .next (s.answer c 1)) ∧
    (s.ev = .info c → exec .info s = .next (s.answer c 0 s.vpcap.toNat s.peerMask)) ∧
    (s.ev = .meminfo c → exec .meminfo s = .next (s.answer c 0 (((List.range s.dies).map fun d => s.gddr d / 2 ^ 30 % 256 * 2 ^ (8 * d)).sum)))) ∧
  (∀ (s : State) (c : MCmd) (st r0 r1 : Nat), c.slot < 256 → c.hart = none → c.flags % 2 = 0 →
    let t := s.answer c st r0 r1
    t.fe.resp.lookup c.slot = some (responseBytes st c.tag r0 r1) ∧ t.fe.cmds = s.fe.cmds.erase c ∧ c.slot ∉ t.fe.busy ∧ t.mem = s.mem ∧ t.harts = s.harts)

end

section

open Sys2Proof Sys2Proof.Machine Sys2Proof.Claims

/-- NET_PACKET_RX, NET_READ_REQUEST, NET_ACK, NET_NACK, NET_RETRANSMIT_TIMER, NET_COMPLETION_ACK, NET_TIMEOUT, PROBE and PTP_EVENT complete:
a packet is placed or refused, a read answered, a message acknowledged, sent again, ended. -/
def Obligations.NetworkEvents : Prop :=
  (∀ (s : State) (p : NetPkt) (e : Ep), s.net.eps.lookup p.lep = some e → p.kind ≠ 2 ∧ s.ev = .netPacketRx p ∨ s.ev = .netReadRequest p →
    let i := if s.ev = .netReadRequest p then Instr.netReadRequest else .netPacketRx
    e.job ≠ p.job → ∃ t : State, exec i s = .next t ∧ t.mem = s.mem ∧ t.net.acks = s.net.acks ∧ t.net.rx = s.net.rx ∧
      t.net.eps.lookup p.lep = some { e with jobdrops := e.jobdrops + 1 }) ∧
  (∀ (s u : State) (p : NetPkt) (e : Ep) (x : Nat × Ctx), s.ev = .netPacketRx p → p.kind = 1 → p.mode = 0 → s.net.eps.lookup p.lep = some e →
    e.job = p.job → s.ctxOf e.pasid = some x → x.2.state = 1 → s.rxOf p = none →
    (s.windowOk p true = false → ∃ t : State, exec .netPacketRx s = .next t ∧ t.mem = s.mem ∧
      t.net.acks = s.net.acks ++ [[3, p.lep, p.initiator, p.mid, 20]]) ∧
    (s.windowOk p true = true → 1 < p.npkt → s.writeVa e.cx (BitVec.ofNat 64 (p.rva + p.psn * 4096)) p.payload = (u, .ok ()) →
      ∃ t : State, exec .netPacketRx s = .next t ∧ t.mem = u.mem ∧ t.net.acks = u.net.acks ++ [[0, p.lep, p.initiator, p.mid, p.psn]] ∧
        ∃ r, t.rxOf p = some r ∧ r.placed = [p.psn] ∧ r.fired = false ∧ r.code = 0)) ∧
  (∀ (s u v : State) (p : NetPkt) (e : Ep) (x : Nat × Ctx) (ps : List (Nat × Nat)) (bs : List Byte), s.ev = .netReadRequest p → p.mode = 0 →
    s.net.eps.lookup p.lep = some e → e.job = p.job → s.ctxOf e.pasid = some x → x.2.state = 1 → s.rxOf p = none →
    (s.windowOk p false = false → ∃ t : State, exec .netReadRequest s = .next t ∧ t.net.acks = s.net.acks ++ [[3, p.lep, p.initiator, p.mid, 20]]) ∧
    (s.windowOk p false = true → s.xlateAll e.cx .load (BitVec.ofNat 64 p.rva) p.len = (u, .ok ps) → (∀ q ∈ ps, u.readSensitive q.1 = false) →
      u.readVa e.cx (BitVec.ofNat 64 p.rva) p.len = (v, .ok bs) → ∃ (t : State) (l : List NetPkt), exec .netReadRequest s = .next t ∧ t.mem = v.mem ∧
        t.net.sent = v.net.sent ++ l ∧ l.length = (p.len + 4095) / 4096 ∧
        ∀ i q, l[i]? = some q → q.psn = i ∧ q.mid = p.mid ∧ q.target = p.initiator ∧ q.payload = (bs.drop (i * 4096)).take 4096)) ∧
  (∀ (s : State) (id psn : Nat) (m : Msg), s.net.msgs.lookup id = some m →
    (s.ev = .netAck id psn → (m.state ≠ 2 ∨ m.kind = 2 ∨ psn ∈ m.acked ∨ m.npkt ≤ psn → exec .netAck s = .next s) ∧
      (m.state = 2 → m.kind ≠ 2 → psn ∉ m.acked → psn < m.npkt → (∀ p, s.net.peers.lookup (m.lep * 65536 + m.peer) = some p → p.mode ≠ 2) →
        ∃ t : State, exec .netAck s = .next t ∧ t.net.msgs.lookup id = some { m with acked := psn :: m.acked, code := 0 })) ∧
    (∀ e p i, s.net.eps.lookup m.lep = some e → s.net.peers.lookup (m.lep * 65536 + m.peer) = some p → m.state = 2 → psn < m.npkt →
      m.kind ≠ 2 → psn ∉ m.acked → m.acked.length ≠ m.npkt →
      (i = Instr.netNack ∧ ∃ full, s.ev = .netNack id psn full) ∨ (i = .netRetransmitTimer ∧ s.ev = .netRetransmitTimer id psn) →
      ∃ (t : State) (q : NetPkt), exec i s = .next t ∧ t.net.sent = s.net.sent ++ [q] ∧ q.psn = psn ∧ q.mid = id ∧ q.kind = m.kind ∧ q.lep = p.rlep ∧
        q.rva = m.rva ∧ q.payload = (m.buf.drop (psn * 4096)).take 4096 ∧
        tget 0 t.net.retx (m.lep * 65536 + m.peer) = tget 0 s.net.retx (m.lep * 65536 + m.peer) + 1) ∧
    (s.ev = .netRetransmitTimer id psn → m.state = 1 → exec .netRetransmitTimer s = .next (s.tryMsg id)) ∧
    (∀ code, s.ev = .netCompletionAck id code → (m.state ≠ 2 → exec .netCompletionAck s = .next s) ∧
      (m.state = 2 → code ≠ 0 ∨ m.kind ≠ 2 → ∃ t : State, exec .netCompletionAck s = .next t ∧ t.net.msgs.lookup id = none)) ∧
    (s.ev = .netTimeout id → ∃ t : State, exec .netTimeout s = .next t ∧ t.net.msgs.lookup id = none ∧
      (m.inst = none → t.net.fails = s.net.fails ++ [(2 ^ 64 + m.hart, m.tag, if m.code = 23 then 23 else 24)]))) ∧
  (∀ (s : State) (lep from_ mid : Nat) (x : Rx), s.ev = .probe lep from_ mid →
    (s.net.rx.find? fun r => r.lep == lep && r.from_ == from_ && r.mid == mid) = some x → ∃ t : State, exec .probe s = .next t ∧ t.mem = s.mem ∧
      t.agenda = s.agenda ∧ t.net.rx = s.net.rx ∧ t.net.acks = s.net.acks ++ (if x.fired = true ∨ x.code ≠ 0 then [[3, lep, from_, mid, x.code]]
        else x.placed.map fun p => [0, lep, from_, mid, p])) ∧
  (∀ (s : State) (d off ppm : Nat), s.ev = .ptpEvent d off ppm → ∃ t : State, exec .ptpEvent s = .next t ∧ tget 0 t.net.ptp d = off ∧
    t.tqe.dtime = s.tqe.dtime ∧ (∀ e, e ≠ d → tget 0 t.net.ptp e = tget 0 s.net.ptp e) ∧
    (signed ppm 64 ≤ 500 → -500 ≤ signed ppm 64 → ((BitVec.ofNat 64 (tget 0 t.net.ppm d) : Word)).toInt = signed ppm 64))

/-- HOST_PUT, PUT_RESULT_READ, the BAR4 accesses, HOST_ATOMICOP, the snoops, HOST_READ_COMPLETE, ATOMICOP_COMPLETION, COMPLETION_TIMEOUT,
HOST_LINK_DOWN and DOORBELL complete with the answer to the host, or the end of what waited for it. -/
def Obligations.HostEvents : Prop :=
  (∀ (s u : State) (qid d off who n : Nat) (pasid : Option Nat) (image : List Byte), s.ev = .hostPut qid d off who pasid image →
    (s.queue qid = none → exec .hostPut s = .next s) ∧
    (∀ q, s.queue qid = some q → qid ≠ 0 → d < 4 → off < 0x40 → off ≠ 0 ∨ image.length ≠ 64 → exec .hostPut s = .next (s.badPut qid d who pasid)) ∧
    (∀ q p, s.queue qid = some q → qid ≠ 0 → d < 4 → off = 0 → image.length = 64 → pasid = some p →
      (p ≠ q.pasid → exec .hostPut s = .next (s.badPut qid d who pasid)) ∧
      (p = q.pasid → s.offer qid q d (imageOf image) false = (u, .taken n) → ∃ t : State, exec .hostPut s = .next t ∧ t.tqe = u.tqe ∧ t.mem = u.mem ∧
        (t.host.result.find? fun r => r.1 == who && r.2.1 == p) = some (who, p, n % 2 ^ 62 * 4)))) ∧
  (∀ (s : State) (q d who p : Nat), s.ev = .putResultRead q d who (some p) → ∃ t : State, exec .putResultRead s = .next t ∧ t.mem = s.mem ∧
    t.host.result = s.host.result ∧ ∃ v, t.host.answer = s.host.answer ++ [[4, q, d, who, v]] ∧
      (q = 0 → v = 0) ∧ (q ≠ 0 → (∀ r ∈ s.host.result, r.1 ≠ who ∨ r.2.1 ≠ p) → v = 3) ∧
      ∀ r, q ≠ 0 → (s.host.result.find? fun r => r.1 == who && r.2.1 == p) = some r → v = r.2.2) ∧
  (∀ (s : State) (off len : Nat), s.ev = .hostBar4Read off len → let u := s.loadLines noNode off len
    (s.bar4Ok off len = false → exec .hostBar4Read s = .next (s.toHost [3, 1, 0])) ∧
    (s.bar4Ok off len = true → u.poisoned off len = true → exec .hostBar4Read s = .next ((u.poisonRecord off).toHost [3, 2, 0])) ∧
    (s.bar4Ok off len = true → u.poisoned off len = false → exec .hostBar4Read s = .next (u.toHost [3, 0, memNat u.mem off len]))) ∧
  (∀ (s : State) (off : Nat) (bs : List Byte), s.ev = .hostBar4Write off bs →
    exec .hostBar4Write s = .next (if s.bar4Ok off bs.length then s.agentWrite off bs else s.toHost [3, 1, 0])) ∧
  (∀ (s : State) (bar off op w x y : Nat), s.ev = .hostAtomicop bar off op w x y →
    (bar ≠ 4 ∨ off % w ≠ 0 ∨ (op ≠ 0 ∧ op ≠ 8 ∧ op ≠ 10) → exec .hostAtomicop s = .next (s.toHost [5, 1, 0])) ∧
    (bar = 4 → off % w = 0 → ((op = 0 ∨ op = 8) ∧ (w = 4 ∨ w = 8)) ∨ (op = 10 ∧ (w = 4 ∨ w = 8 ∨ w = 16)) → s.bar4Ok off w = true → s.inRegion off = false →
      let r := s.atomicAt noNode off op w (x % 2 ^ (8 * w)) (y % 2 ^ (8 * w))
      exec .hostAtomicop s = .next (r.1.toHost [5, 0, r.2]))) ∧
  (∀ (s : State) (l : Nat), s.coh.txn.lookup l = none →
    (s.outer l = 0 → ∀ p ∈ [(Instr.snpinv, Ev.snpinv l), (.snpdata, .snpdata l), (.snpcur, .snpcur l)], s.ev = p.2 →
      exec p.1 s = .next (s.toHost [6, l, 0])) ∧
    (s.outer l ≠ 0 →
      (s.ev = .snpinv l → let u := (State.settle settleFuel l (s.homeServe l .evict)).setOuter l 0
        exec .snpinv s = .next (u.toHost [6, l, 1, memNat u.mem (l * 128) 128])) ∧
      (s.ev = .snpdata l → let u := (s.cohRead noNode l).setOuter l 1
        exec .snpdata s = .next (u.toHost [6, l, 1, memNat u.mem (l * 128) 128])) ∧
      (s.ev = .snpcur l → let u := s.cohRead noNode l
        exec .snpcur s = .next (u.toHost [6, l, 1, memNat u.mem (l * 128) 128])))) ∧
  (∀ (s : State) (l n h : Nat) (own : Bool) (t : Txn), s.ev = .hostReadComplete l own [] → s.backing (l * 128) = .host h →
    s.coh.txn.lookup l = some t → t.phase = 2 → t.req = .gets n → (s.dir l).st = 0 → NoneWaits s l → s.inLlc l = true →
    Answers .hostReadComplete s l (.share n) [.dataS n l]) ∧
  (∀ (s : State) (h loc op n x y rd : Nat) (va : Word) (ok : Bool), s.ev = .atomicopCompletion h ok →
    (s.hart h).wait = some (.host loc va op n x y rd) →
    (ok = true → n ≠ 16 → let u : State := { s with host := { s.host with atomics := s.host.atomics.filter fun a => a.1 != h } }
      let r := u.atomicAt noNode loc op n x y
      exec .atomicopCompletion s = .next (r.1.finish h rd (if n = 4 then (BitVec.ofNat 32 r.2).signExtend 64 else BitVec.ofNat 64 r.2)) ∧
        (s.cached loc = false → s.portOf loc = none → r.2 = memNat s.mem loc n ∧ r.1.mem = memPutNat loc n (amoOp op n (memNat s.mem loc n) x y) s.mem)) ∧
    (ok = false → (s.hart h).priv ≠ .m → ∃ t : State, exec .atomicopCompletion s = .next t ∧ t.mem = s.mem ∧ TakesTrap (s.hart h) (t.hart h) 7 va)) ∧
  (∀ (s : State) (port h loc op n x y rd : Nat) (va : Word), s.ev = .completionTimeout port h →
    ((s.hart h).wait = some (.host loc va op n x y rd) → (∃ a ∈ s.host.atomics, a.1 = h ∧ s.hostPortOf a.2 = some port) →
      (s.hart h).priv ≠ .m → ∃ t : State,
      exec .completionTimeout s = .next t ∧ t.mgmt.logn = s.mgmt.logn + 1 ∧ TakesTrap (s.hart h) (t.hart h) 7 va) ∧
    ((∀ a ∈ s.host.atomics, a.1 ≠ h ∨ s.hostPortOf a.2 ≠ some port) → s.coh.txn = [] → ∃ t : State,
      exec .completionTimeout s = .next t ∧ t.mgmt.logn = s.mgmt.logn + 1 ∧ t.harts = s.harts)) ∧
  (∀ (s : State) (port : Nat), s.ev = .hostLinkDown port → s.host.atomics = [] → s.coh.txn = [] → ∃ t : State, exec .hostLinkDown s = .next t ∧
    port ∈ t.host.down ∧ (∀ w ∈ t.host.posted, w.1 ≠ port) ∧ t.mgmt.logn = s.mgmt.logn + 1 ∧ t.harts = s.harts) ∧
  (∀ (s : State) (bs : List Byte), s.ev = .doorbell 8 bs → bs.length = 8 → let slot := leNat bs % 256
    let c := parseCmd (tget (List.replicate 128 0) s.fe.cmdb slot) slot 0 none
    (256 ≤ leNat bs ∨ slot ∈ s.fe.busy ∨ s.fe.state ≠ 2 ∨ 320 ≤ s.fe.cmds.length → ∃ t : State, exec .doorbell s = .next t ∧ t.fe.drops = (s.fe.drops + 1) % 2 ^ 32 ∧
      t.fe.cmds = s.fe.cmds ∧ t.agenda = s.agenda) ∧
    (∀ e, leNat bs < 256 → slot ∉ s.fe.busy → s.fe.state = 2 → s.fe.cmds.length < 320 → cmdEv c = some e → ∃ t : State,
      exec .doorbell s = .next t ∧ t.fe.cmds = s.fe.cmds ++ [c] ∧ t.agenda = s.agenda ++ [e] ∧ slot ∈ t.fe.busy ∧ t.fe.drops = s.fe.drops))

/-- Attestation, the messages of a bound guest, its coherent requests and answers, its duties and its protocol errors complete; an unbound
bridge accepts no message. -/
def Obligations.GuestEvents : Prop :=
  (∀ (s : State) (iid st det res pasid tag va c kind l pa op w x y : Nat) (cells : List Host.Cell) (d : List Byte), s.gbnd = false →
    ∀ p ∈ [(Instr.guestDone, Ev.guestDone iid st det), (.guestSaved, .guestSaved iid res), (.guestXreq, .guestXreq pasid tag va st),
      (.guestInvack, .guestInvack pasid tag), (.guestPstopack, .guestPstopack pasid tag), (.guestFire, .guestFire pasid tag c),
      (.guestCohRequest, .guestCohRequest kind pasid pa op w x y cells), (.guestHomeAnswer, .guestHomeAnswer l kind d)], s.ev = p.2 →
      exec p.1 s = .next s) ∧
  (∀ (s : State), s.gbnd = true →
    (s.guestWrites = true → ∀ iid st res pasid tag c, ∀ p ∈ [(Instr.guestDone, Ev.guestDone iid st res), (.guestSaved, .guestSaved iid res),
      (.guestFire, .guestFire pasid tag c)], s.ev = p.2 → exec p.1 s = .next (s.due [p.2])) ∧
    (∀ iid st det, s.ev = .guestDone iid st det → s.guestWrites = false →
      (iid ∈ s.guest.discard → ∃ t : State, exec .guestDone s = .next t ∧ t.guest.discard = s.guest.discard.erase iid ∧ t.tqe = s.tqe ∧ t.mem = s.mem) ∧
      (iid ∉ s.guest.discard → iid ∉ s.guest.runs → exec .guestDone s = .next (s.isolate 6)) ∧
      (iid ∉ s.guest.discard → iid ∈ s.guest.runs → 2 < st → exec .guestDone s = .next (s.isolate 7)) ∧
      (∀ t, iid ∉ s.guest.discard → iid ∈ s.guest.runs → st = 0 → iid ∉ s.guest.preempts → s.tqe.insts.lookup iid = some t →
        exec .guestDone s = .next ((s.answered iid).endInst iid true 7))) ∧
    (∀ iid res t p q, s.ev = .guestSaved iid res → s.guestWrites = false → s.tqe.insts.lookup iid = some t → iid ∈ s.guest.runs → t.asked = true → iid ∉ s.guest.preempts →
      res ≠ 0 → s.tqe.pkts.lookup t.pk = some p → s.queue p.q = some q → q.state < 2 → ∃ u : State, exec .guestSaved s = .next u ∧ u.mem = s.mem ∧
        u.tqe.insts.lookup iid = some { t with saved := true, gresume := res } ∧ iid ∉ u.guest.runs ∧
        ∃ e ∈ (u.qpart p.q t.home).ents, e.work = 3 ∧ e.inst = iid ∧ e.pk = t.pk) ∧
    (∀ pasid tag va r, s.ev = .guestXreq pasid tag va r → (pasid ∈ s.guest.grants → exec .guestXreq s = .next (s.answerXreq pasid tag va r)) ∧
      (pasid ∉ s.guest.grants → ∃ t : State, exec .guestXreq s = .next t ∧ t.guest.sent = s.guest.sent ++ [[6, pasid, tag, 0, 6]] ∧
        t.mgmt.logn = s.mgmt.logn + 1)) ∧
    (∀ pasid tag i, s.ev = .guestInvack pasid tag → (s.xlat.invals.find? fun i => i.tag == tag && i.pasid.getD 0 == pasid) = some i →
      i.cmd = none → ∃ t : State, exec .guestInvack s = .next t ∧ i ∉ t.xlat.invals ∧
        ∀ e ∈ t.xlat.tlb, e.unit = unitGuest → invHits i.pasid i.asid i.va i.len e = false) ∧
    (∀ pasid tag, s.ev = .guestPstopack pasid tag → ((pasid, tag) ∉ s.guest.pstops → exec .guestPstopack s = .next (s.isolate 7)) ∧
      ((pasid, tag) ∈ s.guest.pstops → s.guestRunsOf pasid = true → exec .guestPstopack s = .next (s.isolate 2)) ∧
      ((pasid, tag) ∈ s.guest.pstops → s.guestRunsOf pasid = false → ∃ t : State, exec .guestPstopack s = .next t ∧ t.mem = s.mem ∧
        (pasid, tag) ∉ t.guest.pstops ∧ ∀ e ∈ t.xlat.tlb, ¬ (e.unit = unitGuest ∧ e.tag = .pasid pasid))) ∧
    (∀ pasid tag c, s.ev = .guestFire pasid tag c → s.guestWrites = false →
      (pasid ∉ s.guest.grants ∨ cspecBad c = true → ∃ t : State, exec .guestFire s = .next t ∧ t.guest.sent = s.guest.sent ++ [[0xC, pasid, tag, 1]]) ∧
      (pasid ∈ s.guest.grants → c % 8 = 0 → cspecBad c = false → exec .guestFire s = .next (s.toGuest [0xC, pasid, tag, 0]))) ∧
    (∀ kind pasid pa op w x y cells, s.ev = .guestCohRequest kind pasid pa op w x y cells → let l := lineOf pa
      (8 < kind → exec .guestCohRequest s = .next (s.isolate 7)) ∧
      (kind ≤ 8 → (∀ c ∈ cells, lineOf c.1 = l) → pasid ∉ s.guest.grants → ∃ t : State, exec .guestCohRequest s = .next t ∧
        t.mgmt.logn = s.mgmt.logn + 1 ∧ t.agenda = s.agenda ∧ t.harts = s.harts) ∧
      (kind = 0 → (∀ c ∈ cells, lineOf c.1 = l) → pasid ∈ s.guest.grants → s.hubCovers pasid pa (true, false) = true → s.cached pa = true →
        s.ns guestPort l = .i → exec .guestCohRequest s =
          .next (State.settle settleFuel l ((s.setNs guestPort l .is).due [.gets guestPort l])))) ∧
    (∀ l k n g t, s.ev = .guestHomeAnswer l k [] → k = 1 ∨ k = 2 → s.backing (l * 128) = .guest g → s.coh.txn.lookup l = some t → t.phase = 3 →
      t.req = .gets n → (s.dir l).st = 0 → NoneWaits s l → s.inLlc l = true → Answers .guestHomeAnswer s l (.share n) [.dataS n l]) ∧
    (∀ duty, s.ev = .guestDutyTimeout duty → exec .guestDutyTimeout s = .next (if s.dutyOwed duty then s.isolate duty else s)) ∧
    (∀ k, s.ev = .protocolError k → k ≠ 0 → exec .protocolError s = .next (s.isolate (if k = 6 then 6 else 7)))) ∧
  (∀ (s : State), (s.gbnd = false → ∀ duty, s.isolate duty = s) ∧
    (s.ev = .attestStart → s.gsk = true → s.guest.state = 0 → ∃ t : State, exec .attestStart s = .next t ∧ t.guest.state = 1 ∧
      t.guest.sent = s.guest.sent ++ [[0x10, 0, s.tqe.stamp % 2 ^ 32]]) ∧
    (s.ev = .attestStart → s.guest.state ≠ 0 → exec .attestStart s = .next s) ∧
    (∀ v, s.ev = .guestSpdm v → s.guest.state = 1 → (v = 0 → s.guest.pol = true → ∃ t : State, exec .guestSpdm s = .next t ∧ t.guest.state = 2 ∧
        t.guest.gsize = field s.guest.policy 0 8 ∧ t.guest.grants = policyPasids s.guest.policy ∧ t.mem = s.mem) ∧
      (v ≠ 0 → ∃ t : State, exec .guestSpdm s = .next t ∧ t.guest.state = 0 ∧ t.mgmt.logn = s.mgmt.logn + 1)) ∧
    (s.ev = .attestTimeout → s.guest.state = 1 → ∃ t : State, exec .attestTimeout s = .next t ∧ t.guest.state = 0 ∧ t.mgmt.logn = s.mgmt.logn + 1))

/-- Lane checks, self-tests, the resets, power, temperature and attestation complete, and the three calls of `ecall` complete in S-mode with
their answer or hand their command to the front end; elsewhere they are environment calls. -/
def Obligations.BoardEventsAndCalls : Prop :=
  (∀ (s : State) (h lg lane elem : Nat), s.ev = .laneCheckFail h lg lane elem →
    ((s.hart h).running = none → exec .laneCheckFail s = .next s) ∧
    ((s.hart h).running ≠ none → ∃ t : State, exec .laneCheckFail s = .next t ∧ (t.core (coreOf h)).quar = true ∧ s.mgmt.logn < t.mgmt.logn)) ∧
  (∀ (s : State) (ci : Nat) (fails lanes : List Nat), s.ev = .selftestDone ci fails lanes →
    (512 ≤ ci ∨ (s.core ci).quar = false → exec .selftestDone s = .next s) ∧
    (ci < 512 → (s.core ci).quar = true → s.busyHarts ci ≠ [] → exec .selftestDone s = .next (s.due [.selftestDone ci fails lanes])) ∧
    (ci < 512 → (s.core ci).quar = true → s.busyHarts ci = [] → ∃ t : State, exec .selftestDone s = .next t ∧ (t.core ci).selftest = false ∧
      s.mgmt.logn < t.mgmt.logn)) ∧
  (∀ s : State, s.ev = .packageReset → ∃ t : State, exec .packageReset s = .next t ∧ t.part = s.part ∧ t.harts = [] ∧ t.cores = [] ∧ t.tqe.queues = [] ∧
    t.coh.dir = [] ∧ t.guest.state = 0 ∧ (∀ a, a < 0x100000000000 → memGet t.mem a = 0) ∧
    t.fe.state = if s.mgmt.images.length = 2 ∧ (∀ b ∈ s.mgmt.images, s.power.imageOk b = true) ∧ ∀ d, d < s.dies → s.gddr d ≠ 0 then 2 else 3) ∧
  (∀ (s : State) (d : Nat), s.ev = .dierst d → (d ∉ s.coh.severed → exec .dierst s = .next s) ∧
    (d ∈ s.coh.severed → ∃ t : State, exec .dierst s = .next t ∧ (d ∈ t.coh.severed ↔ s.gddr d = 0) ∧ ∀ h, hartDie h = d → t.hart h = Hart.init)) ∧
  (∀ s : State, s.ev = .gstrst → (s.gbnd = true → exec .gstrst s = .next (s.loseGuest 0)) ∧
    (s.gbnd = false → ∃ t : State, exec .gstrst s = .next t ∧ t.guest.state = 0 ∧ t.mem = s.mem ∧ t.harts = s.harts)) ∧
  (∀ (s : State) (w d : Nat),
    (s.ev = .plimSet w → ∃ t : State, exec .plimSet s = .next t ∧ t.mgmt.plim = (if 600 ≤ w ∧ w ≤ 1800 then w else s.mgmt.plim) ∧ t.mem = s.mem) ∧
    (s.ev = .thermalThrottle d → ∃ t : State, exec .thermalThrottle s = .next t ∧ t.cclk d = max 1000 (s.cclk d - 100) ∧ t.mem = s.mem ∧
      ∀ e, e ≠ d → t.cclk e = s.cclk e) ∧
    (s.ev = .throttleRecover d → ∃ t : State, exec .throttleRecover s = .next t ∧ t.cclk d = min 2000 (s.cclk d + 100) ∧ t.mem = s.mem) ∧
    (s.ev = .thermtrip d → (s.dies ≤ d ∨ d ∈ s.mgmt.tripped → exec .thermtrip s = .next s) ∧
      (d < s.dies → d ∉ s.mgmt.tripped → ∃ t : State, exec .thermtrip s = .next t ∧ d ∈ t.mgmt.tripped ∧ d ∈ t.coh.severed)) ∧
    (s.ev = .spdmRequest w → (1 ≤ w → w ≤ 5 → ∃ t : State, exec .spdmRequest s = .next t ∧ t.host.answer = s.host.answer ++ [[8, w, s.measurement w]] ∧
        t.mem = s.mem) ∧ (w = 0 ∨ 5 < w → exec .spdmRequest s = .next s))) ∧
  (∀ (s : State), let pa := (s.x 10).toNat
    let call (n : Nat) : Prop := s.me.priv = .s ∧ (s.x 17).toNat = 0x0B500000 ∧ (s.x 16).toNat = n
    let bad : Prop := pa % 128 ≠ 0 ∨ (∀ d, s.backing pa ≠ .gddr d) ∨ ∀ d, s.backing (pa + 0x80) ≠ .gddr d
    let u := s.loadLines noNode pa 128
    (∀ i ∈ [Instr.ecallSubmit, .ecallPost, .ecallReport], (s.me.priv = .u → exec i s = .next (s.except 8 0)) ∧
      (s.me.priv = .m → exec i s = .next (s.except 11 0)) ∧
      (s.me.priv = .s → (s.x 17).toNat ≠ 0x0B500000 → exec i s = .next (s.except 9 0)) ∧
      (s.me.priv = .s → (s.x 17).toNat = 0x0B500000 → 2 < (s.x 16).toNat → exec i s = .next (s.retireX 10 1))) ∧
    (call 0 → (s.me.wait = some .submit → exec .ecallSubmit s = .next s) ∧
      (s.me.wait ≠ some .submit → bad → exec .ecallSubmit s = .next (s.retireX 10 1)) ∧
      (s.me.wait ≠ some .submit → ¬ bad → 320 ≤ s.fe.cmds.length → exec .ecallSubmit s = .next (s.wait .commands)) ∧
      (s.me.wait ≠ some .submit → ¬ bad → s.fe.cmds.length < 320 → u.poisoned pa 128 = false → exec .ecallSubmit s =
        .next ((u.wait .submit).enqueue (parseCmd (memBytes u.mem pa 128) 256 pa (some u.cur))))) ∧
    (∀ (t : State) (c : MCmd) (h st r0 r1 : Nat), c.hart = some h → c.slot < 256 → c.flags % 2 = 0 →
      let v := t.answer c st r0 r1
      (v.hart h).wait = none ∧ (v.hart h).xr 10 = BitVec.ofNat 64 st ∧ (v.hart h).xr 11 = BitVec.ofNat 64 r0 ∧
        (v.hart h).pc = (t.hart h).pc + 4) ∧
    (call 1 → (bad → exec .ecallPost s = .next (s.retireX 10 1)) ∧
      (¬ bad → 320 ≤ s.fe.cmds.length → exec .ecallPost s = .next (s.wait .commands)) ∧
      (¬ bad → s.fe.cmds.length < 320 → u.poisoned pa 128 = false → exec .ecallPost s = .next ((u.retireX 10 0).enqueue (parseCmd (memBytes u.mem pa 128) 256 pa none)))) ∧
    (call 2 → Completes .ecallReport s fun t => t.me.xr 10 = 0))

/-- Every step that goes on keeps memory in its canonical form: rising addresses, no listed byte 0 (R3, R30). -/
def Obligations.MemoryStaysCanonical : Prop :=
  ∀ s t : State, Safety.memOk s = true → step s = .next t → Safety.memOk t = true

end
end

