-- ==== Sys2Proof/Laws/Tab.lean ====
section
/-! SUPPORT. Laws of sparse tables and of memory: reading what was written, leaving the rest alone, and the canonical
form. -/

namespace Sys2Proof.Machine

/-! ### Tables -/

theorem lookup_tset_self {α : Type} (k : Nat) (v : α) (t : Tab α) : (tset k v t).lookup k = some v := by
  induction t with
  | nil => simp [tset]
  | cons e r ih =>
    obtain ⟨k', v'⟩ := e
    unfold tset
    split
    · simp [List.lookup]
    · split
      · simp [List.lookup]
      · rename_i h
        have hk : (k == k') = false := by simpa using h
        simp [List.lookup, hk, ih]

theorem lookup_tset_ne {α : Type} {k j : Nat} (v : α) (t : Tab α) (h : j ≠ k) : (tset k v t).lookup j = t.lookup j := by
  have hj : (j == k) = false := by simpa using h
  induction t with
  | nil => simp [tset, List.lookup, hj]
  | cons e r ih =>
    obtain ⟨k', v'⟩ := e
    unfold tset
    split
    · simp [List.lookup, hj]
    · split
      · rename_i hk
        subst hk
        simp [List.lookup, hj]
      · simp only [List.lookup, ih]

/-- An entry that has been written reads back. -/
@[simp] theorem tget_tset_self {α : Type} (d : α) (k : Nat) (v : α) (t : Tab α) : tget d (tset k v t) k = v := by
  simp [tget, lookup_tset_self]

/-- Writing an entry leaves the others. -/
theorem tget_tset_ne {α : Type} (d : α) {k j : Nat} (v : α) (t : Tab α) (h : j ≠ k) : tget d (tset k v t) j = tget d t j := by
  simp [tget, lookup_tset_ne v t h]

theorem tget_tset {α : Type} (d : α) (k j : Nat) (v : α) (t : Tab α) :
    tget d (tset k v t) j = if j = k then v else tget d t j := by
  split
  · rename_i h; subst h; simp
  · rename_i h; exact tget_tset_ne d v t h

@[simp] theorem tget_nil {α : Type} (d : α) (k : Nat) : tget d ([] : Tab α) k = d := rfl

theorem lookup_tdel_self {α : Type} (k : Nat) (t : Tab α) : (tdel k t).lookup k = none := by
  induction t with
  | nil => rfl
  | cons e r ih =>
    obtain ⟨k', v'⟩ := e
    unfold tdel at ih ⊢
    by_cases h : k' = k
    · subst h; simpa using ih
    · have h1 : (k' != k) = true := by simpa using h
      have h2 : (k == k') = false := by simpa using fun e => h e.symm
      simp [List.filter, h1, List.lookup, h2]
      simpa using ih

theorem lookup_tdel_ne {α : Type} {k j : Nat} (t : Tab α) (h : j ≠ k) : (tdel k t).lookup j = t.lookup j := by
  induction t with
  | nil => rfl
  | cons e r ih =>
    obtain ⟨k', v'⟩ := e
    unfold tdel at ih ⊢
    by_cases hk : k' = k
    · subst hk
      have hj : (j == k') = false := by simpa using h
      simpa [List.lookup, hj] using ih
    · have h1 : (k' != k) = true := by simpa using hk
      simp only [List.filter, h1, List.lookup, ih]

/-- A removed entry reads as its rest value. -/
@[simp] theorem tget_tdel_self {α : Type} (d : α) (k : Nat) (t : Tab α) : tget d (tdel k t) k = d := by
  simp [tget, lookup_tdel_self]

/-- Removing an entry leaves the others. -/
theorem tget_tdel_ne {α : Type} (d : α) {k j : Nat} (t : Tab α) (h : j ≠ k) : tget d (tdel k t) j = tget d t j := by
  simp [tget, lookup_tdel_ne t h]

/-! ### One byte of memory -/

/-- The byte written reads back in canonical memory. -/
theorem memGet_memSet_self (a : Nat) (b : Byte) (m : List Host.Cell) (lo : Nat) (h : Memory.wfFrom lo m = true) :
    memGet (memSet a b m) a = b := by
  induction m generalizing lo with
  | nil =>
    unfold memSet
    split
    · rename_i hb; subst hb; rfl
    · simp [memGet, List.lookup]
  | cons e r ih =>
    obtain ⟨a', b'⟩ := e
    simp only [Memory.wfFrom, Bool.and_eq_true, decide_eq_true_eq] at h
    obtain ⟨⟨_, _⟩, h3⟩ := h
    have low : ∀ (x n : Nat) (q : List Host.Cell), Memory.wfFrom n q = true → x < n → q.lookup x = none := by
      intro x n q
      induction q generalizing n with
      | nil => intros; rfl
      | cons c q ihq =>
        obtain ⟨c1, c2⟩ := c
        intro hw hx
        simp only [Memory.wfFrom, Bool.and_eq_true, decide_eq_true_eq] at hw
        have hne : (x == c1) = false := by simp; omega
        simp only [List.lookup, hne]
        exact ihq (c1 + 1) hw.2 (by omega)
    unfold memSet
    split
    · rename_i hlt
      split
      · rename_i hb
        subst hb
        have hne : (a == a') = false := by simp; omega
        simp only [memGet, List.lookup, hne]
        rw [low a (a' + 1) r h3 (by omega)]
        rfl
      · simp [memGet, List.lookup]
    · split
      · rename_i heq
        subst heq
        split
        · rename_i hb
          subst hb
          simp only [memGet]
          rw [low a (a + 1) r h3 (by omega)]
          rfl
        · simp [memGet, List.lookup]
      · rename_i hne
        have hne' : (a == a') = false := by simpa using hne
        have := ih (a' + 1) h3
        simpa [memGet, List.lookup, hne'] using this

/-- Writing a byte leaves every other byte. -/
theorem memGet_memSet_ne {a x : Nat} (b : Byte) (m : List Host.Cell) (h : x ≠ a) : memGet (memSet a b m) x = memGet m x := by
  have hx : (x == a) = false := by simpa using h
  induction m with
  | nil =>
    unfold memSet
    split <;> simp [memGet, List.lookup, hx]
  | cons e r ih =>
    obtain ⟨a', b'⟩ := e
    unfold memSet
    split
    · split
      · rfl
      · simp [memGet, List.lookup, hx]
    · split
      · rename_i heq
        subst heq
        split
        · simp [memGet, List.lookup, hx]
        · simp [memGet, List.lookup, hx]
      · unfold memGet at ih
        simp only [memGet, List.lookup]
        split
        · rfl
        · exact ih

/-! ### The canonical form -/

theorem memSet_wfFrom (a : Nat) (b : Byte) (m : List Host.Cell) (lo : Nat) (h : Memory.wfFrom lo m = true) (ha : lo ≤ a) :
    Memory.wfFrom lo (memSet a b m) = true := by
  induction m generalizing lo with
  | nil =>
    unfold memSet
    split
    · rfl
    · rename_i hb
      simpa [Memory.wfFrom, ha] using hb
  | cons e r ih =>
    obtain ⟨a', b'⟩ := e
    have h' := h
    simp only [Memory.wfFrom, Bool.and_eq_true, decide_eq_true_eq] at h
    obtain ⟨⟨h1, h2⟩, h3⟩ := h
    have weak : ∀ (n n' : Nat) (q : List Host.Cell), Memory.wfFrom n q = true → n' ≤ n → Memory.wfFrom n' q = true := by
      intro n n' q hq hn
      cases q with
      | nil => rfl
      | cons c q =>
        obtain ⟨c1, c2⟩ := c
        simp only [Memory.wfFrom, Bool.and_eq_true, decide_eq_true_eq] at hq ⊢
        exact ⟨⟨by omega, hq.1.2⟩, hq.2⟩
    unfold memSet
    split
    · rename_i hlt
      split
      · exact h'
      · rename_i hb
        simp only [Memory.wfFrom, Bool.and_eq_true, decide_eq_true_eq]
        exact ⟨⟨ha, by simpa using hb⟩, ⟨by omega, h2⟩, h3⟩
    · split
      · rename_i heq
        subst heq
        split
        · exact weak _ _ _ h3 (by omega)
        · rename_i hb
          simp only [Memory.wfFrom, Bool.and_eq_true, decide_eq_true_eq]
          exact ⟨⟨ha, by simpa using hb⟩, h3⟩
      · simp only [Memory.wfFrom, Bool.and_eq_true, decide_eq_true_eq]
        exact ⟨⟨h1, h2⟩, ih (a' + 1) h3 (by omega)⟩

/-- Writing a byte keeps the canonical form. -/
theorem memSet_wf (a : Nat) (b : Byte) {m : List Host.Cell} (h : Memory.wf m = true) : Memory.wf (memSet a b m) = true :=
  memSet_wfFrom a b m 0 h (Nat.zero_le a)

/-- Writing bytes keeps the canonical form. -/
theorem memPut_wf (bs : List Byte) (a : Nat) {m : List Host.Cell} (h : Memory.wf m = true) : Memory.wf (memPut a bs m) = true := by
  induction bs generalizing a m with
  | nil => exact h
  | cons b bs ih => exact ih (a + 1) (memSet_wf a b h)

/-- Writing a number keeps the canonical form. -/
theorem memPutNat_wf (a n v : Nat) {m : List Host.Cell} (h : Memory.wf m = true) : Memory.wf (memPutNat a n v m) = true :=
  memPut_wf _ a h

/-- Writing cells keeps the canonical form. -/
theorem memCells_wf (cs : List Host.Cell) {m : List Host.Cell} (h : Memory.wf m = true) : Memory.wf (memCells cs m) = true := by
  induction cs generalizing m with
  | nil => exact h
  | cons c cs ih => exact ih (memSet_wf c.1 c.2 h)

/-- Reset memory has the canonical form. -/
theorem reset_mem_wf : Memory.wf State.reset.mem = true := rfl

/-! ### Byte order -/

@[simp] theorem memBytes_length (m : List Host.Cell) (a n : Nat) : (memBytes m a n).length = n := by
  induction n generalizing a with
  | zero => rfl
  | succ n ih => simp [memBytes, ih]

@[simp] theorem leBytes_length (n v : Nat) : (leBytes n v).length = n := by
  induction n generalizing v with
  | zero => rfl
  | succ n ih => simp [leBytes, ih]

/-- The bytes of a value, read back, are the value modulo 256^n. -/
theorem leNat_leBytes (n v : Nat) : leNat (leBytes n v) = v % 256 ^ n := by
  induction n generalizing v with
  | zero => simp [leBytes, leNat, Nat.mod_one]
  | succ n ih =>
    have h8 : (BitVec.ofNat 8 v).toNat = v % 256 := by simp
    simp only [leBytes, leNat, ih, h8]
    rw [Nat.pow_succ, Nat.mul_comm (256 ^ n) 256, Nat.mod_mul]

end Sys2Proof.Machine
end

