-- ==== Sys2Proof/Laws/State.lean ====
section
/-! SUPPORT. What each update of the state changes: one lemma per update and field, and what a hart or core that was put
back reads as. -/

namespace Sys2Proof.Machine

/-! ### `setHart` -/

@[simp] theorem State.setHart_part (s : State) (h : Nat) (x : Hart) : (s.setHart h x).part = s.part := rfl
@[simp] theorem State.setHart_mem (s : State) (h : Nat) (x : Hart) : (s.setHart h x).mem = s.mem := rfl
@[simp] theorem State.setHart_cores (s : State) (h : Nat) (x : Hart) : (s.setHart h x).cores = s.cores := rfl
@[simp] theorem State.setHart_copies (s : State) (h : Nat) (x : Hart) : (s.setHart h x).copies = s.copies := rfl
@[simp] theorem State.setHart_xlat (s : State) (h : Nat) (x : Hart) : (s.setHart h x).xlat = s.xlat := rfl
@[simp] theorem State.setHart_coh (s : State) (h : Nat) (x : Hart) : (s.setHart h x).coh = s.coh := rfl
@[simp] theorem State.setHart_rounds (s : State) (h : Nat) (x : Hart) : (s.setHart h x).rounds = s.rounds := rfl
@[simp] theorem State.setHart_tqe (s : State) (h : Nat) (x : Hart) : (s.setHart h x).tqe = s.tqe := rfl
@[simp] theorem State.setHart_net (s : State) (h : Nat) (x : Hart) : (s.setHart h x).net = s.net := rfl
@[simp] theorem State.setHart_host (s : State) (h : Nat) (x : Hart) : (s.setHart h x).host = s.host := rfl
@[simp] theorem State.setHart_guest (s : State) (h : Nat) (x : Hart) : (s.setHart h x).guest = s.guest := rfl
@[simp] theorem State.setHart_fe (s : State) (h : Nat) (x : Hart) : (s.setHart h x).fe = s.fe := rfl
@[simp] theorem State.setHart_mgmt (s : State) (h : Nat) (x : Hart) : (s.setHart h x).mgmt = s.mgmt := rfl
@[simp] theorem State.setHart_agenda (s : State) (h : Nat) (x : Hart) : (s.setHart h x).agenda = s.agenda := rfl
@[simp] theorem State.setHart_turns (s : State) (h : Nat) (x : Hart) : (s.setHart h x).turns = s.turns := rfl
@[simp] theorem State.setHart_cur (s : State) (h : Nat) (x : Hart) : (s.setHart h x).cur = s.cur := rfl
@[simp] theorem State.setHart_fire (s : State) (h : Nat) (x : Hart) : (s.setHart h x).fire = s.fire := rfl
@[simp] theorem State.setHart_grp (s : State) (h : Nat) (x : Hart) : (s.setHart h x).grp = s.grp := rfl
@[simp] theorem State.setHart_lazy (s : State) (h : Nat) (x : Hart) : (s.setHart h x).lazy = s.lazy := rfl
@[simp] theorem State.setHart_orders (s : State) (h : Nat) (x : Hart) : (s.setHart h x).orders = s.orders := rfl
@[simp] theorem State.setHart_ev (s : State) (h : Nat) (x : Hart) : (s.setHart h x).ev = s.ev := rfl
@[simp] theorem State.setHart_ilen (s : State) (h : Nat) (x : Hart) : (s.setHart h x).ilen = s.ilen := rfl
@[simp] theorem State.setHart_fresh (s : State) (h : Nat) (x : Hart) : (s.setHart h x).fresh = s.fresh := rfl

/-! ### `modHart` -/

@[simp] theorem State.modHart_part (s : State) (h : Nat) (f : Hart → Hart) : (s.modHart h f).part = s.part := rfl
@[simp] theorem State.modHart_mem (s : State) (h : Nat) (f : Hart → Hart) : (s.modHart h f).mem = s.mem := rfl
@[simp] theorem State.modHart_cores (s : State) (h : Nat) (f : Hart → Hart) : (s.modHart h f).cores = s.cores := rfl
@[simp] theorem State.modHart_copies (s : State) (h : Nat) (f : Hart → Hart) : (s.modHart h f).copies = s.copies := rfl
@[simp] theorem State.modHart_xlat (s : State) (h : Nat) (f : Hart → Hart) : (s.modHart h f).xlat = s.xlat := rfl
@[simp] theorem State.modHart_coh (s : State) (h : Nat) (f : Hart → Hart) : (s.modHart h f).coh = s.coh := rfl
@[simp] theorem State.modHart_rounds (s : State) (h : Nat) (f : Hart → Hart) : (s.modHart h f).rounds = s.rounds := rfl
@[simp] theorem State.modHart_tqe (s : State) (h : Nat) (f : Hart → Hart) : (s.modHart h f).tqe = s.tqe := rfl
@[simp] theorem State.modHart_net (s : State) (h : Nat) (f : Hart → Hart) : (s.modHart h f).net = s.net := rfl
@[simp] theorem State.modHart_host (s : State) (h : Nat) (f : Hart → Hart) : (s.modHart h f).host = s.host := rfl
@[simp] theorem State.modHart_guest (s : State) (h : Nat) (f : Hart → Hart) : (s.modHart h f).guest = s.guest := rfl
@[simp] theorem State.modHart_fe (s : State) (h : Nat) (f : Hart → Hart) : (s.modHart h f).fe = s.fe := rfl
@[simp] theorem State.modHart_mgmt (s : State) (h : Nat) (f : Hart → Hart) : (s.modHart h f).mgmt = s.mgmt := rfl
@[simp] theorem State.modHart_agenda (s : State) (h : Nat) (f : Hart → Hart) : (s.modHart h f).agenda = s.agenda := rfl
@[simp] theorem State.modHart_turns (s : State) (h : Nat) (f : Hart → Hart) : (s.modHart h f).turns = s.turns := rfl
@[simp] theorem State.modHart_cur (s : State) (h : Nat) (f : Hart → Hart) : (s.modHart h f).cur = s.cur := rfl
@[simp] theorem State.modHart_fire (s : State) (h : Nat) (f : Hart → Hart) : (s.modHart h f).fire = s.fire := rfl
@[simp] theorem State.modHart_grp (s : State) (h : Nat) (f : Hart → Hart) : (s.modHart h f).grp = s.grp := rfl
@[simp] theorem State.modHart_lazy (s : State) (h : Nat) (f : Hart → Hart) : (s.modHart h f).lazy = s.lazy := rfl
@[simp] theorem State.modHart_orders (s : State) (h : Nat) (f : Hart → Hart) : (s.modHart h f).orders = s.orders := rfl
@[simp] theorem State.modHart_ev (s : State) (h : Nat) (f : Hart → Hart) : (s.modHart h f).ev = s.ev := rfl
@[simp] theorem State.modHart_ilen (s : State) (h : Nat) (f : Hart → Hart) : (s.modHart h f).ilen = s.ilen := rfl
@[simp] theorem State.modHart_fresh (s : State) (h : Nat) (f : Hart → Hart) : (s.modHart h f).fresh = s.fresh := rfl

/-! ### `modMe` -/

@[simp] theorem State.modMe_part (s : State) (f : Hart → Hart) : (s.modMe f).part = s.part := rfl
@[simp] theorem State.modMe_mem (s : State) (f : Hart → Hart) : (s.modMe f).mem = s.mem := rfl
@[simp] theorem State.modMe_cores (s : State) (f : Hart → Hart) : (s.modMe f).cores = s.cores := rfl
@[simp] theorem State.modMe_copies (s : State) (f : Hart → Hart) : (s.modMe f).copies = s.copies := rfl
@[simp] theorem State.modMe_xlat (s : State) (f : Hart → Hart) : (s.modMe f).xlat = s.xlat := rfl
@[simp] theorem State.modMe_coh (s : State) (f : Hart → Hart) : (s.modMe f).coh = s.coh := rfl
@[simp] theorem State.modMe_rounds (s : State) (f : Hart → Hart) : (s.modMe f).rounds = s.rounds := rfl
@[simp] theorem State.modMe_tqe (s : State) (f : Hart → Hart) : (s.modMe f).tqe = s.tqe := rfl
@[simp] theorem State.modMe_net (s : State) (f : Hart → Hart) : (s.modMe f).net = s.net := rfl
@[simp] theorem State.modMe_host (s : State) (f : Hart → Hart) : (s.modMe f).host = s.host := rfl
@[simp] theorem State.modMe_guest (s : State) (f : Hart → Hart) : (s.modMe f).guest = s.guest := rfl
@[simp] theorem State.modMe_fe (s : State) (f : Hart → Hart) : (s.modMe f).fe = s.fe := rfl
@[simp] theorem State.modMe_mgmt (s : State) (f : Hart → Hart) : (s.modMe f).mgmt = s.mgmt := rfl
@[simp] theorem State.modMe_agenda (s : State) (f : Hart → Hart) : (s.modMe f).agenda = s.agenda := rfl
@[simp] theorem State.modMe_turns (s : State) (f : Hart → Hart) : (s.modMe f).turns = s.turns := rfl
@[simp] theorem State.modMe_cur (s : State) (f : Hart → Hart) : (s.modMe f).cur = s.cur := rfl
@[simp] theorem State.modMe_fire (s : State) (f : Hart → Hart) : (s.modMe f).fire = s.fire := rfl
@[simp] theorem State.modMe_grp (s : State) (f : Hart → Hart) : (s.modMe f).grp = s.grp := rfl
@[simp] theorem State.modMe_lazy (s : State) (f : Hart → Hart) : (s.modMe f).lazy = s.lazy := rfl
@[simp] theorem State.modMe_orders (s : State) (f : Hart → Hart) : (s.modMe f).orders = s.orders := rfl
@[simp] theorem State.modMe_ev (s : State) (f : Hart → Hart) : (s.modMe f).ev = s.ev := rfl
@[simp] theorem State.modMe_ilen (s : State) (f : Hart → Hart) : (s.modMe f).ilen = s.ilen := rfl
@[simp] theorem State.modMe_fresh (s : State) (f : Hart → Hart) : (s.modMe f).fresh = s.fresh := rfl

/-! ### `wx` -/

@[simp] theorem State.wx_part (s : State) (r : BitVec 5) (v : Word) : (s.wx r v).part = s.part := rfl
@[simp] theorem State.wx_mem (s : State) (r : BitVec 5) (v : Word) : (s.wx r v).mem = s.mem := rfl
@[simp] theorem State.wx_cores (s : State) (r : BitVec 5) (v : Word) : (s.wx r v).cores = s.cores := rfl
@[simp] theorem State.wx_copies (s : State) (r : BitVec 5) (v : Word) : (s.wx r v).copies = s.copies := rfl
@[simp] theorem State.wx_xlat (s : State) (r : BitVec 5) (v : Word) : (s.wx r v).xlat = s.xlat := rfl
@[simp] theorem State.wx_coh (s : State) (r : BitVec 5) (v : Word) : (s.wx r v).coh = s.coh := rfl
@[simp] theorem State.wx_rounds (s : State) (r : BitVec 5) (v : Word) : (s.wx r v).rounds = s.rounds := rfl
@[simp] theorem State.wx_tqe (s : State) (r : BitVec 5) (v : Word) : (s.wx r v).tqe = s.tqe := rfl
@[simp] theorem State.wx_net (s : State) (r : BitVec 5) (v : Word) : (s.wx r v).net = s.net := rfl
@[simp] theorem State.wx_host (s : State) (r : BitVec 5) (v : Word) : (s.wx r v).host = s.host := rfl
@[simp] theorem State.wx_guest (s : State) (r : BitVec 5) (v : Word) : (s.wx r v).guest = s.guest := rfl
@[simp] theorem State.wx_fe (s : State) (r : BitVec 5) (v : Word) : (s.wx r v).fe = s.fe := rfl
@[simp] theorem State.wx_mgmt (s : State) (r : BitVec 5) (v : Word) : (s.wx r v).mgmt = s.mgmt := rfl
@[simp] theorem State.wx_agenda (s : State) (r : BitVec 5) (v : Word) : (s.wx r v).agenda = s.agenda := rfl
@[simp] theorem State.wx_turns (s : State) (r : BitVec 5) (v : Word) : (s.wx r v).turns = s.turns := rfl
@[simp] theorem State.wx_cur (s : State) (r : BitVec 5) (v : Word) : (s.wx r v).cur = s.cur := rfl
@[simp] theorem State.wx_fire (s : State) (r : BitVec 5) (v : Word) : (s.wx r v).fire = s.fire := rfl
@[simp] theorem State.wx_grp (s : State) (r : BitVec 5) (v : Word) : (s.wx r v).grp = s.grp := rfl
@[simp] theorem State.wx_lazy (s : State) (r : BitVec 5) (v : Word) : (s.wx r v).lazy = s.lazy := rfl
@[simp] theorem State.wx_orders (s : State) (r : BitVec 5) (v : Word) : (s.wx r v).orders = s.orders := rfl
@[simp] theorem State.wx_ev (s : State) (r : BitVec 5) (v : Word) : (s.wx r v).ev = s.ev := rfl
@[simp] theorem State.wx_ilen (s : State) (r : BitVec 5) (v : Word) : (s.wx r v).ilen = s.ilen := rfl
@[simp] theorem State.wx_fresh (s : State) (r : BitVec 5) (v : Word) : (s.wx r v).fresh = s.fresh := rfl

/-! ### `retire` -/

@[simp] theorem State.retire_part (s : State) : (s.retire).part = s.part := rfl
@[simp] theorem State.retire_mem (s : State) : (s.retire).mem = s.mem := rfl
@[simp] theorem State.retire_cores (s : State) : (s.retire).cores = s.cores := rfl
@[simp] theorem State.retire_copies (s : State) : (s.retire).copies = s.copies := rfl
@[simp] theorem State.retire_xlat (s : State) : (s.retire).xlat = s.xlat := rfl
@[simp] theorem State.retire_coh (s : State) : (s.retire).coh = s.coh := rfl
@[simp] theorem State.retire_rounds (s : State) : (s.retire).rounds = s.rounds := rfl
@[simp] theorem State.retire_tqe (s : State) : (s.retire).tqe = s.tqe := rfl
@[simp] theorem State.retire_net (s : State) : (s.retire).net = s.net := rfl
@[simp] theorem State.retire_host (s : State) : (s.retire).host = s.host := rfl
@[simp] theorem State.retire_guest (s : State) : (s.retire).guest = s.guest := rfl
@[simp] theorem State.retire_fe (s : State) : (s.retire).fe = s.fe := rfl
@[simp] theorem State.retire_mgmt (s : State) : (s.retire).mgmt = s.mgmt := rfl
@[simp] theorem State.retire_agenda (s : State) : (s.retire).agenda = s.agenda := rfl
@[simp] theorem State.retire_turns (s : State) : (s.retire).turns = s.turns := rfl
@[simp] theorem State.retire_cur (s : State) : (s.retire).cur = s.cur := rfl
@[simp] theorem State.retire_fire (s : State) : (s.retire).fire = s.fire := rfl
@[simp] theorem State.retire_grp (s : State) : (s.retire).grp = s.grp := rfl
@[simp] theorem State.retire_lazy (s : State) : (s.retire).lazy = s.lazy := rfl
@[simp] theorem State.retire_orders (s : State) : (s.retire).orders = s.orders := rfl
@[simp] theorem State.retire_ev (s : State) : (s.retire).ev = s.ev := rfl
@[simp] theorem State.retire_ilen (s : State) : (s.retire).ilen = s.ilen := rfl
@[simp] theorem State.retire_fresh (s : State) : (s.retire).fresh = s.fresh := rfl

/-! ### `retireX` -/

@[simp] theorem State.retireX_part (s : State) (r : BitVec 5) (v : Word) : (s.retireX r v).part = s.part := rfl
@[simp] theorem State.retireX_mem (s : State) (r : BitVec 5) (v : Word) : (s.retireX r v).mem = s.mem := rfl
@[simp] theorem State.retireX_cores (s : State) (r : BitVec 5) (v : Word) : (s.retireX r v).cores = s.cores := rfl
@[simp] theorem State.retireX_copies (s : State) (r : BitVec 5) (v : Word) : (s.retireX r v).copies = s.copies := rfl
@[simp] theorem State.retireX_xlat (s : State) (r : BitVec 5) (v : Word) : (s.retireX r v).xlat = s.xlat := rfl
@[simp] theorem State.retireX_coh (s : State) (r : BitVec 5) (v : Word) : (s.retireX r v).coh = s.coh := rfl
@[simp] theorem State.retireX_rounds (s : State) (r : BitVec 5) (v : Word) : (s.retireX r v).rounds = s.rounds := rfl
@[simp] theorem State.retireX_tqe (s : State) (r : BitVec 5) (v : Word) : (s.retireX r v).tqe = s.tqe := rfl
@[simp] theorem State.retireX_net (s : State) (r : BitVec 5) (v : Word) : (s.retireX r v).net = s.net := rfl
@[simp] theorem State.retireX_host (s : State) (r : BitVec 5) (v : Word) : (s.retireX r v).host = s.host := rfl
@[simp] theorem State.retireX_guest (s : State) (r : BitVec 5) (v : Word) : (s.retireX r v).guest = s.guest := rfl
@[simp] theorem State.retireX_fe (s : State) (r : BitVec 5) (v : Word) : (s.retireX r v).fe = s.fe := rfl
@[simp] theorem State.retireX_mgmt (s : State) (r : BitVec 5) (v : Word) : (s.retireX r v).mgmt = s.mgmt := rfl
@[simp] theorem State.retireX_agenda (s : State) (r : BitVec 5) (v : Word) : (s.retireX r v).agenda = s.agenda := rfl
@[simp] theorem State.retireX_turns (s : State) (r : BitVec 5) (v : Word) : (s.retireX r v).turns = s.turns := rfl
@[simp] theorem State.retireX_cur (s : State) (r : BitVec 5) (v : Word) : (s.retireX r v).cur = s.cur := rfl
@[simp] theorem State.retireX_fire (s : State) (r : BitVec 5) (v : Word) : (s.retireX r v).fire = s.fire := rfl
@[simp] theorem State.retireX_grp (s : State) (r : BitVec 5) (v : Word) : (s.retireX r v).grp = s.grp := rfl
@[simp] theorem State.retireX_lazy (s : State) (r : BitVec 5) (v : Word) : (s.retireX r v).lazy = s.lazy := rfl
@[simp] theorem State.retireX_orders (s : State) (r : BitVec 5) (v : Word) : (s.retireX r v).orders = s.orders := rfl
@[simp] theorem State.retireX_ev (s : State) (r : BitVec 5) (v : Word) : (s.retireX r v).ev = s.ev := rfl
@[simp] theorem State.retireX_ilen (s : State) (r : BitVec 5) (v : Word) : (s.retireX r v).ilen = s.ilen := rfl
@[simp] theorem State.retireX_fresh (s : State) (r : BitVec 5) (v : Word) : (s.retireX r v).fresh = s.fresh := rfl

/-! ### `wait` -/

@[simp] theorem State.wait_part (s : State) (w : Wait) : (s.wait w).part = s.part := rfl
@[simp] theorem State.wait_mem (s : State) (w : Wait) : (s.wait w).mem = s.mem := rfl
@[simp] theorem State.wait_cores (s : State) (w : Wait) : (s.wait w).cores = s.cores := rfl
@[simp] theorem State.wait_copies (s : State) (w : Wait) : (s.wait w).copies = s.copies := rfl
@[simp] theorem State.wait_xlat (s : State) (w : Wait) : (s.wait w).xlat = s.xlat := rfl
@[simp] theorem State.wait_coh (s : State) (w : Wait) : (s.wait w).coh = s.coh := rfl
@[simp] theorem State.wait_rounds (s : State) (w : Wait) : (s.wait w).rounds = s.rounds := rfl
@[simp] theorem State.wait_tqe (s : State) (w : Wait) : (s.wait w).tqe = s.tqe := rfl
@[simp] theorem State.wait_net (s : State) (w : Wait) : (s.wait w).net = s.net := rfl
@[simp] theorem State.wait_host (s : State) (w : Wait) : (s.wait w).host = s.host := rfl
@[simp] theorem State.wait_guest (s : State) (w : Wait) : (s.wait w).guest = s.guest := rfl
@[simp] theorem State.wait_fe (s : State) (w : Wait) : (s.wait w).fe = s.fe := rfl
@[simp] theorem State.wait_mgmt (s : State) (w : Wait) : (s.wait w).mgmt = s.mgmt := rfl
@[simp] theorem State.wait_agenda (s : State) (w : Wait) : (s.wait w).agenda = s.agenda := rfl
@[simp] theorem State.wait_turns (s : State) (w : Wait) : (s.wait w).turns = s.turns := rfl
@[simp] theorem State.wait_cur (s : State) (w : Wait) : (s.wait w).cur = s.cur := rfl
@[simp] theorem State.wait_fire (s : State) (w : Wait) : (s.wait w).fire = s.fire := rfl
@[simp] theorem State.wait_grp (s : State) (w : Wait) : (s.wait w).grp = s.grp := rfl
@[simp] theorem State.wait_lazy (s : State) (w : Wait) : (s.wait w).lazy = s.lazy := rfl
@[simp] theorem State.wait_orders (s : State) (w : Wait) : (s.wait w).orders = s.orders := rfl
@[simp] theorem State.wait_ev (s : State) (w : Wait) : (s.wait w).ev = s.ev := rfl
@[simp] theorem State.wait_ilen (s : State) (w : Wait) : (s.wait w).ilen = s.ilen := rfl
@[simp] theorem State.wait_fresh (s : State) (w : Wait) : (s.wait w).fresh = s.fresh := rfl

/-! ### `modCore` -/

@[simp] theorem State.modCore_part (s : State) (c : Nat) (f : Core → Core) : (s.modCore c f).part = s.part := rfl
@[simp] theorem State.modCore_mem (s : State) (c : Nat) (f : Core → Core) : (s.modCore c f).mem = s.mem := rfl
@[simp] theorem State.modCore_harts (s : State) (c : Nat) (f : Core → Core) : (s.modCore c f).harts = s.harts := rfl
@[simp] theorem State.modCore_copies (s : State) (c : Nat) (f : Core → Core) : (s.modCore c f).copies = s.copies := rfl
@[simp] theorem State.modCore_xlat (s : State) (c : Nat) (f : Core → Core) : (s.modCore c f).xlat = s.xlat := rfl
@[simp] theorem State.modCore_coh (s : State) (c : Nat) (f : Core → Core) : (s.modCore c f).coh = s.coh := rfl
@[simp] theorem State.modCore_rounds (s : State) (c : Nat) (f : Core → Core) : (s.modCore c f).rounds = s.rounds := rfl
@[simp] theorem State.modCore_tqe (s : State) (c : Nat) (f : Core → Core) : (s.modCore c f).tqe = s.tqe := rfl
@[simp] theorem State.modCore_net (s : State) (c : Nat) (f : Core → Core) : (s.modCore c f).net = s.net := rfl
@[simp] theorem State.modCore_host (s : State) (c : Nat) (f : Core → Core) : (s.modCore c f).host = s.host := rfl
@[simp] theorem State.modCore_guest (s : State) (c : Nat) (f : Core → Core) : (s.modCore c f).guest = s.guest := rfl
@[simp] theorem State.modCore_fe (s : State) (c : Nat) (f : Core → Core) : (s.modCore c f).fe = s.fe := rfl
@[simp] theorem State.modCore_mgmt (s : State) (c : Nat) (f : Core → Core) : (s.modCore c f).mgmt = s.mgmt := rfl
@[simp] theorem State.modCore_agenda (s : State) (c : Nat) (f : Core → Core) : (s.modCore c f).agenda = s.agenda := rfl
@[simp] theorem State.modCore_turns (s : State) (c : Nat) (f : Core → Core) : (s.modCore c f).turns = s.turns := rfl
@[simp] theorem State.modCore_cur (s : State) (c : Nat) (f : Core → Core) : (s.modCore c f).cur = s.cur := rfl
@[simp] theorem State.modCore_fire (s : State) (c : Nat) (f : Core → Core) : (s.modCore c f).fire = s.fire := rfl
@[simp] theorem State.modCore_grp (s : State) (c : Nat) (f : Core → Core) : (s.modCore c f).grp = s.grp := rfl
@[simp] theorem State.modCore_lazy (s : State) (c : Nat) (f : Core → Core) : (s.modCore c f).lazy = s.lazy := rfl
@[simp] theorem State.modCore_orders (s : State) (c : Nat) (f : Core → Core) : (s.modCore c f).orders = s.orders := rfl
@[simp] theorem State.modCore_ev (s : State) (c : Nat) (f : Core → Core) : (s.modCore c f).ev = s.ev := rfl
@[simp] theorem State.modCore_ilen (s : State) (c : Nat) (f : Core → Core) : (s.modCore c f).ilen = s.ilen := rfl
@[simp] theorem State.modCore_fresh (s : State) (c : Nat) (f : Core → Core) : (s.modCore c f).fresh = s.fresh := rfl

/-! ### `due` -/

@[simp] theorem State.due_part (s : State) (es : List Ev) : (s.due es).part = s.part := rfl
@[simp] theorem State.due_mem (s : State) (es : List Ev) : (s.due es).mem = s.mem := rfl
@[simp] theorem State.due_harts (s : State) (es : List Ev) : (s.due es).harts = s.harts := rfl
@[simp] theorem State.due_cores (s : State) (es : List Ev) : (s.due es).cores = s.cores := rfl
@[simp] theorem State.due_copies (s : State) (es : List Ev) : (s.due es).copies = s.copies := rfl
@[simp] theorem State.due_xlat (s : State) (es : List Ev) : (s.due es).xlat = s.xlat := rfl
@[simp] theorem State.due_coh (s : State) (es : List Ev) : (s.due es).coh = s.coh := rfl
@[simp] theorem State.due_rounds (s : State) (es : List Ev) : (s.due es).rounds = s.rounds := rfl
@[simp] theorem State.due_tqe (s : State) (es : List Ev) : (s.due es).tqe = s.tqe := rfl
@[simp] theorem State.due_net (s : State) (es : List Ev) : (s.due es).net = s.net := rfl
@[simp] theorem State.due_host (s : State) (es : List Ev) : (s.due es).host = s.host := rfl
@[simp] theorem State.due_guest (s : State) (es : List Ev) : (s.due es).guest = s.guest := rfl
@[simp] theorem State.due_fe (s : State) (es : List Ev) : (s.due es).fe = s.fe := rfl
@[simp] theorem State.due_mgmt (s : State) (es : List Ev) : (s.due es).mgmt = s.mgmt := rfl
@[simp] theorem State.due_turns (s : State) (es : List Ev) : (s.due es).turns = s.turns := rfl
@[simp] theorem State.due_cur (s : State) (es : List Ev) : (s.due es).cur = s.cur := rfl
@[simp] theorem State.due_fire (s : State) (es : List Ev) : (s.due es).fire = s.fire := rfl
@[simp] theorem State.due_grp (s : State) (es : List Ev) : (s.due es).grp = s.grp := rfl
@[simp] theorem State.due_lazy (s : State) (es : List Ev) : (s.due es).lazy = s.lazy := rfl
@[simp] theorem State.due_orders (s : State) (es : List Ev) : (s.due es).orders = s.orders := rfl
@[simp] theorem State.due_ev (s : State) (es : List Ev) : (s.due es).ev = s.ev := rfl
@[simp] theorem State.due_ilen (s : State) (es : List Ev) : (s.due es).ilen = s.ilen := rfl
@[simp] theorem State.due_fresh (s : State) (es : List Ev) : (s.due es).fresh = s.fresh := rfl

/-! ### `poke` -/

@[simp] theorem State.poke_part (s : State) (a : Nat) (bs : List Byte) : (s.poke a bs).part = s.part := rfl
@[simp] theorem State.poke_harts (s : State) (a : Nat) (bs : List Byte) : (s.poke a bs).harts = s.harts := rfl
@[simp] theorem State.poke_cores (s : State) (a : Nat) (bs : List Byte) : (s.poke a bs).cores = s.cores := rfl
@[simp] theorem State.poke_copies (s : State) (a : Nat) (bs : List Byte) : (s.poke a bs).copies = s.copies := rfl
@[simp] theorem State.poke_xlat (s : State) (a : Nat) (bs : List Byte) : (s.poke a bs).xlat = s.xlat := rfl
@[simp] theorem State.poke_coh (s : State) (a : Nat) (bs : List Byte) : (s.poke a bs).coh = s.coh := rfl
@[simp] theorem State.poke_rounds (s : State) (a : Nat) (bs : List Byte) : (s.poke a bs).rounds = s.rounds := rfl
@[simp] theorem State.poke_tqe (s : State) (a : Nat) (bs : List Byte) : (s.poke a bs).tqe = s.tqe := rfl
@[simp] theorem State.poke_net (s : State) (a : Nat) (bs : List Byte) : (s.poke a bs).net = s.net := rfl
@[simp] theorem State.poke_host (s : State) (a : Nat) (bs : List Byte) : (s.poke a bs).host = s.host := rfl
@[simp] theorem State.poke_guest (s : State) (a : Nat) (bs : List Byte) : (s.poke a bs).guest = s.guest := rfl
@[simp] theorem State.poke_fe (s : State) (a : Nat) (bs : List Byte) : (s.poke a bs).fe = s.fe := rfl
@[simp] theorem State.poke_mgmt (s : State) (a : Nat) (bs : List Byte) : (s.poke a bs).mgmt = s.mgmt := rfl
@[simp] theorem State.poke_turns (s : State) (a : Nat) (bs : List Byte) : (s.poke a bs).turns = s.turns := rfl
@[simp] theorem State.poke_cur (s : State) (a : Nat) (bs : List Byte) : (s.poke a bs).cur = s.cur := rfl
@[simp] theorem State.poke_fire (s : State) (a : Nat) (bs : List Byte) : (s.poke a bs).fire = s.fire := rfl
@[simp] theorem State.poke_grp (s : State) (a : Nat) (bs : List Byte) : (s.poke a bs).grp = s.grp := rfl
@[simp] theorem State.poke_lazy (s : State) (a : Nat) (bs : List Byte) : (s.poke a bs).lazy = s.lazy := rfl
@[simp] theorem State.poke_orders (s : State) (a : Nat) (bs : List Byte) : (s.poke a bs).orders = s.orders := rfl
@[simp] theorem State.poke_ev (s : State) (a : Nat) (bs : List Byte) : (s.poke a bs).ev = s.ev := rfl
@[simp] theorem State.poke_ilen (s : State) (a : Nat) (bs : List Byte) : (s.poke a bs).ilen = s.ilen := rfl
@[simp] theorem State.poke_fresh (s : State) (a : Nat) (bs : List Byte) : (s.poke a bs).fresh = s.fresh := rfl

/-! ### `pokeN` -/

@[simp] theorem State.pokeN_part (s : State) (a n v : Nat) : (s.pokeN a n v).part = s.part := rfl
@[simp] theorem State.pokeN_harts (s : State) (a n v : Nat) : (s.pokeN a n v).harts = s.harts := rfl
@[simp] theorem State.pokeN_cores (s : State) (a n v : Nat) : (s.pokeN a n v).cores = s.cores := rfl
@[simp] theorem State.pokeN_copies (s : State) (a n v : Nat) : (s.pokeN a n v).copies = s.copies := rfl
@[simp] theorem State.pokeN_xlat (s : State) (a n v : Nat) : (s.pokeN a n v).xlat = s.xlat := rfl
@[simp] theorem State.pokeN_coh (s : State) (a n v : Nat) : (s.pokeN a n v).coh = s.coh := rfl
@[simp] theorem State.pokeN_rounds (s : State) (a n v : Nat) : (s.pokeN a n v).rounds = s.rounds := rfl
@[simp] theorem State.pokeN_tqe (s : State) (a n v : Nat) : (s.pokeN a n v).tqe = s.tqe := rfl
@[simp] theorem State.pokeN_net (s : State) (a n v : Nat) : (s.pokeN a n v).net = s.net := rfl
@[simp] theorem State.pokeN_host (s : State) (a n v : Nat) : (s.pokeN a n v).host = s.host := rfl
@[simp] theorem State.pokeN_guest (s : State) (a n v : Nat) : (s.pokeN a n v).guest = s.guest := rfl
@[simp] theorem State.pokeN_fe (s : State) (a n v : Nat) : (s.pokeN a n v).fe = s.fe := rfl
@[simp] theorem State.pokeN_mgmt (s : State) (a n v : Nat) : (s.pokeN a n v).mgmt = s.mgmt := rfl
@[simp] theorem State.pokeN_turns (s : State) (a n v : Nat) : (s.pokeN a n v).turns = s.turns := rfl
@[simp] theorem State.pokeN_cur (s : State) (a n v : Nat) : (s.pokeN a n v).cur = s.cur := rfl
@[simp] theorem State.pokeN_fire (s : State) (a n v : Nat) : (s.pokeN a n v).fire = s.fire := rfl
@[simp] theorem State.pokeN_grp (s : State) (a n v : Nat) : (s.pokeN a n v).grp = s.grp := rfl
@[simp] theorem State.pokeN_lazy (s : State) (a n v : Nat) : (s.pokeN a n v).lazy = s.lazy := rfl
@[simp] theorem State.pokeN_orders (s : State) (a n v : Nat) : (s.pokeN a n v).orders = s.orders := rfl
@[simp] theorem State.pokeN_ev (s : State) (a n v : Nat) : (s.pokeN a n v).ev = s.ev := rfl
@[simp] theorem State.pokeN_ilen (s : State) (a n v : Nat) : (s.pokeN a n v).ilen = s.ilen := rfl
@[simp] theorem State.pokeN_fresh (s : State) (a n v : Nat) : (s.pokeN a n v).fresh = s.fresh := rfl

/-! ### `setNs` -/

@[simp] theorem State.setNs_part (s : State) (n l : Nat) (x : NState) : (s.setNs n l x).part = s.part := rfl
@[simp] theorem State.setNs_mem (s : State) (n l : Nat) (x : NState) : (s.setNs n l x).mem = s.mem := rfl
@[simp] theorem State.setNs_harts (s : State) (n l : Nat) (x : NState) : (s.setNs n l x).harts = s.harts := rfl
@[simp] theorem State.setNs_cores (s : State) (n l : Nat) (x : NState) : (s.setNs n l x).cores = s.cores := rfl
@[simp] theorem State.setNs_copies (s : State) (n l : Nat) (x : NState) : (s.setNs n l x).copies = s.copies := rfl
@[simp] theorem State.setNs_xlat (s : State) (n l : Nat) (x : NState) : (s.setNs n l x).xlat = s.xlat := rfl
@[simp] theorem State.setNs_rounds (s : State) (n l : Nat) (x : NState) : (s.setNs n l x).rounds = s.rounds := rfl
@[simp] theorem State.setNs_tqe (s : State) (n l : Nat) (x : NState) : (s.setNs n l x).tqe = s.tqe := rfl
@[simp] theorem State.setNs_net (s : State) (n l : Nat) (x : NState) : (s.setNs n l x).net = s.net := rfl
@[simp] theorem State.setNs_host (s : State) (n l : Nat) (x : NState) : (s.setNs n l x).host = s.host := rfl
@[simp] theorem State.setNs_guest (s : State) (n l : Nat) (x : NState) : (s.setNs n l x).guest = s.guest := rfl
@[simp] theorem State.setNs_fe (s : State) (n l : Nat) (x : NState) : (s.setNs n l x).fe = s.fe := rfl
@[simp] theorem State.setNs_mgmt (s : State) (n l : Nat) (x : NState) : (s.setNs n l x).mgmt = s.mgmt := rfl
@[simp] theorem State.setNs_agenda (s : State) (n l : Nat) (x : NState) : (s.setNs n l x).agenda = s.agenda := rfl
@[simp] theorem State.setNs_turns (s : State) (n l : Nat) (x : NState) : (s.setNs n l x).turns = s.turns := rfl
@[simp] theorem State.setNs_cur (s : State) (n l : Nat) (x : NState) : (s.setNs n l x).cur = s.cur := rfl
@[simp] theorem State.setNs_fire (s : State) (n l : Nat) (x : NState) : (s.setNs n l x).fire = s.fire := rfl
@[simp] theorem State.setNs_grp (s : State) (n l : Nat) (x : NState) : (s.setNs n l x).grp = s.grp := rfl
@[simp] theorem State.setNs_lazy (s : State) (n l : Nat) (x : NState) : (s.setNs n l x).lazy = s.lazy := rfl
@[simp] theorem State.setNs_orders (s : State) (n l : Nat) (x : NState) : (s.setNs n l x).orders = s.orders := rfl
@[simp] theorem State.setNs_ev (s : State) (n l : Nat) (x : NState) : (s.setNs n l x).ev = s.ev := rfl
@[simp] theorem State.setNs_ilen (s : State) (n l : Nat) (x : NState) : (s.setNs n l x).ilen = s.ilen := rfl
@[simp] theorem State.setNs_fresh (s : State) (n l : Nat) (x : NState) : (s.setNs n l x).fresh = s.fresh := rfl

/-! ### `setDir` -/

@[simp] theorem State.setDir_part (s : State) (l : Nat) (d : Dir) : (s.setDir l d).part = s.part := rfl
@[simp] theorem State.setDir_mem (s : State) (l : Nat) (d : Dir) : (s.setDir l d).mem = s.mem := rfl
@[simp] theorem State.setDir_harts (s : State) (l : Nat) (d : Dir) : (s.setDir l d).harts = s.harts := rfl
@[simp] theorem State.setDir_cores (s : State) (l : Nat) (d : Dir) : (s.setDir l d).cores = s.cores := rfl
@[simp] theorem State.setDir_copies (s : State) (l : Nat) (d : Dir) : (s.setDir l d).copies = s.copies := rfl
@[simp] theorem State.setDir_xlat (s : State) (l : Nat) (d : Dir) : (s.setDir l d).xlat = s.xlat := rfl
@[simp] theorem State.setDir_rounds (s : State) (l : Nat) (d : Dir) : (s.setDir l d).rounds = s.rounds := rfl
@[simp] theorem State.setDir_tqe (s : State) (l : Nat) (d : Dir) : (s.setDir l d).tqe = s.tqe := rfl
@[simp] theorem State.setDir_net (s : State) (l : Nat) (d : Dir) : (s.setDir l d).net = s.net := rfl
@[simp] theorem State.setDir_host (s : State) (l : Nat) (d : Dir) : (s.setDir l d).host = s.host := rfl
@[simp] theorem State.setDir_guest (s : State) (l : Nat) (d : Dir) : (s.setDir l d).guest = s.guest := rfl
@[simp] theorem State.setDir_fe (s : State) (l : Nat) (d : Dir) : (s.setDir l d).fe = s.fe := rfl
@[simp] theorem State.setDir_mgmt (s : State) (l : Nat) (d : Dir) : (s.setDir l d).mgmt = s.mgmt := rfl
@[simp] theorem State.setDir_agenda (s : State) (l : Nat) (d : Dir) : (s.setDir l d).agenda = s.agenda := rfl
@[simp] theorem State.setDir_turns (s : State) (l : Nat) (d : Dir) : (s.setDir l d).turns = s.turns := rfl
@[simp] theorem State.setDir_cur (s : State) (l : Nat) (d : Dir) : (s.setDir l d).cur = s.cur := rfl
@[simp] theorem State.setDir_fire (s : State) (l : Nat) (d : Dir) : (s.setDir l d).fire = s.fire := rfl
@[simp] theorem State.setDir_grp (s : State) (l : Nat) (d : Dir) : (s.setDir l d).grp = s.grp := rfl
@[simp] theorem State.setDir_lazy (s : State) (l : Nat) (d : Dir) : (s.setDir l d).lazy = s.lazy := rfl
@[simp] theorem State.setDir_orders (s : State) (l : Nat) (d : Dir) : (s.setDir l d).orders = s.orders := rfl
@[simp] theorem State.setDir_ev (s : State) (l : Nat) (d : Dir) : (s.setDir l d).ev = s.ev := rfl
@[simp] theorem State.setDir_ilen (s : State) (l : Nat) (d : Dir) : (s.setDir l d).ilen = s.ilen := rfl
@[simp] theorem State.setDir_fresh (s : State) (l : Nat) (d : Dir) : (s.setDir l d).fresh = s.fresh := rfl

/-! ### `setBusy` -/

@[simp] theorem State.setBusy_part (s : State) (l : Nat) (b : Bool) : (s.setBusy l b).part = s.part := rfl
@[simp] theorem State.setBusy_mem (s : State) (l : Nat) (b : Bool) : (s.setBusy l b).mem = s.mem := rfl
@[simp] theorem State.setBusy_harts (s : State) (l : Nat) (b : Bool) : (s.setBusy l b).harts = s.harts := rfl
@[simp] theorem State.setBusy_cores (s : State) (l : Nat) (b : Bool) : (s.setBusy l b).cores = s.cores := rfl
@[simp] theorem State.setBusy_copies (s : State) (l : Nat) (b : Bool) : (s.setBusy l b).copies = s.copies := rfl
@[simp] theorem State.setBusy_xlat (s : State) (l : Nat) (b : Bool) : (s.setBusy l b).xlat = s.xlat := rfl
@[simp] theorem State.setBusy_rounds (s : State) (l : Nat) (b : Bool) : (s.setBusy l b).rounds = s.rounds := rfl
@[simp] theorem State.setBusy_tqe (s : State) (l : Nat) (b : Bool) : (s.setBusy l b).tqe = s.tqe := rfl
@[simp] theorem State.setBusy_net (s : State) (l : Nat) (b : Bool) : (s.setBusy l b).net = s.net := rfl
@[simp] theorem State.setBusy_host (s : State) (l : Nat) (b : Bool) : (s.setBusy l b).host = s.host := rfl
@[simp] theorem State.setBusy_guest (s : State) (l : Nat) (b : Bool) : (s.setBusy l b).guest = s.guest := rfl
@[simp] theorem State.setBusy_fe (s : State) (l : Nat) (b : Bool) : (s.setBusy l b).fe = s.fe := rfl
@[simp] theorem State.setBusy_mgmt (s : State) (l : Nat) (b : Bool) : (s.setBusy l b).mgmt = s.mgmt := rfl
@[simp] theorem State.setBusy_agenda (s : State) (l : Nat) (b : Bool) : (s.setBusy l b).agenda = s.agenda := rfl
@[simp] theorem State.setBusy_turns (s : State) (l : Nat) (b : Bool) : (s.setBusy l b).turns = s.turns := rfl
@[simp] theorem State.setBusy_cur (s : State) (l : Nat) (b : Bool) : (s.setBusy l b).cur = s.cur := rfl
@[simp] theorem State.setBusy_fire (s : State) (l : Nat) (b : Bool) : (s.setBusy l b).fire = s.fire := rfl
@[simp] theorem State.setBusy_grp (s : State) (l : Nat) (b : Bool) : (s.setBusy l b).grp = s.grp := rfl
@[simp] theorem State.setBusy_lazy (s : State) (l : Nat) (b : Bool) : (s.setBusy l b).lazy = s.lazy := rfl
@[simp] theorem State.setBusy_orders (s : State) (l : Nat) (b : Bool) : (s.setBusy l b).orders = s.orders := rfl
@[simp] theorem State.setBusy_ev (s : State) (l : Nat) (b : Bool) : (s.setBusy l b).ev = s.ev := rfl
@[simp] theorem State.setBusy_ilen (s : State) (l : Nat) (b : Bool) : (s.setBusy l b).ilen = s.ilen := rfl
@[simp] theorem State.setBusy_fresh (s : State) (l : Nat) (b : Bool) : (s.setBusy l b).fresh = s.fresh := rfl

/-! ### What the changed field holds -/

@[simp] theorem State.due_agenda (s : State) (es : List Ev) : (s.due es).agenda = s.agenda ++ es := rfl

@[simp] theorem State.poke_mem (s : State) (a : Nat) (bs : List Byte) : (s.poke a bs).mem = memPut a bs s.mem := rfl

@[simp] theorem State.free_fst (s : State) : s.free.1 = { s with fresh := s.fresh + 1 } := rfl

/-- The hart put back is the hart read. -/
@[simp] theorem State.hart_setHart_self (s : State) (h : Nat) (x : Hart) : (s.setHart h x).hart h = x := by
  simp [State.hart, State.setHart]

/-- Other harts are as before. -/
theorem State.hart_setHart_ne (s : State) {h j : Nat} (x : Hart) (hj : j ≠ h) : (s.setHart h x).hart j = s.hart j := by
  simp [State.hart, State.setHart, tget_tset_ne _ _ _ hj]

@[simp] theorem State.hart_modHart_self (s : State) (h : Nat) (f : Hart → Hart) : (s.modHart h f).hart h = f (s.hart h) := by
  simp [State.modHart]

theorem State.hart_modHart_ne (s : State) {h j : Nat} (f : Hart → Hart) (hj : j ≠ h) : (s.modHart h f).hart j = s.hart j :=
  s.hart_setHart_ne _ hj

@[simp] theorem State.me_modMe (s : State) (f : Hart → Hart) : (s.modMe f).me = f s.me := by
  simp [State.me, State.modMe]

theorem State.hart_modMe_ne (s : State) {j : Nat} (f : Hart → Hart) (hj : j ≠ s.cur) : (s.modMe f).hart j = s.hart j :=
  s.hart_modHart_ne f hj

@[simp] theorem State.hart_due (s : State) (es : List Ev) (h : Nat) : (s.due es).hart h = s.hart h := rfl
@[simp] theorem State.me_due (s : State) (es : List Ev) : (s.due es).me = s.me := rfl
@[simp] theorem State.hart_modCore (s : State) (c : Nat) (f : Core → Core) (h : Nat) : (s.modCore c f).hart h = s.hart h := rfl
@[simp] theorem State.me_modCore (s : State) (c : Nat) (f : Core → Core) : (s.modCore c f).me = s.me := rfl
@[simp] theorem State.hart_poke (s : State) (a : Nat) (bs : List Byte) (h : Nat) : (s.poke a bs).hart h = s.hart h := rfl
@[simp] theorem State.me_poke (s : State) (a : Nat) (bs : List Byte) : (s.poke a bs).me = s.me := rfl
@[simp] theorem State.core_modHart (s : State) (h : Nat) (f : Hart → Hart) (c : Nat) : (s.modHart h f).core c = s.core c := rfl
@[simp] theorem State.core_modMe (s : State) (f : Hart → Hart) (c : Nat) : (s.modMe f).core c = s.core c := rfl
@[simp] theorem State.core_due (s : State) (es : List Ev) (c : Nat) : (s.due es).core c = s.core c := rfl

/-- The core put back is the core read. -/
@[simp] theorem State.core_modCore_self (s : State) (c : Nat) (f : Core → Core) : (s.modCore c f).core c = f (s.core c) := by
  simp [State.core, State.modCore]

theorem State.core_modCore_ne (s : State) {c j : Nat} (f : Core → Core) (hj : j ≠ c) : (s.modCore c f).core j = s.core j := by
  simp [State.core, State.modCore, tget_tset_ne _ _ _ hj]

/-- A directory entry that was set reads back. -/
@[simp] theorem State.dir_setDir_self (s : State) (l : Nat) (d : Dir) : (s.setDir l d).dir l = d := by
  simp [State.dir, State.setDir]

theorem State.dir_setDir_ne (s : State) {l j : Nat} (d : Dir) (hj : j ≠ l) : (s.setDir l d).dir j = s.dir j := by
  simp [State.dir, State.setDir, tget_tset_ne _ _ _ hj]

/-- A node's line state that was set reads back. -/
@[simp] theorem State.ns_setNs_self (s : State) (n l : Nat) (x : NState) : (s.setNs n l x).ns n l = x := by
  by_cases h : x = .i <;> simp [State.ns, State.setNs, h]

/-- An error record leaves the harts. -/
theorem State.hostEvent_harts (s : State) (c d q e : Nat) (b : Bool) : (s.hostEvent c d q e b).harts = s.harts := by
  unfold State.hostEvent
  extract_lets base n wrn rdn a r s'
  have h : s'.harts = s.harts := by
    show (ite _ _ _ : State).harts = _
    rw [apply_ite State.harts, apply_ite State.harts, ite_self, ite_self]
  rw [apply_ite State.harts, ite_self, h]

theorem State.errorRecord_harts (s : State) (e : Err) : (s.errorRecord e).harts = s.harts := by
  unfold State.errorRecord
  simp only
  split
  · rw [State.hostEvent_harts]
  · rfl

end Sys2Proof.Machine
end

