-- ==== Sys2Proof/Laws/Coh.lean ====
section
/-! SUPPORT. What the coherence of memory can change: device memory, the caches and directory, the agenda, reservations,
the host and guest states of lines, the free-value counter and the nodes' round copies. `State.sansCoh` forgets these; every operation
of Machine/Coh.lean keeps the rest, and keeps memory canonical. -/

namespace Sys2Proof.Machine

/-- A hart without its reservation. -/
def Hart.sansResv (h : Hart) : Hart := { h with resv := none }

/-- A state without what the coherence engine may change. -/
def State.sansCoh (s : State) : State :=
  { s with
    mem := [], coh := .init, agenda := [], fresh := 0
    harts := s.harts.map fun e => (e.1, e.2.sansResv)
    host := { s.host with hs := [], posted := [] }, guest := { s.guest with gs := [] }, rounds := { s.rounds with copies := [] } }

/-! ### What `sansCoh` still holds -/

theorem State.part_of_sansCoh {s t : State} (h : t.sansCoh = s.sansCoh) : t.part = s.part := by
  have q := congrArg (fun x : State => x.part) h
  exact q
theorem State.cores_of_sansCoh {s t : State} (h : t.sansCoh = s.sansCoh) : t.cores = s.cores := by
  have q := congrArg (fun x : State => x.cores) h
  exact q
theorem State.copies_of_sansCoh {s t : State} (h : t.sansCoh = s.sansCoh) : t.copies = s.copies := by
  have q := congrArg (fun x : State => x.copies) h
  exact q
theorem State.xlat_of_sansCoh {s t : State} (h : t.sansCoh = s.sansCoh) : t.xlat = s.xlat := by
  have q := congrArg (fun x : State => x.xlat) h
  exact q
theorem State.tqe_of_sansCoh {s t : State} (h : t.sansCoh = s.sansCoh) : t.tqe = s.tqe := by
  have q := congrArg (fun x : State => x.tqe) h
  exact q
theorem State.net_of_sansCoh {s t : State} (h : t.sansCoh = s.sansCoh) : t.net = s.net := by
  have q := congrArg (fun x : State => x.net) h
  exact q
theorem State.fe_of_sansCoh {s t : State} (h : t.sansCoh = s.sansCoh) : t.fe = s.fe := by
  have q := congrArg (fun x : State => x.fe) h
  exact q
theorem State.mgmt_of_sansCoh {s t : State} (h : t.sansCoh = s.sansCoh) : t.mgmt = s.mgmt := by
  have q := congrArg (fun x : State => x.mgmt) h
  exact q
theorem State.turns_of_sansCoh {s t : State} (h : t.sansCoh = s.sansCoh) : t.turns = s.turns := by
  have q := congrArg (fun x : State => x.turns) h
  exact q
theorem State.cur_of_sansCoh {s t : State} (h : t.sansCoh = s.sansCoh) : t.cur = s.cur := by
  have q := congrArg (fun x : State => x.cur) h
  exact q
theorem State.fire_of_sansCoh {s t : State} (h : t.sansCoh = s.sansCoh) : t.fire = s.fire := by
  have q := congrArg (fun x : State => x.fire) h
  exact q
theorem State.ev_of_sansCoh {s t : State} (h : t.sansCoh = s.sansCoh) : t.ev = s.ev := by
  have q := congrArg (fun x : State => x.ev) h
  exact q
theorem State.ilen_of_sansCoh {s t : State} (h : t.sansCoh = s.sansCoh) : t.ilen = s.ilen := by
  have q := congrArg (fun x : State => x.ilen) h
  exact q
theorem State.regions_of_sansCoh {s t : State} (h : t.sansCoh = s.sansCoh) : t.rounds.regions = s.rounds.regions := by
  have q := congrArg (fun x : State => x.rounds.regions) h
  exact q
theorem State.parked_of_sansCoh {s t : State} (h : t.sansCoh = s.sansCoh) : t.rounds.parked = s.rounds.parked := by
  have q := congrArg (fun x : State => x.rounds.parked) h
  exact q

theorem lookup_map_snd {α β : Type} (g : α → β) (t : Tab α) (k : Nat) :
    List.lookup k (t.map fun e => (e.1, g e.2)) = (t.lookup k).map g := by
  induction t with
  | nil => rfl
  | cons e r ih =>
    obtain ⟨k', v⟩ := e
    simp only [List.map, List.lookup]
    split <;> simp [ih]

theorem State.sansCoh_hart (s : State) (h : Nat) : s.sansCoh.hart h = (s.hart h).sansResv := by
  unfold State.hart tget State.sansCoh
  simp only [lookup_map_snd]
  cases List.lookup h s.harts <;> rfl

/-- A hart keeps everything but its reservation. -/
theorem State.hart_of_sansCoh {s t : State} (h : t.sansCoh = s.sansCoh) (k : Nat) :
    (t.hart k).sansResv = (s.hart k).sansResv := by
  rw [← State.sansCoh_hart, ← State.sansCoh_hart, h]

theorem State.x_of_sansCoh {s t : State} (h : t.sansCoh = s.sansCoh) (k : Nat) : (t.hart k).x = (s.hart k).x := by
  have q := congrArg (fun x : Hart => x.x) (State.hart_of_sansCoh h k)
  exact q
theorem State.pc_of_sansCoh {s t : State} (h : t.sansCoh = s.sansCoh) (k : Nat) : (t.hart k).pc = (s.hart k).pc := by
  have q := congrArg (fun x : Hart => x.pc) (State.hart_of_sansCoh h k)
  exact q
theorem State.csr_of_sansCoh {s t : State} (h : t.sansCoh = s.sansCoh) (k : Nat) : (t.hart k).csr = (s.hart k).csr := by
  have q := congrArg (fun x : Hart => x.csr) (State.hart_of_sansCoh h k)
  exact q
theorem State.biq_of_sansCoh {s t : State} (h : t.sansCoh = s.sansCoh) (k : Nat) : (t.hart k).biq = (s.hart k).biq := by
  have q := congrArg (fun x : Hart => x.biq) (State.hart_of_sansCoh h k)
  exact q

theorem State.core_of_sansCoh {s t : State} (h : t.sansCoh = s.sansCoh) (c : Nat) : t.core c = s.core c := by
  unfold State.core; rw [State.cores_of_sansCoh h]

/-! ### The simple updates -/

/-- Two states differ by coherence alone, and the later one has canonical memory if the earlier one has. -/
def State.CohKeeps (s t : State) : Prop :=
  t.sansCoh = s.sansCoh ∧ (Memory.wf s.mem = true → Memory.wf t.mem = true)

theorem State.CohKeeps.refl (s : State) : s.CohKeeps s := ⟨rfl, id⟩

theorem State.CohKeeps.trans {s t u : State} (h : s.CohKeeps t) (k : t.CohKeeps u) : s.CohKeeps u :=
  ⟨k.1.trans h.1, fun w => k.2 (h.2 w)⟩

/-- The last of several updates, taken off. -/
theorem State.CohKeeps.step {s t u : State} (k : t.CohKeeps u) (h : s.CohKeeps t) : s.CohKeeps u := h.trans k

/-- An update of the caches and the directory. -/
theorem State.keeps_coh (s : State) (c : Coh) : s.CohKeeps { s with coh := c } := ⟨rfl, id⟩
theorem State.keeps_due (s : State) (es : List Ev) : s.CohKeeps (s.due es) := ⟨rfl, id⟩
theorem State.keeps_setNs (s : State) (n l : Nat) (x : NState) : s.CohKeeps (s.setNs n l x) := ⟨rfl, id⟩
theorem State.keeps_setDir (s : State) (l : Nat) (d : Dir) : s.CohKeeps (s.setDir l d) := ⟨rfl, id⟩
theorem State.keeps_setBusy (s : State) (l : Nat) (b : Bool) : s.CohKeeps (s.setBusy l b) := ⟨rfl, id⟩
theorem State.keeps_dropStale (s : State) (l : Nat) : s.CohKeeps (s.dropStale l) := ⟨rfl, id⟩
theorem State.keeps_dropVector (s : State) (n l : Nat) : s.CohKeeps (s.dropVector n l) := ⟨rfl, id⟩
theorem State.keeps_dropRound (s : State) (n l : Nat) : s.CohKeeps (s.dropRound n l) := ⟨rfl, id⟩
theorem State.keeps_begin (s : State) (l : Nat) (t : Txn) : s.CohKeeps (s.begin l t) := ⟨rfl, id⟩
theorem State.keeps_poke (s : State) (a : Nat) (bs : List Byte) : s.CohKeeps (s.poke a bs) := ⟨rfl, memPut_wf bs a⟩
theorem State.keeps_pokeN (s : State) (a n v : Nat) : s.CohKeeps (s.pokeN a n v) := s.keeps_poke a _
theorem State.keeps_free (s : State) : s.CohKeeps s.free.1 := ⟨rfl, id⟩
theorem State.keeps_loseDirty (s : State) (l : Nat) : s.CohKeeps (s.loseDirty l) := ⟨rfl, memCells_wf _⟩

theorem State.keeps_setOuter (s : State) (l x : Nat) : s.CohKeeps (s.setOuter l x) := by
  unfold State.setOuter; split <;> exact ⟨rfl, id⟩

theorem resvMap_sans (n l : Nat) (t : Tab Hart) :
    (t.map fun e => if coreOf e.1 = n then
        (e.1, { e.2 with resv := match e.2.resv with | some r => if r.1 = l then none else some r | none => none })
      else e).map (fun e => (e.1, e.2.sansResv)) = t.map fun e => (e.1, e.2.sansResv) := by
  rw [List.map_map]
  apply List.map_congr_left
  intro e _
  simp only [Function.comp]
  split <;> rfl

theorem State.keeps_dropCopies (s : State) (n l : Nat) : s.CohKeeps (s.dropCopies n l) := by
  exact ⟨congrArg (fun h => { s.sansCoh with harts := h }) (resvMap_sans n l s.harts), id⟩

theorem State.keeps_l1dEvict (s : State) (n v : Nat) : s.CohKeeps (s.l1dEvict n v) := by
  unfold State.l1dEvict
  simp only
  split
  · split
    · exact ⟨rfl, id⟩
    · exact ⟨rfl, id⟩
  · exact .trans (s.keeps_coh _) (.trans (State.keeps_dropCopies _ n v) ⟨rfl, id⟩)
  · exact .trans (s.keeps_coh _) (.trans (State.keeps_dropCopies _ n v) ⟨rfl, id⟩)
  · exact ⟨rfl, id⟩

theorem State.keeps_l1dTouch (s : State) (n l : Nat) : s.CohKeeps (s.l1dTouch n l) := by
  unfold State.l1dTouch
  split
  · exact .refl s
  · simp only
    split
    · exact ⟨rfl, id⟩
    · split
      · exact .trans (s.keeps_coh _) (State.keeps_l1dEvict _ n _)
      · exact ⟨rfl, id⟩

theorem State.keeps_l1vTouch (s : State) (n l : Nat) : s.CohKeeps (s.l1vTouch n l) := by
  unfold State.l1vTouch
  simp only
  repeat' split
  all_goals exact ⟨rfl, id⟩

theorem State.keeps_bcTouch (s : State) (n l : Nat) : s.CohKeeps (s.bcTouch n l) := by
  unfold State.bcTouch
  simp only
  repeat' split
  all_goals exact ⟨rfl, id⟩

theorem State.keeps_intoCache (s : State) (c n l : Nat) : s.CohKeeps (s.intoCache c n l) := by
  unfold State.intoCache
  split
  · exact s.keeps_l1vTouch n l
  · split
    · exact s.keeps_bcTouch n l
    · exact s.keeps_l1dTouch n l

/-- A fold of updates that keep. -/
theorem State.keeps_foldl {α : Type} (f : State → α → State) (hf : ∀ (s : State) (a : α), s.CohKeeps (f s a)) (l : List α) (s : State) :
    s.CohKeeps (l.foldl f s) := by
  induction l generalizing s with
  | nil => exact .refl s
  | cons a l ih => exact (hf s a).trans (ih (f s a))

/-! ### The home -/

theorem State.keeps_llcDrop (s : State) (l : Nat) : s.CohKeeps (s.llcDrop l) := by
  unfold State.llcDrop
  simp only
  refine .trans (s.keeps_dropStale l) (.trans (t := if (s.dropStale l).outer l = 0 then s.dropStale l else _) ?_
    (State.keeps_coh _ _))
  split
  · exact .refl _
  · split
    · exact State.keeps_setOuter _ l 0
    · exact State.keeps_setOuter _ l 0
    · exact .refl _

theorem State.keeps_homeGrant (s : State) (l : Nat) (r : Req) (g : Bool) : s.CohKeeps (s.homeGrant l r g) := by
  unfold State.homeGrant
  cases r with
  | gets n => exact ⟨rfl, id⟩
  | getx n => exact ⟨rfl, id⟩
  | upg n => exact ⟨rfl, id⟩
  | wrm n cells =>
    refine .step (State.keeps_due _ _) (.step (State.keeps_foldl _ (fun s c => s.keeps_poke c.1 [c.2]) cells _) ?_)
    exact ⟨rfl, id⟩
  | amo n pa op w x y => exact ⟨rfl, memPut_wf _ _⟩
  | rdu => exact ⟨rfl, id⟩
  | wbreq n => exact ⟨rfl, id⟩
  | evict => exact .trans (s.keeps_coh _) (State.keeps_llcDrop _ l)

theorem State.keeps_homeAct (s : State) (l : Nat) (r : Req) : s.CohKeeps (s.homeAct l r) := by
  unfold State.homeAct
  simp only
  split
  · split <;> exact ⟨rfl, id⟩
  · split
    · exact s.keeps_homeGrant l r false
    · split
      · split
        · exact s.keeps_homeGrant l r false
        · exact ⟨rfl, id⟩
      · exact ⟨rfl, id⟩

theorem State.keeps_llcTouch (s : State) (l : Nat) : s.CohKeeps (s.llcTouch l) := by
  unfold State.llcTouch
  simp only
  split <;> exact ⟨rfl, id⟩

theorem State.keeps_homeServe (s : State) (l : Nat) (r : Req) : s.CohKeeps (s.homeServe l r) := by
  unfold State.homeServe
  split
  · exact s.keeps_homeAct l r
  · split
    · exact ⟨rfl, id⟩
    · split
      · split <;> exact ⟨rfl, id⟩
      · exact (s.keeps_llcTouch l).trans (State.keeps_homeAct _ l r)

theorem State.keeps_homeNext (k l : Nat) (s : State) : s.CohKeeps (State.homeNext k l s) := by
  induction k generalizing s with
  | zero => exact .refl s
  | succ k ih =>
    unfold State.homeNext
    split
    · exact .refl s
    · split
      · exact .refl s
      · exact .trans (s.keeps_coh _) (.trans (State.keeps_homeServe _ l _) (ih _))

theorem State.keeps_homeIdle (s : State) (l : Nat) : s.CohKeeps (s.homeIdle l) := State.keeps_homeNext _ l s

theorem State.keeps_freeWay (s : State) (l : Nat) : s.CohKeeps (s.freeWay l) := by
  unfold State.freeWay
  simp only
  split
  · exact .refl s
  · exact ⟨rfl, id⟩

theorem State.keeps_homeFree (s : State) (l : Nat) : s.CohKeeps (s.homeFree l) := by
  unfold State.homeFree
  simp only
  refine .trans (s.keeps_freeWay l) (.trans (State.keeps_homeIdle _ l) ?_)
  split
  · exact State.keeps_foldl _ (fun s k => s.keeps_homeIdle k) _ _
  · exact .refl _

theorem State.keeps_homeArrive (s : State) (l : Nat) (r : Req) : s.CohKeeps (s.homeArrive l r) := by
  unfold State.homeArrive
  split
  · exact ⟨rfl, id⟩
  · exact (s.keeps_homeServe l r).trans (State.keeps_homeIdle _ l)

theorem State.keeps_llcRoom (s : State) (l : Nat) : s.CohKeeps (s.llcRoom l).1 := by
  unfold State.llcRoom
  simp only
  split
  · exact .refl s
  · split
    · split
      · exact (State.keeps_homeServe s _ _).trans (State.keeps_coh _ _)
      · exact State.keeps_homeServe s _ _
    · split
      · exact ⟨rfl, id⟩
      · exact .refl s

theorem State.keeps_llcInstall (s : State) (l : Nat) : s.CohKeeps (s.llcInstall l) := ⟨rfl, id⟩
theorem State.keeps_endTxn (s : State) (l : Nat) : s.CohKeeps (s.endTxn l) := ⟨rfl, id⟩

theorem State.keeps_llcFilled (s : State) (l : Nat) (p : Bool) : s.CohKeeps (s.llcFilled l p) := by
  unfold State.llcFilled
  simp only
  split
  · split
    · exact .refl s
    · split
      · refine .step (State.keeps_homeFree _ _) (.step (State.keeps_setBusy _ _ _) ?_)
        split <;> exact ⟨rfl, id⟩
      · have h := s.keeps_llcRoom l
        split
        · rename_i u e
          rw [e] at h
          exact .step (State.keeps_homeFree _ _) (.step (State.keeps_homeServe _ _ _)
            (.step (State.keeps_setBusy _ _ _) (.step (State.keeps_endTxn _ _) (.step (State.keeps_llcInstall _ l) h))))
        · rename_i u e
          rw [e] at h
          exact h
  · exact ⟨rfl, id⟩

theorem State.keeps_outerData (s : State) (l : Nat) (d : List Byte) : s.CohKeeps (s.outerData l d) := by
  unfold State.outerData
  split
  · exact .refl s
  · exact ⟨rfl, memPut_wf _ _⟩

theorem State.keeps_outerGrant (s : State) (l x : Nat) : s.CohKeeps (s.outerGrant l x) := by
  unfold State.outerGrant
  have h : s.CohKeeps (if s.outer l < x then s.setOuter l x else s) := by
    split
    · exact s.keeps_setOuter l x
    · exact .refl s
  generalize (if s.outer l < x then s.setOuter l x else s) = u at h
  simp only
  split
  · split
    · exact .step (State.keeps_homeFree _ _) (.step (State.keeps_homeServe _ _ _)
        (.step (State.keeps_setBusy _ _ _) (.step (State.keeps_endTxn _ _) h)))
    · exact h
  · exact h

theorem State.keeps_homeIack (s : State) (n l : Nat) : s.CohKeeps (s.homeIack n l) := by
  unfold State.homeIack
  split
  · split
    · simp only
      split
      · exact .step (State.keeps_homeFree _ _) (.step (State.keeps_homeGrant _ _ _ _) (s.keeps_setBusy l false))
      · exact ⟨rfl, id⟩
    · exact .refl s
  · exact .refl s

theorem State.keeps_homeRdata (s : State) (n l : Nat) (d g : Bool) : s.CohKeeps (s.homeRdata n l d g) := by
  unfold State.homeRdata
  split
  · split
    · simp only
      refine .step (State.keeps_homeFree _ _) (.step (State.keeps_homeGrant _ _ _ _) (.step (State.keeps_setBusy _ _ _) ?_))
      split <;> exact ⟨rfl, id⟩
    · exact .refl s
  · exact .refl s

theorem State.keeps_homePuts (s : State) (n l : Nat) : s.CohKeeps (s.homePuts n l) := by
  unfold State.homePuts
  simp only
  split
  · exact .refl s
  · exact ⟨rfl, id⟩

theorem State.keeps_homeWbdata (s : State) (n l : Nat) (d : Bool) : s.CohKeeps (s.homeWbdata n l d) := by
  unfold State.homeWbdata
  split
  · split
    · simp only
      refine .step (State.keeps_homeFree _ _) (.step (State.keeps_setDir _ _ _) (.step (State.keeps_endTxn _ _) ?_))
      split <;> exact ⟨rfl, id⟩
    · exact .refl s
  · exact .refl s

theorem State.keeps_homeClean (s : State) (n l : Nat) : s.CohKeeps (s.homeClean n l) := by
  unfold State.homeClean
  simp only
  split <;> exact ⟨rfl, id⟩

/-! ### The nodes -/

/-- An optional answer, taken or ignored. -/
theorem State.keeps_getD {s : State} {o : Option State} (h : ∀ t, o = some t → s.CohKeeps t) : s.CohKeeps (o.getD s) := by
  cases o with
  | none => exact .refl s
  | some t => exact h t rfl

theorem State.keeps_nodeInv {s t : State} {n l : Nat} (h : s.nodeInv n l = some t) : s.CohKeeps t := by
  unfold State.nodeInv at h
  split at h <;> cases h
  all_goals first
    | exact ⟨rfl, id⟩
    | exact .trans (s.keeps_dropCopies n l) ⟨rfl, id⟩

theorem State.keeps_guestBytes (s : State) (l : Nat) : s.CohKeeps (s.guestBytes l) :=
  State.keeps_foldl _ (fun s _ => .step (State.keeps_poke _ _ _) s.keeps_free) _ s

theorem State.keeps_nodeTake {s t : State} {n l : Nat} {b late : Bool} (h : s.nodeTake n l b late = some t) : s.CohKeeps t := by
  unfold State.nodeTake at h
  simp only at h
  refine .trans (t := if n = guestPort && (s.ns n l = .e || s.ns n l = .m) then s.guestBytes l else s) ?_ ?_
  · split
    · exact s.keeps_guestBytes l
    · exact .refl s
  · revert h
    generalize (if n = guestPort && (s.ns n l = .e || s.ns n l = .m) then s.guestBytes l else s) = u
    intro h
    split at h
    · split at h
      · cases h; exact ⟨rfl, id⟩
      · split at h <;> cases h
        · exact .trans (u.keeps_dropCopies n l) ⟨rfl, id⟩
        · exact ⟨rfl, id⟩
    · split at h
      · cases h; exact ⟨rfl, id⟩
      · split at h <;> cases h
        · exact .trans (u.keeps_dropCopies n l) ⟨rfl, id⟩
        · exact ⟨rfl, id⟩
    · cases h; exact ⟨rfl, id⟩
    · cases h

theorem State.keeps_answerDelayed (s : State) (n l : Nat) : s.CohKeeps (s.answerDelayed n l) := by
  unfold State.answerDelayed
  simp only
  refine .trans ?_ (State.keeps_foldl _ (fun s e => State.keeps_getD fun t h => State.keeps_nodeTake h) _ _)
  exact ⟨congrArg (fun h => { s.sansCoh with harts := h }) (resvMap_sans n l s.harts), id⟩

theorem State.keeps_nodeDataS {s t : State} {n l : Nat} (h : s.nodeDataS n l = some t) : s.CohKeeps t := by
  unfold State.nodeDataS at h
  split at h
  · simp only [Option.some.injEq] at h
    subst h
    refine .step (State.keeps_intoCache _ _ _ _) (.step (State.keeps_setNs _ _ _ _) ?_)
    split <;> exact ⟨rfl, id⟩
  · cases h

theorem State.keeps_nodeDataE {s t : State} {n l : Nat} (h : s.nodeDataE n l = some t) : s.CohKeeps t := by
  unfold State.nodeDataE at h
  split at h <;> cases h
  all_goals exact .trans (t := (s.setNs n l .e).dropVector n l) ⟨rfl, id⟩ (State.keeps_l1dTouch _ n l)

theorem State.keeps_nodeGrantX {s t : State} {n l : Nat} (h : s.nodeGrantX n l = some t) : s.CohKeeps t := by
  unfold State.nodeGrantX at h
  split at h <;> cases h
  exact .trans (t := (s.setNs n l .e).dropVector n l) ⟨rfl, id⟩ (State.keeps_l1dTouch _ n l)

theorem State.keeps_nodeWbgo {s t : State} {n l : Nat} (h : s.nodeWbgo n l = some t) : s.CohKeeps t := by
  unfold State.nodeWbgo at h
  split at h <;> cases h
  exact ⟨rfl, id⟩

theorem State.keeps_nodeWbstale {s t : State} {n l : Nat} (h : s.nodeWbstale n l = some t) : s.CohKeeps t := by
  unfold State.nodeWbstale at h
  split at h <;> cases h
  all_goals exact ⟨rfl, id⟩

/-! ### Messages and accesses -/

theorem State.keeps_cohStep (s : State) (e : Ev) : s.CohKeeps (s.cohStep e) := by
  unfold State.cohStep
  split
  · exact s.keeps_homeArrive _ _
  · exact s.keeps_homeArrive _ _
  · exact s.keeps_homeArrive _ _
  · exact s.keeps_homePuts _ _
  · exact s.keeps_homeArrive _ _
  · exact s.keeps_homeWbdata _ _ _
  · split
    · exact s.keeps_homeArrive _ _
    · exact .refl s
  · exact s.keeps_homeClean _ _
  · exact s.keeps_homeArrive _ _
  · exact s.keeps_homeArrive _ _
  · exact s.keeps_homeIack _ _
  · exact s.keeps_homeRdata _ _ _ _
  · exact State.keeps_getD fun t h => State.keeps_nodeDataS h
  · exact State.keeps_getD fun t h => State.keeps_nodeDataE h
  · exact State.keeps_getD fun t h => State.keeps_nodeGrantX h
  · exact State.keeps_getD fun t h => State.keeps_nodeInv h
  · exact State.keeps_getD fun t h => State.keeps_nodeTake h
  · exact State.keeps_getD fun t h => State.keeps_nodeTake h
  · exact State.keeps_getD fun t h => State.keeps_nodeWbgo h
  · exact State.keeps_getD fun t h => State.keeps_nodeWbstale h
  · exact s.keeps_answerDelayed _ _
  · exact s.keeps_llcFilled _ _
  · exact (s.keeps_outerData _ _).trans (State.keeps_outerGrant _ _ _)
  · exact (s.keeps_outerData _ _).trans (State.keeps_outerGrant _ _ _)
  · exact .refl s

/-- Delivering messages changes nothing but coherence. -/
theorem State.keeps_settle (k l : Nat) (s : State) : s.CohKeeps (State.settle k l s) := by
  induction k generalizing s with
  | zero => exact .refl s
  | succ k ih =>
    unfold State.settle
    split
    · exact .refl s
    · exact .step (ih _) (.step (State.keeps_cohStep _ _) ⟨rfl, id⟩)

theorem State.keeps_makeRoom (s : State) (n l : Nat) : s.CohKeeps (s.makeRoom n l) := by
  unfold State.makeRoom
  simp only
  split
  · exact State.keeps_settle _ _ _
  · split
    · exact State.keeps_settle _ _ _
    · exact .refl s

theorem State.keeps_askLine (s : State) (c n l : Nat) : s.CohKeeps (s.askLine c n l) := by
  unfold State.askLine
  simp only
  refine .step (State.keeps_settle _ _ _) (.step (State.keeps_due _ _) ?_)
  refine .trans ((s.keeps_makeRoom n l).trans (State.keeps_setNs _ n l .is)) ?_
  split
  · exact .refl _
  · exact State.keeps_coh _ _

theorem State.keeps_cohReadIn (s : State) (c n l : Nat) : s.CohKeeps (s.cohReadIn c n l) := by
  unfold State.cohReadIn
  split
  · exact .trans (s.keeps_due _) (State.keeps_settle _ _ _)
  · split
    · exact s.keeps_intoCache c n l
    · exact s.keeps_intoCache c n l
    · exact s.keeps_intoCache c n l
    · exact s.keeps_askLine c n l
    · simp only
      split
      · exact .step (State.keeps_askLine _ _ _ _) (State.keeps_settle _ _ _)
      · exact .step (State.keeps_intoCache _ _ _ _) (State.keeps_settle _ _ _)

theorem State.keeps_cohRead (s : State) (n l : Nat) : s.CohKeeps (s.cohRead n l) := s.keeps_cohReadIn 0 n l

theorem State.keeps_askOwn (s : State) (n l : Nat) (x : NState) (e : Ev) : s.CohKeeps (s.askOwn n l x e) :=
  .step (State.keeps_settle _ _ _) (.step (State.keeps_due _ _) (.step (State.keeps_setNs _ _ _ _) (s.keeps_makeRoom n l)))

theorem State.keeps_cohOwn (s : State) (n l : Nat) : s.CohKeeps (s.cohOwn n l) := by
  unfold State.cohOwn
  split
  · exact s.keeps_l1dTouch n l
  · exact s.keeps_l1dTouch n l
  · exact s.keeps_askOwn n l _ _
  · exact s.keeps_askOwn n l _ _
  · simp only
    split
    · exact .step (State.keeps_askOwn _ _ _ _ _) (State.keeps_settle _ _ _)
    · exact .step (State.keeps_askOwn _ _ _ _ _) (State.keeps_settle _ _ _)
    · exact State.keeps_settle _ _ _

theorem State.keeps_homeWrite (s : State) (n a : Nat) (bs : List Byte) : s.CohKeeps (s.homeWrite n a bs) :=
  .trans (s.keeps_due _) (State.keeps_settle _ _ _)

theorem State.keeps_regionWrite (s : State) (n a : Nat) (bs : List Byte) : s.CohKeeps (s.regionWrite n a bs) := by
  unfold State.regionWrite
  simp only
  refine .trans (s.keeps_poke a bs) ?_
  split <;> exact ⟨rfl, id⟩

theorem State.keeps_pushPosted (s : State) (on : Nat → Bool) : s.CohKeeps (s.pushPosted on) := by
  unfold State.pushPosted
  split
  · exact .refl s
  · exact .trans ⟨rfl, id⟩ (State.keeps_foldl _ (fun s (w : Nat × Nat × List Byte) => s.keeps_poke w.2.1 w.2.2) _ _)

theorem State.keeps_pushFor (s : State) (a : Nat) : s.CohKeeps (s.pushFor a) := by
  unfold State.pushFor
  split
  · exact s.keeps_pushPosted _
  · exact .refl s

theorem State.keeps_writeUncached (s : State) (a : Nat) (bs : List Byte) : s.CohKeeps (s.writeUncached a bs) := by
  unfold State.writeUncached
  split
  · exact ⟨rfl, id⟩
  · exact s.keeps_poke a bs

theorem State.keeps_ownWrite (s : State) (n a : Nat) (bs : List Byte) : s.CohKeeps (s.ownWrite n a bs) :=
  ⟨rfl, memPut_wf bs a⟩

theorem State.keeps_storePiece (s : State) (n a : Nat) (bs : List Byte) : s.CohKeeps (s.storePiece n a bs) := by
  unfold State.storePiece
  split
  · exact s.keeps_regionWrite n a bs
  · split
    · exact s.keeps_writeUncached a bs
    · split
      · exact s.keeps_homeWrite n a bs
      · simp only
        refine .trans (s.keeps_cohOwn n (lineOf a)) ?_
        split
        · exact State.keeps_ownWrite _ n a bs
        · exact State.keeps_ownWrite _ n a bs
        · exact State.keeps_poke _ a bs

/-- A store of a node changes nothing but coherence. -/
theorem State.keeps_store (s : State) (n a : Nat) (bs : List Byte) : s.CohKeeps (s.store n a bs) :=
  State.keeps_foldl (fun s (p : Nat × Nat) => s.storePiece n p.1 ((bs.drop (p.1 - a)).take p.2)) (fun s p => s.keeps_storePiece n p.1 _) _ s

/-- A write of an agent changes nothing but coherence. -/
theorem State.keeps_agentWrite (s : State) (a : Nat) (bs : List Byte) : s.CohKeeps (s.agentWrite a bs) :=
  s.keeps_store noNode a bs

/-- Obtaining lines changes nothing but coherence. -/
theorem State.keeps_loadLines (s : State) (n a len : Nat) : s.CohKeeps (s.loadLines n a len) := by
  unfold State.loadLines
  split
  · exact s.keeps_pushFor a
  · exact State.keeps_foldl _ (fun s p => s.keeps_cohRead n _) _ s

theorem State.keeps_cleanRead (s : State) (c n l : Nat) : s.CohKeeps (s.cleanRead c n l) := by
  unfold State.cleanRead
  split
  · exact .step (State.keeps_intoCache _ _ _ _) (.step (State.keeps_settle _ _ _) ⟨rfl, id⟩)
  · exact s.keeps_cohReadIn c n l

theorem State.keeps_vectorRead (s : State) (n l : Nat) : s.CohKeeps (s.vectorRead n l) := s.keeps_cleanRead 1 n l

theorem State.keeps_vectorLines (s : State) (n a len : Nat) : s.CohKeeps (s.vectorLines n a len) := by
  unfold State.vectorLines
  split
  · exact s.keeps_pushFor a
  · exact State.keeps_foldl _ (fun s p => s.keeps_vectorRead n _) _ s

theorem State.keeps_vectorPiece (s : State) (n a : Nat) (bs : List Byte) : s.CohKeeps (s.vectorPiece n a bs) := by
  unfold State.vectorPiece
  split
  · exact s.keeps_regionWrite n a bs
  · split
    · exact s.keeps_writeUncached a bs
    · simp only
      refine .step (State.keeps_homeWrite _ _ _ _) ?_
      split
      · exact .step (State.keeps_settle _ _ _) (.step (State.keeps_l1dEvict _ n _) (s.keeps_makeRoom n _))
      · exact .step (State.keeps_settle _ _ _) (.step (State.keeps_l1dEvict _ n _) (s.keeps_makeRoom n _))
      · split
        · exact State.keeps_coh _ _
        · exact ⟨rfl, id⟩
      · exact .refl s

/-- A block store written onward changes nothing but coherence. -/
theorem State.keeps_vectorWrite (s : State) (n a : Nat) (bs : List Byte) : s.CohKeeps (s.vectorWrite n a bs) :=
  State.keeps_foldl (fun s (p : Nat × Nat) => s.vectorPiece n p.1 ((bs.drop (p.1 - a)).take p.2)) (fun s p => s.keeps_vectorPiece n p.1 _) _ s

/-- An atomic operation changes nothing but coherence. -/
theorem State.keeps_atomicAt (s : State) (n a op w x y : Nat) : s.CohKeeps (s.atomicAt n a op w x y).1 := by
  unfold State.atomicAt
  split
  · exact .trans (s.keeps_pushFor a) (State.keeps_pokeN _ a w _)
  · simp only
    have h : s.CohKeeps (State.settle settleFuel (lineOf a)
        ((State.settle settleFuel (lineOf a) s).due [.amoRequest n a op w x y])) :=
      .trans (State.keeps_settle _ _ s) (.trans (State.keeps_due _ _) (State.keeps_settle _ _ _))
    split
    · exact .trans h ⟨rfl, id⟩
    · exact h

end Sys2Proof.Machine
end

