-- ==== Sys2Proof/Laws/Hart.lean ====
section
/-! SUPPORT. Laws of one hart: its registers, taking a trap and returning from one. -/

namespace Sys2Proof.Machine

/-! ### x, f and CSR registers -/

@[simp] theorem Hart.xr_zero (h : Hart) : h.xr 0 = 0 := rfl

/-- x0 discards what is written. -/
@[simp] theorem Hart.setX_zero (h : Hart) (v : Word) : h.setX 0 v = h := rfl

/-- An x register reads back what was written; x0 reads 0. -/
theorem Hart.xr_setX (h : Hart) (r q : Nat) (v : Word) :
    (h.setX r v).xr q = if q = 0 then 0 else if q = r then v else h.xr q := by
  unfold Hart.setX Hart.xr
  by_cases hr : r = 0
  · subst hr
    by_cases hq : q = 0 <;> simp [hq]
  · by_cases hq : q = 0
    · simp [hq]
    · simp [hr, hq, tget_tset]

@[simp] theorem Hart.setX_csr (h : Hart) (r : Nat) (v : Word) : (h.setX r v).csr = h.csr := by unfold Hart.setX; split <;> rfl
@[simp] theorem Hart.setX_pc (h : Hart) (r : Nat) (v : Word) : (h.setX r v).pc = h.pc := by unfold Hart.setX; split <;> rfl
@[simp] theorem Hart.setX_priv (h : Hart) (r : Nat) (v : Word) : (h.setX r v).priv = h.priv := by unfold Hart.setX; split <;> rfl
@[simp] theorem Hart.setX_f (h : Hart) (r : Nat) (v : Word) : (h.setX r v).f = h.f := by unfold Hart.setX; split <;> rfl
@[simp] theorem Hart.setX_v (h : Hart) (r : Nat) (v : Word) : (h.setX r v).v = h.v := by unfold Hart.setX; split <;> rfl
@[simp] theorem Hart.setX_p (h : Hart) (r : Nat) (v : Word) : (h.setX r v).p = h.p := by unfold Hart.setX; split <;> rfl
@[simp] theorem Hart.setX_win (h : Hart) (r : Nat) (v : Word) : (h.setX r v).win = h.win := by unfold Hart.setX; split <;> rfl
@[simp] theorem Hart.setX_grant (h : Hart) (r : Nat) (v : Word) : (h.setX r v).grant = h.grant := by unfold Hart.setX; split <;> rfl
@[simp] theorem Hart.setX_wait (h : Hart) (r : Nat) (v : Word) : (h.setX r v).wait = h.wait := by unfold Hart.setX; split <;> rfl
@[simp] theorem Hart.setX_inst (h : Hart) (r : Nat) (v : Word) : (h.setX r v).inst = h.inst := by unfold Hart.setX; split <;> rfl
@[simp] theorem Hart.setX_holds (h : Hart) (r : Nat) (v : Word) : (h.setX r v).holds = h.holds := by unfold Hart.setX; split <;> rfl
@[simp] theorem Hart.setX_resv (h : Hart) (r : Nat) (v : Word) : (h.setX r v).resv = h.resv := by unfold Hart.setX; split <;> rfl
@[simp] theorem Hart.setX_claims (h : Hart) (r : Nat) (v : Word) : (h.setX r v).claims = h.claims := by
  unfold Hart.setX; split <;> rfl

@[simp] theorem Hart.cs_setX (h : Hart) (r n : Nat) (v : Word) : (h.setX r v).cs n = h.cs n := by simp [Hart.cs]

/-- An f register reads back what was written. -/
theorem Hart.fr_setF (h : Hart) (r q : Nat) (v : Word) : (h.setF r v).fr q = if q = r then v else h.fr q := by
  simp [Hart.fr, Hart.setF, tget_tset]

@[simp] theorem Hart.setF_x (h : Hart) (r : Nat) (v : Word) : (h.setF r v).x = h.x := rfl
@[simp] theorem Hart.setF_csr (h : Hart) (r : Nat) (v : Word) : (h.setF r v).csr = h.csr := rfl
@[simp] theorem Hart.setF_pc (h : Hart) (r : Nat) (v : Word) : (h.setF r v).pc = h.pc := rfl
@[simp] theorem Hart.setF_priv (h : Hart) (r : Nat) (v : Word) : (h.setF r v).priv = h.priv := rfl

/-- A stored CSR reads back what was stored. -/
theorem Hart.cs_setCs (h : Hart) (n q : Nat) (v : Word) : (h.setCs n v).cs q = if q = n then v else h.cs q := by
  simp [Hart.cs, Hart.setCs, tget_tset]

@[simp] theorem Hart.setCs_x (h : Hart) (n : Nat) (v : Word) : (h.setCs n v).x = h.x := rfl
@[simp] theorem Hart.setCs_f (h : Hart) (n : Nat) (v : Word) : (h.setCs n v).f = h.f := rfl
@[simp] theorem Hart.setCs_pc (h : Hart) (n : Nat) (v : Word) : (h.setCs n v).pc = h.pc := rfl
@[simp] theorem Hart.setCs_priv (h : Hart) (n : Nat) (v : Word) : (h.setCs n v).priv = h.priv := rfl
@[simp] theorem Hart.setCs_wait (h : Hart) (n : Nat) (v : Word) : (h.setCs n v).wait = h.wait := rfl
@[simp] theorem Hart.setCs_biq (h : Hart) (n : Nat) (v : Word) : (h.setCs n v).biq = h.biq := rfl

/-! ### Retiring -/

/-- Retiring moves the pc, ends a wait and counts the instruction. -/
@[simp] theorem State.me_retire (s : State) : s.retire.me =
    { s.me with pc := s.me.pc + BitVec.ofNat 64 s.ilen, wait := none, timedOut := false
                csr := tset 0xB02 (s.me.cs 0xB02 + 1) s.me.csr } := by
  simp [State.retire]

@[simp] theorem State.me_wx (s : State) (r : BitVec 5) (v : Word) : (s.wx r v).me = s.me.setX r.toNat v := by
  simp [State.wx]

@[simp] theorem State.me_wait (s : State) (w : Wait) : (s.wait w).me = { s.me with wait := some w } := by
  simp [State.wait]

theorem State.hart_retire_ne (s : State) {j : Nat} (hj : j ≠ s.cur) : s.retire.hart j = s.hart j := s.hart_modMe_ne _ hj
theorem State.hart_wx_ne (s : State) {j : Nat} (r : BitVec 5) (v : Word) (hj : j ≠ s.cur) : (s.wx r v).hart j = s.hart j :=
  s.hart_modMe_ne _ hj
theorem State.hart_wait_ne (s : State) {j : Nat} (w : Wait) (hj : j ≠ s.cur) : (s.wait w).hart j = s.hart j :=
  s.hart_modMe_ne _ hj

/-! ### Traps -/

@[simp] theorem Hart.trap_x (h : Hart) (t : Bool) (c : Nat) (i : Bool) (v : Word) : (h.trap t c i v).x = h.x := by
  unfold Hart.trap; cases t <;> rfl
@[simp] theorem Hart.trap_f (h : Hart) (t : Bool) (c : Nat) (i : Bool) (v : Word) : (h.trap t c i v).f = h.f := by
  unfold Hart.trap; cases t <;> rfl
@[simp] theorem Hart.trap_v (h : Hart) (t : Bool) (c : Nat) (i : Bool) (v : Word) : (h.trap t c i v).v = h.v := by
  unfold Hart.trap; cases t <;> rfl
@[simp] theorem Hart.trap_p (h : Hart) (t : Bool) (c : Nat) (i : Bool) (v : Word) : (h.trap t c i v).p = h.p := by
  unfold Hart.trap; cases t <;> rfl
@[simp] theorem Hart.trap_biq (h : Hart) (t : Bool) (c : Nat) (i : Bool) (v : Word) : (h.trap t c i v).biq = h.biq := by
  unfold Hart.trap; cases t <;> rfl
@[simp] theorem Hart.trap_win (h : Hart) (t : Bool) (c : Nat) (i : Bool) (v : Word) : (h.trap t c i v).win = h.win := by
  unfold Hart.trap; cases t <;> rfl
@[simp] theorem Hart.trap_grant (h : Hart) (t : Bool) (c : Nat) (i : Bool) (v : Word) : (h.trap t c i v).grant = h.grant := by
  unfold Hart.trap; cases t <;> rfl
@[simp] theorem Hart.trap_inst (h : Hart) (t : Bool) (c : Nat) (i : Bool) (v : Word) : (h.trap t c i v).inst = h.inst := by
  unfold Hart.trap; cases t <;> rfl
@[simp] theorem Hart.trap_wait (h : Hart) (t : Bool) (c : Nat) (i : Bool) (v : Word) : (h.trap t c i v).wait = none := by
  unfold Hart.trap; cases t <;> rfl
@[simp] theorem Hart.trap_priv (h : Hart) (t : Bool) (c : Nat) (i : Bool) (v : Word) :
    (h.trap t c i v).priv = if t then .s else .m := by
  unfold Hart.trap; cases t <;> rfl

/-- A trap into S saves the pc and the cause and goes to the vector. -/
theorem Hart.trap_s (h : Hart) (c : Nat) (v : Word) :
    (h.trap true c false v).cs csrSepc = h.pc ∧ (h.trap true c false v).cs csrScause = BitVec.ofNat 64 c ∧
      (h.trap true c false v).cs csrStval = v ∧
      (h.trap true c false v).cs csrMstatus = statusTrapS (h.cs csrMstatus) h.priv ∧
      (h.trap true c false v).pc = h.cs csrStvec &&& ~~~(3 : Word) := by
  simp [Hart.trap, Hart.cs, tget_tset, csrStval, csrScause, csrSepc, csrMstatus, csrStvec, trapTarget]

/-- A trap into M saves the pc and the cause and goes to the vector. -/
theorem Hart.trap_m (h : Hart) (c : Nat) (v : Word) :
    (h.trap false c false v).cs csrMepc = h.pc ∧ (h.trap false c false v).cs csrMcause = BitVec.ofNat 64 c ∧
      (h.trap false c false v).cs csrMtval = v ∧
      (h.trap false c false v).cs csrMstatus = statusTrapM (h.cs csrMstatus) h.priv ∧
      (h.trap false c false v).pc = h.cs csrMtvec &&& ~~~(3 : Word) := by
  simp [Hart.trap, Hart.cs, tget_tset, csrMtval, csrMcause, csrMepc, csrMstatus, csrMtvec, trapTarget]

/-- Below M-mode, and on the Quadrille cluster, an exception is the trap of the hart that executes and nothing else. -/
theorem State.except_eq (s : State) (c : Nat) (v : Word) (h : s.me.priv ≠ .m ∨ isQuadrille s.cur = true) :
    s.except c v = s.modMe fun x => x.trap (x.trapsToS c) c false v := by
  unfold State.except State.exceptAt
  rw [show s.hart s.cur = s.me from rfl]
  rcases h with h | h <;> simp [h, State.modMe]

/-- `sret` and `mret` leave the registers. -/
@[simp] theorem Hart.sret_x (h : Hart) : h.sret.x = h.x := rfl
@[simp] theorem Hart.sret_f (h : Hart) : h.sret.f = h.f := rfl
@[simp] theorem Hart.sret_pc (h : Hart) : h.sret.pc = h.cs csrSepc := rfl
@[simp] theorem Hart.mret_x (h : Hart) : h.mret.x = h.x := rfl
@[simp] theorem Hart.mret_f (h : Hart) : h.mret.f = h.f := rfl
@[simp] theorem Hart.mret_pc (h : Hart) : h.mret.pc = h.cs csrMepc := rfl

end Sys2Proof.Machine
end

