-- ==== Sys2Proof/Laws/Access.lean ====
section
/-! SUPPORT. What translations, scalar accesses and firings can do: a translation changes cached translations and coherence
alone, an access that succeeds goes on with its bytes, a firing whose operands are there runs its body. -/

namespace Sys2Proof.Machine

/-! ### Translation -/

/-- A state without coherence and cached translations. -/
def State.sansTlb (s : State) : State := { s.sansCoh with xlat := { s.xlat with tlb := [] } }

/-- Two states differ by coherence and cached translations alone; canonical memory stays so. -/
def State.TlbKeeps (s t : State) : Prop :=
  t.sansTlb = s.sansTlb ∧ (Memory.wf s.mem = true → Memory.wf t.mem = true)

theorem State.TlbKeeps.refl (s : State) : s.TlbKeeps s := ⟨rfl, id⟩

theorem State.TlbKeeps.trans {s t u : State} (h : s.TlbKeeps t) (k : t.TlbKeeps u) : s.TlbKeeps u :=
  ⟨k.1.trans h.1, fun w => k.2 (h.2 w)⟩

/-- What keeps all but coherence keeps all but coherence and translations. -/
theorem State.CohKeeps.tlb {s t : State} (h : s.CohKeeps t) : s.TlbKeeps t := by
  refine ⟨?_, h.2⟩
  unfold State.sansTlb
  rw [State.xlat_of_sansCoh h.1, h.1]

theorem State.keeps_tlb (s : State) (l : List Tlb) : s.TlbKeeps { s with xlat := { s.xlat with tlb := l } } := ⟨rfl, id⟩

theorem State.tqe_of_sansTlb {s t : State} (h : t.sansTlb = s.sansTlb) : t.tqe = s.tqe := by
  have q := congrArg (fun x : State => x.tqe) h
  exact q
theorem State.net_of_sansTlb {s t : State} (h : t.sansTlb = s.sansTlb) : t.net = s.net := by
  have q := congrArg (fun x : State => x.net) h
  exact q
theorem State.cores_of_sansTlb {s t : State} (h : t.sansTlb = s.sansTlb) : t.cores = s.cores := by
  have q := congrArg (fun x : State => x.cores) h
  exact q
theorem State.copies_of_sansTlb {s t : State} (h : t.sansTlb = s.sansTlb) : t.copies = s.copies := by
  have q := congrArg (fun x : State => x.copies) h
  exact q
theorem State.cur_of_sansTlb {s t : State} (h : t.sansTlb = s.sansTlb) : t.cur = s.cur := by
  have q := congrArg (fun x : State => x.cur) h
  exact q
theorem State.part_of_sansTlb {s t : State} (h : t.sansTlb = s.sansTlb) : t.part = s.part := by
  have q := congrArg (fun x : State => x.part) h
  exact q
theorem State.ctx_of_sansTlb {s t : State} (h : t.sansTlb = s.sansTlb) : t.xlat.ctx = s.xlat.ctx := by
  have q := congrArg (fun x : State => x.xlat.ctx) h
  exact q

/-- A hart keeps everything but its reservation. -/
theorem State.hart_of_sansTlb {s t : State} (h : t.sansTlb = s.sansTlb) (k : Nat) :
    (t.hart k).sansResv = (s.hart k).sansResv := by
  have q := congrArg (fun x : State => x.hart k) h
  have e : ∀ u : State, u.sansTlb.hart k = u.sansCoh.hart k := fun _ => rfl
  simp only [e, State.sansCoh_hart] at q
  exact q

/-- A result that is the state unchanged keeps. -/
theorem State.TlbKeeps.pair {α : Type} {s t : State} {r : α} (h : s.TlbKeeps t) : s.TlbKeeps (t, r).1 := h

theorem State.keeps_walk (hdm : Option Nat) (u : Nat) (tag : Tag) (va : Nat) (i table : Nat) (s : State) :
    s.TlbKeeps (State.walk hdm u tag va i table s).1 := by
  induction i generalizing table s with
  | zero => exact .refl s
  | succ i ih =>
    unfold State.walk
    simp only
    split
    · exact ih _ s
    · split
      · exact .refl s
      · have h : s.TlbKeeps (s.loadLines noNode (table + bits va (12 + 9 * i) 9 * 8) 8) := (s.keeps_loadLines _ _ _).tlb
        revert h
        generalize s.loadLines noNode (table + bits va (12 + 9 * i) 9 * 8) 8 = t
        intro h
        split
        · exact h
        · split
          · split
            · exact h
            · split
              · split
                · split <;> exact h
                · exact h
              · split
                · exact h
                · split <;> exact h
          · split
            · exact h
            · split
              · exact h
              · exact (h.trans (State.keeps_tlb _ _)).trans (ih _ _)

theorem State.keeps_walkFor (s : State) (cx : Cx) (acc : Acc) (va root : Nat) (hdm : Option Nat) :
    s.TlbKeeps (s.walkFor cx acc va root hdm).1 := by
  unfold State.walkFor
  simp only
  have h := State.keeps_walk hdm (unitWalker (unitDie cx.unit)) cx.tag va 5 root s
  split
  · rename_i e; rw [e] at h; exact h
  · rename_i e; rw [e] at h; exact h
  · rename_i e
    rw [e] at h
    split
    · exact h
    · split
      · refine h.trans (.trans ?_ (State.keeps_tlb _ _))
        generalize (_ ||| 0x40 ||| (if acc = .store then 0x80 else 0) : Nat) = want
        split
        · exact .refl _
        · exact (State.keeps_atomicAt _ _ _ _ _ _ _).tlb
      · exact h

/-- A translation changes coherence and cached translations alone. -/
theorem State.keeps_xlate (s : State) (cx : Cx) (acc : Acc) (va : Word) : s.TlbKeeps (s.xlate cx acc va).1 := by
  unfold State.xlate
  simp only
  split
  · exact .refl s
  · split
    · exact .refl s
    · exact .refl s
    · split
      · exact .refl s
      · split
        · split
          · exact .refl s
          · exact s.keeps_tlb _
        · exact s.keeps_walkFor _ _ _ _ _

theorem State.keeps_xlateRange (s : State) (cx : Cx) (acc : Acc) (va : Word) (len : Nat) :
    s.TlbKeeps (s.xlateRange cx acc va len).1 := by
  unfold State.xlateRange
  have h := s.keeps_xlate cx acc va
  split
  · rename_i t loc e
    rw [e] at h
    split
    · exact h
    · have k := t.keeps_xlate cx acc (va + BitVec.ofNat 64 (len - 1))
      split
      · rename_i e'; rw [e'] at k; exact h.trans k
      · rename_i e'; rw [e'] at k; exact h.trans k
  · exact h

theorem State.keeps_xlatePages (cx : Cx) (acc : Acc) (k : Nat) (va : Word) (len : Nat) (s : State) :
    s.TlbKeeps (State.xlatePages cx acc k va len s).1 := by
  induction k generalizing va len s with
  | zero => exact .refl s
  | succ k ih =>
    unfold State.xlatePages
    split
    · exact .refl s
    · simp only
      have h := s.keeps_xlateRange cx acc va (Nat.min len (4096 - va.toNat % 4096))
      split
      · rename_i t loc e
        rw [e] at h
        have h2 := ih (va + BitVec.ofNat 64 (Nat.min len (4096 - va.toNat % 4096))) (len - Nat.min len (4096 - va.toNat % 4096)) t
        split
        · rename_i e'; rw [e'] at h2; exact h.trans h2
        · exact h.trans h2
      · rename_i e; rw [e] at h; exact h

theorem State.keeps_xlateAll (s : State) (cx : Cx) (acc : Acc) (va : Word) (len : Nat) :
    s.TlbKeeps (s.xlateAll cx acc va len).1 := State.keeps_xlatePages cx acc _ va len s

/-! ### Error records and traps keep memory canonical -/

theorem wf_ite {c : Prop} [Decidable c] {s t : State} (hs : Memory.wf s.mem = true) (ht : Memory.wf t.mem = true) :
    Memory.wf (if c then s else t).mem = true := by
  split
  · exact hs
  · exact ht

theorem State.hostEvent_wf (s : State) (c d q e : Nat) (b : Bool) (h : Memory.wf s.mem = true) :
    Memory.wf (s.hostEvent c d q e b).mem = true := by
  unfold State.hostEvent
  extract_lets base n wrn rdn a r s'
  have k : Memory.wf s'.mem = true := by
    refine wf_ite h (wf_ite ?_ ?_)
    · dsimp only
      exact memPutNat_wf _ _ _ h
    · dsimp only
      exact memPutNat_wf _ _ _ (memPut_wf _ _ h)
  exact wf_ite k k

theorem State.errorRecord_wf (s : State) (e : Err) (h : Memory.wf s.mem = true) : Memory.wf (s.errorRecord e).mem = true := by
  unfold State.errorRecord
  extract_lets n a r m s1
  clear_value a r m
  have k : Memory.wf s1.mem = true := memPut_wf r a h
  clear_value s1
  split
  · exact State.hostEvent_wf _ _ _ _ _ _ k
  · exact k

theorem State.hostNote_wf (s : State) (c d e : Nat) (b : Bool) (h : Memory.wf s.mem = true) :
    Memory.wf (s.hostNote c d e b).mem = true := State.hostEvent_wf _ _ _ _ _ _ h

theorem State.askHard_mem (s : State) (h c : Nat) : (s.askHard h c).mem = s.mem := by
  unfold State.askHard
  split <;> rfl

theorem State.quarantine_wf (s : State) (ci why : Nat) (but : Option Nat) (h : Memory.wf s.mem = true) :
    Memory.wf (s.quarantine ci why but).mem = true := by
  unfold State.quarantine
  extract_lets s1 s2
  refine State.errorRecord_wf _ _ ?_
  have k : ∀ (l : List Nat) (u : State), (l.foldl (fun s h => s.askHard h 4) u).mem = u.mem := by
    intro l
    induction l with
    | nil => intro u; rfl
    | cons a l ih => intro u; rw [List.foldl_cons, ih, State.askHard_mem]
  rw [k]
  exact h

/-- Taking an exception keeps memory canonical. -/
theorem State.exceptAt_wf (s : State) (k c : Nat) (v : Word) (h : Memory.wf s.mem = true) :
    Memory.wf (s.exceptAt k c v).mem = true := by
  unfold State.exceptAt
  extract_lets t
  split
  · exact State.quarantine_wf _ _ _ _ (State.hostNote_wf _ _ _ _ _ h)
  · exact h

theorem State.except_wf (s : State) (c : Nat) (v : Word) (h : Memory.wf s.mem = true) : Memory.wf (s.except c v).mem = true :=
  s.exceptAt_wf s.cur c v h

/-! ### Scalar accesses -/

/-- Without buffered stores a load reads what memory gives. -/
theorem State.sbufOver_nil {s : State} (h : s.me.sbuf = []) (loc : Nat) (bs : List Byte) : s.sbufOver loc bs = bs := by
  simp [State.sbufOver, h]

/-- With an empty store buffer and a turn that leaves nothing there, a scalar store is performed at once. -/
theorem State.scalarPut_now {s : State} (hl : s.lazy = false) (hb : s.me.sbuf = []) (loc : Nat) (bs : List Byte) :
    s.scalarPut loc bs = s.store (nodeOf s.myCore) loc bs := by
  have hd : s.drain s.cur = s := by
    have e : (s.hart s.cur).sbuf = [] := hb
    simp [State.drain, e]
  simp [State.scalarPut, hl, hd, hb]

/-- A scalar load whose translation succeeds and whose data is sound goes on with the bytes of its location. -/
theorem State.scalarRead_ok {s s1 : State} {va : Word} {n loc : Nat} {k : State → List Byte → Out}
    (ha : ¬(va.toNat % n ≠ 0 ∧ 4096 < va.toNat % 4096 + n))
    (hx : s.xlateRange (s.dataCx s.cur) .load va n = (s1, .ok loc))
    (hs : s1.stuck (hartDie s1.cur) loc n = false)
    (hp : (s1.loadLines (nodeOf s1.myCore) loc n).poisoned loc n = false) :
    s.scalarRead va n k = k (s1.loadLines (nodeOf s1.myCore) loc n)
      ((s1.loadLines (nodeOf s1.myCore) loc n).sbufOver loc ((s1.loadLines (nodeOf s1.myCore) loc n).peek loc n)) := by
  unfold State.scalarRead
  rw [if_neg ha, hx]
  simp [State.linked, hs, hp]

/-- A misaligned scalar load across a page traps with no byte accessed. -/
theorem State.scalarRead_misaligned {s : State} {va : Word} {n : Nat} {k : State → List Byte → Out}
    (ha : va.toNat % n ≠ 0 ∧ 4096 < va.toNat % 4096 + n) : s.scalarRead va n k = .next (s.except 4 va) := by
  unfold State.scalarRead
  rw [if_pos ha]

/-- A scalar store whose translation succeeds goes on with the bytes stored. -/
theorem State.scalarWrite_ok {s s1 : State} {va : Word} {bs : List Byte} {loc : Nat} {k : State → Out}
    (ha : ¬(va.toNat % bs.length ≠ 0 ∧ 4096 < va.toNat % 4096 + bs.length))
    (hx : s.xlateRange (s.dataCx s.cur) .store va bs.length = (s1, .ok loc))
    (hs : s1.stuck (hartDie s1.cur) loc bs.length = false) :
    s.scalarWrite va bs k = k (s1.scalarPut loc bs) := by
  unfold State.scalarWrite
  simp only
  rw [if_neg ha, hx]
  simp [State.linked, hs]

/-- A misaligned scalar store across a page traps with no byte accessed. -/
theorem State.scalarWrite_misaligned {s : State} {va : Word} {bs : List Byte} {k : State → Out}
    (ha : va.toNat % bs.length ≠ 0 ∧ 4096 < va.toNat % 4096 + bs.length) : s.scalarWrite va bs k = .next (s.except 6 va) := by
  unfold State.scalarWrite
  simp only
  rw [if_pos ha]

/-! ### Firings -/

/-- The groups for which a firing runs. -/
def State.firedGroups (s : State) (whole : Biq → Nat → Bool) (h : Nat) (b : Biq) (id : Nat) : List Nat :=
  if whole b id then s.groups h b else s.grp

/-- A firing whose operands are there for its groups runs its body. -/
theorem State.fireWith_ready {s : State} {h i id : Nat} {b : Biq} {whole : Biq → Nat → Bool} {pm : BitVec 2} {need : List Nat}
    {k : Nat → Nat → Nat → Biq → List Nat → Out} (hf : s.fire = (h, i, id)) (he : s.entry h i = some b)
    (hc : b.canFire (s.groups h b) (s.firedGroups whole h b id) id (if pm = 0 then need else 3 :: need) = true) :
    s.fireWith whole pm need k = k h i id b (s.firedGroups whole h b id) := by
  unfold State.fireWith
  rw [hf]
  unfold State.firedGroups at hc ⊢
  simp only [he, hc]
  rfl

/-- A firing either runs its body or leaves the state as it is. -/
theorem State.fireWith_cases (s : State) (whole : Biq → Nat → Bool) (pm : BitVec 2) (need : List Nat)
    (k : Nat → Nat → Nat → Biq → List Nat → Out) :
    s.fireWith whole pm need k = .next s ∨ ∃ h i id b g, s.fire = (h, i, id) ∧ s.entry h i = some b ∧
      s.fireWith whole pm need k = k h i id b g := by
  unfold State.fireWith
  rcases hf : s.fire with ⟨h, i, id⟩
  simp only
  cases he : s.entry h i with
  | none => exact .inl rfl
  | some b =>
    simp only
    generalize (if whole b id then s.groups h b else s.grp) = g
    by_cases hc : b.canFire (s.groups h b) g id (if pm = 0 then need else 3 :: need) = true
    all_goals simp only [hc]
    · exact .inr ⟨h, i, id, b, g, rfl, he, rfl⟩
    · exact .inl rfl

@[simp] theorem State.setEntry_mem (s : State) (h i : Nat) (b : Biq) : (s.setEntry h i b).mem = s.mem := rfl
@[simp] theorem State.setEntry_cores (s : State) (h i : Nat) (b : Biq) : (s.setEntry h i b).cores = s.cores := rfl
@[simp] theorem State.setEntry_tqe (s : State) (h i : Nat) (b : Biq) : (s.setEntry h i b).tqe = s.tqe := rfl
@[simp] theorem State.setEntry_agenda (s : State) (h i : Nat) (b : Biq) : (s.setEntry h i b).agenda = s.agenda := rfl

/-- Putting an entry back changes nothing of its hart but the queue. -/
@[simp] theorem State.hart_setEntry_self (s : State) (h i : Nat) (b : Biq) :
    (s.setEntry h i b).hart h = { s.hart h with biq := (s.hart h).biq.set i b } := by
  simp [State.setEntry]

theorem State.hart_setEntry_ne (s : State) {h j : Nat} (i : Nat) (b : Biq) (hj : j ≠ h) :
    (s.setEntry h i b).hart j = s.hart j := s.hart_modHart_ne _ hj

end Sys2Proof.Machine
end

