-- ==== Sys2Proof/Tests/Slice0.lean ====
section
/-! SUPPORT. Tests: words of the spec's encodings, terms that no encoding admits, the effects of instructions on small
states, and for each statement with hypotheses a state that meets them. Expected values are worked out from the rules named. -/

namespace Sys2Proof.Tests

open Sys2Proof Sys2Proof.Machine Sys2Proof.Claims

-- One theorem after another: the checks of closed terms would else all run side by side.
set_option Elab.async false

/-! ### Words (R84, R85, R139 to R142, the RISC-V base) -/

/-- custom-0: `sigadd x5, x6, x7`. -/
theorem test_decode_custom0 : decodeHart 0x0073228B = some (.sigadd 5 6 7) := by decide
/-- custom-1: `medge 3, x1, x2`. -/
theorem test_decode_custom1 : decodeHart 0x0020D1AB = some (.medge 3 1 2) := by decide
/-- custom-2: `cpy x1, x2, x3, x4`, rs3 in bits 31 to 27. -/
theorem test_decode_custom2 : decodeHart 0x203100DB = some (.cpy 1 2 3 4) := by decide
/-- custom-3: `ldbw x1, x2, 5`, the window in bits 27 to 25. -/
theorem test_decode_custom3 : decodeHart 0x0A0140FB = some (.ldbw 1 2 5) := by decide
/-- LOAD: `lw x5, 8(x6)`. -/
theorem test_decode_load : decodeHart 0x00832283 = some (.scalarLoad false 2 5 6 8) := by decide
/-- STORE: `sd x7, -8(x6)`. -/
theorem test_decode_store : decodeHart 0xFE733C23 = some (.scalarStore false 3 6 7 0xFF8) := by decide
/-- AMO: `amoadd.d x1, x2, (x3)`. -/
theorem test_decode_amo : decodeHart 0x0021B0AF = some (.scalarAmo 0 false false 3 1 3 2) := by decide
/-- SYSTEM: `csrrs x1, vl, x0` reads. -/
theorem test_decode_csr : decodeHart 0xCC0020F3 = some (.csrRead 0xCC0 2 1) := by decide
/-- A code point of a custom opcode that no entry admits (R85). -/
theorem test_decode_illegal : decodeHart 0xFFFFFFFB = some (.illegalInstruction 0xFFFFFFFB) := by decide
/-- Integer: `cmp` with MOD 2, T0 = ID 5 slot a. -/
theorem test_decode_cmp : decodeA 0x14014002 = some (.cmp ⟨0, 0, 20, 0, 2⟩) := by decide
/-- Float: `fma`, PM true, X, B16, variant 1. -/
theorem test_decode_fma : decodeA 0x436180E5 = some (.fma ⟨1, 1, 24, 28, 5⟩) := by decide
/-- Immediate: `cmpi`, unsigned less than -1. -/
theorem test_decode_cmpi : decodeA 0xC80213FF = some (.cmpi ⟨0, 16, 0x13FF⟩) := by decide
/-- Predicates: `pnot` at 0x73. -/
theorem test_decode_pnot : decodeA 0x73008000 = some (.pnot ⟨0, 0, 8, 0, 0⟩) := by decide
/-- Moves: `nul` at 0x82 with MOD 1. -/
theorem test_decode_nul : decodeA 0x82008001 = some (.nul ⟨0, 0, 8, 0, 1⟩) := by decide
/-- Register form: `vget v5`, T0 = ID 3 slot a. -/
theorem test_decode_vget : decodeM 0x00050600 0 = some (.vget ⟨0, 5, 12, 0⟩) := by decide
/-- Memory form: `st` of 32 bits, LSID 3, OFF6 -1. -/
theorem test_decode_st : decodeM 0x180600BF 0 = some (.st ⟨0, 3, 0, 2, 0x3F⟩) := by decide
/-- Texture-ray form, lone: `tld` with OSEL 1 and level 3. -/
theorem test_decode_tld : decodeM 0xB1020142 3 = some (.tld ⟨0, 16, 20, 2⟩ 3) := by decide
/-- Matrix: `ost` to slot 4. -/
theorem test_decode_ost : decodeM 0x3B040000 0 = some (.ost ⟨0, 4, 0, 0⟩) := by decide
/-- An L bit against R142, PM 0b11, and an unlisted code are rejected. -/
theorem test_decode_rejects : decodeM 0x90000000 0 = some (.ldLone ⟨0, 0, 0, 0, 0⟩ 0) ∧ decodeM 0x80050600 0 = none ∧
    decodeA 0x00C00000 = none ∧ decodeA 0x18000000 = none := by decide
/-- The table's numbering: a hart word, an A-slot word, an M-slot word with its literal above it. -/
theorem test_table_words : decodeTableWord 32 0x0073228B = some (.sigadd 5 6 7) ∧
    decodeTableWord 32 0x14014002 = some (.cmp ⟨0, 0, 20, 0, 2⟩) ∧
    decodeTableWord 64 (0xB1020142 + 3 * 2 ^ 32) = some (.tld ⟨0, 16, 20, 2⟩ 3) := by decide
/-- Encoding gives the same words. -/
theorem test_encode : encode (.sigadd 5 6 7) = [0x0073228B] ∧ encode (.cmp ⟨0, 0, 20, 0, 2⟩) = [0x14014002] ∧
    encode (.tld ⟨0, 16, 20, 2⟩ 3) = [0xB1020142, 3] ∧ encode (.scalarStore false 3 6 7 0xFF8) = [0xFE733C23] := by decide

/-! ### Terms that no encoding admits -/

/-- Form A: PM 0b11, X where no condition is raised, a MOD bit that the entry does not define (R139, R143). -/
theorem test_wf_form_a : (Instr.add ⟨3, 0, 0, 0, 0⟩).wf = false ∧ (Instr.and ⟨0, 1, 0, 0, 0⟩).wf = false ∧
    (Instr.add ⟨0, 0, 0, 0, 4⟩).wf = false ∧ (Instr.add ⟨1, 1, 8, 12, 3⟩).wf = true := by decide
/-- MOD codes beyond an entry's list (R187, R193, R195, R216, R217, R211). -/
theorem test_wf_mod_codes : (Instr.mulh ⟨0, 0, 0, 0, 3⟩).wf = false ∧ (Instr.cmp ⟨0, 0, 0, 0, 6⟩).wf = false ∧
    (Instr.dot4 ⟨0, 0, 0, 0, 7⟩).wf = false ∧ (Instr.fsgnj ⟨0, 0, 0, 0, 3⟩).wf = false ∧ (Instr.fcmp ⟨0, 0, 0, 0, 5⟩).wf = false ∧
    (Instr.mxscl ⟨0, 0, 0, 0, 1⟩).wf = false ∧ (Instr.mxexp ⟨0, 0, 0, 0, 1⟩).wf = false := by decide
/-- Form AI: PM 0b11, bits above a shift amount, a condition beyond the list (R196, R197). -/
theorem test_wf_form_ai : (Instr.addi ⟨3, 0, 0⟩).wf = false ∧ (Instr.slli ⟨0, 0, 64⟩).wf = false ∧
    (Instr.cmpi ⟨0, 0, 0x1800⟩).wf = false ∧ (Instr.slli ⟨0, 0, 63⟩).wf = true := by decide
/-- Register form: PM 0b11, a register beyond v31, a put with a target, selectors of `sget`, `const`, `iota`, `tsmv` (R140, R171 to R174, R322). -/
theorem test_wf_register_form : (Instr.pget ⟨3, 0, 0, 0⟩).wf = false ∧ (Instr.vget ⟨0, 32, 0, 0⟩).wf = false ∧
    (Instr.vput ⟨0, 0, 12, 0⟩).wf = false ∧ (Instr.pput ⟨0, 0, 0, 3⟩).wf = false ∧ (Instr.xput ⟨0, 32, 0, 0⟩).wf = false ∧
    (Instr.sget ⟨0, 3, 0, 0⟩).wf = false ∧ (Instr.const ⟨0, 3, 0, 0⟩ 0).wf = false ∧ (Instr.iota ⟨0, 2, 0, 0⟩ 0).wf = false ∧
    (Instr.tsmv ⟨0, 2, 0, 0⟩).wf = false ∧ (Instr.ost ⟨0, 32, 0, 0⟩).wf = false := by decide
/-- Memory form: PM 0b11, OFF6 of a lone form, a target of a store, the widths and operations of atomics, the fixed fields of tile
transfers (R140, R233, R242, R323). -/
theorem test_wf_memory_form : (Instr.ld ⟨3, 0, 0, 0, 0⟩).wf = false ∧ (Instr.ldLone ⟨0, 0, 0, 0, 1⟩ 0).wf = false ∧
    (Instr.st ⟨0, 0, 12, 0, 0⟩).wf = false ∧ (Instr.stLone ⟨0, 0, 0, 0, 1⟩ 0).wf = false ∧ (Instr.amo ⟨0, 0, 0, 1, 0⟩).wf = false ∧
    (Instr.amo ⟨0, 0, 0, 2, 10⟩).wf = false ∧ (Instr.amo ⟨0, 0, 0, 3, 9⟩).wf = false ∧ (Instr.acas ⟨0, 0, 0, 0, 0⟩).wf = false ∧
    (Instr.tsld ⟨0, 0, 2, 2, 0⟩).wf = false ∧ (Instr.tsst ⟨0, 0, 0, 3, 0⟩).wf = false := by decide
/-- Texture-ray form: SUB and literal bits that the entries do not define (R269, R270, R274, R275). -/
theorem test_wf_texture_form : (Instr.tfl ⟨0, 0, 0, 6⟩ 0).wf = false ∧ (Instr.tfl ⟨0, 0, 0, 0⟩ 0x10000000).wf = false ∧
    (Instr.tld ⟨0, 0, 0, 1⟩ 0).wf = false ∧ (Instr.tld ⟨0, 0, 0, 0⟩ 16).wf = false ∧ (Instr.rbox ⟨0, 0, 0, 1⟩).wf = false ∧
    (Instr.rtri ⟨0, 0, 0, 3⟩).wf = false ∧ (Instr.rtri ⟨0, 0, 0, 12⟩).wf = false := by decide
/-- Hart forms: a scope beyond 4 (R69), widths and operations of the A extension, CSR forms that only read, CSRs that have a row of
their own, load and store widths, and an illegal word that an entry admits. -/
theorem test_wf_hart_form : (Instr.fenceS 0 0 5).wf = false ∧ (Instr.lr false false 1 0 0).wf = false ∧ (Instr.sc false false 4 0 0 0).wf = false ∧
    (Instr.scalarAmo 2 false false 2 0 0 0).wf = false ∧ (Instr.vcfgWrite 2 1 0).wf = false ∧ (Instr.csrWrite 0x800 1 0 0).wf = false ∧
    (Instr.csrRead 0x800 1 0).wf = false ∧ (Instr.scalarLoad false 7 0 0 0).wf = false ∧ (Instr.scalarStore false 4 0 0 0).wf = false ∧
    (Instr.scalarLoad true 1 0 0 0).wf = false ∧ (Instr.illegalInstruction 0x0004900B).wf = false ∧
    (Instr.illegalInstruction 0x13).wf = false := by decide

/-! ### Small states -/

/-- The machine after reset with one hart as given. -/
def on (h : Hart) : State := { State.reset with harts := [(0, h)] }

/-- A hart with x registers as given, in a mode, with a grant of LG0. -/
def hartX (p : Priv) (x : Tab Word) : Hart := { Hart.init with x := x, priv := p, grant := [0] }

/-- Whether an outcome is a next state with a property. -/
def good (o : Out) (p : State → Bool) : Bool := match o with | .next t => p t | _ => false

/-- An entry of `vl` elements with one instruction at ID 3 and its operand tokens. -/
def one (vcfg : Word) (vl : Nat) (i : Instr) (toks : List Tok) : Biq :=
  { Biq.new with
    vcfg := vcfg, vl := vl, grant := [0], code := some ⟨[(3, i)], 1⟩
    toks := (List.range toks.length).zipWith (fun n t => (12 + n, t)) toks }

/-- A state whose sequencer has chosen that instruction, for all the groups of the entry. -/
def firing (b : Biq) : State := { on { Hart.init with biq := [b], grant := [0] } with fire := (0, 0, 3), grp := groupsOf b.vl }

/-- Values as a vector token. -/
def vec (l : List Nat) : Tok := .vec (l.map fun x => some (BitVec.ofNat 64 x))
/-- Bits as a predicate token. -/
def pre (l : List Bool) : Tok := .pred (l.map some)
/-- A uniform value. -/
def uni (x : Nat) : Tok := .uni (some (BitVec.ofNat 64 x))

/-- The token that a firing leaves in target 16 (ID 4, slot a). -/
def gave (i : Instr) (vcfg : Word) (vl : Nat) (toks : List Tok) : Option Tok :=
  match exec i (firing (one vcfg vl i toks)) with
  | .next t => (t.entry 0 0).bind fun b => b.toks.lookup 16
  | _ => none

/-- The token in target 20 (ID 5, slot a). -/
def gave1 (i : Instr) (vcfg : Word) (vl : Nat) (toks : List Tok) : Option Tok :=
  match exec i (firing (one vcfg vl i toks)) with
  | .next t => (t.entry 0 0).bind fun b => b.toks.lookup 20
  | _ => none

/-- Form A with T0 = 16 and a MOD. -/
def fa (md : BitVec 3) : AForm := ⟨0, 0, 16, 0, md⟩
/-- Form A with T0 = 16, T1 = 20, X and a MOD. -/
def fx (md : BitVec 3) : AForm := ⟨0, 1, 16, 20, md⟩
/-- Form AI with T0 = 16. -/
def fi (imm : BitVec 13) : IForm := ⟨0, 16, imm⟩

/-- An element-wise or collective instruction whose operands are there can fire. -/
theorem witness_fire_ready : FireReady (firing (one 2 2 (.add (fa 0)) [vec [1, 2], vec [3, 4]])) 0 0 3
    (one 2 2 (.add (fa 0)) [vec [1, 2], vec [3, 4]]) 0 [0, 1] [0] :=
  ⟨rfl, rfl, rfl, rfl, by decide, by decide, fun n hn => by
    rcases hn with hn | ⟨hn, -⟩
    · simp at hn; rcases hn with rfl | rfl <;> decide
    · exact absurd rfl hn, .inl rfl⟩

/-- The same under a predicate. -/
theorem witness_fire_ready_predicated : FireReady (firing (one 2 2 (.fma ⟨1, 0, 16, 0, 0⟩) [vec [1, 2], vec [3, 4], vec [5, 6], pre [true, false]])) 0 0 3
    (one 2 2 (.fma ⟨1, 0, 16, 0, 0⟩) [vec [1, 2], vec [3, 4], vec [5, 6], pre [true, false]]) 1 [0, 1, 2] [0] :=
  ⟨rfl, rfl, rfl, rfl, by decide, by decide, fun n hn => by
    rcases hn with hn | ⟨-, rfl⟩
    · simp at hn; rcases hn with rfl | rfl | rfl <;> decide
    · decide, .inl rfl⟩

/-! ### Integer datapath -/

/-- `add` wraps, saturates signed and unsigned with OF in the mask (R184 to R186). -/
theorem test_add : gave (.add (fa 0)) 0 2 [vec [200, 1], vec [100, 2]] = some (vec [44, 3]) ∧
    gave (.add (fx 1)) 0 2 [vec [127, 1], vec [1, 2]] = some (vec [127, 3]) ∧
    gave1 (.add (fx 3)) 0x2000 2 [vec [200, 1], vec [100, 2]] = some (pre [true, false]) ∧
    gave (.add (fa 3)) 0 2 [vec [200, 1], vec [100, 2]] = some (vec [255, 3]) := by decide
/-- `sub` borrows modulo 2^W; a uniform operand serves every element (R145, R186). -/
theorem test_sub : gave (.sub (fa 0)) 1 2 [vec [0, 5], uni 1] = some (vec [0xFFFF, 4]) := by decide
/-- `mul` and `mulh`: the low half, and the signed, unsigned and mixed high halves (R186, R187). -/
theorem test_mul : gave (.mul (fa 0)) 0 1 [vec [0x80], vec [3]] = some (vec [0x80]) ∧
    gave (.mulh (fa 0)) 0 1 [vec [0xFF], vec [2]] = some (vec [0xFF]) ∧ gave (.mulh (fa 1)) 0 1 [vec [0xFF], vec [2]] = some (vec [1]) ∧
    gave (.mulh (fa 2)) 0 1 [vec [0xFF], vec [0xFF]] = some (vec [0xFF]) := by decide
/-- Division by zero, signed truncation, and the overflow corner (R188). -/
theorem test_div : gave (.div (fa 0)) 0 3 [vec [7, 0xF9, 0x80], vec [0, 2, 0xFF]] = some (vec [0xFF, 0xFD, 0x80]) ∧
    gave (.rem (fa 0)) 0 3 [vec [7, 0xF9, 0x80], vec [0, 2, 0xFF]] = some (vec [7, 0xFF, 0]) := by decide
/-- The logic operations; `andn` complements slot b (R189). -/
theorem test_logic : gave (.and (fa 0)) 0 1 [vec [0xCC], vec [0xAA]] = some (vec [0x88]) ∧ gave (.or (fa 0)) 0 1 [vec [0xCC], vec [0xAA]] = some (vec [0xEE]) ∧
    gave (.xor (fa 0)) 0 1 [vec [0xCC], vec [0xAA]] = some (vec [0x66]) ∧ gave (.andn (fa 0)) 0 1 [vec [0xCC], vec [0xAA]] = some (vec [0x44]) := by decide
/-- Shift amounts are taken modulo W; `rot` turns right with MOD 1 (R190). -/
theorem test_shifts : gave (.sll (fa 0)) 0 1 [vec [0x81], vec [9]] = some (vec [2]) ∧ gave (.srl (fa 0)) 0 1 [vec [0x81], vec [1]] = some (vec [0x40]) ∧
    gave (.sra (fa 0)) 0 1 [vec [0x81], vec [1]] = some (vec [0xC0]) ∧ gave (.rot (fa 0)) 0 1 [vec [0x81], vec [1]] = some (vec [3]) ∧
    gave (.rot (fa 1)) 0 1 [vec [0x81], vec [1]] = some (vec [0xC0]) := by decide
/-- Signed and unsigned order; `abs` wraps or saturates (R191). -/
theorem test_min_max_abs : gave (.min (fa 0)) 0 1 [vec [0x80], vec [1]] = some (vec [0x80]) ∧ gave (.min (fa 1)) 0 1 [vec [0x80], vec [1]] = some (vec [1]) ∧
    gave (.max (fa 0)) 0 1 [vec [0x80], vec [1]] = some (vec [1]) ∧ gave (.abs (fa 0)) 0 1 [vec [0x80]] = some (vec [0x80]) ∧
    gave (.abs (fa 1)) 0 1 [vec [0x80]] = some (vec [0x7F]) := by decide
/-- Counts of 0 give W (R192). -/
theorem test_counts : gave (.clz (fa 0)) 0 2 [vec [0, 0x10]] = some (vec [8, 3]) ∧ gave (.ctz (fa 0)) 0 2 [vec [0, 0x10]] = some (vec [8, 4]) ∧
    gave (.popc (fa 0)) 0 2 [vec [0xFF, 5]] = some (vec [8, 2]) := by decide
/-- A comparison gives predicates, signed and unsigned (R193). -/
theorem test_cmp : gave (.cmp (fa 2)) 0 2 [vec [0x80, 3], vec [1, 3]] = some (pre [true, false]) ∧
    gave (.cmp (fa 4)) 0 2 [vec [0x80, 3], vec [1, 4]] = some (pre [false, true]) := by decide
/-- A field at bit 4 of 3 bits, zero and sign extended; inserting it keeps the rest (R194). -/
theorem test_fields : gave (.bfx (fa 0)) 0 1 [vec [0xF5], uni 0, uni 0x304] = some (vec [7]) ∧
    gave (.bfx (fa 1)) 0 1 [vec [0x75], uni 0, uni 0x304] = some (vec [0xFF]) ∧
    gave (.bfi (fa 0)) 0 1 [vec [0x00], vec [0xFF], uni 0x304] = some (vec [0x70]) := by decide
/-- Four products of signed bytes on an accumulator (R195). -/
theorem test_dot4 : gave (.dot4 (fa 0)) 2 1 [vec [0x01020304], vec [0xFF010101], vec [10]] = some (vec [18]) := by decide
/-- Reductions of the executing elements give a uniform value (R199, R200). -/
theorem test_reductions : gave (.redsum (fa 0)) 0 3 [vec [1, 2, 3]] = some (uni 6) ∧ gave (.redmin (fa 0)) 0 2 [vec [1, 0xFF]] = some (uni (2 ^ 64 - 1)) ∧
    gave (.redmax (fa 1)) 0 2 [vec [1, 0xFF]] = some (uni 255) ∧ gave (.redand (fa 0)) 0 2 [vec [6, 3]] = some (uni 2) ∧
    gave (.redor (fa 0)) 0 2 [vec [6, 3]] = some (uni 7) := by decide
/-- Inclusive and exclusive prefixes; elements with an equal earlier one conflict (R201, R202). -/
theorem test_prefix_and_conflict : gave (.pfx (fa 0)) 0 3 [vec [1, 2, 3]] = some (vec [1, 3, 6]) ∧ gave (.pfx (fa 1)) 0 3 [vec [1, 2, 3]] = some (vec [0, 1, 3]) ∧
    gave (.vconf (fa 0)) 0 3 [vec [5, 7, 5]] = some (pre [true, true, false]) := by decide
/-- Compression pads with Null; an index beyond VL gives Null (R203, R204). -/
theorem test_compress_and_permute : gave (.cmpr (fa 0)) 0 3 [vec [5, 6, 7], pre [false, true, true]] =
      some (.vec [some 6, some 7, none]) ∧
    gave (.perm (fa 0)) 0 3 [vec [5, 6, 7], vec [2, 0, 9]] = some (.vec [some 7, some 5, none]) := by decide
/-- `slide` up and down, `bcast` with sign extension (R205, R206). -/
theorem test_slide_and_broadcast : gave (.slide (fa 0)) 0 3 [vec [5, 6, 7], uni 1] = some (.vec [none, some 5, some 6]) ∧
    gave (.slide (fa 1)) 0 3 [vec [5, 6, 7], uni 1] = some (.vec [some 6, some 7, none]) ∧
    gave (.bcast (fa 1)) 0 2 [vec [1, 0x80], uni 1] = some (uni (2 ^ 64 - 128)) := by decide
/-- Immediates are sign-extended to W bits; shift immediates are taken modulo W (R196, R197). -/
theorem test_immediates : gave (.addi (fi 0x1FFF)) 0 1 [vec [0]] = some (vec [0xFF]) ∧ gave (.andi (fi 0x1FF0)) 1 1 [vec [0x1234]] = some (vec [0x1230]) ∧
    gave (.ori (fi 3)) 0 1 [vec [4]] = some (vec [7]) ∧ gave (.xori (fi 0x1FFF)) 0 1 [vec [0x0F]] = some (vec [0xF0]) ∧
    gave (.slli (fi 9)) 0 1 [vec [1]] = some (vec [2]) ∧ gave (.srli (fi 1)) 0 1 [vec [0x80]] = some (vec [0x40]) ∧
    gave (.srai (fi 1)) 0 1 [vec [0x80]] = some (vec [0xC0]) ∧ gave (.muli (fi 3)) 0 1 [vec [0x56]] = some (vec [2]) ∧
    gave (.cmpi (fi 0x13FF)) 0 1 [vec [5]] = some (pre [true]) := by decide
/-- A false predicate gives Null where PM is fire-if-true (R152). -/
theorem test_predication : gave (.add ⟨1, 0, 16, 0, 0⟩) 0 2 [vec [1, 2], vec [3, 4], uni 0, pre [true, false]] = some (.vec [some 4, none]) := by decide
/-- A witness for `bfx` and `bfi`: a uniform control word in slot c. -/
theorem witness_uniform_control : UniformC (one 0 1 (.bfx (fa 0)) [vec [0xF5], uni 0, uni 0x304]) 3 := ⟨some 0x304, rfl⟩

/-! ### Predicates, moves, registers -/

/-- The predicate operations and counts (R178, R179). -/
theorem test_predicates : gave (.pand (fa 0)) 0 2 [pre [true, true], pre [true, false]] = some (pre [true, false]) ∧
    gave (.por (fa 0)) 0 2 [pre [false, true], pre [false, false]] = some (pre [false, true]) ∧
    gave (.pxor (fa 0)) 0 2 [pre [true, true], pre [true, false]] = some (pre [false, true]) ∧
    gave (.pnot (fa 0)) 0 2 [pre [true, false]] = some (pre [false, true]) ∧
    gave (.pandn (fa 0)) 0 2 [pre [true, true], pre [true, false]] = some (pre [false, true]) ∧
    gave (.pcnt (fa 0)) 0 3 [pre [true, false, true]] = some (uni 2) ∧ gave (.pffs (fa 0)) 0 3 [pre [false, false, true]] = some (uni 2) ∧
    gave (.pffs (fa 0)) 0 2 [pre [false, false]] = some (uni 2) := by decide
/-- `mov`, `sel` by a predicate, `nul` as a choice and as a test (R175 to R177). -/
theorem test_moves : gave (.mov (fa 0)) 0 2 [vec [1, 2]] = some (vec [1, 2]) ∧
    gave (.sel (fa 0)) 0 2 [vec [1, 2], vec [3, 4], pre [true, false]] = some (vec [1, 4]) ∧
    gave (.nul (fa 0)) 0 2 [.vec [none, some 2], vec [3, 4]] = some (vec [3, 2]) ∧
    gave (.nul (fa 1)) 0 2 [.vec [none, some 2]] = some (pre [false, true]) := by decide
/-- `const` in its three kinds, `iota` with a negative step, `sget` of VL (R107, R173, R174). -/
theorem test_constants : gave (.const ⟨0, 0, 16, 0⟩ 0xFFFFFFFF) 0 2 [] = some (uni (2 ^ 64 - 1)) ∧ gave (.const ⟨0, 1, 16, 0⟩ 0xFFFFFFFF) 0 2 [] = some (uni 0xFFFFFFFF) ∧
    gave (.const ⟨0, 2, 16, 0⟩ 1) 0 2 [] = some (uni 0x100000000) ∧ gave (.iota ⟨0, 0, 16, 0⟩ 0xFFFF0005) 0 3 [] = some (vec [5, 4, 3]) ∧
    gave (.sget ⟨0, 1, 16, 0⟩) 0 3 [] = some (uni 3) := by decide

/-- A hart with v1 and p2 written in LG0, and one instruction to fire. -/
def withV (i : Instr) (toks : List Tok) : State :=
  { on { Hart.init with
      biq := [{ one 0 2 i toks with capt := [(7, 0x77)] }], grant := [0]
      v := [(regKey 1 0 0, 0x11), (regKey 1 0 1, 0x122)], p := [(regKey 2 0 0, true), (regKey 2 0 1, false)] } with fire := (0, 0, 3), grp := [0] }

/-- The entry after a firing. -/
def after (i : Instr) (s : State) (p : Biq → Bool) : Bool := good (exec i s) fun t => match t.entry 0 0 with | some b => p b | none => false

/-- `vget` cuts to SEW, `pget` reads bits, p0 is all ones, `xget` the captured value (R104, R171). -/
theorem test_register_reads : after (.vget ⟨0, 1, 16, 0⟩) (withV (.vget ⟨0, 1, 16, 0⟩) []) (fun b => b.toks.lookup 16 == some (vec [0x11, 0x22])) = true ∧
    after (.pget ⟨0, 2, 16, 0⟩) (withV (.pget ⟨0, 2, 16, 0⟩) []) (fun b => b.toks.lookup 16 == some (pre [true, false])) = true ∧
    after (.pget ⟨0, 0, 16, 0⟩) (withV (.pget ⟨0, 0, 16, 0⟩) []) (fun b => b.toks.lookup 16 == some (pre [true, true])) = true ∧
    after (.xget ⟨0, 7, 16, 0⟩) (withV (.xget ⟨0, 7, 16, 0⟩) []) (fun b => b.toks.lookup 16 == some (uni 0x77)) = true := by decide
/-- Puts stage their writes; Null, p0 and x0 take none (R172). -/
theorem test_puts : after (.vput ⟨0, 4, 0, 0⟩) (withV (.vput ⟨0, 4, 0, 0⟩) [.vec [some 9, none]]) (fun b => b.staged == [.v 4 0 0 9]) = true ∧
    after (.pput ⟨0, 3, 0, 0⟩) (withV (.pput ⟨0, 3, 0, 0⟩) [pre [true, false]]) (fun b => b.staged == [.p 3 0 0 true, .p 3 0 1 false]) = true ∧
    after (.pput ⟨0, 0, 0, 0⟩) (withV (.pput ⟨0, 0, 0, 0⟩) [pre [true, false]]) (fun b => b.staged == []) = true ∧
    after (.xput ⟨0, 5, 0, 0⟩) (withV (.xput ⟨0, 5, 0, 0⟩) [uni 8]) (fun b => b.staged == [.x 5 8]) = true ∧
    after (.xput ⟨0, 0, 0, 0⟩) (withV (.xput ⟨0, 0, 0, 0⟩) [uni 8]) (fun b => b.staged == []) = true := by decide
/-- A register read is settled where no older entry is to put it. -/
theorem witness_settled : let s := withV (.vget ⟨0, 1, 16, 0⟩) []
    Settled s 0 0 { one 0 2 (.vget ⟨0, 1, 16, 0⟩) [] with capt := [(7, 0x77)] } (isVput 1) [0] ∧ 7 ∉ Biq.new.pend := by
  simp [Settled, Biq.new]

/-! ### Floating-point datapath: FP32 operands as bit patterns (R36, R209) -/

/-- Sums, products, quotients and roots of exact values (R213). -/
theorem test_float_arithmetic : gave (.fadd (fa 0)) 2 1 [vec [0x3F800000], vec [0x40000000]] = some (vec [0x40400000]) ∧
    gave (.fsub (fa 0)) 2 1 [vec [0x3F800000], vec [0x40000000]] = some (vec [0xBF800000]) ∧
    gave (.fmul (fa 0)) 2 1 [vec [0x40000000], vec [0x40400000]] = some (vec [0x40C00000]) ∧
    gave (.fdiv (fa 0)) 2 1 [vec [0x40C00000], vec [0x40400000]] = some (vec [0x40000000]) ∧
    gave (.fsqrt (fa 0)) 2 1 [vec [0x40800000]] = some (vec [0x40000000]) := by decide +kernel
/-- Infinity less infinity and the root of -1 are the canonical NaN; 1 / 0 is infinity (R46, R213). -/
theorem test_float_invalid : gave (.fsub (fa 0)) 2 1 [vec [0x7F800000], vec [0x7F800000]] = some (vec [0x7FC00000]) ∧
    gave (.fsqrt (fa 0)) 2 1 [vec [0xBF800000]] = some (vec [0x7FC00000]) ∧
    gave (.fdiv (fa 0)) 2 1 [vec [0x3F800000], vec [0x80000000]] = some (vec [0xFF800000]) := by decide
/-- The four signs of the fused multiply-add (R214). -/
theorem test_fma : gave (.fma (fa 0)) 2 1 [vec [0x40000000], vec [0x40400000], vec [0x3F800000]] = some (vec [0x40E00000]) ∧
    gave (.fma (fa 1)) 2 1 [vec [0x40000000], vec [0x40400000], vec [0x3F800000]] = some (vec [0x40A00000]) ∧
    gave (.fma (fa 2)) 2 1 [vec [0x40000000], vec [0x40400000], vec [0x3F800000]] = some (vec [0xC0A00000]) ∧
    gave (.fma (fa 3)) 2 1 [vec [0x40000000], vec [0x40400000], vec [0x3F800000]] = some (vec [0xC0E00000]) := by decide
/-- A NaN loses to a number; -0 lies below +0 (R48, R215). -/
theorem test_float_extrema : gave (.fmin (fa 0)) 2 2 [vec [0x7FC00000, 0x00000000], vec [0x3F800000, 0x80000000]] = some (vec [0x3F800000, 0x80000000]) ∧
    gave (.fmax (fa 0)) 2 1 [vec [0xBF800000], vec [0x3F800000]] = some (vec [0x3F800000]) := by decide
/-- Signs, comparison of an unordered pair, and classes (R216 to R218). -/
theorem test_float_sign_order_class : gave (.fsgnj (fa 1)) 2 1 [vec [0x3F800000], vec [0x40000000]] = some (vec [0xBF800000]) ∧
    gave (.fcmp (fa 1)) 2 2 [vec [0x3F800000, 0x7FC00000], vec [0x40000000, 0]] = some (pre [true, false]) ∧
    gave (.fcmp (fa 3)) 2 1 [vec [0x7FC00000], vec [0]] = some (pre [true]) ∧
    gave (.fclass (fa 0)) 2 3 [vec [0xFF800000, 0x80000000, 0x7FC00000]] = some (vec [1, 8, 0x200]) := by decide
/-- Special values of the function unit: 1/0, 2^-∞, log2 of a negative, sine of infinity (R219). -/
theorem test_functions : gave (.frcp (fa 0)) 2 1 [vec [0]] = some (vec [0x7F800000]) ∧ gave (.frsq (fa 0)) 2 1 [vec [0xBF800000]] = some (vec [0x7FC00000]) ∧
    gave (.fex2 (fa 0)) 2 1 [vec [0xFF800000]] = some (vec [0]) ∧ gave (.flg2 (fa 0)) 2 1 [vec [0xBF800000]] = some (vec [0x7FC00000]) ∧
    gave (.fsin (fa 0)) 2 1 [vec [0x7F800000]] = some (vec [0x7FC00000]) ∧ gave (.fcos (fa 0)) 2 1 [vec [0x7F800000]] = some (vec [0x7FC00000]) := by
  decide
/-- Two FP16 products on an FP32 sum: 1 * 1 + 2 * 1 + 1 (R220). -/
theorem test_fdot2 : gave (.fdot2 (fa 0)) 2 1 [vec [0x40003C00], vec [0x3C003C00], vec [0x3F800000]] = some (vec [0x40800000]) := by decide
/-- The sum of a tree with a Null leaf, and the least of a set (R221, R222). -/
theorem test_float_reductions : gave (.fredsum (fa 0)) 2 3 [.vec [some 0x3F800000, none, some 0x40000000]] = some (uni 0x40400000) ∧
    gave (.fredmm (fa 0)) 2 2 [vec [0x40000000, 0x3F800000]] = some (uni 0x3F800000) ∧
    gave (.fredmm (fa 1)) 2 2 [vec [0x40000000, 0x3F800000]] = some (uni 0x40000000) := by decide
/-- Widening, narrowing and the two 16-bit formats (R223, R224). -/
theorem test_float_width : gave (.fwid (fa 0)) 2 1 [vec [0x3C00]] = some (vec [0x3F800000]) ∧ gave (.fwid (fa 4)) 2 1 [vec [0x3F80]] = some (vec [0x3F800000]) ∧
    gave (.fnar (fa 0)) 2 1 [vec [0x3F800000]] = some (vec [0x3C00]) ∧ gave (.fcvtd (fa 0)) 1 1 [vec [0x3C00]] = some (vec [0x3F80]) := by decide
/-- A NaN converts to 0, an overflow to the end of the range; an integer converts back (R225, R226). -/
theorem test_float_integer : gave (.f2i (fa 0)) 2 3 [vec [0x7FC00000, 0x7F800000, 0xC0000000]] = some (vec [0, 0x7FFFFFFF, 0xFFFFFFFE]) ∧
    gave (.i2f (fa 0)) 2 1 [vec [0xFFFFFFFE]] = some (vec [0xC0000000]) ∧ gave (.i2f (fa 1)) 2 1 [vec [2]] = some (vec [0x40000000]) := by decide
/-- The microscaling instructions fire: a scale, and E4M3 codes there and back under scale 127 of v31 (R228 to R230). -/
theorem test_microscaling : (gave (.mxscl (fa 2)) 2 1 [vec [0x3F800000]]).isSome = true ∧
    after (.mxexp (fa 2)) ({ firing (one 2 1 (.mxexp (fa 2)) [vec [0x38]]) with harts :=
      [(0, { Hart.init with biq := [one 2 1 (.mxexp (fa 2)) [vec [0x38]]], grant := [0], v := [(regKey 31 0 0, 127)] })] })
      (fun b => b.toks.lookup 16 == some (vec [0x3F800000])) = true ∧
    after (.mxcvt (fa 2)) ({ firing (one 2 1 (.mxcvt (fa 2)) [vec [0x3F800000]]) with harts :=
      [(0, { Hart.init with biq := [one 2 1 (.mxcvt (fa 2)) [vec [0x3F800000]]], grant := [0], v := [(regKey 31 0 0, 127)] })] })
      (fun b => b.toks.lookup 16 == some (vec [0x38])) = true := by decide
/-- Rounding on a grid: 5 quarters to the nearest, and a format's own value (R43). -/
theorem test_rounding : (roundGrid 0 false 5 (-2) false 0).1 = 1 ∧ (roundGrid 3 false 5 (-2) false 0).1 = 2 ∧
    fp32.rnd ⟨0, false, false⟩ (fp32.read false 0x3F800000) = (0x3F800000, 0) := by decide
/-- The premises of the rounding statement. -/
theorem witness_rounding : (-2 : Int) ≤ 0 ∧ fp32 ∈ [fp16, bf16, fp32, fp64] ∧ 0x3F800000 < 2 ^ fp32.width ∧ (fp32.read false 0x3F800000).isNan = false := by
  decide

/-! ### Block memory accesses, on local memory (R11, R233 to R256) -/

/-- Where the own local memory begins (R11). -/
def own : Nat := 0x00FFFE0000000000
/-- Where local memory of core 0 lies among the locations. -/
def loc0 : Nat := 2 ^ 52

/-- A firing with bytes in local memory. -/
def firingMem (b : Biq) (bs : List Byte) : State := { firing b with mem := memPut loc0 bs [] }

/-- The words 7 and 9 at the start of local memory. -/
def words79 : List Byte := leBytes 4 7 ++ leBytes 4 9

/-- Two 32-bit elements: base in a, data or step in b, index or step in c. -/
def mem2 (i : Instr) (b c : Tok) : State := firingMem (one 2 2 i [uni own, b, c]) words79

/-- The places that a firing load waits for. -/
def waits (i : Instr) (c : Tok) : Option (List (Option Nat)) :=
  match exec i (mem2 i (uni 1) c) with
  | .next t => (t.entry 0 0).bind fun b => b.pends.head?.map fun p => p.elems.map fun e => e.map (·.2)
  | _ => none

/-- Unit stride with a static offset, a stride in bytes, an index in units of W, and the lone forms' literal (R234, R235). -/
theorem test_loads_address : waits (.ld ⟨0, 0, 16, 2, 1⟩) (uni 0) = some [some (loc0 + 4), some (loc0 + 8)] ∧
    waits (.ldLone ⟨0, 0, 16, 2, 0⟩ 8) (uni 0) = some [some (loc0 + 8), some (loc0 + 12)] ∧
    waits (.lds ⟨0, 0, 16, 2, 0⟩) (uni 16) = some [some loc0, some (loc0 + 16)] ∧
    waits (.ldsLone ⟨0, 0, 16, 2, 0⟩ 4) (uni 16) = some [some (loc0 + 4), some (loc0 + 20)] ∧
    waits (.ldx ⟨0, 0, 16, 2, 0⟩) (vec [3, 0]) = some [some (loc0 + 12), some loc0] ∧
    waits (.ldxLone ⟨0, 0, 16, 2, 0⟩ 4) (vec [3, 0]) = some [some (loc0 + 16), some (loc0 + 4)] ∧
    waits (.ldb ⟨0, 0, 16, 2, 0⟩) (uni 0) = some [some loc0, some (loc0 + 4)] ∧
    waits (.ldbLone ⟨0, 0, 16, 2, 0⟩ 4) (uni 0) = some [some (loc0 + 4), some (loc0 + 8)] ∧
    waits (.ldbx ⟨0, 0, 16, 2, 0⟩) (vec [1, 0]) = some [some (loc0 + 4), some loc0] ∧
    waits (.ldbxLone ⟨0, 0, 16, 2, 0⟩ 4) (vec [1, 0]) = some [some (loc0 + 8), some (loc0 + 4)] := by decide +kernel

/-- A misaligned element is a fault of the block with its code and address (R97, R254). -/
theorem test_load_misaligned : after (.ldLone ⟨0, 0, 16, 2, 0⟩ 2) (mem2 (.ldLone ⟨0, 0, 16, 2, 0⟩ 2) (uni 1) (uni 0))
    (fun b => b.faults.map (fun f => (f.code, f.va.toNat, f.elem)) == [(8, own + 2, 0), (8, own + 6, 1)] && b.pends == []) = true := by decide +kernel

/-- The bytes that a firing store buffers: place and value. -/
def buffers (i : Instr) (c : Tok) : Option (List (Nat × Nat)) :=
  match exec i (mem2 i (vec [0x55, 0x66]) c) with
  | .next t => (t.entry 0 0).map fun b => b.stores.map fun st => (st.pa, leNat st.bytes)
  | _ => none

/-- Stores are buffered with the same addressing (R240). -/
theorem test_stores_buffer : buffers (.st ⟨0, 0, 0, 2, 1⟩) (uni 0) = some [(loc0 + 4, 0x55), (loc0 + 8, 0x66)] ∧
    buffers (.stLone ⟨0, 0, 0, 2, 0⟩ 8) (uni 0) = some [(loc0 + 8, 0x55), (loc0 + 12, 0x66)] ∧
    buffers (.sts ⟨0, 0, 0, 2, 0⟩) (uni 16) = some [(loc0, 0x55), (loc0 + 16, 0x66)] ∧
    buffers (.stsLone ⟨0, 0, 0, 2, 0⟩ 4) (uni 16) = some [(loc0 + 4, 0x55), (loc0 + 20, 0x66)] ∧
    buffers (.stx ⟨0, 0, 0, 2, 0⟩) (vec [3, 0]) = some [(loc0 + 12, 0x55), (loc0, 0x66)] ∧
    buffers (.stxLone ⟨0, 0, 0, 2, 0⟩ 4) (vec [3, 0]) = some [(loc0 + 16, 0x55), (loc0 + 4, 0x66)] := by decide +kernel

/-- An atomic of the oldest block acts at once, element by element, and gives the old values (R242, R243). -/
theorem test_atomics :
    good (exec (.amo ⟨0, 0, 16, 2, 0⟩) (mem2 (.amo ⟨0, 0, 16, 2, 0⟩) (vec [1, 1]) (vec [0, 0])))
      (fun t => memNat t.mem loc0 4 == 9 && (t.entry 0 0).any fun b => b.toks.lookup 16 == some (vec [7, 8]) && b.atom) = true ∧
    good (exec (.acas ⟨0, 0, 16, 2, 0⟩) (mem2 (.acas ⟨0, 0, 16, 2, 0⟩) (vec [7, 7]) (vec [1, 2])))
      (fun t => memNat t.mem loc0 4 == 1 && memNat t.mem (loc0 + 4) 4 == 9) = true := by decide +kernel

/-- An atomic whose line answers with poison faults and changes nothing (R479). -/
theorem test_atomic_poison :
    good (let s := mem2 (.amo ⟨0, 0, 16, 2, 0⟩) (vec [1, 1]) (vec [0, 0])
          exec (.amo ⟨0, 0, 16, 2, 0⟩) { s with coh := { s.coh with poison := [lineOf loc0] } })
      (fun t => memNat t.mem loc0 4 == 7 && (t.entry 0 0).any fun b => b.faults.length == 2 && !b.atom) = true := by decide +kernel

/-- The premises of the load, store and atomic statements. -/
theorem witness_memory_forms :
    (mem2 (.ld ⟨0, 0, 16, 2, 1⟩) (uni 1) (uni 0)).memReady 0 0 (one 2 2 (.ld ⟨0, 0, 16, 2, 1⟩) [uni own, uni 1, uni 0]) 0 = true ∧
    (mem2 (.st ⟨0, 0, 0, 2, 1⟩) (uni 1) (uni 0)).storeMay 0 (one 2 2 (.st ⟨0, 0, 0, 2, 1⟩) [uni own, uni 1, uni 0]) 4 [0] = true ∧
    (mem2 (.amo ⟨0, 0, 16, 2, 0⟩) (vec [1, 1]) (vec [0, 0])).stuck 0 loc0 4 = false ∧
    (mem2 (.amo ⟨0, 0, 16, 2, 0⟩) (vec [1, 1]) (vec [0, 0])).poisoned loc0 4 = false ∧
    State.atomReady 0 (one 2 2 (.amo ⟨0, 0, 16, 2, 0⟩) [uni own, vec [1, 1], vec [0, 0]]) 3 = true := by decide +kernel

/-- A hart that owns its core's live engine, with one instruction to fire. -/
def matFiring (b : Biq) : State :=
  { firingMem b words79 with cores := [(0, { (default : Core) with mat :=
      { (default : Matrix) with owner := some 0, en := true, cells := [(0, 0x41), (1, 0x42)] } })] }

/-- `tsmv` reads cells of tile 0 row by row, `tsst` stores them, `tsld` waits for words, `ost` stages slot bytes (R320 to R324). -/
theorem test_tile_transfers :
    after (.tsmv ⟨0, 0, 16, 0⟩) (matFiring (one 2 2 (.tsmv ⟨0, 0, 16, 0⟩) [uni 0])) (fun b => b.toks.lookup 16 == some (vec [0x41, 0x42])) = true ∧
    after (.tsst ⟨0, 0, 0, 2, 0⟩) (matFiring (one 2 2 (.tsst ⟨0, 0, 0, 2, 0⟩) [uni own, uni 0, uni 128]))
      (fun b => b.stores.map (fun st => (st.pa, leNat st.bytes)) == [(loc0, 0x41), (loc0 + 4, 0x42)]) = true ∧
    after (.tsld ⟨0, 0, 0, 2, 0⟩) (matFiring (one 2 2 (.tsld ⟨0, 0, 0, 2, 0⟩) [uni own, uni 0, uni 128]))
      (fun b => b.pends.map (fun p => p.elems.map fun e => e.map (·.2)) == [[some loc0, some (loc0 + 4)]]) = true ∧
    after (.ost ⟨0, 1, 0, 0⟩) (matFiring (one 2 2 (.ost ⟨0, 1, 0, 0⟩) [vec [0x11223344, 5], uni 8]))
      (fun b => b.staged == [.slot 3 1 8 (leBytes 4 0x11223344), .slot 3 1 12 (leBytes 4 5)]) = true := by decide +kernel
/-- With the engine not live, `tsmv` records a matrix-state fault (R320, R321). -/
theorem test_tile_transfer_faults : after (.tsmv ⟨0, 0, 16, 0⟩) (firingMem (one 2 2 (.tsmv ⟨0, 0, 16, 0⟩) [uni 0]) [])
    (fun b => b.faults.length == 1) = true := by decide +kernel
/-- The premises of the tile statements. -/
theorem witness_tile_transfers : (matFiring (one 2 2 (.tsmv ⟨0, 0, 16, 0⟩) [uni 0])).matEn 0 = true ∧
    (firing (one 2 2 (.tsmv ⟨0, 0, 16, 0⟩) [uni 0])).matEn 0 = false ∧
    (firing (one 2 2 (.tsmv ⟨0, 0, 16, 0⟩) [uni 0])).heldBack 0 strB 0 = false ∧
    0 < (firing (one 2 2 (.tsmv ⟨0, 0, 16, 0⟩) [uni 0])).entryVl 0 (one 2 2 (.tsmv ⟨0, 0, 16, 0⟩) [uni 0]) := by decide +kernel

/-! ### Textures and rays -/

/-- The 32-byte descriptor of a 2 x 1 texture of 32-bit floats in format code `f`, its texels at local offset 256. -/
def texDesc (f : Nat) : List Byte :=
  leBytes 8 (own + 256) ++ leBytes 1 f ++ leBytes 1 1 ++ leBytes 1 0 ++ leBytes 1 0 ++ leBytes 2 2 ++ leBytes 2 1 ++
    leBytes 2 (0 + 8 * 1 + 64 * 2 + 512 * 3) ++ List.replicate 14 0

/-- The texture at the own local memory's start, a sampler descriptor of zeros after it, and its texels 1.0 and 2.0. -/
def texState (f : Nat) (i : Instr) (x y : Tok) : State :=
  let s := firingMem (one 2 2 i [uni own, x, y]) (texDesc f)
  { s with mem := memPut (loc0 + 256) (leBytes 4 0x3F800000 ++ leBytes 4 0x40000000) s.mem }

/-- `tld` gives texel (1, 0) and, outside the level, zeros (R262, R270); OSEL 1 gives the first two channels (R268). -/
theorem test_tld : after (.tld ⟨0, 16, 20, 2⟩ 0) (texState 0x0C (.tld ⟨0, 16, 20, 2⟩ 0) (vec [1, 5]) (vec [0, 0]))
    (fun b => b.toks.lookup 16 == some (vec [0x40000000, 0]) && b.toks.lookup 20 == some (vec [0, 0])) = true := by decide +kernel
/-- `tfl` with the nearest filter takes the texel that holds the coordinate: floor(0.75 * 2) = 1, and -0.25 repeats to texel 1 (R266). -/
theorem test_tfl : after (.tfl ⟨0, 16, 20, 2⟩ 1) (texState 0x0C (.tfl ⟨0, 16, 20, 2⟩ 1) (vec [0x3E800000, 0xBE800000]) (vec [0, 0]))
    (fun b => b.toks.lookup 16 == some (vec [0x3F800000, 0x40000000])) = true := by decide +kernel
/-- An invalid descriptor is a fault of element 0 of the block (R264). -/
theorem test_tex_invalid : after (.tld ⟨0, 16, 20, 2⟩ 0) (texState 0x7F (.tld ⟨0, 16, 20, 2⟩ 0) (vec [1, 5]) (vec [0, 0]))
    (fun b => b.faults.map (fun f => (f.code, f.elem, f.va.toNat)) == [(11, 0, own)]) = true := by decide +kernel
/-- A constant ASTC block gives its colour, an HDR one the error colour (R261); an ETC2 block of zeros gives its first modifier, 2. -/
theorem test_texel : (List.range 4).map (compressedTexel 0x30 4 4 false (leBytes 16 0x4444333322221111FFFFFFFFFFFFFDFC) 0) = [0x1111, 0x2222, 0x3333, 0x4444] ∧
    (List.range 4).map (compressedTexel 0x30 4 4 false (leBytes 16 0x4444333322221111FFFFFFFFFFFFFFFC) 0) = [65535, 0, 65535, 65535] ∧
    (List.range 3).map (compressedTexel 0x20 4 4 false (leBytes 8 0) 0) = [2, 2, 2] := by decide +kernel
/-- The premises of the texture statement: the descriptor reads, no store holds the reads back, the sampler is legal. -/
theorem witness_textures :
    let i := Instr.tfl ⟨0, 16, 20, 2⟩ 1
    let toks := [uni own, vec [0x3E800000, 0xBE800000], vec [0, 0]]
    let s := texState 0x0C i (vec [0x3E800000, 0xBE800000]) (vec [0, 0])
    i.wf = true ∧ s.heldBack 0 strB 0 = false ∧
    (match s.readTex 0 (one 2 2 i toks) 0 (BitVec.ofNat 64 own) with | (_, .ok tex) => samplerOk 0 0 tex | _ => false) = true := by decide +kernel
/-- A uniform read that fails. -/
theorem witness_texture_fault :
    (match (texState 0x7F (.tld ⟨0, 16, 20, 2⟩ 0) (uni 1) (uni 0)).readTex 0 (one 2 2 (.tld ⟨0, 16, 20, 2⟩ 0) [uni own, uni 1, uni 0]) 0
      (BitVec.ofNat 64 own) with | (_, .error f) => f.map (·.1) == [11] | _ => false) = true := by decide +kernel

/-- The bytes of 32-bit words. -/
def wordsBytes (l : List Nat) : List Byte := l.flatMap fun x => leBytes 4 x

/-- A ray along +z from z = 0, TMIN 0 and TMAX 100. -/
def rayAt (x y : Nat) : List Nat := [x, y, 0, 0, 0, 0x3F800000, 0, 0x42C80000]
/-- The record of the triangle (0,0,5), (1,0,5), (0,1,5). -/
def triRecord : List Byte := wordsBytes [0, 0, 0x40A00000, 0x3F800000, 0, 0x40A00000, 0, 0x3F800000, 0x40A00000, 7, 0, 0, 0, 0, 0, 0]

/-- The triangle test: t and b1 inside, at the far edge's midpoint, and a miss outside (R275, R276). -/
theorem test_triangle : triResult 0 1 (rayAt 0x3E800000 0x3E800000) triRecord = (0x40A00000, 0x3E800000) ∧
    triResult 0 1 (rayAt 0x3F000000 0x3F000000) triRecord = (0x40A00000, 0x3F000000) ∧
    (triResult 0 1 (rayAt 0x3F400000 0x3F400000) triRecord).1 = 0x7F800000 := by decide +kernel
/-- A box record whose children are all absent is missed (R274). -/
theorem test_box : (boxResult (rayAt 0 0) (wordsBytes ((List.replicate 24 0) ++ List.replicate 4 0x7FFFFFFF ++ [0, 0, 0, 0]))).1 = 0 := by decide +kernel

/-- A ray instruction on the record at the own local memory's start, the ray in v20 to v27. -/
def rayState (i : Instr) (bs : List Byte) : State :=
  let s := firingMem (one 2 1 i [uni own, vec [0]]) bs
  s.modHart 0 fun h => { h with v := ((List.range 8).zip (rayAt 0x3E800000 0x3E800000)).map fun p =>
    (regKey (20 + p.1) 0 0, BitVec.ofNat 64 p.2) }
/-- `rtri` reads the ray from v20 to v27 and the record, and gives both results (R271, R272). -/
theorem test_rtri : after (.rtri ⟨0, 16, 20, 4⟩) (rayState (.rtri ⟨0, 16, 20, 4⟩) triRecord)
    (fun b => b.toks.lookup 16 == some (vec [0x40A00000]) && b.toks.lookup 20 == some (vec [0x3E800000])) = true := by decide +kernel
/-- `rbox` on a record without children (R274). -/
theorem test_rbox : after (.rbox ⟨0, 16, 20, 0⟩)
    (rayState (.rbox ⟨0, 16, 20, 0⟩) (wordsBytes ((List.replicate 24 0) ++ List.replicate 4 0x7FFFFFFF ++ [0, 0, 0, 0])))
    (fun b => b.toks.lookup 16 == some (vec [0]) && b.toks.lookup 20 == some (vec [0xFFFFFFFF])) = true := by decide +kernel
/-- The premises of the ray statement. -/
theorem witness_rays : (Instr.rtri ⟨0, 16, 20, 4⟩).wf = true ∧ own % 128 = 0 ∧
    ((List.range 8).all fun j => (rayState (.rtri ⟨0, 16, 20, 4⟩) triRecord).regSettled 0 0 (one 2 1 (.rtri ⟨0, 16, 20, 4⟩) [uni own, vec [0]]) (isVput (20 + j)) 0) = true := by decide +kernel

/-! ### Hart instructions -/

/-- What an instruction leaves of a machine whose hart 0 is as given. -/
def run (i : Instr) (h : Hart) (p : State → Bool) : Bool := good (exec i (on h)) p
/-- The same with bytes at the start of local memory. -/
def runAt (i : Instr) (h : Hart) (bs : List Byte) (p : State → Bool) : Bool :=
  good (exec i { on h with mem := memPut loc0 bs [] }) p
/-- A hart in M-mode with x registers as given. -/
def hm (x : Tab Word) : Hart := hartX .m x
/-- One in U-mode. -/
def hu (x : Tab Word) : Hart := hartX .u x
/-- One whose grant is recorded in `vcfg`. -/
def granted (x : Tab Word) : Hart := { hm x with csr := [(0x300, 0x0000000A00002000), (0x800, 0x10002)] }
/-- The trap that a machine-mode hart has taken: cause and value. -/
def trapped (c v : Nat) (t : State) : Bool :=
  (if t.me.priv == .s then (t.me.cs csrScause).toNat == c && (t.me.cs csrStval).toNat == v
    else (t.me.cs csrMcause).toNat == c && (t.me.cs csrMtval).toNat == v)
/-- The trap's cause, in S or M. -/
def causeOf (t : State) : Nat := if t.me.priv == .s then (t.me.cs csrScause).toNat else (t.me.cs csrMcause).toNat

/-- Without a grant `bx` traps; an unaligned block address is a block-issue fault (R106). -/
theorem test_bx_refused : run (.bx 5) (hm [(5, 0x1000)]) (trapped 2 0x0002900B) = true ∧
    run (.bx 5) (granted [(5, 0x1020)]) (trapped 25 0x1020) = true ∧
    run (.bloop 5 6) (granted [(5, 0x1020), (6, 1)]) (trapped 25 0x1020) = true := by decide +kernel
/-- The premises of both clauses of R106. -/
theorem witness_block_refused : lgOf (on (hm [(5, 0x1000)])) = 0 ∧ lgOf (on (granted [(5, 0x1020)])) ≠ 0 ∧
    ((on (granted [(5, 0x1020)])).x 5).toNat % 64 ≠ 0 ∧ (on (hm [])).me.trapsToS 25 = false ∧
    ({ (on { hu [] with csr := [(0x300, 0), (0x302, 0x2000000)] }) with cur := 0 }).me.trapsToS 25 = true := by decide +kernel
/-- `bx` and `bloop` put an entry into the queue and go on; a count of 0 issues nothing (R104, R107, R108). -/
theorem test_bx_bloop : run (.bx 5) (granted [(5, 0x1000)]) (fun t => t.me.pc.toNat == 4 && t.me.biq.map (fun b => (b.va.toNat, b.isLoop)) == [(0x1000, false)]) = true ∧
    run (.bloop 5 6) (granted [(5, 0x1000), (6, 70)]) (fun t => t.me.biq.map (fun b => (b.n, b.isLoop, b.base)) == [(70, true, 0)]) = true ∧
    run (.bloop 5 6) (granted [(5, 0x1000)]) (fun t => t.me.biq == [] && t.me.pc.toNat == 4) = true := by decide +kernel
/-- A full queue holds `bx` (R103); `bwait` waits for the queue (R109). -/
theorem test_block_waits : run (.bx 5) { granted [(5, 0x1000)] with biq := List.replicate 16 Biq.new } (fun t => t.me.wait == some .blocks && t.me.pc.toNat == 0) = true ∧
    run .bwait { hm [] with biq := [Biq.new] } (fun t => t.me.wait == some .blocks) = true ∧
    run .bwait (hm []) (fun t => t.me.wait == none && t.me.pc.toNat == 4) = true := by decide +kernel
/-- The block at the head with a fault held. -/
def heldHart : Hart := { hm [] with held := true, parked := true, biq :=
  [{ Biq.new with held := true, fired := [3], faults := [{ code := 1, va := 0x40, elem := 0, lsid := 0, id := 3, lg := 0, acc := 1 }] }] }
/-- `bretry` lets the held block run again; `bkill` discards the queue; both are illegal in U-mode (R110, R111). -/
theorem test_bretry_bkill : run .bretry heldHart (fun t => !t.me.held && !t.me.parked && t.me.biq.map (fun b => (b.held, b.fired)) == [(false, [])]) = true ∧
    run .bkill heldHart (fun t => !t.me.held && t.me.biq == [] && t.me.pc.toNat == 4) = true ∧
    run .bretry (hu []) (trapped 2 0x0600100B) = true ∧ run .bkill (hu []) (trapped 2 0x0800100B) = true := by decide +kernel
/-- A held fault, and a block whose atomic group has fired. -/
theorem witness_held : (on heldHart).me.heldFault.isSome = true ∧ (on heldHart).me.priv ≠ .u ∧
    run .bkill { hm [] with biq := [{ Biq.new with atom := true }] } (fun t => t.me.wait == some .blocks) = true := by decide +kernel

/-- The 64-bit word at the start of local memory. -/
def word0 (n : Nat) : List Byte := leBytes 8 n
/-- The address of the word in x5. -/
def at5 (x : Tab Word) : Tab Word := x ++ [(5, BitVec.ofNat 64 own)]
/-- `sigadd` and `sigor` return the old value and update the word (R21). -/
theorem test_signal_updates : runAt (.sigadd 3 5 6) (hm (at5 [(6, 3)] |>.reverse)) (word0 7)
      (fun t => (t.me.xr 3).toNat == 7 && memNat t.mem loc0 8 == 10) = true ∧
    runAt (.sigor 3 5 6) (hm [(5, BitVec.ofNat 64 own), (6, 8)]) (word0 7) (fun t => (t.me.xr 3).toNat == 7 && memNat t.mem loc0 8 == 15) = true := by decide +kernel
/-- `sigwait` compares unsigned, `sigwaitm` needs every bit of the mask; otherwise the hart waits at the word (R112). -/
theorem test_signal_waits : runAt (.sigwait 3 5 6) (hm [(5, BitVec.ofNat 64 own), (6, 7)]) (word0 7) (fun t => (t.me.xr 3).toNat == 7) = true ∧
    runAt (.sigwait 3 5 6) (hm [(5, BitVec.ofNat 64 own), (6, 8)]) (word0 7) (fun t => t.me.wait == some (.signal loc0)) = true ∧
    runAt (.sigwaitm 3 5 6) (hm [(5, BitVec.ofNat 64 own), (6, 5)]) (word0 7) (fun t => (t.me.xr 3).toNat == 7) = true ∧
    runAt (.sigwaitm 3 5 6) (hm [(5, BitVec.ofNat 64 own), (6, 8)]) (word0 7) (fun t => t.me.wait == some (.signal loc0)) = true := by decide +kernel
/-- A signal word is 32-byte aligned (R20). -/
theorem test_signal_misaligned : run (.sigadd 3 5 6) (hm [(5, BitVec.ofNat 64 (own + 8))]) (trapped 25 (own + 8)) = true := by decide +kernel
/-- The premises of the signal clauses. -/
theorem witness_signals : ((on (hm [(5, BitVec.ofNat 64 own)])).x 5).toNat % 32 = 0 ∧
    (on (hm [])).xlateRange ((on (hm [])).dataCx 0) .store (BitVec.ofNat 64 own) 8 = (on (hm []), .ok loc0) ∧
    (on (hm [])).signalPlace loc0 = true ∧ (on (hm [])).released = true ∧ isLocal loc0 = true ∧
    ((on (hm [])).loadLines noNode loc0 8).poisoned loc0 8 = false := by
  refine ⟨by decide +kernel, rfl, by decide +kernel, by decide +kernel, by decide +kernel, by decide +kernel⟩
/-- `fence.s` records what it holds back; an empty set holds nothing (R70). -/
theorem test_fence_s : run (.fenceS 2 1 0) (hm []) (fun t => t.me.holds.map (fun o => (o.pred, o.succ)) == [(1, 2)] && t.me.pc.toNat == 4) = true ∧
    run (.fenceS 0 1 0) (hm []) (fun t => t.me.holds == []) = true := by decide +kernel
/-- `fence` retires, `fence.i` empties the instruction cache (R63, R376), `wfi` is illegal in U-mode (R82). -/
theorem test_fences : run (.fence 0 15 15 0 0) (hm []) (fun t => t.me.pc.toNat == 4) = true ∧
    good (exec (.fenceI 0 0 0) { on (hm []) with cores := [(0, { (default : Core) with icache := [(0, [])] })] }) (fun t => (t.core 0).icache == []) = true ∧
    run .wfi (hu []) (trapped 2 0x10500073) = true ∧ run .wfi (hm []) (fun t => t.me.pc.toNat == 4) = true := by decide +kernel
/-- `lgset` changes another hart's request and returns the old one (R131). -/
theorem test_lgset : run (.lgset 3 5 6) (hm [(5, 2), (6, 0x7A)]) (fun t => (t.me.xr 3).toNat == 0xF1 &&
    ((t.hart 2).lgreq, (t.hart 2).excl, (t.hart 2).allow) == (2, true, 7)) = true := by decide +kernel
/-- The bounds of `lgset`'s operands, lowest and highest. -/
theorem witness_lgset : let s := on (hm [(5, 7), (6, 0xFC), (7, 0x11)])
    s.me.priv ≠ .u ∧ (s.x 5).toNat < 8 ∧ (s.x 6).toNat < 256 ∧ 1 ≤ (s.x 6).toNat % 8 ∧ (s.x 6).toNat % 8 ≤ 4 ∧ 16 ≤ (s.x 6).toNat ∧
    1 ≤ (s.x 7).toNat % 8 ∧ 16 ≤ (s.x 7).toNat := by decide +kernel
/-- `vsetl` with SEW 32 on one lane group: 32 lanes of 1024 bits give VLMAX 32; the request of 40 is cut to it, 5 is given (R99, R102). -/
theorem test_vsetl : run (.vsetl 3 5 2) (hm [(5, 5)]) (fun t => (t.me.xr 3).toNat == 5 && (t.me.cs csrVl).toNat == 5 && t.me.grant == [0] && lgOf t == 1) = true ∧
    run (.vsetl 3 5 2) (hm [(5, 100000)]) (fun t => t.me.xr 3 == t.me.cs csrVlmax && t.me.xr 3 != 0) = true ∧
    run (.vsetl 3 5 0x800) (hm [(5, 5)]) (fun t => causeOf t == 2) = true := by decide +kernel
/-- The premises of the clauses about `vsetl`: a grant can be formed; none can when another hart holds every allowed group. -/
theorem witness_vsetl : (on (hm [])).newGrant 0 = [0] ∧ (on (hm [])).me.preempt = none ∧
    (({ on { hm [] with grant := [], allow := 1 } with harts := [(0, { hm [] with grant := [], allow := 1 }), (1, { hm [] with grant := [0], excl := true, gexcl := true })] } : State).newGrant 0) = [] := by decide +kernel

/-! ### Control registers and scalar accesses -/

/-- A write to `vcfg` takes RM and FZ and leaves LG; another SEW traps (R88). -/
theorem test_vcfg : run (.vcfgWrite 1 3 5) (granted [(5, 0x70082)]) (fun t => (t.me.cs csrVcfg).toNat == 0x10082 && (t.me.xr 3).toNat == 0x10002) = true ∧
    run (.vcfgWrite 1 3 5) (granted [(5, 0x10001)]) (fun t => causeOf t == 2 && (t.me.cs csrVcfg).toNat == 0x10002) = true := by decide +kernel
/-- A legal and an illegal value for `vcfg`. -/
theorem witness_vcfg : let s := on (granted [(5, 0x70082), (6, 0x80002)])
    fieldOf (csrValue s 1 5 0x10002) 0 2 = fieldOf 0x10002 0 2 ∧ (csrValue s 1 5 0x10002).toNat < 2 ^ 19 ∧
    ¬(csrValue s 1 6 0x10002).toNat < 2 ^ 19 ∧ (Instr.vcfgWrite 1 3 5).wf = true := by decide +kernel
/-- `sigto` keeps 32 bits; `vpcap` reads and refuses a write; a machine CSR traps in U-mode (R5, R91). -/
theorem test_csrs : run (.csrWrite 0x803 1 3 5) (hu [(5, 0x1FFFFFFFF)]) (fun t => (t.me.cs 0x803).toNat == 0xFFFFFFFF) = true ∧
    run (.csrRead 0xCC3 2 3) (hu []) (fun t => (t.me.xr 3).toNat == 0x00000001FFFF047F) = true ∧
    run (.csrWrite 0xCC3 1 3 5) (hu []) (fun t => causeOf t == 2) = true ∧
    run (.csrRead 0x342 2 3) (hu []) (fun t => causeOf t == 2) = true := by decide +kernel
/-- The premises about CSRs: one that reads, one below whose level the hart stands, a read-only number. -/
theorem witness_csrs : ((on (hm [])).csrGet 0x342).2 = some 0 ∧ privRank (on (hu [])).me.priv < 3 ∧ (0xCC3 : Nat) / 1024 = 3 ∧
    ((on (hm [])).csrGet 0xCC3).2.isSome = true := by decide +kernel
/-- `lanemap` takes the request and keeps the grant (R93); `mcfg` takes the masks (R302); `satp` takes Sv57 and ignores other modes (R436). -/
theorem test_special_csr_writes : run (.lanemapWrite 1 3 5) (hm [(5, 0x3A)]) (fun t => (t.me.lgreq, t.me.excl, t.me.allow) == (2, true, 3) && t.me.grant == [0]) = true ∧
    run (.mcfgWrite 1 3 5) (hm [(5, 0x3FFFFFFFFFF)]) (fun t => (t.mcfg 0).toNat == 0xFFFFFFFFFF) = true ∧
    run (.satpWrite 1 3 5) (hm [(5, 0xA000000000000123)]) (fun t => (t.me.cs csrSatp).toNat == 0xA000000000000123) = true ∧
    run (.satpWrite 1 3 5) (hm [(5, 0x8000000000000123)]) (fun t => t.me.cs csrSatp == 0) = true ∧
    run (.satpWrite 1 3 5) { hm [(5, 0)] with biq := [Biq.new] } (fun t => t.me.wait == some .blocks) = true := by decide +kernel
/-- Legal and illegal values for `lanemap` and `mcfg`. -/
theorem witness_special_csrs : let s := on (hm [(5, 0x3A), (6, 0x35), (7, 0x3FFFFFFFFFF), (8, 0x40000000000)])
    fieldOf (s.x 5) 0 3 = 2 ∧ fieldOf (s.x 5) 4 4 ≠ 0 ∧ ¬ fieldOf (s.x 6) 0 3 ≤ 4 ∧ (s.x 7).toNat < 2 ^ 42 ∧ 2 ^ 42 ≤ (s.x 8).toNat := by decide +kernel

/-- Loads extend by sign or with zeros; a float word is boxed (R81). -/
theorem test_scalar_loads : runAt (.scalarLoad false 0 3 5 1) (hm [(5, BitVec.ofNat 64 own)]) (word0 0x8090) (fun t => (t.me.xr 3).toNat == 0xFFFFFFFFFFFFFF80) = true ∧
    runAt (.scalarLoad false 5 3 5 0) (hm [(5, BitVec.ofNat 64 own)]) (word0 0x8090) (fun t => (t.me.xr 3).toNat == 0x8090) = true ∧
    runAt (.scalarLoad true 2 3 5 0) (hm [(5, BitVec.ofNat 64 own)]) (word0 0x3F800000) (fun t => (t.me.fr 3).toNat == 0xFFFFFFFF3F800000) = true := by decide +kernel
/-- A store writes its low bytes, least significant first (R3). -/
theorem test_scalar_stores : runAt (.scalarStore false 1 5 6 2) (hm [(5, BitVec.ofNat 64 own), (6, 0xABCD)]) (word0 0) (fun t => memNat t.mem loc0 8 == 0xABCD0000) = true ∧
    runAt (.scalarStore true 3 5 6 0) { hm [(5, BitVec.ofNat 64 own)] with f := [(6, 0x12)] } [] (fun t => memNat t.mem loc0 8 == 0x12) = true := by decide +kernel
/-- A misaligned access inside a page is made, one across a page boundary traps (R81); FS off traps. -/
theorem test_scalar_alignment : runAt (.scalarLoad false 3 3 5 1) (hm [(5, BitVec.ofNat 64 own)]) (word0 0x100) (fun t => (t.me.xr 3).toNat == 1) = true ∧
    run (.scalarLoad false 3 3 5 0) (hm [(5, BitVec.ofNat 64 (own + 4092))]) (trapped 4 (own + 4092)) = true ∧
    run (.scalarStore false 3 5 6 0) (hm [(5, BitVec.ofNat 64 (own + 4092))]) (trapped 6 (own + 4092)) = true ∧
    run (.scalarLoad true 2 3 5 0) { hm [] with csr := [(0x300, 0)] } (fun t => causeOf t == 2) = true := by decide +kernel
/-- The premises of the scalar clauses: an access in reach, a boundary crossed. -/
theorem witness_scalar : (on (hm [])).xlateRange ((on (hm [])).dataCx 0) .load (BitVec.ofNat 64 own) 8 = (on (hm []), .ok loc0) ∧
    (own + 4092) % 8 ≠ 0 ∧ 4096 < (own + 4092) % 4096 + 8 ∧ fieldOf ((on (hm [])).me.cs csrMstatus) 13 2 ≠ 0 ∧
    (Instr.scalarLoad false 3 3 5 0).wf = true ∧ (Instr.scalarStore false 3 5 6 0).wf = true ∧ isLocal loc0 = true := by
  refine ⟨rfl, by decide +kernel, by decide +kernel, by decide +kernel, rfl, rfl, by decide +kernel⟩

/-- A machine whose hart 0 has stored x6 at x5, the turn leaving the store in its buffer. -/
def lazyStore : State :=
  match exec (.scalarStore false 3 5 6 0) { on (hm [(5, BitVec.ofNat 64 own), (6, 0x77)]) with lazy := true } with
  | .next t => t
  | _ => State.reset
/-- A buffered store leaves memory as it is, the hart's own load sees it, and it reaches memory when it leaves the buffer (R59, R62). -/
theorem test_store_buffer : memNat lazyStore.mem loc0 8 = 0 ∧ lazyStore.me.sbuf = [(loc0, leBytes 8 0x77)] ∧
    good (exec (.scalarLoad false 3 3 5 0) lazyStore) (fun t => (t.me.xr 3).toNat == 0x77) = true ∧
    good (step { lazyStore with turns := [.drain 0] }) (fun t => memNat t.mem loc0 8 == 0x77 && t.me.sbuf.isEmpty) = true := by decide +kernel
/-- Firmware's load and store reach the MMIO range, its atomic does not (R20, R524). -/
theorem test_mmio : run (.scalarStore false 3 5 6 0) (hm [(5, 0x000FFFFF00000000)]) (fun t => t.me.pc.toNat == 4 && t.mem.isEmpty) = true ∧
    run (.scalarLoad false 3 3 5 0) (hm [(5, 0x000FFFFF00000000)]) (fun t => t.me.pc.toNat == 4) = true ∧
    run (.scalarAmo 0 false false 3 3 5 6) (hm [(5, 0x000FFFFF00000000)]) (trapped 7 0x000FFFFF00000000) = true := by decide +kernel
/-- Accesses are in reach: no link retrains; a store to the MMIO range is. -/
theorem witness_reach : (on (hm [])).stuck 0 loc0 8 = false ∧ lazyStore.lazy = true ∧ (on (hm [])).me.sbuf = [] ∧
    (match (on (hm [])).xlateRange ((on (hm [])).dataCx 0) .store 0x000FFFFF00000000 8 with
      | (_, .mmio l) => l == 0x000FFFFF00000000 | _ => false) = true := by decide +kernel
/-- A system fence waits for posted writes (R75). -/
theorem test_posted : good (exec (.fenceS 2 2 4) { on (hm []) with host := { State.reset.host with posted := [(0, 0x200000000000, [7])] } })
    (fun t => t.host.posted.isEmpty && memNat t.mem 0x200000000000 1 == 7) = true := by decide +kernel

/-- A GDDR7 location of die 0. -/
def gddrAt : Word := 0x10000
/-- LR reserves the line; SC stores and gives 0, or gives 1 without a reservation (R379). -/
theorem test_lr_sc : (match exec (.lr false false 3 3 5) (on (hm [(5, gddrAt), (6, 9)])) with
      | .next t => (t.me.resv.isSome && good (exec (.sc false false 3 4 5 6) t) fun u => (u.me.xr 4).toNat == 0 && memNat u.mem 0x10000 8 == 9 && u.me.resv == none)
      | _ => false) = true ∧
    run (.sc false false 3 4 5 6) (hm [(5, gddrAt), (6, 9)]) (fun u => (u.me.xr 4).toNat == 1 && u.mem == []) = true := by decide +kernel
/-- Local memory has no reservations (R379); a misaligned reservation traps. -/
theorem test_lr_refused : run (.lr false false 3 3 5) (hm [(5, BitVec.ofNat 64 own)]) (trapped 5 own) = true ∧
    run (.sc false false 3 3 5 6) (hm [(5, BitVec.ofNat 64 own)]) (trapped 7 own) = true ∧
    run (.lr false false 3 3 5) (hm [(5, 0x10004)]) (trapped 4 0x10004) = true := by decide +kernel
/-- The operations of scalar AMOs on local memory: addition wraps, minimum is signed or not, the result is sign-extended. -/
theorem test_amos : runAt (.scalarAmo 0 false false 2 3 5 6) (hm [(5, BitVec.ofNat 64 own), (6, 1)]) (word0 0xFFFFFFFF)
      (fun t => (t.me.xr 3).toNat == 2 ^ 64 - 1 && memNat t.mem loc0 8 == 0) = true ∧
    runAt (.scalarAmo 0x10 false false 2 3 5 6) (hm [(5, BitVec.ofNat 64 own), (6, 1)]) (word0 0xFFFFFFFF) (fun t => memNat t.mem loc0 4 == 0xFFFFFFFF) = true ∧
    runAt (.scalarAmo 0x18 false false 2 3 5 6) (hm [(5, BitVec.ofNat 64 own), (6, 1)]) (word0 0xFFFFFFFF) (fun t => memNat t.mem loc0 4 == 1) = true := by decide +kernel
/-- The premises of the reservation and AMO clauses. -/
theorem witness_reservations : (on (hm [])).xlateRange ((on (hm [])).dataCx 0) .load 0x10000 8 = (on (hm []), .ok 0x10000) ∧
    (on (hm [])).cached 0x10000 = true ∧ (on (hm [])).cached loc0 = false ∧ nodeOf (on (hm [])).myCore < 512 ∧
    (Instr.scalarAmo 0 false false 3 3 5 6).wf = true ∧ (on (hm [])).poisoned loc0 8 = false := by
  refine ⟨rfl, by decide +kernel, by decide +kernel, by decide +kernel, rfl, by decide +kernel⟩
/-- A translation of core 0 for a PASID and one for an ASID. -/
def twoTlb : List Tlb := [⟨0, .pasid 3, 0x1000, 12, 0x8000, true, true, false, true, false, true, [], []⟩, ⟨0, .asid 3, 0x2000, 12, 0x9000, true, true, false, true, false, true, [], []⟩]
/-- `sfence.vma` drops what its operands name: all, or one PASID (R434); in U-mode it is illegal. -/
theorem test_sfence : good (exec (.sfenceVma 0 0) { on (hm []) with xlat := { State.reset.xlat with tlb := twoTlb } }) (fun t => t.xlat.tlb == []) = true ∧
    good (exec (.sfenceVma 0 6) { on (hm [(6, 0x100003)]) with xlat := { State.reset.xlat with tlb := twoTlb } }) (fun t => t.xlat.tlb.map (·.tag) == [.asid 3]) = true ∧
    run (.sfenceVma 0 0) (hu []) (fun t => causeOf t == 2) = true := by decide +kernel
/-- No atomic group is in flight. -/
theorem witness_sfence : (on (hm [])).atomInFlight 0 = false := by decide +kernel

/-! ### Traps (R80, R85, R117) -/

/-- A delegated trap goes to S-mode: pc, cause, value and status are saved; `sret` restores them. -/
theorem test_trap_delegated :
    let h := { hu [] with pc := 0x100, csr := [(0x105, 0x8000), (0x300, 0x2), (0x302, 4)] }
    run (.illegalInstruction 0xFFFFFFFB) h (fun t => t.me.priv == .s && t.me.pc.toNat == 0x8000 && (t.me.cs csrSepc).toNat == 0x100 &&
      (t.me.cs csrScause).toNat == 2 && (t.me.cs csrStval).toNat == 0xFFFFFFFB && (t.me.cs csrMstatus).toNat == 0x20 &&
      (match baseStep 0x10200073 t with | some u => u.me.priv == .u && u.me.pc.toNat == 0x100 && (u.me.cs csrMstatus).toNat == 0x22 | none => false)) = true := by decide +kernel
/-- Otherwise it goes to M-mode; `mret` restores. -/
theorem test_trap_machine :
    let h := { hu [] with pc := 0x100, csr := [(0x300, 0x8), (0x305, 0x9000)] }
    run (.illegalInstruction 0xFFFFFFFB) h (fun t => t.me.priv == .m && t.me.pc.toNat == 0x9000 && (t.me.cs csrMepc).toNat == 0x100 &&
      (t.me.cs csrMstatus).toNat == 0x80 &&
      (match baseStep 0x30200073 t with | some u => u.me.priv == .u && u.me.pc.toNat == 0x100 && (u.me.cs csrMstatus).toNat == 0x88 | none => false)) = true := by decide +kernel
/-- An interrupt becomes pending (R117). -/
theorem test_interrupt : good (exec .interrupt { on (hm []) with ev := .interrupt 0 3 }) (fun t => (t.me.cs csrMip).toNat == 8) = true := by decide +kernel
/-- The premises of the trap clauses: a hart below M, one that may execute `sret` and `mret`. -/
theorem witness_traps : (on (hu [])).me.priv ≠ .m ∧ (on { hm [] with priv := .s }).me.priv = .s ∧
    ((on { hm [] with priv := .s }).me.cs csrMstatus).toNat.testBit 22 = false ∧ (on (hm [])).me.priv = .m := by decide +kernel

/-! ### Matrix, copies, rounds, network -/

/-- A machine whose hart 0 owns its core's engine; `en` says whether the state is live. -/
def matOn (h : Hart) (en : Bool) : State :=
  { on h with cores := [(0, { (default : Core) with mat := { (default : Matrix) with owner := some 0, en := en } })] }

/-- `mzero` queues its command; without ownership or live state it traps with the code of R305. -/
theorem test_mzero : good (exec (.mzero 3) (matOn (hm []) true)) (fun t => (t.mat 0).queue == [(0, 0, .zero 3)] && t.me.pc.toNat == 4) = true ∧
    good (exec (.mzero 3) (on (hm []))) (trapped 30 1) = true ∧ good (exec (.mzero 3) (matOn (hm []) false)) (trapped 30 2) = true := by decide +kernel
/-- The command empties its tile and no other (R312). -/
theorem test_mzero_runs : let m : Matrix := { (default : Matrix) with cells := [(0, 7), (2048, 9)] }
    (m.run (.zero 0)).cell 0 0 0 = 0 ∧ (m.run (.zero 0)).cell 1 0 0 = 9 := by decide +kernel
/-- MATRIX_CMD_RETIRE runs the oldest command (R306). -/
theorem test_matrix_retire : good (exec .matrixCmdRetire (let s := matOn (hm []) true
      { s.modMat 0 fun m => { m with cells := [(0, 7)], queue := [(0, 0, .zero 0), (0, 1, .edge 1 2 3)] } with ev := .matrixCmdRetire 0 }))
    (fun t => (t.mat 0).cells == [] && (t.mat 0).queue == [(0, 1, .edge 1 2 3)]) = true := by decide +kernel
/-- The premises of the matrix clauses: live, queue free or full, no ordering in the way. -/
theorem witness_matrix : ((matOn (hm []) true).mat 0).owner = some (matOn (hm []) true).cur ∧ ((matOn (hm []) true).mat 0).en = true ∧
    ((matOn (hm []) true).mat 0).queue.length < 16 ∧ (matOn (hm []) true).heldBack 0 strM 0 = false ∧ (matOn (hm []) true).matPending 0 = 0 ∧
    (matOn (hm []) true).slotCopies 0 = false ∧ (on (hm [])).slotsBusy 0 = false ∧ ((on (hm [])).mat 0).resv = none ∧ (on (hm [])).matWaiters 0 = [] ∧
    ((matOn (hm []) true).mat 0).reads (.zero 3) = false ∧ ((matOn (hm []) true).mat 0).reads (.op 7 true 0 0) = true ∧
    good (exec (.mzero 3) ((matOn (hm []) true).modMat 0 fun m => { m with queue := List.replicate 16 (0, 0, .zero 0) })) (fun t => t.me.wait == some .commands) = true := by decide +kernel
/-- `mclaim` takes a free engine, returns 1 to its owner, and waits behind another (R307); `mrel` refuses while live and gives it back (R310). -/
theorem test_mclaim_mrel : run (.mclaim 3) (hm []) (fun t => (t.mat 0).owner == some 0 && (t.me.xr 3).toNat == 1) = true ∧
    good (exec (.mclaim 3) ((matOn (hm []) false).modMat 0 fun m => { m with owner := some 1 })) (fun t => t.me.wait == some .matrix && (t.mat 0).waiters == [0]) = true ∧
    good (exec .mrel (matOn (hm []) true)) (trapped 30 3) = true ∧
    good (exec .mrel (matOn (hm []) false)) (fun t => (t.mat 0).owner == none) = true := by decide +kernel
/-- `menable` makes the state live with full edges, `mdisable` ends it, `mstat` reports both bits (R308, R309, R319). -/
theorem test_menable_mdisable_mstat : good (exec .menable (matOn (hm []) false)) (fun t => (t.mat 0).en && (t.mat 0).rows 7 == 64 && (t.mat 0).cols 7 == 32 &&
      (t.mcfg 0).toNat == 0x3FFFFFFFFFF) = true ∧
    good (exec .mdisable (matOn (hm []) true)) (fun t => !(t.mat 0).en && (t.mat 0).owner == some 0) = true ∧
    good (exec (.mstatStatus 3 0) (matOn (hm []) true)) (fun t => (t.me.xr 3).toNat == 3) = true ∧
    good (exec (.mstatDrain 3 5) (matOn (hm [(5, 1)]) true)) (fun t => (t.me.xr 3).toNat == 3) = true ∧
    good (exec (.mstatEdge 3 5) (matOn (hm [(5, 2)]) true)) (fun t => (t.me.xr 3).toNat == 64 + 256 * 32) = true := by decide +kernel
/-- `medge` keeps the edge for `mstat` and refuses 0 or more than the tile has (R313). -/
theorem test_medge : good (exec (.medge 2 5 6) (matOn (hm [(5, 64), (6, 32)]) true)) (fun t => (t.mat 0).queue == [(0, 0, .edge 2 64 32)] &&
      tget (64, 32) (t.mat 0).issuedEdge 2 == (64, 32)) = true ∧
    good (exec (.medge 2 5 6) (matOn (hm [(5, 65), (6, 32)]) true)) (trapped 30 4) = true ∧
    good (exec (.medge 2 5 6) (matOn (hm [(5, 1), (6, 0)]) true)) (trapped 30 4) = true := by decide +kernel
/-- The operand word AS 0, BS 1, K 2 (R314). -/
def opWord01 : Nat := 2 ^ 5 + 2 * 2 ^ 16
/-- `mop` queues; K = 0 is refused, and K odd for INT8, and I32 with another format (R317). -/
theorem test_mop : good (exec (.mop 7 1 0 5) (matOn (hm [(5, BitVec.ofNat 64 opWord01)]) true)) (fun t => (t.mat 0).queue.length == 1) = true ∧
    good (exec (.mop 7 1 0 5) (matOn (hm [(5, 32)]) true)) (trapped 30 4) = true ∧
    good (exec (.mop 7 1 0 5) (matOn (hm [(5, BitVec.ofNat 64 (opWord01 + 65536))]) true)) (trapped 30 4) = true ∧
    good (exec (.mop 2 1 0 5) (matOn (hm [(5, BitVec.ofNat 64 opWord01)]) true)) (trapped 30 4) = true := by decide +kernel
/-- A panel of A with 2 and 3 in rows 0 and 1, one of B with 5 and -1: the cell 7 becomes 7 + 10 - 3 (R315, R318). -/
theorem test_mop_runs : let m : Matrix := { (default : Matrix) with cells := [(0, 7)], slots := [(0, 2), (64, 3), (16384, 5), (16416, 0xFF)] }
    (m.mopCell 7 true 0 (BitVec.ofNat 64 opWord01) 0 0).toNat = 14 := by decide +kernel
/-- BF16, K = 1: 0 + 1.5 * 2 = 3 (R318, R55). -/
theorem test_mop_bf16 : let m : Matrix := { (default : Matrix) with slots := [(0, 0xC0), (1, 0x3F), (16384, 0), (16385, 0x40)] }
    (m.mopCell 0 false 0 (BitVec.ofNat 64 (2 ^ 5 + 2 ^ 16)) 0 0).toNat = 0x40400000 := by decide +kernel
/-- The limits of a `mop` word: met, and broken by K. -/
theorem witness_mop : ¬MopRefused 7 true opWord01 ∧ MopRefused 7 true 32 := by
  constructor
  · simp [MopRefused, opWord01]
  · simp [MopRefused]
/-- The premises of the clauses about what a `mop` writes. -/
theorem witness_mop_tile : (default : Matrix).rows 0 ≤ 64 ∧ (default : Matrix).cols 0 ≤ 32 ∧ opWord01 / 2 ^ 16 % 1024 = 2 := by decide +kernel

/-- A copy of 16 bytes inside the own local memory. -/
def cpyHart : Hart := hm [(5, BitVec.ofNat 64 (own + 512)), (6, BitVec.ofNat 64 own), (7, 16)]
/-- A machine after `cpy`, and after its chunk. -/
def copied : State := match exec (.cpy 3 5 6 7) { on cpyHart with mem := memPut loc0 (leBytes 8 0x1122) [] } with | .next t => t | _ => State.reset
/-- The chunk is due; it moves the bytes; its landing completes the copy (R286, R288). -/
theorem test_copy : copied.agenda = [.copyChunkExecute 0 0] ∧ copied.openCopies 0 = 1 ∧
    (match exec .copyChunkExecute { copied with ev := .copyChunkExecute 0 0 } with
     | .next t => memNat t.mem (loc0 + 512) 8 == 0x1122 && good (exec .chunkLand { t with ev := .chunkLand 0 0 }) fun u => u.copies.isEmpty
     | _ => false) = true := by decide +kernel
/-- `cpy2` takes rows and pitches from `cpyshape`; a length of 0 and an overlap are refused (R284, R285). -/
theorem test_cpy2 : run (.cpy2 3 5 6 7) { cpyHart with csr := [(0x802, BitVec.ofNat 64 (2 + 64 * 2 ^ 20 + 64 * 2 ^ 42))] }
      (fun t => (t.copies.lookup 0).any fun c => c.rows == 2 && c.spitch == 64 && c.total == 32) = true ∧
    run (.cpy 3 5 6 8) cpyHart (trapped 25 0) = true ∧ run (.cpy 3 6 6 7) cpyHart (trapped 25 0) = true := by decide +kernel
/-- The premises about copies: one that issues, one that is refused, a full set, a chunk that runs and lands. -/
theorem witness_copies : let s := on cpyHart
    s.copyBad false (s.x 7) (s.newCopy false (s.x 5) (s.x 6) (s.x 7)) = false ∧ s.openCopies 0 < 16 ∧
    s.copyBad false (s.x 8) (s.newCopy false (s.x 5) (s.x 6) (s.x 8)) = true ∧ copied.chunkReady 0 0 = true ∧
    ((copied.copies.lookup 0).any fun c => c.state == .running && c.code == 0 && c.slot.isNone && cspecKind c.cspec.toNat == 0 && c.chunks == 1) = true := by decide +kernel
/-- A copy that has to wait, and one with a SET signal to fire. -/
theorem witness_copy_waits :
    ({ copied with copies := copied.copies.map fun c => (c.1, { c.2 with state := .parked }) } : State).chunkReady 0 0 = false ∧
    cspecKind (3 * 2 ^ 60) ≠ 0 ∨ cspecKind 1 ≠ 0 := by decide +kernel
/-- A suspended copy with tag 0. -/
def stoppedCopy (x : Nat) : State :=
  { copied.modMe fun h => { h with x := [(6, BitVec.ofNat 64 x)] } with
    copies := copied.copies.map fun c => (c.1, { c.2 with state := .suspended, code := 4, faddr := 0x1234 }), agenda := [] }
/-- `cpyq` reports, retries, abandons, lists and locates (R295 to R297). -/
theorem test_cpyq : good (exec (.cpyqState 3 0 6) (stoppedCopy 0)) (fun t => (t.me.xr 3).toNat == 3) = true ∧
    good (exec (.cpyqRetry 3 0 6) (stoppedCopy 1)) (fun t => (t.me.xr 3).toNat == 1 && t.agenda == [.copyChunkExecute 0 0]) = true ∧
    good (exec (.cpyqAbandon 3 0 6) (stoppedCopy 2)) (fun t => (t.me.xr 3).toNat == 1 && t.copies.isEmpty) = true ∧
    good (exec (.cpyqNext 3 0 6) (stoppedCopy 3)) (fun t => (t.me.xr 3).toNat == 2 ^ 63 + 2 ^ 24 + 4 * 2 ^ 16) = true ∧
    good (exec (.cpyqFaddr 3 0 6) (stoppedCopy 4)) (fun t => (t.me.xr 3).toNat == 0x1234) = true ∧
    good (exec ((stoppedCopy 5).selectRow (.cpyqState 3 0 6)) (stoppedCopy 5)) (trapped 25 0) = true := by decide +kernel
/-- A copy by tag, suspended. -/
theorem witness_cpyq : ((stoppedCopy 1).suspendedOf 0).isSome = true ∧ ((stoppedCopy 1).x 6).toNat = 1 := by decide +kernel

/-- A region of one 64 KiB page in GDDR7 whose descriptor lies at 0x8000, at round 5, with hart 0's window 1 set on it. -/
def withRegion (h : Hart) : State :=
  let g : Region := { (default : Region) with pbase := 0x100000, size := 1, desc := 0x8000, round := 5, rs0 := 5, view0 := 5 }
  { on h with rounds := { State.reset.rounds with regions := [(7, g)] } }
/-- `racq` returns the round and sets the window; `rview` reads view, floor and words (R419, R421). -/
theorem test_racq_rview : good (exec (.racq 3 5 1) (withRegion (hm [(5, 0x8000)]))) (fun t => (t.me.xr 3).toNat == 5 &&
      (t.me.window 1).valid && (t.me.window 1).rid == 7 && (t.me.window 1).w1.toNat == 5 && (t.me.window 1).floor == 0) = true ∧
    good (exec (.rviewV 3 5 0) (withRegion (hm [(5, 7)]))) (fun t => (t.me.xr 3).toNat == 5) = true ∧
    good (exec (.rviewFloor 3 5 6) (withRegion { hm [(5, 1), (6, 1)] with win := [(1, ⟨0x900001007, 5⟩)] })) (fun t => (t.me.xr 3).toNat == 9) = true ∧
    good (exec (.rviewWord0 3 5 6) (withRegion { hm [(5, 1), (6, 2)] with win := [(1, ⟨0x900001007, 5⟩)] })) (fun t => (t.me.xr 3).toNat == 0x900001007) = true ∧
    good (exec (.rviewWord1 3 5 6) (withRegion { hm [(5, 1), (6, 3)] with win := [(1, ⟨0x900001007, 5⟩)] })) (fun t => (t.me.xr 3).toNat == 5) = true := by decide +kernel
/-- `rwin` sets an absolute floor or a lag, clears with x0, and refuses reserved bits (R420, R407). -/
theorem test_rwin : good (exec (.rwinAbs 3 5 6 1) (withRegion (hm [(5, 0xA00000007), (6, 4)]))) (fun t => (t.me.window 1).floor == 4) = true ∧
    good (exec (.rwinLag 3 5 6 1) (withRegion (hm [(5, 0xA00000007), (6, 4)]))) (fun t => (t.me.window 1).floor == 6) = true ∧
    good (exec (.rwinAbs 3 0 6 1) (withRegion { hm [] with win := [(1, ⟨0x900001007, 5⟩)] })) (fun t => !(t.me.window 1).valid && (t.me.xr 3).toNat == 0x900001007) = true ∧
    good (exec (.rwinAbs 3 5 6 1) (withRegion (hm [(5, 0x400)]))) (fun t => causeOf t == 2) = true := by decide +kernel
/-- `rpub` starts a publish and waits, and goes on waiting until the publish is through (R414, R418). -/
theorem test_rpub : good (exec (.rpub 3 5) (withRegion (hm [(5, 0x8000)]))) (fun t => t.me.wait == some (.publish 7 3) &&
      (t.region 7).any (fun g => g.round == 6 && g.busy)) = true ∧
    good (exec (.rpub 3 5) (withRegion { hm [(5, 0x8000)] with wait := some (.publish 7 3) })) (fun t => t.me.wait == some (.publish 7 3) && t.me.pc.toNat == 0) = true := by decide +kernel
/-- `ldbw` outside a region reads memory; misaligned it traps (R422). -/
theorem test_ldbw : runAt (.ldbw 3 5 1) (hm [(5, BitVec.ofNat 64 own)]) (word0 0x77) (fun t => (t.me.xr 3).toNat == 0x77) = true ∧
    run (.ldbw 3 5 1) (hm [(5, BitVec.ofNat 64 (own + 4))]) (trapped 4 (own + 4)) = true ∧
    good (exec (.ldbw 3 5 1) (withRegion { hm [(5, 0x100000)] with win := [(1, ⟨0x900001007, 5⟩)] })) (fun t => t.me.wait == some (.stall 0x2000)) = true := by decide +kernel
/-- The premises of the round clauses. -/
theorem witness_rounds : (withRegion (hm [(5, 0x8000)])).xlateRange ((withRegion (hm [(5, 0x8000)])).dataCx 0) .load 0x8000 1 =
      (withRegion (hm [(5, 0x8000)]), .ok 0x8000) ∧ ((withRegion (hm [])).regionDesc 0x8000 0).isSome = true ∧
    (withRegion (hm [])).readSensitive 0x100000 = false ∧ ((withRegion (hm [])).boundStalls 0 1 0x100000 []) = false ∧
    ((withRegion { hm [] with win := [(1, ⟨0x900001007, 5⟩)] }).boundStalls 0 1 0x100000 []) = true := by
  refine ⟨rfl, by decide +kernel, by decide +kernel, by decide +kernel, by decide +kernel⟩

/-- Network commands: the tag, the open command; a length of 0 is refused (R452). Without an endpoint the command fails with code 16. -/
theorem test_network_issue : run (.nsend 3 5 6) { hm [(6, 64)] with ntag := 9 } (fun t => (t.me.xr 3).toNat == 9 && t.net.fails.map (·.2) == [(9, 16)] && t.me.pc.toNat == 4) = true ∧
    run (.nwrite 3 5 6) (hm [(6, 64)]) (fun t => t.net.fails.length == 1) = true ∧ run (.nread 3 5 6) (hm [(6, 64)]) (fun t => t.net.fails.length == 1) = true ∧
    run (.nsend 3 5 6) (hm []) (trapped 25 0) = true := by decide +kernel
/-- A machine with one command of hart 0 in flight, tag 4, and a reported failure. -/
def withMsg (h : Hart) : State :=
  { on h with net := { State.reset.net with
      msgs := [(3, { (default : Msg) with hart := 0, tag := 4, lep := 2, state := 2 })], fails := [(2 ^ 64, 8, 19)]
      eps := [(2, { (default : Ep) with ctva := 0x5000 })], ptp := [(0, 77)] } }
/-- `nfence` waits for the open commands; `nstat` reads state, failures, count, congestion table and PTP offset (R454, R455). -/
theorem test_nfence_nstat : good (exec (.nfence 3 5) (withMsg (hm []))) (fun t => t.net.fences.map (·.on) == [[3]]) = true ∧
    good (exec (.nfence 3 5) (withMsg (hm [(5, 0x1001)]))) (fun t => t.net.fences.isEmpty && t.me.pc.toNat == 4) = true ∧
    good (exec (.nstatState 3 5 6) (withMsg (hm [(5, 4)]))) (fun t => (t.me.xr 3).toNat == 2) = true ∧
    good (exec (.nstatNext 3 5 6) (withMsg (hm [(6, 1)]))) (fun t => (t.me.xr 3).toNat == 2 ^ 63 + 19 * 65536 + 8 && t.net.fails.isEmpty) = true ∧
    good (exec (.nstatPending 3 5 6) (withMsg (hm [(6, 2)]))) (fun t => (t.me.xr 3).toNat == 1) = true ∧
    good (exec (.nstatCtva 3 5 6) (withMsg (hm [(5, 2), (6, 3)]))) (fun t => (t.me.xr 3).toNat == 0x5000) = true ∧
    good (exec (.nstatPtp 3 5 6) (withMsg (hm [(6, 4)]))) (fun t => (t.me.xr 3).toNat == 77) = true := by decide +kernel
/-- The premises of the network clauses. -/
theorem witness_network : let s := on (hm [(6, 64)])
    msgBad (s.x 6) (s.newMsg 0 (s.x 5) (s.x 6)) = false ∧ s.openMsgs.length < 64 ∧ msgBad (s.x 5) (s.newMsg 0 (s.x 5) (s.x 5)) = true := by decide +kernel

/-! ### Task queues -/

/-- A queue of PASID 0 on die 0, FIFO, that allows every lane group and core, with 64 storage slots at PA 0x20000. -/
def queue0 : Queue := { (default : Queue) with dies := 1, allow := 15, clust := 0xFFFF, caplog := 6, binw := 1, spa := 0x20000, prio := 3 }
/-- A packet of one slice. -/
def image0 : Image := { (default : Image) with slip := 1, lgreq := 1, entry := 0x4000, arg := 9 }
/-- A machine with queue 5 and the packet at the own local memory's start. -/
def withQueue (q : Queue) (h : Hart) : State :=
  { on h with mem := memPut loc0 image0.bytes [], tqe := { State.reset.tqe with queues := [(5, q)] } }
/-- A hart whose x5 is the packet, x6 the queue. -/
def putHart : Hart := hm [(5, BitVec.ofNat 64 own), (6, 5), (7, 1000)]

/-- `tqput` returns the put sequence times 4, 1 when the part is full, 2 when the queue takes no packets; no queue is a command fault (R367). -/
theorem test_tqput : good (exec (.tqput 3 5 6) (withQueue queue0 putHart)) (fun t => (t.me.xr 3).toNat == 0 && (t.qpart 5 0).seq == 1 &&
      (t.qpart 5 0).slots == [0] && (t.tqe.pkts.lookup 0).any fun p => p.img == image0) = true ∧
    good (exec (.tqput 3 5 6) (withQueue { queue0 with state := 1 } putHart)) (fun t => (t.me.xr 3).toNat == 2) = true ∧
    good (exec (.tqput 3 5 6) { withQueue queue0 putHart with tqe := { State.reset.tqe with queues := [(5, queue0)], parts := [(20, { (default : Part) with ovfl := [0x100] })] } })
      (fun t => (t.me.xr 3).toNat == 1) = true ∧
    run (.tqput 3 5 6) putHart (trapped 25 0) = true := by decide +kernel
/-- `tqat` puts the packet on the wheel; a time that has come is offered at once (R357, R368). -/
theorem test_tqat : good (exec (.tqat 3 5 6 7) (withQueue queue0 putHart)) (fun t => (t.me.xr 3).toNat == 0 && t.tqe.wheel.map (·.time) == [1000]) = true ∧
    good (exec (.tqat 3 5 6 0) (withQueue queue0 putHart)) (fun t => (t.me.xr 3).toNat == 0) = true := by decide +kernel
/-- The premises about puts: the queue is the hart's, the packet is read and accepted. -/
theorem witness_puts : OwnQueue (withQueue queue0 putHart) 5 queue0 ∧ (withQueue queue0 putHart).released = true ∧
    (withQueue queue0 putHart).packetRefused queue0 image0 = none ∧ (withQueue queue0 putHart).packetRefused queue0 (default : Image) ≠ none ∧
    (default : Part).freeSlot queue0 = some 0 ∧ (withQueue queue0 putHart).dtimeOf 0 < 1000 ∧ own % 64 = 0 := by
  refine ⟨⟨by decide, by decide, rfl, by decide +kernel⟩, ?_⟩
  decide +kernel
/-- What a put reads is the image at the address. -/
theorem witness_packet_read : PacketRead (withQueue queue0 putHart) 5 (withQueue queue0 putHart) image0 :=
  ⟨by decide +kernel, by decide +kernel, loc0, withQueue queue0 putHart, ⟨by rfl, by decide +kernel⟩, by rfl, by decide +kernel, by decide +kernel⟩
/-- The Wallflower hands a spilled entry back; elsewhere the loop-back is refused (R350, R351). -/
theorem test_loopback :
    let it : Inbox := { (default : Inbox) with q := 5 }
    let s : State := { State.reset with cur := 7, harts := [(7, { hartX .s [(5, 0x0050000000000000), (6, 0xFFFFFFFF)] with csr := [(0x300, 0)] })]
                                        cores := [(0, { (default : Core) with wall := true, spilled := [it] })] }
    run (.tqputLoopback 3 5 6) (hm [(6, 0xFFFFFFFF)]) (trapped 25 0) = true ∧
    good (exec (.tqputLoopback 3 5 6) s) (fun t => (t.core 0).inbox.length + (t.core 0).spilled.length == 1) = true := by decide +kernel

/-- A dependence record at the start of local memory: COUNT, STATUS. -/
def recordAt (count st : Nat) (h : Hart) : State :=
  { on h with mem := memPut 0x40000 (leBytes 4 count ++ leBytes 8 0 ++ leBytes 4 st) [], tqe := { State.reset.tqe with queues := [(5, queue0)] } }
/-- `tqdec` counts down an armed record and returns COUNT and STATUS before (R359, R360, R370); an unaligned one faults. -/
theorem test_tqdec : good (exec (.tqdec 3 5) (recordAt 4 1 (hm [(5, 0x40000)]))) (fun t => (t.me.xr 3).toNat == 4 + 2 ^ 32 && memNat t.mem 0x40000 4 == 3) = true ∧
    run (.tqdec 3 5) (hm [(5, 0x40040)]) (trapped 25 0x40040) = true := by decide +kernel
/-- `tqdep` arms a record that is idle and leaves an armed one (R369). -/
theorem test_tqdep : good (exec (.tqdep 3 5 6) (recordAt 0 0 (hm [(5, 0x40000), (6, 5 * 2 ^ 32 + 2)]))) (fun t => (t.me.xr 3).toNat == 0 &&
      memNat t.mem 0x40000 4 == 2 && memNat t.mem 0x4000C 4 == 1 && memNat t.mem 0x40008 4 == 5) = true ∧
    good (exec (.tqdep 3 5 6) (recordAt 4 1 (hm [(5, 0x40000), (6, 5 * 2 ^ 32 + 2)]))) (fun t => (t.me.xr 3).toNat == 1 && memNat t.mem 0x40000 4 == 4) = true := by decide +kernel
/-- DEP_DECREMENT of an unarmed record counts EARLY (R360). -/
theorem test_dep_decrement : good (exec .depDecrement { recordAt 0 0 (hm []) with ev := .depDecrement 0x40000 }) (fun t => memNat t.mem 0x40004 4 == 1) = true := by decide +kernel
/-- The premises about records. -/
theorem witness_records : (recordAt 4 1 (hm [(5, 0x40000)])).xlateRange ((recordAt 4 1 (hm [(5, 0x40000)])).dataCx 0) .store 0x40000 128 =
      (recordAt 4 1 (hm [(5, 0x40000)]), .ok 0x40000) ∧ (recordAt 4 1 (hm [])).recordPlace 0x40000 = true ∧ (recordAt 4 1 (hm [])).inRegion 0x40000 = false ∧
    memNat (recordAt 4 1 (hm [])).mem (0x40000 + 12) 4 = 1 ∧ (0x40040 : Nat) % 128 ≠ 0 := by
  refine ⟨rfl, ?_⟩
  decide +kernel

/-- `tkwait` goes on at its ticket, traps beyond it, waits before it; `tkdone` advances it (R361, R371). -/
theorem test_tickets : runAt (.tkwait 3 5 6) (hm [(5, BitVec.ofNat 64 own), (6, 7)]) (word0 7) (fun t => (t.me.xr 3).toNat == 7) = true ∧
    runAt (.tkwait 3 5 6) (hm [(5, BitVec.ofNat 64 own), (6, 6)]) (word0 7) (trapped 27 own) = true ∧
    runAt (.tkwait 3 5 6) (hm [(5, BitVec.ofNat 64 own), (6, 8)]) (word0 7) (fun t => t.me.wait == some (.signal loc0)) = true ∧
    runAt (.tkdone 3 5 6) (hm [(5, BitVec.ofNat 64 own), (6, 0xFFFFFFFF)]) (word0 0x1FFFFFFFF) (fun t => (t.me.xr 3).toNat == 0x1FFFFFFFF && memNat t.mem loc0 8 == 0x100000000) = true ∧
    runAt (.tkdone 3 5 6) (hm [(5, BitVec.ofNat 64 own), (6, 8)]) (word0 7) (trapped 27 own) = true := by decide +kernel
/-- A machine on which instances 1 (hart 0, slice 0) and 2 (hart 1, slice 1) of one packet run, both in group 2. -/
def team (h : Hart) : State :=
  { State.reset with
    harts := [(0, { h with inst := some 1 }), (1, { hu [] with inst := some 2, wait := some (.group 9 2), garr := 1 })]
    tqe := { State.reset.tqe with
      queues := [(5, queue0)]
      insts := [(1, { (default : Inst) with iid := 1, pk := 9, hart := some 0, slice := 0, entry := 0x4000, arg := 9 }),
        (2, { (default : Inst) with iid := 2, pk := 9, hart := some 1, slice := 1 })]
      pkts := [(9, { (default : Pkt) with q := 5, img := image0, slices := 2, begun := true, groups := [(0, [2]), (1, [2])], members := [(2, [0, 1])], bar := [(2, [1])] })] } }
/-- `gbar` arrives and waits; with the last member the barrier's release is due, and the release wakes the members (R114). -/
theorem test_gbar : good (exec (.gbar 0) (team (hu []))) (fun t => t.me.wait == some (.group 9 2) && t.agenda.contains (.gbarRelease 9 2)) = true ∧
    good (exec .gbarRelease { (team (hu [])) with ev := .gbarRelease 9 2, tqe := { (team (hu [])).tqe with
      pkts := [(9, { (default : Pkt) with q := 5, members := [(2, [0, 1])], bar := [(2, [0, 1])] })] } }) (fun t => (t.hart 1).wait == none) = true ∧
    good (exec (.gbar 1) (team (hm []))) (trapped 28 1) = true := by decide +kernel
/-- The premises of the barrier clauses. -/
theorem witness_groups : RunsFor (team (hu [])) { (default : Inst) with iid := 1, pk := 9, hart := some 0, slice := 0, entry := 0x4000, arg := 9 }
      { (default : Pkt) with q := 5, img := image0, slices := 2, begun := true, groups := [(0, [2]), (1, [2])], members := [(2, [0, 1])], bar := [(2, [1])] } ∧
    (team (hu [])).me.garr.testBit 0 = false ∧ (team { hu [] with garr := 1 }).me.garr.testBit 0 = true :=
  ⟨⟨rfl, rfl⟩, by decide, by decide⟩
/-- A packet that owes its gate, whose word is the ticket: TICKET_ADVANCE pays it (R361). -/
def owing (n : Nat) : State :=
  { on (hm []) with
    ev := .ticketAdvance 9, mem := memPut 0x50000 (leBytes 8 n) []
    xlat := { State.reset.xlat with winEn := [(0, 1)] }
    tqe := { State.reset.tqe with queues := [(5, queue0)], pkts := [(9, { (default : Pkt) with q := 5, img := { image0 with order := 7 }, owed := some (0x00FFFD0000000000, 0) })] } }
/-- In local memory, where the gate lies here. -/
def owingAt (n : Nat) : State := { owing n with mem := memPut loc0 (leBytes 8 n) [] }
theorem test_ticket_advance : good (exec .ticketAdvance (owingAt 7)) (fun t => (t.tqe.pkts.lookup 9).isNone && memNat t.mem loc0 8 == 8) = true ∧
    good (exec .ticketAdvance (owingAt 6)) (fun t => t.agenda == [.ticketAdvance 9]) = true := by decide +kernel
/-- The gate is reached. -/
theorem witness_owed : ((owingAt 7).owedGate { (default : Pkt) with q := 5, img := { image0 with order := 7 }, owed := some (0x00FFFD0000000000, 0) }).2 = some loc0 := by decide +kernel

/-- `tqstat` on the own queue and on the instance (R374); another queue is refused. -/
theorem test_tqstat : good (exec (.tqstatDepth 3 5 6) (withQueue queue0 (hm [(5, 5)]))) (fun t => t.me.xr 3 == 0 && t.me.pc.toNat == 4) = true ∧
    good (exec (.tqstatRun 3 5 6) (team (hu [(5, 5), (6, 1)]))) (fun t => (t.me.xr 3).toNat == 2) = true ∧
    good (exec (.tqstatState 3 5 6) (withQueue { queue0 with state := 1 } (hm [(5, 5), (6, 2)]))) (fun t => (t.me.xr 3).toNat == 1) = true ∧
    good (exec (.tqstatPrio 3 5 6) (withQueue queue0 (hm [(5, 5), (6, 3)]))) (fun t => (t.me.xr 3).toNat == 3) = true ∧
    good (exec (.tqstatOvf 3 5 6) (withQueue { queue0 with ovf := 6 } (hm [(5, 5), (6, 4)]))) (fun t => (t.me.xr 3).toNat == 6) = true ∧
    good (exec (.tqstatInst 3 5 6) (team (hu [(6, 5)]))) (fun t => (t.me.xr 3).toNat == 1) = true ∧
    good (exec (.tqstatSlice 3 5 6) (team (hu [(6, 6)]))) (fun t => (t.me.xr 3).toNat == 0) = true ∧
    good (exec (.tqstatGroups 3 5 6) (team (hu [(6, 7)]))) (fun t => (t.me.xr 3).toNat == 0xFFFFFFFFFFFF0002) = true ∧
    run (.tqstatDepth 3 5 6) (hm [(5, 6)]) (trapped 25 0) = true := by decide +kernel

/-! ### Ends, contexts, timers -/

/-- `tqdone` ends the instance and frees the hart (R365); `tqyield` puts the slice back with a new entry (R373). -/
theorem test_ends : good (exec .tqdone (team (hu []))) (fun t => t.me.inst == none && t.me.wait == some .task &&
      (t.tqe.pkts.lookup 9).any fun p => p.done == 1 && p.good == 1) = true ∧
    good (exec (.tqyield 5 0) (team (hu [(5, 0x6000)]))) (fun t => t.me.inst == none && (t.qpart 5 0).ents.map (fun e => (e.entry, e.arg, e.work)) == [(0x6000, 9, 2)]) = true ∧
    good (exec (.tqyield 5 0) (team (hm [(5, 0x6001)]))) (trapped 25 0) = true ∧
    good (exec .tqdone (team { hu [] with biq := [Biq.new] })) (fun t => t.me.wait == some .blocks) = true := by decide +kernel
/-- A machine whose hart 0 may reach core 1's local memory as a save slot. -/
def slotHart : Hart := { hm [(5, 0x00FFFD0000100000), (9, 0x1234)] with csr := [(0x141, 0x888), (0x300, 0x0000000A00002000)] }
/-- PASID 0 may use the device window of die 0 (R12). -/
def slotOn (h : Hart) : State := { on h with xlat := { State.reset.xlat with winEn := [(0, 1)] } }
/-- `ctxsave` waits for its save (R124, R129); an unaligned slot is refused; in U-mode both are illegal. -/
theorem test_ctxsave : good (exec (.ctxsave 5) (slotOn slotHart)) (fun t => t.me.wait == some .commands && t.agenda == [.saveComplete 0]) = true ∧
    run (.ctxsave 5) (hm [(5, 0x800)]) (trapped 25 0x800) = true ∧ run (.ctxload 5) (hu []) (fun t => causeOf t == 2) = true := by decide +kernel
/-- The record begins with MAGIC and VERSION, holds the pc at 8 and x9 at 0x88 (R125). -/
theorem test_record : let b := (slotOn slotHart).hartRecord 0 3 false 0x888
    field b 0 2 = 0xC7B1 ∧ field b 2 2 = 1 ∧ field b 8 8 = 0x888 ∧ field b 0x88 8 = 0x1234 := by decide +kernel
/-- The machine after `ctxsave`. -/
def staged : State := match exec (.ctxsave 5) (slotOn slotHart) with | .next t => { t with ev := .saveComplete 0 } | _ => State.reset
/-- SAVE_COMPLETE ends the wait (R124). -/
theorem test_save_complete : good (exec .saveComplete staged) (fun t => t.me.save.isNone && t.me.wait.isNone && t.me.pc.toNat == 4) = true := by decide +kernel
/-- A slot in core 1's local memory: VALID, pc 0x888, x9 0x1234 (R125). -/
def slotBytes : List Host.Cell :=
  memPut (2 ^ 52 + 2 ^ 20 + 0x88) (leBytes 8 0x1234) (memPut (2 ^ 52 + 2 ^ 20) (leBytes 2 0xC7B1 ++ leBytes 2 1 ++ leBytes 1 0 ++ leBytes 1 1 ++ leBytes 2 0 ++ leBytes 8 0x888) [])
/-- `ctxload` brings the registers and `sepc` back (R130). -/
theorem test_ctxload : good (exec (.ctxload 5) { slotOn slotHart with mem := slotBytes })
    (fun u => (u.me.xr 9).toNat == 0x1234 && (u.me.cs csrSepc).toNat == 0x888 && u.me.pc.toNat == 4) = true := by decide +kernel
/-- A slot that is not VALID is refused by `ctxload`, and a RESUME on it loses the instance (R128, R130). -/
theorem test_bad_slot : good (exec (.ctxload 5) (slotOn slotHart)) (trapped 25 0) = true ∧
    (match exec .resume { team { hu [] with resume := some ⟨0x00FFFD0000100000, none⟩, wait := some .task } with ev := .resume 0, xlat := { State.reset.xlat with winEn := [(0, 1)] } } with
      | .next t => (t.hart 0).inst.isNone && (t.tqe.insts.lookup 1).isNone | _ => false) = true := by decide +kernel
/-- RESUME: pc, mode and registers come back and the hart runs (R128). -/
theorem test_resume : good (exec .resume { team { hu [] with resume := some ⟨0x00FFFD0000100000, none⟩, wait := some .task } with
      ev := .resume 0, xlat := { State.reset.xlat with winEn := [(0, 1)] }, mem := slotBytes })
    (fun u => (u.me.xr 9).toNat == 0x1234 && u.me.pc.toNat == 0x888 && u.me.priv == .u && u.me.wait.isNone) = true := by decide +kernel
/-- The premises of the clauses about contexts. -/
theorem witness_contexts : staged.saveBusy 0 = false ∧ (staged.hart 0).save.isSome = true ∧ (staged.writeSlot 0 ⟨0x00FFFD0000100000, 3, false, 0x888⟩).2 = true ∧
    ({ staged with xlat := State.reset.xlat }.writeSlot 0 ⟨0x00FFFD0000100000, 3, false, 0x888⟩).2 = false ∧
    ((slotOn slotHart).core 0).save ≠ some false ∧ (team (hu [])).commandsRun = false := by decide +kernel
/-- A slot that reads, is valid, fits and finds its grant. -/
theorem witness_ctxload : let s : State := { slotOn slotHart with mem := slotBytes }
    let va : Word := 0x00FFFD0000100000
    (match s.readVa (s.slotCx 0) va 0x1800 with
      | (u, .ok b) => (slotOf b).valid && u.me.biq.isEmpty && !u.neverFits 0 (slotOf b) && !(slotOf b).own && u.cur == 0 &&
        (match u.readAreas (s.slotCx 0) va (slotOf b) with
          | (w, .ok _) => w.cur == 0 && (match w.restoreGrant 0 (slotOf b) with | (z, some _) => z.cur == 0 && z.net.fences.isEmpty | _ => false)
          | _ => false)
      | _ => false) = true := by decide +kernel
/-- Timers and wakes: a waiting `vsetl` looks again, grace and window expiry mark the request, the watchdog asks for a hard
pre-emption, a timed-out wait ends, a wake reaches the harts at its line of 32 bytes (R23, R91, R100, R112, R122, R132). -/
theorem test_timers :
    good (exec .laneGrantReeval { on { hm [] with wait := some .grant } with ev := .laneGrantReeval 0 }) (fun t => t.me.wait == none) = true ∧
    good (exec .graceExpiry { on { hm [] with preempt := some ⟨0, true, false, false, false⟩ } with ev := .graceExpiry 0 }) (fun t => t.me.preempt.any (·.hard)) = true ∧
    good (exec .commitWindowExpiry { on { hm [] with preempt := some ⟨0, true, true, true, false⟩ } with ev := .commitWindowExpiry 0 }) (fun t => t.me.preempt.any (·.closed)) = true ∧
    good (exec .watchdogExpiry { team (hu []) with ev := .watchdogExpiry 0, tqe := { (team (hu [])).tqe with queues := [(5, { queue0 with wdog := 1 })] } })
      (fun t => t.me.preempt == some ⟨3, false, true, false, false⟩) = true ∧
    good (exec .waitTimeout { on { hm [] with wait := some (.signal 64), csr := [(0x803, 5)] } with ev := .waitTimeout 0 }) (fun t => t.me.timedOut && t.me.wait == none) = true ∧
    good (exec .signalWake { on { hm [] with wait := some (.signal 64) } with ev := .signalWake 72 }) (fun t => t.me.wait == none) = true ∧
    good (exec .signalWake { on { hm [] with wait := some (.signal 64) } with ev := .signalWake 96 }) (fun t => t.me.wait == some (.signal 64)) = true ∧
    good (exec .signalPoll { on { hm [] with wait := some (.signal 64) } with ev := .signalPoll 0 }) (fun t => t.me.wait == none) = true := by decide +kernel
/-- SAVETO expiry with a save under way quarantines the core (R133); without one nothing happens. -/
theorem test_saveto : good (exec .savetoExpiry { on { hm [] with save := some ⟨0, 0, false, 0⟩ } with ev := .savetoExpiry 0 }) (fun t => (t.core 0).quar) = true ∧
    good (exec .savetoExpiry { on (hm []) with ev := .savetoExpiry 0 }) (fun t => !(t.core 0).quar) = true := by decide +kernel

/-! ### Blocks (R134 to R168) -/

/-- The words of chapter 5's example that counts elements above a bound: header, five pairs. -/
def countGt : List Nat := [0xD4500408, 0x00010E80, 0x020E0E00, 0x1442012201020F80, 0x7502800005010000, 0x060F0000]
/-- The checks admit it at SEW 32: seven instructions in its pairs (R137, R144). -/
theorem test_block_decodes : (match checkBlock 0x1FFFF047F 32 0xD4500408 (countGt.drop 1) with
    | .inl c => c.instrs.map (fun x => (x.1, encode x.2)) == [(2, [0x00010E80]), (4, [0x020E0E00]), (6, [0x01020F80]), (7, [0x14420122]), (8, [0x05010000]), (9, [0x75028000]), (10, [0x060F0000])]
    | .inr _ => false) = true := by decide +kernel
/-- A header without its magic number is a format fault at ID 0. -/
theorem test_block_refused : (checkBlock 0x1FFFF047F 32 0x00500408 (countGt.drop 1)).isRight = true := by decide +kernel
/-- A block that waits for its decode, its image at the start of local memory. -/
def fetching (ws : List Nat) : State :=
  { on { hm [] with biq := [{ Biq.new with va := BitVec.ofNat 64 own, vcfg := 2, vl := 4, grant := [0] }] } with
    ev := .blockFetchDecode 0, mem := memPut loc0 (ws.flatMap (leBytes 8)) [] }
/-- BLOCK_FETCH_DECODE gives the entry its code, or the format fault (R143, R144); a fetch beyond the local memory faults. -/
theorem test_fetch_decode : good (exec .blockFetchDecode (fetching countGt)) (fun t => (t.entry 0 0).any fun b => b.code.any fun c => c.instrs.length == 7) = true ∧
    good (exec .blockFetchDecode (fetching [1])) (fun t => (t.entry 0 0).any fun b => b.code.isNone && b.faults.map (·.code) == [1]) = true ∧
    good (exec .blockFetchDecode ((fetching []).modHart 0 fun h => { h with biq := h.biq.map fun b => { b with va := BitVec.ofNat 64 (own + 0x60000) } }))
      (fun t => (t.entry 0 0).any fun b => b.faults.length == 1) = true := by decide +kernel
/-- The entry that waits for its decode. -/
theorem witness_undecoded : ((fetching countGt).undecoded 0).isSome = true := by decide +kernel

/-- A block with a load in flight of two words behind a store of the first. -/
def loading : State :=
  { on { hm [] with biq := [{ one 2 2 (.ld ⟨0, 1, 16, 2, 0⟩) [uni own] with
                                fired := [3], pends := [⟨3, 1, [0], [some (BitVec.ofNat 64 own, loc0), some (BitVec.ofNat 64 (own + 4), loc0 + 4)], 4, none, []⟩],
                                stores := [⟨5, 0, 0, BitVec.ofNat 64 own, loc0, leBytes 4 5⟩] }] } with
    mem := memPut loc0 words79 [], ev := .loadDataReturn 0 }
/-- LOAD_DATA_RETURN gives the earlier store's bytes and else memory's (R239, R246). -/
theorem test_load_returns : good (exec .loadDataReturn loading) (fun t => (t.entry 0 0).any fun b => b.toks.lookup 16 == some (vec [5, 9]) && b.pends == []) = true := by decide +kernel
/-- The load that returns next, from local memory. -/
theorem witness_load : (loading.nextPend 0).isSome = true ∧ isLocal loc0 = true ∧ loading.poisoned loc0 4 = false ∧ loading.coh.severed = [] ∧
    (loading.me.biq.all fun b => b.loads.isEmpty && b.pends.all fun p => p.win.isNone) = true := by decide +kernel
/-- A block that has done all: one store and one staged write of x7. -/
def finished : State :=
  { on { hm [(7, 1)] with biq := [{ Biq.new with code := some ⟨[], 0⟩, stores := [⟨3, 0, 0, BitVec.ofNat 64 own, loc0, leBytes 4 5⟩], staged := [.x 7 0x99] }] } with
    ev := .blockCommit 0 }
/-- BLOCK_COMMIT performs the stores and register writes and removes the entry (R160); an incomplete block stays. -/
theorem test_commit : good (exec .blockCommit finished) (fun t => memNat t.mem loc0 4 == 5 && (t.me.xr 7).toNat == 0x99 && t.me.biq == []) = true ∧
    good (exec .blockCommit { loading with ev := .blockCommit 0 }) (fun t => t.me.biq.length == 1) = true := by decide +kernel
/-- A complete block whose stores are local, and an incomplete one. -/
theorem witness_commit : (finished.me.biq.all fun b => b.complete && !b.isLoop && b.stores.all fun st => isLocal st.pa) = true ∧
    (loading.me.biq.all fun b => b.complete) = false := by decide +kernel
/-- A block with two faults. -/
def faulting (code tries park : Nat) : State :=
  { on { hm [] with csr := [(0x300, 0), (0x5C8, BitVec.ofNat 64 park)], biq := [{ Biq.new with va := 0x1000, tries := tries, stores := [⟨3, 0, 0, 0, 0, []⟩], faults :=
      [{ code := code, va := 0x77, elem := 3, lsid := 2, id := 5, lg := 1, acc := 1 }] }, { Biq.new with seq := 1 }] } with ev := .blockFault 0 }
/-- BLOCK_FAULT records and holds the fault and aborts the younger blocks; with PFPARK a page fault parks (R97, R116, R163). -/
theorem test_block_fault : good (exec .blockFault (faulting 8 0 0)) (fun t => t.me.held && (t.me.cs 0x5C0).toNat == 8 + 65536 + 2 ^ 18 && (t.me.cs 0x5C1).toNat == 0x77 &&
      (t.me.cs 0x5C3).toNat == 2 + 5 * 256 && (t.me.cs 0x5C4).toNat == 0x1000 && t.me.biq.all fun b => b.held && b.stores == []) = true ∧
    good (exec .blockFault (faulting 4 0 1)) (fun t => t.me.parked && !t.me.held) = true ∧
    good (exec .blockFault (faulting 4 2 1)) (fun t => !t.me.parked && t.me.held) = true := by decide +kernel
/-- The fault that is recorded. -/
theorem witness_fault : ((chooseFault [{ code := 8, va := 0x77, elem := 3, lsid := 2, id := 5, lg := 1, acc := 1 }]).map (·.code)) = some 8 := by decide +kernel
/-- A held fault reaches the hart as cause 24, or 26 after three tries of a progress fault (R116, R118, R165). -/
def delivering (tries code : Nat) : State :=
  { on { hu [] with pc := 0x200, held := true, csr := [(0x300, 0), (0x5C4, 0x1000)], biq :=
      [{ Biq.new with va := 0x1000, held := true, tries := tries, faults := [{ code := code, va := 0x77, elem := 3, lsid := 2, id := 5, lg := 1, acc := 1 }] }] } with ev := .blockTrapDeliver 0 }
theorem test_trap_deliver : good (exec .blockTrapDeliver (delivering 1 8)) (fun t => (t.me.cs csrMcause).toNat == 24 && (t.me.cs csrMtval).toNat == 0x1000 && (t.me.cs csrMepc).toNat == 0x200) = true ∧
    good (exec .blockTrapDeliver (delivering 3 4)) (fun t => (t.me.cs csrMcause).toNat == 26) = true := by decide +kernel
/-- Deliverable, and not. -/
theorem witness_deliver : (delivering 1 8).me.faultDue = true ∧ (delivering 1 8).me.heldFault.isSome = true ∧ (on (hm [])).me.faultDue = false := by decide +kernel

/-! ### Task queue engines -/

/-- A machine whose core 0 holds an inbox entry of the packet. -/
def inboxed : State :=
  let it : Inbox := { (default : Inbox) with q := 5, ent := { (default : Entry) with pk := 9, work := 2, entry := 0x4000, arg := 9 } }
  { State.reset with
    cores := [(0, { (default : Core) with inbox := [it], save := some false })], ev := .tqeDispatch 0
    tqe := { State.reset.tqe with queues := [(5, { queue0 with sva := 0x7000 })], pkts := [(9, { (default : Pkt) with q := 5, img := { image0 with base := 0x88 }, slices := 1, slot := 2 })] } }
/-- TQE_DISPATCH gives a free hart the instance with the state of R83; with nothing to do it ends (R342). -/
theorem test_dispatch : good (exec .tqeDispatch inboxed) (fun t => (t.hart 0).pc.toNat == 0x4000 && (t.hart 0).priv == .u && ((t.hart 0).xr 10).toNat == 9 &&
      ((t.hart 0).xr 11).toNat == 0x88 && ((t.hart 0).xr 12).toNat == 1 && ((t.hart 0).xr 13).toNat == 0x7080 && (t.hart 0).inst.isSome && t.agenda == [.tqeDispatch 0]) = true ∧
    good (exec .tqeDispatch { State.reset with ev := .tqeDispatch 0 }) (fun t => t.agenda == []) = true := by decide +kernel
/-- Ageing, the Almanac's tick of 1000 ns, and the end of an empty dying queue (R343, R357, R363). -/
theorem test_queue_events :
    good (exec .ageExpiry { withQueue { queue0 with age := 7 } (hm []) with ev := .ageExpiry 5 0, tqe := { State.reset.tqe with queues := [(5, { queue0 with age := 7 })], parts := [(20, { (default : Part) with ents := [default] })] } })
      (fun t => (t.qpart 5 0).aged) = true ∧
    good (exec .almanacTick { State.reset with ev := .almanacTick 0 }) (fun t => t.dtimeOf 0 == 1000 && t.dtimeOf 1 == 0) = true ∧
    good (exec .queueDestroyComplete { withQueue { queue0 with dying := true } (hm []) with ev := .queueDestroyComplete 5 }) (fun t => (t.queue 5).isNone) = true ∧
    good (exec .queueDestroyComplete { withQueue queue0 (hm []) with ev := .queueDestroyComplete 5 }) (fun t => (t.queue 5).isSome) = true := by decide +kernel
/-- The queue of those tests is empty. -/
theorem witness_queue_end : (withQueue { queue0 with dying := true } (hm [])).queueEmpty 5 = true ∧ queue0.enders = [] ∧
    (withQueue { queue0 with dying := true } (hm [])).queueCopies 5 = false ∧
    (let s := withQueue { queue0 with age := 7 } (hm [])
     ({ s with tqe := { s.tqe with parts := [(20, { (default : Part) with ents := [default] })] } } : State).eligible 5 0 { queue0 with age := 7 }) = true := by decide +kernel

/-! ### Coherence (R376 to R398) -/

/-- Line 0 in the LLC with an entry as given, and an event. -/
def homed (d : Dir) (e : Ev) : State :=
  { State.reset with
    ev := e
    coh := { State.reset.coh with dir := [(0, d)], llc := [(State.reset.llcKey 0, [0])] } }
/-- The homes' table (R388): first column of requests. -/
theorem test_home_requests :
    good (exec .gets (homed .unc (.gets 3 0))) (fun t => t.dir 0 == Dir.share 3 && t.agenda == [.dataS 3 0]) = true ∧
    good (exec .gets (homed (.own 4) (.gets 3 0))) (fun t => (t.dir 0).busy && t.agenda == [.downgr 4 0]) = true ∧
    good (exec .getx (homed (.share 4) (.getx 3 0))) (fun t => (t.dir 0).busy && t.agenda == [.inv 4 0]) = true ∧
    good (exec .upg (homed (.share 3) (.upg 3 0))) (fun t => t.dir 0 == Dir.own 3 && t.agenda == [.grantX 3 0]) = true ∧
    good (exec .rdu (homed (.own 4) (.rdu 0))) (fun t => t.agenda == [.downgr 4 0]) = true ∧
    good (exec .wbreq (homed (.own 4) (.wbreq 4 0))) (fun t => t.agenda == [.wbgo 4 0]) = true ∧
    good (exec .wbreq (homed .unc (.wbreq 4 0))) (fun t => t.agenda == [.wbstale 4 0]) = true ∧
    good (exec .wrm (homed .unc (.wrm 4 [(8, 0x55)]))) (fun t => memNat t.mem 8 1 == 0x55 && t.agenda.contains (.wrack 4 0)) = true ∧
    good (exec .amoRequest (homed .unc (.amoRequest 4 8 0 4 3 0))) (fun t => memNat t.mem 8 4 == 3 && t.agenda.contains (.amoack 4 0 0)) = true := by decide +kernel
/-- A busy line queues its request; a line that is not in the LLC is filled (R387). -/
theorem test_home_waits : good (exec .gets (homed { Dir.unc with busy := true } (.gets 3 0))) (fun t => tget [] t.coh.waitq 0 == [.gets 3]) = true ∧
    good (exec .gets { State.reset with ev := .gets 3 0 }) (fun t => t.agenda == [.llcFill 0 false]) = true := by decide +kernel
/-- The premises: an idle line, a shared one with another sharer. -/
theorem witness_homes : (homed .unc .idle).inLlc 0 = true ∧ (homed .unc .idle).outer 0 = 2 ∧ ((homed .unc .idle).dir 0).busy = false ∧
    (Dir.share 4).members = [4] ∧ (Dir.own 4).owner = 4 ∧ lineOf 8 = 0 ∧ (homed .unc .idle).sliceFull 0 = false ∧
    (homed .unc .idle).coh.waitq = [] ∧ (homed .unc .idle).coh.room = [] := by decide +kernel
/-- A transaction on line 0. -/
def busyHome (d : Dir) (t : Txn) (e : Ev) : State := let s := homed { d with busy := true } e; { s with coh := { s.coh with txn := [(0, t)] } }
/-- PUTS removes a sharer, CLEAN answers, acknowledgements and data end a transaction (R388, R389, R391, R392). -/
theorem test_home_answers :
    good (exec .puts (homed ((Dir.share 3).add 4) (.puts 3 0))) (fun t => (t.dir 0).members == [4]) = true ∧
    good (exec .clean (homed .unc (.clean 3 0))) (fun t => t.agenda == [.wrack 3 0]) = true ∧
    good (exec .wrack (homed .unc (.wrack 3 0))) (fun t => t.agenda == []) = true ∧ good (exec .amoack (homed .unc (.amoack 3 0 1))) (fun t => t.agenda == []) = true ∧
    good (exec .iack (busyHome (.share 4) ⟨.getx 3, [4, 5], none, 0⟩ (.iack 4 0))) (fun t => (t.coh.txn.lookup 0).any fun x => x.acks == [5]) = true ∧
    good (exec .iack (busyHome (.share 4) ⟨.getx 3, [4], none, 0⟩ (.iack 4 0))) (fun t => t.dir 0 == Dir.own 3 && t.agenda.contains (.dataE 3 0)) = true ∧
    good (exec .rdata (busyHome (.own 4) ⟨.getx 3, [], some 4, 0⟩ (.rdata 4 0 true false))) (fun t => t.dir 0 == Dir.own 3) = true ∧
    good (exec .wbdata (busyHome (.own 4) ⟨.wbreq 4, [], none, 0⟩ (.wbdata 4 0 true))) (fun t => t.dir 0 == Dir.unc) = true ∧
    good (exec .llcFill (busyHome .unc ⟨.gets 3, [], none, 1⟩ (.llcFill 0 false))) (fun t => t.dir 0 == Dir.share 3) = true ∧
    good (exec .llcFill (busyHome .unc ⟨.gets 3, [], none, 1⟩ (.llcFill 0 true))) (fun t => t.coh.poison == [0] && !(t.dir 0).busy) = true := by decide +kernel
/-- A node in a state, and a message to it. -/
def noded (x : NState) (e : Ev) : State := { State.reset with ev := e, coh := { State.reset.coh with nodes := [(nkey 3 0, x)] } }
/-- An outcome is a given stop. -/
def stops (o : Out) (f : Fault) : Bool := match o with | .fault g => g == f | _ => false
/-- The nodes' table (R390, R391). -/
theorem test_nodes :
    good (exec .inv (noded .s (.inv 3 0))) (fun t => t.ns 3 0 == .i && t.agenda.contains (.iack 3 0)) = true ∧
    good (exec .inv (noded .sm (.inv 3 0))) (fun t => t.ns 3 0 == .lostS) = true ∧ stops (exec .inv (noded .m (.inv 3 0))) .doesNotOccur = true ∧
    good (exec .recall (noded .m (.recall 3 0))) (fun t => t.ns 3 0 == .i && t.agenda.contains (.rdata 3 0 true false)) = true ∧
    good (exec .downgr (noded .e (.downgr 3 0))) (fun t => t.ns 3 0 == .s && t.agenda.contains (.rdata 3 0 false false)) = true ∧
    good (exec .wbgo (noded (.vb true) (.wbgo 3 0))) (fun t => t.ns 3 0 == .i && t.agenda.contains (.wbdata 3 0 true)) = true ∧
    good (exec .wbstale (noded .vbx (.wbstale 3 0))) (fun t => t.ns 3 0 == .i) = true ∧
    good (exec .dataS (noded .is (.dataS 3 0))) (fun t => t.ns 3 0 == .s) = true ∧ good (exec .dataE (noded .im (.dataE 3 0))) (fun t => t.ns 3 0 == .e) = true ∧
    good (exec .grantX (noded .sm (.grantX 3 0))) (fun t => t.ns 3 0 == .e) = true := by decide +kernel
/-- A reservation delays the answer until its time is over (R379). -/
theorem test_reservation : let s := noded .e (.recall 3 0)
    good (exec .recall { s with harts := [(24, { hm [] with resv := some (0, 0) })] }) (fun t => t.ns 3 0 == .e && t.agenda.contains (.reservationTimeout 3 0) &&
      good (exec .reservationTimeout { t with ev := .reservationTimeout 3 0 }) fun u => u.ns 3 0 == .i && !u.reserved 3 0) = true := by decide +kernel
/-- Reserved and not. -/
theorem witness_reserved : { noded .e (.recall 3 0) with harts := [(24, { hm [] with resv := some (0, 0) })] }.reserved 3 0 = true ∧ (noded .e (.recall 3 0)).reserved 3 0 = false ∧
    (3 : Nat) ≠ guestPort := by decide +kernel

/-! ### Links and rounds -/

/-- A link error is noted, a failed retraining severs the higher die or isolates the guest (R396, R397, R482). -/
theorem test_links : good (exec .linkError { State.reset with ev := .linkError 0 1 }) (fun t => t.coh.links == [(0, 1)]) = true ∧
    good (exec .linkRetrainFail { State.reset with ev := .linkRetrainFail 0 1 }) (fun t => t.agenda == [.sever 1]) = true ∧
    good (exec .linkRetrainFail { State.reset with ev := .linkRetrainFail 2 4 }) (fun t => t.agenda == [.sever 2]) = true ∧
    good (exec .linkRetrainFail { State.reset with ev := .linkRetrainFail 4 5 }) (fun t => t.agenda == [.protocolError 0]) = true ∧
    good (exec .linkError { State.reset with ev := .linkError 0 3 }) (fun t => t.coh.links.isEmpty) = true ∧ State.reset.isLink 0 2 = true ∧
    good (exec .sever { State.reset with ev := .sever 1 }) (fun t => t.coh.severed == [1] && t.mgmt.logn == 1) = true ∧
    good (exec .sever { State.reset with ev := .sever 4 }) (fun t => t.coh.severed == []) = true := by decide +kernel
/-- The region of `withRegion`, with an event. -/
def regional (e : Ev) : State := { withRegion (hm []) with ev := e }
/-- A refetch whose floor is reached takes a copy; one beyond it is parked, until the slice's round or a time-out answers it (R408, R414, R415). -/
theorem test_rounds : good (exec .refetchRequest (regional (.refetchRequest 0 0x2000 5 0 1 0))) (fun t => (t.rounds.copies.lookup (nkey 0 0x2000)).isSome) = true ∧
    good (exec .refetchRequest (regional (.refetchRequest 0 0x2000 6 0 1 0))) (fun t => t.rounds.parked.length == 1 && t.rounds.copies.isEmpty &&
      good (exec .stallTimeout { t with ev := .stallTimeout 0 0x2000 6 0 1 0 }) fun u => u.rounds.parked.isEmpty && (u.rounds.copies.lookup (nkey 0 0x2000)).isSome) = true ∧
    good (exec .replicaUpdate (regional (.replicaUpdate 7 0))) (fun t => t.agenda.contains (.replicaAck 7 0) && (t.region 7).any fun g => g.rsOf 0 == 5) = true ∧
    good (exec .roundNotice (regional (.roundNotice 7 1 6))) (fun t => (t.region 7).any fun g => g.viewOf 1 == 6 && g.viewOf 0 == 5) = true ∧
    good (exec .roundNotice (regional (.roundNotice 7 1 4))) (fun t => (t.region 7).any fun g => g.viewOf 1 == 5) = true := by decide +kernel
/-- The last acknowledgement ends a publish with a notice to each die (R414). -/
theorem test_replica_ack : good (exec .replicaAck (let s := regional (.replicaAck 7 0)
      s.modRegion 7 fun g => { g with busy := true, acks := [0], queue := [.cspec 0] })) (fun t => t.agenda == [.roundNotice 7 0 5, .roundNotice 7 1 5, .roundNotice 7 2 5, .roundNotice 7 3 5]) = true ∧
    good (exec .replicaAck (let s := regional (.replicaAck 7 0)
      s.modRegion 7 fun g => { g with busy := true, acks := [0, 1], queue := [.cspec 0] })) (fun t => (t.region 7).any fun g => g.acks == [1]) = true := by decide +kernel
/-- The line lies in the region. -/
theorem witness_region : (regional .idle).regionAt (0x2000 * 128) = some 7 := by decide +kernel

/-! ### Translation events (R429 to R439) -/

/-- A machine in the middle of an event, with PASID 0 LIVE in slot 0 and PASID 3 in slot 1, its root page at 0x1000. -/
def sysOn (e : Ev) : State :=
  { State.reset with ev := e, xlat := { State.reset.xlat with ctx := [(0, pasidZero), (1, ⟨3, false, 1, 2, 0x1000, 0, 0, 0⟩)] } }
/-- A command in mailbox slot 3 with TAG 7, and a machine that executes it. -/
def cmd (op : Nat) (args : List Nat) : MCmd := ⟨op, 3, 0, none, 7, 0, args⟩
/-- The machine that executes it, with some commands in the queue. -/
def sysCmds (cs : List MCmd) (e : Ev) : State := { sysOn e with fe := { State.reset.fe with state := 2, busy := [3], cmds := cs } }
/-- The command was answered in its slot with STATUS and R0. -/
def said (st r0 : Nat) (t : State) : Bool := t.fe.resp.lookup 3 == some (responseBytes st 7 r0 0) && t.fe.cmds.isEmpty && t.fe.busy.isEmpty
/-- Tables from 0x1000 with a leaf of 1 GiB at VA 0 of PASID 3, read and write, PA 0 (R426, R429). -/
def tables : List Host.Cell := memPut 0x1000 (leBytes 8 0x801) (memPut 0x2000 (leBytes 8 0xC01) (memPut 0x3000 (leBytes 8 0xD7) []))
/-- WALK_COMPLETE of a PASID that is not LIVE changes nothing; of a LIVE one it keeps the leaf (R429, R438). -/
theorem test_walk : good (exec .walkComplete (sysOn (.walkComplete 2004 9 0 0))) (fun t => t.xlat.tlb.isEmpty) = true ∧
    good (exec .walkComplete { sysOn (.walkComplete 0 3 0x5000 0) with mem := tables })
      (fun t => t.xlat.tlb.any fun e => e.unit == 0 && e.tag == .pasid 3 && e.lg == 30 && e.r && e.w && !e.x && e.pa == 0) = true := by decide +kernel
/-- The two cases of a walk. -/
theorem witness_walk : (sysOn .idle).rootOf (pasidCx 0 9 (unitDie 0)) = none ∧ (sysOn .idle).rootOf (pasidCx 0 3 (unitDie 0)) = some (some (0x1000, none)) := by
  decide +kernel
/-- INVAL drops a PASID's translations and answers; reserved bits are INVALID, a PASID that is not LIVE NOTFOUND, and one that waits for an earlier
command stays due (R435, R503, R505). -/
theorem test_inval : good (exec .inval { sysCmds [cmd 5 [2 ^ 20 + 3, 0x1000, 1]] (.inval (cmd 5 [2 ^ 20 + 3, 0x1000, 1])) with
      xlat := { (sysOn .idle).xlat with tlb := twoTlb } }) (fun t => said 0 0 t && t.xlat.tlb.length == 1) = true ∧
    good (exec .inval (sysCmds [cmd 5 [2 ^ 21]] (.inval (cmd 5 [2 ^ 21])))) (said 1 0) = true ∧
    good (exec .inval (sysCmds [cmd 5 [2 ^ 20 + 9]] (.inval (cmd 5 [2 ^ 20 + 9])))) (said 3 0) = true ∧
    good (exec .inval (sysCmds [cmd 3 [3], cmd 5 [2 ^ 20 + 3]] (.inval (cmd 5 [2 ^ 20 + 3])))) (fun t => t.agenda == [.inval (cmd 5 [2 ^ 20 + 3])]) = true := by
  decide +kernel
/-- The premises of INVAL, for a PASID and for an ASID. -/
theorem witness_inval : let c := cmd 5 [2 ^ 20 + 3, 0x1000, 1]
    (sysCmds [c] (.inval c)).inTurn c = true ∧ c.arg 0 < 2 ^ 21 ∧ c.arg 2 < 2 ^ 52 ∧ ownWindowVa (c.arg 1) = false ∧
    ((sysCmds [c] (.inval c)).ctxOf (c.arg 0 % 2 ^ 20)).any (fun x => x.2.state == 1) = true ∧ (sysCmds [c] (.inval c)).anyAtom = false ∧
    (sysCmds [c] (.inval c)).gbnd = false ∧ (sysCmds [cmd 3 [3], c] (.inval c)).inTurn c = false ∧ (cmd 5 [3]).arg 0 < 2 ^ 20 := by decide +kernel
/-- An atomic group in flight holds an invalidation up (R434). -/
def atomHart : State := { on { hu [] with biq := [{ Biq.new with atom := true }] } with ev := .atsInvalidate 3 0x1000 1 }
/-- ATS_INVALIDATE drops and answers the host; with an atomic group in flight it stays due (R434, R435). -/
theorem test_ats : good (exec .atsInvalidate { sysOn (.atsInvalidate 3 0x1000 1) with xlat := { (sysOn .idle).xlat with tlb := twoTlb } })
      (fun t => t.xlat.tlb.length == 1 && t.host.answer == [[1, 3, 0x1000, 4096]]) = true ∧
    atomHart.anyAtom = true ∧ good (exec .atsInvalidate atomHart) (fun t => t.agenda == [.atsInvalidate 3 0x1000 1]) = true := by decide +kernel

/-- Hart 0 waits for group index 4 of PASID 3. -/
def paged (e : Ev) (orphan : Bool) (n : Nat) : State :=
  { sysOn e with
    harts := [(0, { hu [] with pc := 0x400, wait := some (.page 4 13 0x1234) })]
    xlat := { (sysOn e).xlat with prgs := [⟨4, 1, 2, .scalar 0, [(0x1000, 1)], orphan⟩], ctx := [(1, ⟨3, false, 1, 2, 0x1000, 0, 0, n⟩)] } }
/-- PRG_RESPONSE wakes the requester: Success to translate again, else with the fault; an orphaned one is only counted (R437, R438). -/
theorem test_prg : good (exec .prgResponse (paged (.prgResponse 4 0) false 1)) (fun t => t.xlat.prgs.isEmpty && (t.hart 0).wait == none && (t.hart 0).pc.toNat == 0x400) = true ∧
    good (exec .prgResponse (paged (.prgResponse 4 1) false 1)) (fun t => (t.hart 0).wait == none && trapped 13 0x1234 t) = true ∧
    good (exec .prgResponse (paged (.prgResponse 4 0) true 1)) (fun t => (t.hart 0).wait == some (.page 4 13 0x1234)) = true ∧
    good (exec .prgResponse (paged (.prgResponse 5 0) false 1)) (fun t => t.xlat.prgs.length == 1) = true := by decide +kernel
/-- PRTO_EXPIRY fails the request and keeps its index; HOST_PORT_RESET frees such indices (R437, R439). -/
theorem test_prto : good (exec .prtoExpiry (paged (.prtoExpiry 4) false 1)) (fun t => trapped 13 0x1234 t && t.xlat.prgs.map (·.who) == [.nobody] &&
      good (exec .hostPortReset { t with ev := .hostPortReset }) fun u => u.xlat.prgs.isEmpty) = true ∧
    good (exec .hostPortReset (paged .hostPortReset false 1)) (fun t => t.xlat.prgs.length == 1) = true := by decide +kernel
/-- The premises about page requests. -/
theorem witness_prg : ((paged .idle false 1).xlat.prgs.find? fun g => g.idx == 4) = some ⟨4, 1, 2, .scalar 0, [(0x1000, 1)], false⟩ ∧
    ((paged .idle false 1).hart 0).wait = some (.page 4 13 0x1234) ∧ ((paged .idle false 1).hart 0).priv ≠ .m ∧ (paged .idle false 1).xlat.ctx.lookup 1 = some ⟨3, false, 1, 2, 0x1000, 0, 0, 1⟩ ∧
    (paged .idle false 1).xlat.parkq = [] := by decide +kernel
/-- PSTOP: LIVE becomes STOPPING; then the slot is freed with its next generation and the command answered; an unknown PASID is NOTFOUND (R438). -/
theorem test_pstop : good (exec .pstop (sysCmds [cmd 4 [3]] (.pstop (cmd 4 [3])))) (fun t => (t.ctxOf 3).any (fun x => x.2.state == 2) && t.agenda == [.pstop (cmd 4 [3])] &&
      good (exec .pstop { t with agenda := [] }) fun u => said 0 0 u && u.xlat.ctx.lookup 1 == some ⟨3, false, 0, 3, 0x1000, 0, 0, 0⟩) = true ∧
    good (exec .pstop (sysCmds [cmd 4 [9]] (.pstop (cmd 4 [9])))) (said 3 0) = true := by decide +kernel
/-- A slot that drains is freed by its time-out with DRAINTO on record; a LIVE one is left alone (R438 step 7). -/
theorem test_drain : good (exec .drainTimeout { sysOn (.drainTimeout 1) with xlat := { (sysOn .idle).xlat with ctx := [(1, ⟨3, false, 3, 15, 0x1000, 0, 2, 2⟩)] } })
      (fun t => t.mgmt.logn == 1 && t.xlat.ctx.lookup 1 == some ⟨3, false, 0, 0, 0x1000, 0, 0, 0⟩) = true ∧
    good (exec .drainTimeout (sysOn (.drainTimeout 1))) (fun t => t.mgmt.logn == 0 && (t.ctxOf 3).isSome) = true := by decide +kernel
/-- The premises of PSTOP in each state of its slot. -/
theorem witness_pstop : let c := cmd 4 [3]; let s := sysCmds [c] (.pstop c)
    let x : Ctx := ⟨3, false, 1, 2, 0x1000, 0, 0, 0⟩
    s.ctxOf 3 = some (1, x) ∧ s.pstopOf 3 = some c ∧ s.inTurn c = true ∧
    (s.beginStop 3 1 x).ctxOf 3 = some (1, { x with state := 2 }) ∧ (s.beginStop 3 1 x).pstopOf 3 = some c ∧ (s.beginStop 3 1 x).stopAcked 3 = true ∧
    (let t : State := { s with guest := { s.guest with pstops := [(3, 1)] } }; t.stopAcked 3 = false) := by decide +kernel

/-! ### Management commands (R498 to R507) -/

/-- The machine at a command, with an image in GDDR7 at PA 0x60000. -/
def atCmd (b : List Byte) (c : MCmd) : State :=
  let s := sysCmds [c] ((cmdEv c).getD .idle)
  { s with mem := memPut 0x60000 b [] }
/-- A queue descriptor for QID 5, PASID 0, on die 0, as R333 lays it out. -/
def qdesc : List Byte :=
  leBytes 4 5 ++ leBytes 4 0 ++ [0, 3, 1, 15] ++ leBytes 2 0xFFFF ++ leBytes 2 0 ++ leBytes 4 0 ++ leBytes 4 100 ++ leBytes 4 0 ++ [6, 3] ++ leBytes 2 1 ++
    leBytes 8 0x20000 ++ List.replicate 88 0
/-- QCREATE makes the queue and answers its QID; with it there, STATE; a PASID that is not live is NOTFOUND, an image that cannot be read INVALID (R333, R503). -/
theorem test_qcreate : good (exec .qcreate (atCmd qdesc (cmd 1 [0x60000]))) (fun t => said 0 5 t && (t.queue 5).any fun q => q == queueImage qdesc && q.prio == 3) = true ∧
    good (exec .qcreate (let s := atCmd qdesc (cmd 1 [0x60000]); { s with tqe := { s.tqe with queues := [(5, queue0)] } })) (said 5 0) = true ∧
    good (exec .qcreate (atCmd (qdesc.set 4 9) (cmd 1 [0x60000]))) (said 3 0) = true ∧
    good (exec .qcreate (atCmd (qdesc.set 10 0) (cmd 1 [0x60000]))) (said 1 0) = true ∧
    good (exec .qcreate (atCmd [] (cmd 1 [2 ^ 51]))) (said 1 0) = true := by decide +kernel
/-- The premises of QCREATE. -/
theorem witness_qcreate : (match (atCmd qdesc (cmd 1 [0x60000])).imageAt 0x60000 128 with
    | (u, some b) => u.pasidStatus (field b 4 4) == 0 && !u.queueBad b && field b 0 4 == 5 && (u.queue 5).isNone && !u.pinsFull (queueImage b).pins
    | _ => false) = true ∧ ((atCmd [] (cmd 1 [2 ^ 51])).imageAt (2 ^ 51) 128).2 = none := by decide +kernel
/-- A machine with queue 5. -/
def atQueue (c : MCmd) : State := let s := atCmd [] c; { s with tqe := { s.tqe with queues := [(5, queue0)] } }
/-- QDESTROY starts to drain a queue; an unknown one is NOTFOUND (R363). -/
theorem test_qdestroy : good (exec .qdestroy (atQueue (cmd 2 [5]))) (fun t => (t.queue 5).any (fun q => q.dying && q.state == 1) || said 0 0 t) = true ∧
    good (exec .qdestroy (atQueue (cmd 2 [6]))) (said 3 0) = true ∧ (atQueue (cmd 2 [5])).pasidLive queue0.pasid = true := by decide +kernel
/-- PBIND takes the lowest free slot; a PASID in use is STATE, 0 is INVALID (R426, R503). -/
theorem test_pbind : good (exec .pbind (atCmd [] (cmd 3 [7, 0, 0x2000]))) (fun t => said 0 2 t && t.xlat.ctx.lookup 2 == some ⟨7, false, 1, 0, 0x2000, 0, 0, 0⟩) = true ∧
    good (exec .pbind (atCmd [] (cmd 3 [3, 0, 0x2000]))) (said 5 0) = true ∧ good (exec .pbind (atCmd [] (cmd 3 [0, 0, 0x2000]))) (said 1 0) = true ∧
    good (exec .pbind (atCmd [] (cmd 3 [2 ^ 20, 0, 0x2000]))) (said 1 0) = true := by decide +kernel
/-- The premises of PBIND. -/
theorem witness_pbind : let s := atCmd [] (cmd 3 [7, 0, 0x2000])
    s.readablePa 0x2000 4096 = true ∧ s.inLog 0x2000 = false ∧ s.ctxOf 7 = none ∧ s.ctxOf 3 ≠ none ∧
    leastBelow 4096 (fun i => (tget default s.xlat.ctx i).state == 0) = some 2 := by decide +kernel
/-- WINEN, WALLSET (R12, R350). -/
theorem test_winen_wallset : good (exec .winen (atCmd [] (cmd 6 [3, 5]))) (fun t => said 0 0 t && tget 0 t.xlat.winEn 3 == 5) = true ∧
    good (exec .winen (atCmd [] (cmd 6 [9, 5]))) (said 3 0) = true ∧ good (exec .winen (atCmd [] (cmd 6 [3, 16]))) (said 1 0) = true ∧
    good (exec .wallset (atCmd [] (cmd 7 [1, 2, 0, 0x4000, 3]))) (fun t => said 0 0 t && (t.core 129).wall && !(t.core 128).wall && t.tqe.spill.lookup 1 == some (0x4000, 3)) = true ∧
    good (exec .wallset (atCmd [] (cmd 7 [4, 2, 0, 0x4000, 3]))) (said 1 0) = true := by decide +kernel
/-- The premises of WINEN and WALLSET. -/
theorem witness_winen_wallset : (atCmd [] (cmd 6 [3, 5])).inTurn (cmd 6 [3, 5]) = true ∧ (atCmd [] (cmd 6 [3, 5])).pasidLive 3 = true ∧
    1 < (atCmd [] (cmd 7 [1, 2, 0, 0x4000, 3])).dies ∧ ownWindowVa 0x4000 = false := by decide +kernel
/-- A region of one 64 KiB page at 0x100000 of PASID 3, SCOPE 2, as R399 lays it out; PASID 3 maps VA 0 to 1 GiB onto PA 0. -/
def rdesc : List Byte := leBytes 8 0x100000 ++ leBytes 4 1 ++ leBytes 2 0 ++ leBytes 2 2 ++ leBytes 4 5 ++ leBytes 4 0 ++ leBytes 4 3 ++ leBytes 4 0
/-- The machine at RCREATE. -/
def atRegion : State :=
  let s := atCmd rdesc (cmd 8 [0x60000, 3])
  { s with xlat := { s.xlat with tlb := [⟨unitHost, .pasid 3, 0x60000, 12, 0x60000, true, true, false, true, false, true, [], []⟩] } }
/-- RCREATE makes region 0 and writes the RID into the descriptor; without a translation it is INVALID (R399, R400). -/
theorem test_rcreate : good (exec .rcreate atRegion) (fun t => said 0 0 t && (t.region 0).any fun g => g.pbase == 0x100000 && g.size == 1 && g.round == 5 && g.pasid == 3) = true ∧
    good (exec .rcreate (atCmd rdesc (cmd 8 [0x60000, 3]))) (said 1 0) = true ∧ good (exec .rcreate (atCmd rdesc (cmd 8 [0x60000, 9]))) (said 3 0) = true := by
  decide +kernel
/-- The premises of RCREATE. -/
theorem witness_rcreate : (match atRegion.xlateRange (pasidCx unitHost 3 4) .load 0x60000 32 with
    | (u, .ok pa) => !isLocal pa && (match u.imageAt pa 32 with
        | (v, some b) => !v.regionBad pa 3 b && leastBelow 1024 (fun i => (v.region i).isNone) == some 0
        | _ => false)
    | _ => false) = true := by decide +kernel
/-- RDESTROY takes the region away once no publish runs (R424). -/
theorem test_rdestroy : let s := atCmd [] (cmd 9 [7]); let r : Rounds := (withRegion (hm [])).rounds
    good (exec .rdestroy { s with rounds := r }) (fun t => said 0 0 t && (t.region 7).isNone) = true ∧ good (exec .rdestroy s) (said 3 0) = true ∧
    good (exec .rdestroy (State.modRegion { s with rounds := r } 7 fun g => { g with busy := true, queue := [.cspec 0] })) (fun t => t.agenda == [.rdestroy (cmd 9 [7])]) = true := by decide +kernel
/-- An endpoint image of PASID 3, port 0, as R445 lays it out: job 11, 16 receive slots of 256 bytes, event queue at 0x70000. -/
def edesc : List Byte :=
  leBytes 4 3 ++ leBytes 4 11 ++ [4, 1, 4, 0] ++ leBytes 4 1 ++ leBytes 16 9 ++ leBytes 8 0x4000 ++ leBytes 4 16 ++ leBytes 4 256 ++ leBytes 8 0 ++
    leBytes 8 0x70000 ++ leBytes 8 0x5000 ++ List.replicate 56 0
/-- The machine at EPCREATE, the page of the congestion table translated. -/
def atEp : State :=
  let s := atCmd edesc (cmd 10 [0x60000])
  { s with xlat := { s.xlat with tlb := [⟨unitNet, .pasid 3, 0x5000, 12, 0x9000, true, true, false, true, false, true, [], []⟩] } }
/-- EPCREATE makes LEP 0; a misaligned image is INVALID, a PASID that is not live NOTFOUND (R443, R445). -/
theorem test_epcreate : good (exec .epcreate atEp) (fun t => said 0 0 t && t.net.eps.lookup 0 == some (epOf edesc [0x9000])) = true ∧
    good (exec .epcreate (atCmd edesc (cmd 10 [0x60008]))) (said 1 0) = true ∧ good (exec .epcreate (atCmd (edesc.set 0 9) (cmd 10 [0x60000]))) (said 3 0) = true ∧
    good (exec .epcreate (atCmd edesc (cmd 10 [0x60000]))) (said 1 0) = true := by decide +kernel
/-- The premises of EPCREATE. -/
theorem witness_epcreate : (match atEp.imageAt 0x60000 128 with
    | (u, some b) => field b 0 4 == 3 && u.pasidStatus 3 == 0 && (field b 9 1 &&& (255 - u.vpcap.toNat / 2 ^ 16 % 2 ^ 8)) == 0 && !u.epBad b (epOf b []) &&
        leastBelow 4096 (fun i => (u.net.eps.lookup i).isNone) == some 0 && (State.pagePas (pasidCx unitNet 3 4) 1 0x5000 u).2 == some [0x9000]
    | _ => false) = true := by decide +kernel
/-- Endpoint 0 of PASID 3 with one peer at index 0. -/
def ep0 : Ep := { epOf edesc [0x9000] with }
def peer0 : Peer := { (default : Peer) with rfep := 9, rlep := 2, fam := 4, cc := 1, ent := 1 }
def netted (e : Ev) : State :=
  let s := sysOn e
  { s with net := { s.net with eps := [(0, ep0)], peers := [(0, peer0)], wins := [(1, ⟨0x5000, 0x2000, true, true⟩)] } }
/-- The same at a command. -/
def netCmd (c : MCmd) (b : List Byte) : State := let s := atCmd b c; { s with net := (netted .idle).net }
/-- A peer image as R446 lays it out. -/
def pdesc : List Byte := leBytes 16 7 ++ [4, 0, 1, 3] ++ leBytes 2 8 ++ leBytes 2 5 ++ leBytes 8 0
/-- EPDESTROY, PEERSET, NWINREG (R446, R447, R503). -/
theorem test_endpoints : good (exec .epdestroy (netCmd (cmd 11 [0]) [])) (fun t => said 0 0 t && t.net.eps.isEmpty && t.net.peers.isEmpty && t.net.wins.isEmpty) = true ∧
    good (exec .epdestroy (netCmd (cmd 11 [1]) [])) (said 3 0) = true ∧
    good (exec .peerset (netCmd (cmd 12 [0, 0, 0x60000]) pdesc)) (fun t => said 0 0 t && t.net.peers.lookup 0 == some ⟨7, 5, 4, 0, 1, 8, 3⟩) = true ∧
    good (exec .peerset (netCmd (cmd 12 [1, 0, 0x60000]) pdesc)) (said 3 0) = true ∧
    good (exec .nwinreg (netCmd (cmd 13 [0, 0x8000, 64, 2]) [])) (fun t => said 0 2 t && t.net.wins.lookup 2 == some ⟨0x8000, 64, false, true⟩) = true ∧
    good (exec .nwinreg (netCmd (cmd 13 [0, 0x8000, 64, 4]) [])) (said 1 0) = true ∧ good (exec .nwinreg (netCmd (cmd 13 [1, 0x8000, 64, 2]) [])) (said 3 0) = true := by
  decide +kernel
/-- Their premises. -/
theorem witness_endpoints : (netCmd (cmd 11 [0]) []).net.eps.lookup 0 = some ep0 ∧ (netCmd (cmd 11 [0]) []).pasidLive ep0.pasid = true ∧ 0 < ep0.npeer ∧
    peerBad pdesc (peerOf pdesc) = false ∧ (netCmd (cmd 12 [0, 0, 0x60000]) pdesc).net.msgs = [] ∧
    leastBelow 65535 (fun i => ((netCmd (cmd 13 []) []).net.wins.lookup (i + 1)).isNone) = some 1 := by decide +kernel
/-- HWINSET refuses KIND 3; PTPSET refuses a port that the part lacks; INFO and MEMINFO answer (R467, R472, R503). -/
theorem test_windows_info : good (exec .hwinset (atCmd [] (cmd 14 [5, 2]))) (fun t => said 0 0 t && t.host.win.lookup 5 == some 2) = true ∧
    good (exec .hwinset (atCmd [] (cmd 14 [5, 3]))) (said 1 0) = true ∧
    good (exec .ptpset (atCmd [] (cmd 15 [2, 9]))) (fun t => said 0 0 t && t.net.ptpcfg == (2, 9)) = true ∧ good (exec .ptpset (atCmd [] (cmd 15 [8, 9]))) (said 4 0) = true ∧
    good (exec .info (atCmd [] (cmd 19 []))) (fun t => t.fe.resp.lookup 3 == some (responseBytes 0 7 t.vpcap.toNat 0)) = true ∧
    good (exec .meminfo (atCmd [] (cmd 20 []))) (fun t => t.fe.resp.lookup 3 == some (responseBytes 0 7 0x60606060 0)) = true := by decide +kernel
/-- Their premises. -/
theorem witness_windows_info : (atCmd [] (cmd 15 [2, 9])).vpcap.toNat.testBit 18 = true ∧ (atCmd [] (cmd 15 [2, 9])).inTurn (cmd 15 [2, 9]) = true := by decide +kernel
/-- A policy of R485: one key, one measurement of index 1, one PASID, 3, and 2 GiB. -/
def policy3 : List Byte :=
  leBytes 8 (2 ^ 31) ++ [1, 1] ++ leBytes 2 1 ++ leBytes 4 0 ++ leBytes 32 5 ++ List.replicate 96 0 ++ leBytes 48 1 ++ List.replicate 720 0 ++ leBytes 4 3 ++
    List.replicate 1132 0
/-- A policy that follows R485; no key breaks it. -/
theorem test_policy : policyBad policy3 = false ∧ policyBad (policy3.set 8 0) = true ∧ policyPasids policy3 = [3] := by decide +kernel
/-- GPOLICY is INVALID for an image that cannot be read or is misaligned; GGRANT grants in BOUND, and is STATE in UNBOUND (R484). -/
theorem test_guest_commands : good (exec .gpolicy (atCmd [] (cmd 16 [0x60008]))) (said 1 0) = true ∧ good (exec .gpolicy (atCmd [] (cmd 16 [2 ^ 51]))) (said 1 0) = true ∧
    good (exec .ggrant (let s := atCmd [] (cmd 17 [3, 1]); { s with guest := { s.guest with state := 2 } })) (fun t => said 0 0 t && t.guest.grants == [3]) = true ∧
    good (exec .ggrant (atCmd [] (cmd 17 [3, 1]))) (said 5 0) = true ∧ good (exec .gpolicy { atCmd [] (cmd 16 [0]) with part := .vp920 }) (said 4 0) = true := by decide +kernel
/-- The machine at GPOLICY with the non-zero bytes of the policy. -/
def atPolicy : State :=
  { atCmd [] (cmd 16 [0x60000]) with mem := memPut 0x60000 (leBytes 12 (2 ^ 31 + 2 ^ 64 + 2 ^ 72 + 2 ^ 80)) (memPut 0x60010 [5] (memPut 0x60090 [1] (memPut 0x60390 [3] []))) }
/-- GPOLICY of the policy (R484, R485). -/
theorem test_gpolicy : good (exec .gpolicy atPolicy) (fun t => said 0 0 t && t.guest.pol && t.guest.state == 0 && policyPasids t.guest.policy == [3]) = true := by decide +kernel
/-- SELFTEST quarantines the core; a die that is absent is ABSENT (R503, R514). -/
theorem test_selftest : good (exec .selftest (atCmd [] (cmd 18 [1, 2]))) (fun t => (t.core 130).quar && (t.core 130).selftest && t.fe.cmds.length == 1) = true ∧
    good (exec .selftest { atCmd [] (cmd 18 [2, 2]) with part := .vp920 }) (said 4 0) = true ∧ good (exec .selftest (atCmd [] (cmd 18 [4, 2]))) (said 1 0) = true := by decide +kernel
/-- A command whose object an earlier one names is not in turn (R505). -/
theorem witness_not_in_turn : let c := cmd 6 [3, 5]; let s := sysCmds [cmd 4 [3], c] (.winen c)
    s.inTurn c = false ∧ good (exec .winen s) (fun t => t.agenda == [.winen c]) = true := by decide +kernel

/-! ### Network events (R443 to R467) -/

/-- A packet of a write of 4,100 bytes to window 1 at 0x5000. -/
def wpkt : NetPkt := { (default : NetPkt) with lep := 0, initiator := 77, job := 11, mid := 4, kind := 1, npkt := 2, psn := 1, len := 4100, rkey := 1, rva := 0x5000, payload := [1, 2, 3, 4] }
/-- The same endpoint where PASID 3 has the translations of its window. -/
def netTlb (e : Ev) : State :=
  let s := netted e
  { s with xlat := { s.xlat with tlb := [⟨unitNet, .pasid 3, 0x5000, 12, 0x9000, true, true, false, true, false, true, [], []⟩,
      ⟨unitNet, .pasid 3, 0x6000, 12, 0xA000, true, true, false, true, false, true, [], []⟩] } }
/-- NET_PACKET_RX: another job is dropped and counted, a range outside the window refused with code 20, else the packet is placed (R443, R447, R457). -/
theorem test_packet_rx : good (exec .netPacketRx (netted (.netPacketRx { wpkt with job := 12 }))) (fun t => (t.net.eps.lookup 0).any (fun e => e.jobdrops == 1) && t.net.acks.isEmpty) = true ∧
    good (exec .netPacketRx (netted (.netPacketRx { wpkt with rkey := 2 }))) (fun t => t.net.acks == [[3, 0, 77, 4, 20]]) = true ∧
    good (exec .netPacketRx (netTlb (.netPacketRx wpkt))) (fun t => t.net.acks == [[0, 0, 77, 4, 1]] && memNat t.mem 0xA000 4 == 0x04030201 &&
      (t.rxOf wpkt).any fun r => r.placed == [1] && !r.fired) = true ∧
    good (exec .netPacketRx (netTlb (.netPacketRx { wpkt with npkt := 1, psn := 0, len := 4 }))) (fun t => t.net.acks == [[0, 0, 77, 4, 0], [3, 0, 77, 4, 0]]) = true := by decide +kernel
/-- NET_READ_REQUEST is answered with data packets (R453). -/
theorem test_read_request : good (exec .netReadRequest { netTlb (.netReadRequest { wpkt with kind := 2, psn := 0, len := 4 }) with mem := memPut 0x9000 [9, 8, 7, 6] [] })
      (fun t => t.net.sent.map (fun q => (q.target, q.psn, q.payload)) == [(77, 0, [9, 8, 7, 6])]) = true ∧
    good (exec .netReadRequest (netted (.netReadRequest { wpkt with kind := 2, rkey := 2 }))) (fun t => t.net.acks == [[3, 0, 77, 4, 20]]) = true ∧
    good (exec .netReadRequest (netted (.netReadRequest { wpkt with kind := 2, job := 2 }))) (fun t => (t.net.eps.lookup 0).any fun e => e.jobdrops == 1) = true := by decide +kernel
/-- The premises about packets. -/
theorem witness_packets : (netTlb .idle).net.eps.lookup 0 = some ep0 ∧ ep0.job = wpkt.job ∧ ((netTlb .idle).ctxOf ep0.pasid).any (fun x => x.2.state == 1) = true ∧
    (netTlb .idle).rxOf wpkt = none ∧ (netTlb .idle).windowOk wpkt true = true ∧ (netTlb .idle).windowOk { wpkt with rkey := 2 } true = false ∧
    (netTlb .idle).windowOk wpkt false = true ∧
    (match (netTlb .idle).writeVa ep0.cx 0x6000 wpkt.payload with | (_, .ok ()) => true | _ => false) = true ∧
    (match (netTlb .idle).xlateAll ep0.cx .load 0x5000 4 with
      | (u, .ok ps) => ps.all (fun q => !u.readSensitive q.1) && (match u.readVa ep0.cx 0x5000 4 with | (_, .ok b) => b.length == 4 | _ => false)
      | _ => false) = true := by decide +kernel
/-- Message 3 of hart 0 to peer 0: a write of two packets; the congestion table of this microsecond is written. -/
def sending (e : Ev) (st code : Nat) (acked : List Nat) : State :=
  let s := netted e
  { s with net := { s.net with ctlast := [(0, 1)], msgs := [(3, { (default : Msg) with tag := 4, kind := 1, len := 4100, rva := 0x40, state := st, code := code, acked := acked, buf := List.replicate 8 1 })] } }
/-- The same without its endpoint: the records, whose free values the kernel does not evaluate, have nowhere to go. -/
def bare (s : State) : State := { s with net := { s.net with eps := [] } }
/-- NET_ACK, NET_NACK, NET_RETRANSMIT_TIMER, NET_COMPLETION_ACK, NET_TIMEOUT (R456, R460, R461, R463). -/
theorem test_initiator : good (exec .netAck (sending (.netAck 3 1) 2 0 [])) (fun t => (t.net.msgs.lookup 3).any fun m => m.acked == [1]) = true ∧
    good (exec .netAck (sending (.netAck 3 1) 2 0 [1])) (fun t => (t.net.msgs.lookup 3).any fun m => m.acked == [1]) = true ∧
    good (exec .netNack (sending (.netNack 3 0 true) 2 0 [])) (fun t => t.net.sent.map (fun q => (q.psn, q.mid, q.kind, q.lep, q.rva)) == [(0, 3, 1, 2, 0x40)] && tget 0 t.net.retx 0 == 1) = true ∧
    good (exec .netRetransmitTimer (sending (.netRetransmitTimer 3 0) 2 0 [])) (fun t => t.net.sent.length == 1) = true ∧
    good (exec .netRetransmitTimer (sending (.netRetransmitTimer 3 0) 2 0 [0])) (fun t => t.net.sent.isEmpty) = true ∧
    good (exec .netCompletionAck (sending (.netCompletionAck 3 0) 2 0 [0, 1])) (fun t => t.net.msgs.isEmpty && t.net.fails.isEmpty) = true ∧
    good (exec .netCompletionAck (bare (sending (.netCompletionAck 3 20) 2 0 [0, 1]))) (fun t => t.net.msgs.isEmpty && t.net.fails == [(2 ^ 64, 4, 20)]) = true ∧
    good (exec .netTimeout (bare (sending (.netTimeout 3) 2 23 []))) (fun t => t.net.fails == [(2 ^ 64, 4, 23)]) = true ∧
    good (exec .netTimeout (bare (sending (.netTimeout 3) 2 0 []))) (fun t => t.net.fails == [(2 ^ 64, 4, 24)]) = true := by decide +kernel
/-- The premises about messages. -/
theorem witness_messages : ((sending .idle 2 0 []).net.msgs.lookup 3).any (fun m => m.state == 2 && m.kind == 1 && m.npkt == 2 && m.inst == none && m.acked.length != m.npkt &&
      ((sending .idle 2 0 []).net.peers.lookup (m.lep * 65536 + m.peer)).any (fun p => p.mode != 2) && ((sending .idle 2 0 []).net.eps.lookup m.lep).isSome) = true ∧
    ((sending .idle 1 0 []).net.msgs.lookup 3).any (fun m => m.state == 1) = true := by decide +kernel
/-- A probe is answered from the message's state (R461). -/
theorem test_probe : let s := netted (.probe 0 77 4)
    good (exec .probe { s with net := { s.net with rx := [⟨0, 77, 4, [1, 0], none, true, 0⟩] } }) (fun t => t.net.acks == [[3, 0, 77, 4, 0]]) = true ∧
    good (exec .probe { s with net := { s.net with rx := [⟨0, 77, 4, [1], none, false, 0⟩] } }) (fun t => t.net.acks == [[0, 0, 77, 4, 1]]) = true ∧
    good (exec .probe s) (fun t => t.net.acks.isEmpty) = true := by decide +kernel
/-- PTP_EVENT keeps the offset and clamps the rate to 500 ppm (R467). -/
theorem test_ptp : good (exec .ptpEvent { State.reset with ev := .ptpEvent 1 77 501 }) (fun t => tget 0 t.net.ptp 1 == 77 && tget 0 t.net.ppm 1 == 500) = true ∧
    good (exec .ptpEvent { State.reset with ev := .ptpEvent 1 77 (2 ^ 64 - 3) }) (fun t => tget 0 t.net.ppm 1 == 2 ^ 64 - 3) = true := by decide +kernel

/-! ### Host events (R470 to R480) -/

/-- Queue 5 stands, and an event comes from the host. -/
def hosted (e : Ev) : State := { withQueue queue0 (hm []) with ev := e }
/-- HOST_PUT: taken with RESULT 0; without a PASID, or with another than the queue's, discarded with a record; an unknown queue changes nothing (R476, R477). -/
theorem test_host_put : good (exec .hostPut (hosted (.hostPut 5 0 0 70 (some 0) image0.bytes))) (fun t => t.host.result == [(70, 0, 0)] && (t.qpart 5 0).seq == 1) = true ∧
    good (exec .hostPut (hosted (.hostPut 5 0 0 70 (some 4) image0.bytes))) (fun t => t.host.result == [(70, 4, 2)] && (t.qpart 5 0).seq == 0) = true ∧
    good (exec .hostPut (hosted (.hostPut 5 0 8 70 (some 0) image0.bytes))) (fun t => t.host.result == [(70, 0, 2)]) = true ∧
    good (exec .hostPut (hosted (.hostPut 6 0 0 70 (some 0) image0.bytes))) (fun t => t.host.result == []) = true := by decide +kernel
/-- PUT_RESULT_READ answers the held result, or 3 (R476). -/
theorem test_put_result : let s := hosted (.putResultRead 5 0 70 (some 0))
    good (exec .putResultRead { s with host := { s.host with result := [(70, 0, 8)] } }) (fun t => t.host.answer == [[4, 5, 0, 70, 8]]) = true ∧
    good (exec .putResultRead s) (fun t => t.host.answer == [[4, 5, 0, 70, 3]]) = true := by decide +kernel
/-- The premises of host puts. -/
theorem witness_host_put : (hosted .idle).queue 5 = some queue0 ∧ image0.bytes.length = 64 ∧ queue0.pasid = 0 ∧
    (match (hosted .idle).offer 5 queue0 0 (imageOf image0.bytes) false with | (_, .taken n) => n == 0 | _ => false) = true := by decide +kernel
/-- BAR4 reads and writes GDDR7, and nothing behind an uninstalled address (R470). -/
theorem test_bar4 : good (exec .hostBar4Read { State.reset with ev := .hostBar4Read 0x100 4, mem := memPut 0x100 [1, 2, 3, 4] [] }) (fun t => t.host.answer == [[3, 0, 0x04030201]]) = true ∧
    good (exec .hostBar4Read { State.reset with ev := .hostBar4Read (5 * 2 ^ 40) 4 }) (fun t => t.host.answer == [[3, 1, 0]]) = true ∧
    good (exec .hostBar4Write { State.reset with ev := .hostBar4Write 0x100 [9, 8] }) (fun t => memNat t.mem 0x100 2 == 0x0809) = true ∧
    good (exec .hostBar4Write { State.reset with ev := .hostBar4Write (5 * 2 ^ 40) [9, 8] }) (fun t => t.host.answer == [[3, 1, 0]] && t.mem == []) = true := by decide +kernel
/-- HOST_ATOMICOP: FetchAdd, CAS; Unsupported Request on BAR2 or misaligned, Completer Abort in a round region (R471). -/
theorem test_atomicop : let s : State := { State.reset with mem := memPut 0x100 [5] [] }
    good (exec .hostAtomicop { s with ev := .hostAtomicop 4 0x100 0 4 3 0 }) (fun t => memNat t.mem 0x100 4 == 8 && t.host.answer == [[5, 0, 5]]) = true ∧
    good (exec .hostAtomicop { s with ev := .hostAtomicop 4 0x100 10 8 5 9 }) (fun t => memNat t.mem 0x100 8 == 9 && t.host.answer == [[5, 0, 5]]) = true ∧
    good (exec .hostAtomicop { s with ev := .hostAtomicop 2 0x100 0 4 3 0 }) (fun t => t.host.answer == [[5, 1, 0]]) = true ∧
    good (exec .hostAtomicop { s with ev := .hostAtomicop 4 0x102 0 4 3 0 }) (fun t => t.host.answer == [[5, 1, 0]]) = true ∧
    good (exec .hostAtomicop (regional (.hostAtomicop 4 0x100000 0 4 3 0))) (fun t => t.host.answer == [[5, 2, 0]]) = true := by decide +kernel
/-- The premises of BAR4 accesses. -/
theorem witness_bar4 : State.reset.bar4Ok 0x100 4 = true ∧ State.reset.bar4Ok (5 * 2 ^ 40) 4 = false ∧ State.reset.inRegion 0x100 = false ∧
    (State.reset.loadLines noNode 0x100 4).poisoned 0x100 4 = false := by decide +kernel
/-- The first line of host memory, COH, and a hart that waits for the host. -/
def hostLine : Nat := 2 ^ 37
def cohHost (hs : Nat) (e : Ev) : State :=
  { on { hu [] with wait := some (.host 0x100000000000 0x1234 0 8 3 0 5) } with
    ev := e, mem := memPut 0x100000000000 [7] []
    host := { State.reset.host with win := [(0, 1)], hs := [(hostLine, hs)] } }
/-- Snoops return the line where the device holds it, and end or lower its hold; where it holds nothing they say so (R474). -/
theorem test_snoops : good (exec .snpinv (cohHost 2 (.snpinv hostLine))) (fun t => t.host.answer == [[6, hostLine, 1, 7]] && t.outer hostLine == 0) = true ∧
    good (exec .snpdata (cohHost 2 (.snpdata hostLine))) (fun t => t.host.answer == [[6, hostLine, 1, 7]] && t.outer hostLine == 1) = true ∧
    good (exec .snpcur (cohHost 2 (.snpcur hostLine))) (fun t => t.host.answer == [[6, hostLine, 1, 7]] && t.outer hostLine == 2) = true ∧
    good (exec .snpinv (cohHost 0 (.snpinv hostLine))) (fun t => t.host.answer == [[6, hostLine, 0]]) = true ∧
    good (exec .snpdata (cohHost 0 (.snpdata hostLine))) (fun t => t.host.answer == [[6, hostLine, 0]]) = true ∧
    good (exec .snpcur (cohHost 0 (.snpcur hostLine))) (fun t => t.host.answer == [[6, hostLine, 0]]) = true := by decide +kernel
/-- A line of the host that node 3 asks to read, in the LLC, its transaction in phase 2. -/
def hostAsked (ph : Nat) (e : Ev) : State :=
  let s := cohHost 0 e
  { s with coh := { s.coh with
      dir := [(hostLine, { Dir.unc with busy := true })], txn := [(hostLine, ⟨.gets 3, [], none, ph⟩)], llc := [(s.llcKey hostLine, [hostLine])] } }
/-- HOST_READ_COMPLETE grants the copy and the request goes on (R474). -/
theorem test_host_read : good (exec .hostReadComplete (hostAsked 2 (.hostReadComplete hostLine false []))) (fun t => t.agenda == [.dataS 3 hostLine] && t.outer hostLine == 1) = true := by
  decide +kernel
/-- The premises of host answers. -/
theorem witness_host_read : (hostAsked 2 .idle).backing (hostLine * 128) = .host 0 ∧ (hostAsked 2 .idle).coh.txn.lookup hostLine = some ⟨.gets 3, [], none, 2⟩ ∧
    ((hostAsked 2 .idle).dir hostLine).st = 0 ∧ (hostAsked 2 .idle).inLlc hostLine = true ∧ (cohHost 2 .idle).outer hostLine = 2 ∧ (cohHost 0 .idle).outer hostLine = 0 ∧
    (cohHost 0 .idle).coh.txn.lookup hostLine = none ∧ ((cohHost 0 .idle).hart 0).wait = some (.host 0x100000000000 0x1234 0 8 3 0 5) := by decide +kernel
/-- An AtomicOp's completion wakes the hart; a time-out and a link that goes down are recorded (R475, R480). -/
theorem test_completions : good (exec .atomicopCompletion (cohHost 0 (.atomicopCompletion 0 true))) (fun t => ((t.hart 0).xr 5).toNat == 7 && (t.hart 0).wait == none && (t.hart 0).pc.toNat == 4) = true ∧
    good (exec .atomicopCompletion (cohHost 0 (.atomicopCompletion 0 false))) (trapped 7 0x1234) = true ∧
    good (exec .completionTimeout (let s := cohHost 0 (.completionTimeout 0 0); { s with host := { s.host with atomics := [(0, 0x100000000000)] } })) (fun t => trapped 7 0x1234 t && t.mgmt.logn == 1) = true ∧
    good (exec .hostLinkDown (cohHost 0 (.hostLinkDown 1))) (fun t => t.host.down == [1] && t.mgmt.logn == 1) = true := by decide +kernel
/-- A machine whose mailbox slot 3 holds INFO. -/
def mailbox (st : Nat) (e : Ev) : State :=
  { State.reset with ev := e, fe := { State.reset.fe with state := st, cmdb := [(3, leBytes 2 0x13 ++ leBytes 2 0 ++ leBytes 4 7 ++ List.replicate 120 0)] } }
/-- DOORBELL puts the slot's command into the queue when READY; else it is dropped and counted; other writes fill the mailbox (R500, R501). -/
theorem test_doorbell : good (exec .doorbell (mailbox 2 (.doorbell 8 (leBytes 8 3)))) (fun t => t.fe.busy == [3] && t.fe.cmds.map (fun c => (c.op, c.tag)) == [(0x13, 7)] && t.agenda.length == 1) = true ∧
    good (exec .doorbell (mailbox 0 (.doorbell 8 (leBytes 8 3)))) (fun t => t.fe.drops == 1 && t.fe.cmds == []) = true ∧
    good (exec .doorbell (mailbox 2 (.doorbell 8 (leBytes 8 0x103)))) (fun t => t.fe.drops == 1) = true ∧
    good (exec .doorbell (mailbox 2 (.doorbell 0x10 (leBytes 8 0x4000)))) (fun t => t.fe.evbase == 0x4000 && t.bar2 0x11 == 0x40) = true ∧
    good (exec .doorbell (mailbox 2 (.doorbell 0x1300 [0x14]))) (fun t => ((t.fe.cmdb.lookup 3).getD []).head? == some 0x14) = true := by decide +kernel
/-- The command of a doorbell. -/
theorem witness_doorbell : (parseCmd (tget (List.replicate 128 0) (mailbox 2 .idle).fe.cmdb 3) 3 0 none).flags < 2 ∧
    (cmdEv (parseCmd (tget (List.replicate 128 0) (mailbox 2 .idle).fe.cmdb 3) 3 0 none)).isSome = true ∧ leNat (leBytes 8 3) % 256 = 3 := by decide +kernel

/-! ### The guest (R482 to R497) -/

/-- A guest in a state, with PASID 3 granted and 1 MiB of memory; instance 1 of it runs packet 9 of queue 5. -/
def guested (g : GuestSt → GuestSt) (e : Ev) : State :=
  { sysOn e with
    guest := g { State.reset.guest with state := 2, grants := [3], gsize := 0x100000, runs := [1] }
    tqe := { State.reset.tqe with
      queues := [(5, queue0)]
      insts := [(1, { (default : Inst) with iid := 1, pk := 9, guest := true, asked := true })]
      pkts := [(9, { (default : Pkt) with q := 5, img := image0, slices := 1, begun := true })] } }
/-- DONE ends the instance; one of an instance that was reported HUNG is discarded; of none that runs, or with a STATUS beyond 2, it isolates (R488, R497). -/
theorem test_guest_done : good (exec .guestDone (guested id (.guestDone 1 0 0))) (fun t => t.guest.runs == [] && (t.tqe.insts.lookup 1).isNone) = true ∧
    good (exec .guestDone (guested (fun g => { g with discard := [4] }) (.guestDone 4 0 0))) (fun t => t.guest.discard == [] && t.guest.runs == [1]) = true ∧
    good (exec .guestDone (guested id (.guestDone 8 0 0))) (fun t => t.guest.state == 3) = true ∧
    good (exec .guestDone (guested id (.guestDone 1 3 0))) (fun t => t.guest.state == 3) = true ∧
    good (exec .guestDone (guested (fun g => { g with state := 0 }) (.guestDone 8 0 0))) (fun t => t.guest.state == 0) = true := by decide +kernel
/-- SAVED puts the packet back as a resume entry (R489). -/
theorem test_guest_saved : good (exec .guestSaved (guested id (.guestSaved 1 0x99))) (fun t => t.guest.runs == [] && (t.tqe.insts.lookup 1).any (fun i => i.saved && i.gresume == 0x99) &&
      (t.qpart 5 0).ents.map (fun e => (e.work, e.inst)) == [(3, 1)]) = true ∧
    good (exec .guestSaved (guested id (.guestSaved 1 0))) (fun t => t.guest.state == 3) = true := by decide +kernel
/-- XREQ is answered; of a PASID that is not granted refused, with a record (R490). -/
theorem test_guest_xreq : good (exec .guestXreq { guested id (.guestXreq 3 8 0x5000 1) with mem := tables }) (fun t => t.guest.sent == [[6, 3, 8, 0, 30 * 256 + 3 * 65536]]) = true ∧
    good (exec .guestXreq (guested id (.guestXreq 3 8 0x5000 1))) (fun t => t.guest.sent == [[6, 3, 8, 0, 4]]) = true ∧
    good (exec .guestXreq (guested id (.guestXreq 4 8 0x5000 1))) (fun t => t.guest.sent == [[6, 4, 8, 0, 6]] && t.mgmt.logn == 1) = true := by decide +kernel
/-- INVACK completes its invalidation (R491); PSTOPACK a stop, unless an instance of the PASID runs (R496). -/
theorem test_guest_acks : (let s := guested id (.guestInvack 3 8)
      good (exec .guestInvack { s with xlat := { s.xlat with invals := [⟨8, some 3, none, 0x1000, 4096, none, true⟩], tlb := [⟨unitGuest, .pasid 3, 0x1000, 12, 0x8000, true, true, false, true, false, true, [], []⟩] } })
        (fun t => t.xlat.invals == [] && t.xlat.tlb == [] && t.host.answer.length == 1)) = true ∧
    good (exec .guestPstopack (guested (fun g => { g with pstops := [(3, 8)], runs := [] }) (.guestPstopack 3 8))) (fun t => t.guest.pstops == [] && t.guest.state == 2) = true ∧
    good (exec .guestPstopack (guested (fun g => { g with pstops := [(0, 8)] }) (.guestPstopack 0 8))) (fun t => t.guest.state == 3) = true ∧
    good (exec .guestPstopack (guested id (.guestPstopack 3 8))) (fun t => t.guest.state == 3) = true := by decide +kernel
/-- FIRE is acknowledged: 0 where it was performed, 1 where it is refused (R492). -/
theorem test_guest_fire : good (exec .guestFire (guested id (.guestFire 3 8 0))) (fun t => t.guest.sent == [[0xC, 3, 8, 0]]) = true ∧
    good (exec .guestFire (guested id (.guestFire 3 8 7))) (fun t => t.guest.sent == [[0xC, 3, 8, 1]]) = true ∧
    good (exec .guestFire (guested id (.guestFire 4 8 0))) (fun t => t.guest.sent == [[0xC, 4, 8, 1]] && t.mgmt.logn == 1) = true := by decide +kernel
/-- The hub ATC holds page 0x8000 of PASID 3. -/
def ported (e : Ev) : State :=
  let s := guested id e
  { s with xlat := { s.xlat with tlb := [⟨unitGuest, .pasid 3, 0x1000, 12, 0x8000, true, false, false, true, false, true, [], []⟩] } }
/-- The coherent port: a covered read asks the home; without rights it is refused with a record; an unknown kind isolates (R490, R497). -/
theorem test_guest_port : good (exec .guestCohRequest (ported (.guestCohRequest 0 3 0x8000 0 0 0 0 []))) (fun t => t.ns guestPort 0x100 == .s) = true ∧
    good (exec .guestCohRequest (ported (.guestCohRequest 1 3 0x8000 0 0 0 0 []))) (fun t => t.mgmt.logn == 1 && t.ns guestPort 0x100 == .i) = true ∧
    good (exec .guestCohRequest (ported (.guestCohRequest 9 3 0x8000 0 0 0 0 []))) (fun t => t.guest.state == 3) = true := by decide +kernel
/-- The first line of the guest's memory, which node 3 asks to read. -/
def guestAsked (e : Ev) : State :=
  let s := guested id e
  let l := 0x300000000000 / 128
  { s with coh := { s.coh with dir := [(l, { Dir.unc with busy := true })], txn := [(l, ⟨.gets 3, [], none, 3⟩)], llc := [(s.llcKey l, [l])] } }
/-- HOME_ANSWER lets the request go on; a duty whose limit passes while it is owed isolates (R494, R495). -/
theorem test_guest_home : good (exec .guestHomeAnswer (guestAsked (.guestHomeAnswer 0x6000000000 1 []))) (fun t => t.agenda == [.dataS 3 0x6000000000]) = true ∧
    good (exec .guestDutyTimeout (guested (fun g => { g with pstops := [(3, 8)] }) (.guestDutyTimeout 2))) (fun t => t.guest.state == 3) = true ∧
    good (exec .guestDutyTimeout (guestAsked (.guestDutyTimeout 2))) (fun t => t.guest.state == 2) = true ∧
    good (exec .protocolError (guested id (.protocolError 1))) (fun t => t.guest.state == 3) = true := by decide +kernel
/-- The premises about the guest. -/
theorem witness_guest : (guested id .idle).gbnd = true ∧ (guested (fun g => { g with state := 0 }) .idle).gbnd = false ∧ (guested id .idle).guestRunsOf 0 = true ∧
    (guested id .idle).guestRunsOf 3 = false ∧ (ported .idle).hubCovers 3 0x8000 (true, false) = true ∧ (ported .idle).cached 0x8000 = true ∧
    (ported .idle).ns guestPort (lineOf 0x8000) = .i ∧ (guestAsked .idle).backing (0x6000000000 * 128) = .guest 0 ∧ (guestAsked .idle).inLlc 0x6000000000 = true ∧
    (guestAsked .idle).dutyOwed 5 = true ∧ (guested id .idle).dutyOwed 2 = false ∧ cspecBad 7 = true ∧ queue0.state < 2 := by decide +kernel
/-- Attestation: it starts in UNBOUND, passes to BOUND with the policy's grants, fails to UNBOUND with a record (R484). -/
theorem test_attestation : good (exec .attestStart { State.reset with ev := .attestStart }) (fun t => t.guest.state == 1 && t.guest.sent == [[0x10, 0, 0]]) = true ∧
    good (exec .attestStart (guested id .attestStart)) (fun t => t.guest.state == 2) = true ∧
    good (exec .guestSpdm { State.reset with ev := .guestSpdm 0, guest := { State.reset.guest with state := 1, pol := true, policy := leBytes 8 (2 ^ 31) } })
      (fun t => t.guest.state == 2 && t.guest.gsize == 2 ^ 31 && t.guest.grants == []) = true ∧
    good (exec .guestSpdm { State.reset with ev := .guestSpdm 4, guest := { State.reset.guest with state := 1, pol := true } }) (fun t => t.guest.state == 0 && t.mgmt.logn == 1) = true := by decide +kernel

/-! ### The board (R504, R508 to R522) -/

/-- LANE_CHECK_FAIL quarantines the core of a hart that runs a block (R512). -/
theorem test_lane_check : let s := { on { hu [] with biq := [Biq.new] } with ev := .laneCheckFail 0 1 3 2 }
    good (exec .laneCheckFail s) (fun t => (t.core 0).quar && decide (0 < t.mgmt.logn)) = true ∧ (s.hart 0).running ≠ none ∧
    good (exec .laneCheckFail { s with harts := [(0, hu [])] }) (fun t => !(t.core 0).quar && t.mgmt.logn == 0) = true := by decide +kernel
/-- A quarantined core, with its test's results. -/
def tested (fails lanes : List Nat) (hs : Tab Hart) : State :=
  { State.reset with ev := .selftestDone 130 fails lanes, harts := hs, cores := [(130, { (default : Core) with quar := true, selftest := true })] }
/-- SELFTEST_DONE: all passed, the core returns; a lasting lane is disabled; a unit that it cannot do without takes it offline (R513, R514). -/
theorem test_selftest_done : good (exec .selftestDone (tested [] [] [])) (fun t => !(t.core 130).quar && !(t.core 130).selftest && t.mgmt.logn == 1) = true ∧
    good (exec .selftestDone (tested [] [0, 2] [])) (fun t => (t.core 130).lanedis == 2 && !(t.core 130).quar) = true ∧
    good (exec .selftestDone (tested [3] [] [])) (fun t => (t.core 130).quar && t.mgmt.offline == [130]) = true ∧
    good (exec .selftestDone { tested [] [] [] with cores := [] }) (fun t => t.mgmt.logn == 0) = true := by decide +kernel
/-- The premises of SELFTEST_DONE: no instance is left on the core, or one is. -/
theorem witness_selftest : (tested [] [] []).busyHarts 130 = [] ∧ ((tested [] [] []).core 130).quar = true ∧
    (tested [] [] [(130 * 8, { hu [] with inst := some 1 })]).busyHarts 130 ≠ [] := by decide +kernel
/-- PACKAGE_RESET without images fails bring-up; host memory keeps its contents, the device's does not (R508, R517). -/
theorem test_package_reset : good (exec .packageReset { withRegion (hm []) with ev := .packageReset, mem := memPut 0x100 [5] (memPut 0x100000000000 [6] []) })
      (fun t => t.fe.state == 3 && t.rounds.regions.isEmpty && t.harts.isEmpty && memGet t.mem 0x100 == 0 && memGet t.mem 0x100000000000 == 6) = true := by decide +kernel
/-- DIERST takes a severed die back; GSTRST unbinds (R517). -/
theorem test_resets : (let s := { on (hm [(5, 1)]) with ev := .dierst 0 }
      good (exec .dierst { s with coh := { s.coh with severed := [0] } }) (fun t => t.coh.severed == [] && t.hart 0 == Hart.init)) = true ∧
    good (exec .dierst { on (hm [(5, 1)]) with ev := .dierst 0 }) (fun t => (t.hart 0).xr 5 == 1) = true ∧
    good (exec .gstrst (guested id .gstrst)) (fun t => t.guest.state == 0 && t.guest.runs == []) = true ∧
    good (exec .gstrst (guested (fun g => { g with state := 3 }) .gstrst)) (fun t => t.guest.state == 0) = true := by decide +kernel
/-- Power and temperature (R521, R522). -/
theorem test_power : good (exec .plimSet { State.reset with ev := .plimSet 600 }) (fun t => t.mgmt.plim == 600) = true ∧
    good (exec .plimSet { State.reset with ev := .plimSet 599 }) (fun t => t.mgmt.plim == 1800) = true ∧
    good (exec .thermalThrottle { State.reset with ev := .thermalThrottle 1 }) (fun t => t.cclk 1 == 1900 && t.cclk 0 == 2000) = true ∧
    good (exec .throttleRecover (({ State.reset with ev := .throttleRecover 1 } : State).setCclk 1 1000)) (fun t => t.cclk 1 == 1100) = true ∧
    good (exec .thermalThrottle (({ State.reset with ev := .thermalThrottle 1 } : State).setCclk 1 1000)) (fun t => t.cclk 1 == 1000) = true ∧
    good (exec .thermtrip { State.reset with ev := .thermtrip 1 }) (fun t => t.mgmt.tripped == [1] && t.coh.severed == [1]) = true := by decide +kernel
/-- The SM3 digest of "abc", as GB/T 32905 prints it. -/
theorem test_sm3 : leBytes 32 (sm3 [0x61, 0x62, 0x63]) = (leBytes 32 0x66C7F0F462EEEDD9D1F2D46BDC10E4E24167C4875CF2F7A2297DA02B8F4BA8E0).reverse := by decide +kernel
/-- A measurement that R520 names is answered; another number is not. -/
theorem test_spdm : good (exec .spdmRequest { State.reset with ev := .spdmRequest 3 }) (fun t => t.host.answer.map (·.take 2) == [[8, 3]]) = true ∧
    good (exec .spdmRequest { State.reset with ev := .spdmRequest 6 }) (fun t => t.host.answer == []) = true := by decide +kernel
/-- A supervisor's call of function `n` with a command at 0x60000. -/
def calling (n a0 : Nat) : State :=
  { on { hartX .s [(10, BitVec.ofNat 64 a0), (16, BitVec.ofNat 64 n), (17, 0x0B500000)] with csr := [(0x300, 0)] } with mem := memPut 0x60000 (leBytes 2 0x13) [] }
/-- SUBMIT waits and returns the status, POST enters the queue at once, REPORT answers; from U the call is cause 8, a bad PA INVALID (R504). -/
theorem test_ecall : good (exec .ecallSubmit (calling 0 0x60000)) (fun t => t.me.wait == some .submit && t.fe.cmds.length == 1) = true ∧
    good (exec .ecallSubmit ((calling 0 0x60000).modMe fun h => { h with wait := some .submit })) (fun t => t.me.wait == some .submit && t.fe.cmds == []) = true ∧
    good (exec .ecallSubmit (calling 0 0x60001)) (fun t => (t.me.xr 10).toNat == 1) = true ∧
    good (exec .ecallPost (calling 1 0x60000)) (fun t => (t.me.xr 10).toNat == 0 && t.fe.cmds.length == 1 && t.me.pc.toNat == 4) = true ∧
    good (exec .ecallReport (calling 2 0)) (fun t => (t.me.xr 10).toNat == 0 && t.me.pc.toNat == 4) = true ∧
    good (exec .ecallSubmit ((calling 0 0).modMe fun h => { h with priv := .u })) (trapped 8 0) = true ∧
    good (exec .ecallSubmit ((calling 0 0).modMe fun h => { h with priv := .m })) (trapped 11 0) = true ∧
    good (exec .ecallSubmit (calling 3 0)) (fun t => (t.me.xr 10).toNat == 1) = true := by decide +kernel
/-- The premises of the calls. -/
theorem witness_ecall : (calling 0 0x60000).me.priv = .s ∧ ((calling 0 0x60000).x 17).toNat = 0x0B500000 ∧ (calling 0 0x60000).backing 0x60000 = .gddr 0 ∧
    (calling 0 0x60000).fe.cmds.length < 320 ∧ ((calling 0 0x60000).fe.cmds.length < 320) := by decide +kernel

/-! ### The machine (R3, R30, R87) -/

/-- Hart 9 at reset, with `csrr x5, mhartid` placed for the next step. -/
def placed : State := ({ State.reset with cur := 9 } : State).withFetchWord 32 0xF14022F3
/-- The step runs it; so it does a word of the standard base, `addi x5, x0, 7` (log entry 15). -/
theorem test_step_runs : good (step placed) (fun t => (t.hart 9).xr 5 == 9 && (t.hart 9).pc == Hart.init.pc + 4) = true ∧
    good (step (State.reset.placeHart 0x00700293)) (fun t => (t.hart 0).xr 5 == 7 && (t.hart 0).pc == Hart.init.pc + 4) = true := by decide +kernel
/-- Memory is canonical at reset and after that step. -/
theorem witness_memory : Safety.memOk State.reset = true ∧ Safety.memOk placed = true ∧ good (step placed) Safety.memOk = true := by decide +kernel
/-- That step meets the premises of a hart's turn. -/
theorem witness_step : let s := placed
    (match s.turns with
      | .hart h :: rest =>
        let u : State := { s with turns := rest, cur := h }
        u.runs h && !u.stopsHere h && !(u.me.preempt.any fun p => p.stopped) && u.me.save.isNone && u.me.resume.isNone &&
          (turnStart u).boundaryTrap.isNone && !u.me.wait.any Wait.asleep &&
          (match (turnStart u).fetchWord with
            | (s1, .ok (w, n)) => n == 4 && ((decodeHart w).any fun i => (({ s1 with ilen := 4 } : State).heldUp i).isNone)
            | _ => false)
      | _ => false) = true := by decide +kernel
/-- A due event and a chosen firing are run by their turns. -/
theorem test_turns : good (step { State.reset with turns := [.event 0], agenda := [.plimSet 700] }) (fun t => t.mgmt.plim == 700 && t.agenda == []) = true ∧
    good (step { State.reset with turns := [.input (.thermalThrottle 0)] }) (fun t => t.cclk 0 == 1900) = true ∧
    good (step { on { Hart.init with biq := [one 2 2 (.add (fa 0)) [vec [1, 2], vec [3, 4]]], grant := [0] } with turns := [.block 0] })
      (fun t => (t.entry 0 0).any fun b => b.toks.lookup 16 == some (vec [4, 6])) = true ∧ (Ev.thermalThrottle 0).outside = true ∧
    good (step { on { Hart.init with biq := [one 2 2 (.add (fa 0)) [vec [1, 2], vec [3, 4]]], grant := [0] } with turns := [.fire 0 0 3 [0]] })
      (fun t => (t.entry 0 0).any fun b => b.toks.lookup 16 == some (vec [4, 6])) = true := by decide +kernel
/-- Reset leaves what R87 to R92, R500 and R508 say. -/
theorem test_reset : ((State.reset.hart 9).cs csrVl).toNat = 0 ∧ (State.reset.hart 9).biq = [] ∧ State.reset.fe.state = 0 ∧ State.reset.xlat.ctx = [] := by decide

end Sys2Proof.Tests
end

section
/-! PROOF. Taking an exception: the executing hart is the one that trapped, in M-mode on a compute hart too. -/

namespace Sys2Proof.Machine

/-! ### Records and events leave the executing hart -/

theorem State.me_eq_of_harts_cur {s t : State} (hh : t.harts = s.harts) (hc : t.cur = s.cur) : t.me = s.me := by
  simp only [State.me, State.hart, hh, hc]

theorem State.hostEvent_cur (s : State) (c d q e : Nat) (b : Bool) : (s.hostEvent c d q e b).cur = s.cur := by
  unfold State.hostEvent
  extract_lets base n wrn rdn a r s'
  have h : s'.cur = s.cur := by
    show (ite _ _ _ : State).cur = _
    rw [apply_ite State.cur, apply_ite State.cur, ite_self, ite_self]
  rw [apply_ite State.cur, ite_self, h]

@[simp] theorem State.me_hostNote (s : State) (c d e : Nat) (b : Bool) : (s.hostNote c d e b).me = s.me :=
  State.me_eq_of_harts_cur (State.hostEvent_harts s.free.1 c d s.free.2.toNat e b)
    (State.hostEvent_cur s.free.1 c d s.free.2.toNat e b)

@[simp] theorem State.hostNote_cur (s : State) (c d e : Nat) (b : Bool) : (s.hostNote c d e b).cur = s.cur :=
  State.hostEvent_cur s.free.1 c d s.free.2.toNat e b

@[simp] theorem State.me_errorRecord (s : State) (e : Err) : (s.errorRecord e).me = s.me := by
  refine State.me_eq_of_harts_cur (s.errorRecord_harts e) ?_
  unfold State.errorRecord
  simp only
  split
  · rw [State.hostEvent_cur]
  · rfl

@[simp] theorem State.askHard_cur (s : State) (h cause : Nat) : (s.askHard h cause).cur = s.cur := by
  unfold State.askHard
  split <;> rfl

/-- A request to pre-empt another hart leaves the executing one. -/
theorem State.me_askHard_ne (s : State) {h : Nat} (cause : Nat) (hne : h ≠ s.cur) : (s.askHard h cause).me = s.me := by
  unfold State.askHard
  split
  · rfl
  · exact s.hart_modHart_ne _ hne.symm

theorem State.me_foldl_askHard (hs : List Nat) (cause : Nat) (s : State) (hne : ∀ h ∈ hs, h ≠ s.cur) :
    (hs.foldl (fun s h => s.askHard h cause) s).me = s.me := by
  induction hs generalizing s with
  | nil => rfl
  | cons h hs ih =>
    obtain ⟨hh, hrest⟩ := List.forall_mem_cons.mp hne
    rw [List.foldl_cons, ih _ (by simpa using hrest), s.me_askHard_ne cause hh]

/-- A quarantine that the executing hart raises pre-empts the core's other harts only (R133). -/
theorem State.me_quarantine_but_cur (s : State) (ci why : Nat) : (s.quarantine ci why (some s.cur)).me = s.me := by
  unfold State.quarantine
  extract_lets s1 s2
  rw [State.me_errorRecord]
  refine State.me_foldl_askHard _ 4 s1 fun h hmem heq => ?_
  simp [heq, s1] at hmem

/-- The executing hart takes the trap, whatever else the exception of an M-mode hart does to the machine (R507). -/
@[simp] theorem State.me_except (s : State) (cause : Nat) (tval : Word) :
    (s.except cause tval).me = s.me.trap (s.me.trapsToS cause) cause false tval := by
  unfold State.except State.exceptAt
  extract_lets t
  have htrap : t.me = s.me.trap (s.me.trapsToS cause) cause false tval := s.hart_modHart_self s.cur _
  split
  · have hquar := (t.hostNote 0x46 (hartDie s.cur) s.cur false).me_quarantine_but_cur (coreOf s.cur) 4
    rw [State.hostNote_cur, State.me_hostNote] at hquar
    exact hquar.trans htrap
  · exact htrap

@[simp] theorem State.me_illegal (s : State) (w : BitVec 32) :
    (s.illegal w).me = s.me.trap (s.me.trapsToS 2) 2 false (w.setWidth 64) := s.me_except 2 _

@[simp] theorem State.me_cmdFault (s : State) (tval : Word) :
    (s.cmdFault tval).me = s.me.trap (s.me.trapsToS 25) 25 false tval := s.me_except 25 tval

/-- A trap stores the status, the saved pc, the cause and the value; no other CSR changes. -/
theorem Hart.cs_trap_of_notMem (h : Hart) (toS : Bool) (cause : Nat) (intr : Bool) (tval : Word) {n : Nat}
    (hn : n ∉ [csrMstatus, csrSepc, csrScause, csrStval, csrMepc, csrMcause, csrMtval]) :
    (h.trap toS cause intr tval).cs n = h.cs n := by
  simp only [List.mem_cons, List.not_mem_nil, or_false, not_or] at hn
  obtain ⟨hstatus, hsepc, hscause, hstval, hmepc, hmcause, hmtval⟩ := hn
  cases toS
  · simp [Hart.trap, Hart.cs, tget_tset, hstatus, hmepc, hmcause, hmtval]
  · simp [Hart.trap, Hart.cs, tget_tset, hstatus, hsepc, hscause, hstval]

@[simp] theorem Hart.trap_vcfg (h : Hart) (toS : Bool) (cause : Nat) (intr : Bool) (tval : Word) :
    (h.trap toS cause intr tval).cs csrVcfg = h.cs csrVcfg :=
  h.cs_trap_of_notMem toS cause intr tval (by decide)

end Sys2Proof.Machine
end

section
/-! PROOF. `bx` and `bloop` without a grant or at a misaligned address (O28). -/

namespace Sys2Proof.Machine

open Sys2Proof.Claims

theorem bits_eq_fieldOf (w : Word) (lo n : Nat) : bits w.toNat lo n = fieldOf w lo n := by
  simp [bits, fieldOf, Nat.shiftRight_eq_div_pow]

theorem bits_vcfg_eq_lgOf (s : State) : bits (s.me.cs csrVcfg).toNat 16 3 = lgOf s := bits_eq_fieldOf _ 16 3

theorem exec_bx_ungranted (s : State) (rs1 : BitVec 5) (hlg : lgOf s = 0) :
    exec (.bx rs1) s = .next (s.illegal (wordOf (.bx rs1))) := by
  show execBx rs1 s = _
  rw [execBx, bits_vcfg_eq_lgOf, if_pos hlg]

theorem exec_bloop_ungranted (s : State) (rs1 rs2 : BitVec 5) (hlg : lgOf s = 0) :
    exec (.bloop rs1 rs2) s = .next (s.illegal (wordOf (.bloop rs1 rs2))) := by
  show execBloop rs1 rs2 s = _
  rw [execBloop, bits_vcfg_eq_lgOf, if_pos hlg]

theorem exec_bx_misaligned (s : State) (rs1 : BitVec 5) (hlg : lgOf s ≠ 0) (hva : (s.x rs1).toNat % 64 ≠ 0) :
    exec (.bx rs1) s = .next (s.cmdFault (s.x rs1)) := by
  show execBx rs1 s = _
  rw [execBx, bits_vcfg_eq_lgOf, if_neg hlg, if_pos hva]

theorem exec_bloop_misaligned (s : State) (rs1 rs2 : BitVec 5) (hlg : lgOf s ≠ 0) (hva : (s.x rs1).toNat % 64 ≠ 0) :
    exec (.bloop rs1 rs2) s = .next (s.cmdFault (s.x rs1)) := by
  show execBloop rs1 rs2 s = _
  rw [execBloop, bits_vcfg_eq_lgOf, if_neg hlg, if_pos hva]

/-- A command fault names its cause and value in the registers of the mode that takes it (R29, R116). -/
theorem State.cmdFault_cause_value (s : State) (tval : Word) :
    if s.me.trapsToS 25 then
      (s.cmdFault tval).me.cs csrScause = 25 ∧ (s.cmdFault tval).me.cs csrStval = tval
    else (s.cmdFault tval).me.cs csrMcause = 25 ∧ (s.cmdFault tval).me.cs csrMtval = tval := by
  rw [s.me_cmdFault]
  cases s.me.trapsToS 25
  · obtain ⟨-, hcause, hval, -⟩ := s.me.trap_m 25 tval
    exact ⟨hcause, hval⟩
  · obtain ⟨-, hcause, hval, -⟩ := s.me.trap_s 25 tval
    exact ⟨hcause, hval⟩

@[simp] theorem State.biq_illegal (s : State) (w : BitVec 32) : (s.illegal w).me.biq = s.me.biq := by
  rw [s.me_illegal, Hart.trap_biq]

@[simp] theorem State.biq_cmdFault (s : State) (tval : Word) : (s.cmdFault tval).me.biq = s.me.biq := by
  rw [s.me_cmdFault, Hart.trap_biq]

/-- Settles O28: each refusal is a trap of the executing hart, and a trap keeps the queue of blocks. -/
theorem blockIssueIsRefused : Obligations.BlockIssueIsRefused := by
  intro s rs1 rs2
  have misaligned (hlg : lgOf s ≠ 0) (hva : (s.x rs1).toNat % 64 ≠ 0) :
      ∀ i ∈ [Instr.bx rs1, Instr.bloop rs1 rs2], exec i s = .next (s.cmdFault (s.x rs1)) := by
    simp [exec_bx_misaligned s rs1 hlg hva, exec_bloop_misaligned s rs1 rs2 hlg hva]
  refine ⟨fun hlg => ⟨exec_bx_ungranted s rs1 hlg, exec_bloop_ungranted s rs1 rs2 hlg⟩, ?_, ?_⟩
  · intro hlg hva i hi
    exact ⟨_, misaligned hlg hva i hi, s.cmdFault_cause_value (s.x rs1)⟩
  · intro hrefused
    by_cases hlg : lgOf s = 0
    · simp [exec_bx_ungranted s rs1 hlg, exec_bloop_ungranted s rs1 rs2 hlg]
    · intro i hi
      exact ⟨_, misaligned hlg (hrefused.resolve_left hlg) i hi, s.biq_cmdFault (s.x rs1)⟩

end Sys2Proof.Machine
end

section
/-! PROOF. A write to `vcfg` (O32). -/

namespace Sys2Proof.Machine

open Sys2Proof.Claims

/-! ### Retiring with a result -/

@[simp] theorem Hart.setX_biq_vcfg (h : Hart) (r : Nat) (v : Word) :
    (h.setX r v).biq.map (·.vcfg) = h.biq.map (·.vcfg) := by
  unfold Hart.setX
  split
  · rfl
  · rw [List.map_map]
    refine List.map_congr_left fun b _ => ?_
    simp only [Function.comp_apply]
    split <;> rfl

@[simp] theorem State.retireX_pc (s : State) (rd : BitVec 5) (v : Word) :
    (s.retireX rd v).me.pc = s.me.pc + BitVec.ofNat 64 s.ilen := by
  simp [State.retireX]

@[simp] theorem State.retireX_wait (s : State) (rd : BitVec 5) (v : Word) : (s.retireX rd v).me.wait = none := by
  simp [State.retireX]

/-- The destination reads the result; x0 reads 0. -/
theorem State.retireX_xr_self (s : State) (rd : BitVec 5) (v : Word) :
    (s.retireX rd v).me.xr rd.toNat = if rd = 0 then 0 else v := by
  have hxr : (s.retireX rd v).me.xr rd.toNat = (s.me.setX rd.toNat v).xr rd.toNat := by
    simp [State.retireX, Hart.xr]
  have hrd : rd.toNat = 0 ↔ rd = 0 := by bv_omega
  simp [hxr, Hart.xr_setX, hrd]

/-- Retiring counts the instruction in `minstret` and leaves every other CSR (R82). -/
theorem State.retireX_cs_of_ne (s : State) (rd : BitVec 5) (v : Word) {n : Nat} (hn : n ≠ 0xB02) :
    (s.retireX rd v).me.cs n = s.me.cs n := by
  simp [State.retireX, Hart.cs, tget_tset, hn]

@[simp] theorem State.retireX_biq_vcfg (s : State) (rd : BitVec 5) (v : Word) :
    (s.retireX rd v).me.biq.map (·.vcfg) = s.me.biq.map (·.vcfg) := by
  simp [State.retireX]

/-! ### The write -/

/-- Every mode reads `vcfg` (R5, R87). -/
theorem State.csrGet_vcfg (s : State) : s.csrGet 0x800 = (s, some (s.me.cs csrVcfg)) := rfl

theorem csrNew_csrOperand_eq_csrValue (s : State) (f3 : BitVec 3) (src : BitVec 5) (old : Word) :
    csrNew f3 old (s.csrOperand f3 src) = csrValue s f3 src old := by
  unfold csrNew
  show _ = if f3.toNat % 4 = 1 then s.csrOperand f3 src
    else if f3.toNat % 4 = 2 then old ||| s.csrOperand f3 src else old &&& ~~~s.csrOperand f3 src
  split
  · next hwrite => rw [if_pos hwrite]
  · next hset => simp [hset]
  · next hwrite hset => rw [if_neg hwrite, if_neg hset]

theorem vcfgLegal_iff (old v : Word) : vcfgLegal old v = true ↔
    fieldOf v 0 2 = fieldOf old 0 2 ∧ fieldOf v 2 3 ≤ 4 ∧ fieldOf v 7 3 ≤ 4 ∧ v.toNat < 2 ^ 19 := by
  have hres0 : v.toNat >>> 19 = 0 ↔ v.toNat < 2 ^ 19 := by rw [Nat.shiftRight_eq_div_pow]; omega
  simp [vcfgLegal, bits_eq_fieldOf, hres0, fieldOf, and_assoc]

/-- The hart after a legal write: LG stays, the other fields take the new value (R88). -/
def Hart.setVcfg (h : Hart) (v : Word) : Hart := h.setCs csrVcfg (mergeBits v (h.cs csrVcfg) 0x70000)

theorem exec_vcfgWrite_legal (s : State) (f3 : BitVec 3) (rd src : BitVec 5)
    (hv : vcfgLegal (s.me.cs csrVcfg) (csrValue s f3 src (s.me.cs csrVcfg)) = true) :
    exec (.vcfgWrite f3 rd src) s =
      .next ((s.modMe fun h => h.setVcfg (csrValue s f3 src (s.me.cs csrVcfg))).retireX rd (s.me.cs csrVcfg)) := by
  show execVcfgWrite f3 rd src s = _
  simp only [execVcfgWrite, State.csrWrite, State.csrGet_vcfg, csrNew_csrOperand_eq_csrValue, hv, if_true]
  rfl

theorem exec_vcfgWrite_illegal (s : State) (f3 : BitVec 3) (rd src : BitVec 5)
    (hv : ¬vcfgLegal (s.me.cs csrVcfg) (csrValue s f3 src (s.me.cs csrVcfg)) = true) :
    exec (.vcfgWrite f3 rd src) s = .next (s.illegal (csrWord 0x800 f3 rd src)) := by
  show execVcfgWrite f3 rd src s = _
  simp only [execVcfgWrite, State.csrWrite, State.csrGet_vcfg, csrNew_csrOperand_eq_csrValue, if_neg hv]

/-- Settles O32: a legal write merges the value around LG and retires; any other traps, and a trap keeps `vcfg`. -/
theorem vcfgWrites : Obligations.VcfgWrites := by
  intro s f3 rd src _ old v legal
  have hlegal : vcfgLegal old v = true ↔ legal := vcfgLegal_iff old v
  constructor
  · intro h
    refine ⟨_, exec_vcfgWrite_legal s f3 rd src (hlegal.mpr h), by simp [Hart.setVcfg], State.retireX_wait _ rd old, ?_, ?_, ?_, ?_,
      rfl, rfl, rfl, rfl⟩
    · exact State.retireX_xr_self _ rd old
    · rw [State.retireX_cs_of_ne _ _ _ (by decide), State.me_modMe, Hart.setVcfg, Hart.cs_setCs, if_pos rfl, mergeBits]
    · intro n hvcfg hminstret
      rw [State.retireX_cs_of_ne _ _ _ hminstret, State.me_modMe, Hart.setVcfg, Hart.cs_setCs, if_neg hvcfg]
    · simp [Hart.setVcfg]
  · intro h
    refine ⟨exec_vcfgWrite_illegal s f3 rd src (mt hlegal.mp h), ?_⟩
    rw [State.me_illegal, Hart.trap_vcfg]

end Sys2Proof.Machine
end

section
/-! PROOF. `mzero`: the checks of R305, the command queue of R306, and the cells it clears (O37). -/

namespace Sys2Proof.Machine

open Sys2Proof.Claims

/-! ### The engine of a core -/

@[simp] theorem State.mat_modMat_self (s : State) (ci : Nat) (f : Matrix → Matrix) : (s.modMat ci f).mat ci = f (s.mat ci) := by
  simp [State.mat, State.modMat]

@[simp] theorem State.mat_modMe (s : State) (f : Hart → Hart) (ci : Nat) : (s.modMe f).mat ci = s.mat ci := rfl
@[simp] theorem State.mat_due (s : State) (es : List Ev) (ci : Nat) : (s.due es).mat ci = s.mat ci := rfl
@[simp] theorem State.mat_retire (s : State) (ci : Nat) : s.retire.mat ci = s.mat ci := rfl
@[simp] theorem State.modMat_mem (s : State) (ci : Nat) (f : Matrix → Matrix) : (s.modMat ci f).mem = s.mem := rfl
@[simp] theorem State.modMat_harts (s : State) (ci : Nat) (f : Matrix → Matrix) : (s.modMat ci f).harts = s.harts := rfl
@[simp] theorem State.modMat_agenda (s : State) (ci : Nat) (f : Matrix → Matrix) : (s.modMat ci f).agenda = s.agenda := rfl
@[simp] theorem State.modMat_ilen (s : State) (ci : Nat) (f : Matrix → Matrix) : (s.modMat ci f).ilen = s.ilen := rfl
@[simp] theorem State.me_modMat (s : State) (ci : Nat) (f : Matrix → Matrix) : (s.modMat ci f).me = s.me := rfl

/-! ### The checks of R305 -/

theorem State.matOwn_cur_iff (s : State) : s.matOwn s.cur = true ↔ (s.mat s.myCore).owner = some s.cur :=
  beq_iff_eq

theorem State.matEn_cur_iff_live (s : State) : s.matEn s.cur = true ↔ Live s := by
  rw [State.matEn, Bool.and_eq_true, s.matOwn_cur_iff]
  rfl

theorem State.matCheck_of_live (s : State) (own en : Bool) (k : Out) (hlive : Live s) : s.matCheck own en none k = k := by
  have hen : s.matEn s.cur = true := s.matEn_cur_iff_live.mpr hlive
  obtain ⟨howner, -⟩ := hlive
  have hown : s.matOwn s.cur = true := s.matOwn_cur_iff.mpr howner
  simp [State.matCheck, hown, hen]

theorem State.matCheck_of_not_owner (s : State) (en : Bool) (bad : Option Nat) (k : Out)
    (hown : (s.mat s.myCore).owner ≠ some s.cur) : s.matCheck true en bad k = .next (s.except 30 1) := by
  have hown' : s.matOwn s.cur = false := Bool.eq_false_iff.mpr (mt s.matOwn_cur_iff.mp hown)
  simp [State.matCheck, hown', State.matFault]

theorem State.matCheck_of_not_enabled (s : State) (bad : Option Nat) (k : Out)
    (hown : (s.mat s.myCore).owner = some s.cur) (hen : (s.mat s.myCore).en = false) :
    s.matCheck true true bad k = .next (s.except 30 2) := by
  have hown' : s.matOwn s.cur = true := s.matOwn_cur_iff.mpr hown
  have hen' : s.matEn s.cur = false := Bool.eq_false_iff.mpr fun h => by
    obtain ⟨-, hlive⟩ := s.matEn_cur_iff_live.mp h
    simp [hen] at hlive
  simp [State.matCheck, hown', hen', State.matFault]

/-! ### The command queue (R306) -/

theorem State.matIssue_of_full (s : State) (c : MatCmd) (hfull : 16 ≤ (s.mat s.myCore).queue.length) :
    s.matIssue c = .next (s.wait .commands) :=
  if_pos hfull

/-- An instruction that issues a command retires with the command last in the queue. -/
theorem completes_queued_of_matIssue {i : Instr} {s : State} {c : MatCmd} (hexec : exec i s = s.matIssue c)
    (hroom : (s.mat s.myCore).queue.length < 16) : Completes i s (Queued s c) := by
  rw [State.matIssue, if_neg (Nat.not_le.mpr hroom)] at hexec
  exact ⟨_, hexec, by simp, by simp, by simp [Queued]⟩

/-- The oldest command runs and leaves the queue when no ordering holds it back and it has nothing more to read. -/
theorem exec_matrixCmdRetire_of_ready {s : State} {ci h q : Nat} {c : MatCmd} {rest : List (Nat × Nat × MatCmd)}
    (hev : s.ev = .matrixCmdRetire ci) (hqueue : (s.mat ci).queue = (h, q, c) :: rest)
    (hheld : s.heldBack h strM q = false) (hreads : (s.mat ci).reads c = false) :
    exec .matrixCmdRetire s = .next (s.modMat ci fun m => { m.run c with queue := rest }) := by
  have hready : s.matReady ci = true := by simp [State.matReady, hqueue, hheld]
  show execMatrixCmdRetire s = _
  simp [execMatrixCmdRetire, hev, hqueue, hready, hreads]

/-! ### The cells of a tile -/

/-- Keeping the entries whose key passes a test sets the others to their rest value. -/
theorem tget_filter_key {α : Type} (d : α) (p : Nat → Bool) (t : Tab α) (k : Nat) :
    tget d (t.filter fun e => p e.1) k = if p k then tget d t k else d := by
  induction t with
  | nil => simp
  | cons e t ih =>
    obtain ⟨j, v⟩ := e
    unfold tget at ih ⊢
    by_cases hk : k = j
    · subst hk
      cases hp : p k
      · simpa [hp] using ih
      · simp [hp]
    · have hkj : (k == j) = false := by simpa using hk
      cases hp : p j <;> simpa [hp, List.lookup, hkj] using ih

/-- A tile has 64 rows of 32 cells, so the place of a cell names its tile (R301). -/
theorem cellPlace_div (u : Nat) {r c : Nat} (hr : r < 64) (hc : c < 32) : (u * 2048 + 32 * r + c) / 2048 = u := by
  omega

/-- The command clears its tile and no other, whatever the edges (R312). -/
theorem Matrix.cell_run_zero (m : Matrix) (t u : Nat) {r c : Nat} (hr : r < 64) (hc : c < 32) :
    (m.run (.zero t)).cell u r c = if u = t then 0 else m.cell u r c := by
  have hread : (m.run (.zero t)).cell u r c = if (u * 2048 + 32 * r + c) / 2048 != t then m.cell u r c else 0 :=
    tget_filter_key 0 (fun k => k / 2048 != t) m.cells _
  rw [hread, cellPlace_div u hr hc]
  by_cases hu : u = t <;> simp [hu]

/-! ### `mzero` -/

theorem exec_mzero (s : State) (t : BitVec 3) : exec (.mzero t) s = s.matCheck true true none (s.matIssue (.zero t.toNat)) := rfl

theorem exec_mzero_of_live {s : State} (t : BitVec 3) (hlive : Live s) : exec (.mzero t) s = s.matIssue (.zero t.toNat) := by
  rw [exec_mzero, s.matCheck_of_live true true _ hlive]

/-- Settles O37: the checks decide whether `mzero` queues its command, and the command filters its tile's cells out. -/
theorem mzeroClearsItsTile : Obligations.MzeroClearsItsTile := by
  refine ⟨fun s t => ⟨?_, ?_, ?_, ?_⟩, fun m t => ⟨?_, ?_, rfl, rfl, rfl⟩, ?_⟩
  · exact fun hlive hroom => completes_queued_of_matIssue (exec_mzero_of_live t hlive) hroom
  · exact fun hlive hfull => (exec_mzero_of_live t hlive).trans (s.matIssue_of_full _ hfull)
  · exact fun hown => s.matCheck_of_not_owner true none _ hown
  · exact fun hown hen => s.matCheck_of_not_enabled none _ hown hen
  · intro r c hr hc
    rw [m.cell_run_zero t t hr hc, if_pos rfl]
  · intro u r c hu hr hc
    rw [m.cell_run_zero t u hr hc, if_neg hu]
  · intro s ci h q c rest hev hqueue hheld hreads
    exact ⟨_, exec_matrixCmdRetire_of_ready hev hqueue hheld hreads, s.mat_modMat_self ci _, s.modMat_mem ci _, s.modMat_harts ci _⟩

end Sys2Proof.Machine
end

section
/-! PROOF. Support: facts about lists that the model's imports do not have. -/

namespace Sys2Proof.Machine

theorem getD_of_lt {α : Type} (l : List α) (d : α) {n : Nat} (h : n < l.length) : l.getD n d = l[n] := (List.getElem_eq_getD d).symm

theorem foldl_congr_mem {α β : Type} {f g : β → α → β} {l : List α} (h : ∀ b, ∀ a ∈ l, f b a = g b a) (b : β) :
    l.foldl f b = l.foldl g b := by
  induction l generalizing b with
  | nil => rfl
  | cons a l ih =>
    rw [List.foldl_cons, List.foldl_cons, h b a List.mem_cons_self]
    exact ih (fun c x hx => h c x (List.mem_cons_of_mem _ hx)) _

theorem filterMap_congr_mem {α β : Type} {f g : α → Option β} {l : List α} (h : ∀ a ∈ l, f a = g a) : l.filterMap f = l.filterMap g := by
  induction l with
  | nil => rfl
  | cons a l ih =>
    rw [List.filterMap_cons, List.filterMap_cons, h a List.mem_cons_self, ih fun x hx => h x (List.mem_cons_of_mem _ hx)]

theorem congr_two {α β γ : Sort _} (f : α → β → γ) {a a' : α} {b b' : β} (ha : a = a') (hb : b = b') : f a b = f a' b' := by
  rw [ha, hb]

/-- The same choice under equivalent conditions. -/
theorem ite_of_iff {α : Sort _} {p q : Prop} [Decidable p] [Decidable q] {x y : α} (h : p ↔ q) : (if p then x else y) = if q then x else y :=
  ite_congr (propext h) (fun _ => rfl) fun _ => rfl

end Sys2Proof.Machine
end

section
/-! PROOF. Block words: a row's opcode finds the row, and its form's fields read back from its word (O6). -/

namespace Sys2Proof

/-! ### Rows by opcode -/

/-- A table whose keys are distinct finds each of its rows. -/
theorem lookup_of_mem_of_nodup {β : Type} {l : List (Nat × β)} {k : Nat} {v : β} (hkeys : (l.map Prod.fst).Nodup)
    (hmem : (k, v) ∈ l) : l.lookup k = some v := by
  induction l with
  | nil => simp at hmem
  | cons e l ih =>
    obtain ⟨j, u⟩ := e
    obtain ⟨hj, hl⟩ := List.nodup_cons.mp hkeys
    rcases List.mem_cons.mp hmem with heq | hrest
    · obtain ⟨rfl, rfl⟩ := Prod.mk.inj heq
      simp
    · have hne : (k == j) = false :=
        beq_eq_false_iff_ne.mpr fun h => hj (List.mem_map.mpr ⟨(k, v), hrest, h⟩)
      simp only [List.lookup, hne]
      exact ih hl hrest

/-- A table with no row of an opcode of another table finds none there. -/
theorem lookup_eq_none_of_disjoint {β γ : Type} {l : List (Nat × β)} {l' : List (Nat × γ)} {k : Nat} {v : γ}
    (hkeys : ∀ j ∈ l'.map Prod.fst, j ∉ l.map Prod.fst) (hmem : (k, v) ∈ l') : l.lookup k = none := by
  rw [List.lookup_eq_none_iff]
  rintro ⟨j, u⟩ hp
  have hk : k ∉ l.map Prod.fst := hkeys k (List.mem_map_of_mem (f := Prod.fst) hmem)
  exact bne_iff_ne.mpr fun h => hk (List.mem_map.mpr ⟨(j, u), hp, h.symm⟩)

theorem ifLegal_of_wf {i : Instr} (h : i.wf = true) : i.ifLegal = some i := by
  simp [Instr.ifLegal, h]

/-! ### Fields read back from a word -/

theorem AForm.ofWord_word (a : AForm) (opc : BitVec 8) : AForm.ofWord (a.word opc) = a := by
  obtain ⟨pm, x, t0, t1, md⟩ := a
  simp only [AForm.ofWord, AForm.word, AForm.mk.injEq]
  refine ⟨?_, ?_, ?_, ?_, ?_⟩ <;> (ext i hi; simp; grind)

theorem IForm.ofWord_word (a : IForm) (opc : BitVec 8) : IForm.ofWord (a.word opc) = a := by
  obtain ⟨pm, t0, imm⟩ := a
  simp only [IForm.ofWord, IForm.word, IForm.mk.injEq]
  refine ⟨?_, ?_, ?_⟩ <;> (ext i hi; simp; grind)

theorem RForm.ofWord_word (r : RForm) (l : BitVec 1) (opc : BitVec 7) : RForm.ofWord (r.word l opc) = r := by
  obtain ⟨pm, reg, t0, t1⟩ := r
  simp only [RForm.ofWord, RForm.word, RForm.mk.injEq]
  refine ⟨?_, ?_, ?_, ?_⟩ <;> (ext i hi; simp; grind)

theorem MForm.ofWord_word (m : MForm) (l : BitVec 1) (opc : BitVec 7) : MForm.ofWord (m.word l opc) = m := by
  obtain ⟨pm, lsid, t0, w, off⟩ := m
  simp only [MForm.ofWord, MForm.word, MForm.mk.injEq]
  refine ⟨?_, ?_, ?_, ?_, ?_⟩ <;> (ext i hi; simp; grind)

theorem TForm.ofWord_word (t : TForm) (l : BitVec 1) (opc : BitVec 7) : TForm.ofWord (t.word l opc) = t := by
  obtain ⟨pm, t0, t1, sub⟩ := t
  simp only [TForm.ofWord, TForm.word, TForm.mk.injEq]
  refine ⟨?_, ?_, ?_, ?_⟩ <;> (ext i hi; simp; grind)

/-- The opcode and, in the M slot, the L bit of a word (R139, R140). -/
theorem AForm.opcode_word (a : AForm) (opc : BitVec 8) : (a.word opc).extractLsb' 24 8 = opc := by
  ext i hi; simp [AForm.word]; grind

theorem IForm.opcode_word (a : IForm) (opc : BitVec 8) : (a.word opc).extractLsb' 24 8 = opc := by
  ext i hi; simp [IForm.word]; grind

theorem RForm.opcode_word (r : RForm) (l : BitVec 1) (opc : BitVec 7) :
    (r.word l opc).extractLsb' 24 7 = opc ∧ (r.word l opc).extractLsb' 31 1 = l := by
  constructor <;> (ext i hi; simp [RForm.word]; grind)

theorem MForm.opcode_word (m : MForm) (l : BitVec 1) (opc : BitVec 7) :
    (m.word l opc).extractLsb' 24 7 = opc ∧ (m.word l opc).extractLsb' 31 1 = l := by
  constructor <;> (ext i hi; simp [MForm.word]; grind)

theorem TForm.opcode_word (t : TForm) (l : BitVec 1) (opc : BitVec 7) :
    (t.word l opc).extractLsb' 24 7 = opc ∧ (t.word l opc).extractLsb' 31 1 = l := by
  constructor <;> (ext i hi; simp [TForm.word]; grind)

/-! ### Slots -/

theorem decodeA_aForm_word {o : Nat} {c : AForm → Instr} (hrow : (o, c) ∈ aRows) {a : AForm} (hwf : (c a).wf = true) :
    decodeA (a.word (BitVec.ofNat 8 o)) = some (c a) := by
  have ho : o < 256 := (by decide : ∀ o ∈ aRows.map Prod.fst, o < 256) o (List.mem_map.mpr ⟨_, hrow, rfl⟩)
  have hopc : ((a.word (BitVec.ofNat 8 o)).extractLsb' 24 8).toNat = o := by
    rw [AForm.opcode_word, BitVec.toNat_ofNat, Nat.mod_eq_of_lt ho]
  simp only [decodeA, hopc, lookup_of_mem_of_nodup (by decide) hrow, AForm.ofWord_word, ifLegal_of_wf hwf]

theorem decodeA_iForm_word {o : Nat} {c : IForm → Instr} (hrow : (o, c) ∈ aiRows) {a : IForm} (hwf : (c a).wf = true) :
    decodeA (a.word (BitVec.ofNat 8 o)) = some (c a) := by
  have ho : o < 256 := (by decide : ∀ o ∈ aiRows.map Prod.fst, o < 256) o (List.mem_map.mpr ⟨_, hrow, rfl⟩)
  have hopc : ((a.word (BitVec.ofNat 8 o)).extractLsb' 24 8).toNat = o := by
    rw [IForm.opcode_word, BitVec.toNat_ofNat, Nat.mod_eq_of_lt ho]
  have hnotA : aRows.lookup o = none := lookup_eq_none_of_disjoint (by decide) hrow
  simp only [decodeA, hopc, hnotA, lookup_of_mem_of_nodup (by decide) hrow, IForm.ofWord_word, ifLegal_of_wf hwf]

/-- The opcode of an M-slot row fits its 7 bits. -/
theorem toNat_ofNat_seven {o : Nat} (ho : o < 128) : (BitVec.ofNat 7 o).toNat = o := by
  rw [BitVec.toNat_ofNat, Nat.mod_eq_of_lt ho]

/-- Bit L chooses between the paired and the lone reading of an M-slot word (R137, R140). -/
theorem decodeM_of_clear {w : BitVec 32} {lit : BitVec 32} (hl : w.extractLsb' 31 1 = 0) : decodeM w lit = decodeMPaired w := by
  simp only [decodeM, hl]; rfl

theorem decodeM_of_set {w : BitVec 32} {lit : BitVec 32} (hl : w.extractLsb' 31 1 = 1) : decodeM w lit = decodeMLone w lit := by
  simp only [decodeM, hl]; rfl

theorem decodeM_rForm_paired {o : Nat} {c : RForm → Instr} (hrow : (o, c) ∈ rRows) {r : RForm} (hwf : (c r).wf = true) (lit : BitVec 32) :
    decodeM (r.word 0 (BitVec.ofNat 7 o)) lit = some (c r) := by
  have ho : o < 128 := (by decide : ∀ o ∈ rRows.map Prod.fst, o < 128) o (List.mem_map.mpr ⟨_, hrow, rfl⟩)
  obtain ⟨hopc, hl⟩ := r.opcode_word 0 (BitVec.ofNat 7 o)
  rw [decodeM_of_clear hl]
  simp only [decodeMPaired, hopc, toNat_ofNat_seven ho, lookup_of_mem_of_nodup (by decide) hrow, RForm.ofWord_word,
    ifLegal_of_wf hwf]

theorem decodeM_mForm_paired {o : Nat} {c : MForm → Instr} (hrow : (o, c) ∈ mRows) {m : MForm} (hwf : (c m).wf = true) (lit : BitVec 32) :
    decodeM (m.word 0 (BitVec.ofNat 7 o)) lit = some (c m) := by
  have ho : o < 128 := (by decide : ∀ o ∈ mRows.map Prod.fst, o < 128) o (List.mem_map.mpr ⟨_, hrow, rfl⟩)
  obtain ⟨hopc, hl⟩ := m.opcode_word 0 (BitVec.ofNat 7 o)
  have hnotR : rRows.lookup o = none := lookup_eq_none_of_disjoint (by decide) hrow
  rw [decodeM_of_clear hl]
  simp only [decodeMPaired, hopc, toNat_ofNat_seven ho, hnotR, lookup_of_mem_of_nodup (by decide) hrow, MForm.ofWord_word,
    ifLegal_of_wf hwf]

theorem decodeM_tForm_paired {o : Nat} {c : TForm → Instr} (hrow : (o, c) ∈ tRows) {t : TForm} (hwf : (c t).wf = true) (lit : BitVec 32) :
    decodeM (t.word 0 (BitVec.ofNat 7 o)) lit = some (c t) := by
  have ho : o < 128 := (by decide : ∀ o ∈ tRows.map Prod.fst, o < 128) o (List.mem_map.mpr ⟨_, hrow, rfl⟩)
  obtain ⟨hopc, hl⟩ := t.opcode_word 0 (BitVec.ofNat 7 o)
  have hnotR : rRows.lookup o = none := lookup_eq_none_of_disjoint (by decide) hrow
  have hnotM : mRows.lookup o = none := lookup_eq_none_of_disjoint (by decide) hrow
  rw [decodeM_of_clear hl]
  simp only [decodeMPaired, hopc, toNat_ofNat_seven ho, hnotR, hnotM, lookup_of_mem_of_nodup (by decide) hrow,
    TForm.ofWord_word, ifLegal_of_wf hwf]

theorem decodeM_rForm_lone {o : Nat} {c : RForm → BitVec 32 → Instr} (hrow : (o, c) ∈ rLoneRows) {r : RForm} {lit : BitVec 32}
    (hwf : (c r lit).wf = true) : decodeM (r.word 1 (BitVec.ofNat 7 o)) lit = some (c r lit) := by
  have ho : o < 128 := (by decide : ∀ o ∈ rLoneRows.map Prod.fst, o < 128) o (List.mem_map.mpr ⟨_, hrow, rfl⟩)
  obtain ⟨hopc, hl⟩ := r.opcode_word 1 (BitVec.ofNat 7 o)
  rw [decodeM_of_set hl]
  simp only [decodeMLone, hopc, toNat_ofNat_seven ho, lookup_of_mem_of_nodup (by decide) hrow, RForm.ofWord_word,
    ifLegal_of_wf hwf]

theorem decodeM_mForm_lone {o : Nat} {c : MForm → BitVec 32 → Instr} (hrow : (o, c) ∈ mLoneRows) {m : MForm} {lit : BitVec 32}
    (hwf : (c m lit).wf = true) : decodeM (m.word 1 (BitVec.ofNat 7 o)) lit = some (c m lit) := by
  have ho : o < 128 := (by decide : ∀ o ∈ mLoneRows.map Prod.fst, o < 128) o (List.mem_map.mpr ⟨_, hrow, rfl⟩)
  obtain ⟨hopc, hl⟩ := m.opcode_word 1 (BitVec.ofNat 7 o)
  have hnotR : rLoneRows.lookup o = none := lookup_eq_none_of_disjoint (by decide) hrow
  rw [decodeM_of_set hl]
  simp only [decodeMLone, hopc, toNat_ofNat_seven ho, hnotR, lookup_of_mem_of_nodup (by decide) hrow, MForm.ofWord_word,
    ifLegal_of_wf hwf]

theorem decodeM_tForm_lone {o : Nat} {c : TForm → BitVec 32 → Instr} (hrow : (o, c) ∈ tLoneRows) {t : TForm} {lit : BitVec 32}
    (hwf : (c t lit).wf = true) : decodeM (t.word 1 (BitVec.ofNat 7 o)) lit = some (c t lit) := by
  have ho : o < 128 := (by decide : ∀ o ∈ tLoneRows.map Prod.fst, o < 128) o (List.mem_map.mpr ⟨_, hrow, rfl⟩)
  obtain ⟨hopc, hl⟩ := t.opcode_word 1 (BitVec.ofNat 7 o)
  have hnotR : rLoneRows.lookup o = none := lookup_eq_none_of_disjoint (by decide) hrow
  have hnotM : mLoneRows.lookup o = none := lookup_eq_none_of_disjoint (by decide) hrow
  rw [decodeM_of_set hl]
  simp only [decodeMLone, hopc, toNat_ofNat_seven ho, hnotR, hnotM, lookup_of_mem_of_nodup (by decide) hrow,
    TForm.ofWord_word, ifLegal_of_wf hwf]

/-! ### The encoder's table is the decoder's -/

theorem encode_aRows : ∀ p ∈ aRows, ∀ a : AForm, encode (p.2 a) = [a.word (BitVec.ofNat 8 p.1)] := by
  simp only [aRows, aRows0, aRows1, aRows2, aRows3, List.forall_mem_append, List.forall_mem_cons, List.not_mem_nil, false_implies, implies_true, and_true]
  and_intros <;> (intro _; rfl)

theorem encode_aiRows : ∀ p ∈ aiRows, ∀ a : IForm, encode (p.2 a) = [a.word (BitVec.ofNat 8 p.1)] := by
  simp only [aiRows, List.forall_mem_cons, List.not_mem_nil, false_implies, implies_true, and_true]
  and_intros <;> (intro _; rfl)

theorem encode_rRows : ∀ p ∈ rRows, ∀ r : RForm, encode (p.2 r) = [r.word 0 (BitVec.ofNat 7 p.1)] := by
  simp only [rRows, List.forall_mem_cons, List.not_mem_nil, false_implies, implies_true, and_true]
  and_intros <;> (intro _; rfl)

theorem encode_mRows : ∀ p ∈ mRows, ∀ m : MForm, encode (p.2 m) = [m.word 0 (BitVec.ofNat 7 p.1)] := by
  simp only [mRows, List.forall_mem_cons, List.not_mem_nil, false_implies, implies_true, and_true]
  and_intros <;> (intro _; rfl)

theorem encode_tRows : ∀ p ∈ tRows, ∀ t : TForm, encode (p.2 t) = [t.word 0 (BitVec.ofNat 7 p.1)] := by
  simp only [tRows, List.forall_mem_cons, List.not_mem_nil, false_implies, implies_true, and_true]
  and_intros <;> (intro _; rfl)

theorem encode_rLoneRows : ∀ p ∈ rLoneRows, ∀ (r : RForm) (lit : BitVec 32), encode (p.2 r lit) = [r.word 1 (BitVec.ofNat 7 p.1), lit] := by
  simp only [rLoneRows, List.forall_mem_cons, List.not_mem_nil, false_implies, implies_true, and_true]
  and_intros <;> (intro _ _; rfl)

theorem encode_mLoneRows : ∀ p ∈ mLoneRows, ∀ (m : MForm) (lit : BitVec 32), encode (p.2 m lit) = [m.word 1 (BitVec.ofNat 7 p.1), lit] := by
  simp only [mLoneRows, List.forall_mem_cons, List.not_mem_nil, false_implies, implies_true, and_true]
  and_intros <;> (intro _ _; rfl)

theorem encode_tLoneRows : ∀ p ∈ tLoneRows, ∀ (t : TForm) (lit : BitVec 32), encode (p.2 t lit) = [t.word 1 (BitVec.ofNat 7 p.1), lit] := by
  simp only [tLoneRows, List.forall_mem_cons, List.not_mem_nil, false_implies, implies_true, and_true]
  and_intros <;> (intro _ _; rfl)

/-- Settles O6: each row is found by its opcode, and each field reads back from the word. -/
theorem slotWordsRoundTrip : Obligations.SlotWordsRoundTrip := by
  refine ⟨?_, ?_, ?_, ?_, ?_, ?_, ?_, ?_⟩
  · exact fun o c hrow a hwf => ⟨encode_aRows _ hrow a, decodeA_aForm_word hrow hwf⟩
  · exact fun o c hrow a hwf => ⟨encode_aiRows _ hrow a, decodeA_iForm_word hrow hwf⟩
  · exact fun o c hrow r hwf => ⟨encode_rRows _ hrow r, decodeM_rForm_paired hrow hwf⟩
  · exact fun o c hrow m hwf => ⟨encode_mRows _ hrow m, decodeM_mForm_paired hrow hwf⟩
  · exact fun o c hrow t hwf => ⟨encode_tRows _ hrow t, decodeM_tForm_paired hrow hwf⟩
  · exact fun o c hrow r lit hwf => ⟨encode_rLoneRows _ hrow r lit, decodeM_rForm_lone hrow hwf⟩
  · exact fun o c hrow m lit hwf => ⟨encode_mLoneRows _ hrow m lit, decodeM_mForm_lone hrow hwf⟩
  · exact fun o c hrow t lit hwf => ⟨encode_tLoneRows _ hrow t lit, decodeM_tForm_lone hrow hwf⟩

end Sys2Proof
end

section
/-! PROOF. Hart words: the fields of a word, the rows that the custom opcodes define, and the two directions of the round trip (O4, O5). -/

namespace Sys2Proof

/-! ### Words and their fields -/

theorem append_eq_extract_iff {m n : Nat} (a : BitVec m) (b : BitVec n) (lo : Nat) (w : BitVec 32) :
    a ++ b = w.extractLsb' lo (m + n) ↔ a = w.extractLsb' (lo + n) m ∧ b = w.extractLsb' lo n := by
  constructor
  · intro h
    have hbit (i : Nat) : (a ++ b).getLsbD i = (w.extractLsb' lo (m + n)).getLsbD i := by rw [h]
    constructor
    · ext i hi
      have := hbit (i + n)
      simp [BitVec.getLsbD_append] at this ⊢
      grind
    · ext i hi
      have := hbit i
      simp [BitVec.getLsbD_append] at this ⊢
      grind
  · rintro ⟨rfl, rfl⟩
    ext i hi
    simp [BitVec.getElem_append]
    grind

theorem rWord_eq_iff (f7 : BitVec 7) (rs2 rs1 : BitVec 5) (f3 : BitVec 3) (rd : BitVec 5) (opc : BitVec 7) (w : BitVec 32) :
    rWord f7 rs2 rs1 f3 rd opc = w ↔ f7 = w.extractLsb' 25 7 ∧ rs2 = w.extractLsb' 20 5 ∧ rs1 = w.extractLsb' 15 5 ∧
      f3 = w.extractLsb' 12 3 ∧ rd = w.extractLsb' 7 5 ∧ opc = w.extractLsb' 0 7 := by
  have hw : w = w.extractLsb' 0 (7 + 5 + 5 + 3 + 5 + 7) := by simp
  unfold rWord
  rw [show (f7 ++ rs2 ++ rs1 ++ f3 ++ rd ++ opc = w) ↔ (f7 ++ rs2 ++ rs1 ++ f3 ++ rd ++ opc = w.extractLsb' 0 (7 + 5 + 5 + 3 + 5 + 7)) by rw [← hw]]
  simp only [append_eq_extract_iff, and_assoc]

theorem iWord_eq_iff (imm : BitVec 12) (rs1 : BitVec 5) (f3 : BitVec 3) (rd : BitVec 5) (opc : BitVec 7) (w : BitVec 32) :
    iWord imm rs1 f3 rd opc = w ↔ imm = w.extractLsb' 20 12 ∧ rs1 = w.extractLsb' 15 5 ∧
      f3 = w.extractLsb' 12 3 ∧ rd = w.extractLsb' 7 5 ∧ opc = w.extractLsb' 0 7 := by
  have hw : w = w.extractLsb' 0 (12 + 5 + 3 + 5 + 7) := by simp
  unfold iWord
  rw [show (imm ++ rs1 ++ f3 ++ rd ++ opc = w) ↔ (imm ++ rs1 ++ f3 ++ rd ++ opc = w.extractLsb' 0 (12 + 5 + 3 + 5 + 7)) by rw [← hw]]
  simp only [append_eq_extract_iff, and_assoc]

/-- The splits of fields that the encoder writes as appended parts. -/
theorem append_two_three (a : BitVec 2) (b : BitVec 3) (lo : Nat) (w : BitVec 32) :
    a ++ b = w.extractLsb' lo 5 ↔ a = w.extractLsb' (lo + 3) 2 ∧ b = w.extractLsb' lo 3 := append_eq_extract_iff a b lo w
theorem append_ten_two (a : BitVec 10) (b : BitVec 2) (lo : Nat) (w : BitVec 32) :
    a ++ b = w.extractLsb' lo 12 ↔ a = w.extractLsb' (lo + 2) 10 ∧ b = w.extractLsb' lo 2 := append_eq_extract_iff a b lo w
theorem append_three_one_eight (a : BitVec 3) (b : BitVec 1) (c : BitVec 8) (lo : Nat) (w : BitVec 32) :
    a ++ b ++ c = w.extractLsb' lo 12 ↔ (a = w.extractLsb' (lo + 8 + 1) 3 ∧ b = w.extractLsb' (lo + 8) 1) ∧ c = w.extractLsb' lo 8 :=
  (append_eq_extract_iff (a ++ b) c lo w).trans (and_congr_left' (append_eq_extract_iff a b (lo + 8) w))
theorem append_five_two (a : BitVec 5) (b : BitVec 2) (lo : Nat) (w : BitVec 32) :
    a ++ b = w.extractLsb' lo 7 ↔ a = w.extractLsb' (lo + 2) 5 ∧ b = w.extractLsb' lo 2 := append_eq_extract_iff a b lo w
theorem append_four_three (a : BitVec 4) (b : BitVec 3) (lo : Nat) (w : BitVec 32) :
    a ++ b = w.extractLsb' lo 7 ↔ a = w.extractLsb' (lo + 3) 4 ∧ b = w.extractLsb' lo 3 := append_eq_extract_iff a b lo w
theorem append_five_one_one (a : BitVec 5) (b c : BitVec 1) (lo : Nat) (w : BitVec 32) :
    a ++ b ++ c = w.extractLsb' lo 7 ↔ (a = w.extractLsb' (lo + 1 + 1) 5 ∧ b = w.extractLsb' (lo + 1) 1) ∧ c = w.extractLsb' lo 1 :=
  (append_eq_extract_iff (a ++ b) c lo w).trans (and_congr_left' (append_eq_extract_iff a b (lo + 1) w))
theorem append_four_four_four (a b c : BitVec 4) (lo : Nat) (w : BitVec 32) :
    a ++ b ++ c = w.extractLsb' lo 12 ↔ (a = w.extractLsb' (lo + 4 + 4) 4 ∧ b = w.extractLsb' (lo + 4) 4) ∧ c = w.extractLsb' lo 4 :=
  (append_eq_extract_iff (a ++ b) c lo w).trans (and_congr_left' (append_eq_extract_iff a b (lo + 4) w))

/-- A masked word has the value of an entry just when its fields under the mask are the entry's. -/
theorem and_eq_iff_fields (F : List (Nat × Nat)) (w mask v : BitVec 32)
    (hmask : ∀ i < 32, mask.getLsbD i = F.any fun f => decide (f.1 ≤ i ∧ i < f.1 + f.2))
    (hv : v &&& mask = v) : w &&& mask = v ↔ ∀ f ∈ F, w.extractLsb' f.1 f.2 = v.extractLsb' f.1 f.2 := by
  constructor
  · rintro rfl ⟨lo, n⟩ hf
    ext i hi
    simp only [BitVec.getElem_extractLsb', BitVec.getLsbD_and]
    by_cases hlo : lo + i < 32
    · have hset : mask.getLsbD (lo + i) = true := by
        rw [hmask _ hlo, List.any_eq_true]
        exact ⟨_, hf, by simpa using hi⟩
      rw [hset, Bool.and_true]
    · rw [BitVec.getLsbD_of_ge w _ (by omega), Bool.false_and]
  · intro h
    rw [← hv]
    ext i hi
    simp only [← BitVec.getLsbD_eq_getElem, BitVec.getLsbD_and]
    cases hset : mask.getLsbD i with
    | false => simp
    | true =>
      rw [hmask i hi, List.any_eq_true] at hset
      obtain ⟨⟨lo, n⟩, hf, hin⟩ := hset
      obtain ⟨hlo, hhi⟩ := of_decide_eq_true hin
      have hbit := congrArg (fun x : BitVec n => x.getLsbD (i - lo)) (h _ hf)
      have hlt : i - lo < n := Nat.sub_lt_left_of_lt_add hlo hhi
      simpa [hlt, Nat.add_sub_cancel' hlo] using hbit

theorem encode_eq_of_word {i : Instr} {v w : BitVec 32} (h : encode i = [v]) (hv : v = w) : encode i = [w] := hv ▸ h

theorem three_bits (x : BitVec 3) : x = 0 ∨ x = 1 ∨ x = 2 ∨ x = 3 ∨ x = 4 ∨ x = 5 ∨ x = 6 ∨ x = 7 := by
  revert x; decide

theorem extract_nine_eq_zero (w : BitVec 32) : w.extractLsb' 23 9 = 0 ↔ w.extractLsb' 25 7 = 0 ∧ w.extractLsb' 23 2 = 0 := by
  have h := append_eq_extract_iff (0 : BitVec 7) (0 : BitVec 2) 23 w
  exact (eq_comm.trans h).trans (and_congr eq_comm eq_comm)

theorem decodeCustom0_faithful {w : BitVec 32} {i : Instr} (hopc : w.extractLsb' 0 7 = 0x0B) (h : decodeCustom0 w = some i) :
    i.wf = true ∧ encode i = [w] := by
  simp only [decodeCustom0, beq_iff_eq, bne_iff_ne, ne_eq, Bool.and_eq_true, Bool.or_eq_true, ← Classical.not_and_iff_not_or_not, ite_not,
    decide_eq_true_eq] at h
  obtain h3 | h3 | h3 | h3 | h3 | h3 | h3 | h3 := three_bits (w.extractLsb' 12 3)
  all_goals
    simp only [h3, BitVec.reduceEq, if_true, if_false] at h
    repeat' split at h
  all_goals cases h
  all_goals exact ⟨by simp only [Instr.wf, decide_eq_true_eq, *], encode_eq_of_word rfl (by simp [rWord_eq_iff, iWord_eq_iff, append_two_three, append_ten_two, *])⟩

theorem decodeCustom1_faithful {w : BitVec 32} {i : Instr} (hopc : w.extractLsb' 0 7 = 0x2B) (h : decodeCustom1 w = some i) :
    i.wf = true ∧ encode i = [w] := by
  simp only [decodeCustom1, beq_iff_eq, Bool.and_eq_true] at h
  obtain h3 | h3 | h3 | h3 | h3 | h3 | h3 | h3 := three_bits (w.extractLsb' 12 3)
  all_goals
    simp only [h3, BitVec.reduceEq, if_true, if_false] at h
    repeat' split at h
  all_goals cases h
  all_goals exact ⟨by simp only [Instr.wf, *], encode_eq_of_word rfl (by simp [rWord_eq_iff, iWord_eq_iff, append_two_three, append_three_one_eight, *])⟩

theorem decodeCustom2_faithful {w : BitVec 32} {i : Instr} (hopc : w.extractLsb' 0 7 = 0x5B) (h : decodeCustom2 w = some i) :
    i.wf = true ∧ encode i = [w] := by
  simp only [decodeCustom2, beq_iff_eq, Bool.and_eq_true] at h
  obtain h3 | h3 | h3 | h3 | h3 | h3 | h3 | h3 := three_bits (w.extractLsb' 12 3)
  all_goals
    simp only [h3, BitVec.reduceEq, if_true, if_false] at h
    repeat' split at h
  all_goals cases h
  all_goals exact ⟨by simp only [Instr.wf, *], encode_eq_of_word rfl (by simp [rWord_eq_iff, append_five_two, *])⟩

theorem decodeCustom3_faithful {w : BitVec 32} {i : Instr} (hopc : w.extractLsb' 0 7 = 0x7B) (h : decodeCustom3 w = some i) :
    i.wf = true ∧ encode i = [w] := by
  simp only [decodeCustom3, beq_iff_eq, Bool.and_eq_true, extract_nine_eq_zero] at h
  obtain h3 | h3 | h3 | h3 | h3 | h3 | h3 | h3 := three_bits (w.extractLsb' 12 3)
  all_goals
    simp only [h3, BitVec.reduceEq, if_true, if_false] at h
    repeat' split at h
  all_goals cases h
  all_goals exact ⟨by simp only [Instr.wf, *], encode_eq_of_word rfl (by simp [rWord_eq_iff, append_two_three, append_four_three, *])⟩

/-! ### The entries of the custom opcodes, by fields -/

/-- The word whose ones are the bits of the fields, each a lowest bit and a width. -/
def maskOf (F : List (Nat × Nat)) : BitVec 32 := F.foldr (fun f m => (BitVec.allOnes 32 >>> (32 - f.2)) <<< f.1 ||| m) 0

/-- The entries of `customRows`: the fields that an entry fixes, in a word that has its values (R84). -/
def customFields : List (List (Nat × Nat) × BitVec 32) :=
  [([(0, 7), (12, 3)], 0x0000000B),
   ([(0, 7), (7, 5), (12, 3), (20, 5), (25, 7)], 0x0000100B),
   ([(0, 7), (7, 5), (12, 3), (25, 7)], 0x0200100B),
   ([(0, 7), (7, 5), (12, 3), (15, 5), (20, 5), (25, 7)], 0x0400100B),
   ([(0, 7), (7, 5), (12, 3), (15, 5), (20, 5), (25, 7)], 0x0600100B),
   ([(0, 7), (7, 5), (12, 3), (15, 5), (20, 5), (25, 7)], 0x0800100B),
   ([(0, 7), (12, 3), (25, 7)], 0x0000200B),
   ([(0, 7), (12, 3), (25, 7)], 0x0200200B),
   ([(0, 7), (12, 3), (25, 7)], 0x0400200B),
   ([(0, 7), (12, 3), (25, 7)], 0x0600200B),
   ([(0, 7), (10, 2), (12, 3), (25, 7)], 0x0000300B),
   ([(0, 7), (7, 5), (12, 3), (15, 5), (22, 10)], 0x0000400B),
   ([(0, 7), (7, 5), (12, 3), (20, 5), (25, 7)], 0x0000500B),
   ([(0, 7), (7, 5), (12, 3), (20, 5), (25, 7)], 0x0200500B),
   ([(0, 7), (12, 3), (25, 7)], 0x0400500B),
   ([(0, 7), (7, 5), (12, 3), (15, 5), (20, 5), (25, 7)], 0x0000002B),
   ([(0, 7), (7, 5), (12, 3), (15, 5), (20, 5), (25, 7)], 0x0000102B),
   ([(0, 7), (12, 3), (15, 5), (20, 5), (25, 7)], 0x0000202B),
   ([(0, 7), (7, 5), (12, 3), (15, 5), (20, 5), (25, 7)], 0x0000302B),
   ([(0, 7), (10, 2), (12, 3), (15, 5), (20, 5), (25, 7)], 0x0000402B),
   ([(0, 7), (10, 2), (12, 3), (25, 7)], 0x0000502B),
   ([(0, 7), (10, 2), (12, 3), (20, 8)], 0x0000602B),
   ([(0, 7), (12, 3), (20, 5), (25, 7)], 0x0000702B),
   ([(0, 7), (12, 3), (25, 2)], 0x0000005B),
   ([(0, 7), (12, 3), (25, 2)], 0x0000105B),
   ([(0, 7), (12, 3), (25, 7)], 0x0000205B),
   ([(0, 7), (12, 3), (25, 7)], 0x0000305B),
   ([(0, 7), (12, 3), (25, 7)], 0x0000405B),
   ([(0, 7), (12, 3), (20, 5), (25, 7)], 0x0200405B),
   ([(0, 7), (12, 3), (25, 2)], 0x0000505B),
   ([(0, 7), (12, 3), (25, 7)], 0x0000605B),
   ([(0, 7), (12, 3), (25, 7)], 0x0200605B),
   ([(0, 7), (7, 5), (12, 3), (15, 5), (20, 5), (25, 7)], 0x0000705B),
   ([(0, 7), (7, 5), (12, 3), (25, 7)], 0x0200705B),
   ([(0, 7), (12, 3), (25, 7)], 0x0400705B),
   ([(0, 7), (12, 3), (20, 5), (25, 7)], 0x0000007B),
   ([(0, 7), (12, 3), (25, 7), (23, 2)], 0x0000107B),
   ([(0, 7), (12, 3), (28, 4)], 0x0000207B),
   ([(0, 7), (12, 3), (28, 4)], 0x1000207B),
   ([(0, 7), (12, 3), (25, 7)], 0x0000307B),
   ([(0, 7), (12, 3), (20, 5), (28, 4)], 0x0000407B),
   ([(0, 7), (12, 3), (25, 7)], 0x0000507B),
   ([(0, 7), (12, 3), (25, 7)], 0x0200507B),
   ([(0, 7), (12, 3), (25, 7)], 0x0400507B),
   ([(0, 7), (12, 3), (20, 5), (25, 7)], 0x0000607B),
   ([(0, 7), (12, 3), (25, 7)], 0x0000707B)]

theorem customRows_eq : customRows = customFields.map fun r => (maskOf r.1, r.2) := by decide

theorem maskOf_bits : ∀ r ∈ customFields, (∀ i < 32, (maskOf r.1).getLsbD i = r.1.any fun f => decide (f.1 ≤ i ∧ i < f.1 + f.2)) ∧
    r.2 &&& maskOf r.1 = r.2 := by decide

/-- A word is illegal in the custom opcodes when no entry has its fields, `fence.s` counting only with its scope in bounds (R85, R69). -/
theorem illegalLegal_iff (w : BitVec 32) : illegalLegal w = true ↔ isCustom w = true ∧ ∀ r ∈ customFields,
    (∀ f ∈ r.1, w.extractLsb' f.1 f.2 = r.2.extractLsb' f.1 f.2) → r.2 = 0x0000300B ∧ 4 < (w.extractLsb' 7 3).toNat := by
  simp only [illegalLegal, customRows_eq, Bool.and_eq_true, Bool.not_eq_true', List.any_eq_false, List.forall_mem_map, beq_iff_eq,
    Bool.or_eq_true, bne_iff_ne, decide_eq_true_eq]
  refine and_congr_right fun _ => forall₂_congr fun r hr => ?_
  obtain ⟨hmask, hv⟩ := maskOf_bits r hr
  rw [and_eq_iff_fields r.1 w (maskOf r.1) r.2 hmask hv]
  grind

theorem decodeCustom0_eq_none_iff {w : BitVec 32} (hopc : w.extractLsb' 0 7 = 0x0B) :
    decodeCustom0 w = none ↔ illegalLegal w = true := by
  simp only [illegalLegal_iff, isCustom, customFields, List.forall_mem_cons, List.not_mem_nil, false_implies, implies_true, and_true, hopc,
    BitVec.reduceExtractLsb', BitVec.reduceEq, false_and, true_and, beq_self_eq_true, Bool.true_or]
  simp only [decodeCustom0, beq_iff_eq, bne_iff_ne, ne_eq, Bool.and_eq_true, Bool.or_eq_true, ← Classical.not_and_iff_not_or_not, ite_not,
    decide_eq_true_eq]
  obtain h3 | h3 | h3 | h3 | h3 | h3 | h3 | h3 := three_bits (w.extractLsb' 12 3)
  all_goals
    simp only [h3, BitVec.reduceEq, if_true, if_false, false_and, true_and, false_implies, and_true]
    grind

theorem decodeCustom1_eq_none_iff {w : BitVec 32} (hopc : w.extractLsb' 0 7 = 0x2B) :
    decodeCustom1 w = none ↔ illegalLegal w = true := by
  simp only [illegalLegal_iff, isCustom, customFields, List.forall_mem_cons, List.not_mem_nil, false_implies, implies_true, and_true, hopc,
    BitVec.reduceExtractLsb', BitVec.reduceEq, false_and, true_and, beq_self_eq_true, Bool.or_true, Bool.true_or]
  simp only [decodeCustom1, beq_iff_eq, Bool.and_eq_true]
  obtain h3 | h3 | h3 | h3 | h3 | h3 | h3 | h3 := three_bits (w.extractLsb' 12 3)
  all_goals
    simp only [h3, BitVec.reduceEq, if_true, if_false, false_and, true_and, false_implies, and_true]
    grind

theorem decodeCustom2_eq_none_iff {w : BitVec 32} (hopc : w.extractLsb' 0 7 = 0x5B) :
    decodeCustom2 w = none ↔ illegalLegal w = true := by
  simp only [illegalLegal_iff, isCustom, customFields, List.forall_mem_cons, List.not_mem_nil, false_implies, implies_true, and_true, hopc,
    BitVec.reduceExtractLsb', BitVec.reduceEq, false_and, true_and, beq_self_eq_true, Bool.or_true, Bool.true_or]
  simp only [decodeCustom2, beq_iff_eq, Bool.and_eq_true]
  obtain h3 | h3 | h3 | h3 | h3 | h3 | h3 | h3 := three_bits (w.extractLsb' 12 3)
  all_goals
    simp only [h3, BitVec.reduceEq, if_true, if_false, false_and, true_and, false_implies, and_true]
    grind

theorem decodeCustom3_eq_none_iff {w : BitVec 32} (hopc : w.extractLsb' 0 7 = 0x7B) :
    decodeCustom3 w = none ↔ illegalLegal w = true := by
  simp only [illegalLegal_iff, isCustom, customFields, List.forall_mem_cons, List.not_mem_nil, false_implies, implies_true, and_true, hopc,
    BitVec.reduceExtractLsb', BitVec.reduceEq, false_and, true_and, beq_self_eq_true, Bool.or_true]
  simp only [decodeCustom3, beq_iff_eq, Bool.and_eq_true, extract_nine_eq_zero]
  obtain h3 | h3 | h3 | h3 | h3 | h3 | h3 | h3 := three_bits (w.extractLsb' 12 3)
  all_goals
    simp only [h3, BitVec.reduceEq, if_true, if_false, false_and, true_and, false_implies, and_true]
    grind

end Sys2Proof
end

section
/-! PROOF. The standard RISC-V words, and that a word which decodes is the encoding of what it decodes to (O5). -/

namespace Sys2Proof

/-! ### The standard words -/

/-- A CSR word that does not write reads: it sets or clears with no bit (Zicsr). -/
theorem csrRead_of_not_writeLegal {f3 : BitVec 3} {src : BitVec 5} (h0 : f3 ≠ 0) (h4 : f3 ≠ 4) (hw : csrWriteLegal f3 src = false) :
    (f3 == 2 || f3 == 3 || f3 == 6 || f3 == 7) = true ∧ src = 0 := by
  obtain h3 | h3 | h3 | h3 | h3 | h3 | h3 | h3 := three_bits f3 <;> simp_all [csrWriteLegal]

theorem ofBool_beq_one (x : BitVec 1) : BitVec.ofBool (x == 1#1) = x := by
  revert x; decide

theorem append_extract_high (a : BitVec 7) (b : BitVec 5) : (a ++ b).extractLsb' 5 7 = a := by
  ext i hi; simp; grind

theorem append_extract_low (a : BitVec 7) (b : BitVec 5) : (a ++ b).extractLsb' 0 5 = b := by
  ext i hi; simp; grind


/-- The part of `decodeStd` for the system opcode. -/
def decodeSystem (w : BitVec 32) : Option Instr :=
  let f3 := w.extractLsb' 12 3
  let rd := w.extractLsb' 7 5
  let rs1 := w.extractLsb' 15 5
  let imm := w.extractLsb' 20 12
  if f3 = 0 then
    if w = 0x00000073 then some .ecallSubmit
    else if w = 0x10500073 then some .wfi
    else if w.extractLsb' 25 7 = 0x09 ∧ rd = 0 then some (.sfenceVma rs1 (w.extractLsb' 20 5))
    else none
  else if f3 = 4 then none
  else if csrWriteLegal f3 rs1 then
    if imm = 0x800 then some (.vcfgWrite f3 rd rs1)
    else if imm = 0x5C5 then some (.lanemapWrite f3 rd rs1)
    else if imm = 0x808 then some (.mcfgWrite f3 rd rs1)
    else if imm = 0x180 then some (.satpWrite f3 rd rs1)
    else some (.csrWrite imm f3 rd rs1)
  else some (.csrRead imm f3 rd)

/-- The part of `decodeStd` for memory words. -/
def decodeAccess (w : BitVec 32) : Option Instr :=
  let opc := w.extractLsb' 0 7
  let f3 := w.extractLsb' 12 3
  let rd := w.extractLsb' 7 5
  let rs1 := w.extractLsb' 15 5
  let rs2 := w.extractLsb' 20 5
  let imm := w.extractLsb' 20 12
  if opc = 0x03 then if f3 = 7 then none else some (.scalarLoad false f3 rd rs1 imm)
  else if opc = 0x07 then if f3 = 2 ∨ f3 = 3 then some (.scalarLoad true f3 rd rs1 imm) else none
  else if opc = 0x23 then if f3.toNat ≤ 3 then some (.scalarStore false f3 rs1 rs2 (w.extractLsb' 25 7 ++ rd)) else none
  else if opc = 0x27 then if f3 = 2 ∨ f3 = 3 then some (.scalarStore true f3 rs1 rs2 (w.extractLsb' 25 7 ++ rd)) else none
  else none

/-- The part of `decodeStd` for fences and atomics. -/
def decodeOrder (w : BitVec 32) : Option Instr :=
  let opc := w.extractLsb' 0 7
  let f3 := w.extractLsb' 12 3
  let f5 := w.extractLsb' 27 5
  let rd := w.extractLsb' 7 5
  let rs1 := w.extractLsb' 15 5
  let rs2 := w.extractLsb' 20 5
  let aq := w.extractLsb' 26 1 == 1
  let rl := w.extractLsb' 25 1 == 1
  if opc = 0x0F then
    if f3 = 0 then some (.fence (w.extractLsb' 28 4) (w.extractLsb' 24 4) (w.extractLsb' 20 4) rd rs1)
    else if f3 = 1 then some (.fenceI (w.extractLsb' 20 12) rd rs1) else none
  else if opc = 0x2F then
    if f5 = 2 then if rs2 = 0 ∧ (f3 = 2 ∨ f3 = 3) then some (.lr aq rl f3 rd rs1) else none
    else if f5 = 3 then if f3 = 2 ∨ f3 = 3 then some (.sc aq rl f3 rd rs1 rs2) else none
    else if amoLegal f5 f3 rd rs2 then some (.scalarAmo f5 aq rl f3 rd rs1 rs2) else none
  else none

theorem decodeStd_eq (w : BitVec 32) : decodeStd w =
    if w.extractLsb' 0 7 = 0x73 then decodeSystem w
    else if w.extractLsb' 0 7 ∈ [0x03, 0x07, 0x23, 0x27] then decodeAccess w else decodeOrder w := by
  simp only [decodeStd, decodeSystem, decodeAccess, decodeOrder, beq_iff_eq, bne_iff_ne, ne_eq, Bool.and_eq_true, Bool.or_eq_true,
    decide_eq_true_eq, ite_not]
  grind

theorem decodeSystem_faithful {w : BitVec 32} {i : Instr} (hopc : w.extractLsb' 0 7 = 0x73) (h : decodeSystem w = some i) :
    i.wf = true ∧ encode i = [w] := by
  by_cases hecall : w = 0x00000073
  · subst hecall
    obtain rfl : i = .ecallSubmit := Option.some.inj (h.symm.trans (by decide))
    exact ⟨rfl, rfl⟩
  by_cases hwfi : w = 0x10500073
  · subst hwfi
    obtain rfl : i = .wfi := Option.some.inj (h.symm.trans (by decide))
    exact ⟨rfl, rfl⟩
  simp only [decodeSystem, if_neg hecall, if_neg hwfi] at h
  repeat' split at h
  all_goals cases h
  · exact ⟨rfl, encode_eq_of_word rfl (by simp [rWord_eq_iff, *])⟩
  next hwrite _ => exact ⟨hwrite, encode_eq_of_word rfl (by simp [iWord_eq_iff, *])⟩
  next hwrite _ _ => exact ⟨hwrite, encode_eq_of_word rfl (by simp [iWord_eq_iff, *])⟩
  next hwrite _ _ _ => exact ⟨hwrite, encode_eq_of_word rfl (by simp [iWord_eq_iff, *])⟩
  next hwrite _ _ _ _ => exact ⟨hwrite, encode_eq_of_word rfl (by simp [iWord_eq_iff, *])⟩
  next hwrite hvcfg hlane hmcfg hsatp =>
    exact ⟨by simpa [Instr.wf, hwrite] using ⟨⟨⟨hvcfg, hlane⟩, hmcfg⟩, hsatp⟩, encode_eq_of_word rfl (by simp [iWord_eq_iff, *])⟩
  next hf3 hnone hwrite =>
    obtain ⟨hread, hsrc⟩ := csrRead_of_not_writeLegal hf3 hnone (Bool.not_eq_true _ ▸ hwrite)
    exact ⟨hread, encode_eq_of_word rfl (by simp [iWord_eq_iff, *])⟩

theorem decodeAccess_faithful {w : BitVec 32} {i : Instr} (h : decodeAccess w = some i) : i.wf = true ∧ encode i = [w] := by
  simp only [decodeAccess] at h
  repeat' split at h
  all_goals cases h
  next hseven => exact ⟨by simpa [Instr.wf] using hseven, encode_eq_of_word rfl (by simp [iWord_eq_iff, *])⟩
  next hwide => exact ⟨by simpa [Instr.wf] using hwide, encode_eq_of_word rfl (by simp [iWord_eq_iff, *])⟩
  next hwidth =>
    exact ⟨by simp only [Instr.wf, hwidth, decide_true, Bool.false_eq_true, if_false],
      encode_eq_of_word rfl (by simp [rWord_eq_iff, append_extract_high, append_extract_low, *])⟩
  next hwide =>
    exact ⟨by simpa [Instr.wf] using hwide,
      encode_eq_of_word rfl (by simp [rWord_eq_iff, append_extract_high, append_extract_low, *])⟩

theorem decodeOrder_faithful {w : BitVec 32} {i : Instr} (h : decodeOrder w = some i) : i.wf = true ∧ encode i = [w] := by
  simp only [decodeOrder] at h
  repeat' split at h
  all_goals cases h
  · exact ⟨rfl, encode_eq_of_word rfl (by simp [iWord_eq_iff, append_four_four_four, *])⟩
  · exact ⟨rfl, encode_eq_of_word rfl (by simp [iWord_eq_iff, *])⟩
  next hlegal =>
    exact ⟨by simpa [Instr.wf] using hlegal.2, encode_eq_of_word rfl (by simp [rWord_eq_iff, append_five_one_one, ofBool_beq_one, *])⟩
  next hlegal =>
    exact ⟨by simpa [Instr.wf] using hlegal, encode_eq_of_word rfl (by simp [rWord_eq_iff, append_five_one_one, ofBool_beq_one, *])⟩
  next hamo => exact ⟨hamo, encode_eq_of_word rfl (by simp [rWord_eq_iff, append_five_one_one, ofBool_beq_one, *])⟩

theorem decodeStd_faithful {w : BitVec 32} {i : Instr} (h : decodeStd w = some i) : i.wf = true ∧ encode i = [w] := by
  rw [decodeStd_eq] at h
  split at h
  next hsys => exact decodeSystem_faithful hsys h
  · split at h
    · exact decodeAccess_faithful h
    · exact decodeOrder_faithful h

/-- A custom word decodes as its opcode's decoder says, or is the illegal instruction that no entry admits. -/
theorem getD_illegal_faithful {w : BitVec 32} {d : BitVec 32 → Option Instr} {i : Instr}
    (hsome : ∀ j, d w = some j → j.wf = true ∧ encode j = [w]) (hnone : d w = none ↔ illegalLegal w = true)
    (h : some ((d w).getD (.illegalInstruction w)) = some i) : i.wf = true ∧ encode i = [w] := by
  cases hd : d w with
  | none =>
    rw [hd] at h
    cases h
    exact ⟨hnone.mp hd, rfl⟩
  | some j =>
    rw [hd] at h
    cases h
    exact hsome j hd

theorem decodeHart_custom0 {w : BitVec 32} (h : w.extractLsb' 0 7 = 0x0B) :
    decodeHart w = some ((decodeCustom0 w).getD (.illegalInstruction w)) := by
  simp [decodeHart, h]
theorem decodeHart_custom1 {w : BitVec 32} (h : w.extractLsb' 0 7 = 0x2B) :
    decodeHart w = some ((decodeCustom1 w).getD (.illegalInstruction w)) := by
  simp [decodeHart, h]
theorem decodeHart_custom2 {w : BitVec 32} (h : w.extractLsb' 0 7 = 0x5B) :
    decodeHart w = some ((decodeCustom2 w).getD (.illegalInstruction w)) := by
  simp [decodeHart, h]
theorem decodeHart_custom3 {w : BitVec 32} (h : w.extractLsb' 0 7 = 0x7B) :
    decodeHart w = some ((decodeCustom3 w).getD (.illegalInstruction w)) := by
  simp [decodeHart, h]
theorem decodeHart_std {w : BitVec 32} (h : isCustom w = false) : decodeHart w = decodeStd w := by
  simp only [isCustom, Bool.or_eq_false_iff] at h
  obtain ⟨⟨⟨h0, h1⟩, h2⟩, h3⟩ := h
  simp only [decodeHart, h0, h1, h2, h3, Bool.false_eq_true, if_false]

theorem isCustom_iff (w : BitVec 32) : isCustom w = true ↔ w.extractLsb' 0 7 = 0x0B ∨ w.extractLsb' 0 7 = 0x2B ∨
    w.extractLsb' 0 7 = 0x5B ∨ w.extractLsb' 0 7 = 0x7B := by
  simp only [isCustom, Bool.or_eq_true, beq_iff_eq, or_assoc]

/-- Settles O5: each decoder's leaf fixes the fields that its entry encodes, and a custom word that no leaf takes is illegal. -/
theorem hartWordsFaithful : Obligations.HartWordsFaithful := by
  refine ⟨fun w i h => ?_, fun w hcustom => ?_⟩
  · cases hcustom : isCustom w with
    | false => exact decodeStd_faithful (decodeHart_std hcustom ▸ h)
    | true =>
      rcases (isCustom_iff w).mp hcustom with hopc | hopc | hopc | hopc
      · exact getD_illegal_faithful (fun _ => decodeCustom0_faithful hopc) (decodeCustom0_eq_none_iff hopc) (decodeHart_custom0 hopc ▸ h)
      · exact getD_illegal_faithful (fun _ => decodeCustom1_faithful hopc) (decodeCustom1_eq_none_iff hopc) (decodeHart_custom1 hopc ▸ h)
      · exact getD_illegal_faithful (fun _ => decodeCustom2_faithful hopc) (decodeCustom2_eq_none_iff hopc) (decodeHart_custom2 hopc ▸ h)
      · exact getD_illegal_faithful (fun _ => decodeCustom3_faithful hopc) (decodeCustom3_eq_none_iff hopc) (decodeHart_custom3 hopc ▸ h)
  · rcases (isCustom_iff w).mp hcustom with hopc | hopc | hopc | hopc
    · rw [decodeHart_custom0 hopc]; rfl
    · rw [decodeHart_custom1 hopc]; rfl
    · rw [decodeHart_custom2 hopc]; rfl
    · rw [decodeHart_custom3 hopc]; rfl

end Sys2Proof
end

section
/-! PROOF. An instruction's word decodes to the instruction: its fields read back from the word (O4). -/

namespace Sys2Proof

open Sys2Proof.Claims

/-! ### From an instruction to its word and back -/

theorem decodeA_of_aForm {o : BitVec 8} {c : AForm → Instr} {a : AForm} {w : BitVec 32} (hwf : (c a).wf = true)
    (hword : [a.word o] = [w]) (hrow : aRows.lookup o.toNat = some c) : decodeA w = some (c a) := by
  obtain rfl := List.singleton_inj.mp hword
  simp only [decodeA, AForm.opcode_word, hrow, AForm.ofWord_word, ifLegal_of_wf hwf]

theorem decodeA_of_iForm {o : BitVec 8} {c : IForm → Instr} {a : IForm} {w : BitVec 32} (hwf : (c a).wf = true)
    (hword : [a.word o] = [w]) (hnot : aRows.lookup o.toNat = none) (hrow : aiRows.lookup o.toNat = some c) : decodeA w = some (c a) := by
  obtain rfl := List.singleton_inj.mp hword
  simp only [decodeA, IForm.opcode_word, hnot, hrow, IForm.ofWord_word, ifLegal_of_wf hwf]

theorem decodeM_of_rForm {o : BitVec 7} {c : RForm → Instr} {r : RForm} {w lit : BitVec 32} (hwf : (c r).wf = true)
    (hword : [r.word 0 o] = [w]) (hrow : rRows.lookup o.toNat = some c) : decodeM w lit = some (c r) := by
  obtain rfl := List.singleton_inj.mp hword
  obtain ⟨hopc, hl⟩ := r.opcode_word 0 o
  rw [decodeM_of_clear hl]
  simp only [decodeMPaired, hopc, hrow, RForm.ofWord_word, ifLegal_of_wf hwf]

theorem decodeM_of_mForm {o : BitVec 7} {c : MForm → Instr} {m : MForm} {w lit : BitVec 32} (hwf : (c m).wf = true)
    (hword : [m.word 0 o] = [w]) (hnot : rRows.lookup o.toNat = none) (hrow : mRows.lookup o.toNat = some c) : decodeM w lit = some (c m) := by
  obtain rfl := List.singleton_inj.mp hword
  obtain ⟨hopc, hl⟩ := m.opcode_word 0 o
  rw [decodeM_of_clear hl]
  simp only [decodeMPaired, hopc, hnot, hrow, MForm.ofWord_word, ifLegal_of_wf hwf]

theorem decodeM_of_tForm {o : BitVec 7} {c : TForm → Instr} {t : TForm} {w lit : BitVec 32} (hwf : (c t).wf = true)
    (hword : [t.word 0 o] = [w]) (hnotR : rRows.lookup o.toNat = none) (hnotM : mRows.lookup o.toNat = none)
    (hrow : tRows.lookup o.toNat = some c) : decodeM w lit = some (c t) := by
  obtain rfl := List.singleton_inj.mp hword
  obtain ⟨hopc, hl⟩ := t.opcode_word 0 o
  rw [decodeM_of_clear hl]
  simp only [decodeMPaired, hopc, hnotR, hnotM, hrow, TForm.ofWord_word, ifLegal_of_wf hwf]

theorem fields_of_rWord {f7 : BitVec 7} {rs2 rs1 : BitVec 5} {f3 : BitVec 3} {rd : BitVec 5} {opc : BitVec 7} {w : BitVec 32}
    (h : [rWord f7 rs2 rs1 f3 rd opc] = [w]) : w.extractLsb' 0 7 = opc ∧ w.extractLsb' 7 5 = rd ∧ w.extractLsb' 12 3 = f3 ∧
      w.extractLsb' 15 5 = rs1 ∧ w.extractLsb' 20 5 = rs2 ∧ w.extractLsb' 25 7 = f7 := by
  obtain ⟨h25, h20, h15, h12, h7, h0⟩ := (rWord_eq_iff f7 rs2 rs1 f3 rd opc w).mp (List.singleton_inj.mp h)
  exact ⟨h0.symm, h7.symm, h12.symm, h15.symm, h20.symm, h25.symm⟩

theorem fields_of_iWord {imm : BitVec 12} {rs1 : BitVec 5} {f3 : BitVec 3} {rd : BitVec 5} {opc : BitVec 7} {w : BitVec 32}
    (h : [iWord imm rs1 f3 rd opc] = [w]) : w.extractLsb' 0 7 = opc ∧ w.extractLsb' 7 5 = rd ∧ w.extractLsb' 12 3 = f3 ∧
      w.extractLsb' 15 5 = rs1 ∧ w.extractLsb' 20 12 = imm := by
  obtain ⟨h20, h15, h12, h7, h0⟩ := (iWord_eq_iff imm rs1 f3 rd opc w).mp (List.singleton_inj.mp h)
  exact ⟨h0.symm, h7.symm, h12.symm, h15.symm, h20.symm⟩

/-- A CSR instruction that writes is none of the forms that do not (Zicsr). -/
theorem csrWriteLegal_form {f3 : BitVec 3} {src : BitVec 5} (h : csrWriteLegal f3 src = true) : f3 ≠ 0 ∧ f3 ≠ 4 := by
  obtain h3 | h3 | h3 | h3 | h3 | h3 | h3 | h3 := three_bits f3 <;> simp_all [csrWriteLegal]

theorem csrRead_form {f3 : BitVec 3} (h : (f3 == 2 || f3 == 3 || f3 == 6 || f3 == 7) = true) :
    f3 ≠ 0 ∧ f3 ≠ 4 ∧ csrWriteLegal f3 0 = false := by
  obtain h3 | h3 | h3 | h3 | h3 | h3 | h3 | h3 := three_bits f3 <;> simp_all [csrWriteLegal]

theorem decodeHart_system {w : BitVec 32} (hopc : w.extractLsb' 0 7 = 0x73) : decodeHart w = decodeSystem w := by
  rw [decodeHart_std (by simp [isCustom, hopc]), decodeStd_eq, if_pos hopc]

theorem decodeHart_access {w : BitVec 32} (hopc : w.extractLsb' 0 7 ∈ [0x03, 0x07, 0x23, 0x27]) : decodeHart w = decodeAccess w := by
  have hstd : isCustom w = false ∧ w.extractLsb' 0 7 ≠ 0x73 := by
    simp only [List.mem_cons, List.not_mem_nil, or_false] at hopc
    rcases hopc with h | h | h | h <;> simp [isCustom, h]
  rw [decodeHart_std hstd.1, decodeStd_eq, if_neg hstd.2, if_pos hopc]

theorem decodeHart_order {w : BitVec 32} (hopc : w.extractLsb' 0 7 = 0x0F ∨ w.extractLsb' 0 7 = 0x2F) : decodeHart w = decodeOrder w := by
  have hstd : isCustom w = false ∧ w.extractLsb' 0 7 ≠ 0x73 ∧ w.extractLsb' 0 7 ∉ [(0x03 : BitVec 7), 0x07, 0x23, 0x27] := by
    rcases hopc with h | h <;> simp [isCustom, h]
  rw [decodeHart_std hstd.1, decodeStd_eq, if_neg hstd.2.1, if_neg hstd.2.2]

theorem decodeHart_illegal {w : BitVec 32} (h : illegalLegal w = true) : decodeHart w = some (.illegalInstruction w) := by
  rcases (isCustom_iff w).mp ((illegalLegal_iff w).mp h).1 with hopc | hopc | hopc | hopc
  · rw [decodeHart_custom0 hopc, (decodeCustom0_eq_none_iff hopc).mpr h, Option.getD_none]
  · rw [decodeHart_custom1 hopc, (decodeCustom1_eq_none_iff hopc).mpr h, Option.getD_none]
  · rw [decodeHart_custom2 hopc, (decodeCustom2_eq_none_iff hopc).mpr h, Option.getD_none]
  · rw [decodeHart_custom3 hopc, (decodeCustom3_eq_none_iff hopc).mpr h, Option.getD_none]

theorem beq_one_of_ofBool {b : Bool} {lo : Nat} {w : BitVec 32} (h : BitVec.ofBool b = w.extractLsb' lo 1) :
    (w.extractLsb' lo 1 == 1) = b := by
  rw [← h]; cases b <;> rfl

theorem append_extract_imm (imm : BitVec 12) : imm.extractLsb' 5 7 ++ imm.extractLsb' 0 5 = imm := by
  ext i hi; simp; grind

/-- An instruction with one word decodes from it: in its slot, or as a hart word up to the row that operands choose. -/
theorem decodes_of_encode {i : Instr} {w : BitVec 32} (hwf : i.wf = true) (hword : encode i = [w]) :
    decodeA w = some i ∨ decodeM w 0 = some i ∨ decodeHart w = some (firstRow i) := by
  cases i
  case add | sub | mul | mulh | div | rem | and | or | xor | andn | sll | srl | sra | rot | min | max | abs | clz | ctz | popc | cmp |
      bfx | bfi | dot4 | redsum | redmin | redmax | redand | redor | pfx | vconf | cmpr | perm | slide | bcast | fadd | fsub | fmul |
      fma | fdiv | fsqrt | fmin | fmax | fsgnj | fcmp | fclass | frcp | frsq | fex2 | flg2 | fsin | fcos | fdot2 | fredsum | fredmm |
      fwid | fnar | fcvtd | f2i | i2f | mxscl | mxcvt | mxexp | pand | por | pxor | pnot | pandn | pcnt | pffs | mov | sel | nul =>
    exact .inl (decodeA_of_aForm hwf hword rfl)
  case addi | andi | ori | xori | slli | srli | srai | muli | cmpi =>
    exact .inl (decodeA_of_iForm hwf hword rfl rfl)
  case vget | pget | xget | sget | vput | pput | xput | tsmv | ost =>
    exact .inr (.inl (decodeM_of_rForm hwf hword rfl))
  case ld | lds | ldx | ldb | ldbx | st | sts | stx | amo | acas | tsld | tsst =>
    exact .inr (.inl (decodeM_of_mForm hwf hword rfl rfl))
  case rbox | rtri =>
    exact .inr (.inl (decodeM_of_tForm hwf hword rfl rfl rfl))
  case const | iota | ldLone | ldsLone | ldxLone | ldbLone | ldbxLone | stLone | stsLone | stxLone | tfl | tld =>
    exact absurd (List.cons.inj hword).2 (List.cons_ne_nil _ _)
  case bx | bloop | bwait | bretry | bkill | sigadd | sigor | sigwait | sigwaitm | ctxsave | ctxload | lgset =>
    obtain ⟨hopc, h7, h12, h15, h20, h25⟩ := fields_of_rWord hword
    right; right
    dsimp only [firstRow]
    simp [decodeHart_custom0 hopc, decodeCustom0, h7, h12, h15, h20, h25]
  case vsetl =>
    obtain ⟨hopc, h7, h12, h15, h20⟩ := fields_of_iWord hword
    right; right
    dsimp only [firstRow]
    simp [decodeHart_custom0 hopc, decodeCustom0, h7, h12, h15, h20]
  case fenceS =>
    obtain ⟨hopc, h7, h12, h15, h20, h25⟩ := fields_of_rWord hword
    obtain ⟨hhigh, hlow⟩ := (append_two_three _ _ _ _).mp h7.symm
    have hscope := of_decide_eq_true hwf
    right; right
    dsimp only [firstRow]
    simp [decodeHart_custom0 hopc, decodeCustom0, hscope, h12, h15, h20, h25, ← hhigh, ← hlow]
  case gbar =>
    obtain ⟨hopc, h7, h12, h15, h20⟩ := fields_of_iWord hword
    obtain ⟨hhigh, hlow⟩ := (append_ten_two _ _ _ _).mp h20.symm
    right; right
    dsimp only [firstRow]
    simp [decodeHart_custom0 hopc, decodeCustom0, h7, h12, h15, ← hhigh, ← hlow]
  case menable | mdisable | mclaim | mrel | mstatStatus | mstatDrain | mstatEdge =>
    obtain ⟨hopc, h7, h12, h15, h20, h25⟩ := fields_of_rWord hword
    right; right
    dsimp only [firstRow]
    simp [decodeHart_custom1 hopc, decodeCustom1, h7, h12, h15, h20, h25]
  case mzero | medge =>
    obtain ⟨hopc, h7, h12, h15, h20, h25⟩ := fields_of_rWord hword
    obtain ⟨hhigh, hlow⟩ := (append_two_three _ _ _ _).mp h7.symm
    right; right
    dsimp only [firstRow]
    simp [decodeHart_custom1 hopc, decodeCustom1, h12, h15, h20, h25, ← hhigh, ← hlow]
  case mop =>
    obtain ⟨hopc, h7, h12, h15, h20⟩ := fields_of_iWord hword
    obtain ⟨htz, ht⟩ := (append_two_three _ _ _ _).mp h7.symm
    obtain ⟨⟨hfmt, hi32⟩, hzero⟩ := (append_three_one_eight _ _ _ _ _).mp h20.symm
    right; right
    dsimp only [firstRow]
    simp [decodeHart_custom1 hopc, decodeCustom1, h12, h15, ← htz, ← ht, ← hfmt, ← hi32, ← hzero]
  case cpyqState | cpyqRetry | cpyqAbandon | cpyqNext | cpyqFaddr | tqput | tqputLoopback | tqdep | tqdec | tkwait | tkdone | tqdone |
      tqyield | tqstatDepth | tqstatRun | tqstatState | tqstatPrio | tqstatOvf | tqstatInst | tqstatSlice | tqstatGroups =>
    obtain ⟨hopc, h7, h12, h15, h20, h25⟩ := fields_of_rWord hword
    right; right
    dsimp only [firstRow]
    simp [decodeHart_custom2 hopc, decodeCustom2, h7, h12, h15, h20, h25]
  case cpy | cpy2 | tqat =>
    obtain ⟨hopc, h7, h12, h15, h20, h25⟩ := fields_of_rWord hword
    obtain ⟨hhigh, hlow⟩ := (append_five_two _ _ _ _).mp h25.symm
    right; right
    dsimp only [firstRow]
    simp [decodeHart_custom2 hopc, decodeCustom2, h7, h12, h15, h20, ← hhigh, ← hlow]
  case rpub | rviewV | rviewFloor | rviewWord0 | rviewWord1 | nsend | nwrite | nread | nfence | nstatState | nstatNext | nstatPending |
      nstatCtva | nstatPtp =>
    obtain ⟨hopc, h7, h12, h15, h20, h25⟩ := fields_of_rWord hword
    right; right
    dsimp only [firstRow]
    simp [decodeHart_custom3 hopc, decodeCustom3, h7, h12, h15, h20, h25]
  case racq =>
    obtain ⟨hopc, h7, h12, h15, h20, h25⟩ := fields_of_rWord hword
    obtain ⟨hhigh, hlow⟩ := (append_two_three _ _ _ _).mp h20.symm
    have h23 : w.extractLsb' 23 9 = 0#9 := (extract_nine_eq_zero w).mpr ⟨h25, hhigh.symm⟩
    right; right
    dsimp only [firstRow]
    simp [decodeHart_custom3 hopc, decodeCustom3, h23, h7, h12, h15, ← hlow]
  case rwinAbs | rwinLag | ldbw =>
    obtain ⟨hopc, h7, h12, h15, h20, h25⟩ := fields_of_rWord hword
    obtain ⟨hhigh, hlow⟩ := (append_four_three _ _ _ _).mp h25.symm
    right; right
    dsimp only [firstRow]
    simp [decodeHart_custom3 hopc, decodeCustom3, h7, h12, h15, h20, ← hhigh, ← hlow]
  case sfenceVma =>
    obtain ⟨hopc, h7, h12, h15, h20, h25⟩ := fields_of_rWord hword
    have hecall : w ≠ 0x00000073 := by rintro rfl; exact absurd h25 (by decide)
    have hwfi : w ≠ 0x10500073 := by rintro rfl; exact absurd h25 (by decide)
    right; right
    dsimp only [firstRow]
    rw [decodeHart_system hopc]
    simp only [decodeSystem, h12, h25, h7, h15, h20, if_neg hecall, if_neg hwfi, if_true, and_self]
  case vcfgWrite | lanemapWrite | mcfgWrite | satpWrite =>
    obtain ⟨hopc, h7, h12, h15, h20⟩ := fields_of_iWord hword
    obtain ⟨h0, h4⟩ := csrWriteLegal_form hwf
    right; right
    dsimp only [firstRow]
    rw [decodeHart_system hopc]
    simp only [decodeSystem, h12, h15, h20, h7, if_neg h0, if_neg h4, BitVec.reduceEq, if_true, if_false]
    exact if_pos hwf
  case csrWrite =>
    obtain ⟨hopc, h7, h12, h15, h20⟩ := fields_of_iWord hword
    obtain ⟨hwrite, hown⟩ := Bool.and_eq_true_iff.mp hwf
    obtain ⟨h0, h4⟩ := csrWriteLegal_form hwrite
    right; right
    dsimp only [firstRow]
    simp_all [decodeHart_system hopc, decodeSystem]
  case csrRead =>
    obtain ⟨hopc, h7, h12, h15, h20⟩ := fields_of_iWord hword
    obtain ⟨h0, h4, hread⟩ := csrRead_form hwf
    right; right
    dsimp only [firstRow]
    simp_all [decodeHart_system hopc, decodeSystem]
  case scalarLoad fp f3 rd rs1 imm =>
    obtain ⟨hopc, h7, h12, h15, h20⟩ := fields_of_iWord hword
    right; right
    dsimp only [firstRow]
    cases fp <;> simp_all [decodeHart_access, decodeAccess, Instr.wf]
  case scalarStore fp f3 rs1 rs2 imm =>
    obtain ⟨hopc, h7, h12, h15, h20, h25⟩ := fields_of_rWord hword
    right; right
    dsimp only [firstRow]
    cases fp <;> simp_all [decodeHart_access, decodeAccess, Instr.wf, append_extract_imm]
  case fence =>
    obtain ⟨hopc, h7, h12, h15, h20⟩ := fields_of_iWord hword
    obtain ⟨⟨hfm, hpred⟩, hsucc⟩ := (append_four_four_four _ _ _ _ _).mp h20.symm
    right; right
    dsimp only [firstRow]
    simp [decodeHart_order (.inl hopc), decodeOrder, hopc, h7, h12, h15, ← hfm, ← hpred, ← hsucc]
  case fenceI =>
    obtain ⟨hopc, h7, h12, h15, h20⟩ := fields_of_iWord hword
    right; right
    dsimp only [firstRow]
    simp [decodeHart_order (.inl hopc), decodeOrder, hopc, h7, h12, h15, h20]
  case lr =>
    obtain ⟨hopc, h7, h12, h15, h20, h25⟩ := fields_of_rWord hword
    obtain ⟨⟨hf5, haq⟩, hrl⟩ := (append_five_one_one _ _ _ _ _).mp h25.symm
    have hlegal := by simpa only [Instr.wf, Bool.or_eq_true, beq_iff_eq] using hwf
    right; right
    dsimp only [firstRow]
    rw [decodeHart_order (.inr hopc)]
    simp only [decodeOrder, hopc, h7, h12, h15, h20, ← hf5, BitVec.reduceEq, if_true, if_false, true_and, if_pos hlegal,
      beq_one_of_ofBool haq, beq_one_of_ofBool hrl]
  case sc =>
    obtain ⟨hopc, h7, h12, h15, h20, h25⟩ := fields_of_rWord hword
    obtain ⟨⟨hf5, haq⟩, hrl⟩ := (append_five_one_one _ _ _ _ _).mp h25.symm
    have hlegal := by simpa only [Instr.wf, Bool.or_eq_true, beq_iff_eq] using hwf
    right; right
    dsimp only [firstRow]
    rw [decodeHart_order (.inr hopc)]
    simp only [decodeOrder, hopc, h7, h12, h15, h20, ← hf5, BitVec.reduceEq, if_true, if_false, if_pos hlegal,
      beq_one_of_ofBool haq, beq_one_of_ofBool hrl]
  case scalarAmo f5 aq rl f3 rd rs1 rs2 =>
    obtain ⟨hopc, h7, h12, h15, h20, h25⟩ := fields_of_rWord hword
    obtain ⟨⟨hf5, haq⟩, hrl⟩ := (append_five_one_one _ _ _ _ _).mp h25.symm
    have hlegal : amoLegal f5 f3 rd rs2 = true := hwf
    have hf5' : f5 ≠ 2 ∧ f5 ≠ 3 := by constructor <;> rintro rfl <;> simp [amoLegal] at hlegal
    right; right
    dsimp only [firstRow]
    rw [decodeHart_order (.inr hopc)]
    simp only [decodeOrder, hopc, h7, h12, h15, h20, ← hf5, if_neg hf5'.1, if_neg hf5'.2,
      if_pos hlegal, BitVec.reduceEq, if_true, if_false, beq_one_of_ofBool haq, beq_one_of_ofBool hrl]
  case wfi | ecallSubmit | ecallPost | ecallReport =>
    obtain rfl := List.singleton_inj.mp hword
    exact .inr (.inr (by decide))
  case illegalInstruction =>
    obtain rfl := List.singleton_inj.mp hword
    exact .inr (.inr (decodeHart_illegal hwf))
  all_goals exact absurd hword.symm (List.cons_ne_nil _ _)

/-- Settles O4: the word of a hart instruction has its fields, which lead its decoder to the instruction. -/
theorem hartWordsRoundTrip : Obligations.HartWordsRoundTrip := fun _ _ hwf hword hnotA hnotM =>
  ((decodes_of_encode hwf hword).resolve_left hnotA).resolve_left hnotM

end Sys2Proof
end

section
/-! PROOF. Retiring with a result (O8), and a firing that is ready puts its results into its targets: the equation of the element-wise
instructions and of the collectives. -/

namespace Sys2Proof.Machine

open Sys2Proof.Claims

/-! ### Retiring -/

/-- Every x register after retiring with a result is that of the write. -/
theorem State.retireX_xr (s : State) (rd : BitVec 5) (v : Word) (r : Nat) :
    (s.retireX rd v).me.xr r = (s.me.setX rd.toNat v).xr r := by
  simp [State.retireX, Hart.xr]

/-- Retiring with a result counts the instruction in `minstret` and leaves every other CSR (R82). -/
theorem State.retireX_cs (s : State) (rd : BitVec 5) (v : Word) (n : Nat) :
    (s.retireX rd v).me.cs n = if n = 0xB02 then s.me.cs n + 1 else s.me.cs n := by
  split
  · next h => subst h; simp [State.retireX, Hart.cs]
  · next h => exact s.retireX_cs_of_ne rd v h

theorem State.hart_retireX_ne (s : State) (rd : BitVec 5) (v : Word) {h : Nat} (hh : h ≠ s.cur) :
    (s.retireX rd v).hart h = s.hart h := by
  rw [State.retireX, State.hart_retire_ne (s.wx rd v) hh, State.hart_wx_ne _ _ _ hh]

/-- Settles O8, from the rules of register writes and of retiring. -/
theorem retiringWritesOnlyRdAndThePc : Obligations.RetiringWritesOnlyRdAndThePc := by
  unfold Obligations.RetiringWritesOnlyRdAndThePc
  intro s rd v
  refine ⟨s.retireX_xr_self rd v, fun r hr => ?_, s.retireX_pc rd v, s.retireX_wait rd v, s.retireX_cs rd v, ?_, ?_, ?_, ?_, ?_, ?_,
    fun h hh => s.hart_retireX_ne rd v hh, rfl⟩
  · rw [State.retireX_xr, Hart.xr_setX, if_neg hr]
    split
    · next h0 => rw [h0, Hart.xr_zero]
    · rfl
  all_goals simp [State.retireX]

/-! ### A firing that is ready -/

section
variable {s : State} {h i id : Nat} {b : Biq} {pm : BitVec 2} {need g : List Nat}

/-- The slots that a firing reads: those of its operands, and p where it is predicated. -/
theorem mem_firingSlots {pm : BitVec 2} {need : List Nat} {n : Nat} :
    n ∈ (if pm = 0 then need else 3 :: need) ↔ n ∈ need ∨ pm ≠ 0 ∧ n = 3 := by
  split
  · next hpm => simp [hpm]
  · next hpm => rw [List.mem_cons, or_comm, and_iff_right hpm]

/-- What `FireReady` says is what the sequencer checks. -/
theorem canFire_of_fireReady (hr : FireReady s h i id b pm need g) :
    b.canFire (s.groups h b) g id (if pm = 0 then need else 3 :: need) = true := by
  obtain ⟨-, -, hheld, hfired, hne, hgroups, htoks, hfaults⟩ := hr
  have hslots : ∀ n ∈ (if pm = 0 then need else 3 :: need), (b.tok id n).isSome = true ∧ ∀ j ∈ g, j ∉ b.missing id n :=
    fun n hn => htoks n (mem_firingSlots.mp hn)
  generalize (if pm = 0 then need else 3 :: need) = slots at hslots ⊢
  have hready : ∀ j ∈ g, j ∈ b.readyGroups (s.groups h b) id slots := by
    intro j hj
    obtain ⟨hall, hpart⟩ := hgroups j hj
    simp only [Biq.readyGroups, List.mem_filter, List.contains_eq_mem, Bool.and_eq_true, List.all_eq_true, Bool.not_eq_true',
      decide_eq_false_iff_not]
    exact ⟨hall, hpart, fun n hn => (hslots n hn).2 j hj⟩
  have hnonempty : (!g.isEmpty || (s.groups h b).isEmpty) = true := by
    rcases hne with hg | hall
    · simp [hg]
    · simp [hall]
  have hsweep : (b.faults.isEmpty || (!g.isEmpty && g.all fun j => b.sweep.contains (id, j))) = true := by
    rcases hfaults with hnone | ⟨hg, hin⟩
    · simp [hnone]
    · simpa [hg] using Or.inr hin
  simp only [Biq.canFire, hheld, hfired, hnonempty, hsweep, Bool.not_false, Bool.true_and, Bool.and_true, Bool.and_eq_true,
    List.all_eq_true]
  exact ⟨fun n hn => (hslots n hn).1, fun j hj => by simpa using hready j hj⟩

/-- A ready firing runs its body. -/
theorem fireWith_of_fireReady {whole : Biq → Nat → Bool} {k : Nat → Nat → Nat → Biq → List Nat → Out}
    (hr : FireReady s h i id b pm need (s.firedGroups whole h b id)) :
    s.fireWith whole pm need k = k h i id b (s.firedGroups whole h b id) :=
  State.fireWith_ready hr.1 hr.2.1 (canFire_of_fireReady hr)

/-! ### Element-wise instructions -/

/-- The widths of elements and of uniform values. -/
def IsWidth (w : Nat) : Prop := w = 8 ∨ w = 16 ∨ w = 32 ∨ w = 64

theorem sewBits_isWidth (vcfg : Word) : IsWidth (sewBits vcfg) := by
  have hlt : vcfg.toNat % 4 < 4 := Nat.mod_lt _ (by decide)
  unfold sewBits IsWidth
  obtain h | h | h | h : vcfg.toNat % 4 = 0 ∨ vcfg.toNat % 4 = 1 ∨ vcfg.toNat % 4 = 2 ∨ vcfg.toNat % 4 = 3 := by omega
  all_goals simp [h]

theorem isWidth_ite (vec : Bool) (vcfg : Word) : IsWidth (if vec then sewBits vcfg else 64) := by
  cases vec
  · simp [IsWidth]
  · simpa using sewBits_isWidth vcfg

/-- The results of a firing, element by element: Null where the element lies in no group that fires, or does not execute. -/
def fired (s : State) (h id : Nat) (b : Biq) (pm : BitVec 2) (need g : List Nat) (run : Nat → Option (Nat × Nat)) :
    List (Option (Nat × Nat)) :=
  let vec := b.vector id pm need
  (if vec then List.range (s.entryVl h b) else [0]).map fun e =>
    if (!vec || g.contains (e / 16)) && b.enabled id pm e then run e else none

/-- The width at which an instruction works. -/
def firedWidth (b : Biq) (id : Nat) (pm : BitVec 2) (need : List Nat) : Nat := if b.vector id pm need then sewBits b.vcfg else 64

theorem firedWidth_isWidth (b : Biq) (id : Nat) (pm : BitVec 2) (need : List Nat) : IsWidth (firedWidth b id pm need) :=
  isWidth_ite _ _

/-- The state after an element-wise firing with these results: T1 takes the X-mask where it is asked for. -/
def gaveElements (s : State) (h i id : Nat) (b : Biq) (pm : BitVec 2) (need g : List Nat) (t0 t1 : Nat) (x prd : Bool)
    (r : List (Option (Nat × Nat))) : State :=
  let vec := b.vector id pm need
  let value := mkTok prd vec (r.map fun x => x.map fun y => y.1)
  let mask := mkTok true vec (r.map fun x => x.map fun y => b2n (raises b.vcfg y.2))
  gives s h i id b g t0 value t1 (if x then mask else value)

theorem fired_eq (run : Nat → Option (Nat × Nat)) :
    (if b.vector id pm need then overGroups (s.entryVl h b) g (fun e => if b.enabled id pm e then run e else none)
      else [if b.enabled id pm 0 then run 0 else none]) = fired s h id b pm need g run := by
  unfold fired
  cases b.vector id pm need with
  | false => simp
  | true =>
    refine List.map_congr_left fun e _ => ?_
    by_cases hg : g.contains (e / 16) = true <;> by_cases he : b.enabled id pm e = true <;> simp_all

/-- A ready element-wise instruction gives its targets the results of its elements. -/
theorem fireElem_ready {t0 t1 : Nat} {x prd : Bool} {body : Nat → (Nat → Nat → Option Nat) → Nat → Option (Nat × Nat)}
    (hr : FireReady s h i id b pm need (firing s h b !b.vector id pm need)) :
    s.fireElem pm t0 t1 x need prd body =
      .next (gaveElements s h i id b pm need (firing s h b !b.vector id pm need) t0 t1 x prd
        (fired s h id b pm need (firing s h b !b.vector id pm need) (body (firedWidth b id pm need) (b.operand id (firedWidth b id pm need))))) := by
  have hrun := fireWith_of_fireReady (whole := fun b id => !b.vector id pm need) (k := fun h i id b g =>
    let vector := b.vector id pm need
    let w := if vector then sewBits b.vcfg else 64
    let run e := if b.enabled id pm e then body w (b.operand id w) e else none
    let res := if vector then overGroups (s.entryVl h b) g run else [run 0]
    let tok := resTok prd vector res
    let all := s.groups h b
    .next (s.setEntry h i (((b.give all g t0 tok).give all g t1 (if x then xTok b.vcfg vector res else tok)).done all g id))) hr
  rw [State.fireElem, hrun, ← fired_eq]
  rfl

/-- The results of an instruction whose Null operands give Null. -/
theorem fired_eq_elements {f : Nat → (Nat → Nat) → Nat × Nat} {body : Nat → (Nat → Nat → Option Nat) → Nat → Option (Nat × Nat)}
    (hbody : ∀ w e, IsWidth w →
      body w (b.operand id w) e = if need.all fun n => (b.operand id w n e).isSome then some (f w (opnd b id w e)) else none) :
    fired s h id b pm need g (body (firedWidth b id pm need) (b.operand id (firedWidth b id pm need))) =
      elements s h id b pm need g f := by
  have hrun := fun e => hbody _ e (firedWidth_isWidth b id pm need)
  unfold fired elements
  refine List.map_congr_left fun e _ => ?_
  rw [hrun]
  unfold firedWidth
  cases hg : (!b.vector id pm need || g.contains (e / 16)) && b.enabled id pm e <;> rfl
end

/-! ### Operands -/

theorem Tok.get_lt {t : Tok} {w e x : Nat} (hw : 0 < w) (hx : t.get w e = some x) : x < 2 ^ w := by
  have hpos : 0 < 2 ^ w := Nat.two_pow_pos w
  have hone : 1 < 2 ^ w := Nat.one_lt_two_pow (Nat.ne_of_gt hw)
  have hbit : ∀ c : Bool, b2n c < 2 ^ w := fun c => by cases c <;> simp [b2n, hone, hpos]
  cases t with
  | vec _ | uni _ =>
    obtain ⟨v, -, rfl⟩ := Option.map_eq_some_iff.mp hx
    exact Nat.mod_lt _ hpos
  | pred _ | upred _ =>
    obtain ⟨c, -, rfl⟩ := Option.map_eq_some_iff.mp hx
    exact hbit c

theorem IsWidth.pos {w : Nat} (hw : IsWidth w) : 0 < w := by unfold IsWidth at hw; omega

/-- An operand fits its width. -/
theorem opnd_lt (b : Biq) (id e n : Nat) {w : Nat} (hw : 0 < w) : opnd b id w e n < 2 ^ w := by
  unfold opnd
  cases hx : b.operand id w n e with
  | none => exact Nat.two_pow_pos w
  | some x =>
    obtain ⟨t, -, ht⟩ := Option.bind_eq_some_iff.mp hx
    exact Tok.get_lt hw ht

/-! ### The forms of one, two and three operands -/

section
variable {ctor : AForm → Instr} {prd : Bool} {f : AForm → Nat → (Nat → Nat) → Nat × Nat}

/-- The X bit of a form as the claims write it. -/
theorem gaveElements_x (a : AForm) (s : State) (h i id : Nat) (b : Biq) (need g : List Nat) (prd : Bool) (r : List (Option (Nat × Nat))) :
    (.next (gaveElements s h i id b a.pm need g a.t0.toNat a.t1.toNat (a.x == 1) prd r) : Out) =
      (let vec := b.vector id a.pm need
       let value := mkTok prd vec (r.map fun x => x.map fun y => y.1)
       let mask := mkTok true vec (r.map fun x => x.map fun y => b2n (raises b.vcfg y.2))
       .next (gives s h i id b g a.t0.toNat value a.t1.toNat (if a.x = 1 then mask else value))) := by
  unfold gaveElements
  simp only [beq_iff_eq]

/-- An element-wise instruction does what its claim says when its body does so at every element. -/
theorem elementwiseOn_of_body {ok : Biq → Nat → Prop} {need : List Nat} {f : AForm → Biq → Nat → Nat → (Nat → Nat) → Nat × Nat}
    {body : AForm → State → Nat → (Nat → Nat → Option Nat) → Nat → Option (Nat × Nat)}
    (hexec : ∀ a s, exec (ctor a) s = s.fireA a need prd (body a s))
    (hbody : ∀ (s : State) h i id b a w e, (ctor a).wf = true → s.fire = (h, i, id) → s.entry h i = some b → ok b id →
      (∀ n ∈ need, (b.tok id n).isSome = true) → IsWidth w →
      body a s w (b.operand id w) e =
        if need.all fun n => (b.operand id w n e).isSome then some (f a b id w (opnd b id w e)) else none) :
    ElementwiseOn ok ctor need prd f := by
  intro s h i id b a hwf vec g hr hok r value mask
  have htoks : ∀ n ∈ need, (b.tok id n).isSome = true := fun n hn => (hr.2.2.2.2.2.2.1 n (.inl hn)).1
  rw [hexec, State.fireA, fireElem_ready hr,
    fired_eq_elements (f := f a b id) fun w e hw => hbody s h i id b a w e hwf hr.1 hr.2.1 hok htoks hw]
  exact gaveElements_x a s h i id b need g prd r

theorem elementwise_of_lift1 {op : AForm → Nat → Nat → Nat × Nat} (hexec : ∀ a s, exec (ctor a) s = s.fireA a [0] prd (lift1 (op a)))
    (hop : ∀ a w (o : Nat → Nat), (ctor a).wf = true → IsWidth w → o 0 < 2 ^ w → op a w (o 0) = f a w o) :
    Elementwise ctor [0] prd f := by
  refine elementwiseOn_of_body hexec fun s h i id b a w e hwf _ _ _ _ hw => ?_
  rw [← hop a w _ hwf hw (opnd_lt b id e 0 hw.pos)]
  unfold lift1 opnd
  cases hx : b.operand id w 0 e <;> simp [hx]

theorem elementwise_of_lift2 {op : AForm → Nat → Nat → Nat → Nat × Nat}
    (hexec : ∀ a s, exec (ctor a) s = s.fireA a [0, 1] prd (lift2 (op a)))
    (hop : ∀ a w (o : Nat → Nat), (ctor a).wf = true → IsWidth w → o 0 < 2 ^ w → o 1 < 2 ^ w → op a w (o 0) (o 1) = f a w o) :
    Elementwise ctor [0, 1] prd f := by
  refine elementwiseOn_of_body hexec fun s h i id b a w e hwf _ _ _ _ hw => ?_
  rw [← hop a w _ hwf hw (opnd_lt b id e 0 hw.pos) (opnd_lt b id e 1 hw.pos)]
  unfold lift2 opnd
  cases hx : b.operand id w 0 e <;> cases hy : b.operand id w 1 e <;> simp [hx, hy]

theorem elementwise_of_lift3 {op : AForm → Nat → Nat → Nat → Nat → Nat × Nat}
    (hexec : ∀ a s, exec (ctor a) s = s.fireA a [0, 1, 2] prd (lift3 (op a)))
    (hop : ∀ a w (o : Nat → Nat), (ctor a).wf = true → IsWidth w → o 0 < 2 ^ w → o 1 < 2 ^ w → o 2 < 2 ^ w →
      op a w (o 0) (o 1) (o 2) = f a w o) :
    Elementwise ctor [0, 1, 2] prd f := by
  refine elementwiseOn_of_body hexec fun s h i id b a w e hwf _ _ _ _ hw => ?_
  rw [← hop a w _ hwf hw (opnd_lt b id e 0 hw.pos) (opnd_lt b id e 1 hw.pos) (opnd_lt b id e 2 hw.pos)]
  unfold lift3 opnd
  cases hx : b.operand id w 0 e <;> cases hy : b.operand id w 1 e <;> cases hz : b.operand id w 2 e <;> simp [hx, hy, hz]
end

end Sys2Proof.Machine
end

section
/-! PROOF. The integer datapath: the element operations are those of the integers (O9 to O12). -/

namespace Sys2Proof.Machine

open Sys2Proof.Claims

/-! ### Two's complement, reduction -/

section
variable {w x y : Nat}

theorem two_pow_pred (hw : 0 < w) : 2 ^ w = 2 * 2 ^ (w - 1) := by
  rw [Nat.mul_comm, ← Nat.pow_succ, Nat.succ_eq_add_one, Nat.sub_add_cancel hw]

/-- The sign bit of a pattern that fits is set from 2^(w-1) on. -/
theorem testBit_pred (hw : 0 < w) (hx : x < 2 ^ w) : x.testBit (w - 1) = decide (2 ^ (w - 1) ≤ x) := by
  rw [Nat.testBit_eq_decide_div_mod_eq]
  have hp : 0 < 2 ^ (w - 1) := Nat.two_pow_pos _
  rw [two_pow_pred hw] at hx
  have hq : x / 2 ^ (w - 1) < 2 := (Nat.div_lt_iff_lt_mul hp).mpr hx
  have hle := Nat.le_div_iff_mul_le hp (x := 1) (y := x)
  grind

theorem signed_eq_sint (hw : 0 < w) (hx : x < 2 ^ w) : signed x w = sint w x := by
  unfold signed sint
  rw [testBit_pred hw hx, Nat.mod_eq_of_lt hx]
  by_cases h : 2 ^ (w - 1) ≤ x
  · rw [if_pos (by simpa using h), if_neg (by omega)]
  · rw [if_neg (by simpa using h), if_pos (by omega)]

/-- Only the low bits of a pattern count. -/
theorem signed_mod (n : Nat) (hw : 0 < w) : signed (n % 2 ^ w) w = signed n w := by
  unfold signed
  rw [Nat.testBit_mod_two_pow, Nat.mod_mod, decide_eq_true (Nat.sub_lt hw Nat.one_pos), Bool.true_and]

theorem sint_inj (hw : 0 < w) (hx : x < 2 ^ w) (hy : y < 2 ^ w) (h : sint w x = sint w y) : x = y := by
  have := two_pow_pred hw
  unfold sint at h
  split at h <;> split at h <;> omega

theorem satRead_eq_operandInt (md : Nat) (hw : 0 < w) (hx : x < 2 ^ w) : satRead w md x = operandInt md w x := by
  unfold satRead operandInt
  rw [signed_eq_sint hw hx]

theorem toW_of_nonneg {n : Int} (h0 : 0 ≤ n) (h1 : n < (2 ^ w : Nat)) : toW w n = n.toNat := by
  rw [toW, Int.emod_eq_of_lt h0 h1]

theorem toW_of_neg {n : Int} (h0 : n < 0) (h1 : -(2 ^ w : Nat) ≤ n) : toW w n = (n + (2 ^ w : Nat)).toNat := by
  rw [toW, ← Int.add_emod_right, Int.emod_eq_of_lt (by omega) (by omega)]

theorem satReduce_eq_reduce (md : Nat) (n : Int) (hw : 0 < w) : satReduce w md n = reduce md w n := by
  have hp := two_pow_pred hw
  have hpos : 0 < 2 ^ (w - 1) := Nat.two_pow_pos _
  simp only [satReduce, reduce, clampInt, cOF]
  by_cases hm : md % 2 = 0
  · rw [if_pos hm, if_pos hm]; rfl
  simp only [hm, if_false]
  by_cases hs : md / 2 % 2 = 0
  · simp only [hs, if_true]
    by_cases hlo : n < -(2 ^ (w - 1) : Nat)
    · rw [if_pos hlo, if_pos hlo, toW_of_neg (by omega) (by omega), if_neg (by omega)]
      congr 1; omega
    by_cases hhi : ((2 ^ (w - 1) : Nat) : Int) ≤ n
    · rw [if_neg hlo, if_neg hlo, if_pos (by omega), if_pos hhi, toW_of_nonneg (by omega) (by omega), if_neg (by omega)]
      congr 1; omega
    · rw [if_neg hlo, if_neg hlo, if_neg (by omega), if_neg hhi, if_pos rfl]; rfl
  · simp only [hs, if_false]
    by_cases hlo : n < 0
    · rw [if_pos hlo, if_pos hlo, toW_of_nonneg (by omega) (by omega), if_neg (by omega)]
      rfl
    by_cases hhi : ((2 ^ w : Nat) : Int) ≤ n
    · rw [if_neg hlo, if_neg hlo, if_pos (by omega), if_pos hhi, toW_of_nonneg (by omega) (by omega), if_neg (by omega)]
      congr 1; omega
    · rw [if_neg hlo, if_neg hlo, if_neg (by omega), if_neg hhi, if_pos rfl, toW_of_nonneg (by omega) (by omega)]
end

/-! ### Element operations -/

section
variable {w : Nat}

theorem intMulh_eq (md x y : Nat) (hw : 0 < w) (hx : x < 2 ^ w) (hy : y < 2 ^ w) : intMulh md w x y =
    (let u : Int := if md = 1 then (x : Int) else sint w x
     let v : Int := if md = 0 then sint w y else (y : Int)
     (((u * v).fdiv (2 ^ w : Nat) % (2 ^ w : Nat)).toNat, 0)) := by
  simp only [intMulh, toW, signed_eq_sint hw hx, signed_eq_sint hw hy, Int.fdiv_eq_ediv_of_nonneg _ (Int.natCast_nonneg (2 ^ w))]

theorem intSll_eq (x y : Nat) : intSll w x y = (x * 2 ^ (y % w) % 2 ^ w, 0) := by
  rw [intSll, Nat.shiftLeft_eq]

theorem intSrl_eq (x y : Nat) : intSrl w x y = (x / 2 ^ (y % w), 0) := by
  rw [intSrl, Nat.shiftRight_eq_div_pow]

theorem intSra_eq (x y : Nat) (hw : 0 < w) (hx : x < 2 ^ w) :
    intSra w x y = (((sint w x).fdiv (2 ^ (y % w) : Nat) % (2 ^ w : Nat)).toNat, 0) := by
  rw [intSra, toW, signed_eq_sint hw hx, Int.fdiv_eq_ediv_of_nonneg _ (Int.natCast_nonneg _)]

/-- A rotation is the sum of the bits that stay and those that come round. -/
theorem rotate_eq (x k : Nat) (hk : k ≤ w) (hx : x < 2 ^ w) :
    (x <<< k ||| x >>> (w - k)) % 2 ^ w = x * 2 ^ k % 2 ^ w + x / 2 ^ (w - k) := by
  have hsplit : 2 ^ w = 2 ^ (w - k) * 2 ^ k := by rw [← Nat.pow_add, Nat.sub_add_cancel hk]
  have hround : x / 2 ^ (w - k) < 2 ^ k := (Nat.div_lt_iff_lt_mul (Nat.two_pow_pos _)).mpr (by rwa [Nat.mul_comm, ← hsplit])
  have hle : 2 ^ k ≤ 2 ^ w := Nat.pow_le_pow_right (by decide) hk
  have hstay : x * 2 ^ k % 2 ^ w = (x % 2 ^ (w - k)) <<< k := by
    rw [Nat.shiftLeft_eq, hsplit, Nat.mul_mod_mul_right]
  rw [Nat.or_mod_two_pow, Nat.shiftLeft_eq, Nat.shiftRight_eq_div_pow, Nat.mod_eq_of_lt (Nat.lt_of_lt_of_le hround hle), hstay,
    Nat.shiftLeft_add_eq_or_of_lt hround]

theorem intRot_eq (right : Bool) (x y : Nat) (hw : 0 < w) (hx : x < 2 ^ w) : intRot right w x y =
    (let k := if right then (w - y % w) % w else y % w
     (x * 2 ^ k % 2 ^ w + x / 2 ^ (w - k), 0)) := by
  have hk : (if right then (w - y % w) % w else y % w) ≤ w := by
    split
    · exact Nat.le_of_lt (Nat.mod_lt _ hw)
    · exact Nat.le_of_lt (Nat.mod_lt _ hw)
  simp only [intRot, rotate_eq x _ hk hx]

theorem and_not_eq (x y : Nat) (hy : y < 2 ^ w) : x &&& (2 ^ w - 1 - y) = x &&& (y ^^^ (2 ^ w - 1)) := by
  have hnot : 2 ^ w - 1 - y = y ^^^ (2 ^ w - 1) := by
    refine Nat.eq_of_testBit_eq fun i => ?_
    rw [show 2 ^ w - 1 - y = 2 ^ w - (y + 1) by omega, Nat.testBit_two_pow_sub_succ hy, Nat.testBit_xor, Nat.testBit_two_pow_sub_one]
    by_cases hi : i < w
    · simp [hi]
    · simp [hi, Nat.testBit_lt_two_pow (Nat.lt_of_lt_of_le hy (Nat.pow_le_pow_right (by decide) (Nat.not_lt.mp hi)))]
  rw [hnot]

theorem intMinMax_unsigned (wantMax : Bool) (x y : Nat) :
    (intMinMax wantMax true w x y).1 = if wantMax then Nat.max x y else Nat.min x y := by
  cases wantMax <;> simp [intMinMax, Nat.max_def, Nat.min_def] <;> grind

theorem intMinMax_signed (wantMax : Bool) (x y : Nat) (hw : 0 < w) (hx : x < 2 ^ w) (hy : y < 2 ^ w) :
    (intMinMax wantMax false w x y).1 =
      if (if wantMax then sint w x < sint w y else sint w y < sint w x) then y else x := by
  have hinj := sint_inj hw hx hy
  simp only [intMinMax, signed_eq_sint hw hx, signed_eq_sint hw hy]
  cases wantMax <;> grind

theorem intAbs_eq (sat : Bool) (x : Nat) (hw : 0 < w) (hx : x < 2 ^ w) :
    intAbs sat w x = if sat = true ∧ x = 2 ^ (w - 1) then (2 ^ (w - 1) - 1, 4) else ((sint w x).natAbs, 0) := by
  have hlt : (sint w x).natAbs < 2 ^ w := by
    have := two_pow_pred hw
    unfold sint
    split <;> omega
  simp only [intAbs, cOF, signed_eq_sint hw hx, Nat.mod_eq_of_lt hlt, Bool.and_eq_true, beq_iff_eq]

theorem intCond_eq (c x y : Nat) (hw : 0 < w) (hx : x < 2 ^ w) (hy : y < 2 ^ w) : intCond c w x y =
    (match c with
      | 0 => decide (x = y)
      | 1 => decide (x ≠ y)
      | 2 => decide (sint w x < sint w y)
      | 3 => decide (sint w y ≤ sint w x)
      | 4 => decide (x < y)
      | _ => decide (y ≤ x)) := by
  unfold intCond
  rw [signed_eq_sint hw hx, signed_eq_sint hw hy]
  rcases c with _ | _ | _ | _ | _ | c
  · rfl
  · show (x != y) = decide (x ≠ y)
    exact decide_not.symm
  all_goals rfl

/-! ### Counts -/

theorem clzN_eq (x : Nat) (hx : x < 2 ^ w) : clzN w x = if x = 0 then w else w - 1 - Nat.log2 x := by
  unfold clzN
  split
  · next h0 => rw [h0, List.find?_eq_none.mpr (by simp), Option.getD_none]
  · next h0 =>
    have hlog : Nat.log2 x < w := (Nat.log2_lt h0).mpr hx
    have hfind : ((List.range w).find? fun i => x.testBit (w - 1 - i)) = some (w - 1 - Nat.log2 x) := by
      rw [List.find?_range_eq_some]
      refine ⟨?_, List.mem_range.mpr (by omega), fun j hj => ?_⟩
      · rw [show w - 1 - (w - 1 - Nat.log2 x) = Nat.log2 x by omega]
        exact Nat.testBit_log2 h0
      · rw [Nat.testBit_lt_two_pow ((Nat.log2_lt h0).mp (by omega)), Bool.not_false]
    rw [hfind, Option.getD_some]

theorem length_filter_testBit (x : Nat) (l : List Nat) :
    (l.filter fun i => x.testBit i).length = (l.map fun k => x / 2 ^ k % 2).sum := by
  induction l with
  | nil => rfl
  | cons k l ih =>
    rw [List.filter_cons, List.map_cons, List.sum_cons, Nat.testBit_eq_decide_div_mod_eq]
    by_cases h : x / 2 ^ k % 2 = 1
    · simp [h, ih, Nat.add_comm]
    · rw [show x / 2 ^ k % 2 = 0 by omega]; simp [ih]

/-! ### Fields -/

theorem bits_eq (x lo len : Nat) : bits x lo len = x / 2 ^ lo % 2 ^ len := by
  rw [bits, Nat.shiftRight_eq_div_pow]

/-- Sign extension of a field of `n` bits to `w`. -/
theorem toW_signed {n f : Nat} (hn : 0 < n) (hnw : n ≤ w) (hf : f < 2 ^ n) :
    toW w (signed f n) = if 2 ^ (n - 1) ≤ f then f + 2 ^ w - 2 ^ n else f := by
  have hle : 2 ^ n ≤ 2 ^ w := Nat.pow_le_pow_right (by decide) hnw
  rw [signed_eq_sint hn hf, toW, sint]
  by_cases h : 2 ^ (n - 1) ≤ f
  · rw [if_neg (by omega), if_pos h]
    rw [← Int.add_emod_right, Int.emod_eq_of_lt (by omega) (by omega)]
    omega
  · rw [if_pos (by omega), if_neg h, Int.emod_eq_of_lt (by omega) (by omega)]
    omega

theorem intBfx_eq (sx : Bool) (x c : Nat) : intBfx sx w x c =
    (let pos := c % 128
     let wid := c / 256 % 128
     if w ≤ pos ∨ wid = 0 then (0, 0)
     else
       let n := Nat.min wid (w - pos)
       let f := x / 2 ^ pos % 2 ^ n
       (if sx = true ∧ 2 ^ (n - 1) ≤ f then f + 2 ^ w - 2 ^ n else f, 0)) := by
  have hpos : bits c 0 7 = c % 128 := rfl
  have hwid : bits c 8 7 = c / 256 % 128 := bits_eq c 8 7
  simp only [intBfx, hpos, hwid, Nat.shiftRight_eq_div_pow]
  refine ite_congr rfl (fun _ => rfl) fun hempty => congrArg (·, 0) ?_
  have hmin : 0 < Nat.min (c / 256 % 128) (w - c % 128) := by
    refine Nat.lt_min.mpr ⟨?_, ?_⟩ <;> omega
  have hminw : Nat.min (c / 256 % 128) (w - c % 128) ≤ w := Nat.le_trans (Nat.min_le_right _ _) (Nat.sub_le _ _)
  grind [toW_signed hmin hminw (Nat.mod_lt (x / 2 ^ (c % 128)) (Nat.two_pow_pos (Nat.min (c / 256 % 128) (w - c % 128))))]

/-- A number whose `n` bits at `pos` are replaced keeps those below and those above. -/
theorem replace_field (x f pos n : Nat) :
    x - (x >>> pos) % 2 ^ n * 2 ^ pos + f * 2 ^ pos = x % 2 ^ pos + f * 2 ^ pos + x / 2 ^ (pos + n) * 2 ^ (pos + n) := by
  have habove : x / 2 ^ (pos + n) = x / 2 ^ pos / 2 ^ n := by rw [Nat.pow_add, Nat.div_div_eq_div_mul]
  have hx : x = x % 2 ^ pos + (x / 2 ^ pos % 2 ^ n) * 2 ^ pos + x / 2 ^ pos / 2 ^ n * 2 ^ (pos + n) := by
    calc x = x % 2 ^ pos + 2 ^ pos * (x / 2 ^ pos % 2 ^ n + 2 ^ n * (x / 2 ^ pos / 2 ^ n)) := by rw [Nat.mod_add_div, Nat.mod_add_div]
      _ = _ := by
        rw [Nat.mul_add, ← Nat.mul_assoc, ← Nat.pow_add, Nat.mul_comm (2 ^ pos), Nat.mul_comm (2 ^ (pos + n)), Nat.add_assoc]
  rw [Nat.shiftRight_eq_div_pow, habove]
  omega

theorem intBfi_eq (x y c : Nat) : intBfi w x y c =
    (let pos := c % 128
     let wid := c / 256 % 128
     if w ≤ pos ∨ wid = 0 then (x, 0)
     else
       let n := Nat.min wid (w - pos)
       (x % 2 ^ pos + y % 2 ^ n * 2 ^ pos + x / 2 ^ (pos + n) * 2 ^ (pos + n), 0)) := by
  have hpos : bits c 0 7 = c % 128 := rfl
  have hwid : bits c 8 7 = c / 256 % 128 := bits_eq c 8 7
  simp only [intBfi, hpos, hwid, replace_field]

/-- A product of bytes or its sum, taken modulo 2^32 or clamped to 32 bits. -/
theorem dot_reduce (sat : Bool) (t : Int) :
    (let q := if sat then clampInt t (-2147483648) 2147483647 else t
     (toW w (signed (toW 32 q) 32), if q = t then 0 else cOF)) =
    (let q : Int := if sat then (if t < -2147483648 then -2147483648 else if 2147483647 < t then 2147483647 else t)
       else sint 32 (t % 4294967296).toNat
     ((q % (2 ^ w : Nat)).toNat, if sat = true ∧ q ≠ t then 4 else 0)) := by
  have hlt (q : Int) : toW 32 q < 2 ^ 32 := by unfold toW; omega
  simp only [signed_eq_sint (by decide : 0 < 32) (hlt _)]
  cases sat with
  | false => simp [toW]
  | true =>
    have hclamp : clampInt t (-2147483648) 2147483647 =
        if t < -2147483648 then -2147483648 else if 2147483647 < t then 2147483647 else t := rfl
    have hin : -2147483648 ≤ clampInt t (-2147483648) 2147483647 ∧ clampInt t (-2147483648) 2147483647 ≤ 2147483647 := by
      unfold clampInt; omega
    have hself : sint 32 (toW 32 (clampInt t (-2147483648) 2147483647)) = clampInt t (-2147483648) 2147483647 := by
      generalize clampInt t (-2147483648) 2147483647 = q at hin
      unfold sint toW; simp only [Nat.reducePow, Nat.reduceSub]; omega
    simp only [if_true, hself, ← hclamp, cOF, true_and, ite_not]
    rfl

theorem intDot4_eq (md x y c : Nat) : intDot4 md w x y c =
    (let ea (k : Nat) : Int := if md % 4 = 1 then (x / 2 ^ (8 * k) % 256 : Nat) else sint 8 (x / 2 ^ (8 * k) % 256)
     let eb (k : Nat) : Int := if md % 4 = 0 then sint 8 (y / 2 ^ (8 * k) % 256) else (y / 2 ^ (8 * k) % 256 : Nat)
     let t := sint 32 (c % 2 ^ 32) + ea 0 * eb 0 + ea 1 * eb 1 + ea 2 * eb 2 + ea 3 * eb 3
     let q : Int := if md / 4 % 2 = 0 then sint 32 (t % 4294967296).toNat
       else if t < -2147483648 then -2147483648 else if 2147483647 < t then 2147483647 else t
     ((q % (2 ^ w : Nat)).toNat, if md / 4 % 2 = 1 ∧ q ≠ t then 4 else 0)) := by
  have hbyte (u k : Nat) : bits u (8 * k) 8 = u / 2 ^ (8 * k) % 256 := bits_eq u (8 * k) 8
  have hsigned (u : Nat) : signed (u % 256) 8 = sint 8 (u % 256) := signed_eq_sint (by decide) (Nat.mod_lt _ (by decide))
  have hadd : signed c 32 = sint 32 (c % 2 ^ 32) := by
    rw [← signed_mod c (by decide), signed_eq_sint (by decide) (Nat.mod_lt _ (by decide))]
  simp only [intDot4, hbyte, hsigned, hadd, ← Int.add_assoc]
  generalize sint 32 (c % 2 ^ 32) + _ + _ + _ + _ = t
  have hred := dot_reduce (w := w) (decide (md / 4 % 2 = 1)) t
  simp only [decide_eq_true_eq] at hred
  rw [hred]
  rcases Nat.mod_two_eq_zero_or_one (md / 4) with h | h <;> simp [h]
end

/-! ### Arithmetic -/

/-- `add`, `sub` and `mul` reduce the exact result of their operands. -/
theorem elementwise_intArith {ctor : AForm → Instr} {op : Int → Int → Int}
    (hexec : ∀ a s, exec (ctor a) s = s.fireA a [0, 1] false (lift2 (intArith op a.md.toNat))) :
    Elementwise ctor [0, 1] false (fun a w o => reduce a.md.toNat w (op (operandInt a.md.toNat w (o 0)) (operandInt a.md.toNat w (o 1)))) :=
  elementwise_of_lift2 hexec fun a w o _ hw h0 h1 => by
    rw [intArith, satReduce_eq_reduce _ _ hw.pos, satRead_eq_operandInt _ hw.pos h0, satRead_eq_operandInt _ hw.pos h1]

theorem bitVec_eq_iff_toNat {n : Nat} (x : BitVec n) (k : Nat) (hk : k < 2 ^ n) : x = BitVec.ofNat n k ↔ x.toNat = k := by
  rw [← BitVec.toNat_inj, BitVec.toNat_ofNat, Nat.mod_eq_of_lt hk]

/-- Settles O9: each operation on patterns is the one on integers. -/
theorem integerArithmetic : Obligations.IntegerArithmetic := by
  unfold Obligations.IntegerArithmetic
  refine ⟨elementwise_intArith fun _ _ => rfl, elementwise_intArith fun _ _ => rfl, elementwise_intArith fun _ _ => rfl, ?_, ?_, ?_⟩
  · refine elementwise_of_lift2 (fun _ _ => rfl) fun a w o _ hw h0 h1 => ?_
    have hone : a.md = 1 ↔ a.md.toNat = 1 := bitVec_eq_iff_toNat a.md 1 (by decide)
    have hzero : a.md = 0 ↔ a.md.toNat = 0 := bitVec_eq_iff_toNat a.md 0 (by decide)
    simp only [intMulh_eq _ _ _ hw.pos h0 h1, hone, hzero]
  · refine elementwise_of_lift2 (fun _ _ => rfl) fun a w o _ hw h0 h1 => ?_
    simp only [intDiv, cDZ, toW, beq_iff_eq, signed_eq_sint hw.pos h0, signed_eq_sint hw.pos h1]
  · refine elementwise_of_lift2 (fun _ _ => rfl) fun a w o _ hw h0 h1 => ?_
    simp only [intRem, cDZ, toW, beq_iff_eq, signed_eq_sint hw.pos h0, signed_eq_sint hw.pos h1]

/-! ### Logic and shifts -/

/-- Settles O10, operation by operation. -/
theorem integerLogicAndShifts : Obligations.IntegerLogicAndShifts := by
  unfold Obligations.IntegerLogicAndShifts
  refine ⟨elementwise_of_lift2 (fun _ _ => rfl) fun a w o _ hw h0 h1 => rfl,
    elementwise_of_lift2 (fun _ _ => rfl) fun a w o _ hw h0 h1 => rfl,
    elementwise_of_lift2 (fun _ _ => rfl) fun a w o _ hw h0 h1 => rfl,
    elementwise_of_lift2 (fun _ _ => rfl) fun a w o _ hw h0 h1 => congrArg (·, 0) (and_not_eq _ _ h1),
    elementwise_of_lift2 (fun _ _ => rfl) fun a w o _ hw h0 h1 => intSll_eq _ _,
    elementwise_of_lift2 (fun _ _ => rfl) fun a w o _ hw h0 h1 => intSrl_eq _ _,
    elementwise_of_lift2 (fun _ _ => rfl) fun a w o _ hw h0 h1 => intSra_eq _ _ hw.pos h0,
    elementwise_of_lift2 (fun _ _ => rfl) fun a w o _ hw h0 h1 => ?_,
    elementwise_of_lift2 (fun _ _ => rfl) fun a w o _ hw h0 h1 => ?_,
    elementwise_of_lift2 (fun _ _ => rfl) fun a w o _ hw h0 h1 => ?_,
    elementwise_of_lift1 (fun _ _ => rfl) fun a w o _ hw h0 => ?_⟩
  · simp only [intRot_eq _ _ _ hw.pos h0, beq_iff_eq]
  · refine Prod.ext ?_ rfl
    by_cases hm : a.md = 1
    · simp only [hm, beq_self_eq_true, intMinMax_unsigned, if_true]
      rfl
    · simp only [hm, beq_eq_false_iff_ne.mpr hm, intMinMax_signed false _ _ hw.pos h0 h1, if_false]
      rfl
  · refine Prod.ext ?_ rfl
    by_cases hm : a.md = 1
    · simp only [hm, beq_self_eq_true, intMinMax_unsigned, if_true]
    · simp only [hm, beq_eq_false_iff_ne.mpr hm, intMinMax_signed true _ _ hw.pos h0 h1, if_true, if_false]
  · simp only [intAbs_eq _ _ hw.pos h0, beq_iff_eq]

/-! ### Counts, fields, comparisons -/

/-- The control of a firing with a uniform slot c is the value there. -/
theorem control_of_uniformC {s : State} {h i id : Nat} {b : Biq} (hf : s.fire = (h, i, id)) (he : s.entry h i = some b)
    (hu : UniformC b id) : (s.control = none ∧ ∀ w e, b.operand id w 2 e = none) ∨
      (s.control = some (controlC b id) ∧ ∀ w e, (b.operand id w 2 e).isSome = true) := by
  obtain ⟨v, hv⟩ := hu
  cases v with
  | none => exact .inl ⟨by simp [State.control, hf, he, hv, Tok.get], fun w e => by simp [Biq.operand, hv, Tok.get]⟩
  | some x => exact .inr ⟨by simp [State.control, controlC, hf, he, hv, Tok.get], fun w e => by simp [Biq.operand, hv, Tok.get]⟩

/-- An element of `bfx`: the operand and the control of the firing. -/
def bfxBody (a : AForm) (s : State) (w : Nat) (get : Nat → Nat → Option Nat) (e : Nat) : Option (Nat × Nat) :=
  (get 0 e).bind fun x => s.control.map (intBfx (a.md == 1) w x)

/-- An element of `bfi`. -/
def bfiBody (_ : AForm) (s : State) (w : Nat) (get : Nat → Nat → Option Nat) (e : Nat) : Option (Nat × Nat) :=
  (get 0 e).bind fun x => (get 1 e).bind fun y => s.control.map (intBfi w x y)

theorem exec_bfx (a : AForm) (s : State) : exec (.bfx a) s = s.fireA a [0, 2] false (bfxBody a s) := by
  have harm : exec (.bfx a) s = execBfx a s := rfl
  rw [harm, execBfx]
  refine congrArg (s.fireA a [0, 2] false) (funext fun w => funext fun get => funext fun e => ?_)
  unfold bfxBody
  cases get 0 e <;> cases s.control <;> rfl

theorem exec_bfi (a : AForm) (s : State) : exec (.bfi a) s = s.fireA a [0, 1, 2] false (bfiBody a s) := by
  have harm : exec (.bfi a) s = execBfi a s := rfl
  rw [harm, execBfi]
  refine congrArg (s.fireA a [0, 1, 2] false) (funext fun w => funext fun get => funext fun e => ?_)
  unfold bfiBody
  cases get 0 e <;> cases get 1 e <;> cases s.control <;> rfl

/-- Settles O11, operation by operation. -/
theorem integerCountsFieldsAndComparisons : Obligations.IntegerCountsFieldsAndComparisons := by
  unfold Obligations.IntegerCountsFieldsAndComparisons
  refine ⟨elementwise_of_lift1 (fun _ _ => rfl) fun a w o _ hw h0 => congrArg (·, 0) (clzN_eq _ h0),
    elementwise_of_lift1 (fun _ _ => rfl) fun a w o _ hw h0 => rfl,
    elementwise_of_lift1 (fun _ _ => rfl) fun a w o _ hw h0 => congrArg (·, 0) (length_filter_testBit _ _),
    elementwise_of_lift2 (fun _ _ => rfl) fun a w o _ hw h0 h1 => ?_,
    elementwiseOn_of_body exec_bfx fun s h i id b a w e _ hf he hu _ hw => ?_,
    elementwiseOn_of_body exec_bfi fun s h i id b a w e _ hf he hu _ hw => ?_,
    elementwise_of_lift3 (fun _ _ => rfl) fun a w o _ hw h0 h1 h2 => intDot4_eq _ _ _ _⟩
  · exact congrArg (fun c => (b2n c, 0)) (intCond_eq _ _ _ hw.pos h0 h1)
  · have hx : opnd b id w e 0 = (b.operand id w 0 e).getD 0 := rfl
    rcases control_of_uniformC hf he hu with ⟨hc, hnone⟩ | ⟨hc, hsome⟩
    · simp [bfxBody, hc, hnone]
    · cases h0 : b.operand id w 0 e <;> simp [bfxBody, hc, hsome, h0, hx, intBfx_eq]
  · have hx (n : Nat) : opnd b id w e n = (b.operand id w n e).getD 0 := rfl
    rcases control_of_uniformC hf he hu with ⟨hc, hnone⟩ | ⟨hc, hsome⟩
    · simp [bfiBody, hc, hnone]
    · cases h0 : b.operand id w 0 e <;> cases h1 : b.operand id w 1 e <;> simp [bfiBody, hc, hsome, h0, h1, hx, intBfi_eq]

/-! ### Immediate forms -/

/-- An immediate instruction does what its claim says when its operation does so on every operand. -/
theorem immediateForm_of_op {ctor : IForm → Instr} {prd : Bool} {f : IForm → Nat → Nat → Nat} {op : IForm → Nat → Nat → Nat × Nat}
    (hexec : ∀ a s, exec (ctor a) s = s.fireI a prd (op a))
    (hop : ∀ a w x, IsWidth w → x < 2 ^ w → op a w x = (f a w x, 0)) : ImmediateForm ctor prd f := by
  intro s h i id b a _ g hr r value
  rw [hexec, State.fireI, fireElem_ready hr, fired_eq_elements (f := fun w o => (f a w (o 0), 0))]
  · rfl
  · intro w e hw
    have hlt := opnd_lt b id e 0 hw.pos
    unfold lift1 opnd at *
    cases hx : b.operand id w 0 e with
    | none => simp [hx]
    | some x =>
      rw [hx] at hlt
      simp [hx, hop a w x hw hlt]

theorem immW_eq_immAt (a : IForm) (w : Nat) : immW a w = immAt a w := by
  rw [immW, immAt, toW, signed_eq_sint (by decide) a.imm.isLt]

theorem toW_lt {w : Nat} (n : Int) : toW w n < 2 ^ w := by
  have hpos : (0 : Int) < (2 ^ w : Nat) := Int.natCast_pos.mpr (Nat.two_pow_pos w)
  have := Int.emod_lt_of_pos n hpos
  have := Int.emod_nonneg n (Int.ne_of_gt hpos)
  unfold toW
  omega

/-- Settles O12, operation by operation. -/
theorem immediateForms : Obligations.ImmediateForms := by
  unfold Obligations.ImmediateForms
  refine ⟨immediateForm_of_op (fun _ _ => rfl) fun a w x hw hx => ?_, immediateForm_of_op (fun _ _ => rfl) fun a w x hw hx => ?_,
    immediateForm_of_op (fun _ _ => rfl) fun a w x hw hx => ?_, immediateForm_of_op (fun _ _ => rfl) fun a w x hw hx => ?_,
    immediateForm_of_op (fun _ _ => rfl) fun a w x hw hx => intSll_eq _ _,
    immediateForm_of_op (fun _ _ => rfl) fun a w x hw hx => intSrl_eq _ _,
    immediateForm_of_op (fun _ _ => rfl) fun a w x hw hx => intSra_eq _ _ hw.pos hx,
    immediateForm_of_op (fun _ _ => rfl) fun a w x hw hx => ?_, immediateForm_of_op (fun _ _ => rfl) fun a w x hw hx => ?_⟩
  case refine_6 =>
    have himm := a.imm.isLt
    have hcond : bits a.imm.toNat 10 3 = a.imm.toNat / 1024 := by rw [bits_eq]; omega
    have hlow : bits a.imm.toNat 0 10 = a.imm.toNat % 1024 := rfl
    have hconst : toW w (signed (a.imm.toNat % 1024) 10) = (sint 10 (a.imm.toNat % 1024) % (2 ^ w : Nat)).toNat := by
      rw [toW, signed_eq_sint (w := 10) (x := a.imm.toNat % 1024) (by decide) (Nat.mod_lt _ (by decide))]
    have hlt := toW_lt (w := w) (signed (a.imm.toNat % 1024) 10)
    rw [hconst] at hlt
    rw [hcond, hlow, hconst]
    exact congrArg (fun c => (b2n c, 0)) (intCond_eq _ _ _ hw.pos hx hlt)
  all_goals rw [immW_eq_immAt]

end Sys2Proof.Machine
end

section
/-! PROOF. The collectives of the integer datapath: reductions (O13), prefixes and permutations (O14). -/

namespace Sys2Proof.Machine

open Sys2Proof.Claims

/-! ### The firing of a collective -/

/-- A collective does what its claim says when its body gives the token and the conditions of the claim. -/
theorem collective_of_body {ctor : AForm → Instr} {need : List Nat}
    {f : AForm → Biq → Nat → Nat → Nat → List (Option Nat) → List (Option Nat) → Option Nat → Tok × Nat}
    {body : AForm → Nat → Nat → Biq → Nat → Tok × Nat} (fire : AForm → State → Out) (hexec : ∀ a s, exec (ctor a) s = fire a s)
    (hfire : ∀ a s, fire a s = s.fireColl a need (body a))
    (hbody : ∀ a b id vl, (ctor a).wf = true → body a (sewBits b.vcfg) vl b id =
      f a b id (sewBits b.vcfg) vl (members b id a.pm vl 0) (members b id a.pm vl 1) (b.operand id 64 1 0)) :
    Collective ctor need f := by
  intro s h i id b a hwf hr vl r
  rw [hexec, hfire, State.fireColl, fireWith_of_fireReady (whole := fun _ _ => true) hr]
  simp only [hbody a b id (s.entryVl h b) hwf]
  rfl

/-! ### Reductions -/

section
variable {w : Nat}

theorem members_lt {b : Biq} {id : Nat} {pm : BitVec 2} {vl slot x : Nat} (hx : some x ∈ members b id pm vl slot) :
    x < 2 ^ sewBits b.vcfg := by
  obtain ⟨e, -, he⟩ := List.mem_map.mp hx
  split at he
  · obtain ⟨t, -, ht⟩ := Option.bind_eq_some_iff.mp he
    exact Tok.get_lt (sewBits_isWidth b.vcfg).pos ht
  · cases he

theorem contrib_lt {b : Biq} {i : Nat} {pm : BitVec 2} {vl slot x : Nat} (hx : x ∈ (members b i pm vl slot).filterMap id) :
    x < 2 ^ sewBits b.vcfg := by
  obtain ⟨o, ho, hox⟩ := List.mem_filterMap.mp hx
  cases hox
  exact members_lt ho

theorem extendU_eq (sgn : Bool) {x : Nat} (hw : 0 < w) (hx : x < 2 ^ w) :
    extendU sgn w x = uniform64 (if sgn then sint w x else (x : Int)) := by
  cases sgn
  · simp [extendU, uniform64]
  · simp [extendU, uniform64, signed_eq_sint hw hx]

theorem reduce_lt (md : Nat) (n : Int) (hw : 0 < w) : (reduce md w n).1 < 2 ^ w := by
  rw [← satReduce_eq_reduce md n hw]
  unfold satReduce
  split <;> exact toW_lt _

theorem foldl_satRead (md : Nat) (l : List Nat) (hw : 0 < w) (hl : ∀ x ∈ l, x < 2 ^ w) :
    l.foldl (fun acc x => acc + satRead w md x) (0 : Int) = (l.map (operandInt md w)).sum := by
  rw [List.sum_eq_foldl, List.foldl_map]
  exact foldl_congr_mem (fun acc x hx => by rw [satRead_eq_operandInt md hw (hl x hx)]) _

/-- The extremum of patterns read as signed numbers is the pattern of the extremum of the numbers. -/
theorem foldl_intMinMax_signed (wantMax : Bool) (hw : 0 < w) (l : List Nat) (hl : ∀ x ∈ l, x < 2 ^ w) (m : Nat) (hm : m < 2 ^ w) :
    l.foldl (fun m x => (intMinMax wantMax false w m x).1) m < 2 ^ w ∧
      sint w (l.foldl (fun m x => (intMinMax wantMax false w m x).1) m) =
        (l.map (sint w)).foldl (fun m x => if (if wantMax then m < x else x < m) then x else m) (sint w m) := by
  induction l generalizing m with
  | nil => exact ⟨hm, rfl⟩
  | cons x l ih =>
    have hx := hl x List.mem_cons_self
    have hstep := intMinMax_signed wantMax m x hw hm hx
    have hlt : (intMinMax wantMax false w m x).1 < 2 ^ w := by
      rw [hstep]
      by_cases hc : if wantMax then sint w m < sint w x else sint w x < sint w m
      · rwa [if_pos hc]
      · rwa [if_neg hc]
    obtain ⟨hlast, hval⟩ := ih (fun y hy => hl y (List.mem_cons_of_mem x hy)) _ hlt
    refine ⟨hlast, ?_⟩
    rw [List.foldl_cons, hval, List.map_cons, List.foldl_cons, hstep]
    congr 1
    by_cases hc : if wantMax then sint w m < sint w x else sint w x < sint w m
    · rw [if_pos hc, if_pos hc]
    · rw [if_neg hc, if_neg hc]

theorem foldl_lt (op : Nat → Nat → Nat) (hop : ∀ m x, m < 2 ^ w → x < 2 ^ w → op m x < 2 ^ w) (l : List Nat) (hl : ∀ x ∈ l, x < 2 ^ w)
    (m : Nat) (hm : m < 2 ^ w) : l.foldl op m < 2 ^ w := by
  induction l generalizing m with
  | nil => exact hm
  | cons x l ih => exact ih (fun y hy => hl y (List.mem_cons_of_mem x hy)) _ (hop m x hm (hl x List.mem_cons_self))

/-- The extremum of no element, signed: the identity of R52. -/
theorem sint_empty (wantMax : Bool) (hw : 0 < w) :
    sint w (if wantMax then 2 ^ (w - 1) else 2 ^ (w - 1) - 1) =
      if wantMax then (-(2 ^ (w - 1) : Nat) : Int) else (2 ^ (w - 1) : Nat) - 1 := by
  have hp := two_pow_pred hw
  have hpos : 0 < 2 ^ (w - 1) := Nat.two_pow_pos _
  unfold sint
  cases wantMax <;> simp only [if_true, if_false, Bool.false_eq_true] <;> split <;> omega
end

/-- A collective on the contributing elements of slot a. -/
theorem contrib_eq (b : Biq) (i : Nat) (pm : BitVec 2) (vl : Nat) : b.contrib i pm vl = (members b i pm vl 0).filterMap id := rfl

/-- The two modifiers of an extremum. -/
theorem md_of_legal {a : AForm} (ha : a.legal false 6 = true) : a.md = 0 ∨ a.md = 1 := by
  have hmd : ∀ md : BitVec 3, (md.toNat &&& 6 == 0) = true → md = 0 ∨ md = 1 := by decide
  exact hmd a.md (Bool.and_eq_true_iff.mp ha).2

/-- The extremum of the contributing elements, extended, is the one that the claim folds. -/
theorem extremum_eq {w : Nat} {md : BitVec 3} (wantMax : Bool) (hw : 0 < w) (hmd : md = 0 ∨ md = 1) (l : List Nat) (hl : ∀ x ∈ l, x < 2 ^ w) :
    extendU (md == 0) w (extremum wantMax (md == 1) w l) =
      uniform64 (if md = 1 then ((l.foldl (fun m x => if wantMax then Nat.max m x else Nat.min m x) (if wantMax then 0 else 2 ^ w - 1) : Nat) : Int)
        else (l.map (sint w)).foldl (fun m x => if (if wantMax then m < x else x < m) then x else m)
          (if wantMax then (-(2 ^ (w - 1) : Nat) : Int) else (2 ^ (w - 1) : Nat) - 1)) := by
  have hpos : 0 < 2 ^ w := Nat.two_pow_pos w
  have hp := two_pow_pred hw
  rcases hmd with rfl | rfl
  · have hm : (if wantMax then 2 ^ (w - 1) else 2 ^ (w - 1) - 1) < 2 ^ w := by split <;> omega
    obtain ⟨hlt, hval⟩ := foldl_intMinMax_signed wantMax hw l hl _ hm
    rw [sint_empty wantMax hw] at hval
    have hext : extremum wantMax ((0 : BitVec 3) == 1) w l = l.foldl (fun m x => (intMinMax wantMax false w m x).1)
        (if wantMax then 2 ^ (w - 1) else 2 ^ (w - 1) - 1) := rfl
    rw [hext, extendU_eq _ hw hlt, hval]
    rfl
  · have hfold : extremum wantMax ((1 : BitVec 3) == 1) w l =
        l.foldl (fun m x => if wantMax then Nat.max m x else Nat.min m x) (if wantMax then 0 else 2 ^ w - 1) :=
      foldl_congr_mem (fun m x _ => intMinMax_unsigned wantMax m x) _
    have hlt : extremum wantMax ((1 : BitVec 3) == 1) w l < 2 ^ w := by
      rw [hfold]
      refine foldl_lt _ (fun m x hm hx => ?_) l hl _ (by split <;> omega)
      split
      · exact Nat.max_lt.mpr ⟨hm, hx⟩
      · exact Nat.lt_of_le_of_lt (Nat.min_le_left m x) hm
    rw [extendU_eq _ hw hlt, hfold]
    rfl

/-- Settles O13: each reduction is a fold over the contributing elements, whose patterns fit their width. -/
theorem reductions : Obligations.Reductions := by
  unfold Obligations.Reductions
  refine ⟨collective_of_body execRedsum (fun _ _ => rfl) (fun _ _ => rfl) fun a b i vl _ => ?_,
    collective_of_body execRedmin (fun _ _ => rfl) (fun _ _ => rfl) fun a b i vl hwf => ?_,
    collective_of_body execRedmax (fun _ _ => rfl) (fun _ _ => rfl) fun a b i vl hwf => ?_,
    collective_of_body execRedand (fun _ _ => rfl) (fun _ _ => rfl) fun a b i vl _ => ?_,
    collective_of_body execRedor (fun _ _ => rfl) (fun _ _ => rfl) fun a b i vl _ => ?_⟩
  all_goals
    have hw := (sewBits_isWidth b.vcfg).pos
    have hl : ∀ x ∈ (members b i a.pm vl 0).filterMap id, x < 2 ^ sewBits b.vcfg := fun x hx => contrib_lt hx
    rw [contrib_eq]
    generalize (members b i a.pm vl 0).filterMap id = l at hl ⊢
  · simp only [foldl_satRead _ l hw hl, satReduce_eq_reduce _ _ hw, extendU_eq _ hw (reduce_lt _ _ hw), beq_iff_eq]
  · exact congrArg (·, 0) ((extremum_eq false hw (md_of_legal hwf) l hl).trans rfl)
  · exact congrArg (·, 0) ((extremum_eq true hw (md_of_legal hwf) l hl).trans rfl)
  · have hlt := foldl_lt (· &&& ·) (fun m x hm _ => Nat.lt_of_le_of_lt Nat.and_le_left hm) l hl (2 ^ sewBits b.vcfg - 1)
      (Nat.sub_lt (Nat.two_pow_pos _) (by decide))
    rw [extendU_eq false hw hlt]
    rfl
  · have hlt := foldl_lt (· ||| ·) (fun m x hm hx => Nat.or_lt_two_pow hm hx) l hl 0 (Nat.two_pow_pos _)
    rw [extendU_eq false hw hlt]
    rfl

/-! ### Prefixes and permutations -/

section
variable {w : Nat}

@[simp] theorem members_length (b : Biq) (i : Nat) (pm : BitVec 2) (vl slot : Nat) : (members b i pm vl slot).length = vl := by
  simp [members]

theorem at_cons_zero (o : Option Nat) (l : List (Option Nat)) : at_ (o :: l) 0 = o := rfl
theorem at_cons_succ (o : Option Nat) (l : List (Option Nat)) (e : Nat) : at_ (o :: l) (e + 1) = at_ l e := rfl

/-- A running sum is the sum of what was carried in and of the elements up to it. -/
theorem prefixSums_eq (ex : Bool) (l : List (Option Nat)) {acc : Nat} (hacc : acc < 2 ^ w) : prefixSums ex w acc l =
    (List.range l.length).map fun e =>
      (at_ l e).map fun _ => (acc + ((l.take (if ex then e else e + 1)).filterMap id).sum) % 2 ^ w := by
  induction l generalizing acc with
  | nil => rfl
  | cons o l ih =>
    rw [List.length_cons, List.range_succ_eq_map, List.map_cons, List.map_map, at_cons_zero]
    cases o with
    | none =>
      rw [prefixSums, ih hacc]
      refine List.cons_eq_cons.mpr ⟨rfl, List.map_congr_left fun e _ => ?_⟩
      rw [Function.comp_apply, Nat.succ_eq_add_one, at_cons_succ]
      cases ex <;> simp
    | some x =>
      rw [prefixSums, ih (Nat.mod_lt _ (Nat.two_pow_pos w))]
      refine List.cons_eq_cons.mpr ⟨?_, List.map_congr_left fun e _ => ?_⟩
      · cases ex <;> simp [Nat.mod_eq_of_lt hacc]
      · rw [Function.comp_apply, Nat.succ_eq_add_one, at_cons_succ]
        cases ex <;> simp [Nat.add_assoc]

/-- An element is a first occurrence when neither what was seen before nor the elements before it contain it. -/
theorem firstSeen_eq (l : List (Option Nat)) (seen : List Nat) : firstSeen seen l =
    (List.range l.length).map fun e =>
      (at_ l e).map fun x => b2n !(seen.contains x || (l.take e).contains (some x)) := by
  induction l generalizing seen with
  | nil => rfl
  | cons o l ih =>
    rw [List.length_cons, List.range_succ_eq_map, List.map_cons, List.map_map, at_cons_zero]
    cases o with
    | none =>
      rw [firstSeen, ih]
      refine List.cons_eq_cons.mpr ⟨rfl, List.map_congr_left fun e _ => ?_⟩
      rw [Function.comp_apply, Nat.succ_eq_add_one, at_cons_succ, List.take_succ_cons]
      simp
    | some y =>
      rw [firstSeen, ih]
      refine List.cons_eq_cons.mpr ⟨by simp, List.map_congr_left fun e _ => ?_⟩
      rw [Function.comp_apply, Nat.succ_eq_add_one, at_cons_succ, List.take_succ_cons]
      simp only [List.contains_cons]
      congr 1
      funext x
      rw [Bool.or_assoc, Bool.or_left_comm]
      rfl

theorem firstSeen_length (l : List (Option Nat)) (seen : List Nat) : (firstSeen seen l).length = l.length := by
  rw [firstSeen_eq, List.length_map, List.length_range]

/-- Last occurrences are the first ones of the list read from its end. -/
theorem lastSeen_eq (l : List (Option Nat)) : (firstSeen [] l.reverse).reverse =
    (List.range l.length).map fun e => (at_ l e).map fun x => b2n !(l.drop (e + 1)).contains (some x) := by
  refine List.ext_getElem (by simp [firstSeen_length]) fun e h1 h2 => ?_
  have he : e < l.length := by simpa using h2
  have hat : at_ l.reverse (l.length - 1 - e) = at_ l e := by
    unfold at_
    rw [getD_of_lt _ _ (by simp; omega), getD_of_lt _ _ he, List.getElem_reverse]
    congr 1; omega
  have hdrop : l.reverse.take (l.length - 1 - e) = (l.drop (e + 1)).reverse := by
    rw [List.take_reverse]; congr 2; omega
  rw [List.getElem_reverse, List.getElem_map, List.getElem_range]
  simp only [firstSeen_eq, List.getElem_map, List.getElem_range, List.length_map, List.length_range, List.length_reverse, hat, hdrop]
  simp

/-- What a slot holds at an element of the block. -/
theorem at_members {b : Biq} {i : Nat} {pm : BitVec 2} {vl slot e : Nat} (he : e < vl) :
    at_ (members b i pm vl slot) e = if b.enabled i pm e then b.operand i (sewBits b.vcfg) slot e else none := by
  simp [at_, members, he]

/-- The elements that slot b selects, in order. -/
theorem chosen_eq (b : Biq) (i : Nat) (pm : BitVec 2) (vl : Nat) :
    (((members b i pm vl 0).zip (members b i pm vl 1)).filterMap fun e => if e.2 = some 1 then some e.1 else none) =
      ((List.range vl).filter fun e => at_ (members b i pm vl 1) e == some 1).map (at_ (members b i pm vl 0)) := by
  have hzip : (members b i pm vl 0).zip (members b i pm vl 1) =
      (List.range vl).map fun e => (at_ (members b i pm vl 0) e, at_ (members b i pm vl 1) e) := by
    rw [← List.zip_map']
    congr 1 <;> exact List.map_congr_left fun e he => (at_members (List.mem_range.mp he)).symm
  rw [hzip, List.filterMap_map, ← List.filterMap_eq_map, List.filterMap_filter]
  refine filterMap_congr_mem fun e _ => ?_
  simp only [Function.comp_apply, beq_iff_eq]

/-- Slot b, element by element. -/
theorem members_map {α : Type} (b : Biq) (i : Nat) (pm : BitVec 2) (vl slot : Nat) (f : Option Nat → α) :
    (members b i pm vl slot).map f = (List.range vl).map fun e => f (at_ (members b i pm vl slot) e) := by
  conv =>
    lhs
    rw [members, List.map_map]
  exact List.map_congr_left fun e he => by rw [at_members (List.mem_range.mp he)]; rfl

theorem extendU_at {b : Biq} {i : Nat} {pm : BitVec 2} {vl k x : Nat} (sgn : Bool) (hk : k < vl)
    (hx : at_ (members b i pm vl 0) k = some x) :
    extendU sgn (sewBits b.vcfg) x = .uni (some (BitVec.ofInt 64 (if sgn then sint (sewBits b.vcfg) x else (x : Int)))) := by
  have hmem : some x ∈ members b i pm vl 0 := by
    rw [← hx, at_, getD_of_lt _ _ (by simpa using hk)]
    exact List.getElem_mem _
  exact extendU_eq sgn (sewBits_isWidth b.vcfg).pos (members_lt hmem)
end

/-- Settles O14: running sums and occurrences by induction over the elements, the permutations element by element. -/
theorem prefixesAndPermutations : Obligations.PrefixesAndPermutations := by
  unfold Obligations.PrefixesAndPermutations
  refine ⟨collective_of_body execPfx (fun _ _ => rfl) (fun _ _ => rfl) fun a b i vl _ => ?_,
    collective_of_body execVconf (fun _ _ => rfl) (fun _ _ => rfl) fun a b i vl _ => ?_,
    collective_of_body execCmpr (fun _ _ => rfl) (fun _ _ => rfl) fun a b i vl _ => ?_,
    collective_of_body execPerm (fun _ _ => rfl) (fun _ _ => rfl) fun a b i vl _ => ?_,
    collective_of_body execSlide (fun _ _ => rfl) (fun _ _ => rfl) fun a b i vl _ => ?_,
    collective_of_body execBcast (fun _ _ => rfl) (fun _ _ => rfl) fun a b i vl _ => ?_⟩
  all_goals have helems : ∀ slot, b.elems i a.pm vl slot = members b i a.pm vl slot := fun _ => rfl
  · simp only [helems, prefixSums_eq _ _ (Nat.two_pow_pos _), members_length, Nat.zero_add, beq_iff_eq]
  · by_cases hm : a.md = 1
    · simp only [helems, hm, if_true, lastSeen_eq, members_length]
    · simp only [helems, hm, if_false, firstSeen_eq, members_length, List.contains_nil, Bool.false_or]
  · simp only [helems, chosen_eq, padTo]
  · simp only [helems, members_map]
    refine congrArg (fun l => (mkTok _ true l, 0)) (List.map_congr_left fun e _ => ?_)
    cases at_ (members b i a.pm vl 1) e <;> rfl
  · refine congrArg (fun l => (mkTok _ true l, 0)) (List.map_congr_left fun e _ => ?_)
    unfold Biq.uniform
    cases b.operand i 64 1 0 <;> rfl
  · refine congrArg (·, 0) (ite_congr rfl (fun _ => ?_) fun _ => ?_)
    · cases b.operand i (sewBits b.vcfg) 1 0 <;> rfl
    · cases hk : b.operand i (sewBits b.vcfg) 1 0 with
      | none => rfl
      | some k =>
        simp only [Option.bind_some, helems]
        change (match (if k < vl then at_ (members b i a.pm vl 0) k else none) with | some x => _ | none => _) = _
        by_cases hlt : k < vl
        · rw [if_pos hlt]
          cases hx : at_ (members b i a.pm vl 0) k with
          | none => rfl
          | some x => simpa using extendU_at (a.md == 1) hlt hx
        · rw [if_neg hlt]; rfl

end Sys2Proof.Machine
end

section
/-! PROOF. Exact sums, products and order of float values (O15), and rounding to the grid (O16). -/

namespace Sys2Proof.Machine

open Sys2Proof.Claims

/-! ### Sums, products, order -/

/-- The signed magnitude of a sum of finite values, at the lesser exponent. -/
def alignedSum (n1 : Bool) (m1 : Nat) (e1 : Int) (n2 : Bool) (m2 : Nat) (e2 : Int) : Int :=
  let e := if e1 ≤ e2 then e1 else e2
  (if n1 then -1 else 1) * (m1 * 2 ^ (e1 - e).toNat : Nat) + (if n2 then -1 else 1) * (m2 * 2 ^ (e2 - e).toNat : Nat)

theorem addFin_eq (rm : Nat) (n1 : Bool) (m1 : Nat) (e1 : Int) (n2 : Bool) (m2 : Nat) (e2 : Int) :
    addFin rm n1 m1 e1 n2 m2 e2 =
      (let t := alignedSum n1 m1 e1 n2 m2 e2
       if t = 0 then .fin (if n1 = n2 then n1 else rm = 2) 0 0 false
       else .fin (decide (t < 0)) t.natAbs (if e1 ≤ e2 then e1 else e2) false) := by
  have ht : (if n1 then -((m1 : Int) * (2 ^ (e1 - if e1 ≤ e2 then e1 else e2).toNat : Nat)) else (m1 : Int) * (2 ^ (e1 - if e1 ≤ e2 then e1 else e2).toNat : Nat)) +
      (if n2 then -((m2 : Int) * (2 ^ (e2 - if e1 ≤ e2 then e1 else e2).toNat : Nat)) else (m2 : Int) * (2 ^ (e2 - if e1 ≤ e2 then e1 else e2).toNat : Nat)) =
      alignedSum n1 m1 e1 n2 m2 e2 := by
    unfold alignedSum
    cases n1 <;> cases n2 <;> simp
  unfold addFin
  simp only [← ht]
  norm_cast

theorem signed_natAbs (t : Int) : (if decide (t < 0) then -1 else 1) * (t.natAbs : Int) = t := by
  by_cases h : t < 0
  · simp only [h, decide_true, if_true]; omega
  · simp only [h, decide_false, Bool.false_eq_true, if_false]; omega

theorem FV.lt_fin (z n1 n2 s1 s2 : Bool) (m1 m2 : Nat) (e1 e2 : Int) : FV.lt z (.fin n1 m1 e1 s1) (.fin n2 m2 e2 s2) =
    if m1 = 0 ∧ m2 = 0 then z && n1 && !n2 else decide (alignedSum n1 m1 e1 (!n2) m2 e2 < 0) := by
  unfold FV.lt
  refine ite_congr rfl (fun _ => rfl) fun _ => ?_
  rw [addFin_eq]
  simp only
  by_cases h0 : alignedSum n1 m1 e1 (!n2) m2 e2 = 0
  · rw [if_pos h0, h0]; simp
  · rw [if_neg h0]; simp [h0]

/-- Settles O15, from the equation of the aligned sum. -/
theorem exactFloatSumsProductsAndOrder : Obligations.ExactFloatSumsProductsAndOrder := by
  unfold Obligations.ExactFloatSumsProductsAndOrder
  refine ⟨fun rm n1 n2 s1 s2 m1 m2 e1 e2 => ?_, fun _ _ _ _ _ _ _ _ => rfl, fun z n1 n2 s1 s2 m1 m2 e1 e2 => ?_, fun rm n => ?_,
    fun _ _ _ _ => ⟨rfl, rfl⟩⟩
  · have hadd : FV.add rm (.fin n1 m1 e1 s1) (.fin n2 m2 e2 s2) = some (addFin rm n1 m1 e1 n2 m2 e2) := rfl
    rw [hadd, addFin_eq]
    simp only
    by_cases h0 : alignedSum n1 m1 e1 n2 m2 e2 = 0
    · rw [if_pos h0]
      refine ⟨_, _, _, rfl, by simp, ?_, fun _ => rfl⟩
      rw [Int.natCast_zero, Int.mul_zero]
      exact h0.symm
    · rw [if_neg h0]
      refine ⟨_, _, _, rfl, fun _ => ?_, signed_natAbs _, fun ht => absurd ht h0⟩
      split <;> omega
  · rw [FV.lt_fin]
    refine ite_congr rfl (fun _ => rfl) fun _ => ?_
    rw [decide_eq_decide, alignedSum]
    cases n2 <;> simp only [Bool.not_true, Bool.not_false, if_true, if_false, Bool.false_eq_true] <;> omega
  · cases n <;> exact ⟨rfl, rfl⟩

/-! ### The grid -/

/-- How much of a step a remainder is: nothing, less than half, half, or more (R41). -/
def partOfStep (d r : Nat) : Nat := if r = 0 then 0 else if 2 * r < d then 1 else if 2 * r = d then 2 else 3

theorem partOfStep_cases (d r : Nat) : r = 0 ∧ partOfStep d r = 0 ∨ r ≠ 0 ∧ 2 * r < d ∧ partOfStep d r = 1 ∨
    r ≠ 0 ∧ 2 * r = d ∧ partOfStep d r = 2 ∨ r ≠ 0 ∧ d < 2 * r ∧ partOfStep d r = 3 := by
  unfold partOfStep
  grind

theorem roundUp_zero (rm : Nat) (neg odd : Bool) : roundUp rm neg odd 0 = false := by
  unfold roundUp
  split <;> simp

/-- On a grid no finer than the value's own, rounding divides by the step and looks at the remainder. -/
theorem roundGrid_eq (rm : Nat) (neg : Bool) (m : Nat) {e g : Int} (h : e ≤ g) :
    roundGrid rm neg m e false g =
      (let d := 2 ^ (g - e).toNat
       (if roundUp rm neg (m / d % 2 = 1) (partOfStep d (m % d)) then m / d + 1 else m / d, decide (m % d ≠ 0))) := by
  unfold roundGrid
  by_cases heq : g ≤ e
  · obtain rfl : e = g := Int.le_antisymm h heq
    simp [partOfStep, roundUp_zero, Nat.mod_one]
  rw [if_neg heq]
  obtain ⟨n, hn⟩ : ∃ n : Nat, (g - e).toNat = n + 1 := ⟨(g - e).toNat - 1, by omega⟩
  have hhalf : 2 ^ (g - e).toNat = 2 * 2 ^ n := by rw [hn, Nat.pow_succ, Nat.mul_comm]
  have hpos : 0 < 2 ^ n := Nat.two_pow_pos n
  by_cases hsmall : m = 0 ∨ (Nat.log2 m : Int) + e + 1 < g
  · rw [if_pos hsmall]
    simp only [hhalf]
    by_cases hm : m = 0
    · simp [hm, partOfStep, roundUp_zero]
    have hlt : m < 2 ^ n := (Nat.log2_lt hm).mp (by have := hsmall.resolve_left hm; omega)
    simp [hm, partOfStep, Nat.div_eq_of_lt (show m < 2 * 2 ^ n by omega), Nat.mod_eq_of_lt (show m < 2 * 2 ^ n by omega), hlt]
  · rw [if_neg hsmall]
    have hpart : (if m % 2 ^ (g - e).toNat = 0 then 0 else if m % 2 ^ (g - e).toNat < 2 ^ ((g - e).toNat - 1) then 1
        else if m % 2 ^ (g - e).toNat = 2 ^ ((g - e).toNat - 1) then 2 else 3) =
        partOfStep (2 ^ (g - e).toNat) (m % 2 ^ (g - e).toNat) := by
      rw [partOfStep, hhalf, hn, Nat.add_sub_cancel]
      generalize m % _ = r
      grind
    simp only [Nat.shiftRight_eq_div_pow, Bool.false_eq_true, if_false, hpart]
    refine Prod.ext rfl ?_
    unfold partOfStep
    grind

/-- What each mode makes of a magnitude (R41): the quotient and the remainder by the step decide. -/
theorem roundGrid_modes (rm : Nat) (neg : Bool) (m : Nat) (e g : Int) (h : e ≤ g) :
    let d := 2 ^ (g - e).toNat
    let r := roundGrid rm neg m e false g
    (r.2 = true ↔ r.1 * d ≠ m) ∧
    (rm = 0 → 2 * m ≤ 2 * (r.1 * d) + d ∧ 2 * (r.1 * d) ≤ 2 * m + d ∧
      (2 * m = 2 * (r.1 * d) + d ∨ 2 * (r.1 * d) = 2 * m + d → r.1 % 2 = 0)) ∧
    (rm = 1 → r.1 = m / d) ∧
    (rm = 2 → r.1 = if neg then (m + d - 1) / d else m / d) ∧
    (rm = 3 → r.1 = if neg then m / d else (m + d - 1) / d) ∧
    (rm = 4 → r.1 = (2 * m + d) / (2 * d)) := by
  intro d r
  have hr : r = _ := roundGrid_eq rm neg m h
  have hd : 0 < d := Nat.two_pow_pos _
  have hdiv : m = m / d * d + m % d := (Nat.div_add_mod' m d).symm
  have hlt : m % d < d := Nat.mod_lt m hd
  have hnext : (m / d + 1) * d = m / d * d + d := Nat.succ_mul _ _
  have hnext2 : (m / d + 1 + 1) * d = m / d * d + d + d := by rw [Nat.succ_mul, hnext]
  have htwice (k : Nat) : k * (2 * d) = 2 * (k * d) := Nat.mul_left_comm k 2 d
  have hup : (m + d - 1) / d = if m % d = 0 then m / d else m / d + 1 := by
    split
    · exact Nat.div_eq_of_lt_le (by omega) (by omega)
    · exact Nat.div_eq_of_lt_le (by omega) (by omega)
  have hnear : (2 * m + d) / (2 * d) = if 2 * (m % d) < d then m / d else m / d + 1 := by
    split
    · exact Nat.div_eq_of_lt_le (by rw [htwice]; omega) (by rw [htwice]; omega)
    · exact Nat.div_eq_of_lt_le (by rw [htwice]; omega) (by rw [htwice]; omega)
  have hfst : r.1 = if roundUp rm neg (m / d % 2 = 1) (partOfStep d (m % d)) then m / d + 1 else m / d := by rw [hr]
  have hsnd : r.2 = decide (m % d ≠ 0) := by rw [hr]
  rw [hup, hnear, hsnd, hfst]
  clear_value d r
  clear hr hfst hsnd hup hnear hnext2 htwice
  have hexact : m % d = 0 → roundUp rm neg (m / d % 2 = 1) (partOfStep d (m % d)) = false := fun h0 => by
    rw [h0]; exact roundUp_zero _ _ _
  generalize m / d = q at *
  generalize m % d = k at *
  subst hdiv
  refine ⟨?_, ?_, ?_, ?_, ?_, ?_⟩
  · rw [decide_eq_true_iff]
    by_cases h0 : k = 0
    · rw [hexact h0]; simp [h0]
    · split
      · simp [h0]; omega
      · simp [h0]
  all_goals
    clear hexact
    rintro rfl
    obtain ⟨rfl, hp⟩ | ⟨hk, hd2, hp⟩ | ⟨hk, hd2, hp⟩ | ⟨hk, hd2, hp⟩ := partOfStep_cases d k
  case refine_2.inl | refine_2.inr.inl | refine_2.inr.inr.inl | refine_2.inr.inr.inr =>
    by_cases hodd : q % 2 = 1 <;> simp [roundUp, hp, hodd] <;> omega
  case refine_3.inl | refine_4.inl | refine_5.inl | refine_6.inl => cases neg <;> simp [roundUp, hp, hd]
  all_goals cases neg <;> simp [roundUp, hp, hk] <;> omega

/-! ### A format holds its own values -/

/-- A binary format of IEEE kind: sign, exponent and fraction fill the code, and the largest magnitude is that of the last exponent. -/
structure Fmt.IsIeee (f : Fmt) : Prop where
  kind : f.kind = 0
  width : f.width = 1 + f.ebits + f.fbits
  fbits : 0 < f.fbits
  top : 2 < 2 ^ f.ebits
  maxM : f.maxM = 2 ^ (f.fbits + 1) - 1
  maxE : f.maxE = (2 ^ f.ebits : Nat) - 2 - f.bias - f.fbits

theorem ieee_formats : ∀ f ∈ [fp16, bf16, fp32, fp64], f.IsIeee := by
  intro f hf
  simp only [List.mem_cons, List.not_mem_nil, or_false] at hf
  rcases hf with rfl | rfl | rfl | rfl <;> constructor <;> decide

section
variable {f : Fmt} (hf : f.IsIeee)
include hf

/-- A code is its sign, its exponent field and its fraction field. -/
theorem Fmt.IsIeee.split_code {x : Nat} (hx : x < 2 ^ f.width) :
    x = f.sign (x.testBit (f.width - 1)) + bits x f.fbits f.ebits * 2 ^ f.fbits + bits x 0 f.fbits := by
  have hw := hf.width
  have hlow : bits x 0 f.fbits = x % 2 ^ f.fbits := rfl
  have hhigh : x / 2 ^ f.fbits / 2 ^ f.ebits = x / 2 ^ (f.width - 1) := by
    rw [Nat.div_div_eq_div_mul, ← Nat.pow_add, show f.fbits + f.ebits = f.width - 1 by omega]
  have hpow : 2 ^ (f.width - 1) = 2 ^ f.ebits * 2 ^ f.fbits := by rw [← Nat.pow_add]; congr 1; omega
  have hsign : f.sign (x.testBit (f.width - 1)) = x / 2 ^ (f.width - 1) * 2 ^ (f.width - 1) := by
    have hlt : x / 2 ^ (f.width - 1) < 2 := (Nat.div_lt_iff_lt_mul (Nat.two_pow_pos _)).mpr (by rwa [← two_pow_pred (by omega)])
    rw [Fmt.sign, Nat.testBit_eq_decide_div_mod_eq]
    generalize x / 2 ^ (f.width - 1) = q at hlt
    obtain rfl | rfl : q = 0 ∨ q = 1 := by omega
    · simp
    · simp
  rw [hsign, hlow, bits_eq, ← hhigh, hpow]
  calc x = (x / 2 ^ f.fbits / 2 ^ f.ebits * 2 ^ f.ebits + x / 2 ^ f.fbits % 2 ^ f.ebits) * 2 ^ f.fbits + x % 2 ^ f.fbits := by
        rw [Nat.div_add_mod', Nat.div_add_mod']
    _ = _ := by rw [Nat.add_mul, Nat.mul_assoc]

theorem Fmt.IsIeee.log2_maxM : Nat.log2 f.maxM = f.fbits := by
  have hp : 0 < 2 ^ f.fbits := Nat.two_pow_pos _
  have hs : 2 ^ (f.fbits + 1) = 2 * 2 ^ f.fbits := by rw [Nat.pow_succ, Nat.mul_comm]
  rw [hf.maxM, Nat.log2_eq_iff (by omega)]
  omega

/-- A magnitude whose leading bit stands at an exponent of the format is not above its largest. -/
theorem Fmt.IsIeee.above_eq_false {k : Nat} {g : Int} (hk : Nat.log2 k = f.fbits) (hk0 : k ≠ 0)
    (hle : (f.fbits : Int) + g ≤ (2 ^ f.ebits : Nat) - 2 - f.bias) : f.above k g = false := by
  have hmaxE := hf.maxE
  have hlt := (Nat.log2_eq_iff hk0).mp hk
  have hmax := hf.maxM
  unfold Fmt.above
  rw [if_neg hk0]
  simp only [hf.log2_maxM, hk]
  split
  · simp; omega
  · next heq =>
    obtain rfl : g = f.maxE := by omega
    simp; omega

/-- A value whose leading bit lies within the format's precision rounds to its own code (R43). -/
theorem Fmt.IsIeee.roundP_exact (env : FEnv) (hz : env.fzOut = false) (neg : Bool) {m : Nat} {e : Int} (hm : m ≠ 0)
    (hlog : Nat.log2 m ≤ f.fbits) (hle : (Nat.log2 m : Int) + e ≤ (2 ^ f.ebits : Nat) - 2 - f.bias) (hge : f.gmin ≤ e)  :
    f.roundP (f.fbits + 1) f.ovf env neg m e false =
      (f.code neg (if (Nat.log2 m : Int) + e < f.emin then m * 2 ^ (e - f.gmin).toNat else m * 2 ^ (f.fbits - Nat.log2 m))
        (if (Nat.log2 m : Int) + e < f.emin then f.gmin else (Nat.log2 m : Int) + e - f.fbits), 0) := by
  have hfine (g : Int) (hg : g ≤ e) : roundGrid env.rm neg m e false g = (m * 2 ^ (e - g).toNat, false) := by
    simp [roundGrid, hg]
  have hgmin : f.gmin = f.emin - f.fbits := by simp [Fmt.gmin, hf.kind]
  have hk : Nat.log2 (m * 2 ^ (f.fbits - Nat.log2 m)) = f.fbits := by
    obtain ⟨hlo, hhi⟩ := (Nat.log2_eq_iff hm).mp rfl
    have hpos : 0 < 2 ^ (f.fbits - Nat.log2 m) := Nat.two_pow_pos _
    rw [Nat.log2_eq_iff (Nat.mul_ne_zero hm (Nat.ne_of_gt hpos))]
    constructor
    · calc 2 ^ f.fbits = 2 ^ Nat.log2 m * 2 ^ (f.fbits - Nat.log2 m) := by rw [← Nat.pow_add]; congr 1; omega
        _ ≤ _ := Nat.mul_le_mul_right _ hlo
    · calc _ < 2 ^ (Nat.log2 m + 1) * 2 ^ (f.fbits - Nat.log2 m) := Nat.mul_lt_mul_of_pos_right hhi hpos
        _ = 2 ^ (f.fbits + 1) := by rw [← Nat.pow_add]; congr 1; omega
  have hk0 : m * 2 ^ (f.fbits - Nat.log2 m) ≠ 0 := Nat.mul_ne_zero hm (Nat.ne_of_gt (Nat.two_pow_pos _))
  have habove := hf.above_eq_false hk hk0 (g := (Nat.log2 m : Int) + e - f.fbits) (by omega)
  have hexp : (e - ((Nat.log2 m : Int) + e - f.fbits)).toNat = f.fbits - Nat.log2 m := by omega
  have hkind : f.kind ≠ 4 := by rw [hf.kind]; decide
  unfold Fmt.roundP
  rw [if_neg (by simp [hm])]
  simp only [Nat.add_sub_cancel, hkind, if_false, hfine _ (show (Nat.log2 m : Int) + e - f.fbits ≤ e by omega), hexp, habove,
    Bool.false_eq_true, hk, hz, Bool.and_false, ne_eq, not_false_eq_true, true_and, cNX]
  rw [show (f.fbits : Int) + ((Nat.log2 m : Int) + e - f.fbits) = (Nat.log2 m : Int) + e by omega]
  by_cases hsub : (Nat.log2 m : Int) + e < f.emin
  · rw [if_pos hsub, if_pos hsub, if_pos hsub, if_pos (show (Nat.log2 m : Int) + e - f.fbits < f.gmin by omega), hfine _ hge]
    simp
  · rw [if_neg hsub, if_neg hsub, if_neg hsub]

/-- How a code of an IEEE format reads (R36, R45). -/
theorem Fmt.IsIeee.read_eq (fz : Bool) (x : Nat) : f.read fz x =
    if bits x f.fbits f.ebits = 2 ^ f.ebits - 1 then
      if bits x 0 f.fbits = 0 then .inf (x.testBit (f.width - 1)) else .nan !(bits x 0 f.fbits).testBit (f.fbits - 1)
    else if bits x f.fbits f.ebits = 0 then .fin (x.testBit (f.width - 1)) (if fz then 0 else bits x 0 f.fbits) f.gmin false
    else .fin (x.testBit (f.width - 1)) (bits x 0 f.fbits + 2 ^ f.fbits) (f.gmin + (bits x f.fbits f.ebits : Int) - 1) false := by
  simp [Fmt.read, hf.kind]

/-- A value that is no NaN rounds back to the code it was read from. -/
theorem Fmt.IsIeee.rnd_read (env : FEnv) (hz : env.fzOut = false) {x : Nat} (hx : x < 2 ^ f.width)
    (hnan : (f.read false x).isNan = false) : f.rnd env (f.read false x) = (x, 0) := by
  have hsplit := hf.split_code hx
  have hfr : bits x 0 f.fbits < 2 ^ f.fbits := Nat.mod_lt _ (Nat.two_pow_pos _)
  have hex : bits x f.fbits f.ebits < 2 ^ f.ebits := Nat.mod_lt _ (Nat.two_pow_pos _)
  have htop := hf.top
  have hkind : f.kind ≠ 4 := by rw [hf.kind]; decide
  have hemin : f.emin = 1 - f.bias := rfl
  have hgmin : f.gmin = f.emin - f.fbits := by simp [Fmt.gmin, hf.kind]
  rw [hf.read_eq] at hnan ⊢
  generalize bits x 0 f.fbits = fr at *
  generalize bits x f.fbits f.ebits = ex at *
  generalize x.testBit (f.width - 1) = neg at *
  by_cases hinf : ex = 2 ^ f.ebits - 1
  · rw [if_pos hinf] at hnan ⊢
    by_cases h0 : fr = 0
    · rw [if_pos h0, Fmt.rnd, Fmt.roundTo, if_pos (.inl hf.kind), Fmt.inf, ← hinf]
      rw [h0, Nat.add_zero] at hsplit
      rw [hsplit]
    · rw [if_neg h0] at hnan
      cases hnan
  rw [if_neg hinf]
  by_cases hsub : ex = 0
  · rw [if_pos hsub, Fmt.rnd, Fmt.roundTo]
    simp only [Bool.false_eq_true, if_false]
    by_cases h0 : fr = 0
    · subst h0 hsub
      simp [Fmt.roundP, Fmt.code, hkind, hsplit]
    · have hlog : Nat.log2 fr < f.fbits := (Nat.log2_lt h0).mpr hfr
      have hlow : (Nat.log2 fr : Int) + f.gmin < f.emin := by omega
      rw [hf.roundP_exact env hz neg h0 (Nat.le_of_lt hlog) (by omega) (Int.le_refl _), if_pos hlow, if_pos hlow]
      simp only [Fmt.code, hkind, h0, if_false, Int.sub_self, Int.toNat_zero, Nat.pow_zero, Nat.mul_one, hlow, if_true]
      rw [hsplit, hsub, Nat.zero_mul, Nat.add_zero]
  · have hm : fr + 2 ^ f.fbits ≠ 0 := by have := Nat.two_pow_pos f.fbits; omega
    have hlog : Nat.log2 (fr + 2 ^ f.fbits) = f.fbits := (Nat.log2_eq_iff hm).mpr (by rw [Nat.pow_succ]; omega)
    have hnorm : ¬ (Nat.log2 (fr + 2 ^ f.fbits) : Int) + (f.gmin + ex - 1) < f.emin := by omega
    rw [if_neg hsub, Fmt.rnd, Fmt.roundTo]
    rw [hf.roundP_exact env hz neg hm (Nat.le_of_eq hlog) (by omega) (by omega), if_neg hnorm, if_neg hnorm]
    have hexp : (f.fbits : Int) + ((f.fbits : Int) + (f.gmin + ex - 1) - f.fbits) = f.emin + ex - 1 := by omega
    simp only [Fmt.code, hkind, hm, if_false, hlog, Nat.sub_self, Nat.pow_zero, Nat.mul_one, hexp, show ¬ f.emin + (ex : Int) - 1 < f.emin by omega,
      Int.sub_self, Int.le_refl, if_true, Int.toNat_zero, Nat.add_sub_cancel]
    rw [show (f.emin + (ex : Int) - 1 + f.bias).toNat = ex by omega, ← hsplit]
end

/-- Settles O16: quotient and remainder by the step decide every mode, and a code's value needs no rounding. -/
theorem roundingToTheGrid : Obligations.RoundingToTheGrid := by
  unfold Obligations.RoundingToTheGrid
  exact ⟨roundGrid_modes, fun f hf env x hz hx hnan => (ieee_formats f hf).rnd_read env hz hx hnan⟩

end Sys2Proof.Machine
end

section
/-! PROOF. The floating-point datapath: arithmetic (O17), comparison, sign and class (O18), functions and sums (O19), conversions and
microscaling (O20). -/

namespace Sys2Proof.Machine

open Sys2Proof.Claims

/-! ### The firing of an operation under the block's configuration -/

theorem fireVcfg_eq {s : State} {h i id : Nat} {b : Biq} (hf : s.fire = (h, i, id)) (he : s.entry h i = some b) :
    s.fireVcfg = b.vcfg := by
  simp only [State.fireVcfg, hf, he]

theorem fireFmt_eq {s : State} {b : Biq} (a : AForm) (hv : s.fireVcfg = b.vcfg) : s.fireFmt (b16Of a) = formatOf a b := by
  rw [State.fireFmt, hv]; rfl

section
variable {ctor : AForm → Instr} {prd : Bool} {f : AForm → Biq → Nat → Nat → (Nat → Nat) → Nat × Nat}

theorem elementwiseOn_of_lift1 {op : AForm → State → Nat → Nat → Nat × Nat} (fire : AForm → State → Out)
    (hexec : ∀ a s, exec (ctor a) s = fire a s) (hfire : ∀ a s, fire a s = s.fireA a [0] prd (lift1 (op a s)))
    (hop : ∀ (s : State) (b : Biq) id a w (o : Nat → Nat), s.fireVcfg = b.vcfg → IsWidth w → o 0 < 2 ^ w → op a s w (o 0) = f a b id w o) :
    ElementwiseOn (fun _ _ => True) ctor [0] prd f := by
  refine elementwiseOn_of_body (fun a s => (hexec a s).trans (hfire a s)) fun s h i id b a w e _ hf he _ _ hw => ?_
  rw [← hop s b id a w _ (fireVcfg_eq hf he) hw (opnd_lt b id e 0 hw.pos)]
  unfold lift1 opnd
  cases hx : b.operand id w 0 e <;> simp [hx]

theorem elementwiseOn_of_lift2 {op : AForm → State → Nat → Nat → Nat → Nat × Nat} (fire : AForm → State → Out)
    (hexec : ∀ a s, exec (ctor a) s = fire a s) (hfire : ∀ a s, fire a s = s.fireA a [0, 1] prd (lift2 (op a s)))
    (hop : ∀ (s : State) (b : Biq) id a w (o : Nat → Nat), s.fireVcfg = b.vcfg → op a s w (o 0) (o 1) = f a b id w o) :
    ElementwiseOn (fun _ _ => True) ctor [0, 1] prd f := by
  refine elementwiseOn_of_body (fun a s => (hexec a s).trans (hfire a s)) fun s h i id b a w e _ hf he _ _ _ => ?_
  rw [← hop s b id a w _ (fireVcfg_eq hf he)]
  unfold lift2 opnd
  cases hx : b.operand id w 0 e <;> cases hy : b.operand id w 1 e <;> simp [hx, hy]

theorem elementwiseOn_of_lift3 {op : AForm → State → Nat → Nat → Nat → Nat → Nat × Nat} (fire : AForm → State → Out)
    (hexec : ∀ a s, exec (ctor a) s = fire a s) (hfire : ∀ a s, fire a s = s.fireA a [0, 1, 2] prd (lift3 (op a s)))
    (hop : ∀ (s : State) (b : Biq) id a w (o : Nat → Nat), s.fireVcfg = b.vcfg → op a s w (o 0) (o 1) (o 2) = f a b id w o) :
    ElementwiseOn (fun _ _ => True) ctor [0, 1, 2] prd f := by
  refine elementwiseOn_of_body (fun a s => (hexec a s).trans (hfire a s)) fun s h i id b a w e _ hf he _ _ _ => ?_
  rw [← hop s b id a w _ (fireVcfg_eq hf he)]
  unfold lift3 opnd
  cases hx : b.operand id w 0 e <;> cases hy : b.operand id w 1 e <;> cases hz : b.operand id w 2 e <;> simp [hx, hy, hz]
end

/-! ### Arithmetic -/

theorem formatOf_mem (a : AForm) (b : Biq) : formatOf a b ∈ [fp16, bf16, fp32, fp64] := by
  unfold formatOf
  split
  · split <;> simp
  · split <;> simp

/-- A float operation of two operands is the one that the claims round. -/
theorem fBin_eq (f : Fmt) (env : FEnv) (op : FV → FV → Option FV) (w x y : Nat) :
    fBin f env op w x y = floatResult f env [f.read env.fzIn x, f.read env.fzIn y] (op (f.read env.fzIn x) (f.read env.fzIn y)) := by
  simp only [fBin, floatResult, nanResult, sigNV, List.any_cons, List.any_nil, Bool.or_false]
  rfl

theorem FV.isNan_eq_true_iff {x : FV} : x.isNan = true ↔ ∃ s, x = .nan s := by
  cases x <;> simp [FV.isNan]

/-- The product of numbers is none just for zero and infinity. -/
theorem FV.mul_eq_none_iff {x y : FV} : FV.mul x y = none ↔
    (∃ n k e s, x = .inf n ∧ y = .fin k 0 e s) ∨ ∃ n k e s, x = .fin k 0 e s ∧ y = .inf n := by
  cases x <;> cases y <;> simp [FV.mul]

theorem FV.isNan_mul {x y p : FV} (hp : FV.mul x y = some p) : p.isNan = (x.isNan || y.isNan) := by
  cases x <;> cases y <;> simp only [FV.mul] at hp <;> (try split at hp) <;> cases hp <;> rfl

/-- `fma` as the claim states it: its special cases first, then one rounding. -/
def fmaResult (f : Fmt) (env : FEnv) (v : Nat) (operands : List FV) (x y z : FV) : Nat × Nat :=
  match x, y with
  | .inf _, .fin _ 0 _ _ => (f.nan, 16)
  | .fin _ 0 _ _, .inf _ => (f.nan, 16)
  | x, y =>
    floatResult f env operands ((FV.mul x y).bind fun p =>
      FV.add env.rm (if v = 2 ∨ v = 3 then p.neg else p) (if v = 1 ∨ v = 3 then z.neg else z))

theorem fmaResult_invalid {f : Fmt} {env : FEnv} {v : Nat} {l : List FV} {x y z : FV} (h : FV.mul x y = none) :
    fmaResult f env v l x y z = (f.nan, 16) := by
  obtain ⟨n, k, e, s, rfl, rfl⟩ | ⟨n, k, e, s, rfl, rfl⟩ := FV.mul_eq_none_iff.mp h <;> rfl

theorem fmaResult_valid {f : Fmt} {env : FEnv} {v : Nat} {l : List FV} {x y z p : FV} (h : FV.mul x y = some p) :
    fmaResult f env v l x y z =
      floatResult f env l (FV.add env.rm (if v = 2 ∨ v = 3 then p.neg else p) (if v = 1 ∨ v = 3 then z.neg else z)) := by
  unfold fmaResult
  split
  · cases h
  · cases h
  · rw [h]; rfl

theorem fFma_eq (f : Fmt) (env : FEnv) (v w x y z : Nat) (hv : v < 4) :
    fFma f env v w x y z = fmaResult f env v [f.read env.fzIn x, f.read env.fzIn y, f.read env.fzIn z]
      (f.read env.fzIn x) (f.read env.fzIn y) (f.read env.fzIn z) := by
  have hneg : 2 ≤ v ↔ v = 2 ∨ v = 3 := by omega
  unfold fFma
  generalize f.read env.fzIn x = a
  generalize f.read env.fzIn y = b
  generalize f.read env.fzIn z = c
  cases hp : FV.mul a b with
  | none =>
    rw [fmaResult_invalid hp]
    obtain ⟨n, k, e, s, rfl, rfl⟩ | ⟨n, k, e, s, rfl, rfl⟩ := FV.mul_eq_none_iff.mp hp <;> rfl
  | some p =>
    rw [fmaResult_valid hp]
    simp only [fmaFV, hp, hneg, floatResult, nanResult, finish, sigNV, List.any_cons, List.any_nil, Bool.or_false, Option.isNone_some,
      Bool.false_eq_true, if_false, cNV]
    cases a <;> cases b <;> cases c <;> simp [FV.isNan, FV.isSig] <;> rfl

/-- `fdiv` as the claim states it: the quotient by zero first, then one rounding. -/
def divResult (f : Fmt) (env : FEnv) (x y : FV) : Nat × Nat :=
  match x, y with
  | .fin n m _ _, .fin n' 0 _ _ => if m = 0 then (f.nan, 16) else (f.inf (n != n'), 8)
  | x, y => floatResult f env [x, y] ((FV.div x y).map (·.1))

theorem rnd_inf {f : Fmt} (hf : f.IsIeee) (env : FEnv) (n : Bool) : f.rnd env (.inf n) = (f.inf n, 0) := by
  rw [Fmt.rnd, Fmt.roundTo, if_pos (.inl hf.kind)]

/-- Only a number divided by zero raises DZ. -/
theorem FV.div_conditions {x y v : FV} {c : Nat} (h : FV.div x y = some (v, c)) (hy : ∀ n e s, y ≠ .fin n 0 e s) : c = 0 := by
  cases x <;> cases y <;> simp only [FV.div] at h
  case fin.fin n m e s n' m' e' s' =>
    by_cases hm' : m' = 0
    · exact absurd (by rw [hm']) (hy n' e' s')
    · rw [if_neg hm'] at h
      split at h <;> cases h <;> rfl
  all_goals cases h <;> rfl

theorem fDiv_eq {f : Fmt} (hf : f.IsIeee) (env : FEnv) (w x y : Nat) :
    fDiv f env w x y = divResult f env (f.read env.fzIn x) (f.read env.fzIn y) := by
  unfold fDiv
  generalize f.read env.fzIn x = a
  generalize f.read env.fzIn y = b
  by_cases hb : ∃ n e s, b = .fin n 0 e s
  · obtain ⟨n', e', s', rfl⟩ := hb
    cases a with
    | nan sig => rfl
    | inf n => simp [FV.isNan, FV.div, divResult, floatResult]
    | fin n m e s => by_cases hm : m = 0 <;> simp [FV.isNan, FV.div, divResult, hm, cNV, cDZ, rnd_inf hf]
  · have hdiv : divResult f env a b = floatResult f env [a, b] ((FV.div a b).map (·.1)) := by
      unfold divResult
      split
      · exact absurd ⟨_, _, _, rfl⟩ hb
      · rfl
    rw [hdiv]
    simp only [floatResult, nanResult, sigNV, List.any_cons, List.any_nil, Bool.or_false]
    refine ite_congr rfl (fun _ => rfl) fun _ => ?_
    cases hq : FV.div a b with
    | none => rfl
    | some q => simp [FV.div_conditions (v := q.1) (c := q.2) hq fun n e s hne => hb ⟨n, e, s, hne⟩]

theorem fSqrt_eq (f : Fmt) (env : FEnv) (w x : Nat) :
    fSqrt f env w x = floatResult f env [f.read env.fzIn x] (f.read env.fzIn x).sqrt := by
  simp only [fSqrt, floatResult, nanResult, sigNV, List.any_cons, List.any_nil, Bool.or_false]
  rfl

theorem ieee_formatOf (a : AForm) (b : Biq) : (formatOf a b).IsIeee := ieee_formats _ (formatOf_mem a b)

/-- Settles O17, operation by operation. -/
theorem floatArithmetic : Obligations.FloatArithmetic := by
  unfold Obligations.FloatArithmetic
  refine ⟨elementwiseOn_of_lift2 execFadd (fun _ _ => rfl) (fun _ _ => rfl) fun s b id a w o hv => ?_,
    elementwiseOn_of_lift2 execFsub (fun _ _ => rfl) (fun _ _ => rfl) fun s b id a w o hv => ?_,
    elementwiseOn_of_lift2 execFmul (fun _ _ => rfl) (fun _ _ => rfl) fun s b id a w o hv => ?_,
    elementwiseOn_of_lift3 execFma (fun _ _ => rfl) (fun _ _ => rfl) fun s b id a w o hv => ?_,
    elementwiseOn_of_lift2 execFdiv (fun _ _ => rfl) (fun _ _ => rfl) fun s b id a w o hv => ?_,
    elementwiseOn_of_lift1 execFsqrt (fun _ _ => rfl) (fun _ _ => rfl) fun s b id a w o hv _ _ => ?_⟩
  all_goals rw [fireFmt_eq a hv, hv]
  · exact fBin_eq _ _ _ _ _ _
  · exact fBin_eq _ _ _ _ _ _
  · exact fBin_eq _ _ _ _ _ _
  · exact fFma_eq _ _ _ _ _ _ _ (Nat.mod_lt _ (by decide))
  · exact fDiv_eq (ieee_formatOf a b) _ _ _ _
  · exact fSqrt_eq _ _ _ _

/-! ### Comparison, sign and class -/

theorem flushed_eq (f : Fmt) (b : Biq) (x : Nat) : f.flushed (fenv b.vcfg).fzIn x = flushedCode f b x := rfl

theorem fMinMax_eq (max : Bool) (f : Fmt) (b : Biq) (x y : Nat) :
    fMinMax f (fenv b.vcfg).fzIn max x y = extremumOf max f b x y := by
  simp only [fMinMax, extremumOf, sigNV, List.any_cons, List.any_nil, Bool.or_false, flushed_eq]
  generalize hfirst : (if max then FV.lt true (f.read (fenv b.vcfg).fzIn y) (f.read (fenv b.vcfg).fzIn x)
    else FV.lt true (f.read (fenv b.vcfg).fzIn x) (f.read (fenv b.vcfg).fzIn y)) = first
  cases first <;> rfl

theorem fSgnj_eq (sew : Nat) (md : BitVec 3) (x y : Nat) : fSgnj sew md.toNat x y =
    (let sa := x / 2 ^ (sew - 1) % 2
     let sb := y / 2 ^ (sew - 1) % 2
     x % 2 ^ (sew - 1) + 2 ^ (sew - 1) * (if md = 0 then sb else if md = 1 then 1 - sb else (sa + sb) % 2)) := by
  have hbit (z : Nat) : bit z (sew - 1) = decide (z / 2 ^ (sew - 1) % 2 = 1) := Nat.testBit_eq_decide_div_mod_eq
  have h0 : md = 0 ↔ md.toNat = 0 := bitVec_eq_iff_toNat md 0 (by decide)
  have h1 : md = 1 ↔ md.toNat = 1 := bitVec_eq_iff_toNat md 1 (by decide)
  simp only [fSgnj, hbit, h0, h1]
  congr 1
  rcases Nat.mod_two_eq_zero_or_one (x / 2 ^ (sew - 1)) with ha | ha <;>
    rcases Nat.mod_two_eq_zero_or_one (y / 2 ^ (sew - 1)) with hb | hb <;>
    rcases hm : md.toNat with _ | _ | k <;> simp [ha, hb]

theorem FV.lt_of_isNan {z : Bool} {x y : FV} (h : (x.isNan || y.isNan) = true) : FV.lt z x y = false := by
  cases x <;> cases y <;> first | rfl | cases h

/-- The comparison bit and its conditions, under the condition's modifier (R216). -/
theorem fCmp_eq (f : Fmt) (fz : Bool) (md : BitVec 3) (u v : Nat) : fCmp f fz md.toNat u v =
    (let x := f.read fz u
     let y := f.read fz v
     let nan := x.isNan || y.isNan
     let less := FV.lt false x y
     let equal := !nan && !less && !FV.lt false y x
     let sig := if x.isSig || y.isSig then 16 else 0
     let any := if nan then 16 else 0
     if md = 0 then (b2n equal, sig) else if md = 1 then (b2n (!nan && less), any)
     else if md = 2 then (b2n (!nan && (less || equal)), any) else if md = 3 then (b2n nan, sig) else (b2n !equal, sig)) := by
  have h0 : md = 0 ↔ md.toNat = 0 := bitVec_eq_iff_toNat md 0 (by decide)
  have h1 : md = 1 ↔ md.toNat = 1 := bitVec_eq_iff_toNat md 1 (by decide)
  have h2 : md = 2 ↔ md.toNat = 2 := bitVec_eq_iff_toNat md 2 (by decide)
  have h3 : md = 3 ↔ md.toNat = 3 := bitVec_eq_iff_toNat md 3 (by decide)
  simp only [fCmp, h0, h1, h2, h3, FV.eq, sigNV, cNV, List.any_cons, List.any_nil, Bool.or_false]
  have hlt := FV.lt_of_isNan (z := false) (x := f.read fz u) (y := f.read fz v)
  generalize f.read fz u = x at *
  generalize f.read fz v = y at *
  rcases md.toNat with _ | _ | _ | _ | k
  · simp
  · cases hx : x.isNan <;> cases hy : y.isNan <;> simp_all
  · cases hx : x.isNan <;> cases hy : y.isNan <;> simp_all
  · simp
  · simp

/-- The class bit of a code (R218). -/
theorem fClass_eq (f : Fmt) (x : Nat) : fClass f x =
    (match f.read false x with
      | .inf true => 0x001
      | .fin true m _ _ => if m = 0 then 0x008 else if m < 2 ^ f.fbits then 0x004 else 0x002
      | .fin false m _ _ => if m = 0 then 0x010 else if m < 2 ^ f.fbits then 0x020 else 0x040
      | .inf false => 0x080
      | .nan true => 0x100
      | .nan false => 0x200) := by
  unfold fClass
  rcases f.read false x with (_ | _) | (_ | _) | ⟨_ | _, m, e, s⟩ <;> rfl

/-- Settles O18, operation by operation. -/
theorem floatComparisonSignAndClass : Obligations.FloatComparisonSignAndClass := by
  unfold Obligations.FloatComparisonSignAndClass
  refine ⟨elementwiseOn_of_lift2 execFmin (fun _ _ => rfl) (fun _ _ => rfl) fun s b id a w o hv => ?_,
    elementwiseOn_of_lift2 execFmax (fun _ _ => rfl) (fun _ _ => rfl) fun s b id a w o hv => ?_,
    elementwiseOn_of_lift2 execFsgnj (fun _ _ => rfl) (fun _ _ => rfl) fun s b id a w o hv => ?_,
    elementwiseOn_of_lift2 execFcmp (fun _ _ => rfl) (fun _ _ => rfl) fun s b id a w o hv => ?_,
    elementwiseOn_of_lift1 execFclass (fun _ _ => rfl) (fun _ _ => rfl) fun s b id a w o hv _ _ => ?_⟩
  · rw [fireFmt_eq a hv, hv]
    exact fMinMax_eq _ _ _ _ _
  · rw [fireFmt_eq a hv, hv]
    exact fMinMax_eq _ _ _ _ _
  · rw [hv, fSgnj_eq]
  · rw [State.fireFmt, hv]
    exact fCmp_eq _ _ _ _ _
  · rw [fireFmt_eq a hv]
    exact congrArg (·, 0) (fClass_eq _ _)

/-! ### Functions -/

theorem reducedP_formatOf (a : AForm) (b : Biq) :
    reducedP (formatOf a b) = if (formatOf a b).width = 32 then 16 else (formatOf a b).fbits + 1 := by
  have hall : ∀ f ∈ [fp16, bf16, fp32, fp64], reducedP f = if f.width = 32 then 16 else f.fbits + 1 := by decide
  exact hall _ (formatOf_mem a b)

theorem cosOne_eq_true_iff (f : Fmt) (x : FV) : cosOne f x = true ↔ f.width = 32 ∧ fcosLarge x = true := by
  cases x <;> simp [cosOne, fcosLarge, and_comm]

/-- A function of reduced precision as the claim states it. -/
theorem fFunc_eq (a : AForm) (b : Biq) (fn w u : Nat) : fFunc (formatOf a b) (fenv b.vcfg) fn w u =
    (let f := formatOf a b
     let x := f.read (fenv b.vcfg).fzIn u
     if x.isNan then (f.nan, if x.isSig then 16 else 0)
     else if fn = 5 ∧ f.width = 32 ∧ fcosLarge x = true then ((f.rnd (fenv b.vcfg) (.fin false 1 0 false)).1, 0)
     else match funcFV fn x with
       | none => (f.nan, 16)
       | some (.fin n m e st, c) =>
         let r := f.roundP (if f.width = 32 then 16 else f.fbits + 1) 1 (fenv b.vcfg) n m e st
         (r.1, r.2 ||| c)
       | some (v, c) => ((f.rnd (fenv b.vcfg) v).1, c)) := by
  simp only [fFunc, nanResult, sigNV, cNV, List.any_cons, List.any_nil, Bool.or_false, Bool.and_eq_true, decide_eq_true_eq, cosOne_eq_true_iff,
    reducedP_formatOf] <;> rfl

/-! ### Sums of products -/

theorem fDot2_eq (g : Fmt) (env : FEnv) (w x y z : Nat) : fDot2 g env w x y z =
    (let rd (x : Nat) : FV := g.read env.fzIn (x % 65536)
     let c := fp32.read env.fzIn z
     let ops := [rd x, rd (x / 65536), rd y, rd (y / 65536), c]
     match FV.mul (rd x) (rd y), FV.mul (rd (x / 65536)) (rd (y / 65536)) with
     | some p, some q => floatResult fp32 env ops ((FV.add env.rm p q).bind fun t => FV.add env.rm t c)
     | _, _ => (fp32.nan, 16)) := by
  have hlow (u : Nat) : bits u 0 16 = u % 65536 := rfl
  have hhigh (u : Nat) : bits u 16 16 = u / 65536 % 65536 := bits_eq u 16 16
  simp only [fDot2, hlow, hhigh]
  generalize g.read env.fzIn (x % 65536) = a0
  generalize g.read env.fzIn (x / 65536 % 65536) = a1
  generalize g.read env.fzIn (y % 65536) = b0
  generalize g.read env.fzIn (y / 65536 % 65536) = b1
  generalize fp32.read env.fzIn z = c
  cases hp : FV.mul a0 b0 with
  | none => rfl
  | some p =>
    cases hq : FV.mul a1 b1 with
    | none => rfl
    | some q =>
      have hnan : (p.isNan || q.isNan || c.isNan) = [a0, a1, b0, b1, c].any FV.isNan := by
        simp only [FV.isNan_mul hp, FV.isNan_mul hq, List.any_cons, List.any_nil, Bool.or_false]
        cases a0.isNan <;> cases a1.isNan <;> cases b0.isNan <;> rfl
      simp only [hnan, floatResult, sigNV, cNV]
      refine ite_congr rfl (fun _ => rfl) fun _ => ?_
      cases FV.add env.rm p q <;> rfl

/-- Code 0 of an IEEE format is a number. -/
theorem Fmt.IsIeee.isNan_zero {f : Fmt} (hf : f.IsIeee) : (f.read false 0).isNan = false := by
  have htop := hf.top
  rw [hf.read_eq, if_neg (by simp [bits]; omega)]
  split <;> rfl

theorem testBit_zero_eq (n : Nat) : (n.testBit 0) = decide (n % 2 = 1) := by
  rw [Nat.testBit_zero]

/-- The tree of R51 over the elements of slot a. -/
theorem fredsum_body_eq (a : AForm) (b : Biq) (vl : Nat) (l : List (Option Nat)) :
    (let f := formatOf a b
     let env := fenv b.vcfg
     let leaf (x : Nat) : Nat × Nat := (f.flushed env.fzIn x, sigNV [f.read env.fzIn x])
     match combTree f env (Nat.log2 vl + 1) (l.map (·.map leaf)) with
     | some (x, c) => (Tok.uni (some (BitVec.ofNat 64 (if (f.read false x).isNan then f.nan else x))), c)
     | none => (Tok.uni (some 0), 0)) =
    (let f := formatOf a b
     let env := fenv b.vcfg
     let leaves := l.map fun x => x.map fun c => (flushedCode f b c, if (f.read env.fzIn c).isSig then 16 else 0)
     let r := (combTree f env (Nat.log2 vl + 1) leaves).getD (0, 0)
     (Tok.uni (some (BitVec.ofNat 64 (if (f.read false r.1).isNan then f.nan else r.1))), r.2)) := by
  have hsig (x : FV) : sigNV [x] = if x.isSig then 16 else 0 := by simp only [sigNV, List.any_cons, List.any_nil, Bool.or_false, cNV]
  simp only [hsig, flushed_eq]
  cases combTree (formatOf a b) (fenv b.vcfg) (Nat.log2 vl + 1) _ with
  | some r => rfl
  | none => simp [(ieee_formatOf a b).isNan_zero]

/-- The extremum over the contributing elements (R222). -/
theorem fredmm_body_eq (a : AForm) (b : Biq) (l : List Nat) :
    (let f := formatOf a b
     let fz := (fenv b.vcfg).fzIn
     let nv := sigNV (l.map (f.read fz))
     match l.filter fun x => !(f.read fz x).isNan with
     | [] => (Tok.uni (some (BitVec.ofNat 64 f.nan)), nv)
     | x :: r => (Tok.uni (some (BitVec.ofNat 64 (r.foldl (fun m y => (fMinMax f fz (a.md.toNat % 2 = 1) m y).1) (f.flushed fz x)))), nv)) =
    (let f := formatOf a b
     let nv := if l.any fun x => (f.read (fenv b.vcfg).fzIn x).isSig then 16 else 0
     (Tok.uni (some (BitVec.ofNat 64 (match l.filter fun x => !(f.read (fenv b.vcfg).fzIn x).isNan with
      | [] => f.nan
      | x :: r => r.foldl (fun m y => (extremumOf (a.md.toNat.testBit 0) f b m y).1) (flushedCode f b x)))), nv)) := by
  simp only [fMinMax_eq, flushed_eq, sigNV, List.any_map, testBit_zero_eq]
  cases l.filter fun x => !((formatOf a b).read (fenv b.vcfg).fzIn x).isNan <;> rfl

/-- Settles O19: each function by its equation, `fredsum` and `fredmm` over the elements of slot a. -/
theorem floatFunctionsAndSums : Obligations.FloatFunctionsAndSums := by
  unfold Obligations.FloatFunctionsAndSums
  refine ⟨?_, elementwiseOn_of_lift3 execFdot2 (fun _ _ => rfl) (fun _ _ => rfl) fun s b id a w o hv => ?_,
    collective_of_body execFredsum (fun _ _ => rfl) (fun _ _ => rfl) fun a b i vl _ => ?_,
    collective_of_body execFredmm (fun _ _ => rfl) (fun _ _ => rfl) fun a b i vl _ => ?_⟩
  · intro p hp
    have hfn : ∃ fire : AForm → State → Out, (∀ a s, exec (p.1 a) s = fire a s) ∧
        ∀ a s, fire a s = s.fireA a [0] false (lift1 (fFunc (s.fireFmt (b16Of a)) (fenv s.fireVcfg) p.2)) := by
      simp only [List.mem_cons, List.not_mem_nil, or_false] at hp
      rcases hp with rfl | rfl | rfl | rfl | rfl | rfl
      · exact ⟨execFrcp, fun _ _ => rfl, fun _ _ => rfl⟩
      · exact ⟨execFrsq, fun _ _ => rfl, fun _ _ => rfl⟩
      · exact ⟨execFex2, fun _ _ => rfl, fun _ _ => rfl⟩
      · exact ⟨execFlg2, fun _ _ => rfl, fun _ _ => rfl⟩
      · exact ⟨execFsin, fun _ _ => rfl, fun _ _ => rfl⟩
      · exact ⟨execFcos, fun _ _ => rfl, fun _ _ => rfl⟩
    obtain ⟨fire, hexec, hfire⟩ := hfn
    refine elementwiseOn_of_lift1 fire hexec hfire fun s b id a w o hv _ _ => ?_
    rw [fireFmt_eq a hv, hv]
    exact fFunc_eq a b p.2 w (o 0)
  · rw [hv]
    exact fDot2_eq _ _ _ _ _ _
  · exact fredsum_body_eq a b vl (members b i a.pm vl 0)
  · exact fredmm_body_eq a b ((members b i a.pm vl 0).filterMap id)

/-! ### Conversions -/

theorem fConv_eq (src dst : Fmt) (b : Biq) (w : Nat) (o : Nat → Nat) : fConv src dst (fenv b.vcfg) w (o 0) =
    floatResult dst (fenv b.vcfg) (inputs src b o [0]) (some (input src b o 0)) := by
  simp only [fConv, floatResult, nanResult, sigNV, inputs, input, List.map_cons, List.map_nil, List.any_cons, List.any_nil, Bool.or_false, cNV]

/-- The code of a number within bounds, or of the bound it passes. -/
theorem clamped_code (w : Nat) (x lo hi : Int) (c : Nat) :
    (if x < lo ∨ hi < x then (toW w (clampInt x lo hi), cOF) else (toW w x, c)) =
      if x < lo then (toW w lo, 4) else if hi < x then (toW w hi, 4) else (toW w x, c) := by
  unfold clampInt cOF
  by_cases hlo : x < lo
  · simp [hlo]
  · by_cases hhi : hi < x <;> simp [hlo, hhi]

/-- `f2i` as the claim states it (R225). -/
theorem fToI_eq (f : Fmt) (env : FEnv) (w : Nat) (uns : Bool) (u : Nat) : fToI f env w uns u =
    (let lo : Int := if uns then 0 else -(2 ^ (w - 1) : Nat)
     let hi : Int := if uns then (2 ^ w : Nat) - 1 else (2 ^ (w - 1) : Nat) - 1
     let code (x : Int) : Nat := (x % (2 ^ w : Nat)).toNat
     match f.read env.fzIn u with
     | .nan _ => (0, 16)
     | .inf n => (code (if n then lo else hi), 4)
     | .fin n m e st =>
       let r := roundGrid env.rm n m e st 0
       let x : Int := if n then -(r.1 : Int) else r.1
       if x < lo then (code lo, 4) else if hi < x then (code hi, 4) else (code x, if r.2 then 1 else 0)) := by
  unfold fToI
  cases f.read env.fzIn u with
  | nan _ => rfl
  | inf _ => rfl
  | fin n m e st =>
    exact clamped_code w _ _ _ _

/-- `i2f` as the claim states it (R226). -/
theorem i2f_eq (f : Fmt) (env : FEnv) (w : Nat) (uns : Prop) [Decidable uns] (x : Nat) (hw : 0 < w) :
    f.rnd env (intFV (if uns then (x % 2 ^ w : Nat) else signed x w)) =
      (let v : Int := if uns then (x % 2 ^ w : Nat) else sint w (x % 2 ^ w)
       f.rnd env (.fin (decide (v < 0)) v.natAbs 0 false)) := by
  rw [← signed_mod x hw, signed_eq_sint hw (Nat.mod_lt _ (Nat.two_pow_pos w))]
  rfl

/-! ### Microscaling -/

/-- The blocks of `n` elements that `vl` elements begin. -/
theorem lt_blocks_iff {vl n j : Nat} (hn : 0 < n) : j < (vl + n - 1) / n ↔ j * n < vl := by
  rw [Nat.lt_div_iff_mul_lt hn]
  omega

theorem scaleBlock_eq (vcfg : Word) : scaleBlock vcfg = if vcfg.toNat.testBit 10 then 32 else 128 := rfl

theorem scaleBlock_pos (vcfg : Word) : 0 < scaleBlock vcfg := by
  unfold scaleBlock
  split <;> decide

/-- The scale of an element, at the entry that fires (R39, R227). -/
theorem scaleOf_eq {s : State} {h i id : Nat} {b : Biq} (hf : s.fire = (h, i, id)) (he : s.entry h i = some b) (e : Nat) :
    s.scaleOf e = if e / scaleBlock b.vcfg < s.entryVl h b then some (s.elemV h i b 31 (e / scaleBlock b.vcfg) % 256) else none := by
  simp only [State.scaleOf, hf, he]

/-- Scales that no older entry still puts are ready. -/
theorem scalesReady_of_settled {s : State} {h i id : Nat} {b : Biq} {pm : BitVec 2} (hf : s.fire = (h, i, id)) (he : s.entry h i = some b)
    (hs : ∀ j ∈ s.grp, ∀ o ∈ (s.hart h).biq.take i, s.putsLater h o (isVput 31)
      (s.placeGroup h b (16 * (if b.vector id pm [0] then j else 0) / scaleBlock b.vcfg / 16)) = false) : s.scalesReady pm = true := by
  simp only [State.scalesReady, hf, he, List.all_eq_true]
  intro j hj
  simp only [State.scaleReady, State.scaleSettled, State.regSettled, Bool.not_eq_true', List.any_eq_false, Bool.not_eq_true]
  exact fun o ho => hs j hj o ho

/-- What an element-wise instruction with scales gives, once they are ready. -/
theorem scaled_ready {s : State} {h i id : Nat} {b : Biq} {a : AForm} (hr : FireReady s h i id b a.pm [0] (firing s h b !b.vector id a.pm [0]))
    (hs : ∀ j ∈ s.grp, ∀ o ∈ (s.hart h).biq.take i, s.putsLater h o (isVput 31)
      (s.placeGroup h b (16 * (if b.vector id a.pm [0] then j else 0) / scaleBlock b.vcfg / 16)) = false)
    (op : Fmt → FEnv → Nat → Nat → Nat → Nat × Nat) :
    (if !s.scalesReady a.pm then .next s
     else
       let f := fmtOf (sewBits s.fireVcfg) false
       s.fireA a [0] false fun _ get e =>
         match get 0 e, s.scaleOf e with
         | some x, some k => some (op f (fenv s.fireVcfg) a.md.toNat k x)
         | _, _ => none) =
    (let vec := b.vector id a.pm [0]
     let gs := firing s h b !vec
     let w := if vec then sewBits b.vcfg else 64
     let r := (if vec then List.range (s.entryVl h b) else [0]).map fun e =>
       if (!vec || gs.contains (e / 16)) && b.enabled id a.pm e && decide (e / scaleBlock b.vcfg < s.entryVl h b) then
         (b.operand id w 0 e).map fun x => op (fmtOf (sewBits b.vcfg) false) (fenv b.vcfg) a.md.toNat
           (s.elemV h i b 31 (e / scaleBlock b.vcfg) % 256) x
       else none
     .next (gaveElements s h i id b a.pm [0] gs a.t0.toNat a.t1.toNat (a.x == 1) false r)) := by
  rw [scalesReady_of_settled hr.1 hr.2.1 hs, Bool.not_true, if_neg Bool.false_ne_true, fireVcfg_eq hr.1 hr.2.1]
  simp only [State.fireA, fireElem_ready hr, scaleOf_eq hr.1 hr.2.1]
  refine congrArg (fun r => Host.Outcome.next (gaveElements s h i id b a.pm [0] _ _ _ _ false r)) (List.map_congr_left fun e _ => ?_)
  unfold firedWidth
  by_cases hg : ((!b.vector id a.pm [0] || (firing s h b !b.vector id a.pm [0]).contains (e / 16)) && b.enabled id a.pm e) = true
  · rw [if_pos hg, hg, Bool.true_and]
    dsimp only
    by_cases hk : e / scaleBlock b.vcfg < s.entryVl h b
    · rw [if_pos hk, if_pos (decide_eq_true hk)]
      cases b.operand id _ 0 e <;> rfl
    · rw [if_neg hk, decide_eq_false hk, if_neg Bool.false_ne_true]
      cases b.operand id _ 0 e <;> rfl
  · rw [if_neg hg, if_neg (by simp_all)]

/-- Settles O20, operation by operation. -/
theorem floatConversionsAndMicroscaling : Obligations.FloatConversionsAndMicroscaling := by
  unfold Obligations.FloatConversionsAndMicroscaling
  refine ⟨elementwiseOn_of_lift1 execFwid (fun _ _ => rfl) (fun _ _ => rfl) fun s b id a w o hv _ _ => ?_,
    elementwiseOn_of_lift1 execFnar (fun _ _ => rfl) (fun _ _ => rfl) fun s b id a w o hv _ _ => ?_,
    elementwiseOn_of_lift1 execFcvtd (fun _ _ => rfl) (fun _ _ => rfl) fun s b id a w o hv _ _ => ?_,
    elementwiseOn_of_lift1 execF2i (fun _ _ => rfl) (fun _ _ => rfl) fun s b id a w o hv _ _ => ?_,
    elementwiseOn_of_lift1 execI2f (fun _ _ => rfl) (fun _ _ => rfl) fun s b id a w o hv _ _ => ?_,
    collective_of_body execMxscl (fun _ _ => rfl) (fun _ _ => rfl) fun a b i vl _ => ?_, fun s h i id b a => ?_⟩
  · rw [hv]
    by_cases hw : sewBits b.vcfg = 32 <;> simp only [hw, if_true, if_false] <;> exact fConv_eq _ _ _ _ _
  · rw [hv]
    by_cases hw : sewBits b.vcfg = 32 <;> simp only [hw, if_true, if_false] <;> exact fConv_eq _ _ _ _ _
  · rw [hv]
    by_cases hm : a.md = 0 <;> simp only [hm, if_true, if_false] <;> exact fConv_eq _ _ _ _ _
  · rw [fireFmt_eq a hv, hv, ← testBit_zero_eq]
    exact fToI_eq _ _ _ _ _
  · rw [fireFmt_eq a hv, hv]
    simp only [testBit_zero_eq, decide_eq_true_eq]
    exact i2f_eq _ _ _ _ _ (sewBits_isWidth b.vcfg).pos
  · simp only [lt_blocks_iff (scaleBlock_pos b.vcfg)]
    rfl
  · intro f n vec gs hr hs
    have hdone (op : Fmt → FEnv → Nat → Nat → Nat → Nat × Nat) := (scaled_ready hr hs op).trans (gaveElements_x a s h i id b [0] _ false _)
    exact ⟨fun _ => hdone fMxcvt, fun _ => hdone fMxexp⟩

end Sys2Proof.Machine
end

section
/-! PROOF. Moves and predicates (O21), register reads and constants (O22), puts and tile instructions (O23). -/

namespace Sys2Proof.Machine

open Sys2Proof.Claims

/-! ### Instructions that choose among operands -/

theorem raises_zero (vcfg : Word) : raises vcfg 0 = false := by
  simp [raises]

/-- What a function makes of the elements that a choice without conditions gives. -/
theorem fired_map {s : State} {h id : Nat} {b : Biq} {pm : BitVec 2} {need g : List Nat} (run : Nat → Option Nat) (f : Nat × Nat → Nat) :
    (fired s h id b pm need g fun e => (run e).map fun x => (x, 0)).map (fun x => x.map f) =
      (if b.vector id pm need then List.range (s.entryVl h b) else [0]).map fun e =>
        if (!b.vector id pm need || g.contains (e / 16)) && b.enabled id pm e then (run e).map fun x => f (x, 0) else none := by
  unfold fired
  rw [List.map_map]
  refine List.map_congr_left fun e _ => ?_
  rw [Function.comp_apply, apply_ite (Option.map f), Option.map_map]
  rfl

theorem chosen_map {s : State} {h id : Nat} {b : Biq} {pm : BitVec 2} {need g : List Nat} (run : Nat → Option Nat) (f : Nat → Nat) :
    ((if b.vector id pm need then List.range (s.entryVl h b) else [0]).map fun e =>
      if (!b.vector id pm need || g.contains (e / 16)) && b.enabled id pm e then run e else none).map (fun x => x.map f) =
      (if b.vector id pm need then List.range (s.entryVl h b) else [0]).map fun e =>
        if (!b.vector id pm need || g.contains (e / 16)) && b.enabled id pm e then (run e).map f else none := by
  rw [List.map_map]
  refine List.map_congr_left fun e _ => ?_
  rw [Function.comp_apply, apply_ite (Option.map f)]
  rfl

/-- An instruction that chooses does what its claim says when its body does so at every element. -/
theorem choosingForm_of_body {ctor : AForm → Instr} {applies : AForm → Prop} {need : List Nat} {prd : Biq → Nat → Bool}
    {f : (Nat → Option Nat) → Option Nat} {cls : State → Bool} (fire : AForm → State → Out) (hexec : ∀ a s, exec (ctor a) s = fire a s)
    (hfire : ∀ a s, applies a → fire a s = s.fireA a need (cls s) fun _ get e => (f fun n => get n e).map fun x => (x, 0))
    (hcls : ∀ s h i id b, s.fire = (h, i, id) → s.entry h i = some b → cls s = prd b id) :
    ChoosingForm ctor applies need prd f := by
  intro s h i id b a _ happ vec g hr w r value mask
  have hvals := fired_map (s := s) (h := h) (id := id) (b := b) (pm := a.pm) (need := need) (g := g) (fun e => f fun n => b.operand id w n e) (·.1)
  have hmask := fired_map (s := s) (h := h) (id := id) (b := b) (pm := a.pm) (need := need) (g := g) (fun e => f fun n => b.operand id w n e)
    fun y => b2n (raises b.vcfg y.2)
  simp only [raises_zero, Option.map_id'] at hvals hmask
  rw [hexec, hfire a s happ, State.fireA, fireElem_ready hr, hcls s h i id b hr.1 hr.2.1, gaveElements_x]
  have hmask' : r.map (fun x => x.map fun _ => 0) = _ := chosen_map (s := s) (h := h) (id := id) (b := b) (pm := a.pm) (need := need) (g := g)
    (fun e => f fun n => b.operand id w n e) fun _ => 0
  exact congr_two (fun value mask => Host.Outcome.next (gives s h i id b g a.t0.toNat value a.t1.toNat (if a.x = 1 then mask else value)))
    (congrArg (mkTok (prd b id) vec) hvals) (congrArg (mkTok true vec) (hmask.trans hmask'.symm))

theorem fireClass_eq {s : State} {h i id : Nat} {b : Biq} (hf : s.fire = (h, i, id)) (he : s.entry h i = some b) :
    s.fireClass = b.classA id := by
  simp only [State.fireClass, hf, he]

/-- A predicate token's bits are 0 and 1, and so the number of one is a bit. -/
theorem find?_range_eq_findIdx? (l : List (Option Nat)) (p : Option Nat → Bool) :
    ((List.range l.length).find? fun e => p (at_ l e)) = l.findIdx? p := by
  induction l with
  | nil => rfl
  | cons o l ih =>
    rw [List.length_cons, List.range_succ_eq_map, List.find?_cons, List.findIdx?_cons, at_cons_zero]
    cases p o with
    | true => rfl
    | false =>
      simp only [Bool.false_eq_true, if_false, List.find?_map, Function.comp_def, Nat.succ_eq_add_one, at_cons_succ, ih]

/-- Settles O21: the moves choose, the predicate operations work element by element, the counts over the elements. -/
theorem movesAndPredicates : Obligations.MovesAndPredicates := by
  unfold Obligations.MovesAndPredicates
  refine ⟨choosingForm_of_body (cls := State.fireClass) execMov (fun _ _ => rfl) (fun _ _ _ => rfl) fun _ _ _ _ _ => fireClass_eq,
    choosingForm_of_body (cls := State.fireClass) execSel (fun _ _ => rfl) (fun a s _ => ?_) fun _ _ _ _ _ => fireClass_eq,
    choosingForm_of_body (cls := State.fireClass) execNul (fun _ _ => rfl) (fun a s hm => ?_) fun _ _ _ _ _ => fireClass_eq,
    choosingForm_of_body (cls := fun _ => true) execNul (fun _ _ => rfl) (fun a s hm => ?_) fun _ _ _ _ _ _ _ => rfl,
    elementwise_of_lift2 (fun _ _ => rfl) fun _ _ _ _ _ _ _ => rfl, elementwise_of_lift2 (fun _ _ => rfl) fun _ _ _ _ _ _ _ => rfl,
    elementwise_of_lift2 (fun _ _ => rfl) fun _ _ _ _ _ _ _ => rfl, elementwise_of_lift1 (fun _ _ => rfl) fun _ _ _ _ _ _ => rfl,
    elementwise_of_lift2 (fun _ _ => rfl) fun _ _ _ _ _ _ _ => rfl,
    collective_of_body execPcnt (fun _ _ => rfl) (fun _ _ => rfl) fun a b i vl _ => ?_,
    collective_of_body execPffs (fun _ _ => rfl) (fun _ _ => rfl) fun a b i vl _ => ?_⟩
  · refine congrArg (s.fireA a [0, 1, 2] s.fireClass) (funext fun w => funext fun get => funext fun e => ?_)
    cases h2 : get 2 e with
    | none => simp [h2]
    | some c => by_cases hc : c = 1 <;> simp [h2, hc]
  · rw [execNul, if_pos hm]
    refine congrArg (s.fireA a [0, 1] s.fireClass) (funext fun w => funext fun get => funext fun e => ?_)
    cases h0 : get 0 e <;> simp [h0]
  · rw [execNul, if_neg hm]
    rfl
  · have helems : b.elems i a.pm vl 0 = members b i a.pm vl 0 := rfl
    rw [helems, uniform64, BitVec.ofInt_natCast]
  · have helems : b.elems i a.pm vl 0 = members b i a.pm vl 0 := rfl
    have hfind := find?_range_eq_findIdx? (members b i a.pm vl 0) (· == some 1)
    rw [members_length] at hfind
    rw [helems, uniform64, BitVec.ofInt_natCast, hfind]

/-! ### Producers -/

/-- A ready producer gives its token to both its targets. -/
theorem producerForm_of_tok {i : Instr} {r : RForm} {uni : Bool} {ready : State → Nat → Nat → Biq → List Nat → Prop}
    {tok tok' : State → Nat → Nat → Nat → Biq → List Nat → Tok} {ready' : State → Nat → Nat → Biq → List Nat → Bool}
    (fire : State → Out) (hexec : ∀ s, exec i s = fire s)
    (hfire : ∀ s, fire s = s.fireR r uni (ready' s) (tok' s)) (hready : ∀ s h k b g, ready s h k b g → ready' s h k b g = true)
    (htok : ∀ s h k id b g, tok' s h k id b g = tok s h k id b g) : ProducerForm i r uni ready tok := by
  intro s h k id b _ g hr hrd
  rw [hexec, hfire, State.fireR, fireWith_of_fireReady (whole := fun _ _ => uni) hr]
  simp only [htok]
  exact if_pos (hready _ _ _ _ _ hrd)

theorem regSettled_of_settled {s : State} {h k : Nat} {b : Biq} {isPut : Instr → Bool} {g : List Nat} (hs : Settled s h k b isPut g) :
    g.all (s.regSettled h k b isPut) = true := by
  simp only [List.all_eq_true, State.regSettled, Bool.not_eq_true', List.any_eq_false, Bool.not_eq_true]
  exact fun j hj o ho => hs o ho j hj

/-- Elements over the groups that fire, masked ones Null. -/
theorem overGroups_enabled {α : Type} (vl : Nat) (g : List Nat) (en : Nat → Bool) (f : Nat → Option α) :
    overGroups vl g (fun e => if en e then f e else none) =
      (List.range vl).map fun e => if g.contains (e / 16) && en e then f e else none := by
  refine List.map_congr_left fun e _ => ?_
  cases g.contains (e / 16) <;> rfl

theorem reg_eq_iff (r : RForm) (k : Nat) (hk : k < 64) : r.reg = BitVec.ofNat 6 k ↔ r.reg.toNat = k := bitVec_eq_iff_toNat r.reg k hk

/-- A register field selects among three. -/
theorem match_reg_eq {α : Type} (reg : BitVec 6) (x y z : α) : (match reg.toNat with | 0 => x | 1 => y | _ => z) =
    if reg = 0 then x else if reg = 1 then y else z := by
  by_cases h0 : reg = 0
  · subst h0; rfl
  by_cases h1 : reg = 1
  · subst h1; rfl
  · rw [if_neg h0, if_neg h1]
    have hne0 : reg.toNat ≠ 0 := fun h => h0 (BitVec.eq_of_toNat_eq h)
    have hne1 : reg.toNat ≠ 1 := fun h => h1 (BitVec.eq_of_toNat_eq h)
    obtain ⟨n, hn⟩ : ∃ n, reg.toNat = n + 2 := ⟨reg.toNat - 2, by omega⟩
    generalize reg.toNat = m at hn
    subst hn
    rfl

/-- The literal of `const`, sign-extended. -/
theorem signExtend_lit (lit : BitVec 32) : lit.signExtend 64 = BitVec.ofInt 64 (sint 32 lit.toNat) := by
  rw [BitVec.signExtend, BitVec.toInt_eq_toNat_cond, sint]
  have := lit.isLt
  congr 1
  split <;> split <;> omega

/-- The literal of `const` as the high half. -/
theorem shiftLeft_lit (lit : BitVec 32) : lit.setWidth 64 <<< 32 = BitVec.ofNat 64 (lit.toNat * 2 ^ 32) := by
  apply BitVec.eq_of_toNat_eq
  have := lit.isLt
  simp only [BitVec.toNat_shiftLeft, BitVec.toNat_setWidth, BitVec.toNat_ofNat, Nat.shiftLeft_eq]
  omega

theorem setWidth_lit (lit : BitVec 32) : lit.setWidth 64 = BitVec.ofNat 64 lit.toNat := by
  apply BitVec.eq_of_toNat_eq
  simp only [BitVec.toNat_setWidth, BitVec.toNat_ofNat]

/-- Settles O22, producer by producer. -/
theorem registerReadsAndConstants : Obligations.RegisterReadsAndConstants := by
  unfold Obligations.RegisterReadsAndConstants
  refine ⟨fun r => producerForm_of_tok (execVget r) (fun _ => rfl) (fun _ => rfl) (fun _ _ _ _ _ => regSettled_of_settled) ?_,
    fun r => producerForm_of_tok (execPget r) (fun _ => rfl) (fun _ => rfl) (fun _ _ _ _ _ => regSettled_of_settled) ?_,
    fun r => producerForm_of_tok (execXget r) (fun _ => rfl) (fun _ => rfl) (fun s h k b g hr => by simpa using hr) ?_,
    fun r => producerForm_of_tok (execSget r) (fun _ => rfl) (fun _ => rfl) (fun _ _ _ _ _ _ => rfl) ?_,
    fun r lit => producerForm_of_tok (execConst r lit) (fun _ => rfl) (fun _ => rfl) (fun _ _ _ _ _ _ => rfl) ?_,
    fun r lit => producerForm_of_tok (execIota r lit) (fun _ => rfl) (fun _ => rfl) (fun _ _ _ _ _ _ => rfl) ?_⟩
  all_goals intro s h k id b g
  · exact congrArg (mkTok false true) (overGroups_enabled _ _ _ _)
  · exact congrArg (mkTok true true) (overGroups_enabled _ _ _ _)
  · rfl
  · exact congrArg (fun v => Tok.uni (if b.enabled id r.pm 0 then some (BitVec.ofNat 64 v) else none)) (match_reg_eq r.reg _ _ _)
  · rw [← signExtend_lit, ← setWidth_lit, ← shiftLeft_lit]
    exact congrArg (fun v : Word => Tok.uni (if b.enabled id r.pm 0 then some v else none)) (match_reg_eq r.reg _ _ _)
  · have hstart : signed (lit.extractLsb' 0 16).toNat 16 = sint 16 (lit.toNat % 65536) := by
      rw [signed_eq_sint (by decide) (BitVec.isLt _)]
      simp
    have hstep : signed (lit.extractLsb' 16 16).toNat 16 = sint 16 (lit.toNat / 65536) := by
      have hlt := lit.isLt
      rw [signed_eq_sint (by decide) (BitVec.isLt _), BitVec.extractLsb'_toNat, Nat.shiftRight_eq_div_pow, Nat.mod_eq_of_lt (by omega)]
    have hbase : (decide (r.reg.toNat % 2 = 1) && b.isLoop) = true ↔ r.reg.toNat % 2 = 1 ∧ b.isLoop = true := by simp
    simp only [hstart, hstep, hbase]
    exact congrArg (mkTok false true) (overGroups_enabled _ _ _ _)

/-! ### Puts -/

/-- A ready put stages its writes. -/
theorem putForm_of_stage {i : Instr} {r : RForm} {uni : Bool} {stage stage' : State → Nat → Nat → Biq → List Nat → List Stage}
    (fire : State → Out) (hexec : ∀ s, exec i s = fire s) (hfire : ∀ s, fire s = s.firePut r uni (stage' s))
    (hstage : ∀ s h id b g, stage' s h id b g = stage s h id b g) : PutForm i r uni stage := by
  intro s h k id b _ g hr
  rw [hexec, hfire, State.firePut, fireWith_of_fireReady (whole := fun _ _ => uni) hr]
  simp only [hstage]
  rfl

/-- Writes of the elements that fire and are enabled. -/
theorem groupElems_filterMap {α : Type} (vl : Nat) (g : List Nat) (en : Nat → Bool) (f : Nat → Option α) :
    (groupElems vl g).filterMap (fun e => if en e then f e else none) =
      (List.range vl).filterMap fun e => if g.contains (e / 16) && en e then f e else none := by
  rw [groupElems, List.filterMap_filter]
  refine filterMap_congr_mem fun e _ => ?_
  cases g.contains (e / 16) <;> rfl

/-! ### Tile instructions -/

section
variable {s : State} {h k id : Nat} {b : Biq} {r : RForm}

theorem matMissing_of_matEn (hen : s.matEn h = true) : s.matMissing h b = false := by
  rw [State.matMissing, hen]; rfl

theorem matMissing_of_not_matEn (hen : s.matEn h = false) (hvl : 0 < s.entryVl h b) : s.matMissing h b = true := by
  rw [State.matMissing, hen, decide_eq_true hvl]; rfl

/-- No ordering holds an instruction back whose attempt has met a fault, nor one that none holds. -/
theorem not_heldBack (hheld : b.faults = [] → s.entryHeld h b = false) : (b.faults.isEmpty && s.entryHeld h b) = false := by
  cases hf : b.faults with
  | nil => rw [hheld hf]; rfl
  | cons f l => rfl

/-- `tsmv` when it may fire. -/
theorem execTsmv_ready (hr : FireReady s h k id b r.pm [0] s.grp) (hheld : b.faults = [] → s.entryHeld h b = false) :
    exec (.tsmv r) s =
      if s.matMissing h b then s.matEnds h k id b s.grp (s.matState h b s.grp id 0 0)
      else if !b.faults.isEmpty then s.matEnds h k id b s.grp []
      else .next (gives s h k id b s.grp r.t0.toNat
        (mkTok false true (overGroups (s.entryVl h b) s.grp fun e =>
          (s.tileElem h b id r.pm 0 (r.reg.toNat.testBit 0) e).map fun c => ((s.mat (coreOf h)).cell c.1 c.2.1 c.2.2).toNat))
        (r.t1.toNat * 4) (mkTok false true (overGroups (s.entryVl h b) s.grp fun e =>
          (s.tileElem h b id r.pm 0 (r.reg.toNat.testBit 0) e).map fun c => ((s.mat (coreOf h)).cell c.1 c.2.1 c.2.2).toNat))) := by
  have hexec : exec (.tsmv r) s = execTsmv r s := rfl
  rw [hexec, execTsmv, fireWith_of_fireReady (whole := fun _ _ => false) hr]
  simp only [not_heldBack hheld]
  rfl

/-- The bytes that `ost` stages. -/
def ostBytes (s : State) (h id : Nat) (b : Biq) (r : RForm) (o : Nat) : List Stage :=
  (groupElems (s.entryVl h b) s.grp).filterMap fun e =>
    if b.enabled id r.pm e then
      (b.operand id (8 * (sewBits b.vcfg / 8)) 0 e).map fun v =>
        Stage.slot id (r.reg.toNat % 32) (o + e * (sewBits b.vcfg / 8)) (leBytes (sewBits b.vcfg / 8) v)
    else none

/-- `ost` when it may fire. -/
theorem execOst_ready (hr : FireReady s h k id b r.pm [0, 1] s.grp) (hheld : b.faults = [] → s.entryHeld h b = false) :
    exec (.ost r) s =
      if s.matMissing h b then s.matEnds h k id b s.grp (s.matState h b s.grp id 0 0)
      else match b.operand id 64 1 0 with
        | none => s.matEnds h k id b s.grp []
        | some o =>
          if decide (0 < s.entryVl h b) && (o % (sewBits b.vcfg / 8) != 0 || decide (16384 < o + s.entryVl h b * (sewBits b.vcfg / 8))) then
            s.matEnds h k id b s.grp (s.matState h b s.grp id 0 (BitVec.ofNat 64 o))
          else .next (s.setEntry h k ({ b with staged := b.staged ++ ostBytes s h id b r o }.done (s.groups h b) s.grp id)) := by
  have hexec : exec (.ost r) s = execOst r s := rfl
  rw [hexec, execOst, fireWith_of_fireReady (whole := fun _ _ => false) hr]
  simp only [not_heldBack hheld]
  rfl

theorem tileElem_eq (pm : BitVec 2) (slot : Nat) (col : Bool) (e : Nat) : s.tileElem h b id pm slot col e =
    if b.enabled id pm e then (b.operand id 64 slot 0).bind fun sel => (cellOf sel col e).bind fun c =>
      if c.2.1 < (s.mat (coreOf h)).rows c.1 ∧ c.2.2 < (s.mat (coreOf h)).cols c.1 then some c else none
    else none := by
  unfold State.tileElem
  cases b.enabled id pm e <;> rfl
end

/-- Settles O23: the puts stage their writes; `tsmv` and `ost` by the equation of a firing that is ready. -/
theorem putsAndTileInstructions : Obligations.PutsAndTileInstructions := by
  unfold Obligations.PutsAndTileInstructions
  refine ⟨fun r => putForm_of_stage (execVput r) (fun _ => rfl) (fun _ => rfl) fun s h id b g => groupElems_filterMap _ _ _ _,
    fun r => putForm_of_stage (execPput r) (fun _ => rfl) (fun _ => rfl) fun s h id b g => ?_,
    fun r => putForm_of_stage (execXput r) (fun _ => rfl) (fun _ => rfl) fun s h id b g => ?_,
    fun r s h k id b _ hr hf hheld hen => ?_, fun r s h k id o b _ hr hheld hen ho => ?_, fun r s h k id b _ hr hheld hen ho => ?_,
    fun r s h k id b hheld hen hvl => ⟨fun hr => ?_, fun hr => ?_⟩, fun s h b bad => ⟨rfl, fun hor => ?_, rfl⟩⟩
  · by_cases h0 : r.reg = 0
    · simp [h0]
    · rw [if_neg h0, groupElems_filterMap]
      refine filterMap_congr_mem fun e _ => ?_
      simp only [Bool.and_eq_true, ne_eq, h0, not_false_eq_true, true_and]
  · refine ite_congr rfl (fun _ => rfl) fun _ => ?_
    cases b.operand id 64 0 0 <;> rfl
  · rw [execTsmv_ready hr fun _ => hheld, matMissing_of_matEn hen, hf]
    have hcells : (fun e => (s.tileElem h b id r.pm 0 (r.reg.toNat.testBit 0) e).map fun c => ((s.mat (coreOf h)).cell c.1 c.2.1 c.2.2).toNat) =
        fun e => if b.enabled id r.pm e then (b.operand id 64 0 0).bind fun sel => (cellOf sel (r.reg.toNat.testBit 0) e).bind fun c =>
          if c.2.1 < (s.mat (coreOf h)).rows c.1 ∧ c.2.2 < (s.mat (coreOf h)).cols c.1 then
            some ((s.mat (coreOf h)).cell c.1 c.2.1 c.2.2).toNat else none
        else none := by
      funext e
      rw [tileElem_eq, apply_ite (Option.map _), Option.map_bind]
      refine ite_congr rfl (fun _ => Option.bind_congr fun sel _ => ?_) fun _ => rfl
      rw [Function.comp_apply, Option.map_bind]
      refine Option.bind_congr fun c _ => ?_
      rw [Function.comp_apply, apply_ite (Option.map _)]
      rfl
    rw [hcells, overGroups_enabled]
    rfl
  · rw [execOst_ready hr hheld, matMissing_of_matEn hen, ho]
    have hbad : (decide (0 < s.entryVl h b) && (o % (sewBits b.vcfg / 8) != 0 || decide (16384 < o + s.entryVl h b * (sewBits b.vcfg / 8)))) = true ↔
        0 < s.entryVl h b ∧ (o % (sewBits b.vcfg / 8) ≠ 0 ∨ 16384 < o + s.entryVl h b * (sewBits b.vcfg / 8)) := by simp
    simp only [hbad, Bool.false_eq_true, if_false, ostBytes, groupElems_filterMap]
    by_cases hout : 0 < s.entryVl h b ∧ (o % (sewBits b.vcfg / 8) ≠ 0 ∨ 16384 < o + s.entryVl h b * (sewBits b.vcfg / 8))
    · rw [if_pos hout, if_pos hout]; rfl
    · rw [if_neg hout, if_neg hout]
  · rw [execOst_ready hr hheld, matMissing_of_matEn hen, ho]
    rfl
  · rw [execTsmv_ready hr hheld, matMissing_of_not_matEn hen hvl]
    rfl
  · rw [execOst_ready hr hheld, matMissing_of_not_matEn hen hvl]
    rfl
  · rcases hor with hne | rfl
    · simp [State.faulted, hne]
    · simp [State.faulted]

end Sys2Proof.Machine
end

section
/-! PROOF. The load-store unit: block loads (O24), stores, atomics and tile transfers (O25). -/

namespace Sys2Proof.Machine

open Sys2Proof.Claims

/-! ### Addresses -/

/-- The number by which the claims name a way of addressing. -/
def Walk.num : Walk → Nat
  | .unit => 0
  | .stride => 1
  | .index => 2

theorem staticOff_eq (m : MForm) (lit : Option (BitVec 32)) : staticOff m lit = offsetOf m lit := by
  cases lit with
  | none => rw [staticOff, offsetOf, signed_eq_sint (by decide) m.off.isLt]; rfl
  | some l => rw [staticOff, offsetOf, signed_eq_sint (by decide) l.isLt]

/-- An element's address (R235). -/
theorem addr_eq (b : Biq) (id : Nat) (m : MForm) (off : Int) (wk : Walk) (data : List Nat) (e : Nat) :
    b.addr id m.pm m off wk data e =
      if b.enabled id m.pm e && data.all fun n => (b.operand id 64 n e).isSome then
        (b.operand id 64 0 e).bind fun base =>
          if wk.num = 0 then some (BitVec.ofInt 64 (base + off + e * (2 ^ m.w.toNat : Nat)))
          else if wk.num = 1 then (b.operand id 64 2 e).map fun c => BitVec.ofInt 64 (base + off + e * (c : Int))
          else (b.operand id (sewBits b.vcfg) 2 e).map fun c => BitVec.ofInt 64 (base + off + c * (2 ^ m.w.toNat : Nat))
      else none := by
  have hskip : (!b.enabled id m.pm e || data.any fun n => (b.operand id 64 n e).isNone) =
      !(b.enabled id m.pm e && data.all fun n => (b.operand id 64 n e).isSome) := by
    simp only [Bool.not_and, List.not_all_eq_any_not, Option.not_isSome]
  unfold Biq.addr
  rw [hskip]
  cases (b.enabled id m.pm e && data.all fun n => (b.operand id 64 n e).isSome) with
  | false => rfl
  | true =>
    cases b.operand id 64 0 e with
    | none => rfl
    | some base => cases wk <;> rfl

/-- The addresses of the elements that fire are those of the claims. -/
theorem addrs_eq (b : Biq) (id : Nat) (m : MForm) (off : Int) (wk : Walk) (data : List Nat) (vl : Nat) (g : List Nat) :
    overGroups vl g (b.addr id m.pm m off wk data) = (List.range vl).map (elementVA wk.num b id m off data g) := by
  refine List.map_congr_left fun e _ => ?_
  rw [addr_eq, elementVA]
  cases g.contains (e / 16) <;> rfl

/-! ### Loads -/

/-- A load does what its claim says. -/
theorem loadFires_of_fireLoad {i : Instr} {m : MForm} {lit : Option (BitVec 32)} {wk : Walk} {need : List Nat} {bounded : Bool}
    (hexec : ∀ s, exec i s = s.fireLoad m lit need wk bounded) : LoadFires i m lit wk.num need bounded := by
  intro s h k id b _ hr hready vas c bad pend
  have hsens : (bounded || decide (wk = .index)) = (bounded || wk.num == 2) := by cases wk <;> rfl
  rw [hexec, State.fireLoad, fireWith_of_fireReady (whole := fun _ _ => false) hr]
  simp only [hready, Bool.not_true, Bool.false_eq_true, if_false, addrs_eq, staticOff_eq, hsens]
  have hissued : c.1.loadIssued h b bad pend =
      if bad = [] ∧ b.faults = [] then { b with pends := b.pends ++ [pend] } else c.1.faulted h b bad := by
    simp only [State.loadIssued, Bool.and_eq_true, List.isEmpty_iff]
  rw [← hissued]
  rfl

/-- Settles O24: the ten loads are one firing, by walk and offset. -/
theorem blockLoadsFire : Obligations.BlockLoadsFire := by
  unfold Obligations.BlockLoadsFire
  intro m lit
  exact ⟨loadFires_of_fireLoad (wk := .unit) fun _ => rfl, loadFires_of_fireLoad (wk := .unit) fun _ => rfl,
    loadFires_of_fireLoad (wk := .stride) fun _ => rfl, loadFires_of_fireLoad (wk := .stride) fun _ => rfl,
    loadFires_of_fireLoad (wk := .index) fun _ => rfl, loadFires_of_fireLoad (wk := .index) fun _ => rfl,
    loadFires_of_fireLoad (wk := .unit) fun _ => rfl, loadFires_of_fireLoad (wk := .unit) fun _ => rfl,
    loadFires_of_fireLoad (wk := .index) fun _ => rfl, loadFires_of_fireLoad (wk := .index) fun _ => rfl⟩

/-! ### Stores -/

/-- The elements that a store buffers. -/
theorem storeElems_eq (l : List (Option (Word × Check))) (x : Nat → Option Nat) (st : Nat → Word → Nat → Nat → BStore) :
    ((List.range l.length).filterMap fun e => match checkedLoc (l.getD e none), x e with
      | some (va, loc), some v => some (st e va loc v)
      | _, _ => none) =
    (List.range l.length).filterMap fun e => (checkedLoc (l.getD e none)).bind fun p => (x e).map fun v => st e p.1 p.2 v := by
  refine filterMap_congr_mem fun e _ => ?_
  cases checkedLoc (l.getD e none) <;> cases x e <;> rfl

/-- A store does what its claim says. -/
theorem storeFires_of_fireStore {i : Instr} {m : MForm} {lit : Option (BitVec 32)} {wk : Walk} {need : List Nat}
    (hexec : ∀ s, exec i s = s.fireStore m lit need wk) : StoreFires i m lit wk.num need := by
  intro s h k id b _ hr hready n hmay r vas c bad sts
  have hmay' : s.storeMay h b (memBytesOf m) s.grp = true := hmay
  have hfired : s.firedGroups (fun _ _ => false) h b id = s.grp := rfl
  rw [hexec, State.fireStore, fireWith_of_fireReady (whole := fun _ _ => false) hr, hfired]
  simp only [hready, hmay', Bool.not_true, Bool.false_eq_true, if_false, Bool.or_self, addrs_eq, staticOff_eq,
    Bool.and_eq_true, List.isEmpty_iff]
  by_cases hbad : bad = [] ∧ b.faults = []
  · rw [if_pos hbad]
    refine (if_pos hbad).trans ?_
    exact congrArg (fun l => Host.Outcome.next (c.1.storesIn h k id m.lsid.toNat b s.grp l))
      (storeElems_eq c.2 (fun e => b.operand id (8 * n) 1 e) fun e va loc v => ⟨id, m.lsid.toNat, e, va, loc, leBytes n v⟩)
  · rw [if_neg hbad]
    exact if_neg hbad

/-! ### Atomics -/

/-- A fault among checked elements means that some element's checks failed. -/
theorem elemFaults_eq_nil_iff (s : State) (h : Nat) (b : Biq) (id lsid : Nat) (l : List (Option (Word × Check))) :
    s.elemFaults h b id lsid l = [] ↔ ∀ va code, some (va, Check.bad code) ∉ l := by
  have hget : ∀ e < l.length, l.getD e none ∈ l := fun e he => by
    rw [getD_of_lt _ _ he]; exact List.getElem_mem he
  rw [State.elemFaults, List.filterMap_eq_nil_iff]
  constructor
  · intro hnone va code hmem
    obtain ⟨e, he, heq⟩ := List.mem_iff_getElem.mp hmem
    have hn := hnone e (List.mem_range.mpr he)
    rw [getD_of_lt _ _ he, heq] at hn
    cases hn
  · intro hall e he
    have hmem := hget e (List.mem_range.mp he)
    rcases hx : l.getD e none with _ | ⟨va, loc | code⟩
    · rfl
    · rfl
    · exact absurd (hx ▸ hmem) (hall va code)

/-- Every element that executes has passed its checks when none has failed them. -/
theorem checked_length_iff (l : List (Option (Word × Check))) :
    (l.filterMap checkedLoc).length = (l.filterMap fun y => y).length ↔ ∀ va code, some (va, Check.bad code) ∉ l := by
  have hle (l : List (Option (Word × Check))) : (l.filterMap checkedLoc).length ≤ (l.filterMap fun y => y).length := by
    induction l with
    | nil => exact Nat.le_refl _
    | cons o l ih => rcases o with _ | ⟨va, loc | code⟩ <;> simp [List.filterMap_cons, checkedLoc] <;> omega
  induction l with
  | nil => simp
  | cons o l ih =>
    rcases o with _ | ⟨va, loc | code⟩
    · simpa [List.filterMap_cons, checkedLoc] using ih
    · simpa [List.filterMap_cons, checkedLoc] using ih
    · have := hle l
      simp only [checkedLoc, List.filterMap_cons, List.length_cons, List.mem_cons]
      exact ⟨fun h => by omega, fun h => absurd (.inl rfl) (h va code)⟩

section
variable {s : State} {n : Nat} {l : List (Option (Word × Check))}

/-- An element's answer: its line's poison is a fault (R479, R480; log entry 40). -/
def answered (s : State) (n : Nat) (e : Word × Check) : Word × Check :=
  match e.2 with
  | .ok loc => (e.1, if s.poisoned loc n then .bad (if s.cached loc then 6 else 7) else .ok loc)
  | .bad code => (e.1, .bad code)

/-- No element is answered with poison, or some has failed its checks: the answers change nothing. -/
theorem atomicAnswers_clean (h : ((l.filterMap checkedLoc).find? fun x => s.poisoned x.2 n) = none ∨ ∃ va code, some (va, Check.bad code) ∈ l) :
    s.atomicAnswers n l = (s, l) := by
  unfold State.atomicAnswers
  simp only
  by_cases hall : ∀ va code, some (va, Check.bad code) ∉ l
  · rw [if_pos ((checked_length_iff l).mpr hall), h.resolve_right fun ⟨va, code, hmem⟩ => hall va code hmem]
  · rw [if_neg fun hlen => hall ((checked_length_iff l).mp hlen)]

/-- A poisoned line is logged and faults its elements. -/
theorem atomicAnswers_poisoned {x : Word × Nat} (hlen : (l.filterMap checkedLoc).length = (l.filterMap fun y => y).length)
    (hx : ((l.filterMap checkedLoc).find? fun x => s.poisoned x.2 n) = some x) :
    s.atomicAnswers n l = (s.poisonRecord x.2, l.map fun y => y.map (answered s n)) := by
  unfold State.atomicAnswers
  simp only
  rw [if_pos hlen, hx]
  refine Prod.ext rfl (List.map_congr_left fun y _ => ?_)
  rcases y with _ | ⟨va, loc | code⟩ <;> rfl

/-- After poison some element is at fault. -/
theorem elemFaults_answered {t : State} {h id lsid : Nat} {b : Biq} {x : Word × Nat}
    (hx : ((l.filterMap checkedLoc).find? fun x => s.poisoned x.2 n) = some x) :
    t.elemFaults h b id lsid (l.map fun y => y.map (answered s n)) ≠ [] := by
  rw [ne_eq, elemFaults_eq_nil_iff]
  intro hnone
  obtain ⟨o, ho, hox⟩ := List.mem_filterMap.mp (List.mem_of_find?_eq_some hx)
  have hpois := List.find?_some hx
  rcases o with _ | ⟨va, loc | code⟩
  · cases hox
  · cases hox
    refine hnone va (if s.cached loc then 6 else 7) (List.mem_map.mpr ⟨_, ho, ?_⟩)
    simp only [answered, Option.map_some]
    rw [if_pos hpois]
  · cases hox
end

theorem memBytesOf_eq (m : MForm) : memBytesOf m = 2 ^ m.w.toNat := rfl

/-- The elements of all groups are all elements. -/
theorem addrs_all_eq (s : State) (h : Nat) (b : Biq) (id : Nat) (m : MForm) (off : Int) (wk : Walk) (data : List Nat) :
    (List.range (s.entryVl h b)).map (b.addr id m.pm m off wk data) =
      (List.range (s.entryVl h b)).map (elementVA wk.num b id m off data (s.groups h b)) := by
  refine List.map_congr_left fun e he => ?_
  have hin : (s.groups h b).contains (e / 16) = true := by
    have := List.mem_range.mp he
    simp only [State.groups, groupsOf, List.contains_eq_mem, List.mem_range, decide_eq_true_eq]
    omega
  rw [addr_eq, elementVA, hin, Bool.true_and]

/-- An atomic does what its claim says. -/
theorem atomicFires_of_fireAtomic {i : Instr} {m : MForm} {op : Nat} {off : Int} {wk : Walk} {data : List Nat}
    (hexec : ∀ s, exec i s = s.fireAtomic m op off wk data) : AtomicFires i m op off wk.num data := by
  intro s h k id b _ g hr hready hatom n vas c bad todo wrote r places poison
  have hfired : s.firedGroups (fun _ _ => true) h b id = s.groups h b := rfl
  rw [hexec, State.fireAtomic, fireWith_of_fireReady (whole := fun _ _ => true) hr, hfired]
  have hn : memBytesOf m = n := rfl
  have hvas : (List.range (s.entryVl h b)).map (b.addr id m.pm m off wk data) = vas := addrs_all_eq s h b id m off wk data
  have hc : State.checkElems h b true false (some op) n 0 vas s = c := rfl
  simp only [hready, hatom, Bool.not_true, Bool.or_self, Bool.false_eq_true, if_false, hn, hvas, hc]
  refine ⟨fun x hlen hx => ?_, fun hclean hstuck => ?_⟩
  · rw [atomicAnswers_poisoned hlen hx]
    have hlost := elemFaults_answered (t := c.1.poisonRecord x.2) (h := h) (id := id) (lsid := m.lsid.toNat) (b := b) hx
    refine (if_neg ?_).trans rfl
    simp only [Bool.and_eq_true, List.isEmpty_iff]
    exact fun hno => hlost hno.1
  · have hclean' : poison = none ∨ ∃ va code, some (va, Check.bad code) ∈ c.2 := by
      refine hclean.imp_right fun hbad => ?_
      refine Classical.byContradiction fun hnone => ?_
      exact hbad ((elemFaults_eq_nil_iff _ _ _ _ _ _).mpr fun va code hmem => hnone ⟨va, code, hmem⟩)
    rw [atomicAnswers_clean hclean']
    simp only [Bool.and_eq_true, List.isEmpty_iff]
    by_cases hbad : bad = [] ∧ b.faults = []
    · have hgo : (todo.any fun x => x.any fun y => c.1.stuck (hartDie h) y.1 n) = false := by
        rw [List.any_eq_false]
        intro x hx
        cases x with
        | none => exact Bool.false_ne_true
        | some y => exact Bool.eq_false_iff.mp (hstuck _ hx y rfl)
      rw [if_pos hbad, if_pos hbad]
      exact (if_neg (Bool.eq_false_iff.mp hgo)).trans rfl
    · rw [if_neg hbad, if_neg hbad]

/-! ### Tile transfers -/

/-- The cell of an element of a tile transfer, with the engine's edges as `mat` gives them (R320). -/
def tileCell (mat : Matrix) (g : List Nat) (b : Biq) (id : Nat) (m : MForm) (e : Nat) : Option (Nat × Nat × Nat) :=
  if g.contains (e / 16) && b.enabled id m.pm e then
    (b.operand id 64 1 0).bind fun sel => (cellOf sel (m.t0.toNat.testBit 0) e).bind fun c =>
      if c.2.1 < mat.rows c.1 ∧ c.2.2 < mat.cols c.1 then some c else none
  else none

/-- The address of an element of a tile transfer (R323). -/
def tileVA (mat : Matrix) (g : List Nat) (b : Biq) (id : Nat) (m : MForm) (e : Nat) : Option Word :=
  (tileCell mat g b id m e).bind fun c => (b.operand id 64 0 0).bind fun base =>
    (b.operand id 64 2 0).map fun pitch =>
      BitVec.ofInt 64 (base + sint 6 m.off.toNat * 4 + ((64 * c.1 + c.2.1) * pitch : Nat) + c.2.2 * 4)

section
variable {s : State} {h k id : Nat} {b : Biq} {m : MForm}

theorem tileElem_eq_tileCell {g : List Nat} {e : Nat} (he : g.contains (e / 16) = true) :
    s.tileElem h b id m.pm 1 (m.t0.toNat.testBit 0) e = tileCell (s.mat (coreOf h)) g b id m e := by
  rw [tileElem_eq, tileCell, he, Bool.true_and]

theorem tileAddrs_eq (vl : Nat) (g : List Nat) :
    overGroups vl g (s.tileAddr h b id m) = (List.range vl).map (tileVA (s.mat (coreOf h)) g b id m) := by
  refine List.map_congr_left fun e _ => ?_
  by_cases he : g.contains (e / 16) = true
  · rw [if_pos he, State.tileAddr, tileElem_eq_tileCell he, tileVA, signed_eq_sint (by decide) m.off.isLt]
    cases tileCell (s.mat (coreOf h)) g b id m e <;> cases b.operand id 64 0 0 <;> cases b.operand id 64 2 0 <;> rfl
  · have hnone : tileCell (s.mat (coreOf h)) g b id m e = none := by
      rw [tileCell, Bool.eq_false_iff.mpr he, Bool.false_and]
      rfl
    rw [if_neg he, tileVA, hnone]
    rfl

/-- A tile transfer that is ready to fire on an engine that is not live. -/
theorem fireTile_missing {store : Bool} {f : State → Nat → Nat → Nat → Biq → List Nat → List (Option (Word × Check)) → Out}
    (hr : FireReady s h k id b m.pm [0, 1, 2] s.grp) (hready : s.memReady h k b m.lsid.toNat = true) (hen : s.matEn h = false)
    (hvl : 0 < s.entryVl h b) (hmay : store = true → s.storeMay h b 4 s.grp = true) :
    s.fireTile m store f = .next (s.setEntry h k ((s.faulted h b (matStates s h b s.grp id m.lsid.toNat 0)).done (s.groups h b) s.grp id)) := by
  have hgo : (!s.memReady h k b m.lsid.toNat || (store && !s.storeMay h b 4 s.grp)) = false := by
    cases store with
    | false => rw [hready]; rfl
    | true => rw [hready, hmay rfl]; rfl
  have hfired : s.firedGroups (fun _ _ => false) h b id = s.grp := rfl
  rw [State.fireTile, fireWith_of_fireReady (whole := fun _ _ => false) hr, hfired, hgo, matMissing_of_not_matEn hen hvl]
  rfl

/-- A tile transfer that is ready to fire on a live engine: `r` is the state after the reservations of a store. -/
theorem fireTile_live {store : Bool} {f : State → Nat → Nat → Nat → Biq → List Nat → List (Option (Word × Check)) → Out}
    (hr : FireReady s h k id b m.pm [0, 1, 2] s.grp) (hready : s.memReady h k b m.lsid.toNat = true) (hen : s.matEn h = true)
    (hmay : store = true → s.storeMay h b 4 s.grp = true) :
    s.fireTile m store f =
      (let r := if store then s.storeReserve h b 4 s.grp else s
       let c := State.checkElems h b store false none 4 0 ((List.range (r.entryVl h b)).map (tileVA (r.mat (coreOf h)) s.grp b id m)) r
       let bad := c.1.elemFaults h b id m.lsid.toNat c.2
       if bad = [] ∧ b.faults = [] then f c.1 h k id b s.grp c.2 else c.1.matEnds h k id b s.grp bad) := by
  have hgo : (!s.memReady h k b m.lsid.toNat || (store && !s.storeMay h b 4 s.grp)) = false := by
    cases store with
    | false => rw [hready]; rfl
    | true => rw [hready, hmay rfl]; rfl
  have hfired : s.firedGroups (fun _ _ => false) h b id = s.grp := rfl
  rw [State.fireTile, fireWith_of_fireReady (whole := fun _ _ => false) hr, hfired, hgo, matMissing_of_matEn hen]
  simp only [Bool.false_eq_true, if_false, tileAddrs_eq, Bool.and_eq_true, List.isEmpty_iff]

/-- An element without an address is not checked. -/
theorem checkElems_getD_none {store sens : Bool} {atom : Option Nat} {n : Nat} (vas : List (Option Word)) (e0 : Nat) (s : State) {e : Nat}
    (he : vas.getD e none = none) : (State.checkElems h b store sens atom n e0 vas s).2.getD e none = none := by
  induction vas generalizing e0 s e with
  | nil => rfl
  | cons o r ih =>
    cases e with
    | zero =>
      obtain rfl : o = none := he
      rfl
    | succ e => cases o <;> exact ih _ _ he

/-- The cells that `tsst` stores. -/
theorem tileStores_eq {c : State × List (Option (Word × Check))} {mat : Matrix} {g : List Nat} (hmat : c.1.mat (coreOf h) = mat)
    (hg : ∀ e, checkedLoc (c.2.getD e none) ≠ none → g.contains (e / 16) = true) :
    ((List.range c.2.length).filterMap fun e =>
      match checkedLoc (c.2.getD e none), c.1.tileElem h b id m.pm 1 (m.t0.toNat.testBit 0) e with
      | some (va, loc), some x => some (⟨id, m.lsid.toNat, e, va, loc, leBytes 4 ((c.1.mat (coreOf h)).cell x.1 x.2.1 x.2.2).toNat⟩ : BStore)
      | _, _ => none) =
    (List.range c.2.length).filterMap fun e =>
      (checkedLoc (c.2.getD e none)).bind fun x => (tileCell mat g b id m e).map fun y =>
        (⟨id, m.lsid.toNat, e, x.1, x.2, leBytes 4 (mat.cell y.1 y.2.1 y.2.2).toNat⟩ : BStore) := by
  refine filterMap_congr_mem fun e _ => ?_
  cases hx : checkedLoc (c.2.getD e none) with
  | none => rfl
  | some x =>
    rw [tileElem_eq_tileCell (hg e (by rw [hx]; exact Option.some_ne_none x)), hmat]
    cases tileCell mat g b id m e <;> rfl

theorem tileVA_getD_none {mat : Matrix} {g : List Nat} (vl : Nat) {e : Nat} (he : g.contains (e / 16) = false) :
    ((List.range vl).map (tileVA mat g b id m)).getD e none = none := by
  by_cases hlt : e < vl
  · have hcell : tileCell mat g b id m e = none := by
      rw [tileCell, he, Bool.false_and]
      rfl
    simp [hlt, tileVA, hcell]
  · simp [hlt]
end

/-- Settles O25: stores and atomics by the equation of their firing, the tile transfers by that of a ready one. -/
theorem blockStoresAndAtomicsFire : Obligations.BlockStoresAndAtomicsFire := by
  unfold Obligations.BlockStoresAndAtomicsFire
  refine ⟨fun m lit => ⟨storeFires_of_fireStore (wk := .unit) fun _ => rfl, storeFires_of_fireStore (wk := .unit) fun _ => rfl,
      storeFires_of_fireStore (wk := .stride) fun _ => rfl, storeFires_of_fireStore (wk := .stride) fun _ => rfl,
      storeFires_of_fireStore (wk := .index) fun _ => rfl, storeFires_of_fireStore (wk := .index) fun _ => rfl,
      atomicFires_of_fireAtomic (wk := .index) fun _ => rfl, ?_⟩, fun m s r h k id b hr hready hen hor => ?_,
    fun m s h k id b hr hready hen hvl => ⟨?_, fun hmay => ?_⟩⟩
  · rw [← staticOff_eq]
    exact atomicFires_of_fireAtomic (wk := .unit) fun _ => rfl
  · intro mat cell va vas
    refine ⟨?_, ?_⟩
    · rintro - rfl c bad
      have hexec : exec (.tsld m) r = execTsld m r := rfl
      rw [hexec, execTsld, fireTile_live hr hready hen (fun h => absurd h Bool.false_ne_true)]
      by_cases hbad : bad = [] ∧ b.faults = []
      · refine (if_pos hbad).trans ?_
        rw [if_pos hbad, State.loadIssued, hbad.2]
        rfl
      · rw [if_neg hbad]
        exact if_neg hbad
    · rintro - rfl hmay c hfaults hbad hmat sts t
      have hexec : exec (.tsst m) s = execTsst m s := rfl
      rw [hexec, execTsst, fireTile_live hr hready hen (fun _ => hmay)]
      refine (if_pos ⟨hbad, hfaults⟩).trans ?_
      have hin : ∀ e, checkedLoc (c.2.getD e none) ≠ none → s.grp.contains (e / 16) = true := fun e hne => by
        refine Classical.byContradiction fun hout => ?_
        have hnone : vas.getD e none = none := tileVA_getD_none _ (Bool.eq_false_iff.mpr hout)
        exact hne (congrArg checkedLoc (checkElems_getD_none vas 0 _ hnone))
      exact congrArg (fun l => Host.Outcome.next (c.1.storesIn h k id m.lsid.toNat b s.grp l)) (tileStores_eq hmat hin)
  · have hexec : exec (.tsld m) s = execTsld m s := rfl
    rw [hexec, execTsld, fireTile_missing hr hready hen hvl fun h => absurd h Bool.false_ne_true]
  · have hexec : exec (.tsst m) s = execTsst m s := rfl
    rw [hexec, execTsst, fireTile_missing hr hready hen hvl fun _ => hmay]

end Sys2Proof.Machine
end

section
/-! PROOF. The texture-and-ray unit: texture instructions (O26) and ray instructions (O27). -/

namespace Sys2Proof.Machine

open Sys2Proof.Claims

/-! ### The firing of a unit instruction -/

theorem unitDone_eq (u : State) (h k id : Nat) (b : Biq) (g : List Nat) (t : TForm) (l : List (Option (Nat × Nat))) (bad : List BFault) :
    u.unitDone h k id b g t l bad = .next (unitEnd u h k id b t g l bad) := by
  unfold State.unitDone unitEnd
  simp only [Bool.and_eq_true, List.isEmpty_iff]
  exact (apply_ite Host.Outcome.next _ _ _).symm

/-- An element takes part in a unit instruction. -/
def unitLive (s : State) (id : Nat) (b : Biq) (pm : BitVec 2) (need : List Nat) (e : Nat) : Bool :=
  s.grp.contains (e / 16) && b.enabled id pm e && need.all fun n => (b.operand id 64 n e).isSome

section
variable {s : State} {h k id : Nat} {b : Biq} {t : TForm} {need : List Nat}
  {setup : Nat → Biq → Nat → Nat → Word → State → State × UnitGot (Nat → Nat → UnitStep)}

/-- A unit instruction that is ready to fire, in which no element takes part. -/
theorem fireUnit_idle (hr : FireReady s h k id b t.pm need s.grp) (hheld : b.faults = [] → s.entryHeld h b = false)
    (hlive : ∀ e, e < s.entryVl h b → unitLive s id b t.pm need e = false) :
    s.fireUnit t need setup = .next (unitEnd s h k id b t s.grp ((List.range (s.entryVl h b)).map fun _ => none) []) := by
  have hfired : s.firedGroups (fun _ _ => false) h b id = s.grp := rfl
  have hany : ((List.range (s.entryVl h b)).any fun e => unitLive s id b t.pm need e) = false := by
    rw [List.any_eq_false]
    exact fun e he => Bool.eq_false_iff.mp (hlive e (List.mem_range.mp he))
  rw [State.fireUnit, fireWith_of_fireReady (whole := fun _ _ => false) hr, hfired, not_heldBack hheld]
  refine (if_neg Bool.false_ne_true).trans ((if_pos ?_).trans (unitDone_eq _ _ _ _ _ _ _ _ _))
  rw [Bool.not_eq_true']
  exact hany

/-- A unit instruction that is ready to fire, in which some element takes part: the uniform reads go first. -/
theorem fireUnit_live (hr : FireReady s h k id b t.pm need s.grp) (hheld : b.faults = [] → s.entryHeld h b = false)
    (hlive : ∃ e, e < s.entryVl h b ∧ unitLive s id b t.pm need e = true) :
    s.fireUnit t need setup =
      match setup h b id (s.placeGroup h b (s.grp.headD 0)).1 (BitVec.ofNat 64 (opnd b id 64 0 0)) s with
      | (u, .error x) => .next (unitEnd u h k id b t s.grp [] (x.map (wholeFault b id)))
      | (u, .ok elem) =>
        let r := unitElems ((List.range (s.entryVl h b)).map fun e =>
          if unitLive s id b t.pm need e then some (elem e (u.place h b e).1) else none) 0 u
        .next (unitEnd r.1 h k id b t s.grp r.2.1 (r.2.2.map (r.1.unitFault h b id))) := by
  have hfired : s.firedGroups (fun _ _ => false) h b id = s.grp := rfl
  have hany : ((List.range (s.entryVl h b)).any fun e => unitLive s id b t.pm need e) = true := by
    obtain ⟨e, he, hl⟩ := hlive
    exact List.any_eq_true.mpr ⟨e, List.mem_range.mpr he, hl⟩
  rw [State.fireUnit, fireWith_of_fireReady (whole := fun _ _ => false) hr, hfired, not_heldBack hheld]
  simp only [unitDone_eq]
  refine (if_neg Bool.false_ne_true).trans ((if_neg ?_).trans ?_)
  · rw [Bool.not_eq_true', Bool.not_eq_false]
    exact hany
  · rfl
end

/-- A unit instruction does what its claim says when its uniform reads are those of the claim. -/
theorem unitFires_of_fireUnit {i : Instr} {t : TForm} {need : List Nat} {ready : State → Nat → Nat → Biq → Prop}
    {setup : State → Nat → Nat → Nat → Biq → Nat → Word → State → (Nat → Nat → UnitStep) → Prop}
    {setup' : State → Nat → Biq → Nat → Nat → Word → State → State × UnitGot (Nat → Nat → UnitStep)}
    (hexec : ∀ s h k id b, s.fire = (h, k, id) → s.entry h k = some b → ready s h k b → exec i s = s.fireUnit t need (setup' s))
    (hsetup : ∀ s h k id b lg base u elem, s.fire = (h, k, id) → setup s h k id b lg base u elem →
      setup' s h b id lg base s = (u, .ok elem)) : UnitFires i t need ready setup := by
  intro s h k id b _ hr hheld hrd live base
  rw [hexec s h k id b hr.1 hr.2.1 hrd]
  refine ⟨fun hnone => fireUnit_idle hr hheld hnone, fun u elem hsome hset => ?_⟩
  rw [fireUnit_live hr hheld hsome, hsetup s h k id b _ _ u elem hr.1 hset]
  rfl

theorem unitLive_of {s : State} {id : Nat} {b : Biq} {pm : BitVec 2} {need : List Nat} {vl : Nat}
    (h : ∃ e, e < vl ∧ e / 16 ∈ s.grp ∧ b.enabled id pm e = true ∧ ∀ n ∈ need, (b.operand id 64 n e).isSome = true) :
    ∃ e, e < vl ∧ unitLive s id b pm need e = true := by
  obtain ⟨e, hvl, hg, hen, hops⟩ := h
  exact ⟨e, hvl, by simp only [unitLive, List.contains_eq_mem, hg, hen, decide_true, Bool.true_and, List.all_eq_true]; exact hops⟩

/-- The uniform reads fault: the faults go to element 0. -/
theorem fireUnit_error {s u : State} {h k id : Nat} {b : Biq} {t : TForm} {need : List Nat} {l : List UFault}
    {setup : Nat → Biq → Nat → Nat → Word → State → State × UnitGot (Nat → Nat → UnitStep)}
    (hr : FireReady s h k id b t.pm need s.grp) (hheld : b.faults = [] → s.entryHeld h b = false)
    (hlive : ∃ e, e < s.entryVl h b ∧ e / 16 ∈ s.grp ∧ b.enabled id t.pm e = true ∧ ∀ n ∈ need, (b.operand id 64 n e).isSome = true)
    (hset : setup h b id (s.placeGroup h b (s.grp.headD 0)).1 (BitVec.ofNat 64 (opnd b id 64 0 0)) s = (u, .error l)) :
    s.fireUnit t need setup = .next (unitEnd u h k id b t s.grp [] (l.map (wholeFault b id))) := by
  rw [fireUnit_live hr hheld (unitLive_of hlive), hset]

/-! ### Texture instructions -/

/-- The work of `tld` at an element (R270). -/
def tldStep (t : TForm) (lit : BitVec 32) (h id : Nat) (b : Biq) (tex : Tex) (e lg : Nat) : UnitStep := fun v =>
  let l := lit.toNat % 16
  let osel := t.sub.toNat / 2 % 4
  let x := sint 32 (opnd b id 32 e 1)
  let y := sint 32 (opnd b id 32 e 2)
  if l < tex.lev ∧ 0 ≤ x ∧ x < (Nat.max 1 (tex.w / 2 ^ l) : Nat) ∧ 0 ≤ y ∧ y < (Nat.max 1 (tex.h / 2 ^ l) : Nat) then
    match v.readTexel h b lg tex l x.toNat y.toNat with
    | (v, .ok c) => (v, .ok (placeTexel osel c))
    | (v, .error f) => (v, .error f)
  else (v, .ok (placeTexel osel (tex.swizzle [0, 0, 0, 0])))

/-- The uniform read of `tld`. -/
def tldSetup (t : TForm) (lit : BitVec 32) (h : Nat) (b : Biq) (id lg : Nat) (base : Word) (s : State) :
    State × UnitGot (Nat → Nat → UnitStep) :=
  match s.readTex h b lg base with
  | (s, .error x) => (s, .error x)
  | (s, .ok tex) => (s, .ok (tldStep t lit h id b tex))

theorem wl_eq (t : Tex) (l : Nat) : t.wl l = Nat.max 1 (t.w / 2 ^ l) := by rw [Tex.wl, Nat.shiftRight_eq_div_pow]
theorem hl_eq (t : Tex) (l : Nat) : t.hl l = Nat.max 1 (t.h / 2 ^ l) := by rw [Tex.hl, Nat.shiftRight_eq_div_pow]

theorem exec_tld (t : TForm) (lit : BitVec 32) (s : State) : exec (.tld t lit) s = s.fireUnit t [0, 1, 2] (tldSetup t lit) := by
  have hexec : exec (.tld t lit) s = execTld t lit s := rfl
  rw [hexec, execTld]
  refine congrArg (s.fireUnit t [0, 1, 2]) (funext fun h => funext fun b => funext fun id => funext fun lg => funext fun base => funext fun s => ?_)
  unfold tldSetup
  rcases s.readTex h b lg base with ⟨s, x | tex⟩
  · rfl
  refine congrArg (fun f => (s, Except.ok f)) (funext fun e => funext fun lg => funext fun v => ?_)
  have hcoord (n : Nat) : signed ((b.operand id 32 n e).getD 0) 32 = sint 32 (opnd b id 32 e n) :=
    signed_eq_sint (by decide) (opnd_lt b id e n (by decide))
  have hosel : bits t.sub.toNat 1 2 = t.sub.toNat / 2 % 4 := bits_eq t.sub.toNat 1 2
  simp only [hcoord, hosel, wl_eq, hl_eq, tldStep]
  refine ite_congr rfl (fun _ => ?_) fun _ => rfl
  rcases v.readTexel h b lg tex (lit.toNat % 16) _ _ with ⟨v, x | c⟩ <;> rfl

/-- The coordinates of element `j` of `tfl`, where it and they are there. -/
def tflCoord (u : State) (h id : Nat) (b : Biq) (j : Nat) : Option (Int × Int) :=
  if j < u.entryVl h b then
    (b.operand id 32 1 j).bind fun x => (b.operand id 32 2 j).map fun y => (coordOf x, coordOf y)
  else none

/-- The work of `tfl` at an element (R265 to R269). -/
def tflStep (t : TForm) (lit : BitVec 32) (coord : Nat → Option (Int × Int)) (h : Nat) (b : Biq) (tex : Tex) (bs : List Byte)
    (e lg : Nat) : UnitStep := fun v =>
  let lod := sint 12 (lit.toNat / 65536 % 4096)
  let lam := if t.sub.toNat % 2 = 1 then (quadLod tex.w tex.h (quadOf coord e)).map (· + lod) else some lod
  let c := (coord e).getD (0, 0)
  match readTaps h b lg tex (leNat (bs.take 4)) (sampleTaps tex (leNat (bs.take 4)) lam c.1 c.2) v with
  | (v, .error f) => (v, .error f)
  | (v, .ok l) =>
    (v, .ok (placeTexel (t.sub.toNat / 2 % 4) ((List.range 4).map fun k => filterChan (l.map fun p => (p.1, p.2.getD k 0)))))

theorem tflStep_eq (t : TForm) (lit : BitVec 32) (coord : Nat → Option (Int × Int)) (h : Nat) (b : Biq) (tex : Tex) (bs : List Byte)
    (e lg : Nat) (v : State) : tflStep t lit coord h b tex bs e lg v =
      (let lod := sint 12 (lit.toNat / 65536 % 4096)
       let lam := if t.sub.toNat % 2 = 1 then (quadLod tex.w tex.h (quadOf coord e)).map (· + lod) else some lod
       let c := (coord e).getD (0, 0)
       match readTaps h b lg tex (leNat (bs.take 4)) (sampleTaps tex (leNat (bs.take 4)) lam c.1 c.2) v with
       | (v, .ok l) =>
         (v, .ok (placeTexel (t.sub.toNat / 2 % 4) ((List.range 4).map fun k => filterChan (l.map fun p => (p.1, p.2.getD k 0)))))
       | (v, .error f) => (v, .error f)) := by
  simp only [tflStep]
  generalize readTaps h b lg tex (leNat (bs.take 4)) _ v = r
  rcases r with ⟨v, x | l⟩ <;> rfl

/-- The address of the sampler descriptor (R263). -/
def samplerVA (lit : BitVec 32) (base : Word) : Word := BitVec.ofInt 64 (base.toNat + sint 16 (lit.toNat % 65536) * 32)

/-- The uniform reads of `tfl`. -/
def tflSetup (t : TForm) (lit : BitVec 32) (h : Nat) (b : Biq) (id lg : Nat) (base : Word) (s : State) :
    State × UnitGot (Nat → Nat → UnitStep) :=
  let r := s.readTex h b lg base
  let u := r.1.unitRead h b lg false (samplerVA lit base) 32
  match bothGot r.2 u.2 with
  | .error x => (u.1, .error x)
  | .ok (tex, bs) =>
    if samplerOk (leNat (bs.take 4)) (leNat (bs.drop 4)) tex then (u.1, .ok (tflStep t lit (tflCoord u.1 h id b) h b tex bs))
    else (u.1, .error [(11, samplerVA lit base)])

theorem exec_tfl (t : TForm) (lit : BitVec 32) (s : State) : exec (.tfl t lit) s = s.fireUnit t [0, 1, 2] (tflSetup t lit) := by
  have hexec : exec (.tfl t lit) s = execTfl t lit s := rfl
  rw [hexec, execTfl]
  refine congrArg (s.fireUnit t [0, 1, 2]) (funext fun h => funext fun b => funext fun id => funext fun lg => funext fun base => funext fun s => ?_)
  have hoff : signed (lit.toNat % 65536) 16 = sint 16 (lit.toNat % 65536) := signed_eq_sint (by decide) (Nat.mod_lt _ (by decide))
  have hlod : signed (bits lit.toNat 16 12) 12 = sint 12 (lit.toNat / 65536 % 4096) := by
    rw [bits_eq]; exact signed_eq_sint (by decide) (Nat.mod_lt _ (by decide))
  have hosel : bits t.sub.toNat 1 2 = t.sub.toNat / 2 % 4 := bits_eq t.sub.toNat 1 2
  have hva : wrap64 ((base.toNat : Int) + sint 16 (lit.toNat % 65536) * 32) = samplerVA lit base := rfl
  unfold tflSetup
  simp only [hoff, hlod, hosel, hva, testBit_zero_eq, decide_eq_true_eq]
  generalize hu : ((s.readTex h b lg base).1.unitRead h b lg false (samplerVA lit base) 32).1 = u
  cases bothGot (s.readTex h b lg base).2 ((s.readTex h b lg base).1.unitRead h b lg false (samplerVA lit base) 32).2 with
  | error x => rfl
  | ok got =>
    obtain ⟨tex, bs⟩ := got
    simp only
    cases samplerOk (leNat (bs.take 4)) (leNat (bs.drop 4)) tex with
    | false => rfl
    | true =>
      refine congrArg (fun f => (u, Except.ok f)) (funext fun e => funext fun lg => funext fun v => ?_)
      have hcoord (j : Nat) : (if u.entryVl h b ≤ j then none else
          match b.operand id 32 1 j, b.operand id 32 2 j with
          | some u, some v => some (coordOf u, coordOf v)
          | _, _ => none) = tflCoord u h id b j := by
        unfold tflCoord
        by_cases hj : j < u.entryVl h b
        · rw [if_pos hj, if_neg (Nat.not_le.mpr hj)]
          cases b.operand id 32 1 j <;> cases b.operand id 32 2 j <;> rfl
        · rw [if_neg hj, if_pos (Nat.not_lt.mp hj)]
      exact congrArg (fun coord => tflStep t lit coord h b tex bs e lg v) (funext hcoord)

/-- Settles O26: the uniform reads give the work of an element, or the faults of the instruction. -/
theorem textureInstructionsFire : Obligations.TextureInstructionsFire := by
  unfold Obligations.TextureInstructionsFire
  refine ⟨fun t lit => unitFires_of_fireUnit (setup' := fun _ => tldSetup t lit) (fun s _ _ _ _ _ _ _ => exec_tld t lit s) ?_,
    fun t lit => unitFires_of_fireUnit (setup' := fun _ => tflSetup t lit) (fun s _ _ _ _ _ _ _ => exec_tfl t lit s) ?_,
    fun t lit s u v h k id b got smp l hr hheld hlive => ?_⟩
  · rintro s h k id b lg base u elem - ⟨tex, hread, rfl⟩
    simp only [tldSetup, hread]
    rfl
  · rintro s h k id b lg base u elem - ⟨tex, u1, bs, hread, hsmp, hok, rfl⟩
    have hsmp' : u1.unitRead h b lg false (samplerVA lit base) 32 = (u, .ok bs) := hsmp
    simp only [tflSetup, hread, hsmp', bothGot, hok, if_true]
    exact congrArg (fun f => (u, Except.ok f)) (funext fun e => funext fun lg => funext fun v => tflStep_eq t lit _ h b tex bs e lg v)
  · intro lg base sva hread hsmp
    have hsmp' : u.unitRead h b lg false (samplerVA lit base) 32 = (v, smp) := hsmp
    have hsetup : tflSetup t lit h b id lg base s = match bothGot got smp with
        | .error x => (v, .error x)
        | .ok (tex, bs) =>
          if samplerOk (leNat (bs.take 4)) (leNat (bs.drop 4)) tex then (v, .ok (tflStep t lit (tflCoord v h id b) h b tex bs))
          else (v, .error [(11, sva)]) := by
      simp only [tflSetup, hread, hsmp']
      rfl
    refine ⟨fun hgot _ => ?_, fun hboth _ => ?_, fun tex bs htex hbs hbad => ?_⟩
    · rw [exec_tld]
      refine fireUnit_error hr hheld hlive ?_
      rw [tldSetup, hread, hgot]
    · rw [exec_tfl]
      refine fireUnit_error hr hheld hlive ?_
      rw [hsetup, hboth]
    · rw [exec_tfl]
      refine (fireUnit_error (l := [(11, sva)]) hr hheld hlive ?_).trans rfl
      rw [hsetup, htex, hbs]
      exact if_neg (Bool.eq_false_iff.mp hbad)

/-! ### Ray instructions -/

/-- The work of a ray instruction at an element (R271 to R276). -/
def rayStep (size : Nat) (f : List Nat → List Byte → Nat × Nat) (h k id : Nat) (b : Biq) (base : Word) (e lg : Nat) : UnitStep := fun v =>
  match v.unitRead h b lg true (BitVec.ofInt 64 (base.toNat + (opnd b id 32 e 1 * size : Nat))) size with
  | (v', .ok bs) => (v', .ok (f ((List.range 8).map fun j => v.elemV h k b (20 + j) e % 2 ^ 32) bs))
  | (v', .error x) => (v', .error x)

/-- Ray registers that no older entry still puts are ready. -/
theorem rayReady_of_settled {s : State} {h k : Nat} {b : Biq} (hs : ∀ j, j < 8 → Settled s h k b (isVput (20 + j)) s.grp) :
    s.grp.all (s.rayReady h k b) = true := by
  rw [List.all_eq_true]
  intro j hj
  rw [State.rayReady, List.all_eq_true]
  intro r hr
  exact List.all_eq_true.mp (regSettled_of_settled (hs r (List.mem_range.mp hr))) j hj

/-- A ray instruction whose registers are ready fires as a unit instruction. -/
theorem fireRay_ready {s : State} {h k id : Nat} {b : Biq} {t : TForm} {size : Nat} {f : List Nat → List Byte → Nat × Nat}
    (hf : s.fire = (h, k, id)) (he : s.entry h k = some b) (hs : ∀ j, j < 8 → Settled s h k b (isVput (20 + j)) s.grp) :
    s.fireRay t size f = s.fireUnit t [0, 1] fun h b id _ base u =>
      if base.toNat % size ≠ 0 then (u, .error [(8, base)])
      else (u, .ok fun e lg v => v.rayRecord h b lg (wrap64 ((base.toNat : Int) + ((b.operand id 32 1 e).getD 0) * size)) size
        (f (v.rayOf h u.fire.2.1 b e))) := by
  rw [State.fireRay, hf]
  simp only [he, rayReady_of_settled hs, Bool.not_true, Bool.false_eq_true, if_false]

/-- The work of a ray instruction at an element, as the model runs it. -/
theorem rayRecord_eq (size : Nat) (f : List Nat → List Byte → Nat × Nat) (h k id : Nat) (b : Biq) (base : Word) (e lg : Nat) (v : State) :
    v.rayRecord h b lg (wrap64 ((base.toNat : Int) + ((b.operand id 32 1 e).getD 0) * size)) size (f (v.rayOf h k b e)) =
      rayStep size f h k id b base e lg v := by
  have hva : wrap64 ((base.toNat : Int) + ((b.operand id 32 1 e).getD 0) * size) =
      BitVec.ofInt 64 (base.toNat + (opnd b id 32 e 1 * size : Nat)) := by
    rw [wrap64, Int.natCast_mul]
    rfl
  rw [State.rayRecord, rayStep, hva]
  generalize v.unitRead h b lg true _ size = r
  rcases r with ⟨v', x | bs⟩ <;> rfl

/-- Settles O27: a ray instruction is a unit instruction whose registers are settled. -/
theorem rayInstructionsFire : Obligations.RayInstructionsFire := by
  unfold Obligations.RayInstructionsFire
  intro rec_ settled
  have hsetup (size : Nat) (f : List Nat → List Byte → Nat × Nat) (s : State) (h k id : Nat) (b : Biq) (lg : Nat) (base : Word) (u : State)
      (elem : Nat → Nat → UnitStep) (hf : s.fire = (h, k, id)) (hrec : rec_ f size s h k id b lg base u elem) :
      (if base.toNat % size ≠ 0 then ((s, .error [(8, base)]) : State × UnitGot (Nat → Nat → UnitStep))
       else (s, .ok fun e lg v => v.rayRecord h b lg (wrap64 ((base.toNat : Int) + ((b.operand id 32 1 e).getD 0) * size)) size
        (f (v.rayOf h s.fire.2.1 b e)))) = (u, .ok elem) := by
    obtain ⟨hal, rfl, rfl⟩ := hrec
    rw [if_neg (not_not_intro hal), hf]
    exact congrArg (fun g => (u, Except.ok g)) (funext fun e => funext fun lg => funext fun v => rayRecord_eq size f h k id b base e lg v)
  have hbad {t : TForm} {size : Nat} {f : List Nat → List Byte → Nat × Nat} {s : State} {h k id : Nat} {b : Biq}
      (hr : FireReady s h k id b t.pm [0, 1] s.grp) (hheld : b.faults = [] → s.entryHeld h b = false) (hs : settled s h k b)
      (hlive : ∃ e, e < s.entryVl h b ∧ e / 16 ∈ s.grp ∧ b.enabled id t.pm e = true ∧ ∀ n ∈ [0, 1], (b.operand id 64 n e).isSome = true)
      (hmis : (BitVec.ofNat 64 (opnd b id 64 0 0)).toNat % size ≠ 0) : s.fireRay t size f =
        .next (unitEnd s h k id b t s.grp [] [wholeFault b id (8, BitVec.ofNat 64 (opnd b id 64 0 0))]) := by
    rw [fireRay_ready hr.1 hr.2.1 hs]
    exact fireUnit_error (l := [(8, _)]) hr hheld hlive (if_pos hmis)
  have hbox (t : TForm) (s : State) : exec (.rbox t) s = s.fireRay t 128 boxResult := rfl
  have htri (t : TForm) (s : State) :
      exec (.rtri t) s = s.fireRay t 64 (triResult (t.sub.toNat % 4) (t.sub.toNat / 4 % 4)) := by
    have hb : bits t.sub.toNat 2 2 = t.sub.toNat / 4 % 4 := bits_eq t.sub.toNat 2 2
    rw [← hb]; rfl
  refine ⟨fun t => unitFires_of_fireUnit (fun s h k id b hf he hs => (hbox t s).trans (fireRay_ready hf he hs)) (hsetup _ _),
    fun t => unitFires_of_fireUnit (fun s h k id b hf he hs => (htri t s).trans (fireRay_ready hf he hs)) (hsetup _ _),
    fun t s h k id b hr hheld hs hlive => ?_⟩
  intro base
  constructor
  · intro hmis
    rw [hbox]
    exact hbad hr hheld hs hlive hmis
  · intro hmis
    rw [htri]
    exact hbad hr hheld hs hlive hmis

end Sys2Proof.Machine
end

section
/-! PROOF. The reset state, the turns of a step (a hart's, a sequencer's, an event's), and words that the spec prints. -/

namespace Sys2Proof.Machine

open Sys2Proof.Claims

/-! ### The move of a step -/

theorem nextMove_of_turns {s : State} {x : Turn} {rest : List Turn} (h : s.turns = x :: rest) :
    s.nextMove = ({ s with turns := rest } : State).turnMove x := by
  rw [State.nextMove, h]

theorem step_of_run {s t : State} {i : Instr} (h : s.nextMove = .run t i) : step s = exec i t := by
  rw [step, h]

theorem eventMove_of_instr {s : State} {e : Ev} {i : Instr} (h : e.instr = some i) : s.eventMove e = .run { s with ev := e } i := by
  rw [State.eventMove, h]

theorem turnMove_hartTurn (s : State) (h : Nat) (lazy : Bool) :
    s.turnMove (if lazy then .lazy h else .hart h) = ({ s with cur := h, lazy := lazy } : State).hartMove := by
  cases lazy <;> rfl

theorem hartMove_of_atWork {s : State} (h : AtWork s) (ht : (turnStart s).boundaryTrap = none) :
    s.hartMove = (turnStart s).fetchMove none := by
  obtain ⟨hruns, hstops, hpre, hsave, hres, hsleep⟩ := h
  have hrest : (s.me.save.isSome || s.me.resume.isSome) = false := by simp [hsave, hres]
  rw [State.hartMove]
  simp only [hruns, hstops, hpre, hrest, hsleep, Bool.not_true, Bool.false_and, Bool.or_self, Bool.false_eq_true, if_false]
  rw [show (((if s.lazy then s else s.drain s.cur).pruneHolds s.cur).readOrder).boundaryTrap = none from ht]
  rfl

theorem readDone_cur (s : State) : s.readDone.cur = s.cur := by
  rw [State.readDone]
  split <;> rfl

/-- The word's instruction runs where nothing holds it back. -/
theorem wordMove_of_decodeHart {s : State} {w : BitVec 32} {i : Instr} (hdec : decodeHart w = some i) (hup : s.heldUp i = none)
    (hbuf : passesStores i = true ∨ (if passesStores i then s.readDone else s.readDone.drain s.readDone.cur).me.sbuf = []) :
    s.wordMove w none =
      .run (if passesStores i then s.readDone else s.readDone.drain s.readDone.cur)
        ((if passesStores i then s.readDone else s.readDone.drain s.readDone.cur).selectRow i) := by
  rw [State.wordMove, hdec]
  simp only [hup]
  rw [readDone_cur] at hbuf ⊢
  refine (if_neg fun hc => ?_).trans rfl
  rcases hbuf with hp | hb
  · simp [hp] at hc
  · simp [hb] at hc

theorem runsWord_of_fetchMove {s t : State} {n : Nat} {w : BitVec 32}
    (h : s.nextMove = ({ t with ilen := n } : State).wordMove w none) : RunsWord s t n w :=
  fun _ hdec hup hbuf => step_of_run (h.trans (wordMove_of_decodeHart hdec hup hbuf))

theorem fetchMove_word {s t : State} {w : BitVec 32} {alt : Option State} (h : s.fetchWord = (t, .ok (w, 4))) :
    s.fetchMove alt = ({ t with ilen := 4 } : State).wordMove w alt := by
  simp only [State.fetchMove, h]

theorem fetchMove_compressed {s t : State} {w w' : BitVec 32} {n : Nat} {alt : Option State} (h : s.fetchWord = (t, .ok (w, n)))
    (hn : n ≠ 4) (hfp : (compressedFp w.toNat && bits (t.me.cs csrMstatus).toNat 13 2 == 0) = false)
    (hw : expandC (w.setWidth 16) = some w') : s.fetchMove alt = ({ t with ilen := 2 } : State).wordMove w' alt := by
  simp only [State.fetchMove, h, hfp, Bool.false_eq_true, if_false, hw]

/-- Settles O2, by the move that each kind of turn names. -/
theorem stepRunsTheDecodedInstruction : Obligations.StepRunsTheDecodedInstruction := by
  unfold Obligations.StepRunsTheDecodedInstruction
  refine ⟨?_, ?_, ?_, ?_, ?_, ?_, ?_⟩
  · intro s t h lazy rest w hturns s0 hwork htrap hfetch
    refine runsWord_of_fetchMove ?_
    rw [nextMove_of_turns hturns, turnMove_hartTurn]
    exact (hartMove_of_atWork hwork htrap).trans (fetchMove_word hfetch)
  · intro s t h n lazy rest w w' hturns s0 hwork htrap hfetch hn hfp hexp
    refine runsWord_of_fetchMove ?_
    rw [nextMove_of_turns hturns, turnMove_hartTurn]
    exact (hartMove_of_atWork hwork htrap).trans (fetchMove_compressed hfetch hn hfp hexp)
  · intro s h n id g rest i hturns hseq
    refine step_of_run ?_
    rw [nextMove_of_turns hturns, State.turnMove, State.blockMove, hseq]
  · intro s h n id g rest b c i hturns hlive hentry hcode hlook
    refine step_of_run ?_
    have hentry' : ({ s with turns := rest } : State).entry h n = some b := hentry
    rw [nextMove_of_turns hturns, State.turnMove, State.fireMove, if_pos hlive, hentry', Option.bind_some, hcode, Option.bind_some, hlook]
  · intro s h rest e i hturns hseq hinstr
    refine step_of_run ?_
    rw [nextMove_of_turns hturns, State.turnMove, State.blockMove, hseq]
    exact eventMove_of_instr hinstr
  · intro s k rest e f i hturns hk hf hheld hinstr
    refine step_of_run ?_
    rw [nextMove_of_turns hturns, State.turnMove]
    simp only [hk, hf, hheld, Bool.false_eq_true, if_false]
    exact eventMove_of_instr hinstr
  · intro s rest e i hturns hout hinstr
    refine step_of_run ?_
    rw [nextMove_of_turns hturns, State.turnMove, if_pos hout]
    exact eventMove_of_instr hinstr

/-- Settles O3, each word by running the decoder. -/
theorem decodeWords : Obligations.DecodeWords := by
  unfold Obligations.DecodeWords
  decide

/-- Settles O1, by the reset state's fields: every hart is the hart at reset, every table is empty. -/
theorem resetState : Obligations.ResetState := by
  unfold Obligations.ResetState
  refine ⟨fun h => ?_, fun h => ⟨rfl, rfl, rfl, rfl, rfl, fun k => rfl⟩, fun d => rfl, rfl, rfl, rfl, rfl, rfl, rfl, rfl⟩
  simp only [List.forall_mem_cons]
  exact ⟨rfl, rfl, rfl, rfl, rfl, rfl, rfl, rfl, rfl, rfl, rfl, rfl, rfl, rfl, rfl, rfl, List.forall_mem_nil _⟩

end Sys2Proof.Machine
end

section
/-! PROOF. Blocks are issued, drained, run again and discarded (O29). -/

namespace Sys2Proof.Machine

open Sys2Proof.Claims

/-! ### Completing -/

/-- An instruction that ends by retiring a state whose hart stands where it stood completes. -/
theorem completes_of_retire {i : Instr} {s t : State} {P : State → Prop} (hexec : exec i s = .next t.retire)
    (hpc : t.me.pc = s.me.pc) (hilen : t.ilen = s.ilen) (hP : P t.retire) : Completes i s P :=
  ⟨t.retire, hexec, by simp [hpc, hilen], by simp, hP⟩

/-- So does one that retires with a result. -/
theorem completes_of_retireX {i : Instr} {s t : State} {P : State → Prop} {rd : BitVec 5} {v : Word}
    (hexec : exec i s = .next (t.retireX rd v)) (hpc : t.me.pc = s.me.pc) (hilen : t.ilen = s.ilen) (hP : P (t.retireX rd v)) :
    Completes i s P :=
  ⟨t.retireX rd v, hexec, by simp [hpc, hilen], by simp, hP⟩

/-! ### A new entry -/

theorem tget_map_self {α : Type} (d : α) (f : Nat → α) (l : List Nat) {r : Nat} (hr : r ∈ l) :
    tget d (l.map fun k => (k, f k)) r = f r := by
  rw [tget]
  induction l with
  | nil => cases hr
  | cons k l ih =>
    rw [List.map_cons, List.lookup_cons]
    cases hk : r == k with
    | true => rw [eq_of_beq hk]; rfl
    | false => exact ih ((List.mem_cons.mp hr).resolve_left (beq_eq_false_iff_ne.mp hk))

/-- What a new entry captures (R104, R105). -/
theorem captures_newEntry (s : State) (va : Word) (isLoop : Bool) (n : Nat) : Captures s (s.newEntry va isLoop n) := by
  intro r h1 h32
  refine ⟨tget_map_self 0 s.me.xr _ (by simp only [List.range_succ, List.range_zero]; simp; omega), ?_⟩
  simp [State.newEntry, h32, show 0 < r by omega]

theorem bits_vcfg_ne_zero {s : State} (hlg : lgOf s ≠ 0) : bits (s.me.cs csrVcfg).toNat 16 3 ≠ 0 := by
  rwa [bits_vcfg_eq_lgOf]

/-- `bx` in general, once the checks of R106 pass. -/
theorem exec_bx_granted {s : State} {rs1 : BitVec 5} (hlg : lgOf s ≠ 0) (hva : (s.x rs1).toNat % 64 = 0) :
    exec (.bx rs1) s = if s.me.slots ≤ s.me.biq.length then .next (s.wait .blocks)
      else .next (s.pushEntry (s.newEntry (s.x rs1) false 0)).retire := by
  show execBx rs1 s = _
  simp only [execBx, if_neg (bits_vcfg_ne_zero hlg), hva, ne_eq, not_true_eq_false, if_false]

/-- `bloop` in general, once the checks of R106 pass. -/
theorem exec_bloop_granted {s : State} {rs1 rs2 : BitVec 5} (hlg : lgOf s ≠ 0) (hva : (s.x rs1).toNat % 64 = 0) :
    exec (.bloop rs1 rs2) s = if s.x rs2 = 0 then .next s.retire
      else if s.me.slots ≤ s.me.biq.length then .next (s.wait .blocks)
      else .next (s.pushEntry (s.newEntry (s.x rs1) true (s.x rs2).toNat)).retire := by
  show execBloop rs1 rs2 s = _
  simp only [execBloop, if_neg (bits_vcfg_ne_zero hlg), hva, ne_eq, not_true_eq_false, if_false]

/-! ### bretry and bkill -/

theorem me_releaseHeld (s : State) (clear : Bool) : (s.releaseHeld s.cur clear).me =
    { s.me with held := false, parked := false, told := false
                biq := match s.me.biq with
                  | [] => []
                  | b :: q => { b.again with held := false, park := false, tries := if clear then 0 else b.tries } ::
                      q.map fun c => { c.again with held := false } } :=
  s.me_modMe _

theorem again_mem_releaseHeld {s : State} {clear : Bool} {c : Biq} (h : c ∈ (s.releaseHeld s.cur clear).me.biq) :
    c.held = false ∧ c.fired = [] := by
  rw [me_releaseHeld] at h
  revert h
  cases s.me.biq with
  | nil => simp
  | cons b q =>
    simp only [List.mem_cons, List.mem_map]
    rintro (rfl | ⟨o, -, rfl⟩) <;> exact ⟨rfl, rfl⟩

theorem va_releaseHeld (s : State) (clear : Bool) : (s.releaseHeld s.cur clear).me.biq.map (·.va) = s.me.biq.map (·.va) := by
  rw [me_releaseHeld]
  cases s.me.biq with
  | nil => rfl
  | cons b q => simp [Biq.again, Function.comp_def]

/-- The hart after `bkill` discarded its blocks: only an oldest block that has fired its atomic stays, ended after its strip. -/
theorem me_killBlocks (s : State) : (s.killBlocks s.cur).me =
    { s.me with biq := ((s.me.biq.take 1).filter (·.atom)).map fun b => { b with n := b.base + s.entryVl s.cur b }
                held := false, parked := false, told := false } :=
  State.me_modMe _ _

theorem exec_bkill_privileged {s : State} (h : s.me.priv ≠ .u) : exec .bkill s =
    if (s.killBlocks s.cur).me.biq.isEmpty then .next (s.killBlocks s.cur).retire else .next ((s.killBlocks s.cur).wait .blocks) := by
  show execBkill s = _
  rw [execBkill, if_neg h]

theorem exec_bretry_privileged {s : State} (h : s.me.priv ≠ .u) : exec .bretry s =
    match s.me.heldFault with
    | some (b, f) => .next (s.releaseHeld s.cur (heldCause b f == 26)).retire
    | none => .next s.retire := by
  show execBretry s = _
  exact if_neg h

/-- Settles O29, by the instruction: what the entry captures, what stays of the queue. -/
theorem blocksIssueDrainAndEnd : Obligations.BlocksIssueDrainAndEnd := by
  unfold Obligations.BlocksIssueDrainAndEnd
  refine ⟨fun s rs1 rs2 hlg hva => ⟨fun hroom => ⟨?_, fun hn => ?_⟩, fun hn => ?_, fun hfull => ⟨?_, fun hn => ?_⟩⟩, fun s => ?_,
    fun s hpriv => ⟨fun hheld => ?_, fun b f hheld => ?_, fun hatom => ?_, fun b r hbiq hatom => ?_⟩, fun s hpriv => ⟨?_, ?_⟩⟩
  · rw [exec_bx_granted hlg hva, if_neg (by omega)]
    exact ⟨_, rfl, rfl, rfl, rfl, rfl, rfl, captures_newEntry s _ _ _, rfl, rfl, rfl, rfl, rfl, rfl⟩
  · rw [exec_bloop_granted hlg hva, if_neg hn, if_neg (by omega)]
    exact ⟨_, rfl, rfl, rfl, rfl, rfl, rfl, rfl, rfl, captures_newEntry s _ _ _, rfl, rfl, rfl⟩
  · rw [exec_bloop_granted hlg hva, if_pos hn]
  · rw [exec_bx_granted hlg hva, if_pos hfull]
  · rw [exec_bloop_granted hlg hva, if_neg hn, if_pos hfull]
  · show execBwait s = _
    cases h : s.me.biq <;> simp [execBwait, h]
  · rw [exec_bretry_privileged hpriv, hheld]
  · rw [Completes, exec_bretry_privileged hpriv, hheld]
    refine ⟨_, rfl, by simp [me_releaseHeld]; rfl, by simp, ?_⟩
    have hme := me_releaseHeld s (heldCause b f == 26)
    refine ⟨by simp [hme], by simp [hme], by simp [hme], fun c hc => ?_, ?_, by simp [hme], rfl⟩
    · exact again_mem_releaseHeld (clear := heldCause b f == 26) (by simpa using hc)
    · simpa using va_releaseHeld s _
  · have hempty : (s.killBlocks s.cur).me.biq = [] := by
      rw [me_killBlocks]
      cases hb : s.me.biq with
      | nil => rfl
      | cons b q => simp [hatom b q hb]
    rw [Completes, exec_bkill_privileged hpriv, if_pos (by simp [hempty])]
    refine ⟨_, rfl, ?_, by simp, by simpa using hempty, ?_⟩
    · simp [me_killBlocks]; rfl
    · simp [me_killBlocks]; rfl
  · have hstay : (s.killBlocks s.cur).me.biq = [{ b with n := b.base + s.entryVl s.cur b }] := by simp [me_killBlocks, hbiq, hatom]
    refine ⟨_, (exec_bkill_privileged hpriv).trans (if_neg (by simp [hstay])), by simp, by simp [me_killBlocks], by simpa using hstay, ?_⟩
    refine ⟨by simp [me_killBlocks], by simp [me_killBlocks], rfl⟩
  · show execBretry s = _
    rw [execBretry, if_pos hpriv]; rfl
  · show execBkill s = _
    rw [execBkill, if_pos hpriv]; rfl

end Sys2Proof.Machine
end

section
/-! PROOF. Signal words, fences, `wfi` and lane requests (O30). -/

namespace Sys2Proof.Machine

open Sys2Proof.Claims

/-! ### Posted writes arrive -/

theorem foldl_poke_keep {α β : Type} (get : State → β) (hget : ∀ (s : State) a bs, get (s.poke a bs) = get s) (addr : α → Nat)
    (bytes : α → List Byte) (l : List α) (s : State) : get (l.foldl (fun s w => s.poke (addr w) (bytes w)) s) = get s := by
  induction l generalizing s with
  | nil => rfl
  | cons w l ih => rw [List.foldl_cons, ih, hget]

@[simp] theorem State.pushPosted_harts (s : State) (on : Nat → Bool) : (s.pushPosted on).harts = s.harts := by
  rw [State.pushPosted]
  split
  · rfl
  · exact foldl_poke_keep State.harts (fun _ _ _ => rfl) _ _ _ _

@[simp] theorem State.pushPosted_cur (s : State) (on : Nat → Bool) : (s.pushPosted on).cur = s.cur := by
  rw [State.pushPosted]
  split
  · rfl
  · exact foldl_poke_keep State.cur (fun _ _ _ => rfl) _ _ _ _

@[simp] theorem State.pushPosted_ilen (s : State) (on : Nat → Bool) : (s.pushPosted on).ilen = s.ilen :=
  State.ilen_of_sansCoh (s.keeps_pushPosted on).1

@[simp] theorem State.me_pushPosted (s : State) (on : Nat → Bool) : (s.pushPosted on).me = s.me :=
  State.me_eq_of_harts_cur (by simp) (by simp)

/-- Those that the test names have arrived. -/
theorem State.pushPosted_posted (s : State) (on : Nat → Bool) :
    (s.pushPosted on).host.posted = s.host.posted.filter fun w => !on w.1 := by
  rw [State.pushPosted]
  split
  · next h => rw [List.isEmpty_iff.mp h, List.filter_nil]
  · exact congrArg (·.posted) (foldl_poke_keep State.host (fun _ _ _ => rfl) _ _ _ _)

theorem State.pushPosted_of_posted_nil {s : State} (h : s.host.posted = []) (on : Nat → Bool) : s.pushPosted on = s := by
  rw [State.pushPosted, h]; rfl

@[simp] theorem State.releaseAt_harts (s : State) (k : Nat) : (s.releaseAt k).harts = s.harts := by
  rw [State.releaseAt]; split <;> simp

@[simp] theorem State.me_releaseAt (s : State) (k : Nat) : (s.releaseAt k).me = s.me := by
  rw [State.releaseAt]; split <;> simp

@[simp] theorem State.releaseAt_ilen (s : State) (k : Nat) : (s.releaseAt k).ilen = s.ilen := by
  rw [State.releaseAt]; split <;> simp

theorem State.releaseAt_eq_self {s : State} {k : Nat} (h : k ≠ 4 ∨ s.host.posted = []) : s.releaseAt k = s := by
  rw [State.releaseAt]
  split
  · next hk => exact State.pushPosted_of_posted_nil (h.resolve_left (not_not_intro hk)) _
  · rfl

/-! ### Signal words -/

/-- A scalar access that reaches its location goes on there. -/
theorem State.toLoc_of_reaches {s u : State} {acc : Acc} {va : Word} {n loc : Nat} (h : Reaches s acc va n u loc)
    (k : State → Nat → Out) : s.toLoc acc va n k = k u loc := by
  obtain ⟨hx, hst⟩ := h
  simp only [State.toLoc, hx, State.linked, hst, Bool.false_eq_true, if_false]

theorem State.signalLoc_of_reaches {s u : State} {acc : Acc} {va : Word} {loc : Nat} (hal : va.toNat % 32 = 0)
    (h : Reaches s acc va 8 u loc) (hp : u.signalPlace loc = true) (k : State → Nat → Out) : s.signalLoc acc va k = k u loc := by
  rw [State.signalLoc, if_neg (not_not_intro hal), State.toLoc_of_reaches h, if_pos hp]

theorem State.signalLoc_misaligned {s : State} {acc : Acc} {va : Word} (hal : va.toNat % 32 ≠ 0) (k : State → Nat → Out) :
    s.signalLoc acc va k = .next (s.cmdFault va) := if_pos hal

theorem exec_sigadd (rd rs1 rs2 : BitVec 5) (s : State) : exec (.sigadd rd rs1 rs2) s = s.signalUpdate 11 rd rs1 rs2 := rfl
theorem exec_sigor (rd rs1 rs2 : BitVec 5) (s : State) : exec (.sigor rd rs1 rs2) s = s.signalUpdate 12 rd rs1 rs2 := rfl
theorem exec_sigwait (rd rs1 rs2 : BitVec 5) (s : State) :
    exec (.sigwait rd rs1 rs2) s = s.signalWait (fun v x => decide (x.toNat ≤ v.toNat)) rd rs1 rs2 := rfl
theorem exec_sigwaitm (rd rs1 rs2 : BitVec 5) (s : State) :
    exec (.sigwaitm rd rs1 rs2) s = s.signalWait (fun v x => v &&& x == x) rd rs1 rs2 := rfl

/-- An update that reaches its word: it waits for the blocks, else acts at the arbiter. -/
theorem State.signalUpdate_of_reaches {s u : State} {op loc : Nat} {rd rs1 rs2 : BitVec 5} (hal : (s.x rs1).toNat % 32 = 0)
    (h : Reaches s .store (s.x rs1) 8 u loc) (hp : u.signalPlace loc = true) :
    s.signalUpdate op rd rs1 rs2 =
      if u.released then
        let r := (u.releaseAt (fieldOf (u.me.cs csrVcfg) 7 3)).atomicAt noNode loc op 8 (u.x rs2).toNat 0
        .next (r.1.retireX rd (BitVec.ofNat 64 r.2))
      else .next (u.wait .blocks) := by
  rw [State.signalUpdate, State.signalLoc_of_reaches hal h hp, vcfgScope, bits_eq_fieldOf]
  cases u.released <;> rfl

/-- A wait that reads its word, with a test of it against the operand. -/
theorem State.signalWait_of_reaches {s u : State} {loc : Nat} {rd rs1 rs2 : BitVec 5} (test : Word → Word → Bool)
    (hal : (s.x rs1).toNat % 32 = 0) (h : Reaches s .load (s.x rs1) 8 u loc) (hp : u.signalPlace loc = true)
    (hpois : (u.loadLines noNode loc 8).poisoned loc 8 = false) :
    let v := u.loadLines noNode loc 8
    let w : Word := BitVec.ofNat 64 (memNat v.mem loc 8)
    s.signalWait test rd rs1 rs2 =
      .next (if test w (s.x rs2) = true ∨ v.me.timedOut = true then v.retireX rd w else v.wait (.signal loc)) := by
  intro v w
  rw [State.signalWait, State.signalLoc_of_reaches hal h hp]
  simp only [hpois, Bool.or_eq_true, Bool.false_eq_true, if_false]
  exact (apply_ite Host.Outcome.next _ _ _).symm

/-- An atomic operation on local memory: the old value is what stands there, and exactly its bytes change (R21). -/
theorem State.atomicAt_local (s : State) (n op w x y : Nat) {a : Nat} (h : isLocal a = true) :
    s.atomicAt n a op w x y = (s.pokeN a w (amoOp op w (memNat s.mem a w) x y), memNat s.mem a w) := by
  have hc : s.cached a = false := by simp [State.cached, h]
  have hp : s.pushFor a = s := by simp [State.pushFor, State.portOf, h]
  rw [State.atomicAt, hc, hp]
  rfl

theorem amoOp_signal {op : Nat} (h : op = 11 ∨ op = 12) (old : Nat) {x : Nat} (hx : x < 2 ^ 64) :
    amoOp op 8 old x 0 = if op = 11 then (old + x) % 2 ^ 64 else old ||| x := by
  rcases h with rfl | rfl
  · rfl
  · exact congrArg (old ||| ·) (Nat.mod_eq_of_lt hx)

/-! ### Orderings and lane requests -/

theorem completes_fenceS (s : State) (succ pred : BitVec 5) (scope : BitVec 3) : Completes (.fenceS succ pred scope) s fun t =>
    t.me.holds = s.me.holds ++ (if succ = 0 ∨ pred = 0 then [] else [⟨s.me.seq, pred.toNat, succ.toNat, none⟩]) ∧
      (scope ≠ 4 ∨ s.host.posted = [] → t.mem = s.mem) ∧ (scope = 4 → succ ≠ 0 → pred ≠ 0 → t.host.posted = []) ∧
      t.me.x = s.me.x ∧ t.me.biq = s.me.biq := by
  have hexec : exec (.fenceS succ pred scope) s = execFenceS succ pred scope s := rfl
  have hscope : scope.toNat = 4 ↔ scope = 4 := by rw [← BitVec.toNat_inj]; rfl
  by_cases h : succ = 0 ∨ pred = 0
  · refine completes_of_retire (hexec.trans (if_pos h)) rfl rfl ⟨?_, fun _ => rfl, fun _ h1 h2 => (h.elim h1 h2).elim, by simp, by simp⟩
    rw [if_pos h]; simp
  · refine completes_of_retire (hexec.trans (if_neg h)) (by simp [State.hold]) (State.releaseAt_ilen _ _) ⟨?_, fun hs => ?_, fun hs _ _ => ?_, ?_⟩
    · rw [if_neg h]; simp [State.hold]
    · rw [State.retire_mem, State.hold, State.modMe_mem, State.releaseAt_eq_self]
      rwa [ne_eq, hscope]
    · rw [State.retire_host, State.hold, State.modMe_host, State.releaseAt, if_pos (hscope.mpr hs), State.pushPosted_posted]
      simp
    · simp [State.hold]

theorem laneRequestLegal_of_fields {v : Nat} (hv : v < 256) (hlo : 1 ≤ v % 8) (hhi : v % 8 ≤ 4) (hal : 16 ≤ v) :
    laneRequestLegal v = true := by
  simp only [laneRequestLegal, bits_eq, Bool.and_eq_true, decide_eq_true_eq, bne_iff_ne, ne_eq]
  omega

@[simp] theorem Hart.setX_request (h : Hart) (r : Nat) (v : Word) : (h.setX r v).lgreq = h.lgreq ∧ (h.setX r v).excl = h.excl ∧
    (h.setX r v).allow = h.allow := by
  unfold Hart.setX; split <;> exact ⟨rfl, rfl, rfl⟩

/-- Retiring with a result leaves the lane request and the grant of every hart. -/
theorem State.retireX_lanes (s : State) (rd : BitVec 5) (v : Word) (h : Nat) : ((s.retireX rd v).hart h).lgreq = (s.hart h).lgreq ∧
    ((s.retireX rd v).hart h).excl = (s.hart h).excl ∧ ((s.retireX rd v).hart h).allow = (s.hart h).allow ∧
    ((s.retireX rd v).hart h).grant = (s.hart h).grant := by
  by_cases hh : h = s.cur
  · have hme : (s.retireX rd v).hart h = (s.retireX rd v).me := by rw [hh]; rfl
    have hme' : s.hart h = s.me := by rw [hh]; rfl
    rw [hme, hme']
    simp [State.retireX]
  · rw [State.hart_retireX_ne s rd v hh]
    exact ⟨rfl, rfl, rfl, rfl⟩

theorem completes_lgset {s : State} {rd rs1 rs2 : BitVec 5} (hpriv : s.me.priv ≠ .u) (ht : (s.x rs1).toNat < 8)
    (hv : (s.x rs2).toNat < 256) (hlo : 1 ≤ (s.x rs2).toNat % 8) (hhi : (s.x rs2).toNat % 8 ≤ 4) (hal : 16 ≤ (s.x rs2).toNat) :
    let h := s.myCore * 8 + (s.x rs1).toNat
    let old := (s.hart h).lgreq + (if (s.hart h).excl then 8 else 0) + (s.hart h).allow * 16
    Completes (.lgset rd rs1 rs2) s fun t => t.me.xr rd.toNat = (if rd = 0 then 0 else BitVec.ofNat 64 old) ∧
      (t.hart h).lgreq = (s.x rs2).toNat % 8 ∧ (t.hart h).excl = (s.x rs2).toNat.testBit 3 ∧
      (t.hart h).allow = (s.x rs2).toNat / 16 % 16 ∧ (t.hart h).grant = (s.hart h).grant := by
  intro h old
  have hleg := laneRequestLegal_of_fields hv hlo hhi hal
  have hexec : exec (.lgset rd rs1 rs2) s = .next ((s.modHart h fun x => x.setRequest (s.x rs2).toNat).retireX rd (BitVec.ofNat 64 old)) := by
    show execLgset rd rs1 rs2 s = _
    rw [execLgset, if_neg]
    rintro (h | h | h | h)
    · exact hpriv h
    · omega
    · rw [hleg] at h; cases h
    · omega
  have hpc : (s.modHart h fun x => x.setRequest (s.x rs2).toNat).me.pc = s.me.pc := by
    by_cases hc : s.cur = h
    · have : (s.modHart h fun x => x.setRequest (s.x rs2).toNat).me = s.me.setRequest (s.x rs2).toNat := by
        rw [← hc]; exact s.me_modMe _
      rw [this]; rfl
    · exact congrArg (·.pc) (State.hart_modHart_ne s _ hc)
  obtain ⟨hreq, hexcl, hallow, hgrant⟩ :=
    State.retireX_lanes (s.modHart h fun x => x.setRequest (s.x rs2).toNat) rd (BitVec.ofNat 64 old) h
  rw [State.hart_modHart_self] at hreq hexcl hallow hgrant
  refine completes_of_retireX hexec hpc rfl ⟨State.retireX_xr_self _ rd _, ?_, ?_, ?_, hgrant⟩
  · rw [hreq]; exact bits_eq _ 0 3 |>.trans (by simp)
  · exact hexcl
  · rw [hallow]; exact bits_eq _ 4 4

/-- Settles O30, by the instruction: each reaches its word, its ordering or its lane request, and says what it leaves. -/
theorem signalsFencesAndLanes : Obligations.SignalsFencesAndLanes := by
  unfold Obligations.SignalsFencesAndLanes
  refine ⟨fun s u rd rs1 rs2 loc hal hreach hplace hrel => ?_, fun s rd rs1 rs2 hmis => ?_, fun s u rd rs1 rs2 loc hal hreach hplace hrel => ?_,
    fun s u rd rs1 rs2 loc hal hreach hplace => ?_, fun s succ pred scope => ?_, fun s fm pred succ rd rs1 => ?_,
    fun s imm rd rs1 => ?_, fun s => ?_, fun s rd rs1 rs2 hpriv ht hv hlo hhi hal => completes_lgset hpriv ht hv hlo hhi hal⟩
  · have hupd {op : Nat} (hop : op = 11 ∨ op = 12) :
        let v := u.releaseAt (fieldOf (u.me.cs csrVcfg) 7 3)
        let r := v.atomicAt noNode loc op 8 (u.x rs2).toNat 0
        s.signalUpdate op rd rs1 rs2 = .next (r.1.retireX rd (BitVec.ofNat 64 r.2)) ∧
        (isLocal loc = true → r.2 = memNat v.mem loc 8 ∧ r.1.mem = memPutNat loc 8
          (if op = 11 then (memNat v.mem loc 8 + (u.x rs2).toNat) % 2 ^ 64 else memNat v.mem loc 8 ||| (u.x rs2).toNat) v.mem) := by
      intro v r
      refine ⟨by rw [State.signalUpdate_of_reaches hal hreach hplace, if_pos hrel], fun hloc => ?_⟩
      simp only [r, State.atomicAt_local v noNode op 8 (u.x rs2).toNat 0 hloc, amoOp_signal hop _ (u.x rs2).isLt, true_and]
      rfl
    simp only [List.forall_mem_cons, List.not_mem_nil, false_implies, implies_true, and_true, exec_sigadd, exec_sigor]
    exact ⟨hupd (.inl rfl), hupd (.inr rfl)⟩
  · simp only [List.forall_mem_cons, List.not_mem_nil, false_implies, implies_true, exec_sigadd, exec_sigor, exec_sigwait,
      exec_sigwaitm, State.signalUpdate, State.signalWait, State.signalLoc_misaligned hmis, and_self]
  · simp only [List.forall_mem_cons, List.not_mem_nil, false_implies, implies_true, exec_sigadd, exec_sigor,
      State.signalUpdate_of_reaches hal hreach hplace, hrel, Bool.false_eq_true, if_false, and_self]
  · intro v hpois w
    rw [exec_sigwait, exec_sigwaitm, State.signalWait_of_reaches _ hal hreach hplace hpois,
      State.signalWait_of_reaches _ hal hreach hplace hpois]
    simp only [decide_eq_true_eq, beq_iff_eq]
    exact ⟨rfl, rfl⟩
  · exact completes_fenceS s succ pred scope
  · refine completes_of_retire rfl (by simp) (by simp) ⟨fun h => ?_, fun h0 h2 => ?_, by simp, by simp, by simp⟩
    · rw [State.retire_mem, State.pushPosted_of_posted_nil h]
    · rw [State.retire_host, State.pushPosted_posted, List.filter_eq_nil_iff]
      intro w hw
      simp only [Bool.not_eq_true', Bool.not_eq_false, List.any_eq_true, Bool.and_eq_true, beq_iff_eq]
      exact ⟨w, hw, rfl, by unfold State.fencedPost; split <;> assumption⟩
  · exact completes_of_retire (t := s.modCore s.myCore fun c => { c with icache := [] }) rfl rfl rfl
      ⟨by rw [State.core, State.retire_cores, ← State.core, State.core_modCore_self], rfl, by simp⟩
  · show execWfi s = _
    rw [execWfi]
    split <;> rfl
end Sys2Proof.Machine
end

section
/-! PROOF. `vsetl`: the grant, the element count, the save of a pre-empted instance (O31). -/

namespace Sys2Proof.Machine

open Sys2Proof.Claims

/-! ### Fields of a configuration word -/

theorem testBit_fieldOf (w : Word) (lo n i : Nat) : (fieldOf w lo n).testBit i = (decide (i < n) && w.getLsbD (lo + i)) := by
  rw [fieldOf, Nat.testBit_mod_two_pow, Nat.testBit_div_two_pow, Nat.add_comm]; rfl

theorem fieldOf_eq_iff {w : Word} {lo n v : Nat} (hv : v < 2 ^ n) :
    fieldOf w lo n = v ↔ ∀ i < n, w.getLsbD (lo + i) = v.testBit i := by
  constructor
  · rintro rfl i hi
    rw [testBit_fieldOf, decide_eq_true hi, Bool.true_and]
  · intro h
    refine Nat.eq_of_testBit_eq fun i => ?_
    rw [testBit_fieldOf]
    by_cases hi : i < n
    · rw [decide_eq_true hi, Bool.true_and, h i hi]
    · rw [decide_eq_false hi, Bool.false_and, Nat.testBit_lt_two_pow (Nat.lt_of_lt_of_le hv (Nat.pow_le_pow_right (by omega) (by omega)))]

/-- `vcfg` as `vsetl` leaves it: SEW, RM, FZ, SCOPE, SGR and XSEL of the configuration, the size of the grant in LG (R88, R102). -/
def vsetlVcfg (old : Word) (cfg : BitVec 12) (n : Nat) : Word :=
  (old &&& ~~~(0x707FF : Word)) ||| (cfg.setWidth 64 &&& 0x7FF) ||| BitVec.ofNat 64 (n * 65536)

theorem vsetlVcfg_fields (old : Word) {cfg : BitVec 12} {n : Nat} (hc : cfg.toNat < 2048) (hn : n ≤ 4) :
    fieldOf (vsetlVcfg old cfg n) 0 11 = cfg.toNat ∧ fieldOf (vsetlVcfg old cfg n) 16 3 = n ∧
      fieldOf (vsetlVcfg old cfg n) 11 5 = fieldOf old 11 5 := by
  have hbit (i : Nat) : cfg.toNat.testBit i = cfg.getLsbD i := rfl
  have hlg (i : Nat) : (BitVec.ofNat 64 (n * 65536)).getLsbD i = (decide (i < 64) && (decide (16 ≤ i) && n.testBit (i - 16))) := by
    rw [BitVec.getLsbD_ofNat, show (65536 : Nat) = 2 ^ 16 from rfl, Nat.testBit_mul_two_pow]
  refine ⟨(fieldOf_eq_iff hc).mpr fun i hi => ?_, (fieldOf_eq_iff (by omega)).mpr fun i hi => ?_,
    (fieldOf_eq_iff (Nat.mod_lt _ (by decide))).mpr fun i hi => ?_⟩
  · rw [hbit, vsetlVcfg]
    simp only [BitVec.getLsbD_or, BitVec.getLsbD_and, BitVec.getLsbD_not, BitVec.getLsbD_setWidth, hlg]
    obtain rfl | rfl | rfl | rfl | rfl | rfl | rfl | rfl | rfl | rfl | rfl : i = 0 ∨ i = 1 ∨ i = 2 ∨ i = 3 ∨ i = 4 ∨ i = 5 ∨ i = 6 ∨ i = 7 ∨ i = 8 ∨ i = 9 ∨
      i = 10 := (by omega) <;> simp
  · rw [vsetlVcfg]
    simp only [BitVec.getLsbD_or, BitVec.getLsbD_and, BitVec.getLsbD_not, BitVec.getLsbD_setWidth, hlg]
    obtain rfl | rfl | rfl : i = 0 ∨ i = 1 ∨ i = 2 := (by omega) <;> simp
  · rw [← fieldOf, testBit_fieldOf, vsetlVcfg]
    simp only [BitVec.getLsbD_or, BitVec.getLsbD_and, BitVec.getLsbD_not, BitVec.getLsbD_setWidth, hlg]
    obtain rfl | rfl | rfl | rfl | rfl : i = 0 ∨ i = 1 ∨ i = 2 ∨ i = 3 ∨ i = 4 := (by omega) <;> simp

/-! ### Claims and grants -/

@[simp] theorem State.me_lanesChanged (s : State) (ci : Nat) : (s.lanesChanged ci).me = s.me := rfl

@[simp] theorem State.me_setClaims (s : State) (cl : List Nat) : (s.setClaims s.cur cl).me = { s.me with claims := cl } := by
  rw [State.setClaims]
  split
  · next h => rw [← h]; rfl
  · exact s.me_modMe fun x => { x with claims := cl }

@[simp] theorem State.me_setGrant (s : State) (g : List Nat) :
    (s.setGrant s.cur g).me = { s.me with grant := g, gexcl := s.me.excl } := by
  rw [State.setGrant]
  split
  · next h => rw [← h.1]; exact congrArg (fun b => { s.me with gexcl := b }) h.2
  · exact s.me_modMe fun x => { x with grant := g, gexcl := x.excl }

theorem State.setClaims_frame (s : State) (h : Nat) (cl : List Nat) : (s.setClaims h cl).cur = s.cur ∧ (s.setClaims h cl).cores = s.cores ∧
    (s.setClaims h cl).mem = s.mem ∧ (s.setClaims h cl).ilen = s.ilen := by
  rw [State.setClaims]; split <;> exact ⟨rfl, rfl, rfl, rfl⟩

theorem State.setGrant_frame (s : State) (h : Nat) (g : List Nat) : (s.setGrant h g).cur = s.cur ∧ (s.setGrant h g).cores = s.cores ∧
    (s.setGrant h g).mem = s.mem ∧ (s.setGrant h g).ilen = s.ilen := by
  rw [State.setGrant]; split <;> exact ⟨rfl, rfl, rfl, rfl⟩

theorem laneSort_length (l : List Nat) : (laneSort l).length ≤ 4 := List.length_filter_le _ _

theorem vlmaxOf_of_cores {s t : State} (h : t.cores = s.cores) (ci : Nat) (g : List Nat) (w : Nat) : t.vlmaxOf ci g w = s.vlmaxOf ci g w := by
  have : t.wgt ci = s.wgt ci := by funext k; simp [State.wgt, State.core, h]
  simp [State.vlmaxOf, State.weight, this]

/-! ### The saved instance -/

@[simp] theorem State.abandon_cur (s : State) (h : Nat) : (s.abandon h).cur = s.cur := by
  rw [State.abandon]
  split
  · rfl
  · split
    · rfl
    · split <;> rfl

@[simp] theorem State.drainOne_cur (s : State) (h : Nat) : (s.drainOne h).cur = s.cur := by
  rw [State.drainOne]
  split
  · rfl
  · split
    · rfl
    · extract_lets t
      have ht : t.cur = s.cur := rfl
      split
      · exact ht
      · exact (State.cur_of_sansCoh (State.keeps_store _ _ _ _).1).trans ht

theorem foldl_keep {α β γ : Type} (get : α → β) (f : α → γ → α) (hf : ∀ a c, get (f a c) = get a) (l : List γ) (a : α) :
    get (l.foldl f a) = get a := by
  induction l generalizing a with
  | nil => rfl
  | cons c l ih => rw [List.foldl_cons, ih, hf]

@[simp] theorem State.drain_cur (s : State) (h : Nat) : (s.drain h).cur = s.cur :=
  foldl_keep State.cur _ (fun t _ => t.drainOne_cur h) _ s

@[simp] theorem State.keepOrder_cur (s : State) (h : Nat) (va : Word) : (s.keepOrder h va).cur = s.cur := rfl

/-- What a save that begins leaves: the hart's part of it, and the event that completes it (R124). -/
theorem State.startSave_of_cur {s : State} {h : Nat} (hc : s.cur = h) (reason : Nat) (va pc : Word) (vs : Bool) :
    (s.startSave h reason va pc vs).me.save = some ⟨va, reason, vs, pc⟩ ∧ .saveComplete h ∈ (s.startSave h reason va pc vs).agenda := by
  rw [State.startSave]
  refine ⟨?_, List.mem_append_right _ (List.mem_singleton_self _)⟩
  rw [State.me_due, State.me, State.modHart_cur, State.keepOrder_cur, State.poke_cur, State.drain_cur, hc, State.hart_modHart_self]

/-! ### vsetl -/

@[simp] theorem Hart.setX_vlost (h : Hart) (r : Nat) (v : Word) : (h.setX r v).vlost = h.vlost := by
  unfold Hart.setX; split <;> rfl


/-- The configuration is one that the spec admits (R88, R102). -/
theorem exec_vsetl_legal {s : State} {rd rs1 : BitVec 5} {cfg : BitVec 12} (hc : cfg.toNat < 2048) (hrm : cfg.toNat / 4 % 8 ≤ 4)
    (hscope : cfg.toNat / 128 % 8 ≤ 4) : exec (.vsetl rd rs1 cfg) s =
      if s.atVsetl s.cur then
        if !s.me.biq.isEmpty then .next (s.wait .blocks)
        else if (s.queueOf s.cur).any (·.sw) then .next ((s.modMe fun x => { x with preempt := none }).except 29 0)
        else .next ((s.abandon s.cur).startSave s.cur 0 (s.me.cs csrCtxbase) s.me.pc false)
      else
        let new := s.newGrant s.cur
        let t := s.setClaims s.cur (s.newClaims s.cur new)
        if new.isEmpty then .next (t.wait .grant)
        else
          let lost := new != t.me.grant || bits cfg.toNat 0 2 != (t.me.cs csrVcfg).toNat % 4 || t.me.resumed
          if lost && !t.me.biq.isEmpty then .next (t.wait .blocks) else t.vsetlEnd rd rs1 cfg new lost := by
  show execVsetl rd rs1 cfg s = _
  refine if_neg ?_
  simp only [bit, bits_eq, Nat.testBit_lt_two_pow (show cfg.toNat < 2 ^ 11 from hc), Bool.false_or, Bool.or_eq_true, decide_eq_true_eq]
  omega

theorem exec_vsetl_illegal {s : State} {rd rs1 : BitVec 5} {cfg : BitVec 12}
    (h : 2048 ≤ cfg.toNat ∨ 4 < cfg.toNat / 4 % 8 ∨ 4 < cfg.toNat / 128 % 8) :
    exec (.vsetl rd rs1 cfg) s = .next (s.illegal (wordOf (.vsetl rd rs1 cfg))) := by
  show execVsetl rd rs1 cfg s = _
  refine if_pos ?_
  have h11 : 2048 ≤ cfg.toNat → cfg.toNat.testBit 11 = true := fun h => by
    have := cfg.isLt
    rw [Nat.testBit_eq_decide_div_mod_eq, decide_eq_true_eq]
    omega
  simp only [bit, bits_eq, Bool.or_eq_true, decide_eq_true_eq, or_assoc]
  exact h.imp_left h11

/-- The hart that `vsetl` leaves before it retires. -/
def vsetlHart (x : Hart) (cfg : BitVec 12) (new : List Nat) (vlmax vl : Nat) (lost : Bool) : Hart :=
  let x := if lost then x.loseVectors else x
  { (((x.setCs csrVcfg (vsetlVcfg (x.cs csrVcfg) cfg new.length)).setCs csrVlmax (BitVec.ofNat 64 vlmax)).setCs csrVl
      (BitVec.ofNat 64 vl)) with vlost := lost, resumed := false }

theorem vsetlHart_cs (x : Hart) (cfg : BitVec 12) (new : List Nat) (vlmax vl : Nat) (lost : Bool) :
    (vsetlHart x cfg new vlmax vl lost).cs csrVl = BitVec.ofNat 64 vl ∧
    (vsetlHart x cfg new vlmax vl lost).cs csrVlmax = BitVec.ofNat 64 vlmax ∧
    (vsetlHart x cfg new vlmax vl lost).cs csrVcfg = vsetlVcfg (x.cs csrVcfg) cfg new.length := by
  have hl : (if lost then x.loseVectors else x).cs csrVcfg = x.cs csrVcfg := by cases lost <;> rfl
  unfold vsetlHart
  extract_lets y
  rw [← hl]
  refine ⟨(y.setCs _ _ |>.setCs _ _ |>.cs_setCs _ _ _).trans (if_pos rfl), ?_, ?_⟩
  · exact (Hart.cs_setCs _ _ _ _).trans ((if_neg (by decide)).trans ((Hart.cs_setCs _ _ _ _).trans (if_pos rfl)))
  · exact (Hart.cs_setCs _ _ _ _).trans ((if_neg (by decide)).trans ((Hart.cs_setCs _ _ _ _).trans
      ((if_neg (by decide)).trans ((Hart.cs_setCs _ _ _ _).trans (if_pos rfl)))))

theorem sewBits_setWidth (cfg : BitVec 12) : sewBits (cfg.setWidth 64) = 8 * 2 ^ (cfg.toNat % 4) := by
  rw [sewBits, Nat.shiftLeft_eq, BitVec.toNat_setWidth, Nat.mod_eq_of_lt (Nat.lt_trans cfg.isLt (by decide))]

/-- The grant is in place and the hart takes its configuration. -/
theorem vsetlEnd_eq (s : State) (rd rs1 : BitVec 5) (cfg : BitVec 12) (new : List Nat) (lost : Bool) :
    let vlmax := s.vlmaxOf s.myCore new (8 * 2 ^ (cfg.toNat % 4))
    let vl := if rs1 = 0 then vlmax else Nat.min (s.x rs1).toNat vlmax
    ∃ u : State, s.vsetlEnd rd rs1 cfg new lost =
        .next ((u.modMe fun x => vsetlHart x cfg new vlmax vl lost).retireX rd (BitVec.ofNat 64 vl)) ∧
      u.me = { s.me with grant := new, gexcl := s.me.excl, claims := u.me.claims } ∧ u.mem = s.mem ∧ u.ilen = s.ilen := by
  intro vlmax vl
  let g := s.setGrant s.cur new
  let u := if g.me.lgreq ≤ new.length then g.setClaims g.cur [] else g
  have hg := s.setGrant_frame s.cur new
  obtain ⟨hcur, hcores, hmem, hilen⟩ : u.cur = s.cur ∧ u.cores = s.cores ∧ u.mem = s.mem ∧ u.ilen = s.ilen := by
    have hgc := g.setClaims_frame g.cur []
    dsimp only [u]
    split
    · exact ⟨hgc.1.trans hg.1, hgc.2.1.trans hg.2.1, hgc.2.2.1.trans hg.2.2.1, hgc.2.2.2.trans hg.2.2.2⟩
    · exact hg
  have hme : u.me = { s.me with grant := new, gexcl := s.me.excl, claims := u.me.claims } := by
    dsimp only [u]
    split <;> simp [g]
  have hvlmax : u.vlmaxOf u.myCore new (sewBits (cfg.setWidth 64)) = vlmax := by
    rw [vlmaxOf_of_cores hcores, State.myCore, hcur, sewBits_setWidth]; rfl
  have hx : u.x rs1 = s.x rs1 := by rw [State.x, hme]; rfl
  refine ⟨u, ?_, hme, hmem, hilen⟩
  have hend : s.vsetlEnd rd rs1 cfg new lost =
      let vlmax' := u.vlmaxOf u.myCore new (sewBits (cfg.setWidth 64))
      let vl' := if rs1 = 0 then vlmax' else Nat.min (u.x rs1).toNat vlmax'
      .next ((u.modMe fun x => vsetlHart x cfg new vlmax' vl' lost).retireX rd (BitVec.ofNat 64 vl')) := rfl
  rw [hend, hvlmax, hx]

theorem fieldOf_low (w : Word) (n : Nat) : w.toNat % 2 ^ n = fieldOf w 0 n := by simp [fieldOf]

/-- Where the grant stands, `vsetl` retires with VL (R102). -/
theorem vsetl_granted {s : State} {rd rs1 : BitVec 5} {cfg : BitVec 12} (hc : cfg.toNat < 2048) (hrm : cfg.toNat / 4 % 8 ≤ 4)
    (hscope : cfg.toNat / 128 % 8 ≤ 4) (hat : s.atVsetl s.cur = false) (hnew : s.newGrant s.cur ≠ []) :
    let new := s.newGrant s.cur
    let lost := decide (new ≠ s.me.grant) || decide (cfg.toNat % 4 ≠ (s.me.cs csrVcfg).toNat % 4) || s.me.resumed
    (lost = false ∨ s.me.biq = []) →
      exec (.vsetl rd rs1 cfg) s = (s.setClaims s.cur (s.newClaims s.cur new)).vsetlEnd rd rs1 cfg new lost := by
  intro new lost hstay
  have hlost : (new != s.me.grant || bits cfg.toNat 0 2 != (s.me.cs csrVcfg).toNat % 4 || s.me.resumed) = lost := by
    rw [bits_eq, Nat.pow_zero, Nat.div_one, Bool.eq_iff_iff]
    simp [lost]
  have hempty : new.isEmpty = false := List.isEmpty_eq_false_iff.mpr hnew
  have hgo : (lost && !s.me.biq.isEmpty) = false := by rcases hstay with h | h <;> simp [h]
  rw [exec_vsetl_legal hc hrm hscope, hat]
  simp only [State.me_setClaims, Bool.false_eq_true, if_false]
  rw [hempty, if_neg Bool.false_ne_true]
  exact (congrArg (fun l => if (l && !s.me.biq.isEmpty) = true then
    Host.Outcome.next ((s.setClaims s.cur (s.newClaims s.cur new)).wait .blocks)
    else (s.setClaims s.cur (s.newClaims s.cur new)).vsetlEnd rd rs1 cfg new l) hlost).trans (if_neg (by simp [hgo]))

/-- Settles O31, by the branches of `vsetl`: the grant, the save, the trap. -/
theorem vectorSetup : Obligations.VectorSetup := by
  unfold Obligations.VectorSetup
  intro s rd rs1 cfg c new lost vlmax vl
  refine ⟨fun hc hrm hscope hat hnew hstay => ?_, fun hc hrm hscope hat hnew => ?_, fun hc hrm hscope hat => ⟨fun hb => ?_, fun hb hsw => ?_,
    fun hb hsw => ?_⟩, exec_vsetl_illegal⟩
  · let t := s.setClaims s.cur (s.newClaims s.cur new)
    obtain ⟨hcur, hcores, hmem, hilen⟩ := s.setClaims_frame s.cur (s.newClaims s.cur new)
    have ht : t.me = { s.me with claims := s.newClaims s.cur new } := s.me_setClaims _
    obtain ⟨u, hend, hu, humem, huilen⟩ := vsetlEnd_eq t rd rs1 cfg new lost
    have hvlmax : t.vlmaxOf t.myCore new (8 * 2 ^ (cfg.toNat % 4)) = vlmax := by
      rw [vlmaxOf_of_cores hcores, State.myCore, hcur]; rfl
    have hx : t.x rs1 = s.x rs1 := by rw [State.x, ht]; rfl
    rw [hvlmax, hx] at hend
    change t.vsetlEnd rd rs1 cfg new lost =
      .next ((u.modMe fun x => vsetlHart x cfg new vlmax vl lost).retireX rd (BitVec.ofNat 64 vl)) at hend
    obtain ⟨hpc, hgrant, hv, hp⟩ : u.me.pc = s.me.pc ∧ u.me.grant = new ∧ u.me.v = s.me.v ∧ u.me.p = s.me.p := by
      rw [hu, ht]; exact ⟨rfl, rfl, rfl, rfl⟩
    obtain ⟨hvl, hmax, hcfg⟩ := vsetlHart_cs u.me cfg new vlmax vl lost
    obtain ⟨hf0, hf16, hf11⟩ := vsetlVcfg_fields (u.me.cs csrVcfg) (n := new.length) hc (laneSort_length _)
    have hcs : u.me.cs csrVcfg = s.me.cs csrVcfg := by rw [hu, ht]; rfl
    refine completes_of_retireX ((vsetl_granted hc hrm hscope hat hnew hstay).trans hend) ?_ ?_ ?_
    · rw [State.me_modMe, ← hpc, vsetlHart]
      cases lost <;> rfl
    · exact huilen.trans hilen
    · simp only [State.retireX_cs_of_ne _ _ _ (show csrVl ≠ 0xB02 by decide), State.retireX_cs_of_ne _ _ _ (show csrVlmax ≠ 0xB02 by decide),
        State.retireX_cs_of_ne _ _ _ (show csrVcfg ≠ 0xB02 by decide), State.me_modMe, hvl, hmax, hcfg, lgOf]
      refine ⟨State.retireX_xr_self _ rd _, trivial, trivial, ?_, ?_, (fieldOf_low _ 11).trans hf0, hf16, hf11.trans (by rw [hcs]; rfl), ?_, humem.trans hmem⟩
      · simp only [State.retireX, State.me_retire, State.me_wx, Hart.setX_grant, State.me_modMe, ← hgrant, vsetlHart]
        cases lost <;> rfl
      · simp only [State.retireX, State.me_retire, State.me_wx, Hart.setX_vlost, State.me_modMe, vsetlHart]
      · intro hl
        rw [hl]
        simp only [State.retireX, State.me_retire, State.me_wx, Hart.setX_v, Hart.setX_p, State.me_modMe, ← hv, ← hp, vsetlHart]
        exact ⟨rfl, rfl⟩
  · refine ⟨(s.setClaims s.cur (s.newClaims s.cur new)).wait .grant, (exec_vsetl_legal hc hrm hscope).trans ?_, ?_⟩
    · rw [hat]
      exact (if_neg Bool.false_ne_true).trans (if_pos (List.isEmpty_iff.mpr hnew))
    · simp
  · rw [exec_vsetl_legal hc hrm hscope, if_pos hat, if_pos (by simpa using hb)]
  · rw [exec_vsetl_legal hc hrm hscope, if_pos hat, if_neg (by simp [hb]), if_pos hsw]
  · refine ⟨_, (exec_vsetl_legal hc hrm hscope).trans ((if_pos hat).trans ((if_neg (by simp [hb])).trans (if_neg (by simp [hsw])))), ?_⟩
    exact State.startSave_of_cur (s.abandon_cur s.cur) _ _ _ _

end Sys2Proof.Machine
end

section
/-! PROOF. Reads and writes of control and status registers (O33). -/

namespace Sys2Proof.Machine

open Sys2Proof.Claims

/-! ### Access -/

theorem csrLevel_eq (n : Nat) : csrLevel n = if n / 256 % 4 = 2 then 3 else n / 256 % 4 := by
  simp only [csrLevel, bits_eq, Nat.reducePow]

/-- Below its level a CSR is closed (R5). -/
theorem csrGet_below {s : State} {n : Nat} (h : privRank s.me.priv < csrLevel n) : s.csrGet n = (s, none) := if_pos h

/-- At its level or above it is what the table says. -/
theorem csrGet_lanemap {s : State} (h : s.me.priv ≠ .u) : s.csrGet 0x5C5 = (s, some (s.lanemap s.cur)) := by
  refine (if_neg ?_).trans rfl
  cases hp : s.me.priv <;> simp_all [privRank, csrLevel, bits_eq]

theorem csrGet_mcfg (s : State) : s.csrGet 0x808 = (s, some (s.mcfg s.cur)) := by
  have hlevel : ¬ privRank s.me.priv < csrLevel 0x808 := Nat.not_lt_zero _
  rw [State.csrGet, if_neg hlevel]

theorem csrGet_satp {s : State} (h : s.me.priv = .m ∨ (s.me.priv = .s ∧ (s.me.cs csrMstatus).toNat.testBit 20 = false)) :
    s.csrGet csrSatp = (s, some (s.me.cs csrSatp)) := by
  have hlevel : ¬ privRank s.me.priv < csrLevel csrSatp := by
    rcases h with h | ⟨h, -⟩ <;> simp [h, privRank, csrLevel_eq, csrSatp]
  refine (if_neg hlevel).trans ?_
  have hopen : (s.me.priv = .s && (s.me.cs csrMstatus).toNat.testBit 20) = false := by
    rcases h with h | ⟨-, h⟩ <;> simp [h]
  exact congrArg (Prod.mk s) (if_neg (by simp [hopen]))

/-! ### Writes -/

theorem csrWrite_of_csrGet_none {s : State} {n : Nat} (h : (s.csrGet n).2 = none) (word : BitVec 32) (f3 : BitVec 3) (rd src : BitVec 5)
    (write : State → Word → Option State) : s.csrWrite word n f3 rd src write = .next (s.illegal word) := by
  obtain ⟨u, hu⟩ : ∃ u, s.csrGet n = (u, none) := ⟨_, Prod.ext rfl h⟩
  rw [State.csrWrite, hu]

theorem csrWrite_of_csrGet {s u : State} {n : Nat} {old : Word} (h : s.csrGet n = (u, some old)) (word : BitVec 32) (f3 : BitVec 3)
    (rd src : BitVec 5) (write : State → Word → Option State) :
    s.csrWrite word n f3 rd src write =
      .next (((write u (csrValue s f3 src old)).map fun t => t.retireX rd old).getD (s.illegal word)) := by
  simp only [State.csrWrite, h, csrNew_csrOperand_eq_csrValue]
  cases write u (csrValue s f3 src old) <;> rfl

/-- A read-only number takes no write (R5). -/
theorem csrSet_readOnly {n : Nat} (hn : n < 4096) (h : n / 1024 = 3) (x : Hart) (v : Word) : x.csrSet n v = none :=
  if_pos (by rw [bits_eq]; omega)

theorem laneRequestLegal_iff (v : Word) :
    (laneRequestLegal v.toNat && v.toNat >>> 16 == 0) = true ↔
      1 ≤ fieldOf v 0 3 ∧ fieldOf v 0 3 ≤ 4 ∧ fieldOf v 4 4 ≠ 0 ∧ v.toNat < 65536 := by
  simp only [laneRequestLegal, bits_eq_fieldOf, Bool.and_eq_true, decide_eq_true_eq, bne_iff_ne, beq_iff_eq, Nat.shiftRight_eq_div_pow,
    and_assoc]
  have h16 : v.toNat / 2 ^ 16 = 0 ↔ v.toNat < 65536 := by omega
  rw [h16]

/-- The bits of `mcfg` that say EN and OWN are the engine's, whatever is written (R302). -/
theorem mcfg_merge (c v o : Word) (ho : o = 0 ∨ o = 0x20000000000 ∨ o = 0x30000000000) :
    ((v &&& 0xFFFFFFFFFF) &&& 0xFFFFFFFFFF) ||| o = (v &&& 0xFFFFFFFFFF) ||| (((c &&& 0xFFFFFFFFFF) ||| o) &&& 0x30000000000) := by
  have hc : (c &&& 0xFFFFFFFFFF) &&& 0x30000000000 = 0 := by rw [BitVec.and_assoc]; exact BitVec.and_zero
  have hoo : o &&& 0x30000000000 = o := by rcases ho with rfl | rfl | rfl <;> decide
  rw [BitVec.and_assoc, BitVec.and_self, BitVec.and_or_distrib_right, hc, hoo]
  exact congrArg _ BitVec.zero_or.symm

theorem csrGet_state_read {s u : State} {csr : BitVec 12} {v : Word} (h : s.csrGet csr.toNat = (u, some v)) (f3 : BitVec 3) (rd : BitVec 5) :
    exec (.csrRead csr f3 rd) s = .next (u.retireX rd v) := by
  show execCsrRead csr f3 rd s = _
  rw [execCsrRead, h]

theorem exec_csrRead_none {s : State} {csr : BitVec 12} (h : (s.csrGet csr.toNat).2 = none) (f3 : BitVec 3) (rd : BitVec 5) :
    exec (.csrRead csr f3 rd) s = .next (s.illegal (csrWord csr f3 rd 0)) := by
  obtain ⟨u, hu⟩ : ∃ u, s.csrGet csr.toNat = (u, none) := ⟨_, Prod.ext rfl h⟩
  show execCsrRead csr f3 rd s = _
  rw [execCsrRead, hu]

theorem exec_csrWrite (csr : BitVec 12) (f3 : BitVec 3) (rd src : BitVec 5) (s : State) : exec (.csrWrite csr f3 rd src) s =
    s.csrWrite (csrWord csr f3 rd src) csr.toNat f3 rd src fun t v => (t.me.csrSet csr.toNat v).map fun h => t.setHart t.cur h := rfl

theorem exec_lanemapWrite (f3 : BitVec 3) (rd src : BitVec 5) (s : State) : exec (.lanemapWrite f3 rd src) s =
    s.csrWrite (csrWord 0x5C5 f3 rd src) 0x5C5 f3 rd src fun t v =>
      if laneRequestLegal v.toNat && v.toNat >>> 16 == 0 then some (t.modMe fun h => h.setRequest v.toNat) else none := rfl

theorem exec_mcfgWrite (f3 : BitVec 3) (rd src : BitVec 5) (s : State) : exec (.mcfgWrite f3 rd src) s =
    s.csrWrite (csrWord 0x808 f3 rd src) 0x808 f3 rd src fun t v =>
      if v.toNat >>> 42 = 0 then some (t.modMe fun h => h.setCs csrMcfg (v &&& 0xFFFFFFFFFF)) else none := rfl

theorem exec_satpWrite_of_csrGet {s u : State} {old : Word} (h : s.csrGet csrSatp = (u, some old)) (f3 : BitVec 3) (rd src : BitVec 5) :
    exec (.satpWrite f3 rd src) s = if !s.me.biq.isEmpty then .next (s.wait .blocks)
      else s.csrWrite (csrWord 0x180 f3 rd src) csrSatp f3 rd src fun t v =>
        some (if bits v.toNat 60 4 = 0 ∨ bits v.toNat 60 4 = 10 then t.modMe fun h => h.setCs csrSatp v else t) := by
  show execSatpWrite f3 rd src s = _
  rw [execSatpWrite, h]

/-- `mcfg` of the executing hart after a retirement is what it was before. -/
theorem mcfg_retireX (s : State) (rd : BitVec 5) (v : Word) : (s.retireX rd v).mcfg (s.retireX rd v).cur = s.mcfg s.cur := by
  have hcs : ((s.retireX rd v).hart (s.retireX rd v).cur).cs csrMcfg = (s.hart s.cur).cs csrMcfg :=
    s.retireX_cs_of_ne rd v (by decide)
  rw [State.mcfg, hcs]
  rfl

theorem mcfg_setCs (s : State) (v : Word) : (s.modMe fun h => h.setCs csrMcfg (v &&& 0xFFFFFFFFFF)).mcfg s.cur =
    (v &&& 0xFFFFFFFFFF) ||| (s.mcfg s.cur &&& 0x30000000000) := by
  have hcs : ((s.modMe fun h => h.setCs csrMcfg (v &&& 0xFFFFFFFFFF)).hart s.cur).cs csrMcfg = v &&& 0xFFFFFFFFFF := by
    rw [State.modMe, State.hart_modHart_self, Hart.cs_setCs, if_pos rfl]
  rw [State.mcfg, hcs]
  refine mcfg_merge ((s.hart s.cur).cs csrMcfg) v _ ?_
  split
  · split
    · exact .inr (.inr rfl)
    · exact .inr (.inl rfl)
  · exact .inl rfl

/-- Settles O33, by the write rule of each register. -/
theorem controlRegistersReadAndWrite : Obligations.ControlRegistersReadAndWrite := by
  unfold Obligations.ControlRegistersReadAndWrite
  refine ⟨fun s u csr f3 rd v h => csrGet_state_read h f3 rd, fun s csr f3 rd src h => ⟨exec_csrRead_none h f3 rd, ?_⟩, fun s n h => ?_,
    fun s u csr f3 rd src old h => ?_, fun s f3 rd src hpriv => ?_, fun s f3 rd src => ?_, fun s f3 rd src hpriv => ?_⟩
  · rw [exec_csrWrite, csrWrite_of_csrGet_none h]
  · rw [csrGet_below (by rwa [csrLevel_eq])]
  · intro hart
    refine ⟨?_, fun hro => csrSet_readOnly csr.isLt hro _ _⟩
    rw [exec_csrWrite, csrWrite_of_csrGet h]
    cases hh : u.me.csrSet csr.toNat (csrValue s f3 src old) <;> simp only [hart, hh] <;> rfl
  · intro old v legal
    have hw := csrWrite_of_csrGet (csrGet_lanemap hpriv) (csrWord 0x5C5 f3 rd src) f3 rd src fun t v =>
      if laneRequestLegal v.toNat && v.toNat >>> 16 == 0 then some (t.modMe fun h => h.setRequest v.toNat) else none
    refine ⟨fun hl => ?_, fun hl => ?_⟩
    · rw [if_pos ((laneRequestLegal_iff _).mpr hl)] at hw
      refine completes_of_retireX ((exec_lanemapWrite f3 rd src s).trans hw) (by simp [Hart.setRequest]) rfl ⟨State.retireX_xr_self _ rd _, ?_⟩
      obtain ⟨hreq, hexcl, hallow, hgrant⟩ := State.retireX_lanes (s.modMe fun h => h.setRequest v.toNat) rd old s.cur
      have hme : ((s.modMe fun h => h.setRequest v.toNat).hart s.cur) = s.me.setRequest v.toNat := s.me_modMe _
      rw [hme] at hreq hexcl hallow hgrant
      exact ⟨hreq.trans (bits_eq_fieldOf _ 0 3), hexcl, hallow.trans (bits_eq_fieldOf _ 4 4), hgrant⟩
    · rw [if_neg (mt (laneRequestLegal_iff _).mp hl)] at hw
      exact (exec_lanemapWrite f3 rd src s).trans hw
  · intro old v
    have hw := csrWrite_of_csrGet (csrGet_mcfg s) (csrWord 0x808 f3 rd src) f3 rd src fun t v =>
      if v.toNat >>> 42 = 0 then some (t.modMe fun h => h.setCs csrMcfg (v &&& 0xFFFFFFFFFF)) else none
    have h42 : v.toNat >>> 42 = 0 ↔ v.toNat < 2 ^ 42 := by rw [Nat.shiftRight_eq_div_pow]; omega
    refine ⟨fun hv => ?_, fun hv => ?_⟩
    · rw [if_pos (h42.mpr hv)] at hw
      refine completes_of_retireX ((exec_mcfgWrite f3 rd src s).trans hw) (by simp) rfl ⟨State.retireX_xr_self _ rd _, ?_⟩
      exact (mcfg_retireX _ rd old).trans (mcfg_setCs s v)
    · rw [if_neg (mt h42.mp (by omega))] at hw
      exact (exec_mcfgWrite f3 rd src s).trans hw
  · intro old v
    have hget := csrGet_satp hpriv
    refine ⟨fun hb => ?_, fun hb => ?_⟩
    · rw [exec_satpWrite_of_csrGet hget, if_pos (by simpa using hb)]
    · have hexec := (exec_satpWrite_of_csrGet hget f3 rd src).trans (if_neg (by simp [hb]))
      rw [csrWrite_of_csrGet hget] at hexec
      refine completes_of_retireX hexec ?_ ?_ ⟨State.retireX_xr_self _ rd _, ?_⟩
      · split <;> simp
      · split <;> rfl
      · rw [State.retireX_cs_of_ne _ _ _ (by decide), bits_eq_fieldOf]
        split
        · rw [State.me_modMe, Hart.cs_setCs, if_pos rfl]
        · rfl

end Sys2Proof.Machine
end

section
/-! PROOF. Scalar loads and stores (O34). -/

namespace Sys2Proof.Machine

open Sys2Proof.Claims

/-! ### Bytes -/

theorem leNat_lt (l : List Byte) : leNat l < 2 ^ (8 * l.length) := by
  induction l with
  | nil => simp [leNat]
  | cons b bs ih =>
    have hb : b.toNat < 256 := b.isLt
    rw [leNat, List.length_cons, show 8 * (bs.length + 1) = 8 + 8 * bs.length by omega, Nat.pow_add]
    omega

@[simp] theorem sbufOver_length (s : State) (loc : Nat) (bs : List Byte) : (s.sbufOver loc bs).length = bs.length := by
  rw [State.sbufOver]
  split <;> simp

theorem memPut_append (x y : List Byte) (a : Nat) (m : List Host.Cell) : memPut a (x ++ y) m = memPut (a + x.length) y (memPut a x m) := by
  induction x generalizing a m with
  | nil => rfl
  | cons b x ih => rw [List.cons_append, memPut, ih, List.length_cons, memPut, Nat.add_right_comm, Nat.add_assoc]

/-- A newest buffered store over the byte gives it (R58). -/
theorem sbufByte_append {l : List (Nat × List Byte)} {a k : Nat} {d : List Byte} (hlo : a ≤ k) (hhi : k < a + d.length) :
    sbufByte (l ++ [(a, d)]) k = d[k - a]? := by
  rw [sbufByte, List.foldl_append, List.foldl_cons, List.foldl_nil, if_pos ⟨hlo, hhi⟩]

theorem sbufOver_getD {s : State} {l : List (Nat × List Byte)} {a loc k : Nat} {d bs : List Byte} (h : s.me.sbuf = l ++ [(a, d)])
    (hk : k < bs.length) (hlo : a ≤ loc + k) (hhi : loc + k < a + d.length) :
    (s.sbufOver loc bs).getD k 0 = d.getD (loc + k - a) 0 := by
  have hne : s.me.sbuf.isEmpty = false := by simp [h]
  have hd : loc + k - a < d.length := by omega
  rw [State.sbufOver, if_neg (by simp [hne]), getD_of_lt _ _ (by simpa using hk), getD_of_lt _ _ hd]
  simp [h, sbufByte_append hlo hhi, hd]

/-! ### Stores to local memory -/

theorem storePiece_local (s : State) (n : Nat) {a : Nat} (bs : List Byte) (h : isLocal a = true) : s.storePiece n a bs = s.poke a bs := by
  have hc : s.cached a = false := by simp [State.cached, h]
  simp [State.storePiece, h, hc, State.writeUncached, State.portOf]

theorem isLocal_mono {a b : Nat} (h : isLocal a = true) (hab : a ≤ b) : isLocal b = true := by
  simp only [isLocal, decide_eq_true_eq] at h ⊢
  omega

/-- The pieces of a range, stored one by one, are the range (R59). -/
theorem foldl_storePiece_local (n a : Nat) (bs : List Byte) (ha : isLocal a = true) (k off : Nat) (s : State)
    (hk : bs.length - off ≤ 128 * k - (a + off) % 128) (hoff : off ≤ bs.length) :
    ((linePieces k (a + off) (bs.length - off)).foldl (fun s p => s.storePiece n p.1 ((bs.drop (p.1 - a)).take p.2)) s).mem =
      memPut (a + off) (bs.drop off) s.mem := by
  induction k generalizing off s with
  | zero => rw [List.drop_of_length_le (by omega)]; rfl
  | succ k ih =>
    rw [linePieces]
    split
    · rw [List.drop_of_length_le (by omega)]; rfl
    · have hloc : isLocal (a + off) = true := isLocal_mono ha (by omega)
      extract_lets room
      split
      · rw [List.foldl_cons, List.foldl_nil, storePiece_local _ _ _ hloc, Nat.add_sub_cancel_left, List.take_of_length_le (by simp)]
        rfl
      · have hlen : ((bs.drop off).take room).length = room := by rw [List.length_take, List.length_drop]; omega
        have ih' := ih (off + room) (s.poke (a + off) ((bs.drop off).take room)) (by omega) (by omega)
        rw [List.foldl_cons, storePiece_local _ _ _ hloc, Nat.add_sub_cancel_left, Nat.sub_sub, Nat.add_assoc, ih', ← List.drop_drop]
        conv => rhs; rw [← List.take_append_drop room (bs.drop off), memPut_append, hlen]
        rw [Nat.add_assoc]
        rfl

theorem store_local_mem (s : State) (n : Nat) {a : Nat} (bs : List Byte) (h : isLocal a = true) :
    (s.store n a bs).mem = memPut a bs s.mem := by
  have := foldl_storePiece_local n a bs h (bs.length / 128 + 2) 0 s (by omega) (Nat.zero_le _)
  rw [State.store, piecesOf]
  simpa using this

/-! ### Values -/

theorem signExtend_ofNat_eq_sint {w x : Nat} (hw : w ≤ 64) (hx : x < 2 ^ w) : (BitVec.ofNat w x).signExtend 64 = BitVec.ofInt 64 (sint w x) := by
  rw [BitVec.signExtend, BitVec.toInt_eq_toNat_cond, BitVec.toNat_ofNat, Nat.mod_eq_of_lt hx, sint]
  have hpow : 0 < w → 2 ^ w = 2 * 2 ^ (w - 1) := fun h => by rw [← Nat.pow_succ', Nat.sub_one, Nat.succ_pred_eq_of_pos h]
  congr 1
  rcases Nat.eq_zero_or_pos w with rfl | h
  · simp at hx; simp [hx]
  · have := hpow h
    split <;> split <;> omega

theorem ofInt_sint_64 (x : Nat) : BitVec.ofInt 64 (sint 64 x) = BitVec.ofNat 64 x := by
  rw [sint]
  split
  · exact BitVec.ofInt_natCast 64 x
  · apply BitVec.eq_of_toNat_eq
    rw [BitVec.toNat_ofInt, BitVec.toNat_ofNat]
    omega

/-- A scalar load gives its bytes extended by its width (R81). -/
theorem loadValue_eq {f3 : BitVec 3} {bs : List Byte} (hlen : bs.length = 2 ^ (f3.toNat % 4)) :
    loadValue f3.toNat bs =
      if f3.toNat < 4 then BitVec.ofInt 64 (sint (8 * 2 ^ (f3.toNat % 4)) (leNat bs)) else BitVec.ofNat 64 (leNat bs) := by
  have hlt := leNat_lt bs
  rw [hlen] at hlt
  have h8 : f3.toNat < 8 := f3.isLt
  unfold loadValue
  generalize f3.toNat = m at hlen hlt h8 ⊢
  obtain rfl | rfl | rfl | rfl | rfl | rfl | rfl | rfl : m = 0 ∨ m = 1 ∨ m = 2 ∨ m = 3 ∨ m = 4 ∨ m = 5 ∨ m = 6 ∨ m = 7 := by omega
  · exact signExtend_ofNat_eq_sint (by decide) hlt
  · exact signExtend_ofNat_eq_sint (by decide) hlt
  · exact signExtend_ofNat_eq_sint (by decide) hlt
  · exact (ofInt_sint_64 _).symm
  all_goals rfl

/-- A word in an f register is NaN-boxed (R81). -/
theorem nanBox_eq {x : Nat} (hx : x < 2 ^ 32) :
    (BitVec.ofNat 64 x ||| 0xFFFFFFFF00000000 : Word) = BitVec.ofNat 64 (x + 0xFFFFFFFF00000000) := by
  apply BitVec.eq_of_toNat_eq
  have hor := Nat.two_pow_add_eq_or_of_lt hx 0xFFFFFFFF
  rw [BitVec.toNat_or, BitVec.toNat_ofNat, BitVec.toNat_ofNat, Nat.mod_eq_of_lt (a := x) (by omega), Nat.or_comm]
  refine (hor.symm.trans ?_)
  omega

/-! ### Instructions -/

theorem fpOff_iff (s : State) : s.me.fpOff = true ↔ fieldOf (s.me.cs csrMstatus) 13 2 = 0 := by
  rw [Hart.fpOff, bits_eq_fieldOf, beq_iff_eq]

theorem exec_scalarLoad (fp : Bool) (f3 : BitVec 3) (rd rs1 : BitVec 5) (imm : BitVec 12) (s : State) :
    exec (.scalarLoad fp f3 rd rs1 imm) s = execScalarLoad fp f3 rd rs1 imm s := rfl

theorem exec_scalarStore (fp : Bool) (f3 : BitVec 3) (rs1 rs2 : BitVec 5) (imm : BitVec 12) (s : State) :
    exec (.scalarStore fp f3 rs1 rs2 imm) s = execScalarStore fp f3 rs1 rs2 imm s := rfl

/-- A float access is on when FS is (R80). -/
theorem fpAccess_on {s : State} {fp : Bool} (h : fp = true → fieldOf (s.me.cs csrMstatus) 13 2 ≠ 0) : ¬ (fp && s.me.fpOff) = true := by
  cases fp
  · simp
  · simpa using mt (fpOff_iff s).mp (h rfl)

/-- What a load of the bytes writes: an f register, NaN-boxed, or an x register, extended (R81). -/
theorem scalarLoad_result {fp : Bool} {f3 : BitVec 3} {bs : List Byte} (hwf : fp = true → f3 = 2 ∨ f3 = 3)
    (hlen : bs.length = 2 ^ (f3.toNat % 4)) (v : State) (rd : BitVec 5) :
    (if fp then
      ((v.modMe fun h => (h.setF rd.toNat (BitVec.ofNat 64 (leNat bs) ||| (if f3 = 2 then 0xFFFFFFFF00000000 else 0))).fpDirty).retire)
      else v.retireX rd (loadValue f3.toNat bs)) =
    (if fp then
      ((v.modMe fun h => (h.setF rd.toNat
        (BitVec.ofNat 64 (if 2 ^ (f3.toNat % 4) = 4 then leNat bs + 0xFFFFFFFF00000000 else leNat bs))).fpDirty).retire)
      else v.retireX rd (if f3.toNat < 4 then BitVec.ofInt 64 (sint (8 * 2 ^ (f3.toNat % 4)) (leNat bs)) else BitVec.ofNat 64 (leNat bs))) := by
  cases fp
  · exact congrArg (v.retireX rd) (loadValue_eq hlen)
  · have hv : BitVec.ofNat 64 (leNat bs) ||| (if f3 = 2 then 0xFFFFFFFF00000000 else 0 : Word) =
        BitVec.ofNat 64 (if 2 ^ (f3.toNat % 4) = 4 then leNat bs + 0xFFFFFFFF00000000 else leNat bs) := by
      have hlt := leNat_lt bs
      rw [hlen] at hlt
      rcases hwf rfl with rfl | rfl
      · exact nanBox_eq hlt
      · exact BitVec.or_zero
    exact congrArg (fun w => (v.modMe fun h => (h.setF rd.toNat w).fpDirty).retire) hv

/-- Settles O34: a load reads memory under the store buffer, a store goes into the buffer or to memory. -/
theorem scalarLoadsAndStores : Obligations.ScalarLoadsAndStores := by
  unfold Obligations.ScalarLoadsAndStores
  refine ⟨fun s u fp f3 rd rs1 imm loc hwf => ?_, fun s u fp f3 rs1 rs2 imm loc hwf => ?_,
    fun s loc bs => ⟨fun hl => ?_, fun hb hl => State.scalarPut_now hl hb loc bs, fun hb => State.sbufOver_nil hb loc bs,
      fun l a d k h hk hlo hhi => sbufOver_getD h hk hlo hhi⟩, fun s node loc bs h => store_local_mem s node bs h⟩
  · intro va n
    refine ⟨fun hfs hal hreach => ?_, fun hfp hmis hcross => ?_, fun hfp hfs => ?_⟩
    · intro v x hpois
      have hread := State.scalarRead_ok (k := fun s bs => if fp then
          let v : Word := BitVec.ofNat 64 (leNat bs) ||| (if f3 = 2 then 0xFFFFFFFF00000000 else 0)
          .next (s.modMe fun h => (h.setF rd.toNat v).fpDirty).retire
        else .next (s.retireX rd (loadValue f3.toNat bs))) (by omega) hreach.1 hreach.2 hpois
      rw [exec_scalarLoad, execScalarLoad, if_neg (fpAccess_on hfs)]
      refine hread.trans (((apply_ite Host.Outcome.next _ _ _).symm).trans (congrArg Host.Outcome.next (scalarLoad_result ?_ ?_ v rd)))
      · rintro rfl
        simpa [Instr.wf] using hwf
      · simp [State.peek, n]
    · subst hfp
      rw [exec_scalarLoad, execScalarLoad, if_neg (by simp)]
      exact State.scalarRead_misaligned ⟨hmis, hcross⟩
    · rw [exec_scalarLoad, execScalarLoad, if_pos (by rw [hfp, Bool.true_and, fpOff_iff, hfs])]
  · intro va n bytes
    have hlen : bytes.length = n := leBytes_length _ _
    refine ⟨fun hfs hal => ⟨fun hreach => ?_, fun hmmio => ?_⟩, fun hfp hmis hcross => ?_, fun hfp hfs => ?_⟩
    · rw [exec_scalarStore, execScalarStore, if_neg (fpAccess_on hfs)]
      obtain ⟨hx, hstuck⟩ := hreach
      exact State.scalarWrite_ok (bs := bytes) (by rw [hlen]; exact fun h => hal.elim h.1 (Nat.not_le.mpr h.2)) (by rw [hlen]; exact hx) (by rw [hlen]; exact hstuck)
    · rw [exec_scalarStore, execScalarStore, if_neg (fpAccess_on hfs)]
      show s.scalarWrite va bytes _ = _
      rw [State.scalarWrite, hlen, if_neg (fun h => hal.elim h.1 (Nat.not_le.mpr h.2)), hmmio]
    · subst hfp
      rw [exec_scalarStore, execScalarStore, if_neg (by simp)]
      exact State.scalarWrite_misaligned (bs := bytes) (by rw [hlen]; exact ⟨hmis, hcross⟩)
    · rw [exec_scalarStore, execScalarStore, if_pos (by rw [hfp, Bool.true_and, fpOff_iff, hfs])]
  · simp [State.scalarPut, hl]

end Sys2Proof.Machine
end

section
/-! PROOF. Traps and trap returns (O36). -/

namespace Sys2Proof.Machine

open Sys2Proof.Claims

/-! ### The status word -/

theorem statusTrapS_bits (st : Word) (p : Priv) : (statusTrapS st p).toNat.testBit 1 = false ∧
    (statusTrapS st p).toNat.testBit 5 = st.toNat.testBit 1 ∧ (statusTrapS st p).toNat.testBit 8 = decide (p = .s) := by
  simp only [BitVec.testBit_toNat, statusTrapS]
  refine ⟨?_, ?_, ?_⟩
  · cases p <;> simp
  · cases p <;> simp
  · cases p <;> simp

theorem statusTrapM_bits (st : Word) (p : Priv) : (statusTrapM st p).toNat.testBit 3 = false ∧
    (statusTrapM st p).toNat.testBit 7 = st.toNat.testBit 3 ∧ fieldOf (statusTrapM st p) 11 2 = privRank p := by
  refine ⟨?_, ?_, (fieldOf_eq_iff (by cases p <;> decide)).mpr fun i hi => ?_⟩
  · simp only [BitVec.testBit_toNat, statusTrapM]
    cases p <;> simp [privBits]
  · simp only [BitVec.testBit_toNat, statusTrapM]
    cases p <;> simp [privBits]
  · simp only [statusTrapM]
    obtain rfl | rfl : i = 0 ∨ i = 1 := (by omega) <;> cases p <;> simp [privBits, privRank] <;> decide

theorem statusSret_bits (st : Word) : let st' := ((st &&& ~~~(0x122 : Word)) ||| ((st.extractLsb' 5 1).setWidth 64 <<< 1) ||| 0x20) &&&
      ~~~(0x20000 : Word)
    st'.toNat.testBit 1 = st.toNat.testBit 5 ∧ st'.toNat.testBit 5 = true ∧ st'.toNat.testBit 8 = false := by
  simp only [BitVec.testBit_toNat]
  refine ⟨by simp, by simp, by simp⟩

theorem statusMret_bits (st m : Word) (hm : m = 0 ∨ m = 0x20000) :
    let st' := ((st &&& ~~~(0x1888 : Word)) ||| ((st.extractLsb' 7 1).setWidth 64 <<< 3) ||| 0x80) &&& ~~~m
    st'.toNat.testBit 3 = st.toNat.testBit 7 ∧ st'.toNat.testBit 7 = true ∧ fieldOf st' 11 2 = 0 := by
  refine ⟨?_, ?_, (fieldOf_eq_iff (by decide)).mpr fun i hi => ?_⟩
  · simp only [BitVec.testBit_toNat]
    rcases hm with rfl | rfl <;> simp
  · simp only [BitVec.testBit_toNat]
    rcases hm with rfl | rfl <;> simp
  · obtain rfl | rfl : i = 0 ∨ i = 1 := (by omega) <;> rcases hm with rfl | rfl <;> simp

/-! ### Traps -/

theorem Hart.trapsToS_iff (h : Hart) (c : Nat) : h.trapsToS c = true ↔ h.priv ≠ .m ∧ (h.cs csrMedeleg).toNat.testBit c = true := by
  rw [Hart.trapsToS]
  cases h.priv <;> simp

/-- Giving up a wait touches no register, no CSR and no pc of any hart, and no memory (R113). -/
theorem State.abandon_keeps (s : State) (h : Nat) : ((s.abandon h).hart h).csr = (s.hart h).csr ∧ ((s.abandon h).hart h).x = (s.hart h).x ∧
    ((s.abandon h).hart h).pc = (s.hart h).pc ∧ (s.abandon h).mem = s.mem := by
  have hmod : ((s.modHart h fun x => { x with wait := none, timedOut := false }).hart h) = { s.hart h with wait := none, timedOut := false } :=
    State.hart_modHart_self _ _ _
  rw [State.abandon]
  split
  · exact ⟨rfl, rfl, rfl, rfl⟩
  · split
    · exact ⟨rfl, rfl, rfl, rfl⟩
    · extract_lets u
      have hu : (u.hart h).csr = (s.hart h).csr ∧ (u.hart h).x = (s.hart h).x ∧ (u.hart h).pc = (s.hart h).pc ∧ u.mem = s.mem := by
        dsimp only [u]
        rw [hmod]
        exact ⟨rfl, rfl, rfl, rfl⟩
      clear_value u
      split <;> exact hu

theorem exec_interrupt_of_ev {s : State} {h code : Nat} (hev : s.ev = .interrupt h code) :
    exec .interrupt s =
      let t := s.modHart h fun x => x.setCs csrMip (x.cs csrMip ||| ((1 : Word) <<< code))
      .next (if (t.hart h).pendingInt.isSome then t.abandon h else t) := by
  show execInterrupt s = _
  rw [execInterrupt, hev]

theorem interrupt_pends {s : State} {h code : Nat} (hev : s.ev = .interrupt h code) : ∃ t, exec .interrupt s = .next t ∧
    (t.hart h).cs csrMip = (s.hart h).cs csrMip ||| ((1 : Word) <<< code) ∧ t.mem = s.mem ∧ (t.hart h).x = (s.hart h).x ∧
    (t.hart h).pc = (s.hart h).pc := by
  let u := s.modHart h fun x => x.setCs csrMip (x.cs csrMip ||| ((1 : Word) <<< code))
  have hu : u.hart h = (s.hart h).setCs csrMip ((s.hart h).cs csrMip ||| ((1 : Word) <<< code)) := State.hart_modHart_self _ _ _
  have hmip : (u.hart h).cs csrMip = (s.hart h).cs csrMip ||| ((1 : Word) <<< code) := by rw [hu, Hart.cs_setCs, if_pos rfl]
  refine ⟨_, exec_interrupt_of_ev hev, ?_⟩
  split
  · obtain ⟨hcsr, hx, hpc, hmem⟩ := u.abandon_keeps h
    refine ⟨?_, hmem, hx.trans (by rw [hu]; rfl), hpc.trans (by rw [hu]; rfl)⟩
    rw [Hart.cs, hcsr, ← Hart.cs]
    exact hmip
  · exact ⟨hmip, rfl, by rw [hu]; rfl, by rw [hu]; rfl⟩

/-! ### Returns -/

theorem baseStep_sret (s : State) : baseStep 0x10200073 s = match s.me.priv with
    | .u => some (s.illegal 0x10200073)
    | .s => if (s.me.cs csrMstatus).toNat.testBit 22 then some (s.illegal 0x10200073) else some (s.retire.modMe Hart.sret)
    | .m => some (s.retire.modMe Hart.sret) := rfl

theorem baseStep_mret (s : State) : baseStep 0x30200073 s =
    if s.me.priv = .m then some (s.retire.modMe Hart.mret) else some (s.illegal 0x30200073) := rfl

theorem cs_retire_of_ne (s : State) {n : Nat} (hn : n ≠ 0xB02) : s.retire.me.cs n = s.me.cs n := by
  rw [State.me_retire]
  exact tget_tset_ne _ _ _ hn

/-- The mode that `mret` returns to (R80). -/
theorem mret_priv (h : Hart) : h.mret.priv =
    if fieldOf (h.cs csrMstatus) 11 2 = 3 then .m else if fieldOf (h.cs csrMstatus) 11 2 = 1 then .s else .u := by
  have hf : ((h.cs csrMstatus).extractLsb' 11 2).toNat = fieldOf (h.cs csrMstatus) 11 2 := by
    rw [BitVec.extractLsb'_toNat, Nat.shiftRight_eq_div_pow]; rfl
  show (if ((h.cs csrMstatus).extractLsb' 11 2).toNat = 3 then _ else _) = _
  rw [hf]

theorem mret_status (h : Hart) : (h.mret.cs csrMstatus).toNat.testBit 3 = (h.cs csrMstatus).toNat.testBit 7 ∧
    (h.mret.cs csrMstatus).toNat.testBit 7 = true ∧ fieldOf (h.mret.cs csrMstatus) 11 2 = 0 := by
  have hst : ∃ m : Word, (m = 0 ∨ m = 0x20000) ∧ h.mret.cs csrMstatus =
      (((h.cs csrMstatus) &&& ~~~(0x1888 : Word)) ||| (((h.cs csrMstatus).extractLsb' 7 1).setWidth 64 <<< 3) ||| 0x80) &&& ~~~m := by
    have hcs : h.mret.cs csrMstatus = if h.mret.priv = .m
        then ((h.cs csrMstatus) &&& ~~~(0x1888 : Word)) ||| (((h.cs csrMstatus).extractLsb' 7 1).setWidth 64 <<< 3) ||| 0x80
        else (((h.cs csrMstatus) &&& ~~~(0x1888 : Word)) ||| (((h.cs csrMstatus).extractLsb' 7 1).setWidth 64 <<< 3) ||| 0x80) &&&
          ~~~(0x20000 : Word) := tget_tset_self _ _ _ _
    by_cases hp : h.mret.priv = .m
    · exact ⟨0, .inl rfl, (hcs.trans (if_pos hp)).trans BitVec.and_allOnes.symm⟩
    · exact ⟨0x20000, .inr rfl, hcs.trans (if_neg hp)⟩
  obtain ⟨m, hm, hst⟩ := hst
  rw [hst]
  exact statusMret_bits _ m hm

theorem sret_status (h : Hart) : (h.sret.cs csrMstatus).toNat.testBit 1 = (h.cs csrMstatus).toNat.testBit 5 ∧
    (h.sret.cs csrMstatus).toNat.testBit 5 = true ∧ (h.sret.cs csrMstatus).toNat.testBit 8 = false := by
  have hst : h.sret.cs csrMstatus = (((h.cs csrMstatus) &&& ~~~(0x122 : Word)) |||
      (((h.cs csrMstatus).extractLsb' 5 1).setWidth 64 <<< 1) ||| 0x20) &&& ~~~(0x20000 : Word) := tget_tset_self _ _ _ _
  rw [hst]
  exact statusSret_bits _

theorem sret_priv (h : Hart) : h.sret.priv = if (h.cs csrMstatus).toNat.testBit 8 then .s else .u := by
  have hb : ((h.cs csrMstatus).extractLsb' 8 1 == 1) = (h.cs csrMstatus).toNat.testBit 8 := by
    rw [Bool.eq_iff_iff, beq_iff_eq, BitVec.testBit_toNat]
    constructor
    · intro he
      have := congrArg (fun w : BitVec 1 => w.getLsbD 0) he
      simpa using this
    · intro hb
      ext i hi
      obtain rfl : i = 0 := by omega
      simpa using hb
  show (if ((h.cs csrMstatus).extractLsb' 8 1 == 1) = true then _ else _) = _
  rw [hb]

/-- Settles O36: a trap by the mode it goes to, a return by the mode it comes from. -/
theorem trapsAndReturns : Obligations.TrapsAndReturns := by
  unfold Obligations.TrapsAndReturns
  refine ⟨fun s cause v _ => ?_, fun s w => rfl, fun s h code hev => interrupt_pends hev, fun s hs => ?_, fun s hm => ?_⟩
  · intro t st st'
    have ht : t = s.me.trap (s.me.trapsToS cause) cause false v := s.me_except cause v
    by_cases hd : s.me.priv ≠ .m ∧ (s.me.cs csrMedeleg).toNat.testBit cause = true
    · rw [(s.me.trapsToS_iff cause).mpr hd] at ht
      obtain ⟨hpc, hc, hv, hst, hvec⟩ := s.me.trap_s cause v
      obtain ⟨h1, h5, h8⟩ := statusTrapS_bits st s.me.priv
      have hst' : st' = statusTrapS st s.me.priv := by dsimp only [st']; rw [ht, hst]
      rw [if_pos hd, hst', ht]
      exact ⟨hpc, hc, hv, s.me.trap_priv _ _ _ _, hvec, h1, h5, h8, s.me.trap_x _ _ _ _, s.me.trap_biq _ _ _ _⟩
    · rw [Bool.eq_false_iff.mpr (mt (s.me.trapsToS_iff cause).mp hd)] at ht
      obtain ⟨hpc, hc, hv, hst, hvec⟩ := s.me.trap_m cause v
      obtain ⟨h3, h7, h11⟩ := statusTrapM_bits st s.me.priv
      have hst' : st' = statusTrapM st s.me.priv := by dsimp only [st']; rw [ht, hst]
      rw [if_neg hd, hst', ht]
      exact ⟨hpc, hc, hv, s.me.trap_priv _ _ _ _, hvec, h3, h7, h11, s.me.trap_x _ _ _ _, s.me.trap_biq _ _ _ _⟩
  · have hret : baseStep 0x10200073 s = some (s.retire.modMe Hart.sret) := by
      rw [baseStep_sret]
      rcases hs with h | ⟨h, ht⟩
      · rw [h]
      · rw [h, ht]; rfl
    have hst := cs_retire_of_ne s (n := csrMstatus) (by decide)
    refine ⟨_, hret, ?_⟩
    rw [State.me_modMe, sret_priv, Hart.sret_pc, cs_retire_of_ne s (by decide), ← hst]
    obtain ⟨h1, h5, h8⟩ := sret_status s.retire.me
    exact ⟨rfl, rfl, h1, h5, h8, by simp⟩
  · have hret : baseStep 0x30200073 s = some (s.retire.modMe Hart.mret) := by rw [baseStep_mret, if_pos hm]
    have hst := cs_retire_of_ne s (n := csrMstatus) (by decide)
    refine ⟨_, hret, ?_⟩
    rw [State.me_modMe, mret_priv, Hart.mret_pc, cs_retire_of_ne s (by decide), ← hst]
    obtain ⟨h3, h7, h11⟩ := mret_status s.retire.me
    exact ⟨rfl, rfl, h3, h7, h11, by simp⟩

end Sys2Proof.Machine
end

section
/-! PROOF. Reservations, scalar atomic operations and `sfence.vma` (O35). -/

namespace Sys2Proof.Machine

open Sys2Proof.Claims

/-! ### Reservations -/

theorem accessBytes_wide {f3 : BitVec 3} (h : f3 = 2 ∨ f3 = 3) : accessBytes f3.toNat = 2 ^ f3.toNat := by
  rcases h with rfl | rfl <;> rfl

@[simp] theorem State.x_releaseAt (s : State) (k : Nat) (r : BitVec 5) : (s.releaseAt k).x r = s.x r := by
  rw [State.x, State.me_releaseAt]; rfl

theorem State.noReserve_eq (s : State) (loc : Nat) : s.noReserve loc = !s.cached loc := rfl

theorem exec_lr_of_reaches {s0 u : State} {f3 : BitVec 3} {rs1 : BitVec 5} {loc : Nat} (hf : f3 = 2 ∨ f3 = 3)
    (hal : (s0.x rs1).toNat % 2 ^ f3.toNat = 0) (aq rl : Bool) (rd : BitVec 5)
    (hreach : Reaches (s0.releaseAt (if rl then 4 else 0)) .load (s0.x rs1) (2 ^ f3.toNat) u loc) :
    exec (.lr aq rl f3 rd rs1) s0 =
      if !u.cached loc then .next (u.except 5 (s0.x rs1))
      else
        let v := if nodeOf u.myCore ≥ 512 then u.loadLines (nodeOf u.myCore) loc (2 ^ f3.toNat) else u.cohOwn (nodeOf u.myCore) (lineOf loc)
        if v.poisoned loc (2 ^ f3.toNat) then .next ((v.poisonRecord loc).except 5 (s0.x rs1))
        else
          let w := loadValue f3.toNat (v.peek loc (2 ^ f3.toNat))
          .next ((v.retireX rd w).modMe fun h => { h with resv := some (lineOf loc, w.toNat) }) := by
  show execLr aq rl f3 rd rs1 s0 = _
  rw [execLr, accessBytes_wide hf, if_neg (not_not_intro hal)]
  exact State.toLoc_of_reaches hreach _

theorem exec_sc_of_reaches {s0 u : State} {f3 : BitVec 3} {rs1 : BitVec 5} {loc : Nat} (hf : f3 = 2 ∨ f3 = 3)
    (hal : (s0.x rs1).toNat % 2 ^ f3.toNat = 0) (aq rl : Bool) (rd rs2 : BitVec 5)
    (hreach : Reaches (s0.releaseAt (if rl then 4 else 0)) .store (s0.x rs1) (2 ^ f3.toNat) u loc) (hc : u.cached loc = true)
    (hnode : nodeOf u.myCore < 512) :
    let l := lineOf loc
    let held := (u.me.resv.any fun r => r.1 == l) && (u.ns (nodeOf u.myCore) l == .e || u.ns (nodeOf u.myCore) l == .m)
    let v := if held then u.store (nodeOf u.myCore) loc (leBytes (2 ^ f3.toNat) (u.x rs2).toNat) else u
    exec (.sc aq rl f3 rd rs1 rs2) s0 =
      .next (((v.modMe fun h => { h with resv := none }).answerDelayed (nodeOf u.myCore) l).retireX rd (if held then 0 else 1)) := by
  intro l held v
  show execSc aq rl f3 rd rs1 rs2 s0 = _
  rw [execSc, accessBytes_wide hf, if_neg (not_not_intro hal)]
  refine (State.toLoc_of_reaches hreach _).trans ?_
  simp only [State.noReserve_eq, hc, Bool.not_true, Bool.false_eq_true, if_false, if_neg (Nat.not_le.mpr hnode)]
  have hheld : (match u.me.resv with
      | none => false
      | some (l', _) => l' == lineOf loc && (u.ns (nodeOf u.myCore) (lineOf loc) == .e || u.ns (nodeOf u.myCore) (lineOf loc) == .m)) = held := by
    cases hr : u.me.resv <;> simp [held, hr, l]
  exact congrArg (fun b : Bool => Host.Outcome.next (((((if b then u.store (nodeOf u.myCore) loc
    (leBytes (2 ^ f3.toNat) (u.x rs2).toNat) else u).modMe fun h => { h with resv := none }).answerDelayed (nodeOf u.myCore) l).retireX rd
      (if b then 0 else 1)))) hheld

theorem exec_sc_uncached {s0 u : State} {f3 : BitVec 3} {rs1 : BitVec 5} {loc : Nat} (hf : f3 = 2 ∨ f3 = 3)
    (hal : (s0.x rs1).toNat % 2 ^ f3.toNat = 0) (aq rl : Bool) (rd rs2 : BitVec 5)
    (hreach : Reaches (s0.releaseAt (if rl then 4 else 0)) .store (s0.x rs1) (2 ^ f3.toNat) u loc) (hc : u.cached loc = false) :
    exec (.sc aq rl f3 rd rs1 rs2) s0 = .next (u.except 7 (s0.x rs1)) := by
  show execSc aq rl f3 rd rs1 rs2 s0 = _
  rw [execSc, accessBytes_wide hf, if_neg (not_not_intro hal)]
  refine (State.toLoc_of_reaches hreach _).trans (if_pos ?_)
  rw [State.noReserve_eq, hc]; rfl

/-! ### Atomic memory operations -/

theorem amoCode_eq_ten (f5 : BitVec 5) : amoCode f5.toNat = 10 ↔ f5 = 5 := by revert f5; decide

theorem amoCode_offered (f5 : BitVec 5) :
    (amoCode f5.toNat ≠ 0 ∧ amoCode f5.toNat ≠ 8 ∧ amoCode f5.toNat ≠ 10) ↔ f5 ≠ 0 ∧ f5 ≠ 1 ∧ f5 ≠ 5 := by revert f5; decide

/-- A register operand of `n` bytes of a scalar AMO: a register, or a pair for 16 bytes. -/
def amoReg (s : State) (f3 : BitVec 3) (r : BitVec 5) : Nat :=
  if f3 = 4 then (if r = 0 then 0 else (s.x r).toNat + 2 ^ 64 * (s.x (r + 1)).toNat) else (s.x r).toNat % 2 ^ (8 * 2 ^ f3.toNat)

theorem amoReg_eq (s : State) {f3 : BitVec 3} (hf : f3 = 2 ∨ f3 = 3 ∨ f3 = 4) (r : BitVec 5) :
    (if 2 ^ f3.toNat = 16 then s.xPair r else (s.x r).toNat) % 2 ^ (8 * 2 ^ f3.toNat) = amoReg s f3 r := by
  have h0 := (s.x r).isLt
  have h1 := (s.x (r + 1)).isLt
  rcases hf with rfl | rfl | rfl
  · rfl
  · rfl
  · have hn : 2 ^ (4 : BitVec 3).toNat = 16 := rfl
    rw [if_pos hn, amoReg, if_pos rfl, State.xPair, hn]
    refine Nat.mod_eq_of_lt ?_
    split <;> omega

theorem amoLegal_cases {f5 : BitVec 5} {f3 : BitVec 3} {rd rs2 : BitVec 5} (h : amoLegal f5 f3 rd rs2 = true) :
    (f3 = 2 ∨ f3 = 3 ∨ f3 = 4) ∧ (f3 = 4 → f5 = 5 ∧ rd &&& 1 = 0) := by
  rw [amoLegal] at h
  split at h
  · next h5 =>
    simp only [Bool.or_eq_true, Bool.and_eq_true, beq_iff_eq] at h h5
    obtain (rfl | rfl) | ⟨⟨rfl, hrd⟩, -⟩ := h
    · exact ⟨.inl rfl, fun h => absurd h (by decide)⟩
    · exact ⟨.inr (.inl rfl), fun h => absurd h (by decide)⟩
    · exact ⟨.inr (.inr rfl), fun _ => ⟨h5, hrd⟩⟩
  · simp only [Bool.or_eq_true, Bool.and_eq_true, beq_iff_eq] at h
    obtain ⟨-, rfl | rfl⟩ := h
    · exact ⟨.inl rfl, fun h => absurd h (by decide)⟩
    · exact ⟨.inr (.inl rfl), fun h => absurd h (by decide)⟩

/-- A scalar AMO that reaches its location: what refuses it, where it acts, or that it goes to the host. -/
theorem exec_scalarAmo_of_reaches {s0 u : State} {f5 : BitVec 5} {f3 : BitVec 3} {rd rs1 rs2 : BitVec 5} {loc : Nat} (aq : Bool) {rl : Bool}
    (hf : f3 = 2 ∨ f3 = 3 ∨ f3 = 4) (hal : (s0.x rs1).toNat % 2 ^ f3.toNat = 0) :
    let s := s0.releaseAt (if rl then 4 else 0)
    Reaches s .store (s0.x rs1) (2 ^ f3.toNat) u loc →
    let n := 2 ^ f3.toNat
    let x := if f5 = 5 then amoReg s f3 rd else (s.x rs2).toNat % 2 ^ (8 * n)
    let y := if f5 = 5 then amoReg s f3 rs2 else 0
    exec (.scalarAmo f5 aq rl f3 rd rs1 rs2) s0 =
      if !isLocal loc && (u.regionAt loc).isSome then .next (u.except 7 (s0.x rs1))
      else if isLocal loc || u.cached loc then
        if u.poisoned loc n then .next ((u.poisonRecord loc).except 7 (s0.x rs1))
        else
          let r := u.atomicAt (nodeOf u.myCore) loc (amoCode f5.toNat) n x y
          .next (r.1.amoResult rd n r.2)
      else if amoCode f5.toNat ≠ 0 ∧ amoCode f5.toNat ≠ 8 ∧ amoCode f5.toNat ≠ 10 then .next (u.except 7 (s0.x rs1))
      else
        .next (({ u with host := { u.host with atomics := u.host.atomics ++ [(u.cur, loc)] } }.due
          [.atomicopCompletion u.cur true]).wait (.host loc (s0.x rs1) (amoCode f5.toNat) n x y rd.toNat)) := by
  intro s hreach n x y
  have hx : (if amoCode f5.toNat = 10 then (if 2 ^ f3.toNat = 16 then s.xPair rd else (s.x rd).toNat) else (s.x rs2).toNat) %
      2 ^ (8 * 2 ^ f3.toNat) = x := by
    simp only [amoCode_eq_ten, x]
    split
    · exact amoReg_eq s hf rd
    · rfl
  have hy : (if amoCode f5.toNat = 10 then (if 2 ^ f3.toNat = 16 then s.xPair rs2 else (s.x rs2).toNat) else 0) %
      2 ^ (8 * 2 ^ f3.toNat) = y := by
    simp only [amoCode_eq_ten, y]
    split
    · exact amoReg_eq s hf rs2
    · exact Nat.zero_mod _
  show execScalarAmo f5 aq rl f3 rd rs1 rs2 s0 = _
  rw [execScalarAmo, if_neg (not_not_intro hal)]
  refine (State.toLoc_of_reaches hreach _).trans ?_
  dsimp only
  rw [hx, hy]

/-- The operation that a scalar AMO names, on old value and operand of `w` bits (RISC-V A). -/
theorem amoOp_amoCode (f5 : BitVec 5) (n : Nat) {old : Nat} (hn : 0 < n) (hold : old < 2 ^ (8 * n)) (b p q : Nat) (hb : b < 2 ^ (8 * n))
    (hp : p < 2 ^ (8 * n)) (hq : q < 2 ^ (8 * n)) :
    amoOp (amoCode f5.toNat) n old (if f5 = 5 then p else b) (if f5 = 5 then q else 0) =
      match f5.toNat with
      | 0x00 => (old + b) % 2 ^ (8 * n)
      | 0x01 => b
      | 0x04 => old ^^^ b
      | 0x05 => if old = p then q else old
      | 0x08 => old ||| b
      | 0x0C => old &&& b
      | 0x10 => if sint (8 * n) old ≤ sint (8 * n) b then old else b
      | 0x14 => if sint (8 * n) b ≤ sint (8 * n) old then old else b
      | 0x18 => Nat.min old b
      | _ => Nat.max old b := by
  have h5 : f5 = 5 ↔ f5.toNat = 5 := by rw [← BitVec.toNat_inj]; rfl
  have hso := signed_eq_sint (w := 8 * n) (by omega) hold
  have hsb := signed_eq_sint (w := 8 * n) (by omega) hb
  have hlt := f5.isLt
  have hmin : (if old ≤ b then old else b) = Nat.min old b := (Nat.min_def ..).symm
  have hmax : (if b ≤ old then old else b) = Nat.max old b := by
    show _ = max old b
    rw [Nat.max_def]; split <;> split <;> omega
  simp only [h5]
  generalize f5.toNat = m at hlt ⊢
  have hcases : m = 0 ∨ m = 1 ∨ m = 2 ∨ m = 3 ∨ m = 4 ∨ m = 5 ∨ m = 6 ∨ m = 7 ∨ m = 8 ∨ m = 9 ∨ m = 10 ∨ m = 11 ∨ m = 12 ∨ m = 13 ∨
      m = 14 ∨ m = 15 ∨ m = 16 ∨ m = 17 ∨ m = 18 ∨ m = 19 ∨ m = 20 ∨ m = 21 ∨ m = 22 ∨ m = 23 ∨ m = 24 ∨ m = 25 ∨ m = 26 ∨ m = 27 ∨
      m = 28 ∨ m = 29 ∨ m = 30 ∨ m = 31 := by
    omega
  obtain rfl | rfl | rfl | rfl | rfl | rfl | rfl | rfl | rfl | rfl | rfl | rfl | rfl | rfl | rfl | rfl |
    rfl | rfl | rfl | rfl | rfl | rfl | rfl | rfl | rfl | rfl | rfl | rfl | rfl | rfl | rfl | rfl := hcases <;>
    simp only [amoCode, amoOp, Nat.mod_eq_of_lt hb, Nat.mod_eq_of_lt hp, Nat.mod_eq_of_lt hq, hso, hsb, hmin, hmax, if_true, if_false,
      Nat.reduceEqDiff, show ¬(0 = 5) by decide, show ¬(1 = 5) by decide]

/-! ### What a translation leaves -/

theorem State.me_of_sansTlb {s t : State} (h : t.sansTlb = s.sansTlb) : t.me.sansResv = s.me.sansResv := by
  rw [State.me, State.me, State.cur_of_sansTlb h]
  exact State.hart_of_sansTlb h s.cur

theorem State.ilen_of_sansTlb {s t : State} (h : t.sansTlb = s.sansTlb) : t.ilen = s.ilen := by
  have q := congrArg (fun x : State => x.ilen) h
  exact q

theorem sansTlb_of_reaches {s u : State} {acc : Acc} {va : Word} {n loc : Nat} (h : Reaches s acc va n u loc) : u.sansTlb = s.sansTlb := by
  have k := (s.keeps_xlateRange (s.dataCx s.cur) acc va n).1
  rwa [h.1] at k

theorem pc_of_reaches {s u : State} {acc : Acc} {va : Word} {n loc : Nat} (h : Reaches s acc va n u loc) : u.me.pc = s.me.pc := by
  have q := congrArg (fun x : Hart => x.pc) (State.me_of_sansTlb (sansTlb_of_reaches h))
  exact q

/-! ### The result of an atomic operation -/

theorem amoResult_keeps (s : State) (rd : BitVec 5) (n old : Nat) : (s.amoResult rd n old).me.pc = s.me.pc + BitVec.ofNat 64 s.ilen ∧
    (s.amoResult rd n old).me.wait = none ∧ (s.amoResult rd n old).mem = s.mem := by
  rw [State.amoResult]
  split
  · exact ⟨s.retireX_pc _ _, s.retireX_wait _ _, rfl⟩
  · split
    · exact ⟨s.retireX_pc _ _, s.retireX_wait _ _, rfl⟩
    · split
      · exact ⟨by simp, by simp, rfl⟩
      · exact ⟨by simp, by simp, rfl⟩

theorem amoResult_single {s : State} {f3 : BitVec 3} {rd : BitVec 5} {old : Nat} (hf : f3 = 2 ∨ f3 = 3) (hold : old < 2 ^ (8 * 2 ^ f3.toNat)) :
    (s.amoResult rd (2 ^ f3.toNat) old).me.xr rd.toNat = if rd = 0 then 0 else BitVec.ofInt 64 (sint (8 * 2 ^ f3.toNat) old) := by
  rcases hf with rfl | rfl
  · rw [← signExtend_ofNat_eq_sint (by decide) hold]
    exact s.retireX_xr_self rd _
  · exact (s.retireX_xr_self rd _).trans (by rw [← ofInt_sint_64]; rfl)

theorem xr_wx (s : State) (rd : BitVec 5) (v : Word) (r : Nat) : (s.wx rd v).me.xr r = (s.me.setX rd.toNat v).xr r := by rw [State.me_wx]

theorem amoResult_pair {s : State} {rd : BitVec 5} {old : Nat} (heven : rd &&& 1 = 0) (hrd : rd ≠ 0) :
    (s.amoResult rd 16 old).me.xr rd.toNat = BitVec.ofNat 64 old ∧
      (s.amoResult rd 16 old).me.xr (rd.toNat + 1) = BitVec.ofNat 64 (old / 2 ^ 64) := by
  have hpos : rd.toNat ≠ 0 := fun h => hrd (BitVec.eq_of_toNat_eq h)
  have hnext : (rd + 1).toNat = rd.toNat + 1 := by
    revert heven; revert rd; decide
  have hres : s.amoResult rd 16 old = ((s.wx rd (BitVec.ofNat 64 old)).wx (rd + 1) (BitVec.ofNat 64 (old / 2 ^ 64))).retire := if_neg hrd
  have hxr (r : Nat) : (s.amoResult rd 16 old).me.xr r =
      (((s.me.setX rd.toNat (BitVec.ofNat 64 old)).setX (rd.toNat + 1) (BitVec.ofNat 64 (old / 2 ^ 64)))).xr r := by
    rw [hres, State.me_retire, State.me_wx, State.me_wx, hnext]; rfl
  rw [hxr, hxr, Hart.xr_setX, Hart.xr_setX, Hart.xr_setX]
  constructor
  · simp [hpos]
  · simp

/-! ### sfence.vma -/

/-- What an update of one hart leaves of every hart, it leaves of all. -/
theorem hart_modHart_keep {β : Type} (get : Hart → β) {f : Hart → Hart} (hf : ∀ x, get (f x) = get x) (s : State) (h k : Nat) :
    get ((s.modHart h f).hart k) = get (s.hart k) := by
  by_cases hk : k = h
  · rw [hk, State.hart_modHart_self, hf]
  · rw [State.hart_modHart_ne s f hk]

/-- Replays begin blocks again and touch nothing else (R434). -/
theorem replayUsers_keep {β : Type} (get : State → β) (hget : ∀ (s : State) h j, get (s.modHart h fun x => { x with biq := replayFrom j x.biq }) = get s)
    (s : State) (ci : Nat) (us : List (Nat × Nat)) : get (s.replayUsers ci us) = get s := by
  rw [State.replayUsers]
  split
  · rfl
  · refine foldl_keep get _ (fun t h => ?_) _ s
    dsimp only
    split
    · exact hget t h _
    · rfl

theorem coreDrop_keep {β : Type} (get : State → β) (hget : ∀ (s : State) h j, get (s.modHart h fun x => { x with biq := replayFrom j x.biq }) = get s)
    (s : State) (ci : Nat) (p : Tlb → Bool) : get (s.coreDrop ci p) = get (s.tlbDrop fun t => unitOn ci t.unit && p t) :=
  replayUsers_keep get hget _ ci _

theorem me_keep {β : Type} (get : Hart → β) {t s : State} (hc : t.cur = s.cur) (h : ∀ k, get (t.hart k) = get (s.hart k)) :
    get t.me = get s.me := by rw [State.me, State.me, hc, h]

theorem coreDrop_hart {β : Type} (get : Hart → β) (hf : ∀ (x : Hart) (j : Nat), get { x with biq := replayFrom j x.biq } = get x) (s : State)
    (ci : Nat) (p : Tlb → Bool) : get (s.coreDrop ci p).me = get s.me := by
  refine me_keep get (coreDrop_keep State.cur (fun _ _ _ => rfl) s ci p) fun k => ?_
  exact coreDrop_keep (fun t => get (t.hart k)) (fun t h j => hart_modHart_keep get (fun x => hf x j) t h k) s ci p

theorem exec_sfenceVma {s : State} (hpriv : s.me.priv = .m ∨ (s.me.priv = .s ∧ (s.me.cs csrMstatus).toNat.testBit 20 = false))
    (hatom : s.atomInFlight s.myCore = false) (rs1 rs2 : BitVec 5) : exec (.sfenceVma rs1 rs2) s =
      .next (s.coreDrop s.myCore (sfenceHits (if rs1 = 0 then none else some (s.x rs1).toNat) (if rs2 = 0 then none else some (s.x rs2)))).retire := by
  show execSfenceVma rs1 rs2 s = _
  have hopen : ¬ (s.me.priv = .u || (s.me.priv = .s && (s.me.cs csrMstatus).toNat.testBit 20)) = true := by
    rcases hpriv with h | ⟨h, ht⟩
    · simp [h]
    · simp [h, ht]
  rw [execSfenceVma, if_neg hopen, hatom]
  rfl

/-- The translations that `sfence.vma` names (R434). -/
theorem sfenceHits_operands (s : State) (rs1 rs2 : BitVec 5) (e : Tlb) :
    sfenceHits (if rs1 = 0 then none else some (s.x rs1).toNat) (if rs2 = 0 then none else some (s.x rs2)) e =
      ((rs1 = 0 || e.va == (s.x rs1).toNat % 2 ^ 57 / 2 ^ e.lg * 2 ^ e.lg) &&
        (rs2 = 0 || (if (s.x rs2).toNat.testBit 20 then e.tag == .pasid ((s.x rs2).toNat % 2 ^ 20)
          else e.tag == .asid ((s.x rs2).toNat % 65536)))) := by
  unfold sfenceHits
  congr 1
  · by_cases h : rs1 = 0
    · rw [if_pos h, decide_eq_true h]; rfl
    · rw [if_neg h, decide_eq_false h, Bool.false_or]; rfl
  · by_cases h : rs2 = 0
    · rw [if_pos h, decide_eq_true h]; rfl
    · rw [if_neg h, decide_eq_false h, Bool.false_or]

theorem completes_sfenceVma {s : State} (hpriv : s.me.priv = .m ∨ (s.me.priv = .s ∧ (s.me.cs csrMstatus).toNat.testBit 20 = false))
    (hatom : s.atomInFlight s.myCore = false) (rs1 rs2 : BitVec 5) : Completes (.sfenceVma rs1 rs2) s fun t =>
      t.xlat.tlb = s.xlat.tlb.filter (fun e => !(unitOn s.myCore e.unit &&
        (rs1 = 0 || e.va == (s.x rs1).toNat % 2 ^ 57 / 2 ^ e.lg * 2 ^ e.lg) &&
        (rs2 = 0 || (if (s.x rs2).toNat.testBit 20 then e.tag == .pasid ((s.x rs2).toNat % 2 ^ 20)
          else e.tag == .asid ((s.x rs2).toNat % 65536))))) ∧ t.mem = s.mem ∧ t.me.x = s.me.x := by
  refine completes_of_retire (exec_sfenceVma hpriv hatom rs1 rs2) (coreDrop_hart (·.pc) (fun _ _ => rfl) _ _ _)
    (coreDrop_keep State.ilen (fun _ _ _ => rfl) _ _ _) ⟨?_, coreDrop_keep State.mem (fun _ _ _ => rfl) _ _ _, ?_⟩
  · refine (coreDrop_keep (fun t => t.xlat.tlb) (fun _ _ _ => rfl) _ _ _).trans (List.filter_congr fun e _ => ?_)
    dsimp only
    rw [sfenceHits_operands, Bool.and_assoc]
  · rw [State.me_retire]
    exact coreDrop_hart (·.x) (fun _ _ => rfl) _ _ _

/-- Settles O35: each instruction reaches its location, or traps, and does there what its row says. -/
theorem scalarAtomicsAndReservations : Obligations.ScalarAtomicsAndReservations := by
  unfold Obligations.ScalarAtomicsAndReservations
  refine ⟨fun s0 u aq rl f3 rd rs1 rs2 loc hf hal => ?_, fun s0 aq rl f3 rd rs1 rs2 hf hmis => ?_, fun s => ⟨rfl, fun h => ?_, ?_⟩,
    fun s0 u f5 aq rl f3 rd rs1 rs2 loc hwf hal => ?_, fun s rs1 rs2 hpriv hatom => completes_sfenceVma hpriv hatom rs1 rs2⟩
  · intro s
    have hx : s.x rs1 = s0.x rs1 := s0.x_releaseAt _ _
    rw [hx]
    refine ⟨fun hreach hc hnode => ?_, fun hreach hc hnode => exec_sc_of_reaches hf hal aq rl rd rs2 hreach hc hnode,
      fun hreach hc => ?_, fun hreach hc => exec_sc_uncached hf hal aq rl rd rs2 hreach hc⟩
    · intro v hpois w
      have hw : loadValue f3.toNat (v.peek loc (2 ^ f3.toNat)) = w := by
        have hm : f3.toNat % 4 = f3.toNat := by rcases hf with rfl | rfl <;> rfl
        rw [loadValue_eq (by rw [hm]; simp [State.peek]), hm, if_pos (by rcases hf with rfl | rfl <;> decide)]
        rfl
      rw [exec_lr_of_reaches hf hal aq rl rd hreach, hc, if_neg (by simp), if_neg (Nat.not_le.mpr hnode)]
      dsimp only
      rw [if_neg (by rw [hpois]; simp), hw]
    · rw [exec_lr_of_reaches hf hal aq rl rd hreach, hc]
      rfl
  · intro s
    have hx : s.x rs1 = s0.x rs1 := s0.x_releaseAt _ _
    rw [hx]
    constructor
    · show execLr aq rl f3 rd rs1 s0 = _
      rw [execLr, accessBytes_wide hf, if_pos hmis]
    · show execSc aq rl f3 rd rs1 rs2 s0 = _
      rw [execSc, accessBytes_wide hf, if_pos hmis]
  · exact State.releaseAt_eq_self (.inr h)
  · rw [State.releaseAt, if_pos rfl, State.pushPosted_posted]
    simp
  · intro s n w reg hreach mine
    have hx : s.x rs1 = s0.x rs1 := s0.x_releaseAt _ _
    rw [hx] at hreach ⊢
    obtain ⟨hf, hquad⟩ := amoLegal_cases hwf
    have hexec := exec_scalarAmo_of_reaches (f5 := f5) (rd := rd) (rs2 := rs2) aq hf hal hreach
    have hmine : mine = true ↔ isLocal loc = true ∨ u.regionAt loc = none ∧ u.cached loc = true := by simp [mine]
    have hlocal : isLocal loc = true → mine = true := fun h => hmine.mpr (.inl h)
    have hact (hm : mine = true) (hp : u.poisoned loc n = false) : exec (.scalarAmo f5 aq rl f3 rd rs1 rs2) s0 = .next
        ((u.atomicAt (nodeOf u.myCore) loc (amoCode f5.toNat) n (if f5 = 5 then reg rd else (s.x rs2).toNat % 2 ^ w)
          (if f5 = 5 then reg rs2 else 0)).1.amoResult rd n (u.atomicAt (nodeOf u.myCore) loc (amoCode f5.toNat) n
            (if f5 = 5 then reg rd else (s.x rs2).toNat % 2 ^ w) (if f5 = 5 then reg rs2 else 0)).2) := by
      have h1 : ¬ (!isLocal loc && (u.regionAt loc).isSome) = true := by
        rcases hmine.mp hm with h | ⟨h, -⟩ <;> simp [h]
      have h2 : (isLocal loc || u.cached loc) = true := by
        rcases hmine.mp hm with h | ⟨-, h⟩ <;> simp [h]
      exact hexec.trans ((if_neg h1).trans ((if_pos h2).trans (if_neg (by rw [hp]; simp))))
    refine ⟨hact, fun hm hwhy => ?_, fun hm hreg hop => ?_, fun hloc hp => ?_⟩
    · have hl : isLocal loc = false := Bool.eq_false_iff.mpr (mt hlocal (by simp [hm]))
      by_cases hr : (u.regionAt loc).isSome = true
      · exact hexec.trans (if_pos (by simp [hl, hr]))
      · have hc : u.cached loc = false := by
          have := mt hmine.mpr (by simp [hm])
          simpa [hl, Option.not_isSome_iff_eq_none.mp hr] using this
        refine hexec.trans ((if_neg (by simp [hr])).trans ((if_neg (by simp [hl, hc])).trans (if_pos ?_)))
        exact (amoCode_offered f5).mpr (hwhy.resolve_left hr)
    · have hnot := mt hmine.mpr (by simp [hm])
      simp only [hreg, true_and, not_or, Bool.not_eq_true] at hnot
      refine ⟨_, if f5 = 5 then reg rd else (s.x rs2).toNat % 2 ^ w, if f5 = 5 then reg rs2 else 0,
        hexec.trans ((if_neg (by simp [hreg])).trans ((if_neg (by simp [hnot])).trans (if_neg ?_))), ?_, ?_, ?_, rfl⟩
      · rw [amoCode_offered]
        rintro ⟨h0, h1, h5⟩
        exact hop.elim h0 (Or.rec h1 h5)
      · exact congrArg (·.wait) (State.me_wait _ _)
      · exact List.mem_append_right _ (List.mem_singleton_self _)
      · exact (congrArg (·.pc) (State.me_wait _ _)).trans (pc_of_reaches hreach)
    · intro old b new
      have hn : 0 < n := Nat.two_pow_pos _
      have hold : old < 2 ^ (8 * n) := by
        have := leNat_lt (memBytes u.mem loc n)
        rwa [memBytes_length] at this
      have hreg (r : BitVec 5) : reg r < 2 ^ (8 * n) := Nat.lt_of_le_of_lt (Nat.le_of_eq (amoReg_eq s hf r).symm) (Nat.mod_lt _ (Nat.two_pow_pos _))
      have hat := State.atomicAt_local u (nodeOf u.myCore) (amoCode f5.toNat) n (if f5 = 5 then reg rd else b)
        (if f5 = 5 then reg rs2 else 0) hloc
      have hnew := amoOp_amoCode f5 n hn hold b (reg rd) (reg rs2) (Nat.mod_lt _ (Nat.two_pow_pos _)) (hreg rd) (hreg rs2)
      have hexec' := hact (hlocal hloc) hp
      rw [hat] at hexec'
      obtain ⟨hpc, hwait, hmem⟩ := amoResult_keeps (u.pokeN loc n (amoOp (amoCode f5.toNat) n old (if f5 = 5 then reg rd else b)
        (if f5 = 5 then reg rs2 else 0))) rd n old
      refine ⟨_, hexec', ?_, hwait, hmem.trans ?_, fun h4 hrd => ?_, fun h4 => ?_⟩
      · refine hpc.trans ?_
        have hpc' : u.me.pc = s0.me.pc := (pc_of_reaches hreach).trans (by rw [State.me_releaseAt])
        have hilen : u.ilen = s0.ilen := (State.ilen_of_sansTlb (sansTlb_of_reaches hreach)).trans (State.releaseAt_ilen _ _)
        rw [← hpc', ← hilen]
        rfl
      · exact congrArg (fun v => memPutNat loc n v u.mem) hnew
      · subst h4
        exact amoResult_pair (hquad rfl).2 hrd
      · exact amoResult_single (hf.elim .inl fun h => .inr (h.resolve_right h4)) hold

end Sys2Proof.Machine
end

section
/-! PROOF. The matrix engine's ownership, live state and status (O38). -/

namespace Sys2Proof.Machine

open Sys2Proof.Claims

/-! ### The engine after an update -/

@[simp] theorem State.mat_retireX (s : State) (rd : BitVec 5) (v : Word) (ci : Nat) : (s.retireX rd v).mat ci = s.mat ci := rfl
@[simp] theorem State.mat_wait (s : State) (w : Wait) (ci : Nat) : (s.wait w).mat ci = s.mat ci := rfl
@[simp] theorem State.modMat_cur (s : State) (ci : Nat) (f : Matrix → Matrix) : (s.modMat ci f).cur = s.cur := rfl

/-- What an instruction that changes the engine and retires leaves. -/
theorem completes_modMat_retire {i : Instr} {s : State} {f : Matrix → Matrix} {P : State → Prop}
    (hexec : exec i s = .next (s.modMat s.myCore f).retire) (hP : P (s.modMat s.myCore f).retire) : Completes i s P :=
  completes_of_retire hexec (by simp) (by simp) hP

theorem matOwn_iff {s : State} : s.matOwn s.cur = true ↔ (s.mat s.myCore).owner = some s.cur := s.matOwn_cur_iff

theorem matOwn_eq_false {s : State} (h : (s.mat s.myCore).owner ≠ some s.cur) : s.matOwn s.cur = false :=
  Bool.eq_false_iff.mpr (mt matOwn_iff.mp h)

theorem matEn_eq_false {s : State} (h : (s.mat s.myCore).owner ≠ some s.cur ∨ (s.mat s.myCore).en = false) : s.matEn s.cur = false :=
  Bool.eq_false_iff.mpr fun he => by
    obtain ⟨ho, hen⟩ := s.matEn_cur_iff_live.mp he
    rcases h with h | h
    · exact h ho
    · rw [hen] at h; cases h

/-! ### mclaim -/

/-- The engine is the hart's turn to take (R307). -/
theorem matTurn_iff (s : State) : s.matTurn s.cur = true ↔ (s.mat s.myCore).owner = none ∧ (s.mat s.myCore).resv = none ∧
    s.slotsBusy s.myCore = false ∧ ∀ w, (s.matWaiters s.myCore).head? = some w → w = s.cur := by
  have hcore : coreOf s.cur = s.myCore := rfl
  rw [State.matTurn, State.matFree, hcore]
  cases s.matWaiters s.myCore <;> simp [and_assoc]

theorem exec_mclaim (rd : BitVec 5) (s : State) : exec (.mclaim rd) s =
    if s.matOwn s.cur then .next (s.retireX rd 1)
    else if s.matTurn s.cur then .next ((s.matTake s.cur false).retireX rd 1)
    else if s.me.timedOut then .next (s.retireX rd 0)
    else .next (s.matWait .matrix) := rfl

theorem mat_matTake (s : State) (en : Bool) : (s.matTake s.cur en).mat s.myCore =
    { s.mat s.myCore with owner := some s.cur, en := en, waiters := (s.mat s.myCore).waiters.filter (· != s.cur) } :=
  s.mat_modMat_self s.myCore fun m => { m with owner := some s.cur, en := en, waiters := m.waiters.filter (· != s.cur) }

theorem mat_matWait (s : State) (w : Wait) : (s.matWait w).mat s.myCore =
    { s.mat s.myCore with
      waiters := (if (s.matWaiters s.myCore).contains s.cur then s.matWaiters s.myCore else s.matWaiters s.myCore ++ [s.cur]) } :=
  s.mat_modMat_self s.myCore fun m =>
    { m with waiters := (if (s.matWaiters s.myCore).contains s.cur then s.matWaiters s.myCore else s.matWaiters s.myCore ++ [s.cur]) }

theorem cur_mem_waiters (s : State) (w : Wait) : s.cur ∈ ((s.matWait w).mat s.myCore).waiters := by
  rw [mat_matWait]
  dsimp only
  split
  · next h => simpa using h
  · simp

/-! ### mrel, menable, mdisable -/

theorem exec_mrel (s : State) : exec .mrel s =
    if s.matEn s.cur then .next (s.matFault 3)
    else if !s.matOwn s.cur then .next s.retire
    else if s.slotCopies s.cur || !s.me.biq.isEmpty then .next (s.wait .commands)
    else .next (s.matRelease s.myCore).retire := rfl

theorem exec_mdisable (s : State) : exec .mdisable s =
    if !s.matEn s.cur then .next s.retire
    else if s.matPending s.cur ≠ 0 || s.slotCopies s.cur || !s.me.biq.isEmpty then .next (s.wait .commands)
    else .next (s.modMat s.myCore fun m => { m with en := false }).retire := rfl

theorem exec_menable (s : State) : exec .menable s = s.matCheck true false none
    (if s.matEn s.cur then .next s.retire
     else .next ((s.modMat s.myCore fun m => m.enable (s.pasidOf s.cur)).modMe fun h => h.setCs csrMcfg 0xFFFFFFFFFF).retire) := rfl

theorem matCheck_of_owner {s : State} (h : s.matOwn s.cur = true) (k : Out) : s.matCheck true false none k = k := by
  simp [State.matCheck, h]

/-- What `menable` makes of the engine (R303, R309). -/
theorem Matrix.enable_fields (m : Matrix) (pasid : Nat) : (m.enable pasid).en = true ∧ (m.enable pasid).owner = m.owner ∧
    (m.enable pasid).erows = [] ∧ (m.enable pasid).ecols = [] ∧ (m.enable pasid).last = some pasid ∧
    (if m.last = some pasid then (m.enable pasid).cells = m.cells ∧ (m.enable pasid).slots = m.slots
      else (m.enable pasid).cells = [] ∧ (m.enable pasid).slots = []) := by
  unfold Matrix.enable
  by_cases h : m.last = some pasid
  · simp only [if_pos h]; exact ⟨trivial, trivial, trivial, trivial, trivial, trivial, trivial⟩
  · simp only [if_neg h]; exact ⟨trivial, trivial, trivial, trivial, trivial, trivial, trivial⟩

/-- `mcfg` of a hart that owns a live engine and has every mask set (R302). -/
theorem mcfg_of_live {s : State} (hlive : Live s) (hcs : s.me.cs csrMcfg = 0xFFFFFFFFFF) : s.mcfg s.cur = 0x3FFFFFFFFFF := by
  obtain ⟨ho, hen⟩ := hlive
  have hcs' : (s.hart s.cur).cs csrMcfg = 0xFFFFFFFFFF := hcs
  have ho' : (s.core (coreOf s.cur)).mat.owner = some s.cur := ho
  have hen' : (s.core (coreOf s.cur)).mat.en = true := hen
  rw [State.mcfg, hcs', ho', hen']
  simp

/-! ### mstat -/

theorem exec_mstatStatus (rd rs1 : BitVec 5) (s : State) : exec (.mstatStatus rd rs1) s =
    if (s.x rs1).toNat = 0 then .next (s.retireX rd s.matStatus) else .next (s.matFault 4) := rfl

theorem exec_mstatDrain (rd rs1 : BitVec 5) (s : State) : exec (.mstatDrain rd rs1) s =
    if (s.x rs1).toNat ≠ 1 then .next (s.matFault 4)
    else if s.matPending s.cur ≠ 0 then .next (s.wait .commands)
    else .next (s.retireX rd s.matStatus) := rfl

theorem exec_mstatEdge (rd rs1 : BitVec 5) (s : State) : exec (.mstatEdge rd rs1) s =
    if !s.matEn s.cur then .next (s.matFault 2)
    else if (s.x rs1).toNat < 2 ∨ 9 < (s.x rs1).toNat then .next (s.matFault 4)
    else
      let e := tget (64, 32) (s.mat s.myCore).issuedEdge ((s.x rs1).toNat - 2)
      .next (s.retireX rd (BitVec.ofNat 64 (e.1 + 256 * e.2))) := rfl

/-- Settles O38, by the checks of each instruction. -/
theorem matrixOwnershipAndStatus : Obligations.MatrixOwnershipAndStatus := by
  unfold Obligations.MatrixOwnershipAndStatus
  refine ⟨fun s rd => ?_, fun s => ?_, fun s rd rs1 => ?_⟩
  · intro m
    refine ⟨fun ho => ?_, ?_⟩
    · rw [exec_mclaim, if_pos (matOwn_iff.mpr ho)]
    · intro turn
      have hturn : s.matTurn s.cur = true ↔ turn := matTurn_iff s
      refine ⟨fun ht => ?_, fun ht ho hto => ?_, fun ht ho hto => ?_⟩
      · have hno : m.owner ≠ some s.cur := by rw [ht.1]; simp
        have hexec := exec_mclaim rd s
        rw [matOwn_eq_false hno, if_neg (by simp), if_pos (hturn.mpr ht)] at hexec
        refine completes_of_retireX hexec rfl rfl ?_
        rw [State.mat_retireX, mat_matTake]
        exact ⟨rfl, rfl, rfl, State.retireX_xr_self _ rd 1⟩
      · have hexec := exec_mclaim rd s
        rw [matOwn_eq_false ho, if_neg (by simp), if_neg (mt hturn.mp ht), hto, if_neg (by simp)] at hexec
        refine ⟨_, hexec, by simp [State.matWait], cur_mem_waiters s _, ?_, by simp [State.matWait]⟩
        rw [mat_matWait]
      · rw [exec_mclaim, matOwn_eq_false ho, if_neg (by simp), if_neg (mt hturn.mp ht), if_pos hto]
  · intro m
    refine ⟨fun ho => ⟨?_, ?_, ?_⟩, fun ho hen => ⟨?_, ?_⟩, fun ho hen hsc hb => ?_, fun ho hen hwhy => ?_, fun hl hwhy => ?_,
      fun ho hen => ?_, fun ho hen => ?_, fun hl hp hsc hb => ?_⟩
    · rw [exec_mrel, matEn_eq_false (.inl ho), matOwn_eq_false ho]; rfl
    · rw [exec_mdisable, matEn_eq_false (.inl ho)]; rfl
    · rw [exec_menable, s.matCheck_of_not_owner _ _ _ ho]
    · rw [exec_mrel, if_pos (s.matEn_cur_iff_live.mpr ⟨ho, hen⟩)]; rfl
    · rw [exec_menable, matCheck_of_owner (matOwn_iff.mpr ho), if_pos (s.matEn_cur_iff_live.mpr ⟨ho, hen⟩)]
    · have hexec := exec_mrel s
      rw [matEn_eq_false (.inr hen), matOwn_iff.mpr ho, hsc, hb, if_neg (by simp), if_neg (by simp), if_neg (by simp)] at hexec
      refine completes_modMat_retire hexec ?_
      rw [State.mat_retire, State.mat_modMat_self]
      exact ⟨rfl, rfl, rfl⟩
    · rw [exec_mrel, matEn_eq_false (.inr hen), matOwn_iff.mpr ho, if_neg (by simp), if_neg (by simp), if_pos]
      rcases hwhy with h | h <;> simp [h]
    · rw [exec_mdisable, s.matEn_cur_iff_live.mpr hl, if_neg (by simp), if_pos]
      rcases hwhy with h | h | h <;> simp [h]
    · rw [exec_mdisable, matEn_eq_false (.inr hen)]; rfl
    · have hexec := exec_menable s
      rw [matCheck_of_owner (matOwn_iff.mpr ho), matEn_eq_false (.inr hen), if_neg (by simp)] at hexec
      obtain ⟨hen', ho', hr, hc, hlast, hcells⟩ := m.enable_fields (s.pasidOf s.cur)
      have hmat : (((s.modMat s.myCore fun m => m.enable (s.pasidOf s.cur)).modMe fun h => h.setCs csrMcfg 0xFFFFFFFFFF).retire).mat s.myCore =
          m.enable (s.pasidOf s.cur) := s.mat_modMat_self s.myCore fun m => m.enable (s.pasidOf s.cur)
      refine completes_of_retire hexec (by simp) (by simp) ?_
      intro m'
      have hm' : m' = m.enable (s.pasidOf s.cur) := hmat
      rw [hm']
      refine ⟨hen', ho'.trans ho, fun k _ => ⟨by simp [Matrix.rows, hr, tget], by simp [Matrix.cols, hc, tget]⟩, ?_, hlast, hcells⟩
      refine mcfg_of_live ⟨(congrArg (·.owner) hmat).trans (ho'.trans ho), (congrArg (·.en) hmat).trans hen'⟩ ?_
      rw [cs_retire_of_ne _ (by decide), State.me_modMe, Hart.cs_setCs, if_pos rfl]
    · have hexec := exec_mdisable s
      rw [s.matEn_cur_iff_live.mpr hl, hp, hsc, hb, if_neg (by simp), if_neg (by simp)] at hexec
      refine completes_modMat_retire hexec ?_
      rw [State.mat_retire, State.mat_modMat_self]
      exact ⟨rfl, hl.1, rfl, rfl⟩
  · intro a status
    refine ⟨fun ha => ?_, fun ha => ?_, fun h2 h9 => ?_, fun h9 => ?_⟩
    · rw [exec_mstatStatus, if_pos ha]; rfl
    · rw [exec_mstatDrain, if_neg (not_not_intro ha)]
      by_cases hp : s.matPending s.cur = 0
      · rw [if_neg (not_not_intro hp), if_pos hp]; rfl
      · rw [if_pos hp, if_neg hp]
    · rw [exec_mstatEdge]
      cases hen : s.matEn s.cur
      · rfl
      · rw [if_neg (by simp), if_neg (by omega)]; rfl
    · have hrow : s.selectRow (.mstatStatus rd rs1) = .mstatStatus rd rs1 := by
        show mstatRow rd rs1 a = _
        rw [mstatRow, if_neg (by omega), if_neg (by omega)]
      rw [hrow, exec_mstatStatus, if_neg (show a ≠ 0 by omega)]; rfl

end Sys2Proof.Machine
end

section
/-! PROOF. The matrix commands `medge` and `mop` (O39). -/

namespace Sys2Proof.Machine

open Sys2Proof.Claims

/-! ### Issue -/

theorem exec_medge (t : BitVec 3) (rs1 rs2 : BitVec 5) (s : State) : exec (.medge t rs1 rs2) s =
    let r := (s.x rs1).toNat
    let c := (s.x rs2).toNat
    s.matCheck true true (if r = 0 ∨ 64 < r ∨ c = 0 ∨ 32 < c then some 4 else none)
      (match s.matIssue (.edge t.toNat r c) with
       | .next s' =>
         if s'.me.wait.isSome then .next s'
         else .next (s'.modMat s.myCore fun m => { m with issuedEdge := tset t.toNat (r, c) m.issuedEdge })
       | o => o) := rfl

theorem exec_mop (fmt : BitVec 3) (i32 : BitVec 1) (t : BitVec 3) (rs1 : BitVec 5) (s : State) : exec (.mop fmt i32 t rs1) s =
    s.matCheck true true (if opBad fmt.toNat (i32 == 1) (s.x rs1).toNat then some 4 else none)
      (s.matIssue (.op fmt.toNat (i32 == 1) t.toNat (s.x rs1))) := rfl

theorem matCheck_of_bad {s : State} (hl : Live s) (r : Nat) (k : Out) : s.matCheck true true (some r) k = .next (s.matFault r) := by
  simp [State.matCheck, matOwn_iff.mpr hl.1, s.matEn_cur_iff_live.mpr hl]

/-- With room in the queue the command enters it and the instruction retires (R306). -/
theorem matIssue_of_room {s : State} (c : MatCmd) (h : (s.mat s.myCore).queue.length < 16) : ∃ u, s.matIssue c = .next u ∧
    u.me.pc = s.me.pc + BitVec.ofNat 64 s.ilen ∧ u.me.wait = none ∧ Queued s c u :=
  ⟨_, if_neg (Nat.not_le.mpr h), by simp, by simp, by simp [Queued]⟩

/-- The group size and the greatest K of each format (R317). -/
theorem opGroup_eq : ∀ fmt < 8, opGroup fmt = if fmt = 0 ∨ fmt = 1 then 1 else if fmt = 6 then 4 else 2 := by decide

theorem kmaxA_eq : ∀ fmt < 8, kmaxA fmt = if fmt ≤ 1 then 128 else if fmt = 4 ∨ fmt = 5 then 320 else if fmt = 6 then 512 else 256 := by decide

theorem kmaxB_eq : ∀ fmt < 8, kmaxB fmt = if fmt ≤ 1 then 256 else if fmt = 4 ∨ fmt = 5 then 672 else if fmt = 6 then 1024 else 512 := by decide

/-- The limits of R317. -/
theorem opBad_iff {fmt : Nat} (hf : fmt < 8) (i32 : Bool) (w : Nat) : opBad fmt i32 w = true ↔ MopRefused fmt i32 w := by
  have h15 : w.testBit 15 = true ↔ w / 2 ^ 15 % 2 ≠ 0 := by rw [Nat.testBit_eq_decide_div_mod_eq, decide_eq_true_eq]; omega
  have h46 : w >>> 46 ≠ 0 ↔ 2 ^ 46 ≤ w := by rw [Nat.shiftRight_eq_div_pow]; omega
  simp only [opBad, MopRefused, opWord, bits_eq, Bool.or_eq_true, Bool.and_eq_true, decide_eq_true_eq, bne_iff_ne, beq_iff_eq, or_assoc,
    h15, h46, opGroup_eq fmt hf, kmaxA_eq fmt hf, kmaxB_eq fmt hf, ne_eq, Nat.lt_succ_iff (n := 1)] <;> rfl

/-! ### Cells -/

theorem cellPlace_inj {t u r r' c c' : Nat} (hr : r < 64) (hr' : r' < 64) (hc : c < 32) (hc' : c' < 32)
    (h : u * 2048 + 32 * r' + c' = t * 2048 + 32 * r + c) : u = t ∧ r' = r ∧ c' = c := by omega

theorem tget_tdel {α : Type} (d : α) (k j : Nat) (t : Tab α) : tget d (tdel k t) j = if j = k then d else tget d t j := by
  split
  · next h => rw [h, tget_tdel_self]
  · next h => exact tget_tdel_ne d t h

theorem Matrix.cell_setCell (m : Matrix) {t u r r' c c' : Nat} (v : BitVec 32) (hr : r < 64) (hr' : r' < 64) (hc : c < 32) (hc' : c' < 32) :
    (m.setCell t r c v).cell u r' c' = if u = t ∧ r' = r ∧ c' = c then v else m.cell u r' c' := by
  have hk : u * 2048 + 32 * r' + c' = t * 2048 + 32 * r + c ↔ u = t ∧ r' = r ∧ c' = c :=
    ⟨cellPlace_inj hr hr' hc hc', by rintro ⟨rfl, rfl, rfl⟩; rfl⟩
  rw [Matrix.cell, Matrix.setCell]
  dsimp only
  split
  · next hv =>
    subst hv
    rw [tget_tdel, ← Matrix.cell]
    simp only [hk]
  · rw [tget_tset, ← Matrix.cell]
    simp only [hk]

/-- Cells written back: the listed ones take their values (R318). -/
theorem Matrix.cell_writeBack (f : Nat → Nat → BitVec 32) (t : Nat) (l : List (Nat × Nat)) (hl : ∀ p ∈ l, p.1 < 64 ∧ p.2 < 32) (m : Matrix)
    (u : Nat) {r c : Nat} (hr : r < 64) (hc : c < 32) :
    (m.writeBack t (l.map fun p => (32 * p.1 + p.2, f p.1 p.2))).cell u r c = if u = t ∧ (r, c) ∈ l then f r c else m.cell u r c := by
  induction l generalizing m with
  | nil => simp [Matrix.writeBack]
  | cons p l ih =>
    obtain ⟨hp1, hp2⟩ := hl p (List.mem_cons_self)
    have hdiv : (32 * p.1 + p.2) / 32 = p.1 := by omega
    have hmod : (32 * p.1 + p.2) % 32 = p.2 := by omega
    have hstep : m.writeBack t ((p :: l).map fun p => (32 * p.1 + p.2, f p.1 p.2)) =
        (m.setCell t p.1 p.2 (f p.1 p.2)).writeBack t (l.map fun p => (32 * p.1 + p.2, f p.1 p.2)) := by
      rw [Matrix.writeBack, List.map_cons, List.foldl_cons, hdiv, hmod]; rfl
    rw [hstep, ih (fun q hq => hl q (List.mem_cons_of_mem _ hq)), Matrix.cell_setCell m _ hp1 hr hp2 hc]
    by_cases hm : u = t ∧ (r, c) ∈ l
    · rw [if_pos hm, if_pos ⟨hm.1, List.mem_cons_of_mem _ hm.2⟩]
    · rw [if_neg hm]
      obtain ⟨p1, p2⟩ := p
      by_cases he : u = t ∧ r = p1 ∧ c = p2
      · obtain ⟨rfl, rfl, rfl⟩ := he
        rw [if_pos ⟨rfl, rfl, rfl⟩, if_pos ⟨rfl, List.mem_cons_self⟩]
      · rw [if_neg he, if_neg]
        rintro ⟨hu, hrc⟩
        rcases List.mem_cons.mp hrc with h | h
        · cases h; exact he ⟨hu, rfl, rfl⟩
        · exact hm ⟨hu, h⟩

/-- The places inside the edge of a tile. -/
def edgePlaces (rows cols : Nat) : List (Nat × Nat) := (List.range rows).flatMap fun r => (List.range cols).map fun c => (r, c)

theorem mem_edgePlaces {rows cols r c : Nat} : (r, c) ∈ edgePlaces rows cols ↔ r < rows ∧ c < cols := by
  simp [edgePlaces]

theorem mopCells_eq (m : Matrix) (fmt : Nat) (i32 : Bool) (t : Nat) (w : Word) : m.mopCells fmt i32 t w =
    (edgePlaces (m.rows t) (m.cols t)).map fun p => (32 * p.1 + p.2, m.mopCell fmt i32 t w p.1 p.2) := by
  rw [Matrix.mopCells, edgePlaces, List.map_flatMap]
  simp only [List.map_map, Function.comp_def]

/-- A `mop` that has read and then written: the cells inside the edge take their values (R318, R327). -/
theorem Matrix.cell_start_run (m : Matrix) (fmt : Nat) (i32 : Bool) (t : Nat) (w : Word) (u : Nat) {r c : Nat} (hrows : m.rows t ≤ 64)
    (hcols : m.cols t ≤ 32) (hr : r < 64) (hc : c < 32) :
    ((m.start (.op fmt i32 t w)).run (.op fmt i32 t w)).cell u r c =
      if u = t ∧ r < m.rows t ∧ c < m.cols t then m.mopCell fmt i32 t w r c else m.cell u r c := by
  have hrun : ((m.start (.op fmt i32 t w)).run (.op fmt i32 t w)).cell u r c =
      ((m.start (.op fmt i32 t w)).writeBack t (m.mopCells fmt i32 t w)).cell u r c := rfl
  have hin : ∀ p ∈ edgePlaces (m.rows t) (m.cols t), p.1 < 64 ∧ p.2 < 32 := fun p hp => by
    obtain ⟨h1, h2⟩ := mem_edgePlaces.mp hp
    exact ⟨Nat.lt_of_lt_of_le h1 hrows, Nat.lt_of_lt_of_le h2 hcols⟩
  rw [hrun, mopCells_eq, Matrix.cell_writeBack (m.mopCell fmt i32 t w) t _ hin _ u hr hc]
  simp only [mem_edgePlaces]
  rfl

/-! ### Values -/

theorem elem_lt (m : Matrix) (slot rb r i : Nat) : m.elem 7 slot rb r i < 2 ^ 8 := Nat.mod_lt _ (by decide)

/-- Two INT8 terms: the sum modulo 2^32 (R318). -/
theorem mopCell_int (m : Matrix) (t : Nat) (w : Word) (r c : Nat) (hk : w.toNat / 2 ^ 16 % 1024 = 2) :
    let o := opWord w.toNat
    let p (j : Nat) : Int := sint 8 (m.elem 7 o.as 64 (o.ak0 + j) r) * sint 8 (m.elem 7 o.bs 32 (o.bk0 + j) c)
    (m.mopCell 7 true t w r c).toNat = (((m.cell t r c).toNat + (p 0 + p 1)) % (2 ^ 32 : Nat)).toNat := by
  intro o p
  have hok : o.k = 2 := (bits_eq _ 16 10).trans hk
  have hcell : m.mopCell 7 true t w r c = BitVec.ofNat 32 (m.groupI o r c 0 (m.cell t r c).toNat) := by
    show BitVec.ofNat 32 ((List.range (o.k / 2)).foldl _ _) = _
    rw [hok]; rfl
  have hgroup : m.groupI o r c 0 (m.cell t r c).toNat = (((m.cell t r c).toNat + (p 0 + p 1)) % (2 ^ 32 : Nat)).toNat := by
    have hp (j : Nat) : signed (m.elem 7 o.as 64 (o.ak0 + 0 + j) r) 8 * signed (m.elem 7 o.bs 32 (o.bk0 + 0 + j) c) 8 = p j := by
      rw [signed_eq_sint (by decide) (elem_lt _ _ _ _ _), signed_eq_sint (by decide) (elem_lt _ _ _ _ _)]
      rfl
    rw [Matrix.groupI]
    simp only [hp]
    show (((m.cell t r c).toNat + (p 0 + (p 1 + 0)) : Int) % (2 ^ 32 : Nat)).toNat = _
    rw [Int.add_zero]
  rw [hcell, hgroup, BitVec.toNat_ofNat]
  omega

/-- One term of FP16 or BF16: the product added to the cell and rounded once (R318). -/
theorem mopCell_float (m : Matrix) {fmt : Nat} (t : Nat) (w : Word) (r c : Nat) (hf : fmt < 2) (hk : w.toNat / 2 ^ 16 % 1024 = 1) :
    let o := opWord w.toNat
    let f := if fmt = 0 then bf16 else fp16
    let x := f.read false (m.elem fmt o.as 128 o.ak0 r)
    let y := f.read false (m.elem fmt o.bs 64 o.bk0 c)
    (m.mopCell fmt false t w r c).toNat =
      match (FV.mul x y).bind fun p => FV.add 0 (fp32.read false (m.cell t r c).toNat) p with
      | some v => (fp32.rnd rneEnv v).1 % 2 ^ 32
      | none => fp32.nan := by
  have hfmt : fmt = 0 ∨ fmt = 1 := by omega
  intro o f x y
  have hok : o.k = 1 := (bits_eq _ 16 10).trans hk
  have hcell : m.mopCell fmt false t w r c = BitVec.ofNat 32 (m.group fmt o r c 0 (m.cell t r c).toNat) := by
    show BitVec.ofNat 32 ((List.range (o.k / opGroup fmt)).foldl _ _) = _
    rw [hok]
    rcases hfmt with rfl | rfl <;> rfl
  have hprod : m.product fmt o r c 0 = FV.mul x y := by
    rw [Matrix.product]
    rcases hfmt with rfl | rfl <;> rfl
  have hgroup : m.group fmt o r c 0 (m.cell t r c).toNat =
      match (FV.mul x y).bind fun p => FV.add 0 (fp32.read false (m.cell t r c).toNat) p with
      | some v => (fp32.rnd rneEnv v).1
      | none => fp32.nan := by
    rw [← hprod]
    rcases hfmt with rfl | rfl <;> rfl
  rw [hcell, hgroup, BitVec.toNat_ofNat]
  cases (FV.mul x y).bind fun p => FV.add 0 (fp32.read false (m.cell t r c).toNat) p <;> rfl

/-! ### The oldest command -/

theorem exec_matrixCmdRetire_of_queue {s : State} {ci h q : Nat} {c : MatCmd} {rest : List (Nat × Nat × MatCmd)}
    (hev : s.ev = .matrixCmdRetire ci) (hqueue : (s.mat ci).queue = (h, q, c) :: rest) : exec .matrixCmdRetire s =
      if s.heldBack h strM q then .next (s.due [.matrixCmdRetire ci])
      else if (s.mat ci).reads c then .next ((s.modMat ci fun m => m.start c).due [.matrixCmdRetire ci])
      else .next (s.modMat ci fun m => { m.run c with queue := rest }) := by
  have hready : s.matReady ci = !s.heldBack h strM q := by simp [State.matReady, hqueue]
  show execMatrixCmdRetire s = _
  rw [execMatrixCmdRetire, hev]
  simp only [hqueue, hready, Bool.not_not]

theorem edge_legal {r c : Nat} (hr : 1 ≤ r) (hr' : r ≤ 64) (hc : 1 ≤ c) (hc' : c ≤ 32) : ¬ (r = 0 ∨ 64 < r ∨ c = 0 ∨ 32 < c) := by omega

/-- Settles O39: the checks of R305 and the queue decide the issue; a cell of the tile is read back from what the command wrote. -/
theorem matrixCommands : Obligations.MatrixCommands := by
  unfold Obligations.MatrixCommands
  refine ⟨fun s t rs1 rs2 => ?_, fun s fmt i32 t rs1 => ⟨fun hl hok hroom => ?_, fun hl hok hfull => ?_, fun hl hbad => ?_,
    fun ho => s.matCheck_of_not_owner true _ _ ho, fun ho hen => s.matCheck_of_not_enabled _ _ ho hen⟩,
    fun m t r c => ⟨by simp [Matrix.run, Matrix.rows], by simp [Matrix.run, Matrix.cols], rfl, fun u hu => ⟨?_, ?_⟩⟩,
    fun s ci h q c rest hev hqueue => ⟨fun hheld => ?_, fun hheld hreads => ?_⟩,
    fun m fmt i32 t w u r c hrows hcols hr hc _ _ => m.cell_start_run fmt i32 t w u hrows hcols hr hc,
    fun m t w r c hk => mopCell_int m t w r c hk, fun m fmt t w r c hf hk => mopCell_float m t w r c hf hk⟩
  · intro r c
    have hexec := exec_medge t rs1 rs2 s
    refine ⟨fun hl hr hr' hc hc' hroom => ?_, fun hl hr hr' hc hc' hfull => ?_, fun hl hbad => ?_,
      fun ho => s.matCheck_of_not_owner true _ _ ho, fun ho hen => s.matCheck_of_not_enabled _ _ ho hen⟩
    · obtain ⟨u, hissue, hpc, hwait, hqueue, hcells, hslots, hagenda, hmem, hx⟩ := matIssue_of_room (.edge t.toNat r c) hroom
      dsimp only at hexec
      rw [if_neg (edge_legal hr hr' hc hc'), s.matCheck_of_live _ _ _ hl, hissue] at hexec
      refine ⟨_, hexec.trans (if_neg (by simp [hwait])), hpc, hwait, ⟨?_, ?_, ?_, hagenda, hmem, hx⟩, ?_⟩
      · rw [State.mat_modMat_self]; exact hqueue
      · rw [State.mat_modMat_self]; exact hcells
      · rw [State.mat_modMat_self]; exact hslots
      · rw [State.mat_modMat_self]; exact tget_tset_self _ _ _ _
    · dsimp only at hexec
      rw [if_neg (edge_legal hr hr' hc hc'), s.matCheck_of_live _ _ _ hl, s.matIssue_of_full _ hfull] at hexec
      exact hexec.trans (if_pos (by simp))
    · dsimp only at hexec
      rw [if_pos hbad, matCheck_of_bad hl] at hexec
      exact hexec
  · refine completes_queued_of_matIssue ?_ hroom
    rw [exec_mop, if_neg (mt (opBad_iff fmt.isLt _ _).mp hok), s.matCheck_of_live _ _ _ hl]
  · rw [exec_mop, if_neg (mt (opBad_iff fmt.isLt _ _).mp hok), s.matCheck_of_live _ _ _ hl, s.matIssue_of_full _ hfull]
  · rw [exec_mop, if_pos ((opBad_iff fmt.isLt _ _).mpr hbad), matCheck_of_bad hl]
    rfl
  · exact tget_tset_ne _ _ _ hu
  · exact tget_tset_ne _ _ _ hu
  · rw [exec_matrixCmdRetire_of_queue hev hqueue, if_pos hheld]
  · refine ⟨_, (exec_matrixCmdRetire_of_queue hev hqueue).trans ((if_neg (by simp [hheld])).trans (if_pos hreads)), ?_, rfl, rfl, rfl⟩
    rw [State.mat_due, State.mat_modMat_self]

end Sys2Proof.Machine
end

section
/-! PROOF. Copies are issued, moved and landed (O40). -/

namespace Sys2Proof.Machine

open Sys2Proof.Claims

/-! ### Issue -/

/-- The state in which a copy has entered the table (R285, R291, R293). -/
def State.copyIssued (s : State) (c : Copy) : State :=
  let u := (({ s with copies := tset c.stamp c s.copies, tqe := { s.tqe with stamp := s.tqe.stamp + 1 } }.due
    ((List.range c.chunks).map (.copyChunkExecute c.stamp))).modMe fun h => { h with seq := h.seq + 1, ctag := (h.ctag + 1) % 65536 })
  if c.acq then u.hold 0 31 (some (2 * c.stamp)) else u

theorem issueCopy_eq (s : State) (two : Bool) (rd rs1 rs2 rs3 : BitVec 5) : s.issueCopy two rd rs1 rs2 rs3 =
    let c := s.newCopy two (s.x rs1) (s.x rs2) (s.x rs3)
    if s.copyBad two (s.x rs3) c then .next (s.cmdFault 0)
    else if 16 ≤ s.openCopies s.cur then .next (s.wait .commands)
    else .next ((s.copyIssued c).retireX rd (BitVec.ofNat 64 c.tag)) := rfl

theorem copyIssued_keeps (s : State) (c : Copy) : (s.copyIssued c).me.pc = s.me.pc ∧ (s.copyIssued c).ilen = s.ilen ∧
    (s.copyIssued c).me.ctag = (s.me.ctag + 1) % 65536 ∧ (s.copyIssued c).copies = tset c.stamp c s.copies ∧
    (s.copyIssued c).agenda = s.agenda ++ (List.range c.chunks).map (.copyChunkExecute c.stamp) ∧ (s.copyIssued c).mem = s.mem := by
  rw [State.copyIssued]
  dsimp only
  split
  · simp only [State.hold, State.me_modMe]
    exact ⟨rfl, rfl, rfl, rfl, rfl, rfl⟩
  · simp only [State.me_modMe]
    exact ⟨rfl, rfl, rfl, rfl, rfl, rfl⟩

@[simp] theorem Hart.setX_ctag (h : Hart) (r : Nat) (v : Word) : (h.setX r v).ctag = h.ctag := by
  unfold Hart.setX; split <;> rfl

theorem exec_cpy (two : Bool) (rd rs1 rs2 rs3 : BitVec 5) (s : State) :
    exec (if two then .cpy2 rd rs1 rs2 rs3 else .cpy rd rs1 rs2 rs3) s = s.issueCopy two rd rs1 rs2 rs3 := by
  cases two <;> rfl

/-! ### Chunks -/

theorem exec_copyChunkExecute_of_running {s : State} {id k : Nat} {c : Copy} (hev : s.ev = .copyChunkExecute id k)
    (hlook : s.copies.lookup id = some c) (hrun : c.state = .running) (hcode : c.code = 0) (hnew : k ∉ c.started) :
    exec .copyChunkExecute s = if s.chunkReady id k then .next (s.moveChunk id k c) else .next (s.due [.copyChunkExecute id k]) := by
  have hgo : (c.state != .running || c.code != 0 || c.started.contains k) = false := by simp [hrun, hcode, hnew]
  show execCopyChunkExecute s = _
  rw [execCopyChunkExecute, hev]
  simp only [hlook, hgo, Bool.false_eq_true, if_false]

/-- A chunk whose source is translated, meets no poison and crosses no link that retrains. -/
theorem moveChunk_of_source {s s2 : State} {id k : Nat} {c : Copy} {src : List (Nat × Nat)}
    (hsrc : let u := (s.releaseAt (if c.rel then 4 else 0)).chunkUnit c k
      State.pieceLocs (c.cx u.2) .load ((c.pieces k).map fun p => (p.1, p.2.2)) u.1 = (s2, .ok src))
    (hpois : (src.foldl (fun s p => s.loadLines noNode p.1 p.2) s2).poisonAt src = none)
    (hstuck : ∀ p ∈ src, (src.foldl (fun s p => s.loadLines noNode p.1 p.2) s2).stuck (dieOf c.core) p.1 p.2 = false) :
    s.moveChunk id k c =
      let u := (s.releaseAt (if c.rel then 4 else 0)).chunkUnit c k
      let s3 := src.foldl (fun s p => s.loadLines noNode p.1 p.2) s2
      let bytes := (src.map fun p => memBytes s3.mem p.1 p.2).flatten
      let moved (t : State) := (t.modCopy id fun c => { c with started := k :: c.started }).due [.chunkLand id k]
      match c.slot with
      | some n => moved (s3.modMat c.eng fun m => m.setSlot n (c.dst.toNat + k * 512) bytes)
      | none =>
        match State.pieceLocs (c.cx u.2) .store ((c.pieces k).map fun p => (p.2.1, p.2.2)) s3 with
        | (s, .error (t, va)) => s.chunkFault id k (copyCode true false t) va
        | (s, .ok dst) => if dst.any fun p => s.stuck (dieOf c.core) p.1 p.2 then s.due [.copyChunkExecute id k] else
            moved (s.writeLocs dst bytes) := by
  dsimp only at hsrc
  have hlate : (src.any fun p => (src.foldl (fun s p => s.loadLines noNode p.1 p.2) s2).stuck (dieOf c.core) p.1 p.2) = false := by
    simpa using hstuck
  rw [State.moveChunk]
  dsimp only
  rw [hsrc]
  dsimp only
  rw [hpois]
  dsimp only
  exact if_neg (by rw [show (c.cx _).die = dieOf c.core from rfl, hlate]; simp)

/-! ### Slot bytes -/

theorem Matrix.byte_setSlot (n n' o' : Nat) (hn' : o' < 16384) (bs : List Byte) (o : Nat) (m : Matrix) (ho : o + bs.length ≤ 16384) :
    (m.setSlot n o bs).byte n' o' = if n' = n ∧ o ≤ o' ∧ o' < o + bs.length then (bs.getD (o' - o) 0).toNat else m.byte n' o' := by
  induction bs generalizing o m with
  | nil => exact (if_neg (by simp)).symm
  | cons b bs ih =>
    rw [List.length_cons] at ho
    rw [Matrix.setSlot, ih (o + 1) _ (by omega)]
    have hkey : n' * 16384 + o' = n * 16384 + o ↔ n' = n ∧ o' = o := by omega
    have hfirst : ({ m with slots := if b = 0 then tdel (n * 16384 + o) m.slots else tset (n * 16384 + o) b m.slots } : Matrix).byte n' o' =
        if n' = n ∧ o' = o then b.toNat else m.byte n' o' := by
      rw [Matrix.byte]
      dsimp only
      by_cases hb : b = 0
      · rw [if_pos hb, tget_tdel, hb]
        simp only [hkey]
        split <;> rfl
      · rw [if_neg hb, tget_tset]
        simp only [hkey]
        split <;> rfl
    rw [hfirst]
    by_cases hn : n' = n
    · by_cases heq : o' = o
      · rw [if_neg (by omega), if_pos ⟨hn, heq⟩, if_pos (by simp only [List.length_cons]; omega), heq, Nat.sub_self]
        rfl
      · rw [if_neg (fun h : n' = n ∧ o' = o => heq h.2)]
        by_cases hin : o + 1 ≤ o' ∧ o' < o + 1 + bs.length
        · rw [if_pos ⟨hn, hin⟩, if_pos (by simp only [List.length_cons]; omega), show o' - o = (o' - (o + 1)) + 1 by omega,
            List.getD_cons_succ]
        · rw [if_neg (fun h => hin h.2), if_neg (by simp only [List.length_cons]; omega)]
    · rw [if_neg (fun h => hn h.1), if_neg (fun h => hn h.1), if_neg (fun h => hn h.1)]

/-! ### Landing -/

theorem exec_chunkLand_of_started {s : State} {id k : Nat} {c : Copy} (hev : s.ev = .chunkLand id k) (hlook : s.copies.lookup id = some c)
    (hst : k ∈ c.started) (hnew : k ∉ c.landed) : exec .chunkLand s = .next (s.landChunk id k c) := by
  show execChunkLand s = _
  rw [execChunkLand, hev]
  simp only [hlook]
  rw [if_pos (by simp [hst, hnew])]

theorem modCopy_of_lookup {s : State} {id : Nat} {c : Copy} (h : s.copies.lookup id = some c) (f : Copy → Copy) :
    s.modCopy id f = { s with copies := tset id (f c) s.copies } := by
  rw [State.modCopy, h]

theorem modCopy_of_lookup_none {s : State} {id : Nat} (h : s.copies.lookup id = none) (f : Copy → Copy) : s.modCopy id f = s := by
  rw [State.modCopy, h]

/-- Changing copies leaves memory, harts and every other copy; an identifier that names none still names none. -/
theorem modCopy_keeps (s : State) (j : Nat) (f : Copy → Copy) : (s.modCopy j f).mem = s.mem ∧ (s.modCopy j f).harts = s.harts ∧
    ∀ id, s.copies.lookup id = none → (s.modCopy j f).copies.lookup id = none := by
  rw [State.modCopy]
  split
  · next c hc =>
    refine ⟨rfl, rfl, fun id hid => ?_⟩
    have hne : id ≠ j := by rintro rfl; rw [hid] at hc; cases hc
    exact (lookup_tset_ne _ _ hne).trans hid
  · exact ⟨rfl, rfl, fun _ h => h⟩

theorem tableFreed_keeps (s : State) : s.tableFreed.mem = s.mem ∧ s.tableFreed.harts = s.harts ∧
    ∀ id, s.copies.lookup id = none → s.tableFreed.copies.lookup id = none := by
  rw [State.tableFreed]
  split
  · exact ⟨rfl, rfl, fun _ h => h⟩
  · split
    · exact modCopy_keeps s _ _
    · exact ⟨rfl, rfl, fun _ h => h⟩

theorem dropCopy_keeps (s : State) (id : Nat) : (s.dropCopy id).mem = s.mem ∧ (s.dropCopy id).harts = s.harts ∧
    (s.dropCopy id).copies.lookup id = none := by
  rw [State.dropCopy]
  dsimp only
  refine ⟨(tableFreed_keeps _).1, (tableFreed_keeps _).2.1, (tableFreed_keeps _).2.2 id ?_⟩
  exact lookup_tdel_self _ _

/-- A copy without a fault goes on (R294). -/
theorem copyStops_of_code_zero {s : State} {id : Nat} {c : Copy} (h : s.copies.lookup id = some c) (hc : c.code = 0) : s.copyStops id = s := by
  rw [State.copyStops, h]
  simp [hc]

/-- A completion of KIND 0 does nothing (R24). -/
theorem fireOnce_of_kind_zero {c : Nat} (h : cspecKind c = 0) (s : State) (cx : Cx) : s.fireOnce cx c = (s, true) := if_pos h

/-- A landed chunk of a copy without a completion: noted, or with the last one the copy is gone (R288). -/
theorem landChunk_plain {s : State} {id k : Nat} {c : Copy} (hlook : s.copies.lookup id = some c) (hcode : c.code = 0)
    (hkind : cspecKind c.cspec.toNat = 0) : (s.landChunk id k c).mem = s.mem ∧ (s.landChunk id k c).harts = s.harts ∧
      (s.landChunk id k c).copies.lookup id = if c.landed.length + 1 = c.chunks then none else some { c with landed := k :: c.landed } := by
  have hmod := modCopy_of_lookup hlook fun c => { c with landed := k :: c.landed }
  rw [State.landChunk]
  simp only [hkind, if_neg (show ¬(0 = 2) by decide), hmod, fireOnce_of_kind_zero hkind]
  split
  · obtain ⟨hmem, hharts, hnone⟩ := dropCopy_keeps { s with copies := tset id { c with landed := k :: c.landed } s.copies } id
    exact ⟨hmem, hharts, hnone⟩
  · rw [copyStops_of_code_zero (c := { c with landed := k :: c.landed }) (lookup_tset_self _ _ _) hcode]
    exact ⟨rfl, rfl, lookup_tset_self _ _ _⟩

/-- The last chunk lands and the copy fires its completion, once (R288). -/
theorem landChunk_last {s : State} {id k : Nat} {c : Copy} (hkind : cspecKind c.cspec.toNat ≠ 2) (hlast : c.landed.length + 1 = c.chunks) :
    s.landChunk id k c = ((s.modCopy id fun c => { c with landed := k :: c.landed }).fireOnce
      (c.cx (unitStreamer (dieOf c.core * 80 + c.core % 128 % 80))) c.cspec.toNat).1.dropCopy id := by
  rw [State.landChunk]
  rw [if_neg hkind, if_pos hlast, if_neg hkind]

/-- Settles O40: the issue by its checks, a chunk by its way, a landing by whether it is the last. -/
theorem copiesIssueMoveAndLand : Obligations.CopiesIssueMoveAndLand := by
  unfold Obligations.CopiesIssueMoveAndLand
  refine ⟨fun s rd rs1 rs2 rs3 two => ?_, fun s id k c hev hlook hrun hcode hnew => ⟨fun hr => ?_, fun hr src dst s2 s4 => ?_⟩,
    fun m n o bs n' o' _ ho' hlen => Matrix.byte_setSlot n n' o' ho' bs o m hlen,
    fun s id k c hev hlook hst hnew hcode hkind => ⟨_, exec_chunkLand_of_started hev hlook hst hnew, landChunk_plain hlook hcode hkind⟩,
    fun s id k c hev hlook hst hnew _ hkind hlast => ?_⟩
  · intro i c
    have hexec : exec i s = _ := (exec_cpy two rd rs1 rs2 rs3 s).trans (issueCopy_eq s two rd rs1 rs2 rs3)
    refine ⟨fun hbad => hexec.trans (if_pos hbad), fun hok hfull => ?_, fun hok hroom => ?_⟩
    · exact hexec.trans ((if_neg (Bool.eq_false_iff.mp hok)).trans (if_pos hfull))
    · obtain ⟨hpc, hilen, htag, hcopies, hagenda, hmem⟩ := copyIssued_keeps s c
      refine completes_of_retireX (hexec.trans ((if_neg (Bool.eq_false_iff.mp hok)).trans (if_neg (Nat.not_le.mpr hroom)))) hpc hilen
        ⟨State.retireX_xr_self _ rd _, ?_, ?_, rfl, rfl, bits_eq _ 0 32 |>.trans (by simp), ?_, rfl, rfl, rfl, hagenda, hmem⟩
      · simpa [State.retireX] using htag
      · rw [State.retireX_copies, hcopies]
        exact lookup_tset_self _ _ _
      · show (if two then bits _ 0 20 else 1) = _
        rw [bits_eq, Nat.pow_zero, Nat.div_one]
  · rw [exec_copyChunkExecute_of_running hev hlook hrun hcode hnew, hr]
    rfl
  · intro u ps hsrc s3 bytes hpois hstuck moved
    have hmove := moveChunk_of_source (id := id) (k := k) hsrc hpois hstuck
    have hexec := exec_copyChunkExecute_of_running hev hlook hrun hcode hnew
    rw [if_pos hr, hmove] at hexec
    refine ⟨fun n hslot => ?_, fun hslot hdst hstuck' => ?_⟩
    · rw [hexec]
      dsimp only
      rw [hslot]
    · rw [hexec]
      dsimp only
      rw [hslot]
      dsimp only
      have hdst' : State.pieceLocs (c.cx ((s.releaseAt (if c.rel then 4 else 0)).chunkUnit c k).2) .store
        ((c.pieces k).map fun p => (p.2.1, p.2.2)) (src.foldl (fun s p => s.loadLines noNode p.1 p.2) s2) = (s4, .ok dst) := hdst
      rw [hdst']
      dsimp only
      rw [if_neg (by simpa using hstuck')]
  · rw [exec_chunkLand_of_started hev hlook hst hnew, landChunk_last hkind hlast]

end Sys2Proof.Machine
end

section
/-! PROOF. The round unit's instructions: publishes, acquires, windows, views and bounded loads (O42). -/

namespace Sys2Proof.Machine

open Sys2Proof.Claims

/-! ### Windows -/

@[simp] theorem State.win_retireX (s : State) (rd : BitVec 5) (v : Word) : (s.retireX rd v).me.win = s.me.win := by
  simp [State.retireX, State.me_retire, State.me_wx]

/-- An instruction that sets window `k` and retires with a result. -/
theorem completes_setWindow {i : Instr} {s u : State} {rd : BitVec 5} {v : Word} {k : Nat} {w : Window} {P : State → Prop}
    (hexec : exec i s = .next ((u.modMe fun h => { h with win := tset k w h.win }).retireX rd v))
    (hpc : u.me.pc = s.me.pc) (hilen : u.ilen = s.ilen)
    (hP : ∀ t, t.me.xr rd.toNat = (if rd = 0 then 0 else v) → t.me.window k = w → (∀ j, j ≠ k → t.me.window j = u.me.window j) → P t) :
    Completes i s P := by
  have hme : (u.modMe fun h => { h with win := tset k w h.win }).me = { u.me with win := tset k w u.me.win } :=
    u.me_modMe fun h => { h with win := tset k w h.win }
  have hwin : ((u.modMe fun h => { h with win := tset k w h.win }).retireX rd v).me.win = tset k w u.me.win := by
    rw [State.win_retireX, hme]
  refine completes_of_retireX hexec ?_ ?_ (hP _ (State.retireX_xr_self _ rd v) ?_ ?_)
  · rw [hme]; exact hpc
  · exact hilen
  · rw [Hart.window, hwin, tget_tset_self]
  · intro j hj
    rw [Hart.window, hwin, tget_tset_ne _ _ _ hj]
    rfl

/-- The first word of the window that `racq` sets: its region and VALID (R419). -/
theorem racq_window (w0 w1 : Word) (rid : Nat) :
    let w : Window := ⟨(w0 &&& ~~~(0x3FF : Word)) ||| BitVec.ofNat 64 rid ||| 0x1000, w1⟩
    w.valid = true ∧ (rid < 1024 → w.rid = rid) := by
  intro w
  constructor
  · show w.w0.getLsbD 12 = true
    simp [w]
  · intro hrid
    rw [Window.rid, bits_eq_fieldOf, fieldOf_eq_iff (by exact hrid)]
    intro i hi
    have : i < 64 := by omega
    simp only [w, BitVec.getLsbD_or, BitVec.getLsbD_and, BitVec.getLsbD_not, BitVec.getLsbD_ofNat, Nat.zero_add]
    obtain rfl | rfl | rfl | rfl | rfl | rfl | rfl | rfl | rfl | rfl : i = 0 ∨ i = 1 ∨ i = 2 ∨ i = 3 ∨ i = 4 ∨ i = 5 ∨ i = 6 ∨ i = 7 ∨ i = 8 ∨ i = 9 := (by omega) <;> simp

/-- What a window says whose words are laid out as `rwin` does (R406, R407, R420). -/
theorem window_fields {w : Window} {a b : Nat} {lag : Bool} (ha : a < 2 ^ 64)
    (hw0 : w.w0.toNat = a % 1024 + (if lag then 1024 else 0) + 4096 + b % 2 ^ 32 * 2 ^ 32) (hw1 : w.w1.toNat = a / 2 ^ 32) :
    w.valid = true ∧ w.rid = a % 1024 ∧ fieldOf w.w0 10 1 = (if lag then 1 else 0) ∧ fieldOf w.w0 11 1 = 0 ∧
      fieldOf w.w0 32 32 = b % 2 ^ 32 ∧ w.w1.toNat = a / 2 ^ 32 ∧
      w.floor = if lag then (a / 2 ^ 32 + 2 ^ 32 - b % 2 ^ 32) % 2 ^ 32 else b % 2 ^ 32 := by
  have hlag : w.w0.toNat.testBit 10 = lag := by
    rw [hw0, Nat.testBit_eq_decide_div_mod_eq]
    cases lag <;> simp <;> omega
  have harg : bits w.w0.toNat 32 32 = b % 2 ^ 32 := by
    rw [bits_eq, hw0]
    split <;> omega
  refine ⟨?_, ?_, ?_, ?_, ?_, hw1, ?_⟩
  · rw [Window.valid, hw0, Nat.testBit_eq_decide_div_mod_eq]
    split <;> simp <;> omega
  · rw [Window.rid, bits_eq, hw0]
    split <;> omega
  · rw [fieldOf, hw0]
    split <;> omega
  · rw [fieldOf, hw0]
    split <;> omega
  · rw [← harg, bits_eq_fieldOf]
  · rw [Window.floor, hlag, harg, hw1, bits_eq]
    cases lag
    · rw [if_neg Bool.false_ne_true, if_neg Bool.false_ne_true]
    · rw [if_pos rfl, if_pos rfl]
      omega

theorem rwin_words {a : Nat} (b : Nat) (lag : Bool) (ha : a < 2 ^ 64) :
    (BitVec.ofNat 64 (bits a 0 10 + (if lag then 1024 else 0) + 4096 + bits b 0 32 * 2 ^ 32)).toNat =
      a % 1024 + (if lag then 1024 else 0) + 4096 + b % 2 ^ 32 * 2 ^ 32 ∧ (BitVec.ofNat 64 (bits a 32 32)).toNat = a / 2 ^ 32 := by
  rw [bits_eq, bits_eq, bits_eq, BitVec.toNat_ofNat, BitVec.toNat_ofNat]
  constructor
  · split <;> omega
  · omega

/-! ### Publishes and acquires -/

theorem descriptor_of_live {s u : State} {va : Word} {loc rid : Nat} {g : Region} (hal : va.toNat % 32 = 0) (hreach : Reaches s .load va 1 u loc)
    (hlive : u.regionDesc loc (u.pasidOf u.cur) = some (rid, g)) (k : State → Nat → Region → Out) : s.descriptor va k = k u rid g := by
  rw [State.descriptor, State.toLoc_of_reaches hreach, if_neg (not_not_intro hal), hlive]

theorem descriptor_of_bad {s u : State} {va : Word} {loc : Nat} (hreach : Reaches s .load va 1 u loc)
    (hbad : va.toNat % 32 ≠ 0 ∨ u.regionDesc loc (u.pasidOf u.cur) = none) (k : State → Nat → Region → Out) :
    s.descriptor va k = .next (u.cmdFault va) := by
  rw [State.descriptor, State.toLoc_of_reaches hreach]
  by_cases hal : va.toNat % 32 = 0
  · rw [if_neg (not_not_intro hal), hbad.resolve_left (not_not_intro hal)]
  · exact if_pos hal

theorem exec_rpub_of_waiting {s : State} {rid r : Nat} (rd rs1 : BitVec 5) (h : s.me.wait = some (.publish rid r)) :
    exec (.rpub rd rs1) s = .next (s.wait (.publish rid r)) := by
  show execRpub rd rs1 s = _
  rw [execRpub, h]

theorem exec_rpub_of_not_waiting {s : State} (rd rs1 : BitVec 5) (h : ∀ r d, s.me.wait ≠ some (.publish r d)) :
    exec (.rpub rd rs1) s = s.descriptor (s.x rs1) fun s rid g =>
      if !s.released then .next (s.wait .blocks)
      else .next (((s.releaseAt (Nat.max (vcfgScope (s.me.cs csrVcfg)) g.scope)).wait (.publish rid rd.toNat)).publish rid (.hart s.cur)) := by
  show execRpub rd rs1 s = _
  unfold execRpub
  split
  next r d hw => exact absurd hw (h r d)
  next => rfl

theorem harts_modRegion (s : State) (rid : Nat) (f : Region → Region) : (s.modRegion rid f).harts = s.harts ∧ (s.modRegion rid f).cur = s.cur := by
  unfold State.modRegion
  split <;> exact ⟨rfl, rfl⟩

theorem harts_publishStart (s : State) (rid : Nat) : (s.publishStart rid).harts = s.harts ∧ (s.publishStart rid).cur = s.cur := by
  unfold State.publishStart
  split
  · exact harts_modRegion ..
  · exact ⟨rfl, rfl⟩

theorem me_publish (s : State) (rid : Nat) (who : Publisher) : (s.publish rid who).me = s.me := by
  have hkeep : (s.publish rid who).harts = s.harts ∧ (s.publish rid who).cur = s.cur := by
    unfold State.publish
    split
    next g _ =>
      have hmod := harts_modRegion s rid fun g => { g with queue := g.queue ++ [who] }
      dsimp only
      split
      · exact hmod
      · have hstart := harts_publishStart (s.modRegion rid fun g => { g with queue := g.queue ++ [who] }) rid
        exact ⟨hstart.1.trans hmod.1, hstart.2.trans hmod.2⟩
    next => exact ⟨rfl, rfl⟩
  exact State.me_eq_of_harts_cur hkeep.1 hkeep.2

/-! ### Bounded loads -/

theorem boundStalls_of_unbound {s : State} {h k pa : Nat} (hb : s.bound h k pa = none) (late : List (Nat × Nat)) :
    s.boundStalls h k pa late = false := by
  rw [State.boundStalls, hb]

theorem boundServe_of_unbound {s : State} {h k pa : Nat} (hb : s.bound h k pa = none) (n : Nat) :
    s.boundServe h k pa n = (s, memBytes s.mem pa n) := by
  rw [State.boundServe, hb]
  rfl

theorem boundCopy_of_lookup {s : State} {h l rnd : Nat} {data : List Byte}
    (hc : s.rounds.copies.lookup (nkey (coreOf h) l) = some (rnd, data)) (f : Nat) : s.boundCopy h l f = reached rnd f := by
  rw [State.boundCopy, hc]

/-- A copy is served as it stands; one below the floor marks its window LATE (R408). -/
theorem boundServe_of_copy {s : State} {h k pa rid f rnd : Nat} {data : List Byte} (hb : s.bound h k pa = some (rid, f))
    (hc : s.rounds.copies.lookup (nkey (coreOf h) (lineOf pa)) = some (rnd, data)) (n : Nat) : s.boundServe h k pa n =
      ((if reached rnd f then s else s.modHart h fun x => { x with win := tset k (x.window k).late x.win }).l1vTouch (coreOf h) (lineOf pa),
        (data.drop (pa % 128)).take n) := by
  rw [State.boundServe, hb]
  dsimp only
  rw [hc]
  dsimp only
  rw [boundCopy_of_lookup hc]

theorem boundStalls_of_copy {s : State} {h k pa rid f rnd : Nat} {data : List Byte} (hb : s.bound h k pa = some (rid, f))
    (hc : s.rounds.copies.lookup (nkey (coreOf h) (lineOf pa)) = some (rnd, data)) : s.boundStalls h k pa [] = !reached rnd f := by
  rw [State.boundStalls, hb]
  dsimp only
  rw [State.boundReady, boundCopy_of_lookup hc]
  simp

theorem window_l1vTouch (s : State) (n l h k : Nat) : ((s.l1vTouch n l).hart h).window k = (s.hart h).window k := by
  have hwin := congrArg (fun x : Hart => x.win) (State.hart_of_sansCoh (s.keeps_l1vTouch n l).1 h)
  exact congrArg (fun t => tget _ t k) hwin

theorem mem_l1vTouch (s : State) (n l : Nat) : (s.l1vTouch n l).mem = s.mem := by
  unfold State.l1vTouch
  simp only
  repeat' split
  all_goals rfl

theorem window_late_fields (w : Window) : w.late.w0 = w.w0 ||| 0x800 ∧ w.late.w1 = w.w1 := ⟨rfl, rfl⟩

theorem exec_ldbw_of_location {s u : State} {rd rs1 : BitVec 5} {k : BitVec 3} {loc : Nat} (hal : (s.x rs1).toNat % 8 = 0)
    (hx : s.xlateRange (s.dataCx s.cur) .load (s.x rs1) 8 = (u, .ok loc)) : exec (.ldbw rd rs1 k) s =
      if u.readSensitive loc then .next (u.except 5 (s.x rs1))
      else
        let late := match u.bound u.cur k.toNat loc with | some (_, f) => if u.me.timedOut then [(lineOf loc, f)] else [] | none => []
        let v := (u.loadLines (nodeOf u.myCore) loc 8).boundAsk u.cur k.toNat loc 0 late
        if v.poisoned loc 8 then .next ((v.poisonRecord loc).except 5 (s.x rs1))
        else if v.boundStalls v.cur k.toNat loc late then .next (v.wait (.stall (lineOf loc)))
        else .next ((v.boundServe v.cur k.toNat loc 8).1.retireX rd (BitVec.ofNat 64 (leNat (v.boundServe v.cur k.toNat loc 8).2))) := by
  show execLdbw rd rs1 k s = _
  unfold execLdbw
  dsimp only
  rw [if_neg (not_not_intro hal), hx] <;> rfl

/-- Settles O42: publishes and acquires through the live descriptor, windows by their fields, bounded loads by the copy that serves
them. -/
theorem roundInstructions : Obligations.RoundInstructions := by
  unfold Obligations.RoundInstructions
  refine ⟨?_, ?_, ?_, ?_, ?_, ?_, ?_⟩
  · intro s u rd rs1 k loc rid g hal hreach hlive
    refine ⟨fun hwait => ?_, ?_⟩
    · have hexec := exec_rpub_of_not_waiting rd rs1 hwait
      rw [descriptor_of_live hal hreach hlive] at hexec
      refine ⟨fun hbiq => ⟨?_, ?_⟩, fun hbiq => ?_⟩
      · rw [hexec, if_neg (by simp [State.released, hbiq]), vcfgScope, bits_eq_fieldOf]
      · rw [me_publish, State.me_wait]
      · rw [hexec, if_pos (by simp [State.released, hbiq])]
    · have hexec : exec (.racq rd rs1 k) s = _ := descriptor_of_live hal hreach hlive _
      refine completes_setWindow hexec (pc_of_reaches hreach) (State.ilen_of_sansTlb (sansTlb_of_reaches hreach))
        fun t hrd hwin hother => ?_
      have hfields := racq_window (u.me.window k.toNat).w0 (BitVec.ofNat 64 g.round) rid
      rw [hwin]
      exact ⟨hrd, rfl, hfields.1, hfields.2, hother⟩
  · intro s rd rs1 rid r hwait
    exact exec_rpub_of_waiting rd rs1 hwait
  · intro s u rd rs1 k loc hreach hbad
    exact ⟨descriptor_of_bad hreach hbad _, fun hwait => (exec_rpub_of_not_waiting rd rs1 hwait).trans (descriptor_of_bad hreach hbad _)⟩
  · intro s rd rs1 rs2 k lag i old a
    have hexec : exec i s = s.rwin lag (wordOf i) rd rs1 rs2 k := by cases lag <;> rfl
    refine ⟨fun h0 => ?_, fun h0 hlegal => ?_, fun h0 hbad => ?_⟩
    · refine completes_setWindow (hexec.trans (if_pos h0)) rfl rfl fun t hrd hwin _ => ⟨hrd, ?_, ?_⟩
      · rw [hwin]
        show (old.w0 &&& ~~~(0x1000 : Word)).getLsbD 12 = false
        simp
      · rw [hwin]
    · have hok : ¬ bits a 10 22 ≠ 0 := by rw [bits_eq]; omega
      refine completes_setWindow (hexec.trans ((if_neg h0).trans (if_neg hok))) rfl rfl fun t hrd hwin _ => ⟨hrd, ?_⟩
      rw [hwin]
      have hwords := rwin_words (s.x rs2).toNat lag (s.x rs1).isLt
      exact window_fields (s.x rs1).isLt hwords.1 hwords.2
    · have hno : bits a 10 22 ≠ 0 := by rw [bits_eq]; omega
      exact hexec.trans ((if_neg h0).trans (if_pos hno))
  · intro s rd rs1 rs2 n w
    refine ⟨fun hn => ?_, fun hn => if_pos hn, fun hn => if_pos hn, fun hn => if_pos hn, fun hn => ?_⟩
    · exact if_pos hn
    · have hrow : s.selectRow (.rviewV rd rs1 rs2) = .rviewV rd rs1 rs2 := by
        show rviewRow rd rs1 rs2 n = _
        rw [rviewRow, if_neg (by omega), if_neg (by omega), if_neg (by omega)]
      rw [hrow]
      exact if_neg (show ¬ n = 0 by omega)
  · intro s u rd rs1 k loc
    refine ⟨fun hmis => if_pos hmis, fun hal hx => ?_⟩
    rw [exec_ldbw_of_location hal hx]
    refine ⟨fun hrs => if_pos hrs, fun hrs => ?_⟩
    intro late v r hpoison
    have hclean := Bool.eq_false_iff.mp hpoison
    rw [if_neg (Bool.eq_false_iff.mp hrs)]
    exact ⟨fun hstall => (if_neg hclean).trans (if_pos hstall), fun hserve => (if_neg hclean).trans (if_neg (Bool.eq_false_iff.mp hserve)),
      fun hb => ⟨boundStalls_of_unbound hb late, boundServe_of_unbound hb 8⟩⟩
  · intro s h k pa n rid f rnd data hb hc r
    have hr := boundServe_of_copy hb hc n
    have hstalls := boundStalls_of_copy hb hc
    refine ⟨congrArg Prod.snd hr, ?_, fun hnear => ?_, fun hfar => ?_⟩
    · rw [show r = _ from hr, mem_l1vTouch]
      split <;> rfl
    · have hreached : reached rnd f = true := decide_eq_true hnear
      refine ⟨by rw [hstalls, hreached]; rfl, ?_⟩
      rw [show r = _ from hr, window_l1vTouch, if_pos hreached]
    · have hreached : ¬ reached rnd f = true := by simpa [reached] using hfar
      have hwin : (r.1.hart h).window k = ((s.hart h).window k).late := by
        rw [show r = _ from hr, window_l1vTouch, if_neg hreached, State.hart_modHart_self, Hart.window]
        exact tget_tset_self ..
      rw [hwin]
      exact ⟨by rw [hstalls, Bool.eq_false_iff.mpr hreached]; rfl, rfl, rfl⟩

end Sys2Proof.Machine
end

section
/-! PROOF. The instructions of the N stream: messages, fences and their reports (O43). -/

namespace Sys2Proof.Machine

open Sys2Proof.Claims

/-! ### Messages -/

@[simp] theorem Hart.setX_ntag (h : Hart) (r : Nat) (v : Word) : (h.setX r v).ntag = h.ntag := by
  unfold Hart.setX; split <;> rfl

/-- The state in which a message has entered the table (R452). -/
def State.msgIssued (s : State) (m : Msg) : State :=
  let u := ({ s with net := { s.net with msgs := tset s.tqe.stamp m s.net.msgs }, tqe := { s.tqe with stamp := s.tqe.stamp + 1 } } : State).modMe
    fun h => { h with seq := h.seq + 1, ntag := (h.ntag + 1) % 65536 }
  if m.acq then u.hold 0 31 (some (2 * s.tqe.stamp + 1)) else u

theorem issueMsg_eq (s : State) (kind : Nat) (rd rs1 rs2 : BitVec 5) : s.issueMsg kind rd rs1 rs2 =
    let m := s.newMsg kind (s.x rs1) (s.x rs2)
    if msgBad (s.x rs2) m then .next (s.cmdFault 0)
    else if 64 ≤ s.openMsgs.length then .next (s.wait .commands)
    else .next (((s.msgIssued m).retireX rd (BitVec.ofNat 64 m.tag)).tryMsg s.tqe.stamp) := rfl

theorem msgIssued_keeps (s : State) (m : Msg) : (s.msgIssued m).me.pc = s.me.pc ∧ (s.msgIssued m).ilen = s.ilen ∧
    (s.msgIssued m).me.ntag = (s.me.ntag + 1) % 65536 ∧ (s.msgIssued m).net.msgs = tset s.tqe.stamp m s.net.msgs ∧
    (s.msgIssued m).mem = s.mem := by
  rw [State.msgIssued]
  dsimp only
  split
  · simp only [State.hold, State.me_modMe]
    exact ⟨rfl, rfl, rfl, rfl, rfl⟩
  · simp only [State.me_modMe]
    exact ⟨rfl, rfl, rfl, rfl, rfl⟩

@[simp] theorem State.ntag_retireX (s : State) (rd : BitVec 5) (v : Word) : (s.retireX rd v).me.ntag = s.me.ntag := by
  simp [State.retireX, State.me_retire, State.me_wx]

theorem exec_message {i : Instr} {kind : Nat} {rd rs1 rs2 : BitVec 5}
    (h : (i, kind) ∈ [(Instr.nsend rd rs1 rs2, 0), (Instr.nwrite rd rs1 rs2, 1), (Instr.nread rd rs1 rs2, 2)]) (s : State) :
    exec i s = s.issueMsg kind rd rs1 rs2 := by
  simp only [List.mem_cons, Prod.mk.injEq, List.not_mem_nil, or_false] at h
  obtain ⟨rfl, rfl⟩ | ⟨rfl, rfl⟩ | ⟨rfl, rfl⟩ := h <;> rfl

theorem newMsg_fields (s : State) (kind : Nat) (va ctl : Word) : let m := s.newMsg kind va ctl
    m.kind = kind ∧ m.lep = fieldOf (s.me.cs csrNep) 0 12 ∧ m.peer = fieldOf (s.me.cs csrNep) 16 16 ∧
      m.rkey = fieldOf (s.me.cs csrNep) 32 16 ∧ m.rva = (s.me.cs csrNrva).toNat ∧ m.va = va ∧ m.len = ctl.toNat % 2 ^ 32 ∧ m.tag = s.me.ntag :=
  ⟨rfl, bits_eq_fieldOf .., bits_eq_fieldOf .., bits_eq_fieldOf .., rfl, rfl, by rw [fieldOf_low]; exact bits_eq_fieldOf .., rfl⟩

/-! ### Reports -/

theorem exec_nstatState (rd rs1 rs2 : BitVec 5) (s : State) : exec (.nstatState rd rs1 rs2) s = s.nstat 0 rs2 (.next (s.retireX rd
    (((s.openMsgs.find? fun m => m.2.tag == (s.x rs1).toNat % 65536).map fun m => BitVec.ofNat 64 m.2.state).getD 0))) := by
  show execNstatState rd rs1 rs2 s = _
  rw [execNstatState]
  cases s.openMsgs.find? fun m => m.2.tag == (s.x rs1).toNat % 65536 <;> rfl

/-- Settles O43: a legal message enters the table under its stamp and is tried, a fence takes the open messages it names. -/
theorem networkInstructions : Obligations.NetworkInstructions := by
  unfold Obligations.NetworkInstructions
  refine ⟨?_, ?_, ?_⟩
  · rintro s rd rs1 rs2 ⟨i, kind⟩ hmem m nep
    have hexec : exec i s = _ := (exec_message hmem s).trans (issueMsg_eq s kind rd rs1 rs2)
    refine ⟨fun hbad => hexec.trans (if_pos hbad), fun hok hfull => ?_, fun hok hroom => ?_⟩
    · exact hexec.trans ((if_neg (Bool.eq_false_iff.mp hok)).trans (if_pos hfull))
    · obtain ⟨hkind, hlep, hpeer, hrkey, hrva, hva, hlen, htag⟩ := newMsg_fields s kind (s.x rs1) (s.x rs2)
      obtain ⟨hpc, hilen, hntag, hmsgs, hmemory⟩ := msgIssued_keeps s m
      refine ⟨hkind, hlep, hpeer, hrkey, hrva, hva, hlen, htag, (s.msgIssued m).retireX rd (BitVec.ofNat 64 s.me.ntag),
        ?_, State.retireX_xr_self _ rd _, ?_, ?_, ?_, ?_⟩
      · simp [hmsgs, lookup_tset_self]
      · rw [State.ntag_retireX, hntag]
      · rw [State.retireX_pc, hpc, hilen]
      · simp [hmemory]
      · exact hexec.trans ((if_neg (Bool.eq_false_iff.mp hok)).trans (if_neg (by omega)))
  · intro s rd rs1 sel w
    refine ⟨fun h0 h1 => if_pos ⟨h0, h1⟩, fun h => ?_⟩
    have hnamed : ¬ (sel ≠ 0 ∧ sel / 4096 ≠ 1) := by omega
    refine (if_neg hnamed).trans ?_
    by_cases hw : w = []
    · rw [if_pos hw]
      exact if_pos (List.isEmpty_iff.mpr hw)
    · rw [if_neg hw]
      exact if_neg (mt List.isEmpty_iff.mp hw)
  · intro s rd rs1 rs2 n key
    refine ⟨fun hn => ?_, fun hn => ?_, fun hn => if_pos hn, fun hn => ?_, fun hn => if_pos hn, fun hn => ?_⟩
    · rw [exec_nstatState]
      exact if_pos hn
    · have hkey : failKey s.cur s.me.inst = key := rfl
      show s.nstat 1 rs2 _ = _
      rw [hkey]
      refine (if_pos hn).trans ?_
      cases s.net.fails.find? fun f => f.1 == key <;> rfl
    · exact if_pos hn
    · have hrow : s.selectRow (.nstatState rd rs1 rs2) = .nstatState rd rs1 rs2 := by
        show nstatRow rd rs1 rs2 n = _
        rw [nstatRow, if_neg (by omega), if_neg (by omega), if_neg (by omega), if_neg (by omega)]
      rw [hrow, exec_nstatState]
      exact if_neg (show ¬ n = 0 by omega)

end Sys2Proof.Machine
end

section
/-! PROOF. The queue that an operand names, and what `tqstat` reports of it (O46). -/

namespace Sys2Proof.Machine

open Sys2Proof.Claims

/-! ### The named queue and the own instance -/

theorem ownQueue_of_own {s : State} {n : Nat} {q : Queue} (h : OwnQueue s n q) (k : Queue → Out) : s.ownQueue n k = k q := by
  obtain ⟨hlo, hhi, hq, hpasid⟩ := h
  unfold State.ownQueue
  rw [if_pos ⟨hlo, hhi⟩, hq]
  exact if_pos hpasid

theorem ownQueue_of_not_own {s : State} {n : Nat} (h : ∀ q, ¬ OwnQueue s n q) (k : Queue → Out) : s.ownQueue n k = .next (Refused s) := by
  unfold State.ownQueue
  split
  next q hq =>
    split at hq
    next hn => exact if_neg fun hpasid => h q ⟨hn.1, hn.2, hq, hpasid⟩
    next => cases hq
  next => rfl

theorem ownInst_of_runsFor {s : State} {t : Inst} {p : Pkt} (h : RunsFor s t p) (k : Inst → Pkt → Out) : s.ownInst k = k t p := by
  rw [State.ownInst, h.1]
  dsimp only
  rw [h.2]

theorem ownInst_of_none {s : State} (h : ∀ t p, ¬ RunsFor s t p) (k : Inst → Pkt → Out) : s.ownInst k = .next (Refused s) := by
  unfold State.ownInst
  split
  next t ht =>
    split
    next p hp => exact absurd ⟨ht, hp⟩ (h t p)
    next => rfl
  next => rfl

/-! ### `tqstat` -/

theorem tqstat_refused {s : State} {n : Nat} {rs2 : BitVec 5} {k : Out} (hk : k = .next (Refused s)) :
    s.tqstat n rs2 k = .next (Refused s) := by
  rw [State.tqstat, hk]
  exact ite_self _

theorem sum_range_four (f : Nat → Nat) : ((List.range 4).map f).sum = f 0 + f 1 + f 2 + f 3 := by
  simp [show List.range 4 = [0, 1, 2, 3] from rfl, Nat.add_assoc]

/-- A slice's groups, by slot, as one word (R374). -/
theorem groups_word (l : List Nat) (d : Nat) : ((List.range 4).map fun g => l.getD g d * 2 ^ (16 * g)).sum =
    l.getD 0 d + l.getD 1 d * 2 ^ 16 + l.getD 2 d * 2 ^ 32 + l.getD 3 d * 2 ^ 48 := by
  rw [sum_range_four, Nat.mul_zero, Nat.pow_zero, Nat.mul_one]

/-- An instance counts as running for the queue of its packet. -/
theorem runs_of_queue (s : State) (n pk : Nat) : (match s.tqe.pkts.lookup pk with | some p => p.q == n | none => false) =
    (((s.tqe.pkts.lookup pk).map (·.q)) == some n) := by
  cases s.tqe.pkts.lookup pk <;> rfl

theorem effPrio_eq (s : State) (n d : Nat) (q : Queue) :
    s.effPrio n d q = if q.age ≠ 0 ∧ (s.qpart n d).aged = true then min (q.prio + 1) 7 else q.prio := by
  simp only [State.effPrio, Bool.and_eq_true, decide_eq_true_eq]

/-- Settles O46: each row reads its figure of the named queue or of the own instance, and refuses where there is none. -/
theorem queueStatusIsRead : Obligations.QueueStatusIsRead := by
  unfold Obligations.QueueStatusIsRead
  refine ⟨fun s rd rs1 rs2 n hn => ⟨fun hnone i hi => ?_, fun q hq => ?_⟩, fun s rd rs1 rs2 => ⟨fun t p hruns => ?_, fun hnone i hi => ?_⟩⟩
  · have hrefuse (k : Nat → Queue → Out) : s.statQueue rs1 k = .next (Refused s) := by
      rw [State.statQueue]
      rw [← hn]
      exact ownQueue_of_not_own hnone _
    simp only [List.mem_cons, List.not_mem_nil, or_false] at hi
    obtain rfl | rfl | rfl | rfl | rfl := hi <;> exact tqstat_refused (hrefuse _)
  · have hread (k : Nat → Queue → Out) : s.statQueue rs1 k = k n q := by
      rw [State.statQueue]
      rw [← hn]
      exact ownQueue_of_own hq _
    refine ⟨fun hk => ?_, fun hk => ?_, fun hk => ?_, fun hk => ?_, fun hk => ?_⟩
    all_goals refine (if_pos hk).trans ((hread _).trans ?_)
    · rw [sum_range_four]
      rfl
    · exact congrArg (fun l : List (Nat × Inst) => Host.Outcome.next (s.retireX rd (BitVec.ofNat 64 l.length)))
        (List.filter_congr fun e _ => congrArg (!e.2.saved && ·) (runs_of_queue s n e.2.pk))
    · rfl
    · rw [← effPrio_eq, apply_ite (BitVec.ofNat 64)]
    · rfl
  · refine ⟨fun hk => (if_pos hk).trans (ownInst_of_runsFor hruns _), fun hk => (if_pos hk).trans (ownInst_of_runsFor hruns _), fun hk => ?_⟩
    refine (if_pos hk).trans ((ownInst_of_runsFor hruns _).trans ?_)
    exact congrArg (fun w => Host.Outcome.next (s.retireX rd (BitVec.ofNat 64 w))) (groups_word _ _)
  · simp only [List.mem_cons, List.not_mem_nil, or_false] at hi
    obtain rfl | rfl | rfl := hi
    all_goals exact tqstat_refused (ownInst_of_none hnone _)

end Sys2Proof.Machine
end

section
/-! PROOF. Packets are put, timed and looped back (O44). -/

namespace Sys2Proof.Machine

open Sys2Proof.Claims

/-! ### The packet that a put reads -/

theorem queueRelease_eq (s : State) : s.releaseDevice = queueRelease s := by
  rw [State.releaseDevice, vcfgScope, bits_eq_fieldOf]
  rfl

theorem readPacket_of_read {s u : State} {rs1 : BitVec 5} {m : Image} (h : PacketRead s rs1 u m) (q : Queue) (k : State → Image → Out) :
    s.readPacket q (s.x rs1) k = if (u.packetRefused q m).isSome then .next (u.cmdFault 0) else k u m := by
  obtain ⟨hal, hbiq, loc, v, ⟨hx, hstuck⟩, rfl, hclean, rfl⟩ := h
  rw [State.readPacket, if_neg (not_not_intro hal), if_neg (by simp [State.released, hbiq]), queueRelease_eq, State.scalarRead_ok (fun h => h.1 hal) hx hstuck hclean]
  rfl

theorem leastBelow_eq_some {n i : Nat} {p : Nat → Bool} (h : leastBelow n p = some i) : i < n ∧ p i = true ∧ ∀ j, j < i → p j = false := by
  obtain ⟨hp, hlt, hleast⟩ := List.find?_range_eq_some.mp h
  exact ⟨List.mem_range.mp hlt, hp, fun j hj => by simpa using hleast j hj⟩

/-! ### An accepted packet -/

theorem qpart_modPart_self (s : State) (n d : Nat) (f : Part → Part) : (s.modPart n d f).qpart n d = f (s.qpart n d) := tget_tset_self ..

theorem tqe_kick (s : State) (d : Nat) : (s.kick d).tqe = s.tqe := by
  unfold State.kick; split <;> rfl

theorem tqe_agentWrite (s : State) (a : Nat) (bs : List Byte) : (s.agentWrite a bs).tqe = s.tqe := State.tqe_of_sansCoh (s.keeps_agentWrite a bs).1

theorem qpart_of_tqe {s t : State} (h : t.tqe = s.tqe) (n d : Nat) : t.qpart n d = s.qpart n d :=
  congrArg (fun e : Tqe => tget default e.parts (n * 4 + d)) h

/-- An entry joins its part; the put sequence, the slots and the packets stay. -/
theorem addEntry_keeps (s : State) (n d : Nat) (e : Entry) (ahead : Bool) : let t := s.addEntry n d e ahead
    (t.qpart n d).seq = (s.qpart n d).seq ∧ (t.qpart n d).slots = (s.qpart n d).slots ∧ t.tqe.pkts = s.tqe.pkts := by
  intro t
  unfold t State.addEntry
  split
  · exact ⟨rfl, rfl, rfl⟩
  · dsimp only
    rw [qpart_of_tqe (tqe_kick ..), tqe_kick, qpart_modPart_self]
    exact ⟨rfl, rfl, rfl⟩

/-- The part and the packet of an accepted image before its entry is made (R336, R341). -/
theorem accept_keeps (s : State) (n : Nat) (q : Queue) (d i : Nat) (m : Image) : let t := s.accept n q d i m
    (t.qpart n d).seq = (s.qpart n d).seq + 1 ∧ i ∈ (t.qpart n d).slots ∧
      ∃ k, t.tqe.pkts.lookup s.tqe.stamp = some k ∧ k.q = n ∧ k.die = d ∧ k.slot = i ∧ k.seq = (s.qpart n d).seq ∧ k.img = m := by
  intro t
  unfold t State.accept
  extract_lets p pk pkt _ s1 s2 s3
  have hpart : s3.qpart n d = { p with seq := p.seq + 1, slots := i :: p.slots.filter (· != i) } := by
    rw [qpart_of_tqe (tqe_agentWrite ..)]
    exact qpart_modPart_self ..
  have hpkts : s3.tqe.pkts.lookup s.tqe.stamp = some pkt := by
    rw [tqe_agentWrite]
    exact lookup_tset_self ..
  split
  · rw [qpart_of_tqe (tqe_kick ..), tqe_kick, hpart]
    exact ⟨rfl, List.mem_cons_self, pkt, hpkts, rfl, rfl, rfl, rfl, rfl⟩
  · obtain ⟨hseq, hslots, hsame⟩ := addEntry_keeps s3 n d ⟨pk, p.seq, pk, if m.kind = 2 then 0 else 4, 0, m.entry, m.arg, 0, none⟩ false
    rw [hseq, hslots, hsame, hpart]
    exact ⟨rfl, List.mem_cons_self, pkt, hpkts, rfl, rfl, rfl, rfl, rfl⟩

/-! ### What becomes of an offered packet -/

theorem offer_of_closed {s : State} {q : Queue} {m : Image} (n die : Nat) (hok : s.packetRefused q m = none) (hq : q.state ≠ 0) :
    s.offer n q die m false = (s, .closed) := by
  rw [State.offer, hok]
  exact if_pos (by simp [hq])

theorem offer_of_full {s : State} {n die : Nat} {q : Queue} {m : Image} (hok : s.packetRefused q m = none) (hq : q.state = 0)
    (hfull : let p := s.qpart n (s.partDie q die m); p.freeSlot q = none ∨ p.ovfl ≠ []) :
    s.offer n q die m false = (s, .full (s.partDie q die m)) := by
  rw [State.offer, hok]
  dsimp only at hfull ⊢
  rw [if_neg (by simp [hq])]
  cases hslot : (s.qpart n (s.partDie q die m)).freeSlot q with
  | none => rfl
  | some i => exact if_neg (by simpa [hslot] using hfull)

theorem offer_of_free {s : State} {n die i : Nat} {q : Queue} {m : Image} (hok : s.packetRefused q m = none) (hq : q.state = 0)
    (hslot : (s.qpart n (s.partDie q die m)).freeSlot q = some i) (hovfl : (s.qpart n (s.partDie q die m)).ovfl = []) :
    s.offer n q die m false = (s.accept n q (s.partDie q die m) i m, .taken (s.qpart n (s.partDie q die m)).seq) := by
  rw [State.offer, hok]
  dsimp only
  rw [if_neg (by simp [hq]), hslot]
  exact if_pos (by rw [hovfl]; rfl)

/-! ### The instructions -/

/-- What `tqput` answers an offer with (R367). -/
def putAnswer (rd : BitVec 5) : State × Offer → Out
  | (s, .taken seq) => .next (s.retireX rd (putResult seq))
  | (s, .full _) => .next (s.retireX rd 1)
  | (s, .closed) => .next (s.retireX rd 2)
  | (s, .refused _) => .next (s.cmdFault 0)

theorem exec_tqput_of_read {s u : State} {rd rs1 rs2 : BitVec 5} {q : Queue} {m : Image} (hown : OwnQueue s (s.x rs2).toNat q)
    (hread : PacketRead s rs1 u m) : exec (.tqput rd rs1 rs2) s =
      if (u.packetRefused q m).isSome then .next (u.cmdFault 0)
      else putAnswer rd (u.offer (s.x rs2).toNat q (hartDie u.cur) m false) :=
  (ownQueue_of_own hown _).trans (readPacket_of_read hread q _)

theorem exec_tqat_of_read {s u : State} {rd rs1 rs2 : BitVec 5} {q : Queue} {m : Image} (rs3 : BitVec 5)
    (hown : OwnQueue s (s.x rs2).toNat q) (hread : PacketRead s rs1 u m) : exec (.tqat rd rs1 rs2 rs3) s =
      if (u.packetRefused q m).isSome then .next (u.cmdFault 0)
      else
        let n := (s.x rs2).toNat
        let d := hartDie u.cur
        if q.state ≠ 0 then .next (u.retireX rd 2)
        else if 8192 ≤ (u.tqe.wheel.filter (·.die == d)).length || !(u.qpart n (u.partDie q d m)).ovfl.isEmpty then .next (u.retireX rd 1)
        else
          let v : State := { u with tqe := { u.tqe with wheel := u.tqe.wheel ++ [⟨d, (s.x rs3).toNat, n, q.pasid, m⟩] } }
          .next ((if (s.x rs3).toNat ≤ v.dtimeOf d then v.releaseWheel d else v).retireX rd 0) :=
  (ownQueue_of_own hown _).trans (readPacket_of_read hread q _)

theorem exec_tqputLoopback_refused {s : State} {rd rs1 rs2 : BitVec 5} (h : s.me.priv ≠ .s ∨ (s.core s.myCore).wall = false ∨
    s.cur % 8 ≠ 7 ∨ s.spilledBy s.myCore (s.x rs1).toNat = none) : exec (.tqputLoopback rd rs1 rs2) s = .next (Refused s) := by
  show execTqputLoopback rd rs1 rs2 s = _
  rw [execTqputLoopback]
  dsimp only
  by_cases hright : ((s.x rs2).toNat ≠ 0xFFFFFFFF || s.me.priv != .s || !((s.core s.myCore).wall && s.cur % 8 == 7)) = true
  · exact if_pos hright
  · rw [if_neg hright]
    have hnone : s.spilledBy s.myCore (s.x rs1).toNat = none := by
      simp only [Bool.or_eq_true, bne_iff_ne, Bool.not_eq_true', Bool.and_eq_false_imp, beq_eq_false_iff_ne, not_or, Classical.not_not] at hright
      grind
    rw [hnone]
    rfl

/-- A core whose spilled entry `i` goes back into the inbox (R351). -/
def Core.takeBack (c : Core) (i : Inbox) (stamp : Nat) (pre : Bool) : Core :=
  { c with spilled := c.spilled.erase i, inbox := c.inbox ++ [{ i with stamp := stamp }], save := some (c.save.getD pre) }

/-- The loop-back moves a spilled entry into the inbox (R351). -/
def State.loopedBack (s : State) (i : Inbox) : State :=
  let u := s.modCore s.myCore fun c => c.takeBack i s.tqe.stamp (s.entryImage i.ent).pre
  State.kick { u with tqe := { u.tqe with stamp := s.tqe.stamp + 1 } } (dieOf s.myCore)

theorem exec_tqputLoopback_of_entry {s : State} {rd rs1 rs2 : BitVec 5} {i : Inbox} (hrs2 : (s.x rs2).toNat = 0xFFFFFFFF)
    (hpriv : s.me.priv = .s) (hwall : (s.core s.myCore).wall = true) (hhart : s.cur % 8 = 7)
    (hi : s.spilledBy s.myCore (s.x rs1).toNat = some i) (hbiq : s.me.biq = []) : exec (.tqputLoopback rd rs1 rs2) s =
      if 16 ≤ (s.core s.myCore).inbox.length then .next (s.retireX rd 1)
      else .next ((s.loopedBack i).retireX rd (putResult (match s.tqe.pkts.lookup i.ent.pk with | some p => p.seq | none => 0))) := by
  show execTqputLoopback rd rs1 rs2 s = _
  rw [execTqputLoopback]
  dsimp only
  rw [if_neg (by simp [hrs2, hpriv, hwall, hhart]), hi]
  exact if_neg (by simp [State.released, hbiq])

theorem loopedBack_keeps (s : State) (i : Inbox) : (s.loopedBack i).harts = s.harts ∧ (s.loopedBack i).cur = s.cur ∧
    (s.loopedBack i).ilen = s.ilen ∧ (s.loopedBack i).mem = s.mem ∧ (s.loopedBack i).core s.myCore =
      (s.core s.myCore).takeBack i s.tqe.stamp (s.entryImage i.ent).pre := by
  have hcore := State.core_modCore_self s s.myCore fun c => c.takeBack i s.tqe.stamp (s.entryImage i.ent).pre
  rw [State.loopedBack, State.kick]
  dsimp only
  split
  · exact ⟨rfl, rfl, rfl, rfl, hcore⟩
  · exact ⟨rfl, rfl, rfl, rfl, hcore⟩

/-- Settles O44: the packet that the operands name is read, checked and offered, or put on the wheel. -/
theorem packetsArePutAndTimed : Obligations.PacketsArePutAndTimed := by
  unfold Obligations.PacketsArePutAndTimed
  refine ⟨fun s rd rs1 rs2 rs3 hnone => ⟨ownQueue_of_not_own hnone _, ownQueue_of_not_own hnone _⟩, ?_, ?_⟩
  · intro s u rd rs1 rs2 rs3 q m hown hread n d p put at_ now wheel
    have hput := exec_tqput_of_read (rd := rd) hown hread
    have hat := exec_tqat_of_read (rd := rd) rs3 hown hread
    refine ⟨fun hbad => ?_, ?_⟩
    · have hsome := Option.isSome_iff_ne_none.mpr hbad
      exact ⟨hput.trans (if_pos hsome), hat.trans (if_pos hsome)⟩
    have hgo {o : Out} (hok : u.packetRefused q m = none) {e : Out} (h : e = if (u.packetRefused q m).isSome then .next (u.cmdFault 0) else o) :
        e = o := h.trans (if_neg (by simp [hok]))
    refine ⟨fun hok hq => ⟨?_, ?_⟩, fun hok hq hfull => ?_, fun i hok hq hslot hovfl => ?_, fun hok hq hfull => ?_,
      fun hok hq hroom hovfl hlater => ?_, fun hok hq hroom hovfl hcome => ?_⟩
    · rw [hgo hok hput, offer_of_closed _ _ hok hq]
      rfl
    · exact (hgo hok hat).trans (if_pos hq)
    · rw [hgo hok hput, offer_of_full hok hq hfull]
      rfl
    · obtain ⟨hi, hfree, hleast⟩ := leastBelow_eq_some hslot
      obtain ⟨hseq, hmem, hpkt⟩ := accept_keeps u n q d i m
      refine ⟨hi, by simpa using hfree, fun j hj => by simpa using hleast j hj, u.accept n q d i m, ?_, hseq, hmem, hpkt⟩
      rw [hgo hok hput, offer_of_free hok hq hslot hovfl]
      rfl
    · refine (hgo hok hat).trans ((if_neg (not_not_intro hq)).trans (if_pos ?_))
      simpa [List.isEmpty_iff] using hfull
    · refine ⟨{ u with tqe := { u.tqe with wheel := u.tqe.wheel ++ [⟨hartDie u.cur, (s.x rs3).toNat, n, q.pasid, m⟩] } },
        (hgo hok hat).trans ((if_neg (not_not_intro hq)).trans ((if_neg ?_).trans ?_)), rfl, rfl, rfl, rfl⟩
      · simpa [p, d] using And.intro hroom hovfl
      · exact congrArg (fun t : State => Host.Outcome.next (t.retireX rd 0)) (if_neg (Nat.not_le.mpr hlater))
    · refine ⟨_, (hgo hok hat).trans ((if_neg (not_not_intro hq)).trans (if_neg ?_))⟩
      simpa [p, d] using And.intro hroom hovfl
  · intro s rd rs1 rs2 hrs2
    refine ⟨exec_tqputLoopback_refused, fun i hpriv hwall hhart hi hbiq => ?_⟩
    have hexec := exec_tqputLoopback_of_entry (rd := rd) hrs2 hpriv hwall hhart hi hbiq
    refine ⟨fun hfull => hexec.trans (if_pos hfull), fun hroom => ?_⟩
    obtain ⟨hharts, hcur, hilen, hmem, hcore⟩ := loopedBack_keeps s i
    refine completes_of_retireX (hexec.trans (if_neg (by omega))) (congrArg _ (State.me_eq_of_harts_cur hharts hcur)) hilen ?_
    have hcore' : ((s.loopedBack i).retireX rd (putResult (match s.tqe.pkts.lookup i.ent.pk with | some p => p.seq | none => 0))).core s.myCore
        = (s.loopedBack i).core s.myCore := rfl
    rw [hcore', hcore]
    exact ⟨rfl, rfl, Option.some_ne_none _, hmem⟩

end Sys2Proof.Machine
end

section
/-! PROOF. Dependence records, tickets and group barriers (O45). -/

namespace Sys2Proof.Machine

open Sys2Proof.Claims

/-! ### Traps -/

/-- The trap of a hart is the one that its delegation says (R80, R117). -/
theorem takesTrap_trap (x : Hart) (c : Nat) (v : Word) : TakesTrap x (x.trap (x.trapsToS c) c false v) c v := by
  refine ⟨Hart.trap_x .., Hart.trap_wait .., ?_⟩
  cases htoS : x.trapsToS c with
  | true =>
    obtain ⟨hepc, hcause, htval, _, _⟩ := x.trap_s c v
    exact ⟨Hart.trap_priv .., hcause, hepc, htval⟩
  | false =>
    obtain ⟨hepc, hcause, htval, _, _⟩ := x.trap_m c v
    exact ⟨Hart.trap_priv .., hcause, hepc, htval⟩

/-! ### Records -/

theorem recordLoc_misaligned {s : State} {va : Word} (h : va.toNat % 128 ≠ 0) (k : State → Nat → Out) :
    s.recordLoc va k = .next (s.cmdFault va) := if_pos h

theorem recordLoc_of_reaches {s u : State} {va : Word} {loc : Nat} (hal : va.toNat % 128 = 0) (hreach : Reaches s .store va 128 u loc)
    (hplace : u.recordPlace loc = true) (hregion : u.inRegion loc = false) (hbiq : u.me.biq = []) (k : State → Nat → Out) :
    s.recordLoc va k = k ((queueRelease u).recordStep loc) loc := by
  rw [State.recordLoc, if_neg (not_not_intro hal), State.toLoc_of_reaches hreach, if_neg (by simp [hplace, hregion]),
    if_neg (by simp [State.released, hbiq]), queueRelease_eq]

theorem exec_tqdec (rd rs1 : BitVec 5) (s : State) : exec (.tqdec rd rs1) s = s.recordLoc (s.x rs1) fun s loc =>
    .next ((s.decrementHere loc).retireX rd (BitVec.ofNat 64 (s.peekN loc 4 + s.peekN (loc + 0x0C) 4 % 8 * 2 ^ 32))) := rfl

theorem armRecord_of_armed {s : State} {pa : Nat} (h : memNat s.mem (pa + 12) 4 = 1 ∨ memNat s.mem (pa + 12) 4 = 3) (count qid pasid : Nat) :
    s.armRecord pa count qid pasid = s := if_pos h

theorem armRecord_mem {s : State} {pa : Nat} (h1 : memNat s.mem (pa + 12) 4 ≠ 1) (h3 : memNat s.mem (pa + 12) 4 ≠ 3) {count : Nat}
    (hcount : count ≠ 0) (qid pasid : Nat) : (s.armRecord pa count qid pasid).mem =
      memPut pa (leBytes 4 count ++ leBytes 4 0 ++ leBytes 4 qid ++ leBytes 4 1 ++ leBytes 8 0 ++ leBytes 4 pasid) s.mem := by
  have harm : ¬ (s.peekN (pa + 0x0C) 4 = 1 ∨ s.peekN (pa + 0x0C) 4 = 3) := not_or.mpr ⟨h1, h3⟩
  rw [State.armRecord, if_neg harm, if_neg hcount, if_neg hcount, State.poke]

theorem decrementHere_unarmed {s : State} {pa : Nat} (h : memNat s.mem (pa + 12) 4 ≠ 1) : (s.decrementHere pa).mem =
    memPutNat (pa + 4) 4 (min (memNat s.mem (pa + 4) 4 + 1) (2 ^ 32 - 1)) s.mem :=
  congrArg State.mem (if_pos h)

theorem memNat_lt (m : List Host.Cell) (a n : Nat) : memNat m a n < 2 ^ (8 * n) := by
  simpa [memNat] using leNat_lt (memBytes m a n)

theorem decrementHere_armed {s : State} {pa : Nat} (h : memNat s.mem (pa + 12) 4 = 1) (hcount : 1 < memNat s.mem pa 4) :
    (s.decrementHere pa).mem = memPutNat pa 4 (memNat s.mem pa 4 - 1) s.mem := by
  have hlt : s.peekN pa 4 < 2 ^ 32 := memNat_lt s.mem pa 4
  have hone : 1 < s.peekN pa 4 := hcount
  have hless : (s.peekN pa 4 + 2 ^ 32 - 1) % 2 ^ 32 = s.peekN pa 4 - 1 := by omega
  have harmed : s.peekN (pa + 0x0C) 4 = 1 := h
  rw [State.decrementHere]
  dsimp only
  rw [if_neg (not_not_intro harmed), hless, if_pos (by omega)]
  rfl

/-! ### Tickets -/

theorem exec_tkwait_of_reaches {s u : State} {rd rs1 rs2 : BitVec 5} {loc : Nat} (hal : (s.x rs1).toNat % 32 = 0)
    (hreach : Reaches s .load (s.x rs1) 8 u loc) (hplace : u.signalPlace loc = true)
    (hclean : (u.loadLines noNode loc 8).poisoned loc 8 = false) : exec (.tkwait rd rs1 rs2) s =
      let v := u.loadLines noNode loc 8
      let w := memNat v.mem loc 8
      let ahead := (w % 2 ^ 32 + 2 ^ 32 - (s.x rs2).toNat % 2 ^ 32) % 2 ^ 32
      if ahead = 0 then .next (v.retireX rd (BitVec.ofNat 64 w))
      else if ahead < 2 ^ 31 then .next (v.except 27 (s.x rs1))
      else if v.me.timedOut then .next (v.retireX rd (BitVec.ofNat 64 w))
      else .next (v.wait (.signal loc)) := by
  show execTkwait rd rs1 rs2 s = _
  rw [execTkwait]
  dsimp only
  rw [State.signalLoc_of_reaches hal hreach hplace, if_neg (Bool.eq_false_iff.mp hclean)]
  rfl

theorem exec_tkdone_of_reaches {s u : State} {rd rs1 rs2 : BitVec 5} {loc : Nat} (hal : (s.x rs1).toNat % 32 = 0)
    (hreach : Reaches s .store (s.x rs1) 8 u loc) (hplace : u.signalPlace loc = true) (hbiq : u.me.biq = []) :
    exec (.tkdone rd rs1 rs2) s =
      let v := (u.releaseAt (fieldOf (u.me.cs csrVcfg) 7 3)).loadLines noNode loc 8
      let w := memNat v.mem loc 8
      let t := (s.x rs2).toNat % 2 ^ 32
      if w % 2 ^ 32 ≠ t then .next (v.except 27 (s.x rs1))
      else .next (((v.advanceGate loc w).payTicket (s.x rs1) t).retireX rd (BitVec.ofNat 64 w)) := by
  show execTkdone rd rs1 rs2 s = _
  rw [execTkdone]
  dsimp only
  rw [State.signalLoc_of_reaches hal hreach hplace, if_neg (by simp [State.released, hbiq]), vcfgScope, bits_eq_fieldOf]
  rfl

/-- The compare and swap of the gate (R371). -/
theorem amoOp_swap {x : Nat} (old : Nat) (hx : x < 2 ^ 64) (y : Nat) : amoOp 10 8 old x y = if old = x then y % 2 ^ 64 else old := by
  simp only [amoOp]
  rw [Nat.mod_eq_of_lt hx]

/-- The gate advances by one in local memory (R361, R371). -/
theorem advanceGate_mem {s : State} {loc : Nat} (h : isLocal loc = true) : let w := memNat s.mem loc 8
    (s.advanceGate loc w).mem = memPutNat loc 8 (w / 2 ^ 32 * 2 ^ 32 + (w % 2 ^ 32 + 1) % 2 ^ 32) s.mem := by
  intro w
  have hw : w < 2 ^ 64 := memNat_lt s.mem loc 8
  have hswap : amoOp 10 8 w w (w / 2 ^ 32 * 2 ^ 32 + (w % 2 ^ 32 + 1) % 2 ^ 32) = w / 2 ^ 32 * 2 ^ 32 + (w % 2 ^ 32 + 1) % 2 ^ 32 := by
    generalize hn : w / 2 ^ 32 * 2 ^ 32 + (w % 2 ^ 32 + 1) % 2 ^ 32 = n
    have hnlt : n < 2 ^ 64 := by omega
    rw [amoOp_swap _ hw, if_pos rfl, Nat.mod_eq_of_lt hnlt]
  rw [State.advanceGate, State.atomicAt_local _ _ _ _ _ _ h]
  show memPutNat loc 8 (amoOp 10 8 w w _) s.mem = _
  rw [hswap]

theorem exec_ticketAdvance_of_owed {s u : State} {pk loc : Nat} {p : Pkt} (hev : s.ev = .ticketAdvance pk)
    (hp : s.tqe.pkts.lookup pk = some p) (howed : p.owed ≠ none) (hgate : s.owedGate p = (u, some loc)) : exec .ticketAdvance s =
      let g := u.advanceGate loc (memNat u.mem loc 8)
      if memNat u.mem loc 8 % 2 ^ 32 = p.img.ticket then .next { g with tqe := { g.tqe with pkts := tdel pk g.tqe.pkts } }
      else .next (u.due [.ticketAdvance pk]) := by
  have hlive : ¬ p.live = true := by simpa [Pkt.live, Option.isNone_iff_eq_none] using howed
  show execTicketAdvance s = _
  rw [execTicketAdvance, hev]
  dsimp only
  rw [hp]
  dsimp only
  rw [if_neg hlive, hgate]
  rfl

/-! ### Barriers -/

theorem testBit_garr_set (g : BitVec 2) (a : Nat) : (a ||| (1 <<< g.toNat)).testBit g.toNat = true ∧
    (a &&& (15 ^^^ (1 <<< g.toNat))).testBit g.toNat = false := by
  have hg : g.toNat < 4 := g.isLt
  constructor
  · simp
  · have hmask : (15 ^^^ (1 <<< g.toNat)).testBit g.toNat = false := by
      generalize g.toNat = n at hg
      obtain rfl | rfl | rfl | rfl : n = 0 ∨ n = 1 ∨ n = 2 ∨ n = 3 := (by omega) <;> rfl
    rw [Nat.testBit_and, hmask, Bool.and_false]

theorem testBit_setGarr (x : Hart) (g : BitVec 2) (b : Bool) : (x.setGarr g.toNat b).garr.testBit g.toNat = b := by
  cases b
  · exact (testBit_garr_set g x.garr).2
  · exact (testBit_garr_set g x.garr).1

theorem mem_of_lookup {α : Type} {k : Nat} {v : α} {t : Tab α} (h : t.lookup k = some v) : (k, v) ∈ t := by
  obtain ⟨l, r, rfl, _⟩ := List.lookup_eq_some_iff.mp h
  simp

theorem modPkt_of_lookup {s : State} {pk : Nat} {p : Pkt} (h : s.tqe.pkts.lookup pk = some p) (f : Pkt → Pkt) :
    s.modPkt pk f = { s with tqe := { s.tqe with pkts := tset pk (f p) s.tqe.pkts } } := by
  rw [State.modPkt, h]

theorem checkBars_of_lookup {s : State} {pk : Nat} {p : Pkt} (h : s.tqe.pkts.lookup pk = some p) :
    s.checkBars pk = s.due ((p.bar.filter fun e => !e.2.isEmpty && p.barMet e.1).map fun e => .gbarRelease pk e.1) := by
  rw [State.checkBars, h]

theorem exec_gbar_of_runsFor {s : State} {t : Inst} {p : Pkt} (h : RunsFor s t p) (g : BitVec 2) : exec (.gbar g) s =
    match (p.groupsOf t.slice)[g.toNat]? with
    | none => .next (s.groupFault g.toNat)
    | some gn =>
      if !s.me.garr.testBit g.toNat then
        if !s.released then .next (s.wait .blocks)
        else
          let s := s.modPkt t.pk fun p => { p with bar := tset gn (t.slice :: (tget [] p.bar gn).filter (· != t.slice)) p.bar }
          .next (((s.modMe fun x => x.setGarr g.toNat true).checkBars t.pk).wait (.group t.pk gn))
      else if !(tget [] p.bar gn).contains t.slice then .next (s.modMe fun x => x.setGarr g.toNat false).retire
      else if s.me.timedOut then
        let s := s.modPkt t.pk fun p => { p with bar := tset gn ((tget [] p.bar gn).filter (· != t.slice)) p.bar }
        .next ((s.modMe fun x => x.setGarr g.toNat false).groupFault g.toNat)
      else .next (s.wait (.group t.pk gn)) := by
  obtain ⟨ht, hp⟩ := h
  show execGbar g s = _
  unfold execGbar
  rw [ht]
  dsimp only
  rw [hp] <;> rfl

theorem exec_gbar_without_group {s : State} {g : BitVec 2} (h : ∀ t p gn, RunsFor s t p → (p.groupsOf t.slice)[g.toNat]? ≠ some gn) :
    exec (.gbar g) s = .next (s.except 28 (BitVec.ofNat 64 g.toNat)) := by
  show execGbar g s = _
  unfold execGbar
  dsimp only
  split
  next => rfl
  next t ht =>
    split
    next => rfl
    next p hp =>
      split
      next => rfl
      next gn hgn => exact absurd hgn (h t p gn ⟨ht, hp⟩)

/-- A slice arrives at the barrier of a group. -/
def Pkt.arrive (p : Pkt) (gn slice : Nat) : Pkt := { p with bar := tset gn (slice :: (tget [] p.bar gn).filter (· != slice)) p.bar }

/-- The state in which the barrier of a group holds the arrival of a slice (R114). -/
def State.arrived (s : State) (t : Inst) (gn g : Nat) : State :=
  ((s.modPkt t.pk fun p => p.arrive gn t.slice).modMe fun x => x.setGarr g true).checkBars t.pk

theorem arrived_keeps {s : State} {t : Inst} {p : Pkt} (hp : s.tqe.pkts.lookup t.pk = some p) (gn : Nat) (g : BitVec 2) :
    (s.arrived t gn g.toNat).me = s.me.setGarr g.toNat true ∧ ∃ p', (s.arrived t gn g.toNat).tqe.pkts.lookup t.pk = some p' ∧
      t.slice ∈ tget [] p'.bar gn ∧ (p'.barMet gn = true → .gbarRelease t.pk gn ∈ (s.arrived t gn g.toNat).agenda) := by
  have hlook := lookup_tset_self t.pk (p.arrive gn t.slice) s.tqe.pkts
  have hmod := modPkt_of_lookup hp fun p => p.arrive gn t.slice
  have hin : t.slice ∈ tget [] (p.arrive gn t.slice).bar gn := by
    rw [Pkt.arrive, tget_tset_self]
    exact List.mem_cons_self
  rw [State.arrived, checkBars_of_lookup (p := p.arrive gn t.slice) (by rw [hmod]; exact hlook), hmod]
  refine ⟨State.me_modMe _ fun x => x.setGarr g.toNat true, p.arrive gn t.slice, hlook, hin, fun hmet => ?_⟩
  · refine List.mem_append_right _ (List.mem_map.mpr ⟨_, List.mem_filter.mpr ⟨mem_of_lookup (lookup_tset_self ..), ?_⟩, rfl⟩)
    simpa using hmet

@[simp] theorem Hart.trap_garr (h : Hart) (t : Bool) (c : Nat) (i : Bool) (v : Word) : (h.trap t c i v).garr = h.garr := by
  unfold Hart.trap; cases t <;> rfl

theorem modPkt_keeps (s : State) (pk : Nat) (f : Pkt → Pkt) : (s.modPkt pk f).me = s.me ∧ (s.modPkt pk f).mem = s.mem := by
  rw [State.modPkt]
  split <;> exact ⟨rfl, rfl⟩

/-- A hart whose barrier has timed out takes the group fault (R114). -/
theorem groupExpired_keeps {s : State} (hpriv : s.me.priv ≠ .m) (pk : Nat) (f : Pkt → Pkt) (g : BitVec 2) :
    let u := ((s.modPkt pk f).modMe fun x => x.setGarr g.toNat false).groupFault g.toNat
    u.me = (s.me.setGarr g.toNat false).trap ((s.me.setGarr g.toNat false).trapsToS 28) 28 false (BitVec.ofNat 64 g.toNat) ∧ u.mem = s.mem := by
  obtain ⟨hme, hmem⟩ := modPkt_keeps s pk f
  have hset := (s.modPkt pk f).me_modMe fun x => x.setGarr g.toNat false
  rw [hme] at hset
  have hlow : ((s.modPkt pk f).modMe fun x => x.setGarr g.toNat false).me.priv ≠ .m := by rw [hset]; exact hpriv
  refine ⟨?_, ?_⟩
  · rw [State.groupFault, State.me_except, hset]
  · rw [State.groupFault, State.except_eq _ _ _ (.inl hlow)]
    exact hmem

/-- A hart that waits at a barrier goes on (R114). -/
def State.endGroupWait (pk g : Nat) (s : State) (h : Nat) : State :=
  if (s.hart h).wait = some (.group pk g) then s.modHart h fun x => { x with wait := none } else s

theorem endGroupWait_keeps (pk g : Nat) (s : State) (h : Nat) : (s.endGroupWait pk g h).mem = s.mem ∧ (s.endGroupWait pk g h).tqe = s.tqe := by
  rw [State.endGroupWait]
  split <;> exact ⟨rfl, rfl⟩

theorem hart_endGroupWait (pk g : Nat) (s : State) (h k : Nat) : (s.endGroupWait pk g h).hart k =
    if k = h ∧ (s.hart k).wait = some (.group pk g) then { s.hart k with wait := none } else s.hart k := by
  rw [State.endGroupWait]
  by_cases hk : k = h
  · subst hk
    by_cases hw : (s.hart k).wait = some (.group pk g)
    · rw [if_pos hw, if_pos ⟨rfl, hw⟩, State.hart_modHart_self]
    · rw [if_neg hw, if_neg (fun e : k = k ∧ _ => hw e.2)]
  · rw [if_neg (fun e : k = h ∧ _ => hk e.1)]
    split
    · exact State.hart_modHart_ne _ _ hk
    · rfl

/-- Waits of several harts end one after the other, whoever is met twice. -/
theorem hart_foldl_endWait {P : Option Wait → Prop} [DecidablePred P] (hnone : ¬ P none) {f : State → Nat → State}
    (hf : ∀ s h k, (f s h).hart k = if k = h ∧ P (s.hart k).wait then { s.hart k with wait := none } else s.hart k) (k : Nat) (hs : List Nat)
    (s : State) : (hs.foldl f s).hart k = if k ∈ hs ∧ P (s.hart k).wait then { s.hart k with wait := none } else s.hart k := by
  induction hs generalizing s with
  | nil => exact (if_neg (by simp)).symm
  | cons h hs ih =>
    rw [List.foldl_cons, ih, hf]
    by_cases hhere : k = h ∧ P (s.hart k).wait
    · rw [if_pos hhere, if_neg (fun e => hnone e.2), if_pos ⟨by simp [hhere.1], hhere.2⟩]
    · rw [if_neg hhere]
      refine ite_of_iff ?_
      rw [List.mem_cons]
      exact ⟨fun e => ⟨.inr e.1, e.2⟩, fun e => ⟨e.1.resolve_left fun hk => hhere ⟨hk, e.2⟩, e.2⟩⟩

/-- The members of a complete barrier go on. -/
theorem hart_foldl_endGroupWait (pk g k : Nat) (hs : List Nat) (s : State) : (hs.foldl (State.endGroupWait pk g) s).hart k =
    if k ∈ hs ∧ (s.hart k).wait = some (.group pk g) then { s.hart k with wait := none } else s.hart k :=
  hart_foldl_endWait (P := fun w => w = some (.group pk g)) (fun e => nomatch e) (hart_endGroupWait pk g) k hs s

theorem exec_gbarRelease_of_met {s : State} {pk g : Nat} {p : Pkt} (hev : s.ev = .gbarRelease pk g) (hp : s.tqe.pkts.lookup pk = some p)
    (hsome : tget [] p.bar g ≠ []) (hmet : p.barMet g = true) : exec .gbarRelease s =
      let u := s.modPkt pk fun p => { p with bar := tset g [] p.bar }
      .next (u.liveHarts.foldl (State.endGroupWait pk g) u) := by
  show execGbarRelease s = _
  rw [execGbarRelease, hev]
  dsimp only
  rw [hp]
  dsimp only
  exact if_neg (by simpa [List.isEmpty_iff, hmet] using hsome)

/-- Settles O45: a record, a gate or a barrier is found by its operand, and each answer is that of its state. -/
theorem recordsTicketsAndGroups : Obligations.RecordsTicketsAndGroups := by
  unfold Obligations.RecordsTicketsAndGroups
  refine ⟨?_, ?_, ?_, ?_, ?_, ?_, ?_, ?_, ?_⟩
  · intro s u rd rs1 rs2 loc hal hreach hplace hregion hbiq v count st
    have hrecord (k : State → Nat → Out) := recordLoc_of_reaches hal hreach hplace hregion hbiq k
    exact ⟨fun q hown => (ownQueue_of_own hown _).trans (hrecord _), (exec_tqdec rd rs1 s).trans (hrecord _)⟩
  · intro s rd rs1 rs2 hmis
    exact ⟨(exec_tqdec rd rs1 s).trans (recordLoc_misaligned hmis _), fun q hown => (ownQueue_of_own hown _).trans (recordLoc_misaligned hmis _)⟩
  · intro s loc count qid pasid st
    exact ⟨fun h => armRecord_of_armed h _ _ _, fun h1 h3 hcount => armRecord_mem h1 h3 hcount _ _, decrementHere_unarmed, decrementHere_armed⟩
  · intro s pa hev
    show execDepDecrement s = _
    rw [execDepDecrement, hev]
    rfl
  · intro s u rd rs1 rs2 loc hal hreach hplace v hclean w ahead
    rw [exec_tkwait_of_reaches hal hreach hplace hclean]
    simp only [apply_ite Host.Outcome.next]
    rfl
  · intro s u rd rs1 rs2 loc hal hreach hplace hbiq v w t
    refine ⟨?_, fun hloc => advanceGate_mem hloc⟩
    rw [exec_tkdone_of_reaches hal hreach hplace hbiq]
    exact (apply_ite Host.Outcome.next _ _ _).symm
  · intro s g
    refine ⟨exec_gbar_without_group, fun t p gn hruns hgn => ?_⟩
    have hexec := exec_gbar_of_runsFor hruns g
    rw [hgn] at hexec
    dsimp only at hexec
    refine ⟨fun hgarr hbiq => ?_, fun hgarr hbiq => ?_, fun hgarr hreleased => ?_, fun hgarr hin htime => ?_, fun hgarr hin htime hpriv => ?_⟩
    · exact hexec.trans ((if_pos (by rw [hgarr]; rfl)).trans (if_pos (by simp [State.released, hbiq])))
    · obtain ⟨hme, p', hp', hin, hrelease⟩ := arrived_keeps hruns.2 gn g
      refine ⟨(s.arrived t gn g.toNat).wait (.group t.pk gn),
        hexec.trans ((if_pos (by rw [hgarr]; rfl)).trans (if_neg (by simp [State.released, hbiq]))), ?_, ?_, ?_, p', hp', hin, hrelease⟩
      · rw [State.me_wait]
      · rw [State.me_wait, hme]
        rfl
      · rw [State.me_wait, hme]
        exact testBit_setGarr s.me g true
    · refine completes_of_retire (hexec.trans ((if_neg (by simp [hgarr])).trans (if_pos (by simpa using hreleased)))) ?_ rfl ?_
      · rw [State.me_modMe _ fun x => x.setGarr g.toNat false]
        rfl
      · rw [State.me_retire, State.me_modMe _ fun x => x.setGarr g.toNat false]
        exact ⟨testBit_setGarr s.me g false, rfl, rfl⟩
    · exact hexec.trans ((if_neg (by simp [hgarr])).trans ((if_neg (by simpa using hin)).trans (if_neg (by simp [htime]))))
    · have hfault := hexec.trans ((if_neg (by simp [hgarr])).trans ((if_neg (by simpa using hin)).trans (if_pos htime)))
      obtain ⟨hme, hmem⟩ := groupExpired_keeps hpriv t.pk (fun p => { p with bar := tset gn ((tget [] p.bar gn).filter (· != t.slice)) p.bar }) g
      refine ⟨_, hfault, ?_, hmem, ?_⟩
      · rw [show (State.groupFault _ _).me = _ from hme, Hart.trap_garr]
        exact testBit_setGarr s.me g false
      · rw [show (State.groupFault _ _).me = _ from hme]
        exact takesTrap_trap (s.me.setGarr g.toNat false) 28 _
  · intro s pk g p hev hp hsome hmet
    have hmod := modPkt_of_lookup hp fun p => { p with bar := tset g [] p.bar }
    refine ⟨_, exec_gbarRelease_of_met hev hp hsome hmet, ?_, fun h hlive hwait => ?_, { p with bar := tset g [] p.bar }, ?_, tget_tset_self ..⟩
    · rw [foldl_keep (fun t : State => t.mem) _ (fun t h => (endGroupWait_keeps pk g t h).1), hmod]
    · rw [hart_foldl_endGroupWait, hmod]
      exact if_pos ⟨hlive, hwait⟩
    · rw [foldl_keep (fun t : State => t.tqe) _ (fun t h => (endGroupWait_keeps pk g t h).2), hmod]
      exact lookup_tset_self ..
  · intro s u pk loc p hev hp howed hgate
    have hexec := exec_ticketAdvance_of_owed hev hp howed hgate
    exact ⟨fun heq => hexec.trans (if_pos heq), fun hne => hexec.trans (if_neg hne)⟩

end Sys2Proof.Machine
end

section
/-! PROOF. Timers, wakes and the steps of a pre-emption (O48). -/

namespace Sys2Proof.Machine

open Sys2Proof.Claims

/-! ### Pre-emption -/

theorem harder_of_soft {p : Preempt} (h : p.hard = false) (cause : Nat) : p.harder cause = { p with cause := cause, timed := false, hard := true } :=
  if_neg (by simp [h])

theorem askHard_of_instance {s : State} {h : Nat} (hinst : (s.hart h).inst ≠ none) (cause : Nat) : s.askHard h cause =
    s.modHart h fun x => { x with preempt := some ((x.preempt.getD ⟨cause, false, false, false, false⟩).harder cause) } :=
  if_neg (by simpa [Option.isNone_iff_eq_none] using hinst)

/-- No hard request stands where no save has begun (R133). -/
theorem soft_of_not_saveBegun {s : State} {h : Nat} (hbegun : s.saveBegun h = false) (cause : Nat) :
    ((s.hart h).preempt.getD ⟨cause, false, false, false, false⟩).hard = false := by
  rw [State.saveBegun, Bool.or_eq_false_iff] at hbegun
  cases hp : (s.hart h).preempt with
  | none => rfl
  | some p => simpa [hp] using hbegun.2

theorem saveBegun_iff (s : State) (h : Nat) : s.saveBegun h = true ↔
    (s.hart h).save ≠ none ∨ ∃ p, (s.hart h).preempt = some p ∧ p.hard = true := by
  rw [State.saveBegun, Bool.or_eq_true, Option.isSome_iff_ne_none, Option.any_eq_true]

theorem cores_hostEvent (s : State) (c d q e : Nat) (b : Bool) : (s.hostEvent c d q e b).cores = s.cores := by
  unfold State.hostEvent
  extract_lets base n wrn rdn a r s'
  have h : s'.cores = s.cores := by
    show (ite _ _ _ : State).cores = _
    rw [apply_ite State.cores, apply_ite State.cores, ite_self, ite_self]
  rw [apply_ite State.cores, ite_self, h]

theorem cores_errorRecord (s : State) (e : Err) : (s.errorRecord e).cores = s.cores := by
  unfold State.errorRecord
  simp only
  split
  · rw [cores_hostEvent]
  · rfl

theorem cores_askHard (s : State) (h cause : Nat) : (s.askHard h cause).cores = s.cores := by
  rw [State.askHard]
  split <;> rfl

/-- A quarantined core is marked (R512). -/
theorem quar_quarantine (s : State) (ci why : Nat) (but : Option Nat) : ((s.quarantine ci why but).core ci).quar = true := by
  have hcores : (s.quarantine ci why but).cores = (s.modCore ci fun c => { c with quar := true }).cores := by
    rw [State.quarantine, cores_errorRecord]
    exact foldl_keep (fun t : State => t.cores) _ (fun t h => cores_askHard t h 4) _ _
  have hcore := congrArg (fun t : Tab Core => (tget default t ci).quar) hcores
  exact hcore.trans (congrArg Core.quar (State.core_modCore_self s ci fun c => { c with quar := true }))

/-! ### Wakes -/

/-- A hart that waits for a signal of a granule goes on (R112). -/
def State.wakeAt (pa : Nat) (s : State) (h : Nat) : State :=
  match (s.hart h).wait with
  | some (.signal a) => if a / 32 = pa / 32 then s.modHart h fun x => { x with wait := none } else s
  | _ => s

/-- A wait for a signal word of the granule. -/
def waitsAt (pa : Nat) : Option Wait → Bool
  | some (.signal a) => a / 32 == pa / 32
  | _ => false

theorem signal_of_waitsAt {pa : Nat} {w : Option Wait} (h : waitsAt pa w = true) : ∃ a, w = some (.signal a) := by
  unfold waitsAt at h
  split at h
  next a => exact ⟨a, rfl⟩
  next => cases h

theorem wakeAt_eq (pa : Nat) (s : State) (h : Nat) : s.wakeAt pa h =
    if waitsAt pa (s.hart h).wait then s.modHart h fun x => { x with wait := none } else s := by
  unfold State.wakeAt
  split
  next a hw =>
    rw [hw, waitsAt]
    simp only [beq_iff_eq]
  next hw =>
    refine (if_neg fun h' => ?_).symm
    unfold waitsAt at h'
    split at h'
    next a hs => exact hw a hs
    next => cases h'

theorem hart_wakeAt (pa : Nat) (s : State) (h k : Nat) : (s.wakeAt pa h).hart k =
    if k = h ∧ waitsAt pa (s.hart k).wait = true then { s.hart k with wait := none } else s.hart k := by
  rw [wakeAt_eq]
  by_cases hk : k = h
  · subst hk
    by_cases hw : waitsAt pa (s.hart k).wait = true
    · rw [if_pos hw, if_pos ⟨rfl, hw⟩, State.hart_modHart_self]
    · rw [if_neg hw, if_neg (fun e : k = k ∧ _ => hw e.2)]
  · rw [if_neg (fun e : k = h ∧ _ => hk e.1)]
    split
    · exact State.hart_modHart_ne _ _ hk
    · rfl

theorem wakeAt_keeps (pa : Nat) (s : State) (h : Nat) : (s.wakeAt pa h).mem = s.mem ∧ (s.wakeAt pa h).agenda = s.agenda := by
  rw [wakeAt_eq]
  split <;> exact ⟨rfl, rfl⟩

/-! ### Events -/

theorem exec_laneGrantReeval_of_ev {s : State} {h : Nat} (hev : s.ev = .laneGrantReeval h) : exec .laneGrantReeval s =
    if (s.hart h).resume.isSome then .next (s.due [.resume h])
    else if (s.hart h).wait = some .grant then .next (s.modHart h fun x => { x with wait := none }) else .next s := by
  show execLaneGrantReeval s = _
  rw [execLaneGrantReeval, hev]

theorem exec_graceExpiry_of_ev {s : State} {h : Nat} (hev : s.ev = .graceExpiry h) : exec .graceExpiry s =
    .next (s.modHart h fun x => { x with preempt := x.preempt.map fun p => if p.timed then { p with hard := true } else p }) := by
  show execGraceExpiry s = _
  rw [execGraceExpiry, hev]

theorem exec_commitWindowExpiry_of_ev {s : State} {h : Nat} (hev : s.ev = .commitWindowExpiry h) : exec .commitWindowExpiry s =
    .next (if (s.hart h).preempt.any (·.stopped) then
        s.modHart h fun x => { x with preempt := x.preempt.map fun p => { p with closed := true }
                                      biq := x.biq.map fun b => if b.atom || b.held then b else { b.again with held := true } }
      else s) := by
  show execCommitWindowExpiry s = _
  rw [execCommitWindowExpiry, hev]

theorem exec_watchdogExpiry_of_hart {s : State} {h : Nat} (hev : s.ev = .watchdogExpiry h) (hinst : s.tqe.insts.lookup h = none) :
    exec .watchdogExpiry s = if (s.queueOf h).any (fun q => q.wdog != 0) && !s.saveBegun h then .next (s.askHard h 3) else .next s := by
  show execWatchdogExpiry s = _
  rw [execWatchdogExpiry, hev]
  dsimp only
  rw [hinst]

theorem exec_savetoExpiry_of_ev {s : State} {h : Nat} (hev : s.ev = .savetoExpiry h) : ∃ pc, exec .savetoExpiry s =
    if s.saveBegun h then .next ((s.loseHart h 5 1 pc).quarantine (coreOf h) 1 (some h)) else .next s := by
  cases hsave : (s.hart h).save with
  | none => exact ⟨(s.hart h).pc, by show execSavetoExpiry s = _; rw [execSavetoExpiry, hev]; dsimp only; rw [hsave]⟩
  | some v => exact ⟨v.pc, by show execSavetoExpiry s = _; rw [execSavetoExpiry, hev]; dsimp only; rw [hsave]⟩

/-- A wait that a time-out ends. -/
def timedWait : Option Wait → Bool
  | some (.signal _) => true
  | some (.group _ _) => true
  | some .matrix => true
  | _ => false

theorem exec_waitTimeout_of_ev {s : State} {h : Nat} (hev : s.ev = .waitTimeout h) : exec .waitTimeout s =
    if timedWait (s.hart h).wait && ((s.hart h).cs csrSigto).toNat % 2 ^ 32 != 0 then
      .next (s.modHart h fun x => { x with wait := none, timedOut := true }) else .next s := by
  show execWaitTimeout s = _
  rw [execWaitTimeout, hev]
  rfl

theorem exec_signalWake_of_ev {s : State} {pa : Nat} (hev : s.ev = .signalWake pa) :
    exec .signalWake s = .next (s.liveHarts.foldl (State.wakeAt pa) s) := by
  show execSignalWake s = _
  rw [execSignalWake, hev]
  rfl

theorem exec_signalPoll_of_wait {s : State} {h a : Nat} (hev : s.ev = .signalPoll h) (hw : (s.hart h).wait = some (.signal a)) :
    exec .signalPoll s = .next (s.modHart h fun x => { x with wait := none }) := by
  show execSignalPoll s = _
  rw [execSignalPoll, hev]
  dsimp only
  rw [hw]

theorem sigto_ne_zero_iff (w : Word) : w % 2 ^ 32 ≠ 0 ↔ w.toNat % 2 ^ 32 ≠ 0 := by
  rw [Ne, ← BitVec.toNat_inj, BitVec.toNat_umod]
  rfl

/-- Settles O48: each event acts on its hart alone, under the condition that its rule names. -/
theorem waitsEndAndPreemptionAdvances : Obligations.WaitsEndAndPreemptionAdvances := by
  unfold Obligations.WaitsEndAndPreemptionAdvances
  refine ⟨?_, ?_, ?_, ?_, ?_, ?_, ?_⟩
  · intro s h hev
    rw [exec_laneGrantReeval_of_ev hev]
    refine ⟨fun hres => if_pos (Option.isSome_iff_ne_none.mpr hres), fun hres hw => ?_⟩
    exact ⟨_, (if_neg (by simp [hres])).trans (if_pos hw), State.hart_modHart_self .., rfl⟩
  · intro s h p hp
    refine ⟨fun hev => ?_, fun hev hstop => ?_, fun hev hstop => ?_⟩
    · refine ⟨_, exec_graceExpiry_of_ev hev, rfl, fun j hj => State.hart_modHart_ne _ _ hj, ?_⟩
      rw [State.hart_modHart_self, hp]
      cases p with
      | mk cause timed hard stopped closed =>
        cases timed
        · simp
        · simp
    · refine ⟨_, (exec_commitWindowExpiry_of_ev hev).trans (congrArg _ (if_pos (by simp [hp, hstop]))), rfl,
        fun j hj => State.hart_modHart_ne _ _ hj, ?_⟩
      rw [State.hart_modHart_self]
      refine ⟨by rw [hp]; rfl, rfl, ?_, fun c hc hatom => ?_⟩
      · simp only [List.map_map]
        refine List.map_congr_left fun b _ => ?_
        simp only [Function.comp_apply]
        split <;> rfl
      · obtain ⟨b, _, rfl⟩ := List.mem_map.mp hc
        by_cases hkeep : (b.atom || b.held) = true
        · rw [if_pos hkeep] at hatom ⊢
          simpa [hatom] using hkeep
        · rw [if_neg hkeep]
    · exact (exec_commitWindowExpiry_of_ev hev).trans (congrArg _ (if_neg (by simp [hp, hstop])))
  · intro s h q hev hguest hq hbegun
    rw [exec_watchdogExpiry_of_hart hev hguest]
    refine ⟨fun hzero => if_neg (by simp [hq, hzero]), fun hwdog hinst => ?_⟩
    refine ⟨_, (if_pos (by simp [hq, hwdog, hbegun])), ?_⟩
    rw [askHard_of_instance hinst]
    have hharder := harder_of_soft (soft_of_not_saveBegun hbegun 3) 3
    exact ⟨rfl, _, State.hart_modHart_self .., by rw [hharder], by rw [hharder], by rw [hharder]⟩
  · intro s h hev
    obtain ⟨pc, hexec⟩ := exec_savetoExpiry_of_ev hev
    refine ⟨fun hbegun => ⟨_, hexec.trans (if_pos ((saveBegun_iff s h).mpr hbegun)), quar_quarantine ..⟩, fun hsave hsoft => ?_⟩
    refine hexec.trans (if_neg fun hb => ?_)
    obtain hs | ⟨p, hp, hhard⟩ := (saveBegun_iff s h).mp hb
    · exact hs hsave
    · rw [hsoft p hp] at hhard
      cases hhard
  · intro s h hev
    rw [exec_waitTimeout_of_ev hev]
    refine ⟨fun hw hto => ⟨_, if_pos ?_, rfl, State.hart_modHart_self ..⟩, fun hto => if_neg ?_⟩
    · have htimed : timedWait (s.hart h).wait = true := by
        obtain ⟨a, hw⟩ | ⟨p, g, hw⟩ | hw := hw <;> rw [hw] <;> rfl
      rw [htimed, Bool.true_and, bne_iff_ne]
      exact (sigto_ne_zero_iff _).mp hto
    · have hzero : ((s.hart h).cs csrSigto).toNat % 2 ^ 32 = 0 := Classical.not_not.mp fun hne => (sigto_ne_zero_iff _).mpr hne hto
      rw [hzero]
      simp
  · intro s pa hev
    refine ⟨_, exec_signalWake_of_ev hev, foldl_keep (fun t : State => t.mem) _ (fun t h => (wakeAt_keeps pa t h).1) _ _,
      foldl_keep (fun t : State => t.agenda) _ (fun t h => (wakeAt_keeps pa t h).2) _ _, fun h => ?_⟩
    rw [hart_foldl_endWait (P := fun w => waitsAt pa w = true) (fun e => nomatch e) (hart_wakeAt pa)]
    by_cases hsig : ∃ a, (s.hart h).wait = some (.signal a)
    · obtain ⟨a, hw⟩ := hsig
      rw [hw]
      exact ite_of_iff (by rw [and_comm, waitsAt, beq_iff_eq]; rfl)
    · rw [if_neg (fun e => hsig (signal_of_waitsAt e.2))]
      split
      next a hw => exact absurd ⟨a, hw⟩ hsig
      next => rfl
  · intro s h a hev hw
    exact ⟨_, exec_signalPoll_of_wait hev hw, rfl, State.hart_modHart_self ..⟩

end Sys2Proof.Machine
end

section
/-! PROOF. The events of the task queue engines (O50). -/

namespace Sys2Proof.Machine

open Sys2Proof.Claims

/-! ### Dispatch -/

theorem exec_tqeDispatch_of_ev {s : State} {d : Nat} (hev : s.ev = .tqeDispatch d) :
    exec .tqeDispatch s = .next (if (s.tqeStep d).2 then (s.tqeStep d).1.kick d else (s.tqeStep d).1) := by
  show execTqeDispatch s = _
  rw [execTqeDispatch, hev]
  dsimp only
  obtain ⟨u, acted⟩ := s.tqeStep d
  cases acted <;> rfl

/-- Where nothing else is to be done first, the only core with an inbox dispatches (R346). -/
theorem tqeStep_of_dispatch {s : State} {d ci h : Nat} {it : Inbox} (hmarker : s.tqe.queues.findSome? (fun e => s.readyMarker e.1 d) = none)
    (horphan : s.dropOrphan d = none) (hcores : (tkeys s.cores).filter (fun c => dieOf c == d && !(s.core c).inbox.isEmpty) = [ci])
    (hout : s.coreOut ci = false) (htest : (s.core ci).selftest = false) (hnext : s.nextDispatch ci = some (h, it)) :
    s.tqeStep d = (s.dispatch h it, true) := by
  rw [State.tqeStep, hmarker]
  dsimp only
  rw [horphan]
  dsimp only
  rw [hcores]
  simp only [List.find?, hout, htest, Bool.or_self, List.findSome?, hnext]

/-- What a new instance starts with (R83): the state of a dispatched hart. -/
theorem dispatched_state (x : Hart) (t : Inst) (q : Queue) (m : Image) (a1 a2 a3 : Nat) : let y := x.dispatched t q m a1 a2 a3
    y.pc = BitVec.ofNat 64 t.entry ∧ y.priv = .u ∧ y.wait = none ∧ y.biq = [] ∧ y.grant = [] ∧ y.f = [] ∧ y.inst = some t.iid ∧
      y.slip = m.slip ∧ y.x = [(10, BitVec.ofNat 64 t.arg), (11, BitVec.ofNat 64 a1), (12, BitVec.ofNat 64 a2), (13, BitVec.ofNat 64 a3)] :=
  ⟨rfl, rfl, rfl, rfl, rfl, rfl, rfl, rfl, rfl⟩

theorem dispatched_csrs (x : Hart) (t : Inst) (q : Queue) (m : Image) (a1 a2 a3 : Nat) : let y := x.dispatched t q m a1 a2 a3
    y.cs csrVcfg = 0 ∧ y.cs csrVl = 0 ∧ y.cs csrMcfg = 0 ∧ y.cs csrPfpark = BitVec.ofNat 64 q.pfpark := by
  intro y
  simp only [y, Hart.dispatched, Hart.setRequest, Hart.cs, List.foldl, tget_tset, csrVcfg, csrVl, csrMcfg, csrPfpark, csrCtxbase]
  simp

/-- A new instance is dispatched with its entry, its argument and its slice's part of the work (R83, R339). -/
theorem hart_dispatch {s : State} {h : Nat} {it : Inbox} {p : Pkt} {q : Queue} (hp : s.tqe.pkts.lookup it.ent.pk = some p)
    (hq : s.queue it.q = some q) (hwork : it.ent.work ≠ 3) : ∃ (x : Hart) (t : Inst), t.entry = it.ent.entry ∧ t.arg = it.ent.arg ∧
      (s.dispatch h it).hart h = x.dispatched t q p.img
        (if p.img.kind = 1 then p.img.base + it.ent.slice * p.img.grain else p.img.base)
        (if p.img.kind = 1 then Nat.min p.img.grain (p.img.count - it.ent.slice * p.img.grain) else 1)
        (q.sva + p.die * (64 * q.cap) + 64 * p.slot) := by
  unfold State.dispatch
  extract_lets ci d e s1
  have hp1 : s1.tqe.pkts.lookup e.pk = some p := hp
  have hq1 : s1.queue it.q = some q := hq
  rw [hp1, hq1]
  dsimp only
  rw [if_neg hwork]
  exact ⟨_, _, rfl, rfl, State.hart_modHart_self ..⟩

/-- a0 to a3 of a new instance; every other x register reads 0 (R83). -/
theorem xr_of_arguments {x : Hart} {a0 a1 a2 a3 : Word} (hx : x.x = [(10, a0), (11, a1), (12, a2), (13, a3)]) :
    x.xr 10 = a0 ∧ x.xr 11 = a1 ∧ x.xr 12 = a2 ∧ x.xr 13 = a3 ∧ ∀ r, r < 10 ∨ 13 < r → x.xr r = 0 := by
  simp only [Hart.xr, hx]
  refine ⟨rfl, rfl, rfl, rfl, fun r hr => ?_⟩
  have h10 : (r == 10) = false := by simp; omega
  have h11 : (r == 11) = false := by simp; omega
  have h12 : (r == 12) = false := by simp; omega
  have h13 : (r == 13) = false := by simp; omega
  simp [tget, List.lookup, h10, h11, h12, h13]

/-! ### Ageing, time and the end of a queue -/

theorem exec_ageExpiry_of_queue {s : State} {qid d : Nat} {q : Queue} (hev : s.ev = .ageExpiry qid d) (hq : s.queue qid = some q) :
    exec .ageExpiry s = if q.age ≠ 0 && s.eligible qid d q then
        .next ((s.modPart qid d fun p => { p with aged := true }).kick d) else .next s := by
  show execAgeExpiry s = _
  rw [execAgeExpiry, hev]
  dsimp only
  rw [hq]

theorem kick_mem (s : State) (d : Nat) : (s.kick d).mem = s.mem := by
  rw [State.kick]
  split <;> rfl

/-- With no entry due, the wheel stays as it is (R357). -/
theorem releaseWheel_of_none {s : State} {d : Nat} (h : ∀ w ∈ s.tqe.wheel, w.die = d → s.dtimeOf d < w.time) : s.releaseWheel d = s := by
  have hnone : s.tqe.wheel.filter (fun w => w.die == d && decide (w.time ≤ s.dtimeOf d)) = [] := by
    refine List.filter_eq_nil_iff.mpr fun w hw hdue => ?_
    simp only [Bool.and_eq_true, beq_iff_eq, decide_eq_true_eq] at hdue
    exact absurd (h w hw hdue.1) (by omega)
  rw [State.releaseWheel, hnone]
  rfl

/-- A microsecond of a die's time passes. -/
def State.ticked (s : State) (d : Nat) : State := { s with tqe := { s.tqe with dtime := tset d (s.dtimeOf d + 1000) s.tqe.dtime } }

theorem dtimeOf_ticked {s : State} {d e : Nat} (hd : d < 4) (he : e < 4) :
    (s.ticked d).dtimeOf e = if e = d then s.dtimeOf d + 1000 else s.dtimeOf e := by
  rw [State.dtimeOf, if_pos he, State.ticked, tget_tset, State.dtimeOf, State.dtimeOf, if_pos hd, if_pos he]

theorem exec_almanacTick_of_ev {s : State} {d : Nat} (hev : s.ev = .almanacTick d) :
    exec .almanacTick s = .next ((s.ticked d).releaseWheel d) := by
  have hexec : execAlmanacTick s = .next ((s.ticked d).releaseWheel d) := by
    unfold execAlmanacTick
    split
    next d' hd' =>
      cases hev.symm.trans hd'
      rfl
    next hne => exact absurd hev (hne d)
  exact hexec

/-- A queue whose work has ended is freed with its parts, its storage and its entries on the wheel (R363). -/
def State.queueFreed (s : State) (qid : Nat) (q : Queue) : State :=
  let u : State := { s with tqe := { s.tqe with wheel := s.tqe.wheel.filter fun w => w.q != qid } }
  let v := ((s.tqe.wheel.filter fun w => w.q == qid).foldl (fun s w => s.endWheel w 7) u).unpin q
  let w : State := { v with tqe := { v.tqe with queues := tdel qid v.tqe.queues, parts := v.tqe.parts.filter fun e => e.1 / 4 != qid } }
  q.enders.foldl (fun s c => s.answer c stOk) w

theorem exec_queueDestroyComplete_of_queue {s : State} {qid : Nat} {q : Queue} (hev : s.ev = .queueDestroyComplete qid)
    (hq : s.queue qid = some q) : exec .queueDestroyComplete s =
      if !q.dying || !s.queueEmpty qid then .next s
      else if s.queueCopies qid then .next (s.due [.queueDestroyComplete qid]) else .next (s.queueFreed qid q) := by
  show execQueueDestroyComplete s = _
  unfold execQueueDestroyComplete
  split
  next qid' hev' =>
    cases hev.symm.trans hev'
    rw [hq]
    rfl
  next hne => exact absurd hev (hne qid)

/-- A queue without entries on the wheel and without waiting commands takes nothing else with it. -/
theorem queueFreed_keeps {s : State} {qid : Nat} {q : Queue} (hwheel : ∀ w ∈ s.tqe.wheel, w.q ≠ qid) (henders : q.enders = []) :
    (s.queueFreed qid q).queue qid = none ∧ (∀ n, n ≠ qid → (s.queueFreed qid q).queue n = s.queue n) ∧ (s.queueFreed qid q).mem = s.mem := by
  have hnone : s.tqe.wheel.filter (fun w => w.q == qid) = [] :=
    List.filter_eq_nil_iff.mpr fun w hw hq => hwheel w hw (by simpa using hq)
  rw [State.queueFreed, hnone, henders]
  exact ⟨lookup_tdel_self .., fun n hn => lookup_tdel_ne _ hn, rfl⟩

/-- Settles O50: a decision of the TQE, the state of a new instance, ageing, the tick and the end of a queue, each by its event. -/
theorem taskQueueEngineDispatchesAndEnds : Obligations.TaskQueueEngineDispatchesAndEnds := by
  unfold Obligations.TaskQueueEngineDispatchesAndEnds
  refine ⟨?_, ?_, ?_, ?_, ?_⟩
  · intro s u d hev
    rw [exec_tqeDispatch_of_ev hev]
    refine ⟨fun hstep => by rw [hstep]; rfl, fun hstep => by rw [hstep]; rfl, ?_⟩
    intro ci h it hmarker horphan _ hcores hout htest hnext
    rw [tqeStep_of_dispatch hmarker horphan hcores hout htest hnext]
    rfl
  · intro s h it p q hp hq hwork x bulk
    obtain ⟨y, t, hentry, harg, hx⟩ := hart_dispatch (h := h) hp hq hwork
    obtain ⟨hpc, hpriv, hwait, hbiq, hgrant, hf, hinst, hslip, hregs⟩ := dispatched_state y t q p.img
      (if p.img.kind = 1 then p.img.base + it.ent.slice * p.img.grain else p.img.base)
      (if p.img.kind = 1 then Nat.min p.img.grain (p.img.count - it.ent.slice * p.img.grain) else 1)
      (q.sva + p.die * (64 * q.cap) + 64 * p.slot)
    obtain ⟨hvcfg, hvl, hmcfg, hpark⟩ := dispatched_csrs y t q p.img
      (if p.img.kind = 1 then p.img.base + it.ent.slice * p.img.grain else p.img.base)
      (if p.img.kind = 1 then Nat.min p.img.grain (p.img.count - it.ent.slice * p.img.grain) else 1)
      (q.sva + p.die * (64 * q.cap) + 64 * p.slot)
    obtain ⟨h10, h11, h12, h13, hrest⟩ := xr_of_arguments hregs
    rw [show x = _ from hx]
    refine ⟨hentry ▸ hpc, hpriv, hwait, hbiq, hgrant, hf, ?_, hslip, hvcfg, hvl, hmcfg, hpark, harg ▸ h10, h11, h12, h13, hrest⟩
    rw [hinst]
    exact Option.some_ne_none _
  · intro s qid d q hev hq
    rw [exec_ageExpiry_of_queue hev hq]
    refine ⟨fun hage helig => ⟨_, if_pos (by simp [hage, helig]), ?_, kick_mem ..⟩, fun hno => if_neg ?_⟩
    · rw [qpart_of_tqe (tqe_kick ..), qpart_modPart_self]
    · rcases hno with h | h <;> simp [h]
  · intro s d hev hd hlater
    have hsame : (s.ticked d).releaseWheel d = s.ticked d :=
      releaseWheel_of_none fun w hw hwd => (dtimeOf_ticked (s := s) hd hd).trans (if_pos rfl) ▸ hlater w hw hwd
    rw [exec_almanacTick_of_ev hev, hsame]
    exact ⟨_, rfl, (dtimeOf_ticked hd hd).trans (if_pos rfl), rfl, rfl, fun e he hne => (dtimeOf_ticked hd he).trans (if_neg hne)⟩
  · intro s qid q hev hq
    rw [exec_queueDestroyComplete_of_queue hev hq]
    refine ⟨fun hno => if_pos ?_, fun hdying hempty hcopies => ?_, fun hdying hempty hcopies hwheel henders => ?_⟩
    · rcases hno with h | h <;> simp [h]
    · rw [if_neg (by simp [hdying, hempty]), if_pos hcopies]
    · rw [if_neg (by simp [hdying, hempty]), if_neg (Bool.eq_false_iff.mp hcopies)]
      exact ⟨_, rfl, queueFreed_keeps hwheel henders⟩

end Sys2Proof.Machine
end

section
/-! PROOF. Requests at a home (O51). -/

namespace Sys2Proof.Machine

open Sys2Proof.Claims

/-! ### Arrival -/

theorem dir_setDir (s : State) (l : Nat) (d : Dir) : (s.setDir l d).dir l = d := tget_tset_self ..

theorem homeIdle_of_nil {s : State} {l : Nat} (h : tget [] s.coh.waitq l = []) : s.homeIdle l = s := by
  rw [State.homeIdle, h]
  rfl

/-- Using a line of the LLC changes the order of its set only (R377). -/
theorem llcTouch_eq (s : State) (l : Nat) : ∃ llc, s.llcTouch l = { s with coh := { s.coh with llc := llc } } := by
  unfold State.llcTouch
  dsimp only
  split
  · exact ⟨_, rfl⟩
  · exact ⟨s.coh.llc, rfl⟩

theorem homeArrive_of_busy {s : State} {l : Nat} (r : Req) (h : (s.dir l).busy = true ∨ tget [] s.coh.waitq l ≠ [] ∨ s.sliceFull l = true) :
    s.homeArrive l r = { s with coh := { s.coh with waitq := tset l (tget [] s.coh.waitq l ++ [r]) s.coh.waitq } } := by
  rw [State.homeArrive]
  refine if_pos ?_
  simp only [Bool.or_eq_true, Bool.not_eq_true', List.isEmpty_eq_false_iff]
  exact or_assoc.mpr h

theorem homeArrive_of_free {s : State} {l : Nat} (r : Req) (hbusy : (s.dir l).busy = false) (hwait : tget [] s.coh.waitq l = [])
    (hfull : s.sliceFull l = false) : s.homeArrive l r = (s.homeServe l r).homeIdle l :=
  if_neg (by simp [hbusy, hwait, hfull])

/-- A request that misses the LLC begins a fill (R388). -/
theorem homeServe_of_miss {s : State} {l : Nat} {r : Req} (hmiss : s.inLlc l = false) (hr : r ≠ .evict) (hneeds : r.needs ≠ 0) :
    s.homeServe l r = (s.begin l ⟨r, [], none, 1⟩).due [.llcFill l (s.coh.poison.contains l)] := by
  rw [State.homeServe, if_neg hr, if_pos (by simp [hmiss, hneeds])]

theorem needs_le (r : Req) : r.needs ≤ 2 := by
  cases r <;> simp [Req.needs]

theorem homeServe_of_idle {s : State} {l : Nat} {r : Req} (h : Idle s l) (hr : r ≠ .evict) : s.homeServe l r = (s.llcTouch l).homeAct l r := by
  obtain ⟨_, _, _, hllc, houter⟩ := h
  have hle := needs_le r
  rw [State.homeServe, if_neg hr, if_neg (by simp [hllc]), if_neg (by omega)]

/-- The answer at an idle line is what the table of R388 makes of a state that differs in the order of the LLC's set only. -/
theorem homeArrive_of_idle {s : State} {l : Nat} {r : Req} (h : Idle s l) (hr : r ≠ .evict) :
    ∃ llc, s.homeArrive l r = (State.homeAct { s with coh := { s.coh with llc := llc } } l r).homeIdle l := by
  obtain ⟨llc, hllc⟩ := llcTouch_eq s l
  refine ⟨llc, ?_⟩
  rw [homeArrive_of_free r h.1 h.2.1 h.2.2.1, homeServe_of_idle h hr, hllc]

/-- A request at an idle line is answered as `homeAct` says. -/
theorem answers_of_homeAct {i : Instr} {s : State} {l : Nat} {r : Req} {d : Dir} {es : List Ev} (hexec : exec i s = .next (s.homeArrive l r))
    (h : Idle s l) (hr : r ≠ .evict)
    (hact : ∀ u : State, u.dir l = s.dir l → let t := u.homeAct l r
      t.dir l = d ∧ t.agenda = u.agenda ++ es ∧ t.harts = u.harts ∧ t.coh.waitq = u.coh.waitq) : Answers i s l d es := by
  obtain ⟨llc, hllc⟩ := homeArrive_of_idle h hr
  obtain ⟨hdir, hagenda, hharts, hwait⟩ := hact { s with coh := { s.coh with llc := llc } } rfl
  have hnil := (congrArg (fun w => tget [] w l) hwait).trans h.2.1
  exact ⟨_, hexec.trans (congrArg _ (hllc.trans (homeIdle_of_nil hnil))), hdir, hagenda, hharts⟩

/-! ### The table of R388 -/

theorem homeAct_of_uncached {s : State} {l : Nat} {r : Req} (hr : ∀ n, r ≠ .wbreq n) (h : (s.dir l).st = 0) :
    s.homeAct l r = s.homeGrant l r false := by
  unfold State.homeAct
  dsimp only
  split
  next n => exact absurd rfl (hr n)
  next => exact if_pos h

theorem homeAct_of_alone {s : State} {l : Nat} {r : Req} (hr : ∀ n, r ≠ .wbreq n) (h : (s.dir l).st = 1) (hothers : (s.dir l).others r = []) :
    s.homeAct l r = s.homeGrant l r false := by
  unfold State.homeAct
  dsimp only
  split
  next n => exact absurd rfl (hr n)
  next => rw [if_neg (by omega), if_pos h, if_pos (by rw [hothers]; rfl)]

theorem homeAct_of_shared {s : State} {l : Nat} {r : Req} (hr : ∀ n, r ≠ .wbreq n) (h : (s.dir l).st = 1) (hothers : (s.dir l).others r ≠ []) :
    s.homeAct l r = (s.begin l ⟨r, (s.dir l).others r, none, 0⟩).due (((s.dir l).others r).map (.inv · l)) := by
  unfold State.homeAct
  dsimp only
  split
  next n => exact absurd rfl (hr n)
  next => rw [if_neg (by omega), if_pos h, if_neg (by simpa [List.isEmpty_iff] using hothers)]

/-- The request leaves the owner a copy. -/
def Req.shares : Req → Bool
  | .gets _ => true
  | .rdu => true
  | _ => false

theorem homeAct_of_owned {s : State} {l : Nat} {r : Req} (hr : ∀ n, r ≠ .wbreq n) (h : 1 < (s.dir l).st) : s.homeAct l r =
    (s.begin l ⟨r, [], some (s.dir l).owner, 0⟩).due [if r.shares then .downgr (s.dir l).owner l else .recall (s.dir l).owner l] := by
  unfold State.homeAct
  dsimp only
  split
  next n => exact absurd rfl (hr n)
  next =>
    rw [if_neg (by omega), if_neg (by omega)]
    cases r <;> rfl

theorem homeAct_wbreq (s : State) (l n : Nat) : s.homeAct l (.wbreq n) =
    if (s.dir l).st = 2 ∧ (s.dir l).owner = n then (s.begin l ⟨.wbreq n, [], none, 0⟩).due [.wbgo n l] else s.due [.wbstale n l] := by
  rw [State.homeAct]
  simp only [Bool.and_eq_true, decide_eq_true_eq]

theorem dir_begin (s : State) (l : Nat) (t : Txn) : (s.begin l t).dir l = { s.dir l with busy := true } := dir_setDir ..

/-! ### Answers -/

/-- An owned line is taken back, or shared with its owner (R388). -/
theorem answers_owned {i : Instr} {s : State} {l : Nat} {r : Req} (hexec : exec i s = .next (s.homeArrive l r)) (h : Idle s l)
    (hr : r ≠ .evict) (hwb : ∀ n, r ≠ .wbreq n) (hst : 1 < (s.dir l).st) :
    Answers i s l { s.dir l with busy := true } [if r.shares then .downgr (s.dir l).owner l else .recall (s.dir l).owner l] := by
  refine answers_of_homeAct hexec h hr fun u hu => ?_
  rw [homeAct_of_owned hwb (by rw [hu]; exact hst), hu]
  exact ⟨(dir_begin ..).trans (by rw [hu]), rfl, rfl, rfl⟩

/-- The other sharers of a line are told to give it up (R388, R389). -/
theorem answers_invalidated {i : Instr} {s : State} {l : Nat} {r : Req} (hexec : exec i s = .next (s.homeArrive l r)) (h : Idle s l)
    (hr : r ≠ .evict) (hwb : ∀ n, r ≠ .wbreq n) (hst : (s.dir l).st = 1) (hothers : (s.dir l).others r ≠ []) :
    Answers i s l { s.dir l with busy := true } (((s.dir l).others r).map (.inv · l)) := by
  refine answers_of_homeAct hexec h hr fun u hu => ?_
  rw [homeAct_of_shared hwb (by rw [hu]; exact hst) (by rw [hu]; exact hothers), hu]
  exact ⟨(dir_begin ..).trans (by rw [hu]), rfl, rfl, rfl⟩

/-- A line that no other node holds is granted at once (R388). -/
theorem answers_granted {i : Instr} {s : State} {l : Nat} {r : Req} {d : Dir} {es : List Ev} (hexec : exec i s = .next (s.homeArrive l r))
    (h : Idle s l) (hr : r ≠ .evict) (hwb : ∀ n, r ≠ .wbreq n) (hfree : (s.dir l).st = 0 ∨ (s.dir l).st = 1 ∧ (s.dir l).others r = [])
    (hgrant : ∀ u : State, u.dir l = s.dir l → let t := u.homeGrant l r false
      t.dir l = d ∧ t.agenda = u.agenda ++ es ∧ t.harts = u.harts ∧ t.coh.waitq = u.coh.waitq) : Answers i s l d es := by
  refine answers_of_homeAct hexec h hr fun u hu => ?_
  have hact : u.homeAct l r = u.homeGrant l r false := by
    rcases hfree with hst | ⟨hst, hothers⟩
    · exact homeAct_of_uncached hwb (by rw [hu]; exact hst)
    · exact homeAct_of_alone hwb (by rw [hu]; exact hst) (by rw [hu]; exact hothers)
  rw [hact]
  exact hgrant u hu

theorem memCells_eq_foldl (cs : List Host.Cell) (s : State) : (cs.foldl (fun s c => s.poke c.1 [c.2]) s).mem = memCells cs s.mem := by
  induction cs generalizing s with
  | nil => rfl
  | cons c cs ih => exact ih _

theorem coh_foldl_poke (cs : List Host.Cell) (s : State) : (cs.foldl (fun s c => s.poke c.1 [c.2]) s).coh = s.coh :=
  foldl_keep (fun s : State => s.coh) (fun s (c : Host.Cell) => s.poke c.1 [c.2]) (fun _ _ => rfl) cs s

theorem homeGrant_gets (u : State) (l n : Nat) : let t := u.homeGrant l (.gets n) false
    t.dir l = (if (u.dir l).st = 2 then (Dir.share (u.dir l).owner).add n
      else if (u.dir l).st = 1 then Dir.add { u.dir l with busy := false } n else Dir.share n) ∧
      t.agenda = u.agenda ++ [.dataS n l] ∧ t.harts = u.harts ∧ t.coh.waitq = u.coh.waitq := by
  refine ⟨(dir_setDir { u with coh := { u.coh with txn := tdel l u.coh.txn } } l _).trans ?_, rfl, rfl, rfl⟩
  rfl

theorem homeGrant_getx (u : State) (l n : Nat) : let t := u.homeGrant l (.getx n) false
    t.dir l = .own n ∧ t.agenda = u.agenda ++ [.dataE n l] ∧ t.harts = u.harts ∧ t.coh.waitq = u.coh.waitq :=
  ⟨dir_setDir { u with coh := { u.coh with txn := tdel l u.coh.txn } } l _, rfl, rfl, rfl⟩

theorem homeGrant_upg (u : State) (l n : Nat) : let t := u.homeGrant l (.upg n) false
    t.dir l = .own n ∧ t.agenda = u.agenda ++ [if (u.dir l).st = 1 && !(u.dir l).coarse && (u.dir l).covers n then .grantX n l else .dataE n l] ∧
      t.harts = u.harts ∧ t.coh.waitq = u.coh.waitq :=
  ⟨dir_setDir { u with coh := { u.coh with txn := tdel l u.coh.txn } } l _, rfl, rfl, rfl⟩

theorem homeGrant_rdu {u : State} {l : Nat} (h : (u.dir l).st ≠ 2) : let t := u.homeGrant l .rdu false
    t.dir l = { u.dir l with busy := false } ∧ t.agenda = u.agenda ++ [] ∧ t.harts = u.harts ∧ t.coh.waitq = u.coh.waitq :=
  ⟨(dir_setDir { u with coh := { u.coh with txn := tdel l u.coh.txn } } l _).trans (if_neg h), (List.append_nil _).symm, rfl, rfl⟩

/-- An atomic operation at a home without holders (R385, R388). -/
theorem homeGrant_amo {u : State} {l : Nat} (n pa op w x y : Nat) (h : (u.dir l).st = 0) : let t := u.homeGrant l (.amo n pa op w x y) false
    t.mem = memPutNat pa w (amoOp op w (memNat u.mem pa w) x y) u.mem ∧ t.dir l = .unc ∧
      .amoack n l (memNat u.mem pa w) ∈ t.agenda ∧ t.coh.waitq = u.coh.waitq := by
  refine ⟨rfl, (dir_setDir { u with coh := { u.coh with txn := tdel l u.coh.txn } } l _).trans ?_,
    List.mem_append_right _ (List.mem_singleton.mpr rfl), rfl⟩
  rw [h]
  rfl

/-- A line whose transaction has ended with no holder left, its LLC copy current. -/
def State.homeFreed (s : State) (l : Nat) : State :=
  (({ s with coh := { s.coh with txn := tdel l s.coh.txn } } : State).setDir l .unc).dropStale l

theorem homeGrant_wrm_eq {u : State} {l : Nat} (n : Nat) (cs : List Host.Cell) (h : (u.dir l).st = 0) :
    u.homeGrant l (.wrm n cs) false = (cs.foldl (fun s c => s.poke c.1 [c.2]) (u.homeFreed l)).due [.wrack n l] := by
  rw [State.homeGrant]
  dsimp only
  rw [h]
  rfl

/-- A masked write at a home without holders (R388). -/
theorem homeGrant_wrm {u : State} {l : Nat} (n : Nat) (cs : List Host.Cell) (h : (u.dir l).st = 0) : let t := u.homeGrant l (.wrm n cs) false
    t.mem = memCells cs u.mem ∧ t.dir l = .unc ∧ .wrack n l ∈ t.agenda ∧ t.coh.waitq = u.coh.waitq := by
  have hcoh := coh_foldl_poke cs (u.homeFreed l)
  rw [homeGrant_wrm_eq n cs h]
  have hdir : ((cs.foldl (fun s c => s.poke c.1 [c.2]) (u.homeFreed l))).dir l = .unc :=
    (congrArg (fun c : Coh => tget Dir.unc c.dir l) hcoh).trans (dir_setDir { u with coh := { u.coh with txn := tdel l u.coh.txn } } l .unc)
  have hwait : ((cs.foldl (fun s c => s.poke c.1 [c.2]) (u.homeFreed l))).coh.waitq = (u.homeFreed l).coh.waitq := congrArg Coh.waitq hcoh
  exact ⟨memCells_eq_foldl cs (u.homeFreed l), hdir, List.mem_append_right _ (List.mem_singleton.mpr rfl), hwait⟩

/-- A request at an idle line without holders is granted in a state that differs in the order of the LLC's set only. -/
theorem homeArrive_of_uncached {s : State} {l : Nat} {r : Req} (hidle : Idle s l) (hr : r ≠ .evict) (hwb : ∀ n, r ≠ .wbreq n)
    (hst : (s.dir l).st = 0) (hkeep : ∀ u : State, (u.dir l).st = 0 → (u.homeGrant l r false).coh.waitq = u.coh.waitq) :
    ∃ u : State, (u.dir l).st = 0 ∧ u.mem = s.mem ∧ s.homeArrive l r = u.homeGrant l r false := by
  obtain ⟨llc, hllc⟩ := homeArrive_of_idle hidle hr
  refine ⟨{ s with coh := { s.coh with llc := llc } }, hst, rfl, hllc.trans ?_⟩
  have hact := homeAct_of_uncached (s := { s with coh := { s.coh with llc := llc } }) hwb hst
  rw [hact]
  exact homeIdle_of_nil ((congrArg (fun q => tget [] q l) (hkeep { s with coh := { s.coh with llc := llc } } hst)).trans hidle.2.1)

/-- The messages of a request and its place in the queue of a home. -/
theorem exec_request {s : State} {n l pa op w x y : Nat} {cs : List Host.Cell} {p : Instr × Ev × Req}
    (hp : p ∈ [(Instr.gets, Ev.gets n l, Req.gets n), (.getx, .getx n l, .getx n), (.upg, .upg n l, .upg n), (.rdu, .rdu l, .rdu),
      (.wbreq, .wbreq n l, .wbreq n), (.wrm, .wrm n cs, .wrm n cs), (.amoRequest, .amoRequest n pa op w x y, .amo n pa op w x y)])
    (hev : s.ev = p.2.1) (hline : evLine p.2.1 = some l) : exec p.1 s = .next (s.homeArrive l p.2.2) ∧ p.2.2 ≠ .evict ∧
      (p.2.2.needs = 0 → p.2.2 = .wbreq n) := by
  simp only [List.mem_cons, List.not_mem_nil, or_false] at hp
  obtain rfl | rfl | rfl | rfl | rfl | rfl | rfl := hp
  · exact ⟨by show execGets s = _; rw [execGets, hev], nofun, nofun⟩
  · exact ⟨by show execGetx s = _; rw [execGetx, hev], nofun, nofun⟩
  · exact ⟨by show execUpg s = _; rw [execUpg, hev], nofun, nofun⟩
  · exact ⟨by show execRdu s = _; rw [execRdu, hev], nofun, nofun⟩
  · exact ⟨by show execWbreq s = _; rw [execWbreq, hev], nofun, fun _ => rfl⟩
  · refine ⟨?_, nofun, nofun⟩
    cases cs with
    | nil => cases hline
    | cons c cs =>
      cases hline
      show execWrm s = _
      rw [execWrm, hev]
      rfl
  · cases hline
    exact ⟨by show execAmoRequest s = _; rw [execAmoRequest, hev], nofun, nofun⟩

/-- Settles O51: a request waits, begins a fill, or is answered by the table of R388. -/
theorem homesServeRequests : Obligations.HomesServeRequests := by
  unfold Obligations.HomesServeRequests
  refine ⟨?_, ?_, ?_, ?_⟩
  · intro s n l pa op w x y cs p hp hev hline
    obtain ⟨hexec, hevict, hneeds⟩ := exec_request hp hev hline
    refine ⟨fun hwaits => ?_, fun hbusy hwait hfull hmiss hwb => ?_⟩
    · rw [homeArrive_of_busy _ hwaits] at hexec
      exact ⟨⟨_, hexec, rfl, (List.append_nil _).symm, rfl⟩, _, hexec, rfl, tget_tset_self ..⟩
    · rw [homeArrive_of_free _ hbusy hwait hfull, homeServe_of_miss hmiss hevict (mt hneeds hwb),
        homeIdle_of_nil (by exact hwait)] at hexec
      exact ⟨_, hexec, dir_begin .., rfl, rfl⟩
  · intro s n l hidle d
    have hbusy : (s.dir l).busy = false := hidle.1
    have hquiet : { s.dir l with busy := false } = s.dir l := by rw [← hbusy]
    have hothers (h : ∀ m ∈ (s.dir l).members, m = n) : (s.dir l).members.filter (· != n) = [] :=
      List.filter_eq_nil_iff.mpr fun m hm => by simpa using h m hm
    refine ⟨fun hev => ?_, fun hev => ?_, fun hev => ?_, fun hev => ?_, fun hev => ?_⟩
    · have hexec : exec .gets s = .next (s.homeArrive l (.gets n)) := by show execGets s = _; rw [execGets, hev]
      refine ⟨fun hst => ?_, fun hst => ?_, fun hst => answers_owned hexec hidle nofun nofun hst⟩
      · refine answers_granted hexec hidle nofun nofun (.inl hst) fun u hu => ?_
        obtain ⟨hdir, hrest⟩ := homeGrant_gets u l n
        refine ⟨hdir.trans ?_, hrest⟩
        rw [hu, show (s.dir l).st = 0 from hst]
        rfl
      · refine answers_granted hexec hidle nofun nofun (.inr ⟨hst, rfl⟩) fun u hu => ?_
        obtain ⟨hdir, hrest⟩ := homeGrant_gets u l n
        refine ⟨hdir.trans ?_, hrest⟩
        rw [hu, if_neg (by rw [show (s.dir l).st = 1 from hst]; decide), if_pos hst, hquiet]
    · have hexec : exec .getx s = .next (s.homeArrive l (.getx n)) := by show execGetx s = _; rw [execGetx, hev]
      refine ⟨fun hfree => ?_, fun hst hmem => ?_, fun hst => answers_owned hexec hidle nofun nofun hst⟩
      · exact answers_granted hexec hidle nofun nofun (hfree.imp_right fun h => ⟨h.1, hothers h.2⟩) fun u _ => homeGrant_getx u l n
      · refine answers_invalidated hexec hidle nofun nofun hst fun hnil => ?_
        obtain ⟨m, hm, hne⟩ := hmem
        exact List.filter_eq_nil_iff.mp hnil m hm (by simpa using hne)
    · have hexec : exec .upg s = .next (s.homeArrive l (.upg n)) := by show execUpg s = _; rw [execUpg, hev]
      refine ⟨fun hst => ?_, fun hst hmem => ?_, fun hst => answers_owned hexec hidle nofun nofun hst⟩
      · refine answers_granted hexec hidle nofun nofun (.inl hst) fun u hu => ?_
        obtain ⟨hdir, hagenda, hrest⟩ := homeGrant_upg u l n
        refine ⟨hdir, hagenda.trans ?_, hrest⟩
        rw [hu, show (s.dir l).st = 0 from hst]
        rfl
      · refine answers_granted hexec hidle nofun nofun (.inr ⟨hst, hothers hmem⟩) fun u hu => ?_
        obtain ⟨hdir, hagenda, hrest⟩ := homeGrant_upg u l n
        refine ⟨hdir, hagenda.trans ?_, hrest⟩
        rw [hu, show (s.dir l).st = 1 from hst]
        simp only [decide_true, Bool.true_and, Bool.and_eq_true, Bool.not_eq_true', d]
    · have hexec : exec .rdu s = .next (s.homeArrive l .rdu) := by show execRdu s = _; rw [execRdu, hev]
      refine ⟨fun hst => ?_, fun hst => answers_owned hexec hidle nofun nofun hst⟩
      have hfew : (s.dir l).st ≤ 1 := hst
      refine answers_granted hexec hidle nofun nofun ((Nat.le_one_iff_eq_zero_or_eq_one.mp hfew).imp id fun h => ⟨h, rfl⟩)
        fun u hu => ?_
      obtain ⟨hdir, hrest⟩ := homeGrant_rdu (u := u) (l := l) (by rw [hu]; omega)
      exact ⟨hdir.trans (by rw [hu, hquiet]), hrest⟩
    · have hexec : exec .wbreq s = .next (s.homeArrive l (.wbreq n)) := by show execWbreq s = _; rw [execWbreq, hev]
      refine ⟨fun hown => ?_, fun hnot => ?_⟩
      · refine answers_of_homeAct hexec hidle nofun fun u hu => ?_
        rw [homeAct_wbreq, if_pos (by rw [hu]; exact hown)]
        exact ⟨(dir_begin ..).trans (by rw [hu]), rfl, rfl, rfl⟩
      · refine answers_of_homeAct hexec hidle nofun fun u hu => ?_
        rw [homeAct_wbreq, if_neg (by rw [hu]; exact fun h => hnot.elim (· h.1) (· h.2))]
        exact ⟨hu, rfl, rfl, rfl⟩
  · intro s n pa op w x y l hev hidle hst
    have hexec : exec .amoRequest s = .next (s.homeArrive l (.amo n pa op w x y)) := by show execAmoRequest s = _; rw [execAmoRequest, hev]
    obtain ⟨u, hu, hmem, harrive⟩ := homeArrive_of_uncached hidle (r := .amo n pa op w x y) nofun (fun _ => nofun) hst
      fun v hv => (homeGrant_amo n pa op w x y hv).2.2.2
    obtain ⟨hwritten, hdir, hack, _⟩ := homeGrant_amo n pa op w x y hu
    rw [hmem] at hwritten hack
    exact ⟨_, hexec.trans (congrArg _ harrive), hwritten, hdir, hack⟩
  · intro s n c cs l hev hidle hst
    have hexec : exec .wrm s = .next (s.homeArrive l (.wrm n (c :: cs))) := by show execWrm s = _; rw [execWrm, hev]; rfl
    obtain ⟨u, hu, hmem, harrive⟩ := homeArrive_of_uncached hidle (r := .wrm n (c :: cs)) nofun (fun _ => nofun) hst
      fun v hv => (homeGrant_wrm n (c :: cs) hv).2.2.2
    obtain ⟨hwritten, hdir, hack, _⟩ := homeGrant_wrm n (c :: cs) hu
    rw [hmem] at hwritten
    exact ⟨_, hexec.trans (congrArg _ harrive), hwritten, hdir, hack⟩

end Sys2Proof.Machine
end

section
/-! PROOF. Answers at homes and messages at nodes (O52). -/

namespace Sys2Proof.Machine

open Sys2Proof.Claims

/-! ### The end of a transaction -/

/-- Where nothing waits, the end of a transaction lets nothing go on (R377, R387). -/
theorem homeFree_of_noneWaits {s : State} {l : Nat} (hwait : s.coh.waitq = []) (hroom : ∀ r ∈ s.coh.room, r.2 ≠ l) : s.homeFree l = s := by
  have hnone : s.coh.room.filter (fun r => r.2 == l) = [] := List.filter_eq_nil_iff.mpr fun r hr => by simpa using hroom r hr
  have hway : s.freeWay l = s := by
    rw [State.freeWay, hnone]
    rfl
  have hidle : s.homeIdle l = s := homeIdle_of_nil (by rw [hwait]; rfl)
  rw [State.homeFree, hway, hidle, hwait]
  exact ite_self _

/-- The outcome of a message whose transaction ends with a change that leaves the waiting requests alone. -/
theorem answers_of_homeFree {i : Instr} {s t : State} {l : Nat} {d : Dir} {es : List Ev} (hexec : exec i s = .next (t.homeFree l))
    (hnone : NoneWaits s l) (hwait : t.coh.waitq = s.coh.waitq) (hroom : t.coh.room = s.coh.room) (hdir : t.dir l = d)
    (hagenda : t.agenda = s.agenda ++ es) (hharts : t.harts = s.harts) : Answers i s l d es := by
  rw [homeFree_of_noneWaits (hwait.trans hnone.1) (by rw [hroom]; exact hnone.2)] at hexec
  exact ⟨t, hexec, hdir, hagenda, hharts⟩

theorem dir_setBusy (s : State) (l : Nat) (b : Bool) : (s.setBusy l b).dir l = { s.dir l with busy := b } := dir_setDir ..

/-! ### Answers at a home -/

theorem exec_puts_of_ev {s : State} {n l : Nat} (hev : s.ev = .puts n l) : exec .puts s = .next (s.homePuts n l) := by
  show execPuts s = _
  rw [execPuts, hev]

theorem exec_clean_of_ev {s : State} {n l : Nat} (hev : s.ev = .clean n l) : exec .clean s = .next (s.homeClean n l) := by
  show execClean s = _
  rw [execClean, hev]

theorem exec_iack_of_ev {s : State} {n l : Nat} (hev : s.ev = .iack n l) : exec .iack s = .next (s.homeIack n l) := by
  show execIack s = _
  rw [execIack, hev]

theorem exec_rdata_of_ev {s : State} {n l : Nat} {d g : Bool} (hev : s.ev = .rdata n l d g) : exec .rdata s = .next (s.homeRdata n l d g) := by
  show execRdata s = _
  rw [execRdata, hev]

theorem exec_wbdata_of_ev {s : State} {n l : Nat} {d : Bool} (hev : s.ev = .wbdata n l d) : exec .wbdata s = .next (s.homeWbdata n l d) := by
  show execWbdata s = _
  rw [execWbdata, hev]

theorem exec_llcFill_of_ev {s : State} {l : Nat} {p : Bool} (hev : s.ev = .llcFill l p) : exec .llcFill s = .next (s.llcFilled l p) := by
  show execLlcFill s = _
  rw [execLlcFill, hev]

theorem homePuts_of_listed {s : State} {n l : Nat} (h : (s.dir l).busy = false ∧ (s.dir l).coarse = false ∧ (s.dir l).covers n = true ∧
    (s.dir l).st = 1) : s.homePuts n l = s.setDir l ((s.dir l).remove n) := by
  obtain ⟨hbusy, hcoarse, hcovers, hst⟩ := h
  exact if_neg (by simp [hbusy, hcoarse, hcovers, hst])

theorem homePuts_of_other {s : State} {n l : Nat} (h : (s.dir l).busy = true ∨ (s.dir l).coarse = true ∨ (s.dir l).covers n = false ∨
    (s.dir l).st ≠ 1) : s.homePuts n l = s := by
  refine if_pos ?_
  simp only [Bool.or_eq_true, Bool.not_eq_true', decide_eq_true_eq]
  exact or_assoc.mpr (or_assoc.mpr h)

theorem homeClean_keeps (s : State) (n l : Nat) : (s.homeClean n l).dir l = s.dir l ∧ (s.homeClean n l).agenda = s.agenda ++ [.wrack n l] ∧
    (s.homeClean n l).harts = s.harts := by
  rw [State.homeClean]
  split <;> exact ⟨rfl, rfl, rfl⟩

theorem homeIack_of_more {s : State} {n l : Nat} {t : Txn} (ht : s.coh.txn.lookup l = some t) (hn : n ∈ t.acks) (hmore : t.acks.erase n ≠ []) :
    s.homeIack n l = { s with coh := { s.coh with txn := tset l { t with acks := t.acks.erase n } s.coh.txn } } := by
  rw [State.homeIack, ht]
  dsimp only
  rw [if_pos (by simpa using hn)]
  exact if_neg (by simpa [List.isEmpty_iff] using hmore)

theorem homeIack_of_last {s : State} {n l : Nat} {t : Txn} (ht : s.coh.txn.lookup l = some t) (hlast : t.acks = [n]) :
    s.homeIack n l = ((s.setBusy l false).homeGrant l t.req false).homeFree l := by
  rw [State.homeIack, ht]
  dsimp only
  rw [hlast, if_pos (by simp)]
  exact if_pos (by simp)

theorem homeRdata_of_owner {s : State} {n l : Nat} {t : Txn} (ht : s.coh.txn.lookup l = some t) (hown : t.owner = some n) (dirty gone : Bool) :
    s.homeRdata n l dirty gone = (((if dirty then s.dropStale l else s).setBusy l false).homeGrant l t.req gone).homeFree l := by
  rw [State.homeRdata, ht]
  exact if_pos hown

/-- What the end of a dirty copy leaves: everything but what the LLC's copy read. -/
theorem dropStale_if_keeps (s : State) (l : Nat) (dirty : Bool) : let u := if dirty then s.dropStale l else s
    u.dir = s.dir ∧ u.agenda = s.agenda ∧ u.harts = s.harts ∧ u.coh.waitq = s.coh.waitq ∧ u.coh.room = s.coh.room := by
  cases dirty <;> exact ⟨rfl, rfl, rfl, rfl, rfl⟩

theorem homeGrant_room_gets (u : State) (l n : Nat) : (u.homeGrant l (.gets n) false).coh.room = u.coh.room := rfl
theorem homeGrant_room_getx (u : State) (l n : Nat) : (u.homeGrant l (.getx n) false).coh.room = u.coh.room := rfl

/-- A transaction for ownership ends: its requester owns the line (R388, R389). -/
theorem answers_getx_end {i : Instr} {s u : State} {l m : Nat} (hexec : exec i s = .next (((u.setBusy l false).homeGrant l (.getx m) false).homeFree l))
    (hnone : NoneWaits s l) (hagenda : u.agenda = s.agenda) (hharts : u.harts = s.harts) (hwait : u.coh.waitq = s.coh.waitq)
    (hroom : u.coh.room = s.coh.room) : Answers i s l (.own m) [.dataE m l] := by
  obtain ⟨hdir, hdue, hsame, hqueue⟩ := homeGrant_getx (u.setBusy l false) l m
  exact answers_of_homeFree hexec hnone (hqueue.trans hwait) hroom hdir (hdue.trans (congrArg (· ++ _) hagenda)) (hsame.trans hharts)

/-! ### Fills -/

theorem llcFilled_poisoned {s : State} {l : Nat} {t : Txn} (ht : s.coh.txn.lookup l = some t) (hphase : t.phase = 1) :
    ∃ u : State, s.llcFilled l true = (u.setBusy l false).homeFree l ∧ u.dir = s.dir ∧ u.agenda = s.agenda ∧ u.harts = s.harts ∧
      u.coh.waitq = s.coh.waitq ∧ u.coh.room = s.coh.room ∧ l ∈ u.coh.poison := by
  unfold State.llcFilled
  rw [ht]
  dsimp only
  rw [if_neg (not_not_intro hphase), if_pos rfl]
  split
  all_goals exact ⟨_, rfl, rfl, rfl, rfl, rfl, rfl, List.mem_cons_self⟩

theorem llcRoom_of_room {s : State} {l : Nat} (h : (tget [] s.coh.llc (s.llcKey l)).length < 16) : s.llcRoom l = (s, true) :=
  if_pos (by simp [h])

theorem inLlc_llcInstall (s : State) (l : Nat) : (s.llcInstall l).inLlc l = true := by
  have hset : tget [] (s.llcInstall l).coh.llc (s.llcKey l) = (tget [] s.coh.llc (s.llcKey l)).filter (· != l) ++ [l] := tget_tset_self ..
  show (tget [] (s.llcInstall l).coh.llc (s.llcKey l)).contains l = true
  rw [hset]
  simp

/-- A clean fill with room serves the request that waited for it (R377, R388). -/
theorem llcFilled_clean {s : State} {l : Nat} {t : Txn} (ht : s.coh.txn.lookup l = some t) (hphase : t.phase = 1)
    (hroom : (tget [] s.coh.llc (s.llcKey l)).length < 16) : s.llcFilled l false =
      ((((s.llcInstall l).endTxn l).setBusy l false).homeServe l t.req).homeFree l := by
  unfold State.llcFilled
  rw [ht]
  dsimp only
  rw [if_neg (not_not_intro hphase), if_neg Bool.false_ne_true, llcRoom_of_room hroom]

/-- The line as it stands once its fill has come. -/
def State.filled (s : State) (l : Nat) : State := ((s.llcInstall l).endTxn l).setBusy l false

/-- A read of a filled line that no node holds is granted. -/
theorem homeServe_filled_gets {s : State} {l m : Nat} (hst : (s.dir l).st = 0) (houter : s.outer l = 2) :
    ∃ llc, (s.filled l).homeServe l (.gets m) =
      State.homeGrant { s.filled l with coh := { (s.filled l).coh with llc := llc } } l (.gets m) false := by
  obtain ⟨llc, hllc⟩ := llcTouch_eq (s.filled l) l
  refine ⟨llc, ?_⟩
  have hin : (s.filled l).inLlc l = true := inLlc_llcInstall s l
  have hout : (s.filled l).outer l = 2 := houter
  have hidle : ((s.filled l).dir l).st = 0 := (congrArg Dir.st (dir_setBusy ..)).trans hst
  rw [State.homeServe, if_neg nofun, if_neg (by simp [hin]), if_neg (by rw [hout]; simp [Req.needs]), hllc]
  exact homeAct_of_uncached nofun hidle

theorem answers_fill_gets {s : State} {l m : Nat} {t : Txn} (hev : s.ev = .llcFill l false) (ht : s.coh.txn.lookup l = some t)
    (hnone : NoneWaits s l) (hphase : t.phase = 1) (hreq : t.req = .gets m) (hst : (s.dir l).st = 0) (houter : s.outer l = 2)
    (hroom : (tget [] s.coh.llc (s.llcKey l)).length < 16) : Answers .llcFill s l (.share m) [.dataS m l] := by
  obtain ⟨llc, hserve⟩ := homeServe_filled_gets (m := m) hst houter
  have hexec := exec_llcFill_of_ev hev
  rw [llcFilled_clean ht hphase hroom, hreq, ← State.filled, hserve] at hexec
  obtain ⟨hdir, hagenda, hharts, hwait⟩ := homeGrant_gets { s.filled l with coh := { (s.filled l).coh with llc := llc } } l m
  have hidle : ((s.filled l).dir l).st = 0 := (congrArg Dir.st (dir_setBusy ..)).trans hst
  have hshare : (State.dir { s.filled l with coh := { (s.filled l).coh with llc := llc } } l).st = 0 := hidle
  exact answers_of_homeFree hexec hnone hwait rfl (hdir.trans (by rw [hshare]; rfl)) hagenda hharts

theorem llcFilled_stray {s : State} {l : Nat} (ht : s.coh.txn.lookup l = none) (p : Bool) : s.llcFilled l p =
    { s with coh := { s.coh with
        poison := if p then l :: s.coh.poison.filter (· != l) else s.coh.poison.filter (· != l) } } := by
  rw [State.llcFilled, ht]

/-! ### Lines of a node -/

theorem ns_setNs_self (s : State) (n l : Nat) (x : NState) : (s.setNs n l x).ns n l = x := by
  show tget .i (if x = .i then tdel (nkey n l) s.coh.nodes else tset (nkey n l) x s.coh.nodes) (nkey n l) = x
  split
  next h => rw [h, tget_tdel_self]
  next => exact tget_tset_self ..

theorem ns_setNs_ne (s : State) (n : Nat) {l v : Nat} (x : NState) (h : l ≠ v) : (s.setNs n v x).ns n l = s.ns n l := by
  have hkey : nkey n l ≠ nkey n v := fun e => h (Nat.add_left_cancel e)
  show tget .i (if x = .i then tdel (nkey n v) s.coh.nodes else tset (nkey n v) x s.coh.nodes) (nkey n l) = _
  split
  · exact tget_tdel_ne _ _ hkey
  · exact tget_tset_ne _ _ _ hkey

/-- What a node's cache leaves of a state when it takes line `l`: memory, the directory and the node's state of that line. -/
def State.LineKept (s t : State) (n l : Nat) : Prop := t.ns n l = s.ns n l ∧ t.mem = s.mem ∧ t.dir l = s.dir l

/-- The first of a set that has taken `l` as its last is another line. -/
theorem head_ne_of_touched {set : List Nat} {l v : Nat} {r : List Nat} (h : set.filter (· != l) ++ [l] = v :: r) (hr : r ≠ []) : l ≠ v := by
  rcases hset : set.filter (· != l) with _ | ⟨w, ws⟩
  · rw [hset] at h
    simp only [List.nil_append, List.cons.injEq] at h
    exact absurd h.2.symm hr
  · rw [hset, List.cons_append, List.cons.injEq] at h
    have hw : w ≠ l := bne_iff_ne.mp (List.mem_filter.mp (hset ▸ List.mem_cons_self : w ∈ set.filter (· != l))).2
    exact fun e => hw (h.1.trans e.symm)

theorem lineKept_l1dEvict (s : State) (n : Nat) {l v : Nat} (h : l ≠ v) : s.LineKept (s.l1dEvict n v) n l := by
  unfold State.l1dEvict
  dsimp only
  split
  · split
    · exact ⟨rfl, rfl, rfl⟩
    · exact ⟨ns_setNs_ne _ n _ h, rfl, rfl⟩
  · exact ⟨ns_setNs_ne _ n _ h, rfl, rfl⟩
  · exact ⟨ns_setNs_ne _ n _ h, rfl, rfl⟩
  · exact ⟨rfl, rfl, rfl⟩

theorem lineKept_l1dTouch (s : State) (n l : Nat) : s.LineKept (s.l1dTouch n l) n l := by
  unfold State.l1dTouch
  split
  · exact ⟨rfl, rfl, rfl⟩
  · dsimp only
    split
    · exact ⟨rfl, rfl, rfl⟩
    next hlen =>
      split
      next v r hset =>
        have hne : l ≠ v := head_ne_of_touched hset fun hr => hlen (by rw [hset, hr]; simp)
        exact lineKept_l1dEvict _ n hne
      next => exact ⟨rfl, rfl, rfl⟩

theorem lineKept_l1vTouch (s : State) (n l : Nat) : s.LineKept (s.l1vTouch n l) n l := by
  unfold State.l1vTouch
  dsimp only
  split
  · exact ⟨rfl, rfl, rfl⟩
  next hlen =>
    split
    next v r hset =>
      have hne : l ≠ v := head_ne_of_touched hset fun hr => hlen (by rw [hset, hr]; simp)
      split
      · exact ⟨rfl, rfl, rfl⟩
      · split
        · exact ⟨ns_setNs_ne _ n _ hne, rfl, rfl⟩
        · exact ⟨rfl, rfl, rfl⟩
    next => exact ⟨rfl, rfl, rfl⟩

theorem lineKept_bcTouch (s : State) (n l : Nat) : s.LineKept (s.bcTouch n l) n l := by
  unfold State.bcTouch
  dsimp only
  split
  · exact ⟨rfl, rfl, rfl⟩
  next hlen =>
    split
    next v r hset =>
      have hne : l ≠ v := head_ne_of_touched hset fun hr => hlen (by rw [hset, hr]; simp)
      split
      · exact ⟨rfl, rfl, rfl⟩
      · split
        · exact ⟨ns_setNs_ne _ n _ hne, rfl, rfl⟩
        · exact ⟨rfl, rfl, rfl⟩
    next => exact ⟨rfl, rfl, rfl⟩

theorem lineKept_intoCache (s : State) (c n l : Nat) : s.LineKept (s.intoCache c n l) n l := by
  unfold State.intoCache
  split
  · exact lineKept_l1vTouch s n l
  · split
    · exact lineKept_bcTouch s n l
    · exact lineKept_l1dTouch s n l

/-! ### Messages at a node -/

/-- A message that a node takes: its new state keeps memory and the line's entry. -/
theorem turns_of_orStop {i : Instr} {s t : State} {n l : Nat} {x : NState} {es : List Ev} {r : Option State}
    (hexec : exec i s = s.orStop n r) (hr : r = some t) (hns : t.ns n l = x) (hmem : t.mem = s.mem) (hdir : t.dir l = s.dir l)
    (hes : ∀ e ∈ es, e ∈ t.agenda) : Turns i s n l x es :=
  ⟨t, hexec.trans (by rw [hr]; rfl), hns, hmem, hdir, hes⟩

theorem mem_due (s : State) (es : List Ev) : ∀ e ∈ es, e ∈ (s.due es).agenda := fun _ he => List.mem_append_right _ he

theorem orStop_none {n : Nat} (s : State) (hn : n ≠ guestPort) : s.orStop n none = .fault .doesNotOccur := if_neg hn

theorem nodeInv_of_absent {s : State} {n l : Nat} (hx : s.ns n l = .i ∨ s.ns n l = .is ∨ s.ns n l = .im ∨ s.ns n l = .lostS) :
    s.nodeInv n l = some (s.due [.iack n l]) := by
  rcases hx with h | h | h | h <;> rw [State.nodeInv, h]

theorem nodeInv_of_owned {s : State} {n l : Nat} (hx : s.ns n l = .e ∨ s.ns n l = .m) : s.nodeInv n l = none := by
  rcases hx with h | h <;> rw [State.nodeInv, h]

theorem nodeTake_of_owned {s : State} {n l : Nat} {dirty late : Bool} (back : Bool) (hn : n ≠ guestPort)
    (hx : s.ns n l = if dirty then .m else .e) (hres : (s.reserved n l && !late) = false) : s.nodeTake n l back late =
      some ((if back then (s.dropCopies n l).setNs n l .i else s.setNs n l .s).due [.rdata n l dirty false]) := by
  unfold State.nodeTake
  rw [if_neg (by simp [hn])]
  cases dirty <;> cases back <;> simp [hx, hres]

theorem nodeTake_of_reserved {s : State} {n l : Nat} (back : Bool) (hn : n ≠ guestPort) (hx : s.ns n l = .e ∨ s.ns n l = .m)
    (hres : s.reserved n l = true) : s.nodeTake n l back false =
      some ({ s with coh := { s.coh with delayed := s.coh.delayed ++ [(n, l, back)] } }.due [.reservationTimeout n l]) := by
  unfold State.nodeTake
  rw [if_neg (by simp [hn])]
  rcases hx with hx | hx <;> simp [hx, hres]

theorem nodeTake_of_victim {s : State} {n l : Nat} {d : Bool} (back late : Bool) (hx : s.ns n l = .vb d) :
    s.nodeTake n l back late = some ((s.setNs n l .vbx).due [.rdata n l d true]) := by
  unfold State.nodeTake
  rw [if_neg (by simp [hx])]
  simp only [hx]

theorem nodeTake_of_unowned {s : State} {n l : Nat} (back late : Bool) (hn : n ≠ guestPort) (hx : s.ns n l = .i ∨ s.ns n l = .s) :
    s.nodeTake n l back late = none := by
  unfold State.nodeTake
  rw [if_neg (by simp [hn])]
  rcases hx with hx | hx <;> simp only [hx]

theorem nodeWbgo_of_unowned {s : State} {n l : Nat} (hx : s.ns n l = .i ∨ s.ns n l = .s) : s.nodeWbgo n l = none := by
  rcases hx with hx | hx <;> rw [State.nodeWbgo, hx]

/-- A hart without its reservation of a line. -/
def Hart.dropResv (x : Hart) (l : Nat) : Hart :=
  { x with resv := match x.resv with | some r => if r.1 = l then none else some r | none => none }

/-- The harts of a node without their reservations of a line. -/
def dropResvs (n l : Nat) (hs : Tab Hart) : Tab Hart := hs.map fun e => if coreOf e.1 = n then (e.1, e.2.dropResv l) else e

theorem reserved_dropResv (x : Hart) (l : Nat) : (match (x.dropResv l).resv with | some r => r.1 == l | none => false) = false := by
  rw [Hart.dropResv]
  cases hr : x.resv with
  | none => rfl
  | some r =>
    by_cases h : r.1 = l
    · simp [h]
    · simp [h]

theorem reserved_of_dropResvs {t : State} {n l : Nat} {hs : Tab Hart} (h : t.harts = dropResvs n l hs) : t.reserved n l = false := by
  rw [State.reserved, h, dropResvs, List.any_map, List.any_eq_false]
  intro e _ hres
  simp only [Function.comp_apply, Bool.and_eq_true, beq_iff_eq] at hres
  by_cases hc : coreOf e.1 = n
  · rw [if_pos hc] at hres
    exact Bool.noConfusion ((reserved_dropResv e.2 l).symm.trans hres.2)
  · rw [if_neg hc] at hres
    exact hc hres.1

/-- The node after the delays on a line are over, its delayed answers not yet given. -/
def State.delayOver (s : State) (n l : Nat) : State :=
  { s with coh := { s.coh with delayed := s.coh.delayed.filter fun e => !(e.1 == n && e.2.1 == l) }, harts := dropResvs n l s.harts }

theorem answerDelayed_of_one {s : State} {n l : Nat} {back : Bool} (hdelayed : s.coh.delayed = [(n, l, back)]) (hn : n ≠ guestPort)
    (hx : s.ns n l = .e) : s.answerDelayed n l =
      (if back then ((s.delayOver n l).dropCopies n l).setNs n l .i else (s.delayOver n l).setNs n l .s).due [.rdata n l false false] := by
  have hmine : (s.coh.delayed.filter fun e => e.1 == n && e.2.1 == l) = [(n, l, back)] := by
    rw [hdelayed]
    simp
  have htake := nodeTake_of_owned (s := s.delayOver n l) (late := true) (dirty := false) back hn hx (by simp)
  rw [State.answerDelayed, hmine]
  exact (congrArg (fun r : Option State => r.getD (s.delayOver n l)) htake).trans rfl

theorem exec_reservationTimeout_of_ev {s : State} {n l : Nat} (hev : s.ev = .reservationTimeout n l) : exec .reservationTimeout s =
    .next (if s.coh.delayed.any fun e => e.1 == n && e.2.1 == l then s.answerDelayed n l else s) := by
  show execReservationTimeout s = _
  rw [execReservationTimeout, hev]

theorem exec_recall_of_ev {s : State} {n l : Nat} (hev : s.ev = .recall n l) : exec .recall s = s.orStop n (s.nodeTake n l true false) := by
  show execRecall s = _
  rw [execRecall, hev]

theorem exec_downgr_of_ev {s : State} {n l : Nat} (hev : s.ev = .downgr n l) : exec .downgr s = s.orStop n (s.nodeTake n l false false) := by
  show execDowngr s = _
  rw [execDowngr, hev]

theorem exec_wbgo_of_ev {s : State} {n l : Nat} (hev : s.ev = .wbgo n l) : exec .wbgo s = s.orStop n (s.nodeWbgo n l) := by
  show execWbgo s = _
  rw [execWbgo, hev]

/-- A line asked for to read enters the cache for which it was asked (R390). -/
theorem nodeDataS_of_asked {s : State} {n l : Nat} (hx : s.ns n l = .is) : ∃ u : State,
    s.nodeDataS n l = some ((u.setNs n l .s).intoCache (tget 0 s.coh.want (nkey n l)) n l) ∧ u.mem = s.mem ∧ u.dir l = s.dir l := by
  rw [State.nodeDataS, hx]
  refine ⟨_, rfl, ?_, ?_⟩
  · split <;> rfl
  · split <;> rfl

/-- Settles O52: each message finds the transaction, the entry or the line state that it answers. -/
theorem homesAndNodesTakeAnswers : Obligations.HomesAndNodesTakeAnswers := by
  unfold Obligations.HomesAndNodesTakeAnswers
  refine ⟨?_, ?_, ?_, ?_, ?_⟩
  · intro s n l d
    refine ⟨fun hev => ⟨fun h => ?_, fun h => ?_⟩, fun hev => ?_, fun hev => ?_, fun v hev => ?_⟩
    · exact ⟨_, (exec_puts_of_ev hev).trans (congrArg _ (homePuts_of_listed h)), dir_setDir .., (List.append_nil _).symm, rfl⟩
    · exact (exec_puts_of_ev hev).trans (congrArg _ (homePuts_of_other h))
    · obtain ⟨hdir, hagenda, hharts⟩ := homeClean_keeps s n l
      exact ⟨_, exec_clean_of_ev hev, hdir, hagenda, hharts⟩
    · show execWrack s = _
      rw [execWrack, hev]
    · show execAmoack s = _
      rw [execAmoack, hev]
  · intro s n l m t ht hnone
    refine ⟨fun hev hn hmore => ?_, fun hev hlast hreq => ?_, fun dirty hev hown hreq => ?_, fun dirty hev hown hreq hst => ?_,
      fun dirty hev hreq => ?_, fun hev hphase => ?_, fun hev hphase hreq hst houter hroom => answers_fill_gets hev ht hnone hphase hreq hst houter hroom⟩
    · have hexec := (exec_iack_of_ev hev).trans (congrArg _ (homeIack_of_more ht hn hmore))
      exact ⟨⟨_, hexec, rfl, (List.append_nil _).symm, rfl⟩, _, hexec, lookup_tset_self ..⟩
    · have hexec := (exec_iack_of_ev hev).trans (congrArg _ (homeIack_of_last ht hlast))
      rw [hreq] at hexec
      exact answers_getx_end hexec hnone rfl rfl rfl rfl
    · have hexec := (exec_rdata_of_ev hev).trans (congrArg _ (homeRdata_of_owner ht hown dirty false))
      rw [hreq] at hexec
      obtain ⟨_, hagenda, hharts, hwait, hroom⟩ := dropStale_if_keeps s l dirty
      exact answers_getx_end hexec hnone hagenda hharts hwait hroom
    · have hexec := (exec_rdata_of_ev hev).trans (congrArg _ (homeRdata_of_owner ht hown dirty false))
      rw [hreq] at hexec
      obtain ⟨hdirs, hagenda, hharts, hwait, hroom⟩ := dropStale_if_keeps s l dirty
      obtain ⟨hdir, hdue, hsame, hqueue⟩ := homeGrant_gets ((if dirty then s.dropStale l else s).setBusy l false) l m
      refine answers_of_homeFree hexec hnone (hqueue.trans hwait) hroom (hdir.trans ?_) (hdue.trans (congrArg (· ++ _) hagenda)) (hsame.trans hharts)
      rw [dir_setBusy, hdirs, if_pos hst]
      rfl
    · have hexec : exec .wbdata s = .next ((((if dirty then s.dropStale l else s).endTxn l).setDir l .unc).homeFree l) := by
        rw [exec_wbdata_of_ev hev, State.homeWbdata, ht]
        exact congrArg _ (if_pos hreq)
      obtain ⟨_, hagenda, hharts, hwait, hroom⟩ := dropStale_if_keeps s l dirty
      exact answers_of_homeFree hexec hnone hwait hroom (dir_setDir ..) (hagenda.trans (List.append_nil _).symm) hharts
    · obtain ⟨u, hfill, hdir, hagenda, hharts, hwait, hroom, hpoison⟩ := llcFilled_poisoned ht hphase
      have hexec := (exec_llcFill_of_ev hev).trans (congrArg _ hfill)
      have hfree : (u.setBusy l false).homeFree l = u.setBusy l false :=
        homeFree_of_noneWaits (hwait.trans hnone.1) (by intro r hr; exact hnone.2 r (hroom ▸ hr))
      refine ⟨answers_of_homeFree hexec hnone hwait hroom ((dir_setBusy ..).trans (by rw [hdir])) (hagenda.trans (List.append_nil _).symm) hharts,
        _, hexec.trans (congrArg _ hfree), hpoison⟩
  · intro s l p hev ht
    refine ⟨_, (exec_llcFill_of_ev hev).trans (congrArg _ (llcFilled_stray ht p)), ?_, rfl, fun k hk => ?_⟩
    · cases p <;> simp
    · cases p <;> simp [hk]
  · intro s n l x
    refine ⟨fun hev => ?_, fun hn hres => ?_, fun hn hres hx => ?_, fun d hx => ?_, fun hn hx => ?_, fun hx hev => ?_, fun hx hev => ?_,
      fun hx hev => ?_, fun hx hev => ?_⟩
    · have hexec : exec .inv s = s.orStop n (s.nodeInv n l) := by show execInv s = _; rw [execInv, hev]
      refine ⟨fun hx => ?_, fun hx => ?_, fun hx => ?_, fun hx => ?_⟩
      · exact turns_of_orStop hexec (nodeInv_of_absent hx) rfl rfl rfl (mem_due _ _)
      · have hinv : s.nodeInv n l = some (((s.dropCopies n l).setNs n l .i).due [.iack n l]) := by rw [State.nodeInv, show s.ns n l = .s from hx]
        exact turns_of_orStop hexec hinv (ns_setNs_self ..) rfl rfl (mem_due _ _)
      · have hinv : s.nodeInv n l = some (((s.dropCopies n l).setNs n l .lostS).due [.iack n l]) := by rw [State.nodeInv, show s.ns n l = .sm from hx]
        exact turns_of_orStop hexec hinv (ns_setNs_self ..) rfl rfl (mem_due _ _)
      · rw [hexec, nodeInv_of_owned hx]
        rfl
    · have htaken {i : Instr} {back dirty : Bool} (hexec : exec i s = s.orStop n (s.nodeTake n l back false))
          (hx : s.ns n l = if dirty then .m else .e) : Turns i s n l (if back then .i else .s) [.rdata n l dirty false] := by
        refine turns_of_orStop hexec (nodeTake_of_owned back hn hx (by simp [hres])) ?_ ?_ ?_ (mem_due _ _)
        · cases back <;> exact ns_setNs_self ..
        · cases back <;> rfl
        · cases back <;> rfl
      exact ⟨fun hev => ⟨htaken (exec_recall_of_ev hev) (dirty := false), htaken (exec_recall_of_ev hev) (dirty := true)⟩,
        fun hev => ⟨htaken (exec_downgr_of_ev hev) (dirty := false), htaken (exec_downgr_of_ev hev) (dirty := true)⟩⟩
    · have hdelayed {i : Instr} {back : Bool} (hexec : exec i s = s.orStop n (s.nodeTake n l back false)) :
          Turns i s n l x [.reservationTimeout n l] :=
        turns_of_orStop hexec (nodeTake_of_reserved back hn hx hres) rfl rfl rfl (mem_due _ _)
      exact ⟨fun hev => hdelayed (exec_recall_of_ev hev), fun hev => hdelayed (exec_downgr_of_ev hev)⟩
    · have hvictim {i : Instr} {back : Bool} (hexec : exec i s = s.orStop n (s.nodeTake n l back false)) :
          Turns i s n l .vbx [.rdata n l d true] :=
        turns_of_orStop hexec (nodeTake_of_victim back false hx) (ns_setNs_self ..) rfl rfl (mem_due _ _)
      refine ⟨fun hev => hvictim (exec_recall_of_ev hev), fun hev => hvictim (exec_downgr_of_ev hev), fun hev => ?_⟩
      have hgo : s.nodeWbgo n l = some ((s.setNs n l .i).due [.wbdata n l d]) := by rw [State.nodeWbgo, show s.ns n l = .vb d from hx]
      exact turns_of_orStop (exec_wbgo_of_ev hev) hgo (ns_setNs_self ..) rfl rfl (mem_due _ _)
    · refine ⟨fun hev => ?_, fun hev => ?_⟩
      · rw [exec_recall_of_ev hev, nodeTake_of_unowned true false hn hx, orStop_none s hn]
      · rw [exec_wbgo_of_ev hev, nodeWbgo_of_unowned hx, orStop_none s hn]
    · have hexec : exec .wbstale s = s.orStop n (s.nodeWbstale n l) := by show execWbstale s = _; rw [execWbstale, hev]
      have hstale : s.nodeWbstale n l = some (s.setNs n l .i) := by
        obtain ⟨d, hx⟩ | hx := hx <;> rw [State.nodeWbstale, show s.ns n l = _ from hx]
      exact turns_of_orStop hexec hstale (ns_setNs_self ..) rfl rfl nofun
    · have hexec : exec .dataS s = s.orStop n (s.nodeDataS n l) := by show execDataS s = _; rw [execDataS, hev]
      obtain ⟨u, hdata, hmem, hdir⟩ := nodeDataS_of_asked hx
      obtain ⟨hns, hmem', hdir'⟩ := lineKept_intoCache (u.setNs n l .s) (tget 0 s.coh.want (nkey n l)) n l
      exact turns_of_orStop hexec hdata (hns.trans (ns_setNs_self ..)) (hmem'.trans hmem) (hdir'.trans hdir) nofun
    · have hexec : exec .dataE s = s.orStop n (s.nodeDataE n l) := by show execDataE s = _; rw [execDataE, hev]
      have hdata : s.nodeDataE n l = some (((s.setNs n l .e).dropVector n l).l1dTouch n l) := by
        rcases hx with hx | hx | hx <;> rw [State.nodeDataE, show s.ns n l = _ from hx]
      obtain ⟨hns, hmem, hdir⟩ := lineKept_l1dTouch ((s.setNs n l .e).dropVector n l) n l
      exact turns_of_orStop hexec hdata (hns.trans (ns_setNs_self s n l .e)) hmem hdir nofun
    · have hexec : exec .grantX s = s.orStop n (s.nodeGrantX n l) := by
        show execGrantX s = _
        rw [execGrantX, hev]
        refine if_neg fun h => ?_
        have hstate : NState.sm = .lostS := hx.symm.trans h.1
        cases hstate
      have hdata : s.nodeGrantX n l = some (((s.setNs n l .e).dropVector n l).l1dTouch n l) := by
        rw [State.nodeGrantX, show s.ns n l = _ from hx]
      obtain ⟨hns, hmem, hdir⟩ := lineKept_l1dTouch ((s.setNs n l .e).dropVector n l) n l
      exact turns_of_orStop hexec hdata (hns.trans (ns_setNs_self s n l .e)) hmem hdir nofun
  · intro s n l back hev
    have hexec := exec_reservationTimeout_of_ev hev
    refine ⟨fun hnone => hexec.trans (congrArg _ (if_neg ?_)), fun hdelayed hn hx => ?_⟩
    · rw [List.any_eq_true]
      rintro ⟨e, he, hmine⟩
      simp only [Bool.and_eq_true, beq_iff_eq] at hmine
      exact (hnone e he).elim (· hmine.1) (· hmine.2)
    · rw [if_pos (by rw [hdelayed]; simp), answerDelayed_of_one hdelayed hn hx] at hexec
      have hlater : (if back then ((s.delayOver n l).dropCopies n l).setNs n l .i else (s.delayOver n l).setNs n l .s).reserved n l = false := by
        cases back
        · exact reserved_of_dropResvs (hs := s.harts) rfl
        · exact reserved_of_dropResvs (hs := dropResvs n l s.harts) rfl
      refine ⟨⟨_, hexec, ?_, ?_, ?_, mem_due _ _⟩, _, hexec, hlater⟩
      · cases back <;> exact ns_setNs_self ..
      · cases back <;> rfl
      · cases back <;> rfl

end Sys2Proof.Machine
end

section
/-! PROOF. Links that fail, severed dies, and the events of the round unit (O53). -/

namespace Sys2Proof.Machine

open Sys2Proof.Claims

/-! ### Error records -/

/-- What a host event leaves: everything but memory and the count of interrupts. -/
theorem hostEvent_keeps (s : State) (c d q e : Nat) (b : Bool) : (s.hostEvent c d q e b).agenda = s.agenda ∧ (s.hostEvent c d q e b).coh = s.coh ∧
    (s.hostEvent c d q e b).mgmt = s.mgmt := by
  unfold State.hostEvent
  extract_lets base n wrn rdn a r u
  have hu : u.agenda = s.agenda ∧ u.coh = s.coh ∧ u.mgmt = s.mgmt := by
    dsimp only [u]
    split
    · exact ⟨rfl, rfl, rfl⟩
    · split <;> exact ⟨rfl, rfl, rfl⟩
  split <;> exact hu

/-- An error record is written to the log and counted (R510). -/
theorem errorRecord_keeps (s : State) (e : Err) : (s.errorRecord e).agenda = s.agenda ∧ (s.errorRecord e).coh = s.coh ∧
    (s.errorRecord e).mgmt.logn = s.mgmt.logn + 1 := by
  unfold State.errorRecord
  extract_lets n a r _ u
  split
  · obtain ⟨hagenda, hcoh, hmgmt⟩ := hostEvent_keeps u _ e.die (n + 1) _ false
    exact ⟨hagenda, hcoh, congrArg Mgmt.logn hmgmt⟩
  · exact ⟨rfl, rfl, rfl⟩

theorem corrected_keeps (s : State) (e : Err) : (s.corrected e).agenda = s.agenda ∧ (s.corrected e).coh = s.coh ∧
    (s.corrected e).harts = s.harts := by
  unfold State.corrected
  extract_lets key now n u
  split
  · exact ⟨rfl, rfl, rfl⟩
  · obtain ⟨hagenda, hcoh, _⟩ := errorRecord_keeps s e
    exact ⟨hagenda, hcoh, s.errorRecord_harts e⟩

/-! ### Links -/

theorem exec_linkError_of_ev {s : State} {a b : Nat} (hev : s.ev = .linkError a b) : exec .linkError s =
    if !s.isLink a b then .next s
    else .next (State.corrected { s.free.1 with coh := { s.coh with links := linkEnds a b :: s.coh.links.filter (· != linkEnds a b) } }
      { code := 0x03, sev := 0, unit := 7, die := Nat.min a b, detail := s.free.2.toNat }) := by
  show execLinkError s = _
  unfold execLinkError
  split
  next a' b' hev' =>
    cases hev.symm.trans hev'
    rfl
  next hne => exact absurd hev (hne a b)

theorem exec_linkRetrainFail_of_ev {s : State} {a b : Nat} (hev : s.ev = .linkRetrainFail a b) : exec .linkRetrainFail s =
    if !s.isLink a b then .next s
    else .next (State.due { s with coh := { s.coh with links := s.coh.links.filter (· != linkEnds a b) } }
      [if Nat.max a b = 5 then .protocolError 0 else .sever (if Nat.max a b = 4 then Nat.min a b else Nat.max a b)]) := by
  show execLinkRetrainFail s = _
  unfold execLinkRetrainFail
  split
  next a' b' hev' =>
    cases hev.symm.trans hev'
    rfl
  next hne => exact absurd hev (hne a b)

/-! ### What stays severed -/

theorem severed_llcDrop (s : State) (l : Nat) : (s.llcDrop l).coh.severed = s.coh.severed := by
  unfold State.llcDrop State.setOuter
  dsimp only
  split
  · rfl
  · split
    · split <;> rfl
    · split <;> rfl
    · rfl

theorem severed_homeGrant (s : State) (l : Nat) (r : Req) (g : Bool) : (s.homeGrant l r g).coh.severed = s.coh.severed := by
  cases r with
  | wrm n cells =>
    unfold State.homeGrant
    dsimp only
    show (cells.foldl (fun (s : State) c => s.poke c.1 [c.2]) _).coh.severed = _
    rw [coh_foldl_poke]
    rfl
  | evict => exact severed_llcDrop _ l
  | gets n => rfl
  | getx n => rfl
  | upg n => rfl
  | amo n pa op w x y => rfl
  | rdu => rfl
  | wbreq n => rfl

theorem severed_homeAct (s : State) (l : Nat) (r : Req) : (s.homeAct l r).coh.severed = s.coh.severed := by
  unfold State.homeAct
  dsimp only
  split
  · split <;> rfl
  · split
    · exact severed_homeGrant ..
    · split
      · split
        · exact severed_homeGrant ..
        · rfl
      · rfl

theorem severed_homeServe (s : State) (l : Nat) (r : Req) : (s.homeServe l r).coh.severed = s.coh.severed := by
  unfold State.homeServe
  split
  · exact severed_homeAct ..
  · split
    · rfl
    · split
      · split <;> rfl
      · obtain ⟨llc, hllc⟩ := llcTouch_eq s l
        rw [hllc]
        exact severed_homeAct ..

theorem severed_homeNext (k l : Nat) (s : State) : (State.homeNext k l s).coh.severed = s.coh.severed := by
  induction k generalizing s with
  | zero => rfl
  | succ k ih =>
    unfold State.homeNext
    split
    · rfl
    · split
      · rfl
      · exact (ih _).trans (severed_homeServe ..)

theorem severed_homeFree (s : State) (l : Nat) : (s.homeFree l).coh.severed = s.coh.severed := by
  have hway : (s.freeWay l).coh.severed = s.coh.severed := by
    rw [State.freeWay]
    split <;> rfl
  rw [State.homeFree]
  split
  · exact (foldl_keep (fun t : State => t.coh.severed) _ (fun t k => severed_homeNext _ k t) _ _).trans ((severed_homeNext ..).trans hway)
  · exact (severed_homeNext ..).trans hway

theorem severed_homeIack (s : State) (n l : Nat) : (s.homeIack n l).coh.severed = s.coh.severed := by
  unfold State.homeIack
  split
  · split
    · dsimp only
      split
      · exact (severed_homeFree ..).trans (severed_homeGrant ..)
      · rfl
    · rfl
  · rfl

theorem severed_homeRdata (s : State) (n l : Nat) (dirty gone : Bool) : (s.homeRdata n l dirty gone).coh.severed = s.coh.severed := by
  unfold State.homeRdata
  split
  · split
    · refine (severed_homeFree ..).trans ((severed_homeGrant ..).trans ?_)
      cases dirty <;> rfl
    · rfl
  · rfl

theorem severed_severTxn (s : State) (gone : Nat → Bool) (l : Nat) : (s.severTxn gone l).coh.severed = s.coh.severed := by
  unfold State.severTxn
  split
  · rfl
  · dsimp only
    split
    · split
      · exact severed_homeFree ..
      · rfl
    · split
      · exact severed_homeRdata ..
      · rfl
    · split
      · exact severed_homeIack ..
      · rfl
    · rfl

/-! ### Severing -/

/-- What severing keeps at each of its steps: the severed dies, and a log that does not shrink. -/
def State.SeverKeeps (s t : State) : Prop := t.coh.severed = s.coh.severed ∧ s.mgmt.logn ≤ t.mgmt.logn

theorem State.SeverKeeps.trans {s t u : State} (h : s.SeverKeeps t) (k : t.SeverKeeps u) : s.SeverKeeps u :=
  ⟨k.1.trans h.1, Nat.le_trans h.2 k.2⟩

theorem severKeeps_foldl {α : Type} {f : State → α → State} (hf : ∀ (s : State) a, s.SeverKeeps (f s a)) (l : List α) (s : State) :
    s.SeverKeeps (l.foldl f s) := by
  induction l generalizing s with
  | nil => exact ⟨rfl, Nat.le_refl _⟩
  | cons a l ih => exact (hf s a).trans (ih _)

theorem severKeeps_lostDirty (s : State) (l : Nat) : s.SeverKeeps (s.lostDirty l) := by
  obtain ⟨_, hcoh, hlogn⟩ := errorRecord_keeps (s.loseDirty l) { code := 0x12, sev := 1, unit := 5, die := s.homeDie (l * 128), pa := l * 128 }
  exact ⟨(congrArg Coh.severed hcoh).trans rfl, by rw [State.lostDirty, hlogn]; exact Nat.le_succ _⟩

theorem severKeeps_voidCopy (s : State) (n l : Nat) : s.SeverKeeps (s.voidCopy n l) := by
  unfold State.voidCopy
  extract_lets dirty u
  have hu : s.SeverKeeps u := ⟨rfl, Nat.le_refl _⟩
  split
  · exact hu.trans (severKeeps_lostDirty u l)
  · exact hu

theorem State.keeps_severTxn (s : State) (gone : Nat → Bool) (l : Nat) : s.CohKeeps (s.severTxn gone l) := by
  unfold State.severTxn
  split
  · exact .refl s
  · dsimp only
    split
    · split
      · exact .step (State.keeps_homeFree _ l) (.step (State.keeps_setDir _ l _) (State.keeps_endTxn s l))
      · exact s.keeps_coh _
    · split
      · exact .step (State.keeps_homeRdata _ _ l _ _) (s.keeps_coh _)
      · exact s.keeps_coh _
    · split
      · exact .step (State.keeps_homeIack _ _ l) (s.keeps_coh _)
      · exact s.keeps_coh _
    · exact s.keeps_coh _

theorem severKeeps_severTxn (s : State) (gone : Nat → Bool) (l : Nat) : s.SeverKeeps (s.severTxn gone l) :=
  ⟨severed_severTxn s gone l, Nat.le_of_eq (congrArg Mgmt.logn (State.mgmt_of_sansCoh (s.keeps_severTxn gone l).1)).symm⟩

/-- A die that is severed is listed, and the log has a record of it (R397, R510). -/
theorem sever_keeps (s : State) (d : Nat) : d ∈ (s.sever d).coh.severed ∧ s.mgmt.logn < (s.sever d).mgmt.logn := by
  unfold State.sever
  extract_lets lost _ u1 u2 u3 u4 dir rc _ _ u5
  have h2 : u1.SeverKeeps u2 := severKeeps_foldl severKeeps_lostDirty _ _
  have h3 : u2.SeverKeeps u3 := severKeeps_foldl (fun s k => severKeeps_voidCopy s _ _) _ _
  have h4 : u3.SeverKeeps u4 := severKeeps_foldl (fun s l => severKeeps_severTxn s _ l) _ _
  obtain ⟨hsevered, hlogn⟩ := h2.trans (h3.trans h4)
  have hlisted : d ∈ u1.coh.severed := List.mem_cons_self
  obtain ⟨_, hcoh, hcount⟩ := errorRecord_keeps u5 { code := 0x20, sev := 2, unit := 7, die := d, detail := d }
  constructor
  · rw [hcoh]
    exact hsevered ▸ hlisted
  · rw [hcount]
    exact Nat.lt_succ_of_le hlogn

theorem exec_sever_of_ev {s : State} {d : Nat} (hev : s.ev = .sever d) :
    exec .sever s = .next (if d < s.dies && !s.coh.severed.contains d then s.sever d else s) := by
  show execSever s = _
  rw [execSever, hev]

/-! ### Copies -/

/-- What a node's L1V leaves when it takes a line: that line's round copy too. -/
theorem copy_l1vTouch (s : State) (n l : Nat) : (s.l1vTouch n l).rounds.copies.lookup (nkey n l) = s.rounds.copies.lookup (nkey n l) ∧
    (s.l1vTouch n l).rounds.parked = s.rounds.parked ∧ (s.l1vTouch n l).rounds.regions = s.rounds.regions ∧
    (s.l1vTouch n l).harts = s.harts := by
  unfold State.l1vTouch
  dsimp only
  split
  · exact ⟨rfl, rfl, rfl, rfl⟩
  next hlen =>
    split
    next v r hset =>
      have hne : l ≠ v := head_ne_of_touched hset fun hr => hlen (by rw [hset, hr]; simp)
      split
      · exact ⟨rfl, rfl, rfl, rfl⟩
      · split
        · exact ⟨rfl, rfl, rfl, rfl⟩
        · exact ⟨lookup_tdel_ne _ fun e => hne (Nat.add_left_cancel e), rfl, rfl, rfl⟩
    next => exact ⟨rfl, rfl, rfl, rfl⟩

/-- What the answers to refetches leave: memory, the regions and the requests that are parked. -/
def State.CopiesOnly (s t : State) : Prop := t.mem = s.mem ∧ t.rounds.regions = s.rounds.regions ∧ t.rounds.parked = s.rounds.parked

theorem State.CopiesOnly.trans {s t u : State} (h : s.CopiesOnly t) (k : t.CopiesOnly u) : s.CopiesOnly u :=
  ⟨k.1.trans h.1, k.2.1.trans h.2.1, k.2.2.trans h.2.2⟩

theorem takeCopy_keeps (s : State) (n l rs : Nat) : s.CopiesOnly (s.takeCopy n l rs) ∧ (s.takeCopy n l rs).harts = s.harts ∧
    (s.takeCopy n l rs).rounds.copies.lookup (nkey n l) = some (rs, memBytes s.mem (l * 128) 128) := by
  obtain ⟨hcopy, hparked, hregions, hharts⟩ := copy_l1vTouch
    { s with rounds := { s.rounds with copies := tset (nkey n l) (rs, s.peek (l * 128) 128) s.rounds.copies } } n l
  exact ⟨⟨mem_l1vTouch .., hregions, hparked⟩, hharts, hcopy.trans (lookup_tset_self ..)⟩

theorem tellLate_keeps (s : State) (r : Refetch) : s.CopiesOnly (s.tellLate r) ∧ (s.tellLate r).rounds.copies = s.rounds.copies :=
  ⟨⟨rfl, rfl, rfl⟩, rfl⟩

theorem wakeStall_keeps (s : State) (n l : Nat) : s.CopiesOnly (s.wakeStall n l) ∧ (s.wakeStall n l).rounds.copies = s.rounds.copies :=
  ⟨⟨rfl, rfl, rfl⟩, rfl⟩

/-- A refetch is answered with a copy of the line and the slice's round (R408). -/
theorem answerRefetch_keeps {s : State} {r : Refetch} {g : Region} (hg : s.region r.rid = some g) (late : Bool) :
    s.CopiesOnly (s.answerRefetch r late) ∧ (s.answerRefetch r late).rounds.copies.lookup (nkey r.node r.line) =
      some (g.rsOf (s.homeSlice r.line), memBytes s.mem (r.line * 128) 128) := by
  obtain ⟨hkept, _, hcopy⟩ := takeCopy_keeps s r.node r.line (g.rsOf (s.homeSlice r.line))
  rw [State.answerRefetch, hg]
  dsimp only
  cases late
  · exact ⟨hkept.trans (wakeStall_keeps ..).1, hcopy⟩
  · exact ⟨(hkept.trans (tellLate_keeps ..).1).trans (wakeStall_keeps ..).1, hcopy⟩

theorem answerRefetch_copiesOnly (s : State) (r : Refetch) (late : Bool) : s.CopiesOnly (s.answerRefetch r late) := by
  cases hg : s.region r.rid with
  | some g => exact (answerRefetch_keeps hg late).1
  | none =>
    rw [State.answerRefetch, hg]
    exact (wakeStall_keeps ..).1

/-- Answering what waits at a slice touches no memory and no region. -/
theorem answerSlice_keeps (s : State) (slice : Nat) : (s.answerSlice slice).mem = s.mem ∧
    (s.answerSlice slice).rounds.regions = s.rounds.regions := by
  unfold State.answerSlice
  generalize s.rounds.parked.length = k
  induction k generalizing s with
  | zero => exact ⟨rfl, rfl⟩
  | succ k ih =>
    unfold State.answerParked
    split
    next r _ =>
      obtain ⟨hmem, hregions, _⟩ := answerRefetch_copiesOnly (s.unpark r) r false
      obtain ⟨ihmem, ihregions⟩ := ih ((s.unpark r).answerRefetch r false)
      exact ⟨ihmem.trans hmem, ihregions.trans hregions⟩
    next => exact ⟨rfl, rfl⟩

/-! ### Stalls -/

theorem lookup_map_key {α β : Type} (g : Nat → α → β) (t : Tab α) (k : Nat) :
    List.lookup k (t.map fun e => (e.1, g e.1 e.2)) = (t.lookup k).map (g k) := by
  induction t with
  | nil => rfl
  | cons e r ih =>
    obtain ⟨j, v⟩ := e
    simp only [List.map, List.lookup]
    split
    next h => rw [beq_iff_eq.mp h]; rfl
    next => exact ih

theorem hart_wakeStall {s : State} {n l h : Nat} {x : Hart} (hx : s.harts.lookup h = some x) : (s.wakeStall n l).hart h =
    if coreOf h = n ∧ x.wait = some (.stall l) then { x with wait := none } else x := by
  have hmap : (s.wakeStall n l).harts = s.harts.map fun e =>
      (e.1, if coreOf e.1 = n ∧ e.2.wait = some (.stall l) then { e.2 with wait := none } else e.2) := by
    rw [State.wakeStall]
    refine List.map_congr_left fun e _ => ?_
    split <;> rfl
  have hlook := lookup_map_key (fun k y => if coreOf k = n ∧ y.wait = some (.stall l) then ({ y with wait := none } : Hart) else y) s.harts h
  rw [State.hart, tget, hmap, hlook, hx]
  rfl

/-- The `ldbw` that asked learns that its answer is late, and looks again (R408). -/
theorem hart_answerRefetch_late {s : State} {r : Refetch} {g : Region} (hg : s.region r.rid = some g) (hblk : r.blk = 0)
    (hnode : coreOf r.hart = r.node) (hw : (s.hart r.hart).wait = some (.stall r.line)) :
    ((s.answerRefetch r true).hart r.hart).wait = none ∧ ((s.answerRefetch r true).hart r.hart).timedOut = true := by
  obtain ⟨_, hharts, _⟩ := takeCopy_keeps s r.node r.line (g.rsOf (s.homeSlice r.line))
  have hsame : (s.takeCopy r.node r.line (g.rsOf (s.homeSlice r.line))).hart r.hart = s.hart r.hart :=
    congrArg (fun hs => tget Hart.init hs r.hart) hharts
  have htold : ((s.takeCopy r.node r.line (g.rsOf (s.homeSlice r.line))).tellLate r).harts.lookup r.hart =
      some { s.hart r.hart with timedOut := true } := by
    refine (lookup_tset_self ..).trans ?_
    dsimp only
    rw [hsame, if_pos hblk, if_pos hw]
  rw [State.answerRefetch, hg]
  dsimp only
  rw [if_pos rfl, hart_wakeStall htold, if_pos ⟨hnode, hw⟩]
  exact ⟨rfl, rfl⟩

/-! ### Rounds -/

theorem modRegion_of_region {s : State} {rid : Nat} {g : Region} (hg : s.region rid = some g) (f : Region → Region) :
    s.modRegion rid f = { s with rounds := { s.rounds with regions := tset rid (f g) s.rounds.regions } } := by
  rw [State.modRegion, hg]

theorem region_modRegion {s : State} {rid : Nat} {g : Region} (hg : s.region rid = some g) (f : Region → Region) :
    (s.modRegion rid f).region rid = some (f g) := by
  rw [modRegion_of_region hg]
  exact lookup_tset_self ..

theorem modRegion_keeps (s : State) (rid : Nat) (f : Region → Region) : (s.modRegion rid f).mem = s.mem ∧ (s.modRegion rid f).harts = s.harts ∧
    (s.modRegion rid f).agenda = s.agenda ∧ (s.modRegion rid f).rounds.copies = s.rounds.copies ∧ (s.modRegion rid f).part = s.part := by
  unfold State.modRegion
  split <;> exact ⟨rfl, rfl, rfl, rfl, rfl⟩

theorem exec_refetchRequest_of_region {s : State} {n l f h k b rid : Nat} (hev : s.ev = .refetchRequest n l f h k b)
    (hrid : s.regionAt (l * 128) = some rid) : exec .refetchRequest s = .next (s.refetchArrives ⟨n, l, rid, f, h, k, b⟩) := by
  show execRefetchRequest s = _
  rw [execRefetchRequest, hev]
  dsimp only
  rw [hrid]

theorem exec_stallTimeout_of_parked {s : State} {n l f h k b rid : Nat} (hev : s.ev = .stallTimeout n l f h k b)
    (hparked : s.rounds.parked = [⟨n, l, rid, f, h, k, b⟩]) : exec .stallTimeout s =
      .next (((s.unpark ⟨n, l, rid, f, h, k, b⟩).answerRefetch ⟨n, l, rid, f, h, k, b⟩ true).answerSlice (s.homeSlice l)) := by
  show execStallTimeout s = _
  rw [execStallTimeout, hev]
  dsimp only
  rw [hparked]
  simp

theorem exec_replicaUpdate_of_ev {s : State} {rid slice : Nat} (hev : s.ev = .replicaUpdate rid slice) : exec .replicaUpdate s =
    .next (((s.modRegion rid fun g => { g with rs := tset slice g.round g.rs }).answerSlice slice).due [.replicaAck rid slice]) := by
  show execReplicaUpdate s = _
  rw [execReplicaUpdate, hev]

theorem exec_replicaAck_of_region {s : State} {rid slice : Nat} {g : Region} (hev : s.ev = .replicaAck rid slice)
    (hg : s.region rid = some g) : exec .replicaAck s =
      if g.busy && g.acks.contains slice then
        .next (if (g.acks.erase slice).isEmpty then (s.modRegion rid fun g => { g with acks := g.acks.erase slice }).publishEnd rid
          else s.modRegion rid fun g => { g with acks := g.acks.erase slice })
      else .next s := by
  show execReplicaAck s = _
  rw [execReplicaAck, hev]
  dsimp only
  rw [hg]

theorem exec_roundNotice_of_region {s : State} {rid d r : Nat} {g : Region} (hev : s.ev = .roundNotice rid d r)
    (hg : s.region rid = some g) : exec .roundNotice s =
      if reached r (g.viewOf d) then
        .next (if r % 2 ^ 24 = 0 then (s.modRegion rid fun g => { g with view := tset d r g.view }).voidCopies g d
          else s.modRegion rid fun g => { g with view := tset d r g.view })
      else .next s := by
  show execRoundNotice s = _
  rw [execRoundNotice, hev]
  dsimp only
  rw [hg]

/-- The hart that published gets the round and goes on (R418). -/
def State.answerPublisher (s : State) (g : Region) : State :=
  match g.queue with
  | .hart h :: _ => (match (s.hart h).wait with
    | some (.publish _ rd) => s.finish h rd (BitVec.ofNat 64 g.round)
    | _ => s)
  | _ => s

/-- A published round: in the descriptor, and on its way to every die. -/
def State.published (s : State) (rid : Nat) (g : Region) : State :=
  (s.agentWrite (g.desc + 0x10) (leBytes 4 g.round)).due ((List.range (s.agentWrite (g.desc + 0x10) (leBytes 4 g.round)).dies).map
    fun d => .roundNotice rid d g.round)

theorem publishEnd_of_region {s : State} {rid : Nat} {g : Region} (hg : s.region rid = some g) : s.publishEnd rid =
    let t := ((s.published rid g).answerPublisher g).modRegion rid fun g => { g with busy := false, queue := g.queue.drop 1 }
    if g.queue.length ≤ 1 then t else t.publishStart rid := by
  rw [State.publishEnd, hg]
  rfl

theorem agenda_answerPublisher (s : State) (g : Region) : (s.answerPublisher g).agenda = s.agenda := by
  unfold State.answerPublisher
  split
  · split <;> rfl
  · rfl

theorem agenda_publishStart {s : State} {e : Ev} (h : e ∈ s.agenda) (rid : Nat) : e ∈ (s.publishStart rid).agenda := by
  unfold State.publishStart
  split
  · refine List.mem_append_left _ ?_
    rw [(modRegion_keeps ..).2.2.1]
    exact h
  · exact h

/-- Every die is told of the round (R414 step 5). -/
theorem roundNotice_mem_publishEnd {s : State} {rid d : Nat} {g : Region} (hg : s.region rid = some g) (hd : d < s.dies) :
    .roundNotice rid d g.round ∈ (s.publishEnd rid).agenda := by
  have hdies : (s.agentWrite (g.desc + 0x10) (leBytes 4 g.round)).dies = s.dies := by
    rw [State.dies, State.dies, State.part_of_sansCoh (s.keeps_agentWrite _ _).1]
  have hsent : .roundNotice rid d g.round ∈ (s.published rid g).agenda :=
    List.mem_append_right _ (List.mem_map.mpr ⟨d, List.mem_range.mpr (by rw [hdies]; exact hd), rfl⟩)
  have hkept : .roundNotice rid d g.round ∈ (((s.published rid g).answerPublisher g).modRegion rid
      fun g => { g with busy := false, queue := g.queue.drop 1 }).agenda := by
    rw [(modRegion_keeps ..).2.2.1, agenda_answerPublisher]
    exact hsent
  rw [publishEnd_of_region hg]
  dsimp only
  split
  · exact hkept
  · exact agenda_publishStart hkept rid

theorem xr_setX_pos (x : Hart) {r : Nat} (hr : 0 < r) (v : Word) : (x.setX r v).xr r = v := by
  rw [Hart.xr_setX, if_pos rfl, if_neg (by omega)]

theorem wait_of_sansCoh {s t : State} (h : t.sansCoh = s.sansCoh) (k : Nat) : (t.hart k).wait = (s.hart k).wait := by
  have q := congrArg (fun x : Hart => x.wait) (State.hart_of_sansCoh h k)
  exact q

/-- The hart that published goes on with the round (R418). -/
theorem hart_publishEnd {s : State} {rid rid' h rd : Nat} {g : Region} (hg : s.region rid = some g) (hqueue : g.queue = [.hart h])
    (hw : (s.hart h).wait = some (.publish rid' rd)) (hrd : 0 < rd) :
    ((s.publishEnd rid).hart h).wait = none ∧ ((s.publishEnd rid).hart h).xr rd = BitVec.ofNat 64 g.round := by
  have hwait : ((s.published rid g).hart h).wait = some (.publish rid' rd) :=
    (wait_of_sansCoh (s.keeps_agentWrite (g.desc + 0x10) (leBytes 4 g.round)).1 h).trans hw
  have hanswer : (s.published rid g).answerPublisher g = (s.published rid g).finish h rd (BitVec.ofNat 64 g.round) := by
    rw [State.answerPublisher, hqueue]
    dsimp only
    rw [hwait]
  have hhart : (s.publishEnd rid).hart h = ((s.published rid g).finish h rd (BitVec.ofNat 64 g.round)).hart h := by
    rw [publishEnd_of_region hg, hanswer]
    dsimp only
    rw [if_pos (by rw [hqueue]; simp)]
    exact congrArg (fun hs => tget Hart.init hs h) (modRegion_keeps ..).2.1
  rw [hhart, State.finish, State.hart_modHart_self]
  exact ⟨rfl, xr_setX_pos _ hrd _⟩

/-- Settles O53: a link or a die that fails is listed, a refetch is answered or parked, a round reaches its replicas and its publisher. -/
theorem linksFailAndRoundsPropagate : Obligations.LinksFailAndRoundsPropagate := by
  unfold Obligations.LinksFailAndRoundsPropagate
  refine ⟨?_, ?_, ?_, ?_, ?_⟩
  · intro s a b
    refine ⟨fun hev hlink => ?_, fun hev hlink => ?_, fun hev hlink => ?_, fun hev hlink => ?_⟩
    · obtain ⟨hagenda, hcoh, hharts⟩ := corrected_keeps
        { s.free.1 with coh := { s.coh with links := linkEnds a b :: s.coh.links.filter (· != linkEnds a b) } }
        { code := 0x03, sev := 0, unit := 7, die := Nat.min a b, detail := s.free.2.toNat }
      refine ⟨_, (exec_linkError_of_ev hev).trans (if_neg (by simp [hlink])), ?_, hagenda, hharts⟩
      rw [hcoh]
      exact List.mem_cons_self
    · exact (exec_linkError_of_ev hev).trans (if_pos (by simp [hlink]))
    · refine ⟨_, (exec_linkRetrainFail_of_ev hev).trans (if_neg (by simp [hlink])), ?_, rfl, ?_⟩
      · exact fun hmem => by simpa using (List.mem_filter.mp hmem).2
      · refine congrArg (fun e => s.agenda ++ [e]) ?_
        show (if max a b = 5 then Ev.protocolError 0 else .sever (if max a b = 4 then min a b else max a b)) = _
        rw [apply_ite Ev.sever]
    · exact (exec_linkRetrainFail_of_ev hev).trans (if_pos (by simp [hlink]))
  · intro s d hev
    refine ⟨fun hno => (exec_sever_of_ev hev).trans (congrArg _ (if_neg ?_)), fun hd hnew => ?_⟩
    · rcases hno with h | h
      · simp [Nat.not_lt.mpr h]
      · simp [h]
    · exact ⟨_, (exec_sever_of_ev hev).trans (congrArg _ (if_pos (by simp [hd, hnew]))), sever_keeps s d⟩
  · intro s n l f h k b rid g hev hrid hg rs
    have hexec := exec_refetchRequest_of_region hev hrid
    rw [State.refetchArrives, hg] at hexec
    dsimp only at hexec
    refine ⟨fun hnear => ?_, fun hfar => ?_⟩
    · rw [if_pos (show reached rs f = true from decide_eq_true hnear)] at hexec
      obtain ⟨⟨hmem, _, hparked⟩, hcopy⟩ := answerRefetch_keeps (r := ⟨n, l, rid, f, h, k, b⟩) hg false
      exact ⟨_, hexec, hmem, hcopy, hparked⟩
    · rw [if_neg (by simpa [reached] using hfar)] at hexec
      by_cases hthere : (s.rounds.parked.any fun p => p == ⟨n, l, rid, f, h, k, b⟩) = true
      · rw [if_pos hthere] at hexec
        obtain ⟨p, hp, hpeq⟩ := List.any_eq_true.mp hthere
        exact ⟨_, hexec, rfl, rfl, beq_iff_eq.mp hpeq ▸ hp⟩
      · rw [if_neg hthere] at hexec
        exact ⟨_, hexec, rfl, rfl, List.mem_append_right _ (List.mem_singleton.mpr rfl)⟩
  · intro s n l f h k b rid g hev hparked hg
    have hunpark : (s.unpark ⟨n, l, rid, f, h, k, b⟩).rounds.parked = [] := by
      show s.rounds.parked.filter _ = []
      rw [hparked]
      simp
    obtain ⟨⟨hmem, _, hkept⟩, hcopy⟩ := answerRefetch_keeps (s := s.unpark ⟨n, l, rid, f, h, k, b⟩) (r := ⟨n, l, rid, f, h, k, b⟩) hg true
    have hnone : ((s.unpark ⟨n, l, rid, f, h, k, b⟩).answerRefetch ⟨n, l, rid, f, h, k, b⟩ true).answerSlice (s.homeSlice l) =
        (s.unpark ⟨n, l, rid, f, h, k, b⟩).answerRefetch ⟨n, l, rid, f, h, k, b⟩ true := by
      rw [State.answerSlice, hkept, hunpark]
      rfl
    refine ⟨_, (exec_stallTimeout_of_parked hev hparked).trans (congrArg _ hnone), hmem, hkept.trans hunpark, hcopy, fun hb hnode hw => ?_⟩
    exact hart_answerRefetch_late (s := s.unpark ⟨n, l, rid, f, h, k, b⟩) (r := ⟨n, l, rid, f, h, k, b⟩) hg hb hnode hw
  · intro s rid slice g hg
    refine ⟨fun hev => ?_, fun hev hbusy hack => ⟨fun hmore => ?_, fun hlast => ?_⟩, fun hev hno => ?_, fun d r hev hr => ?_⟩
    · obtain ⟨hmem, hregions⟩ := answerSlice_keeps (s.modRegion rid fun g => { g with rs := tset slice g.round g.rs }) slice
      refine ⟨_, exec_replicaUpdate_of_ev hev, hmem.trans (modRegion_keeps ..).1, List.mem_append_right _ (List.mem_singleton.mpr rfl), ?_⟩
      exact (congrArg (List.lookup rid) hregions).trans (region_modRegion hg _)
    · have hexec := (exec_replicaAck_of_region hev hg).trans (if_pos (by simp [hbusy, hack]))
      rw [if_neg (by simpa [List.isEmpty_iff] using hmore)] at hexec
      exact ⟨_, hexec, (modRegion_keeps ..).1, region_modRegion hg _⟩
    · have hexec := (exec_replicaAck_of_region hev hg).trans (if_pos (by simp [hbusy, hack]))
      rw [if_pos (by rw [hlast]; rfl)] at hexec
      have hregion := region_modRegion hg fun g => { g with acks := g.acks.erase slice }
      obtain ⟨_, hharts, _, _, hpart⟩ := modRegion_keeps s rid fun g => { g with acks := g.acks.erase slice }
      refine ⟨_, hexec, fun d hd => ?_, fun h rd hqueue hw hrd => ?_⟩
      · have hsent := roundNotice_mem_publishEnd (d := d) hregion (by rw [State.dies, hpart]; exact hd)
        exact hsent
      · have hanswered := hart_publishEnd (rd := rd) hregion hqueue ((congrArg (fun hs => (tget Hart.init hs h).wait) hharts).trans hw) hrd
        exact hanswered
    · refine (exec_replicaAck_of_region hev hg).trans (if_neg ?_)
      rcases hno with h | h <;> simp [h]
    · have hexec := exec_roundNotice_of_region hev hg
      by_cases hnear : (r + 2 ^ 32 - g.viewOf d % 2 ^ 32) % 2 ^ 32 < 2 ^ 31
      · rw [if_pos (show reached r (g.viewOf d) = true from decide_eq_true hnear), if_neg hr] at hexec
        refine ⟨_, hexec, (modRegion_keeps ..).1, (modRegion_keeps ..).2.2.2.1, ?_⟩
        rw [region_modRegion hg, if_pos hnear]
      · rw [if_neg (by simpa [reached] using hnear)] at hexec
        exact ⟨s, hexec, rfl, rfl, by rw [hg, if_neg hnear]⟩

end Sys2Proof.Machine
end

section
/-! PROOF. The events of the translation engine (O54). -/

namespace Sys2Proof.Machine

open Sys2Proof.Claims

/-! ### Walks -/

theorem exec_walkComplete_of_refused {s : State} {u p va acc : Nat} (hev : s.ev = .walkComplete u p va acc)
    (hroot : s.rootOf (pasidCx u p (unitDie u)) = none ∨ s.rootOf (pasidCx u p (unitDie u)) = some none) : exec .walkComplete s = .next s := by
  show execWalkComplete s = _
  rw [execWalkComplete, hev]
  dsimp only
  rcases hroot with hroot | hroot <;> rw [hroot]

theorem exec_walkComplete_of_root {s : State} {u p va acc root : Nat} {hdm : Option Nat} (hev : s.ev = .walkComplete u p va acc)
    (hroot : s.rootOf (pasidCx u p (unitDie u)) = some (some (root, hdm))) : exec .walkComplete s = .next
      (s.walkFor (pasidCx u p (unitDie u)) (if acc = 0 then .load else if acc = 1 then .store else .fetch) (va % 2 ^ 57) root hdm).1 := by
  show execWalkComplete s = _
  rw [execWalkComplete, hev]
  dsimp only
  rw [hroot]

/-! ### Dropped translations -/

/-- Replaying the users of dropped translations of every core touches nothing but blocks. -/
theorem dropAll_keep {β : Type} (get : State → β) (hq : ∀ (s : State) h j, get (s.modHart h fun x => { x with biq := replayFrom j x.biq }) = get s)
    (htlb : ∀ (s : State) p, get (s.tlbDrop p) = get s) (s : State) (hit : Tlb → Bool) : get (s.dropAll hit) = get s := by
  rw [State.dropAll]
  refine (htlb _ _).trans (foldl_keep get _ (fun t ci => ?_) s.usedCores s)
  exact (coreDrop_keep get hq t ci _).trans (htlb ..)

theorem not_hit_of_mem_dropAll {s : State} {hit : Tlb → Bool} {e : Tlb} (he : e ∈ (s.dropAll hit).xlat.tlb) :
    ¬ (e.unit ≠ unitGuest ∧ hit e = true) := by
  rintro ⟨hunit, hhit⟩
  have hkept := (List.mem_filter.mp he).2
  simp [hunit, hhit] at hkept

/-- With the guest's own translations dropped too, no translation that the invalidation names is left. -/
theorem not_hit_of_mem_guestDrop {s : State} {hit : Tlb → Bool} {e : Tlb}
    (he : e ∈ ((s.dropAll hit).tlbDrop fun t => t.unit == unitGuest && hit t).xlat.tlb) : hit e = false := by
  obtain ⟨hall, hguest⟩ := List.mem_filter.mp he
  have hrest := not_hit_of_mem_dropAll hall
  by_cases hunit : e.unit = unitGuest
  · simpa [hunit] using hguest
  · exact Bool.eq_false_iff.mpr fun hhit => hrest ⟨hunit, hhit⟩

/-- With no guest bound an invalidation is complete at once (R435). -/
theorem invalidate_of_unbound {s : State} (hg : s.gbnd = false) (i : Inval) :
    s.invalidate i = (s.dropAll (invHits i.pasid i.asid i.va i.len)).finishInval i := by
  have hkeep : (s.dropAll (invHits i.pasid i.asid i.va i.len)).gbnd = false :=
    (dropAll_keep State.gbnd (fun _ _ _ => rfl) (fun _ _ => rfl) s _).trans hg
  rw [State.invalidate]
  dsimp only
  rw [hkeep, Bool.false_and, if_neg Bool.false_ne_true]

theorem exec_inval_of_waiting {s : State} {c : MCmd} (hev : s.ev = .inval c) (hturn : s.inTurn c = false) :
    exec .inval s = .next (s.due [.inval c]) := by
  show execInval s = _
  rw [execInval, hev]
  dsimp only
  rw [hturn, Bool.not_false, if_pos rfl]

theorem exec_inval_of_bad {s : State} {c : MCmd} (hev : s.ev = .inval c) (hturn : s.inTurn c = true)
    (hbad : 2 ^ 21 ≤ c.arg 0 ∨ 2 ^ 52 ≤ c.arg 2) : exec .inval s = .next (s.answer c 1) := by
  have hrange : c.arg 0 / 2 ^ 21 ≠ 0 ∨ 2 ^ 52 ≤ c.arg 2 ∨ ownWindowVa (c.arg 1) = true := by
    rcases hbad with hbad | hbad
    · exact .inl (by omega)
    · exact .inr (.inl hbad)
  show execInval s = _
  rw [execInval, hev]
  dsimp only
  rw [hturn, Bool.not_true, if_neg Bool.false_ne_true, if_pos hrange]
  rfl

/-- The context that an invalidation of a PASID names is live. -/
theorem ctxLive_of {s : State} {a : Nat} (h : a.testBit 20 = false ∨ ∃ x, s.ctxOf (a % 2 ^ 20) = some x ∧ x.2.state = 1) :
    ¬ (a.testBit 20 = true ∧ (!(match s.ctxOf (a % 2 ^ 20) with | some (_, x) => x.state == 1 | none => false)) = true) := by
  rintro ⟨hbit, hdead⟩
  rcases h with h | ⟨x, hx, hlive⟩
  · exact Bool.false_ne_true (h.symm.trans hbit)
  · rw [hx] at hdead
    simp [hlive] at hdead

theorem exec_inval_of_legal {s : State} {c : MCmd} (hev : s.ev = .inval c) (hturn : s.inTurn c = true) (ha : c.arg 0 < 2 ^ 21)
    (hlen : c.arg 2 < 2 ^ 52) (hown : ownWindowVa (c.arg 1) = false)
    (hctx : (c.arg 0).testBit 20 = false ∨ ∃ x, s.ctxOf (c.arg 0 % 2 ^ 20) = some x ∧ x.2.state = 1) : exec .inval s =
      if s.anyAtom then .next (s.due [.inval c]) else .next (s.nextTag.1.invalidate ⟨s.nextTag.2,
        if (c.arg 0).testBit 20 then some (c.arg 0 % 2 ^ 20) else none, if (c.arg 0).testBit 20 then none else some (c.arg 0 % 2 ^ 20), c.arg 1,
        c.arg 2 * 4096, some c, false⟩) := by
  have hrange : ¬ (c.arg 0 / 2 ^ 21 ≠ 0 ∨ 2 ^ 52 ≤ c.arg 2 ∨ ownWindowVa (c.arg 1) = true) := by
    rw [hown]
    rintro (h | h | h)
    · omega
    · omega
    · exact Bool.false_ne_true h
  show execInval s = _
  rw [execInval, hev]
  dsimp only
  rw [hturn, Bool.not_true, if_neg Bool.false_ne_true, if_neg hrange]
  exact if_neg (ctxLive_of hctx)

theorem exec_atsInvalidate_of_ev {s : State} {p va pages : Nat} (hev : s.ev = .atsInvalidate p va pages) : exec .atsInvalidate s =
    if s.anyAtom then .next (s.due [.atsInvalidate p va pages])
    else .next (s.nextTag.1.invalidate ⟨s.nextTag.2, some p, none, va, pages * 4096, none, true⟩) := by
  show execAtsInvalidate s = _
  rw [execAtsInvalidate, hev]

/-! ### Page responses -/

theorem prgFreed_of_none {s : State} (h : s.xlat.parkq = []) : s.prgFreed = s := by
  rw [State.prgFreed, h]

/-- A scalar access whose page has come goes on (R437). -/
theorem parkOk_scalar {s : State} {h k cause : Nat} {va : Word} (hw : (s.hart h).wait = some (.page k cause va)) (pages : List (Nat × Nat)) :
    (s.parkOk (.scalar h) pages).hart h = { s.hart h with wait := none } := by
  rw [State.parkOk, State.hart_modHart_self, hw]

/-- A scalar access whose page does not come takes its trap (R437). -/
theorem parkBad_scalar {s : State} {h k cause : Nat} {va : Word} (hw : (s.hart h).wait = some (.page k cause va)) (hpriv : (s.hart h).priv ≠ .m)
    (pages : List (Nat × Nat)) : s.parkBad (.scalar h) pages = ((s.modHart h fun x => { x with wait := none }).modHart h fun x =>
      x.trap (x.trapsToS cause) cause false va) := by
  have hmode : ((s.modHart h fun x => { x with wait := none }).hart h).priv ≠ .m := by
    rw [State.hart_modHart_self]
    exact hpriv
  rw [State.parkBad, hw]
  show (s.modHart h fun x => { x with wait := none }).exceptAt h cause va = _
  rw [State.exceptAt, decide_eq_false hmode, Bool.false_and]
  rfl

theorem takesTrap_parkBad {s : State} {h k cause : Nat} {va : Word} (hw : (s.hart h).wait = some (.page k cause va)) (hpriv : (s.hart h).priv ≠ .m)
    (pages : List (Nat × Nat)) : TakesTrap (s.hart h) ((s.parkBad (.scalar h) pages).hart h) cause va := by
  rw [parkBad_scalar hw hpriv, State.hart_modHart_self, State.hart_modHart_self]
  exact takesTrap_trap { s.hart h with wait := none } cause va

/-- A parked scalar access goes on or traps with nothing but its hart changed. -/
theorem parkBad_scalar_keeps {s : State} {h k cause : Nat} {va : Word} (hw : (s.hart h).wait = some (.page k cause va))
    (hpriv : (s.hart h).priv ≠ .m) (pages : List (Nat × Nat)) : (s.parkBad (.scalar h) pages).mem = s.mem ∧
      (s.parkBad (.scalar h) pages).xlat = s.xlat := by
  rw [parkBad_scalar hw hpriv]
  exact ⟨rfl, rfl⟩

/-- The state in which a response has freed its group index and left its context one group fewer. -/
def State.responded (s : State) (idx : Nat) (g : Prg) (x : Ctx) : State :=
  { s with xlat := { s.xlat with prgs := s.xlat.prgs.filter (fun g => g.idx != idx)
                                 ctx := tset g.slot { x with prgn := x.prgn - 1 } s.xlat.ctx } }

/-- A response in time and of its own generation ends the wait that it answers (R437). -/
theorem exec_prgResponse_of_current {s : State} {idx code : Nat} {g : Prg} {x : Ctx} (hev : s.ev = .prgResponse idx code)
    (hg : (s.xlat.prgs.find? fun g => g.idx == idx) = some g) (horphan : g.orphan = false) (hx : s.xlat.ctx.lookup g.slot = some x)
    (hgen : x.gen = g.gen) (hlive : x.state = 1) : exec .prgResponse s = .next (State.prgFreed
      (if code = 0 then (s.responded idx g x).parkOk g.who g.pages else (s.responded idx g x).parkBad g.who g.pages)) := by
  show execPrgResponse s = _
  unfold execPrgResponse
  split
  next i c hev' =>
    cases hev.symm.trans hev'
    have hcurrent : (x.gen == g.gen && x.state == 1) = true := by simp [hgen, hlive]
    rw [hg]
    dsimp only
    rw [hx]
    dsimp only
    refine congrArg (fun u : State => Host.Outcome.next u.prgFreed) ((if_neg ?_).trans rfl)
    rw [hcurrent, horphan]
    exact Bool.false_ne_true
  next hne => exact absurd hev (hne idx code)

/-- The state in which the group of an index waits for nobody. -/
def State.overdue (s : State) (idx : Nat) : State :=
  { s with xlat := { s.xlat with prgs := s.xlat.prgs.map fun x => if x.idx = idx then { x with who := .nobody } else x } }

theorem exec_prtoExpiry_of_group {s : State} {idx : Nat} {g : Prg} (hev : s.ev = .prtoExpiry idx) (hidx : idx < 512)
    (hg : (s.xlat.prgs.find? fun g => g.idx == idx) = some g) : exec .prtoExpiry s = .next ((s.overdue idx).parkBad g.who g.pages) := by
  show execPrtoExpiry s = _
  unfold execPrtoExpiry
  split
  next i hev' =>
    cases hev.symm.trans hev'
    rw [if_neg (Nat.not_le.mpr hidx), hg]
    rfl
  next hne => exact absurd hev (hne idx)

/-- The group of an index, found again once it waits for nobody. -/
theorem find_map_nobody {l : List Prg} {idx : Nat} {g : Prg} (hg : (l.find? fun g => g.idx == idx) = some g) :
    ((l.map fun x => if x.idx = idx then { x with who := .nobody } else x).find? fun g => g.idx == idx) = some { g with who := .nobody } := by
  have hidx : g.idx = idx := by simpa using List.find?_some hg
  have hsame : ((fun g : Prg => g.idx == idx) ∘ fun x : Prg => if x.idx = idx then { x with who := .nobody } else x) = fun g => g.idx == idx := by
    funext x
    by_cases hx : x.idx = idx <;> simp [hx]
  rw [List.find?_map, hsame, hg]
  exact congrArg some (if_pos hidx)

/-! ### The host port -/

theorem exec_hostPortReset_of_none {s : State} (hev : s.ev = .hostPortReset) (hpark : s.xlat.parkq = []) : exec .hostPortReset s =
    .next { s with xlat := { s.xlat with prgs := s.xlat.prgs.filter fun g => !(g.orphan || g.who == .nobody) } } := by
  show execHostPortReset s = _
  unfold execHostPortReset
  split
  next =>
    extract_lets n _ u
    have hfix : ∀ l : List Nat, l.foldl (fun s _ => s.prgFreed) u = u := fun l => by
      induction l with
      | nil => rfl
      | cons a l ih => rw [List.foldl_cons, prgFreed_of_none (s := u) hpark, ih]
    rw [hfix]
  next hne => exact absurd hev hne

/-! ### The stop of a PASID -/

/-- What neither memory nor the front end holds stays at a host event. -/
theorem hostEvent_keep {β : Type} (get : State → β) (hmem : ∀ (s : State) m, get { s with mem := m } = get s)
    (hfe : ∀ (s : State) f, get { s with fe := f } = get s) (s : State) (c d q e : Nat) (b : Bool) : get (s.hostEvent c d q e b) = get s := by
  unfold State.hostEvent
  extract_lets base n wrn rdn a r u
  have hu : get u = get s := by
    dsimp only [u]
    split
    · rfl
    · split <;> exact hmem s _
  split
  · exact (hfe u _).trans hu
  · exact hu

theorem hostNote_keep {β : Type} (get : State → β) (hmem : ∀ (s : State) m, get { s with mem := m } = get s)
    (hfe : ∀ (s : State) f, get { s with fe := f } = get s) (hfresh : ∀ (s : State) n, get { s with fresh := n } = get s) (s : State)
    (c d e : Nat) (b : Bool) : get (s.hostNote c d e b) = get s := by
  unfold State.hostNote
  exact (hostEvent_keep get hmem hfe s.free.1 ..).trans (hfresh s _)

theorem errorRecord_keep {β : Type} (get : State → β) (hmem : ∀ (s : State) m, get { s with mem := m } = get s)
    (hfe : ∀ (s : State) f, get { s with fe := f } = get s) (hmgmt : ∀ (s : State) m, get { s with mgmt := m } = get s) (s : State) (e : Err) :
    get (s.errorRecord e) = get s := by
  unfold State.errorRecord
  extract_lets n a r _ u
  have hlog : ∀ m g, get { s with mem := m, mgmt := g } = get s := fun m g => (hmem { s with mgmt := g } m).trans (hmgmt s g)
  have hu : get u = get s := hlog _ _
  split
  · exact (hostEvent_keep get hmem hfe u _ e.die (n + 1) _ false).trans hu
  · exact hu

/-- What neither coherence, the front end nor a hart holds stays when a command is answered. -/
theorem answer_keep {β : Type} (get : State → β) (hcoh : ∀ s t : State, t.sansCoh = s.sansCoh → get t = get s)
    (hfe : ∀ (s : State) f, get { s with fe := f } = get s) (hhart : ∀ (s : State) h f, get (s.modHart h f) = get s) (s : State) (c : MCmd)
    (st r0 r1 : Nat) : get (s.answer c st r0 r1) = get s := by
  unfold State.answer
  extract_lets bs _ u _ v w
  have hu : get u = get s := hfe s u.fe
  have hv : get v = get s := by
    dsimp only [v]
    split
    · exact (hfe ..).trans hu
    · exact (hcoh _ _ (State.keeps_agentWrite u _ bs).1).trans hu
  have hw : get w = get s := by
    dsimp only [w]
    split
    · exact ((hhart ..).trans (hhart ..)).trans hv
    · exact hv
  split
  · exact (hostNote_keep get (fun s m => hcoh s { s with mem := m } rfl) hfe (fun s n => hcoh s { s with fresh := n } rfl) ..).trans hw
  · exact hw

theorem errorRecord_xlat (s : State) (e : Err) : (s.errorRecord e).xlat = s.xlat :=
  errorRecord_keep State.xlat (fun _ _ => rfl) (fun _ _ => rfl) (fun _ _ => rfl) s e

theorem answer_xlat (s : State) (c : MCmd) (st r0 r1 : Nat) : (s.answer c st r0 r1).xlat = s.xlat :=
  answer_keep State.xlat (fun _ _ => State.xlat_of_sansCoh) (fun _ _ => rfl) (fun _ _ _ => rfl) s c st r0 r1

/-- A freed slot is empty and of the next generation (R438). -/
theorem ctx_freeSlot {s : State} {slot : Nat} {x : Ctx} (hx : s.xlat.ctx.lookup slot = some x) (status : Nat) :
    (s.freeSlot slot status).xlat.ctx.lookup slot = some { x with state := 0, gen := (x.gen + 1) % 16, orphans := 0, prgn := 0 } ∧
      (s.freeSlot slot status).xlat.tlb = s.xlat.tlb := by
  unfold State.freeSlot
  rw [hx]
  dsimp only
  split
  · rw [answer_xlat]
    exact ⟨lookup_tset_self .., rfl⟩
  · exact ⟨lookup_tset_self .., rfl⟩

theorem exec_pstop_of_unknown {s : State} {c : MCmd} (hev : s.ev = .pstop c) (hctx : s.ctxOf (c.arg 0) = none) :
    exec .pstop s = .next (s.answer c 3) := by
  show execPstop s = _
  rw [execPstop, hev]
  dsimp only
  rw [hctx, ite_self]
  rfl

theorem exec_pstop_of_slot {s : State} {c : MCmd} {slot : Nat} {x : Ctx} (hev : s.ev = .pstop c) (hp : c.arg 0 < 2 ^ 20)
    (hctx : s.ctxOf (c.arg 0) = some (slot, x)) (hfirst : s.pstopOf (c.arg 0) = some c) : exec .pstop s =
      if x.state = 1 then .next ((if s.inTurn c then s.beginStop (c.arg 0) slot x else s).due [.pstop c])
      else if x.state ≠ 2 then .next s
      else if s.stopAcked (c.arg 0) then .next (s.endStop (c.arg 0) slot) else .next (s.due [.pstop c]) := by
  show execPstop s = _
  rw [execPstop, hev]
  dsimp only
  rw [if_pos hp, hctx]
  dsimp only
  rw [hfirst, Option.any_some, bne_self_eq_false, if_neg Bool.false_ne_true]

/-- The end of a stop with no response outstanding frees the slot, and no translation of the PASID is left (R438). -/
theorem endStop_of_none {s : State} {p slot : Nat} {x : Ctx} (hx : s.xlat.ctx.lookup slot = some x) (horphans : x.orphans = 0) :
    (s.endStop p slot).xlat.ctx.lookup slot = some { x with state := 0, gen := (x.gen + 1) % 16, orphans := 0, prgn := 0 } ∧
      ∀ e ∈ (s.endStop p slot).xlat.tlb, e.tag ≠ .pasid p := by
  unfold State.endStop
  extract_lets u
  have hu : u.xlat.ctx.lookup slot = some x :=
    (congrArg (List.lookup slot) (dropAll_keep (fun t => t.xlat.ctx) (fun _ _ _ => rfl) (fun _ _ => rfl) s _)).trans hx
  rw [hu]
  dsimp only
  rw [if_pos horphans]
  obtain ⟨hctx, htlb⟩ := ctx_freeSlot (s := { u with xlat := { u.xlat with ctx := tset slot { x with state := 3 } u.xlat.ctx } })
    (lookup_tset_self slot { x with state := 3 } u.xlat.ctx) stOk
  refine ⟨hctx, fun e he htag => ?_⟩
  rw [htlb] at he
  have hkept := (List.mem_filter.mp he).2
  simp [invHits, htag] at hkept

theorem exec_drainTimeout_of_slot {s : State} {slot : Nat} {x : Ctx} (hev : s.ev = .drainTimeout slot) (hx : s.xlat.ctx.lookup slot = some x) :
    exec .drainTimeout s = if x.state = 3 then
      .next ((s.errorRecord { code := 0x15, sev := 1, unit := 10, pasid := x.pasid, detail := x.orphans }).freeSlot slot stDrainTo)
      else .next s := by
  show execDrainTimeout s = _
  rw [execDrainTimeout, hev]
  dsimp only
  rw [hx]

/-- Settles O54: each event by what its unit does where the premises hold; what an invalidation leaves is what its last filter keeps. -/
theorem translationsAreWalkedAndDropped : Obligations.TranslationsAreWalkedAndDropped := by
  unfold Obligations.TranslationsAreWalkedAndDropped
  refine ⟨?_, ?_, ?_, ?_, ?_, ?_, ?_⟩
  · intro s u p va acc root hdm hev
    exact ⟨exec_walkComplete_of_refused hev, exec_walkComplete_of_root hev⟩
  · intro s c hev a pasid asid
    refine ⟨exec_inval_of_waiting hev, exec_inval_of_bad hev, fun hturn ha hlen hown hctx => ?_⟩
    have hexec := exec_inval_of_legal hev hturn ha hlen hown hctx
    refine ⟨fun hatom => hexec.trans (if_pos hatom), fun hatom hg => ?_⟩
    rw [if_neg (Bool.eq_false_iff.mp hatom), invalidate_of_unbound (s := s.nextTag.1) hg] at hexec
    exact ⟨_, hexec, fun e he => not_hit_of_mem_guestDrop he⟩
  · intro s p va pages hev
    have hexec := exec_atsInvalidate_of_ev hev
    refine ⟨fun hatom => hexec.trans (if_pos hatom), fun hatom hg => ?_⟩
    rw [if_neg (Bool.eq_false_iff.mp hatom), invalidate_of_unbound (s := s.nextTag.1) hg] at hexec
    refine ⟨_, hexec, dropAll_keep State.mem (fun _ _ _ => rfl) (fun _ _ => rfl) .., ?_, fun e he => not_hit_of_mem_guestDrop he⟩
    exact congrArg (· ++ [[1, p, va, pages * 4096]])
      (dropAll_keep (fun t => t.host.answer) (fun _ _ _ => rfl) (fun _ _ => rfl) s.nextTag.1 (invHits (some p) none va (pages * 4096)))
  · intro s idx code h k cause va g x hg hwho hw hpriv
    refine ⟨fun hev horphan hx hgen hlive hpark => ?_, fun hev hidx => ?_⟩
    · have hexec := exec_prgResponse_of_current (code := code) hev hg horphan hx hgen hlive
      have hprgs : ∀ e ∈ (s.responded idx g x).xlat.prgs, e.idx ≠ idx := fun e he => by simpa using (List.mem_filter.mp he).2
      rw [hwho] at hexec
      by_cases hcode : code = 0
      · rw [if_pos hcode, prgFreed_of_none (by exact hpark)] at hexec
        exact ⟨_, hexec, rfl, hprgs, fun _ => parkOk_scalar (s := s.responded idx g x) hw _, fun hne => absurd hcode hne, lookup_tset_self ..⟩
      · obtain ⟨hmem, hxlat⟩ := parkBad_scalar_keeps (s := s.responded idx g x) hw hpriv g.pages
        rw [if_neg hcode, prgFreed_of_none (by rw [hxlat]; exact hpark)] at hexec
        refine ⟨_, hexec, hmem, ?_, fun heq => absurd heq hcode, fun _ => takesTrap_parkBad (s := s.responded idx g x) hw hpriv _, ?_⟩
        · rw [hxlat]
          exact hprgs
        · rw [hxlat]
          exact lookup_tset_self ..
    · have hexec := exec_prtoExpiry_of_group hev hidx hg
      obtain ⟨hmem, hxlat⟩ := parkBad_scalar_keeps (s := s.overdue idx) hw hpriv g.pages
      rw [hwho] at hexec
      refine ⟨_, hexec, hmem, takesTrap_parkBad (s := s.overdue idx) hw hpriv _, ?_⟩
      rw [hxlat]
      exact find_map_nobody hg
  · intro s hev hpark
    refine ⟨_, exec_hostPortReset_of_none hev hpark, rfl, rfl, fun g => ?_⟩
    simp
  · intro s c slot x hev
    refine ⟨exec_pstop_of_unknown hev, fun hp hctx hfirst => ?_⟩
    have hexec := exec_pstop_of_slot hev hp hctx hfirst
    refine ⟨fun hlive hturn => ?_, fun hstop hacked => ?_, fun hstop hacked horphans hx => ?_⟩
    · rw [if_pos hlive, if_pos hturn] at hexec
      exact hexec
    · rw [if_neg (by omega), if_neg (by omega), if_neg (Bool.eq_false_iff.mp hacked)] at hexec
      exact hexec
    · rw [if_neg (by omega), if_neg (by omega), if_pos hacked] at hexec
      exact ⟨_, hexec, endStop_of_none hx horphans⟩
  · intro s slot x hev hx
    have hexec := exec_drainTimeout_of_slot hev hx
    refine ⟨fun hne => hexec.trans (if_neg hne), fun heq => ⟨_, hexec.trans (if_pos heq), ?_⟩⟩
    exact (ctx_freeSlot (by rw [errorRecord_xlat]; exact hx) _).1

end Sys2Proof.Machine
end

section
/-! PROOF. The management commands (O55). -/

namespace Sys2Proof.Machine

open Sys2Proof.Claims

/-! ### Turns and answers -/

theorem command_of_turn {s : State} {c : MCmd} (hturn : s.inTurn c = true) (k : State) : s.command c k = .next k := if_pos hturn

theorem command_of_waiting {s : State} {c : MCmd} {e : Ev} (hturn : s.inTurn c = false) (hev : s.ev = e) (k : State) :
    s.command c k = .next (s.due [e]) := by
  rw [State.command, hturn, if_neg Bool.false_ne_true, hev]

/-- An answer in a slot of the mailbox: the response, the place in the queue and the slot (R501). -/
theorem answer_slot {c : MCmd} (hslot : c.slot < 256) (hhart : c.hart = none) (hflags : c.flags % 2 = 0) (s : State) (st r0 r1 : Nat) :
    s.answer c st r0 r1 = { s with fe := { s.fe with
      cmds := s.fe.cmds.erase c
      resp := tset c.slot (responseBytes st c.tag r0 r1) s.fe.resp
      busy := s.fe.busy.filter (· != c.slot) } } := by
  rw [State.answer]
  dsimp only
  rw [if_pos hslot, hhart, if_neg (by omega)]

/-! ### Queues -/

theorem queue_modQueue_self {s : State} {n : Nat} {q : Queue} (hq : s.queue n = some q) (f : Queue → Queue) :
    (s.modQueue n f).queue n = some (f q) := by
  rw [State.modQueue, hq]
  exact lookup_tset_self ..

theorem queue_checkEmpty (s : State) (n m : Nat) : (s.checkEmpty n).queue m = s.queue m := by
  rw [State.checkEmpty]
  split
  · split <;> rfl
  · rfl

theorem core_kick (s : State) (d c : Nat) : (s.kick d).core c = s.core c := by
  rw [State.kick]
  split <;> rfl

theorem exec_qcreate_of_image {s u : State} {c : MCmd} {b : List Byte} {n : Nat} (hev : s.ev = .qcreate c) (hturn : s.inTurn c = true)
    (himage : s.imageAt (c.arg 0) 128 = (u, some b)) (hpasid : u.pasidStatus (field b 4 4) = 0) (hrange : field b 4 4 < 2 ^ 20)
    (hgood : u.queueBad b = false) (hn : field b 0 4 = n) (hne : n ≠ 0) (hfree : u.queue n = none) (hpins : u.pinsFull (queueImage b).pins = false) :
    exec .qcreate s = .next (State.answer { u with tqe := { u.tqe with queues := tset n (queueImage b) u.tqe.queues }
                                                   coh := { u.coh with pinned := u.coh.pinned ++ (queueImage b).pins } } c 0 n) := by
  have hst : u.pasidStatus (queueImage b).pasid = stOk := by
    show u.pasidStatus (field b 4 4 % 2 ^ 20) = stOk
    rw [Nat.mod_eq_of_lt hrange]
    exact hpasid
  have hnew : (field b 0 4 ≠ 0 && (u.queue (field b 0 4)).isSome) ≠ true := by
    rw [hn, hfree]
    simp
  show execQcreate s = _
  rw [execQcreate, hev]
  dsimp only
  rw [command_of_turn hturn, himage]
  dsimp only
  unfold State.createQueue
  dsimp only
  rw [if_neg (not_not_intro hst), hgood, if_neg Bool.false_ne_true, if_neg hnew, hn, if_neg hne]
  dsimp only
  rw [hpins, if_neg Bool.false_ne_true]
  rfl

theorem exec_qcreate_of_unreadable {s u : State} {c : MCmd} (hev : s.ev = .qcreate c) (hturn : s.inTurn c = true)
    (himage : s.imageAt (c.arg 0) 128 = (u, none)) : exec .qcreate s = .next (u.answer c 1) := by
  show execQcreate s = _
  rw [execQcreate, hev]
  dsimp only
  rw [command_of_turn hturn, himage]
  rfl

theorem exec_qdestroy_of_none {s : State} {c : MCmd} (hev : s.ev = .qdestroy c) (hturn : s.inTurn c = true) (hq : s.queue (c.arg 0) = none) :
    exec .qdestroy s = .next (s.answer c 3) := by
  show execQdestroy s = _
  rw [execQdestroy, hev]
  dsimp only
  rw [command_of_turn hturn, hq]
  rfl

/-- A queue begins to drain (R363). -/
theorem exec_qdestroy_of_drain {s : State} {c : MCmd} {q : Queue} (hev : s.ev = .qdestroy c) (hturn : s.inTurn c = true)
    (hq : s.queue (c.arg 0) = some q) (hlive : s.pasidLive q.pasid = true) (hmode : c.arg 1 = 0) (hdying : q.dying = false) :
    exec .qdestroy s = .next (((s.modQueue (c.arg 0) fun q => { q with enders := q.enders ++ [c], dying := true }).modQueue (c.arg 0) fun q =>
      { q with state := if q.state = 0 then 1 else q.state }).checkEmpty (c.arg 0)) := by
  show execQdestroy s = _
  rw [execQdestroy, hev]
  dsimp only
  rw [command_of_turn hturn, hq]
  dsimp only
  rw [hlive, Bool.not_true, if_neg Bool.false_ne_true, if_neg (by omega)]
  unfold State.destroyQueue
  dsimp only
  rw [hdying, Bool.false_and, if_neg Bool.false_ne_true, if_pos hmode]

/-! ### PASIDs, windows, the Wallflower -/

/-- What PBIND checks of a private context before it looks for a slot (R503). -/
theorem pbind_checked {s : State} {c : MCmd} (hpos : 0 < c.arg 0) (hrange : c.arg 0 < 2 ^ 20) (hkind : c.arg 1 = 0) (halign : c.arg 2 % 4096 = 0)
    (hread : s.readablePa (c.arg 2) 4096 = true) (hlog : s.inLog (c.arg 2) = false) :
    ((c.arg 0 = 0 || decide (2 ^ 20 ≤ c.arg 0) || decide (1 < c.arg 1) || c.arg 2 % 4096 != 0 ||
      !(match (if c.arg 1 = 0 then some (c.arg 2) else convPa (some (c.arg 3)) (c.arg 2)) with
        | some a => s.readablePa a 4096 && !(c.arg 1 == 0 && s.inLog a) | none => false)) = true) ↔ False := by
  rw [if_pos hkind]
  dsimp only
  rw [hread, hlog, halign, hkind]
  simp only [iff_false, Bool.not_eq_true, Bool.or_eq_false_iff, decide_eq_false_iff_not]
  refine ⟨⟨⟨⟨?_, ?_⟩, by omega⟩, rfl⟩, rfl⟩ <;> omega

theorem exec_pbind_of_bound {s : State} {c : MCmd} (hev : s.ev = .pbind c) (hturn : s.inTurn c = true) (hpos : 0 < c.arg 0)
    (hrange : c.arg 0 < 2 ^ 20) (hkind : c.arg 1 = 0) (halign : c.arg 2 % 4096 = 0) (hread : s.readablePa (c.arg 2) 4096 = true)
    (hlog : s.inLog (c.arg 2) = false) (hctx : s.ctxOf (c.arg 0) ≠ none) : exec .pbind s = .next (s.answer c 5) := by
  show execPbind s = _
  rw [execPbind, hev]
  dsimp only
  rw [command_of_turn hturn]
  refine congrArg Host.Outcome.next ((if_neg (pbind_checked hpos hrange hkind halign hread hlog).mp).trans (if_pos ?_))
  exact Option.isSome_iff_ne_none.mpr hctx

theorem exec_pbind_of_free {s : State} {c : MCmd} {i : Nat} (hev : s.ev = .pbind c) (hturn : s.inTurn c = true) (hpos : 0 < c.arg 0)
    (hrange : c.arg 0 < 2 ^ 20) (hkind : c.arg 1 = 0) (halign : c.arg 2 % 4096 = 0) (hread : s.readablePa (c.arg 2) 4096 = true)
    (hlog : s.inLog (c.arg 2) = false) (hctx : s.ctxOf (c.arg 0) = none)
    (hslot : leastBelow 4096 (fun i => (tget default s.xlat.ctx i).state == 0) = some i) : exec .pbind s =
      .next (State.answer { s with xlat := { s.xlat with
        ctx := tset i ⟨c.arg 0, false, 1, (tget default s.xlat.ctx i).gen, c.arg 2, 0, 0, 0⟩ s.xlat.ctx } } c 0 i) := by
  have hnone : (s.ctxOf (c.arg 0)).isSome ≠ true := by
    rw [hctx]
    exact Bool.false_ne_true
  show execPbind s = _
  rw [execPbind, hev]
  dsimp only
  rw [command_of_turn hturn]
  refine congrArg Host.Outcome.next ((if_neg (pbind_checked hpos hrange hkind halign hread hlog).mp).trans ((if_neg hnone).trans ?_))
  rw [hslot, hkind]
  rfl

theorem exec_pbind_of_range {s : State} {c : MCmd} (hev : s.ev = .pbind c) (hturn : s.inTurn c = true)
    (hrange : c.arg 0 = 0 ∨ 2 ^ 20 ≤ c.arg 0) : exec .pbind s = .next (s.answer c 1) := by
  show execPbind s = _
  rw [execPbind, hev]
  dsimp only
  rw [command_of_turn hturn]
  refine congrArg Host.Outcome.next (if_pos ?_)
  rcases hrange with hzero | hbig
  · rw [decide_eq_true hzero]
    rfl
  · rw [decide_eq_true hbig, Bool.or_true]
    rfl

theorem exec_winen_of_live {s : State} {c : MCmd} (hev : s.ev = .winen c) (hturn : s.inTurn c = true) (hlive : s.pasidLive (c.arg 0) = true)
    (hbits : c.arg 1 < 16) : exec .winen s =
      .next (State.answer { s with xlat := { s.xlat with winEn := tset (c.arg 0) (c.arg 1) s.xlat.winEn } } c 0) := by
  show execWinen s = _
  rw [execWinen, hev]
  dsimp only
  rw [command_of_turn hturn, hlive, Bool.not_true, if_neg Bool.false_ne_true, if_neg (by omega)]
  rfl

/-- One core's reservation in `setWall`. -/
def State.wallAt (s : State) (d mask i : Nat) : State :=
  if mask.testBit i || (s.core (d * 128 + i)).wall then s.modCore (d * 128 + i) fun c => { c with wall := mask.testBit i, spillOff := false } else s

theorem wall_wallAt (s : State) (d mask i j : Nat) : ((s.wallAt d mask i).core (d * 128 + j)).wall =
    if j = i then mask.testBit i else (s.core (d * 128 + j)).wall := by
  rw [State.wallAt]
  by_cases hij : j = i
  · subst hij
    rw [if_pos rfl]
    split
    · rw [State.core_modCore_self]
    · next hoff =>
      obtain ⟨hbit, hwall⟩ : mask.testBit j = false ∧ (s.core (d * 128 + j)).wall = false := by simpa using hoff
      rw [hbit, hwall]
  · rw [if_neg hij]
    split
    · rw [State.core_modCore_ne _ _ (by omega)]
    · rfl

/-- The cores of the mask are reserved, and no other of the die (R350). -/
theorem wall_setWall (s : State) (d mask : Nat) {j : Nat} (hj : j < 128) :
    ((s.setWall d mask).core (d * 128 + j)).wall = mask.testBit j := by
  have hprefix : ∀ n, (((List.range n).foldl (fun s i => State.wallAt s d mask i) s).core (d * 128 + j)).wall =
      if j < n then mask.testBit j else (s.core (d * 128 + j)).wall := by
    intro n
    induction n with
    | zero => rfl
    | succ n ih =>
      rw [List.range_succ, List.foldl_append, List.foldl_cons, List.foldl_nil, wall_wallAt, ih]
      by_cases hn : j = n
      · rw [if_pos hn, if_pos (by omega), hn]
      · rw [if_neg hn]
        exact ite_of_iff (by omega)
  exact (hprefix 128).trans (if_pos hj)

theorem testBit_add_mul {a n i : Nat} (b : Nat) (ha : a < 2 ^ n) (hi : i < n) : (a + b * 2 ^ n).testBit i = a.testBit i := by
  rw [Nat.add_comm, Nat.mul_comm, Nat.testBit_two_pow_mul_add _ ha, if_pos hi]

/-- The first 64 cores follow the first word of the mask. -/
theorem wall_setWall_low (s : State) (d : Nat) {a i : Nat} (ha : a < 2 ^ 64) (b : Nat) (hi : i < 64) :
    ((s.setWall d (a + b * 2 ^ 64)).core (d * 128 + i)).wall = a.testBit i := by
  rw [wall_setWall s d _ (by omega), testBit_add_mul b ha hi]

theorem exec_wallset_of_live {s : State} {c : MCmd} {mask : Nat} (hev : s.ev = .wallset c) (hturn : s.inTurn c = true)
    (hcap : s.vpcap.toNat.testBit 6 = true) (hdie : c.arg 0 < s.dies) (hmask : c.arg 1 + c.arg 2 * 2 ^ 64 = mask) (hne : mask ≠ 0)
    (halign : c.arg 3 % 8192 = 0) (hown : ownWindowVa (c.arg 3) = false) (hrange : c.arg 4 < 2 ^ 20)
    (hlive : s.pasidLive (c.arg 4) = true) : ∃ t : State, exec .wallset s = .next ((t.kick (c.arg 0)).answer c 0) ∧
      t.tqe.spill.lookup (c.arg 0) = some (c.arg 3, c.arg 4) ∧ ∀ k, t.core k = (s.setWall (c.arg 0) mask).core k := by
  have hargs : (c.arg 3 % 8192 ≠ 0 || ownWindowVa (c.arg 3) || decide (2 ^ 20 ≤ c.arg 4)) ≠ true := by
    rw [hown]
    simp only [halign, decide_eq_false (Nat.not_le.mpr hrange), ne_eq, not_true, decide_false, Bool.or_self, Bool.false_eq_true, not_false_iff]
  show ∃ t : State, execWallset s = _ ∧ _
  rw [execWallset, hev]
  dsimp only
  rw [command_of_turn hturn, hmask, hcap, hlive, Bool.not_true, if_neg Bool.false_ne_true, if_neg (Nat.not_le.mpr hdie),
    if_neg hne, if_neg hargs, if_neg Bool.false_ne_true]
  exact ⟨_, rfl, lookup_tset_self .., fun _ => rfl⟩

/-! ### Round regions -/

theorem exec_rcreate_of_image {s u v : State} {c : MCmd} {pa rid : Nat} {b : List Byte} (hev : s.ev = .rcreate c) (hturn : s.inTurn c = true)
    (hpasid : s.pasidStatus (c.arg 1) = 0) (halign : (BitVec.ofNat 64 (c.arg 0) : Word).toNat % 32 = 0)
    (hxlate : s.xlateRange (pasidCx unitHost (c.arg 1) 4) .load (BitVec.ofNat 64 (c.arg 0)) 32 = (u, .ok pa)) (hloc : isLocal pa = false)
    (himage : u.imageAt pa 32 = (v, some b)) (hgood : v.regionBad pa (c.arg 1) b = false)
    (hrid : leastBelow 1024 (fun i => (v.region i).isNone) = some rid) : ∃ t : State, exec .rcreate s = .next (t.answer c 0 rid) ∧
      t.region rid = some ⟨field b 0 8, field b 8 4, field b 0xE 2 % 8, if field b 0x14 4 = 0 then 1000 else field b 0x14 4, c.arg 1, pa,
        field b 0x10 4, [], field b 0x10 4, [], field b 0x10 4, [], false, [], false⟩ := by
  have hexec : exec .rcreate s = .next (v.createRegion c pa b) := by
    show execRcreate s = _
    rw [execRcreate, hev]
    dsimp only
    rw [command_of_turn hturn, show s.pasidStatus (c.arg 1) = stOk from hpasid, if_neg (not_not_intro rfl), if_neg (not_not_intro halign), hxlate]
    dsimp only
    rw [hloc, if_neg Bool.false_ne_true, himage]
  rw [hexec, State.createRegion, hgood, if_neg Bool.false_ne_true, hrid]
  exact ⟨_, rfl, lookup_tset_self ..⟩

/-- A region without a publish is gone at once (R424). -/
theorem exec_rdestroy_of_idle {s : State} {c : MCmd} {g : Region} (hev : s.ev = .rdestroy c) (hturn : s.inTurn c = true)
    (hg : s.region (c.arg 0) = some g) (hlive : s.pasidLive g.pasid = true) (hbusy : g.busy = false) : exec .rdestroy s =
      .next (((s.refusePublishes (c.arg 0) g).dropRegion (c.arg 0) g).answer c 0) := by
  show execRdestroy s = _
  rw [execRdestroy, hev]
  dsimp only
  rw [hturn, Bool.not_true, if_neg Bool.false_ne_true, hg]
  dsimp only
  rw [hlive, Bool.not_true, if_neg Bool.false_ne_true, hbusy, if_neg Bool.false_ne_true]
  rfl

theorem region_dropRegion (s : State) (rid : Nat) (g : Region) : (s.dropRegion rid g).region rid = none := by
  rw [State.dropRegion]
  exact lookup_tdel_self ..

/-! ### Network -/

theorem endpoint_of_live {s : State} {c : MCmd} {e : Ep} (he : s.net.eps.lookup (c.arg 0) = some e) (hlive : s.pasidLive e.pasid = true)
    (k : Ep → State) : s.endpoint c k = k e := by
  rw [State.endpoint, he]
  exact if_pos hlive

theorem endpoint_of_none {s : State} {c : MCmd} (he : s.net.eps.lookup (c.arg 0) = none) (k : Ep → State) : s.endpoint c k = s.answer c 3 := by
  rw [State.endpoint, he]
  rfl

theorem exec_epcreate_of_image {s u v : State} {c : MCmd} {b : List Byte} {pas : List Nat} {lep : Nat} (hev : s.ev = .epcreate c)
    (hturn : s.inTurn c = true) (halign : c.arg 0 % 128 = 0) (himage : s.imageAt (c.arg 0) 128 = (u, some b)) (hrange : field b 0 4 < 2 ^ 20)
    (hpasid : u.pasidStatus (field b 0 4) = 0) (hports : (field b 9 1) &&& (255 - u.vpcap.toNat / 2 ^ 16 % 2 ^ 8) = 0)
    (hgood : u.epBad b (epOf b []) = false) (hlep : leastBelow 4096 (fun i => (u.net.eps.lookup i).isNone) = some lep)
    (hpas : State.pagePas (pasidCx unitNet (field b 0 4) 4) ((field b 0xC 4 * 32 + 4095) / 4096) (BitVec.ofNat 64 (field b 0x40 8)) u = (v, some pas)) :
    exec .epcreate s = .next (State.answer { v with net := { v.net with eps := tset lep (epOf b pas) v.net.eps } } c 0 lep) := by
  have hst : (if 2 ^ 20 ≤ (epOf b []).pasid then stInvalid else u.pasidStatus (epOf b []).pasid) = stOk :=
    (if_neg (Nat.not_le.mpr hrange)).trans hpasid
  show execEpcreate s = _
  rw [execEpcreate, hev]
  dsimp only
  rw [command_of_turn hturn, if_neg (not_not_intro halign), himage]
  dsimp only
  unfold State.createEp
  dsimp only
  rw [if_neg (not_not_intro hst), if_neg (not_not_intro (by rw [bits_eq]; exact hports)), hgood, if_neg Bool.false_ne_true, hlep]
  dsimp only
  rw [show State.pagePas (pasidCx unitNet (epOf b []).pasid 4) (((epOf b []).npeer * 32 + 4095) / 4096)
    (BitVec.ofNat 64 (epOf b []).ctva) u = (v, some pas) from hpas]
  rfl

theorem exec_epdestroy_of_live {s : State} {c : MCmd} {e : Ep} (hev : s.ev = .epdestroy c) (hturn : s.inTurn c = true)
    (he : s.net.eps.lookup (c.arg 0) = some e) (hlive : s.pasidLive e.pasid = true) : ∃ t : State, exec .epdestroy s = .next (t.answer c 0) ∧
      t.net.eps.lookup (c.arg 0) = none := by
  show ∃ t : State, execEpdestroy s = _ ∧ _
  rw [execEpdestroy, hev]
  dsimp only
  rw [command_of_turn hturn, endpoint_of_live he hlive]
  exact ⟨_, rfl, lookup_tdel_self ..⟩

theorem exec_peerset_of_image {s u : State} {c : MCmd} {e : Ep} {b : List Byte} (hev : s.ev = .peerset c) (hturn : s.inTurn c = true)
    (he : s.net.eps.lookup (c.arg 0) = some e) (hlive : s.pasidLive e.pasid = true) (hpeer : c.arg 1 < e.npeer) (halign : c.arg 2 % 32 = 0)
    (himage : s.imageAt (c.arg 2) 32 = (u, some b)) (hgood : peerBad b (peerOf b) = false)
    (hnone : (u.net.msgs.filter fun m => m.2.lep == c.arg 0 && m.2.peer == c.arg 1) = []) : exec .peerset s =
      .next (State.answer { u with net := { u.net with peers := tset (pkey (c.arg 0) (c.arg 1)) (peerOf b) u.net.peers } } c 0) := by
  show execPeerset s = _
  rw [execPeerset, hev]
  dsimp only
  rw [command_of_turn hturn, endpoint_of_live he hlive, if_neg (by omega), himage]
  dsimp only
  rw [hgood, if_neg Bool.false_ne_true, hnone]
  rfl

theorem exec_nwinreg_of_free {s : State} {c : MCmd} {e : Ep} {i : Nat} (hev : s.ev = .nwinreg c) (hturn : s.inTurn c = true)
    (he : s.net.eps.lookup (c.arg 0) = some e) (hlive : s.pasidLive e.pasid = true) (hown : ownWindowVa (c.arg 1) = false) (hrights : c.arg 3 ≤ 3)
    (hkey : leastBelow 65535 (fun i => (s.net.wins.lookup (c.arg 0 * 65536 + (i + 1))).isNone) = some i) : exec .nwinreg s =
      .next (State.answer { s with net := { s.net with
        wins := tset (pkey (c.arg 0) (i + 1)) ⟨c.arg 1, c.arg 2, (c.arg 3).testBit 0, (c.arg 3).testBit 1⟩ s.net.wins } } c 0 (i + 1)) := by
  have hargs : ¬ (ownWindowVa (c.arg 1) = true ∨ 3 < c.arg 3) := by
    rw [hown]
    rintro (h | h)
    · exact Bool.false_ne_true h
    · omega
  show execNwinreg s = _
  rw [execNwinreg, hev]
  dsimp only
  rw [command_of_turn hturn, endpoint_of_live he hlive, if_neg hargs,
    show leastBelow 65535 (fun i => (s.net.wins.lookup (pkey (c.arg 0) (i + 1))).isNone) = some i from hkey]
  rfl

theorem exec_ptpset_of_absent {s : State} {c : MCmd} (hev : s.ev = .ptpset c) (hturn : s.inTurn c = true)
    (hport : 7 < c.arg 0 ∨ s.vpcap.toNat.testBit (16 + c.arg 0) = false) : exec .ptpset s = .next (s.answer c 4) := by
  show execPtpset s = _
  rw [execPtpset, hev]
  dsimp only
  rw [command_of_turn hturn, if_pos (hport.imp_right fun h => by rw [h]; rfl)]
  rfl

theorem exec_ptpset_of_port {s : State} {c : MCmd} (hev : s.ev = .ptpset c) (hturn : s.inTurn c = true) (hp : c.arg 0 ≤ 7)
    (hport : s.vpcap.toNat.testBit (16 + c.arg 0) = true) : exec .ptpset s =
      .next (State.answer { s with net := { s.net with ptpcfg := (c.arg 0, c.arg 1) } } c 0) := by
  have hpresent : ¬ (7 < c.arg 0 ∨ (!s.vpcap.toNat.testBit (16 + c.arg 0)) = true) := by
    rw [hport]
    rintro (h | h)
    · omega
    · cases h
  show execPtpset s = _
  rw [execPtpset, hev]
  dsimp only
  rw [command_of_turn hturn, if_neg hpresent]
  rfl

/-! ### Host windows and the guest -/

theorem exec_hwinset_of_entry {s : State} {c : MCmd} (hev : s.ev = .hwinset c) (hturn : s.inTurn c = true) (hp : c.arg 0 < 4096)
    (hkind : c.arg 1 % 4 ≠ 3) (hcoh : c.arg 1 % 4 ≠ 1 ∨ s.vpcap.toNat.testBit 32 = true) : exec .hwinset s =
      .next (State.answer { s with host := { s.host with win := tset (c.arg 0) (c.arg 1 % 16) s.host.win } } c 0) := by
  have hfour : c.arg 1 % 16 % 4 = c.arg 1 % 4 := Nat.mod_mod_of_dvd _ (by decide)
  have hargs : (decide (4160 ≤ c.arg 0) || c.arg 1 % 16 % 4 == 3 || (c.arg 1 % 16 % 4 == 1 && !s.vpcap.toNat.testBit 32)) ≠ true := by
    rw [hfour, decide_eq_false (by omega), beq_eq_false_iff_ne.mpr hkind]
    rcases hcoh with h | h
    · rw [beq_eq_false_iff_ne.mpr h]
      exact Bool.false_ne_true
    · rw [h]
      simp
  show execHwinset s = _
  rw [execHwinset, hev]
  dsimp only
  rw [command_of_turn hturn, if_neg hargs, if_pos hp]
  rfl

theorem exec_hwinset_of_reserved {s : State} {c : MCmd} (hev : s.ev = .hwinset c) (hturn : s.inTurn c = true) (hkind : c.arg 1 % 4 = 3) :
    exec .hwinset s = .next (s.answer c 1) := by
  have hfour : c.arg 1 % 16 % 4 = 3 := (Nat.mod_mod_of_dvd _ (by decide)).trans hkind
  show execHwinset s = _
  rw [execHwinset, hev]
  dsimp only
  rw [command_of_turn hturn, hfour, if_pos (by simp)]
  rfl

theorem exec_gpolicy_of_image {s u : State} {c : MCmd} {b : List Byte} (hev : s.ev = .gpolicy c) (hturn : s.inTurn c = true) (hgsk : s.gsk = true)
    (halign : c.arg 0 % 64 = 0) (himage : s.imageAt (c.arg 0) 2048 = (u, some b)) (hgood : policyBad b = false) : exec .gpolicy s =
      .next (State.answer { u with guest := { u.guest with policy := b, pol := true } } c 0) := by
  show execGpolicy s = _
  rw [execGpolicy, hev]
  dsimp only
  rw [command_of_turn hturn, hgsk, Bool.not_true, if_neg Bool.false_ne_true, if_neg (not_not_intro halign), himage]
  dsimp only
  rw [hgood, if_neg Bool.false_ne_true]
  rfl

theorem exec_gpolicy_of_absent {s : State} {c : MCmd} (hev : s.ev = .gpolicy c) (hturn : s.inTurn c = true) (hgsk : s.gsk = false) :
    exec .gpolicy s = .next (s.answer c 4) := by
  show execGpolicy s = _
  rw [execGpolicy, hev]
  dsimp only
  rw [command_of_turn hturn, hgsk]
  rfl

theorem gsk_of_gbnd {s : State} (h : s.gbnd = true) : s.gsk = true := (Bool.and_eq_true_iff.mp h).1

theorem exec_ggrant_of_new {s : State} {c : MCmd} (hev : s.ev = .ggrant c) (hturn : s.inTurn c = true) (hgbnd : s.gbnd = true)
    (hp : c.arg 0 ≠ 0) (hlive : s.pasidLive (c.arg 0) = true) (hgrant : c.arg 1 = 1) (hnew : c.arg 0 ∉ s.guest.grants)
    (hroom : s.guest.grants.length < 256) : exec .ggrant s =
      .next (State.answer { s with guest := { s.guest with grants := s.guest.grants ++ [c.arg 0] } } c 0) := by
  have hnot : s.guest.grants.contains (c.arg 0) ≠ true := fun h => hnew (List.contains_iff_mem.mp h)
  show execGgrant s = _
  rw [execGgrant, hev]
  dsimp only
  rw [hturn, gsk_of_gbnd hgbnd, hlive, hgbnd, Bool.not_true, if_neg Bool.false_ne_true, if_neg Bool.false_ne_true, if_neg (by omega),
    if_neg Bool.false_ne_true, if_neg (by omega), if_neg Bool.false_ne_true, if_pos hgrant, if_neg hnot, if_neg (by omega)]
  rfl

/-! ### Self-test -/

theorem dies_le_four (s : State) : s.dies ≤ 4 := by
  rw [State.dies]
  split <;> omega

theorem exec_selftest_of_invalid {s : State} {c : MCmd} (hev : s.ev = .selftest c) (hturn : s.inTurn c = true)
    (hbad : 4 ≤ c.arg 0 ∨ 128 ≤ c.arg 1) : exec .selftest s = .next (s.answer c 1) := by
  show execSelftest s = _
  rw [execSelftest, hev]
  dsimp only
  rw [command_of_turn hturn, if_pos hbad]
  rfl

theorem exec_selftest_of_absent {s : State} {c : MCmd} (hev : s.ev = .selftest c) (hturn : s.inTurn c = true) (hdie : s.dies ≤ c.arg 0)
    (hp : c.arg 0 < 4) (hcore : c.arg 1 < 128) : exec .selftest s = .next (s.answer c 4) := by
  show execSelftest s = _
  rw [execSelftest, hev]
  dsimp only
  rw [command_of_turn hturn, if_neg (by omega), if_pos hdie]
  rfl

theorem exec_selftest_of_core {s : State} {c : MCmd} (hev : s.ev = .selftest c) (hturn : s.inTurn c = true) (hdie : c.arg 0 < s.dies)
    (hcore : c.arg 1 < 128) : exec .selftest s = .next ((if (s.core (c.arg 0 * 128 + c.arg 1)).quar then s
      else s.quarantine (c.arg 0 * 128 + c.arg 1) 4 none).modCore (c.arg 0 * 128 + c.arg 1) fun x => { x with selftest := true }) := by
  have hfour := dies_le_four s
  show execSelftest s = _
  rw [execSelftest, hev]
  dsimp only
  rw [command_of_turn hturn, if_neg (by omega), if_neg (by omega)]

theorem quar_tested (s : State) (ci why : Nat) (but : Option Nat) :
    ((if (s.core ci).quar then s else s.quarantine ci why but).core ci).quar = true := by
  split
  · assumption
  · exact quar_quarantine ..

/-! ### The obligation -/

/-- Out of its turn every command stays due (R505, R506). -/
theorem exec_of_waiting {s : State} {c : MCmd} (hturn : s.inTurn c = false) : ∀ p ∈ [(Instr.qcreate, Ev.qcreate c), (.qdestroy, .qdestroy c),
    (.pbind, .pbind c), (.winen, .winen c), (.wallset, .wallset c), (.rcreate, .rcreate c), (.rdestroy, .rdestroy c), (.epcreate, .epcreate c),
    (.epdestroy, .epdestroy c), (.peerset, .peerset c), (.nwinreg, .nwinreg c), (.hwinset, .hwinset c), (.ptpset, .ptpset c),
    (.gpolicy, .gpolicy c), (.ggrant, .ggrant c), (.selftest, .selftest c), (.info, .info c), (.meminfo, .meminfo c)],
    s.ev = p.2 → exec p.1 s = .next (s.due [p.2]) := by
  simp only [List.forall_mem_cons]
  refine ⟨?_, ?_, ?_, ?_, ?_, ?_, ?_, ?_, ?_, ?_, ?_, ?_, ?_, ?_, ?_, ?_, ?_, ?_, fun _ h => absurd h List.not_mem_nil⟩ <;> intro hev
  · show execQcreate s = _
    rw [execQcreate, hev]
    exact command_of_waiting hturn hev _
  · show execQdestroy s = _
    rw [execQdestroy, hev]
    exact command_of_waiting hturn hev _
  · show execPbind s = _
    rw [execPbind, hev]
    exact command_of_waiting hturn hev _
  · show execWinen s = _
    rw [execWinen, hev]
    exact command_of_waiting hturn hev _
  · show execWallset s = _
    rw [execWallset, hev]
    exact command_of_waiting hturn hev _
  · show execRcreate s = _
    rw [execRcreate, hev]
    exact command_of_waiting hturn hev _
  · show execRdestroy s = _
    rw [execRdestroy, hev]
    dsimp only
    rw [hturn]
    rfl
  · show execEpcreate s = _
    rw [execEpcreate, hev]
    exact command_of_waiting hturn hev _
  · show execEpdestroy s = _
    rw [execEpdestroy, hev]
    exact command_of_waiting hturn hev _
  · show execPeerset s = _
    rw [execPeerset, hev]
    exact command_of_waiting hturn hev _
  · show execNwinreg s = _
    rw [execNwinreg, hev]
    exact command_of_waiting hturn hev _
  · show execHwinset s = _
    rw [execHwinset, hev]
    exact command_of_waiting hturn hev _
  · show execPtpset s = _
    rw [execPtpset, hev]
    exact command_of_waiting hturn hev _
  · show execGpolicy s = _
    rw [execGpolicy, hev]
    exact command_of_waiting hturn hev _
  · show execGgrant s = _
    rw [execGgrant, hev]
    dsimp only
    rw [hturn]
    rfl
  · show execSelftest s = _
    rw [execSelftest, hev]
    exact command_of_waiting hturn hev _
  · show execInfo s = _
    rw [execInfo, hev]
    exact command_of_waiting hturn hev _
  · show execMeminfo s = _
    rw [execMeminfo, hev]
    exact command_of_waiting hturn hev _

/-- Settles O55: each command by what it does in its turn; its object is read back from the table that it wrote. -/
theorem managementCommandsAreExecuted : Obligations.ManagementCommandsAreExecuted := by
  unfold Obligations.ManagementCommandsAreExecuted
  refine ⟨fun s c hturn => exec_of_waiting hturn, fun s c hturn => ?_, fun s c st r0 r1 hslot hhart hflags => ?_⟩
  · intro p
    refine ⟨?_, ?_, ?_, ?_, ?_, ?_, ?_, ?_, ?_, ?_, ?_, ?_, ?_, ?_, ?_, ?_, ?_, ?_, ?_, ?_, ?_, ?_, ?_, ?_, ?_, ?_⟩
    · intro u b hev himage hpasid hrange hgood n hn hne hfree hpins
      exact ⟨_, exec_qcreate_of_image hev hturn himage hpasid hrange hgood hn hne hfree hpins, lookup_tset_self .., fun m hm => lookup_tset_ne _ _ hm⟩
    · exact fun u hev himage => exec_qcreate_of_unreadable hev hturn himage
    · exact fun hev hq => exec_qdestroy_of_none hev hturn hq
    · intro q hev hq hlive hmode hdying
      refine ⟨_, exec_qdestroy_of_drain hev hturn hq hlive hmode hdying, ?_⟩
      rw [queue_checkEmpty, queue_modQueue_self (queue_modQueue_self hq _)]
    · intro hev hpos hrange hkind halign hread hlog
      exact ⟨exec_pbind_of_bound hev hturn hpos hrange hkind halign hread hlog,
        fun i hctx hslot => ⟨_, exec_pbind_of_free hev hturn hpos hrange hkind halign hread hlog hctx hslot, lookup_tset_self ..⟩⟩
    · exact fun hev hrange => exec_pbind_of_range hev hturn hrange
    · exact fun hev hlive hbits => ⟨_, exec_winen_of_live hev hturn hlive hbits, tget_tset_self ..⟩
    · intro hev hcap hdie hmask hsmall halign hown hrange hlive
      obtain ⟨t, hexec, hspill, hcore⟩ := exec_wallset_of_live hev hturn hcap hdie rfl (by omega) halign hown hrange hlive
      refine ⟨_, hexec, ?_, fun i hi => ?_⟩
      · rw [tqe_kick]
        exact hspill
      · rw [core_kick, hcore]
        exact wall_setWall_low s p hsmall (c.arg 2) hi
    · intro u v pa b rid hev hpasid halign hxlate hloc himage hgood hrid
      obtain ⟨t, hexec, hregion⟩ := exec_rcreate_of_image hev hturn hpasid halign hxlate hloc himage hgood hrid
      exact ⟨t, hexec, _, hregion, rfl, rfl, rfl, rfl, rfl, rfl, rfl, rfl⟩
    · exact fun g hev hg hlive hbusy _ => ⟨_, exec_rdestroy_of_idle hev hturn hg hlive hbusy, region_dropRegion ..⟩
    · intro u v b pas lep hev halign himage hrange hpasid hports hgood hlep hpas
      exact ⟨_, exec_epcreate_of_image hev hturn halign himage hrange hpasid hports hgood hlep hpas, lookup_tset_self ..⟩
    · exact fun e hev he hlive => exec_epdestroy_of_live hev hturn he hlive
    · intro e u b hev he hlive hpeer halign himage hgood hnone
      exact ⟨_, exec_peerset_of_image hev hturn he hlive hpeer halign himage hgood hnone, lookup_tset_self ..⟩
    · intro e i hev he hlive hown hrights hkey
      exact ⟨_, exec_nwinreg_of_free hev hturn he hlive hown hrights hkey, lookup_tset_self ..⟩
    · simp only [List.forall_mem_cons]
      refine ⟨fun hev he => ?_, fun hev he => ?_, fun hev he => ?_, fun _ h => absurd h List.not_mem_nil⟩
      · show execEpdestroy s = _
        rw [execEpdestroy, hev]
        exact (command_of_turn hturn _).trans (congrArg Host.Outcome.next (endpoint_of_none he _))
      · show execPeerset s = _
        rw [execPeerset, hev]
        exact (command_of_turn hturn _).trans (congrArg Host.Outcome.next (endpoint_of_none he _))
      · show execNwinreg s = _
        rw [execNwinreg, hev]
        exact (command_of_turn hturn _).trans (congrArg Host.Outcome.next (endpoint_of_none he _))
    · exact fun hev hp hkind hcoh => ⟨_, exec_hwinset_of_entry hev hturn hp hkind hcoh, lookup_tset_self ..⟩
    · exact fun hev hkind => exec_hwinset_of_reserved hev hturn hkind
    · exact fun hev => ⟨exec_ptpset_of_absent hev hturn, fun hp hport => ⟨_, exec_ptpset_of_port hev hturn hp hport, rfl⟩⟩
    · exact fun u b hev hgsk halign himage hgood => ⟨_, exec_gpolicy_of_image hev hturn hgsk halign himage hgood, rfl, rfl, rfl⟩
    · exact fun hev hgsk => exec_gpolicy_of_absent hev hturn hgsk
    · exact fun hev hgbnd hp hlive hgrant hnew hroom => ⟨_, exec_ggrant_of_new hev hturn hgbnd hp hlive hgrant hnew hroom, rfl⟩
    · intro hev hdie hcore
      refine ⟨_, exec_selftest_of_core hev hturn hdie hcore, ?_, ?_⟩ <;> rw [State.core_modCore_self]
      exact quar_tested ..
    · exact fun hev => exec_selftest_of_absent hev hturn
    · exact fun hev => exec_selftest_of_invalid hev hturn
    · intro hev
      show execInfo s = _
      rw [execInfo, hev]
      exact command_of_turn hturn _
    · intro hev
      show execMeminfo s = _
      rw [execMeminfo, hev]
      exact command_of_turn hturn _
  · intro t
    rw [show t = _ from answer_slot hslot hhart hflags s st r0 r1]
    exact ⟨lookup_tset_self .., rfl, by simp, rfl, rfl⟩

end Sys2Proof.Machine
end

section
/-! PROOF. The events of the network (O56). -/

namespace Sys2Proof.Machine

open Sys2Proof.Claims

/-! ### Ends of messages -/

theorem answer_net (s : State) (c : MCmd) (st r0 r1 : Nat) : (s.answer c st r0 r1).net = s.net :=
  answer_keep State.net (fun _ _ => State.net_of_sansCoh) (fun _ _ => rfl) (fun _ _ _ => rfl) s c st r0 r1

theorem net_agentWrite (s : State) (a : Nat) (bs : List Byte) : (s.agentWrite a bs).net = s.net := State.net_of_sansCoh (s.keeps_agentWrite a bs).1

/-- One `nfence` that is over gives its register the count. -/
def State.fenceOver (s t : State) (f : NFence) : State :=
  match s.fenceHart f with
  | some h => t.modHart h fun x => x.setX f.rd (BitVec.ofNat 64 f.fails)
  | none => t

/-- Fences that are over leave the messages and the failures (R454). -/
theorem fencesDone_keeps (s : State) : s.fencesDone.net.msgs = s.net.msgs ∧ s.fencesDone.net.fails = s.net.fails := by
  have hstep : ∀ t f, (s.fenceOver t f).net = t.net := fun t f => by
    unfold State.fenceOver
    split <;> rfl
  have hnet : s.fencesDone.net = { s.net with fences := s.net.fences.filter fun f => !(f.on.isEmpty && (s.fenceHart f).isSome) } :=
    foldl_keep State.net s.fenceOver hstep _ _
  rw [hnet]
  exact ⟨rfl, rfl⟩

/-- A message that has ended is gone, and no other (R460, R463). -/
theorem msgEnded_keeps (s : State) (id : Nat) (failed : Bool) :
    (s.msgEnded id failed).net.msgs = tdel id s.net.msgs ∧ (s.msgEnded id failed).net.fails = s.net.fails := by
  unfold State.msgEnded
  extract_lets step fs ps set _ u v
  have hv : v.net = u.net := foldl_keep State.net _ (fun t p => answer_net ..) set u
  obtain ⟨hmsgs, hfails⟩ := fencesDone_keeps v
  rw [hmsgs, hfails, hv]
  exact ⟨rfl, rfl⟩

theorem fails_modEp (s : State) (lep : Nat) (f : Ep → Ep) : (s.modEp lep f).net.fails = s.net.fails := by
  unfold State.modEp
  split <;> rfl

theorem fails_epRecord (s : State) (lep code tag iid detail : Nat) : (s.epRecord lep code tag iid detail).net.fails = s.net.fails := by
  unfold State.epRecord
  split
  · rfl
  · next e _ =>
    have hload : (s.free.1.loadLines noNode (e.evq + 8) 8).net.fails = s.net.fails :=
      congrArg Net.fails (State.net_of_sansCoh (State.keeps_loadLines ..).1)
    dsimp only
    split
    · rw [net_agentWrite, fails_modEp, hload]
    · rw [net_agentWrite, fails_modEp, net_agentWrite, hload]

/-- A message that fails is gone; without an instance its failure is noted for its hart (R463). -/
theorem failMsg_keeps {s : State} {id : Nat} {m : Msg} (hm : s.net.msgs.lookup id = some m) (code detail : Nat) :
    (s.failMsg id code detail).net.msgs.lookup id = none ∧
      (m.inst = none → (s.failMsg id code detail).net.fails = s.net.fails ++ [(2 ^ 64 + m.hart, m.tag, code)]) := by
  unfold State.failMsg
  rw [hm]
  dsimp only
  refine ⟨?_, fun hinst => ?_⟩
  · rw [(msgEnded_keeps ..).1]
    exact lookup_tdel_self ..
  · rw [(msgEnded_keeps ..).2, fails_epRecord, hinst]
    rfl

/-- A completed message is gone (R460). -/
theorem completeMsg_gone {s : State} {id : Nat} {m : Msg} (hm : s.net.msgs.lookup id = some m) : (s.completeMsg id).net.msgs.lookup id = none := by
  unfold State.completeMsg
  rw [hm]
  dsimp only
  rw [(msgEnded_keeps ..).1]
  exact lookup_tdel_self ..

/-- An update of the congestion table leaves messages, peers, packets and counts (R465). -/
theorem congestion_keeps (s : State) (lep peer : Nat) : let t := s.congestion lep peer
    t.net.msgs = s.net.msgs ∧ t.net.peers = s.net.peers ∧ t.net.sent = s.net.sent ∧ t.net.retx = s.net.retx := by
  intro t
  unfold t State.congestion
  extract_lets now
  split
  · exact ⟨rfl, rfl, rfl, rfl⟩
  split
  · dsimp only
    rw [net_agentWrite, net_agentWrite, net_agentWrite]
    exact ⟨rfl, rfl, rfl, rfl⟩
  · exact ⟨rfl, rfl, rfl, rfl⟩

theorem modMsg_of_lookup {s : State} {id : Nat} {m : Msg} (hm : s.net.msgs.lookup id = some m) (f : Msg → Msg) :
    s.modMsg id f = { s with net := { s.net with msgs := tset id (f m) s.net.msgs } } := by
  rw [State.modMsg, hm]

/-! ### The target -/

theorem exec_netPacketRx_of_data {s : State} {p : NetPkt} (hev : s.ev = .netPacketRx p) (hkind : p.kind ≠ 2) :
    exec .netPacketRx s = .next (s.atEndpoint p fun e => s.rxData e p) := by
  show execNetPacketRx s = _
  rw [execNetPacketRx, hev]
  dsimp only
  rw [if_neg hkind]

theorem atEndpoint_of_otherJob {s : State} {p : NetPkt} {e : Ep} (he : s.net.eps.lookup p.lep = some e) (hjob : e.job ≠ p.job) (k : Ep → State) :
    s.atEndpoint p k = { s with net := { s.net with eps := tset p.lep { e with jobdrops := e.jobdrops + 1 } s.net.eps } } := by
  rw [State.atEndpoint, he]
  dsimp only
  rw [if_pos hjob, State.modEp, he]

theorem atEndpoint_of_live {s : State} {p : NetPkt} {e : Ep} {x : Nat × Ctx} (he : s.net.eps.lookup p.lep = some e) (hjob : e.job = p.job)
    (hx : s.ctxOf e.pasid = some x) (hlive : x.2.state = 1) (k : Ep → State) : s.atEndpoint p k = k e := by
  rw [State.atEndpoint, he]
  dsimp only
  rw [if_neg (not_not_intro hjob), hx]
  exact if_pos (beq_iff_eq.mpr hlive)

theorem rodPass_of_rud {s : State} {p : NetPkt} (h : p.mode = 0) : s.rodPass p = s := by
  rw [State.rodPass, h]
  rfl

/-- A read request at its endpoint; the first one outside an order is served (R453). -/
theorem exec_netReadRequest_of_ev {s : State} {p : NetPkt} (hev : s.ev = .netReadRequest p) : ∃ k : Ep → State,
    exec .netReadRequest s = .next (s.atEndpoint p k) ∧ (p.mode = 0 → s.rxOf p = none → ∀ e, k e = s.serveRead e p) := by
  show ∃ k : Ep → State, execNetReadRequest s = _ ∧ _
  rw [execNetReadRequest, hev]
  refine ⟨_, rfl, fun hmode hrx e => ?_⟩
  rw [if_neg (by omega), hrx]
  dsimp only
  rw [rodPass_of_rud hmode]

theorem rxOf_setRx {s : State} {p : NetPkt} {x : Rx} (hlep : x.lep = p.lep) (hfrom : x.from_ = p.initiator) (hmid : x.mid = p.mid) :
    (s.setRx x).rxOf p = some x := by
  have hmatch : (x.lep == p.lep && x.from_ == p.initiator && x.mid == p.mid) = true := by simp [hlep, hfrom, hmid]
  exact List.find?_cons_of_pos (p := fun r : Rx => r.lep == p.lep && r.from_ == p.initiator && r.mid == p.mid) hmatch

/-- The first packet of a write comes before its window (R447, R457). -/
theorem rxData_of_first {s : State} {p : NetPkt} (hkind : p.kind = 1) (hmode : p.mode = 0) (hrx : s.rxOf p = none) (e : Ep) :
    s.rxData e p = if s.windowOk p true then s.placePkt e p p.rx0 p.rva else s.refuse p 20 := by
  unfold State.rxData
  rw [hrx]
  show (if (0 : Nat) ≠ 0 then _ else if p.mode ≠ 2 ∧ ([] : List Nat).contains p.psn = true then _ else if p.mode = 1 ∧ s.rodNext p < p.seq then _
    else if p.kind = 0 then _ else if (!s.windowOk p true) = true then _ else _) = _
  rw [if_neg (not_not_intro rfl), if_neg (fun h => Bool.false_ne_true h.2), if_neg (by omega), if_neg (by omega), rodPass_of_rud hmode]
  cases s.windowOk p true <;> rfl

/-- A packet of a longer write is placed and acknowledged (R457). -/
theorem placePkt_of_first {s u : State} {p : NetPkt} {e : Ep} {va : Nat} (hmode : p.mode = 0) (hmany : 1 < p.npkt)
    (hwrite : s.writeVa e.cx (BitVec.ofNat 64 (va + p.psn * 4096)) p.payload = (u, .ok ())) :
    s.placePkt e p p.rx0 va = (u.ackTo 0 p p.psn).setRx { p.rx0 with placed := [p.psn], fired := false } := by
  have hlast : (1 == p.npkt) = false := beq_eq_false_iff_ne.mpr (by omega)
  unfold State.placePkt
  rw [hwrite]
  dsimp only
  rw [rodPass_of_rud hmode, if_neg (by omega)]
  show (if (1 == p.npkt) = true then _ else (u.ackTo 0 p p.psn).setRx { p.rx0 with placed := [p.psn], fired := 1 == p.npkt }) = _
  rw [hlast]
  rfl

/-- One packet of the answer to a read. -/
def State.readPkt (e : Ep) (p : NetPkt) (bs : List Byte) (s : State) (i : Nat) : State :=
  let q := { p with target := p.initiator, port := sprayPort e default s.free.2, psn := i, npkt := packetsOf p.len
                    payload := (bs.drop (i * 4096)).take 4096 }
  { s.free.1 with net := { s.net with sent := s.net.sent ++ [q] } }

/-- A read is answered with packets that carry its bytes in order (R453). -/
theorem answerRead_sent (s : State) (e : Ep) (p : NetPkt) (bs : List Byte) : ∃ l : List NetPkt, (s.answerRead e p bs).mem = s.mem ∧
    (s.answerRead e p bs).net.sent = s.net.sent ++ l ∧ l.length = packetsOf p.len ∧
    ∀ i q, l[i]? = some q → q.psn = i ∧ q.mid = p.mid ∧ q.target = p.initiator ∧ q.payload = (bs.drop (i * 4096)).take 4096 := by
  have hprefix : ∀ n, ∃ l : List NetPkt, ((List.range n).foldl (State.readPkt e p bs) s).mem = s.mem ∧
      ((List.range n).foldl (State.readPkt e p bs) s).net.sent = s.net.sent ++ l ∧ l.length = n ∧
      ∀ i q, l[i]? = some q → q.psn = i ∧ q.mid = p.mid ∧ q.target = p.initiator ∧ q.payload = (bs.drop (i * 4096)).take 4096 := by
    intro n
    induction n with
    | zero => exact ⟨[], rfl, (List.append_nil _).symm, rfl, fun i q h => by simp at h⟩
    | succ n ih =>
      obtain ⟨l, hmem, hsent, hlen, hall⟩ := ih
      rw [List.range_succ, List.foldl_append, List.foldl_cons, List.foldl_nil]
      refine ⟨l ++ [_], hmem, (congrArg (· ++ [_]) hsent).trans (List.append_assoc ..), by simp [hlen], fun i q h => ?_⟩
      rcases Nat.lt_trichotomy i n with hlt | heq | hgt
      · rw [List.getElem?_append_left (by omega)] at h
        exact hall i q h
      · rw [show i = l.length by omega, List.getElem?_concat_length] at h
        cases h
        exact ⟨heq.symm, rfl, rfl, by rw [heq]⟩
      · rw [List.getElem?_eq_none (by simp; omega)] at h
        cases h
  exact hprefix _

/-- A read request at its endpoint in its turn (R453). -/
theorem serveRead_of_ok {s u v : State} {p : NetPkt} {e : Ep} {ps : List (Nat × Nat)} {bs : List Byte} (hwin : s.windowOk p false = true)
    (hxlate : s.xlateAll e.cx .load (BitVec.ofNat 64 p.rva) p.len = (u, .ok ps)) (hplain : ∀ q ∈ ps, u.readSensitive q.1 = false)
    (hread : u.readVa e.cx (BitVec.ofNat 64 p.rva) p.len = (v, .ok bs)) : s.serveRead e p = v.answerRead e p bs := by
  have hnone : (ps.any fun q => u.readSensitive q.1) = false := List.any_eq_false.mpr fun q hq => by rw [hplain q hq]; exact Bool.false_ne_true
  rw [State.serveRead, hwin, Bool.not_true, if_neg Bool.false_ne_true, hxlate]
  dsimp only
  rw [hnone, if_neg Bool.false_ne_true, hread]

theorem serveRead_of_refused {s : State} {p : NetPkt} (hwin : s.windowOk p false = false) (e : Ep) : s.serveRead e p = s.refuse p 20 := by
  rw [State.serveRead, hwin]
  rfl

/-! ### The initiator -/

theorem exec_netAck_of_known {s : State} {id psn : Nat} {m : Msg} (hev : s.ev = .netAck id psn) (hm : s.net.msgs.lookup id = some m)
    (hold : m.state ≠ 2 ∨ m.kind = 2 ∨ psn ∈ m.acked ∨ m.npkt ≤ psn) : exec .netAck s = .next s := by
  show execNetAck s = _
  rw [execNetAck, hev]
  dsimp only
  rw [hm]
  exact if_pos (hold.imp_right (Or.imp_right (Or.imp_left List.contains_iff_mem.mpr)))

/-- A new acknowledgement is noted; only under RUDI may it complete the message (R460). -/
theorem exec_netAck_of_new {s : State} {id psn : Nat} {m : Msg} (hev : s.ev = .netAck id psn) (hm : s.net.msgs.lookup id = some m)
    (hstate : m.state = 2) (hkind : m.kind ≠ 2) (hnew : psn ∉ m.acked) (hpsn : psn < m.npkt)
    (hmode : ∀ p, s.net.peers.lookup (m.lep * 65536 + m.peer) = some p → p.mode ≠ 2) :
    exec .netAck s = .next ((s.modMsg id fun m => { m with acked := psn :: m.acked, code := 0 }).congestion m.lep m.peer) := by
  have hopen : ¬ (m.state ≠ 2 ∨ m.kind = 2 ∨ m.acked.contains psn = true ∨ m.npkt ≤ psn) := by
    rw [List.contains_iff_mem]
    rintro (h | h | h | h)
    · exact h hstate
    · exact hkind h
    · exact hnew h
    · omega
  have hpeers : ((s.modMsg id fun m => { m with acked := psn :: m.acked, code := 0 }).congestion m.lep m.peer).net.peers = s.net.peers := by
    rw [(congestion_keeps ..).2.1, modMsg_of_lookup hm]
  show execNetAck s = _
  rw [execNetAck, hev]
  dsimp only
  rw [hm]
  dsimp only
  rw [if_neg hopen, hpeers]
  refine congrArg Host.Outcome.next (if_neg ?_)
  cases hp : s.net.peers.lookup (pkey m.lep m.peer) with
  | none => exact Bool.false_ne_true
  | some p =>
    dsimp only
    rw [beq_eq_false_iff_ne.mpr (hmode p hp)]
    exact Bool.false_ne_true

/-- The packet that `sendPkt` makes of a message to a known peer (R456). -/
theorem sendPkt_of_peer {s : State} {id psn : Nat} {m : Msg} {e : Ep} {p : Peer} (hm : s.net.msgs.lookup id = some m)
    (he : s.net.eps.lookup m.lep = some e) (hp : s.net.peers.lookup (m.lep * 65536 + m.peer) = some p) (hkind : m.kind ≠ 2) :
    ∃ q : NetPkt, (s.sendPkt id psn).net = { s.net with sent := s.net.sent ++ [q] } ∧ q.psn = psn ∧ q.mid = id ∧ q.kind = m.kind ∧ q.lep = p.rlep ∧
      q.rva = m.rva ∧ q.payload = (m.buf.drop (psn * 4096)).take 4096 := by
  have hpkt : (s.free.1.net.msgs.lookup id).bind (fun m => s.free.1.packetOf id psn m s.free.2) = s.free.1.packetOf id psn m s.free.2 := by
    rw [show s.free.1.net.msgs.lookup id = some m from hm]
    rfl
  unfold State.sendPkt
  dsimp only
  rw [hpkt, State.packetOf, show s.free.1.net.eps.lookup m.lep = some e from he,
    show s.free.1.net.peers.lookup (pkey m.lep m.peer) = some p from hp]
  exact ⟨_, rfl, rfl, rfl, rfl, rfl, rfl, if_neg hkind⟩

/-- A packet sent again goes out as it stands in the buffer, and is counted (R461). -/
theorem resendPkt_of_peer {s : State} {id psn : Nat} {m k : Msg} {e : Ep} {p : Peer} (hk : s.net.msgs.lookup id = some k)
    (hlep : k.lep = m.lep) (hpeer : k.peer = m.peer)
    (he : s.net.eps.lookup m.lep = some e) (hp : s.net.peers.lookup (m.lep * 65536 + m.peer) = some p) (hkind : k.kind ≠ 2) :
    ∃ q : NetPkt, (s.resendPkt id psn m).net.sent = s.net.sent ++ [q] ∧ q.psn = psn ∧ q.mid = id ∧ q.kind = k.kind ∧ q.lep = p.rlep ∧
      q.rva = k.rva ∧ q.payload = (k.buf.drop (psn * 4096)).take 4096 ∧
      tget 0 (s.resendPkt id psn m).net.retx (m.lep * 65536 + m.peer) = tget 0 s.net.retx (m.lep * 65536 + m.peer) + 1 := by
  unfold State.resendPkt
  extract_lets key _ u
  obtain ⟨q, hnet, hq⟩ := sendPkt_of_peer (s := u) (psn := psn) (p := p) hk (by rw [hlep]; exact he) (by rw [hlep, hpeer]; exact hp) hkind
  obtain ⟨_, _, hsent, hretx⟩ := congestion_keeps (u.sendPkt id psn) m.lep m.peer
  obtain ⟨hpsn, hmid, hk', hl, hr, hpay⟩ := hq
  rw [hsent, hretx, hnet]
  exact ⟨q, rfl, hpsn, hmid, hk', hl, hr, hpay, tget_tset_self ..⟩

theorem exec_netNack_of_open {s : State} {id psn : Nat} {full : Bool} {m : Msg} (hev : s.ev = .netNack id psn full)
    (hm : s.net.msgs.lookup id = some m) (hstate : m.state = 2) (hpsn : psn < m.npkt) (hnew : psn ∉ m.acked) : exec .netNack s =
      .next ((s.modMsg id fun m => { m with code := if full then 23 else m.code }).resendPkt id psn m) := by
  have hopen : ¬ (m.state ≠ 2 ∨ m.npkt ≤ psn ∨ (m.kind ≠ 2 ∧ m.acked.contains psn = true)) := by
    rw [List.contains_iff_mem]
    rintro (h | h | h)
    · exact h hstate
    · omega
    · exact hnew h.2
  show execNetNack s = _
  rw [execNetNack, hev]
  dsimp only
  rw [hm]
  dsimp only
  rw [if_neg hopen]

theorem exec_netRetransmitTimer_of_open {s : State} {id psn : Nat} {m : Msg} (hev : s.ev = .netRetransmitTimer id psn)
    (hm : s.net.msgs.lookup id = some m) (hstate : m.state = 2) (hpsn : psn < m.npkt) (hnew : psn ∉ m.acked)
    (hmissing : m.acked.length ≠ m.npkt) : exec .netRetransmitTimer s = .next (s.resendPkt id psn m) := by
  have hopen : ¬ (m.npkt ≤ psn ∨ (m.kind ≠ 2 ∧ m.acked.contains psn = true)) := by
    rw [List.contains_iff_mem]
    rintro (h | h)
    · omega
    · exact hnew h.2
  show execNetRetransmitTimer s = _
  rw [execNetRetransmitTimer, hev]
  dsimp only
  rw [hm]
  dsimp only
  rw [if_neg (by omega), if_neg (fun h => hmissing h.2), if_neg hopen]

theorem exec_netRetransmitTimer_of_unsent {s : State} {id psn : Nat} {m : Msg} (hev : s.ev = .netRetransmitTimer id psn)
    (hm : s.net.msgs.lookup id = some m) (hstate : m.state = 1) : exec .netRetransmitTimer s = .next (s.tryMsg id) := by
  show execNetRetransmitTimer s = _
  rw [execNetRetransmitTimer, hev]
  dsimp only
  rw [hm]
  exact if_pos hstate

theorem exec_netCompletionAck_of_msg {s : State} {id code : Nat} {m : Msg} (hev : s.ev = .netCompletionAck id code)
    (hm : s.net.msgs.lookup id = some m) : exec .netCompletionAck s =
      if m.state ≠ 2 then .next s
      else if code ≠ 0 then .next (s.failMsg id code 0)
      else if m.kind = 2 then .next s
      else .next ((s.congestion m.lep m.peer).completeMsg id) := by
  show execNetCompletionAck s = _
  rw [execNetCompletionAck, hev]
  dsimp only
  rw [hm]

theorem exec_netTimeout_of_msg {s : State} {id : Nat} {m : Msg} (hev : s.ev = .netTimeout id) (hm : s.net.msgs.lookup id = some m) :
    exec .netTimeout s = .next (s.failMsg id (if m.code = 23 then 23 else 24) 0) := by
  show execNetTimeout s = _
  rw [execNetTimeout, hev]
  dsimp only
  rw [hm]

/-! ### Probes and time -/

theorem exec_probe_of_found {s : State} {lep from_ mid : Nat} {x : Rx} (hev : s.ev = .probe lep from_ mid)
    (hx : (s.net.rx.find? fun r => r.lep == lep && r.from_ == from_ && r.mid == mid) = some x) : exec .probe s =
      .next { s with net := { s.net with acks := s.net.acks ++ (if x.fired || x.code != 0 then [[3, lep, from_, mid, x.code]]
        else x.placed.map fun p => [0, lep, from_, mid, p]) } } := by
  show execProbe s = _
  rw [execProbe, hev]
  dsimp only
  rw [hx]

theorem clampPpm_of_small {x : Int} (hhi : x ≤ 500) (hlo : -500 ≤ x) : clampPpm x = x := by
  rw [clampPpm, if_neg (by omega), if_neg (by omega)]

/-- A small rate is kept as a 64-bit word (R467). -/
theorem toInt_wrap64_of_small {x : Int} (hhi : x ≤ 500) (hlo : -500 ≤ x) : (BitVec.ofNat 64 (wrap64 x).toNat).toInt = x := by
  rw [BitVec.ofNat_toNat, BitVec.setWidth_eq, wrap64, BitVec.toInt_ofInt]
  exact Int.bmod_eq_of_le (by omega) (by omega)

/-- Settles O56: each event by what it does to the message, the target's state or the wire. -/
theorem networkEvents : Obligations.NetworkEvents := by
  unfold Obligations.NetworkEvents
  refine ⟨?_, ?_, ?_, ?_, ?_, ?_⟩
  · intro s p e he hev i hjob
    have hexec : exec i s = .next { s with net := { s.net with eps := tset p.lep { e with jobdrops := e.jobdrops + 1 } s.net.eps } } := by
      rcases hev with ⟨hkind, hev⟩ | hev
      · rw [show i = .netPacketRx from if_neg (by rw [hev]; exact nofun), exec_netPacketRx_of_data hev hkind, atEndpoint_of_otherJob he hjob]
      · obtain ⟨k, hread, _⟩ := exec_netReadRequest_of_ev hev
        rw [show i = .netReadRequest from if_pos hev, hread, atEndpoint_of_otherJob he hjob]
    exact ⟨_, hexec, rfl, rfl, rfl, lookup_tset_self ..⟩
  · intro s u p e x hev hkind hmode he hjob hx hlive hrx
    have hexec := exec_netPacketRx_of_data hev (by omega)
    rw [atEndpoint_of_live he hjob hx hlive, rxData_of_first hkind hmode hrx] at hexec
    refine ⟨fun hwin => ?_, fun hwin hmany hwrite => ?_⟩
    · rw [if_neg (Bool.eq_false_iff.mp hwin)] at hexec
      exact ⟨_, hexec, rfl, rfl⟩
    · rw [if_pos hwin, placePkt_of_first hmode hmany hwrite] at hexec
      exact ⟨_, hexec, rfl, rfl, _, rxOf_setRx rfl rfl rfl, rfl, rfl, rfl⟩
  · intro s u v p e x ps bs hev hmode he hjob hx hlive hrx
    obtain ⟨k, hexec, hserve⟩ := exec_netReadRequest_of_ev hev
    rw [atEndpoint_of_live he hjob hx hlive, hserve hmode hrx] at hexec
    refine ⟨fun hwin => ?_, fun hwin hxlate hplain hread => ?_⟩
    · rw [serveRead_of_refused hwin] at hexec
      exact ⟨_, hexec, rfl⟩
    · rw [serveRead_of_ok hwin hxlate hplain hread] at hexec
      obtain ⟨l, hmem, hsent, hlen, hall⟩ := answerRead_sent v e p bs
      exact ⟨_, l, hexec, hmem, hsent, hlen, hall⟩
  · intro s id psn m hm
    refine ⟨fun hev => ⟨exec_netAck_of_known hev hm, fun hstate hkind hnew hpsn hmode => ?_⟩, ?_,
      fun hev hstate => exec_netRetransmitTimer_of_unsent hev hm hstate, fun code hev => ?_, fun hev => ?_⟩
    · refine ⟨_, exec_netAck_of_new hev hm hstate hkind hnew hpsn hmode, ?_⟩
      rw [(congestion_keeps ..).1, modMsg_of_lookup hm]
      exact lookup_tset_self ..
    · intro e p i he hp hstate hpsn hkind hnew hmissing hi
      rcases hi with ⟨rfl, full, hev⟩ | ⟨rfl, hev⟩
      · have hexec := exec_netNack_of_open hev hm hstate hpsn hnew
        rw [modMsg_of_lookup hm] at hexec
        obtain ⟨q, hq⟩ := resendPkt_of_peer (psn := psn) (m := m) (s := { s with net := { s.net with
          msgs := tset id { m with code := if full then 23 else m.code } s.net.msgs } }) (lookup_tset_self ..) rfl rfl he hp hkind
        exact ⟨_, q, hexec, hq⟩
      · obtain ⟨q, hq⟩ := resendPkt_of_peer (psn := psn) hm rfl rfl he hp hkind
        exact ⟨_, q, exec_netRetransmitTimer_of_open hev hm hstate hpsn hnew hmissing, hq⟩
    · have hexec := exec_netCompletionAck_of_msg hev hm
      refine ⟨fun hstate => hexec.trans (if_pos hstate), fun hstate hcase => ?_⟩
      rw [if_neg (not_not_intro hstate)] at hexec
      by_cases hcode : code = 0
      · have hkind : m.kind ≠ 2 := hcase.resolve_left (not_not_intro hcode)
        rw [if_neg (not_not_intro hcode), if_neg hkind] at hexec
        exact ⟨_, hexec, completeMsg_gone (m := m) (by rw [(congestion_keeps ..).1]; exact hm)⟩
      · rw [if_pos hcode] at hexec
        exact ⟨_, hexec, (failMsg_keeps hm ..).1⟩
    · exact ⟨_, exec_netTimeout_of_msg hev hm, failMsg_keeps hm ..⟩
  · intro s lep from_ mid x hev hx
    refine ⟨_, exec_probe_of_found hev hx, rfl, rfl, rfl, ?_⟩
    exact congrArg (s.net.acks ++ ·) (ite_of_iff (by simp))
  · intro s d off ppm hev
    have hexec : exec .ptpEvent s = .next { s with net := { s.net with
        ptp := tset d off s.net.ptp, ppm := tset d (wrap64 (clampPpm (signed ppm 64))).toNat s.net.ppm } } := by
      show execPtpEvent s = _
      rw [execPtpEvent, hev]
    refine ⟨_, hexec, tget_tset_self .., rfl, fun e hne => tget_tset_ne _ _ _ hne, fun hhi hlo => ?_⟩
    show (BitVec.ofNat 64 (tget 0 (tset d (wrap64 (clampPpm (signed ppm 64))).toNat s.net.ppm) d)).toInt = _
    rw [tget_tset_self, clampPpm_of_small hhi hlo, toInt_wrap64_of_small hhi hlo]

end Sys2Proof.Machine
end

section
/-! PROOF. The events of the host ports (O57). -/

namespace Sys2Proof.Machine

open Sys2Proof.Claims

/-! ### Put windows -/

theorem exec_hostPut_of_none {s : State} {qid d off who : Nat} {pasid : Option Nat} {image : List Byte}
    (hev : s.ev = .hostPut qid d off who pasid image) (hq : s.queue qid = none) : exec .hostPut s = .next s := by
  show execHostPut s = _
  rw [execHostPut, hev]
  dsimp only
  rw [hq]

theorem exec_hostPut_of_queue {s : State} {qid d off who : Nat} {pasid : Option Nat} {image : List Byte} {q : Queue}
    (hev : s.ev = .hostPut qid d off who pasid image) (hq : s.queue qid = some q) (hqid : qid ≠ 0) (hd : d < 4) (hoff : off < 0x40) :
    exec .hostPut s = if off ≠ 0 ∨ image.length ≠ 64 then .next (s.badPut qid d who pasid) else .next (s.hostPuts qid d who q pasid image) := by
  show execHostPut s = _
  rw [execHostPut, hev]
  dsimp only
  rw [hq]
  dsimp only
  rw [if_neg (by omega)]

theorem hostPuts_of_foreign {s : State} {q : Queue} {p : Nat} (hp : p ≠ q.pasid) (qid d who : Nat) (image : List Byte) :
    s.hostPuts qid d who q (some p) image = s.badPut qid d who (some p) := if_pos hp

theorem hostPuts_of_taken {s u : State} {q : Queue} {qid d who n : Nat} {image : List Byte}
    (hoffer : s.offer qid q d (imageOf image) false = (u, .taken n)) :
    s.hostPuts qid d who q (some q.pasid) image = u.setResult who q.pasid (n % 2 ^ 62 * 4) := by
  unfold State.hostPuts
  dsimp only
  rw [if_neg (not_not_intro rfl), hoffer]

/-- The last result of a requester is the first that is found (R476). -/
theorem find_setResult (s : State) (who p v : Nat) :
    ((s.setResult who p v).host.result.find? fun r => r.1 == who && r.2.1 == p) = some (who, p, v) := by
  unfold State.setResult
  extract_lets others port
  have hfirst : port.take 256 = (who, p, v) :: (others.filter fun r => r.1 / 65536 == who / 65536).take 255 := rfl
  show List.find? _ (port.take 256 ++ _) = _
  rw [hfirst, List.cons_append, List.find?_cons_of_pos]
  simp

/-! ### BAR4 -/

theorem exec_hostBar4Read_of_ev {s : State} {off len : Nat} (hev : s.ev = .hostBar4Read off len) : exec .hostBar4Read s =
    if !s.bar4Ok off len then .next (s.toHost [3, 1, 0])
    else if (s.loadLines noNode off len).poisoned off len then .next (((s.loadLines noNode off len).poisonRecord off).toHost [3, 2, 0])
    else .next ((s.loadLines noNode off len).toHost [3, 0, (s.loadLines noNode off len).peekN off len]) := by
  show execHostBar4Read s = _
  rw [execHostBar4Read, hev]; rfl

theorem exec_hostBar4Write_of_ev {s : State} {off : Nat} {bs : List Byte} (hev : s.ev = .hostBar4Write off bs) : exec .hostBar4Write s =
    .next (if s.bar4Ok off bs.length then s.agentWrite off bs else s.toHost [3, 1, 0]) := by
  show execHostBar4Write s = _
  rw [execHostBar4Write, hev]; rfl

/-- The operations and widths that a port supports (R471). -/
theorem atomicKind_iff {op w : Nat} :
    ((decide (op = 0 ∨ op = 8) && decide (w = 4 ∨ w = 8)) || (decide (op = 10) && decide (w = 4 ∨ w = 8 ∨ w = 16))) = true ↔
    ((op = 0 ∨ op = 8) ∧ (w = 4 ∨ w = 8)) ∨ (op = 10 ∧ (w = 4 ∨ w = 8 ∨ w = 16)) := by
  simp only [Bool.or_eq_true, Bool.and_eq_true, decide_eq_true_eq]

theorem exec_hostAtomicop_of_refused {s : State} {bar off op w x y : Nat} (hev : s.ev = .hostAtomicop bar off op w x y)
    (hbad : bar ≠ 4 ∨ off % w ≠ 0 ∨ (op ≠ 0 ∧ op ≠ 8 ∧ op ≠ 10)) : exec .hostAtomicop s = .next (s.toHost [5, 1, 0]) := by
  show execHostAtomicop s = _
  rw [execHostAtomicop, hev]
  refine if_pos ?_
  rcases hbad with h | h | h
  · exact .inl h
  · exact .inr (.inr (.inl h))
  · refine .inr (.inl ?_)
    rw [Bool.not_eq_true', ← Bool.not_eq_true, atomicKind_iff]
    omega

theorem exec_hostAtomicop_of_served {s : State} {bar off op w x y : Nat} (hev : s.ev = .hostAtomicop bar off op w x y) (hbar : bar = 4)
    (halign : off % w = 0) (hkind : ((op = 0 ∨ op = 8) ∧ (w = 4 ∨ w = 8)) ∨ (op = 10 ∧ (w = 4 ∨ w = 8 ∨ w = 16)))
    (hok : s.bar4Ok off w = true) (hregion : s.inRegion off = false) : exec .hostAtomicop s =
      .next ((s.atomicAt noNode off op w (x % 2 ^ (8 * w)) (y % 2 ^ (8 * w))).1.toHost
        [5, 0, (s.atomicAt noNode off op w (x % 2 ^ (8 * w)) (y % 2 ^ (8 * w))).2]) := by
  show execHostAtomicop s = _
  rw [execHostAtomicop, hev]
  dsimp only
  rw [atomicKind_iff.mpr hkind, hok, hregion, if_neg (by simp [hbar, halign]), if_neg Bool.false_ne_true]

/-! ### Snoops -/

theorem snooped_of_none {s : State} {l : Nat} (h : s.coh.txn.lookup l = none) (again : Ev) (stalled served : State) :
    s.snooped l again stalled served = served := by
  rw [State.snooped, h]

theorem exec_snpinv_of_none {s : State} {l : Nat} (hev : s.ev = .snpinv l) (h : s.coh.txn.lookup l = none) : exec .snpinv s =
    .next (if s.outer l = 0 then s.toHost [6, l, 0] else ((State.settle settleFuel l (s.homeServe l .evict)).setOuter l 0).toHost
      [6, l, 1, ((State.settle settleFuel l (s.homeServe l .evict)).setOuter l 0).lineData l]) := by
  show execSnpinv s = _
  rw [execSnpinv, hev]
  dsimp only
  rw [snooped_of_none h, snooped_of_none h]
  exact (apply_ite Host.Outcome.next _ _ _).symm

theorem exec_snpdata_of_none {s : State} {l : Nat} (hev : s.ev = .snpdata l) (h : s.coh.txn.lookup l = none) : exec .snpdata s =
    .next (if s.outer l = 0 then s.toHost [6, l, 0]
      else ((s.cohRead noNode l).setOuter l 1).toHost [6, l, 1, ((s.cohRead noNode l).setOuter l 1).lineData l]) := by
  show execSnpdata s = _
  rw [execSnpdata, hev]
  dsimp only
  rw [snooped_of_none h, snooped_of_none h]
  exact (apply_ite Host.Outcome.next _ _ _).symm

theorem exec_snpcur_of_none {s : State} {l : Nat} (hev : s.ev = .snpcur l) (h : s.coh.txn.lookup l = none) : exec .snpcur s =
    .next (if s.outer l = 0 then s.toHost [6, l, 0] else (s.cohRead noNode l).toHost [6, l, 1, (s.cohRead noNode l).lineData l]) := by
  show execSnpcur s = _
  rw [execSnpcur, hev]
  dsimp only
  rw [snooped_of_none h, snooped_of_none h]
  exact (apply_ite Host.Outcome.next _ _ _).symm

/-! ### The host's grant -/

/-- The grant of the outer agent: only the host's state of the line differs, and it is at least what is granted (R474). -/
theorem outerRaised {s : State} {l h : Nat} (hb : s.backing (l * 128) = .host h) (x : Nat) :
    ∃ hs, (if s.outer l < x then s.setOuter l x else s) = { s with host := { s.host with hs := hs } } ∧
      x ≤ State.outer { s with host := { s.host with hs := hs } } l := by
  by_cases hlt : s.outer l < x
  · refine ⟨tset l x s.host.hs, ?_, ?_⟩
    · rw [if_pos hlt, State.setOuter, hb]
    · have hb' : State.backing { s with host := { s.host with hs := tset l x s.host.hs } } (l * 128) = .host h := hb
      rw [State.outer, hb']
      exact Nat.le_of_eq (tget_tset_self ..).symm
  · exact ⟨s.host.hs, if_neg hlt, Nat.le_of_not_lt hlt⟩

/-- The state in which a line's transaction has ended and its entry is idle. -/
def State.reopened (s : State) (l : Nat) : State := (s.endTxn l).setBusy l false

/-- A read of a line that no node holds is granted once the outer agent consents (R388). -/
theorem homeServe_reopened_gets {s : State} {l n : Nat} (hst : (s.dir l).st = 0) (hin : s.inLlc l = true) (houter : 1 ≤ s.outer l) :
    ∃ llc, (s.reopened l).homeServe l (.gets n) =
      State.homeGrant { s.reopened l with coh := { (s.reopened l).coh with llc := llc } } l (.gets n) false := by
  obtain ⟨llc, hllc⟩ := llcTouch_eq (s.reopened l) l
  have hin' : (s.reopened l).inLlc l = true := hin
  have hout : 1 ≤ (s.reopened l).outer l := houter
  have hidle : ((s.reopened l).dir l).st = 0 := (congrArg Dir.st (dir_setBusy ..)).trans hst
  refine ⟨llc, ?_⟩
  rw [State.homeServe, if_neg nofun, if_neg (by simp [hin']), if_neg (by simp only [Req.needs]; omega), hllc]
  exact homeAct_of_uncached nofun hidle

theorem exec_hostReadComplete_of_host {s : State} {l h : Nat} {own : Bool} (hev : s.ev = .hostReadComplete l own [])
    (hb : s.backing (l * 128) = .host h) : exec .hostReadComplete s = .next (s.outerGrant l (if own then 2 else 1)) := by
  show execHostReadComplete s = _
  rw [execHostReadComplete, hev]
  dsimp only
  rw [hb]
  rfl

/-- Where the outer agent's state is raised to `u`, a read that waited for it is granted. -/
theorem answers_of_outerGrant {i : Instr} {s u : State} {l n x : Nat} {t : Txn} (hexec : exec i s = .next (s.outerGrant l x))
    (hraised : (if s.outer l < x then s.setOuter l x else s) = u) (hcoh : u.coh = s.coh) (hagenda : u.agenda = s.agenda) (hharts : u.harts = s.harts)
    (hin : u.inLlc l = true) (houter : 1 ≤ u.outer l) (ht : s.coh.txn.lookup l = some t) (hphase : t.phase = 2 ∨ t.phase = 3)
    (hreq : t.req = .gets n) (hst : (s.dir l).st = 0) (hnone : NoneWaits s l) : Answers i s l (.share n) [.dataS n l] := by
  have hstu : (u.dir l).st = 0 := (congrArg (fun c : Coh => (tget Dir.unc c.dir l).st) hcoh).trans hst
  obtain ⟨llc, hserve⟩ := homeServe_reopened_gets (n := n) hstu hin houter
  rw [State.outerGrant, hraised, hcoh, ht] at hexec
  dsimp only at hexec
  rw [if_pos (by simpa using hphase), hreq, ← State.reopened, hserve] at hexec
  obtain ⟨hdir, hdue, hstay, hwait⟩ := homeGrant_gets { u.reopened l with coh := { (u.reopened l).coh with llc := llc } } l n
  have hidle : (State.dir { u.reopened l with coh := { (u.reopened l).coh with llc := llc } } l).st = 0 :=
    (congrArg Dir.st (dir_setBusy ..)).trans hstu
  have hwaitq : u.coh.waitq = s.coh.waitq := congrArg Coh.waitq hcoh
  have hroom : u.coh.room = s.coh.room := congrArg Coh.room hcoh
  refine answers_of_homeFree hexec hnone (hwait.trans hwaitq) hroom (hdir.trans (by rw [hidle]; rfl))
    (hdue.trans (congrArg (· ++ _) hagenda)) (hstay.trans hharts)

theorem answers_host_gets {s : State} {l n h : Nat} {own : Bool} {t : Txn} (hev : s.ev = .hostReadComplete l own [])
    (hb : s.backing (l * 128) = .host h) (ht : s.coh.txn.lookup l = some t) (hphase : t.phase = 2) (hreq : t.req = .gets n)
    (hst : (s.dir l).st = 0) (hnone : NoneWaits s l) (hin : s.inLlc l = true) : Answers .hostReadComplete s l (.share n) [.dataS n l] := by
  obtain ⟨hs, hraised, hle⟩ := outerRaised hb (if own then 2 else 1)
  have hone : 1 ≤ State.outer { s with host := { s.host with hs := hs } } l := by
    refine Nat.le_trans ?_ hle
    split <;> omega
  exact answers_of_outerGrant (exec_hostReadComplete_of_host hev hb) hraised rfl rfl rfl hin hone ht (.inl hphase) hreq hst hnone

/-! ### AtomicOps of harts -/

/-- The state in which a hart's AtomicOp is no longer open. -/
def State.atomicEnded (s : State) (h : Nat) : State :=
  { s with host := { s.host with atomics := s.host.atomics.filter fun a => a.1 != h } }

theorem exec_atomicopCompletion_of_ev {s : State} {h : Nat} {ok : Bool} (hev : s.ev = .atomicopCompletion h ok) :
    exec .atomicopCompletion s = .next (s.atomicAnswer h ok) := by
  show execAtomicopCompletion s = _
  rw [execAtomicopCompletion, hev]

theorem atomicAnswer_of_ok {s : State} {h loc op n x y rd : Nat} {va : Word} (hw : (s.hart h).wait = some (.host loc va op n x y rd)) (hn : n ≠ 16) :
    s.atomicAnswer h true = ((s.atomicEnded h).atomicAt noNode loc op n x y).1.finish h rd
      (if n = 4 then (BitVec.ofNat 32 ((s.atomicEnded h).atomicAt noNode loc op n x y).2).signExtend 64
        else BitVec.ofNat 64 ((s.atomicEnded h).atomicAt noNode loc op n x y).2) := by
  unfold State.atomicAnswer
  rw [hw]
  dsimp only
  rw [if_pos rfl, decide_eq_false hn, Bool.false_and, if_neg Bool.false_ne_true]
  rfl

/-- An atomic operation on a place that is neither cached nor behind a port (R21). -/
theorem atomicAt_uncached {s : State} {a : Nat} (hc : s.cached a = false) (hp : s.portOf a = none) (n op w x y : Nat) :
    s.atomicAt n a op w x y = (s.pokeN a w (amoOp op w (memNat s.mem a w) x y), memNat s.mem a w) := by
  have hpush : s.pushFor a = s := by rw [State.pushFor, hp]
  rw [State.atomicAt, hc, hpush]
  rfl

/-- A failed AtomicOp is the access fault of its instruction (R475). -/
theorem atomicAnswer_of_failed {s : State} {h loc op n x y rd : Nat} {va : Word} (hw : (s.hart h).wait = some (.host loc va op n x y rd))
    (hpriv : (s.hart h).priv ≠ .m) : s.atomicAnswer h false = ((s.atomicEnded h).modHart h fun z => { z with wait := none }).modHart h fun x =>
      x.trap (x.trapsToS 7) 7 false va := by
  have hmode : (((s.atomicEnded h).modHart h fun z => { z with wait := none }).hart h).priv ≠ .m := by
    rw [State.hart_modHart_self]
    exact hpriv
  rw [State.atomicAnswer, hw]
  show ((s.atomicEnded h).modHart h fun z => { z with wait := none }).exceptAt h 7 va = _
  rw [State.exceptAt, decide_eq_false hmode, Bool.false_and]
  rfl

theorem takesTrap_atomicAnswer {s : State} {h loc op n x y rd : Nat} {va : Word} (hw : (s.hart h).wait = some (.host loc va op n x y rd))
    (hpriv : (s.hart h).priv ≠ .m) : TakesTrap (s.hart h) ((s.atomicAnswer h false).hart h) 7 va := by
  rw [atomicAnswer_of_failed hw hpriv, State.hart_modHart_self, State.hart_modHart_self]
  exact takesTrap_trap { s.hart h with wait := none } 7 va

/-! ### Failures of ports -/

theorem portError_keeps (s : State) (port : Nat) : (s.portError port).harts = s.harts ∧ (s.portError port).host = s.host ∧
    (s.portError port).mgmt.logn = s.mgmt.logn + 1 :=
  ⟨State.errorRecord_harts .., errorRecord_keep State.host (fun _ _ => rfl) (fun _ _ => rfl) (fun _ _ => rfl) .., (errorRecord_keeps ..).2.2⟩

theorem exec_completionTimeout_of_atomic {s : State} {port h : Nat} (hev : s.ev = .completionTimeout port h)
    (hany : ∃ a ∈ s.host.atomics, a.1 = h ∧ s.hostPortOf a.2 = some port) :
    exec .completionTimeout s = .next ((s.atomicAnswer h false).portError port) := by
  obtain ⟨a, ha, hh, hport⟩ := hany
  show execCompletionTimeout s = _
  rw [execCompletionTimeout, hev]
  dsimp only
  rw [if_pos (List.any_eq_true.mpr ⟨a, ha, by simp [hh, hport]⟩)]

theorem exec_completionTimeout_of_none {s : State} {port h : Nat} (hev : s.ev = .completionTimeout port h)
    (hnone : ∀ a ∈ s.host.atomics, a.1 ≠ h ∨ s.hostPortOf a.2 ≠ some port) (htxn : s.coh.txn = []) :
    exec .completionTimeout s = .next (s.portError port) := by
  have hany : (s.host.atomics.any fun a => a.1 == h && s.hostPortOf a.2 == some port) = false := by
    refine List.any_eq_false.mpr fun a ha hboth => ?_
    rw [Bool.and_eq_true, beq_iff_eq, beq_iff_eq] at hboth
    exact (hnone a ha).elim (fun hne => hne hboth.1) (fun hne => hne hboth.2)
  show execCompletionTimeout s = _
  rw [execCompletionTimeout, hev]
  dsimp only
  rw [hany, if_neg Bool.false_ne_true, htxn]
  rfl

/-- A link without waiting AtomicOps and transactions goes down: it is listed, and its posted writes are gone (R480). -/
theorem exec_hostLinkDown_of_idle {s : State} {port : Nat} (hev : s.ev = .hostLinkDown port) (hatomics : s.host.atomics = [])
    (htxn : s.coh.txn = []) : ∃ u : State, exec .hostLinkDown s = .next (u.portError port) ∧ u.harts = s.harts ∧ u.mgmt = s.mgmt ∧
      u.host = { s.host with down := port :: s.host.down.filter (· != port), posted := s.host.posted.filter fun w => w.1 != port } := by
  show ∃ u : State, execHostLinkDown s = _ ∧ _
  rw [execHostLinkDown, hev, hatomics, htxn]
  dsimp only [List.filter, List.map, List.foldl]
  refine ⟨_, rfl, ?_⟩
  split <;> exact ⟨rfl, rfl, rfl⟩

/-! ### Doorbells -/

theorem exec_doorbell_of_ring {s : State} {bs : List Byte} (hev : s.ev = .doorbell 8 bs) (hlen : bs.length = 8) :
    exec .doorbell s = .next (s.ring (leNat bs)) := by
  show execDoorbell s = _
  rw [execDoorbell, hev]
  exact if_pos ⟨rfl, hlen⟩

theorem ringDropped_iff {s : State} {v : Nat} :
    (v / 256 ≠ 0 || s.fe.busy.contains (v % 256) || s.fe.state ≠ 2 || decide (320 ≤ s.fe.cmds.length)) = true ↔
    256 ≤ v ∨ v % 256 ∈ s.fe.busy ∨ s.fe.state ≠ 2 ∨ 320 ≤ s.fe.cmds.length := by
  have hhigh : v / 256 ≠ 0 ↔ 256 ≤ v := by omega
  simp only [Bool.or_eq_true, decide_eq_true_eq, List.contains_iff_mem, hhigh, or_assoc]

/-- A doorbell that is not discarded takes the command of its slot (R501, R505). -/
theorem ring_of_taken {s : State} {v : Nat} {e : Ev} (hv : v < 256) (hfree : v % 256 ∉ s.fe.busy) (hstate : s.fe.state = 2)
    (hroom : s.fe.cmds.length < 320) (hrow : cmdEv (parseCmd (tget (List.replicate 128 0) s.fe.cmdb (v % 256)) (v % 256) 0 none) = some e) :
    s.ring v = State.due { s with fe := { s.fe with
      busy := v % 256 :: s.fe.busy, cmds := s.fe.cmds ++ [parseCmd (tget (List.replicate 128 0) s.fe.cmdb (v % 256)) (v % 256) 0 none] } } [e] := by
  unfold State.ring
  dsimp only
  rw [if_neg (fun h => ?_), State.enqueue, hrow]
  rcases ringDropped_iff.mp h with h | h | h | h
  · omega
  · exact hfree h
  · exact h hstate
  · omega

/-- Settles O57: each event by the branch of its row that the premises name. -/
theorem hostEvents : Obligations.HostEvents := by
  unfold Obligations.HostEvents
  refine ⟨?_, ?_, ?_, ?_, ?_, ?_, ?_, ?_, ?_, ?_, ?_⟩
  · intro s u qid d off who n pasid image hev
    refine ⟨exec_hostPut_of_none hev, fun q hq hqid hd hoff hbad => ?_, fun q p hq hqid hd hoff hlen hpasid => ?_⟩
    · exact (exec_hostPut_of_queue hev hq hqid hd hoff).trans (if_pos hbad)
    · subst hpasid
      have hexec := (exec_hostPut_of_queue hev hq hqid hd (by omega)).trans (if_neg (by omega))
      refine ⟨fun hp => ?_, fun hp hoffer => ?_⟩
      · rw [hexec, hostPuts_of_foreign hp]
      · subst hp
        rw [hostPuts_of_taken hoffer] at hexec
        exact ⟨_, hexec, rfl, rfl, find_setResult ..⟩
  · intro s q d who p hev
    have hexec : exec .putResultRead s = .next (s.toHost [4, q, d, who,
        if q = 0 then 0 else ((s.host.result.find? fun r => r.1 == who && r.2.1 == p).map (·.2.2)).getD 3]) := by
      show execPutResultRead s = _
      rw [execPutResultRead, hev]
    refine ⟨_, hexec, rfl, rfl, _, rfl, fun hq => if_pos hq, fun hq hnone => (if_neg hq).trans ?_, fun r hq hr => (if_neg hq).trans ?_⟩
    · have hfind : (s.host.result.find? fun r => r.1 == who && r.2.1 == p) = none :=
        List.find?_eq_none.mpr fun r hr hboth => by
          rw [Bool.and_eq_true, beq_iff_eq, beq_iff_eq] at hboth
          exact (hnone r hr).elim (fun hne => hne hboth.1) (fun hne => hne hboth.2)
      rw [hfind]
      rfl
    · rw [hr]
      rfl
  · intro s off len hev u
    have hexec := exec_hostBar4Read_of_ev hev
    refine ⟨fun hok => ?_, fun hok hpoison => ?_, fun hok hpoison => ?_⟩
    · rw [hexec, hok]
      rfl
    · rw [hexec, hok]
      exact if_pos hpoison
    · rw [hexec, hok]
      exact if_neg (Bool.eq_false_iff.mp hpoison)
  · exact fun s off bs hev => exec_hostBar4Write_of_ev hev
  · intro s bar off op w x y hev
    exact ⟨exec_hostAtomicop_of_refused hev, fun hbar halign hkind hok hregion => exec_hostAtomicop_of_served hev hbar halign hkind hok hregion⟩
  · intro s l htxn
    refine ⟨fun houter => ?_, fun houter => ⟨fun hev => ?_, fun hev => ?_, fun hev => ?_⟩⟩
    · simp only [List.forall_mem_cons]
      refine ⟨fun hev => ?_, fun hev => ?_, fun hev => ?_, fun _ h => absurd h List.not_mem_nil⟩
      · exact (exec_snpinv_of_none hev htxn).trans (congrArg Host.Outcome.next (if_pos houter))
      · exact (exec_snpdata_of_none hev htxn).trans (congrArg Host.Outcome.next (if_pos houter))
      · exact (exec_snpcur_of_none hev htxn).trans (congrArg Host.Outcome.next (if_pos houter))
    · exact (exec_snpinv_of_none hev htxn).trans (congrArg Host.Outcome.next (if_neg houter))
    · exact (exec_snpdata_of_none hev htxn).trans (congrArg Host.Outcome.next (if_neg houter))
    · exact (exec_snpcur_of_none hev htxn).trans (congrArg Host.Outcome.next (if_neg houter))
  · exact fun s l n h own t hev hb ht hphase hreq hst hnone hin => answers_host_gets hev hb ht hphase hreq hst hnone hin
  · intro s h loc op n x y rd va ok hev hw
    have hexec := exec_atomicopCompletion_of_ev hev
    refine ⟨fun hok hn => ?_, fun hok hpriv => ?_⟩
    · intro u r
      rw [hok, atomicAnswer_of_ok hw hn] at hexec
      refine ⟨hexec, fun hc hp => ?_⟩
      have hat : r = _ := atomicAt_uncached (s := u) hc hp noNode op n x y
      rw [hat]
      exact ⟨rfl, rfl⟩
    · rw [hok] at hexec
      exact ⟨_, hexec, by rw [atomicAnswer_of_failed hw hpriv]; rfl, takesTrap_atomicAnswer hw hpriv⟩
  · intro s port h loc op n x y rd va hev
    refine ⟨fun hw hany hpriv => ?_, fun hnone htxn => ?_⟩
    · obtain ⟨hharts, _, hlog⟩ := portError_keeps (s.atomicAnswer h false) port
      refine ⟨_, exec_completionTimeout_of_atomic hev hany, ?_, ?_⟩
      · rw [hlog, atomicAnswer_of_failed hw hpriv]
        rfl
      · have hhart : ((s.atomicAnswer h false).portError port).hart h = (s.atomicAnswer h false).hart h := congrArg (tget Hart.init · h) hharts
        rw [hhart]
        exact takesTrap_atomicAnswer hw hpriv
    · obtain ⟨hharts, _, hlog⟩ := portError_keeps s port
      exact ⟨_, exec_completionTimeout_of_none hev hnone htxn, hlog, hharts⟩
  · intro s port hev hatomics htxn
    obtain ⟨u, hexec, hharts, hmgmt, hhost⟩ := exec_hostLinkDown_of_idle hev hatomics htxn
    obtain ⟨hharts', hhost', hlog⟩ := portError_keeps u port
    refine ⟨_, hexec, ?_, fun w hw => ?_, by rw [hlog, hmgmt], hharts'.trans hharts⟩
    · rw [hhost', hhost]
      exact List.mem_cons_self
    · rw [hhost', hhost] at hw
      simpa using (List.mem_filter.mp hw).2
  · intro s bs hev hlen slot c
    have hexec := exec_doorbell_of_ring hev hlen
    refine ⟨fun hdrop => ?_, fun e hv hfree hstate hroom hrow => ?_⟩
    · rw [State.ring] at hexec
      dsimp only at hexec
      rw [if_pos (ringDropped_iff.mpr hdrop)] at hexec
      exact ⟨_, hexec, rfl, rfl, rfl⟩
    · rw [ring_of_taken hv hfree hstate hroom hrow] at hexec
      exact ⟨_, hexec, rfl, rfl, List.mem_cons_self, rfl⟩

end Sys2Proof.Machine
end

section
/-! PROOF. The events of the guest socket (O58). -/

namespace Sys2Proof.Machine

open Sys2Proof.Claims

/-! ### Who is heard -/

theorem ifBound_of_bound {s : State} (h : s.gbnd = true) (k : State) : s.ifBound k = k := if_pos h

theorem ifBound_of_unbound {s : State} (h : s.gbnd = false) (k : State) : s.ifBound k = s := if_neg (Bool.eq_false_iff.mp h)

theorem afterWrites_of_unbound {s : State} (h : s.gbnd = false) (k : State) : s.afterWrites k = s := by
  rw [State.afterWrites, h, Bool.false_and, if_neg Bool.false_ne_true, ifBound_of_unbound h]

theorem afterWrites_of_writes {s : State} {e : Ev} (h : s.gbnd = true) (hw : s.guestWrites = true) (hev : s.ev = e) (k : State) :
    s.afterWrites k = s.due [e] := by
  rw [State.afterWrites, h, hw, Bool.and_self, if_pos rfl, hev]

theorem afterWrites_of_quiet {s : State} (h : s.gbnd = true) (hw : s.guestWrites = false) (k : State) : s.afterWrites k = k := by
  rw [State.afterWrites, hw, Bool.and_false, if_neg Bool.false_ne_true, ifBound_of_bound h]

theorem isolate_of_unbound {s : State} (h : s.gbnd = false) (duty : Nat) : s.isolate duty = s := if_neg (Bool.eq_false_iff.mp h)

/-- An unbound bridge accepts no message (R483). -/
theorem exec_of_unbound {s : State} (h : s.gbnd = false) (iid st det res pasid tag va c kind l pa op w x y : Nat) (cells : List Host.Cell)
    (d : List Byte) : ∀ p ∈ [(Instr.guestDone, Ev.guestDone iid st det), (.guestSaved, .guestSaved iid res),
      (.guestXreq, .guestXreq pasid tag va st), (.guestInvack, .guestInvack pasid tag), (.guestPstopack, .guestPstopack pasid tag),
      (.guestFire, .guestFire pasid tag c), (.guestCohRequest, .guestCohRequest kind pasid pa op w x y cells),
      (.guestHomeAnswer, .guestHomeAnswer l kind d)], s.ev = p.2 → exec p.1 s = .next s := by
  simp only [List.forall_mem_cons]
  refine ⟨?_, ?_, ?_, ?_, ?_, ?_, ?_, ?_, fun _ h => absurd h List.not_mem_nil⟩ <;> intro hev
  · show execGuestDone s = _
    rw [execGuestDone, hev]
    exact congrArg Host.Outcome.next (afterWrites_of_unbound h _)
  · show execGuestSaved s = _
    rw [execGuestSaved, hev]
    exact congrArg Host.Outcome.next (afterWrites_of_unbound h _)
  · show execGuestXreq s = _
    rw [execGuestXreq, hev]
    exact congrArg Host.Outcome.next (ifBound_of_unbound h _)
  · show execGuestInvack s = _
    rw [execGuestInvack, hev]
    exact congrArg Host.Outcome.next (ifBound_of_unbound h _)
  · show execGuestPstopack s = _
    rw [execGuestPstopack, hev]
    exact congrArg Host.Outcome.next (ifBound_of_unbound h _)
  · show execGuestFire s = _
    rw [execGuestFire, hev]
    exact congrArg Host.Outcome.next (afterWrites_of_unbound h _)
  · show execGuestCohRequest s = _
    rw [execGuestCohRequest, hev]
    exact congrArg Host.Outcome.next (ifBound_of_unbound h _)
  · show execGuestHomeAnswer s = _
    rw [execGuestHomeAnswer, hev]
    exact congrArg Host.Outcome.next (ifBound_of_unbound h _)

/-- Messages that wait for the guest's earlier writes stay due (R492). -/
theorem exec_of_writes {s : State} (h : s.gbnd = true) (hw : s.guestWrites = true) (iid st res pasid tag c : Nat) :
    ∀ p ∈ [(Instr.guestDone, Ev.guestDone iid st res), (.guestSaved, .guestSaved iid res), (.guestFire, .guestFire pasid tag c)],
      s.ev = p.2 → exec p.1 s = .next (s.due [p.2]) := by
  simp only [List.forall_mem_cons]
  refine ⟨?_, ?_, ?_, fun _ h => absurd h List.not_mem_nil⟩ <;> intro hev
  · show execGuestDone s = _
    rw [execGuestDone, hev]
    exact congrArg Host.Outcome.next (afterWrites_of_writes h hw hev _)
  · show execGuestSaved s = _
    rw [execGuestSaved, hev]
    exact congrArg Host.Outcome.next (afterWrites_of_writes h hw hev _)
  · show execGuestFire s = _
    rw [execGuestFire, hev]
    exact congrArg Host.Outcome.next (afterWrites_of_writes h hw hev _)

/-! ### Ends of instances -/

theorem exec_guestDone_of_quiet {s : State} {iid st det : Nat} (hev : s.ev = .guestDone iid st det) (h : s.gbnd = true)
    (hw : s.guestWrites = false) : exec .guestDone s = .next (
      if s.guest.discard.contains iid then { s with guest := { s.guest with discard := s.guest.discard.erase iid } }
      else if !s.guest.runs.contains iid then s.isolate 6
      else if 2 < st then s.isolate 7
      else s.guestEnds iid st det) := by
  show execGuestDone s = _
  rw [execGuestDone, hev]
  dsimp only
  rw [afterWrites_of_quiet h hw]

theorem guestEnds_of_ok {s : State} {iid : Nat} {t : Inst} (ht : s.tqe.insts.lookup iid = some t) (hnot : iid ∉ s.guest.preempts) (det : Nat) :
    s.guestEnds iid 0 det = (s.answered iid).endInst iid true 7 := by
  have hfresh : s.guest.preempts.contains iid = false := by simpa using hnot
  rw [State.guestEnds, ht]
  dsimp only
  rw [hfresh]
  rfl

theorem mem_insertBefore {α : Type} (before : α → Bool) (e : α) (l : List α) : e ∈ insertBefore before e l := by
  induction l with
  | nil => exact List.mem_singleton_self e
  | cons x r ih =>
    rw [insertBefore]
    split
    · exact List.mem_cons_self
    · exact List.mem_cons_of_mem _ ih

/-- An entry that is added stands in its part; nothing but the parts and the agenda changes. -/
theorem mem_ents_addEntry {s : State} {n : Nat} {q : Queue} (hq : s.queue n = some q) (d : Nat) (e : Entry) (ahead : Bool) :
    let u := s.addEntry n d e ahead
    e ∈ (u.qpart n d).ents ∧ u.mem = s.mem ∧ u.tqe.insts = s.tqe.insts ∧ u.guest = s.guest := by
  intro u
  unfold u State.addEntry
  rw [hq]
  dsimp only
  refine ⟨?_, kick_mem .., by rw [tqe_kick]; rfl, by unfold State.kick; split <;> rfl⟩
  rw [qpart_of_tqe (tqe_kick ..), qpart_modPart_self]
  exact mem_insertBefore ..

/-- What a saved guest instance is (R488). -/
def Inst.keptBy (t : Inst) (res : Nat) : Inst := { t with saved := true, gresume := res }

theorem modInst_of_lookup {s : State} {i : Nat} {t : Inst} (ht : s.tqe.insts.lookup i = some t) (f : Inst → Inst) :
    s.modInst i f = { s with tqe := { s.tqe with insts := tset i (f t) s.tqe.insts } } := by
  rw [State.modInst, ht]

theorem exec_guestSaved_of_kept {s : State} {iid res : Nat} {t : Inst} {p : Pkt} {q : Queue} (hev : s.ev = .guestSaved iid res) (h : s.gbnd = true)
    (hw : s.guestWrites = false) (ht : s.tqe.insts.lookup iid = some t) (hrun : iid ∈ s.guest.runs) (hasked : t.asked = true)
    (hnot : iid ∉ s.guest.preempts) (hres : res ≠ 0) (hp : s.tqe.pkts.lookup t.pk = some p) (hq : s.queue p.q = some q) (hopen : q.state < 2) :
    exec .guestSaved s = .next (((s.answered iid).modInst iid fun t => t.keptBy res).addEntry p.q t.home
      ⟨t.pk, p.seq, t.pk, 3, t.slice, t.entry, t.arg, iid, none⟩ false) := by
  have hrun' : s.guest.runs.contains iid = true := by simpa using hrun
  have hnot' : s.guest.preempts.contains iid = false := by simpa using hnot
  have hmod := modInst_of_lookup (s := s.answered iid) ht fun t => t.keptBy res
  show execGuestSaved s = _
  rw [execGuestSaved, hev]
  dsimp only
  rw [afterWrites_of_quiet h hw, ht]
  dsimp only
  rw [hrun', hasked, hnot', decide_eq_false hres, Bool.not_true, if_neg Bool.false_ne_true, if_neg (by decide)]
  have hpkts : (((s.answered iid).modInst iid fun t => { t with saved := true, gresume := res }).tqe.pkts.lookup t.pk) = some p :=
    (congrArg (fun u : State => u.tqe.pkts.lookup t.pk) hmod).trans hp
  have hqueue : ((s.answered iid).modInst iid fun t => { t with saved := true, gresume := res }).queue p.q = some q :=
    (congrArg (fun u : State => u.queue p.q) hmod).trans hq
  rw [hpkts]
  dsimp only
  rw [hqueue]
  dsimp only
  rw [if_neg (Nat.not_le.mpr hopen)]
  rfl

/-! ### Translations and stops -/

theorem guestRefused_keeps (s : State) (pasid header : Nat) : (s.guestRefused pasid header).guest = s.guest ∧
    (s.guestRefused pasid header).mgmt.logn = s.mgmt.logn + 1 ∧ (s.guestRefused pasid header).agenda = s.agenda ∧
    (s.guestRefused pasid header).harts = s.harts :=
  ⟨errorRecord_keep State.guest (fun _ _ => rfl) (fun _ _ => rfl) (fun _ _ => rfl) .., (errorRecord_keeps ..).2.2, (errorRecord_keeps ..).1,
    State.errorRecord_harts ..⟩

theorem exec_guestXreq_of_bound {s : State} {pasid tag va r : Nat} (hev : s.ev = .guestXreq pasid tag va r) (h : s.gbnd = true) :
    exec .guestXreq s = .next (if s.guest.grants.contains pasid then s.answerXreq pasid tag va r
      else (s.xrsp pasid tag 0 6 0 0).guestRefused pasid (headerWord 5 pasid tag)) := by
  show execGuestXreq s = _
  rw [execGuestXreq, hev]
  dsimp only
  rw [ifBound_of_bound h]

theorem exec_guestInvack_of_pending {s : State} {pasid tag : Nat} {i : Inval} (hev : s.ev = .guestInvack pasid tag) (h : s.gbnd = true)
    (hi : (s.xlat.invals.find? fun i => i.tag == tag && i.pasid.getD 0 == pasid) = some i) : exec .guestInvack s =
      .next (State.finishInval { s with xlat := { s.xlat with invals := s.xlat.invals.filter (· != i) } } i) := by
  show execGuestInvack s = _
  rw [execGuestInvack, hev]
  dsimp only
  rw [ifBound_of_bound h, hi]

theorem finishInval_of_noCmd {s : State} {i : Inval} (hi : i.cmd = none) : (s.finishInval i).xlat =
    (s.tlbDrop fun t => t.unit == unitGuest && invHits i.pasid i.asid i.va i.len t).xlat := by
  unfold State.finishInval
  rw [hi]
  dsimp only
  split <;> rfl

theorem exec_guestPstopack_of_bound {s : State} {pasid tag : Nat} (hev : s.ev = .guestPstopack pasid tag) (h : s.gbnd = true) :
    exec .guestPstopack s = .next (
      if !s.guest.pstops.contains (pasid, tag) then s.isolate 7
      else if s.guestRunsOf pasid then s.isolate 2
      else State.tlbDrop { s with guest := { s.guest with
            pstops := s.guest.pstops.filter (· != (pasid, tag))
            grants := if s.fe.cmds.any fun c => c.op == 0x11 && c.arg 0 == pasid && c.arg 1 == 0 then s.guest.grants.filter (· != pasid)
              else s.guest.grants } } fun t => t.unit == unitGuest && t.tag == Tag.pasid pasid) := by
  show execGuestPstopack s = _
  rw [execGuestPstopack, hev]
  dsimp only
  rw [ifBound_of_bound h]

/-! ### Completions and the coherent port -/

theorem exec_guestFire_of_quiet {s : State} {pasid tag c : Nat} (hev : s.ev = .guestFire pasid tag c) (h : s.gbnd = true)
    (hw : s.guestWrites = false) : exec .guestFire s = .next (
      if !s.guest.grants.contains pasid then (s.toGuest [0xC, pasid, tag, 1]).guestRefused pasid (headerWord 0xB pasid tag)
      else if cspecBad c then s.toGuest [0xC, pasid, tag, 1]
      else (s.fireOnce (pasidCx unitGuest pasid 4) c).1.toGuest [0xC, pasid, tag, if (s.fireOnce (pasidCx unitGuest pasid 4) c).2 then 0 else 1]) := by
  show execGuestFire s = _
  rw [execGuestFire, hev]
  dsimp only
  rw [afterWrites_of_quiet h hw]

theorem exec_guestCohRequest_of_kind {s : State} {kind pasid pa op w x y : Nat} {cells : List Host.Cell}
    (hev : s.ev = .guestCohRequest kind pasid pa op w x y cells) (h : s.gbnd = true) (hkind : 8 < kind) :
    exec .guestCohRequest s = .next (s.isolate 7) := by
  show execGuestCohRequest s = _
  rw [execGuestCohRequest, hev]
  dsimp only
  rw [ifBound_of_bound h, if_pos (.inl hkind)]

/-- A request of a known kind whose cells lie in its line is well formed. -/
theorem cohRequest_formed {kind l : Nat} {cells : List Host.Cell} (hkind : kind ≤ 8) (hcells : ∀ c ∈ cells, lineOf c.1 = l) :
    ¬ (8 < kind ∨ (!cells.all fun c => lineOf c.1 == l) = true) := by
  have hall : (cells.all fun c => lineOf c.1 == l) = true := List.all_eq_true.mpr fun c hc => beq_iff_eq.mpr (hcells c hc)
  rw [hall]
  rintro (hbig | hbad)
  · omega
  · cases hbad

theorem exec_guestCohRequest_of_ungranted {s : State} {kind pasid pa op w x y : Nat} {cells : List Host.Cell}
    (hev : s.ev = .guestCohRequest kind pasid pa op w x y cells) (h : s.gbnd = true) (hkind : kind ≤ 8)
    (hcells : ∀ c ∈ cells, lineOf c.1 = lineOf pa) (hp : pasid ∉ s.guest.grants) :
    exec .guestCohRequest s = .next (s.free.1.guestRefused pasid s.free.2.toNat) := by
  have hnone : s.guest.grants.contains pasid = false := by simpa using hp
  show execGuestCohRequest s = _
  rw [execGuestCohRequest, hev]
  dsimp only
  rw [ifBound_of_bound h, if_neg (cohRequest_formed hkind hcells), hnone, Bool.false_and, if_pos (by rfl)]

theorem exec_guestCohRequest_of_gets {s : State} {pasid pa op w x y : Nat} {cells : List Host.Cell}
    (hev : s.ev = .guestCohRequest 0 pasid pa op w x y cells) (h : s.gbnd = true) (hcells : ∀ c ∈ cells, lineOf c.1 = lineOf pa)
    (hp : pasid ∈ s.guest.grants) (hcovers : s.hubCovers pasid pa (true, false) = true) (hcached : s.cached pa = true)
    (hns : s.ns guestPort (lineOf pa) = .i) : exec .guestCohRequest s =
      .next (State.settle settleFuel (lineOf pa) ((s.setNs guestPort (lineOf pa) .is).due [.gets guestPort (lineOf pa)])) := by
  have hgrant : s.guest.grants.contains pasid = true := by simpa using hp
  have hok : s.hubCovers pasid pa (cohRights 0) = true := hcovers
  show execGuestCohRequest s = _
  rw [execGuestCohRequest, hev]
  dsimp only
  rw [ifBound_of_bound h, if_neg (cohRequest_formed (by omega) hcells), hgrant, hok, hcached, if_neg (by decide), if_neg (by decide),
    if_neg (by decide), if_neg (by decide), if_neg (by decide), if_neg (by decide)]
  unfold State.guestAsks
  rw [hns]
  rfl

/-- The grant of the guest: only its state of the line differs, and it is at least what is granted (R494). -/
theorem outerRaised_guest {s : State} {l g : Nat} (hb : s.backing (l * 128) = .guest g) (x : Nat) :
    ∃ gs, (if s.outer l < x then s.setOuter l x else s) = { s with guest := { s.guest with gs := gs } } ∧
      x ≤ State.outer { s with guest := { s.guest with gs := gs } } l := by
  by_cases hlt : s.outer l < x
  · refine ⟨tset l x s.guest.gs, ?_, ?_⟩
    · rw [if_pos hlt, State.setOuter, hb]
    · have hb' : State.backing { s with guest := { s.guest with gs := tset l x s.guest.gs } } (l * 128) = .guest g := hb
      rw [State.outer, hb']
      exact Nat.le_of_eq (tget_tset_self ..).symm
  · exact ⟨s.guest.gs, if_neg hlt, Nat.le_of_not_lt hlt⟩

theorem exec_guestHomeAnswer_of_guest {s : State} {l k g : Nat} (hev : s.ev = .guestHomeAnswer l k []) (h : s.gbnd = true) (hk : k = 1 ∨ k = 2)
    (hb : s.backing (l * 128) = .guest g) : exec .guestHomeAnswer s = .next (s.outerGrant l k) := by
  show execGuestHomeAnswer s = _
  rw [execGuestHomeAnswer, hev]
  dsimp only
  rw [ifBound_of_bound h, hb]
  exact congrArg Host.Outcome.next (if_pos hk)

/-! ### Attestation -/

theorem attestFail_keeps (s : State) (code : Nat) : (s.attestFail code).guest.state = 0 ∧ (s.attestFail code).mgmt.logn = s.mgmt.logn + 1 := by
  refine ⟨?_, (errorRecord_keeps ..).2.2⟩
  exact congrArg GuestSt.state
    (errorRecord_keep State.guest (fun _ _ => rfl) (fun _ _ => rfl) (fun _ _ => rfl) { s with guest := { s.guest with state := 0 } } _)

theorem exec_attestStart_of_ev {s : State} (hev : s.ev = .attestStart) : exec .attestStart s = .next (if s.gsk && s.guest.state == 0 then
    State.toGuest { s.nextTag.1 with guest := { s.nextTag.1.guest with state := 1 } } [0x10, 0, s.nextTag.2] else s) := by
  show execAttestStart s = _
  rw [execAttestStart, hev]
  exact (apply_ite Host.Outcome.next _ _ _).symm

theorem exec_guestSpdm_of_waiting {s : State} {v : Nat} (hev : s.ev = .guestSpdm v) (hstate : s.guest.state = 1) : exec .guestSpdm s =
    .next (if v = 0 && s.guest.pol then { s with guest := { s.guest with
      state := 2, gsize := field s.guest.policy 0 8, grants := policyPasids s.guest.policy } } else s.attestFail v) := by
  show execGuestSpdm s = _
  rw [execGuestSpdm, hev]
  dsimp only
  rw [if_neg (not_not_intro hstate)]
  exact (apply_ite Host.Outcome.next _ _ _).symm

theorem exec_attestTimeout_of_waiting {s : State} (hev : s.ev = .attestTimeout) (hstate : s.guest.state = 1) : exec .attestTimeout s =
    .next (s.free.1.attestFail s.free.2.toNat) := by
  show execAttestTimeout s = _
  rw [execAttestTimeout, hev]
  exact if_pos hstate

/-! ### The obligation -/


/-- Settles O58: a message of a bound guest by its branch; one of an unbound guest falls through. -/
theorem guestEvents : Obligations.GuestEvents := by
  unfold Obligations.GuestEvents
  refine ⟨fun s iid st det res pasid tag va c kind l pa op w x y cells d h =>
    exec_of_unbound h iid st det res pasid tag va c kind l pa op w x y cells d, fun s h => ?_, fun s => ?_⟩
  · refine ⟨fun hw iid st res pasid tag c => exec_of_writes h hw iid st res pasid tag c, ?_, ?_, ?_, ?_, ?_, ?_, ?_, ?_, ?_, ?_⟩
    · intro iid st det hev hw
      have hexec := exec_guestDone_of_quiet hev h hw
      simp only [List.contains_iff_mem, Bool.not_eq_true', ← Bool.not_eq_true] at hexec
      refine ⟨fun hd => ?_, fun hd hr => ?_, fun hd hr hst => ?_, fun t hd hr hst hnot ht => ?_⟩
      · rw [if_pos hd] at hexec
        exact ⟨_, hexec, rfl, rfl, rfl⟩
      · rw [hexec, if_neg hd, if_pos hr]
      · rw [hexec, if_neg hd, if_neg (not_not_intro hr), if_pos hst]
      · rw [hexec, if_neg hd, if_neg (not_not_intro hr), if_neg (by omega), hst, guestEnds_of_ok ht hnot]
    · intro iid res t p q hev hw ht hrun hasked hnot hres hp hq hopen
      have hmod := modInst_of_lookup (s := s.answered iid) ht fun t => t.keptBy res
      have hqueue : ((s.answered iid).modInst iid fun t => t.keptBy res).queue p.q = some q :=
        (congrArg (fun u : State => u.queue p.q) hmod).trans hq
      obtain ⟨hent, hmem, hinsts, hguest⟩ := mem_ents_addEntry hqueue t.home ⟨t.pk, p.seq, t.pk, 3, t.slice, t.entry, t.arg, iid, none⟩ false
      refine ⟨_, exec_guestSaved_of_kept hev h hw ht hrun hasked hnot hres hp hq hopen, ?_, ?_, ?_, _, hent, rfl, rfl, rfl⟩
      · rw [hmem, hmod]
        rfl
      · rw [hinsts, hmod]
        exact lookup_tset_self ..
      · rw [hguest, hmod]
        exact fun hin => by simpa using (List.mem_filter.mp hin).2
    · intro pasid tag va r hev
      have hexec := exec_guestXreq_of_bound hev h
      simp only [List.contains_iff_mem] at hexec
      refine ⟨fun hp => by rw [hexec, if_pos hp], fun hp => ?_⟩
      rw [if_neg hp] at hexec
      obtain ⟨hguest, hlog, _⟩ := guestRefused_keeps (s.xrsp pasid tag 0 6 0 0) pasid (headerWord 5 pasid tag)
      exact ⟨_, hexec, congrArg GuestSt.sent hguest, hlog⟩
    · intro pasid tag i hev hi hcmd
      have hxlat := finishInval_of_noCmd (s := { s with xlat := { s.xlat with invals := s.xlat.invals.filter (· != i) } }) hcmd
      refine ⟨_, exec_guestInvack_of_pending hev h hi, fun hin => ?_, fun e he hunit => ?_⟩
      · rw [hxlat] at hin
        simpa using (List.mem_filter.mp hin).2
      · rw [hxlat] at he
        simpa [hunit] using (List.mem_filter.mp he).2
    · intro pasid tag hev
      have hexec := exec_guestPstopack_of_bound hev h
      simp only [List.contains_iff_mem, Bool.not_eq_true', ← Bool.not_eq_true] at hexec
      refine ⟨fun hp => by rw [hexec, if_pos hp], fun hp hrun => by rw [hexec, if_neg (not_not_intro hp), if_pos hrun], fun hp hrun => ?_⟩
      rw [if_neg (not_not_intro hp), if_neg (Bool.eq_false_iff.mp hrun)] at hexec
      refine ⟨_, hexec, rfl, fun hin => ?_, fun e he hboth => ?_⟩
      · simpa using (List.mem_filter.mp hin).2
      · have hkept := (List.mem_filter.mp he).2
        simp [hboth.1, hboth.2] at hkept
    · intro pasid tag c hev hw
      have hexec := exec_guestFire_of_quiet hev h hw
      simp only [List.contains_iff_mem, Bool.not_eq_true', ← Bool.not_eq_true] at hexec
      refine ⟨fun hbad => ?_, fun hp hkind hgood => ?_⟩
      · by_cases hp : pasid ∈ s.guest.grants
        · rw [if_neg (not_not_intro hp), if_pos (hbad.resolve_left (not_not_intro hp))] at hexec
          exact ⟨_, hexec, rfl⟩
        · rw [if_pos hp] at hexec
          exact ⟨_, hexec, congrArg GuestSt.sent (guestRefused_keeps ..).1⟩
      · rw [hexec, if_neg (not_not_intro hp), if_neg (Bool.eq_false_iff.mp hgood), fireOnce_of_kind_zero hkind]
        rfl
    · intro kind pasid pa op w x y cells hev l
      refine ⟨exec_guestCohRequest_of_kind hev h, fun hkind hcells hp => ?_, fun hkind hcells hp hcovers hcached hns => ?_⟩
      · obtain ⟨_, hlog, hagenda, hharts⟩ := guestRefused_keeps s.free.1 pasid s.free.2.toNat
        exact ⟨_, exec_guestCohRequest_of_ungranted hev h hkind hcells hp, hlog, hagenda, hharts⟩
      · subst hkind
        exact exec_guestCohRequest_of_gets hev h hcells hp hcovers hcached hns
    · intro l k n g t hev hk hb ht hphase hreq hst hnone hin
      obtain ⟨gs, hraised, hle⟩ := outerRaised_guest hb k
      exact answers_of_outerGrant (exec_guestHomeAnswer_of_guest hev h hk hb) hraised rfl rfl rfl hin (by omega) ht (.inr hphase) hreq hst hnone
    · intro duty hev
      show execGuestDutyTimeout s = _
      rw [execGuestDutyTimeout, hev]
    · intro k hev hk
      show execProtocolError s = _
      rw [execProtocolError, hev]
      exact if_neg hk
  · refine ⟨fun h duty => isolate_of_unbound h duty, fun hev hgsk hstate => ?_, fun hev hstate => ?_, fun v hev hstate => ?_, fun hev hstate => ?_⟩
    · have hexec := exec_attestStart_of_ev hev
      rw [hgsk, hstate, if_pos (by rfl)] at hexec
      exact ⟨_, hexec, rfl, rfl⟩
    · rw [exec_attestStart_of_ev hev, if_neg (by simp [hstate])]
    · have hexec := exec_guestSpdm_of_waiting hev hstate
      refine ⟨fun hv hpol => ?_, fun hv => ?_⟩
      · rw [if_pos (by simp [hv, hpol])] at hexec
        exact ⟨_, hexec, rfl, rfl, rfl, rfl⟩
      · rw [if_neg (by simp [hv])] at hexec
        exact ⟨_, hexec, attestFail_keeps ..⟩
    · exact ⟨_, exec_attestTimeout_of_waiting hev hstate, attestFail_keeps s.free.1 _⟩

end Sys2Proof.Machine
end

section
/-! PROOF. Whole blocks (R134 to R168): decode, the return of a load, commit, the record of a fault and its delivery. -/

namespace Sys2Proof.Machine

open Sys2Proof.Claims

/-! ### Decoded instructions are well-formed -/

theorem wf_of_ifLegal {i j : Instr} (h : i.ifLegal = some j) : j.wf = true := by
  rw [Instr.ifLegal] at h
  split at h
  next hwf => exact Option.some.inj h ▸ hwf
  next => exact nomatch h

theorem wf_of_decodeA {w : BitVec 32} {i : Instr} (h : decodeA w = some i) : i.wf = true := by
  unfold decodeA at h
  dsimp only at h
  split at h
  next => exact wf_of_ifLegal h
  next =>
    split at h
    next => exact wf_of_ifLegal h
    next => exact nomatch h

theorem wf_of_decodeMPaired {w : BitVec 32} {i : Instr} (h : decodeMPaired w = some i) : i.wf = true := by
  unfold decodeMPaired at h
  dsimp only at h
  split at h
  next => exact wf_of_ifLegal h
  next =>
    split at h
    next => exact wf_of_ifLegal h
    next =>
      split at h
      next => exact wf_of_ifLegal h
      next => exact nomatch h

theorem wf_of_decodeMLone {w lit : BitVec 32} {i : Instr} (h : decodeMLone w lit = some i) : i.wf = true := by
  unfold decodeMLone at h
  dsimp only at h
  split at h
  next => exact wf_of_ifLegal h
  next =>
    split at h
    next => exact wf_of_ifLegal h
    next =>
      split at h
      next => exact wf_of_ifLegal h
      next => exact nomatch h

theorem wf_of_decodeM {w lit : BitVec 32} {i : Instr} (h : decodeM w lit = some i) : i.wf = true := by
  rw [decodeM] at h
  split at h
  next => exact wf_of_decodeMLone h
  next => exact wf_of_decodeMPaired h

theorem wf_of_mem_pairSlots {k m a : Nat} {b : BSlot} {i : Instr} (hb : b ∈ pairSlots k m a) (hi : b.instr = some i) : i.wf = true := by
  rw [pairSlots, List.mem_append] at hb
  rcases hb with hb | hb
  · split at hb
    next => exact absurd hb List.not_mem_nil
    next =>
      obtain rfl := List.mem_singleton.mp hb
      exact wf_of_decodeM hi
  · split at hb
    next => exact absurd hb List.not_mem_nil
    next =>
      obtain rfl := List.mem_singleton.mp hb
      exact wf_of_decodeA hi

/-- Every instruction of a block that passed the checks is well-formed (R143). -/
theorem wf_of_checkBlock {vpcap sew hdr : Nat} {pairs : List Nat} {c : Code} (h : checkBlock vpcap sew hdr pairs = .inl c) :
    ∀ x ∈ c.instrs, x.2.wf = true := by
  rw [checkBlock] at h
  split at h
  next => exact nomatch h
  next =>
    split at h
    next => exact nomatch h
    next =>
      obtain rfl := Sum.inl.inj h
      intro x hx
      obtain ⟨b, hb, hbx⟩ := List.mem_filterMap.mp hx
      obtain ⟨i, hi, rfl⟩ := Option.map_eq_some_iff.mp hbx
      obtain ⟨l, hl, hbl⟩ := List.mem_flatten.mp hb
      obtain ⟨k, _, rfl⟩ := List.mem_map.mp hl
      exact wf_of_mem_pairSlots hbl hi

/-! ### Fetch and decode -/

theorem faults_of_undecoded {s : State} {h i : Nat} {b : Biq} (hu : s.undecoded h = some (i, b)) : b.faults = [] := by
  obtain ⟨j, _, hj⟩ := List.exists_of_findSome?_eq_some hu
  obtain ⟨c, _, hc⟩ := Option.bind_eq_some_iff.mp hj
  split at hc
  next hok =>
    obtain ⟨rfl, rfl⟩ := Prod.mk.inj (Option.some.inj hc)
    simp only [Bool.and_eq_true] at hok
    exact List.isEmpty_iff.mp hok.1.1.1.2
  next => exact nomatch hc

/-- Settling what captured operands wait for changes only that (R104). -/
theorem getElem?_settlePend {q : List Biq} {i : Nat} {b : Biq} (h : q[i]? = some b) : ∃ p, (settlePend q)[i]? = some { b with pend := p } :=
  ⟨_, by rw [settlePend, List.getElem?_mapIdx, h]; rfl⟩

theorem settlePend_va (q : List Biq) : (settlePend q).map (·.va) = q.map (·.va) := by
  refine List.ext_getElem? fun i => ?_
  rw [settlePend, List.getElem?_map, List.getElem?_mapIdx, List.getElem?_map, Option.map_map]
  rfl

theorem exec_blockFetchDecode {s : State} {h i : Nat} {b : Biq} (hev : s.ev = .blockFetchDecode h) (hu : s.undecoded h = some (i, b))
    (hback : s.heldBack h strB b.seq = false) :
    (∀ u f, s.decodeEntry h b = (u, .inr f) →
      exec .blockFetchDecode s = .next (u.setEntry h i { b.again with code := none, early := false, faults := [f] })) ∧
    ∀ u c, s.decodeEntry h b = (u, .inl c) → exec .blockFetchDecode s =
      .next ((u.setEntry h i (if b.code = some c then { b with early := false } else { b.again with code := some c, early := false })).modHart h
        fun x => { x with biq := settlePend x.biq }) := by
  have hexec : exec .blockFetchDecode s = execBlockFetchDecode s := rfl
  rw [execBlockFetchDecode, hev] at hexec
  dsimp only at hexec
  rw [hu] at hexec
  dsimp only at hexec
  rw [hback] at hexec
  refine ⟨fun u f hd => ?_, fun u c hd => ?_⟩
  · rw [hexec, hd]
    rfl
  · rw [hexec, hd]

theorem decodeEntry_of_fault {s u : State} {h : Nat} {b : Biq} {f : BFault} (hi : s.blockImage h b = (u, .inr f)) :
    s.decodeEntry h b = (u, .inr f) := by
  rw [State.decodeEntry, hi]

theorem decodeEntry_of_bad {s u : State} {h : Nat} {b : Biq} {img : List Byte} {id : Nat} (hi : s.blockImage h b = (u, .inl img))
    (hc : checkBlock u.vpcap.toNat (sewBits b.vcfg) ((doublewords (img.length / 8) img).headD 0) ((doublewords (img.length / 8) img).drop 1) =
      .inr id) : s.decodeEntry h b = (u, .inr (formatFault b.va id)) := by
  rw [State.decodeEntry, hi]
  dsimp only
  rw [hc]

theorem decodeEntry_of_code {s u : State} {h : Nat} {b : Biq} {img : List Byte} {c : Code} (hi : s.blockImage h b = (u, .inl img))
    (hc : checkBlock u.vpcap.toNat (sewBits b.vcfg) ((doublewords (img.length / 8) img).headD 0) ((doublewords (img.length / 8) img).drop 1) =
      .inl c) : s.decodeEntry h b = (u, .inl c) := by
  rw [State.decodeEntry, hi]
  dsimp only
  rw [hc]

/-- A decoded entry has its code and keeps what was captured at issue (R134, R168). -/
theorem entry_decoded (u : State) {h i : Nat} {b : Biq} (c : Code) (hf : b.faults = []) (hi : i < (u.hart h).biq.length) :
    ∃ b', ((u.setEntry h i (if b.code = some c then { b with early := false } else { b.again with code := some c, early := false })).modHart h
        fun x => { x with biq := settlePend x.biq }).entry h i = some b' ∧ b'.code = some c ∧ b'.early = false ∧ b'.faults = [] ∧
      b'.capt = b.capt ∧ b'.vcfg = b.vcfg ∧ b'.va = b.va := by
  have hset : ((u.setEntry h i (if b.code = some c then { b with early := false } else
      { b.again with code := some c, early := false })).hart h).biq[i]? =
      some (if b.code = some c then { b with early := false } else { b.again with code := some c, early := false }) := by
    rw [State.hart_setEntry_self]
    exact List.getElem?_set_self hi
  obtain ⟨p, hp⟩ := getElem?_settlePend hset
  refine ⟨_, (congrArg (·.biq[i]?) (State.hart_modHart_self ..)).trans hp, ?_⟩
  by_cases hc : b.code = some c
  · rw [if_pos hc]
    exact ⟨hc, rfl, hf, rfl, rfl, rfl⟩
  · rw [if_neg hc]
    exact ⟨rfl, rfl, rfl, rfl, rfl, rfl⟩

/-! ### The return of a load -/

theorem vectorLines_local (s : State) (n len : Nat) {a : Nat} (h : isLocal a = true) : s.vectorLines n a len = s := by
  have hc : s.cached a = false := by simp [State.cached, h]
  simp [State.vectorLines, hc, State.pushFor, State.portOf, h]

theorem isMmio_local (s : State) {a : Nat} (h : isLocal a = true) : s.isMmio a = false := by
  simp [State.isMmio, h]

theorem unreached_of_whole {s : State} (h : s.coh.severed = []) (d a : Nat) : s.unreached d a = false := by
  simp [State.unreached, h]

theorem pendAsk_of_free {s : State} {p : BPend} (h : p.win = none) (hh seq : Nat) : s.pendAsk hh seq p = s := by
  rw [State.pendAsk, h]

theorem foldl_id_of_forall {α β : Type} {f : β → α → β} {l : List α} {b : β} (h : ∀ a ∈ l, f b a = b) : l.foldl f b = b := by
  induction l with
  | nil => rfl
  | cons a l ih =>
    rw [List.foldl_cons, h a List.mem_cons_self]
    exact ih fun x hx => h x (List.mem_cons_of_mem _ hx)

/-- The elements of a pending load lie in local memory. -/
def BPend.local (p : BPend) : Prop := ∀ va loc, some (va, loc) ∈ p.elems → isLocal loc = true

theorem pendRead_local (s : State) (h : Nat) {p : BPend} (hw : p.win = none) (l : List (Option (Word × Nat)))
    (hl : ∀ va loc, some (va, loc) ∈ l → isLocal loc = true) :
    State.pendRead h p l s = (s, l.map fun e => e.map fun x => memBytes s.mem x.2 p.wbytes) := by
  induction l with
  | nil => rfl
  | cons e l ih =>
    have ih := ih fun va loc hm => hl va loc (List.mem_cons_of_mem _ hm)
    cases e with
    | none => rw [State.pendRead, ih]; rfl
    | some x =>
      have hloc : isLocal x.2 = true := hl x.1 x.2 List.mem_cons_self
      have hb : s.pendBytes h p x.2 = (s, memBytes s.mem x.2 p.wbytes) := by
        rw [State.pendBytes, isMmio_local s hloc, vectorLines_local _ _ _ hloc, hw]
        rfl
      rw [State.pendRead, hb]
      dsimp only
      rw [ih]
      rfl

theorem pendPoison_local {s : State} {p : BPend} (h : Nat) (b : Biq) (hsev : s.coh.severed = [])
    (hclean : ∀ va loc, some (va, loc) ∈ p.elems → s.poisoned loc p.wbytes = false) : s.pendPoison h b p = [] := by
  refine List.filterMap_eq_nil_iff.mpr fun e he => ?_
  have hlt : e < p.elems.length := List.mem_range.mp he
  rw [getD_of_lt _ _ hlt]
  have hmem := List.getElem_mem hlt
  cases hx : p.elems[e] with
  | none => rfl
  | some x =>
    have hpo := hclean x.1 x.2 (hx ▸ hmem)
    simp [unreached_of_whole hsev, hpo]

theorem replayWhere_of_none {i : Nat} {bad : Bool → Biq → Bool} {q : List Biq}
    (h : ∀ j b, q[j]? = some b → bad (j == i) b = false) : replayWhere i bad q = q := by
  rw [replayWhere, List.find?_eq_none.mpr]
  intro j _
  cases hq : q[j]? with
  | none => simp
  | some b => simp [h j b hq]

theorem loads_give (b : Biq) (all g : List Nat) (t : Nat) (k : Tok) : (b.give all g t k).loads = b.loads := by
  rw [Biq.give]
  split
  · rfl
  · split <;> rfl

theorem loads_loaded (b : Biq) (all g : List Nat) (id lsid : Nat) (v : List (Option Nat)) : (b.loaded all g id lsid v).loads = b.loads := by
  rw [Biq.loaded]
  split
  · rfl
  · exact loads_give ..

/-- A load whose elements lie in local memory returns their bytes, and notes where it has read (R239, R246). -/
theorem pendReturn_local {s : State} {p : BPend} (h i : Nat) (b : Biq) (hw : p.win = none) (hsev : s.coh.severed = [])
    (hloc : p.local) (hclean : ∀ va loc, some (va, loc) ∈ p.elems → s.poisoned loc p.wbytes = false) :
    ∃ noted : List BLoad, (∀ y ∈ noted, y.lsid = p.lsid ∧ y.len = p.wbytes ∧ ∃ va, some (va, y.pa) ∈ p.elems) ∧
      s.pendReturn h i b p =
        (s.setEntry h i (({ b with pends := b.pends.filter (· != p), loads := b.loads ++ noted } : Biq).loaded (s.groups h b) p.grp p.id p.lsid
          (p.elems.map fun e => e.map fun x =>
            leNat (forwarded (s.visibleStores h i p.lsid) x.2 (memBytes s.mem x.2 p.wbytes))))).modHart h
          fun x => { x with biq := replayWhere i (fun own o => o.ranAhead own p.lsid noted) x.biq } := by
  rw [State.pendReturn, foldl_id_of_forall (l := p.elems) (b := s) ?lines]
  case lines =>
    intro e he
    cases e with
    | none => rfl
    | some x => exact ite_eq_left_iff.mpr fun _ => vectorLines_local _ _ _ (hloc x.1 x.2 he)
  dsimp only
  rw [pendPoison_local h b hsev hclean]
  dsimp only
  rw [pendRead_local s h hw p.elems hloc]
  dsimp only
  refine ⟨_, ?_, congrArg (fun v => State.modHart (s.setEntry h i (Biq.loaded _ _ _ _ _ v)) h _) ?_⟩
  · intro y hy
    obtain ⟨e, he, hy⟩ := List.mem_filterMap.mp hy
    obtain ⟨z, hz, rfl⟩ := Option.map_eq_some_iff.mp hy
    split at hz
    next x bs hx _ =>
      obtain rfl := Option.some.inj hz
      have hlt := List.mem_range.mp he
      rw [getD_of_lt _ _ hlt] at hx
      exact ⟨rfl, rfl, x.1, hx ▸ List.getElem_mem hlt⟩
    next => exact nomatch hz
  · refine List.ext_getElem (by simp) fun e he _ => ?_
    have hlt : e < p.elems.length := by simpa using he
    simp only [List.getElem_map, List.getElem_range]
    rw [getD_of_lt _ _ hlt, getD_of_lt _ _ (by simpa using hlt), List.getElem_map]
    cases p.elems[e] <;> rfl

theorem BLoad.differs_of_apart {x y : BLoad} (h : x.pa + x.len ≤ y.pa ∨ y.pa + y.len ≤ x.pa) : x.differs y = false := by
  rw [BLoad.differs, List.any_eq_false]
  intro k hk
  have := List.mem_range.mp hk
  simp only [Bool.and_eq_true, decide_eq_true_eq, not_and]
  omega

/-- No later load runs ahead where those noted are the load's own and meet no other. -/
theorem ranAhead_of_apart {c : Biq} {noted old : List BLoad} {lsid : Nat} {own : Bool}
    (hold : ∀ x ∈ c.loads, x ∈ old ∨ own = true ∧ x.lsid = lsid)
    (hap : ∀ x ∈ old, ∀ y ∈ noted, x.pa + x.len ≤ y.pa ∨ y.pa + y.len ≤ x.pa) : c.ranAhead own lsid noted = false := by
  rw [Biq.ranAhead, List.any_eq_false]
  intro x hx
  rcases hold x hx with hx | ⟨rfl, rfl⟩
  · have : noted.any x.differs = false := by
      rw [List.any_eq_false]
      exact fun y hy => Bool.eq_false_iff.mp (BLoad.differs_of_apart (hap x hx y hy))
    simp [this]
  · simp

theorem entry_of_nextPend {s : State} {h i : Nat} {b : Biq} {p : BPend} (hn : s.nextPend h = some (i, b, p)) :
    s.entry h i = some b ∧ p ∈ b.pends := by
  obtain ⟨j, _, hj⟩ := List.exists_of_findSome?_eq_some hn
  split at hj
  next c hc =>
    split at hj
    next => exact nomatch hj
    next =>
      obtain ⟨q, hq, he⟩ := Option.map_eq_some_iff.mp hj
      obtain ⟨rfl, rfl, rfl⟩ : j = i ∧ c = b ∧ q = p := by simpa using he
      exact ⟨hc, List.mem_of_find?_eq_some hq⟩
  next => exact nomatch hj

/-- The return of a load (R239). -/
theorem exec_loadDataReturn {s : State} {h i : Nat} {b : Biq} {p : BPend} (hev : s.ev = .loadDataReturn h)
    (hwin : ∀ c ∈ (s.hart h).biq, ∀ q ∈ c.pends, q.win = none) (hn : s.nextPend h = some (i, b, p)) :
    exec .loadDataReturn s = .next (s.pendReturn h i b p) := by
  show execLoadDataReturn s = _
  rw [execLoadDataReturn, hev]
  dsimp only
  rw [foldl_id_of_forall (l := (s.hart h).biq) (b := s) fun c hc => foldl_id_of_forall fun q hq => pendAsk_of_free (hwin c hc q hq) h c.seq]
  rw [hn]

theorem completes_loadDataReturn {s : State} {h i : Nat} {b : Biq} {p : BPend} (hev : s.ev = .loadDataReturn h) (hsev : s.coh.severed = [])
    (hwin : ∀ c ∈ (s.hart h).biq, ∀ q ∈ c.pends, q.win = none) (hn : s.nextPend h = some (i, b, p))
    (hel : ∀ va loc, some (va, loc) ∈ p.elems → isLocal loc = true ∧ s.poisoned loc p.wbytes = false ∧
      ∀ c ∈ (s.hart h).biq, ∀ x ∈ c.loads, x.pa + x.len ≤ loc ∨ loc + p.wbytes ≤ x.pa) :
    ∃ t, exec .loadDataReturn s = .next t ∧ t.mem = s.mem ∧ ∃ loads, t.entry h i = some (
      ({ b with pends := b.pends.filter (· != p), loads := loads } : Biq).loaded (s.groups h b) p.grp p.id p.lsid
        (p.elems.map fun e => e.map fun x => leNat (forwarded (s.visibleStores h i p.lsid) x.2 (memBytes s.mem x.2 p.wbytes)))) := by
  obtain ⟨hent, hp⟩ := entry_of_nextPend hn
  have hb : b ∈ (s.hart h).biq := List.mem_of_getElem? hent
  have hlt : i < (s.hart h).biq.length := (List.getElem?_eq_some_iff.mp hent).1
  obtain ⟨noted, hnoted, hret⟩ := pendReturn_local h i b (hwin b hb p hp) hsev (fun va loc hm => (hel va loc hm).1)
    fun va loc hm => (hel va loc hm).2.1
  refine ⟨_, (exec_loadDataReturn hev hwin hn).trans (congrArg _ hret), rfl, b.loads ++ noted, ?_⟩
  rw [State.entry, State.hart_modHart_self, State.hart_setEntry_self]
  dsimp only
  rw [replayWhere_of_none]
  · exact List.getElem?_set_self hlt
  · intro j c hc
    refine ranAhead_of_apart (old := (s.hart h).biq.flatMap (·.loads)) (fun x hx => ?_) fun x hx y hy => ?_
    · rcases Decidable.em (j = i) with rfl | hne
      · rw [List.getElem?_set_self hlt] at hc
        obtain rfl := Option.some.inj hc
        rw [loads_loaded] at hx
        rcases List.mem_append.mp hx with hx | hx
        · exact .inl (List.mem_flatMap.mpr ⟨b, hb, hx⟩)
        · exact .inr ⟨beq_self_eq_true j, (hnoted x hx).1⟩
      · rw [List.getElem?_set_ne (Ne.symm hne)] at hc
        exact .inl (List.mem_flatMap.mpr ⟨c, List.mem_of_getElem? hc, hx⟩)
    · obtain ⟨c, hc, hx⟩ := List.mem_flatMap.mp hx
      obtain ⟨_, hlen, va, hva⟩ := hnoted y hy
      rw [hlen]
      exact (hel va y.pa hva).2.2 c hc x hx

/-! ### Commit -/

theorem isLocal_of_mem_linePieces {a : Nat} (ha : isLocal a = true) (k len : Nat) : ∀ p ∈ linePieces k a len, isLocal p.1 = true := by
  induction k generalizing a len with
  | zero => exact fun p hp => absurd hp List.not_mem_nil
  | succ k ih =>
    intro p hp
    rw [linePieces] at hp
    split at hp
    · exact absurd hp List.not_mem_nil
    · dsimp only at hp
      split at hp
      · exact List.mem_singleton.mp hp ▸ ha
      · rcases List.mem_cons.mp hp with rfl | hp
        · exact ha
        · exact ih (isLocal_mono ha (Nat.le_add_right ..)) _ p hp

theorem vectorPiece_local (s : State) (n : Nat) {a : Nat} (bs : List Byte) (h : isLocal a = true) : s.vectorPiece n a bs = s.poke a bs := by
  have hc : s.cached a = false := by simp [State.cached, h]
  simp [State.vectorPiece, h, hc, State.writeUncached, State.portOf]

/-- A state with its memory and its agenda taken out. -/
def State.sansMem (s : State) : State := { s with mem := [], agenda := [] }

theorem State.eq_of_sansMem {s t : State} (h : t.sansMem = s.sansMem) : t = { s with mem := t.mem, agenda := t.agenda } :=
  congrArg (fun u : State => { u with mem := t.mem, agenda := t.agenda }) h

/-- A block store to local memory puts its bytes there, which can only end waits (R23, R247). -/
theorem vectorWrite_local (s : State) (n : Nat) {a : Nat} (bs : List Byte) (h : isLocal a = true) :
    (s.vectorWrite n a bs).mem = memPut a bs s.mem ∧ (s.vectorWrite n a bs).sansMem = s.sansMem := by
  have hpieces := isLocal_of_mem_linePieces h (bs.length / 128 + 2) bs.length
  have hstore : s.vectorWrite n a bs = s.store n a bs :=
    foldl_congr_mem (fun t p hp => (vectorPiece_local t n _ (hpieces p hp)).trans (storePiece_local t n _ (hpieces p hp)).symm) s
  have hpoke : s.vectorWrite n a bs = (piecesOf a bs.length).foldl (fun s p => s.poke p.1 ((bs.drop (p.1 - a)).take p.2)) s :=
    foldl_congr_mem (fun t p hp => vectorPiece_local t n _ (hpieces p hp)) s
  refine ⟨hstore ▸ store_local_mem s n bs h, ?_⟩
  rw [hpoke]
  exact foldl_keep State.sansMem (fun s (p : Nat × Nat) => s.poke p.1 ((bs.drop (p.1 - a)).take p.2)) (fun _ _ => rfl) _ _

theorem foldl_vectorWrite_local (n d : Nat) (l : List BStore) (hl : ∀ st ∈ l, isLocal st.pa = true) (s : State) (hsev : s.coh.severed = []) :
    let t := l.foldl (fun s st => if s.isMmio st.pa || s.unreached d st.pa then s else s.vectorWrite n st.pa st.bytes) s
    t.mem = l.foldl (fun m st => memPut st.pa st.bytes m) s.mem ∧ t.harts = s.harts := by
  induction l generalizing s with
  | nil => exact ⟨rfl, rfl⟩
  | cons st l ih =>
    have hst := hl st List.mem_cons_self
    obtain ⟨hmem, hrest⟩ := vectorWrite_local s n st.bytes hst
    have hcoh : (s.vectorWrite n st.pa st.bytes).coh = s.coh := by
      rw [State.eq_of_sansMem hrest]
    have hharts : (s.vectorWrite n st.pa st.bytes).harts = s.harts := by
      rw [State.eq_of_sansMem hrest]
    obtain ⟨hm, hh⟩ := ih (fun x hx => hl x (List.mem_cons_of_mem _ hx)) (s.vectorWrite n st.pa st.bytes) ((congrArg _ hcoh).trans hsev)
    rw [hmem] at hm
    rw [hharts] at hh
    rw [List.foldl_cons, isMmio_local s hst, unreached_of_whole hsev, List.foldl_cons]
    exact ⟨hm, hh⟩

/-- The x register that a staged put gives, unless the hart has replaced it (R105). -/
def Biq.putX (b : Biq) : Stage → Option (Nat × Word)
  | .x r w => if b.dropped r then none else some (r, w)
  | _ => none

theorem x_applyStage (x : Hart) (b : Biq) (st : Stage) :
    (x.applyStage b st).x = ((b.putX st).toList).foldl (fun t e => tset e.1 e.2 t) x.x := by
  cases st with
  | x r w => cases hd : b.dropped r <;> simp [Hart.applyStage, Biq.putX, hd]
  | _ => rfl

theorem pc_applyStage (x : Hart) (b : Biq) (st : Stage) : (x.applyStage b st).pc = x.pc := by
  cases st with
  | x r w => cases hd : b.dropped r <;> simp [Hart.applyStage, hd]
  | _ => rfl

theorem x_foldl_applyStage (b : Biq) (l : List Stage) (x : Hart) :
    (l.foldl (fun x st => x.applyStage b st) x).x = (l.filterMap b.putX).foldl (fun t e => tset e.1 e.2 t) x.x := by
  induction l generalizing x with
  | nil => rfl
  | cons st l ih =>
    rw [List.foldl_cons, ih, x_applyStage, List.filterMap_cons]
    cases b.putX st <;> rfl

theorem lostStores_of_whole {s : State} (hsev : s.coh.severed = []) (h : Nat) (b : Biq) : s.lostStores h b = [] := by
  simp [State.lostStores, hsev]

/-- The commit of a block whose stores lie in local memory: memory, and what the hart has then (R160). -/
theorem commit_local {s : State} {h : Nat} {b : Biq} (rest : List Biq) (hsev : s.coh.severed = []) (hloop : b.isLoop = false)
    (hst : ∀ st ∈ b.stores, isLocal st.pa = true) :
    (s.commit h b rest).mem = b.stores.foldl (fun m st => memPut st.pa st.bytes m) s.mem ∧ (s.commit h b rest).hart h =
      { b.staged.foldl (fun x st => x.applyStage b st) (s.hart h) with biq := settlePend (rest.map (·.capture b)) } := by
  unfold State.commit
  extract_lets w ms u rest' next q v
  obtain ⟨hwm, hwh⟩ : w.mem = b.stores.foldl (fun m st => memPut st.pa st.bytes m) s.mem ∧ w.harts = s.harts :=
    foldl_vectorWrite_local _ _ _ hst s hsev
  have hnext : next = none := by simp [next, State.nextStrip, hloop]
  have hu : u.mem = b.stores.foldl (fun m st => memPut st.pa st.bytes m) s.mem ∧ u.harts = s.harts := by
    dsimp only [u]
    split <;> exact ⟨hwm, hwh⟩
  have hv : v = u.freeHolds h (rest'.map (·.seq)) := by simp [v, hnext]
  have hhart : v.hart h = s.hart h := by
    rw [hv]
    exact congrArg (fun l => tget Hart.init l h) hu.2
  refine ⟨(congrArg State.mem hv).trans hu.1, ?_⟩
  have hq : q = rest' := by simp [q, hnext]
  rw [State.hart_modHart_self, hhart, hq]

theorem exec_blockCommit {s : State} {h : Nat} {b : Biq} {rest : List Biq} (hev : s.ev = .blockCommit h)
    (hq : (s.hart h).biq = b :: rest) : exec .blockCommit s = .next (s.commitHead h b rest) := by
  show execBlockCommit s = _
  rw [execBlockCommit, hev]
  dsimp only
  rw [hq]

theorem commitHead_of_whole {s : State} {h : Nat} {b : Biq} {rest : List Biq} (hc : b.complete = true) (hst : s.commitStuck h b = false)
    (hsev : s.coh.severed = []) : s.commitHead h b rest = s.commit h b rest := by
  simp [State.commitHead, hc, hst, lostStores_of_whole hsev]

/-! ### The record of a fault -/

theorem sendPrg_keeps (s : State) (who : PrgFor) (pasid : Nat) (pages : List (Nat × Nat)) :
    (s.sendPrg who pasid pages).1.mem = s.mem ∧ (s.sendPrg who pasid pages).1.harts = s.harts := by
  unfold State.sendPrg
  generalize leastBelow 512 _ = free
  cases free with
  | none => exact ⟨rfl, rfl⟩
  | some i =>
    generalize s.ctxOf pasid = c
    cases c <;> exact ⟨rfl, rfl⟩

/-- The fault CSRs of a recorded fault (R97). -/
theorem Hart.cs_recordFault (x : Hart) (b : Biq) (f : BFault) (tries : Nat) :
    (x.recordFault b f tries).cs 0x5C0 = BitVec.ofNat 64 (f.code + tries * 2 ^ 16 + f.lg * 2 ^ 18) ∧ (x.recordFault b f tries).cs 0x5C1 = f.va ∧
      (x.recordFault b f tries).cs 0x5C3 = BitVec.ofNat 64 (f.lsid + f.id * 2 ^ 8) ∧
      (x.recordFault b f tries).cs 0x5C4 = b.va &&& ~~~(0x3F : Word) := by
  rw [Hart.recordFault]
  refine ⟨?_, ?_, ?_, ?_⟩ <;> simp [Hart.cs_setCs]

/-- A hart whose oldest block faults with `f` (R118, R119, R163 to R165). -/
def Hart.faulted (x : Hart) (b : Biq) (rest : List Biq) (f : BFault) (park : Bool) : Hart :=
  let tries := min 3 (b.tries + 1)
  { x.recordFault b f tries with
    held := !park, parked := park
    biq := { b.again with tries := tries, faults := [f], held := true, park := park } :: rest.map fun c => { c.again with held := true } }

/-- Whether a fault parks its block (R119, R167). -/
def Hart.parks (x : Hart) (b : Biq) (f : BFault) : Bool :=
  (x.cs csrPfpark).toNat.testBit 0 && (f.code == 2 || f.code == 4 || f.code == 5) && min 3 (b.tries + 1) != 3

theorem blockFaults_of_fault (s : State) {h : Nat} {b : Biq} (rest : List Biq) {f : BFault} (hatom : b.atom = false)
    (hf : chooseFault b.faults = some f) : (s.blockFaults h b rest).mem = s.mem ∧
      (s.blockFaults h b rest).hart h = (s.hart h).faulted b rest f ((s.hart h).parks b f) := by
  have hchosen : (if b.atom then none else chooseFault b.faults) = some f := by rw [hatom]; exact hf
  unfold State.blockFaults
  rw [hchosen]
  dsimp -zeta only
  extract_lets u tries park _ _ v
  have hv : v.mem = s.mem ∧ v.hart h = (s.hart h).faulted b rest f ((s.hart h).parks b f) := ⟨rfl, State.hart_modHart_self ..⟩
  split
  · obtain ⟨hm, hh⟩ := sendPrg_keeps v (.block h) b.pasid (parkPages b.faults)
    exact ⟨hm.trans hv.1, (congrArg (fun l => tget Hart.init l h) hh).trans hv.2⟩
  · exact hv

theorem Hart.parks_iff (x : Hart) (b : Biq) (f : BFault) :
    x.parks b f = true ↔ x.cs csrPfpark % 2 = 1 ∧ (f.code = 2 ∨ f.code = 4 ∨ f.code = 5) ∧ min 3 (b.tries + 1) ≠ 3 := by
  have hbit : (x.cs csrPfpark).toNat.testBit 0 = true ↔ x.cs csrPfpark % 2 = 1 := by
    rw [Nat.testBit_zero, decide_eq_true_eq]
    bv_omega
  rw [Hart.parks, Bool.and_eq_true, Bool.and_eq_true, hbit, Bool.or_eq_true, Bool.or_eq_true, beq_iff_eq, beq_iff_eq, beq_iff_eq, bne_iff_ne,
    and_assoc, or_assoc]

theorem exec_blockFault {s : State} {h : Nat} {b : Biq} {rest : List Biq} (hev : s.ev = .blockFault h) (hq : (s.hart h).biq = b :: rest)
    (hheld : b.held = false) : exec .blockFault s = .next (s.blockFaults h b rest) := by
  show execBlockFault s = _
  rw [execBlockFault, hev]
  dsimp only
  rw [hq]
  dsimp only
  rw [hheld]
  rfl

theorem Hart.faulted_keeps (x : Hart) (b : Biq) (rest : List Biq) (f : BFault) (park : Bool) :
    (x.faulted b rest f park).x = x.x ∧ (x.faulted b rest f park).pc = x.pc ∧ (x.faulted b rest f park).parked = park ∧
      (x.faulted b rest f park).held = !park ∧ ∀ n, (x.faulted b rest f park).cs n = (x.recordFault b f (min 3 (b.tries + 1))).cs n :=
  ⟨rfl, rfl, rfl, rfl, fun _ => rfl⟩

theorem Hart.faulted_biq_va (x : Hart) (b : Biq) (rest : List Biq) (f : BFault) (park : Bool) :
    (x.faulted b rest f park).biq.map (·.va) = (b :: rest).map (·.va) := by
  simp [Hart.faulted, Biq.again]

/-- Every block of the hart is held with nothing fired (R118). -/
theorem Hart.faulted_held (x : Hart) (b : Biq) (rest : List Biq) (f : BFault) (park : Bool) :
    ∀ c ∈ (x.faulted b rest f park).biq, c.held = true ∧ c.fired = [] ∧ c.stores = [] ∧ c.staged = [] := by
  intro c hc
  rcases List.mem_cons.mp hc with rfl | hc
  · exact ⟨rfl, rfl, rfl, rfl⟩
  · obtain ⟨d, _, rfl⟩ := List.mem_map.mp hc
    exact ⟨rfl, rfl, rfl, rfl⟩

/-! ### The trap of a held fault -/

/-- Abandoning a wait changes only the wait of the hart. -/
theorem hart_abandon (s : State) (h : Nat) :
    (s.abandon h).hart h = s.hart h ∨ (s.abandon h).hart h = { s.hart h with wait := none, timedOut := false } := by
  unfold State.abandon
  split
  · exact .inl rfl
  · split
    · exact .inl rfl
    · extract_lets u
      have hu : u.hart h = { s.hart h with wait := none, timedOut := false } := State.hart_modHart_self ..
      split <;> exact .inr hu

/-- The trap that an abandoned wait gives way to is that of the hart as it waited. -/
theorem takesTrap_abandon (s : State) (h c : Nat) (v : Word) :
    let x := (s.abandon h).hart h
    TakesTrap (s.hart h) (x.trap (x.trapsToS c) c false v) c v ∧ x.biq = (s.hart h).biq := by
  intro x
  have hx : x = s.hart h ∨ x = { s.hart h with wait := none, timedOut := false } := hart_abandon s h
  rcases hx with hx | hx
  · rw [hx]
    exact ⟨takesTrap_trap (s.hart h) c v, rfl⟩
  · rw [hx]
    exact ⟨takesTrap_trap { s.hart h with wait := none, timedOut := false } c v, rfl⟩

theorem heldCause_eq (b : Biq) (f : BFault) : heldCause b f = if b.tries = 3 ∧ 2 ≤ f.code ∧ f.code ≤ 7 then 26 else 24 := by
  simp [heldCause, codeProgress]

/-- A delivered fault is the trap of its cause, from the next instruction, with the block's address (R117, R118). -/
theorem deliverFault_of_held {s : State} {h : Nat} {b : Biq} {f : BFault} (hf : (s.hart h).heldFault = some (b, f)) :
    (s.deliverFault h).mem = s.mem ∧ ((s.deliverFault h).hart h).biq = (s.hart h).biq ∧
      TakesTrap (s.hart h) ((s.deliverFault h).hart h) (heldCause b f) (b.va &&& ~~~(0x3F : Word)) := by
  obtain ⟨htrap, hbiq⟩ := takesTrap_abandon s h (heldCause b f) (b.va &&& ~~~(0x3F : Word))
  have hd : (s.deliverFault h).mem = (s.abandon h).mem ∧ (s.deliverFault h).hart h =
      { ((s.abandon h).hart h).trap (((s.abandon h).hart h).trapsToS (heldCause b f)) (heldCause b f) false (b.va &&& ~~~(0x3F : Word)) with
        told := true } := by
    unfold State.deliverFault
    rw [hf]
    exact ⟨rfl, State.hart_modHart_self ..⟩
  rw [hd.1, hd.2]
  exact ⟨(s.abandon_keeps h).2.2.2, (Hart.trap_biq ..).trans hbiq, htrap⟩

theorem exec_blockTrapDeliver {s : State} {h : Nat} (hev : s.ev = .blockTrapDeliver h) :
    exec .blockTrapDeliver s = .next (if (s.hart h).faultDue then s.deliverFault h else s) := by
  show execBlockTrapDeliver s = _
  rw [execBlockTrapDeliver, hev]

/-- Settles O49: the event of each kind by the equations above; the accesses that the clauses name lie in local memory, which no cache
and no window stands before. -/
theorem blocksDecodeReturnCommitAndFault : Obligations.BlocksDecodeReturnCommitAndFault := by
  unfold Obligations.BlocksDecodeReturnCommitAndFault
  refine ⟨?fetch, ?idle, fun vpcap sew hdr pairs c => wf_of_checkBlock, ?load, ?commit, ?fault, ?deliver⟩
  case fetch =>
    intro s u h i b hev hu hback
    obtain ⟨hbad, hgood⟩ := exec_blockFetchDecode hev hu hback
    refine ⟨fun f hi => hbad u f (decodeEntry_of_fault hi), fun img hi => ⟨fun id hc => hbad u _ (decodeEntry_of_bad hi hc), ?_⟩⟩
    intro c hc hlt
    exact ⟨_, hgood u c (decodeEntry_of_code hi hc), rfl, entry_decoded u c (faults_of_undecoded hu) hlt⟩
  case idle =>
    intro s h hev hu
    show execBlockFetchDecode s = _
    rw [execBlockFetchDecode, hev]
    dsimp only
    rw [hu]
  case load => exact fun s h i b p hev hsev hwin hn hel => completes_loadDataReturn hev hsev hwin hn hel
  case commit =>
    intro s h b rest hev hq
    refine ⟨fun hnot => ?_, fun hc hst hsev hloop hloc => ?_⟩
    · rw [exec_blockCommit hev hq, State.commitHead, if_pos]
      rcases hnot with hnot | hnot <;> simp [hnot]
    · obtain ⟨hmem, hhart⟩ := commit_local rest hsev hloop hloc
      refine ⟨_, (exec_blockCommit hev hq).trans (congrArg _ (commitHead_of_whole hc hst hsev)), hmem, ?_, ?_, ?_⟩
      · rw [hhart, settlePend_va, List.map_map]
        rfl
      · rw [hhart]
        refine (x_foldl_applyStage b b.staged (s.hart h)).trans (congrArg (fun g => List.foldl _ _ (List.filterMap g b.staged)) ?_)
        funext st
        cases st <;> rfl
      · rw [hhart]
        exact foldl_keep Hart.pc _ (fun x st => pc_applyStage x b st) _ _
  case fault =>
    intro s h b rest f hev hq hheld hatom hf
    obtain ⟨hmem, hhart⟩ := blockFaults_of_fault s rest hatom hf
    refine ⟨_, exec_blockFault hev hq hheld, hmem, ?_⟩
    obtain ⟨hx, hpc, hparked, hheld', hcs⟩ := (s.hart h).faulted_keeps b rest f ((s.hart h).parks b f)
    obtain ⟨h0, h1, h3, h4⟩ := (s.hart h).cs_recordFault b f (min 3 (b.tries + 1))
    have hpark := (s.hart h).parks_iff b f
    rw [hhart, hx, hpc, hparked, hheld', hcs, hcs, hcs, hcs, h0, h1, h3, h4, Bool.not_eq_true', Bool.eq_false_iff]
    exact ⟨rfl, rfl, hpark, not_congr hpark, Hart.faulted_biq_va .., Hart.faulted_held _ _ _ _ _, rfl, rfl, rfl, rfl⟩
  case deliver =>
    intro s h b f hev
    refine ⟨fun hdue => ?_, fun hdue hf => ?_⟩
    · rw [exec_blockTrapDeliver hev, hdue]
      rfl
    · obtain ⟨hmem, hbiq, _, hwait, htrap⟩ := deliverFault_of_held hf
      rw [heldCause_eq] at htrap
      exact ⟨_, (exec_blockTrapDeliver hev).trans (congrArg _ (if_pos hdue)), hmem, hbiq, hwait, htrap⟩

end Sys2Proof.Machine
end

section
/-! PROOF. The end of an instance, and the contexts that `ctxsave`, `ctxload`, SAVE_COMPLETE and RESUME keep (R121 to R133, R365,
R372, R373). -/

namespace Sys2Proof.Machine

open Sys2Proof.Claims

/-! ### What the operations on one hart leave as it is -/

/-- Nothing but harts, translations, orders and the agenda differs. -/
def State.Still (s t : State) : Prop :=
  t.mem = s.mem ∧ t.tqe = s.tqe ∧ t.cores = s.cores ∧ t.cur = s.cur ∧ t.ilen = s.ilen ∧ t.net = s.net

theorem State.Still.trans {s t u : State} (h : s.Still t) (k : t.Still u) : s.Still u := by
  obtain ⟨a, b, c, d, e, f⟩ := h
  obtain ⟨a', b', c', d', e', f'⟩ := k
  exact ⟨a'.trans a, b'.trans b, c'.trans c, d'.trans d, e'.trans e, f'.trans f⟩

theorem still_modHart (s : State) (h : Nat) (f : Hart → Hart) : s.Still (s.modHart h f) := ⟨rfl, rfl, rfl, rfl, rfl, rfl⟩

theorem still_setClaims (s : State) (h : Nat) (cl : List Nat) : s.Still (s.setClaims h cl) := by
  rw [State.setClaims]
  split <;> exact ⟨rfl, rfl, rfl, rfl, rfl, rfl⟩

theorem still_setGrant (s : State) (h : Nat) (g : List Nat) : s.Still (s.setGrant h g) := by
  rw [State.setGrant]
  split <;> exact ⟨rfl, rfl, rfl, rfl, rfl, rfl⟩

theorem still_dropGrant (s : State) (h : Nat) : s.Still (s.dropGrant h) :=
  ((still_setClaims s h []).trans (still_setGrant _ h [])).trans (still_modHart ..)

theorem still_killBlocks (s : State) (h : Nat) : s.Still (s.killBlocks h) := ⟨rfl, rfl, rfl, rfl, rfl, rfl⟩

theorem hart_setClaims (s : State) (h : Nat) (cl : List Nat) : (s.setClaims h cl).hart h = { s.hart h with claims := cl } := by
  rw [State.setClaims]
  split
  · next heq => rw [← heq]
  · exact s.hart_modHart_self h fun x => { x with claims := cl }

theorem hart_setGrant (s : State) (h : Nat) (g : List Nat) :
    (s.setGrant h g).hart h = { s.hart h with grant := g, gexcl := (s.hart h).excl } := by
  rw [State.setGrant]
  split
  · next heq => rw [← heq.1]; exact congrArg (fun b => { s.hart h with gexcl := b }) heq.2
  · exact s.hart_modHart_self h fun x => { x with grant := g, gexcl := x.excl }

/-- A hart without grant and claims: `vl`, `vlmax` and `vcfg`.LG read 0 (R89). -/
def Hart.sansGrant (x : Hart) : Hart :=
  (({ x with claims := [], grant := [], gexcl := x.excl }.setCs csrVl 0).setCs csrVlmax 0).setCs csrVcfg (x.cs csrVcfg &&& ~~~(0x70000 : Word))

theorem hart_dropGrant (s : State) (h : Nat) : (s.dropGrant h).hart h = (s.hart h).sansGrant := by
  rw [State.dropGrant, State.hart_modHart_self, hart_setGrant, hart_setClaims]
  rfl

/-- A hart whose blocks are discarded, but for an oldest one whose atomic has fired (R111). -/
def Hart.sansBlocks (x : Hart) (n : Biq → Nat) : Hart :=
  { x with biq := ((x.biq.take 1).filter (·.atom)).map fun b => { b with n := n b }, held := false, parked := false, told := false }

theorem hart_killBlocks (s : State) (h : Nat) : (s.killBlocks h).hart h = (s.hart h).sansBlocks fun b => b.base + s.entryVl h b :=
  State.hart_modHart_self ..

/-- A hart without its buffered stores and its reservation. -/
def Hart.sansStores (x : Hart) : Hart := { x with sbuf := [], resv := none }

/-- Performing buffered stores changes nothing of the hart but them and its reservation. -/
theorem drainOne_keeps (s : State) (h : Nat) : ((s.drainOne h).hart h).sansStores = (s.hart h).sansStores ∧
    (s.drainOne h).cores = s.cores ∧ (s.drainOne h).tqe = s.tqe ∧ (s.drainOne h).net = s.net ∧ (s.drainOne h).ilen = s.ilen := by
  unfold State.drainOne
  split
  · exact ⟨rfl, rfl, rfl, rfl, rfl⟩
  · split
    · exact ⟨rfl, rfl, rfl, rfl, rfl⟩
    · extract_lets t
      have ht : (t.hart h).sansStores = (s.hart h).sansStores := by
        rw [show t.hart h = _ from State.hart_modHart_self ..]
        rfl
      split
      · exact ⟨ht, rfl, rfl, rfl, rfl⟩
      next loc bs _ _ _ _ =>
        obtain ⟨hsans, _⟩ := t.keeps_store (nodeOf (coreOf h)) loc bs
        refine ⟨?_, (State.cores_of_sansCoh hsans).trans rfl, (State.tqe_of_sansCoh hsans).trans rfl,
          (State.net_of_sansCoh hsans).trans rfl, (State.ilen_of_sansCoh hsans).trans rfl⟩
        exact (congrArg Hart.sansStores (State.hart_of_sansCoh hsans h)).trans ht

theorem drain_keeps (s : State) (h : Nat) : ((s.drain h).hart h).sansStores = (s.hart h).sansStores ∧
    (s.drain h).cores = s.cores ∧ (s.drain h).tqe = s.tqe ∧ (s.drain h).net = s.net ∧ (s.drain h).ilen = s.ilen :=
  ⟨foldl_keep (fun t : State => (t.hart h).sansStores) _ (fun t _ => (drainOne_keeps t h).1) _ _,
    foldl_keep State.cores _ (fun t _ => (drainOne_keeps t h).2.1) _ _,
    foldl_keep State.tqe _ (fun t _ => (drainOne_keeps t h).2.2.1) _ _,
    foldl_keep State.net _ (fun t _ => (drainOne_keeps t h).2.2.2.1) _ _,
    foldl_keep State.ilen _ (fun t _ => (drainOne_keeps t h).2.2.2.2) _ _⟩

theorem drain_of_empty {s : State} {h : Nat} (hs : (s.hart h).sbuf = []) : s.drain h = s := by
  rw [State.drain, hs]
  rfl

/-! ### A hart is freed -/

/-- What a freed hart is (R365). -/
def Hart.Freed (x y : Hart) : Prop :=
  y.inst = none ∧ y.wait = some .task ∧ y.grant = [] ∧ y.claims = [] ∧ y.holds = [] ∧ y.save = none ∧ y.preempt = none ∧ y.x = x.x ∧
    (x.biq = [] → y.biq = [])

theorem clearMode_keeps (s : State) (ci : Nat) : (s.clearMode ci).harts = s.harts ∧ (s.clearMode ci).mem = s.mem ∧
    (s.clearMode ci).tqe = s.tqe ∧ (s.clearMode ci).cur = s.cur ∧ ∀ c, ((s.clearMode ci).core c).mat = (s.core c).mat := by
  rw [State.clearMode]
  split
  · refine ⟨rfl, rfl, rfl, rfl, fun c => ?_⟩
    rcases Decidable.em (c = ci) with rfl | hne
    · rw [State.core_modCore_self]
    · rw [State.core_modCore_ne _ _ hne]
  · exact ⟨rfl, rfl, rfl, rfl, fun _ => rfl⟩

theorem kick_keeps (s : State) (d : Nat) : (s.kick d).harts = s.harts ∧ (s.kick d).mem = s.mem ∧ (s.kick d).tqe = s.tqe ∧
    (s.kick d).cur = s.cur ∧ (s.kick d).cores = s.cores := by
  rw [State.kick]
  split <;> exact ⟨rfl, rfl, rfl, rfl, rfl⟩

/-- The engine of the hart's core is given up where the hart owns it (R311). -/
theorem dropMatrix_keeps (s : State) (h : Nat) : (s.dropMatrix h).harts = s.harts ∧ (s.dropMatrix h).mem = s.mem ∧
    (s.dropMatrix h).tqe = s.tqe ∧ (s.dropMatrix h).cur = s.cur ∧ ¬ ((s.dropMatrix h).core (coreOf h)).mat.owner = some h := by
  rw [State.dropMatrix]
  split
  · refine ⟨rfl, rfl, rfl, rfl, ?_⟩
    rw [State.matRelease, State.modMat, State.core_modCore_self]
    exact nofun
  · next hno => exact ⟨rfl, rfl, rfl, rfl, hno⟩

/-- A hart that waits for a dispatch (R365). -/
def Hart.idle (x : Hart) : Hart :=
  { x with inst := none, preempt := none, save := none, resume := none, holds := [], wait := some .task, timedOut := false
           sync := false, told := false }

/-- A hart as `freeHart` takes its blocks, its lanes, its engine and its buffered stores. -/
def State.emptied (s : State) (h : Nat) : State := (((s.killBlocks h).dropGrant h).dropMatrix h).drain h

/-- The hart waits, and its `nfence`s are forgotten. -/
def State.unoccupied (s : State) (h : Nat) : State :=
  { (s.emptied h).modHart h Hart.idle with
    net := { (s.emptied h).net with fences := (s.emptied h).net.fences.filter fun f => f.hart != h || f.inst.isSome } }

theorem freeHart_eq (s : State) (h : Nat) : s.freeHart h = ((s.unoccupied h).clearMode (coreOf h)).kick (dieOf (coreOf h)) := by
  unfold State.freeHart State.unoccupied State.emptied State.dropMatrix
  rfl

theorem unoccupied_keeps (s : State) (h : Nat) : (s.unoccupied h).hart h = ((s.emptied h).hart h).idle ∧
    (s.unoccupied h).cores = (s.emptied h).cores ∧ (s.unoccupied h).tqe = (s.emptied h).tqe ∧ (s.unoccupied h).cur = (s.emptied h).cur ∧
    (s.unoccupied h).mem = (s.emptied h).mem := by
  unfold State.unoccupied
  generalize s.emptied h = t
  exact ⟨t.hart_modHart_self h Hart.idle, rfl, rfl, rfl, rfl⟩

/-- What is left of the hart before it waits. -/
theorem emptied_keeps (s : State) (h : Nat) : ((s.emptied h).hart h).sansStores =
      ((s.hart h).sansBlocks fun b => b.base + s.entryVl h b).sansGrant.sansStores ∧
    (s.emptied h).tqe = s.tqe ∧ (s.emptied h).cur = s.cur ∧ ¬ ((s.emptied h).core (coreOf h)).mat.owner = some h ∧
    ((s.hart h).sbuf = [] → (s.emptied h).mem = s.mem) := by
  obtain ⟨hmem, htqe, _, hcur, _, _⟩ := (still_killBlocks s h).trans (still_dropGrant (s.killBlocks h) h)
  have hhart : ((s.killBlocks h).dropGrant h).hart h = ((s.hart h).sansBlocks fun b => b.base + s.entryVl h b).sansGrant := by
    rw [hart_dropGrant, hart_killBlocks]
  obtain ⟨hmh, hmmem, hmtqe, hmcur, hmown⟩ := dropMatrix_keeps ((s.killBlocks h).dropGrant h) h
  have hmhart : (((s.killBlocks h).dropGrant h).dropMatrix h).hart h = ((s.hart h).sansBlocks fun b => b.base + s.entryVl h b).sansGrant :=
    (congrArg (fun l => tget Hart.init l h) hmh).trans hhart
  obtain ⟨hdh, hdcores, hdtqe, _, _⟩ := drain_keeps (((s.killBlocks h).dropGrant h).dropMatrix h) h
  refine ⟨hdh.trans (congrArg _ hmhart), hdtqe.trans (hmtqe.trans htqe), (State.drain_cur ..).trans (hmcur.trans hcur), ?_, fun hs => ?_⟩
  · have hcore : (s.emptied h).core (coreOf h) = (((s.killBlocks h).dropGrant h).dropMatrix h).core (coreOf h) :=
      by
      rw [State.core, State.core, ← hdcores]
      rfl
    rw [hcore]
    exact hmown
  · have hsbuf : ((((s.killBlocks h).dropGrant h).dropMatrix h).hart h).sbuf = [] := (congrArg Hart.sbuf hmhart).trans hs
    exact (congrArg State.mem (drain_of_empty hsbuf)).trans (hmmem.trans hmem)

theorem Hart.idle_freed {x y : Hart} {n : Biq → Nat} (h : y.sansStores = (x.sansBlocks n).sansGrant.sansStores) : x.Freed y.idle := by
  have hgrant : y.grant = [] := congrArg (fun z : Hart => z.grant) h
  have hclaims : y.claims = [] := congrArg (fun z : Hart => z.claims) h
  have hx := congrArg (fun z : Hart => z.x) h
  have hbiq : y.biq = (x.sansBlocks n).biq := by
    have q := congrArg (fun z : Hart => z.biq) h
    exact q
  refine ⟨rfl, rfl, hgrant, hclaims, rfl, rfl, rfl, hx, fun hq => hbiq.trans ?_⟩
  rw [Hart.sansBlocks, hq]
  rfl

/-- A freed hart: nothing of its task is left, and its core's engine is not its own (R365). -/
theorem freeHart_freed (s : State) (h : Nat) : (s.hart h).Freed ((s.freeHart h).hart h) ∧ (s.freeHart h).tqe = s.tqe ∧
    (s.freeHart h).cur = s.cur ∧ ¬ ((s.freeHart h).core (coreOf h)).mat.owner = some h ∧
    ((s.hart h).sbuf = [] → (s.freeHart h).mem = s.mem) := by
  have heq := freeHart_eq s h
  obtain ⟨huh, hucores, hutqe, hucur, humem⟩ := unoccupied_keeps s h
  obtain ⟨heh, hetqe, hecur, heown, hemem⟩ := emptied_keeps s h
  obtain ⟨hch, hcmem, hctqe, hccur, hcmat⟩ := clearMode_keeps (s.unoccupied h) (coreOf h)
  obtain ⟨hkh, hkmem, hktqe, hkcur, hkcores⟩ := kick_keeps ((s.unoccupied h).clearMode (coreOf h)) (dieOf (coreOf h))
  have hhart : (s.freeHart h).hart h = ((s.emptied h).hart h).idle := by
    rw [heq, State.hart, hkh, hch, ← State.hart, huh]
  refine ⟨hhart ▸ Hart.idle_freed heh, ?_, ?_, ?_, fun hs => ?_⟩
  · rw [heq, hktqe, hctqe, hutqe, hetqe]
  · rw [heq, hkcur, hccur, hucur, hecur]
  · have hcore : ((s.freeHart h).core (coreOf h)).mat = ((s.emptied h).core (coreOf h)).mat := by
      rw [heq, State.core, hkcores, ← State.core, hcmat, State.core, hucores, ← State.core]
    rw [hcore]
    exact heown
  · rw [heq, hkmem, hcmem, humem, hemem hs]

/-! ### The end of an instance -/

theorem freeSave_keeps (s : State) (i : Nat) : (s.freeSave i).tqe.insts = s.tqe.insts ∧ (s.freeSave i).tqe.pkts = s.tqe.pkts ∧
    (s.freeSave i).harts = s.harts := by
  unfold State.freeSave State.modQueue
  split
  · split
    · split <;> exact ⟨rfl, rfl, rfl⟩
    · exact ⟨rfl, rfl, rfl⟩
  · exact ⟨rfl, rfl, rfl⟩

theorem unreserve_keeps (s : State) (i : Nat) : (s.unreserve i).tqe = s.tqe ∧ (s.unreserve i).harts = s.harts := by
  rw [State.unreserve]
  split <;> exact ⟨rfl, rfl⟩

theorem endCopies_of_none {s : State} (h : s.copies = []) (i code : Nat) : s.endCopies i code = s := by
  rw [State.endCopies, State.abandonCopies, h]
  rfl

/-- A state without an instance: its save slot, its reserved engine, its orders and its `nfence`s are given up (R365). -/
def State.unlisted (s : State) (i : Nat) : State :=
  let u := (s.freeSave i).unreserve i
  { u with tqe := { u.tqe with insts := tdel i u.tqe.insts }
           orders := u.orders.filter fun o => o.iid != i
           net := { u.net with fails := u.net.fails.filter fun f => f.1 != i
                               fences := u.net.fences.filter fun f => f.inst != some i } }

theorem unlisted_keeps (s : State) (i : Nat) : (s.unlisted i).harts = s.harts ∧ (s.unlisted i).tqe.pkts = s.tqe.pkts ∧
    (s.unlisted i).tqe.insts = tdel i s.tqe.insts := by
  obtain ⟨hfi, hfp, hfh⟩ := freeSave_keeps s i
  obtain ⟨hut, huh⟩ := unreserve_keeps (s.freeSave i) i
  refine ⟨huh.trans hfh, (congrArg Tqe.pkts hut).trans hfp, ?_⟩
  rw [← hfi, ← hut]
  rfl

/-- Where no copy is open, an instance that closes is gone from the table and its hart, if it has one, is freed (R365). -/
theorem closeInst_of_hart {s : State} (hc : s.copies = []) {i h : Nat} {t : Inst} (ht : s.tqe.insts.lookup i = some t) (hh : t.hart = some h)
    (code : Nat) : s.closeInst i code = (s.unlisted i).freeHart h := by
  have hin : ((s.freeSave i).unreserve i).tqe.insts = s.tqe.insts :=
    (congrArg Tqe.insts (unreserve_keeps _ i).1).trans (freeSave_keeps s i).1
  unfold State.closeInst
  rw [endCopies_of_none hc]
  extract_lets w hart u
  have hhart : hart = some h := by
    dsimp only [hart, w]
    rw [hin, ht]
    exact hh
  rw [hhart]
  rfl

theorem closeInst_of_none {s : State} (hc : s.copies = []) {i : Nat} {t : Inst} (ht : s.tqe.insts.lookup i = some t) (hh : t.hart = none)
    (code : Nat) : s.closeInst i code = s.unlisted i := by
  have hin : ((s.freeSave i).unreserve i).tqe.insts = s.tqe.insts :=
    (congrArg Tqe.insts (unreserve_keeps _ i).1).trans (freeSave_keeps s i).1
  unfold State.closeInst
  rw [endCopies_of_none hc]
  extract_lets w hart u
  have hhart : hart = none := by
    dsimp only [hart, w]
    rw [hin, ht]
    exact hh
  rw [hhart]
  rfl

theorem not_released {s : State} (h : s.me.biq ≠ []) : s.released = false := by
  simpa [State.released] using h

theorem whenQuiet_of_blocks {s : State} (h : s.me.biq ≠ []) (k : Out) : s.whenQuiet k = .next (s.wait .blocks) := by
  rw [State.whenQuiet, not_released h]
  rfl

theorem whenQuiet_of_commands {s : State} (h : s.me.biq = []) (hc : s.commandsRun = true) (k : Out) :
    s.whenQuiet k = .next (s.wait .commands) := by
  rw [State.whenQuiet, State.released, h, hc]
  rfl

theorem whenQuiet_of_quiet {s : State} (h : s.me.biq = []) (hc : s.commandsRun = false) (k : Out) : s.whenQuiet k = k := by
  rw [State.whenQuiet, State.released, h, hc]
  rfl

/-- A hart without an instance is free when it ends or yields its task (R372, R373). -/
theorem freed_of_noInst (s : State) : let t := s.retire.freeHart s.cur
    t.me.inst = none ∧ t.me.wait = some .task ∧ t.me.grant = [] ∧ t.me.x = s.me.x ∧ (s.me.sbuf = [] → t.mem = s.mem) := by
  obtain ⟨⟨hinst, hwait, hgrant, _, _, _, _, hx, _⟩, _, hcur, _, hmem⟩ := freeHart_freed s.retire s.cur
  have hret : s.retire.hart s.cur = s.retire.me := rfl
  have hme : (s.retire.freeHart s.cur).me = (s.retire.freeHart s.cur).hart s.cur := by rw [State.me, hcur]; rfl
  rw [hret, State.me_retire] at hx hmem
  intro t
  rw [show t.me = _ from hme]
  exact ⟨hinst, hwait, hgrant, hx, hmem⟩

theorem exec_tqdone (s : State) : exec .tqdone s = s.whenQuiet (match s.me.inst with
    | some i => .next (s.releaseDone.retire.endInst i true 7)
    | none => .next (s.retire.freeHart s.cur)) := rfl

/-- A packet one of whose slices ended at `tqdone` (R340, R365). -/
def Pkt.sliceDone (p : Pkt) (slice : Nat) : Pkt :=
  { p with done := p.done + 1, good := p.good + 1, lost := p.lost || !true, retired := slice :: p.retired.filter (· != slice) }

theorem endInst_eq {s : State} {i : Nat} {t : Inst} (ht : s.tqe.insts.lookup i = some t) (code : Nat) : s.endInst i true code =
    ((((((s.closeInst i code).modPkt t.pk fun p => p.sliceDone t.slice).checkBars t.pk).checkDone t.pk).kick t.die).kick t.home) := by
  rw [State.endInst, ht]
  rfl

theorem tqe_checkBars (s : State) (pk : Nat) : (s.checkBars pk).tqe = s.tqe := by
  rw [State.checkBars]
  split <;> rfl

theorem checkDone_of_open {s : State} {pk : Nat} {p : Pkt} (hp : s.tqe.pkts.lookup pk = some p) (h : p.done < p.slices) : s.checkDone pk = s := by
  rw [State.checkDone, hp]
  exact if_neg (by simp [Nat.not_le.mpr h])

/-- Where a slice that ended was not the packet's last, its end is counted and the packet stays (R340, R365). -/
theorem endInst_of_open {s : State} {i : Nat} {t : Inst} {p : Pkt} (ht : s.tqe.insts.lookup i = some t) (hh : t.hart = none)
    (hc : s.copies = []) (hp : s.tqe.pkts.lookup t.pk = some p) (hopen : p.done + 1 < p.slices) (code : Nat) :
    let u := s.endInst i true code
    u.tqe.insts.lookup i = none ∧ u.tqe.pkts.lookup t.pk = some (p.sliceDone t.slice) := by
  intro u
  obtain ⟨_, hpk, hin⟩ := unlisted_keeps s i
  have hmod := modPkt_of_lookup (hpk ▸ hp : (s.unlisted i).tqe.pkts.lookup t.pk = some p) fun p => p.sliceDone t.slice
  have hlook : (((s.unlisted i).modPkt t.pk fun p => p.sliceDone t.slice).checkBars t.pk).tqe.pkts.lookup t.pk = some (p.sliceDone t.slice) := by
    rw [tqe_checkBars, hmod]
    exact lookup_tset_self ..
  have hu : u.tqe = ((s.unlisted i).modPkt t.pk fun p => p.sliceDone t.slice).tqe := by
    rw [show u = _ from endInst_eq ht code, closeInst_of_none hc ht hh, checkDone_of_open hlook hopen, tqe_kick, tqe_kick, tqe_checkBars]
  refine ⟨?_, by rw [hu, ← tqe_checkBars _ t.pk]; exact hlook⟩
  rw [hu, hmod]
  exact hin ▸ lookup_tdel_self ..

/-! ### A slice goes back -/

theorem queue_modPart (s : State) (n d : Nat) (f : Part → Part) (k : Nat) : (s.modPart n d f).queue k = s.queue k := rfl

theorem queue_modPkt (s : State) (pk : Nat) (f : Pkt → Pkt) (k : Nat) : (s.modPkt pk f).queue k = s.queue k := by
  rw [State.modPkt]
  split <;> rfl

theorem parts_modPkt (s : State) (pk : Nat) (f : Pkt → Pkt) : (s.modPkt pk f).tqe.parts = s.tqe.parts := by
  rw [State.modPkt]
  split <;> rfl

/-- A yielded slice goes back into the part it came from, with the part's next put sequence (R341, R373). -/
theorem requeue_of_open {s : State} {t : Inst} {p : Pkt} {q : Queue} (hp : s.tqe.pkts.lookup t.pk = some p) (hq : s.queue p.q = some q)
    (hst : q.state < 2) (entry arg : Nat) : let u := s.requeue t entry arg
    (⟨t.pk, (s.qpart p.q t.home).seq, t.pk, 2, t.slice, entry, arg, 0, none⟩ : Entry) ∈ (u.qpart p.q t.home).ents ∧
      (u.qpart p.q t.home).seq = (s.qpart p.q t.home).seq + 1 ∧ u.mem = s.mem := by
  unfold State.requeue
  rw [hp]
  dsimp -zeta only
  rw [hq]
  dsimp -zeta only
  rw [if_neg (Nat.not_le.mpr hst)]
  extract_lets seq v w
  have hw : w.queue p.q = some q ∧ w.qpart p.q t.home = v.qpart p.q t.home ∧ w.mem = s.mem := by
    dsimp only [w]
    split
    · refine ⟨(queue_modPkt ..).trans hq, ?_, (modPkt_keeps v t.pk _).2⟩
      rw [State.qpart, parts_modPkt]
      rfl
    · exact ⟨hq, rfl, rfl⟩
  obtain ⟨hwq, hwp, hwm⟩ := hw
  have hseq : (w.qpart p.q t.home).seq = seq + 1 := by
    rw [hwp, show v.qpart p.q t.home = _ from qpart_modPart_self ..]
  obtain ⟨hmem, humem, _, _⟩ := mem_ents_addEntry hwq t.home ⟨t.pk, seq, t.pk, 2, t.slice, entry, arg, 0, none⟩ (p.img.kind == 1)
  exact ⟨hmem, (addEntry_keeps ..).1.trans hseq, humem.trans hwm⟩

/-! ### ctxsave and the end of a save -/

/-- The address that `ctxsave` and `ctxload` take (R129, R130). -/
def State.ctxVa (s : State) (rs1 : BitVec 5) : Word := if rs1 = 0 then s.me.cs csrCtxbase else s.x rs1

theorem pc_drain (s : State) (h : Nat) : ((s.drain h).hart h).pc = (s.hart h).pc := by
  have q := congrArg (fun x : Hart => x.pc) (drain_keeps s h).1
  exact q

theorem startSave_hart (s : State) (h reason : Nat) (va pc : Word) (vs : Bool) :
    ((s.startSave h reason va pc vs).hart h).pc = (s.hart h).pc := by
  unfold State.startSave
  generalize stagingLoc h = loc
  generalize s.hartRecord h reason vs pc = bs
  rw [State.hart_due, State.hart_modHart_self]
  exact pc_drain s h

theorem startSave_cur (s : State) (h reason : Nat) (va pc : Word) (vs : Bool) : (s.startSave h reason va pc vs).cur = s.cur := by
  unfold State.startSave
  rw [State.due_cur, State.modHart_cur, State.keepOrder_cur, State.poke_cur, State.drain_cur]

theorem stagingLoc_eq (h : Nat) : stagingLoc h = 2 ^ 52 + h / 8 * 2 ^ 20 + 0x54000 + h % 8 * 0x1800 := by
  unfold stagingLoc locBase coreOf
  rfl

theorem keepOrder_mem (s : State) (h : Nat) (va : Word) : (s.keepOrder h va).mem = s.mem := rfl

theorem startSave_mem {s : State} {h : Nat} (hs : (s.hart h).sbuf = []) (reason : Nat) (va pc : Word) (vs : Bool) :
    (s.startSave h reason va pc vs).mem = memPut (2 ^ 52 + h / 8 * 2 ^ 20 + 0x54000 + h % 8 * 0x1800) (s.hartRecord h reason vs pc) s.mem := by
  unfold State.startSave
  rw [drain_of_empty hs, State.due_mem, State.modHart_mem, keepOrder_mem, State.poke_mem, stagingLoc_eq]

theorem exec_ctxsave {s : State} {rs1 : BitVec 5} (hpriv : s.me.priv ≠ .u) (hal : (s.ctxVa rs1).toNat % 4096 = 0)
    (hmode : (s.core s.myCore).save ≠ some false) : exec (.ctxsave rs1) s =
      if !s.me.held && !s.me.parked && !s.me.biq.isEmpty then .next (s.wait .blocks)
      else if s.net.fences.any fun f => sameAgent s.cur s.me.inst f.hart f.inst then .next (s.wait .commands)
      else .next ((s.startSave s.cur 3 (s.ctxVa rs1) (s.me.cs csrSepc) (lgOf s != 0)).wait .commands) := by
  show execCtxsave rs1 s = _
  unfold execCtxsave
  rw [show (if rs1 = 0 then s.me.cs csrCtxbase else s.x rs1) = s.ctxVa rs1 from rfl, if_neg hpriv, if_neg (not_not_intro hal),
    if_neg hmode, bits_eq_fieldOf]
  rfl

theorem saveStarted (s : State) (va : Word) (vs : Bool) :
    let t := (s.startSave s.cur 3 va (s.me.cs csrSepc) vs).wait .commands
    t.me.pc = s.me.pc ∧ t.me.wait = some .commands ∧ .saveComplete s.cur ∈ t.agenda ∧ t.me.save = some ⟨va, 3, vs, s.me.cs csrSepc⟩ := by
  obtain ⟨hsave, hag⟩ := State.startSave_of_cur (s := s) rfl 3 va (s.me.cs csrSepc) vs
  have hpc := startSave_hart s s.cur 3 va (s.me.cs csrSepc) vs
  have hcur : (s.startSave s.cur 3 va (s.me.cs csrSepc) vs).cur = s.cur := startSave_cur ..
  generalize s.startSave s.cur 3 va (s.me.cs csrSepc) vs = u at hsave hag hpc hcur ⊢
  intro t
  have ht : t.me = { u.me with wait := some .commands } := State.me_wait ..
  have hme : u.me = u.hart s.cur := congrArg u.hart hcur
  refine ⟨?_, congrArg Hart.wait ht, hag, (congrArg Hart.save ht).trans hsave⟩
  rw [ht, hme]
  exact hpc

theorem exec_saveComplete {s : State} {h : Nat} {v : Save} (hev : s.ev = .saveComplete h) (hv : (s.hart h).save = some v) :
    (s.saveBusy h = true → exec .saveComplete s = .next (s.due [.saveComplete h])) ∧
    (s.saveBusy h = false → ∀ u, s.writeSlot h v = (u, false) → exec .saveComplete s = .next (u.loseHart h 5 2 v.pc)) ∧
    (s.saveBusy h = false → ∀ u, s.writeSlot h v = (u, true) → v.reason = 3 → exec .saveComplete s =
      .next ((((u.killBlocks h).dropGrant h).dropMatrix h).modHart h fun x =>
        { x with save := none, wait := none, holds := [], pc := x.pc + 4, csr := tset 0xB02 (x.cs 0xB02 + 1) x.csr })) := by
  have hexec : exec .saveComplete s = execSaveComplete s := rfl
  rw [execSaveComplete, hev] at hexec
  dsimp only at hexec
  rw [hv] at hexec
  dsimp only at hexec
  refine ⟨fun hbusy => ?_, fun hbusy u hw => ?_, fun hbusy u hw hr => ?_⟩
  · rw [hexec, if_pos hbusy]
  · rw [hexec, if_neg (Bool.eq_false_iff.mp hbusy), hw]
  · rw [hexec, if_neg (Bool.eq_false_iff.mp hbusy), hw]
    exact if_pos hr

theorem saved (u : State) (h : Nat) : let t := (((u.killBlocks h).dropGrant h).dropMatrix h).modHart h fun x =>
      { x with save := none, wait := none, holds := [], pc := x.pc + 4, csr := tset 0xB02 (x.cs 0xB02 + 1) x.csr }
    (t.hart h).save = none ∧ (t.hart h).wait = none ∧ (t.hart h).grant = [] ∧ (t.hart h).pc = (u.hart h).pc + 4 ∧
      (t.hart h).x = (u.hart h).x ∧ t.mem = u.mem := by
  intro t
  obtain ⟨hmem, _⟩ := (still_killBlocks u h).trans (still_dropGrant (u.killBlocks h) h)
  obtain ⟨hmh, hmmem, _⟩ := dropMatrix_keeps ((u.killBlocks h).dropGrant h) h
  have hhart : (((u.killBlocks h).dropGrant h).dropMatrix h).hart h = ((u.hart h).sansBlocks fun b => b.base + u.entryVl h b).sansGrant := by
    rw [State.hart, hmh, ← State.hart, hart_dropGrant, hart_killBlocks]
  rw [show t.hart h = _ from State.hart_modHart_self .., hhart]
  exact ⟨rfl, rfl, rfl, rfl, rfl, hmmem.trans hmem⟩

/-! ### A context is put back -/

/-- The doubleword of a record at an offset. -/
def Slot.word (v : Slot) (o : Nat) : Word := BitVec.ofNat 64 (field v.bytes o 8)

/-- What a hart has of a restored context (R128). -/
def Hart.Restored (x : Hart) (v : Slot) (g : List Nat) (pc : Word) : Prop :=
  x.pc = pc ∧ x.grant = g ∧ x.biq.length = v.biqn ∧ x.x = ((List.range 32).drop 1).map (fun r => (r, v.word (0x40 + 8 * r))) ∧
    x.f = (List.range 32).map fun r => (r, v.word (0x140 + 8 * r))

/-- A state on the way to a restored context: the hart has its x and f registers and its grant. -/
def State.Restoring (s u : State) (h : Nat) (v : Slot) (g : List Nat) : Prop :=
  ((u.hart h).pc = (s.hart h).pc ∧ (u.hart h).grant = g ∧ (u.hart h).x = ((List.range 32).drop 1).map (fun r => (r, v.word (0x40 + 8 * r))) ∧
    (u.hart h).f = (List.range 32).map fun r => (r, v.word (0x140 + 8 * r))) ∧ u.cur = s.cur ∧ u.ilen = s.ilen ∧ u.net = s.net

theorem State.Restoring.modHart {s u : State} {h : Nat} {v : Slot} {g : List Nat} (hu : s.Restoring u h v g) {f : Hart → Hart}
    (hf : ∀ x, (f x).pc = x.pc ∧ (f x).grant = x.grant ∧ (f x).x = x.x ∧ (f x).f = x.f) : s.Restoring (u.modHart h f) h v g := by
  obtain ⟨⟨hpc, hgrant, hx, hf'⟩, hrest⟩ := hu
  obtain ⟨fpc, fgrant, fx, ff⟩ := hf (u.hart h)
  refine ⟨?_, hrest⟩
  rw [State.hart_modHart_self]
  exact ⟨fpc.trans hpc, fgrant.trans hgrant, fx.trans hx, ff.trans hf'⟩

theorem State.Restoring.setGrant {s t : State} {h : Nat} {v : Slot} (g : List Nat) (hpc : (t.hart h).pc = (s.hart h).pc)
    (hx : (t.hart h).x = ((List.range 32).drop 1).map fun r => (r, v.word (0x40 + 8 * r)))
    (hf : (t.hart h).f = (List.range 32).map fun r => (r, v.word (0x140 + 8 * r)))
    (hkeep : t.cur = s.cur ∧ t.ilen = s.ilen ∧ t.net = s.net) : s.Restoring ((t.setClaims h []).setGrant h g) h v g := by
  obtain ⟨_, _, _, hcur, hilen, hnet⟩ := (still_setClaims t h []).trans (still_setGrant _ h g)
  refine ⟨?_, hcur.trans hkeep.1, hilen.trans hkeep.2.1, hnet.trans hkeep.2.2⟩
  rw [hart_setGrant, hart_setClaims]
  exact ⟨hpc, rfl, hx, hf⟩

/-- The restored context: pc and the rest of the machine stay, the grant and the registers are those of the record (R128). -/
theorem restore_keeps (s : State) (h : Nat) (va : Word) (v : Slot) (vec mat : List Byte) (g : List Nat) :
    ((s.restore h va v vec mat g).hart h).Restored v g (s.hart h).pc ∧ (s.restore h va v vec mat g).cur = s.cur ∧
      (s.restore h va v vec mat g).ilen = s.ilen ∧ (s.restore h va v vec mat g).net = s.net := by
  unfold State.restore State.takeOrder
  extract_lets ci w
  dsimp -zeta only
  extract_lets s1 s2 vlmax s3 s4 s5 q s6 _
  have h1 : (s1.hart h).pc = (s.hart h).pc ∧ (s1.hart h).x = ((List.range 32).drop 1).map (fun r => (r, v.word (0x40 + 8 * r))) ∧
      (s1.hart h).f = (List.range 32).map fun r => (r, v.word (0x140 + 8 * r)) := by
    rw [show s1.hart h = _ from State.hart_modHart_self ..]
    exact ⟨rfl, rfl, rfl⟩
  have h2 : s.Restoring s2 h v g := .setGrant g h1.1 h1.2.1 h1.2.2 ⟨rfl, rfl, rfl⟩
  have h3 : s.Restoring s3 h v g := h2.modHart fun _ => ⟨rfl, rfl, rfl, rfl⟩
  have h4 : s.Restoring s4 h v g := by
    dsimp only [s4]
    split
    · exact h3.modHart fun _ => ⟨rfl, rfl, rfl, rfl⟩
    · exact h3.modHart fun _ => ⟨rfl, rfl, rfl, rfl⟩
  have h5 : s.Restoring s5 h v g := by
    dsimp only [s5]
    split
    · exact h4
    · exact h4
  have hq : q.length = v.biqn := by simp [q]
  obtain ⟨⟨hpc, hgrant, hx, hf⟩, hrest⟩ := h5
  have h6 : (s6.hart h).Restored v g (s.hart h).pc := by
    rw [show s6.hart h = _ from State.hart_modHart_self ..]
    exact ⟨hpc, hgrant, hq, hx, hf⟩
  exact ⟨h6, hrest⟩

theorem Hart.Restored.xr {x : Hart} {v : Slot} {g : List Nat} {pc : Word} (h : x.Restored v g pc) {r : Nat} (h0 : 0 < r) (h32 : r < 32) :
    x.xr r = v.word (0x40 + 8 * r) := by
  obtain ⟨_, _, _, hx, _⟩ := h
  rw [Hart.xr, if_neg (by omega), hx]
  refine tget_map_self 0 (fun r => v.word (0x40 + 8 * r)) _ ?_
  simp only [List.range_succ, List.range_zero]
  simp
  omega

theorem Hart.Restored.fr {x : Hart} {v : Slot} {g : List Nat} {pc : Word} (h : x.Restored v g pc) {r : Nat} (h32 : r < 32) :
    x.fr r = v.word (0x140 + 8 * r) := by
  obtain ⟨_, _, _, _, hf⟩ := h
  rw [Hart.fr, hf]
  exact tget_map_self 0 (fun r => v.word (0x140 + 8 * r)) _ (List.mem_range.mpr h32)

theorem cs_sepc (x : Hart) (pc st n : Word) : ({ x with
    csr := tset 0xB02 n (tset csrSepc pc (tset csrMstatus st x.csr)) } : Hart).cs csrSepc = pc := by
  rw [Hart.cs, tget_tset_ne _ _ _ (by decide), tget_tset_self]

/-- A context that `ctxload` has read, its waits over, is in the hart, and the hart stands behind the instruction (R130). -/
theorem loaded_keeps (y : State) (va : Word) (v : Slot) (vec mat : List Byte) (g : List Nat) :
    let t := ((y.restore y.cur va v vec mat g).modMe fun x =>
      { x with csr := tset csrSepc (BitVec.ofNat 64 v.pc) (tset csrMstatus (x.cs csrMstatus &&& ~~~(0x100 : Word)) x.csr) }).retire
    t.me.pc = y.me.pc + BitVec.ofNat 64 y.ilen ∧ t.me.wait = none ∧ t.me.cs csrSepc = BitVec.ofNat 64 v.pc ∧ t.me.grant = g ∧
      t.me.biq.length = v.biqn ∧ ∀ r : Nat, 0 < r → r < 32 → t.me.xr r = v.word (0x40 + 8 * r) ∧ t.me.fr r = v.word (0x140 + 8 * r) := by
  obtain ⟨hres, hcur, hilen, _⟩ := restore_keeps y y.cur va v vec mat g
  generalize y.restore y.cur va v vec mat g = r at hres hcur hilen ⊢
  have hrme : r.me.Restored v g y.me.pc := by
    rw [State.me, hcur]
    exact hres
  intro t
  have ht : t.me = _ := (State.me_retire _).trans (congrArg (fun x : Hart => { x with
    pc := x.pc + BitVec.ofNat 64 r.ilen, wait := none, timedOut := false, csr := tset 0xB02 (x.cs 0xB02 + 1) x.csr }) (State.me_modMe r _))
  have hpc : r.me.pc = y.me.pc := hrme.1
  obtain ⟨_, hgrant, hbiq, _, _⟩ := id hrme
  rw [ht]
  refine ⟨by rw [← hpc, ← hilen], rfl, cs_sepc .., hgrant, hbiq, fun n h0 h32 => ⟨hrme.xr h0 h32, hrme.fr h32⟩⟩

/-- A context that `ctxload` has read is put into the hart, its local extent first (R130). -/
def State.ctxLoaded (y : State) (h : Nat) (va : Word) (v : Slot) (a : Areas) (g : List Nat) : State :=
  (((y.poke (locBase (coreOf h)) a.loc).restore h va v a.vec a.mat g).modMe fun x =>
    { x with csr := tset csrSepc (BitVec.ofNat 64 v.pc) (tset csrMstatus (x.cs csrMstatus &&& ~~~(0x100 : Word)) x.csr) }).retire

theorem exec_ctxload {s u : State} {rs1 : BitVec 5} {b : List Byte} (hpriv : s.me.priv ≠ .u) (hal : (s.ctxVa rs1).toNat % 4096 = 0)
    (hread : s.readVa (s.slotCx s.cur) (s.ctxVa rs1) 0x1800 = (u, .ok b)) :
    ((slotOf b).valid = false ∨ u.me.biq ≠ [] ∨ u.neverFits s.myCore (slotOf b) = true → exec (.ctxload rs1) s = .next (u.cmdFault 0)) ∧
    ((slotOf b).valid = true → u.me.biq = [] → u.neverFits s.myCore (slotOf b) = false → ∀ w a,
      u.readAreas (s.slotCx s.cur) (s.ctxVa rs1) (slotOf b) = (w, .ok a) →
      (∀ z, w.restoreGrant s.cur (slotOf b) = (z, none) → exec (.ctxload rs1) s = .next (z.wait .grant)) ∧
      ∀ z g, w.restoreGrant s.cur (slotOf b) = (z, some g) → exec (.ctxload rs1) s =
        if (slotOf b).own && !z.matOwn s.cur && !z.matTurn s.cur then .next (z.matWait .engine)
        else .next ((if (slotOf b).own && !z.matOwn s.cur then z.matTake s.cur false else z).ctxLoaded s.cur (s.ctxVa rs1) (slotOf b) a g)) := by
  have hexec : exec (.ctxload rs1) s = execCtxload rs1 s := rfl
  unfold execCtxload at hexec
  rw [show (if rs1 = 0 then s.me.cs csrCtxbase else s.x rs1) = s.ctxVa rs1 from rfl, if_neg hpriv, if_neg (not_not_intro hal)] at hexec
  dsimp only at hexec
  rw [hread] at hexec
  dsimp only at hexec
  refine ⟨fun hbad => ?_, fun hv hq hfit w a ha => ⟨fun z hz => ?_, fun z g hz => ?_⟩⟩
  · rw [hexec, if_pos]
    rcases hbad with hv | hq | hfit
    · simp [hv]
    · simp [hq]
    · simp [hfit]
  all_goals
    rw [hv, hq, hfit] at hexec
    dsimp at hexec
    rw [ha] at hexec
    dsimp only at hexec
    rw [hz] at hexec
    exact hexec

/-- A restore from a hart of the engine's owner, or of one that takes it now. -/
theorem ctxLoaded_keeps {z y : State} {h : Nat} (hy : y.harts = z.harts ∧ y.cur = z.cur ∧ y.ilen = z.ilen) (hcur : z.cur = h) (va : Word) (v : Slot)
    (a : Areas) (g : List Nat) : let t := y.ctxLoaded h va v a g
    t.me.pc = z.me.pc + BitVec.ofNat 64 z.ilen ∧ t.me.wait = none ∧ t.me.cs csrSepc = BitVec.ofNat 64 v.pc ∧ t.me.grant = g ∧
      t.me.biq.length = v.biqn ∧ ∀ r : Nat, 0 < r → r < 32 → t.me.xr r = v.word (0x40 + 8 * r) ∧ t.me.fr r = v.word (0x140 + 8 * r) := by
  obtain ⟨hharts, hc, hilen⟩ := hy
  subst hcur
  intro t
  have hload := loaded_keeps (y.poke (locBase (coreOf z.cur)) a.loc) va v a.vec a.mat g
  have hme : (y.poke (locBase (coreOf z.cur)) a.loc).me = z.me := by
    rw [State.me_poke, State.me, State.me, State.hart, hharts, hc]
    rfl
  rw [show (y.poke (locBase (coreOf z.cur)) a.loc).cur = z.cur from hc, hme,
    show (y.poke (locBase (coreOf z.cur)) a.loc).ilen = z.ilen from hilen] at hload
  exact hload

/-! ### RESUME -/

theorem fencesDone_of_none {s : State} (h : s.net.fences = []) : s.fencesDone.harts = s.harts := by
  rw [State.fencesDone, h]
  rfl

theorem resumed_keeps (z : State) (h : Nat) (va : Word) (v : Slot) (vec mat : List Byte) (g : List Nat) (hf : z.net.fences = []) (t : Inst) :
    let u := ((z.restore h va v vec mat g).modHart h fun x =>
        { x with resume := none, pc := BitVec.ofNat 64 v.pc, priv := .u, wait := none, timedOut := false
                 ctag := t.ctag, ntag := t.ntag, csr := tset csrCtxbase va x.csr }).fencesDone
    (u.hart h).pc = BitVec.ofNat 64 v.pc ∧ (u.hart h).priv = .u ∧ (u.hart h).wait = none ∧ (u.hart h).resume = none ∧ (u.hart h).grant = g ∧
      (u.hart h).cs csrCtxbase = va ∧ ∀ r : Nat, 0 < r → r < 32 → (u.hart h).xr r = v.word (0x40 + 8 * r) := by
  obtain ⟨hres, _, _, hnet⟩ := restore_keeps z h va v vec mat g
  generalize z.restore h va v vec mat g = r at hres hnet ⊢
  intro u
  have hfences : r.net.fences = [] := (congrArg Net.fences hnet).trans hf
  have hu : u.hart h = _ := (congrArg (fun l => tget Hart.init l h) (fencesDone_of_none (s := r.modHart h _) hfences)).trans
    (State.hart_modHart_self ..)
  obtain ⟨_, hgrant, _, _, _⟩ := id hres
  rw [hu]
  exact ⟨rfl, rfl, rfl, rfl, hgrant, tget_tset_self .., fun n h0 h32 => hres.xr h0 h32⟩

theorem locBase_coreOf (h : Nat) : locBase (coreOf h) = 2 ^ 52 + h / 8 * 2 ^ 20 := by
  unfold locBase coreOf
  rfl

/-- A resume whose slot has not been read (R128). -/
theorem exec_resume_read {s u : State} {h i : Nat} {va : Word} {b : List Byte} (hev : s.ev = .resume h)
    (hr : (s.hart h).resume = some ⟨va, none⟩) (hi : (s.hart h).inst = some i) (hread : s.readVa (s.slotCx h) va 0x1800 = (u, .ok b)) :
    ((slotOf b).valid = false → exec .resume s = .next (u.loseHart h 5 2 (BitVec.ofNat 64 (slotOf b).pc))) ∧
    ∀ w a, (slotOf b).valid = true → u.readAreas (s.slotCx h) va (slotOf b) = (w, .ok a) → exec .resume s =
      .next (((((w.writeVa (s.slotCx h) (va + 5) [BitVec.ofNat 8 ((slotOf b).flags / 2 * 2)]).1.poke (2 ^ 52 + h / 8 * 2 ^ 20) a.loc).modHart h
        fun x => { x with resume := some ⟨va, some (b, a.vec, a.mat)⟩ }).resumeRest h i va (slotOf b) a.vec a.mat)) := by
  have hexec : exec .resume s = execResume s := rfl
  unfold execResume at hexec
  rw [hev] at hexec
  dsimp only at hexec
  rw [hr, hi] at hexec
  dsimp only at hexec
  rw [hread] at hexec
  dsimp only at hexec
  refine ⟨fun hv => ?_, fun w a hv ha => ?_⟩
  · rw [hexec, hv]
    rfl
  · rw [hv, ha, locBase_coreOf] at hexec
    exact hexec

/-- A resume whose slot has been read goes on (R128). -/
theorem exec_resume_rest {s : State} {h i : Nat} {va : Word} {b vec mat : List Byte} (hev : s.ev = .resume h)
    (hr : (s.hart h).resume = some ⟨va, some (b, vec, mat)⟩) (hi : (s.hart h).inst = some i) :
    exec .resume s = .next (s.resumeRest h i va (slotOf b) vec mat) := by
  show execResume s = _
  unfold execResume
  rw [hev]
  dsimp only
  rw [hr, hi]

theorem resumeRest_of_fits {s : State} {h : Nat} {v : Slot} (hfit : s.neverFits (coreOf h) v = false) (i : Nat) (va : Word) (vec mat : List Byte) :
    (∀ z, s.restoreGrant h v = (z, none) → s.resumeRest h i va v vec mat = z) ∧
    ∀ z g, s.restoreGrant h v = (z, some g) → s.resumeRest h i va v vec mat = ((z.restore h va v vec mat g).modHart h fun x =>
      { x with resume := none, pc := BitVec.ofNat 64 v.pc, priv := .u, wait := none, timedOut := false
               ctag := ((z.tqe.insts.lookup i).getD default).ctag, ntag := ((z.tqe.insts.lookup i).getD default).ntag
               csr := tset csrCtxbase va x.csr }).fencesDone := by
  refine ⟨fun z hz => ?_, fun z g hz => ?_⟩ <;>
  · rw [State.resumeRest, if_neg (Bool.eq_false_iff.mp hfit), hz]

theorem exec_tqyield {s : State} {rs1 rs2 : BitVec 5} (hal : rs1 = 0 ∨ (s.x rs1).toNat % 2 = 0) : exec (.tqyield rs1 rs2) s =
    s.whenQuiet (match s.me.inst.bind fun i => s.tqe.insts.lookup i with
      | none => .next (s.retire.freeHart s.cur)
      | some t => .next ((s.releaseDone.retire.closeInst t.iid 7).requeue t (if rs1 = 0 then t.entry else (s.x rs1).toNat)
          (if rs2 = 0 then t.arg else (s.x rs2).toNat))) := by
  show execTqyield rs1 rs2 s = _
  rw [execTqyield]
  refine (if_neg ?_).trans rfl
  rintro ⟨h0, h1⟩
  rcases hal with hal | hal
  · exact h0 hal
  · omega

/-- Settles O47, by the equations above: the ends free the hart, the saves and the resumes keep its context. -/
theorem tasksEndAndContextsAreKept : Obligations.TasksEndAndContextsAreKept := by
  unfold Obligations.TasksEndAndContextsAreKept
  refine ⟨?done, ?close, ?slice, ?yield, ?requeue, ?save, ?saved, ?load, ?read, ?rest⟩
  case done =>
    intro s
    refine ⟨fun hq => (exec_tqdone s).trans (whenQuiet_of_blocks hq _), fun hq hc => (exec_tqdone s).trans (whenQuiet_of_commands hq hc _),
      fun hq hc hi => ⟨_, ?_, freed_of_noInst s⟩, fun i hq hc hi => ?_⟩ <;>
    · rw [exec_tqdone, whenQuiet_of_quiet hq hc, hi]
  case close =>
    intro s i code h t ht hh hc u
    obtain ⟨hharts, _, hin⟩ := unlisted_keeps s i
    have hu : u = (s.unlisted i).freeHart h := closeInst_of_hart hc ht hh code
    have hhart : (s.unlisted i).hart h = s.hart h := congrArg (fun l => tget Hart.init l h) hharts
    obtain ⟨⟨hinst, hwait, hgrant, hclaims, hholds, hsave, hpre, _, hbiq⟩, htqe, _, hown, _⟩ := freeHart_freed (s.unlisted i) h
    rw [hhart] at hbiq
    rw [hu]
    refine ⟨?_, hinst, hwait, hgrant, hclaims, hholds, hsave, hpre, hbiq, hown⟩
    rw [htqe, hin]
    exact lookup_tdel_self ..
  case slice =>
    intro s i code t p ht hh hc hp _ hopen u
    obtain ⟨hin, hpk⟩ := endInst_of_open ht hh hc hp hopen code
    exact ⟨hin, _, hpk, rfl, rfl, List.mem_cons_self⟩
  case yield =>
    intro s rs1 rs2
    refine ⟨fun h0 h1 => if_pos ⟨h0, h1⟩, fun hal =>
      ⟨fun hq => ?_, fun hq hc => ?_, fun hq hc hi => ⟨_, ?_, freed_of_noInst s⟩, fun hq hc t ht => ?_⟩⟩
    · exact (exec_tqyield hal).trans (whenQuiet_of_blocks hq _)
    · exact (exec_tqyield hal).trans (whenQuiet_of_commands hq hc _)
    · rw [exec_tqyield hal, whenQuiet_of_quiet hq hc, hi]
      rfl
    · rw [exec_tqyield hal, whenQuiet_of_quiet hq hc, ht]
  case requeue =>
    intro s t p q entry arg hp hq hst u
    obtain ⟨hmem, hseq, hm⟩ := requeue_of_open hp hq hst entry arg
    exact ⟨⟨_, hmem, rfl, rfl, rfl, rfl, rfl, rfl⟩, hseq, hm⟩
  case save =>
    intro s rs1 va idle fenced
    have hidle : (!s.me.held && !s.me.parked && !s.me.biq.isEmpty) = true ↔ ¬ idle := by
      simp only [Bool.and_eq_true, Bool.not_eq_true', List.isEmpty_eq_false_iff, idle, not_or, Bool.not_eq_true, ne_eq]
      exact and_comm
    have hfenced : (s.net.fences.any fun f => sameAgent s.cur s.me.inst f.hart f.inst) = true ↔ fenced := List.any_eq_true
    refine ⟨fun hp => ⟨if_pos hp, if_pos hp⟩, fun hp hal => ⟨(if_neg hp).trans (if_pos hal), (if_neg hp).trans (if_pos hal)⟩,
      fun hp hal hm => (if_neg hp).trans ((if_neg (not_not_intro hal)).trans (if_pos hm)), fun hp hal hm => ?_⟩
    have hexec := exec_ctxsave hp hal hm
    refine ⟨fun hni => ?_, fun hi hf => ?_, fun hi hf => ?_⟩
    · rw [hexec, if_pos (hidle.mpr hni)]
    · rw [hexec, if_neg fun h => hidle.mp h hi, if_pos (hfenced.mpr hf)]
    · obtain ⟨hpc, hwait, hag, hsave⟩ := saveStarted s va (lgOf s != 0)
      refine ⟨_, ?_, hpc, hwait, hag, hsave, fun hs => ?_⟩
      · rw [hexec, if_neg fun h => hidle.mp h hi, if_neg fun h => hf (hfenced.mp h)]
        rfl
      · rw [State.wait_mem]
        exact startSave_mem hs ..
  case saved =>
    intro s u h v hev hv
    obtain ⟨hbusy, hlost, hdone⟩ := exec_saveComplete hev hv
    exact ⟨hbusy, fun hb hw hr => ⟨_, hdone hb u hw hr, saved u h⟩, fun hb hw => hlost hb u hw⟩
  case load =>
    intro s u w z rs1 b a g va v hp hal hread _ _ hzcur
    obtain ⟨hbad, hgood⟩ := exec_ctxload hp hal hread
    refine ⟨hbad, fun hv hq hfit ha => ⟨(hgood hv hq hfit w a ha).1 z, fun hz => ?_⟩⟩
    have hexec := (hgood hv hq hfit w a ha).2 z g hz
    intro mine
    have hmine : z.matOwn s.cur = true ↔ mine := beq_iff_eq
    refine ⟨fun hown hnot hturn => ?_, fun hok => ?_⟩
    · rw [hexec, if_pos]
      have hno := Bool.eq_false_iff.mpr fun h => hnot (hmine.mp h)
      have hown' : (slotOf b).own = true := hown
      rw [hown', hno, hturn]
      rfl
    · have hgo : ((slotOf b).own && !z.matOwn s.cur && !z.matTurn s.cur) = false := by
        rcases hok with hok | hok | hok
        · have hown' : (slotOf b).own = false := hok
          rw [hown']
          rfl
        · rw [hmine.mpr hok]
          simp
        · rw [hok]
          simp
      refine ⟨_, hexec.trans (if_neg (Bool.eq_false_iff.mp hgo)), ctxLoaded_keeps ?_ hzcur ..⟩
      split <;> exact ⟨rfl, rfl, rfl⟩
  case read =>
    intro s u h i va b hev hr hi hread v
    exact exec_resume_read hev hr hi hread
  case rest =>
    intro s z h i va b vec mat g hev hr hi v
    have hexec := exec_resume_rest hev hr hi
    refine ⟨fun hnever => ?_, fun hfit hz => ?_, fun hfit hz hf =>
      ⟨_, ?_, resumed_keeps z h va v vec mat g hf ((z.tqe.insts.lookup i).getD default)⟩⟩
    · rw [hexec, State.resumeRest, if_pos hnever]
      rfl
    · rw [hexec, (resumeRest_of_fits hfit i va vec mat).1 z hz]
    · rw [hexec, (resumeRest_of_fits hfit i va vec mat).2 z g hz]

end Sys2Proof.Machine
end

section
/-! PROOF. Canonical memory: what the shapes of the model's definitions keep. -/

namespace Sys2Proof.Machine

/-- Memory is in its canonical form. -/
def State.Wf (s : State) : Prop := Memory.wf s.mem = true

/-- The state that an outcome goes on with, if it goes on, has canonical memory. -/
def Out.Wf (o : Out) : Prop := ∀ t, o = .next t → t.Wf

/-- The state that a step of a protocol gives, if it gives one, has canonical memory. -/
def State.OptWf (o : Option State) : Prop := ∀ t, o = some t → t.Wf

theorem wf_of_mem {p m ha co cp xl ch rd tq nt ho gu fe mg ag tu cu lz fi gr ev il od fr} (h : Memory.wf m = true) :
    (State.mk p m ha co cp xl ch rd tq nt ho gu fe mg ag tu cu lz fi gr ev il od fr).Wf := h

theorem wf_if {c : Prop} [Decidable c] {s t : State} (hs : s.Wf) (ht : t.Wf) : (if c then s else t).Wf := by
  split
  · exact hs
  · exact ht

theorem wf_ifOut {c : Prop} [Decidable c] {o o' : Out} (h : Out.Wf o) (h' : Out.Wf o') : Out.Wf (if c then o else o') := by
  split
  · exact h
  · exact h'

theorem wf_ifPair {α : Type} {c : Prop} [Decidable c] {p q : State × α} (hp : p.1.Wf) (hq : q.1.Wf) : (if c then p else q).1.Wf := by
  split
  · exact hp
  · exact hq

theorem wf_ifOpt {c : Prop} [Decidable c] {o o' : Option State} (h : State.OptWf o) (h' : State.OptWf o') :
    State.OptWf (if c then o else o') := by
  split
  · exact h
  · exact h'

theorem wf_next {s : State} (h : s.Wf) : Out.Wf (.next s) := fun _ e => Host.Outcome.next.inj e ▸ h

theorem wf_fault (f : Fault) : Out.Wf (.fault f) := fun _ e => nomatch e

theorem wf_refused (r : Refusal) : Out.Wf (.refused r) := fun _ e => nomatch e

theorem wf_none : State.OptWf none := fun _ e => nomatch e

theorem wf_some {s : State} (h : s.Wf) : State.OptWf (some s) := fun _ e => Option.some.inj e ▸ h

theorem wf_map {α : Type} {f : α → State} {o : Option α} (hf : ∀ a, (f a).Wf) : State.OptWf (o.map f) := by
  intro t e
  obtain ⟨a, -, ha⟩ := Option.map_eq_some_iff.mp e
  exact ha ▸ hf a

/-- The state of a pair. -/
theorem wf_fst {α : Type} {p : State × α} {t : State} {r : α} (e : p = (t, r)) (h : p.1.Wf) : t.Wf := by
  rw [e] at h
  exact h

theorem wf_foldl {α : Type} {f : State → α → State} (hf : ∀ t a, t.Wf → (f t a).Wf) {s : State} (h : s.Wf) (l : List α) :
    (l.foldl f s).Wf := by
  induction l generalizing s with
  | nil => exact h
  | cons a l ih => exact ih (hf s a h)

theorem wf_foldlPair {α β : Type} {f : State × β → α → State × β} (hf : ∀ p a, p.1.Wf → (f p a).1.Wf) {p : State × β} (h : p.1.Wf)
    (l : List α) : (l.foldl f p).1.Wf := by
  induction l generalizing p with
  | nil => exact h
  | cons a l ih => exact ih (hf p a h)

end Sys2Proof.Machine
end

section
/-! PROOF. Canonical memory: the operations of Machine/Ops.lean. -/

namespace Sys2Proof.Machine

theorem wf_setHart {s : State} (h : Nat) (x : Hart) (hs : s.Wf) : (s.setHart h x).Wf := by
  unfold State.setHart
  exact wf_of_mem hs

theorem wf_modHart {s : State} (h : Nat) (f : Hart → Hart) (hs : s.Wf) : (s.modHart h f).Wf := by
  unfold State.modHart
  exact wf_setHart _ _ hs

theorem wf_modMe {s : State} (f : Hart → Hart) (hs : s.Wf) : (s.modMe f).Wf := by
  unfold State.modMe
  exact wf_modHart _ _ hs

theorem wf_modCore {s : State} (c : Nat) (f : Core → Core) (hs : s.Wf) : (s.modCore c f).Wf := by
  unfold State.modCore
  exact wf_of_mem hs

theorem wf_wx {s : State} (r : BitVec 5) (v : Word) (hs : s.Wf) : (s.wx r v).Wf := by
  unfold State.wx
  exact wf_modMe _ hs

theorem wf_retire {s : State} (hs : s.Wf) : (s.retire).Wf := by
  unfold State.retire
  exact wf_modMe _ hs

theorem wf_retireX {s : State} (rd : BitVec 5) (v : Word) (hs : s.Wf) : (s.retireX rd v).Wf := by
  unfold State.retireX
  exact wf_retire (wf_wx _ _ hs)

theorem wf_finish {s : State} (h rd : Nat) (v : Word) (hs : s.Wf) : (s.finish h rd v).Wf := by
  unfold State.finish
  exact wf_modHart _ _ hs

theorem wf_wait {s : State} (w : Wait) (hs : s.Wf) : (s.wait w).Wf := by
  unfold State.wait
  exact wf_modMe _ hs

theorem wf_hostEvent {s : State} (code data q extra : Nat) (b : Bool) (hs : s.Wf) : (s.hostEvent code data q extra b).Wf :=
  State.hostEvent_wf _ _ _ _ _ _ hs

theorem wf_hostNote {s : State} (c d e : Nat) (b : Bool) (hs : s.Wf) : (s.hostNote c d e b).Wf := State.hostNote_wf _ _ _ _ _ hs

theorem wf_errorRecord {s : State} (e : Err) (hs : s.Wf) : (s.errorRecord e).Wf := State.errorRecord_wf _ _ hs

theorem wf_askHard {s : State} (h cause : Nat) (hs : s.Wf) : (s.askHard h cause).Wf := by
  unfold State.askHard
  exact wf_if hs (wf_modHart _ _ hs)

theorem wf_quarantine {s : State} (ci why : Nat) (but : Option Nat) (hs : s.Wf) : (s.quarantine ci why but).Wf := State.quarantine_wf _ _ _ _ hs

theorem wf_exceptAt {s : State} (k c : Nat) (v : Word) (hs : s.Wf) : (s.exceptAt k c v).Wf := State.exceptAt_wf _ _ _ _ hs

theorem wf_except {s : State} (c : Nat) (v : Word) (hs : s.Wf) : (s.except c v).Wf := State.except_wf _ _ _ hs

theorem wf_illegal {s : State} (w : BitVec 32) (hs : s.Wf) : (s.illegal w).Wf := by
  unfold State.illegal
  exact wf_except _ _ hs

theorem wf_cmdFault {s : State} (tval : Word) (hs : s.Wf) : (s.cmdFault tval).Wf := by
  unfold State.cmdFault
  exact wf_except _ _ hs

theorem wf_matFault {s : State} (why : Nat) (hs : s.Wf) : (s.matFault why).Wf := by
  unfold State.matFault
  exact wf_except _ _ hs

end Sys2Proof.Machine
end

section
/-! PROOF. Canonical memory: the operations of Machine/Coh.lean. -/

namespace Sys2Proof.Machine

theorem wf_l1dForget {s : State} (n l : Nat) (hs : s.Wf) : (s.l1dForget n l).Wf := by
  unfold State.l1dForget
  exact wf_of_mem hs

end Sys2Proof.Machine
end

section
/-! PROOF. Canonical memory: the operations of Machine/Xlat.lean. -/

namespace Sys2Proof.Machine

theorem wf_tlbInsert {s : State} (e : Tlb) (hs : s.Wf) : (s.tlbInsert e).Wf := by
  unfold State.tlbInsert
  extract_lets old e1 _
  exact wf_of_mem hs

theorem wf_tlbTouch {s : State} (e : Tlb) (hs : s.Wf) : (s.tlbTouch e).Wf := by
  unfold State.tlbTouch
  exact wf_of_mem hs

theorem wf_poisonRecord {s : State} (pa : Nat) (hs : s.Wf) : (s.poisonRecord pa).Wf := by
  unfold State.poisonRecord
  split
  · exact wf_errorRecord _ hs
  · exact wf_errorRecord _ hs
  · exact wf_errorRecord _ hs
  · exact wf_errorRecord _ hs

theorem wf_readVa {s : State} (cx : Cx) (va : Word) (len : Nat) (hs : s.Wf) : (s.readVa cx va len).1.Wf := by
  unfold State.readVa
  split
  next t _ e =>
    have ht : t.Wf := wf_fst e ((State.keeps_xlateAll _ _ _ _ _).2 hs)
    extract_lets u
    have hu : u.Wf := by
      refine wf_foldl ?_ ht _
      intro t1 a ht1
      exact (State.keeps_loadLines _ _ _ _).2 ht1
    split
    · exact wf_poisonRecord _ hu
    · exact hu
  next t _ e =>
    have ht : t.Wf := wf_fst e ((State.keeps_xlateAll _ _ _ _ _).2 hs)
    exact ht

theorem wf_writeVa {s : State} (cx : Cx) (va : Word) (bs : List Byte) (hs : s.Wf) : (s.writeVa cx va bs).1.Wf := by
  unfold State.writeVa
  split
  next t _ e =>
    have ht : t.Wf := wf_fst e ((State.keeps_xlateAll _ _ _ _ _).2 hs)
    refine wf_foldlPair ?_ ht _
    intro p a ht1
    exact (State.keeps_agentWrite _ _ _).2 ht1
  next t _ e =>
    have ht : t.Wf := wf_fst e ((State.keeps_xlateAll _ _ _ _ _).2 hs)
    exact ht

theorem wf_tlbDrop {s : State} (p : Tlb → Bool) (hs : s.Wf) : (s.tlbDrop p).Wf := by
  unfold State.tlbDrop
  exact wf_of_mem hs

end Sys2Proof.Machine
end

section
/-! PROOF. Canonical memory: the operations of Machine/Access.lean. -/

namespace Sys2Proof.Machine

theorem wf_sendPrg {s : State} (who : PrgFor) (pasid : Nat) (pages : List (Nat × Nat)) (hs : s.Wf) : (s.sendPrg who pasid pages).1.Wf := by
  unfold State.sendPrg
  split
  · exact wf_of_mem hs
  · split
    · exact wf_of_mem hs
    · exact wf_of_mem hs

theorem wf_scalarPageFault {s : State} (acc : Acc) (va : Word) (hs : s.Wf) : (s.scalarPageFault acc va).Wf := by
  unfold State.scalarPageFault
  extract_lets h
  split
  · split
    next t _ e =>
      have ht : t.Wf := wf_fst e (wf_sendPrg _ _ _ hs)
      exact wf_wait _ ht
  · exact wf_except _ _ hs

theorem wf_xlateTrap {s : State} (acc : Acc) (va : Word) (t : TR) (hs : s.Wf) : Out.Wf (s.xlateTrap acc va t) := by
  unfold State.xlateTrap
  split
  · exact wf_next (wf_scalarPageFault _ _ hs)
  · exact wf_next (wf_except _ _ hs)
  · exact wf_next (wf_except _ _ hs)
  · exact wf_next (wf_except _ _ hs)
  · exact wf_next hs

theorem wf_linked {s : State} (loc len : Nat) (k : State → Out) (hs : s.Wf) (hk : ∀ t, t.Wf → Out.Wf (k t)) : Out.Wf (s.linked loc len k) := by
  unfold State.linked
  exact wf_ifOut (wf_next (wf_wait _ hs)) (hk _ hs)

theorem wf_toLoc {s : State} (acc : Acc) (va : Word) (len : Nat) (k : State → Nat → Out) (hs : s.Wf) (hk : ∀ t b, t.Wf → Out.Wf (k t b)) :
    Out.Wf (s.toLoc acc va len k) := by
  unfold State.toLoc
  split
  next t _ e =>
    have ht : t.Wf := wf_fst e ((State.keeps_xlateRange _ _ _ _ _).2 hs)
    exact wf_linked _ _ _ ht (fun t1 ht1 => hk _ _ ht1)
  next t _ _ e1 =>
    have ht : t.Wf := wf_fst e1 ((State.keeps_xlateRange _ _ _ _ _).2 hs)
    exact wf_xlateTrap _ _ _ ht

theorem wf_drainOne {s : State} (h : Nat) (hs : s.Wf) : (s.drainOne h).Wf := by
  unfold State.drainOne
  split
  · exact hs
  · refine wf_if hs ?_
    extract_lets u
    have hu : u.Wf := wf_modHart _ _ hs
    exact wf_if hu ((State.keeps_store _ _ _ _).2 hu)

theorem wf_drain {s : State} (h : Nat) (hs : s.Wf) : (s.drain h).Wf := by
  unfold State.drain
  refine wf_foldl ?_ hs _
  intro t a ht
  exact wf_drainOne _ ht

theorem wf_scalarPut {s : State} (loc : Nat) (bs : List Byte) (hs : s.Wf) : (s.scalarPut loc bs).Wf := by
  unfold State.scalarPut
  extract_lets u
  have hu : u.Wf := wf_if hs (wf_drain _ hs)
  exact wf_if (wf_modMe _ hu) ((State.keeps_store _ _ _ _).2 hu)

theorem wf_scalarRead {s : State} (va : Word) (n : Nat) (k : State → List Byte → Out) (hs : s.Wf) (hk : ∀ t b, t.Wf → Out.Wf (k t b)) :
    Out.Wf (s.scalarRead va n k) := by
  unfold State.scalarRead
  refine wf_ifOut (wf_next (wf_except _ _ hs)) ?_
  split
  next t _ e =>
    have ht : t.Wf := wf_fst e ((State.keeps_xlateRange _ _ _ _ _).2 hs)
    refine wf_linked _ _ _ ht ?_
    intro t1 ht1
    extract_lets u
    have hu : u.Wf := (State.keeps_loadLines _ _ _ _).2 ht1
    exact wf_ifOut (wf_next (wf_except _ _ (wf_poisonRecord _ hu))) (hk _ _ hu)
  next t _ e =>
    have ht : t.Wf := wf_fst e ((State.keeps_xlateRange _ _ _ _ _).2 hs)
    split
    next t1 _ e1 =>
      have ht1 : t1.Wf := wf_fst e1 ((State.keeps_free _).2 ht)
      exact hk _ _ ht1
  next t _ _ _ e2 =>
    have ht : t.Wf := wf_fst e2 ((State.keeps_xlateRange _ _ _ _ _).2 hs)
    exact wf_xlateTrap _ _ _ ht

theorem wf_scalarWrite {s : State} (va : Word) (bs : List Byte) (k : State → Out) (hs : s.Wf) (hk : ∀ t, t.Wf → Out.Wf (k t)) :
    Out.Wf (s.scalarWrite va bs k) := by
  unfold State.scalarWrite
  extract_lets n
  refine wf_ifOut (wf_next (wf_except _ _ hs)) ?_
  split
  next t _ e =>
    have ht : t.Wf := wf_fst e ((State.keeps_xlateRange _ _ _ _ _).2 hs)
    exact wf_linked _ _ _ ht (fun t1 ht1 => hk _ (wf_scalarPut _ _ ht1))
  next t _ e =>
    have ht : t.Wf := wf_fst e ((State.keeps_xlateRange _ _ _ _ _).2 hs)
    exact hk _ ht
  next t _ _ _ e2 =>
    have ht : t.Wf := wf_fst e2 ((State.keeps_xlateRange _ _ _ _ _).2 hs)
    exact wf_xlateTrap _ _ _ ht

theorem wf_pruneHolds {s : State} (h : Nat) (hs : s.Wf) : (s.pruneHolds h).Wf := by
  unfold State.pruneHolds
  exact wf_if hs (wf_modHart _ _ hs)

theorem wf_hold {s : State} (pred succ : Nat) (copy : Option Nat) (hs : s.Wf) : (s.hold pred succ copy).Wf := by
  unfold State.hold
  exact wf_modMe _ hs

theorem wf_releaseAt {s : State} (scope : Nat) (hs : s.Wf) : (s.releaseAt scope).Wf := by
  unfold State.releaseAt
  exact wf_if ((State.keeps_pushPosted _ _).2 hs) hs

end Sys2Proof.Machine
end

section
/-! PROOF. Canonical memory: the operations of Machine/Base.lean. -/

namespace Sys2Proof.Machine

theorem wf_jump {s : State} (rd : BitVec 5) (target : Word) (hs : s.Wf) : (s.jump rd target).Wf := by
  unfold State.jump
  extract_lets next
  exact wf_modMe _ (wf_retire (wf_wx _ _ hs))

theorem wf_baseStep (w : BitVec 32) {s : State} (hs : s.Wf) : State.OptWf (baseStep w s) := by
  unfold baseStep
  extract_lets o rd f3 a b f7 imm u pc off off1
  refine wf_ifOpt (wf_some (wf_retireX _ _ hs)) ?_
  refine wf_ifOpt (wf_some (wf_retireX _ _ hs)) ?_
  refine wf_ifOpt (wf_map (fun a1 => wf_retireX _ _ hs)) ?_
  refine wf_ifOpt (wf_map (fun a2 => wf_retireX _ _ hs)) ?_
  refine wf_ifOpt (wf_map (fun a3 => wf_retireX _ _ hs)) ?_
  refine wf_ifOpt (wf_map (fun a4 => wf_retireX _ _ hs)) ?_
  refine wf_ifOpt (wf_some (wf_jump _ _ hs)) ?_
  refine wf_ifOpt (wf_ifOpt (wf_some (wf_jump _ _ hs)) wf_none) ?_
  refine wf_ifOpt (wf_map (fun a5 => wf_if (wf_modMe _ (wf_retire hs)) (wf_retire hs))) ?_
  refine wf_ifOpt (wf_some (wf_except _ _ hs)) ?_
  split
  · split
    · exact wf_some (wf_illegal _ hs)
    · exact wf_ifOpt (wf_some (wf_illegal _ hs)) (wf_some (wf_modMe _ (wf_retire hs)))
    · exact wf_some (wf_modMe _ (wf_retire hs))
  · exact wf_ifOpt (wf_ifOpt (wf_some (wf_modMe _ (wf_retire hs))) (wf_some (wf_illegal _ hs))) wf_none

end Sys2Proof.Machine
end

section
/-! PROOF. Canonical memory: the operations of Machine/Lanes.lean. -/

namespace Sys2Proof.Machine

theorem wf_lanesChanged {s : State} (ci : Nat) (hs : s.Wf) : (s.lanesChanged ci).Wf := by
  unfold State.lanesChanged
  exact (State.keeps_due _ _).2 hs

theorem wf_setClaims {s : State} (h : Nat) (cl : List Nat) (hs : s.Wf) : (s.setClaims h cl).Wf := by
  unfold State.setClaims
  exact wf_if hs (wf_lanesChanged _ (wf_modHart _ _ hs))

theorem wf_setGrant {s : State} (h : Nat) (g : List Nat) (hs : s.Wf) : (s.setGrant h g).Wf := by
  unfold State.setGrant
  extract_lets x
  exact wf_if hs (wf_lanesChanged _ (wf_modHart _ _ hs))

theorem wf_dropGrant {s : State} (h : Nat) (hs : s.Wf) : (s.dropGrant h).Wf := by
  unfold State.dropGrant
  extract_lets u
  have hu : u.Wf := wf_setGrant _ _ (wf_setClaims _ _ hs)
  exact wf_modHart _ _ hu

end Sys2Proof.Machine
end

section
/-! PROOF. Canonical memory: the operations of Machine/Csr.lean. -/

namespace Sys2Proof.Machine

theorem wf_csrGet {s : State} (n : Nat) (hs : s.Wf) : (s.csrGet n).1.Wf := by
  unfold State.csrGet
  extract_lets h st
  refine wf_ifPair hs ?_
  split
  · exact hs
  · exact hs
  · exact hs
  · split
    · split
      next t _ e =>
        have ht : t.Wf := wf_fst e ((State.keeps_free _).2 hs)
        exact ht
    · exact hs
  · exact hs
  · exact hs
  · exact hs
  · exact hs
  · exact hs
  · exact hs
  · exact hs
  · exact hs
  · exact hs
  · exact hs
  · exact hs
  · exact hs
  · exact hs
  · exact hs
  · split
    next t _ e =>
      have ht : t.Wf := wf_fst e ((State.keeps_free _).2 hs)
      exact ht
  · exact hs
  · exact wf_ifPair hs (wf_ifPair hs hs)

theorem wf_csrWrite {s : State} (word : BitVec 32) (n : Nat) (f3 : BitVec 3) (rd src : BitVec 5) (write : State → Word → Option State)
    (hs : s.Wf) (hwrite : ∀ t b, t.Wf → State.OptWf (write t b)) :
    Out.Wf (s.csrWrite word n f3 rd src write) := by
  unfold State.csrWrite
  split
  next t e =>
    have ht : t.Wf := wf_fst e (wf_csrGet _ hs)
    exact wf_next (wf_illegal _ hs)
  next t _ e =>
    have ht : t.Wf := wf_fst e (wf_csrGet _ hs)
    split
    · exact wf_next (wf_illegal _ hs)
    next t1 e1 =>
      have ht1 : t1.Wf := hwrite _ _ ht t1 e1
      exact wf_next (wf_retireX _ _ ht1)

end Sys2Proof.Machine
end

section
/-! PROOF. Canonical memory: the operations of Machine/Scalar.lean. -/

namespace Sys2Proof.Machine

theorem wf_execScalarLoad (fp : Bool) (f3 : BitVec 3) (rd rs1 : BitVec 5) (imm : BitVec 12) {s : State} (hs : s.Wf) :
    Out.Wf (execScalarLoad fp f3 rd rs1 imm s) := by
  unfold execScalarLoad
  extract_lets va
  refine wf_ifOut (wf_next (wf_illegal _ hs)) ?_
  refine wf_scalarRead _ _ _ hs ?_
  intro t b ht
  split
  · extract_lets v
    exact wf_next (wf_retire (wf_modMe _ ht))
  · exact wf_next (wf_retireX _ _ ht)

theorem wf_execScalarStore (fp : Bool) (f3 : BitVec 3) (rs1 rs2 : BitVec 5) (imm : BitVec 12) {s : State} (hs : s.Wf) :
    Out.Wf (execScalarStore fp f3 rs1 rs2 imm s) := by
  unfold execScalarStore
  extract_lets va v
  exact wf_ifOut (wf_next (wf_illegal _ hs)) (wf_scalarWrite _ _ _ hs (fun t ht => wf_next (wf_retire ht)))

theorem wf_execLr (aq rl : Bool) (f3 : BitVec 3) (rd rs1 : BitVec 5) {s : State} (hs : s.Wf) : Out.Wf (execLr aq rl f3 rd rs1 s) := by
  unfold execLr
  extract_lets va n x u
  have hu : u.Wf := wf_releaseAt _ hs
  refine wf_ifOut (wf_next (wf_except _ _ hu)) ?_
  refine wf_toLoc _ _ _ _ hu ?_
  intro t b ht
  refine wf_ifOut (wf_next (wf_except _ _ ht)) ?_
  extract_lets node u1 v
  have hu1 : u1.Wf := wf_if ((State.keeps_loadLines _ _ _ _).2 ht) ((State.keeps_cohOwn _ _ _).2 ht)
  exact wf_ifOut (wf_next (wf_except _ _ (wf_poisonRecord _ hu1))) (wf_next (wf_modMe _ (wf_retireX _ _ hu1)))

theorem wf_execSc (aq rl : Bool) (f3 : BitVec 3) (rd rs1 rs2 : BitVec 5) {s : State} (hs : s.Wf) : Out.Wf (execSc aq rl f3 rd rs1 rs2 s) := by
  unfold execSc
  extract_lets va n x u
  have hu : u.Wf := wf_releaseAt _ hs
  refine wf_ifOut (wf_next (wf_except _ _ hu)) ?_
  refine wf_toLoc _ _ _ _ hu ?_
  intro t b ht
  refine wf_ifOut (wf_next (wf_except _ _ ht)) ?_
  extract_lets node l ok v u1 u2
  have hu1 : u1.Wf := wf_if ((State.keeps_store _ _ _ _).2 ht) ht
  have hu2 : u2.Wf := (State.keeps_answerDelayed _ _ _).2 (wf_modMe _ hu1)
  exact wf_next (wf_retireX _ _ hu2)

theorem wf_amoResult {s : State} (rd : BitVec 5) (n old : Nat) (hs : s.Wf) : (s.amoResult rd n old).Wf := by
  unfold State.amoResult
  exact wf_if (wf_retireX _ _ hs) (wf_if (wf_retireX _ _ hs) (wf_if (wf_retire hs) (wf_retire (wf_wx _ _ (wf_wx _ _ hs)))))

theorem wf_execScalarAmo (f5 : BitVec 5) (aq rl : Bool) (f3 : BitVec 3) (rd rs1 rs2 : BitVec 5) {s : State} (hs : s.Wf) :
    Out.Wf (execScalarAmo f5 aq rl f3 rd rs1 rs2 s) := by
  unfold execScalarAmo
  extract_lets va n x u op x1 y m
  have hu : u.Wf := wf_releaseAt _ hs
  refine wf_ifOut (wf_next (wf_except _ _ hu)) ?_
  refine wf_toLoc _ _ _ _ hu ?_
  intro t b ht
  extract_lets node _
  refine wf_ifOut (wf_next (wf_except _ _ ht)) ?_
  split
  · refine wf_ifOut (wf_next (wf_except _ _ (wf_poisonRecord _ ht))) ?_
    split
    next t1 _ e =>
      have ht1 : t1.Wf := wf_fst e ((State.keeps_atomicAt _ _ _ _ _ _ _).2 ht)
      exact wf_next (wf_amoResult _ _ _ ht1)
  · exact wf_ifOut (wf_next (wf_except _ _ ht)) (wf_next (wf_wait _ ((State.keeps_due _ _).2 (wf_of_mem ht))))

theorem wf_execFence (fm pred succ : BitVec 4) (rd rs1 : BitVec 5) {s : State} (hs : s.Wf) : Out.Wf (execFence fm pred succ rd rs1 s) := by
  unfold execFence
  extract_lets x
  exact wf_next (wf_retire ((State.keeps_pushPosted _ _).2 hs))

theorem wf_execFenceI (imm : BitVec 12) (rd rs1 : BitVec 5) {s : State} (hs : s.Wf) : Out.Wf (execFenceI imm rd rs1 s) := by
  unfold execFenceI
  extract_lets x
  exact wf_next (wf_retire (wf_modCore _ _ hs))

theorem wf_execWfi {s : State} (hs : s.Wf) : Out.Wf (execWfi s) := by
  unfold execWfi
  exact wf_ifOut (wf_next (wf_illegal _ hs)) (wf_next (wf_retire hs))

theorem wf_execCsrRead (csr : BitVec 12) (f3 : BitVec 3) (rd : BitVec 5) {s : State} (hs : s.Wf) : Out.Wf (execCsrRead csr f3 rd s) := by
  unfold execCsrRead
  split
  next t _ e =>
    have ht : t.Wf := wf_fst e (wf_csrGet _ hs)
    exact wf_next (wf_retireX _ _ ht)
  next t e =>
    have ht : t.Wf := wf_fst e (wf_csrGet _ hs)
    exact wf_next (wf_illegal _ hs)

theorem wf_execCsrWrite (csr : BitVec 12) (f3 : BitVec 3) (rd src : BitVec 5) {s : State} (hs : s.Wf) : Out.Wf (execCsrWrite csr f3 rd src s) := by
  unfold execCsrWrite
  exact wf_csrWrite _ _ _ _ _ _ hs (fun t b ht => wf_map (fun a => wf_setHart _ _ ht))

theorem wf_execVcfgWrite (f3 : BitVec 3) (rd src : BitVec 5) {s : State} (hs : s.Wf) : Out.Wf (execVcfgWrite f3 rd src s) := by
  unfold execVcfgWrite
  refine wf_csrWrite _ _ _ _ _ _ hs ?_
  intro t b ht
  extract_lets old
  exact wf_ifOpt (wf_some (wf_modMe _ ht)) wf_none

theorem wf_execLanemapWrite (f3 : BitVec 3) (rd src : BitVec 5) {s : State} (hs : s.Wf) : Out.Wf (execLanemapWrite f3 rd src s) := by
  unfold execLanemapWrite
  exact wf_csrWrite _ _ _ _ _ _ hs (fun t b ht => wf_ifOpt (wf_some (wf_modMe _ ht)) wf_none)

theorem wf_execMcfgWrite (f3 : BitVec 3) (rd src : BitVec 5) {s : State} (hs : s.Wf) : Out.Wf (execMcfgWrite f3 rd src s) := by
  unfold execMcfgWrite
  exact wf_csrWrite _ _ _ _ _ _ hs (fun t b ht => wf_ifOpt (wf_some (wf_modMe _ ht)) wf_none)

theorem wf_execSatpWrite (f3 : BitVec 3) (rd src : BitVec 5) {s : State} (hs : s.Wf) : Out.Wf (execSatpWrite f3 rd src s) := by
  unfold execSatpWrite
  split
  next t e =>
    have ht : t.Wf := wf_fst e (wf_csrGet _ hs)
    exact wf_next (wf_illegal _ hs)
  next t _ e =>
    have ht : t.Wf := wf_fst e (wf_csrGet _ hs)
    refine wf_ifOut (wf_next (wf_wait _ hs)) ?_
    refine wf_csrWrite _ _ _ _ _ _ hs ?_
    intro t1 b ht1
    extract_lets mode
    exact wf_some (wf_if (wf_modMe _ ht1) ht1)

theorem wf_replayUsers {s : State} (ci : Nat) (us : List (Nat × Nat)) (hs : s.Wf) : (s.replayUsers ci us).Wf := by
  unfold State.replayUsers
  refine wf_if hs ?_
  refine wf_foldl ?_ hs _
  intro t a ht
  extract_lets q
  split
  · exact wf_modHart _ _ ht
  · exact ht

theorem wf_coreDrop {s : State} (ci : Nat) (p : Tlb → Bool) (hs : s.Wf) : (s.coreDrop ci p).Wf := by
  unfold State.coreDrop
  extract_lets hit
  exact wf_replayUsers _ _ (wf_tlbDrop _ hs)

theorem wf_execSfenceVma (rs1 rs2 : BitVec 5) {s : State} (hs : s.Wf) : Out.Wf (execSfenceVma rs1 rs2 s) := by
  unfold execSfenceVma
  extract_lets h va sel
  exact wf_ifOut (wf_next (wf_illegal _ hs)) (wf_ifOut (wf_next (wf_wait _ hs)) (wf_next (wf_retire (wf_coreDrop _ _ hs))))

theorem wf_execIllegalInstruction (word : BitVec 32) {s : State} (hs : s.Wf) : Out.Wf (execIllegalInstruction word s) := by
  unfold execIllegalInstruction
  exact wf_next (wf_illegal _ hs)

theorem wf_abandon {s : State} (h : Nat) (hs : s.Wf) : (s.abandon h).Wf := by
  unfold State.abandon
  split
  · exact hs
  · refine wf_if hs ?_
    extract_lets u _
    have hu : u.Wf := wf_modHart _ _ hs
    split
    · exact wf_modCore _ _ hu
    · exact wf_modCore _ _ hu
    · exact wf_of_mem hu
    · exact hu

theorem wf_execInterrupt {s : State} (hs : s.Wf) : Out.Wf (execInterrupt s) := by
  unfold execInterrupt
  split
  · extract_lets u
    have hu : u.Wf := wf_modHart _ _ hs
    exact wf_next (wf_if (wf_abandon _ hu) hu)
  · exact wf_next hs

end Sys2Proof.Machine
end

section
/-! PROOF. Canonical memory: the operations of Machine/Biq.lean. -/

namespace Sys2Proof.Machine

theorem wf_pushEntry {s : State} (b : Biq) (hs : s.Wf) : (s.pushEntry b).Wf := by
  unfold State.pushEntry
  exact wf_modMe _ (wf_of_mem hs)

theorem wf_releaseHeld {s : State} (h : Nat) (clear : Bool) (hs : s.Wf) : (s.releaseHeld h clear).Wf := by
  unfold State.releaseHeld
  exact wf_modHart _ _ hs

theorem wf_freeHolds {s : State} (h : Nat) (keep : List Nat) (hs : s.Wf) : (s.freeHolds h keep).Wf := by
  unfold State.freeHolds
  extract_lets p _
  exact wf_of_mem hs

theorem wf_deliverFault {s : State} (h : Nat) (hs : s.Wf) : (s.deliverFault h).Wf := by
  unfold State.deliverFault
  split
  · extract_lets u
    have hu : u.Wf := wf_abandon _ hs
    exact wf_modHart _ _ hu
  · exact hs

end Sys2Proof.Machine
end

section
/-! PROOF. Canonical memory: the operations of Machine/Operands.lean. -/

namespace Sys2Proof.Machine

theorem wf_setEntry {s : State} (h i : Nat) (b : Biq) (hs : s.Wf) : (s.setEntry h i b).Wf := by
  unfold State.setEntry
  exact wf_modHart _ _ hs

theorem wf_fireWith {s : State} (whole : Biq → Nat → Bool) (pm : BitVec 2) (need : List Nat) (k : Nat → Nat → Nat → Biq → List Nat → Out)
    (hs : s.Wf) (hk : ∀ a b c d e, Out.Wf (k a b c d e)) :
    Out.Wf (s.fireWith whole pm need k) := by
  unfold State.fireWith
  split
  · split
    · exact wf_next hs
    · extract_lets all g
      exact wf_ifOut (hk _ _ _ _ _) (wf_next hs)

theorem wf_fireElem {s : State} (pm : BitVec 2) (t0 t1 : Nat) (x : Bool) (need : List Nat) (prd : Bool)
    (body : Nat → (Nat → Nat → Option Nat) → Nat → Option (Nat × Nat)) (hs : s.Wf) :
    Out.Wf (s.fireElem pm t0 t1 x need prd body) := by
  unfold State.fireElem
  refine wf_fireWith _ _ _ _ hs ?_
  intro a b c d e
  extract_lets vector w run res tok all
  exact wf_next (wf_setEntry _ _ _ hs)

theorem wf_fireA {s : State} (a : AForm) (need : List Nat) (prd : Bool) (body : Nat → (Nat → Nat → Option Nat) → Nat → Option (Nat × Nat))
    (hs : s.Wf) :
    Out.Wf (s.fireA a need prd body) := by
  unfold State.fireA
  exact wf_fireElem _ _ _ _ _ _ _ hs

theorem wf_fireColl {s : State} (a : AForm) (need : List Nat) (body : Nat → Nat → Biq → Nat → Tok × Nat) (hs : s.Wf) :
    Out.Wf (s.fireColl a need body) := by
  unfold State.fireColl
  refine wf_fireWith _ _ _ _ hs ?_
  intro a1 b c d e
  split
  · exact wf_next (wf_setEntry _ _ _ hs)

end Sys2Proof.Machine
end

section
/-! PROOF. Canonical memory: the operations of Machine/Int.lean. -/

namespace Sys2Proof.Machine

theorem wf_execAdd (a : AForm) {s : State} (hs : s.Wf) : Out.Wf (execAdd a s) := by
  unfold execAdd
  exact wf_fireA _ _ _ _ hs

theorem wf_execSub (a : AForm) {s : State} (hs : s.Wf) : Out.Wf (execSub a s) := by
  unfold execSub
  exact wf_fireA _ _ _ _ hs

theorem wf_execMul (a : AForm) {s : State} (hs : s.Wf) : Out.Wf (execMul a s) := by
  unfold execMul
  exact wf_fireA _ _ _ _ hs

theorem wf_execMulh (a : AForm) {s : State} (hs : s.Wf) : Out.Wf (execMulh a s) := by
  unfold execMulh
  exact wf_fireA _ _ _ _ hs

theorem wf_execDiv (a : AForm) {s : State} (hs : s.Wf) : Out.Wf (execDiv a s) := by
  unfold execDiv
  exact wf_fireA _ _ _ _ hs

theorem wf_execRem (a : AForm) {s : State} (hs : s.Wf) : Out.Wf (execRem a s) := by
  unfold execRem
  exact wf_fireA _ _ _ _ hs

theorem wf_execAnd (a : AForm) {s : State} (hs : s.Wf) : Out.Wf (execAnd a s) := by
  unfold execAnd
  exact wf_fireA _ _ _ _ hs

theorem wf_execOr (a : AForm) {s : State} (hs : s.Wf) : Out.Wf (execOr a s) := by
  unfold execOr
  exact wf_fireA _ _ _ _ hs

theorem wf_execXor (a : AForm) {s : State} (hs : s.Wf) : Out.Wf (execXor a s) := by
  unfold execXor
  exact wf_fireA _ _ _ _ hs

theorem wf_execAndn (a : AForm) {s : State} (hs : s.Wf) : Out.Wf (execAndn a s) := by
  unfold execAndn
  exact wf_fireA _ _ _ _ hs

theorem wf_execSll (a : AForm) {s : State} (hs : s.Wf) : Out.Wf (execSll a s) := by
  unfold execSll
  exact wf_fireA _ _ _ _ hs

theorem wf_execSrl (a : AForm) {s : State} (hs : s.Wf) : Out.Wf (execSrl a s) := by
  unfold execSrl
  exact wf_fireA _ _ _ _ hs

theorem wf_execSra (a : AForm) {s : State} (hs : s.Wf) : Out.Wf (execSra a s) := by
  unfold execSra
  exact wf_fireA _ _ _ _ hs

theorem wf_execRot (a : AForm) {s : State} (hs : s.Wf) : Out.Wf (execRot a s) := by
  unfold execRot
  exact wf_fireA _ _ _ _ hs

theorem wf_execMin (a : AForm) {s : State} (hs : s.Wf) : Out.Wf (execMin a s) := by
  unfold execMin
  exact wf_fireA _ _ _ _ hs

theorem wf_execMax (a : AForm) {s : State} (hs : s.Wf) : Out.Wf (execMax a s) := by
  unfold execMax
  exact wf_fireA _ _ _ _ hs

theorem wf_execAbs (a : AForm) {s : State} (hs : s.Wf) : Out.Wf (execAbs a s) := by
  unfold execAbs
  exact wf_fireA _ _ _ _ hs

theorem wf_execClz (a : AForm) {s : State} (hs : s.Wf) : Out.Wf (execClz a s) := by
  unfold execClz
  exact wf_fireA _ _ _ _ hs

theorem wf_execCtz (a : AForm) {s : State} (hs : s.Wf) : Out.Wf (execCtz a s) := by
  unfold execCtz
  exact wf_fireA _ _ _ _ hs

theorem wf_execPopc (a : AForm) {s : State} (hs : s.Wf) : Out.Wf (execPopc a s) := by
  unfold execPopc
  exact wf_fireA _ _ _ _ hs

theorem wf_execCmp (a : AForm) {s : State} (hs : s.Wf) : Out.Wf (execCmp a s) := by
  unfold execCmp
  exact wf_fireA _ _ _ _ hs

theorem wf_execBfx (a : AForm) {s : State} (hs : s.Wf) : Out.Wf (execBfx a s) := by
  unfold execBfx
  exact wf_fireA _ _ _ _ hs

theorem wf_execBfi (a : AForm) {s : State} (hs : s.Wf) : Out.Wf (execBfi a s) := by
  unfold execBfi
  exact wf_fireA _ _ _ _ hs

theorem wf_execDot4 (a : AForm) {s : State} (hs : s.Wf) : Out.Wf (execDot4 a s) := by
  unfold execDot4
  exact wf_fireA _ _ _ _ hs

theorem wf_fireI {s : State} (a : IForm) (prd : Bool) (f : Nat → Nat → Nat × Nat) (hs : s.Wf) : Out.Wf (s.fireI a prd f) := by
  unfold State.fireI
  exact wf_fireElem _ _ _ _ _ _ _ hs

theorem wf_execAddi (a : IForm) {s : State} (hs : s.Wf) : Out.Wf (execAddi a s) := by
  unfold execAddi
  exact wf_fireI _ _ _ hs

theorem wf_execAndi (a : IForm) {s : State} (hs : s.Wf) : Out.Wf (execAndi a s) := by
  unfold execAndi
  exact wf_fireI _ _ _ hs

theorem wf_execOri (a : IForm) {s : State} (hs : s.Wf) : Out.Wf (execOri a s) := by
  unfold execOri
  exact wf_fireI _ _ _ hs

theorem wf_execXori (a : IForm) {s : State} (hs : s.Wf) : Out.Wf (execXori a s) := by
  unfold execXori
  exact wf_fireI _ _ _ hs

theorem wf_execSlli (a : IForm) {s : State} (hs : s.Wf) : Out.Wf (execSlli a s) := by
  unfold execSlli
  exact wf_fireI _ _ _ hs

theorem wf_execSrli (a : IForm) {s : State} (hs : s.Wf) : Out.Wf (execSrli a s) := by
  unfold execSrli
  exact wf_fireI _ _ _ hs

theorem wf_execSrai (a : IForm) {s : State} (hs : s.Wf) : Out.Wf (execSrai a s) := by
  unfold execSrai
  exact wf_fireI _ _ _ hs

theorem wf_execMuli (a : IForm) {s : State} (hs : s.Wf) : Out.Wf (execMuli a s) := by
  unfold execMuli
  exact wf_fireI _ _ _ hs

theorem wf_execCmpi (a : IForm) {s : State} (hs : s.Wf) : Out.Wf (execCmpi a s) := by
  unfold execCmpi
  exact wf_fireI _ _ _ hs

theorem wf_execRedsum (a : AForm) {s : State} (hs : s.Wf) : Out.Wf (execRedsum a s) := by
  unfold execRedsum
  exact wf_fireColl _ _ _ hs

theorem wf_execRedmin (a : AForm) {s : State} (hs : s.Wf) : Out.Wf (execRedmin a s) := by
  unfold execRedmin
  exact wf_fireColl _ _ _ hs

theorem wf_execRedmax (a : AForm) {s : State} (hs : s.Wf) : Out.Wf (execRedmax a s) := by
  unfold execRedmax
  exact wf_fireColl _ _ _ hs

theorem wf_execRedand (a : AForm) {s : State} (hs : s.Wf) : Out.Wf (execRedand a s) := by
  unfold execRedand
  exact wf_fireColl _ _ _ hs

theorem wf_execRedor (a : AForm) {s : State} (hs : s.Wf) : Out.Wf (execRedor a s) := by
  unfold execRedor
  exact wf_fireColl _ _ _ hs

theorem wf_execPfx (a : AForm) {s : State} (hs : s.Wf) : Out.Wf (execPfx a s) := by
  unfold execPfx
  exact wf_fireColl _ _ _ hs

theorem wf_execVconf (a : AForm) {s : State} (hs : s.Wf) : Out.Wf (execVconf a s) := by
  unfold execVconf
  exact wf_fireColl _ _ _ hs

theorem wf_execCmpr (a : AForm) {s : State} (hs : s.Wf) : Out.Wf (execCmpr a s) := by
  unfold execCmpr
  exact wf_fireColl _ _ _ hs

theorem wf_execPerm (a : AForm) {s : State} (hs : s.Wf) : Out.Wf (execPerm a s) := by
  unfold execPerm
  exact wf_fireColl _ _ _ hs

theorem wf_execSlide (a : AForm) {s : State} (hs : s.Wf) : Out.Wf (execSlide a s) := by
  unfold execSlide
  exact wf_fireColl _ _ _ hs

theorem wf_execBcast (a : AForm) {s : State} (hs : s.Wf) : Out.Wf (execBcast a s) := by
  unfold execBcast
  exact wf_fireColl _ _ _ hs

end Sys2Proof.Machine
end

section
/-! PROOF. Canonical memory: the operations of Machine/Move.lean. -/

namespace Sys2Proof.Machine

theorem wf_fireR {s : State} (r : RForm) (uni : Bool) (ready : Nat → Nat → Biq → List Nat → Bool)
    (tok : Nat → Nat → Nat → Biq → List Nat → Tok)
    (hs : s.Wf) :
    Out.Wf (s.fireR r uni ready tok) := by
  unfold State.fireR
  refine wf_fireWith _ _ _ _ hs ?_
  intro a b c d e
  split
  · extract_lets t all
    exact wf_next (wf_setEntry _ _ _ hs)
  · exact wf_next hs

theorem wf_execVget (r : RForm) {s : State} (hs : s.Wf) : Out.Wf (execVget r s) := by
  unfold execVget
  exact wf_fireR _ _ _ _ hs

theorem wf_execPget (r : RForm) {s : State} (hs : s.Wf) : Out.Wf (execPget r s) := by
  unfold execPget
  exact wf_fireR _ _ _ _ hs

theorem wf_execXget (r : RForm) {s : State} (hs : s.Wf) : Out.Wf (execXget r s) := by
  unfold execXget
  exact wf_fireR _ _ _ _ hs

theorem wf_execSget (r : RForm) {s : State} (hs : s.Wf) : Out.Wf (execSget r s) := by
  unfold execSget
  exact wf_fireR _ _ _ _ hs

theorem wf_firePut {s : State} (r : RForm) (uni : Bool) (stage : Nat → Nat → Biq → List Nat → List Stage) (hs : s.Wf) :
    Out.Wf (s.firePut r uni stage) := by
  unfold State.firePut
  exact wf_fireWith _ _ _ _ hs (fun a b c d e => wf_next (wf_setEntry _ _ _ hs))

theorem wf_execVput (r : RForm) {s : State} (hs : s.Wf) : Out.Wf (execVput r s) := by
  unfold execVput
  exact wf_firePut _ _ _ hs

theorem wf_execPput (r : RForm) {s : State} (hs : s.Wf) : Out.Wf (execPput r s) := by
  unfold execPput
  exact wf_firePut _ _ _ hs

theorem wf_execXput (r : RForm) {s : State} (hs : s.Wf) : Out.Wf (execXput r s) := by
  unfold execXput
  exact wf_firePut _ _ _ hs

theorem wf_execConst (r : RForm) (lit : BitVec 32) {s : State} (hs : s.Wf) : Out.Wf (execConst r lit s) := by
  unfold execConst
  exact wf_fireR _ _ _ _ hs

theorem wf_execIota (r : RForm) (lit : BitVec 32) {s : State} (hs : s.Wf) : Out.Wf (execIota r lit s) := by
  unfold execIota
  exact wf_fireR _ _ _ _ hs

theorem wf_execMov (a : AForm) {s : State} (hs : s.Wf) : Out.Wf (execMov a s) := by
  unfold execMov
  exact wf_fireA _ _ _ _ hs

theorem wf_execSel (a : AForm) {s : State} (hs : s.Wf) : Out.Wf (execSel a s) := by
  unfold execSel
  exact wf_fireA _ _ _ _ hs

theorem wf_execNul (a : AForm) {s : State} (hs : s.Wf) : Out.Wf (execNul a s) := by
  unfold execNul
  exact wf_ifOut (wf_fireA _ _ _ _ hs) (wf_fireA _ _ _ _ hs)

theorem wf_execPand (a : AForm) {s : State} (hs : s.Wf) : Out.Wf (execPand a s) := by
  unfold execPand
  exact wf_fireA _ _ _ _ hs

theorem wf_execPor (a : AForm) {s : State} (hs : s.Wf) : Out.Wf (execPor a s) := by
  unfold execPor
  exact wf_fireA _ _ _ _ hs

theorem wf_execPxor (a : AForm) {s : State} (hs : s.Wf) : Out.Wf (execPxor a s) := by
  unfold execPxor
  exact wf_fireA _ _ _ _ hs

theorem wf_execPnot (a : AForm) {s : State} (hs : s.Wf) : Out.Wf (execPnot a s) := by
  unfold execPnot
  exact wf_fireA _ _ _ _ hs

theorem wf_execPandn (a : AForm) {s : State} (hs : s.Wf) : Out.Wf (execPandn a s) := by
  unfold execPandn
  exact wf_fireA _ _ _ _ hs

theorem wf_execPcnt (a : AForm) {s : State} (hs : s.Wf) : Out.Wf (execPcnt a s) := by
  unfold execPcnt
  exact wf_fireColl _ _ _ hs

theorem wf_execPffs (a : AForm) {s : State} (hs : s.Wf) : Out.Wf (execPffs a s) := by
  unfold execPffs
  exact wf_fireColl _ _ _ hs

end Sys2Proof.Machine
end

section
/-! PROOF. Canonical memory: the operations of Machine/FloatOps.lean. -/

namespace Sys2Proof.Machine

theorem wf_execFadd (a : AForm) {s : State} (hs : s.Wf) : Out.Wf (execFadd a s) := by
  unfold execFadd
  extract_lets env
  exact wf_fireA _ _ _ _ hs

theorem wf_execFsub (a : AForm) {s : State} (hs : s.Wf) : Out.Wf (execFsub a s) := by
  unfold execFsub
  extract_lets env
  exact wf_fireA _ _ _ _ hs

theorem wf_execFmul (a : AForm) {s : State} (hs : s.Wf) : Out.Wf (execFmul a s) := by
  unfold execFmul
  exact wf_fireA _ _ _ _ hs

theorem wf_execFdiv (a : AForm) {s : State} (hs : s.Wf) : Out.Wf (execFdiv a s) := by
  unfold execFdiv
  exact wf_fireA _ _ _ _ hs

theorem wf_execFsqrt (a : AForm) {s : State} (hs : s.Wf) : Out.Wf (execFsqrt a s) := by
  unfold execFsqrt
  exact wf_fireA _ _ _ _ hs

theorem wf_execFma (a : AForm) {s : State} (hs : s.Wf) : Out.Wf (execFma a s) := by
  unfold execFma
  exact wf_fireA _ _ _ _ hs

theorem wf_execFmin (a : AForm) {s : State} (hs : s.Wf) : Out.Wf (execFmin a s) := by
  unfold execFmin
  exact wf_fireA _ _ _ _ hs

theorem wf_execFmax (a : AForm) {s : State} (hs : s.Wf) : Out.Wf (execFmax a s) := by
  unfold execFmax
  exact wf_fireA _ _ _ _ hs

theorem wf_execFsgnj (a : AForm) {s : State} (hs : s.Wf) : Out.Wf (execFsgnj a s) := by
  unfold execFsgnj
  exact wf_fireA _ _ _ _ hs

theorem wf_execFcmp (a : AForm) {s : State} (hs : s.Wf) : Out.Wf (execFcmp a s) := by
  unfold execFcmp
  exact wf_fireA _ _ _ _ hs

theorem wf_execFclass (a : AForm) {s : State} (hs : s.Wf) : Out.Wf (execFclass a s) := by
  unfold execFclass
  exact wf_fireA _ _ _ _ hs

theorem wf_execFrcp (a : AForm) {s : State} (hs : s.Wf) : Out.Wf (execFrcp a s) := by
  unfold execFrcp
  exact wf_fireA _ _ _ _ hs

theorem wf_execFrsq (a : AForm) {s : State} (hs : s.Wf) : Out.Wf (execFrsq a s) := by
  unfold execFrsq
  exact wf_fireA _ _ _ _ hs

theorem wf_execFex2 (a : AForm) {s : State} (hs : s.Wf) : Out.Wf (execFex2 a s) := by
  unfold execFex2
  exact wf_fireA _ _ _ _ hs

theorem wf_execFlg2 (a : AForm) {s : State} (hs : s.Wf) : Out.Wf (execFlg2 a s) := by
  unfold execFlg2
  exact wf_fireA _ _ _ _ hs

theorem wf_execFsin (a : AForm) {s : State} (hs : s.Wf) : Out.Wf (execFsin a s) := by
  unfold execFsin
  exact wf_fireA _ _ _ _ hs

theorem wf_execFcos (a : AForm) {s : State} (hs : s.Wf) : Out.Wf (execFcos a s) := by
  unfold execFcos
  exact wf_fireA _ _ _ _ hs

theorem wf_execFdot2 (a : AForm) {s : State} (hs : s.Wf) : Out.Wf (execFdot2 a s) := by
  unfold execFdot2
  exact wf_fireA _ _ _ _ hs

theorem wf_execFredsum (a : AForm) {s : State} (hs : s.Wf) : Out.Wf (execFredsum a s) := by
  unfold execFredsum
  exact wf_fireColl _ _ _ hs

theorem wf_execFredmm (a : AForm) {s : State} (hs : s.Wf) : Out.Wf (execFredmm a s) := by
  unfold execFredmm
  exact wf_fireColl _ _ _ hs

theorem wf_execFwid (a : AForm) {s : State} (hs : s.Wf) : Out.Wf (execFwid a s) := by
  unfold execFwid
  extract_lets env
  exact wf_fireA _ _ _ _ hs

theorem wf_execFnar (a : AForm) {s : State} (hs : s.Wf) : Out.Wf (execFnar a s) := by
  unfold execFnar
  extract_lets env
  exact wf_fireA _ _ _ _ hs

theorem wf_execFcvtd (a : AForm) {s : State} (hs : s.Wf) : Out.Wf (execFcvtd a s) := by
  unfold execFcvtd
  exact wf_fireA _ _ _ _ hs

theorem wf_execF2i (a : AForm) {s : State} (hs : s.Wf) : Out.Wf (execF2i a s) := by
  unfold execF2i
  exact wf_fireA _ _ _ _ hs

theorem wf_execI2f (a : AForm) {s : State} (hs : s.Wf) : Out.Wf (execI2f a s) := by
  unfold execI2f
  extract_lets sew
  exact wf_fireA _ _ _ _ hs

theorem wf_execMxscl (a : AForm) {s : State} (hs : s.Wf) : Out.Wf (execMxscl a s) := by
  unfold execMxscl
  exact wf_fireColl _ _ _ hs

theorem wf_execMxcvt (a : AForm) {s : State} (hs : s.Wf) : Out.Wf (execMxcvt a s) := by
  unfold execMxcvt
  refine wf_ifOut (wf_next hs) ?_
  extract_lets f
  exact wf_fireA _ _ _ _ hs

theorem wf_execMxexp (a : AForm) {s : State} (hs : s.Wf) : Out.Wf (execMxexp a s) := by
  unfold execMxexp
  refine wf_ifOut (wf_next hs) ?_
  extract_lets f
  exact wf_fireA _ _ _ _ hs

end Sys2Proof.Machine
end

section
/-! PROOF. Canonical memory: the operations of Machine/Round.lean. -/

namespace Sys2Proof.Machine

theorem wf_modRegion {s : State} (rid : Nat) (f : Region → Region) (hs : s.Wf) : (s.modRegion rid f).Wf := by
  unfold State.modRegion
  split
  · exact wf_of_mem hs
  · exact hs

theorem wf_takeCopy {s : State} (n l rs : Nat) (hs : s.Wf) : (s.takeCopy n l rs).Wf := by
  unfold State.takeCopy
  exact (State.keeps_l1vTouch _ _ _).2 (wf_of_mem hs)

theorem wf_voidCopies {s : State} (g : Region) (d : Nat) (hs : s.Wf) : (s.voidCopies g d).Wf := by
  unfold State.voidCopies
  exact wf_of_mem hs

theorem wf_wakeStall {s : State} (n l : Nat) (hs : s.Wf) : (s.wakeStall n l).Wf := by
  unfold State.wakeStall
  exact wf_of_mem hs

theorem wf_tellLate {s : State} (r : Refetch) (hs : s.Wf) : (s.tellLate r).Wf := by
  unfold State.tellLate
  exact wf_modHart _ _ hs

theorem wf_answerRefetch {s : State} (r : Refetch) (late : Bool) (hs : s.Wf) : (s.answerRefetch r late).Wf := by
  unfold State.answerRefetch
  split
  · extract_lets u
    have hu : u.Wf := wf_takeCopy _ _ _ hs
    exact wf_wakeStall _ _ (wf_if (wf_tellLate _ hu) hu)
  · exact wf_wakeStall _ _ hs

theorem wf_refetchArrives {s : State} (r : Refetch) (hs : s.Wf) : (s.refetchArrives r).Wf := by
  unfold State.refetchArrives
  split
  · exact wf_if (wf_answerRefetch _ _ hs) (wf_if hs (wf_of_mem hs))
  · exact hs

theorem wf_unpark {s : State} (r : Refetch) (hs : s.Wf) : (s.unpark r).Wf := by
  unfold State.unpark
  exact wf_of_mem hs

theorem wf_answerParked (slice n : Nat) {s : State} (hs : s.Wf) : (State.answerParked slice n s).Wf := by
  induction n generalizing s with
  | zero => exact hs
  | succ n ih =>
    unfold State.answerParked
    split
    · exact ih (wf_answerRefetch _ _ (wf_unpark _ hs))
    · exact hs

theorem wf_answerSlice {s : State} (slice : Nat) (hs : s.Wf) : (s.answerSlice slice).Wf := by
  unfold State.answerSlice
  exact wf_answerParked _ _ hs

theorem wf_drainLine {s : State} (ci l : Nat) (hs : s.Wf) : (s.drainLine ci l).Wf := by
  unfold State.drainLine
  refine wf_foldl ?_ hs _
  intro t a ht
  exact wf_if (wf_drain _ ht) ht

theorem wf_boundAsk {s : State} (h k pa blk : Nat) (late : List (Nat × Nat)) (hs : s.Wf) : (s.boundAsk h k pa blk late).Wf := by
  unfold State.boundAsk
  split
  · extract_lets u
    have hu : u.Wf := wf_drainLine _ _ hs
    exact wf_if hu (wf_refetchArrives _ hu)
  · exact hs

theorem wf_boundServe {s : State} (h k pa n : Nat) (hs : s.Wf) : (s.boundServe h k pa n).1.Wf := by
  unfold State.boundServe
  split
  · extract_lets l u
    have hu : u.Wf := wf_if hs (wf_modHart _ _ hs)
    split
    · exact (State.keeps_l1vTouch _ _ _).2 hu
    · exact hs
  · exact hs

theorem wf_publishStart {s : State} (rid : Nat) (hs : s.Wf) : (s.publishStart rid).Wf := by
  unfold State.publishStart
  split
  · extract_lets sl
    exact (State.keeps_due _ _).2 (wf_modRegion _ _ hs)
  · exact hs

theorem wf_publish {s : State} (rid : Nat) (who : Publisher) (hs : s.Wf) : (s.publish rid who).Wf := by
  unfold State.publish
  split
  · extract_lets u
    have hu : u.Wf := wf_modRegion _ _ hs
    exact wf_if hu (wf_publishStart _ hu)
  · exact hs

theorem wf_publishEnd {s : State} (rid : Nat) (hs : s.Wf) : (s.publishEnd rid).Wf := by
  unfold State.publishEnd
  split
  · extract_lets u u1 u2 u3
    have hu : u.Wf := (State.keeps_agentWrite _ _ _).2 hs
    have hu1 : u1.Wf := (State.keeps_due _ _).2 hu
    have hu2 : u2.Wf := by
      dsimp only [u2]
      split
      · split
        · exact wf_finish _ _ _ hu1
        · exact hu1
      · exact hu1
    have hu3 : u3.Wf := wf_modRegion _ _ hu2
    exact wf_if hu3 (wf_publishStart _ hu3)
  · exact hs

theorem wf_execReplicaUpdate {s : State} (hs : s.Wf) : Out.Wf (execReplicaUpdate s) := by
  unfold execReplicaUpdate
  split
  · extract_lets u
    have hu : u.Wf := wf_modRegion _ _ hs
    exact wf_next ((State.keeps_due _ _).2 (wf_answerSlice _ hu))
  · exact wf_next hs

theorem wf_execReplicaAck {s : State} (hs : s.Wf) : Out.Wf (execReplicaAck s) := by
  unfold execReplicaAck
  split
  · split
    · split
      · extract_lets u
        have hu : u.Wf := wf_modRegion _ _ hs
        exact wf_next (wf_if (wf_publishEnd _ hu) hu)
      · exact wf_next hs
    · exact wf_next hs
  · exact wf_next hs

theorem wf_execRoundNotice {s : State} (hs : s.Wf) : Out.Wf (execRoundNotice s) := by
  unfold execRoundNotice
  split
  · split
    · split
      · extract_lets u
        have hu : u.Wf := wf_modRegion _ _ hs
        exact wf_next (wf_if (wf_voidCopies _ _ hu) hu)
      · exact wf_next hs
    · exact wf_next hs
  · exact wf_next hs

theorem wf_execRefetchRequest {s : State} (hs : s.Wf) : Out.Wf (execRefetchRequest s) := by
  unfold execRefetchRequest
  split
  · split
    · exact wf_next (wf_refetchArrives _ hs)
    · exact wf_next hs
  · exact wf_next hs

theorem wf_execStallTimeout {s : State} (hs : s.Wf) : Out.Wf (execStallTimeout s) := by
  unfold execStallTimeout
  split
  · split
    · exact wf_next (wf_answerSlice _ (wf_answerRefetch _ _ (wf_unpark _ hs)))
    · exact wf_next hs
  · exact wf_next hs

theorem wf_descriptor {s : State} (va : Word) (k : State → Nat → Region → Out) (hs : s.Wf) (hk : ∀ t b c, t.Wf → Out.Wf (k t b c)) :
    Out.Wf (s.descriptor va k) := by
  unfold State.descriptor
  refine wf_toLoc _ _ _ _ hs ?_
  intro t b ht
  refine wf_ifOut (wf_next (wf_cmdFault _ ht)) ?_
  split
  · exact hk _ _ _ ht
  · exact wf_next (wf_cmdFault _ ht)

theorem wf_execRpub (rd rs1 : BitVec 5) {s : State} (hs : s.Wf) : Out.Wf (execRpub rd rs1 s) := by
  unfold execRpub
  split
  · exact wf_next (wf_wait _ hs)
  · exact wf_descriptor _ _ hs (fun t b c ht => wf_ifOut (wf_next (wf_wait _ ht)) (wf_next (wf_publish _ _ (wf_wait _ (wf_releaseAt _ ht)))))

theorem wf_execRacq (rd rs1 : BitVec 5) (k : BitVec 3) {s : State} (hs : s.Wf) : Out.Wf (execRacq rd rs1 k s) := by
  unfold execRacq
  refine wf_descriptor _ _ hs ?_
  intro t b c ht
  extract_lets w a
  exact wf_next (wf_retireX _ _ (wf_modMe _ ht))

theorem wf_rwin {s : State} (lag : Bool) (word : BitVec 32) (rd rs1 rs2 : BitVec 5) (k : BitVec 3) (hs : s.Wf) :
    Out.Wf (s.rwin lag word rd rs1 rs2 k) := by
  unfold State.rwin
  extract_lets w a a1
  refine wf_ifOut (wf_next (wf_retireX _ _ (wf_modMe _ hs))) ?_
  exact wf_ifOut (wf_next (wf_illegal _ hs)) (wf_next (wf_retireX _ _ (wf_modMe _ hs)))

theorem wf_execRwinAbs (rd rs1 rs2 : BitVec 5) (k : BitVec 3) {s : State} (hs : s.Wf) : Out.Wf (execRwinAbs rd rs1 rs2 k s) := by
  unfold execRwinAbs
  exact wf_rwin _ _ _ _ _ _ hs

theorem wf_execRwinLag (rd rs1 rs2 : BitVec 5) (k : BitVec 3) {s : State} (hs : s.Wf) : Out.Wf (execRwinLag rd rs1 rs2 k s) := by
  unfold execRwinLag
  exact wf_rwin _ _ _ _ _ _ hs

theorem wf_rview {s : State} (n : Nat) (rd rs1 rs2 : BitVec 5) (v : Nat → Word) (hs : s.Wf) : Out.Wf (s.rview n rd rs1 rs2 v) := by
  unfold State.rview
  exact wf_ifOut (wf_next (wf_retireX _ _ hs)) (wf_next (wf_cmdFault _ hs))

theorem wf_execRviewV (rd rs1 rs2 : BitVec 5) {s : State} (hs : s.Wf) : Out.Wf (execRviewV rd rs1 rs2 s) := by
  unfold execRviewV
  exact wf_rview _ _ _ _ _ hs

theorem wf_execRviewFloor (rd rs1 rs2 : BitVec 5) {s : State} (hs : s.Wf) : Out.Wf (execRviewFloor rd rs1 rs2 s) := by
  unfold execRviewFloor
  exact wf_rview _ _ _ _ _ hs

theorem wf_execRviewWord0 (rd rs1 rs2 : BitVec 5) {s : State} (hs : s.Wf) : Out.Wf (execRviewWord0 rd rs1 rs2 s) := by
  unfold execRviewWord0
  exact wf_rview _ _ _ _ _ hs

theorem wf_execRviewWord1 (rd rs1 rs2 : BitVec 5) {s : State} (hs : s.Wf) : Out.Wf (execRviewWord1 rd rs1 rs2 s) := by
  unfold execRviewWord1
  exact wf_rview _ _ _ _ _ hs

theorem wf_execLdbw (rd rs1 : BitVec 5) (k : BitVec 3) {s : State} (hs : s.Wf) : Out.Wf (execLdbw rd rs1 k s) := by
  unfold execLdbw
  extract_lets va
  refine wf_ifOut (wf_next (wf_except _ _ hs)) ?_
  split
  next t _ e =>
    have ht : t.Wf := wf_fst e ((State.keeps_xlateRange _ _ _ _ _).2 hs)
    exact wf_next (wf_except _ _ ht)
  next t _ e =>
    have ht : t.Wf := wf_fst e ((State.keeps_xlateRange _ _ _ _ _).2 hs)
    refine wf_ifOut (wf_next (wf_except _ _ ht)) ?_
    extract_lets late u
    have hu : u.Wf := wf_boundAsk _ _ _ _ _ ((State.keeps_loadLines _ _ _ _).2 ht)
    refine wf_ifOut (wf_next (wf_except _ _ (wf_poisonRecord _ hu))) ?_
    refine wf_ifOut (wf_next (wf_wait _ hu)) ?_
    split
    next t1 _ e1 =>
      have ht1 : t1.Wf := wf_fst e1 (wf_boundServe _ _ _ _ hu)
      exact wf_next (wf_retireX _ _ ht1)
  next t _ _ _ e2 =>
    have ht : t.Wf := wf_fst e2 ((State.keeps_xlateRange _ _ _ _ _).2 hs)
    exact wf_xlateTrap _ _ _ ht

end Sys2Proof.Machine
end

section
/-! PROOF. Canonical memory: the operations of Machine/Mem.lean. -/

namespace Sys2Proof.Machine

theorem wf_markUsed {s : State} (h : Nat) (b : Biq) (va : Nat) (hs : s.Wf) : (s.markUsed h b va).Wf := by
  unfold State.markUsed
  extract_lets ci room _
  exact wf_of_mem hs

theorem wf_holdUsed {s : State} (h seq : Nat) (hs : s.Wf) : (s.holdUsed h seq).Wf := by
  unfold State.holdUsed
  extract_lets ci go _
  exact wf_of_mem hs

theorem wf_keepL2 {s : State} (h : Nat) (b : Biq) (acc : Acc) (va : Nat) (e : Tlb) (hs : s.Wf) : (s.keepL2 h b acc va e).Wf := by
  unfold State.keepL2
  exact wf_if (wf_tlbInsert _ hs) hs

theorem wf_blockXlate {s : State} (h : Nat) (b : Biq) (lg : Option Nat) (acc : Acc) (va : Word) (len : Nat) (hs : s.Wf) :
    (s.blockXlate h b lg acc va len).1.Wf := by
  unfold State.blockXlate
  extract_lets cx v
  split
  next t _ e =>
    have ht : t.Wf := by
      refine wf_fst e ?_
      split
      · exact (State.keeps_xlateRange _ _ _ _ _).2 hs
      · extract_lets sl
        split
        · exact (State.keeps_xlateRange _ _ _ _ _).2 (wf_if hs (wf_keepL2 _ _ _ _ _ hs))
        · split
          next t1 _ e2 =>
            have ht1 : t1.Wf := wf_fst e2 ((State.keeps_xlateRange _ _ _ _ _).2 hs)
            split
            · exact wf_tlbInsert _ ht1
            · exact ht1
    exact wf_markUsed _ _ _ ht

theorem wf_checkElem {s : State} (h : Nat) (b : Biq) (lg : Nat) (store sens : Bool) (atom : Option Nat) (va : Word) (n : Nat) (hs : s.Wf) :
    (s.checkElem h b lg store sens atom va n).1.Wf := by
  unfold State.checkElem
  refine wf_ifPair hs ?_
  split
  next t _ e =>
    have ht : t.Wf := wf_fst e (wf_blockXlate _ _ _ _ _ _ hs)
    extract_lets refuse
    split
    · exact ht
    · exact ht
    · exact ht
    · exact ht
    · exact ht

theorem wf_checkElems (h : Nat) (b : Biq) (store sens : Bool) (atom : Option Nat) (n e : Nat) (l : List (Option Word)) {s : State}
    (hs : s.Wf) : (State.checkElems h b store sens atom n e l s).1.Wf := by
  induction l generalizing e s with
  | nil => exact hs
  | cons a l ih =>
    cases a with
    | none => exact ih (e + 1) hs
    | some va => exact ih (e + 1) (wf_checkElem _ _ _ _ _ _ _ _ hs)

theorem wf_fireLoad {s : State} (m : MForm) (lit : Option (BitVec 32)) (need : List Nat) (wk : Walk) (bounded : Bool) (hs : s.Wf) :
    Out.Wf (s.fireLoad m lit need wk bounded) := by
  unfold State.fireLoad
  refine wf_fireWith _ _ _ _ hs ?_
  intro a b c d e
  refine wf_ifOut (wf_next hs) ?_
  extract_lets data vas win
  split
  next t _ e1 =>
    have ht : t.Wf := wf_fst e1 (wf_checkElems _ _ _ _ _ _ _ _ hs)
    extract_lets bad
    exact wf_next (wf_setEntry _ _ _ ht)

theorem wf_execLd (m : MForm) {s : State} (hs : s.Wf) : Out.Wf (execLd m s) := by
  unfold execLd
  exact wf_fireLoad _ _ _ _ _ hs

theorem wf_execLdLone (m : MForm) (lit : BitVec 32) {s : State} (hs : s.Wf) : Out.Wf (execLdLone m lit s) := by
  unfold execLdLone
  exact wf_fireLoad _ _ _ _ _ hs

theorem wf_execLds (m : MForm) {s : State} (hs : s.Wf) : Out.Wf (execLds m s) := by
  unfold execLds
  exact wf_fireLoad _ _ _ _ _ hs

theorem wf_execLdsLone (m : MForm) (lit : BitVec 32) {s : State} (hs : s.Wf) : Out.Wf (execLdsLone m lit s) := by
  unfold execLdsLone
  exact wf_fireLoad _ _ _ _ _ hs

theorem wf_execLdx (m : MForm) {s : State} (hs : s.Wf) : Out.Wf (execLdx m s) := by
  unfold execLdx
  exact wf_fireLoad _ _ _ _ _ hs

theorem wf_execLdxLone (m : MForm) (lit : BitVec 32) {s : State} (hs : s.Wf) : Out.Wf (execLdxLone m lit s) := by
  unfold execLdxLone
  exact wf_fireLoad _ _ _ _ _ hs

theorem wf_execLdb (m : MForm) {s : State} (hs : s.Wf) : Out.Wf (execLdb m s) := by
  unfold execLdb
  exact wf_fireLoad _ _ _ _ _ hs

theorem wf_execLdbLone (m : MForm) (lit : BitVec 32) {s : State} (hs : s.Wf) : Out.Wf (execLdbLone m lit s) := by
  unfold execLdbLone
  exact wf_fireLoad _ _ _ _ _ hs

theorem wf_execLdbx (m : MForm) {s : State} (hs : s.Wf) : Out.Wf (execLdbx m s) := by
  unfold execLdbx
  exact wf_fireLoad _ _ _ _ _ hs

theorem wf_execLdbxLone (m : MForm) (lit : BitVec 32) {s : State} (hs : s.Wf) : Out.Wf (execLdbxLone m lit s) := by
  unfold execLdbxLone
  exact wf_fireLoad _ _ _ _ _ hs

theorem wf_pendAsk {s : State} (h seq : Nat) (p : BPend) (hs : s.Wf) : (s.pendAsk h seq p).Wf := by
  unfold State.pendAsk
  split
  · exact hs
  · refine wf_foldl ?_ hs _
    intro t a ht
    split
    · exact wf_boundAsk _ _ _ _ _ ht
    · exact ht

theorem wf_mmioBytes {s : State} (n : Nat) (hs : s.Wf) : (s.mmioBytes n).1.Wf := by
  unfold State.mmioBytes
  exact wf_of_mem hs

theorem wf_pendBytes {s : State} (h : Nat) (p : BPend) (loc : Nat) (hs : s.Wf) : (s.pendBytes h p loc).1.Wf := by
  unfold State.pendBytes
  refine wf_ifPair (wf_mmioBytes _ hs) ?_
  extract_lets u
  have hu : u.Wf := (State.keeps_vectorLines _ _ _ _).2 hs
  split
  · exact wf_boundServe _ _ _ _ hu
  · exact hu

theorem wf_pendRead (h : Nat) (p : BPend) (l : List (Option (Word × Nat))) {s : State} (hs : s.Wf) : (State.pendRead h p l s).1.Wf := by
  induction l generalizing s with
  | nil => exact hs
  | cons a l ih =>
    cases a with
    | none => exact ih hs
    | some a => exact ih (wf_pendBytes _ _ _ hs)

theorem wf_pendReturn {s : State} (h i : Nat) (b : Biq) (p : BPend) (hs : s.Wf) : (s.pendReturn h i b p).Wf := by
  unfold State.pendReturn
  extract_lets node u bad rest sts es
  have hu : u.Wf := by
    refine wf_foldl ?_ hs _
    intro t e ht
    split
    · exact wf_if ht ((State.keeps_vectorLines _ _ _ _).2 ht)
    · exact ht
  clear_value bad
  cases bad with
  | cons f l => exact wf_setEntry _ _ _ (wf_if hu (wf_poisonRecord _ hu))
  | nil =>
    have hr : (State.pendRead h p p.elems u).1.Wf := wf_pendRead _ _ _ hu
    generalize State.pendRead h p p.elems u = r at hr ⊢
    obtain ⟨t, raws⟩ := r
    exact wf_modHart _ _ (wf_setEntry _ _ _ hr)

theorem wf_execLoadDataReturn {s : State} (hs : s.Wf) : Out.Wf (execLoadDataReturn s) := by
  unfold execLoadDataReturn
  split
  · extract_lets u
    have hu : u.Wf := by
      refine wf_foldl ?_ hs _
      intro t a ht
      refine wf_foldl ?_ ht _
      intro t1 a1 ht1
      exact wf_pendAsk _ _ _ ht1
    split
    · exact wf_next (wf_pendReturn _ _ _ _ hu)
    · exact wf_next hu
  · exact wf_next hs

theorem wf_storeEvict {s : State} (h : Nat) (b : Biq) (lg n k : Nat) (hs : s.Wf) : (s.storeEvict h b lg n k).Wf := by
  induction k generalizing s with
  | zero => exact hs
  | succ k ih =>
    unfold State.storeEvict
    refine wf_if hs ?_
    extract_lets l
    split
    · exact ih (wf_modHart _ _ hs)
    · exact hs

theorem wf_storeReserve {s : State} (h : Nat) (b : Biq) (n : Nat) (g : List Nat) (hs : s.Wf) : (s.storeReserve h b n g).Wf := by
  unfold State.storeReserve
  refine wf_foldl ?_ hs _
  intro t a ht
  exact wf_storeEvict _ _ _ _ _ ht

theorem wf_storesIn {s : State} (h i id lsid : Nat) (b : Biq) (g : List Nat) (sts : List BStore) (hs : s.Wf) :
    (s.storesIn h i id lsid b g sts).Wf := by
  unfold State.storesIn
  extract_lets u
  have hu : u.Wf := wf_setEntry _ _ _ hs
  exact wf_modHart _ _ hu

theorem wf_fireStore {s : State} (m : MForm) (lit : Option (BitVec 32)) (need : List Nat) (wk : Walk) (hs : s.Wf) :
    Out.Wf (s.fireStore m lit need wk) := by
  unfold State.fireStore
  refine wf_fireWith _ _ _ _ hs ?_
  intro a b c d e
  extract_lets n u vas
  have hu : u.Wf := wf_storeReserve _ _ _ _ hs
  refine wf_ifOut (wf_next hs) ?_
  split
  next t _ e1 =>
    have ht : t.Wf := wf_fst e1 (wf_checkElems _ _ _ _ _ _ _ _ hu)
    extract_lets bad
    exact wf_ifOut (wf_next (wf_storesIn _ _ _ _ _ _ _ ht)) (wf_next (wf_setEntry _ _ _ ht))

theorem wf_execSt (m : MForm) {s : State} (hs : s.Wf) : Out.Wf (execSt m s) := by
  unfold execSt
  exact wf_fireStore _ _ _ _ hs

theorem wf_execStLone (m : MForm) (lit : BitVec 32) {s : State} (hs : s.Wf) : Out.Wf (execStLone m lit s) := by
  unfold execStLone
  exact wf_fireStore _ _ _ _ hs

theorem wf_execSts (m : MForm) {s : State} (hs : s.Wf) : Out.Wf (execSts m s) := by
  unfold execSts
  exact wf_fireStore _ _ _ _ hs

theorem wf_execStsLone (m : MForm) (lit : BitVec 32) {s : State} (hs : s.Wf) : Out.Wf (execStsLone m lit s) := by
  unfold execStsLone
  exact wf_fireStore _ _ _ _ hs

theorem wf_execStx (m : MForm) {s : State} (hs : s.Wf) : Out.Wf (execStx m s) := by
  unfold execStx
  exact wf_fireStore _ _ _ _ hs

theorem wf_execStxLone (m : MForm) (lit : BitVec 32) {s : State} (hs : s.Wf) : Out.Wf (execStxLone m lit s) := by
  unfold execStxLone
  exact wf_fireStore _ _ _ _ hs

theorem wf_atomicElems (node op n : Nat) (l : List (Option (Nat × Nat × Nat))) {s : State} (hs : s.Wf) :
    (State.atomicElems node op n l s).1.Wf := by
  induction l generalizing s with
  | nil => exact hs
  | cons a l ih =>
    cases a with
    | none => exact ih hs
    | some a => exact ih ((State.keeps_atomicAt _ _ _ _ _ _ _).2 hs)

theorem wf_atomicAnswers {s : State} (n : Nat) (l : List (Option (Word × Check))) (hs : s.Wf) : (s.atomicAnswers n l).1.Wf := by
  unfold State.atomicAnswers
  extract_lets places
  split
  · split
    · exact hs
    · exact wf_poisonRecord _ hs
  · exact hs

theorem wf_fireAtomic {s : State} (m : MForm) (op : Nat) (off : Int) (wk : Walk) (data : List Nat) (hs : s.Wf) :
    Out.Wf (s.fireAtomic m op off wk data) := by
  unfold State.fireAtomic
  refine wf_fireWith _ _ _ _ hs ?_
  intro a b c d e
  refine wf_ifOut (wf_next hs) ?_
  extract_lets n vas
  split
  next t _ e1 =>
    have ht : t.Wf := wf_fst e1 (wf_checkElems _ _ _ _ _ _ _ _ hs)
    split
    next t1 _ e2 =>
      have ht1 : t1.Wf := wf_fst e2 (wf_atomicAnswers _ _ ht)
      extract_lets bad todo wrote
      split
      · refine wf_ifOut (wf_next ht1) ?_
        split
        next t2 _ e3 =>
          have ht2 : t2.Wf := wf_fst e3 (wf_atomicElems _ _ _ _ ht1)
          extract_lets u
          have hu : u.Wf := wf_setEntry _ _ _ ht2
          exact wf_next (wf_modHart _ _ hu)
      · exact wf_next (wf_setEntry _ _ _ ht1)

theorem wf_execAmo (m : MForm) {s : State} (hs : s.Wf) : Out.Wf (execAmo m s) := by
  unfold execAmo
  exact wf_fireAtomic _ _ _ _ _ hs

theorem wf_execAcas (m : MForm) {s : State} (hs : s.Wf) : Out.Wf (execAcas m s) := by
  unfold execAcas
  exact wf_fireAtomic _ _ _ _ _ hs

end Sys2Proof.Machine
end

section
/-! PROOF. Canonical memory: the operations of Machine/Matrix.lean. -/

namespace Sys2Proof.Machine

theorem wf_modMat {s : State} (ci : Nat) (f : Matrix → Matrix) (hs : s.Wf) : (s.modMat ci f).Wf := by
  unfold State.modMat
  exact wf_modCore _ _ hs

theorem wf_matTake {s : State} (h : Nat) (en : Bool) (hs : s.Wf) : (s.matTake h en).Wf := by
  unfold State.matTake
  exact wf_modMat _ _ hs

theorem wf_matWait {s : State} (w : Wait) (hs : s.Wf) : (s.matWait w).Wf := by
  unfold State.matWait
  extract_lets l
  exact wf_wait _ (wf_modMat _ _ hs)

theorem wf_matCheck {s : State} (own en : Bool) (bad : Option Nat) (k : Out) (hs : s.Wf) (hk : Out.Wf k) : Out.Wf (s.matCheck own en bad k) := by
  unfold State.matCheck
  refine wf_ifOut (wf_next (wf_matFault _ hs)) ?_
  refine wf_ifOut (wf_next (wf_matFault _ hs)) ?_
  split
  · exact wf_next (wf_matFault _ hs)
  · exact hk

theorem wf_matRelease {s : State} (ci : Nat) (hs : s.Wf) : (s.matRelease ci).Wf := by
  unfold State.matRelease
  exact wf_modMat _ _ hs

theorem wf_execMclaim (rd : BitVec 5) {s : State} (hs : s.Wf) : Out.Wf (execMclaim rd s) := by
  unfold execMclaim
  refine wf_ifOut (wf_next (wf_retireX _ _ hs)) ?_
  refine wf_ifOut (wf_next (wf_retireX _ _ (wf_matTake _ _ hs))) ?_
  exact wf_ifOut (wf_next (wf_retireX _ _ hs)) (wf_next (wf_matWait _ hs))

theorem wf_execMrel {s : State} (hs : s.Wf) : Out.Wf (execMrel s) := by
  unfold execMrel
  refine wf_ifOut (wf_next (wf_matFault _ hs)) ?_
  exact wf_ifOut (wf_next (wf_retire hs)) (wf_ifOut (wf_next (wf_wait _ hs)) (wf_next (wf_retire (wf_matRelease _ hs))))

theorem wf_execMenable {s : State} (hs : s.Wf) : Out.Wf (execMenable s) := by
  unfold execMenable
  refine wf_matCheck _ _ _ _ hs ?_
  refine wf_ifOut (wf_next (wf_retire hs)) ?_
  extract_lets u
  have hu : u.Wf := wf_modMat _ _ hs
  exact wf_next (wf_retire (wf_modMe _ hu))

theorem wf_execMdisable {s : State} (hs : s.Wf) : Out.Wf (execMdisable s) := by
  unfold execMdisable
  exact wf_ifOut (wf_next (wf_retire hs)) (wf_ifOut (wf_next (wf_wait _ hs)) (wf_next (wf_retire (wf_modMat _ _ hs))))

theorem wf_matIssue {s : State} (c : MatCmd) (hs : s.Wf) : Out.Wf (s.matIssue c) := by
  unfold State.matIssue
  extract_lets ci u
  have hu : u.Wf := wf_modMat _ _ hs
  exact wf_ifOut (wf_next (wf_wait _ hs)) (wf_next (wf_retire ((State.keeps_due _ _).2 (wf_modMe _ hu))))

theorem wf_execMzero (t : BitVec 3) {s : State} (hs : s.Wf) : Out.Wf (execMzero t s) := by
  unfold execMzero
  exact wf_matCheck _ _ _ _ hs (wf_matIssue _ hs)

theorem wf_execMedge (t : BitVec 3) (rs1 rs2 : BitVec 5) {s : State} (hs : s.Wf) : Out.Wf (execMedge t rs1 rs2 s) := by
  unfold execMedge
  extract_lets r c bad
  refine wf_matCheck _ _ _ _ hs ?_
  split
  next t1 e =>
    have ht1 : t1.Wf := wf_matIssue _ hs t1 e
    exact wf_ifOut (wf_next ht1) (wf_next (wf_modMat _ _ ht1))
  · exact wf_matIssue _ hs

theorem wf_execMop (fmt : BitVec 3) (i32 : BitVec 1) (t : BitVec 3) (rs1 : BitVec 5) {s : State} (hs : s.Wf) : Out.Wf (execMop fmt i32 t rs1 s) := by
  unfold execMop
  exact wf_matCheck _ _ _ _ hs (wf_matIssue _ hs)

theorem wf_execMatrixCmdRetire {s : State} (hs : s.Wf) : Out.Wf (execMatrixCmdRetire s) := by
  unfold execMatrixCmdRetire
  split
  · split
    · refine wf_ifOut (wf_next ((State.keeps_due _ _).2 hs)) ?_
      exact wf_ifOut (wf_next ((State.keeps_due _ _).2 (wf_modMat _ _ hs))) (wf_next (wf_modMat _ _ hs))
    · exact wf_next hs
  · exact wf_next hs

theorem wf_execMstatStatus (rd rs1 : BitVec 5) {s : State} (hs : s.Wf) : Out.Wf (execMstatStatus rd rs1 s) := by
  unfold execMstatStatus
  exact wf_ifOut (wf_next (wf_retireX _ _ hs)) (wf_next (wf_matFault _ hs))

theorem wf_execMstatDrain (rd rs1 : BitVec 5) {s : State} (hs : s.Wf) : Out.Wf (execMstatDrain rd rs1 s) := by
  unfold execMstatDrain
  exact wf_ifOut (wf_next (wf_matFault _ hs)) (wf_ifOut (wf_next (wf_wait _ hs)) (wf_next (wf_retireX _ _ hs)))

theorem wf_execMstatEdge (rd rs1 : BitVec 5) {s : State} (hs : s.Wf) : Out.Wf (execMstatEdge rd rs1 s) := by
  unfold execMstatEdge
  extract_lets t e
  exact wf_ifOut (wf_next (wf_matFault _ hs)) (wf_ifOut (wf_next (wf_matFault _ hs)) (wf_next (wf_retireX _ _ hs)))

theorem wf_matEnds {s : State} (h i id : Nat) (b : Biq) (g : List Nat) (bad : List BFault) (hs : s.Wf) : Out.Wf (s.matEnds h i id b g bad) := by
  unfold State.matEnds
  exact wf_next (wf_setEntry _ _ _ hs)

theorem wf_execTsmv (r : RForm) {s : State} (hs : s.Wf) : Out.Wf (execTsmv r s) := by
  unfold execTsmv
  refine wf_fireWith _ _ _ _ hs ?_
  intro a b c d e
  refine wf_ifOut (wf_next hs) ?_
  refine wf_ifOut (wf_matEnds _ _ _ _ _ _ hs) ?_
  refine wf_ifOut (wf_matEnds _ _ _ _ _ _ hs) ?_
  extract_lets m all vals t
  exact wf_next (wf_setEntry _ _ _ hs)

theorem wf_fireTile {s : State} (m : MForm) (store : Bool)
    (k : State → Nat → Nat → Nat → Biq → List Nat → List (Option (Word × Check)) → Out)
    (hs : s.Wf) (hk : ∀ t b c d e g h, t.Wf → Out.Wf (k t b c d e g h)) :
    Out.Wf (s.fireTile m store k) := by
  unfold State.fireTile
  refine wf_fireWith _ _ _ _ hs ?_
  intro a b c d e
  refine wf_ifOut (wf_next hs) ?_
  refine wf_ifOut (wf_matEnds _ _ _ _ _ _ hs) ?_
  extract_lets u vas
  have hu : u.Wf := wf_if (wf_storeReserve _ _ _ _ hs) hs
  split
  next t _ e1 =>
    have ht : t.Wf := wf_fst e1 (wf_checkElems _ _ _ _ _ _ _ _ hu)
    extract_lets bad
    exact wf_ifOut (hk _ _ _ _ _ _ _ ht) (wf_matEnds _ _ _ _ _ _ ht)

theorem wf_execTsld (m : MForm) {s : State} (hs : s.Wf) : Out.Wf (execTsld m s) := by
  unfold execTsld
  exact wf_fireTile _ _ _ hs (fun t b c d e g h ht => wf_next (wf_setEntry _ _ _ ht))

theorem wf_execTsst (m : MForm) {s : State} (hs : s.Wf) : Out.Wf (execTsst m s) := by
  unfold execTsst
  refine wf_fireTile _ _ _ hs ?_
  intro t b c d e g h ht
  extract_lets mat
  exact wf_next (wf_storesIn _ _ _ _ _ _ _ ht)

theorem wf_execOst (r : RForm) {s : State} (hs : s.Wf) : Out.Wf (execOst r s) := by
  unfold execOst
  refine wf_fireWith _ _ _ _ hs ?_
  intro a b c d e
  refine wf_ifOut (wf_next hs) ?_
  extract_lets vl n
  refine wf_ifOut (wf_matEnds _ _ _ _ _ _ hs) ?_
  split
  · exact wf_matEnds _ _ _ _ _ _ hs
  · refine wf_ifOut (wf_matEnds _ _ _ _ _ _ hs) ?_
    extract_lets st
    exact wf_next (wf_setEntry _ _ _ hs)

end Sys2Proof.Machine
end

section
/-! PROOF. Canonical memory: the operations of Machine/Texture.lean. -/

namespace Sys2Proof.Machine

theorem wf_unitRead {s : State} (h : Nat) (b : Biq) (lg : Nat) (sens : Bool) (va : Word) (n : Nat) (hs : s.Wf) :
    (s.unitRead h b lg sens va n).1.Wf := by
  unfold State.unitRead
  split
  next t _ e =>
    have ht : t.Wf := wf_fst e (wf_checkElem _ _ _ _ _ _ _ _ hs)
    split
    · split
      next t1 _ e1 =>
        have ht1 : t1.Wf := wf_fst e1 (wf_mmioBytes _ ht)
        exact ht1
    · extract_lets u
      have hu : u.Wf := (State.keeps_vectorLines _ _ _ _).2 ht
      exact wf_ifPair (wf_poisonRecord _ hu) hu
  next t _ e =>
    have ht : t.Wf := wf_fst e (wf_checkElem _ _ _ _ _ _ _ _ hs)
    exact ht

theorem wf_unitElems (l : List (Option UnitStep)) (e : Nat) {s : State} (hs : s.Wf) (hl : ∀ k, some k ∈ l → ∀ t : State, t.Wf → (k t).1.Wf) :
    (unitElems l e s).1.Wf := by
  induction l generalizing e s with
  | nil => exact hs
  | cons a l ih =>
    have hr : ∀ k, some k ∈ l → ∀ t : State, t.Wf → (k t).1.Wf := fun k hk => hl k (List.mem_cons_of_mem _ hk)
    cases a with
    | none => exact ih (e + 1) hs hr
    | some k =>
      have hk : (k s).1.Wf := hl k List.mem_cons_self s hs
      unfold unitElems
      split
      next t _ e' => exact ih (e + 1) (wf_fst e' hk) hr
      next t _ e' => exact ih (e + 1) (wf_fst e' hk) hr

theorem wf_unitDone {s : State} (h i id : Nat) (b : Biq) (g : List Nat) (t : TForm) (l : List (Option (Nat × Nat))) (bad : List BFault) (hs : s.Wf) :
    Out.Wf (s.unitDone h i id b g t l bad) := by
  unfold State.unitDone
  extract_lets all t0 t1
  exact wf_ifOut (wf_next (wf_setEntry _ _ _ hs)) (wf_next (wf_setEntry _ _ _ hs))

/-- The setup of a unit's instruction keeps canonical memory, and so does every element that it lets run. -/
def SetupWf (p : State × UnitGot (Nat → Nat → UnitStep)) : Prop :=
  p.1.Wf ∧ ∀ k, p.2 = .ok k → ∀ e lg (t : State), t.Wf → (k e lg t).1.Wf

theorem setupWf_error {s : State} (x : List UFault) (hs : s.Wf) : SetupWf (s, .error x) := ⟨hs, fun _ e => nomatch e⟩

theorem setupWf_ok {s : State} {k : Nat → Nat → UnitStep} (hs : s.Wf) (hk : ∀ e lg (t : State), t.Wf → (k e lg t).1.Wf) :
    SetupWf (s, .ok k) := ⟨hs, fun _ e => Except.ok.inj e ▸ hk⟩

theorem setupWf_if {c : Prop} [Decidable c] {p q : State × UnitGot (Nat → Nat → UnitStep)} (hp : SetupWf p) (hq : SetupWf q) :
    SetupWf (if c then p else q) := by
  split
  · exact hp
  · exact hq

theorem wf_fireUnit {s : State} (t : TForm) (need : List Nat)
    {setup : Nat → Biq → Nat → Nat → Word → State → State × UnitGot (Nat → Nat → UnitStep)} (hs : s.Wf)
    (hk : ∀ h b id lg base u, u.Wf → SetupWf (setup h b id lg base u)) : Out.Wf (s.fireUnit t need setup) := by
  unfold State.fireUnit
  refine wf_fireWith _ _ _ _ hs ?_
  intro h i id b g
  refine wf_ifOut (wf_next hs) ?_
  extract_lets vl live base
  refine wf_ifOut (wf_unitDone _ _ _ _ _ _ _ _ hs) ?_
  obtain ⟨hp, hq⟩ := hk h b id (s.placeGroup h b (g.headD 0)).1 base s hs
  split
  next u _ e => exact wf_unitDone _ _ _ _ _ _ _ _ (wf_fst e hp)
  next u elem e =>
    have hu : u.Wf := wf_fst e hp
    refine wf_unitDone _ _ _ _ _ _ _ _ (wf_unitElems _ _ hu ?_)
    intro k hmem
    obtain ⟨j, -, hj⟩ := List.mem_map.mp hmem
    split at hj
    · exact Option.some.inj hj ▸ hq elem (congrArg Prod.snd e) j _
    · exact absurd hj (by simp)

theorem wf_readTex {s : State} (h : Nat) (b : Biq) (lg : Nat) (va : Word) (hs : s.Wf) : (s.readTex h b lg va).1.Wf := by
  unfold State.readTex
  refine wf_ifPair hs ?_
  split
  next t _ e =>
    have ht : t.Wf := wf_fst e (wf_unitRead _ _ _ _ _ _ hs)
    exact ht
  next t _ e =>
    have ht : t.Wf := wf_fst e (wf_unitRead _ _ _ _ _ _ hs)
    split
    · exact ht
    · exact wf_ifPair ht ht

theorem wf_readTexel {s : State} (h : Nat) (b : Biq) (lg : Nat) (t : Tex) (l x y : Nat) (hs : s.Wf) : (s.readTexel h b lg t l x y).1.Wf := by
  unfold State.readTexel
  extract_lets a
  split
  next t1 _ e =>
    have ht1 : t1.Wf := wf_fst e (wf_unitRead _ _ _ _ _ _ hs)
    exact ht1
  next t1 _ e =>
    have ht1 : t1.Wf := wf_fst e (wf_unitRead _ _ _ _ _ _ hs)
    exact ht1

theorem wf_readTaps (h : Nat) (b : Biq) (lg : Nat) (t : Tex) (smp : Nat) (l : List (Nat × Option (Nat × Nat × Nat))) {s : State} (hs : s.Wf) :
    (readTaps h b lg t smp l s).1.Wf := by
  induction l generalizing s with
  | nil => exact hs
  | cons a l ih =>
    obtain ⟨w, tap⟩ := a
    cases tap with
    | none => exact ih hs
    | some tap => exact ih (wf_readTexel _ _ _ _ _ _ _ hs)

theorem wf_execTfl (t : TForm) (lit : BitVec 32) {s : State} (hs : s.Wf) : Out.Wf (execTfl t lit s) := by
  unfold execTfl
  extract_lets soff lod quad osel
  refine wf_fireUnit _ _ hs ?_
  intro h b id lg base u hu
  extract_lets sva
  have hd : (u.readTex h b lg base).1.Wf := wf_readTex _ _ _ _ hu
  generalize u.readTex h b lg base = r at hd ⊢
  obtain ⟨t1, tex⟩ := r
  dsimp -zeta only at hd ⊢
  have hm : (t1.unitRead h b lg false sva 32).1.Wf := wf_unitRead _ _ _ _ _ _ hd
  generalize t1.unitRead h b lg false sva 32 = r at hm ⊢
  obtain ⟨t2, smp⟩ := r
  dsimp -zeta only at hm ⊢
  generalize bothGot tex smp = got
  cases got with
  | error x => exact setupWf_error x hm
  | ok got =>
    refine setupWf_if (setupWf_error _ hm) (setupWf_ok hm ?_)
    intro e lg t3 ht3
    extract_lets c lam
    split
    next t4 _ e' => exact wf_fst (t := t4) e' (wf_readTaps _ _ _ _ _ _ ht3)
    next t4 _ e' => exact wf_fst (t := t4) e' (wf_readTaps _ _ _ _ _ _ ht3)

theorem wf_execTld (t : TForm) (lit : BitVec 32) {s : State} (hs : s.Wf) : Out.Wf (execTld t lit s) := by
  unfold execTld
  extract_lets level osel
  refine wf_fireUnit _ _ hs ?_
  intro h b id lg base u hu
  split
  next t1 x e => exact setupWf_error x (wf_fst e (wf_readTex _ _ _ _ hu))
  next t1 tex e =>
    refine setupWf_ok (wf_fst e (wf_readTex _ _ _ _ hu)) ?_
    intro e lg t2 ht2
    extract_lets x y
    refine wf_ifPair ?_ ht2
    split
    next t3 _ e' => exact wf_fst (t := t3) e' (wf_readTexel _ _ _ _ _ _ _ ht2)
    next t3 _ e' => exact wf_fst (t := t3) e' (wf_readTexel _ _ _ _ _ _ _ ht2)

theorem wf_rayRecord {s : State} (h : Nat) (b : Biq) (lg : Nat) (va : Word) (n : Nat) (f : List Byte → Nat × Nat) (hs : s.Wf) :
    (s.rayRecord h b lg va n f).1.Wf := by
  unfold State.rayRecord
  split
  next t _ e =>
    have ht : t.Wf := wf_fst e (wf_unitRead _ _ _ _ _ _ hs)
    exact ht
  next t _ e =>
    have ht : t.Wf := wf_fst e (wf_unitRead _ _ _ _ _ _ hs)
    exact ht

theorem wf_fireRay {s : State} (t : TForm) (size : Nat) (f : List Nat → List Byte → Nat × Nat) (hs : s.Wf) : Out.Wf (s.fireRay t size f) := by
  unfold State.fireRay
  refine wf_ifOut (wf_next hs) (wf_fireUnit _ _ hs ?_)
  intro h b id lg base u hu
  refine setupWf_if (setupWf_error _ hu) (setupWf_ok hu ?_)
  intro e lg t1 ht1
  exact wf_rayRecord _ _ _ _ _ _ ht1

theorem wf_execRbox (t : TForm) {s : State} (hs : s.Wf) : Out.Wf (execRbox t s) := by
  unfold execRbox
  exact wf_fireRay _ _ _ hs

theorem wf_execRtri (t : TForm) {s : State} (hs : s.Wf) : Out.Wf (execRtri t s) := by
  unfold execRtri
  exact wf_fireRay _ _ _ hs

end Sys2Proof.Machine
end

section
/-! PROOF. Canonical memory: the operations of Machine/Block.lean. -/

namespace Sys2Proof.Machine

theorem wf_imageLine {s : State} (n l : Nat) (hs : s.Wf) : (s.imageLine n l).Wf := by
  unfold State.imageLine
  exact (State.keeps_cleanRead _ _ _ _).2 hs

theorem wf_imageLines {s : State} (n a len : Nat) (hs : s.Wf) : (s.imageLines n a len).Wf := by
  unfold State.imageLines
  refine wf_if ((State.keeps_pushFor _ _).2 hs) ?_
  refine wf_foldl ?_ hs _
  intro t a1 ht
  exact wf_imageLine _ _ ht

theorem wf_imageBytes {s : State} (h : Nat) (b : Biq) (va : Word) (len : Nat) (hs : s.Wf) : (s.imageBytes h b va len).1.Wf := by
  unfold State.imageBytes
  split
  next t _ e =>
    have ht : t.Wf := wf_fst e (wf_blockXlate _ _ _ _ _ _ hs)
    extract_lets u
    have hu : u.Wf := wf_imageLines _ _ _ ht
    exact wf_ifPair (wf_poisonRecord _ hu) hu
  next t _ _ e1 =>
    have ht : t.Wf := wf_fst e1 (wf_blockXlate _ _ _ _ _ _ hs)
    exact ht

theorem wf_blockImage {s : State} (h : Nat) (b : Biq) (hs : s.Wf) : (s.blockImage h b).1.Wf := by
  unfold State.blockImage
  split
  next t _ e =>
    have ht : t.Wf := wf_fst e (wf_imageBytes _ _ _ _ hs)
    exact ht
  next t _ e =>
    have ht : t.Wf := wf_fst e (wf_imageBytes _ _ _ _ hs)
    extract_lets len room
    refine wf_ifPair (wf_imageBytes _ _ _ _ ht) ?_
    split
    next t1 _ e1 =>
      have ht1 : t1.Wf := wf_fst e1 (wf_imageBytes _ _ _ _ ht)
      exact ht1
    next t1 _ e1 =>
      have ht1 : t1.Wf := wf_fst e1 (wf_imageBytes _ _ _ _ ht)
      split
      next t2 _ e2 =>
        have ht2 : t2.Wf := wf_fst e2 (wf_imageBytes _ _ _ _ ht1)
        exact ht2
      next t2 _ e2 =>
        have ht2 : t2.Wf := wf_fst e2 (wf_imageBytes _ _ _ _ ht1)
        exact ht2

theorem wf_decodeEntry {s : State} (h : Nat) (b : Biq) (hs : s.Wf) : (s.decodeEntry h b).1.Wf := by
  unfold State.decodeEntry
  split
  next t _ e =>
    have ht : t.Wf := wf_fst e (wf_blockImage _ _ hs)
    exact ht
  next t _ e =>
    have ht : t.Wf := wf_fst e (wf_blockImage _ _ hs)
    extract_lets ws
    split
    · exact ht
    · exact ht

theorem wf_execBlockFetchDecode {s : State} (hs : s.Wf) : Out.Wf (execBlockFetchDecode s) := by
  unfold execBlockFetchDecode
  split
  · split
    · exact wf_next hs
    · extract_lets ahead _
      split
      next t _ e2 =>
        have ht : t.Wf := wf_fst e2 (wf_decodeEntry _ _ hs)
        exact wf_next (wf_setEntry _ _ _ ht)
      next t _ e2 =>
        have ht : t.Wf := wf_fst e2 (wf_decodeEntry _ _ hs)
        extract_lets u
        have hu : u.Wf := wf_setEntry _ _ _ ht
        exact wf_next (wf_modHart _ _ hu)
  · exact wf_next hs

theorem wf_commit {s : State} (h : Nat) (b : Biq) (rest : List Biq) (hs : s.Wf) : (s.commit h b rest).Wf := by
  unfold State.commit
  extract_lets u ms u1 rest1 next q u2
  have hu : u.Wf := by
    refine wf_foldl ?_ hs _
    intro t a ht
    exact wf_if ht ((State.keeps_vectorWrite _ _ _ _).2 ht)
  have hu1 : u1.Wf := wf_if hu (wf_modMat _ _ hu)
  have hu2 : u2.Wf := wf_if hu1 (wf_freeHolds _ _ hu1)
  exact wf_modHart _ _ hu2

theorem wf_commitHead {s : State} (h : Nat) (b : Biq) (rest : List Biq) (hs : s.Wf) : (s.commitHead h b rest).Wf := by
  unfold State.commitHead
  refine wf_if hs ?_
  split
  · exact wf_commit _ _ _ hs
  · exact wf_setEntry _ _ _ hs

theorem wf_execBlockCommit {s : State} (hs : s.Wf) : Out.Wf (execBlockCommit s) := by
  unfold execBlockCommit
  split
  · split
    · exact wf_next (wf_commitHead _ _ _ hs)
    · exact wf_next hs
  · exact wf_next hs

theorem wf_blockFaults {s : State} (h : Nat) (b : Biq) (rest : List Biq) (hs : s.Wf) : (s.blockFaults h b rest).Wf := by
  unfold State.blockFaults
  split
  · exact hs
  · extract_lets u tries park _ a u1
    have hu : u.Wf := wf_holdUsed _ _ hs
    have hu1 : u1.Wf := wf_modHart _ _ hu
    exact wf_if (wf_sendPrg _ _ _ hu1) hu1

theorem wf_execBlockFault {s : State} (hs : s.Wf) : Out.Wf (execBlockFault s) := by
  unfold execBlockFault
  split
  · split
    · exact wf_next (wf_if hs (wf_blockFaults _ _ _ hs))
    · exact wf_next hs
  · exact wf_next hs

theorem wf_execBlockTrapDeliver {s : State} (hs : s.Wf) : Out.Wf (execBlockTrapDeliver s) := by
  unfold execBlockTrapDeliver
  split
  · exact wf_next (wf_if (wf_deliverFault _ hs) hs)
  · exact wf_next hs

end Sys2Proof.Machine
end

section
/-! PROOF. Canonical memory: the operations of Machine/Cmd.lean. -/

namespace Sys2Proof.Machine

theorem wf_answer {s : State} (c : MCmd) (status : Nat) (r0 r1 : Nat := 0) (hs : s.Wf) : (s.answer c status r0 r1).Wf := by
  unfold State.answer
  extract_lets bs _ u _ u1 u2
  have hu : u.Wf := wf_of_mem hs
  have hu1 : u1.Wf := wf_if (wf_of_mem hu) ((State.keeps_agentWrite _ _ _).2 hu)
  have hu2 : u2.Wf := by
    dsimp only [u2]
    split
    · exact wf_finish _ _ _ (wf_modHart _ _ hu1)
    · exact hu1
  exact wf_if (wf_hostNote _ _ _ _ hu2) hu2

end Sys2Proof.Machine
end

section
/-! PROOF. Canonical memory: the operations of Machine/Hart.lean. -/

namespace Sys2Proof.Machine

theorem wf_execBx (rs1 : BitVec 5) {s : State} (hs : s.Wf) : Out.Wf (execBx rs1 s) := by
  unfold execBx
  extract_lets va
  refine wf_ifOut (wf_next (wf_illegal _ hs)) ?_
  exact wf_ifOut (wf_next (wf_cmdFault _ hs)) (wf_ifOut (wf_next (wf_wait _ hs)) (wf_next (wf_retire (wf_pushEntry _ hs))))

theorem wf_execBloop (rs1 rs2 : BitVec 5) {s : State} (hs : s.Wf) : Out.Wf (execBloop rs1 rs2 s) := by
  unfold execBloop
  extract_lets va
  refine wf_ifOut (wf_next (wf_illegal _ hs)) ?_
  refine wf_ifOut (wf_next (wf_cmdFault _ hs)) ?_
  exact wf_ifOut (wf_next (wf_retire hs)) (wf_ifOut (wf_next (wf_wait _ hs)) (wf_next (wf_retire (wf_pushEntry _ hs))))

theorem wf_execBwait {s : State} (hs : s.Wf) : Out.Wf (execBwait s) := by
  unfold execBwait
  exact wf_ifOut (wf_next (wf_retire hs)) (wf_next (wf_wait _ hs))

theorem wf_execBretry {s : State} (hs : s.Wf) : Out.Wf (execBretry s) := by
  unfold execBretry
  refine wf_ifOut (wf_next (wf_illegal _ hs)) ?_
  split
  · exact wf_next (wf_retire (wf_releaseHeld _ _ hs))
  · exact wf_next (wf_retire hs)

theorem wf_forgetParked {s : State} (h : Nat) (hs : s.Wf) : (s.forgetParked h).Wf := by
  unfold State.forgetParked
  exact wf_of_mem hs

theorem wf_killBlocks {s : State} (h : Nat) (hs : s.Wf) : (s.killBlocks h).Wf := by
  unfold State.killBlocks
  extract_lets stay
  exact wf_modHart _ _ (wf_freeHolds _ _ (wf_forgetParked _ hs))

theorem wf_execBkill {s : State} (hs : s.Wf) : Out.Wf (execBkill s) := by
  unfold execBkill
  refine wf_ifOut (wf_next (wf_illegal _ hs)) ?_
  extract_lets u
  have hu : u.Wf := wf_killBlocks _ hs
  exact wf_ifOut (wf_next (wf_retire hu)) (wf_next (wf_wait _ hu))

theorem wf_signalLoc {s : State} (acc : Acc) (va : Word) (k : State → Nat → Out) (hs : s.Wf) (hk : ∀ t b, t.Wf → Out.Wf (k t b)) :
    Out.Wf (s.signalLoc acc va k) := by
  unfold State.signalLoc
  refine wf_ifOut (wf_next (wf_cmdFault _ hs)) ?_
  exact wf_toLoc _ _ _ _ hs (fun t b ht => wf_ifOut (hk _ _ ht) (wf_next (wf_cmdFault _ ht)))

theorem wf_signalUpdate {s : State} (op : Nat) (rd rs1 rs2 : BitVec 5) (hs : s.Wf) : Out.Wf (s.signalUpdate op rd rs1 rs2) := by
  unfold State.signalUpdate
  refine wf_signalLoc _ _ _ hs ?_
  intro t b ht
  refine wf_ifOut (wf_next (wf_wait _ ht)) ?_
  split
  next t1 _ e =>
    have ht1 : t1.Wf := wf_fst e ((State.keeps_atomicAt _ _ _ _ _ _ _).2 (wf_releaseAt _ ht))
    exact wf_next (wf_retireX _ _ ht1)

theorem wf_execSigadd (rd rs1 rs2 : BitVec 5) {s : State} (hs : s.Wf) : Out.Wf (execSigadd rd rs1 rs2 s) := by
  unfold execSigadd
  exact wf_signalUpdate _ _ _ _ hs

theorem wf_execSigor (rd rs1 rs2 : BitVec 5) {s : State} (hs : s.Wf) : Out.Wf (execSigor rd rs1 rs2 s) := by
  unfold execSigor
  exact wf_signalUpdate _ _ _ _ hs

theorem wf_signalWait {s : State} (test : Word → Word → Bool) (rd rs1 rs2 : BitVec 5) (hs : s.Wf) : Out.Wf (s.signalWait test rd rs1 rs2) := by
  unfold State.signalWait
  extract_lets op
  refine wf_signalLoc _ _ _ hs ?_
  intro t b ht
  extract_lets u v
  have hu : u.Wf := (State.keeps_loadLines _ _ _ _).2 ht
  exact wf_ifOut (wf_next (wf_except _ _ (wf_poisonRecord _ hu))) (wf_ifOut (wf_next (wf_retireX _ _ hu)) (wf_next (wf_wait _ hu)))

theorem wf_execSigwait (rd rs1 rs2 : BitVec 5) {s : State} (hs : s.Wf) : Out.Wf (execSigwait rd rs1 rs2 s) := by
  unfold execSigwait
  exact wf_signalWait _ _ _ _ hs

theorem wf_execSigwaitm (rd rs1 rs2 : BitVec 5) {s : State} (hs : s.Wf) : Out.Wf (execSigwaitm rd rs1 rs2 s) := by
  unfold execSigwaitm
  exact wf_signalWait _ _ _ _ hs

theorem wf_execFenceS (succ pred : BitVec 5) (scope : BitVec 3) {s : State} (hs : s.Wf) : Out.Wf (execFenceS succ pred scope s) := by
  unfold execFenceS
  exact wf_ifOut (wf_next (wf_retire hs)) (wf_next (wf_retire (wf_hold _ _ _ (wf_releaseAt _ hs))))

theorem wf_execLgset (rd rs1 rs2 : BitVec 5) {s : State} (hs : s.Wf) : Out.Wf (execLgset rd rs1 rs2 s) := by
  unfold execLgset
  extract_lets v t h x old
  exact wf_ifOut (wf_next (wf_illegal _ hs)) (wf_next (wf_retireX _ _ (wf_modHart _ _ hs)))

end Sys2Proof.Machine
end

section
/-! PROOF. Canonical memory: the operations of Machine/Cspec.lean. -/

namespace Sys2Proof.Machine

theorem wf_cspecFail {s : State} (cx : Cx) (c check : Nat) (hs : s.Wf) : (s.cspecFail cx c check).Wf := by
  unfold State.cspecFail
  exact wf_errorRecord _ hs

theorem wf_fireCspec {s : State} (cx : Cx) (c sel : Nat) (hs : s.Wf) : (s.fireCspec cx c sel).1.Wf := by
  unfold State.fireCspec
  extract_lets k u
  have hu : u.Wf := wf_releaseAt _ hs
  refine wf_ifPair hs ?_
  split
  next t e =>
    have ht : t.Wf := wf_fst e ((State.keeps_xlateRange _ _ _ _ _).2 hu)
    exact wf_cspecFail _ _ _ ht
  next t _ e =>
    have ht : t.Wf := wf_fst e ((State.keeps_xlateRange _ _ _ _ _).2 hu)
    split
    · split
      · exact wf_ifPair (wf_cspecFail _ _ _ ht) (wf_publish _ _ ht)
      · exact wf_errorRecord _ ht
    · refine wf_ifPair (wf_cspecFail _ _ _ ht) ?_
      refine wf_ifPair (wf_ifPair ((State.keeps_due _ _).2 ht) (wf_cspecFail _ _ _ ht)) ?_
      refine wf_ifPair (wf_cspecFail _ _ _ ht) ?_
      exact wf_ifPair ((State.keeps_atomicAt _ _ _ _ _ _ _).2 ht) ((State.keeps_atomicAt _ _ _ _ _ _ _).2 ht)
  next t _ _ _ e2 =>
    have ht : t.Wf := wf_fst e2 ((State.keeps_xlateRange _ _ _ _ _).2 hu)
    exact wf_cspecFail _ _ _ ht

theorem wf_fireOnce {s : State} (cx : Cx) (c : Nat) (hs : s.Wf) : (s.fireOnce cx c).1.Wf := by
  unfold State.fireOnce
  exact wf_fireCspec _ _ _ hs

end Sys2Proof.Machine
end

section
/-! PROOF. Canonical memory: the operations of Machine/Copy.lean. -/

namespace Sys2Proof.Machine

theorem wf_issueCopy {s : State} (two : Bool) (rd rs1 rs2 rs3 : BitVec 5) (hs : s.Wf) : Out.Wf (s.issueCopy two rd rs1 rs2 rs3) := by
  unfold State.issueCopy
  extract_lets ctl c _ u u1 u2 u3
  have hu : u.Wf := wf_of_mem hs
  have hu1 : u1.Wf := (State.keeps_due _ _).2 hu
  have hu2 : u2.Wf := wf_modMe _ hu1
  have hu3 : u3.Wf := wf_if (wf_hold _ _ _ hu2) hu2
  exact wf_ifOut (wf_next (wf_cmdFault _ hs)) (wf_ifOut (wf_next (wf_wait _ hs)) (wf_next (wf_retireX _ _ hu3)))

theorem wf_execCpy (rd rs1 rs2 rs3 : BitVec 5) {s : State} (hs : s.Wf) : Out.Wf (execCpy rd rs1 rs2 rs3 s) := by
  unfold execCpy
  exact wf_issueCopy _ _ _ _ _ hs

theorem wf_execCpy2 (rd rs1 rs2 rs3 : BitVec 5) {s : State} (hs : s.Wf) : Out.Wf (execCpy2 rd rs1 rs2 rs3 s) := by
  unfold execCpy2
  exact wf_issueCopy _ _ _ _ _ hs

theorem wf_modCopy {s : State} (id : Nat) (f : Copy → Copy) (hs : s.Wf) : (s.modCopy id f).Wf := by
  unfold State.modCopy
  split
  · exact wf_of_mem hs
  · exact hs

theorem wf_suspend {s : State} (id : Nat) (pflag : Bool) (hs : s.Wf) : (s.suspend id pflag).Wf := by
  unfold State.suspend
  extract_lets full u
  have hu : u.Wf := wf_modCopy _ _ hs
  split
  · exact wf_if ((State.keeps_due _ _).2 hu) hu
  · exact hu

theorem wf_tableFreed {s : State} (hs : s.Wf) : (s.tableFreed).Wf := by
  unfold State.tableFreed
  refine wf_if hs ?_
  split
  · exact wf_modCopy _ _ hs
  · exact hs

theorem wf_copyStops {s : State} (id : Nat) (hs : s.Wf) : (s.copyStops id).Wf := by
  unfold State.copyStops
  split
  · refine wf_if hs ?_
    split
    · extract_lets rights u
      have hu : u.Wf := wf_modCopy _ _ hs
      exact wf_sendPrg _ _ _ hu
    · exact wf_suspend _ _ hs
  · exact hs

theorem wf_resendCopy {s : State} (id : Nat) (hs : s.Wf) : (s.resendCopy id).Wf := by
  unfold State.resendCopy
  split
  · extract_lets eng u
    have hu : u.Wf := wf_modCopy _ _ hs
    exact (State.keeps_due _ _).2 hu
  · exact hs

theorem wf_dropCopy {s : State} (id : Nat) (hs : s.Wf) : (s.dropCopy id).Wf := by
  unfold State.dropCopy
  extract_lets _ u
  have hu : u.Wf := wf_of_mem hs
  exact wf_tableFreed hu

theorem wf_chunkFault {s : State} (id k code : Nat) (va : Word) (hs : s.Wf) : (s.chunkFault id k code va).Wf := by
  unfold State.chunkFault
  exact wf_copyStops _ (wf_modCopy _ _ hs)

theorem wf_pieceLocs (cx : Cx) (acc : Acc) (l : List (Word × Nat)) {s : State} (hs : s.Wf) : (State.pieceLocs cx acc l s).1.Wf := by
  induction l generalizing s with
  | nil => exact hs
  | cons p l ih =>
    have hp : (s.xlateAll cx acc p.1 p.2).1.Wf := (s.keeps_xlateAll cx acc p.1 p.2).2 hs
    unfold State.pieceLocs
    split
    next t _ e =>
      have ht : t.Wf := wf_fst e hp
      have hr : (State.pieceLocs cx acc l t).1.Wf := ih ht
      split
      next u _ e' => exact wf_fst e' hr
      · exact hr
    · exact hp

theorem wf_writeLocs {s : State} (l : List (Nat × Nat)) (bs : List Byte) (hs : s.Wf) : (s.writeLocs l bs).Wf := by
  unfold State.writeLocs
  refine wf_foldlPair ?_ hs _
  intro p a ht
  exact (State.keeps_agentWrite _ _ _).2 ht

theorem wf_chunkUnit {s : State} (c : Copy) (k : Nat) (hs : s.Wf) : (s.chunkUnit c k).1.Wf := by
  unfold State.chunkUnit
  split
  · split
    next t _ e1 =>
      have ht : t.Wf := wf_fst e1 ((State.keeps_xlate _ _ _ _).2 hs)
      exact ht
    next t _ _ e2 =>
      have ht : t.Wf := wf_fst e2 ((State.keeps_xlate _ _ _ _).2 hs)
      exact ht
  · exact hs

theorem wf_moveChunk {s : State} (id k : Nat) (c : Copy) (hs : s.Wf) : (s.moveChunk id k c).Wf := by
  unfold State.moveChunk
  split
  next t _ e =>
    have ht : t.Wf := wf_fst e (wf_chunkUnit _ _ (wf_releaseAt _ hs))
    extract_lets cx ps started late
    have hstarted : ∀ (s : State), s.Wf → (started s).Wf := fun t1 ht1 => (State.keeps_due _ _).2 (wf_modCopy _ _ ht1)
    split
    next t2 _ _ e1 =>
      have ht2 : t2.Wf := wf_fst e1 (wf_pieceLocs _ _ _ ht)
      exact wf_chunkFault _ _ _ _ ht2
    next t2 _ e1 =>
      have ht2 : t2.Wf := wf_fst e1 (wf_pieceLocs _ _ _ ht)
      extract_lets u bs
      have hu : u.Wf := by
        refine wf_foldl ?_ ht2 _
        intro t3 a ht3
        exact (State.keeps_loadLines _ _ _ _).2 ht3
      split
      · exact wf_chunkFault _ _ _ _ (wf_poisonRecord _ hu)
      · refine wf_if ((State.keeps_due _ _).2 hu) ?_
        split
        · exact hstarted _ (wf_modMat _ _ hu)
        · split
          next t4 _ _ e4 =>
            have ht4 : t4.Wf := wf_fst e4 (wf_pieceLocs _ _ _ hu)
            exact wf_chunkFault _ _ _ _ ht4
          next t4 _ e4 =>
            have ht4 : t4.Wf := wf_fst e4 (wf_pieceLocs _ _ _ hu)
            exact wf_if ((State.keeps_due _ _).2 ht4) (hstarted _ (wf_writeLocs _ _ ht4))

theorem wf_execCopyChunkExecute {s : State} (hs : s.Wf) : Out.Wf (execCopyChunkExecute s) := by
  unfold execCopyChunkExecute
  split
  · split
    · exact wf_next hs
    · exact wf_ifOut (wf_next hs) (wf_ifOut (wf_next (wf_moveChunk _ _ _ hs)) (wf_next ((State.keeps_due _ _).2 hs)))
  · exact wf_next hs

theorem wf_landChunk {s : State} (id k : Nat) (c : Copy) (hs : s.Wf) : (s.landChunk id k c).Wf := by
  unfold State.landChunk
  extract_lets cs u u1 u2
  have hu1 : u1.Wf := wf_modCopy _ _ hs
  have hu2 : u2.Wf := wf_if (wf_fireCspec _ _ _ hu1) hu1
  exact wf_if (wf_dropCopy _ (wf_if hu2 (wf_fireOnce _ _ hu2))) (wf_copyStops _ hu2)

theorem wf_execChunkLand {s : State} (hs : s.Wf) : Out.Wf (execChunkLand s) := by
  unfold execChunkLand
  split
  · split
    · exact wf_next (wf_if (wf_landChunk _ _ _ hs) hs)
    · exact wf_next hs
  · exact wf_next hs

theorem wf_cpyq {s : State} (n : Nat) (rs2 : BitVec 5) (k : Out) (hs : s.Wf) (hk : Out.Wf k) : Out.Wf (s.cpyq n rs2 k) := by
  unfold State.cpyq
  exact wf_ifOut hk (wf_next (wf_cmdFault _ hs))

theorem wf_execCpyqState (rd rs1 rs2 : BitVec 5) {s : State} (hs : s.Wf) : Out.Wf (execCpyqState rd rs1 rs2 s) := by
  unfold execCpyqState
  exact wf_cpyq _ _ _ hs (wf_next (wf_retireX _ _ hs))

theorem wf_execCpyqRetry (rd rs1 rs2 : BitVec 5) {s : State} (hs : s.Wf) : Out.Wf (execCpyqRetry rd rs1 rs2 s) := by
  unfold execCpyqRetry
  refine wf_cpyq _ _ _ hs ?_
  split
  · exact wf_next (wf_retireX _ _ (wf_tableFreed (wf_resendCopy _ hs)))
  · exact wf_next (wf_retireX _ _ hs)

theorem wf_execCpyqAbandon (rd rs1 rs2 : BitVec 5) {s : State} (hs : s.Wf) : Out.Wf (execCpyqAbandon rd rs1 rs2 s) := by
  unfold execCpyqAbandon
  refine wf_cpyq _ _ _ hs ?_
  split
  · exact wf_next (wf_retireX _ _ (wf_dropCopy _ hs))
  · exact wf_next (wf_retireX _ _ hs)

theorem wf_execCpyqNext (rd rs1 rs2 : BitVec 5) {s : State} (hs : s.Wf) : Out.Wf (execCpyqNext rd rs1 rs2 s) := by
  unfold execCpyqNext
  extract_lets x
  exact wf_cpyq _ _ _ hs (wf_next (wf_retireX _ _ hs))

theorem wf_execCpyqFaddr (rd rs1 rs2 : BitVec 5) {s : State} (hs : s.Wf) : Out.Wf (execCpyqFaddr rd rs1 rs2 s) := by
  unfold execCpyqFaddr
  exact wf_cpyq _ _ _ hs (wf_next (wf_retireX _ _ hs))

end Sys2Proof.Machine
end

section
/-! PROOF. Canonical memory: the operations of Machine/Queue.lean. -/

namespace Sys2Proof.Machine

theorem wf_modQueue {s : State} (q : Nat) (f : Queue → Queue) (hs : s.Wf) : (s.modQueue q f).Wf := by
  unfold State.modQueue
  split
  · exact wf_of_mem hs
  · exact hs

theorem wf_modPart {s : State} (q d : Nat) (f : Part → Part) (hs : s.Wf) : (s.modPart q d f).Wf := by
  unfold State.modPart
  exact wf_of_mem hs

theorem wf_modPkt {s : State} (pk : Nat) (f : Pkt → Pkt) (hs : s.Wf) : (s.modPkt pk f).Wf := by
  unfold State.modPkt
  split
  · exact wf_of_mem hs
  · exact hs

theorem wf_modInst {s : State} (i : Nat) (f : Inst → Inst) (hs : s.Wf) : (s.modInst i f).Wf := by
  unfold State.modInst
  split
  · exact wf_of_mem hs
  · exact hs

theorem wf_kick {s : State} (d : Nat) (hs : s.Wf) : (s.kick d).Wf := by
  unfold State.kick
  exact wf_if hs ((State.keeps_due _ _).2 hs)

theorem wf_kickAll {s : State} (q : Queue) (hs : s.Wf) : (s.kickAll q).Wf := by
  unfold State.kickAll
  refine wf_foldl ?_ hs _
  intro t a ht
  exact wf_kick _ ht

theorem wf_status {s : State} (q code reason die seq inst detail : Nat) (hs : s.Wf) : (s.status q code reason die seq inst detail).Wf := by
  unfold State.status
  split
  · exact hs
  · refine wf_if hs ?_
    extract_lets u n u1
    have hu : u.Wf := (State.keeps_loadLines _ _ _ _).2 hs
    have hu1 : u1.Wf := (State.keeps_agentWrite _ _ _).2 hu
    exact wf_if ((State.keeps_agentWrite _ _ _).2 (wf_modQueue _ _ hu)) ((State.keeps_agentWrite _ _ _).2 (wf_modQueue _ _ hu1))

theorem wf_instStatus {s : State} (i : Nat) (code reason detail : Nat) (hs : s.Wf) : (s.instStatus i code reason detail).Wf := by
  unfold State.instStatus
  split
  · split
    · exact wf_status _ _ _ _ _ _ _ hs
    · exact hs
  · exact hs

theorem wf_addEntry {s : State} (qid d : Nat) (e : Entry) (ahead : Bool) (hs : s.Wf) : (s.addEntry qid d e ahead).Wf := by
  unfold State.addEntry
  split
  · exact hs
  · extract_lets k share later
    exact wf_kick _ (wf_modPart _ _ _ hs)

theorem wf_accept {s : State} (qid : Nat) (q : Queue) (d slot : Nat) (m : Image) (hs : s.Wf) : (s.accept qid q d slot m).Wf := by
  unfold State.accept
  extract_lets p pk pkt _ u u1 u2
  have hu : u.Wf := wf_of_mem hs
  have hu1 : u1.Wf := wf_modPart _ _ _ hu
  have hu2 : u2.Wf := (State.keeps_agentWrite _ _ _).2 hu1
  exact wf_if (wf_kick _ hu2) (wf_addEntry _ _ _ _ hu2)

theorem wf_offer {s : State} (qid : Nat) (q : Queue) (die : Nat) (m : Image) (late : Bool) (hs : s.Wf) : (s.offer qid q die m late).1.Wf := by
  unfold State.offer
  split
  · exact hs
  · refine wf_ifPair hs ?_
    extract_lets d p
    split
    · exact wf_ifPair (wf_accept _ _ _ _ _ hs) hs
    · exact hs

theorem wf_setRecord {s : State} (pa st link : Nat) (hs : s.Wf) : (setRecord s pa st link).Wf := by
  unfold setRecord
  exact (State.keeps_agentWrite _ _ _).2 hs

theorem wf_takeParked (qid : Nat) (q : Queue) (d slot : Nat) (l : List Nat) {s : State} (hs : s.Wf) :
    (State.takeParked qid q d slot l s).Wf := by
  induction l generalizing s with
  | nil => exact wf_modPart _ _ _ hs
  | cons pa rest ih =>
    unfold State.takeParked
    split
    · split
      next t _ e =>
        have ht : t.Wf := wf_fst e ((State.keeps_free _).2 hs)
        exact ih (wf_setRecord _ _ _ (wf_status _ _ _ _ _ _ _ ht))
    · exact wf_setRecord _ _ _ (wf_accept _ _ _ _ _ (wf_modPart _ _ _ hs))

theorem wf_slotFrees {s : State} (qid d slot : Nat) (hs : s.Wf) : (s.slotFrees qid d slot).Wf := by
  unfold State.slotFrees
  split
  · exact hs
  · extract_lets u
    have hu : u.Wf := wf_modPart _ _ _ hs
    exact wf_kick _ (wf_takeParked _ _ _ _ _ hu)

theorem wf_checkEmpty {s : State} (qid : Nat) (hs : s.Wf) : (s.checkEmpty qid).Wf := by
  unfold State.checkEmpty
  split
  · exact wf_if ((State.keeps_due _ _).2 hs) hs
  · exact hs

theorem wf_endPacket {s : State} (pk : Nat) (hs : s.Wf) : (s.endPacket pk).Wf := by
  unfold State.endPacket
  split
  · exact hs
  · split
    · exact hs
    · refine wf_if hs ?_
      split
      next t _ e2 =>
        have ht : t.Wf := wf_fst e2 (wf_ifPair hs (wf_fireOnce _ _ hs))
        extract_lets u u1 _ u2 u3
        have hu : u.Wf := wf_if ht (wf_status _ _ _ _ _ _ _ ht)
        have hu1 : u1.Wf := by
          dsimp only [u1]
          split
          · exact wf_status _ _ _ _ _ _ _ hu
          · exact hu
        have hu2 : u2.Wf := wf_if ((State.keeps_due _ _).2 (wf_modPkt _ _ hu1)) (wf_of_mem hu1)
        have hu3 : u3.Wf := wf_if (wf_slotFrees _ _ _ hu2) hu2
        exact wf_checkEmpty _ (wf_kickAll _ hu3)

theorem wf_checkDone {s : State} (pk : Nat) (hs : s.Wf) : (s.checkDone pk).Wf := by
  unfold State.checkDone
  split
  · exact wf_if (wf_endPacket _ hs) hs
  · exact hs

theorem wf_failPacket {s : State} (pk code detail : Nat) (hs : s.Wf) : (s.failPacket pk code detail).Wf := by
  unfold State.failPacket
  exact wf_endPacket _ (wf_modPkt _ _ hs)

theorem wf_dropSlices {s : State} (pk n : Nat) (hs : s.Wf) : (s.dropSlices pk n).Wf := by
  unfold State.dropSlices
  exact wf_if hs (wf_checkDone _ (wf_modPkt _ _ hs))

theorem wf_refusePacket {s : State} (qid : Nat) (q : Queue) (d : Nat) (m : Image) (why : Nat) (hs : s.Wf) : (s.refusePacket qid q d m why).Wf := by
  unfold State.refusePacket
  extract_lets bad
  split
  next t _ e =>
    have ht : t.Wf := wf_fst e (wf_ifPair hs (wf_fireOnce _ _ hs))
    split
    next t1 _ e1 =>
      have ht1 : t1.Wf := wf_fst e1 ((State.keeps_free _).2 ht)
      extract_lets u
      have hu : u.Wf := wf_if ht1 (wf_status _ _ _ _ _ _ _ ht1)
      exact wf_status _ _ _ _ _ _ _ hu

theorem wf_endWheel {s : State} (w : Wheel) (code : Nat) (hs : s.Wf) : (s.endWheel w code).Wf := by
  unfold State.endWheel
  split
  next t _ e =>
    have ht : t.Wf := wf_fst e ((State.keeps_free _).2 hs)
    extract_lets pk pkt _
    exact wf_endPacket _ (wf_of_mem ht)

theorem wf_copyRecord {s : State} (c : Copy) (code : Nat) (hs : s.Wf) : (s.copyRecord c code).Wf := by
  unfold State.copyRecord
  split
  · exact wf_status _ _ _ _ _ _ _ hs
  · exact hs

theorem wf_abandonCopies {s : State} (code : Nat) (hit : Copy → Bool) (hs : s.Wf) : (s.abandonCopies code hit).Wf := by
  unfold State.abandonCopies
  refine wf_foldl ?_ hs _
  intro t a ht
  exact wf_dropCopy _ (wf_copyRecord _ _ ht)

theorem wf_endCopies {s : State} (i code : Nat) (hs : s.Wf) : (s.endCopies i code).Wf := by
  unfold State.endCopies
  exact wf_abandonCopies _ _ hs

theorem wf_clearMode {s : State} (ci : Nat) (hs : s.Wf) : (s.clearMode ci).Wf := by
  unfold State.clearMode
  exact wf_if (wf_modCore _ _ hs) hs

theorem wf_freeHart {s : State} (h : Nat) (hs : s.Wf) : (s.freeHart h).Wf := by
  unfold State.freeHart
  extract_lets ci u u1 u2 _ u3
  have hu : u.Wf := wf_dropGrant _ (wf_killBlocks _ hs)
  have hu1 : u1.Wf := wf_if (wf_matRelease _ hu) hu
  have hu2 : u2.Wf := wf_modHart _ _ (wf_drain _ hu1)
  have hu3 : u3.Wf := wf_of_mem hu2
  exact wf_kick _ (wf_clearMode _ hu3)

theorem wf_freeSave {s : State} (i : Nat) (hs : s.Wf) : (s.freeSave i).Wf := by
  unfold State.freeSave
  split
  · split
    · exact wf_modQueue _ _ hs
    · exact hs
  · exact hs

theorem wf_checkBars {s : State} (pk : Nat) (hs : s.Wf) : (s.checkBars pk).Wf := by
  unfold State.checkBars
  split
  · exact (State.keeps_due _ _).2 hs
  · exact hs

theorem wf_unreserve {s : State} (i : Nat) (hs : s.Wf) : (s.unreserve i).Wf := by
  unfold State.unreserve
  split
  · exact wf_modMat _ _ hs
  · exact hs

theorem wf_closeInst {s : State} (i code : Nat) (hs : s.Wf) : (s.closeInst i code).Wf := by
  unfold State.closeInst
  extract_lets u hart _ _ u1
  have hu : u.Wf := wf_unreserve _ (wf_freeSave _ (wf_endCopies _ _ hs))
  have hu1 : u1.Wf := wf_of_mem hu
  clear_value hart
  split
  · exact wf_freeHart _ hu1
  · exact hu1

theorem wf_endInst {s : State} (i : Nat) (good : Bool) (code : Nat) (hs : s.Wf) : (s.endInst i good code).Wf := by
  unfold State.endInst
  split
  · exact hs
  · extract_lets u u1
    have hu : u.Wf := wf_closeInst _ _ hs
    have hu1 : u1.Wf := wf_modPkt _ _ hu
    exact wf_kick _ (wf_kick _ (wf_checkDone _ (wf_checkBars _ hu1)))

theorem wf_loseInst {s : State} (i code reason detail : Nat) (hs : s.Wf) : (s.loseInst i code reason detail).Wf := by
  unfold State.loseInst
  exact wf_endInst _ _ _ (wf_instStatus _ _ _ _ hs)

theorem wf_dropEntry {s : State} (d : Nat) (e : Entry) (code : Nat) (hs : s.Wf) : (s.dropEntry d e code).Wf := by
  unfold State.dropEntry
  split
  · exact hs
  · refine wf_if (wf_dropSlices _ _ hs) ?_
    split
    · extract_lets sh
      exact wf_dropSlices _ _ (wf_modPkt _ _ hs)
    · exact wf_if (wf_endInst _ _ _ hs) (wf_dropSlices _ _ hs)

theorem wf_dropOverflow {s : State} (qid d : Nat) (hs : s.Wf) : (s.dropOverflow qid d).Wf := by
  unfold State.dropOverflow
  extract_lets l
  refine wf_foldl ?_ (wf_modPart _ _ _ hs) _
  intro t a ht
  exact wf_setRecord _ _ _ ht

theorem wf_dropWork {s : State} (qid code : Nat) (hs : s.Wf) : (s.dropWork qid code).Wf := by
  unfold State.dropWork
  extract_lets u ws _ u1 u2 u3 u4
  have hu : u.Wf := by
    refine wf_foldl ?_ hs _
    intro t a ht
    exact wf_dropOverflow _ _ ht
  have hu1 : u1.Wf := wf_of_mem hu
  have hu2 : u2.Wf := by
    refine wf_foldl ?_ hu1 _
    intro t1 a1 ht1
    exact wf_endWheel _ _ ht1
  have hu3 : u3.Wf := by
    refine wf_foldl ?_ hu2 _
    intro t2 a2 ht2
    extract_lets l
    refine wf_foldl ?_ (wf_modPart _ _ _ ht2) _
    intro t3 a3 ht3
    exact wf_dropEntry _ _ _ ht3
  have hu4 : u4.Wf := by
    refine wf_foldl ?_ hu3 _
    intro t4 a4 ht4
    exact wf_endPacket _ (wf_modPkt _ _ ht4)
  refine wf_foldl ?_ hu4 _
  intro t5 a5 ht5
  extract_lets c l1 u5
  have hu5 : u5.Wf := wf_modCore _ _ ht5
  refine wf_clearMode _ ?_
  refine wf_foldl ?_ hu5 _
  intro t6 a6 ht6
  exact wf_dropEntry _ _ _ ht6

theorem wf_toGuest {s : State} (m : List Nat) (hs : s.Wf) : (s.toGuest m).Wf := by
  unfold State.toGuest
  exact wf_of_mem hs

theorem wf_guestDrop {s : State} (qid : Nat) (hs : s.Wf) : (s.guestDrop qid).Wf := by
  unfold State.guestDrop
  extract_lets mine
  refine wf_foldl ?_ hs _
  intro t a ht
  extract_lets u _
  have hu : u.Wf := wf_toGuest _ ht
  exact wf_of_mem hu

theorem wf_abortQueue {s : State} (qid : Nat) (hard : Bool) (hs : s.Wf) : (s.abortQueue qid hard).Wf := by
  unfold State.abortQueue
  extract_lets u u1 u2
  have hu : u.Wf := wf_modQueue _ _ hs
  have hu1 : u1.Wf := wf_dropWork _ _ hu
  have hu2 : u2.Wf := by
    dsimp only [u2]
    split
    · refine wf_guestDrop _ ?_
      refine wf_foldl ?_ hu1 _
      intro t a ht
      split
      · exact wf_askHard _ _ ht
      · exact ht
    · exact hu1
  exact wf_checkEmpty _ hu2

theorem wf_stopQueue {s : State} (qid : Nat) (hs : s.Wf) : (s.stopQueue qid).Wf := by
  unfold State.stopQueue
  extract_lets u pkts _ u1 ov u2 u3
  have hu : u.Wf := wf_modQueue _ _ hs
  have hu1 : u1.Wf := wf_of_mem hu
  have hu2 : u2.Wf := by
    refine wf_foldl ?_ hu1 _
    intro t a ht
    split
    next t1 _ e =>
      have ht1 : t1.Wf := wf_fst e ((State.keeps_free _).2 ht)
      exact wf_status _ _ _ _ _ _ _ ht1
  have hu3 : u3.Wf := wf_dropWork _ _ hu2
  refine wf_guestDrop _ ?_
  refine wf_foldl ?_ hu3 _
  intro t2 a1 ht2
  split
  · exact wf_askHard _ _ ht2
  · exact ht2

theorem wf_offerRecord {s : State} (pa qid pasid : Nat) (hs : s.Wf) : (s.offerRecord pa qid pasid).1.Wf := by
  unfold State.offerRecord
  extract_lets d m
  split
  · exact hs
  · refine wf_ifPair hs ?_
    split
    · split
      next t _ e1 =>
        have ht : t.Wf := wf_fst e1 ((State.keeps_free _).2 hs)
        exact wf_status _ _ _ _ _ _ _ (wf_poisonRecord _ ht)
    · split
      next t1 _ e2 =>
        have ht1 : t1.Wf := wf_fst e2 (wf_offer _ _ _ _ _ hs)
        exact ht1
      next t1 _ e2 =>
        have ht1 : t1.Wf := wf_fst e2 (wf_offer _ _ _ _ _ hs)
        extract_lets u
        have hu : u.Wf := by
          dsimp only [u]
          split
          · exact (State.keeps_agentWrite _ _ _).2 ht1
          · exact ht1
        exact wf_modPart _ _ _ hu
      next t1 e2 =>
        have ht1 : t1.Wf := wf_fst e2 (wf_offer _ _ _ _ _ hs)
        exact wf_refusePacket _ _ _ _ _ ht1
      next t1 _ e2 =>
        have ht1 : t1.Wf := wf_fst e2 (wf_offer _ _ _ _ _ hs)
        exact wf_refusePacket _ _ _ _ _ ht1

theorem wf_recordStep {s : State} (pa : Nat) (hs : s.Wf) : (s.recordStep pa).Wf := by
  unfold State.recordStep
  exact (State.keeps_atomicAt _ _ _ _ _ _ _).2 hs

theorem wf_decrementHere {s : State} (pa : Nat) (hs : s.Wf) : (s.decrementHere pa).Wf := by
  unfold State.decrementHere
  extract_lets st n u
  have hu : u.Wf := (State.keeps_pokeN _ _ _ _).2 hs
  refine wf_if ((State.keeps_pokeN _ _ _ _).2 hs) ?_
  refine wf_if hu ?_
  split
  next t _ e =>
    have ht : t.Wf := wf_fst e (wf_offerRecord _ _ _ hu)
    exact (State.keeps_pokeN _ _ _ _).2 ht

theorem wf_decrement {s : State} (pa : Nat) (hs : s.Wf) : (s.decrement pa).Wf := by
  unfold State.decrement
  exact wf_decrementHere _ (wf_recordStep _ hs)

theorem wf_armRecord {s : State} (pa count qid pasid : Nat) (hs : s.Wf) : (s.armRecord pa count qid pasid).Wf := by
  unfold State.armRecord
  extract_lets st n u
  have hu : u.Wf := (State.keeps_poke _ _ _).2 hs
  exact wf_if hs (wf_if (wf_decrementHere _ hu) hu)

theorem wf_releaseWheel {s : State} (d : Nat) (hs : s.Wf) : (s.releaseWheel d).Wf := by
  unfold State.releaseWheel
  extract_lets now ws
  refine wf_foldl ?_ hs _
  intro t a ht
  extract_lets out
  have hout : ∀ (s : State), s.Wf → (out s).Wf := fun t1 ht1 => wf_of_mem ht1
  split
  · exact hout _ ht
  · split
    next t2 _ e1 =>
      have ht2 : t2.Wf := wf_fst e1 (wf_offer _ _ _ _ _ ht)
      exact hout _ ht2
    next t2 _ e1 =>
      have ht2 : t2.Wf := wf_fst e1 (wf_offer _ _ _ _ _ ht)
      exact ht2
    next t2 e1 =>
      have ht2 : t2.Wf := wf_fst e1 (wf_offer _ _ _ _ _ ht)
      exact hout _ (wf_refusePacket _ _ _ _ _ ht2)
    next t2 _ e1 =>
      have ht2 : t2.Wf := wf_fst e1 (wf_offer _ _ _ _ _ ht)
      exact hout _ (wf_refusePacket _ _ _ _ _ ht2)

end Sys2Proof.Machine
end

section
/-! PROOF. Canonical memory: the operations of Machine/CohEv.lean. -/

namespace Sys2Proof.Machine

theorem wf_orStop {s : State} (n : Nat) {r : Option State} (hs : s.Wf) (hr : State.OptWf r) : Out.Wf (s.orStop n r) := by
  unfold State.orStop
  cases r with
  | some t => exact wf_next (hr t rfl)
  | none => exact wf_ifOut (wf_next ((State.keeps_due _ _).2 hs)) (wf_fault _)

theorem wf_nodeInv {s : State} (n l : Nat) (hs : s.Wf) : State.OptWf (s.nodeInv n l) := fun _ h => (State.keeps_nodeInv h).2 hs

theorem wf_nodeTake {s : State} (n l : Nat) (b late : Bool) (hs : s.Wf) : State.OptWf (s.nodeTake n l b late) :=
  fun _ h => (State.keeps_nodeTake h).2 hs

theorem wf_nodeDataS {s : State} (n l : Nat) (hs : s.Wf) : State.OptWf (s.nodeDataS n l) := fun _ h => (State.keeps_nodeDataS h).2 hs

theorem wf_nodeDataE {s : State} (n l : Nat) (hs : s.Wf) : State.OptWf (s.nodeDataE n l) := fun _ h => (State.keeps_nodeDataE h).2 hs

theorem wf_nodeGrantX {s : State} (n l : Nat) (hs : s.Wf) : State.OptWf (s.nodeGrantX n l) := fun _ h => (State.keeps_nodeGrantX h).2 hs

theorem wf_nodeWbgo {s : State} (n l : Nat) (hs : s.Wf) : State.OptWf (s.nodeWbgo n l) := fun _ h => (State.keeps_nodeWbgo h).2 hs

theorem wf_nodeWbstale {s : State} (n l : Nat) (hs : s.Wf) : State.OptWf (s.nodeWbstale n l) := fun _ h => (State.keeps_nodeWbstale h).2 hs

theorem wf_execGets {s : State} (hs : s.Wf) : Out.Wf (execGets s) := by
  unfold execGets
  split
  · exact wf_next ((State.keeps_homeArrive _ _ _).2 hs)
  · exact wf_next hs

theorem wf_execGetx {s : State} (hs : s.Wf) : Out.Wf (execGetx s) := by
  unfold execGetx
  split
  · exact wf_next ((State.keeps_homeArrive _ _ _).2 hs)
  · exact wf_next hs

theorem wf_execUpg {s : State} (hs : s.Wf) : Out.Wf (execUpg s) := by
  unfold execUpg
  split
  · exact wf_next ((State.keeps_homeArrive _ _ _).2 hs)
  · exact wf_next hs

theorem wf_execPuts {s : State} (hs : s.Wf) : Out.Wf (execPuts s) := by
  unfold execPuts
  split
  · exact wf_next ((State.keeps_homePuts _ _ _).2 hs)
  · exact wf_next hs

theorem wf_execWbreq {s : State} (hs : s.Wf) : Out.Wf (execWbreq s) := by
  unfold execWbreq
  split
  · exact wf_next ((State.keeps_homeArrive _ _ _).2 hs)
  · exact wf_next hs

theorem wf_execWbdata {s : State} (hs : s.Wf) : Out.Wf (execWbdata s) := by
  unfold execWbdata
  split
  · exact wf_next ((State.keeps_homeWbdata _ _ _ _).2 hs)
  · exact wf_next hs

theorem wf_execWrm {s : State} (hs : s.Wf) : Out.Wf (execWrm s) := by
  unfold execWrm
  split
  · refine wf_next ?_
    split
    · exact (State.keeps_homeArrive _ _ _).2 hs
    · exact hs
  · exact wf_next hs

theorem wf_execClean {s : State} (hs : s.Wf) : Out.Wf (execClean s) := by
  unfold execClean
  split
  · exact wf_next ((State.keeps_homeClean _ _ _).2 hs)
  · exact wf_next hs

theorem wf_execAmoRequest {s : State} (hs : s.Wf) : Out.Wf (execAmoRequest s) := by
  unfold execAmoRequest
  split
  · exact wf_next ((State.keeps_homeArrive _ _ _).2 hs)
  · exact wf_next hs

theorem wf_execRdu {s : State} (hs : s.Wf) : Out.Wf (execRdu s) := by
  unfold execRdu
  split
  · exact wf_next ((State.keeps_homeArrive _ _ _).2 hs)
  · exact wf_next hs

theorem wf_execIack {s : State} (hs : s.Wf) : Out.Wf (execIack s) := by
  unfold execIack
  split
  · exact wf_next ((State.keeps_homeIack _ _ _).2 hs)
  · exact wf_next hs

theorem wf_execRdata {s : State} (hs : s.Wf) : Out.Wf (execRdata s) := by
  unfold execRdata
  split
  · exact wf_next ((State.keeps_homeRdata _ _ _ _ _).2 hs)
  · exact wf_next hs

theorem wf_execDataS {s : State} (hs : s.Wf) : Out.Wf (execDataS s) := by
  unfold execDataS
  split
  · exact wf_orStop _ hs (wf_nodeDataS _ _ hs)
  · exact wf_next hs

theorem wf_execDataE {s : State} (hs : s.Wf) : Out.Wf (execDataE s) := by
  unfold execDataE
  split
  · exact wf_orStop _ hs (wf_nodeDataE _ _ hs)
  · exact wf_next hs

theorem wf_execGrantX {s : State} (hs : s.Wf) : Out.Wf (execGrantX s) := by
  unfold execGrantX
  split
  · exact wf_ifOut (wf_fault _) (wf_orStop _ hs (wf_nodeGrantX _ _ hs))
  · exact wf_next hs

theorem wf_execWrack {s : State} (hs : s.Wf) : Out.Wf (execWrack s) := by
  unfold execWrack
  split
  · exact wf_next hs
  · exact wf_next hs

theorem wf_execAmoack {s : State} (hs : s.Wf) : Out.Wf (execAmoack s) := by
  unfold execAmoack
  split
  · exact wf_next hs
  · exact wf_next hs

theorem wf_execInv {s : State} (hs : s.Wf) : Out.Wf (execInv s) := by
  unfold execInv
  split
  · exact wf_orStop _ hs (wf_nodeInv _ _ hs)
  · exact wf_next hs

theorem wf_execRecall {s : State} (hs : s.Wf) : Out.Wf (execRecall s) := by
  unfold execRecall
  split
  · exact wf_orStop _ hs (wf_nodeTake _ _ _ _ hs)
  · exact wf_next hs

theorem wf_execDowngr {s : State} (hs : s.Wf) : Out.Wf (execDowngr s) := by
  unfold execDowngr
  split
  · exact wf_orStop _ hs (wf_nodeTake _ _ _ _ hs)
  · exact wf_next hs

theorem wf_execWbgo {s : State} (hs : s.Wf) : Out.Wf (execWbgo s) := by
  unfold execWbgo
  split
  · exact wf_orStop _ hs (wf_nodeWbgo _ _ hs)
  · exact wf_next hs

theorem wf_execWbstale {s : State} (hs : s.Wf) : Out.Wf (execWbstale s) := by
  unfold execWbstale
  split
  · exact wf_orStop _ hs (wf_nodeWbstale _ _ hs)
  · exact wf_next hs

theorem wf_execReservationTimeout {s : State} (hs : s.Wf) : Out.Wf (execReservationTimeout s) := by
  unfold execReservationTimeout
  split
  · exact wf_next (wf_if ((State.keeps_answerDelayed _ _ _).2 hs) hs)
  · exact wf_next hs

theorem wf_execLlcFill {s : State} (hs : s.Wf) : Out.Wf (execLlcFill s) := by
  unfold execLlcFill
  split
  · exact wf_next ((State.keeps_llcFilled _ _ _).2 hs)
  · exact wf_next hs

theorem wf_corrected {s : State} (e : Err) (hs : s.Wf) : (s.corrected e).Wf := by
  unfold State.corrected
  extract_lets key now n u _
  have hu : u.Wf := wf_errorRecord _ hs
  split
  · extract_lets a
    exact wf_of_mem (memPutNat_wf _ _ _ hs)
  · exact wf_of_mem hu

theorem wf_execLinkError {s : State} (hs : s.Wf) : Out.Wf (execLinkError s) := by
  unfold execLinkError
  split
  · refine wf_ifOut (wf_next hs) ?_
    split
    next t _ e1 =>
      have ht : t.Wf := wf_fst e1 ((State.keeps_free _).2 hs)
      extract_lets _ u
      have hu : u.Wf := wf_of_mem ht
      exact wf_next (wf_corrected _ hu)
  · exact wf_next hs

theorem wf_execLinkRetrainFail {s : State} (hs : s.Wf) : Out.Wf (execLinkRetrainFail s) := by
  unfold execLinkRetrainFail
  split
  · refine wf_ifOut (wf_next hs) ?_
    extract_lets d _ u
    have hu : u.Wf := wf_of_mem hs
    exact wf_next ((State.keeps_due _ _).2 hu)
  · exact wf_next hs

theorem wf_lostDirty {s : State} (l : Nat) (hs : s.Wf) : (s.lostDirty l).Wf := by
  unfold State.lostDirty
  exact wf_errorRecord _ ((State.keeps_loseDirty _ _).2 hs)

theorem wf_voidCopy {s : State} (n l : Nat) (hs : s.Wf) : (s.voidCopy n l).Wf := by
  unfold State.voidCopy
  extract_lets dirty u
  have hu : u.Wf := (State.keeps_setNs _ _ _ _).2 ((State.keeps_dropCopies _ _ _).2 hs)
  exact wf_if (wf_lostDirty _ hu) hu

theorem wf_severTxn {s : State} (gone : Nat → Bool) (l : Nat) (hs : s.Wf) : (s.severTxn gone l).Wf := by
  unfold State.severTxn
  split
  · exact hs
  · extract_lets _ put a
    have hput : ∀ (t : Txn), (put t).Wf := fun t => wf_of_mem hs
    split
    · exact wf_if ((State.keeps_homeFree _ _).2 ((State.keeps_setDir _ _ _).2 ((State.keeps_endTxn _ _).2 hs))) (hput _)
    · exact wf_if ((State.keeps_homeRdata _ _ _ _ _).2 (hput _)) (hput _)
    · exact wf_if ((State.keeps_homeIack _ _ _).2 (hput _)) (hput _)
    · exact hput _

theorem wf_sever {s : State} (d : Nat) (hs : s.Wf) : (s.sever d).Wf := by
  unfold State.sever
  extract_lets lost _ u u1 u2 u3 dir rc _ _ u4
  have hu : u.Wf := wf_of_mem hs
  have hu1 : u1.Wf := by
    refine wf_foldl ?_ hu _
    intro t a ht
    exact wf_lostDirty _ ht
  have hu2 : u2.Wf := by
    refine wf_foldl ?_ hu1 _
    intro t1 a1 ht1
    exact wf_voidCopy _ _ ht1
  have hu3 : u3.Wf := by
    refine wf_foldl ?_ hu2 _
    intro t2 a2 ht2
    exact wf_severTxn _ _ ht2
  have hu4 : u4.Wf := wf_of_mem hu3
  exact wf_errorRecord _ hu4

theorem wf_execSever {s : State} (hs : s.Wf) : Out.Wf (execSever s) := by
  unfold execSever
  split
  · exact wf_next (wf_if (wf_sever _ hs) hs)
  · exact wf_next hs

end Sys2Proof.Machine
end

section
/-! PROOF. Canonical memory: the operations of Machine/Net.lean. -/

namespace Sys2Proof.Machine

theorem wf_modMsg {s : State} (id : Nat) (f : Msg → Msg) (hs : s.Wf) : (s.modMsg id f).Wf := by
  unfold State.modMsg
  split
  · exact wf_of_mem hs
  · exact hs

theorem wf_modEp {s : State} (lep : Nat) (f : Ep → Ep) (hs : s.Wf) : (s.modEp lep f).Wf := by
  unfold State.modEp
  split
  · exact wf_of_mem hs
  · exact hs

theorem wf_epRecord {s : State} (lep code tag iid detail : Nat) (hs : s.Wf) : (s.epRecord lep code tag iid detail).Wf := by
  unfold State.epRecord
  split
  · exact hs
  · split
    next t _ e1 =>
      have ht : t.Wf := wf_fst e1 ((State.keeps_free _).2 hs)
      extract_lets u n u1
      have hu : u.Wf := (State.keeps_loadLines _ _ _ _).2 ht
      have hu1 : u1.Wf := (State.keeps_agentWrite _ _ _).2 hu
      exact wf_if ((State.keeps_agentWrite _ _ _).2 (wf_modEp _ _ hu)) ((State.keeps_agentWrite _ _ _).2 (wf_modEp _ _ hu1))

theorem wf_fencesDone {s : State} (hs : s.Wf) : (s.fencesDone).Wf := by
  unfold State.fencesDone
  extract_lets a _ u
  have hu : u.Wf := wf_of_mem hs
  refine wf_foldl ?_ hu _
  intro t a1 ht
  split
  · exact wf_modHart _ _ ht
  · exact ht

theorem wf_msgEnded {s : State} (id : Nat) (failed : Bool) (hs : s.Wf) : (s.msgEnded id failed).Wf := by
  unfold State.msgEnded
  extract_lets step fs ps set _ u u1
  have hu : u.Wf := wf_of_mem hs
  have hu1 : u1.Wf := by
    refine wf_foldl ?_ hu _
    intro t a ht
    exact wf_answer _ _ _ _ ht
  exact wf_fencesDone hu1

theorem wf_failMsg {s : State} (id code detail : Nat) (hs : s.Wf) : (s.failMsg id code detail).Wf := by
  unfold State.failMsg
  split
  · exact hs
  · split
    next t _ e1 =>
      have ht : t.Wf := wf_fst e1 ((State.keeps_free _).2 hs)
      extract_lets detail1 alive _ u
      have hu : u.Wf := wf_if (wf_of_mem ht) ht
      exact wf_msgEnded _ _ (wf_epRecord _ _ _ _ _ hu)

theorem wf_completeMsg {s : State} (id : Nat) (hs : s.Wf) : (s.completeMsg id).Wf := by
  unfold State.completeMsg
  split
  · exact hs
  · exact wf_msgEnded _ _ (wf_fireOnce _ _ hs)

theorem wf_stopNet {s : State} (pasid : Nat) (hs : s.Wf) : (s.stopNet pasid).Wf := by
  unfold State.stopNet
  refine wf_foldl ?_ hs _
  intro t a ht
  exact wf_failMsg _ _ _ ht

theorem wf_sendPkt {s : State} (id psn : Nat) (hs : s.Wf) : (s.sendPkt id psn).Wf := by
  unfold State.sendPkt
  split
  next t _ e =>
    have ht : t.Wf := wf_fst e ((State.keeps_free _).2 hs)
    split
    · exact wf_of_mem ht
    · exact ht

theorem wf_sendProbe {s : State} (id : Nat) (hs : s.Wf) : (s.sendProbe id).Wf := by
  unfold State.sendProbe
  split
  next t _ e =>
    have ht : t.Wf := wf_fst e ((State.keeps_free _).2 hs)
    split
    · exact wf_of_mem ht
    · exact ht

theorem wf_acceptMsg {s : State} (id : Nat) (m : Msg) (buf : List Byte) (hs : s.Wf) : (s.acceptMsg id m buf).Wf := by
  unfold State.acceptMsg
  extract_lets k base u _ u1
  have hu : u.Wf := wf_modMsg _ _ hs
  have hu1 : u1.Wf := wf_of_mem hu
  refine wf_foldl ?_ hu1 _
  intro t a ht
  exact wf_sendPkt _ _ ht

theorem wf_startMsg {s : State} (id : Nat) (hs : s.Wf) : (s.startMsg id).Wf := by
  unfold State.startMsg
  split
  · exact hs
  · split
    · exact wf_failMsg _ _ _ hs
    · extract_lets u
      have hu : u.Wf := wf_releaseAt _ hs
      refine wf_if (wf_acceptMsg _ _ _ hu) ?_
      split
      next t _ e2 =>
        have ht : t.Wf := wf_fst e2 (wf_readVa _ _ _ hu)
        exact wf_acceptMsg _ _ _ ht
      next t _ _ e2 =>
        have ht : t.Wf := wf_fst e2 (wf_readVa _ _ _ hu)
        exact wf_failMsg _ _ _ ht

theorem wf_tryMsg {s : State} (id : Nat) (hs : s.Wf) : (s.tryMsg id).Wf := by
  unfold State.tryMsg
  exact wf_if (wf_startMsg _ hs) ((State.keeps_due _ _).2 hs)

theorem wf_issueMsg {s : State} (kind : Nat) (rd rs1 rs2 : BitVec 5) (hs : s.Wf) : Out.Wf (s.issueMsg kind rd rs1 rs2) := by
  unfold State.issueMsg
  extract_lets ctl m id _ _ u u1 u2
  have hu : u.Wf := wf_of_mem hs
  have hu1 : u1.Wf := wf_modMe _ hu
  have hu2 : u2.Wf := wf_if (wf_hold _ _ _ hu1) hu1
  exact wf_ifOut (wf_next (wf_cmdFault _ hs)) (wf_ifOut (wf_next (wf_wait _ hs)) (wf_next (wf_tryMsg _ (wf_retireX _ _ hu2))))

theorem wf_execNsend (rd rs1 rs2 : BitVec 5) {s : State} (hs : s.Wf) : Out.Wf (execNsend rd rs1 rs2 s) := by
  unfold execNsend
  exact wf_issueMsg _ _ _ _ hs

theorem wf_execNwrite (rd rs1 rs2 : BitVec 5) {s : State} (hs : s.Wf) : Out.Wf (execNwrite rd rs1 rs2 s) := by
  unfold execNwrite
  exact wf_issueMsg _ _ _ _ hs

theorem wf_execNread (rd rs1 rs2 : BitVec 5) {s : State} (hs : s.Wf) : Out.Wf (execNread rd rs1 rs2 s) := by
  unfold execNread
  exact wf_issueMsg _ _ _ _ hs

theorem wf_execNfence (rd rs1 : BitVec 5) {s : State} (hs : s.Wf) : Out.Wf (execNfence rd rs1 s) := by
  unfold execNfence
  extract_lets sel w f _
  exact wf_ifOut (wf_next (wf_cmdFault _ hs)) (wf_ifOut (wf_next (wf_retireX _ _ hs)) (wf_next (wf_retire (wf_of_mem hs))))

theorem wf_nstat {s : State} (n : Nat) (rs2 : BitVec 5) (k : Out) (hs : s.Wf) (hk : Out.Wf k) : Out.Wf (s.nstat n rs2 k) := by
  unfold State.nstat
  exact wf_ifOut hk (wf_next (wf_cmdFault _ hs))

theorem wf_execNstatState (rd rs1 rs2 : BitVec 5) {s : State} (hs : s.Wf) : Out.Wf (execNstatState rd rs1 rs2 s) := by
  unfold execNstatState
  exact wf_nstat _ _ _ hs (wf_next (wf_retireX _ _ hs))

theorem wf_execNstatNext (rd rs1 rs2 : BitVec 5) {s : State} (hs : s.Wf) : Out.Wf (execNstatNext rd rs1 rs2 s) := by
  unfold execNstatNext
  extract_lets x _
  refine wf_nstat _ _ _ hs ?_
  split
  · exact wf_next (wf_retireX _ _ (wf_of_mem hs))
  · exact wf_next (wf_retireX _ _ hs)

theorem wf_execNstatPending (rd rs1 rs2 : BitVec 5) {s : State} (hs : s.Wf) : Out.Wf (execNstatPending rd rs1 rs2 s) := by
  unfold execNstatPending
  extract_lets x
  exact wf_nstat _ _ _ hs (wf_next (wf_retireX _ _ hs))

theorem wf_execNstatCtva (rd rs1 rs2 : BitVec 5) {s : State} (hs : s.Wf) : Out.Wf (execNstatCtva rd rs1 rs2 s) := by
  unfold execNstatCtva
  exact wf_nstat _ _ _ hs (wf_next (wf_retireX _ _ hs))

theorem wf_execNstatPtp (rd rs1 rs2 : BitVec 5) {s : State} (hs : s.Wf) : Out.Wf (execNstatPtp rd rs1 rs2 s) := by
  unfold execNstatPtp
  extract_lets x
  exact wf_nstat _ _ _ hs (wf_next (wf_retireX _ _ hs))

theorem wf_congestion {s : State} (lep peer : Nat) (hs : s.Wf) : (s.congestion lep peer).Wf := by
  unfold State.congestion
  extract_lets now k _ u n
  have hu : u.Wf := wf_of_mem hs
  refine wf_if hs ?_
  split
  · extract_lets a
    split
    next t _ e2 =>
      have ht : t.Wf := wf_fst e2 ((State.keeps_free _).2 hu)
      split
      next t1 _ e3 =>
        have ht1 : t1.Wf := wf_fst e3 ((State.keeps_free _).2 ht)
        split
        next t2 _ e4 =>
          have ht2 : t2.Wf := wf_fst e4 ((State.keeps_free _).2 ht1)
          extract_lets u1 u2 u3 _
          have hu1 : u1.Wf := (State.keeps_agentWrite _ _ _).2 ht2
          have hu2 : u2.Wf := (State.keeps_agentWrite _ _ _).2 hu1
          have hu3 : u3.Wf := (State.keeps_agentWrite _ _ _).2 hu2
          exact wf_of_mem hu3
  · exact hs

theorem wf_ackTo {s : State} (what : Nat) (p : NetPkt) (v : Nat) (hs : s.Wf) : (s.ackTo what p v).Wf := by
  unfold State.ackTo
  exact wf_of_mem hs

theorem wf_setRx {s : State} (x : Rx) (hs : s.Wf) : (s.setRx x).Wf := by
  unfold State.setRx
  exact wf_of_mem hs

theorem wf_refuse {s : State} (p : NetPkt) (code : Nat) (hs : s.Wf) : (s.refuse p code).Wf := by
  unfold State.refuse
  extract_lets x
  exact wf_ackTo _ _ _ (wf_setRx _ hs)

theorem wf_rodPass {s : State} (p : NetPkt) (hs : s.Wf) : (s.rodPass p).Wf := by
  unfold State.rodPass
  exact wf_if (wf_of_mem hs) hs

theorem wf_takeSlot {s : State} (e : Ep) (p : NetPkt) (hs : s.Wf) : (s.takeSlot e p).1.Wf := by
  unfold State.takeSlot
  split
  · exact hs
  · refine wf_ifPair (wf_refuse _ _ hs) ?_
    split
    next t _ e2 =>
      have ht : t.Wf := wf_fst e2 (wf_readVa _ _ _ hs)
      exact wf_refuse _ _ ht
    next t _ e2 =>
      have ht : t.Wf := wf_fst e2 (wf_readVa _ _ _ hs)
      refine wf_ifPair (wf_ackTo _ _ _ ht) ?_
      extract_lets n head _ x3
      split
      next t1 _ e3 =>
        have ht1 : t1.Wf := wf_fst e3 (wf_writeVa _ _ _ ht)
        exact wf_refuse _ _ ht1
      next t1 _ e3 =>
        have ht1 : t1.Wf := wf_fst e3 (wf_writeVa _ _ _ ht)
        exact wf_setRx _ (wf_modEp _ _ ht1)

theorem wf_rxDone {s : State} (e : Ep) (p : NetPkt) (hs : s.Wf) : (s.rxDone e p).Wf := by
  unfold State.rxDone
  extract_lets u
  have hu : u.Wf := wf_if (wf_fireOnce _ _ hs) hs
  exact wf_ackTo _ _ _ (wf_fireOnce _ _ hu)

theorem wf_placePkt {s : State} (e : Ep) (p : NetPkt) (x : Rx) (va : Nat) (hs : s.Wf) : (s.placePkt e p x va).Wf := by
  unfold State.placePkt
  split
  next t _ e1 =>
    have ht : t.Wf := wf_fst e1 (wf_writeVa _ _ _ hs)
    exact wf_refuse _ _ ht
  next t _ e1 =>
    have ht : t.Wf := wf_fst e1 (wf_writeVa _ _ _ hs)
    extract_lets u placed last u1
    have hu : u.Wf := wf_ackTo _ _ _ (wf_rodPass _ ht)
    have hu1 : u1.Wf := wf_setRx _ hu
    exact wf_if hu (wf_if (wf_rxDone _ _ hu1) hu1)

theorem wf_rxData {s : State} (e : Ep) (p : NetPkt) (hs : s.Wf) : (s.rxData e p).Wf := by
  unfold State.rxData
  extract_lets x
  refine wf_if (wf_ackTo _ _ _ (wf_rodPass _ hs)) ?_
  refine wf_if (wf_ackTo _ _ _ hs) ?_
  refine wf_if (wf_ackTo _ _ _ hs) ?_
  split
  · split
    next t e1 =>
      have ht : t.Wf := wf_fst e1 (wf_takeSlot _ _ hs)
      exact wf_if (wf_rodPass _ ht) ht
    next t _ e1 =>
      have ht : t.Wf := wf_fst e1 (wf_takeSlot _ _ hs)
      exact wf_placePkt _ _ _ _ ht
  · exact wf_if (wf_refuse _ _ (wf_rodPass _ hs)) (wf_placePkt _ _ _ _ hs)

theorem wf_rxRead {s : State} (p : NetPkt) (hs : s.Wf) : (s.rxRead p).Wf := by
  unfold State.rxRead
  split
  · exact hs
  · refine wf_if hs ?_
    split
    next t _ _ e1 =>
      have ht : t.Wf := wf_fst e1 (wf_writeVa _ _ _ hs)
      exact wf_failMsg _ _ _ ht
    next t _ e1 =>
      have ht : t.Wf := wf_fst e1 (wf_writeVa _ _ _ hs)
      extract_lets u
      have hu : u.Wf := wf_modMsg _ _ ht
      exact wf_if (wf_completeMsg _ hu) hu

theorem wf_atEndpoint {s : State} (p : NetPkt) (k : Ep → State) (hs : s.Wf) (hk : ∀ a, (k a).Wf) : (s.atEndpoint p k).Wf := by
  unfold State.atEndpoint
  split
  · exact hs
  · exact wf_if (wf_modEp _ _ hs) (wf_if (hk _) (wf_refuse _ _ hs))

theorem wf_execNetPacketRx {s : State} (hs : s.Wf) : Out.Wf (execNetPacketRx s) := by
  unfold execNetPacketRx
  split
  · exact wf_next (wf_if (wf_rxRead _ hs) (wf_atEndpoint _ _ hs (fun a => wf_rxData _ _ hs)))
  · exact wf_next hs

theorem wf_answerRead {s : State} (e : Ep) (p : NetPkt) (bs : List Byte) (hs : s.Wf) : (s.answerRead e p bs).Wf := by
  unfold State.answerRead
  extract_lets one
  have hone : ∀ (s : State) (i : Nat), s.Wf → (one s i).Wf := by
    intro t i ht
    dsimp only [one]
    exact wf_of_mem ((State.keeps_free _).2 ht)
  refine wf_foldl ?_ hs _
  intro t1 a ht1
  exact hone _ _ ht1

theorem wf_serveRead {s : State} (e : Ep) (p : NetPkt) (hs : s.Wf) : (s.serveRead e p).Wf := by
  unfold State.serveRead
  refine wf_if (wf_refuse _ _ hs) ?_
  split
  next t _ e1 =>
    have ht : t.Wf := wf_fst e1 ((State.keeps_xlateAll _ _ _ _ _).2 hs)
    exact wf_refuse _ _ ht
  next t _ e1 =>
    have ht : t.Wf := wf_fst e1 ((State.keeps_xlateAll _ _ _ _ _).2 hs)
    refine wf_if (wf_refuse _ _ ht) ?_
    split
    next t1 _ e2 =>
      have ht1 : t1.Wf := wf_fst e2 (wf_readVa _ _ _ ht)
      exact wf_refuse _ _ ht1
    next t1 _ e2 =>
      have ht1 : t1.Wf := wf_fst e2 (wf_readVa _ _ _ ht)
      exact wf_answerRead _ _ _ ht1

theorem wf_execNetReadRequest {s : State} (hs : s.Wf) : Out.Wf (execNetReadRequest s) := by
  unfold execNetReadRequest
  split
  · refine wf_next ?_
    refine wf_atEndpoint _ _ hs ?_
    intro a
    refine wf_if (wf_ackTo _ _ _ hs) ?_
    split
    · exact wf_ackTo _ _ _ (wf_rodPass _ hs)
    · exact wf_serveRead _ _ (wf_rodPass _ hs)
  · exact wf_next hs

theorem wf_execNetAck {s : State} (hs : s.Wf) : Out.Wf (execNetAck s) := by
  unfold execNetAck
  split
  · split
    · exact wf_next hs
    · refine wf_ifOut (wf_next hs) ?_
      extract_lets u u1 rudi
      have hu : u.Wf := wf_modMsg _ _ hs
      have hu1 : u1.Wf := wf_congestion _ _ hu
      exact wf_next (wf_if (wf_completeMsg _ hu1) hu1)
  · exact wf_next hs

theorem wf_resendPkt {s : State} (id psn : Nat) (m : Msg) (hs : s.Wf) : (s.resendPkt id psn m).Wf := by
  unfold State.resendPkt
  extract_lets k _ u
  have hu : u.Wf := wf_of_mem hs
  exact wf_congestion _ _ (wf_sendPkt _ _ hu)

theorem wf_execNetNack {s : State} (hs : s.Wf) : Out.Wf (execNetNack s) := by
  unfold execNetNack
  split
  · split
    · exact wf_next hs
    · exact wf_ifOut (wf_next hs) (wf_next (wf_resendPkt _ _ _ (wf_modMsg _ _ hs)))
  · exact wf_next hs

theorem wf_execNetRetransmitTimer {s : State} (hs : s.Wf) : Out.Wf (execNetRetransmitTimer s) := by
  unfold execNetRetransmitTimer
  split
  · split
    · exact wf_next hs
    · refine wf_ifOut (wf_next (wf_tryMsg _ hs)) ?_
      exact wf_ifOut (wf_next (wf_sendProbe _ hs)) (wf_ifOut (wf_next hs) (wf_next (wf_resendPkt _ _ _ hs)))
  · exact wf_next hs

theorem wf_execNetCompletionAck {s : State} (hs : s.Wf) : Out.Wf (execNetCompletionAck s) := by
  unfold execNetCompletionAck
  split
  · split
    · exact wf_next hs
    · refine wf_ifOut (wf_next hs) ?_
      exact wf_ifOut (wf_next (wf_failMsg _ _ _ hs)) (wf_ifOut (wf_next hs) (wf_next (wf_completeMsg _ (wf_congestion _ _ hs))))
  · exact wf_next hs

theorem wf_execNetTimeout {s : State} (hs : s.Wf) : Out.Wf (execNetTimeout s) := by
  unfold execNetTimeout
  split
  · split
    · exact wf_next hs
    · exact wf_next (wf_failMsg _ _ _ hs)
  · exact wf_next hs

theorem wf_execProbe {s : State} (hs : s.Wf) : Out.Wf (execProbe s) := by
  unfold execProbe
  split
  · split
    · exact wf_next hs
    · extract_lets what _
      exact wf_next (wf_of_mem hs)
  · exact wf_next hs

theorem wf_execPtpEvent {s : State} (hs : s.Wf) : Out.Wf (execPtpEvent s) := by
  unfold execPtpEvent
  split
  · exact wf_next (wf_of_mem hs)
  · exact wf_next hs

end Sys2Proof.Machine
end

section
/-! PROOF. Canonical memory: the operations of Machine/Order.lean. -/

namespace Sys2Proof.Machine

theorem wf_command {s : State} (c : MCmd) {k : State} (hs : s.Wf) (hk : k.Wf) : Out.Wf (s.command c k) := by
  unfold State.command
  exact wf_ifOut (wf_next hk) (wf_next ((State.keeps_due _ _).2 hs))

end Sys2Proof.Machine
end

section
/-! PROOF. Canonical memory: the operations of Machine/XlatEv.lean. -/

namespace Sys2Proof.Machine

theorem wf_execWalkComplete {s : State} (hs : s.Wf) : Out.Wf (execWalkComplete s) := by
  unfold execWalkComplete
  split
  · extract_lets cx
    split
    · exact wf_next ((State.keeps_walkFor _ _ _ _ _ _).2 hs)
    · exact wf_next hs
  · exact wf_next hs

theorem wf_dropAll {s : State} (hit : Tlb → Bool) (hs : s.Wf) : (s.dropAll hit).Wf := by
  unfold State.dropAll
  extract_lets p
  refine wf_tlbDrop _ ?_
  refine wf_foldl ?_ hs _
  intro t a ht
  exact wf_coreDrop _ _ ht

theorem wf_finishInval {s : State} (i : Inval) (hs : s.Wf) : (s.finishInval i).Wf := by
  unfold State.finishInval
  extract_lets u u1 _
  have hu : u.Wf := wf_tlbDrop _ hs
  have hu1 : u1.Wf := by
    dsimp only [u1]
    split
    · exact wf_answer _ _ _ _ hu
    · exact hu
  exact wf_if (wf_of_mem hu1) hu1

theorem wf_invalidate {s : State} (i : Inval) (hs : s.Wf) : (s.invalidate i).Wf := by
  unfold State.invalidate
  extract_lets u u1 _
  have hu : u.Wf := wf_dropAll _ hs
  have hu1 : u1.Wf := wf_toGuest _ hu
  exact wf_if (wf_of_mem hu1) (wf_finishInval _ hu)

theorem wf_nextTag {s : State} (hs : s.Wf) : (s.nextTag).1.Wf := by
  unfold State.nextTag
  exact wf_of_mem hs

theorem wf_execInval {s : State} (hs : s.Wf) : Out.Wf (execInval s) := by
  unfold execInval
  split
  · extract_lets a pas
    refine wf_ifOut (wf_next ((State.keeps_due _ _).2 hs)) ?_
    refine wf_ifOut (wf_next (wf_answer _ _ _ _ hs)) ?_
    refine wf_ifOut (wf_next (wf_answer _ _ _ _ hs)) ?_
    refine wf_ifOut (wf_next ((State.keeps_due _ _).2 hs)) ?_
    split
    next t _ e1 =>
      have ht : t.Wf := wf_fst e1 (wf_nextTag hs)
      exact wf_next (wf_invalidate _ ht)
  · exact wf_next hs

theorem wf_execAtsInvalidate {s : State} (hs : s.Wf) : Out.Wf (execAtsInvalidate s) := by
  unfold execAtsInvalidate
  split
  · refine wf_ifOut (wf_next ((State.keeps_due _ _).2 hs)) ?_
    split
    next t _ e1 =>
      have ht : t.Wf := wf_fst e1 (wf_nextTag hs)
      exact wf_next (wf_invalidate _ ht)
  · exact wf_next hs

theorem wf_xrsp {s : State} (pasid tag pa code lg rights : Nat) (hs : s.Wf) : (s.xrsp pasid tag pa code lg rights).Wf := by
  unfold State.xrsp
  exact wf_toGuest _ hs

theorem wf_xreqTry {s : State} (cx : Cx) (va : Word) (l : List Acc) (hs : s.Wf) : (s.xreqTry cx va l).1.Wf := by
  induction l generalizing s with
  | nil => exact hs
  | cons a l ih =>
    have hx : (s.xlate cx a va).1.Wf := (s.keeps_xlate cx a va).2 hs
    unfold State.xreqTry
    extract_lets codes
    split
    · exact hs
    · split
      next t _ e => exact ih (wf_fst e hx)
      next t e => exact wf_fst (t := t) e hx
      next t _ _ _ e => exact wf_fst (t := t) e hx

theorem wf_answerXreq {s : State} (pasid tag va rights : Nat) (hs : s.Wf) : (s.answerXreq pasid tag va rights).Wf := by
  unfold State.answerXreq
  extract_lets cx
  split
  next t _ _ e =>
    have ht : t.Wf := wf_fst e (wf_xreqTry _ _ _ hs)
    exact wf_if (wf_sendPrg _ _ _ ht) (wf_xrsp _ _ _ _ _ _ ht)
  next t e =>
    have ht : t.Wf := wf_fst e (wf_xreqTry _ _ _ hs)
    split
    · exact wf_xrsp _ _ _ _ _ _ ht
    · exact wf_xrsp _ _ _ _ _ _ ht

theorem wf_freeSlot {s : State} (slot status : Nat) (hs : s.Wf) : (s.freeSlot slot status).Wf := by
  unfold State.freeSlot
  split
  · exact hs
  · extract_lets _ u
    have hu : u.Wf := wf_of_mem hs
    split
    · exact wf_answer _ _ _ _ hu
    · exact hu

theorem wf_orphanBack {s : State} (slot gen : Nat) (hs : s.Wf) : (s.orphanBack slot gen).Wf := by
  unfold State.orphanBack
  split
  · exact hs
  · refine wf_if hs ?_
    extract_lets _ u
    have hu : u.Wf := wf_of_mem hs
    exact wf_if (wf_freeSlot _ _ hu) hu

theorem wf_prgFreed {s : State} (hs : s.Wf) : (s.prgFreed).Wf := by
  unfold State.prgFreed
  split
  · exact hs
  · split
    next t _ e1 =>
      have ht : t.Wf := wf_fst e1 (wf_sendPrg _ _ _ (wf_of_mem hs))
      split
      · exact wf_modHart _ _ ht
      · exact ht

theorem wf_parkOk {s : State} (who : PrgFor) (pages : List (Nat × Nat)) (hs : s.Wf) : (s.parkOk who pages).Wf := by
  unfold State.parkOk
  split
  · exact wf_releaseHeld _ _ hs
  · exact wf_resendCopy _ hs
  · exact wf_modHart _ _ hs
  · split
    · exact wf_answerXreq _ _ _ _ hs
    · exact hs
  · exact hs

theorem wf_parkBad {s : State} (who : PrgFor) (pages : List (Nat × Nat)) (hs : s.Wf) : (s.parkBad who pages).Wf := by
  unfold State.parkBad
  split
  · exact wf_modHart _ _ hs
  · exact wf_suspend _ _ hs
  · split
    · exact wf_exceptAt _ _ _ (wf_modHart _ _ hs)
    · exact hs
  · split
    · exact wf_xrsp _ _ _ _ _ _ hs
    · exact hs
  · exact hs

theorem wf_execPrgResponse {s : State} (hs : s.Wf) : Out.Wf (execPrgResponse s) := by
  unfold execPrgResponse
  split
  · split
    · exact wf_next hs
    · extract_lets _ u current _ u1 u2
      have hu : u.Wf := wf_of_mem hs
      have hu1 : u1.Wf := by
        dsimp only [u1]
        split
        · exact wf_of_mem hu
        · exact hu
      have hu2 : u2.Wf := wf_if (wf_orphanBack _ _ hu) (wf_if (wf_parkOk _ _ hu1) (wf_parkBad _ _ hu1))
      exact wf_next (wf_prgFreed hu2)
  · exact wf_next hs

theorem wf_execPrtoExpiry {s : State} (hs : s.Wf) : Out.Wf (execPrtoExpiry s) := by
  unfold execPrtoExpiry
  split
  · split
    · split
      · exact wf_next (wf_parkBad _ _ (wf_of_mem hs))
      · exact wf_next hs
    · split
      · exact wf_next hs
      · extract_lets _ u
        have hu : u.Wf := wf_of_mem hs
        exact wf_next (wf_parkBad _ _ hu)
  · exact wf_next hs

theorem wf_execHostPortReset {s : State} (hs : s.Wf) : Out.Wf (execHostPortReset s) := by
  unfold execHostPortReset
  split
  · extract_lets n _ u
    have hu : u.Wf := wf_of_mem hs
    refine wf_next ?_
    refine wf_foldl ?_ hu _
    intro t a ht
    exact wf_prgFreed ht
  · exact wf_next hs

theorem wf_beginStop {s : State} (pasid slot : Nat) (x : Ctx) (hs : s.Wf) : (s.beginStop pasid slot x).Wf := by
  unfold State.beginStop
  extract_lets mine n _ u qs u1 u2
  have hu : u.Wf := wf_of_mem hs
  have hu1 : u1.Wf := by
    refine wf_foldl ?_ hu _
    intro t a ht
    exact wf_stopQueue _ ht
  have hu2 : u2.Wf := wf_stopNet _ (wf_abandonCopies _ _ hu1)
  split
  · split
    next t1 _ e =>
      have ht1 : t1.Wf := wf_fst e (wf_nextTag hu2)
      extract_lets u3 _
      have hu3 : u3.Wf := wf_toGuest _ ht1
      exact wf_of_mem hu3
  · exact hu2

theorem wf_endStop {s : State} (pasid slot : Nat) (hs : s.Wf) : (s.endStop pasid slot).Wf := by
  unfold State.endStop
  extract_lets u _
  have hu : u.Wf := wf_tlbDrop _ (wf_dropAll _ hs)
  split
  · exact hu
  · extract_lets u1
    have hu1 : u1.Wf := wf_of_mem hu
    exact wf_if (wf_freeSlot _ _ hu1) hu1

theorem wf_execPstop {s : State} (hs : s.Wf) : Out.Wf (execPstop s) := by
  unfold execPstop
  split
  · extract_lets p
    split
    · exact wf_next (wf_answer _ _ _ _ hs)
    · refine wf_ifOut (wf_next (wf_answer _ _ _ _ hs)) ?_
      refine wf_ifOut (wf_next ((State.keeps_due _ _).2 (wf_if (wf_beginStop _ _ _ hs) hs))) ?_
      exact wf_ifOut (wf_next hs) (wf_ifOut (wf_next (wf_endStop _ _ hs)) (wf_next ((State.keeps_due _ _).2 hs)))
  · exact wf_next hs

theorem wf_execDrainTimeout {s : State} (hs : s.Wf) : Out.Wf (execDrainTimeout s) := by
  unfold execDrainTimeout
  split
  · split
    · exact wf_ifOut (wf_next (wf_freeSlot _ _ (wf_errorRecord _ hs))) (wf_next hs)
    · exact wf_next hs
  · exact wf_next hs

end Sys2Proof.Machine
end

section
/-! PROOF. Canonical memory: the operations of Machine/HostEv.lean. -/

namespace Sys2Proof.Machine

theorem wf_toHost {s : State} (a : List Nat) (hs : s.Wf) : (s.toHost a).Wf := by
  unfold State.toHost
  exact wf_of_mem hs

theorem wf_setResult {s : State} (who pasid v : Nat) (hs : s.Wf) : (s.setResult who pasid v).Wf := by
  unfold State.setResult
  extract_lets others port _
  exact wf_of_mem hs

theorem wf_badPut {s : State} (q d who : Nat) (pasid : Option Nat) (hs : s.Wf) : (s.badPut q d who pasid).Wf := by
  unfold State.badPut
  split
  next t _ e =>
    have ht : t.Wf := wf_fst e ((State.keeps_free _).2 hs)
    extract_lets u
    have hu : u.Wf := wf_status _ _ _ _ _ _ _ ht
    split
    · exact wf_setResult _ _ _ hu
    · exact hu

theorem wf_hostPuts {s : State} (qid d who : Nat) (q : Queue) (pasid : Option Nat) (image : List Byte) (hs : s.Wf) :
    (s.hostPuts qid d who q pasid image).Wf := by
  unfold State.hostPuts
  split
  · exact wf_badPut _ _ _ _ hs
  · refine wf_if (wf_badPut _ _ _ _ hs) ?_
    extract_lets m
    split
    next t _ e =>
      have ht : t.Wf := wf_fst e (wf_offer _ _ _ _ _ hs)
      exact wf_setResult _ _ _ ht
    next t _ e =>
      have ht : t.Wf := wf_fst e (wf_offer _ _ _ _ _ hs)
      exact wf_setResult _ _ _ ht
    next t e =>
      have ht : t.Wf := wf_fst e (wf_offer _ _ _ _ _ hs)
      exact wf_setResult _ _ _ (wf_refusePacket _ _ _ _ _ ht)
    next t _ e =>
      have ht : t.Wf := wf_fst e (wf_offer _ _ _ _ _ hs)
      exact wf_setResult _ _ _ (wf_refusePacket _ _ _ _ _ ht)

theorem wf_execHostPut {s : State} (hs : s.Wf) : Out.Wf (execHostPut s) := by
  unfold execHostPut
  split
  · split
    · exact wf_next hs
    · exact wf_ifOut (wf_next hs) (wf_ifOut (wf_next (wf_badPut _ _ _ _ hs)) (wf_next (wf_hostPuts _ _ _ _ _ _ hs)))
  · exact wf_next hs

theorem wf_execPutResultRead {s : State} (hs : s.Wf) : Out.Wf (execPutResultRead s) := by
  unfold execPutResultRead
  split
  · extract_lets v
    exact wf_next (wf_toHost _ hs)
  · exact wf_next hs

theorem wf_execHostBar4Read {s : State} (hs : s.Wf) : Out.Wf (execHostBar4Read s) := by
  unfold execHostBar4Read
  split
  · refine wf_ifOut (wf_next (wf_toHost _ hs)) ?_
    extract_lets u
    have hu : u.Wf := (State.keeps_loadLines _ _ _ _).2 hs
    exact wf_ifOut (wf_next (wf_toHost _ (wf_poisonRecord _ hu))) (wf_next (wf_toHost _ hu))
  · exact wf_next hs

theorem wf_execHostBar4Write {s : State} (hs : s.Wf) : Out.Wf (execHostBar4Write s) := by
  unfold execHostBar4Write
  split
  · exact wf_next (wf_if ((State.keeps_agentWrite _ _ _).2 hs) (wf_toHost _ hs))
  · exact wf_next hs

theorem wf_execHostAtomicop {s : State} (hs : s.Wf) : Out.Wf (execHostAtomicop s) := by
  unfold execHostAtomicop
  split
  · extract_lets kind
    refine wf_ifOut (wf_next (wf_toHost _ hs)) ?_
    refine wf_ifOut (wf_next (wf_toHost _ hs)) ?_
    split
    next t _ e1 =>
      have ht : t.Wf := wf_fst e1 ((State.keeps_atomicAt _ _ _ _ _ _ _).2 hs)
      exact wf_next (wf_toHost _ ht)
  · exact wf_next hs

theorem wf_snoopVoid {s : State} (l : Nat) (hs : s.Wf) : (s.snoopVoid l).Wf := by
  unfold State.snoopVoid
  extract_lets u
  have hu : u.Wf := by
    refine wf_foldl ?_ hs _
    intro t a ht
    split
    · exact (State.keeps_setNs _ _ _ _).2 ((State.keeps_dropCopies _ _ _).2 ht)
    · exact (State.keeps_setNs _ _ _ _).2 ((State.keeps_dropCopies _ _ _).2 ht)
    · exact ht
  exact (State.keeps_setOuter _ _ _).2 ((State.keeps_setDir _ _ _).2 hu)

theorem wf_snooped {s : State} (l : Nat) (again : Ev) {stalled served : State} (hs : s.Wf) (hstalled : stalled.Wf) (hserved : served.Wf) :
    (s.snooped l again stalled served).Wf := by
  unfold State.snooped
  split
  · exact wf_if ((State.keeps_due _ _).2 hs) hstalled
  · exact hserved

theorem wf_execSnpinv {s : State} (hs : s.Wf) : Out.Wf (execSnpinv s) := by
  unfold execSnpinv
  split
  · refine wf_ifOut (wf_next (wf_snooped _ _ hs (wf_toHost _ hs) (wf_toHost _ hs))) ?_
    extract_lets u
    have hu : u.Wf := (State.keeps_setOuter _ _ _).2 ((State.keeps_settle _ _ _).2 ((State.keeps_homeServe _ _ _).2 hs))
    exact wf_next (wf_snooped _ _ hs (wf_toHost _ (wf_snoopVoid _ hs)) (wf_toHost _ hu))
  · exact wf_next hs

theorem wf_execSnpdata {s : State} (hs : s.Wf) : Out.Wf (execSnpdata s) := by
  unfold execSnpdata
  split
  · refine wf_ifOut (wf_next (wf_snooped _ _ hs (wf_toHost _ hs) (wf_toHost _ hs))) ?_
    extract_lets u
    have hu : u.Wf := (State.keeps_setOuter _ _ _).2 ((State.keeps_cohRead _ _ _).2 hs)
    exact wf_next (wf_snooped _ _ hs (wf_toHost _ ((State.keeps_setOuter _ _ _).2 hs)) (wf_toHost _ hu))
  · exact wf_next hs

theorem wf_execSnpcur {s : State} (hs : s.Wf) : Out.Wf (execSnpcur s) := by
  unfold execSnpcur
  split
  · refine wf_ifOut (wf_next (wf_snooped _ _ hs (wf_toHost _ hs) (wf_toHost _ hs))) ?_
    extract_lets u
    have hu : u.Wf := (State.keeps_cohRead _ _ _).2 hs
    exact wf_next (wf_snooped _ _ hs (wf_toHost _ hs) (wf_toHost _ hu))
  · exact wf_next hs

theorem wf_execHostReadComplete {s : State} (hs : s.Wf) : Out.Wf (execHostReadComplete s) := by
  unfold execHostReadComplete
  split
  · refine wf_next ?_
    split
    · exact (State.keeps_outerGrant _ _ _).2 ((State.keeps_outerData _ _ _).2 hs)
    · exact hs
  · exact wf_next hs

theorem wf_atomicAnswer {s : State} (h : Nat) (ok : Bool) (hs : s.Wf) : (s.atomicAnswer h ok).Wf := by
  unfold State.atomicAnswer
  split
  · extract_lets _ u
    have hu : u.Wf := wf_of_mem hs
    split
    · split
      next t _ e1 =>
        have ht : t.Wf := wf_fst e1 ((State.keeps_atomicAt _ _ _ _ _ _ _).2 hu)
        extract_lets u1
        have hu1 : u1.Wf := wf_if (wf_modHart _ _ ht) ht
        exact wf_finish _ _ _ hu1
    · exact wf_exceptAt _ _ _ (wf_modHart _ _ hu)
  · exact hs

theorem wf_execAtomicopCompletion {s : State} (hs : s.Wf) : Out.Wf (execAtomicopCompletion s) := by
  unfold execAtomicopCompletion
  split
  · exact wf_next (wf_atomicAnswer _ _ hs)
  · exact wf_next hs

theorem wf_portError {s : State} (port : Nat) (hs : s.Wf) : (s.portError port).Wf := by
  unfold State.portError
  exact wf_errorRecord _ hs

theorem wf_failTxn {s : State} (l : Nat) (hs : s.Wf) : (s.failTxn l).Wf := by
  unfold State.failTxn
  split
  · exact hs
  · extract_lets _ u back u1
    have hu : u.Wf := wf_of_mem hs
    have hback : ∀ (s : State) (n : Nat), s.Wf → (back s n).Wf :=
      fun t n ht => wf_if ((State.keeps_setNs _ _ _ _).2 ht) (wf_if ((State.keeps_setNs _ _ _ _).2 ht) ht)
    have hu1 : u1.Wf := by
      dsimp only [u1]
      split
      · exact hback _ _ hu
      · exact hback _ _ hu
      · exact hback _ _ hu
      · exact hu
    exact (State.keeps_homeFree _ _).2 ((State.keeps_setBusy _ _ _).2 hu1)

theorem wf_execCompletionTimeout {s : State} (hs : s.Wf) : Out.Wf (execCompletionTimeout s) := by
  unfold execCompletionTimeout
  split
  · extract_lets u
    have hu : u.Wf := by
      refine wf_if (wf_atomicAnswer _ _ hs) ?_
      split
      · exact wf_failTxn _ hs
      · exact hs
    exact wf_next (wf_portError _ hu)
  · exact wf_next hs

theorem wf_execHostLinkDown {s : State} (hs : s.Wf) : Out.Wf (execHostLinkDown s) := by
  unfold execHostLinkDown
  split
  · extract_lets hs1 ls _ u u1 u2 ids u3 u4
    have hu : u.Wf := wf_of_mem hs
    have hu1 : u1.Wf := by
      refine wf_foldl ?_ hu _
      intro t a ht
      exact wf_atomicAnswer _ _ ht
    have hu2 : u2.Wf := by
      refine wf_foldl ?_ hu1 _
      intro t1 a1 ht1
      exact wf_failTxn _ ht1
    have hu3 : u3.Wf := (State.keeps_due _ _).2 hu2
    have hu4 : u4.Wf := wf_if ((State.keeps_due _ _).2 hu3) hu3
    exact wf_next (wf_portError _ hu4)
  · exact wf_next hs

end Sys2Proof.Machine
end

section
/-! PROOF. Canonical memory: the operations of Machine/Guest.lean. -/

namespace Sys2Proof.Machine

theorem wf_cutGuest {s : State} (hs : s.Wf) : (s.cutGuest).Wf := by
  unfold State.cutGuest
  extract_lets owned u _ u1 u2 _
  have hu : u.Wf := by
    refine wf_foldl ?_ hs _
    intro t a ht
    exact wf_errorRecord _ ht
  have hu1 : u1.Wf := wf_of_mem hu
  have hu2 : u2.Wf := by
    refine wf_foldl ?_ hu1 _
    intro t1 a1 ht1
    exact wf_severTxn _ _ ht1
  exact wf_of_mem hu2

theorem wf_dropGuestLine {s : State} (l : Nat) (hs : s.Wf) : (s.dropGuestLine l).Wf := by
  unfold State.dropGuestLine
  extract_lets u _ u1 u2 u3 u4 _
  have hu : u.Wf := wf_if (wf_errorRecord _ hs) hs
  have hu1 : u1.Wf := wf_of_mem hu
  have hu2 : u2.Wf := (State.keeps_dropStale _ _).2 (wf_failTxn _ hu1)
  have hu3 : u3.Wf := by
    refine wf_foldl ?_ hu2 _
    intro t a ht
    exact wf_if ht ((State.keeps_setNs _ _ _ _).2 ((State.keeps_dropCopies _ _ _).2 ht))
  have hu4 : u4.Wf := (State.keeps_llcDrop _ _).2 hu3
  exact wf_of_mem hu4

theorem wf_failGuestPkts {s : State} (hs : s.Wf) : (s.failGuestPkts).Wf := by
  unfold State.failGuestPkts
  extract_lets saved u ids parts _ u1
  have hu : u.Wf := by
    refine wf_foldl ?_ hs _
    intro t a ht
    exact wf_closeInst _ _ ht
  have hu1 : u1.Wf := wf_of_mem hu
  refine wf_foldl ?_ hu1 _
  intro t1 a1 ht1
  exact wf_failPacket _ _ _ ht1

theorem wf_failGuestRecords {s : State} (hs : s.Wf) : (s.failGuestRecords).Wf := by
  unfold State.failGuestRecords
  refine wf_foldl ?_ hs _
  intro t a ht
  extract_lets img bad u
  have hu : u.Wf := wf_modPart _ _ _ ht
  refine wf_foldl ?_ hu _
  intro t1 a1 ht1
  split
  · exact wf_refusePacket _ _ _ _ _ (wf_setRecord _ _ _ ht1)
  · exact ht1

theorem wf_endRevokes {s : State} (hs : s.Wf) : (s.endRevokes).Wf := by
  unfold State.endRevokes
  extract_lets cs
  refine wf_foldl ?_ (wf_of_mem hs) _
  intro t a ht
  exact wf_answer _ _ _ _ ht

theorem wf_loseGuest {s : State} (state : Nat) (hs : s.Wf) : (s.loseGuest state).Wf := by
  unfold State.loseGuest
  extract_lets u u1 u2 _ u3 invs _ u4 u5 runs _ u6 u7
  have hu : u.Wf := wf_endRevokes hs
  have hu1 : u1.Wf := wf_cutGuest hu
  have hu2 : u2.Wf := by
    refine wf_foldl ?_ hu1 _
    intro t a ht
    exact wf_dropGuestLine _ ht
  have hu3 : u3.Wf := wf_of_mem hu2
  have hu4 : u4.Wf := by
    refine wf_foldl ?_ (wf_of_mem hu3) _
    intro t1 a1 ht1
    exact wf_finishInval _ ht1
  have hu5 : u5.Wf := wf_tlbDrop _ hu4
  have hu6 : u6.Wf := wf_of_mem hu5
  have hu7 : u7.Wf := by
    refine wf_foldl ?_ hu6 _
    intro t2 a2 ht2
    split
    next t3 _ e =>
      have ht3 : t3.Wf := wf_fst e ((State.keeps_free _).2 ht2)
      exact wf_loseInst _ _ _ _ ht3
  exact wf_failGuestPkts (wf_failGuestRecords hu7)

theorem wf_isolate {s : State} (duty : Nat) (hs : s.Wf) : (s.isolate duty).Wf := by
  unfold State.isolate
  exact wf_if (wf_errorRecord _ (wf_loseGuest _ hs)) hs

theorem wf_execProtocolError {s : State} (hs : s.Wf) : Out.Wf (execProtocolError s) := by
  unfold execProtocolError
  split
  · split
    · split
      next t _ e1 =>
        have ht : t.Wf := wf_fst e1 ((State.keeps_free _).2 hs)
        exact wf_next (wf_isolate _ ht)
    · exact wf_next (wf_isolate _ hs)
  · exact wf_next hs

theorem wf_execGuestDutyTimeout {s : State} (hs : s.Wf) : Out.Wf (execGuestDutyTimeout s) := by
  unfold execGuestDutyTimeout
  split
  · exact wf_next (wf_if (wf_isolate _ hs) hs)
  · exact wf_next hs

theorem wf_execAttestStart {s : State} (hs : s.Wf) : Out.Wf (execAttestStart s) := by
  unfold execAttestStart
  split
  · split
    · split
      next t _ e1 =>
        have ht : t.Wf := wf_fst e1 (wf_nextTag hs)
        exact wf_next (wf_toGuest _ (wf_of_mem ht))
    · exact wf_next hs
  · exact wf_next hs

theorem wf_attestFail {s : State} (code : Nat) (hs : s.Wf) : (s.attestFail code).Wf := by
  unfold State.attestFail
  exact wf_errorRecord _ (wf_of_mem hs)

theorem wf_execGuestSpdm {s : State} (hs : s.Wf) : Out.Wf (execGuestSpdm s) := by
  unfold execGuestSpdm
  split
  · exact wf_ifOut (wf_next hs) (wf_ifOut (wf_next (wf_of_mem hs)) (wf_next (wf_attestFail _ hs)))
  · exact wf_next hs

theorem wf_execAttestTimeout {s : State} (hs : s.Wf) : Out.Wf (execAttestTimeout s) := by
  unfold execAttestTimeout
  split
  · split
    · split
      next t _ e1 =>
        have ht : t.Wf := wf_fst e1 ((State.keeps_free _).2 hs)
        exact wf_next (wf_attestFail _ ht)
    · exact wf_next hs
  · exact wf_next hs

theorem wf_ifBound {s : State} {k : State} (hs : s.Wf) (hk : k.Wf) : (s.ifBound k).Wf := by
  unfold State.ifBound
  exact wf_if hk hs

theorem wf_guestRefused {s : State} (pasid header : Nat) (hs : s.Wf) : (s.guestRefused pasid header).Wf := by
  unfold State.guestRefused
  exact wf_errorRecord _ hs

theorem wf_afterWrites {s : State} {k : State} (hs : s.Wf) (hk : k.Wf) : (s.afterWrites k).Wf := by
  unfold State.afterWrites
  exact wf_if ((State.keeps_due _ _).2 hs) (wf_ifBound hs hk)

theorem wf_answered {s : State} (iid : Nat) (hs : s.Wf) : (s.answered iid).Wf := by
  unfold State.answered
  exact wf_of_mem hs

theorem wf_abortGuest {s : State} (t : Inst) (hs : s.Wf) : (s.abortGuest t).Wf := by
  unfold State.abortGuest
  split
  · exact wf_if (wf_endInst _ _ _ (wf_instStatus _ _ _ _ hs)) (wf_endInst _ _ _ hs)
  · exact wf_endInst _ _ _ hs

theorem wf_guestEnds {s : State} (iid status detail : Nat) (hs : s.Wf) : (s.guestEnds iid status detail).Wf := by
  unfold State.guestEnds
  split
  · exact hs
  · extract_lets told u
    have hu : u.Wf := wf_answered _ hs
    exact wf_if (wf_abortGuest _ hu) (wf_if (wf_endInst _ _ _ (wf_modPkt _ _ hu)) (wf_endInst _ _ _ hu))

theorem wf_execGuestDone {s : State} (hs : s.Wf) : Out.Wf (execGuestDone s) := by
  unfold execGuestDone
  split
  · exact wf_next (wf_afterWrites hs (wf_if (wf_of_mem hs) (wf_if (wf_isolate _ hs) (wf_if (wf_isolate _ hs) (wf_guestEnds _ _ _ hs)))))
  · exact wf_next hs

theorem wf_execGuestSaved {s : State} (hs : s.Wf) : Out.Wf (execGuestSaved s) := by
  unfold execGuestSaved
  split
  · refine wf_next ?_
    refine wf_afterWrites hs ?_
    split
    · exact wf_isolate _ hs
    · refine wf_if (wf_isolate _ hs) ?_
      refine wf_if (wf_isolate _ hs) ?_
      extract_lets u
      have hu : u.Wf := wf_modInst _ _ (wf_answered _ hs)
      split
      · exact hu
      · split
        · exact hu
        · exact wf_if (wf_endInst _ _ _ hu) (wf_addEntry _ _ _ _ hu)
  · exact wf_next hs

theorem wf_execGuestXreq {s : State} (hs : s.Wf) : Out.Wf (execGuestXreq s) := by
  unfold execGuestXreq
  split
  · exact wf_next (wf_ifBound hs (wf_if (wf_answerXreq _ _ _ _ hs) (wf_guestRefused _ _ (wf_xrsp _ _ _ _ _ _ hs))))
  · exact wf_next hs

theorem wf_execGuestInvack {s : State} (hs : s.Wf) : Out.Wf (execGuestInvack s) := by
  unfold execGuestInvack
  split
  · refine wf_next ?_
    refine wf_ifBound hs ?_
    split
    · exact wf_finishInval _ (wf_of_mem hs)
    · exact wf_isolate _ hs
  · exact wf_next hs

theorem wf_execGuestPstopack {s : State} (hs : s.Wf) : Out.Wf (execGuestPstopack s) := by
  unfold execGuestPstopack
  split
  · refine wf_next ?_
    refine wf_ifBound hs ?_
    refine wf_if (wf_isolate _ hs) ?_
    refine wf_if (wf_isolate _ hs) ?_
    extract_lets revoked _
    exact wf_tlbDrop _ (wf_of_mem hs)
  · exact wf_next hs

theorem wf_execGuestFire {s : State} (hs : s.Wf) : Out.Wf (execGuestFire s) := by
  unfold execGuestFire
  split
  · refine wf_next ?_
    refine wf_afterWrites hs ?_
    refine wf_if (wf_guestRefused _ _ (wf_toGuest _ hs)) ?_
    refine wf_if (wf_toGuest _ hs) ?_
    split
    next t _ e1 =>
      have ht : t.Wf := wf_fst e1 (wf_fireOnce _ _ hs)
      exact wf_toGuest _ ht
  · exact wf_next hs

theorem wf_guestAsks {s : State} (kind l : Nat) (hs : s.Wf) : (s.guestAsks kind l).Wf := by
  unfold State.guestAsks
  split
  · exact (State.keeps_due _ _).2 ((State.keeps_setNs _ _ _ _).2 hs)
  · exact (State.keeps_due _ _).2 ((State.keeps_setNs _ _ _ _).2 hs)
  · exact (State.keeps_due _ _).2 ((State.keeps_setNs _ _ _ _).2 hs)
  · exact (State.keeps_due _ _).2 ((State.keeps_setNs _ _ _ _).2 hs)
  · exact (State.keeps_due _ _).2 ((State.keeps_setNs _ _ _ _).2 hs)
  · exact (State.keeps_due _ _).2 ((State.keeps_setNs _ _ _ _).2 hs)
  · exact wf_isolate _ hs

theorem wf_guestWriteBack {s : State} (l : Nat) (cells : List Host.Cell) (hs : s.Wf) : (s.guestWriteBack l cells).Wf := by
  unfold State.guestWriteBack
  split
  · extract_lets u
    have hu : u.Wf := by
      refine wf_foldl ?_ hs _
      intro t a ht
      exact (State.keeps_poke _ _ _).2 ht
    exact (State.keeps_settle _ _ _).2 ((State.keeps_due _ _).2 ((State.keeps_setNs _ _ _ _).2 hu))
  · exact wf_isolate _ hs

theorem wf_execGuestCohRequest {s : State} (hs : s.Wf) : Out.Wf (execGuestCohRequest s) := by
  unfold execGuestCohRequest
  split
  · extract_lets l inLine ok
    refine wf_next ?_
    refine wf_ifBound hs ?_
    refine wf_if (wf_isolate _ hs) ?_
    split
    · split
      next t _ e1 =>
        have ht : t.Wf := wf_fst e1 ((State.keeps_free _).2 hs)
        exact wf_guestRefused _ _ ht
    · refine wf_if (wf_guestWriteBack _ _ hs) ?_
      refine wf_if hs ?_
      split
      · refine wf_foldl ?_ hs _
        intro t1 a ht1
        exact (State.keeps_storePiece _ _ _ _).2 ht1
      · refine wf_if ((State.keeps_atomicAt _ _ _ _ _ _ _).2 hs) ?_
        exact wf_if ((State.keeps_cohRead _ _ _).2 hs) ((State.keeps_settle _ _ _).2 (wf_guestAsks _ _ hs))
  · exact wf_next hs

theorem wf_execGuestHomeAnswer {s : State} (hs : s.Wf) : Out.Wf (execGuestHomeAnswer s) := by
  unfold execGuestHomeAnswer
  split
  · refine wf_next ?_
    refine wf_ifBound hs ?_
    split
    · exact wf_if ((State.keeps_outerGrant _ _ _).2 ((State.keeps_outerData _ _ _).2 hs)) hs
    · exact hs
  · exact wf_next hs

end Sys2Proof.Machine
end

section
/-! PROOF. Canonical memory: the operations of Machine/Place.lean. -/

namespace Sys2Proof.Machine

theorem wf_readGroups {s : State} (p : Pkt) (pasid : Nat) (hs : s.Wf) : (s.readGroups p pasid).1.Wf := by
  unfold State.readGroups
  refine wf_ifPair hs ?_
  split
  next t _ e =>
    have ht : t.Wf := wf_fst e (wf_readVa _ _ _ hs)
    exact ht
  next t _ e =>
    have ht : t.Wf := wf_fst e (wf_readVa _ _ _ hs)
    extract_lets maps mem
    exact wf_ifPair ht (wf_ifPair ht ht)

theorem wf_removeEntry {s : State} (qid d : Nat) (e : Entry) (hs : s.Wf) : (s.removeEntry qid d e).Wf := by
  unfold State.removeEntry
  exact wf_modPart _ _ _ hs

theorem wf_launch {s : State} (qid d : Nat) (q : Queue) (e : Entry) (p : Pkt) (hs : s.Wf) : (s.launch qid d q e p).Wf := by
  unfold State.launch
  extract_lets u dies
  have hu : u.Wf := wf_removeEntry _ _ _ hs
  split
  next t _ e1 =>
    have ht : t.Wf := wf_fst e1 (wf_readGroups _ _ hu)
    exact wf_failPacket _ _ _ ht
  next t _ e1 =>
    have ht : t.Wf := wf_fst e1 (wf_readGroups _ _ hu)
    extract_lets u1 u2
    have hu1 : u1.Wf := wf_modPkt _ _ ht
    have hu2 : u2.Wf := wf_modPkt _ _ hu1
    split
    · refine wf_foldl ?_ hu2 _
      intro t1 a ht1
      exact wf_addEntry _ _ _ _ ht1
    · exact wf_addEntry _ _ _ _ hu1

theorem wf_steal {s : State} (qid d : Nat) (q : Queue) (e : Entry) (p : Pkt) (hs : s.Wf) : (s.steal qid d q e p).Wf := by
  unfold State.steal
  extract_lets v k sh
  exact wf_if (wf_removeEntry _ _ _ hs) (wf_modPkt _ _ hs)

theorem wf_toInbox {s : State} (qid d ci eff : Nat) (e : Entry) (hs : s.Wf) : (s.toInbox qid d ci eff e).Wf := by
  unfold State.toInbox
  extract_lets m p sh u ent it u1 u2 _
  have hu : u.Wf := wf_if (wf_modPart _ _ _ (wf_modPkt _ _ hs)) (wf_removeEntry _ _ _ hs)
  have hu1 : u1.Wf := wf_modCore _ _ hu
  have hu2 : u2.Wf := wf_if (wf_modMat _ _ hu1) hu1
  exact wf_kick _ (wf_of_mem hu2)

theorem wf_lateRecord {s : State} (p : Pkt) (q : Queue) (d iid pk : Nat) (hs : s.Wf) : (s.lateRecord p q d iid pk).Wf := by
  unfold State.lateRecord
  refine wf_if hs ?_
  extract_lets u dl
  have hu : u.Wf := wf_modPkt _ _ hs
  exact wf_if (wf_status _ _ _ _ _ _ _ hu) hu

theorem wf_spillEntry {s : State} (qid d ci eff : Nat) (e : Entry) (hs : s.Wf) : (s.spillEntry qid d ci eff e).1.Wf := by
  unfold State.spillEntry
  extract_lets sd
  split
  · refine wf_ifPair hs ?_
    extract_lets cx ring off handle ent sh
    have hoff : ∀ (s : State), s.Wf → (off s).Wf := by
      intro t ht
      dsimp only [off]
      exact wf_errorRecord _ (wf_modCore _ _ ((State.keeps_free _).2 ht))
    split
    next t1 _ e3 =>
      have ht1 : t1.Wf := wf_fst e3 ((State.keeps_xlateRange _ _ _ _ _).2 hs)
      split
      next t2 _ e4 =>
        have ht2 : t2.Wf := wf_fst e4 ((State.keeps_xlateRange _ _ _ _ _).2 ht1)
        extract_lets u n
        have hu : u.Wf := (State.keeps_loadLines _ _ _ _).2 ((State.keeps_loadLines _ _ _ _).2 ht2)
        refine wf_ifPair hu ?_
        split
        next t3 _ e5 =>
          have ht3 : t3.Wf := wf_fst e5 ((State.keeps_xlateRange _ _ _ _ _).2 hu)
          extract_lets s1 u1
          have hu1 : u1.Wf := by
            refine wf_if (wf_modPkt _ _ ((State.keeps_atomicAt _ _ _ _ _ _ _).2 ((State.keeps_agentWrite _ _ _).2 ht3))) ?_
            exact wf_removeEntry _ _ _ ((State.keeps_atomicAt _ _ _ _ _ _ _).2 ((State.keeps_agentWrite _ _ _).2 ht3))
          exact wf_modCore _ _ hu1
        next t3 _ _ e6 =>
          have ht3 : t3.Wf := wf_fst e6 ((State.keeps_xlateRange _ _ _ _ _).2 hu)
          exact hoff _ ht3
      next t2 _ _ e5 =>
        have ht2 : t2.Wf := wf_fst e5 ((State.keeps_xlateRange _ _ _ _ _).2 ht1)
        exact hoff _ ht2
    next t1 _ _ e4 =>
      have ht1 : t1.Wf := wf_fst e4 ((State.keeps_xlateRange _ _ _ _ _).2 hs)
      exact hoff _ ht1
  · exact hs

theorem wf_guestRun {s : State} (qid d : Nat) (q : Queue) (e : Entry) (hs : s.Wf) : (s.guestRun qid d q e).Wf := by
  unfold State.guestRun
  extract_lets u n _ u1 m old t msg u2 _ _
  have hu : u.Wf := wf_modPart _ _ _ (wf_removeEntry _ _ _ hs)
  have hu1 : u1.Wf := wf_of_mem hu
  have hu2 : u2.Wf := wf_lateRecord _ _ _ _ _ (wf_modPkt _ _ hu1)
  exact wf_of_mem hu2

theorem wf_placeEntry {s : State} (qid d eff : Nat) (q : Queue) (e : Entry) (hs : s.Wf) : (s.placeEntry qid d eff q e).1.Wf := by
  unfold State.placeEntry
  split
  · exact wf_removeEntry _ _ _ hs
  · refine wf_ifPair (wf_removeEntry _ _ _ hs) ?_
    refine wf_ifPair hs ?_
    refine wf_ifPair (wf_launch _ _ _ _ _ hs) ?_
    refine wf_ifPair (wf_steal _ _ _ _ _ hs) ?_
    refine wf_ifPair (wf_ifPair (wf_guestRun _ _ _ _ hs) hs) ?_
    extract_lets mown
    split
    · split
      · exact hs
      · exact wf_ifPair (wf_ifPair (wf_toInbox _ _ _ _ _ hs) hs) (wf_spillEntry _ _ _ _ _ hs)
    · split
      · exact wf_toInbox _ _ _ _ _ hs
      · exact hs

theorem wf_requestHart {s : State} (qid d eff : Nat) (q : Queue) (e : Entry) (hs : s.Wf) : (s.requestHart qid d eff q e).Wf := by
  unfold State.requestHart
  extract_lets pending
  refine wf_if hs ?_
  split
  · exact hs
  · extract_lets u
    have hu : u.Wf := wf_modHart _ _ hs
    exact wf_modPart _ _ _ hu

theorem wf_tryEntries (qid d eff : Nat) (q : Queue) (l : List Entry) {s : State} (hs : s.Wf) : (State.tryEntries qid d eff q l s).1.Wf := by
  induction l generalizing s with
  | nil => exact hs
  | cons e l ih =>
    have hp : (s.placeEntry qid d eff q e).1.Wf := wf_placeEntry _ _ _ _ _ hs
    unfold State.tryEntries
    split
    next t e' => exact wf_fst (t := t) e' hp
    next t e' =>
      have ht : t.Wf := wf_fst e' hp
      exact wf_ifPair (ih ht) ht

theorem wf_requestAll {s : State} (d : Nat) (hs : s.Wf) : (s.requestAll d).Wf := by
  unfold State.requestAll
  refine wf_foldl ?_ hs _
  intro t a ht
  split
  · exact wf_if ht (wf_requestHart _ _ _ _ _ ht)
  · exact ht

theorem wf_trySchedule (d : Nat) (l : List (Nat × Queue)) {s : State} (hs : s.Wf) : (State.trySchedule d l s).1.Wf := by
  induction l generalizing s with
  | nil => exact hs
  | cons p l ih =>
    obtain ⟨qid, q⟩ := p
    have hp : (State.tryEntries qid d (s.effPrio qid d q) q (s.qpart qid d).ents s).1.Wf := wf_tryEntries _ _ _ _ _ hs
    unfold State.trySchedule
    split
    next t e => exact wf_fst (t := t) e hp
    next t e => exact ih (wf_fst e hp)

theorem wf_dispatch {s : State} (h : Nat) (it : Inbox) (hs : s.Wf) : (s.dispatch h it).Wf := by
  unfold State.dispatch
  extract_lets ci d e u n _ u1
  have hu : u.Wf := wf_modCore _ _ hs
  have hu1 : u1.Wf := wf_of_mem hu
  split
  · extract_lets m u2 u3 slot u4 t _ u5 u6 a1 a2 a3
    have hu2 : u2.Wf := wf_modPart _ _ _ (wf_modCore _ _ hu1)
    have hu3 : u3.Wf := wf_modInst _ _ hu2
    have hu4 : u4.Wf := by
      dsimp only [u4]
      clear_value slot
      split
      · exact wf_modQueue _ _ hu2
      · exact hu2
    have hu5 : u5.Wf := wf_of_mem hu4
    have hu6 : u6.Wf := wf_lateRecord _ _ _ _ _ (wf_modPkt _ _ hu5)
    split
    · split
      · exact hu2
      · extract_lets va u7
        have hu7 : u7.Wf := wf_if (wf_modMat _ _ (wf_matTake _ _ hu3)) hu3
        exact (State.keeps_due _ _).2 (wf_modHart _ _ hu7)
    · exact wf_modHart _ _ hu6
  · exact hu

theorem wf_returnInbox {s : State} (ci : Nat) (hs : s.Wf) : (s.returnInbox ci).Wf := by
  unfold State.returnInbox
  extract_lets l u
  have hu : u.Wf := wf_modMat _ _ (wf_modCore _ _ hs)
  refine wf_clearMode _ ?_
  refine wf_foldl ?_ hu _
  intro t a ht
  split
  · exact wf_if (wf_dropEntry _ _ _ ht) (wf_addEntry _ _ _ _ ht)
  · exact ht

theorem wf_dropOrphan {s : State} (d : Nat) (hs : s.Wf) : State.OptWf (s.dropOrphan d) := by
  unfold State.dropOrphan
  exact wf_map (fun a => wf_dropCopy _ (wf_copyRecord _ _ hs))

theorem wf_tqeStep {s : State} (d : Nat) (hs : s.Wf) : (s.tqeStep d).1.Wf := by
  unfold State.tqeStep
  split
  · exact wf_endPacket _ hs
  · split
    next t e1 =>
      have ht : t.Wf := wf_dropOrphan _ hs t e1
      exact ht
    · extract_lets cores
      split
      · exact wf_returnInbox _ hs
      · split
        · exact wf_dispatch _ _ hs
        · split
          next t e4 =>
            have ht : t.Wf := wf_fst e4 (wf_trySchedule _ _ hs)
            exact ht
          next t e4 =>
            have ht : t.Wf := wf_fst e4 (wf_trySchedule _ _ hs)
            exact wf_requestAll _ ht

theorem wf_execTqeDispatch {s : State} (hs : s.Wf) : Out.Wf (execTqeDispatch s) := by
  unfold execTqeDispatch
  split
  · split
    next t e1 =>
      have ht : t.Wf := wf_fst e1 (wf_tqeStep _ hs)
      exact wf_next (wf_kick _ ht)
    next t e1 =>
      have ht : t.Wf := wf_fst e1 (wf_tqeStep _ hs)
      exact wf_next ht
  · exact wf_next hs

end Sys2Proof.Machine
end

section
/-! PROOF. Canonical memory: the operations of Machine/Tqe.lean. -/

namespace Sys2Proof.Machine

theorem wf_ownQueue {s : State} (n : Nat) (k : Queue → Out) (hs : s.Wf) (hk : ∀ a, Out.Wf (k a)) : Out.Wf (s.ownQueue n k) := by
  unfold State.ownQueue
  split
  · exact wf_ifOut (hk _) (wf_next (wf_cmdFault _ hs))
  · exact wf_next (wf_cmdFault _ hs)

theorem wf_releaseDevice {s : State} (hs : s.Wf) : (s.releaseDevice).Wf := by
  unfold State.releaseDevice
  exact wf_releaseAt _ hs

theorem wf_readPacket {s : State} (q : Queue) (va : Word) (k : State → Image → Out) (hs : s.Wf) (hk : ∀ t b, t.Wf → Out.Wf (k t b)) :
    Out.Wf (s.readPacket q va k) := by
  unfold State.readPacket
  refine wf_ifOut (wf_next (wf_cmdFault _ hs)) ?_
  refine wf_ifOut (wf_next (wf_wait _ hs)) ?_
  refine wf_scalarRead _ _ _ (wf_releaseDevice hs) ?_
  intro t b ht
  extract_lets m
  exact wf_ifOut (wf_next (wf_cmdFault _ ht)) (hk _ _ ht)

theorem wf_execTqput (rd rs1 rs2 : BitVec 5) {s : State} (hs : s.Wf) : Out.Wf (execTqput rd rs1 rs2 s) := by
  unfold execTqput
  extract_lets n
  refine wf_ownQueue _ _ hs ?_
  intro a
  refine wf_readPacket _ _ _ hs ?_
  intro t b ht
  split
  next t1 _ e =>
    have ht1 : t1.Wf := wf_fst e (wf_offer _ _ _ _ _ ht)
    exact wf_next (wf_retireX _ _ ht1)
  next t1 _ e =>
    have ht1 : t1.Wf := wf_fst e (wf_offer _ _ _ _ _ ht)
    exact wf_next (wf_retireX _ _ ht1)
  next t1 e =>
    have ht1 : t1.Wf := wf_fst e (wf_offer _ _ _ _ _ ht)
    exact wf_next (wf_retireX _ _ ht1)
  next t1 _ e =>
    have ht1 : t1.Wf := wf_fst e (wf_offer _ _ _ _ _ ht)
    exact wf_next (wf_cmdFault _ ht1)

theorem wf_execTqputLoopback (rd rs1 rs2 : BitVec 5) {s : State} (hs : s.Wf) : Out.Wf (execTqputLoopback rd rs1 rs2 s) := by
  unfold execTqputLoopback
  extract_lets ci c stamp
  refine wf_ifOut (wf_next (wf_cmdFault _ hs)) ?_
  split
  · exact wf_next (wf_cmdFault _ hs)
  · refine wf_ifOut (wf_next (wf_wait _ hs)) ?_
    refine wf_ifOut (wf_next (wf_retireX _ _ hs)) ?_
    extract_lets seq m u _ u1
    have hu : u.Wf := wf_modCore _ _ hs
    have hu1 : u1.Wf := wf_of_mem hu
    exact wf_next (wf_retireX _ _ (wf_kick _ hu1))

theorem wf_execTqat (rd rs1 rs2 rs3 : BitVec 5) {s : State} (hs : s.Wf) : Out.Wf (execTqat rd rs1 rs2 rs3 s) := by
  unfold execTqat
  extract_lets n t
  refine wf_ownQueue _ _ hs ?_
  intro a
  refine wf_readPacket _ _ _ hs ?_
  intro t1 b ht
  extract_lets d _ u u1
  have hu : u.Wf := wf_of_mem ht
  have hu1 : u1.Wf := wf_if (wf_releaseWheel _ hu) hu
  exact wf_ifOut (wf_next (wf_retireX _ _ ht)) (wf_ifOut (wf_next (wf_retireX _ _ ht)) (wf_next (wf_retireX _ _ hu1)))

theorem wf_recordLoc {s : State} (va : Word) (k : State → Nat → Out) (hs : s.Wf) (hk : ∀ t b, t.Wf → Out.Wf (k t b)) :
    Out.Wf (s.recordLoc va k) := by
  unfold State.recordLoc
  refine wf_ifOut (wf_next (wf_cmdFault _ hs)) ?_
  exact wf_toLoc _ _ _ _ hs (fun t b ht =>
    wf_ifOut (wf_next (wf_cmdFault _ ht)) (wf_ifOut (wf_next (wf_wait _ ht)) (hk _ _ (wf_recordStep _ (wf_releaseDevice ht)))))

theorem wf_execTqdep (rd rs1 rs2 : BitVec 5) {s : State} (hs : s.Wf) : Out.Wf (execTqdep rd rs1 rs2 s) := by
  unfold execTqdep
  extract_lets v
  refine wf_ownQueue _ _ hs ?_
  intro a
  refine wf_recordLoc _ _ hs ?_
  intro t b ht
  extract_lets st
  exact wf_next (wf_retireX _ _ (wf_armRecord _ _ _ _ ht))

theorem wf_execTqdec (rd rs1 : BitVec 5) {s : State} (hs : s.Wf) : Out.Wf (execTqdec rd rs1 s) := by
  unfold execTqdec
  refine wf_recordLoc _ _ hs ?_
  intro t b ht
  extract_lets old
  exact wf_next (wf_retireX _ _ (wf_decrementHere _ ht))

theorem wf_execDepDecrement {s : State} (hs : s.Wf) : Out.Wf (execDepDecrement s) := by
  unfold execDepDecrement
  split
  · exact wf_next (wf_decrement _ hs)
  · exact wf_next hs

theorem wf_ticketFault {s : State} (va : Word) (hs : s.Wf) : (s.ticketFault va).Wf := by
  unfold State.ticketFault
  exact wf_except _ _ hs

theorem wf_execTkwait (rd rs1 rs2 : BitVec 5) {s : State} (hs : s.Wf) : Out.Wf (execTkwait rd rs1 rs2 s) := by
  unfold execTkwait
  extract_lets t va
  refine wf_signalLoc _ _ _ hs ?_
  intro t1 b ht
  extract_lets u v d
  have hu : u.Wf := (State.keeps_loadLines _ _ _ _).2 ht
  refine wf_ifOut (wf_next (wf_except _ _ (wf_poisonRecord _ hu))) ?_
  refine wf_ifOut (wf_next (wf_retireX _ _ hu)) ?_
  exact wf_ifOut (wf_next (wf_ticketFault _ hu)) (wf_ifOut (wf_next (wf_retireX _ _ hu)) (wf_next (wf_wait _ hu)))

theorem wf_advanceGate {s : State} (loc v : Nat) (hs : s.Wf) : (s.advanceGate loc v).Wf := by
  unfold State.advanceGate
  exact (State.keeps_atomicAt _ _ _ _ _ _ _).2 hs

theorem wf_payTicket {s : State} (va : Word) (t : Nat) (hs : s.Wf) : (s.payTicket va t).Wf := by
  unfold State.payTicket
  split
  · exact hs
  · split
    · exact hs
    · split
      · exact hs
      · exact wf_if (wf_modPkt _ _ hs) hs

theorem wf_execTkdone (rd rs1 rs2 : BitVec 5) {s : State} (hs : s.Wf) : Out.Wf (execTkdone rd rs1 rs2 s) := by
  unfold execTkdone
  extract_lets t va
  refine wf_signalLoc _ _ _ hs ?_
  intro t1 b ht
  refine wf_ifOut (wf_next (wf_wait _ ht)) ?_
  extract_lets u v
  have hu : u.Wf := (State.keeps_loadLines _ _ _ _).2 (wf_releaseAt _ ht)
  exact wf_ifOut (wf_next (wf_ticketFault _ hu)) (wf_next (wf_retireX _ _ (wf_payTicket _ _ (wf_advanceGate _ _ hu))))

theorem wf_owedGate {s : State} (p : Pkt) (hs : s.Wf) : (s.owedGate p).1.Wf := by
  unfold State.owedGate
  split
  · exact hs
  · split
    next t _ e1 =>
      have ht : t.Wf := wf_fst e1 ((State.keeps_xlateRange _ _ _ _ _).2 hs)
      exact wf_ifPair ((State.keeps_loadLines _ _ _ _).2 ht) ht
    next t _ _ e2 =>
      have ht : t.Wf := wf_fst e2 ((State.keeps_xlateRange _ _ _ _ _).2 hs)
      exact ht

theorem wf_execTicketAdvance {s : State} (hs : s.Wf) : Out.Wf (execTicketAdvance s) := by
  unfold execTicketAdvance
  split
  · split
    · exact wf_next hs
    · refine wf_ifOut (wf_next hs) ?_
      extract_lets out
      have hout : ∀ (s : State), s.Wf → (out s).Wf := by
        intro t ht
        dsimp only [out]
        exact wf_of_mem ht
      split
      next t1 e2 =>
        have ht1 : t1.Wf := wf_fst e2 (wf_owedGate _ hs)
        exact wf_next (hout _ ht1)
      next t1 _ e2 =>
        have ht1 : t1.Wf := wf_fst e2 (wf_owedGate _ hs)
        extract_lets v
        exact wf_ifOut (wf_next (hout _ (wf_advanceGate _ _ ht1))) (wf_next ((State.keeps_due _ _).2 ht1))
  · exact wf_next hs

theorem wf_whenQuiet {s : State} (k : Out) (hs : s.Wf) (hk : Out.Wf k) : Out.Wf (s.whenQuiet k) := by
  unfold State.whenQuiet
  exact wf_ifOut (wf_next (wf_wait _ hs)) (wf_ifOut (wf_next (wf_wait _ hs)) hk)

theorem wf_releaseDone {s : State} (hs : s.Wf) : (s.releaseDone).Wf := by
  unfold State.releaseDone
  split
  · exact wf_releaseAt _ hs
  · exact hs

theorem wf_execTqdone {s : State} (hs : s.Wf) : Out.Wf (execTqdone s) := by
  unfold execTqdone
  refine wf_whenQuiet _ hs ?_
  split
  · exact wf_next (wf_endInst _ _ _ (wf_retire (wf_releaseDone hs)))
  · exact wf_next (wf_freeHart _ (wf_retire hs))

theorem wf_requeue {s : State} (t : Inst) (entry arg : Nat) (hs : s.Wf) : (s.requeue t entry arg).Wf := by
  unfold State.requeue
  split
  · exact hs
  · split
    · exact hs
    · split
      · extract_lets u
        have hu : u.Wf := wf_modPkt _ _ hs
        exact wf_dropSlices _ _ (wf_checkBars _ hu)
      · extract_lets seq u1 u2
        have hu1 : u1.Wf := wf_modPart _ _ _ hs
        have hu2 : u2.Wf := wf_if (wf_modPkt _ _ hu1) hu1
        exact wf_addEntry _ _ _ _ hu2

theorem wf_execTqyield (rs1 rs2 : BitVec 5) {s : State} (hs : s.Wf) : Out.Wf (execTqyield rs1 rs2 s) := by
  unfold execTqyield
  refine wf_ifOut (wf_next (wf_cmdFault _ hs)) ?_
  refine wf_whenQuiet _ hs ?_
  split
  · exact wf_next (wf_freeHart _ (wf_retire hs))
  · extract_lets entry arg
    exact wf_next (wf_requeue _ _ _ (wf_closeInst _ _ (wf_retire (wf_releaseDone hs))))

theorem wf_tqstat {s : State} (n : Nat) (rs2 : BitVec 5) (k : Out) (hs : s.Wf) (hk : Out.Wf k) : Out.Wf (s.tqstat n rs2 k) := by
  unfold State.tqstat
  exact wf_ifOut hk (wf_next (wf_cmdFault _ hs))

theorem wf_statQueue {s : State} (rs1 : BitVec 5) (k : Nat → Queue → Out) (hs : s.Wf) (hk : ∀ a b, Out.Wf (k a b)) : Out.Wf (s.statQueue rs1 k) := by
  unfold State.statQueue
  extract_lets own n
  exact wf_ownQueue _ _ hs (fun a => hk _ _)

theorem wf_execTqstatDepth (rd rs1 rs2 : BitVec 5) {s : State} (hs : s.Wf) : Out.Wf (execTqstatDepth rd rs1 rs2 s) := by
  unfold execTqstatDepth
  refine wf_tqstat _ _ _ hs ?_
  refine wf_statQueue _ _ hs ?_
  intro a b
  extract_lets waiting parked
  exact wf_next (wf_retireX _ _ hs)

theorem wf_execTqstatRun (rd rs1 rs2 : BitVec 5) {s : State} (hs : s.Wf) : Out.Wf (execTqstatRun rd rs1 rs2 s) := by
  unfold execTqstatRun
  exact wf_tqstat _ _ _ hs (wf_statQueue _ _ hs (fun a b => wf_next (wf_retireX _ _ hs)))

theorem wf_execTqstatState (rd rs1 rs2 : BitVec 5) {s : State} (hs : s.Wf) : Out.Wf (execTqstatState rd rs1 rs2 s) := by
  unfold execTqstatState
  exact wf_tqstat _ _ _ hs (wf_statQueue _ _ hs (fun a b => wf_next (wf_retireX _ _ hs)))

theorem wf_execTqstatPrio (rd rs1 rs2 : BitVec 5) {s : State} (hs : s.Wf) : Out.Wf (execTqstatPrio rd rs1 rs2 s) := by
  unfold execTqstatPrio
  refine wf_tqstat _ _ _ hs ?_
  refine wf_statQueue _ _ hs ?_
  intro a b
  extract_lets d
  exact wf_next (wf_retireX _ _ hs)

theorem wf_execTqstatOvf (rd rs1 rs2 : BitVec 5) {s : State} (hs : s.Wf) : Out.Wf (execTqstatOvf rd rs1 rs2 s) := by
  unfold execTqstatOvf
  exact wf_tqstat _ _ _ hs (wf_statQueue _ _ hs (fun a b => wf_next (wf_retireX _ _ hs)))

theorem wf_ownInst {s : State} (k : Inst → Pkt → Out) (hs : s.Wf) (hk : ∀ a b, Out.Wf (k a b)) : Out.Wf (s.ownInst k) := by
  unfold State.ownInst
  split
  · split
    · exact hk _ _
    · exact wf_next (wf_cmdFault _ hs)
  · exact wf_next (wf_cmdFault _ hs)

theorem wf_execTqstatInst (rd rs1 rs2 : BitVec 5) {s : State} (hs : s.Wf) : Out.Wf (execTqstatInst rd rs1 rs2 s) := by
  unfold execTqstatInst
  extract_lets x
  exact wf_tqstat _ _ _ hs (wf_ownInst _ hs (fun a b => wf_next (wf_retireX _ _ hs)))

theorem wf_execTqstatSlice (rd rs1 rs2 : BitVec 5) {s : State} (hs : s.Wf) : Out.Wf (execTqstatSlice rd rs1 rs2 s) := by
  unfold execTqstatSlice
  extract_lets x
  exact wf_tqstat _ _ _ hs (wf_ownInst _ hs (fun a b => wf_next (wf_retireX _ _ hs)))

theorem wf_execTqstatGroups (rd rs1 rs2 : BitVec 5) {s : State} (hs : s.Wf) : Out.Wf (execTqstatGroups rd rs1 rs2 s) := by
  unfold execTqstatGroups
  extract_lets x
  refine wf_tqstat _ _ _ hs ?_
  refine wf_ownInst _ hs ?_
  intro a b
  extract_lets l
  exact wf_next (wf_retireX _ _ hs)

theorem wf_groupFault {s : State} (g : Nat) (hs : s.Wf) : (s.groupFault g).Wf := by
  unfold State.groupFault
  exact wf_except _ _ hs

theorem wf_execGbar (g : BitVec 2) {s : State} (hs : s.Wf) : Out.Wf (execGbar g s) := by
  unfold execGbar
  extract_lets n
  split
  · exact wf_next (wf_groupFault _ hs)
  · split
    · exact wf_next (wf_groupFault _ hs)
    · split
      · exact wf_next (wf_groupFault _ hs)
      · split
        · refine wf_ifOut (wf_next (wf_wait _ hs)) ?_
          extract_lets u
          have hu : u.Wf := wf_modPkt _ _ hs
          exact wf_next (wf_wait _ (wf_checkBars _ (wf_modMe _ hu)))
        · refine wf_ifOut (wf_next (wf_retire (wf_modMe _ hs))) ?_
          split
          · extract_lets u1
            have hu1 : u1.Wf := wf_modPkt _ _ hs
            exact wf_next (wf_groupFault _ (wf_modMe _ hu1))
          · exact wf_next (wf_wait _ hs)

theorem wf_execGbarRelease {s : State} (hs : s.Wf) : Out.Wf (execGbarRelease s) := by
  unfold execGbarRelease
  split
  · split
    · exact wf_next hs
    · refine wf_ifOut (wf_next hs) ?_
      extract_lets u
      have hu : u.Wf := wf_modPkt _ _ hs
      refine wf_next ?_
      refine wf_foldl ?_ hu _
      intro t a ht
      exact wf_if (wf_modHart _ _ ht) ht
  · exact wf_next hs

theorem wf_execAgeExpiry {s : State} (hs : s.Wf) : Out.Wf (execAgeExpiry s) := by
  unfold execAgeExpiry
  split
  · split
    · exact wf_ifOut (wf_next (wf_kick _ (wf_modPart _ _ _ hs))) (wf_next hs)
    · exact wf_next hs
  · exact wf_next hs

theorem wf_execAlmanacTick {s : State} (hs : s.Wf) : Out.Wf (execAlmanacTick s) := by
  unfold execAlmanacTick
  split
  · extract_lets _ u
    have hu : u.Wf := wf_of_mem hs
    exact wf_next (wf_releaseWheel _ hu)
  · exact wf_next hs

theorem wf_unpin {s : State} (q : Queue) (hs : s.Wf) : (s.unpin q).Wf := by
  unfold State.unpin
  exact wf_of_mem hs

theorem wf_execQueueDestroyComplete {s : State} (hs : s.Wf) : Out.Wf (execQueueDestroyComplete s) := by
  unfold execQueueDestroyComplete
  split
  · split
    · exact wf_next hs
    · refine wf_ifOut (wf_next hs) ?_
      refine wf_ifOut (wf_next ((State.keeps_due _ _).2 hs)) ?_
      extract_lets ws _ u u1 _ u2
      have hu : u.Wf := wf_of_mem hs
      have hu1 : u1.Wf := by
        refine wf_unpin _ ?_
        refine wf_foldl ?_ hu _
        intro t a ht
        exact wf_endWheel _ _ ht
      have hu2 : u2.Wf := wf_of_mem hu1
      refine wf_next ?_
      refine wf_foldl ?_ hu2 _
      intro t1 a1 ht1
      exact wf_answer _ _ _ _ ht1
  · exact wf_next hs

end Sys2Proof.Machine
end

section
/-! PROOF. Canonical memory: the operations of Machine/Fe.lean. -/

namespace Sys2Proof.Machine

theorem wf_imageAt {s : State} (pa len : Nat) (hs : s.Wf) : (s.imageAt pa len).1.Wf := by
  unfold State.imageAt
  refine wf_ifPair hs ?_
  extract_lets u
  have hu : u.Wf := (State.keeps_loadLines _ _ _ _).2 hs
  exact wf_ifPair (wf_poisonRecord _ hu) hu

theorem wf_enqueue {s : State} (c : MCmd) (hs : s.Wf) : (s.enqueue c).Wf := by
  unfold State.enqueue
  extract_lets _ u
  have hu : u.Wf := wf_of_mem hs
  split
  · exact (State.keeps_due _ _).2 hu
  · exact wf_answer _ _ _ _ hu

theorem wf_ring {s : State} (v : Nat) (hs : s.Wf) : (s.ring v).Wf := by
  unfold State.ring
  extract_lets slot _ c
  exact wf_if (wf_of_mem hs) (wf_enqueue _ (wf_of_mem hs))

theorem wf_execDoorbell {s : State} (hs : s.Wf) : Out.Wf (execDoorbell s) := by
  unfold execDoorbell
  split
  · refine wf_ifOut (wf_next (wf_ring _ hs)) ?_
    refine wf_ifOut (wf_next (wf_of_mem hs)) ?_
    refine wf_ifOut (wf_next (wf_of_mem hs)) ?_
    extract_lets slot o _
    exact wf_ifOut (wf_next (wf_of_mem hs)) (wf_next hs)
  · exact wf_next hs

theorem wf_createQueue {s : State} (c : MCmd) (b : List Byte) (hs : s.Wf) : (s.createQueue c b).Wf := by
  unfold State.createQueue
  extract_lets q st qid _ _
  refine wf_if (wf_answer _ _ _ _ hs) ?_
  refine wf_if (wf_answer _ _ _ _ hs) ?_
  refine wf_if (wf_answer _ _ _ _ hs) ?_
  split
  · exact wf_answer _ _ _ _ hs
  · refine wf_if (wf_answer _ _ _ _ hs) ?_
    extract_lets u
    have hu : u.Wf := wf_of_mem hs
    exact wf_answer _ _ _ _ hu

theorem wf_execQcreate {s : State} (hs : s.Wf) : Out.Wf (execQcreate s) := by
  unfold execQcreate
  split
  · refine wf_command _ hs ?_
    split
    next t _ e1 =>
      have ht : t.Wf := wf_fst e1 (wf_imageAt _ _ hs)
      exact wf_createQueue _ _ ht
    next t e1 =>
      have ht : t.Wf := wf_fst e1 (wf_imageAt _ _ hs)
      exact wf_answer _ _ _ _ ht
  · exact wf_next hs

theorem wf_destroyQueue {s : State} (c : MCmd) (qid : Nat) (q : Queue) (hs : s.Wf) : (s.destroyQueue c qid q).Wf := by
  unfold State.destroyQueue
  extract_lets mode u
  have hu : u.Wf := wf_modQueue _ _ hs
  refine wf_if (wf_answer _ _ _ _ hs) ?_
  exact wf_if (wf_checkEmpty _ (wf_modQueue _ _ hu)) (wf_if (wf_checkEmpty _ hu) (wf_abortQueue _ _ hu))

theorem wf_execQdestroy {s : State} (hs : s.Wf) : Out.Wf (execQdestroy s) := by
  unfold execQdestroy
  split
  · refine wf_command _ hs ?_
    split
    · exact wf_answer _ _ _ _ hs
    · exact wf_if (wf_answer _ _ _ _ hs) (wf_if (wf_answer _ _ _ _ hs) (wf_destroyQueue _ _ _ hs))
  · exact wf_next hs

theorem wf_execPbind {s : State} (hs : s.Wf) : Out.Wf (execPbind s) := by
  unfold execPbind
  split
  · extract_lets p root dev _
    refine wf_command _ hs ?_
    refine wf_if (wf_answer _ _ _ _ hs) ?_
    refine wf_if (wf_answer _ _ _ _ hs) ?_
    split
    · exact wf_answer _ _ _ _ hs
    · extract_lets x4
      exact wf_answer _ _ _ _ (wf_of_mem hs)
  · exact wf_next hs

theorem wf_execWinen {s : State} (hs : s.Wf) : Out.Wf (execWinen s) := by
  unfold execWinen
  split
  · exact wf_command _ hs (wf_if (wf_answer _ _ _ _ hs) (wf_if (wf_answer _ _ _ _ hs) (wf_answer _ _ _ _ (wf_of_mem hs))))
  · exact wf_next hs

theorem wf_setWall {s : State} (d mask : Nat) (hs : s.Wf) : (s.setWall d mask).Wf := by
  unfold State.setWall
  refine wf_foldl ?_ hs _
  intro t a ht
  extract_lets w
  exact wf_if (wf_modCore _ _ ht) ht

theorem wf_execWallset {s : State} (hs : s.Wf) : Out.Wf (execWallset s) := by
  unfold execWallset
  split
  · extract_lets d mask u _
    have hu : u.Wf := wf_setWall _ _ hs
    refine wf_command _ hs ?_
    refine wf_if (wf_answer _ _ _ _ hs) ?_
    refine wf_if (wf_answer _ _ _ _ hs) ?_
    refine wf_if (wf_answer _ _ _ _ (wf_kick _ (wf_setWall _ _ hs))) ?_
    exact wf_if (wf_answer _ _ _ _ hs) (wf_if (wf_answer _ _ _ _ hs) (wf_answer _ _ _ _ (wf_kick _ (wf_of_mem hu))))
  · exact wf_next hs

theorem wf_recallRange {s : State} (base len : Nat) (hs : s.Wf) : (s.recallRange base len).Wf := by
  unfold State.recallRange
  extract_lets ls
  refine wf_foldl ?_ hs _
  intro t a ht
  extract_lets u
  have hu : u.Wf := (State.keeps_settle _ _ _).2 ht
  exact (State.keeps_settle _ _ _).2 ((State.keeps_homeServe _ _ _).2 hu)

theorem wf_createRegion {s : State} (c : MCmd) (pa : Nat) (b : List Byte) (hs : s.Wf) : (s.createRegion c pa b).Wf := by
  unfold State.createRegion
  refine wf_if (wf_answer _ _ _ _ hs) ?_
  split
  · exact wf_answer _ _ _ _ hs
  · extract_lets base size stall r u g u1 _
    have hu : u.Wf := wf_recallRange _ _ hs
    have hu1 : u1.Wf := (State.keeps_agentWrite _ _ _).2 hu
    exact wf_answer _ _ _ _ (wf_of_mem hu1)

theorem wf_execRcreate {s : State} (hs : s.Wf) : Out.Wf (execRcreate s) := by
  unfold execRcreate
  split
  · extract_lets va st
    refine wf_command _ hs ?_
    refine wf_if (wf_answer _ _ _ _ hs) ?_
    refine wf_if (wf_answer _ _ _ _ hs) ?_
    split
    next t _ e1 =>
      have ht : t.Wf := wf_fst e1 ((State.keeps_xlateRange _ _ _ _ _).2 hs)
      refine wf_if (wf_answer _ _ _ _ ht) ?_
      split
      next t1 _ e2 =>
        have ht1 : t1.Wf := wf_fst e2 (wf_imageAt _ _ ht)
        exact wf_createRegion _ _ _ ht1
      next t1 e2 =>
        have ht1 : t1.Wf := wf_fst e2 (wf_imageAt _ _ ht)
        exact wf_answer _ _ _ _ ht1
    next t _ _ e2 =>
      have ht : t.Wf := wf_fst e2 ((State.keeps_xlateRange _ _ _ _ _).2 hs)
      exact wf_answer _ _ _ _ ht
  · exact wf_next hs

theorem wf_refusePublishes {s : State} (rid : Nat) (g : Region) (hs : s.Wf) : (s.refusePublishes rid g).Wf := by
  unfold State.refusePublishes
  extract_lets late u
  have hu : u.Wf := wf_modRegion _ _ hs
  refine wf_foldl ?_ hu _
  intro t a ht
  split
  · exact wf_modHart _ _ ht
  · exact wf_errorRecord _ ht

theorem wf_dropRegion {s : State} (rid : Nat) (g : Region) (hs : s.Wf) : (s.dropRegion rid g).Wf := by
  unfold State.dropRegion
  extract_lets mine _ u u1 u2 _
  have hu : u.Wf := wf_of_mem hs
  have hu1 : u1.Wf := by
    refine wf_foldl ?_ hu _
    intro t a ht
    exact wf_answerRefetch _ _ ht
  have hu2 : u2.Wf := by
    refine wf_foldl ?_ hu1 _
    intro t1 a1 ht1
    exact wf_voidCopies _ _ ht1
  exact wf_of_mem hu2

theorem wf_execRdestroy {s : State} (hs : s.Wf) : Out.Wf (execRdestroy s) := by
  unfold execRdestroy
  split
  · extract_lets rid
    refine wf_ifOut (wf_next ((State.keeps_due _ _).2 hs)) ?_
    split
    · exact wf_next (wf_answer _ _ _ _ hs)
    · refine wf_ifOut (wf_next (wf_answer _ _ _ _ hs)) ?_
      extract_lets u
      have hu : u.Wf := wf_refusePublishes _ _ hs
      exact wf_ifOut (wf_next ((State.keeps_due _ _).2 hu)) (wf_next (wf_answer _ _ _ _ (wf_dropRegion _ _ hu)))
  · exact wf_next hs

theorem wf_endpoint {s : State} (c : MCmd) (k : Ep → State) (hs : s.Wf) (hk : ∀ a, (k a).Wf) : (s.endpoint c k).Wf := by
  unfold State.endpoint
  split
  · exact wf_if (hk _) (wf_answer _ _ _ _ hs)
  · exact wf_answer _ _ _ _ hs

theorem wf_pagePas (cx : Cx) (n : Nat) (va : Word) {s : State} (hs : s.Wf) : (State.pagePas cx n va s).1.Wf := by
  induction n generalizing va s with
  | zero => exact hs
  | succ n ih =>
    have hx : (s.xlate cx .load va).1.Wf := (s.keeps_xlate cx .load va).2 hs
    unfold State.pagePas
    split
    next t _ e =>
      have hr : (State.pagePas cx n (va + 4096) t).1.Wf := ih _ (wf_fst e hx)
      split
      next u _ e' => exact wf_fst (t := u) e' hr
      · exact hr
    next t _ _ e => exact wf_fst (t := t) e hx

theorem wf_createEp {s : State} (c : MCmd) (b : List Byte) (hs : s.Wf) : (s.createEp c b).Wf := by
  unfold State.createEp
  extract_lets e st
  refine wf_if (wf_answer _ _ _ _ hs) ?_
  refine wf_if (wf_answer _ _ _ _ hs) ?_
  refine wf_if (wf_answer _ _ _ _ hs) ?_
  split
  · exact wf_answer _ _ _ _ hs
  · split
    next t e2 =>
      have ht : t.Wf := wf_fst e2 (wf_pagePas _ _ _ hs)
      exact wf_answer _ _ _ _ ht
    next t _ e2 =>
      have ht : t.Wf := wf_fst e2 (wf_pagePas _ _ _ hs)
      exact wf_answer _ _ _ _ (wf_of_mem ht)

theorem wf_execEpcreate {s : State} (hs : s.Wf) : Out.Wf (execEpcreate s) := by
  unfold execEpcreate
  split
  · refine wf_command _ hs ?_
    refine wf_if (wf_answer _ _ _ _ hs) ?_
    split
    next t _ e1 =>
      have ht : t.Wf := wf_fst e1 (wf_imageAt _ _ hs)
      exact wf_createEp _ _ ht
    next t e1 =>
      have ht : t.Wf := wf_fst e1 (wf_imageAt _ _ hs)
      exact wf_answer _ _ _ _ ht
  · exact wf_next hs

theorem wf_execEpdestroy {s : State} (hs : s.Wf) : Out.Wf (execEpdestroy s) := by
  unfold execEpdestroy
  split
  · refine wf_command _ hs ?_
    refine wf_endpoint _ _ hs ?_
    intro a
    extract_lets lep ms u keep _ u1
    have hu : u.Wf := by
      refine wf_foldl ?_ hs _
      intro t a1 ht
      exact wf_failMsg _ _ _ ht
    have hu1 : u1.Wf := wf_of_mem hu
    exact wf_answer _ _ _ _ hu1
  · exact wf_next hs

theorem wf_execPeerset {s : State} (hs : s.Wf) : Out.Wf (execPeerset s) := by
  unfold execPeerset
  split
  · refine wf_command _ hs ?_
    refine wf_endpoint _ _ hs ?_
    intro a
    extract_lets k
    refine wf_if (wf_answer _ _ _ _ hs) ?_
    split
    next t e1 =>
      have ht : t.Wf := wf_fst e1 (wf_imageAt _ _ hs)
      exact wf_answer _ _ _ _ ht
    next t _ e1 =>
      have ht : t.Wf := wf_fst e1 (wf_imageAt _ _ hs)
      extract_lets p on _
      exact wf_if (wf_answer _ _ _ _ ht) (wf_if (wf_answer _ _ _ _ (wf_of_mem ht)) (wf_of_mem ht))
  · exact wf_next hs

theorem wf_execNwinreg {s : State} (hs : s.Wf) : Out.Wf (execNwinreg s) := by
  unfold execNwinreg
  split
  · refine wf_command _ hs ?_
    refine wf_endpoint _ _ hs ?_
    intro a
    refine wf_if (wf_answer _ _ _ _ hs) ?_
    split
    · exact wf_answer _ _ _ _ hs
    · extract_lets w _
      exact wf_answer _ _ _ _ (wf_of_mem hs)
  · exact wf_next hs

theorem wf_execPtpset {s : State} (hs : s.Wf) : Out.Wf (execPtpset s) := by
  unfold execPtpset
  split
  · exact wf_command _ hs (wf_if (wf_answer _ _ _ _ hs) (wf_answer _ _ _ _ (wf_of_mem hs)))
  · exact wf_next hs

theorem wf_execHwinset {s : State} (hs : s.Wf) : Out.Wf (execHwinset s) := by
  unfold execHwinset
  split
  · extract_lets e1 _
    refine wf_command _ hs ?_
    refine wf_if (wf_answer _ _ _ _ hs) ?_
    exact wf_if (wf_answer _ _ _ _ (wf_of_mem hs)) (wf_if (wf_answer _ _ _ _ hs) (wf_answer _ _ _ _ (wf_of_mem hs)))
  · exact wf_next hs

theorem wf_execGpolicy {s : State} (hs : s.Wf) : Out.Wf (execGpolicy s) := by
  unfold execGpolicy
  split
  · refine wf_command _ hs ?_
    refine wf_if (wf_answer _ _ _ _ hs) ?_
    refine wf_if (wf_answer _ _ _ _ hs) ?_
    split
    next t e1 =>
      have ht : t.Wf := wf_fst e1 (wf_imageAt _ _ hs)
      exact wf_answer _ _ _ _ ht
    next t _ e1 =>
      have ht : t.Wf := wf_fst e1 (wf_imageAt _ _ hs)
      exact wf_if (wf_answer _ _ _ _ ht) (wf_answer _ _ _ _ (wf_of_mem ht))
  · exact wf_next hs

theorem wf_revoke {s : State} (p : Nat) (hs : s.Wf) : (s.revoke p).Wf := by
  unfold State.revoke
  extract_lets qs u
  have hu : u.Wf := by
    refine wf_foldl ?_ hs _
    intro t a ht
    exact wf_guestDrop _ ht
  split
  next t1 _ e =>
    have ht1 : t1.Wf := wf_fst e (wf_nextTag hu)
    extract_lets u1 _
    have hu1 : u1.Wf := wf_toGuest _ ht1
    exact wf_of_mem hu1

theorem wf_execGgrant {s : State} (hs : s.Wf) : Out.Wf (execGgrant s) := by
  unfold execGgrant
  split
  · extract_lets p _
    refine wf_ifOut (wf_next ((State.keeps_due _ _).2 hs)) ?_
    refine wf_ifOut (wf_next (wf_answer _ _ _ _ hs)) ?_
    refine wf_ifOut (wf_next (wf_answer _ _ _ _ hs)) ?_
    refine wf_ifOut (wf_next (wf_answer _ _ _ _ hs)) ?_
    refine wf_ifOut (wf_next (wf_answer _ _ _ _ hs)) ?_
    refine wf_ifOut (wf_next (wf_answer _ _ _ _ hs)) ?_
    split
    · refine wf_ifOut (wf_next (wf_answer _ _ _ _ hs)) ?_
      exact wf_ifOut (wf_next (wf_answer _ _ _ _ hs)) (wf_next (wf_answer _ _ _ _ (wf_of_mem hs)))
    · exact wf_ifOut (wf_next ((State.keeps_due _ _).2 hs)) (wf_next ((State.keeps_due _ _).2 (wf_revoke _ hs)))
  · exact wf_next hs

theorem wf_execSelftest {s : State} (hs : s.Wf) : Out.Wf (execSelftest s) := by
  unfold execSelftest
  split
  · extract_lets ci u
    have hu : u.Wf := wf_if hs (wf_quarantine _ _ _ hs)
    exact wf_command _ hs (wf_if (wf_answer _ _ _ _ hs) (wf_if (wf_answer _ _ _ _ hs) (wf_modCore _ _ hu)))
  · exact wf_next hs

theorem wf_execInfo {s : State} (hs : s.Wf) : Out.Wf (execInfo s) := by
  unfold execInfo
  split
  · exact wf_command _ hs (wf_answer _ _ _ _ hs)
  · exact wf_next hs

theorem wf_execMeminfo {s : State} (hs : s.Wf) : Out.Wf (execMeminfo s) := by
  unfold execMeminfo
  split
  · exact wf_command _ hs (wf_answer _ _ _ _ hs)
  · exact wf_next hs

theorem wf_ecallOther {s : State} (hs : s.Wf) : (s.ecallOther).Wf := by
  unfold State.ecallOther
  split
  · exact wf_except _ _ hs
  · exact wf_except _ _ hs
  · exact wf_if (wf_retireX _ _ hs) (wf_except _ _ hs)

theorem wf_ecallSend {s : State} (wait : Bool) (hs : s.Wf) : Out.Wf (s.ecallSend wait) := by
  unfold State.ecallSend
  extract_lets pa gddr u c
  have hu : u.Wf := (State.keeps_loadLines _ _ _ _).2 hs
  refine wf_ifOut (wf_next (wf_retireX _ _ hs)) ?_
  refine wf_ifOut (wf_next (wf_wait _ hs)) ?_
  refine wf_ifOut (wf_next (wf_retireX _ _ (wf_poisonRecord _ hu))) ?_
  exact wf_ifOut (wf_next (wf_enqueue _ (wf_wait _ hu))) (wf_next (wf_enqueue _ (wf_retireX _ _ hu)))

theorem wf_execEcallSubmit {s : State} (hs : s.Wf) : Out.Wf (execEcallSubmit s) := by
  unfold execEcallSubmit
  exact wf_ifOut (wf_next (wf_ecallOther hs)) (wf_ifOut (wf_next hs) (wf_ecallSend _ hs))

theorem wf_execEcallPost {s : State} (hs : s.Wf) : Out.Wf (execEcallPost s) := by
  unfold execEcallPost
  exact wf_ifOut (wf_next (wf_ecallOther hs)) (wf_ecallSend _ hs)

theorem wf_execEcallReport {s : State} (hs : s.Wf) : Out.Wf (execEcallReport s) := by
  unfold execEcallReport
  refine wf_ifOut (wf_next (wf_ecallOther hs)) ?_
  extract_lets d
  exact wf_next (wf_retireX _ _ (wf_hostNote _ _ _ _ hs))

end Sys2Proof.Machine
end

section
/-! PROOF. Canonical memory: the operations of Machine/Fpu.lean. -/

namespace Sys2Proof.Machine

theorem wf_fpuRetire {s : State} (d : Bool) (rd : Nat) (r : Nat × Nat) (hs : s.Wf) : (s.fpuRetire d rd r).Wf := by
  unfold State.fpuRetire
  exact wf_retire (wf_modMe _ hs)

theorem wf_fpuRetireX {s : State} (rd : BitVec 5) (v : Word) (flags : Nat) (hs : s.Wf) : (s.fpuRetireX rd v flags).Wf := by
  unfold State.fpuRetireX
  exact wf_retire (wf_modMe _ (wf_wx _ _ hs))

theorem wf_bind {α : Type} {f : α → Option State} {o : Option α} (hf : ∀ a, State.OptWf (f a)) : State.OptWf (o.bind f) := by
  intro t e
  obtain ⟨a, -, ha⟩ := Option.bind_eq_some_iff.mp e
  exact hf a t ha

theorem wf_fpuOp (w : BitVec 32) {s : State} (hs : s.Wf) : State.OptWf (fpuOp w s) := by
  unfold fpuOp
  extract_lets f5 fmt d rd r1 r2 rm f a b put
  have hput : ∀ r, State.OptWf (put r) := fun r => wf_some (wf_fpuRetire _ _ _ hs)
  refine wf_ifOpt wf_none ?_
  refine wf_ifOpt (wf_bind fun _ => hput _) ?_
  refine wf_ifOpt (wf_ifOpt (wf_bind fun _ => hput _) wf_none) ?_
  refine wf_ifOpt (wf_ifOpt (hput _) wf_none) ?_
  refine wf_ifOpt (wf_ifOpt (hput _) wf_none) ?_
  refine wf_ifOpt (wf_ifOpt (wf_bind fun _ => hput _) wf_none) ?_
  refine wf_ifOpt (wf_ifOpt (wf_some (wf_fpuRetireX _ _ _ hs)) wf_none) ?_
  refine wf_ifOpt (wf_ifOpt (wf_map fun _ => wf_fpuRetireX _ _ _ hs) wf_none) ?_
  refine wf_ifOpt (wf_ifOpt (wf_bind fun _ => hput _) wf_none) ?_
  refine wf_ifOpt (wf_ifOpt (wf_some (wf_fpuRetireX _ _ _ hs)) ?_) ?_
  · exact wf_ifOpt (wf_some (wf_fpuRetireX _ _ _ hs)) wf_none
  · exact wf_ifOpt (hput _) wf_none

theorem wf_fpuFma (w : BitVec 32) {s : State} (hs : s.Wf) : State.OptWf (fpuFma w s) := by
  unfold fpuFma
  extract_lets o fmt d reg var
  exact wf_ifOpt wf_none (wf_map (fun a => wf_fpuRetire _ _ _ hs))

theorem wf_fpuStep (w : BitVec 32) {s : State} (hs : s.Wf) : State.OptWf (fpuStep w s) := by
  unfold fpuStep
  extract_lets o
  exact wf_ifOpt wf_none (wf_ifOpt (wf_fpuOp _ hs) (wf_ifOpt (wf_fpuFma _ hs) wf_none))

end Sys2Proof.Machine
end

section
/-! PROOF. Canonical memory: the operations of Machine/Save.lean. -/

namespace Sys2Proof.Machine

theorem wf_keepOrder {s : State} (h : Nat) (va : Word) (hs : s.Wf) : (s.keepOrder h va).Wf := by
  unfold State.keepOrder
  extract_lets x o
  exact wf_of_mem hs

theorem wf_takeOrder {s : State} (iid : Nat) (va : Word) (hs : s.Wf) : (s.takeOrder iid va).1.Wf := by
  unfold State.takeOrder
  exact wf_of_mem hs

theorem wf_startSave {s : State} (h reason : Nat) (va : Word) (pc : Word) (vsaved : Bool) (hs : s.Wf) : (s.startSave h reason va pc vsaved).Wf := by
  unfold State.startSave
  extract_lets u
  have hu : u.Wf := (State.keeps_poke _ _ _).2 (wf_drain _ hs)
  exact (State.keeps_due _ _).2 (wf_modHart _ _ (wf_keepOrder _ _ hu))

theorem wf_writeAreas (cx : Cx) (l : List (Word × List Byte)) {s : State} (hs : s.Wf) : (State.writeAreas cx l s).1.Wf := by
  induction l generalizing s with
  | nil => exact hs
  | cons a l ih =>
    have hw : (s.writeVa cx a.1 a.2).1.Wf := wf_writeVa _ _ _ hs
    unfold State.writeAreas
    split
    next t _ e => exact ih (wf_fst e hw)
    next t _ e => exact wf_fst (t := t) e hw

theorem wf_writeSlot {s : State} (h : Nat) (v : Save) (hs : s.Wf) : (s.writeSlot h v).1.Wf := by
  unfold State.writeSlot
  extract_lets cx a lockb mat size
  exact wf_ifPair hs (wf_writeAreas _ _ hs)

theorem wf_dropMatrix {s : State} (h : Nat) (hs : s.Wf) : (s.dropMatrix h).Wf := by
  unfold State.dropMatrix
  exact wf_if (wf_matRelease _ hs) hs

theorem wf_requeueSaved {s : State} (h i : Nat) (mown : Bool) (ctag ntag : Nat) (hs : s.Wf) : (s.requeueSaved h i mown ctag ntag).Wf := by
  unfold State.requeueSaved
  split
  · exact wf_freeHart _ hs
  · extract_lets u u1
    have hu : u.Wf := wf_modInst _ _ hs
    have hu1 : u1.Wf := wf_freeHart _ hu
    split
    · exact hu1
    · split
      · exact hu1
      · exact wf_if (wf_endInst _ _ _ (wf_instStatus _ _ _ _ hu1)) (wf_if (wf_endInst _ _ _ hu1) (wf_addEntry _ _ _ _ hu1))

theorem wf_loseHart {s : State} (h code reason : Nat) (pc : Word) (hs : s.Wf) : (s.loseHart h code reason pc).Wf := by
  unfold State.loseHart
  split
  · exact wf_loseInst _ _ _ _ hs
  · exact wf_freeHart _ hs

theorem wf_execSaveComplete {s : State} (hs : s.Wf) : Out.Wf (execSaveComplete s) := by
  unfold execSaveComplete
  split
  · split
    · exact wf_next hs
    · refine wf_ifOut (wf_next ((State.keeps_due _ _).2 hs)) ?_
      split
      next t e2 =>
        have ht : t.Wf := wf_fst e2 (wf_writeSlot _ _ hs)
        exact wf_next (wf_loseHart _ _ _ _ ht)
      next t e2 =>
        have ht : t.Wf := wf_fst e2 (wf_writeSlot _ _ hs)
        extract_lets mown u
        have hu : u.Wf := wf_dropMatrix _ (wf_dropGrant _ (wf_killBlocks _ ht))
        refine wf_ifOut (wf_next (wf_modHart _ _ hu)) ?_
        refine wf_ifOut (wf_next (wf_loseHart _ _ _ _ ht)) ?_
        split
        · exact wf_next (wf_requeueSaved _ _ _ _ _ ht)
        · exact wf_next (wf_freeHart _ ht)
  · exact wf_next hs

theorem wf_execCtxsave (rs1 : BitVec 5) {s : State} (hs : s.Wf) : Out.Wf (execCtxsave rs1 s) := by
  unfold execCtxsave
  extract_lets va lg
  refine wf_ifOut (wf_next (wf_illegal _ hs)) ?_
  refine wf_ifOut (wf_next (wf_cmdFault _ hs)) ?_
  refine wf_ifOut (wf_next (wf_cmdFault _ hs)) ?_
  exact wf_ifOut (wf_next (wf_wait _ hs)) (wf_ifOut (wf_next (wf_wait _ hs)) (wf_next (wf_wait _ (wf_startSave _ _ _ _ _ hs))))

theorem wf_readAreas {s : State} (cx : Cx) (va : Word) (v : Slot) (hs : s.Wf) : (s.readAreas cx va v).1.Wf := by
  unfold State.readAreas
  split
  next t _ e =>
    have ht : t.Wf := wf_fst e (wf_readVa _ _ _ hs)
    exact ht
  next t _ e =>
    have ht : t.Wf := wf_fst e (wf_readVa _ _ _ hs)
    split
    next t1 _ e1 =>
      have ht1 : t1.Wf := wf_fst e1 (wf_readVa _ _ _ ht)
      exact ht1
    next t1 _ e1 =>
      have ht1 : t1.Wf := wf_fst e1 (wf_readVa _ _ _ ht)
      split
      next t2 _ e2 =>
        have ht2 : t2.Wf := wf_fst e2 (wf_readVa _ _ _ ht1)
        exact ht2
      next t2 _ e2 =>
        have ht2 : t2.Wf := wf_fst e2 (wf_readVa _ _ _ ht1)
        exact ht2

theorem wf_restoreVector {s : State} (h : Nat) (v : Slot) (vec : List Byte) (hs : s.Wf) : (s.restoreVector h v vec).Wf := by
  unfold State.restoreVector
  extract_lets x b n vlmax places vs p0 ps
  exact wf_modHart _ _ hs

theorem wf_restore {s : State} (h : Nat) (va : Word) (v : Slot) (vec mat : List Byte) (grant : List Nat) (hs : s.Wf) :
    (s.restore h va v vec mat grant).Wf := by
  unfold State.restore
  extract_lets ci w vcfg
  split
  next t _ e =>
    have ht : t.Wf := wf_fst e (wf_takeOrder _ _ hs)
    extract_lets u u1 vlmax u2 u3 u4 q u5 _
    have hu : u.Wf := wf_modHart _ _ ht
    have hu1 : u1.Wf := wf_setGrant _ _ (wf_setClaims _ _ hu)
    have hu2 : u2.Wf := wf_modHart _ _ hu1
    have hu3 : u3.Wf := wf_if (wf_restoreVector _ _ _ hu2) (wf_modHart _ _ hu2)
    have hu4 : u4.Wf := wf_if (wf_modMat _ _ hu3) hu3
    have hu5 : u5.Wf := wf_modHart _ _ hu4
    exact wf_of_mem hu5

theorem wf_restoreGrant {s : State} (h : Nat) (v : Slot) (hs : s.Wf) : (s.restoreGrant h v).1.Wf := by
  unfold State.restoreGrant
  refine wf_ifPair hs ?_
  extract_lets u
  have hu : u.Wf := wf_modHart _ _ hs
  split
  · exact hu
  · exact wf_setClaims _ _ hu

theorem wf_resumeRest {s : State} (h i : Nat) (va : Word) (v : Slot) (vec mat : List Byte) (hs : s.Wf) : (s.resumeRest h i va v vec mat).Wf := by
  unfold State.resumeRest
  refine wf_if (wf_loseHart _ _ _ _ hs) ?_
  split
  next t e =>
    have ht : t.Wf := wf_fst e (wf_restoreGrant _ _ hs)
    exact ht
  next t _ e =>
    have ht : t.Wf := wf_fst e (wf_restoreGrant _ _ hs)
    extract_lets t1
    exact wf_fencesDone (wf_modHart _ _ (wf_restore _ _ _ _ _ _ ht))

theorem wf_execResume {s : State} (hs : s.Wf) : Out.Wf (execResume s) := by
  unfold execResume
  split
  · split
    · split
      · exact wf_next (wf_resumeRest _ _ _ _ _ _ hs)
      · extract_lets cx
        split
        next t _ e4 =>
          have ht : t.Wf := wf_fst e4 (wf_readVa _ _ _ hs)
          split
          next t1 _ e5 =>
            have ht1 : t1.Wf := wf_fst e5 ((State.keeps_free _).2 ht)
            exact wf_next (wf_loseHart _ _ _ _ ht1)
        next t _ e4 =>
          have ht : t.Wf := wf_fst e4 (wf_readVa _ _ _ hs)
          extract_lets v
          refine wf_ifOut (wf_next (wf_loseHart _ _ _ _ ht)) ?_
          split
          next t1 _ e5 =>
            have ht1 : t1.Wf := wf_fst e5 (wf_readAreas _ _ _ ht)
            exact wf_next (wf_loseHart _ _ _ _ ht1)
          next t1 _ e5 =>
            have ht1 : t1.Wf := wf_fst e5 (wf_readAreas _ _ _ ht)
            extract_lets u u1
            have hu : u.Wf := wf_writeVa _ _ _ ht1
            have hu1 : u1.Wf := wf_modHart _ _ ((State.keeps_poke _ _ _).2 hu)
            exact wf_next (wf_resumeRest _ _ _ _ _ _ hu1)
    · exact wf_next hs
  · exact wf_next hs

theorem wf_loadTrap {s : State} (e : TR × Word) (hs : s.Wf) : Out.Wf (s.loadTrap e) := by
  unfold State.loadTrap
  exact wf_next (wf_except _ _ hs)

theorem wf_execCtxload (rs1 : BitVec 5) {s : State} (hs : s.Wf) : Out.Wf (execCtxload rs1 s) := by
  unfold execCtxload
  extract_lets va h ci cx
  refine wf_ifOut (wf_next (wf_illegal _ hs)) ?_
  refine wf_ifOut (wf_next (wf_cmdFault _ hs)) ?_
  split
  next t _ e =>
    have ht : t.Wf := wf_fst e (wf_readVa _ _ _ hs)
    exact wf_loadTrap _ ht
  next t _ e =>
    have ht : t.Wf := wf_fst e (wf_readVa _ _ _ hs)
    extract_lets v
    refine wf_ifOut (wf_next (wf_cmdFault _ ht)) ?_
    split
    next t1 _ e1 =>
      have ht1 : t1.Wf := wf_fst e1 (wf_readAreas _ _ _ ht)
      exact wf_loadTrap _ ht1
    next t1 _ e1 =>
      have ht1 : t1.Wf := wf_fst e1 (wf_readAreas _ _ _ ht)
      split
      next t2 e2 =>
        have ht2 : t2.Wf := wf_fst e2 (wf_restoreGrant _ _ ht1)
        exact wf_next (wf_wait _ ht2)
      next t2 _ e2 =>
        have ht2 : t2.Wf := wf_fst e2 (wf_restoreGrant _ _ ht1)
        refine wf_ifOut (wf_next (wf_matWait _ ht2)) ?_
        extract_lets u u1
        have hu : u.Wf := wf_if (wf_matTake _ _ ht2) ht2
        have hu1 : u1.Wf := wf_restore _ _ _ _ _ _ ((State.keeps_poke _ _ _).2 hu)
        exact wf_next (wf_retire (wf_modMe _ hu1))

theorem wf_vsetlEnd {s : State} (rd rs1 : BitVec 5) (cfg : BitVec 12) (new : List Nat) (lost : Bool) (hs : s.Wf) :
    Out.Wf (s.vsetlEnd rd rs1 cfg new lost) := by
  unfold State.vsetlEnd
  extract_lets u u1 vlmax vl u2
  have hu : u.Wf := wf_setGrant _ _ hs
  have hu1 : u1.Wf := wf_if (wf_setClaims _ _ hu) hu
  have hu2 : u2.Wf := wf_modMe _ hu1
  exact wf_next (wf_retireX _ _ hu2)

theorem wf_execVsetl (rd rs1 : BitVec 5) (cfg : BitVec 12) {s : State} (hs : s.Wf) : Out.Wf (execVsetl rd rs1 cfg s) := by
  unfold execVsetl
  extract_lets c h new u lost
  have hu : u.Wf := wf_setClaims _ _ hs
  refine wf_ifOut (wf_next (wf_illegal _ hs)) ?_
  split
  · refine wf_ifOut (wf_next (wf_wait _ hs)) ?_
    exact wf_ifOut (wf_next (wf_except _ _ (wf_modMe _ hs))) (wf_next (wf_startSave _ _ _ _ _ (wf_abandon _ hs)))
  · exact wf_ifOut (wf_next (wf_wait _ hu)) (wf_ifOut (wf_next (wf_wait _ hu)) (wf_vsetlEnd _ _ _ _ _ hu))

theorem wf_execLaneGrantReeval {s : State} (hs : s.Wf) : Out.Wf (execLaneGrantReeval s) := by
  unfold execLaneGrantReeval
  split
  · exact wf_ifOut (wf_next ((State.keeps_due _ _).2 hs)) (wf_ifOut (wf_next (wf_modHart _ _ hs)) (wf_next hs))
  · exact wf_next hs

theorem wf_execGraceExpiry {s : State} (hs : s.Wf) : Out.Wf (execGraceExpiry s) := by
  unfold execGraceExpiry
  split
  · exact wf_next (wf_modHart _ _ hs)
  · exact wf_next hs

theorem wf_execCommitWindowExpiry {s : State} (hs : s.Wf) : Out.Wf (execCommitWindowExpiry s) := by
  unfold execCommitWindowExpiry
  split
  · exact wf_next (wf_if (wf_modHart _ _ hs) hs)
  · exact wf_next hs

theorem wf_discard {s : State} (h cause : Nat) (hs : s.Wf) : (s.discard h cause).Wf := by
  unfold State.discard
  extract_lets u pc
  have hu : u.Wf := wf_killBlocks _ hs
  split
  · exact wf_freeHart _ hu
  · refine wf_if (wf_loseInst _ _ _ _ hu) ?_
    exact wf_if (wf_loseInst _ _ _ _ hu) (wf_if (wf_endInst _ _ _ (wf_instStatus _ _ _ _ hu)) (wf_endInst _ _ _ hu))

theorem wf_stopStep {s : State} (h : Nat) (hs : s.Wf) : (s.stopStep h).Wf := by
  unfold State.stopStep
  extract_lets x
  split
  · exact hs
  · refine wf_if (wf_modHart _ _ (wf_abandon _ hs)) ?_
    extract_lets drop u
    have hu : u.Wf := by
      dsimp only [u]
      split
      · exact wf_writeVa _ _ _ hs
      · exact hs
    split
    · split
      · refine wf_if (wf_discard _ _ hs) ?_
        extract_lets t
        exact wf_requeueSaved _ _ _ _ _ hu
      · exact wf_freeHart _ hs
    · exact wf_if hs (wf_if (wf_discard _ _ hs) (wf_startSave _ _ _ _ _ hs))

theorem wf_execWatchdogExpiry {s : State} (hs : s.Wf) : Out.Wf (execWatchdogExpiry s) := by
  unfold execWatchdogExpiry
  split
  · split
    · split
      · extract_lets q
        refine wf_ifOut (wf_next hs) ?_
        split
        next t _ e2 =>
          have ht : t.Wf := wf_fst e2 ((State.keeps_free _).2 hs)
          extract_lets u _
          have hu : u.Wf := wf_loseInst _ _ _ _ ht
          exact wf_next (wf_of_mem hu)
      · exact wf_next hs
    · exact wf_ifOut (wf_next (wf_askHard _ _ hs)) (wf_next hs)
  · exact wf_next hs

theorem wf_execSavetoExpiry {s : State} (hs : s.Wf) : Out.Wf (execSavetoExpiry s) := by
  unfold execSavetoExpiry
  split
  · extract_lets x2 pc
    exact wf_ifOut (wf_next (wf_quarantine _ _ _ (wf_loseHart _ _ _ _ hs))) (wf_next hs)
  · exact wf_next hs

theorem wf_execWaitTimeout {s : State} (hs : s.Wf) : Out.Wf (execWaitTimeout s) := by
  unfold execWaitTimeout
  split
  · extract_lets x2 timed
    exact wf_ifOut (wf_next (wf_modHart _ _ hs)) (wf_next hs)
  · exact wf_next hs

theorem wf_execSignalWake {s : State} (hs : s.Wf) : Out.Wf (execSignalWake s) := by
  unfold execSignalWake
  split
  · refine wf_next ?_
    refine wf_foldl ?_ hs _
    intro t a ht
    split
    · exact wf_if (wf_modHart _ _ ht) ht
    · exact ht
  · exact wf_next hs

theorem wf_execSignalPoll {s : State} (hs : s.Wf) : Out.Wf (execSignalPoll s) := by
  unfold execSignalPoll
  split
  · split
    · exact wf_next (wf_modHart _ _ hs)
    · exact wf_next hs
  · exact wf_next hs

end Sys2Proof.Machine
end

section
/-! PROOF. Canonical memory: the operations of Machine/Mgmt.lean. -/

namespace Sys2Proof.Machine

theorem wf_laneError {s : State} (h lg lane elem : Nat) (b : Biq) (hs : s.Wf) : (s.laneError h lg lane elem b).Wf := by
  unfold State.laneError
  split
  next t _ e =>
    have ht : t.Wf := wf_fst e ((State.keeps_free _).2 hs)
    exact wf_errorRecord _ ht

theorem wf_laneStop {s : State} (h : Nat) (b : Biq) (hs : s.Wf) : (s.laneStop h b).Wf := by
  unfold State.laneStop
  exact wf_if (wf_loseHart _ _ _ _ hs) (wf_modHart _ _ hs)

theorem wf_execLaneCheckFail {s : State} (hs : s.Wf) : Out.Wf (execLaneCheckFail s) := by
  unfold execLaneCheckFail
  split
  · split
    · exact wf_next hs
    · exact wf_next (wf_quarantine _ _ _ (wf_laneStop _ _ (wf_laneError _ _ _ _ _ hs)))
  · exact wf_next hs

theorem wfFrom_mono {lo lo' : Nat} {m : List Host.Cell} (h : Memory.wfFrom lo' m = true) (hl : lo ≤ lo') : Memory.wfFrom lo m = true := by
  cases m with
  | nil => rfl
  | cons c m =>
    simp only [Memory.wfFrom, Bool.and_eq_true, decide_eq_true_eq] at h ⊢
    exact ⟨⟨Nat.le_trans hl h.1.1, h.1.2⟩, h.2⟩

theorem filter_wfFrom (p : Host.Cell → Bool) {lo : Nat} {m : List Host.Cell} (h : Memory.wfFrom lo m = true) :
    Memory.wfFrom lo (m.filter p) = true := by
  induction m generalizing lo with
  | nil => rfl
  | cons c m ih =>
    simp only [Memory.wfFrom, Bool.and_eq_true, decide_eq_true_eq] at h
    obtain ⟨⟨hlo, hb⟩, hm⟩ := h
    rw [List.filter_cons]
    split
    · simp only [Memory.wfFrom, Bool.and_eq_true, decide_eq_true_eq]
      exact ⟨⟨hlo, hb⟩, ih hm⟩
    · exact wfFrom_mono (ih hm) (Nat.le_succ_of_le hlo)

/-- What remains of memory when addresses are forgotten keeps the canonical form. -/
theorem filter_wf (p : Host.Cell → Bool) {m : List Host.Cell} (h : Memory.wf m = true) : Memory.wf (m.filter p) = true := filter_wfFrom p h

theorem wf_resetCore {s : State} (ci : Nat) (hs : s.Wf) : (s.resetCore ci).Wf := by
  unfold State.resetCore
  extract_lets ls u lo _ u1 u2
  have hu : u.Wf := by
    refine wf_foldl ?_ hs _
    intro t l ht
    exact (State.keeps_settle _ _ _).2 ((State.keeps_l1dEvict _ _ _).2 ((State.keeps_dropVector _ _ _).2 ((State.keeps_settle _ _ _).2 ht)))
  have hu1 : u1.Wf := wf_of_mem (filter_wf _ hu)
  exact wf_tlbDrop _ (wf_modCore _ _ hu1)

theorem wf_noteTransient {s : State} (ci : Nat) (lanes : List Nat) (hs : s.Wf) : (s.noteTransient ci lanes).Wf := by
  unfold State.noteTransient
  extract_lets now ts _
  exact wf_of_mem hs

theorem wf_finishTest {s : State} (ci mask : Nat) (last : List Nat) (hs : s.Wf) : (s.finishTest ci mask last).Wf := by
  unfold State.finishTest
  extract_lets u half _ u1 _
  have hu : u.Wf := wf_modCore _ _ hs
  have hu1 : u1.Wf := wf_of_mem hu
  exact wf_if (wf_of_mem hu1) (wf_modCore _ _ hu1)

theorem wf_testRecord {s : State} (ci mask : Nat) (hs : s.Wf) : (s.testRecord ci mask).Wf := by
  unfold State.testRecord
  extract_lets n u
  have hu : u.Wf := wf_errorRecord _ hs
  exact wf_hostEvent _ _ _ _ _ hu

theorem wf_execSelftestDone {s : State} (hs : s.Wf) : Out.Wf (execSelftestDone s) := by
  unfold execSelftestDone
  split
  · refine wf_ifOut (wf_next hs) ?_
    refine wf_ifOut (wf_next ((State.keeps_due _ _).2 hs)) ?_
    extract_lets u last mask u1 u2
    have hu : u.Wf := wf_resetCore _ hs
    have hu1 : u1.Wf := wf_testRecord _ _ (wf_finishTest _ _ _ (wf_noteTransient _ _ hu))
    have hu2 : u2.Wf := by
      refine wf_foldl ?_ hu1 _
      intro t a ht
      exact wf_answer _ _ _ _ ht
    exact wf_next (wf_kick _ hu2)
  · exact wf_next hs

theorem wf_power {s : State} (hs : s.Wf) : s.power.Wf := by
  unfold State.power
  exact wf_of_mem (filter_wf _ hs)

theorem wf_bringUp {s : State} (hs : s.Wf) : (s.bringUp).Wf := by
  unfold State.bringUp
  exact wf_if (wf_of_mem hs) (wf_of_mem hs)

theorem wf_execPackageReset {s : State} (hs : s.Wf) : Out.Wf (execPackageReset s) := by
  unfold execPackageReset
  split
  · exact wf_next (wf_bringUp (wf_power hs))
  · exact wf_next hs

theorem wf_loseDieTasks {s : State} (d : Nat) (hs : s.Wf) : (s.loseDieTasks d).Wf := by
  unfold State.loseDieTasks
  extract_lets runs u ents u1 _
  have hu : u.Wf := by
    refine wf_foldl ?_ hs _
    intro t a ht
    split
    next t1 _ e =>
      have ht1 : t1.Wf := wf_fst e ((State.keeps_free _).2 ht)
      exact wf_loseInst _ _ _ _ ht1
  have hu1 : u1.Wf := by
    refine wf_foldl ?_ hu _
    intro t2 a1 ht2
    exact wf_dropEntry _ _ _ ht2
  exact wf_of_mem hu1

theorem wf_resetDieCaches {s : State} (d : Nat) (hs : s.Wf) : (s.resetDieCaches d).Wf := by
  unfold State.resetDieCaches
  extract_lets far alive _ _
  exact wf_of_mem hs

theorem wf_resetDie {s : State} (d : Nat) (hs : s.Wf) : (s.resetDie d).Wf := by
  unfold State.resetDie
  extract_lets u _ u1
  have hu : u.Wf := wf_resetDieCaches _ (wf_loseDieTasks _ hs)
  have hu1 : u1.Wf := wf_of_mem (filter_wf _ hu)
  exact wf_tlbDrop _ hu1

theorem wf_execDierst {s : State} (hs : s.Wf) : Out.Wf (execDierst s) := by
  unfold execDierst
  split
  · exact wf_next (wf_if (wf_resetDie _ hs) hs)
  · exact wf_next hs

theorem wf_execGstrst {s : State} (hs : s.Wf) : Out.Wf (execGstrst s) := by
  unfold execGstrst
  split
  · exact wf_next (wf_if (wf_loseGuest _ hs) (wf_of_mem hs))
  · exact wf_next hs

theorem wf_execPlimSet {s : State} (hs : s.Wf) : Out.Wf (execPlimSet s) := by
  unfold execPlimSet
  split
  · exact wf_next (wf_if (wf_of_mem hs) hs)
  · exact wf_next hs

theorem wf_setCclk {s : State} (d mhz : Nat) (hs : s.Wf) : (s.setCclk d mhz).Wf := by
  unfold State.setCclk
  exact wf_of_mem hs

theorem wf_execThermalThrottle {s : State} (hs : s.Wf) : Out.Wf (execThermalThrottle s) := by
  unfold execThermalThrottle
  split
  · exact wf_next (wf_setCclk _ _ hs)
  · exact wf_next hs

theorem wf_execThrottleRecover {s : State} (hs : s.Wf) : Out.Wf (execThrottleRecover s) := by
  unfold execThrottleRecover
  split
  · exact wf_next (wf_setCclk _ _ hs)
  · exact wf_next hs

theorem wf_execThermtrip {s : State} (hs : s.Wf) : Out.Wf (execThermtrip s) := by
  unfold execThermtrip
  split
  · split
    · extract_lets u _ u1
      have hu : u.Wf := wf_errorRecord _ hs
      have hu1 : u1.Wf := wf_of_mem hu
      exact wf_next (wf_if hu1 (wf_sever _ hu1))
    · exact wf_next hs
  · exact wf_next hs

theorem wf_execSpdmRequest {s : State} (hs : s.Wf) : Out.Wf (execSpdmRequest s) := by
  unfold execSpdmRequest
  split
  · exact wf_next (wf_if (wf_toHost _ hs) hs)
  · exact wf_next hs

end Sys2Proof.Machine
end

section
/-! PROOF. Canonical memory: the operations of Machine/Dispatch.lean. -/

namespace Sys2Proof.Machine

theorem wf_exec (i : Instr) {s : State} (hs : s.Wf) : Out.Wf (exec i s) :=
  match i with
  | .vsetl rd rs1 cfg => wf_execVsetl rd rs1 cfg hs
  | .bx rs1 => wf_execBx rs1 hs
  | .bloop rs1 rs2 => wf_execBloop rs1 rs2 hs
  | .bwait => wf_execBwait hs
  | .bretry => wf_execBretry hs
  | .bkill => wf_execBkill hs
  | .sigadd rd rs1 rs2 => wf_execSigadd rd rs1 rs2 hs
  | .sigor rd rs1 rs2 => wf_execSigor rd rs1 rs2 hs
  | .sigwait rd rs1 rs2 => wf_execSigwait rd rs1 rs2 hs
  | .sigwaitm rd rs1 rs2 => wf_execSigwaitm rd rs1 rs2 hs
  | .fenceS succ pred scope => wf_execFenceS succ pred scope hs
  | .gbar g => wf_execGbar g hs
  | .ctxsave rs1 => wf_execCtxsave rs1 hs
  | .ctxload rs1 => wf_execCtxload rs1 hs
  | .lgset rd rs1 rs2 => wf_execLgset rd rs1 rs2 hs
  | .menable => wf_execMenable hs
  | .mdisable => wf_execMdisable hs
  | .mclaim rd => wf_execMclaim rd hs
  | .mrel => wf_execMrel hs
  | .mzero t => wf_execMzero t hs
  | .medge t rs1 rs2 => wf_execMedge t rs1 rs2 hs
  | .mop fmt i32 t rs1 => wf_execMop fmt i32 t rs1 hs
  | .mstatStatus rd rs1 => wf_execMstatStatus rd rs1 hs
  | .mstatDrain rd rs1 => wf_execMstatDrain rd rs1 hs
  | .mstatEdge rd rs1 => wf_execMstatEdge rd rs1 hs
  | .cpy rd rs1 rs2 rs3 => wf_execCpy rd rs1 rs2 rs3 hs
  | .cpy2 rd rs1 rs2 rs3 => wf_execCpy2 rd rs1 rs2 rs3 hs
  | .cpyqState rd rs1 rs2 => wf_execCpyqState rd rs1 rs2 hs
  | .cpyqRetry rd rs1 rs2 => wf_execCpyqRetry rd rs1 rs2 hs
  | .cpyqAbandon rd rs1 rs2 => wf_execCpyqAbandon rd rs1 rs2 hs
  | .cpyqNext rd rs1 rs2 => wf_execCpyqNext rd rs1 rs2 hs
  | .cpyqFaddr rd rs1 rs2 => wf_execCpyqFaddr rd rs1 rs2 hs
  | .tqput rd rs1 rs2 => wf_execTqput rd rs1 rs2 hs
  | .tqputLoopback rd rs1 rs2 => wf_execTqputLoopback rd rs1 rs2 hs
  | .tqdep rd rs1 rs2 => wf_execTqdep rd rs1 rs2 hs
  | .tqdec rd rs1 => wf_execTqdec rd rs1 hs
  | .tqat rd rs1 rs2 rs3 => wf_execTqat rd rs1 rs2 rs3 hs
  | .tkwait rd rs1 rs2 => wf_execTkwait rd rs1 rs2 hs
  | .tkdone rd rs1 rs2 => wf_execTkdone rd rs1 rs2 hs
  | .tqdone => wf_execTqdone hs
  | .tqyield rs1 rs2 => wf_execTqyield rs1 rs2 hs
  | .tqstatDepth rd rs1 rs2 => wf_execTqstatDepth rd rs1 rs2 hs
  | .tqstatRun rd rs1 rs2 => wf_execTqstatRun rd rs1 rs2 hs
  | .tqstatState rd rs1 rs2 => wf_execTqstatState rd rs1 rs2 hs
  | .tqstatPrio rd rs1 rs2 => wf_execTqstatPrio rd rs1 rs2 hs
  | .tqstatOvf rd rs1 rs2 => wf_execTqstatOvf rd rs1 rs2 hs
  | .tqstatInst rd rs1 rs2 => wf_execTqstatInst rd rs1 rs2 hs
  | .tqstatSlice rd rs1 rs2 => wf_execTqstatSlice rd rs1 rs2 hs
  | .tqstatGroups rd rs1 rs2 => wf_execTqstatGroups rd rs1 rs2 hs
  | .rpub rd rs1 => wf_execRpub rd rs1 hs
  | .racq rd rs1 k => wf_execRacq rd rs1 k hs
  | .rwinAbs rd rs1 rs2 k => wf_execRwinAbs rd rs1 rs2 k hs
  | .rwinLag rd rs1 rs2 k => wf_execRwinLag rd rs1 rs2 k hs
  | .rviewV rd rs1 rs2 => wf_execRviewV rd rs1 rs2 hs
  | .rviewFloor rd rs1 rs2 => wf_execRviewFloor rd rs1 rs2 hs
  | .rviewWord0 rd rs1 rs2 => wf_execRviewWord0 rd rs1 rs2 hs
  | .rviewWord1 rd rs1 rs2 => wf_execRviewWord1 rd rs1 rs2 hs
  | .ldbw rd rs1 k => wf_execLdbw rd rs1 k hs
  | .nsend rd rs1 rs2 => wf_execNsend rd rs1 rs2 hs
  | .nwrite rd rs1 rs2 => wf_execNwrite rd rs1 rs2 hs
  | .nread rd rs1 rs2 => wf_execNread rd rs1 rs2 hs
  | .nfence rd rs1 => wf_execNfence rd rs1 hs
  | .nstatState rd rs1 rs2 => wf_execNstatState rd rs1 rs2 hs
  | .nstatNext rd rs1 rs2 => wf_execNstatNext rd rs1 rs2 hs
  | .nstatPending rd rs1 rs2 => wf_execNstatPending rd rs1 rs2 hs
  | .nstatCtva rd rs1 rs2 => wf_execNstatCtva rd rs1 rs2 hs
  | .nstatPtp rd rs1 rs2 => wf_execNstatPtp rd rs1 rs2 hs
  | .sfenceVma rs1 rs2 => wf_execSfenceVma rs1 rs2 hs
  | .lr aq rl f3 rd rs1 => wf_execLr aq rl f3 rd rs1 hs
  | .sc aq rl f3 rd rs1 rs2 => wf_execSc aq rl f3 rd rs1 rs2 hs
  | .scalarAmo f5 aq rl f3 rd rs1 rs2 => wf_execScalarAmo f5 aq rl f3 rd rs1 rs2 hs
  | .vcfgWrite f3 rd src => wf_execVcfgWrite f3 rd src hs
  | .lanemapWrite f3 rd src => wf_execLanemapWrite f3 rd src hs
  | .mcfgWrite f3 rd src => wf_execMcfgWrite f3 rd src hs
  | .satpWrite f3 rd src => wf_execSatpWrite f3 rd src hs
  | .csrWrite csr f3 rd src => wf_execCsrWrite csr f3 rd src hs
  | .add a => wf_execAdd a hs
  | .sub a => wf_execSub a hs
  | .mul a => wf_execMul a hs
  | .mulh a => wf_execMulh a hs
  | .div a => wf_execDiv a hs
  | .rem a => wf_execRem a hs
  | .and a => wf_execAnd a hs
  | .or a => wf_execOr a hs
  | .xor a => wf_execXor a hs
  | .andn a => wf_execAndn a hs
  | .sll a => wf_execSll a hs
  | .srl a => wf_execSrl a hs
  | .sra a => wf_execSra a hs
  | .rot a => wf_execRot a hs
  | .min a => wf_execMin a hs
  | .max a => wf_execMax a hs
  | .abs a => wf_execAbs a hs
  | .clz a => wf_execClz a hs
  | .ctz a => wf_execCtz a hs
  | .popc a => wf_execPopc a hs
  | .cmp a => wf_execCmp a hs
  | .bfx a => wf_execBfx a hs
  | .bfi a => wf_execBfi a hs
  | .dot4 a => wf_execDot4 a hs
  | .redsum a => wf_execRedsum a hs
  | .redmin a => wf_execRedmin a hs
  | .redmax a => wf_execRedmax a hs
  | .redand a => wf_execRedand a hs
  | .redor a => wf_execRedor a hs
  | .pfx a => wf_execPfx a hs
  | .vconf a => wf_execVconf a hs
  | .cmpr a => wf_execCmpr a hs
  | .perm a => wf_execPerm a hs
  | .slide a => wf_execSlide a hs
  | .bcast a => wf_execBcast a hs
  | .fadd a => wf_execFadd a hs
  | .fsub a => wf_execFsub a hs
  | .fmul a => wf_execFmul a hs
  | .fma a => wf_execFma a hs
  | .fdiv a => wf_execFdiv a hs
  | .fsqrt a => wf_execFsqrt a hs
  | .fmin a => wf_execFmin a hs
  | .fmax a => wf_execFmax a hs
  | .fsgnj a => wf_execFsgnj a hs
  | .fcmp a => wf_execFcmp a hs
  | .fclass a => wf_execFclass a hs
  | .frcp a => wf_execFrcp a hs
  | .frsq a => wf_execFrsq a hs
  | .fex2 a => wf_execFex2 a hs
  | .flg2 a => wf_execFlg2 a hs
  | .fsin a => wf_execFsin a hs
  | .fcos a => wf_execFcos a hs
  | .fdot2 a => wf_execFdot2 a hs
  | .fredsum a => wf_execFredsum a hs
  | .fredmm a => wf_execFredmm a hs
  | .fwid a => wf_execFwid a hs
  | .fnar a => wf_execFnar a hs
  | .fcvtd a => wf_execFcvtd a hs
  | .f2i a => wf_execF2i a hs
  | .i2f a => wf_execI2f a hs
  | .mxscl a => wf_execMxscl a hs
  | .mxcvt a => wf_execMxcvt a hs
  | .mxexp a => wf_execMxexp a hs
  | .pand a => wf_execPand a hs
  | .por a => wf_execPor a hs
  | .pxor a => wf_execPxor a hs
  | .pnot a => wf_execPnot a hs
  | .pandn a => wf_execPandn a hs
  | .pcnt a => wf_execPcnt a hs
  | .pffs a => wf_execPffs a hs
  | .mov a => wf_execMov a hs
  | .sel a => wf_execSel a hs
  | .nul a => wf_execNul a hs
  | .addi a => wf_execAddi a hs
  | .andi a => wf_execAndi a hs
  | .ori a => wf_execOri a hs
  | .xori a => wf_execXori a hs
  | .slli a => wf_execSlli a hs
  | .srli a => wf_execSrli a hs
  | .srai a => wf_execSrai a hs
  | .muli a => wf_execMuli a hs
  | .cmpi a => wf_execCmpi a hs
  | .vget r => wf_execVget r hs
  | .pget r => wf_execPget r hs
  | .xget r => wf_execXget r hs
  | .sget r => wf_execSget r hs
  | .vput r => wf_execVput r hs
  | .pput r => wf_execPput r hs
  | .xput r => wf_execXput r hs
  | .const r lit => wf_execConst r lit hs
  | .iota r lit => wf_execIota r lit hs
  | .ld m => wf_execLd m hs
  | .ldLone m lit => wf_execLdLone m lit hs
  | .lds m => wf_execLds m hs
  | .ldsLone m lit => wf_execLdsLone m lit hs
  | .ldx m => wf_execLdx m hs
  | .ldxLone m lit => wf_execLdxLone m lit hs
  | .ldb m => wf_execLdb m hs
  | .ldbLone m lit => wf_execLdbLone m lit hs
  | .ldbx m => wf_execLdbx m hs
  | .ldbxLone m lit => wf_execLdbxLone m lit hs
  | .st m => wf_execSt m hs
  | .stLone m lit => wf_execStLone m lit hs
  | .sts m => wf_execSts m hs
  | .stsLone m lit => wf_execStsLone m lit hs
  | .stx m => wf_execStx m hs
  | .stxLone m lit => wf_execStxLone m lit hs
  | .amo m => wf_execAmo m hs
  | .acas m => wf_execAcas m hs
  | .tfl t lit => wf_execTfl t lit hs
  | .tld t lit => wf_execTld t lit hs
  | .rbox t => wf_execRbox t hs
  | .rtri t => wf_execRtri t hs
  | .tsmv r => wf_execTsmv r hs
  | .tsld m => wf_execTsld m hs
  | .tsst m => wf_execTsst m hs
  | .ost r => wf_execOst r hs
  | .scalarLoad fp f3 rd rs1 imm => wf_execScalarLoad fp f3 rd rs1 imm hs
  | .scalarStore fp f3 rs1 rs2 imm => wf_execScalarStore fp f3 rs1 rs2 imm hs
  | .fence fm pred succ rd rs1 => wf_execFence fm pred succ rd rs1 hs
  | .fenceI imm rd rs1 => wf_execFenceI imm rd rs1 hs
  | .wfi => wf_execWfi hs
  | .csrRead csr f3 rd => wf_execCsrRead csr f3 rd hs
  | .illegalInstruction word => wf_execIllegalInstruction word hs
  | .blockFetchDecode => wf_execBlockFetchDecode hs
  | .loadDataReturn => wf_execLoadDataReturn hs
  | .blockCommit => wf_execBlockCommit hs
  | .blockFault => wf_execBlockFault hs
  | .blockTrapDeliver => wf_execBlockTrapDeliver hs
  | .laneGrantReeval => wf_execLaneGrantReeval hs
  | .graceExpiry => wf_execGraceExpiry hs
  | .commitWindowExpiry => wf_execCommitWindowExpiry hs
  | .saveComplete => wf_execSaveComplete hs
  | .watchdogExpiry => wf_execWatchdogExpiry hs
  | .savetoExpiry => wf_execSavetoExpiry hs
  | .resume => wf_execResume hs
  | .waitTimeout => wf_execWaitTimeout hs
  | .signalWake => wf_execSignalWake hs
  | .signalPoll => wf_execSignalPoll hs
  | .gbarRelease => wf_execGbarRelease hs
  | .matrixCmdRetire => wf_execMatrixCmdRetire hs
  | .copyChunkExecute => wf_execCopyChunkExecute hs
  | .chunkLand => wf_execChunkLand hs
  | .tqeDispatch => wf_execTqeDispatch hs
  | .ageExpiry => wf_execAgeExpiry hs
  | .almanacTick => wf_execAlmanacTick hs
  | .depDecrement => wf_execDepDecrement hs
  | .ticketAdvance => wf_execTicketAdvance hs
  | .queueDestroyComplete => wf_execQueueDestroyComplete hs
  | .gets => wf_execGets hs
  | .getx => wf_execGetx hs
  | .upg => wf_execUpg hs
  | .puts => wf_execPuts hs
  | .wbreq => wf_execWbreq hs
  | .wbdata => wf_execWbdata hs
  | .wrm => wf_execWrm hs
  | .clean => wf_execClean hs
  | .amoRequest => wf_execAmoRequest hs
  | .rdu => wf_execRdu hs
  | .iack => wf_execIack hs
  | .rdata => wf_execRdata hs
  | .dataS => wf_execDataS hs
  | .dataE => wf_execDataE hs
  | .grantX => wf_execGrantX hs
  | .wrack => wf_execWrack hs
  | .amoack => wf_execAmoack hs
  | .inv => wf_execInv hs
  | .recall => wf_execRecall hs
  | .downgr => wf_execDowngr hs
  | .wbgo => wf_execWbgo hs
  | .wbstale => wf_execWbstale hs
  | .reservationTimeout => wf_execReservationTimeout hs
  | .linkError => wf_execLinkError hs
  | .linkRetrainFail => wf_execLinkRetrainFail hs
  | .sever => wf_execSever hs
  | .refetchRequest => wf_execRefetchRequest hs
  | .stallTimeout => wf_execStallTimeout hs
  | .replicaUpdate => wf_execReplicaUpdate hs
  | .replicaAck => wf_execReplicaAck hs
  | .roundNotice => wf_execRoundNotice hs
  | .walkComplete => wf_execWalkComplete hs
  | .atsInvalidate => wf_execAtsInvalidate hs
  | .prgResponse => wf_execPrgResponse hs
  | .prtoExpiry => wf_execPrtoExpiry hs
  | .drainTimeout => wf_execDrainTimeout hs
  | .netPacketRx => wf_execNetPacketRx hs
  | .netAck => wf_execNetAck hs
  | .netNack => wf_execNetNack hs
  | .netCompletionAck => wf_execNetCompletionAck hs
  | .netRetransmitTimer => wf_execNetRetransmitTimer hs
  | .netTimeout => wf_execNetTimeout hs
  | .netReadRequest => wf_execNetReadRequest hs
  | .ptpEvent => wf_execPtpEvent hs
  | .hostPut => wf_execHostPut hs
  | .putResultRead => wf_execPutResultRead hs
  | .hostBar4Read => wf_execHostBar4Read hs
  | .hostBar4Write => wf_execHostBar4Write hs
  | .hostAtomicop => wf_execHostAtomicop hs
  | .snpinv => wf_execSnpinv hs
  | .snpdata => wf_execSnpdata hs
  | .snpcur => wf_execSnpcur hs
  | .hostReadComplete => wf_execHostReadComplete hs
  | .atomicopCompletion => wf_execAtomicopCompletion hs
  | .completionTimeout => wf_execCompletionTimeout hs
  | .hostLinkDown => wf_execHostLinkDown hs
  | .guestDone => wf_execGuestDone hs
  | .guestSaved => wf_execGuestSaved hs
  | .guestXreq => wf_execGuestXreq hs
  | .guestInvack => wf_execGuestInvack hs
  | .guestPstopack => wf_execGuestPstopack hs
  | .guestFire => wf_execGuestFire hs
  | .guestSpdm => wf_execGuestSpdm hs
  | .guestCohRequest => wf_execGuestCohRequest hs
  | .guestHomeAnswer => wf_execGuestHomeAnswer hs
  | .guestDutyTimeout => wf_execGuestDutyTimeout hs
  | .attestStart => wf_execAttestStart hs
  | .attestTimeout => wf_execAttestTimeout hs
  | .qcreate => wf_execQcreate hs
  | .qdestroy => wf_execQdestroy hs
  | .pbind => wf_execPbind hs
  | .pstop => wf_execPstop hs
  | .inval => wf_execInval hs
  | .winen => wf_execWinen hs
  | .wallset => wf_execWallset hs
  | .rcreate => wf_execRcreate hs
  | .rdestroy => wf_execRdestroy hs
  | .epcreate => wf_execEpcreate hs
  | .epdestroy => wf_execEpdestroy hs
  | .peerset => wf_execPeerset hs
  | .nwinreg => wf_execNwinreg hs
  | .hwinset => wf_execHwinset hs
  | .ptpset => wf_execPtpset hs
  | .gpolicy => wf_execGpolicy hs
  | .ggrant => wf_execGgrant hs
  | .selftest => wf_execSelftest hs
  | .info => wf_execInfo hs
  | .meminfo => wf_execMeminfo hs
  | .ecallSubmit => wf_execEcallSubmit hs
  | .ecallPost => wf_execEcallPost hs
  | .ecallReport => wf_execEcallReport hs
  | .laneCheckFail => wf_execLaneCheckFail hs
  | .selftestDone => wf_execSelftestDone hs
  | .packageReset => wf_execPackageReset hs
  | .dierst => wf_execDierst hs
  | .gstrst => wf_execGstrst hs
  | .plimSet => wf_execPlimSet hs
  | .thermalThrottle => wf_execThermalThrottle hs
  | .throttleRecover => wf_execThrottleRecover hs
  | .thermtrip => wf_execThermtrip hs
  | .interrupt => wf_execInterrupt hs
  | .llcFill => wf_execLlcFill hs
  | .doorbell => wf_execDoorbell hs
  | .protocolError => wf_execProtocolError hs
  | .spdmRequest => wf_execSpdmRequest hs
  | .hostPortReset => wf_execHostPortReset hs
  | .probe => wf_execProbe hs

end Sys2Proof.Machine
end

section
/-! PROOF. Canonical memory: the operations of Machine/Sequence.lean. -/

namespace Sys2Proof.Machine

theorem wf_fetchPiece {s : State} (va : Word) (hs : s.Wf) : (s.fetchPiece va).1.Wf := by
  unfold State.fetchPiece
  split
  next t _ e =>
    have ht : t.Wf := wf_fst e ((State.keeps_xlateRange _ _ _ _ _).2 hs)
    extract_lets l u bs
    have hu : u.Wf := (State.keeps_loadLines _ _ _ _).2 ht
    split
    · exact ht
    · exact wf_ifPair (wf_poisonRecord _ hu) (wf_ifPair hu (wf_modCore _ _ hu))
  next t _ _ e1 =>
    have ht : t.Wf := wf_fst e1 ((State.keeps_xlateRange _ _ _ _ _).2 hs)
    exact ht

theorem wf_fetchWord {s : State} (hs : s.Wf) : (s.fetchWord).1.Wf := by
  unfold State.fetchWord
  split
  next t _ e =>
    have ht : t.Wf := wf_fst e (wf_fetchPiece _ hs)
    exact ht
  next t _ e =>
    have ht : t.Wf := wf_fst e (wf_fetchPiece _ hs)
    extract_lets a
    refine wf_ifPair ht ?_
    split
    next t1 _ e1 =>
      have ht1 : t1.Wf := wf_fst e1 (wf_fetchPiece _ ht)
      exact ht1
    next t1 _ e1 =>
      have ht1 : t1.Wf := wf_fst e1 (wf_fetchPiece _ ht)
      exact ht1

theorem wf_readOrder {s : State} (hs : s.Wf) : (s.readOrder).Wf := by
  unfold State.readOrder
  exact wf_if (wf_modMe _ (wf_hold _ _ _ (wf_drain _ hs))) hs

theorem wf_readDone {s : State} (hs : s.Wf) : (s.readDone).Wf := by
  unfold State.readDone
  exact wf_if (wf_modMe _ hs) hs

theorem wf_boundaryTrap {s : State} (hs : s.Wf) : State.OptWf s.boundaryTrap := by
  unfold State.boundaryTrap
  extract_lets x
  exact wf_ifOpt wf_none (wf_ifOpt (wf_some (wf_deliverFault _ hs)) (wf_map fun _ => wf_modMe _ (wf_abandon _ hs)))

end Sys2Proof.Machine
end

section
/-! PROOF. O60: a step keeps memory canonical. -/

namespace Sys2Proof.Machine
open Sys2Proof.Claims

/-- The states that a move runs from, or ends in, have canonical memory. -/
def Move.Wf : Move → Prop
  | .run s _ => s.Wf
  | .guard s _ alt => s.Wf ∧ alt.Wf
  | .stop out => Out.Wf out

theorem moveWf_runOr {s : State} (i : Instr) {alt : Option State} (hs : s.Wf) (ha : State.OptWf alt) : (s.runOr i alt).Wf := by
  unfold State.runOr
  cases alt with
  | none => exact hs
  | some a => exact ⟨hs, ha a rfl⟩

theorem moveWf_stopOr {out : Out} {alt : Option State} (ho : Out.Wf out) (ha : State.OptWf alt) : (stopOr out alt).Wf := by
  unfold stopOr
  cases alt with
  | none => exact ho
  | some a => exact wf_next (ha a rfl)

theorem moveWf_waitOr {s : State} (w : Wait) {alt : Option State} (hs : s.Wf) (ha : State.OptWf alt) : (s.waitOr w alt).Wf :=
  moveWf_stopOr (wf_next (wf_wait _ hs)) ha

theorem moveWf_if {c : Prop} [Decidable c] {m m' : Move} (h : m.Wf) (h' : m'.Wf) : (if c then m else m').Wf := by
  split
  · exact h
  · exact h'

/-- A base or scalar float instruction (R79). -/
theorem wf_scalarStep (w : BitVec 32) {s : State} (hs : s.Wf) : State.OptWf ((baseStep w s).orElse fun _ => fpuStep w s) := by
  have hb := wf_baseStep w hs
  generalize baseStep w s = o at hb ⊢
  cases o with
  | none => exact wf_fpuStep w hs
  | some t => exact hb

theorem moveWf_baseMove {s : State} (w : BitVec 32) {alt : Option State} (hs : s.Wf) (ha : State.OptWf alt) : (s.baseMove w alt).Wf := by
  have ht := wf_scalarStep w (wf_readDone hs)
  unfold State.baseMove
  split
  · exact moveWf_waitOr _ hs ha
  · split
    next t e => exact moveWf_if (wf_next (ht t e)) (moveWf_stopOr (wf_next (ht t e)) ha)
    · exact hs

theorem moveWf_wordMove {s : State} (w : BitVec 32) {alt : Option State} (hs : s.Wf) (ha : State.OptWf alt) : (s.wordMove w alt).Wf := by
  unfold State.wordMove
  split
  · exact moveWf_baseMove w hs ha
  · split
    · exact moveWf_waitOr _ hs ha
    · extract_lets u
      have hu : u.Wf := wf_if (wf_readDone hs) (wf_drain _ (wf_readDone hs))
      exact moveWf_if (moveWf_waitOr _ hu ha) (moveWf_runOr _ hu ha)

theorem moveWf_fetchMove {s : State} {alt : Option State} (hs : s.Wf) (ha : State.OptWf alt) : (s.fetchMove alt).Wf := by
  have hf : s.fetchWord.1.Wf := wf_fetchWord hs
  unfold State.fetchMove
  split
  next t r va e => exact wf_xlateTrap _ _ _ (wf_fst e hf)
  next t w e => exact moveWf_wordMove w (wf_of_mem (wf_fst e hf)) ha
  next t w _ _ e =>
    have ht : t.Wf := wf_fst e hf
    split
    · exact moveWf_wordMove _ (wf_of_mem ht) ha
    · exact wf_of_mem ht

theorem moveWf_hartMove {s : State} (hs : s.Wf) : s.hartMove.Wf := by
  unfold State.hartMove
  extract_lets x u alt
  have hu : u.Wf := wf_readOrder (wf_pruneHolds _ (wf_if hs (wf_drain _ hs)))
  have ha : State.OptWf alt := wf_boundaryTrap hu
  refine moveWf_if (wf_next hs) ?_
  refine moveWf_if (wf_next (wf_stopStep _ hs)) ?_
  refine moveWf_if (wf_next hs) ?_
  exact moveWf_if (moveWf_stopOr (wf_next hu) ha) (moveWf_fetchMove hu ha)

theorem moveWf_eventMove {s : State} (e : Ev) (hs : s.Wf) : (s.eventMove e).Wf := by
  unfold State.eventMove
  split
  · exact wf_of_mem hs
  · exact wf_next hs

theorem moveWf_blockMove {s : State} (h : Nat) (hs : s.Wf) : (s.blockMove h).Wf := by
  unfold State.blockMove
  split
  · exact moveWf_eventMove _ hs
  · exact wf_of_mem hs
  · exact wf_next hs

theorem moveWf_fireMove {s : State} (h i id : Nat) (g : List Nat) (hs : s.Wf) : (s.fireMove h i id g).Wf := by
  unfold State.fireMove
  split
  · exact wf_of_mem hs
  · exact wf_next hs

theorem moveWf_turnMove {s : State} (t : Turn) (hs : s.Wf) : (s.turnMove t).Wf := by
  cases t with
  | hart h => exact moveWf_hartMove (wf_of_mem hs)
  | lazy h => exact moveWf_hartMove (wf_of_mem hs)
  | drain h => exact wf_next (wf_drainOne _ hs)
  | block h => exact moveWf_blockMove h hs
  | fire h i id g => exact moveWf_fireMove h i id g hs
  | event k =>
    unfold State.turnMove
    dsimp -zeta only
    split
    · exact moveWf_if (wf_next hs) (moveWf_eventMove _ (wf_of_mem hs))
    · exact wf_next hs
  | posted p => exact wf_next ((State.keeps_pushPosted _ _).2 hs)
  | retrained a b => exact wf_next (wf_of_mem hs)
  | input e => exact moveWf_if (moveWf_eventMove e hs) (wf_next hs)

theorem moveWf_nextMove {s : State} (hs : s.Wf) : s.nextMove.Wf := by
  unfold State.nextMove
  split
  · exact moveWf_turnMove _ (wf_of_mem hs)
  · exact moveWf_turnMove _ hs

theorem wf_step {s : State} (hs : s.Wf) : Out.Wf (step s) := by
  have hm := moveWf_nextMove hs
  unfold step
  generalize s.nextMove = m at hm ⊢
  cases m with
  | run t i => exact wf_exec i hm
  | guard t i alt =>
    obtain ⟨ht, ha⟩ := hm
    have he : Out.Wf (exec i t) := wf_exec i ht
    dsimp only
    split
    next u e => exact wf_next (wf_if (he u e) ha)
    · exact wf_next ha
  | stop out => exact hm

/-- Settles O60: each operation that writes memory does so through functions that keep the canonical form, whichever move runs it. -/
theorem memoryStaysCanonical : Obligations.MemoryStaysCanonical := by
  unfold Obligations.MemoryStaysCanonical
  intro s t hs ht
  exact wf_step hs t ht

end Sys2Proof.Machine
end

section
/-! PROOF. What ending tasks, coherence and records leave of the board: the parts present, the severed and tripped dies, the memory's
training, and the number of log records, which only grows. -/

namespace Sys2Proof.Machine

/-- The board as a state has it. -/
structure Ledger where
  part : Part3
  severed : List Nat
  dram : Tab (List Nat)
  tripped : List Nat
  logn : Nat

def State.ledger (s : State) : Ledger := ⟨s.part, s.coh.severed, s.mgmt.dram, s.mgmt.tripped, s.mgmt.logn⟩

/-- A state has the ledger's board, and at least its log records. -/
def Ledger.Keeps (L : Ledger) (s : State) : Prop :=
  s.part = L.part ∧ s.coh.severed = L.severed ∧ s.mgmt.dram = L.dram ∧ s.mgmt.tripped = L.tripped ∧ L.logn ≤ s.mgmt.logn

def Ledger.OptKeeps (L : Ledger) (o : Option State) : Prop := ∀ t, o = some t → L.Keeps t

theorem ledger_keeps (s : State) : s.ledger.Keeps s := ⟨rfl, rfl, rfl, rfl, Nat.le_refl _⟩

variable {L : Ledger}

theorem led_of {u : State} {p m ha co cp xl ch rd tq nt ho gu fe mg ag tu cu lz fi gr ev il od fr} (hu : L.Keeps u) (hp : p = u.part)
    (hc : ch.severed = u.coh.severed) (hm : mg = u.mgmt) :
    L.Keeps (State.mk p m ha co cp xl ch rd tq nt ho gu fe mg ag tu cu lz fi gr ev il od fr) := by
  subst hp hm
  exact ⟨hu.1, hc.trans hu.2.1, hu.2.2⟩

/-- The log has grown. -/
theorem led_logged {u v : State} (hu : L.Keeps u) (hp : v.part = u.part) (hc : v.coh = u.coh) (hd : v.mgmt.dram = u.mgmt.dram)
    (ht : v.mgmt.tripped = u.mgmt.tripped) (hl : u.mgmt.logn ≤ v.mgmt.logn) : L.Keeps v := by
  obtain ⟨hup, huc, hud, hut, hul⟩ := hu
  exact ⟨hp.trans hup, (congrArg Coh.severed hc).trans huc, hd.trans hud, ht.trans hut, Nat.le_trans hul hl⟩

theorem led_if {c : Prop} [Decidable c] {s t : State} (hs : L.Keeps s) (ht : L.Keeps t) : L.Keeps (if c then s else t) := by
  split
  · exact hs
  · exact ht

theorem led_ifPair {α : Type} {c : Prop} [Decidable c] {p q : State × α} (hp : L.Keeps p.1) (hq : L.Keeps q.1) :
    L.Keeps (if c then p else q).1 := by
  split
  · exact hp
  · exact hq

theorem led_ifOpt {c : Prop} [Decidable c] {o o' : Option State} (h : L.OptKeeps o) (h' : L.OptKeeps o') :
    L.OptKeeps (if c then o else o') := by
  split
  · exact h
  · exact h'

theorem led_none : L.OptKeeps none := fun _ e => nomatch e

theorem led_some {s : State} (h : L.Keeps s) : L.OptKeeps (some s) := fun _ e => Option.some.inj e ▸ h

theorem led_getD {o : Option State} {d : State} (h : L.OptKeeps o) (hd : L.Keeps d) : L.Keeps (o.getD d) := by
  cases o with
  | none => exact hd
  | some t => exact h t rfl

theorem led_fst {α : Type} {p : State × α} {t : State} {r : α} (e : p = (t, r)) (h : L.Keeps p.1) : L.Keeps t := by
  rw [e] at h
  exact h

theorem led_foldl {α : Type} {f : State → α → State} (hf : ∀ t a, L.Keeps t → L.Keeps (f t a)) {s : State} (h : L.Keeps s) (l : List α) :
    L.Keeps (l.foldl f s) := by
  induction l generalizing s with
  | nil => exact h
  | cons a l ih => exact ih (hf s a h)

theorem led_foldlPair {α β : Type} {f : State × β → α → State × β} (hf : ∀ p a, L.Keeps p.1 → L.Keeps (f p a).1) {p : State × β}
    (h : L.Keeps p.1) (l : List α) : L.Keeps (l.foldl f p).1 := by
  induction l generalizing p with
  | nil => exact h
  | cons a l ih => exact ih (hf p a h)

end Sys2Proof.Machine
end

section
/-! PROOF. The ledger through the operations of Machine/Ops.lean. -/

namespace Sys2Proof.Machine

theorem led_setHart {L : Ledger} {s : State} (h : Nat) (x : Hart) (hs : L.Keeps s) : L.Keeps (s.setHart h x) := by
  unfold State.setHart
  exact led_of hs rfl rfl rfl

theorem led_modHart {L : Ledger} {s : State} (h : Nat) (f : Hart → Hart) (hs : L.Keeps s) : L.Keeps (s.modHart h f) := by
  unfold State.modHart
  exact led_setHart _ _ hs

theorem led_modMe {L : Ledger} {s : State} (f : Hart → Hart) (hs : L.Keeps s) : L.Keeps (s.modMe f) := by
  unfold State.modMe
  exact led_modHart _ _ hs

theorem led_modCore {L : Ledger} {s : State} (c : Nat) (f : Core → Core) (hs : L.Keeps s) : L.Keeps (s.modCore c f) := by
  unfold State.modCore
  exact led_of hs rfl rfl rfl

theorem led_due {L : Ledger} {s : State} (es : List Ev) (hs : L.Keeps s) : L.Keeps (s.due es) := by
  unfold State.due
  exact led_of hs rfl rfl rfl

theorem led_wait {L : Ledger} {s : State} (w : Wait) (hs : L.Keeps s) : L.Keeps (s.wait w) := by
  unfold State.wait
  exact led_modMe _ hs

theorem led_free {L : Ledger} {s : State} (hs : L.Keeps s) : L.Keeps (s.free).1 := by
  unfold State.free
  exact led_of hs rfl rfl rfl

theorem led_hostEvent {L : Ledger} {s : State} (code die seq detail : Nat) (flag : Bool) (hs : L.Keeps s) :
    L.Keeps (s.hostEvent code die seq detail flag) := by
  unfold State.hostEvent
  extract_lets base n wrn rdn a r u _
  have hu : L.Keeps u := led_if hs (led_if (led_of hs rfl rfl rfl) (led_of hs rfl rfl rfl))
  exact led_if (led_of hu rfl rfl rfl) hu

theorem led_errorRecord {L : Ledger} {s : State} (e : Err) (hs : L.Keeps s) : L.Keeps (s.errorRecord e) := by
  unfold State.errorRecord
  extract_lets n a r _ u
  have hu : L.Keeps u := led_logged hs rfl rfl rfl rfl (Nat.le_succ _)
  split
  · exact led_hostEvent _ _ _ _ _ hu
  · exact hu

theorem led_askHard {L : Ledger} {s : State} (h cause : Nat) (hs : L.Keeps s) : L.Keeps (s.askHard h cause) := by
  unfold State.askHard
  exact led_if hs (led_modHart _ _ hs)

theorem led_quarantine {L : Ledger} {s : State} (ci why : Nat) (but : Option Nat) (hs : L.Keeps s) : L.Keeps (s.quarantine ci why but) := by
  unfold State.quarantine
  extract_lets u u1
  have hu : L.Keeps u := led_due _ (led_modCore _ _ hs)
  have hu1 : L.Keeps u1 := by
    refine led_foldl ?_ hu _
    intro t a ht
    exact led_askHard _ _ ht
  exact led_errorRecord _ hu1

end Sys2Proof.Machine
end

section
/-! PROOF. The ledger through the operations of Machine/Coh.lean. -/

namespace Sys2Proof.Machine

theorem led_poke {L : Ledger} {s : State} (a : Nat) (bs : List Byte) (hs : L.Keeps s) : L.Keeps (s.poke a bs) := by
  unfold State.poke
  exact led_of hs rfl rfl rfl

theorem led_pokeN {L : Ledger} {s : State} (a n v : Nat) (hs : L.Keeps s) : L.Keeps (s.pokeN a n v) := by
  unfold State.pokeN
  exact led_poke _ _ hs

theorem led_setNs {L : Ledger} {s : State} (n l : Nat) (x : NState) (hs : L.Keeps s) : L.Keeps (s.setNs n l x) := by
  unfold State.setNs
  exact led_of hs rfl rfl rfl

theorem led_setDir {L : Ledger} {s : State} (l : Nat) (d : Dir) (hs : L.Keeps s) : L.Keeps (s.setDir l d) := by
  unfold State.setDir
  exact led_of hs rfl rfl rfl

theorem led_setBusy {L : Ledger} {s : State} (l : Nat) (b : Bool) (hs : L.Keeps s) : L.Keeps (s.setBusy l b) := by
  unfold State.setBusy
  exact led_setDir _ _ hs

theorem led_dropStale {L : Ledger} {s : State} (l : Nat) (hs : L.Keeps s) : L.Keeps (s.dropStale l) := by
  unfold State.dropStale
  exact led_of hs rfl rfl rfl

theorem led_loseDirty {L : Ledger} {s : State} (l : Nat) (hs : L.Keeps s) : L.Keeps (s.loseDirty l) := by
  unfold State.loseDirty
  extract_lets old
  exact led_dropStale _ (led_of hs rfl rfl rfl)

theorem led_dropVector {L : Ledger} {s : State} (n l : Nat) (hs : L.Keeps s) : L.Keeps (s.dropVector n l) := by
  unfold State.dropVector
  exact led_of hs rfl rfl rfl

theorem led_ownWrite {L : Ledger} {s : State} (n a : Nat) (bs : List Byte) (hs : L.Keeps s) : L.Keeps (s.ownWrite n a bs) := by
  unfold State.ownWrite
  extract_lets l fresh _ u
  have hu : L.Keeps u := led_of hs rfl rfl rfl
  exact led_dropVector _ _ (led_setNs _ _ _ (led_poke _ _ hu))

theorem led_dropCopies {L : Ledger} {s : State} (n l : Nat) (hs : L.Keeps s) : L.Keeps (s.dropCopies n l) := by
  unfold State.dropCopies
  exact led_of hs rfl rfl rfl

theorem led_dropRound {L : Ledger} {s : State} (n l : Nat) (hs : L.Keeps s) : L.Keeps (s.dropRound n l) := by
  unfold State.dropRound
  exact led_of hs rfl rfl rfl

theorem led_l1dEvict {L : Ledger} {s : State} (n v : Nat) (hs : L.Keeps s) : L.Keeps (s.l1dEvict n v) := by
  unfold State.l1dEvict
  extract_lets _ u
  have hu : L.Keeps u := led_of hs rfl rfl rfl
  split
  · exact led_if hu (led_due _ (led_setNs _ _ _ hu))
  · exact led_due _ (led_setNs _ _ _ (led_dropCopies _ _ hu))
  · exact led_due _ (led_setNs _ _ _ (led_dropCopies _ _ hu))
  · exact led_dropRound _ _ hu

theorem led_l1dTouch {L : Ledger} {s : State} (n l : Nat) (hs : L.Keeps s) : L.Keeps (s.l1dTouch n l) := by
  unfold State.l1dTouch
  refine led_if hs ?_
  extract_lets key set _ u
  have hu : L.Keeps u := led_of hs rfl rfl rfl
  refine led_if hu ?_
  clear_value set
  split
  · exact led_l1dEvict _ _ hu
  · exact hu

theorem led_l1vTouch {L : Ledger} {s : State} (n l : Nat) (hs : L.Keeps s) : L.Keeps (s.l1vTouch n l) := by
  unfold State.l1vTouch
  extract_lets key set _ u _
  have hu : L.Keeps u := led_of hs rfl rfl rfl
  refine led_if hu ?_
  clear_value set
  split
  · extract_lets u1
    have hu1 : L.Keeps u1 := led_of hu rfl rfl rfl
    refine led_if hu1 ?_
    split
    · exact led_due _ (led_setNs _ _ _ hu1)
    · exact led_dropRound _ _ hu1
  · exact hu

theorem led_bcTouch {L : Ledger} {s : State} (n l : Nat) (hs : L.Keeps s) : L.Keeps (s.bcTouch n l) := by
  unfold State.bcTouch
  extract_lets set _ u _
  have hu : L.Keeps u := led_of hs rfl rfl rfl
  refine led_if hu ?_
  clear_value set
  split
  · extract_lets u1
    have hu1 : L.Keeps u1 := led_of hu rfl rfl rfl
    refine led_if hu1 ?_
    split
    · exact led_due _ (led_setNs _ _ _ hu1)
    · exact hu1
  · exact hu

theorem led_intoCache {L : Ledger} {s : State} (c n l : Nat) (hs : L.Keeps s) : L.Keeps (s.intoCache c n l) := by
  unfold State.intoCache
  exact led_if (led_l1vTouch _ _ hs) (led_if (led_bcTouch _ _ hs) (led_l1dTouch _ _ hs))

theorem led_setOuter {L : Ledger} {s : State} (l x : Nat) (hs : L.Keeps s) : L.Keeps (s.setOuter l x) := by
  unfold State.setOuter
  split
  · exact led_of hs rfl rfl rfl
  · exact led_of hs rfl rfl rfl
  · exact hs

theorem led_begin {L : Ledger} {s : State} (l : Nat) (t : Txn) (hs : L.Keeps s) : L.Keeps (s.begin l t) := by
  unfold State.begin
  exact led_setBusy _ _ (led_of hs rfl rfl rfl)

theorem led_llcDrop {L : Ledger} {s : State} (l : Nat) (hs : L.Keeps s) : L.Keeps (s.llcDrop l) := by
  unfold State.llcDrop
  extract_lets key u u1 _
  have hu : L.Keeps u := led_dropStale _ hs
  have hu1 : L.Keeps u1 := by
    refine led_if hu ?_
    split
    · exact led_setOuter _ _ hu
    · exact led_setOuter _ _ hu
    · exact hu
  exact led_of hu1 rfl rfl rfl

theorem led_homeGrant {L : Ledger} {s : State} (l : Nat) (r : Req) (gone : Bool) (hs : L.Keeps s) : L.Keeps (s.homeGrant l r gone) := by
  unfold State.homeGrant
  extract_lets d _ u
  have hu : L.Keeps u := led_of hs rfl rfl rfl
  split
  · extract_lets a
    exact led_due _ (led_setDir _ _ hu)
  · exact led_due _ (led_setDir _ _ hu)
  · extract_lets dataless
    exact led_due _ (led_setDir _ _ hu)
  · extract_lets keep u1
    have hu1 : L.Keeps u1 := led_dropStale _ (led_setDir _ _ hu)
    refine led_due _ ?_
    refine led_foldl ?_ hu1 _
    intro t a ht
    exact led_poke _ _ ht
  · extract_lets keep u1 old
    have hu1 : L.Keeps u1 := led_dropStale _ (led_setDir _ _ hu)
    exact led_due _ (led_pokeN _ _ _ hu1)
  · exact led_setDir _ _ hu
  · exact led_due _ (led_setBusy _ _ hu)
  · exact led_llcDrop _ hu

theorem led_homeAct {L : Ledger} {s : State} (l : Nat) (r : Req) (hs : L.Keeps s) : L.Keeps (s.homeAct l r) := by
  unfold State.homeAct
  extract_lets d os down
  split
  · exact led_if (led_due _ (led_begin _ _ hs)) (led_due _ hs)
  · refine led_if (led_homeGrant _ _ _ hs) ?_
    exact led_if (led_if (led_homeGrant _ _ _ hs) (led_due _ (led_begin _ _ hs))) (led_due _ (led_begin _ _ hs))

theorem led_llcTouch {L : Ledger} {s : State} (l : Nat) (hs : L.Keeps s) : L.Keeps (s.llcTouch l) := by
  unfold State.llcTouch
  extract_lets key set _
  exact led_if (led_of hs rfl rfl rfl) hs

theorem led_homeServe {L : Ledger} {s : State} (l : Nat) (r : Req) (hs : L.Keeps s) : L.Keeps (s.homeServe l r) := by
  unfold State.homeServe
  refine led_if (led_homeAct _ _ hs) ?_
  refine led_if (led_due _ (led_begin _ _ hs)) ?_
  split
  · split
    · exact led_due _ (led_begin _ _ hs)
    · exact led_due _ (led_begin _ _ hs)
  · exact led_homeAct _ _ (led_llcTouch _ hs)

theorem led_homeNext {L : Ledger} (k l : Nat) {s : State} (hs : L.Keeps s) : L.Keeps (State.homeNext k l s) := by
  induction k generalizing s with
  | zero => exact hs
  | succ k ih =>
    unfold State.homeNext
    refine led_if hs ?_
    split
    · exact hs
    · exact ih (led_homeServe _ _ (led_of hs rfl rfl rfl))

theorem led_homeIdle {L : Ledger} {s : State} (l : Nat) (hs : L.Keeps s) : L.Keeps (s.homeIdle l) := by
  unfold State.homeIdle
  exact led_homeNext _ _ hs

theorem led_freeWay {L : Ledger} {s : State} (l : Nat) (hs : L.Keeps s) : L.Keeps (s.freeWay l) := by
  unfold State.freeWay
  extract_lets rs _
  exact led_if hs (led_of hs rfl rfl rfl)

theorem led_homeFree {L : Ledger} {s : State} (l : Nat) (hs : L.Keeps s) : L.Keeps (s.homeFree l) := by
  unfold State.homeFree
  extract_lets u was u1
  have hu : L.Keeps u := led_freeWay _ hs
  have hu1 : L.Keeps u1 := led_homeIdle _ hu
  split
  · refine led_foldl ?_ hu1 _
    intro t a ht
    exact led_homeIdle _ ht
  · exact hu1

theorem led_homeArrive {L : Ledger} {s : State} (l : Nat) (r : Req) (hs : L.Keeps s) : L.Keeps (s.homeArrive l r) := by
  unfold State.homeArrive
  exact led_if (led_of hs rfl rfl rfl) (led_homeIdle _ (led_homeServe _ _ hs))

theorem led_llcRoom {L : Ledger} {s : State} (l : Nat) (hs : L.Keeps s) : L.Keeps (s.llcRoom l).1 := by
  unfold State.llcRoom
  extract_lets set await
  have hawait : ∀ t v, L.Keeps t → L.Keeps (await t v).1 := fun t v ht => led_of ht rfl rfl rfl
  refine led_ifPair hs ?_
  split
  next v _ =>
    have hv := led_homeServe v .evict hs
    exact led_ifPair (hawait _ _ hv) hv
  · split
    · exact hawait _ _ hs
    · exact hs

theorem led_llcInstall {L : Ledger} {s : State} (l : Nat) (hs : L.Keeps s) : L.Keeps (s.llcInstall l) := by
  unfold State.llcInstall
  extract_lets key _
  exact led_of hs rfl rfl rfl

theorem led_endTxn {L : Ledger} {s : State} (l : Nat) (hs : L.Keeps s) : L.Keeps (s.endTxn l) := by
  unfold State.endTxn
  exact led_of hs rfl rfl rfl

theorem led_llcFilled {L : Ledger} {s : State} (l : Nat) (poison : Bool) (hs : L.Keeps s) : L.Keeps (s.llcFilled l poison) := by
  unfold State.llcFilled
  split
  · refine led_if hs ?_
    split
    · extract_lets _ u u1
      have hu : L.Keeps u := led_of hs rfl rfl rfl
      have hu1 : L.Keeps u1 := by
        dsimp only [u1]
        split
        · exact led_setNs _ _ _ hu
        · exact led_setNs _ _ _ hu
        · exact led_setNs _ _ _ hu
        · exact hu
      exact led_homeFree _ (led_setBusy _ _ hu1)
    · split
      next t e4 =>
        have ht : L.Keeps t := led_fst e4 (led_llcRoom _ hs)
        exact led_homeFree _ (led_homeServe _ _ (led_setBusy _ _ (led_endTxn _ (led_llcInstall _ ht))))
      next t e4 =>
        have ht : L.Keeps t := led_fst e4 (led_llcRoom _ hs)
        exact ht
  · exact led_of hs rfl rfl rfl

theorem led_outerData {L : Ledger} {s : State} (l : Nat) (data : List Byte) (hs : L.Keeps s) : L.Keeps (s.outerData l data) := by
  unfold State.outerData
  exact led_if hs (led_of hs rfl rfl rfl)

theorem led_outerGrant {L : Ledger} {s : State} (l x : Nat) (hs : L.Keeps s) : L.Keeps (s.outerGrant l x) := by
  unfold State.outerGrant
  extract_lets u
  have hu : L.Keeps u := led_if (led_setOuter _ _ hs) hs
  split
  · exact led_if (led_homeFree _ (led_homeServe _ _ (led_setBusy _ _ (led_endTxn _ hu)))) hu
  · exact hu

theorem led_homeIack {L : Ledger} {s : State} (n l : Nat) (hs : L.Keeps s) : L.Keeps (s.homeIack n l) := by
  unfold State.homeIack
  split
  · split
    · extract_lets rest u _
      have hu : L.Keeps u := led_setBusy _ _ hs
      exact led_if (led_homeFree _ (led_homeGrant _ _ _ hu)) (led_of hs rfl rfl rfl)
    · exact hs
  · exact hs

theorem led_homeRdata {L : Ledger} {s : State} (n l : Nat) (dirty gone : Bool) (hs : L.Keeps s) : L.Keeps (s.homeRdata n l dirty gone) := by
  unfold State.homeRdata
  split
  · split
    · extract_lets u u1
      have hu : L.Keeps u := led_if (led_dropStale _ hs) hs
      have hu1 : L.Keeps u1 := led_setBusy _ _ hu
      exact led_homeFree _ (led_homeGrant _ _ _ hu1)
    · exact hs
  · exact hs

theorem led_homePuts {L : Ledger} {s : State} (n l : Nat) (hs : L.Keeps s) : L.Keeps (s.homePuts n l) := by
  unfold State.homePuts
  extract_lets d
  exact led_if hs (led_setDir _ _ hs)

theorem led_homeWbdata {L : Ledger} {s : State} (n l : Nat) (dirty : Bool) (hs : L.Keeps s) : L.Keeps (s.homeWbdata n l dirty) := by
  unfold State.homeWbdata
  split
  · split
    · extract_lets u
      have hu : L.Keeps u := led_if (led_dropStale _ hs) hs
      exact led_homeFree _ (led_setDir _ _ (led_endTxn _ hu))
    · exact hs
  · exact hs

theorem led_homeClean {L : Ledger} {s : State} (n l : Nat) (hs : L.Keeps s) : L.Keeps (s.homeClean n l) := by
  unfold State.homeClean
  extract_lets d u
  have hu : L.Keeps u := led_if (led_dropStale _ hs) hs
  exact led_due _ hu

theorem led_nodeInv {L : Ledger} {s : State} (n l : Nat) (hs : L.Keeps s) : L.OptKeeps (s.nodeInv n l) := by
  unfold State.nodeInv
  split
  · exact led_some (led_due _ hs)
  · exact led_some (led_due _ (led_setNs _ _ _ (led_dropCopies _ _ hs)))
  · exact led_some (led_due _ hs)
  · exact led_some (led_due _ hs)
  · exact led_some (led_due _ (led_setNs _ _ _ (led_dropCopies _ _ hs)))
  · exact led_some (led_due _ hs)
  · exact led_none

theorem led_guestBytes {L : Ledger} {s : State} (l : Nat) (hs : L.Keeps s) : L.Keeps (s.guestBytes l) := by
  unfold State.guestBytes
  refine led_foldl ?_ hs _
  intro t a ht
  split
  next t1 _ e =>
    have ht1 : L.Keeps t1 := led_fst e (led_free ht)
    exact led_poke _ _ ht1

theorem led_nodeTake {L : Ledger} {s : State} (n l : Nat) (back late : Bool) (hs : L.Keeps s) : L.OptKeeps (s.nodeTake n l back late) := by
  unfold State.nodeTake
  extract_lets u _
  have hu : L.Keeps u := led_if (led_guestBytes _ hs) hs
  split
  · refine led_ifOpt (led_some (led_due _ (led_of hu rfl rfl rfl))) ?_
    exact led_ifOpt (led_some (led_due _ (led_setNs _ _ _ (led_dropCopies _ _ hu)))) (led_some (led_due _ (led_setNs _ _ _ hu)))
  · refine led_ifOpt (led_some (led_due _ (led_of hu rfl rfl rfl))) ?_
    exact led_ifOpt (led_some (led_due _ (led_setNs _ _ _ (led_dropCopies _ _ hu)))) (led_some (led_due _ (led_setNs _ _ _ hu)))
  · exact led_some (led_due _ (led_setNs _ _ _ hu))
  · exact led_none

theorem led_answerDelayed {L : Ledger} {s : State} (n l : Nat) (hs : L.Keeps s) : L.Keeps (s.answerDelayed n l) := by
  unfold State.answerDelayed
  extract_lets mine _ u
  have hu : L.Keeps u := led_of hs rfl rfl rfl
  refine led_foldl ?_ hu _
  intro t a ht
  exact led_getD (led_nodeTake _ _ _ _ ht) ht

theorem led_nodeDataS {L : Ledger} {s : State} (n l : Nat) (hs : L.Keeps s) : L.OptKeeps (s.nodeDataS n l) := by
  unfold State.nodeDataS
  split
  · extract_lets c _ u
    have hu : L.Keeps u := led_if hs (led_of hs rfl rfl rfl)
    exact led_some (led_intoCache _ _ _ (led_setNs _ _ _ hu))
  · exact led_none

theorem led_nodeDataE {L : Ledger} {s : State} (n l : Nat) (hs : L.Keeps s) : L.OptKeeps (s.nodeDataE n l) := by
  unfold State.nodeDataE
  split
  · exact led_some (led_l1dTouch _ _ (led_dropVector _ _ (led_setNs _ _ _ hs)))
  · exact led_some (led_l1dTouch _ _ (led_dropVector _ _ (led_setNs _ _ _ hs)))
  · exact led_some (led_l1dTouch _ _ (led_dropVector _ _ (led_setNs _ _ _ hs)))
  · exact led_none

theorem led_nodeGrantX {L : Ledger} {s : State} (n l : Nat) (hs : L.Keeps s) : L.OptKeeps (s.nodeGrantX n l) := by
  unfold State.nodeGrantX
  split
  · exact led_some (led_l1dTouch _ _ (led_dropVector _ _ (led_setNs _ _ _ hs)))
  · exact led_none

theorem led_nodeWbgo {L : Ledger} {s : State} (n l : Nat) (hs : L.Keeps s) : L.OptKeeps (s.nodeWbgo n l) := by
  unfold State.nodeWbgo
  split
  · exact led_some (led_due _ (led_setNs _ _ _ hs))
  · exact led_none

theorem led_nodeWbstale {L : Ledger} {s : State} (n l : Nat) (hs : L.Keeps s) : L.OptKeeps (s.nodeWbstale n l) := by
  unfold State.nodeWbstale
  split
  · exact led_some (led_setNs _ _ _ hs)
  · exact led_some (led_setNs _ _ _ hs)
  · exact led_none

theorem led_cohStep {L : Ledger} {s : State} (e : Ev) (hs : L.Keeps s) : L.Keeps (s.cohStep e) := by
  unfold State.cohStep
  split
  · exact led_homeArrive _ _ hs
  · exact led_homeArrive _ _ hs
  · exact led_homeArrive _ _ hs
  · exact led_homePuts _ _ hs
  · exact led_homeArrive _ _ hs
  · exact led_homeWbdata _ _ _ hs
  · split
    · exact led_homeArrive _ _ hs
    · exact hs
  · exact led_homeClean _ _ hs
  · exact led_homeArrive _ _ hs
  · exact led_homeArrive _ _ hs
  · exact led_homeIack _ _ hs
  · exact led_homeRdata _ _ _ _ hs
  · exact led_getD (led_nodeDataS _ _ hs) hs
  · exact led_getD (led_nodeDataE _ _ hs) hs
  · exact led_getD (led_nodeGrantX _ _ hs) hs
  · exact led_getD (led_nodeInv _ _ hs) hs
  · exact led_getD (led_nodeTake _ _ _ _ hs) hs
  · exact led_getD (led_nodeTake _ _ _ _ hs) hs
  · exact led_getD (led_nodeWbgo _ _ hs) hs
  · exact led_getD (led_nodeWbstale _ _ hs) hs
  · exact led_answerDelayed _ _ hs
  · exact led_llcFilled _ _ hs
  · exact led_outerGrant _ _ (led_outerData _ _ hs)
  · exact led_outerGrant _ _ (led_outerData _ _ hs)
  · exact hs

theorem led_settle {L : Ledger} (k l : Nat) {s : State} (hs : L.Keeps s) : L.Keeps (State.settle k l s) := by
  induction k generalizing s with
  | zero => exact hs
  | succ k ih =>
    unfold State.settle
    split
    · exact hs
    · exact ih (led_cohStep _ (led_of hs rfl rfl rfl))

theorem led_makeRoom {L : Ledger} {s : State} (n l : Nat) (hs : L.Keeps s) : L.Keeps (s.makeRoom n l) := by
  unfold State.makeRoom
  split
  · exact led_if (led_settle _ _ hs) (led_if (led_settle _ _ hs) hs)

theorem led_askLine {L : Ledger} {s : State} (c n l : Nat) (hs : L.Keeps s) : L.Keeps (s.askLine c n l) := by
  unfold State.askLine
  extract_lets u _ u1
  have hu : L.Keeps u := led_setNs _ _ _ (led_makeRoom _ _ hs)
  have hu1 : L.Keeps u1 := led_if hu (led_of hu rfl rfl rfl)
  exact led_settle _ _ (led_due _ hu1)

theorem led_cohReadIn {L : Ledger} {s : State} (c n l : Nat) (hs : L.Keeps s) : L.Keeps (s.cohReadIn c n l) := by
  unfold State.cohReadIn
  refine led_if (led_settle _ _ (led_due _ hs)) ?_
  split
  · exact led_intoCache _ _ _ hs
  · exact led_intoCache _ _ _ hs
  · exact led_intoCache _ _ _ hs
  · exact led_askLine _ _ _ hs
  · extract_lets u
    have hu : L.Keeps u := led_settle _ _ hs
    exact led_if (led_askLine _ _ _ hu) (led_intoCache _ _ _ hu)

theorem led_cohRead {L : Ledger} {s : State} (n l : Nat) (hs : L.Keeps s) : L.Keeps (s.cohRead n l) := by
  unfold State.cohRead
  exact led_cohReadIn _ _ _ hs

theorem led_askOwn {L : Ledger} {s : State} (n l : Nat) (x : NState) (e : Ev) (hs : L.Keeps s) : L.Keeps (s.askOwn n l x e) := by
  unfold State.askOwn
  exact led_settle _ _ (led_due _ (led_setNs _ _ _ (led_makeRoom _ _ hs)))

theorem led_cohOwn {L : Ledger} {s : State} (n l : Nat) (hs : L.Keeps s) : L.Keeps (s.cohOwn n l) := by
  unfold State.cohOwn
  split
  · exact led_l1dTouch _ _ hs
  · exact led_l1dTouch _ _ hs
  · exact led_askOwn _ _ _ _ hs
  · exact led_askOwn _ _ _ _ hs
  · extract_lets u
    have hu : L.Keeps u := led_settle _ _ hs
    split
    · exact led_askOwn _ _ _ _ hu
    · exact led_askOwn _ _ _ _ hu
    · exact hu

theorem led_homeWrite {L : Ledger} {s : State} (n a : Nat) (bs : List Byte) (hs : L.Keeps s) : L.Keeps (s.homeWrite n a bs) := by
  unfold State.homeWrite
  extract_lets cells
  exact led_settle _ _ (led_due _ hs)

theorem led_regionWrite {L : Ledger} {s : State} (n a : Nat) (bs : List Byte) (hs : L.Keeps s) : L.Keeps (s.regionWrite n a bs) := by
  unfold State.regionWrite
  extract_lets l u _
  have hu : L.Keeps u := led_poke _ _ hs
  split
  · extract_lets a1
    exact led_of hu rfl rfl rfl
  · exact hu

theorem led_pushPosted {L : Ledger} {s : State} (on : Nat → Bool) (hs : L.Keeps s) : L.Keeps (s.pushPosted on) := by
  unfold State.pushPosted
  refine led_if hs ?_
  refine led_foldl ?_ (led_of hs rfl rfl rfl) _
  intro t a ht
  exact led_poke _ _ ht

theorem led_pushFor {L : Ledger} {s : State} (a : Nat) (hs : L.Keeps s) : L.Keeps (s.pushFor a) := by
  unfold State.pushFor
  split
  · exact led_pushPosted _ hs
  · exact hs

theorem led_writeUncached {L : Ledger} {s : State} (a : Nat) (bs : List Byte) (hs : L.Keeps s) : L.Keeps (s.writeUncached a bs) := by
  unfold State.writeUncached
  split
  · exact led_of hs rfl rfl rfl
  · exact led_poke _ _ hs

theorem led_storePiece {L : Ledger} {s : State} (n a : Nat) (bs : List Byte) (hs : L.Keeps s) : L.Keeps (s.storePiece n a bs) := by
  unfold State.storePiece
  refine led_if (led_regionWrite _ _ _ hs) ?_
  refine led_if (led_writeUncached _ _ hs) ?_
  refine led_if (led_homeWrite _ _ _ hs) ?_
  extract_lets u
  have hu : L.Keeps u := led_cohOwn _ _ hs
  split
  · exact led_ownWrite _ _ _ hu
  · exact led_ownWrite _ _ _ hu
  · exact led_poke _ _ hu

theorem led_store {L : Ledger} {s : State} (n a : Nat) (bs : List Byte) (hs : L.Keeps s) : L.Keeps (s.store n a bs) := by
  unfold State.store
  refine led_foldl ?_ hs _
  intro t a1 ht
  exact led_storePiece _ _ _ ht

theorem led_agentWrite {L : Ledger} {s : State} (a : Nat) (bs : List Byte) (hs : L.Keeps s) : L.Keeps (s.agentWrite a bs) := by
  unfold State.agentWrite
  exact led_store _ _ _ hs

theorem led_loadLines {L : Ledger} {s : State} (n a len : Nat) (hs : L.Keeps s) : L.Keeps (s.loadLines n a len) := by
  unfold State.loadLines
  refine led_if (led_pushFor _ hs) ?_
  refine led_foldl ?_ hs _
  intro t a1 ht
  exact led_cohRead _ _ ht

theorem led_atomicAt {L : Ledger} {s : State} (n a op w x y : Nat) (hs : L.Keeps s) : L.Keeps (s.atomicAt n a op w x y).1 := by
  unfold State.atomicAt
  split
  · extract_lets u old
    have hu : L.Keeps u := led_pushFor _ hs
    exact led_pokeN _ _ _ hu
  · extract_lets l u1
    have hu1 : L.Keeps u1 := led_settle _ _ (led_due _ (led_settle _ _ hs))
    split
    · exact led_of hu1 rfl rfl rfl
    · exact hu1

end Sys2Proof.Machine
end

section
/-! PROOF. The ledger through the operations of Machine/Xlat.lean. -/

namespace Sys2Proof.Machine

theorem led_tlbInsert {L : Ledger} {s : State} (e : Tlb) (hs : L.Keeps s) : L.Keeps (s.tlbInsert e) := by
  unfold State.tlbInsert
  extract_lets old e1 _
  exact led_of hs rfl rfl rfl

theorem led_tlbTouch {L : Ledger} {s : State} (e : Tlb) (hs : L.Keeps s) : L.Keeps (s.tlbTouch e) := by
  unfold State.tlbTouch
  exact led_of hs rfl rfl rfl

theorem led_walk {L : Ledger} (hdm : Option Nat) (unit : Nat) (tag : Tag) (va i table : Nat) {s : State} (hs : L.Keeps s) :
    L.Keeps (State.walk hdm unit tag va i table s).1 := by
  induction i generalizing table s with
  | zero => exact hs
  | succ i ih =>
    unfold State.walk
    extract_lets lg a u pte ppn
    have hu : L.Keeps u := led_loadLines _ _ _ hs
    split
    · exact ih _ hs
    · refine led_ifPair hs (led_ifPair hu ?_)
      split
      · refine led_ifPair hu ?_
        split
        · split
          · split
            · exact hu
            · exact hu
          · exact hu
        · refine led_ifPair hu ?_
          split
          · exact hu
          · exact hu
      · refine led_ifPair hu ?_
        split
        · exact hu
        · exact ih _ (led_tlbInsert _ hu)

theorem led_walkFor {L : Ledger} {s : State} (cx : Cx) (acc : Acc) (va : Nat) (root : Nat) (hdm : Option Nat) (hs : L.Keeps s) :
    L.Keeps (s.walkFor cx acc va root hdm).1 := by
  unfold State.walkFor
  extract_lets uw
  split
  next t e =>
    have ht : L.Keeps t := led_fst e (led_walk _ _ _ _ _ _ hs)
    exact ht
  next t e =>
    have ht : L.Keeps t := led_fst e (led_walk _ _ _ _ _ _ hs)
    exact ht
  next t _ e =>
    have ht : L.Keeps t := led_fst e (led_walk _ _ _ _ _ _ hs)
    extract_lets r w x2 u pa want u1
    have hu1 : L.Keeps u1 := led_if ht (led_atomicAt _ _ _ _ _ _ ht)
    refine led_ifPair ht ?_
    split
    · exact led_tlbInsert _ hu1
    · exact ht

theorem led_xlate {L : Ledger} {s : State} (cx : Cx) (acc : Acc) (va : Word) (hs : L.Keeps s) : L.Keeps (s.xlate cx acc va).1 := by
  unfold State.xlate
  extract_lets a v
  split
  · exact hs
  · split
    · exact hs
    · exact hs
    · refine led_ifPair hs ?_
      split
      · refine led_ifPair hs ?_
        extract_lets u
        have hu : L.Keeps u := led_tlbTouch _ hs
        exact hu
      · exact led_walkFor _ _ _ _ _ hs

theorem led_xlateRange {L : Ledger} {s : State} (cx : Cx) (acc : Acc) (va : Word) (len : Nat) (hs : L.Keeps s) :
    L.Keeps (s.xlateRange cx acc va len).1 := by
  unfold State.xlateRange
  split
  next t _ e =>
    have ht : L.Keeps t := led_fst e (led_xlate _ _ _ hs)
    refine led_ifPair ht ?_
    split
    next t1 _ e1 =>
      have ht1 : L.Keeps t1 := led_fst e1 (led_xlate _ _ _ ht)
      exact ht1
    next t1 _ _ e2 =>
      have ht1 : L.Keeps t1 := led_fst e2 (led_xlate _ _ _ ht)
      exact ht1
  · exact led_xlate _ _ _ hs

theorem led_tlbDrop {L : Ledger} {s : State} (p : Tlb → Bool) (hs : L.Keeps s) : L.Keeps (s.tlbDrop p) := by
  unfold State.tlbDrop
  exact led_of hs rfl rfl rfl

end Sys2Proof.Machine
end

section
/-! PROOF. The ledger through the operations of Machine/Access.lean. -/

namespace Sys2Proof.Machine

theorem led_drainOne {L : Ledger} {s : State} (h : Nat) (hs : L.Keeps s) : L.Keeps (s.drainOne h) := by
  unfold State.drainOne
  split
  · exact hs
  · refine led_if hs ?_
    extract_lets u
    have hu : L.Keeps u := led_modHart _ _ hs
    exact led_if hu (led_store _ _ _ hu)

theorem led_drain {L : Ledger} {s : State} (h : Nat) (hs : L.Keeps s) : L.Keeps (s.drain h) := by
  unfold State.drain
  refine led_foldl ?_ hs _
  intro t a ht
  exact led_drainOne _ ht

theorem led_releaseAt {L : Ledger} {s : State} (scope : Nat) (hs : L.Keeps s) : L.Keeps (s.releaseAt scope) := by
  unfold State.releaseAt
  exact led_if (led_pushPosted _ hs) hs

end Sys2Proof.Machine
end

section
/-! PROOF. The ledger through the operations of Machine/Lanes.lean. -/

namespace Sys2Proof.Machine

theorem led_lanesChanged {L : Ledger} {s : State} (ci : Nat) (hs : L.Keeps s) : L.Keeps (s.lanesChanged ci) := by
  unfold State.lanesChanged
  exact led_due _ hs

theorem led_setClaims {L : Ledger} {s : State} (h : Nat) (cl : List Nat) (hs : L.Keeps s) : L.Keeps (s.setClaims h cl) := by
  unfold State.setClaims
  exact led_if hs (led_lanesChanged _ (led_modHart _ _ hs))

theorem led_setGrant {L : Ledger} {s : State} (h : Nat) (g : List Nat) (hs : L.Keeps s) : L.Keeps (s.setGrant h g) := by
  unfold State.setGrant
  extract_lets x
  exact led_if hs (led_lanesChanged _ (led_modHart _ _ hs))

theorem led_dropGrant {L : Ledger} {s : State} (h : Nat) (hs : L.Keeps s) : L.Keeps (s.dropGrant h) := by
  unfold State.dropGrant
  extract_lets u
  have hu : L.Keeps u := led_setGrant _ _ (led_setClaims _ _ hs)
  exact led_modHart _ _ hu

end Sys2Proof.Machine
end

section
/-! PROOF. The ledger through the operations of Machine/Biq.lean. -/

namespace Sys2Proof.Machine

theorem led_freeHolds {L : Ledger} {s : State} (h : Nat) (keep : List Nat) (hs : L.Keeps s) : L.Keeps (s.freeHolds h keep) := by
  unfold State.freeHolds
  extract_lets p _
  exact led_of hs rfl rfl rfl

end Sys2Proof.Machine
end

section
/-! PROOF. The ledger through the operations of Machine/Round.lean. -/

namespace Sys2Proof.Machine

theorem led_modRegion {L : Ledger} {s : State} (rid : Nat) (f : Region → Region) (hs : L.Keeps s) : L.Keeps (s.modRegion rid f) := by
  unfold State.modRegion
  split
  · exact led_of hs rfl rfl rfl
  · exact hs

theorem led_publishStart {L : Ledger} {s : State} (rid : Nat) (hs : L.Keeps s) : L.Keeps (s.publishStart rid) := by
  unfold State.publishStart
  split
  · extract_lets sl
    exact led_due _ (led_modRegion _ _ hs)
  · exact hs

theorem led_publish {L : Ledger} {s : State} (rid : Nat) (who : Publisher) (hs : L.Keeps s) : L.Keeps (s.publish rid who) := by
  unfold State.publish
  split
  · extract_lets u
    have hu : L.Keeps u := led_modRegion _ _ hs
    exact led_if hu (led_publishStart _ hu)
  · exact hs

end Sys2Proof.Machine
end

section
/-! PROOF. The ledger through the operations of Machine/Matrix.lean. -/

namespace Sys2Proof.Machine

theorem led_modMat {L : Ledger} {s : State} (ci : Nat) (f : Matrix → Matrix) (hs : L.Keeps s) : L.Keeps (s.modMat ci f) := by
  unfold State.modMat
  exact led_modCore _ _ hs

theorem led_matRelease {L : Ledger} {s : State} (ci : Nat) (hs : L.Keeps s) : L.Keeps (s.matRelease ci) := by
  unfold State.matRelease
  exact led_modMat _ _ hs

end Sys2Proof.Machine
end

section
/-! PROOF. The ledger through the operations of Machine/Hart.lean. -/

namespace Sys2Proof.Machine

theorem led_forgetParked {L : Ledger} {s : State} (h : Nat) (hs : L.Keeps s) : L.Keeps (s.forgetParked h) := by
  unfold State.forgetParked
  exact led_of hs rfl rfl rfl

theorem led_killBlocks {L : Ledger} {s : State} (h : Nat) (hs : L.Keeps s) : L.Keeps (s.killBlocks h) := by
  unfold State.killBlocks
  extract_lets stay
  exact led_modHart _ _ (led_freeHolds _ _ (led_forgetParked _ hs))

end Sys2Proof.Machine
end

section
/-! PROOF. The ledger through the operations of Machine/Cspec.lean. -/

namespace Sys2Proof.Machine

theorem led_cspecFail {L : Ledger} {s : State} (cx : Cx) (c check : Nat) (hs : L.Keeps s) : L.Keeps (s.cspecFail cx c check) := by
  unfold State.cspecFail
  exact led_errorRecord _ hs

theorem led_fireCspec {L : Ledger} {s : State} (cx : Cx) (c sel : Nat) (hs : L.Keeps s) : L.Keeps (s.fireCspec cx c sel).1 := by
  unfold State.fireCspec
  extract_lets k u
  have hu : L.Keeps u := led_releaseAt _ hs
  refine led_ifPair hs ?_
  split
  next t e =>
    have ht : L.Keeps t := led_fst e (led_xlateRange _ _ _ _ hu)
    exact led_cspecFail _ _ _ ht
  next t _ e =>
    have ht : L.Keeps t := led_fst e (led_xlateRange _ _ _ _ hu)
    split
    · split
      · exact led_ifPair (led_cspecFail _ _ _ ht) (led_publish _ _ ht)
      · exact led_errorRecord _ ht
    · refine led_ifPair (led_cspecFail _ _ _ ht) ?_
      refine led_ifPair (led_ifPair (led_due _ ht) (led_cspecFail _ _ _ ht)) ?_
      exact led_ifPair (led_cspecFail _ _ _ ht) (led_ifPair (led_atomicAt _ _ _ _ _ _ ht) (led_atomicAt _ _ _ _ _ _ ht))
  next t _ _ _ e2 =>
    have ht : L.Keeps t := led_fst e2 (led_xlateRange _ _ _ _ hu)
    exact led_cspecFail _ _ _ ht

theorem led_fireOnce {L : Ledger} {s : State} (cx : Cx) (c : Nat) (hs : L.Keeps s) : L.Keeps (s.fireOnce cx c).1 := by
  unfold State.fireOnce
  exact led_fireCspec _ _ _ hs

end Sys2Proof.Machine
end

section
/-! PROOF. The ledger through the operations of Machine/Copy.lean. -/

namespace Sys2Proof.Machine

theorem led_modCopy {L : Ledger} {s : State} (id : Nat) (f : Copy → Copy) (hs : L.Keeps s) : L.Keeps (s.modCopy id f) := by
  unfold State.modCopy
  split
  · exact led_of hs rfl rfl rfl
  · exact hs

theorem led_tableFreed {L : Ledger} {s : State} (hs : L.Keeps s) : L.Keeps (s.tableFreed) := by
  unfold State.tableFreed
  refine led_if hs ?_
  split
  · exact led_modCopy _ _ hs
  · exact hs

theorem led_dropCopy {L : Ledger} {s : State} (id : Nat) (hs : L.Keeps s) : L.Keeps (s.dropCopy id) := by
  unfold State.dropCopy
  extract_lets _ u
  have hu : L.Keeps u := led_of hs rfl rfl rfl
  exact led_tableFreed hu

end Sys2Proof.Machine
end

section
/-! PROOF. The ledger through the operations of Machine/Queue.lean. -/

namespace Sys2Proof.Machine

theorem led_modQueue {L : Ledger} {s : State} (q : Nat) (f : Queue → Queue) (hs : L.Keeps s) : L.Keeps (s.modQueue q f) := by
  unfold State.modQueue
  split
  · exact led_of hs rfl rfl rfl
  · exact hs

theorem led_modPart {L : Ledger} {s : State} (q d : Nat) (f : Part → Part) (hs : L.Keeps s) : L.Keeps (s.modPart q d f) := by
  unfold State.modPart
  exact led_of hs rfl rfl rfl

theorem led_modPkt {L : Ledger} {s : State} (pk : Nat) (f : Pkt → Pkt) (hs : L.Keeps s) : L.Keeps (s.modPkt pk f) := by
  unfold State.modPkt
  split
  · exact led_of hs rfl rfl rfl
  · exact hs

theorem led_kick {L : Ledger} {s : State} (d : Nat) (hs : L.Keeps s) : L.Keeps (s.kick d) := by
  unfold State.kick
  exact led_if hs (led_due _ hs)

theorem led_kickAll {L : Ledger} {s : State} (q : Queue) (hs : L.Keeps s) : L.Keeps (s.kickAll q) := by
  unfold State.kickAll
  refine led_foldl ?_ hs _
  intro t a ht
  exact led_kick _ ht

theorem led_status {L : Ledger} {s : State} (q code reason die seq inst detail : Nat) (hs : L.Keeps s) :
    L.Keeps (s.status q code reason die seq inst detail) := by
  unfold State.status
  split
  · exact hs
  · refine led_if hs ?_
    extract_lets u n u1
    have hu : L.Keeps u := led_loadLines _ _ _ hs
    have hu1 : L.Keeps u1 := led_agentWrite _ _ hu
    exact led_if (led_agentWrite _ _ (led_modQueue _ _ hu)) (led_agentWrite _ _ (led_modQueue _ _ hu1))

theorem led_instStatus {L : Ledger} {s : State} (i : Nat) (code reason detail : Nat) (hs : L.Keeps s) :
    L.Keeps (s.instStatus i code reason detail) := by
  unfold State.instStatus
  split
  · split
    · exact led_status _ _ _ _ _ _ _ hs
    · exact hs
  · exact hs

theorem led_addEntry {L : Ledger} {s : State} (qid d : Nat) (e : Entry) (ahead : Bool) (hs : L.Keeps s) : L.Keeps (s.addEntry qid d e ahead) := by
  unfold State.addEntry
  split
  · exact hs
  · extract_lets k share later
    exact led_kick _ (led_modPart _ _ _ hs)

theorem led_accept {L : Ledger} {s : State} (qid : Nat) (q : Queue) (d slot : Nat) (m : Image) (hs : L.Keeps s) :
    L.Keeps (s.accept qid q d slot m) := by
  unfold State.accept
  extract_lets p pk pkt _ u u1 u2
  have hu : L.Keeps u := led_of hs rfl rfl rfl
  have hu1 : L.Keeps u1 := led_modPart _ _ _ hu
  have hu2 : L.Keeps u2 := led_agentWrite _ _ hu1
  exact led_if (led_kick _ hu2) (led_addEntry _ _ _ _ hu2)

theorem led_setRecord {L : Ledger} {s : State} (pa st link : Nat) (hs : L.Keeps s) : L.Keeps (setRecord s pa st link) := by
  unfold setRecord
  exact led_agentWrite _ _ hs

theorem led_takeParked {L : Ledger} (qid : Nat) (q : Queue) (d slot : Nat) (l : List Nat) {s : State} (hs : L.Keeps s) :
    L.Keeps (State.takeParked qid q d slot l s) := by
  induction l generalizing s with
  | nil => exact led_modPart _ _ _ hs
  | cons pa rest ih =>
    unfold State.takeParked
    split
    · split
      next t _ e =>
        have ht : L.Keeps t := led_fst e (led_free hs)
        exact ih (led_setRecord _ _ _ (led_status _ _ _ _ _ _ _ ht))
    · exact led_setRecord _ _ _ (led_accept _ _ _ _ _ (led_modPart _ _ _ hs))

theorem led_slotFrees {L : Ledger} {s : State} (qid d slot : Nat) (hs : L.Keeps s) : L.Keeps (s.slotFrees qid d slot) := by
  unfold State.slotFrees
  split
  · exact hs
  · extract_lets u
    have hu : L.Keeps u := led_modPart _ _ _ hs
    exact led_kick _ (led_takeParked _ _ _ _ _ hu)

theorem led_checkEmpty {L : Ledger} {s : State} (qid : Nat) (hs : L.Keeps s) : L.Keeps (s.checkEmpty qid) := by
  unfold State.checkEmpty
  split
  · exact led_if (led_due _ hs) hs
  · exact hs

theorem led_endPacket {L : Ledger} {s : State} (pk : Nat) (hs : L.Keeps s) : L.Keeps (s.endPacket pk) := by
  unfold State.endPacket
  split
  · exact hs
  · split
    · exact hs
    · refine led_if hs ?_
      split
      next t _ e2 =>
        have ht : L.Keeps t := led_fst e2 (led_ifPair hs (led_fireOnce _ _ hs))
        extract_lets u u1 _ u2 u3
        have hu : L.Keeps u := led_if ht (led_status _ _ _ _ _ _ _ ht)
        have hu1 : L.Keeps u1 := by
          dsimp only [u1]
          split
          · exact led_status _ _ _ _ _ _ _ hu
          · exact hu
        have hu2 : L.Keeps u2 := led_if (led_due _ (led_modPkt _ _ hu1)) (led_of hu1 rfl rfl rfl)
        have hu3 : L.Keeps u3 := led_if (led_slotFrees _ _ _ hu2) hu2
        exact led_checkEmpty _ (led_kickAll _ hu3)

theorem led_checkDone {L : Ledger} {s : State} (pk : Nat) (hs : L.Keeps s) : L.Keeps (s.checkDone pk) := by
  unfold State.checkDone
  split
  · exact led_if (led_endPacket _ hs) hs
  · exact hs

theorem led_dropSlices {L : Ledger} {s : State} (pk n : Nat) (hs : L.Keeps s) : L.Keeps (s.dropSlices pk n) := by
  unfold State.dropSlices
  exact led_if hs (led_checkDone _ (led_modPkt _ _ hs))

theorem led_copyRecord {L : Ledger} {s : State} (c : Copy) (code : Nat) (hs : L.Keeps s) : L.Keeps (s.copyRecord c code) := by
  unfold State.copyRecord
  split
  · exact led_status _ _ _ _ _ _ _ hs
  · exact hs

theorem led_abandonCopies {L : Ledger} {s : State} (code : Nat) (hit : Copy → Bool) (hs : L.Keeps s) : L.Keeps (s.abandonCopies code hit) := by
  unfold State.abandonCopies
  refine led_foldl ?_ hs _
  intro t a ht
  exact led_dropCopy _ (led_copyRecord _ _ ht)

theorem led_endCopies {L : Ledger} {s : State} (i code : Nat) (hs : L.Keeps s) : L.Keeps (s.endCopies i code) := by
  unfold State.endCopies
  exact led_abandonCopies _ _ hs

theorem led_clearMode {L : Ledger} {s : State} (ci : Nat) (hs : L.Keeps s) : L.Keeps (s.clearMode ci) := by
  unfold State.clearMode
  exact led_if (led_modCore _ _ hs) hs

theorem led_freeHart {L : Ledger} {s : State} (h : Nat) (hs : L.Keeps s) : L.Keeps (s.freeHart h) := by
  unfold State.freeHart
  extract_lets ci u u1 u2 _ u3
  have hu : L.Keeps u := led_dropGrant _ (led_killBlocks _ hs)
  have hu1 : L.Keeps u1 := led_if (led_matRelease _ hu) hu
  have hu2 : L.Keeps u2 := led_modHart _ _ (led_drain _ hu1)
  have hu3 : L.Keeps u3 := led_of hu2 rfl rfl rfl
  exact led_kick _ (led_clearMode _ hu3)

theorem led_freeSave {L : Ledger} {s : State} (i : Nat) (hs : L.Keeps s) : L.Keeps (s.freeSave i) := by
  unfold State.freeSave
  split
  · split
    · exact led_modQueue _ _ hs
    · exact hs
  · exact hs

theorem led_checkBars {L : Ledger} {s : State} (pk : Nat) (hs : L.Keeps s) : L.Keeps (s.checkBars pk) := by
  unfold State.checkBars
  split
  · exact led_due _ hs
  · exact hs

theorem led_unreserve {L : Ledger} {s : State} (i : Nat) (hs : L.Keeps s) : L.Keeps (s.unreserve i) := by
  unfold State.unreserve
  split
  · exact led_modMat _ _ hs
  · exact hs

theorem led_closeInst {L : Ledger} {s : State} (i code : Nat) (hs : L.Keeps s) : L.Keeps (s.closeInst i code) := by
  unfold State.closeInst
  extract_lets u hart _ _ u1
  have hu : L.Keeps u := led_unreserve _ (led_freeSave _ (led_endCopies _ _ hs))
  have hu1 : L.Keeps u1 := led_of hu rfl rfl rfl
  clear_value hart
  split
  · exact led_freeHart _ hu1
  · exact hu1

theorem led_endInst {L : Ledger} {s : State} (i : Nat) (good : Bool) (code : Nat) (hs : L.Keeps s) : L.Keeps (s.endInst i good code) := by
  unfold State.endInst
  split
  · exact hs
  · extract_lets u u1
    have hu : L.Keeps u := led_closeInst _ _ hs
    have hu1 : L.Keeps u1 := led_modPkt _ _ hu
    exact led_kick _ (led_kick _ (led_checkDone _ (led_checkBars _ hu1)))

theorem led_loseInst {L : Ledger} {s : State} (i code reason detail : Nat) (hs : L.Keeps s) : L.Keeps (s.loseInst i code reason detail) := by
  unfold State.loseInst
  exact led_endInst _ _ _ (led_instStatus _ _ _ _ hs)

theorem led_dropEntry {L : Ledger} {s : State} (d : Nat) (e : Entry) (code : Nat) (hs : L.Keeps s) : L.Keeps (s.dropEntry d e code) := by
  unfold State.dropEntry
  split
  · exact hs
  · refine led_if (led_dropSlices _ _ hs) ?_
    split
    · extract_lets sh
      exact led_dropSlices _ _ (led_modPkt _ _ hs)
    · exact led_if (led_endInst _ _ _ hs) (led_dropSlices _ _ hs)

end Sys2Proof.Machine
end

section
/-! PROOF. The ledger through the operations of Machine/CohEv.lean. -/

namespace Sys2Proof.Machine

theorem led_lostDirty {L : Ledger} {s : State} (l : Nat) (hs : L.Keeps s) : L.Keeps (s.lostDirty l) := by
  unfold State.lostDirty
  exact led_errorRecord _ (led_loseDirty _ hs)

theorem led_voidCopy {L : Ledger} {s : State} (n l : Nat) (hs : L.Keeps s) : L.Keeps (s.voidCopy n l) := by
  unfold State.voidCopy
  extract_lets dirty u
  have hu : L.Keeps u := led_setNs _ _ _ (led_dropCopies _ _ hs)
  exact led_if (led_lostDirty _ hu) hu

theorem led_severTxn {L : Ledger} {s : State} (gone : Nat → Bool) (l : Nat) (hs : L.Keeps s) : L.Keeps (s.severTxn gone l) := by
  unfold State.severTxn
  split
  · exact hs
  · extract_lets _ put a
    have hput : ∀ (t : Txn), L.Keeps (put t) := by
      intro t
      dsimp only [put]
      exact led_of hs rfl rfl rfl
    split
    · exact led_if (led_homeFree _ (led_setDir _ _ (led_endTxn _ hs))) (hput _)
    · exact led_if (led_homeRdata _ _ _ _ (hput _)) (hput _)
    · exact led_if (led_homeIack _ _ (hput _)) (hput _)
    · exact hput _

end Sys2Proof.Machine
end

section
/-! PROOF. The ledger through the operations of Machine/Save.lean. -/

namespace Sys2Proof.Machine

theorem led_loseHart {L : Ledger} {s : State} (h code reason : Nat) (pc : Word) (hs : L.Keeps s) : L.Keeps (s.loseHart h code reason pc) := by
  unfold State.loseHart
  split
  · exact led_loseInst _ _ _ _ hs
  · exact led_freeHart _ hs

end Sys2Proof.Machine
end

section
/-! PROOF. The ledger through the operations of Machine/Mgmt.lean. -/

namespace Sys2Proof.Machine

theorem led_resetCore {L : Ledger} {s : State} (ci : Nat) (hs : L.Keeps s) : L.Keeps (s.resetCore ci) := by
  unfold State.resetCore
  extract_lets ls u lo _ u1 u2
  have hu : L.Keeps u := by
    refine led_foldl ?_ hs _
    intro t a ht
    extract_lets u3
    have hu3 : L.Keeps u3 := led_settle _ _ ht
    exact led_settle _ _ (led_l1dEvict _ _ (led_dropVector _ _ hu3))
  have hu1 : L.Keeps u1 := led_of hu rfl rfl rfl
  have hu2 : L.Keeps u2 := led_modCore _ _ hu1
  exact led_tlbDrop _ hu2

theorem led_loseDieTasks {L : Ledger} {s : State} (d : Nat) (hs : L.Keeps s) : L.Keeps (s.loseDieTasks d) := by
  unfold State.loseDieTasks
  extract_lets runs u ents u1 _
  have hu : L.Keeps u := by
    refine led_foldl ?_ hs _
    intro t a ht
    split
    next t1 _ e =>
      have ht1 : L.Keeps t1 := led_fst e (led_free ht)
      exact led_loseInst _ _ _ _ ht1
  have hu1 : L.Keeps u1 := by
    refine led_foldl ?_ hu _
    intro t2 a1 ht2
    exact led_dropEntry _ _ _ ht2
  exact led_of hu1 rfl rfl rfl

end Sys2Proof.Machine
end

section
/-! PROOF. O59: board events and the three calls of `ecall`. -/

namespace Sys2Proof.Machine
open Sys2Proof.Claims

/-! ### The ledger's parts -/

section
variable {L : Ledger} {s : State}

theorem Ledger.Keeps.part_eq (h : L.Keeps s) : s.part = L.part := h.1
theorem Ledger.Keeps.severed_eq (h : L.Keeps s) : s.coh.severed = L.severed := h.2.1
theorem Ledger.Keeps.dram_eq (h : L.Keeps s) : s.mgmt.dram = L.dram := h.2.2.1
theorem Ledger.Keeps.tripped_eq (h : L.Keeps s) : s.mgmt.tripped = L.tripped := h.2.2.2.1
theorem Ledger.Keeps.logn_le (h : L.Keeps s) : L.logn ≤ s.mgmt.logn := h.2.2.2.2

theorem led_laneStop (h : Nat) (b : Biq) (hs : L.Keeps s) : L.Keeps (s.laneStop h b) := by
  unfold State.laneStop
  exact led_if (led_loseHart _ _ _ _ hs) (led_modHart _ _ hs)

end

/-! ### Lane checks (R512) -/

theorem logn_laneError (s : State) (h lg lane elem : Nat) (b : Biq) : (s.laneError h lg lane elem b).mgmt.logn = s.mgmt.logn + 1 := by
  unfold State.laneError
  exact (errorRecord_keeps s.free.1 _).2.2

theorem exec_laneCheckFail_idle {s : State} {h lg lane elem : Nat} (hev : s.ev = .laneCheckFail h lg lane elem) (hb : (s.hart h).running = none) :
    exec .laneCheckFail s = .next s := by
  show execLaneCheckFail s = _
  rw [execLaneCheckFail, hev]
  dsimp only
  rw [hb]

theorem exec_laneCheckFail_of_running {s : State} {h lg lane elem : Nat} {b : Biq} (hev : s.ev = .laneCheckFail h lg lane elem)
    (hb : (s.hart h).running = some b) :
    exec .laneCheckFail s = .next (((s.laneError h lg lane elem b).laneStop h b).quarantine (coreOf h) 4 (some h)) := by
  show execLaneCheckFail s = _
  rw [execLaneCheckFail, hev]
  dsimp only
  rw [hb]

/-- A failed lane check adds a record, and nothing after it takes one away (R510, R512). -/
theorem logn_laneCheckFail (s : State) (h lg lane elem : Nat) (b : Biq) :
    s.mgmt.logn < (((s.laneError h lg lane elem b).laneStop h b).quarantine (coreOf h) 4 (some h)).mgmt.logn := by
  have hkept := (led_quarantine (coreOf h) 4 (some h) (led_laneStop h b (ledger_keeps (s.laneError h lg lane elem b)))).logn_le
  have hlogged : s.mgmt.logn < (s.laneError h lg lane elem b).mgmt.logn := by
    rw [logn_laneError]
    exact Nat.lt_succ_self _
  exact Nat.lt_of_lt_of_le hlogged hkept

/-! ### Self-tests (R514) -/

theorem cores_testRecord (s : State) (ci mask : Nat) : (s.testRecord ci mask).cores = s.cores := by
  rw [State.testRecord, cores_hostEvent, cores_errorRecord]

theorem logn_testRecord (s : State) (ci mask : Nat) : (s.testRecord ci mask).mgmt.logn = s.mgmt.logn + 1 := by
  rw [State.testRecord, (hostEvent_keeps _ _ _ _ _ _).2.2, (errorRecord_keeps _ _).2.2]

theorem finishTest_keeps (s : State) (ci mask : Nat) (last : List Nat) :
    ((s.finishTest ci mask last).core ci).selftest = false ∧ (s.finishTest ci mask last).mgmt.logn = s.mgmt.logn := by
  unfold State.finishTest
  extract_lets u half _ v _
  have hu : (u.core ci).selftest = false :=
    congrArg Core.selftest (State.core_modCore_self s ci fun c => { c with lanedis := c.lanedis ||| BitVec.ofNat 64 (maskOf last), selftest := false })
  split
  · exact ⟨hu, rfl⟩
  · exact ⟨(congrArg Core.selftest (State.core_modCore_self v ci fun c => { c with quar := false })).trans hu, rfl⟩

theorem core_answers (l : List MCmd) (s : State) (mask ci : Nat) : (l.foldl (fun s c => s.answer c stOk mask) s).core ci = s.core ci :=
  foldl_keep (fun t : State => t.core ci) _ (fun t c => answer_keep (fun t : State => t.core ci) (fun _ _ h => State.core_of_sansCoh h ci)
    (fun _ _ => rfl) (fun _ _ _ => rfl) t c stOk mask 0) l s

theorem mgmt_answers (l : List MCmd) (s : State) (mask : Nat) : (l.foldl (fun s c => s.answer c stOk mask) s).mgmt = s.mgmt :=
  foldl_keep State.mgmt _ (fun t c => answer_keep State.mgmt (fun _ _ h => State.mgmt_of_sansCoh h) (fun _ _ => rfl) (fun _ _ _ => rfl) t c
    stOk mask 0) l s

theorem mgmt_kick (s : State) (d : Nat) : (s.kick d).mgmt = s.mgmt := by
  rw [State.kick]
  split <;> rfl

theorem exec_selftestDone_of_ev {s : State} {ci : Nat} {fails lanes : List Nat} (hev : s.ev = .selftestDone ci fails lanes) :
    exec .selftestDone s =
      if 512 ≤ ci || !(s.core ci).quar then .next s
      else if !(s.busyHarts ci).isEmpty then .next (s.due [.selftestDone ci fails lanes])
      else
        let u := s.resetCore ci
        let last := u.lastingLanes ci lanes
        let mask := passMask fails last
        let v := ((u.noteTransient ci lanes).finishTest ci mask last).testRecord ci mask
        .next (((v.testers ci).foldl (fun s c => s.answer c stOk mask) v).kick (dieOf ci)) := by
  show execSelftestDone s = _
  rw [execSelftestDone, hev]

/-- The end of a test on a quarantined core without busy harts ends the test and is logged. -/
theorem selftestDone_ends {s : State} {ci : Nat} {fails lanes : List Nat} (hev : s.ev = .selftestDone ci fails lanes) (hci : ci < 512)
    (hq : (s.core ci).quar = true) (hb : s.busyHarts ci = []) : ∃ t : State, exec .selftestDone s = .next t ∧ (t.core ci).selftest = false ∧
      s.mgmt.logn < t.mgmt.logn := by
  have hexec := exec_selftestDone_of_ev hev
  rw [if_neg (by simp [hq, Nat.not_le.mpr hci]), if_neg (by simp [hb])] at hexec
  refine ⟨_, hexec, ?_, ?_⟩
  · rw [core_kick, core_answers, State.core, cores_testRecord]
    exact (finishTest_keeps _ _ _ _).1
  · rw [mgmt_kick, mgmt_answers, logn_testRecord, (finishTest_keeps _ _ _ _).2]
    exact Nat.lt_succ_of_le (led_resetCore ci (ledger_keeps s)).logn_le

/-! ### Package reset (R508, R517) -/

theorem memGet_filter_of_not {p : Host.Cell → Bool} (m : List Host.Cell) {a : Nat} (h : ∀ b, p (a, b) = false) : memGet (m.filter p) a = 0 := by
  have hnone : (m.filter p).lookup a = none := by
    rw [List.lookup_eq_none_iff]
    intro c hc
    obtain ⟨-, hp⟩ := List.mem_filter.mp hc
    refine Classical.byContradiction fun hca => ?_
    have : a = c.1 := by simpa using hca
    subst this
    exact absurd hp (by rw [h c.2]; simp)
  rw [memGet, hnone]
  rfl

theorem memGet_outsideMem (m : List Host.Cell) {a : Nat} (h : a < 0x100000000000) : memGet (outsideMem m) a = 0 :=
  memGet_filter_of_not m fun b => by simp [Nat.not_le.mpr h]

/-- What bring-up leaves of the state after power-on. -/
theorem bringUp_keeps (s : State) : s.bringUp.part = s.part ∧ s.bringUp.harts = s.harts ∧ s.bringUp.cores = s.cores ∧ s.bringUp.tqe = s.tqe ∧
    s.bringUp.coh = s.coh ∧ s.bringUp.guest = s.guest ∧ s.bringUp.mem = s.mem := by
  unfold State.bringUp
  split <;> exact ⟨rfl, rfl, rfl, rfl, rfl, rfl, rfl⟩

theorem trained_iff (s : State) : s.trained = true ↔ ∀ d, d < s.dies → s.gddr d ≠ 0 := by
  simp [State.trained]

theorem fe_bringUp (s : State) : s.bringUp.fe.state =
    if s.mgmt.images.length = 2 ∧ (∀ b ∈ s.mgmt.images, s.imageOk b = true) ∧ ∀ d, d < s.dies → s.gddr d ≠ 0 then 2 else 3 := by
  have hcond : (decide (s.mgmt.images.length = 2) && s.mgmt.images.all s.imageOk && s.trained) = true ↔
      s.mgmt.images.length = 2 ∧ (∀ b ∈ s.mgmt.images, s.imageOk b = true) ∧ ∀ d, d < s.dies → s.gddr d ≠ 0 := by
    rw [← trained_iff, ← List.all_eq_true, Bool.and_eq_true, Bool.and_eq_true, decide_eq_true_iff, and_assoc]
  rw [State.bringUp]
  split
  next h => exact (if_pos (hcond.mp h)).symm
  next h => exact (if_neg fun k => h (hcond.mpr k)).symm

/-! ### Die reset (R398, R517) -/

theorem gddr_of_ledger {s t : State} (h : s.ledger.Keeps t) (d : Nat) : t.gddr d = s.gddr d := by
  rw [State.gddr, State.gddr, State.dies, State.dies, h.part_eq, h.dram_eq]
  rfl

theorem severed_resetDie (s : State) (d : Nat) : d ∈ (s.resetDie d).coh.severed ↔ d ∈ s.coh.severed ∧ s.gddr d = 0 := by
  have hled := led_loseDieTasks d (ledger_keeps s)
  have hsev : (s.resetDie d).coh.severed = (s.loseDieTasks d).coh.severed.filter fun x => x != d || (s.loseDieTasks d).gddr d == 0 := rfl
  rw [hsev, hled.severed_eq, gddr_of_ledger hled]
  simp [State.ledger]

theorem hart_resetDie (s : State) {d h : Nat} (hd : hartDie h = d) : (s.resetDie d).hart h = Hart.init := by
  show tget Hart.init ((s.loseDieTasks d).harts.filter fun e => hartDie e.1 != d) h = _
  rw [tget_filter_key Hart.init (fun k => hartDie k != d), hd, if_neg (by simp)]

/-! ### Clock and temperature (R522) -/

theorem cclk_setCclk_self (s : State) (d mhz : Nat) : (s.setCclk d mhz).cclk d = mhz := by
  simp [State.cclk, State.setCclk]

theorem cclk_setCclk_ne (s : State) {d e : Nat} (mhz : Nat) (h : e ≠ d) : (s.setCclk d mhz).cclk e = s.cclk e := by
  simp [State.cclk, State.setCclk, tget_tset, h]

theorem tripped_sever (s : State) (d : Nat) : (s.sever d).mgmt.tripped = s.mgmt.tripped := by
  unfold State.sever
  extract_lets lost _ u1 u2 u3 u4 dir rc _ _ u5
  have h2 : u1.ledger.Keeps u2 := led_foldl (fun t l ht => led_lostDirty l ht) (ledger_keeps u1) _
  have h3 : u1.ledger.Keeps u3 := led_foldl (fun t k ht => led_voidCopy _ _ ht) h2 _
  have h4 : u1.ledger.Keeps u4 := led_foldl (fun t l ht => led_severTxn _ l ht) h3 _
  have h5 : u1.ledger.Keeps u5 := led_of h4 rfl rfl rfl
  exact (led_errorRecord _ h5).tripped_eq

theorem exec_thermtrip_of_ev {s : State} {d : Nat} (hev : s.ev = .thermtrip d) : exec .thermtrip s =
    if d < s.dies && !s.mgmt.tripped.contains d then
      let u := s.errorRecord { code := 0x21, sev := 2, unit := 12, die := d, detail := d }
      let v : State := { u with mgmt := { u.mgmt with tripped := d :: u.mgmt.tripped } }
      .next (if v.coh.severed.contains d then v else v.sever d)
    else .next s := by
  show execThermtrip s = _
  rw [execThermtrip, hev]

theorem thermtrip_again {s : State} {d : Nat} (hev : s.ev = .thermtrip d) (h : s.dies ≤ d ∨ d ∈ s.mgmt.tripped) :
    exec .thermtrip s = .next s := by
  rw [exec_thermtrip_of_ev hev]
  refine if_neg ?_
  rcases h with h | h
  · simp [Nat.not_lt.mpr h]
  · simp [h]

theorem thermtrip_trips {s : State} {d : Nat} (hev : s.ev = .thermtrip d) (hd : d < s.dies) (hnew : d ∉ s.mgmt.tripped) : ∃ t : State,
    exec .thermtrip s = .next t ∧ d ∈ t.mgmt.tripped ∧ d ∈ t.coh.severed := by
  have hexec := exec_thermtrip_of_ev hev
  rw [if_pos (by simp [hd, hnew])] at hexec
  extract_lets u _ v at hexec
  have hv : d ∈ v.mgmt.tripped := List.mem_cons_self
  refine ⟨_, hexec, ?_⟩
  split
  next h => exact ⟨hv, by simpa using h⟩
  · exact ⟨by rw [tripped_sever]; exact hv, (sever_keeps v d).1⟩

/-! ### The calls of `ecall` (R504) -/

/-- A call whose command address answers INVALID: misaligned, or without room in GDDR7 for command and response. -/
def State.EcallBad (s : State) : Prop :=
  (s.x 10).toNat % 128 ≠ 0 ∨ (∀ d, s.backing (s.x 10).toNat ≠ .gddr d) ∨ ∀ d, s.backing ((s.x 10).toNat + 0x80) ≠ .gddr d

theorem ecallSend_cases (s : State) (wait : Bool) :
    (s.EcallBad → s.ecallSend wait = .next (s.retireX 10 1)) ∧
    (¬ s.EcallBad → 320 ≤ s.fe.cmds.length → s.ecallSend wait = .next (s.wait .commands)) ∧
    (¬ s.EcallBad → s.fe.cmds.length < 320 → (s.loadLines noNode (s.x 10).toNat 128).poisoned (s.x 10).toNat 128 = false →
      s.ecallSend wait =
        let u := s.loadLines noNode (s.x 10).toNat 128
        let c := parseCmd (memBytes u.mem (s.x 10).toNat 128) 256 (s.x 10).toNat (if wait then some u.cur else none)
        if wait then .next ((u.wait .submit).enqueue c) else .next ((u.retireX 10 0).enqueue c)) := by
  unfold State.ecallSend
  extract_lets pa gddr u c
  have hgddr : ∀ a, gddr a = true ↔ ∃ d, s.backing a = .gddr d := by
    intro a
    dsimp only [gddr]
    cases s.backing a <;> simp
  have hbad : s.EcallBad ↔ (decide (pa % 128 ≠ 0) || !(gddr pa && gddr (pa + 0x80))) = true := by
    rw [State.EcallBad, Bool.or_eq_true, decide_eq_true_iff, Bool.not_eq_true', Bool.and_eq_false_iff, ← Bool.not_eq_true, ← Bool.not_eq_true,
      hgddr pa, hgddr (pa + 0x80), not_exists, not_exists]
  refine ⟨fun h => if_pos (hbad.mp h), fun h hfull => ?_, fun h hroom hclean => ?_⟩
  · rw [if_neg fun k => h (hbad.mpr k), if_pos hfull]
  · rw [if_neg fun k => h (hbad.mpr k), if_neg (Nat.not_le.mpr hroom), if_neg (Bool.eq_false_iff.mp hclean)]
    rfl

theorem ecallIs_iff (s : State) (n : Nat) :
    s.ecallIs n = true ↔ s.me.priv = .s ∧ (s.x 17).toNat = 0x0B500000 ∧ (s.x 16).toNat = n := by
  rw [State.ecallIs, Bool.and_eq_true, Bool.and_eq_true, beq_iff_eq, beq_iff_eq, beq_iff_eq, and_assoc]

theorem ecallIs_false {s : State} {n : Nat} (h : ¬ (s.me.priv = .s ∧ (s.x 17).toNat = 0x0B500000 ∧ (s.x 16).toNat = n)) :
    s.ecallIs n = false := Bool.eq_false_iff.mpr fun k => h ((ecallIs_iff s n).mp k)

/-- No call that the front end serves is the call's own. -/
theorem exec_ecall_other {s : State} (h : ∀ n, n ≤ 2 → s.ecallIs n = false) :
    ∀ i ∈ [Instr.ecallSubmit, .ecallPost, .ecallReport], exec i s = .next s.ecallOther := by
  have hskip : ∀ n, n ≤ 2 → (!s.ecallIs n) = true := fun n hn => by rw [h n hn]; rfl
  refine List.forall_mem_cons.mpr ⟨if_pos (hskip 0 (by decide)), List.forall_mem_cons.mpr ⟨if_pos (hskip 1 (by decide)),
    List.forall_mem_cons.mpr ⟨if_pos (hskip 2 (by decide)), List.forall_mem_nil _⟩⟩⟩

theorem ecall_elsewhere (s : State) : ∀ i ∈ [Instr.ecallSubmit, .ecallPost, .ecallReport],
    (s.me.priv = .u → exec i s = .next (s.except 8 0)) ∧ (s.me.priv = .m → exec i s = .next (s.except 11 0)) ∧
    (s.me.priv = .s → (s.x 17).toNat ≠ 0x0B500000 → exec i s = .next (s.except 9 0)) ∧
    (s.me.priv = .s → (s.x 17).toNat = 0x0B500000 → 2 < (s.x 16).toNat → exec i s = .next (s.retireX 10 1)) := by
  intro i hi
  refine ⟨fun h => ?_, fun h => ?_, fun h hext => ?_, fun h hext hfn => ?_⟩
  · rw [exec_ecall_other (fun n _ => ecallIs_false fun k => absurd (h.symm.trans k.1) (by decide)) i hi, State.ecallOther, h]
  · rw [exec_ecall_other (fun n _ => ecallIs_false fun k => absurd (h.symm.trans k.1) (by decide)) i hi, State.ecallOther, h]
  · rw [exec_ecall_other (fun n _ => ecallIs_false fun k => hext k.2.1) i hi, State.ecallOther, h]
    exact congrArg _ (if_neg hext)
  · rw [exec_ecall_other (fun n hn => ecallIs_false fun k => Nat.not_lt.mpr hn (k.2.2 ▸ hfn)) i hi, State.ecallOther, h]
    exact congrArg _ (if_pos hext)

/-- A hart that goes on past its `ecall` with the answer in a0 and a1. -/
def Hart.withAnswer (x : Hart) (st r0 : Word) : Hart :=
  { (x.setX 11 r0).setX 10 st with
    pc := (x.setX 11 r0).pc + 4, wait := none, timedOut := false, csr := tset 0xB02 ((x.setX 11 r0).cs 0xB02 + 1) (x.setX 11 r0).csr }

theorem withAnswer_gives (x : Hart) (st r0 : Word) : (x.withAnswer st r0).wait = none ∧ (x.withAnswer st r0).xr 10 = st ∧
    (x.withAnswer st r0).xr 11 = r0 ∧ (x.withAnswer st r0).pc = x.pc + 4 := by
  refine ⟨rfl, ?_, ?_, ?_⟩
  · exact (Hart.xr_setX _ 10 10 st).trans rfl
  · exact (Hart.xr_setX _ 10 11 st).trans ((Hart.xr_setX x 11 11 r0).trans rfl)
  · exact congrArg (· + 4) (Hart.setX_pc x 11 r0)

theorem hart_answer_submitted (t : State) {c : MCmd} {h : Nat} (st r0 r1 : Nat) (hh : c.hart = some h) (hslot : c.slot < 256)
    (hflags : c.flags % 2 = 0) :
    (t.answer c st r0 r1).hart h = (t.hart h).withAnswer (BitVec.ofNat 64 st) (BitVec.ofNat 64 r0) := by
  unfold State.answer
  extract_lets bs _ u _ v w
  have hv : v.hart h = t.hart h := by
    dsimp only [v]
    rw [if_pos hslot]
    rfl
  have hw : w = (v.modHart h fun x => x.setX 11 (BitVec.ofNat 64 r0)).finish h 10 (BitVec.ofNat 64 st) := by
    dsimp only [w]
    rw [hh]
  rw [if_neg (by rw [hflags]; decide), hw, State.finish, State.hart_modHart_self, State.hart_modHart_self, hv]
  rfl

/-- Settles O59: the parts present, the severed dies and the log are followed through the ends of tasks by the ledger; the calls of
`ecall` are read off their definitions. -/
theorem boardEventsAndCalls : Obligations.BoardEventsAndCalls := by
  unfold Obligations.BoardEventsAndCalls
  refine ⟨?_, ?_, ?_, ?_, ?_, ?_, ?_⟩
  · intro s h lg lane elem hev
    refine ⟨exec_laneCheckFail_idle hev, fun hb => ?_⟩
    obtain ⟨b, hb⟩ := Option.ne_none_iff_exists'.mp hb
    exact ⟨_, exec_laneCheckFail_of_running hev hb, quar_quarantine .., logn_laneCheckFail s h lg lane elem b⟩
  · intro s ci fails lanes hev
    have hexec := exec_selftestDone_of_ev hev
    refine ⟨fun h => ?_, fun hci hq hbusy => ?_, fun hci hq hidle => selftestDone_ends hev hci hq hidle⟩
    · exact hexec.trans (if_pos (by simpa using h))
    · rw [hexec, if_neg (by simp [hq, Nat.not_le.mpr hci]), if_pos (by simpa using hbusy)]
  · intro s hev
    have hexec : exec .packageReset s = .next s.power.bringUp := by
      show execPackageReset s = _
      rw [execPackageReset, hev]
    obtain ⟨hpart, hharts, hcores, htqe, hcoh, hguest, hmem⟩ := bringUp_keeps s.power
    refine ⟨_, hexec, hpart, hharts, hcores, congrArg Tqe.queues htqe, congrArg Coh.dir hcoh, congrArg GuestSt.state hguest, ?_,
      fe_bringUp s.power⟩
    intro a ha
    rw [hmem]
    exact memGet_outsideMem s.mem ha
  · intro s d hev
    have hexec : exec .dierst s = .next (if s.coh.severed.contains d then s.resetDie d else s) := by
      show execDierst s = _
      rw [execDierst, hev]
    refine ⟨fun h => hexec.trans (congrArg _ (if_neg (by simpa using h))), fun h => ?_⟩
    rw [if_pos (by simpa using h)] at hexec
    exact ⟨_, hexec, (severed_resetDie s d).trans (and_iff_right h), fun _ hd => hart_resetDie s hd⟩
  · intro s hev
    have hexec : exec .gstrst s = .next (if s.gbnd then s.loseGuest 0 else { s with guest := { s.guest with state := 0 } }) := by
      show execGstrst s = _
      rw [execGstrst, hev]
    exact ⟨fun h => hexec.trans (congrArg _ (if_pos h)),
      fun h => ⟨_, hexec.trans (congrArg _ (if_neg (Bool.eq_false_iff.mp h))), rfl, rfl, rfl⟩⟩
  · intro s w d
    refine ⟨fun hev => ?_, fun hev => ?_, fun hev => ?_, fun hev => ⟨thermtrip_again hev, thermtrip_trips hev⟩, fun hev => ?_⟩
    · have hexec : exec .plimSet s = .next (if 600 ≤ w ∧ w ≤ 1800 then { s with mgmt := { s.mgmt with plim := w } } else s) := by
        show execPlimSet s = _
        rw [execPlimSet, hev]
      refine ⟨_, hexec, ?_, ?_⟩
      · split <;> rfl
      · split <;> rfl
    · have hexec : exec .thermalThrottle s = .next (s.setCclk d (Nat.max 1000 (s.cclk d - 100))) := by
        show execThermalThrottle s = _
        rw [execThermalThrottle, hev]
      exact ⟨_, hexec, cclk_setCclk_self .., rfl, fun e he => cclk_setCclk_ne s _ he⟩
    · have hexec : exec .throttleRecover s = .next (s.setCclk d (Nat.min 2000 (s.cclk d + 100))) := by
        show execThrottleRecover s = _
        rw [execThrottleRecover, hev]
      exact ⟨_, hexec, cclk_setCclk_self .., rfl⟩
    · have hexec : exec .spdmRequest s = .next (if 1 ≤ w ∧ w ≤ 5 then s.toHost [8, w, s.measurement w] else s) := by
        show execSpdmRequest s = _
        rw [execSpdmRequest, hev]
      refine ⟨fun h1 h5 => ⟨_, hexec.trans (congrArg _ (if_pos ⟨h1, h5⟩)), rfl, rfl⟩, fun h => hexec.trans (congrArg _ (if_neg ?_))⟩
      omega
  · intro s pa call bad u
    obtain ⟨hposted, hfull, hgoes⟩ := ecallSend_cases s false
    obtain ⟨hposted', hfull', hgoes'⟩ := ecallSend_cases s true
    refine ⟨ecall_elsewhere s, fun hc => ?_, ?_, fun hc => ?_, fun hc => ?_⟩
    · have hexec : exec .ecallSubmit s = if s.me.wait = some .submit then .next s else s.ecallSend true := by
        show execEcallSubmit s = _
        rw [execEcallSubmit, if_neg (by rw [(ecallIs_iff s _).mpr hc]; decide)]
      refine ⟨fun h => hexec.trans (if_pos h), fun h hb => ?_, fun h hb hf => ?_, fun h hb hr hp => ?_⟩
      · rw [hexec, if_neg h, hposted' hb]
      · rw [hexec, if_neg h, hfull' hb hf]
      · rw [hexec, if_neg h, hgoes' hb hr hp]
        rfl
    · intro t c h st r0 r1 hh hslot hflags v
      have hv : v.hart h = _ := hart_answer_submitted t st r0 r1 hh hslot hflags
      rw [hv]
      exact withAnswer_gives _ _ _
    · have hexec : exec .ecallPost s = s.ecallSend false := by
        show execEcallPost s = _
        rw [execEcallPost, if_neg (by rw [(ecallIs_iff s _).mpr hc]; decide)]
      refine ⟨fun hb => hexec.trans (hposted hb), fun hb hf => hexec.trans (hfull hb hf), fun hb hr hp => ?_⟩
      rw [hexec, hgoes hb hr hp]
      rfl
    · have hexec : exec .ecallReport s = .next ((s.hostNote 0x48 (hartDie s.cur) (s.x 10).toNat false).retireX 10 0) := by
        show execEcallReport s = _
        rw [execEcallReport, if_neg (by rw [(ecallIs_iff s _).mpr hc]; decide)]
      refine completes_of_retireX hexec (by rw [State.me_hostNote]) ?_ ?_
      · exact hostNote_keep State.ilen (fun _ _ => rfl) (fun _ _ => rfl) (fun _ _ => rfl) ..
      · rw [State.retireX, State.me_retire, State.me_wx]
        exact (Hart.xr_setX _ 10 10 0).trans rfl

end Sys2Proof.Machine
end
